-- ==== Sys2Proof/Word.lean ====
section
/-! DEFINITION. The byte, and the few names of sizes that every layer shares. -/

namespace Sys2Proof

/-- One byte of a frame, a record, a granary or flash word (spec/00_scope.md R2). -/
abbrev Byte := BitVec 8

/-- Number of cells of a full device (R4). -/
abbrev nCells : Nat := 48

/-- Tree ticks in one millisecond (00_scope.md, "Tree time"): 20,480 tt. -/
abbrev ttMs : Nat := 20480

/-- Tree ticks in one second. -/
abbrev ttS : Nat := 20480000

end Sys2Proof
end

