-- ==== Sys2Proof/Syntax.lean ====
section
/-! DEFINITION. The commands of the block: one constructor of `Instr` per row of spec/opcode_table.json.
A row is an operation asked of ONE device (a descriptor, a register access, a debug operation), a frame or a line
event that reaches it, or an event of its own timers and engines.  What the physical world or a neighbour supplies
(converter outputs, contact levels, frames, host memory) stands in the operands. -/

namespace Sys2Proof

/-- A long frame (07_odane_link.md Table 7.3) without its two hop fields. -/
structure Frame where
  typ     : Nat
  cls     : Nat
  hasScope : Bool
  dest    : Nat
  src     : Nat
  depth   : Nat
  tag     : Nat
  payload : List Byte
deriving DecidableEq, Repr, Inhabited

/-- Where a frame came from: a port, with the hop fields HSEQ and CRIER of that hop, or the device itself (R200). -/
inductive Arrival where
  | self
  | port (p : Nat) (hseq : Nat) (crier : Bool)
deriving DecidableEq, Repr, Inhabited

/-- One step of a job program (06 Table 6.2). -/
structure PStep where
  op   : Nat
  mode : Nat
  aux  : Nat
  p1   : Int
  p2   : Int
deriving DecidableEq, Repr, Inhabited

/-- A job program (06 Table 6.2). -/
structure Prog where
  source : Nat
  field  : Nat
  skip   : Nat
  steps  : Nat
  select : Nat
  step1  : PStep
  step2  : PStep
deriving DecidableEq, Repr, Inhabited

/-- An exposure plan (06 Table 6.7). -/
structure Plan where
  corner  : Nat
  trigger : Nat
  channel : Nat
  options : Nat
  n       : Nat
  pre     : Nat
  level   : Int
  time    : Nat
deriving DecidableEq, Repr, Inhabited

/-- The header of a descriptor (09 Table 9.8), with the submission ring it was fetched from. -/
structure Hdr where
  ring    : Nat
  cid     : Nat
  flags   : Nat
  pos     : Nat
  depth   : Nat
  pool    : Nat
  timeout : Nat
deriving DecidableEq, Repr, Inhabited

/-- A read error met while an area is read (16 R408). -/
inductive ReadErr where
  | none
  | corrected (n : Nat)
  | uncorrectable
deriving DecidableEq, Repr, Inhabited

/-- The Grenpa wire from one reset sequence on (15 R390, R391): a code of Table 15.4 that the master meets on the line (1 or 2;
0 none) and after how many of the cells that follow the reset (none: before the reset is over), whether the presence sample is
low, and of each read cell that one named accessory answers in, whether the early and whether the late sample is low.  Cells
beyond the list read EMPTY. -/
structure WireTry where
  fault    : Nat
  after    : Option Nat
  presence : Bool
  cells    : List (Bool × Bool)
deriving DecidableEq, Repr, Inhabited

/-- The Grenpa wire and its accessories during one bus operation (15).  `tries` are its reset sequences in order: the attempts
of a READ, WRITE or CONVERT; of a SEARCH the lottery and the confirmation pass.  `ids` are the accessories that saw the
lottery's reset; `leaves` gives (round, ID, cells) of those that leave during their own readout after that many cells; `noise`
the samples of the 56 cells of a readout, by round and slot, where they are not what the accessories of the slot send;
`confirm` the samples of the answer cells of each CONFIRM, by ID. -/
structure WireBus where
  tries   : List WireTry
  ids     : List Nat
  leaves  : List (Nat × Nat × Nat)
  noise   : List (Nat × Nat × List (Bool × Bool))
  confirm : List (Nat × List (Bool × Bool))
deriving DecidableEq, Repr, Inhabited

/-- What a round of descriptors meets outside host memory: the answers of the station-mounted devices to a read of FUNC1 and
FUNC2 (08 R225), the Grenpa wire of the ROOT, the bytes of a granary area and the read error of a CHECK job there. -/
structure FetchWorld where
  funcs : List (Nat × Option (Nat × Nat))
  bus   : WireBus
  bytes : List Byte
  err   : ReadErr
deriving DecidableEq, Repr, Inhabited

/-- What a descriptor asks of an addressed device (09 Table 9.9). -/
inductive Req where
  | paramRead (addr count : Nat)
  | paramWrite (addr : Nat) (data : List Nat)
  | paramWriteVerify (addr : Nat) (data : List Nat)
  | query (prog : Prog) (collector : Nat)
  | expose (plan : Plan)
  | surveyRun (t0 tag source : Nat) (ripple : Bool) (pos depth : Nat)
  | sweepTrigger (t sweep : Nat) (now : Bool)
  | topologyRead (first number : Nat)
  | renumber (funcs : List (Nat × Option (Nat × Nat)))
  | pathTest (cls times length : Nat)
  | sessionOpen (passcode : Nat)
  | sessionClose (session : Nat)
  | setPasscode (session passcode newPasscode : Nat)
  | safetyWrite (session address value old : Nat)
  | flashLoad (offset length : Nat) (piece : List Byte) (crc : Nat)
  | flashCommit (length crc : Nat)
  | logRead (log first number : Nat)
  | checkRun (unit area poly offset length expect : Nat) (bytes : List Byte) (err : ReadErr)
  | wireSearch (bus : WireBus)
  | wireReadIds
  | wireConvert (bus : WireBus)
  | wireReadMem (accessory offset length : Nat) (bus : WireBus)
  | wireWriteMem (accessory offset : Nat) (data : List Byte) (bus : WireBus)
  | nop
deriving DecidableEq, Repr, Inhabited

/-- One item of a query (06 R162). -/
structure Item where
  pos   : Nat
  index : Nat
  value : Int
  flags : Nat
deriving DecidableEq, Repr, Inhabited

/-- A partial (06 Table 6.4): what a REDUCE passes upward. -/
structure Partial where
  count : Nat
  sum   : Int
  sumsq : Nat
  min   : Int
  minAt : Nat × Nat
  max   : Int
  maxAt : Nat × Nat
  hist  : List Nat
deriving DecidableEq, Repr, Inhabited

/-- What a device or a harvest sends upward for one transaction: who answered and how, who is missing and why
(Table 8.4 reasons), and what it contributes.  The spec lays out no RESPONSE body, so it comes decoded. -/
structure Contribution where
  answers : List (Nat × Nat)
  missing : List (Nat × Nat)
  words   : List (Nat × List Nat)
  value   : Nat
  part : Option Partial
  list    : List Item
  gather  : Bool
  isList  : Bool
  members : Nat
  time    : Nat
  select  : Nat
  mixed   : Bool
  cut     : Bool
  overflow : Bool
  rejected : Option Nat
  bytes   : List Byte
deriving DecidableEq, Repr, Inhabited

/-- The content of a DATA or BULK frame (07 Table 7.4), decoded: the spec gives the records, segments and blocks,
and leaves open how they are cut into frames. A frame of a segment or block carries its next bytes; the length of a block is what
its header tells the ROOT (09 R272), and host memory as the ROOT finds it when it takes the run stands beside it. -/
inductive DataBody where
  | contribution (c : Contribution)
  | heldRecord (bytes : List Byte)
  | segment (mem : List (Nat × Byte))
  | block (length : Nat) (mem : List (Nat × Byte))
  | piece (offset : Nat) (bytes : List Byte) (last : Bool)
deriving DecidableEq, Repr, Inhabited

/-- Raw outputs of the converters at one centre tap: cell codes before the clamp, both current codes, and the
switch states filtered as R47 (0 to 65,536). -/
structure RawCodes where
  cells : List Int
  is1   : Int
  is2   : Int
  bbar  : List Nat
deriving DecidableEq, Repr, Inhabited

/-- What a frame of a tier channel carries (01 R15): the cells whose codes and the cells whose proof samples it brings, and of
the tier status (tier, slot) the slots 16 to 49 of 05 Table 5.1. -/
structure TierLoad where
  cells  : List Nat
  proofs : List Nat
  slots  : List (Nat × Nat)
deriving DecidableEq, Repr, Inhabited

/-- ADDR and CHK of a debug operation whose ADDR nothing but CHK reads (16 R422). -/
structure AddrChk where
  addr : Nat
  chk  : Nat
deriving DecidableEq, Repr, Inhabited

/-- The readings of one proof round (05 Table 5.1): cell samples in 1.5 mV LSB, mirror currents in µA, the distance
of each tier's slot-16 reading from its factory value in µV, the tier supplies VREGn in mV, tier temperatures in
0.01 °C, and whether a slot was lost. -/
structure ProofRead where
  samples : List Nat
  mirrors : List Nat
  refUv   : List Int
  vreg    : List Nat
  temps   : List Int
  lost    : Bool
deriving DecidableEq, Repr, Inhabited

/-- What steps 4 and 7 read on one tier (12 R338): slot 16 in the four proof rounds, as distances from the factory value in µV; the
four witness cross-checks, as distances from the factory ratio in 10⁻⁹; slot 18 of the last round in 0.01 °C; the one repeat of an
open-wire test: fall of cell k, rises of its neighbours, in µV. -/
structure BistTier where
  refUv  : List Int
  ppb    : List Int
  temp   : Int
  repeat_ : Int × Int × Int
deriving DecidableEq, Repr, Inhabited

/-- What steps 4–7 read at one cell (12 R338): its samples in 1.5 mV LSB and its switch's mirror in µA in the four rounds; its
converter less the witness, in 10 µV, at first and when repeated; mirror current in µA and switch voltage in µV of the on-pulse; the
open-wire test: its fall and the rises of its neighbours below and above, in µV. -/
structure BistCell where
  samples : List Nat
  mirrors : List Nat
  loop    : Int × Int
  onUa    : Nat
  onUv    : Nat
  wire    : Int × Int × Int
deriving DecidableEq, Repr, Inhabited

/-- A word of the flash that reads with an error (16 R408): area 0 or 1 a code bank, 2 the data area; the word's offset / 4; whether the
error is uncorrectable. -/
structure FlashWear where
  area : Nat
  word : Nat
  bad  : Bool
deriving DecidableEq, Repr, Inhabited

/-- What the BIST meets (12 Table 12.1): the straps and rails of SETUP, tiers whose channel does not come up and clocks that do not
start (bits of WDOG.CLOCKS); (bank, element) of reads that differ in MARCH; read errors of FLASH by area (0 code bank,
1 configuration, 2 SAFETY block); the readings of steps 4–8, with IS1 and IS2 in codes and the auxiliary code; which switches reach
their level in step 9, in the order SO1H, SO1L, SO2H, SO2L, and the contacts; the steps that do not end by themselves. -/
structure BistWorld where
  role      : Nat
  vreg      : List Bool
  vaux      : Bool
  test      : Bool
  channels  : List Nat
  clocks    : List Nat
  march     : List (Nat × Nat)
  ecc       : List (Nat × ReadErr)
  wear      : List FlashWear
  tiers     : List BistTier
  cells     : List BistCell
  is1       : Int
  is2       : Int
  aux       : Nat
  reach     : List Bool
  contacts  : List Bool
  hangs     : List Nat
deriving DecidableEq, Repr, Inhabited

/-- A PCIe configuration request (09 R253, R254, R276): a read of one word by byte address; writes of the power state, of PME
enable, of the Max Payload Size and Max Read Request Size codes, of ASPM L1, of register i of Advanced Error Reporting and of BAR0;
any other. -/
inductive CfgReq where
  | read (addr : Nat)
  | powerState (d3hot : Bool)
  | pmeEnable (on : Bool)
  | maxPayload (code : Nat)
  | maxReadRequest (code : Nat)
  | aspm (l1 : Bool)
  | errorReporting (i value : Nat)
  | barAddress (addr : Nat)
  | other
deriving DecidableEq, Repr, Inhabited

/-- A job raised on the device (06 R155). -/
inductive JobKind where
  | member | collector | lockin | delta | check | harvest | forward
deriving DecidableEq, Repr, Inhabited

/-- The commands: one constructor per row of spec/opcode_table.json, in the table's order. -/
inductive Instr where
  | descriptorFetch (mem : List (Nat × Byte)) (w : FetchWorld)
  | paramRead (h : Hdr) (addr count : Nat)
  | paramWrite (h : Hdr) (addr : Nat) (data : List Nat)
  | paramWriteVerify (h : Hdr) (addr : Nat) (data : List Nat)
  | query (h : Hdr) (prog : Prog)
  | expose (h : Hdr) (plan : Plan)
  | surveyRun (h : Hdr) (t0 tag source : Nat) (ripple : Bool)
  | sweepTrigger (h : Hdr) (t sweep : Nat) (now : Bool)
  | topologyRead (h : Hdr) (first number : Nat)
  | renumber (h : Hdr) (funcs : List (Nat × Option (Nat × Nat)))
  | pathTest (h : Hdr) (cls times length : Nat)
  | safetySessionOpen (h : Hdr) (passcode : Nat)
  | safetySessionClose (h : Hdr) (session : Nat)
  | setPasscode (h : Hdr) (session passcode newPasscode : Nat)
  | safetyWrite (h : Hdr) (session address value old : Nat)
  | flashLoad (h : Hdr) (offset : Nat) (piece : List Byte)
  | flashCommit (h : Hdr) (length crc : Nat)
  | logRead (h : Hdr) (log first number : Nat)
  | checkRun (h : Hdr) (unit area poly offset length expect : Nat) (bytes : List Byte) (err : ReadErr)
  | wireSearch (h : Hdr) (bus : WireBus)
  | wireReadIds (h : Hdr)
  | wireConvert (h : Hdr) (bus : WireBus)
  | wireReadMem (h : Hdr) (accessory offset length : Nat) (bus : WireBus)
  | wireWriteMem (h : Hdr) (accessory offset : Nat) (data : List Byte) (bus : WireBus)
  | nop (h : Hdr)
  | transactionComplete (tid : Nat) (mem : List (Nat × Byte))
  | transactionTimeout (tid : Nat)
  | interruptCoalesceTimeout (c : Nat)
  | msixVectorUnmask (v : Nat)
  | sqTailDoorbell (r tail : Nat)
  | cqHeadDoorbell (r head : Nat) (mem : List (Nat × Byte))
  | sqStart (r cq weight : Nat)
  | sqStop (r : Nat)
  | cqStart (c vector : Nat) (irqEn : Bool)
  | cqStop (c : Nat)
  | poolEnable (p listLog2 bufLog2 : Nat)
  | poolDisable (p : Nat)
  | poolTailWrite (p tail : Nat) (mem : List (Nat × Byte))
  | bar0RegisterWrite (addr size value : Nat)
  | hostReset (key : Nat)
  | linkRetrain (speed width gotSpeed gotWidth : Nat)
  | perstNAssert
  | perstNDeassert (refclk : Bool) (gotSpeed gotWidth : Nat)
  | functionLevelReset
  | hostWdStart
  | hostWdKey (key : Nat)
  | hostRollCheckin (task : Nat)
  | hostWdServeSampled
  | hostWdExpired
  | commandFrameReceive (a : Arrival) (f : Frame) (req : Req)
  | responseFrameReceive (a : Arrival) (f : Frame) (c : Contribution)
  | strobeReceive (a : Arrival) (f : Frame)
  | tripFrameReceive (a : Arrival) (f : Frame)
  | safetyFrameReceive (a : Arrival) (f : Frame)
  | pendingFrameReceive (a : Arrival) (f : Frame)
  | dataFrameReceive (a : Arrival) (f : Frame) (body : DataBody)
  | currentPublicationReceive (a : Arrival) (f : Frame)
  | creditFrameReceive (a : Arrival) (f : Frame)
  | timeSyncReceive (a : Arrival) (f : Frame) (t2 : Nat)
  | timeEchoReceive (a : Arrival) (f : Frame) (t4 : Nat)
  | trainFrameReceive (p : Nat) (crier : Bool) (f : Frame)
  | shortFrameReceive (p b0 b1 b2 : Nat)
  | condemnedFrame (p : Nat) (byte0 : Option Nat) (header : Option (Nat × Frame))
  | abortedFrameReceive (p : Nat) (crier : Bool)
  | discoverWalk (a : Arrival) (f : Frame)
  | discoverReturn (a : Arrival) (f : Frame)
  | discoverDup (a : Arrival) (f : Frame)
  | discoverReport (a : Arrival) (f : Frame)
  | discoverAssign (a : Arrival) (f : Frame)
  | discoverLost (a : Arrival) (f : Frame)
  | discoverCut (a : Arrival) (f : Frame)
  | discoverRoute (a : Arrival) (f : Frame)
  | discoverMark (a : Arrival) (f : Frame)
  | discoverAttach (a : Arrival) (f : Frame)
  | faultFrameReceive (a : Arrival) (f : Frame)
  | probeReceive (a : Arrival) (f : Frame)
  | probeAnswerReceive (a : Arrival) (f : Frame)
  | crierMessageComplete (p stamp : Nat)
  | wakeToneDetect (p : Nat) (safety : Option (Bool × Frame))
  | legacyReply (addr cmd : Nat) (data : List Byte) (crc : Nat)
  | legacyReplyTimeout
  | symbolsDetected (p : Nat)
  | trainingRateTimeout (p : Nat)
  | signalLoss (p : Nat)
  | retransmitTimeout (p : Nat) (safety : Bool)
  | shortFrameIdle (p : Nat)
  | portStart (p retryMax : Nat)
  | portStop (p : Nat)
  | portStopped (p : Nat)
  | walkStart
  | walkPortSilence
  | walkTrainingWaitEnd
  | walkPendingTimer
  | heldFramesTimeout (p : Nat)
  | takeover
  | timeSyncSend
  | holdoverTimeout
  | periodicStrobeSend
  | wakeToneSend
  | apertureOpen
  | tbiasDriveStart
  | blankingStart
  | blankingEnd
  | tierCodesAvailable (raw : RawCodes)
  | auxCodesReady (volts : List Nat) (tbias : Nat)
  | tierChannelFrameReceive (channel : Nat) (crcOk : Bool) (load : TierLoad)
  | sweepRecordComplete (temps : List Int) (frac : Int) (witness : Option Int)
  | sweepStart (source : Nat)
  | sweepStop
  | sweepStopped
  | snapshotRewrite
  | surveyStart (tag : Nat) (setBaseline : Bool)
  | surveyStop
  | surveyStopped
  | surveyRunStart
  | excitationToggle
  | lockinComplete
  | surveyRunEnd
  | baseSave
  | baseDataRead
  | baseDataWrite (v : Nat)
  | balanceStart (cont : Bool)
  | balanceStop
  | balanceStopped
  | governorSlot
  | balanceTimerExpire (cell : Nat)
  | proofRound (r : ProofRead)
  | witnessCrossCheck (tier : Nat) (ppb : Int)
  | switchOnTestStep (cell : Nat)
  | switchOnTestEnd (cell currentUa vswUv : Nat)
  | openWireTestStep (k : Nat)
  | openWireTestEnd (k : Nat) (fallUv riseBelowUv riseAboveUv : Int)
  | harnessCell (k : Nat) (below own above : Int) (bbar : Nat)
  | harnessPassComplete
  | testOverdue (check : Nat)
  | harnessNow
  | switchNow
  | tableDataRead
  | tableDataWrite (v : Nat)
  | lamplighterRound (samples : List Nat) (aux : List Nat) (again : List (Nat × List Nat))
  | jobAdmission (kind : JobKind) (key : Nat)
  | glean (g : Nat)
  | jobFinish (g : Nat) (badBank : Option Nat)
  | islandDisable (island : Nat)
  | harvestContributorTimeout (tid : Nat)
  | harvestPendingTimer (tid : Nat)
  | exposureThresholdTrip
  | exposureFreeze
  | exposureArmDeadline
  | heartbeatSend
  | unobservedTimeout
  | heartbeatTimeout (index : Nat)
  | autoArm (x : Nat)
  | siContactChange (contact : Nat) (closed : Bool)
  | discrepancyTimeout (x : Nat)
  | outputTestPulse (x : Nat)
  | outputTestPulseEnd (x : Nat) (reached : Bool)
  | stuckNodeDetect (sw : Nat)
  | sessionIdleTimeout
  | authenticationLockEnd
  | degradedAllowanceExpire
  | wdogStart
  | wdogKey (key : Nat)
  | wdogCheckin (task : Nat)
  | wdogServeSampled
  | wdogExpire
  | eraseSuspensionEnd
  | clockMonitorWindow (bit count : Nat)
  | faultCollect
  | graceExpire
  | faultAck (id : Nat)
  | checkStart (k : Nat)
  | checkStop (k : Nat)
  | checkData8 (k v : Nat)
  | checkData16 (k v : Nat)
  | checkData32 (k v : Nat)
  | checkClose (k : Nat)
  | checkOutcome (k : Nat)
  | pinReset (lowNs : Nat) (takes : Bool)
  | bistStart (w : BistWorld)
  | bistStepTimeout
  | bistEnd
  | vpwrFail
  | keepHandover (vpwrMv vresMv : Nat)
  | vpwrBelowPg
  | vpwrGood
  | keepPowerOnReset
  | vauxLoss
  | supplyOutOfLimits (item : Nat)
  | tierPoweredAfterRelease (tier : Nat)
  | chargerSoftStart (vresMv : Nat)
  | prechargeShortCheck (vresMv : Nat)
  | prechargeTimeout (vresMv : Nat)
  | cvReached
  | chargeTermination
  | detectionPulseEnd (fallMv : Nat)
  | periodicDetection
  | recharge (vresMv : Nat)
  | fastChargeTimeout
  | restsWindowChange (temp : Option Int)
  | missingRetry (vresMv : Nat)
  | shareOver
  | shareRetry
  | shareCharge
  | chgDefaults
  | shipRequest (key : Nat)
  | shipWake (byWake : Bool)
  | longPress
  | longPressEnd
  | modeResetRequest (key : Nat)
  | resumeRequest (key : Nat)
  | runToQuiet
  | dormantEntry
  | dormantWake (link : Bool) (port : Nat)
  | debugHalt
  | debugResume
  | debugStep (badBank : Option Nat)
  | debugReset
  | breakpointHit (k : Nat) (what : Nat) (write : Bool)
  | commitEraseDone
  | commitVerifyDone
  | commitRecordDone
  | loadIdleTimeout
  | flashAbandon
  | configSave
  | commitLoaded
  | configDataRead
  | configDataWrite (v : Nat)
  | ledgerEntryProgrammed
  | wireStart (spuEn fixedSeed : Bool) (maxRounds : Nat)
  | wireStop
  | strongPullupEnd (sagged : Bool)
  | idDataRead
  | timeLoRead
  | debugParamRead (addr : Nat) (chk : Nat)
  | debugParamWrite (addr value : Nat) (chk : Nat)
  | granaryRead (addr : Nat) (chk : Nat)
  | granaryWrite (addr value : Nat) (chk : Nat)
  | flashRead (addr : Nat) (chk : Nat)
  | flashProgram (addr value : Nat) (chk : Nat)
  | flashErase (addr : Nat) (chk : Nat)
  | fuse (data : Nat) (tail : AddrChk)
  | idcode (tail : AddrChk)
  | longFrameTransit (a : Arrival) (f : Frame)
  | streamOutput (corner : Nat) (raw : RawCodes) (unsettled : List Nat)
  | surveyResponseDeadline (tid : Nat)
  | probeRoundTripLost (tid : Nat)
  | commitPendingTimer
  | parishEntryProgrammed
  | configurationRequest (r : CfgReq)
  | preRegulatorStart (vaux : Bool)
  | supplyReturn (item : Nat)
  | prechargeLevelReached
  | continuousReadbackFail (sw : Nat)
deriving DecidableEq, Repr, Inhabited

end Sys2Proof
end

