-- ==== Sys2Proof/Decode.lean ====
section
/-! DEFINITION. Words to commands. The opcode table gives no row any bits: its commands are bus operations, frames, line
events and timer events, whose contents stand in the operands. A descriptor's 64 bytes are read in
Machine/Descriptor.lean, a frame's payload where it is received. -/

namespace Sys2Proof

/-- No row has bits, so no word spells a command. -/
def decodeTableWord (_nbits _w : Nat) : Option Instr := none

end Sys2Proof
end

