-- ==== Sys2Proof/Config.lean ====
section
/-! DEFINITION. What the spec leaves to an implementation, as values nothing can evaluate: the free values. -/

namespace Sys2Proof

/-- The n-th value the device takes from its random source (10_safety.md R288 session ids, 15_grenpa_wire.md R397 seeds)
or that the spec leaves unstated (words of granary tables and reserved flash sectors whose layout it does not give).
It has no body: a statement about it holds for every value. -/
opaque Config.freeWord : Nat → BitVec 32

/-- Word `addr` of the data flash's SAFETY sectors after their n-th writing (16 Table 16.1): the spec gives their content no
layout. -/
opaque Config.safetyWord : Nat → Nat → BitVec 32

end Sys2Proof
end

