-- ==== Sys2Proof/Machine/State.lean ====
section
/-! DEFINITION. The state of one KG4800: every register, buffer, counter, mode and pin the spec gives the device,
as plain data, and State.reset, the instant at which a reset ends with VPWR good (14_modes.md R379).
A field table's fields stand as separate fields; Machine/Flags.lean puts the 32-bit words together. -/

namespace Sys2Proof.Machine

/-- Bytes by address, addresses strictly rising, no entry equal to the default of the memory it stands for. -/
abbrev Mem := List (Nat × Byte)

/-- The twelve modes (01_architecture.md Table 1.6, R33). -/
inductive Mode where
  | ship | keep | dormant | bist | quiet | run | survey | commit | halted | degraded | safe | lockout
deriving DecidableEq, Repr, Inhabited

/-- The STATE field of a function (09_host_interface.md Table 9.18): 0b00, 0b01, 0b10. -/
inductive FnState where
  | stopped | running | stopping
deriving DecidableEq, Repr, Inhabited

/-- The roles of Table 1.3 (01_architecture.md R25). -/
inductive Role where
  | leaf | hub | root | standby
deriving DecidableEq, Repr, Inhabited

/-- The identity block (17_parameter_map.md Table 17.4). -/
structure IdentSt where
  silicon    : Nat
  uid        : Nat
  tiers      : Nat
  role       : Role
  wdtHwstart : Bool
  debugLock  : Bool
  /-- fuses blown in service, in force at the next reset (16 R421) -/
  wdtBlown   : Bool
  lockBlown  : Bool
deriving DecidableEq, Repr, Inhabited

/-- The MODE block (14_modes.md Table 14.8) and what its rules hold. -/
structure ModeSt where
  mode         : Mode
  prior        : Option Mode
  cause        : Nat
  station      : Bool
  sweepHeld    : Bool
  wakeSource   : Nat
  wakePort     : Nat
  lampItem     : Nat
  lampSafety   : Bool
  tLoss        : Nat
  lampInterval : Nat
  lampUv       : Nat
  lampOv       : Nat
  /-- wall time since which the device has been cut off without a break (R382) -/
  cutSince     : Option Nat
  /-- T_LOSS in force for that loss, in ms -/
  lossMs       : Nat
  /-- wall time at which a RESET request takes effect (R372) -/
  resetAt      : Option Nat
  /-- a debug halt that waits for the end of a commit (R376) -/
  haltHeld     : Bool
  /-- DORMANT was entered from SAFE (R384) -/
  fromSafe     : Bool
  /-- an honoured SHIP request: SHIP is entered once the answers to it have left (R372) -/
  shipDue      : Bool
  /-- the multiple of LAMP_INTERVAL, in RTC ticks, of the last lamplighter round (05 R146) -/
  lampAt       : Nat
  /-- wall time of the last entry to DORMANT (10 R293) -/
  dormantAt    : Nat
deriving DecidableEq, Repr, Inhabited

/-- One event on its way to the collector, with the tree time and MODE.STATE at it (11 R322, R323). -/
structure FaultEvt where
  id   : Nat
  item : Nat
  time : Nat
  mode : Nat
deriving DecidableEq, Repr, Inhabited

/-- The FAULT block (11 Table 11.8) and the events that wait for the next WDOSC edge. -/
structure FaultSt where
  isOpen    : Bool
  escalated : Bool
  id        : Nat
  item      : Nat
  recMode   : Nat
  time      : Nat
  grace     : Nat
  left      : Nat
  /-- crystal ticks of the current period while WDOSC is marked failed (R324) -/
  graceSub  : Nat
  action    : Nat
  /-- ACTION latched for the open record: a written ACTION applies from the next record (R332) -/
  actionNow : Nat
  enable0   : Nat
  enable1   : Nat
  running   : Bool
  evq       : List FaultEvt
  /-- the device drives FAULT_N low (R323, R324) -/
  low       : Bool
deriving DecidableEq, Repr, Inhabited

/-- A watchdog (11 R314–R321): the device's or the host's. -/
structure WdogSt where
  running   : Bool
  openT     : Nat
  closeT    : Nat
  /-- the window in force, latched at START or set by BIST (R314) -/
  winOpen   : Nat
  winClose  : Nat
  count     : Nat
  keyHeld   : Bool
  pendEarly : Nat
  pendValid : Nat
  early     : Bool
  rollFail  : Bool
  duplicate : Bool
  checked   : Nat
  rollMask  : Nat
  /-- roll-call failures since the last valid serve (R317) -/
  rollFails : Nat
  expired   : Bool
  /-- wall time at which the erase that suspends it started (R318) -/
  erasing   : Option Nat
deriving DecidableEq, Repr, Inhabited

/-- A check unit (11 R329–R331, Table 11.8). -/
structure CheckSt where
  state      : FnState
  job        : Bool
  sel        : Nat
  customInit : Bool
  init       : Nat
  expect     : Nat
  length     : Nat
  lSel       : Nat
  lExpect    : Nat
  lLength    : Nat
  reg        : Nat
  count      : Nat
  outcome    : Nat
  result     : Nat
deriving DecidableEq, Repr, Inhabited

/-- One ledger entry (16 Table 16.7) with its CONTINUED slot (ITEM, DATA). -/
structure LedgerEntry where
  seq  : Nat
  code : Nat
  mode : Nat
  rtc  : Nat
  time : Nat
  item : Nat
  data : Nat
  cont : Option (Nat × Nat)
  /-- the slot as a reset left it that cut its programming short (R419); empty where it was programmed whole -/
  torn : List Byte
deriving DecidableEq, Repr, Inhabited

/-- A commit record (16 Table 16.4); an erased or torn record is none. -/
structure CommitRec where
  seq      : Nat
  active   : Nat
  previous : Nat
  length   : Nat
  crc      : Nat
  version  : Nat
  rtc      : Nat
deriving DecidableEq, Repr, Inhabited

/-- A FLASH_LOAD piece (16 R413): its transaction, offset, length and CRC, the bytes that have come, and how many of them are
programmed. -/
structure PieceRx where
  tag    : Option Nat
  offset : Nat
  length : Nat
  crc    : Nat
  got    : List Byte
  paged  : Nat
deriving DecidableEq, Repr, Inhabited

/-- The open commit, or the last one (16 R411–R415). -/
structure CommitSt where
  isOpen   : Bool
  state    : Nat
  reason   : Nat
  sectors  : Nat
  pages    : Nat
  /-- page numbers already programmed -/
  done     : List Nat
  length   : Nat
  crc      : Nat
  /-- the transaction that waits for the end: (SRC position, TAG), none for the device's own port (COMMIT_LOADED) -/
  tag      : Option Nat
  start    : Nat
  startRtc : Nat
  lastPiece : Nat
  /-- record A of the pair in progress has been written (step 4) -/
  recA     : Bool
  /-- wall time of the last PENDING that an open commit sent (06 R170, 16 R411) -/
  lastPending : Nat
  /-- TREE.T_RESP latched at its opening (08 R252) -/
  tResp    : Nat
  /-- credits that frames held back during the erase will owe: port, class, units (R413) -/
  owing    : List (Nat × Nat × Nat)
  /-- pieces whose bytes arrive, or wait for the end of the erase -/
  rx       : List PieceRx
deriving DecidableEq, Repr, Inhabited

/-- A sector erase (16 R408, 11 R318): a sector of the commit, commit record A or B, or a data sector written anew. -/
inductive Erase where
  | sector | recA | recB | data
deriving DecidableEq, Repr, Inhabited

/-- The flash (16). Code banks and the byte-addressed sectors of the data area read 0xFF where nothing is listed. -/
structure FlashSt where
  bank0     : Mem
  bank1     : Mem
  /-- key slots (sector 2), sector 15 as programmed through the port, and sectors 55–63 (Table 16.1) -/
  dataArea  : Mem
  cfgA      : List Nat
  cfgB      : List Nat
  shadow    : List Nat
  cfgIndex  : Nat
  recA      : Option CommitRec
  recB      : Option CommitRec
  active    : Nat
  /-- the pages of the 16 sectors of each bank that are erased need no field: an erased byte is not listed -/
  log       : List LedgerEntry
  queue     : List LedgerEntry
  nextSeq   : Nat
  lost      : Nat
  eccCorr   : Nat
  eccUncorr : Nat
  loadIdle  : Nat
  commit    : CommitSt
  /-- page buffer of FLASH_PROGRAM: flash page address and its 64 words so far -/
  pageAddr  : Nat
  pageWords : List (Nat × Nat)
  portWrote : Bool
  /-- the erase in progress, then those that wait: the controller performs one at a time (R408) -/
  erases    : List Erase
  /-- ledger slots programmed so far (Table 16.1) -/
  logAt     : Nat
  /-- the words that read with an error from this BIST to the next (the model's own; DESIGN CHOICE, notes/assumptions/135.md) -/
  wear      : List FlashWear
  /-- an instruction fetch has met an uncorrectable read: the sequencer has stopped (R408) -/
  fetchStop : Bool
deriving DecidableEq, Repr, Inhabited

/-- A comparator of the debug port (16 R426). -/
structure BreakSt where
  en    : Bool
  typ   : Nat
  wo    : Bool
  value : Nat
deriving DecidableEq, Repr, Inhabited

/-- A request that a comparator holds before it acts (16 R426), with what it acts under: TAG, asker, scope and the frame whose credits
it owes. -/
structure HeldAct where
  tag   : Option Nat
  src   : Nat
  pos   : Nat
  depth : Nat
  owes  : Option (Nat × Nat × Nat × Nat)
  req   : Req
deriving DecidableEq, Repr, Inhabited

/-- The DEBUG block (16 Table 16.11). `hit` and `hitValid` name the last hit (R426). -/
structure DbgSt where
  attached : Bool
  halted   : Bool
  hit      : Nat
  hitValid : Bool
  err      : Nat
  brk      : List BreakSt
  stepping : Bool
  /-- requests that wait for RESUME or STEP before they act -/
  held     : List HeldAct
  /-- RESUME or STEP lets what waits go on at the next tick -/
  go       : Bool
  /-- the job and the address of the descriptor before which a comparator halted: they do not hit again -/
  passJob  : Option Nat
  passDesc : Option Nat
deriving DecidableEq, Repr, Inhabited

/-- Clocks: `wall` counts periods of the crystal from reset on, for delays that are local; `tt`/`frac` is tree time
(00 R12), which stands at 0 until release (08 R240); `rtc` counts 1/32768 s in the keep island. -/
structure ClkSt where
  wall   : Nat
  tt     : Nat
  frac   : Nat
  trim   : Int
  treeOn : Bool
  xtalOn : Bool
  rtc    : Nat
  rtcSub : Nat
  timeHi : Nat
deriving DecidableEq, Repr, Inhabited

/-- The LINK state of a port (07 Table 7.8). -/
inductive LinkState where
  | disabled | down | training | up | lost | legacy
deriving DecidableEq, Repr, Inhabited

/-- A sent, unacknowledged frame (07 R190): its HSEQ, its retransmissions, the wall time of its last ED. -/
structure Unacked where
  frame   : Frame
  hseq    : Nat
  retries : Nat
  sentAt  : Nat
deriving DecidableEq, Repr, Inhabited

/-- One sequence space of a port, both directions (07 R190–R193). `rxNext` is the next expected HSEQ. -/
structure SeqSpace where
  txNext  : Nat
  unacked : List Unacked
  rxNext  : Nat
  nakSent : Bool
deriving DecidableEq, Repr, Inhabited

/-- A frame that waits for its port, with the port on whose buffer it stands (08 R246), none for an own frame. -/
structure QFrame where
  frame : Frame
  src   : Option Nat
deriving DecidableEq, Repr, Inhabited

/-- Transmit queues of a port by class, and the deficits of the round robin (07 R196). -/
structure TxQueues where
  safety  : List QFrame
  control : List QFrame
  data    : List QFrame
  bulk    : List QFrame
  defC    : Nat
  defD    : Nat
  defB    : Nat
deriving DecidableEq, Repr, Inhabited

/-- Four per-class counts: credits, or units owed (08 R245, R246). -/
structure Four where
  s : Nat
  c : Nat
  d : Nat
  b : Nat
deriving DecidableEq, Repr, Inhabited

/-- The counters of a port (07 Table 7.8), all RC and saturating. -/
structure PortCnt where
  tx          : Nat
  rx          : Nat
  condemned   : Nat
  retransmits : Nat
  cmdCounter  : Nat
  cmdCheck    : Nat
  crierOk     : Nat
  crierBad    : Nat
  legacyCrc   : Nat
  legacyNoReply : Nat
deriving DecidableEq, Repr, Inhabited

/-- Link training (07 R203): step 0 none, 1–3; frames received in cadence in this step; AGREED both ways; the rate
of this step; wall time at which the step's rate was taken and tree time at which the present training began. -/
structure TrainSt where
  step     : Nat
  got      : Nat
  agreedRx : Bool
  agreedTx : Bool
  rate     : Nat
  since    : Nat
  began    : Nat
  trained  : Bool
  partnerMax : Nat
deriving DecidableEq, Repr, Inhabited

/-- Crier side channel of a port (07 R207, R208): bits received so far (newest last), the last complete message and
its TPHASE stamp difference count, the message being sent and its next bit. -/
structure CrierSt where
  rxBits  : List Bool
  last    : List Byte
  txMsg   : List Byte
  txBit   : Nat
  txCount : Nat
  tphBad  : Nat
deriving DecidableEq, Repr, Inhabited

/-- TIME exchange on a downstream port (08 R240, R241): sequence number, t1 of the last SYNC sent and the last delay
computed, in 2⁻¹⁶ tt. -/
structure PortTime where
  seq  : Nat
  t1   : Nat
  d    : Nat
  lastSent : Nat
deriving DecidableEq, Repr, Inhabited

/-- One link port (07). -/
structure PortSt where
  fn        : FnState
  retryMax  : Nat
  link      : LinkState
  tone      : Bool
  retrains  : Nat
  rateMax   : Nat
  rateNow   : Nat
  legacy    : Bool
  tol       : Nat
  lRetry    : Nat
  lRate     : Nat
  lTol      : Nat
  lLegacy   : Bool
  credits   : Four
  owed      : Four
  cnt       : PortCnt
  spaceS    : SeqSpace
  spaceN    : SeqSpace
  txq       : TxQueues
  train     : TrainSt
  partner   : Option Nat
  crier     : CrierSt
  time      : PortTime
  everUp    : Bool
  lostAt    : Option Nat
  held      : List QFrame
  lastTx    : Nat
  toneAt    : Nat
  /-- a SAFETY frame may follow the wake tone (R206) -/
  afterTone : Bool
  /-- walk marks of this port (08 R217, R218) -/
  alt       : Bool
  late      : Bool
  failed    : Bool
  overflow  : Bool
  /-- child position and highest position of its interval (08 R221) -/
  kid       : Option (Nat × Nat)
  /-- that child was hot-attached: its ASSIGN carries the pending flag (08 R222, R223) -/
  hot       : Bool
  /-- the position that the partner of a ring link gave in its DUP (08 Table 8.2) -/
  altPeer   : Option Nat
  /-- the port's link buffers have been used since MARCH cleared the granary or a wake did (06 Table 6.9, 12 R336) -/
  bufUsed : Bool
deriving DecidableEq, Repr, Inhabited

/-- A sweep record before it is laid out in bytes (02 Table 2.10). -/
structure Rec where
  idword : Nat
  sweep  : Nat
  t      : Nat
  frac   : Int
  flags  : Nat
  mask   : Nat
  config : Nat
  auxAge : Nat
  is1    : Int
  is2    : Int
  aux    : List Nat
  cells  : List Int
  unsettled : Nat
  adj    : Nat
  openW  : Nat
  disagree : Nat
  immature : Nat
  temps  : List Int
  /-- the word at 0xFC -/
  crc    : Nat
deriving DecidableEq, Repr, Inhabited

/-- A KG1200 of a legacy segment (07 R209–R212): chain index, identity, position, presence in this poll, its codes. -/
structure LegacyDev where
  index    : Nat
  identity : Nat
  pos      : Nat
  present  : Bool
  codes    : List Nat
deriving DecidableEq, Repr, Inhabited

/-- A legacy request in progress: ADDR, CMD, DATA, attempts made, and the descriptor register access it serves. -/
structure LegacyReq where
  addr   : Nat
  cmd    : Nat
  data   : List Byte
  tries  : Nat
  tag    : Option Nat
  /-- the value a read-back has to give (PARAM_WRITE_VERIFY) -/
  expect : Option Nat
deriving DecidableEq, Repr, Inhabited

/-- The legacy segment of port B. -/
structure LegacySt where
  devs    : List LegacyDev
  queue   : List LegacyReq
  polling : Bool
  /-- aperture time, mode and number of the sweep it serves -/
  pollT   : Nat
  pollMode : Nat
  pollNo  : Nat
  /-- words read for the register access in progress -/
  words   : List (Nat × List Nat)
  /-- sweep records of polled sweeps (R212) -/
  records : List Rec
  /-- statuses of the register access in progress, by position -/
  status : List (Nat × Nat)
deriving DecidableEq, Repr, Inhabited

/-- A command counter entry (07 R200), most recently used first in its table. -/
structure CmdRef where
  src   : Nat
  hasScope : Bool
  dest  : Nat
  depth : Nat
  ref   : Nat
deriving DecidableEq, Repr, Inhabited

/-- The ROOT's send side of a key (R201): last counter sent, and whether the next one carries SYNC. -/
structure SendRef where
  hasScope : Bool
  dest  : Nat
  depth : Nat
  ref   : Nat
  sync  : Bool
deriving DecidableEq, Repr, Inhabited

/-- An exception route (08 R223, R231). -/
structure Route where
  lo   : Nat
  hi   : Nat
  port : Nat
deriving DecidableEq, Repr, Inhabited

/-- The state of tree time (08 R242). -/
inductive SyncState where
  | unsync | acquiring | locked | holdover
deriving DecidableEq, Repr, Inhabited

/-- A MARK that waits for its frame (08 R227). -/
structure MarkSt where
  port : Nat
  hops : Nat
  tag  : Nat
  typ  : Nat
  src  : Nat
deriving DecidableEq, Repr, Inhabited

/-- An entry of the ROOT's topology table (08 R220, 09 Table 9.15). -/
structure TopoEntry where
  pos     : Nat
  uid     : Nat
  parent  : Nat
  port    : Nat
  depth   : Nat
  hi      : Nat
  alt     : Nat
  portsUp : Nat
  role    : Nat
  station : Bool
  pending : Bool
  legacy  : Bool
  modeHealth : Nat
deriving DecidableEq, Repr, Inhabited

/-- A reroute in force at the ROOT (08 R231): the cut-off interval and the ends of the ALT link. -/
structure Reroute where
  lo    : Nat
  hi    : Nat
  outer : Nat
  inner : Nat
deriving DecidableEq, Repr, Inhabited

/-- The walk in progress at this device (08 R217): the port it came on (none at the ROOT), the next position, the port
visited now, whether it waits for training (since when) or for an answer (since when), and t_start. -/
structure WalkSt where
  active   : Bool
  id       : Nat
  upPort   : Option Nat
  next     : Nat
  port     : Nat
  training : Bool
  since    : Nat
  tStart   : Nat
  lastPend : Nat
  anyFail  : Bool
  /-- the TOPOLOGY transaction that asked for it -/
  tid      : Option Nat
  /-- TREE.T_RESP latched at its start (08 R252) -/
  tResp    : Nat
deriving DecidableEq, Repr, Inhabited

/-- A hot attach the ROOT carries out (08 R223): new position, parent and port, UID. -/
structure AttachSt where
  pos    : Nat
  parent : Nat
  port   : Nat
deriving DecidableEq, Repr, Inhabited

/-- The TREE block (08 Table 8.8) and what the tree's rules hold. -/
structure TreeSt where
  pos        : Nat
  valid      : Bool
  pending    : Bool
  reversal   : Option (Nat × Nat)
  cutBy      : Bool
  curUp      : Nat
  numUp      : Nat
  depth      : Nat
  hi         : Nat
  hopDelay   : Nat
  tResp      : Nat
  strobeLead : Nat
  takeover   : Nat
  sync       : SyncState
  steps      : Nat
  tphFail    : Nat
  stepNext   : Bool
  good       : Nat
  lastSync   : Option Nat
  upLocked   : Nat
  rootUid    : Nat
  dropped    : Nat
  /-- held area of bank 0: sweep records, oldest first (R236) -/
  heldArea   : List Rec
  unsol      : Nat
  routes     : List Route
  inCharge   : Bool
  /-- a ROOT that met a standby in charge (R235) -/
  standbyLike : Bool
  walkId     : Nat
  /-- the walk 1 s after release has run (R216) -/
  walked     : Bool
  numberedBy : Nat
  walk       : WalkSt
  marks      : List MarkSt
  topo       : List TopoEntry
  reroutes   : List Reroute
  attaches   : List AttachSt
  /-- ATTACH frames that reached the ROOT during a walk: parent, port, UID (R224) -/
  attachWait : List (Nat × Nat × Nat)
  /-- DISCOVER frames in the port buffers that wait for the sequencer of a HALTED device (16 R425) -/
  waiting    : List (Arrival × Frame)
  /-- parent and parent port of this device's location -/
  parent     : Nat
  parentPort : Nat
  /-- the standby's own position, kept as an alias at takeover (R235) -/
  alias_     : Option Nat
  lastStrobe : Nat
deriving DecidableEq, Repr, Inhabited

/-- A contributor of a harvest (06 R170): the device itself or a port, the wall time of its timer's start, and what it
gave. -/
structure Contributor where
  port  : Option Nat
  since : Nat
  given : Option Contribution
  lost  : Bool
deriving DecidableEq, Repr, Inhabited

/-- A harvest (06 R170), keyed by the TAG of its transaction. `up` is the port the command came on, none at the ROOT. -/
structure Harvest where
  tag      : Nat
  up       : Option Nat
  req      : Req
  src      : Nat
  pos      : Nat
  depth    : Nat
  kids     : List Contributor
  lastPend : Nat
  tResp    : Nat
  /-- its slot of 224–255; none while it waits for one (R155, R156) -/
  slot     : Option Nat
  /-- contributors whose part has arrived and is not combined yet, in order of arrival; the step of the first is placed -/
  todo     : List (Option Nat)
  /-- closed: the collector's job works on the gather (R169) -/
  collecting : Bool
deriving DecidableEq, Repr, Inhabited

/-- A completion entry (09 Table 9.11) before its place in the ring is known. -/
structure Cpl where
  ring     : Nat
  cq       : Nat
  cid      : Nat
  status   : Nat
  more     : Bool
  isEvent  : Bool
  isMap    : Bool
  pool     : Nat
  nbuf     : Nat
  first    : Nat
  length   : Nat
  value    : Nat
  answered : Nat
  tid      : Nat
  detail   : Nat
  noIrq    : Bool
  /-- of a descriptor with BARRIER (R264) -/
  barrier  : Bool
  /-- the final entry of this transaction frees it (R250) -/
  frees    : Option Nat
deriving DecidableEq, Repr, Inhabited

/-- A result on its way into buffers (09 R271, R272): pool, its length, the bytes that have come, the first list entry and the
buffer addresses of its run once taken, the bytes written, the entry that names it, and whether its wait was announced. -/
structure ResultWait where
  pool  : Nat
  total : Nat
  bytes : List Byte
  run   : Option (Nat × List Nat)
  sent  : Nat
  /-- TAG and source of a segment or block that comes frame by frame -/
  comes : Option (Nat × Nat)
  entry : Cpl
  announced : Bool
  /-- held records that wait at the ROOT since before it and take their runs of EVENT_POOL ahead of it (R271, R278) -/
  behind : Nat
deriving DecidableEq, Repr, Inhabited

/-- A transaction of the ROOT (08 R250). `hdr` and `req` are its descriptor, `gen` its generation. -/
structure Tx where
  id      : Nat
  gen     : Nat
  hdr     : Hdr
  req     : Req
  start   : Nat
  /-- result entries written with MORE -/
  entries : Nat
  /-- its final entry is written, or waits to be -/
  done    : Bool
  /-- SURVEY_RUN and EXPOSE, by position: 0 silent, 1 accepted, 2 refused, 3 block or segment here, 4 a NO_TRIGGER segment,
  5 lost -/
  survey  : List (Nat × Nat)
  /-- what its devices have answered so far, where no harvest combines it -/
  acc     : Contribution
  /-- the transaction of which it is the second copy (R232) -/
  copyOf  : Option Nat
  /-- PATH_TEST: round trip in progress, tree time of its PROBE's first header bit, least, greatest, each in 2⁻¹⁶ tt, and the
  number lost -/
  probeN  : Nat
  probeAt : Nat
  probeMin : Option Nat
  probeMax : Nat
  probeLost : Nat
  /-- T_RESP in force when it started (08 R252) -/
  tResp   : Nat
  forced  : Option Nat
deriving DecidableEq, Repr, Inhabited

/-- A submission ring (09 Table 9.4, 9.7). -/
structure SqSt where
  baseLo  : Nat
  baseHi  : Nat
  log2    : Nat
  state   : FnState
  cq      : Nat
  weight  : Nat
  head    : Nat
  tail    : Nat
  badBell : Bool
  limit   : Nat
deriving DecidableEq, Repr, Inhabited

/-- A completion ring (09 Table 9.5, 9.7). -/
structure CqSt where
  baseLo  : Nat
  baseHi  : Nat
  log2    : Nat
  state   : FnState
  vector  : Nat
  irqEn   : Bool
  coCount : Nat
  coTime  : Nat
  tail    : Nat
  phase   : Bool
  full    : Bool
  head    : Nat
  unsig   : Nat
  unsigAt : Nat
deriving DecidableEq, Repr, Inhabited

/-- A segment or block that arrives frame by frame (09 R272): TAG and source, its transaction, its length and the bytes that have
come, and the mark it gives the position. -/
structure Stream where
  tag   : Nat
  src   : Nat
  tx    : Nat
  total : Nat
  got   : Nat
  mark  : Nat
deriving DecidableEq, Repr, Inhabited

/-- A buffer pool (09 Table 9.6). Its sizes change only while it is disabled. -/
structure PoolSt where
  listLo  : Nat
  listHi  : Nat
  listLog2 : Nat
  bufLog2 : Nat
  en      : Bool
  tail    : Nat
  head    : Nat
  waiting : Bool
  /-- EN was written 0 while a result is being written into the pool's buffers (R258) -/
  closing : Bool
deriving DecidableEq, Repr, Inhabited

/-- An event (09 R277). -/
structure EventSt where
  typ   : Nat
  value : Nat
  cid   : Nat
deriving DecidableEq, Repr, Inhabited

/-- The host island (09): BAR0 registers, rings, pools, events, transactions. -/
structure HostSt where
  enable    : Bool
  eventEn   : Bool
  eventCq   : Nat
  eventPool : Nat
  writeIgn  : Bool
  drops     : Nat
  speed     : Nat
  width     : Nat
  speedNow  : Nat
  widthNow  : Nat
  linkUp    : Bool
  /-- PERST_N is high -/
  perst     : Bool
  /-- REFCLKP/REFCLKN run; speed and width that the link partner gives -/
  refclk    : Bool
  partner   : Nat × Nat
  /-- words 2 and 3 of the flash configuration in force, 0 in a half selecting 0x1F4B or 0x4800 (Table 9.1, 16 Table 16.9) -/
  ids       : Nat × Nat
  /-- BAR0, Max Payload Size and Max Read Request Size in bytes, and ASPM L1, as host software sets them (Table 9.1) -/
  bar0      : Nat
  mps       : Nat
  mrrs      : Nat
  aspmL1    : Bool
  d3hot     : Bool
  pmeEn     : Bool
  pmeStatus : Bool
  sq        : List SqSt
  cq        : List CqSt
  pool      : List PoolSt
  /-- words of the MSI-X table that differ from their reset value (word 4v+3 resets to 1, masked) -/
  msix      : List (Nat × Nat)
  msixPend  : List Nat
  events    : List EventSt
  eventCid  : Nat
  /-- held records that wait for EVENT_POOL or the event ring (R278) -/
  heldWait  : List (Nat × List Byte)
  /-- which of them have had their wait for buffers announced (R271) -/
  heldTold  : List Bool
  txs       : List Tx
  /-- segments and blocks whose frames are arriving (R272) -/
  streams   : List Stream
  /-- Advanced Error Reporting registers from the status of uncorrectable errors on (Table 9.1) -/
  aer       : List Nat
  /-- generations by transaction id; an id not listed has generation 0 and is unused so far -/
  gens      : List (Nat × Nat)
  waits     : List ResultWait
  cplWait   : List Cpl
  refs      : List SendRef
  /-- granary banks 60–63 have been used for staging since they were cleared -/
  used : Bool
deriving DecidableEq, Repr, Inhabited

/-- The applied words of the SAFETY block that a session can change (10 Table 10.10). -/
structure SafBlock where
  func1   : Nat
  func2   : Nat
  ov      : Nat
  uv      : Nat
  ot      : Nat
  debounce : Nat
  hbPeriod : Nat
  hbTimeout : Nat
  disc1   : Nat
  disc2   : Nat
  degLimit : Nat
  brake   : Nat
  /-- ENROLL words that are not 0, by index -/
  enroll  : List (Nat × Nat)
deriving DecidableEq, Repr, Inhabited

/-- What the data flash keeps for the partition (10 R285–R287). -/
structure SafNv where
  block   : SafBlock
  digest  : Nat
  fails   : Nat
  level   : Nat
  /-- remaining lock time in RTC ticks, 0 none -/
  lock    : Nat
  crcOk   : Bool
  /-- how often the area was written: the spec gives its content no layout (16 Table 16.1) -/
  writes  : Nat
deriving DecidableEq, Repr, Inhabited

/-- An enrolled position as a supervisor hears it (10 R297): wall time of the last accepted frame, its CAUSE, whether
the timeout was reached, and the counter REF of R200. -/
structure Heard where
  pos   : Nat
  at_   : Nat
  cause : Nat
  out   : Bool
  ref   : Option Nat
deriving DecidableEq, Repr, Inhabited

/-- One output with its function (10 R298–R303). -/
structure OutputSt where
  on      : Bool
  tripped : Bool
  cause   : Nat
  tpos    : Nat
  titem   : Nat
  /-- AUTO_ARM has been used since release -/
  autoUsed : Bool
  /-- a pulse in progress: 0 high side, 1 low side, and its wall start -/
  pulse   : Option (Nat × Nat)
  /-- the node level of that pulse has been judged (R302) -/
  judged  : Bool
  nextSw  : Nat
  lastPulse : Nat
  tripAt  : Option Nat
  /-- the first readback cycle after release has run (R304) -/
  checked : Bool
deriving DecidableEq, Repr, Inhabited

/-- One dual-contact input (10 R300). -/
structure InputSt where
  a       : Bool
  b       : Bool
  disc    : Bool
  since   : Option Nat
  bothOpen : Bool
deriving DecidableEq, Repr, Inhabited

/-- A SAFETY frame counter toward one supervisor (10 R295). -/
structure SupRef where
  pos  : Nat
  ref  : Nat
  sync : Bool
deriving DecidableEq, Repr, Inhabited

/-- A parish register entry (10 Table 10.2). -/
structure ParishEntry where
  seq     : Nat
  kind    : Nat
  count   : Nat
  address : Nat
  old     : Nat
  new     : Nat
  session : Nat
  origin  : Nat
  time    : Nat
  rtc     : Nat
  blockCrc : Nat
deriving DecidableEq, Repr, Inhabited

/-- A SAFETY_WRITE whose parish entry is being programmed (10 R289): its reply waits for it. -/
structure ParishWait where
  entry : ParishEntry
  tag   : Option Nat
deriving DecidableEq, Repr, Inhabited

/-- The safety partition (10). -/
structure SafetySt where
  block    : SafBlock
  digest   : Nat
  session  : Option Nat
  origin   : Nat
  lastWrite : Nat
  staged   : List (Nat × Nat)
  fails    : Nat
  level    : Nat
  lockEnd  : Option Nat
  /-- a lock that a KEEP power-on reset interrupted: it restarts in full from release (R287) -/
  relock   : Bool
  /-- a session that a reset ended: its DISCARD entry is written at the next release (Table 10.1) -/
  dropped  : Option ParishEntry
  out1     : OutputSt
  out2     : OutputSt
  in1      : InputSt
  in2      : InputSt
  /-- failed switches in the order SO1H, SO1L, SO2H, SO2L -/
  failed   : List Bool
  degEnd   : Option Nat
  heard    : List Heard
  sup      : List SupRef
  nv       : SafNv
  parish   : List ParishEntry
  parishSeq : Nat
  parishQ  : List ParishWait
  /-- tree time of the last HEARTBEAT sent (R295) -/
  lastBeat : Nat
  /-- tree time of the aperture or proof slot evaluated last (R295) -/
  lastEval : Nat
deriving DecidableEq, Repr, Inhabited

/-- A debounce count of one input against one limit (10 R294). -/
structure Deb where
  bad  : Nat
  good : Nat
  rep  : Bool
deriving DecidableEq, Repr, Inhabited

/-- A word of the resistance table with its VALID bit (05 R150). -/
structure Ent where
  v  : Nat
  ok : Bool
deriving DecidableEq, Repr, Inhabited

/-- An entry of a cell's rate history (05 R141): code, aperture time, and for an entry taken from the snapshot the
RTC tick of the snapshot's write (02 R75). -/
structure RateEnt where
  code : Int
  t    : Nat
  rtc  : Option Nat
deriving DecidableEq, Repr, Inhabited

/-- A change of a balance switch: its tree time, the switch from then on, and whether a BLEED survey run commands it. -/
structure SwChange where
  t      : Nat
  closed : Bool
  bleed  : Bool
deriving DecidableEq, Repr, Inhabited

/-- Everything the device holds for one cell. -/
structure CellSt where
  /-- last reported code, for a lost tier-channel frame (01 R16) -/
  code     : Int
  /-- last uncorrected primary code, and the last one not UNSETTLED (04 R110, 05 R133) -/
  raw      : Int
  vLast    : Option Int
  /-- latest proof sample (1.5 mV) and mirror (µA) (05 R122, R132) -/
  proof    : Nat
  mirror   : Nat
  /-- proof history (05 R126), newest first, and its persistence count -/
  pHist    : List Int
  pCount   : Nat
  pExceed  : Bool
  /-- the event of this count, and of the rate count, has been raised since the count was 0 (05 R127, R141) -/
  pDone    : Bool
  rDone    : Bool
  rate     : List RateEnt
  rCount   : Nat
  /-- BALANCE.TIMER[n].SECONDS; remaining closed time in units of 4 tt (04 R107, R108) -/
  seconds  : Nat
  lSeconds : Nat
  remain   : Nat
  excluded : Bool
  /-- commanded state of the balance switch, wall time of its last change, rounds of mirror above 2 mA -/
  closed   : Bool
  changed  : Nat
  /-- its changes, newest first, as far back as a filter window reaches (02 R47) -/
  log      : List SwChange
  mirCount : Nat
  /-- tree time at which the switch was found stuck closed (05 R134) -/
  stuck    : Option Nat
  rPath    : Ent
  rOn      : Ent
  prevPath : Nat
  ov       : Deb
  uv       : Deb
  un       : Deb
deriving DecidableEq, Repr, Inhabited

/-- The parameters that START of SWEEP latches (02 Tables 2.7–2.9). -/
structure SweepPar where
  source : Nat
  period : Nat
  corner : Nat
  mask   : Nat
  blank  : Nat
  settle : Nat
  auxDiv : Nat
  en1    : Bool
  en2    : Bool
  inv1   : Bool
  inv2   : Bool
  gain1  : Nat
  gain2  : Nat
deriving DecidableEq, Repr, Inhabited

/-- An aperture that is scheduled, or opened and not yet recorded. -/
structure Aperture where
  t      : Nat
  num    : Nat
  opened : Bool
  mode   : Nat
  /-- the window opens less than t_settle after START, or it is one of the first three outputs (R71) -/
  young  : Bool
  /-- GOVERNED for the slot that contains T -/
  governed : Bool
  aux    : Bool
  /-- raw outputs of the window, once available -/
  codes  : Option RawCodes
  auxDone : Bool
  auxCodes : List Nat
  /-- its blanking interval has begun -/
  blanked : Bool
  lost   : List Nat
deriving DecidableEq, Repr, Inhabited

/-- SWEEP and ISENSE (02). -/
structure SweepSt where
  fn       : FnState
  late     : Nat
  par      : SweepPar
  lat      : SweepPar
  count    : Nat
  pubEn    : Bool
  pubCh    : Nat
  startT   : Nat
  outputs  : Nat
  lastT    : Option Nat
  /-- last aperture time k × P put on the schedule (R38, R39) -/
  cursor   : Nat
  pend     : List Aperture
  /-- BLANK holds the switches open until this tree time -/
  blankTo  : Option Nat
  tbias    : Bool
  aux      : List Nat
  /-- sweeps since the auxiliary codes were sampled (Table 2.10) -/
  auxAge   : Option Nat
  auxSeen  : List Nat
  auxDeb   : List Deb
  auxUn    : List Deb
  discards : List Nat
  /-- cells whose proof sample was lost with a discarded frame since the last round (01 R15) -/
  proofLost : List Nat
  /-- of slots 16 to 18 the readings lost in the same way: tier, slot -/
  slotsLost : List (Nat × Nat)
  live     : List Rec
  counted  : Nat
  lastSnap : Nat
  /-- a write of the history snapshot is in progress (R74) -/
  snapBusy : Bool
  /-- the last slot-18 reading of each tier (19 R466) -/
  tierTemp : List (Option Int)
  /-- granary bank 0 has been used since MARCH cleared it -/
  recsUsed : Bool
deriving DecidableEq, Repr, Inhabited

/-- The history snapshot before it is laid out in bytes (02 Table 2.13): by cell, the mean and the number of the proof
differences and the codes of the rate history. `crc` is the word at 0x1FFC, none while a write is in progress. -/
structure Snapshot where
  rtc    : Nat
  tt     : Nat
  tiers  : Nat
  present : Nat
  corner : Nat
  counted : Nat
  proof  : List (Int × Nat)
  rate   : List (List Int)
  wires  : List Nat
  base   : List Nat
  crc    : Option Nat
deriving DecidableEq, Repr, Inhabited

/-- The parameters that START of SURVEY latches (03 Tables 3.2, 3.8). -/
structure SurveyPar where
  setBase : Bool
  tag     : Nat
  ripple  : Bool
  groups  : Nat
  chargePos : Bool
  points  : Nat
  cycles  : Nat
  minMa   : Nat
  minSnr  : Nat
  source  : Nat
  shunt   : Nat
  freq    : List Nat
  pubEn   : Bool
  pubCh   : Nat
deriving DecidableEq, Repr, Inhabited

/-- One stream output of a run (03 R86, R89): centre tap, corrected codes, current code, filtered switch states, flags. -/
structure StreamOut where
  t      : Nat
  cells  : List Int
  cur    : Int
  bbar   : List Nat
  flags  : List Nat
  temps  : List (Option Int)
deriving DecidableEq, Repr, Inhabited

/-- A cell entry of a survey result (03 Table 3.6). -/
structure SurvEnt where
  cell : Nat
  flags : Nat
  re   : Int
  im   : Int
  snr  : Int
  temp : Int
  trend : Int
deriving DecidableEq, Repr, Inhabited

/-- A point record (03 Table 3.5). -/
structure PointRec where
  k      : Nat
  g      : Nat
  corner : Nat
  p      : Nat
  n      : Nat
  gap    : Bool
  amp    : Nat
  w      : Nat
  freq   : Nat
  ents   : List SurvEnt
deriving DecidableEq, Repr, Inhabited

/-- A run whose lock-in is raised as a job (03 R91): point and group, start, stream outputs and currents. -/
structure LockJob where
  k      : Nat
  g      : Nat
  st     : Nat
  outs   : List StreamOut
  currents : List (Nat × Int × Bool)
deriving DecidableEq, Repr, Inhabited

/-- The SURVEY function (03). -/
structure SurveySt where
  fn       : FnState
  par      : SurveyPar
  lat      : SurveyPar
  t0       : Nat
  /-- SURVEY_RUN transaction TAG and sender, for the block; none for a local start -/
  tid      : Option Nat
  /-- the scope that the survey's current is published to -/
  scope    : Nat × Nat
  point    : Nat
  group    : Nat
  last     : Nat
  reason   : Nat
  base     : Nat
  baseIndex : Nat
  baseArea : List Nat
  /-- the run in progress: its start s -/
  run      : Option Nat
  /-- end of the run before, or T0 -/
  after    : Nat
  exciteOn : Bool
  toggles  : Nat
  outs     : List StreamOut
  currents : List (Nat × Int × Bool)
  locked   : Bool
  recs     : List PointRec
  outcome  : Nat
  /-- result blocks held in the granary until the link allows (R102) -/
  blocks   : List (List Byte)
  /-- outputs of the current waiting to be published (R89): centre tap, code, clamped -/
  pubQ     : List (Nat × Int × Bool)
  /-- centre tap that the next published output would have, and whether outputs before it were lost at the source -/
  pubNext  : Nat
  pubLost  : Bool
  /-- changes of the BLEED excitation, newest first: tree time, on (02 R68) -/
  exciteLog : List (Nat × Bool)
  /-- lock-in jobs that have not ended -/
  jobs     : List LockJob
  /-- the survey has ended with this outcome and its block, delivered or not, waits for those jobs -/
  closing  : Option (Nat × Bool)
  /-- granary banks 54–55 have been used since they were cleared -/
  used : Bool
deriving DecidableEq, Repr, Inhabited

/-- The BALANCE function (04). -/
structure BalanceSt where
  fn       : FnState
  cont     : Bool
  enable   : Nat
  limit    : Nat
  lEnable  : Nat
  lLimit   : Nat
  starved  : Bool
  suspHalt : Bool
  governing : Bool
  hot      : Bool
  /-- choices of the last slots (Table 4.8): slot, allowed and requested cells -/
  duty     : List (Nat × Nat × Nat)
  last     : Nat
  reason   : Nat
  pointer  : Nat
  allowed  : Nat
  /-- the last choice for a slot was made at this tree time; none before the first choice after START -/
  slotAt   : Option Nat
  /-- the slot in which a suspension ended: balancing resumes at the next slot boundary (R117) -/
  resumeAt : Option Nat
deriving DecidableEq, Repr, Inhabited

/-- A test step that acts on the cells (05 R142): a switch, a wire, a harness cell, or the recovery a test of this tier
leaves, up to a tree time. -/
inductive TestStep where
  | switch (cell start : Nat)
  | wire (k start : Nat)
  | harness (k start : Nat)
  | rest (tier until_ : Nat)
deriving DecidableEq, Repr, Inhabited

/-- One proof round kept for the comparison: start time, the 48 samples, and the cells whose sample was lost. -/
structure ProofRound where
  t       : Nat
  samples : List Nat
  lost    : List Nat
deriving DecidableEq, Repr, Inhabited

/-- PROOF and DIAG (05 Table 5.5), and the checks' counts. -/
structure DiagSt where
  owEn      : Bool
  rocEn     : Bool
  tolerance : Nat
  persist   : Nat
  owPeriod  : Nat
  switchEn  : Bool
  harnessEn : Bool
  ovrOw     : Bool
  ovrSwitch : Bool
  ovrHarness : Bool
  harnessHigh : Bool
  pathChange : Bool
  harnessOn : Bool
  refProof  : List Bool
  refWit    : List Bool
  refCnt    : List Nat
  witCnt    : List Nat
  swPeriod  : Nat
  haPeriod  : Nat
  rocFixed  : Nat
  rocSlope  : Nat
  dFault    : Nat
  dItem     : Nat
  dCheck    : Nat
  dTier     : Nat
  index     : Nat
  rw        : List Ent
  harnessAt : Option Nat
  switchAt  : Option Nat
  /-- proof rounds: the last round of 20,480 tt that has run, in tree time or while that stands in wall time (R123) -/
  roundAt   : Option Nat
  rounds    : List ProofRound
  /-- VREGn of the last round, by tier, in mV (Table 5.1) -/
  vreg      : List Nat
  /-- by tier: wall time of the last cross-check, and the record count at which it ran (R129) -/
  witAt     : List (Option Nat)
  witRec    : List (Option Nat)
  loopPtr   : List Nat
  loopMis   : List Nat
  /-- the cell of each count -/
  loopOn    : List Nat
  openWires : List Nat
  suspects  : List (Nat × List Nat)
  /-- at most one per tier -/
  steps     : List TestStep
  /-- diagnostic slots 19 to 49 lost with a discarded frame: tier, tree time (01 R15) -/
  readLost  : List (Nat × Nat)
  /-- cells and wires done in the current pass of each test -/
  owDone    : List Nat
  swDone    : List Nat
  haDone    : List Nat
  owSince   : Nat
  swSince   : Nat
  haSince   : Nat
  owFault   : Bool
  swFault   : Bool
  swNow     : Bool
  /-- of the harness pass: toggled cell, estimates of R_w[k−1] and of R_w[k], and −a_k / Î_k, in µΩ -/
  ests      : List (Nat × Option Int × Option Int × Option Int)
  /-- stream outputs of the harness cell k in progress: centre tap, codes of cells k−1, k, k+1, filtered state of its switch -/
  hOuts     : List (Nat × List Int × Nat)
deriving DecidableEq, Repr, Inhabited

/-- A job (06 R155): its slot, what raised it, its order key, its transaction TAG. `adm` is the order of admission. -/
structure Job where
  slot : Nat
  kind : JobKind
  key  : Nat
  tag  : Nat
  adm  : Nat
deriving DecidableEq, Repr, Inhabited

/-- A job that is not admitted yet; `slot` is held by a job moved from a failed island (06 R156, R157). -/
structure JobWait where
  kind : JobKind
  key  : Nat
  tag  : Nat
  slot : Option Nat
  adm  : Nat
  /-- port, class, units and TAG of the request frame it keeps in a receive buffer -/
  owes : Option (Nat × Nat × Nat × Nat)
deriving DecidableEq, Repr, Inhabited

/-- What a FORWARD job holds (06 R165): a held sweep record, or the DATA frames of a result. -/
inductive Carried where
  | record (r : Rec)
  | result (fs : List Frame)
deriving DecidableEq, Repr, Inhabited

/-- One gleaner (06 R152, R153): the job it runs, its deque, oldest first, and its 32 KiB of scratch memory, which nothing
but its jobs reaches. -/
structure GleanerSt where
  running : Option Job
  deque   : List Job
  scratch : Mem
deriving DecidableEq, Repr, Inhabited

/-- A finished result in the reorder buffer (06 R159); failed results carry nothing (R160). -/
structure Finished where
  job    : Job
  failed : Bool
deriving DecidableEq, Repr, Inhabited

/-- The gleaners and the GLEAN block (06). -/
structure GleanSt where
  islandEn  : Nat
  islandOk  : Nat
  /-- islands in use: a cleared ISLAND_EN bit takes effect when the island's jobs end (R179) -/
  inUse     : Nat
  advertised : Nat
  collectLimit : Nat
  gleans    : Nat
  overflows : Nat
  gleaners  : List GleanerSt
  waiting   : List JobWait
  finished  : List Finished
  nextAdm   : Nat
  harvests  : List Harvest
  /-- member requests accepted and not yet answered: TAG, arrival port, request, scope; and for KG1200
  devices of the segment TAG, asker, request, positions (07 R212) -/
  members   : List (Nat × Option Nat × Req × Nat × Nat)
  legacyJobs : List (Nat × Nat × Req × List Nat)
  /-- what FORWARD jobs hold, by job (R165, 08 R237) -/
  forwards  : List (Nat × Carried)
  /-- TAGs of harvests that have closed here: what still arrives for one is ignored (R170) -/
  closed    : List Nat
  /-- commands accepted from another position than 0: TAG, SRC -/
  asked     : List (Nat × Nat)
  /-- granary banks 17–18 and 56–59 (jobs and outputs), and 38–53 (gathers), have been used since they were cleared -/
  jobsUsed : Bool
  gatherUsed : Bool
deriving DecidableEq, Repr, Inhabited

/-- STATE of GLEAN.EXPOSE (06 Table 6.10). -/
inductive ExpoState where
  | idle | armed | capturing | delivering
deriving DecidableEq, Repr, Inhabited

/-- One exposure sample (06 R173). -/
structure Sample where
  t     : Nat
  cells : List Int
  is1   : Int
  is2   : Int
  flags : Nat
deriving DecidableEq, Repr, Inhabited

/-- The exposure (06 R172–R176). -/
structure ExpoSt where
  state    : ExpoState
  tag      : Nat
  done     : Nat
  plan     : Plan
  pos      : Nat
  depth    : Nat
  ring     : List Sample
  trip     : Option Nat
  own      : Bool
  conflict : Bool
  segment  : List Byte
  /-- granary banks 19–37 have been used since they were cleared -/
  used : Bool
deriving DecidableEq, Repr, Inhabited

/-- CHG of POWER.STATUS (13 Table 13.10). -/
inductive ChgState where
  | off | wait | precharge | cc | cv | detect | done | suspended | fault
deriving DecidableEq, Repr, Inhabited

/-- Power path, reserve cell charger and sharing (13). `hold` is the SHORT/TIMEOUT hold; `faults` the latched bits. -/
structure PowerSt where
  keepOnRes : Bool
  vpwrGood  : Bool
  vauxSt    : Bool
  vauxSh    : Bool
  hvinOk    : Bool
  stageOn   : Bool
  resOpen   : Bool
  chg       : ChgState
  vinregAct : Bool
  defaults  : Bool
  present   : Bool
  resTemp   : Int
  en        : Bool
  chem      : Nat
  timeoutH  : Nat
  ichg      : Nat
  nowMa     : Nat
  vcv       : Nat
  vresMv    : Nat
  vinreg    : Nat
  fMissing  : Bool
  fShort    : Bool
  fTimeout  : Bool
  fNtc      : Bool
  fShare    : Bool
  hold      : Bool
  missed    : Bool
  /-- the thermistor on RESTS is open or shorted (13 Table 13.6) -/
  ntc       : Bool
  shareEn   : Bool
  shareOn   : Bool
  shareMa   : Nat
  tChg      : Nat
  contact   : Nat
  since     : Nat
  fastFrom  : Nat
  goodAt    : Nat
  retained  : Bool
  /-- FLT_SUPPLY items of Table 13.3 that hold -/
  supply    : List Nat
  /-- wall time from which t_PG counts (R355) -/
  pgFrom    : Nat
  /-- wall time at which SHARE_OVER opened the VSHR switch (R365) -/
  shareAt   : Option Nat
  /-- wall time at which a long press took hold (R368) -/
  lpAt      : Option Nat
  /-- the contact timer has reached T_CHG and not restarted since (R364) -/
  contactDone : Bool
  /-- the charger runs from VAUX in the share range (R362) -/
  onVaux    : Bool
  /-- HVIN is the input of the step-down stage, not VAUX (R348) -/
  stageHv   : Bool
deriving DecidableEq, Repr, Inhabited

/-- The Grenpa wire master (15 Table 15.5). -/
structure WireSt where
  fn        : FnState
  spuEn     : Bool
  fixed     : Bool
  maxRounds : Nat
  seed      : Nat
  lSpu      : Bool
  lFixed    : Bool
  lRounds   : Nat
  lSeed     : Nat
  rounds    : Nat
  last      : Nat
  dropped   : Nat
  collisions : Nat
  retries   : Nat
  faultCode : Nat
  index     : Nat
  ids       : List Nat
  /-- strong pull-up in force: wall time of its start, its length in tt, TAG of the operation -/
  spu       : Option (Nat × Nat)
  opTag     : Option Nat
  /-- the device drives GWSPU low -/
  pulled    : Bool
  /-- the WRITE whose t_WR runs was answered 0x5A -/
  refused   : Bool
deriving DecidableEq, Repr, Inhabited

/-- A BIST record (12 Table 12.2). `steps` are (RESULT, ITEM, DETAIL) of steps 1–10. -/
structure BistRec where
  format   : Nat
  complete : Bool
  pass     : Bool
  prevCut  : Bool
  wdt      : Bool
  cutLock  : Bool
  step     : Nat
  failStep : Nat
  history  : Nat
  config   : Nat
  cuts     : Nat
  reset    : Nat
  rtc      : Nat
  duration : Nat
  cover    : Nat
  steps    : List (Nat × Nat × Nat)
  /-- SIGNATURE as the retained SRAM holds it (12 R341) -/
  sig      : Nat
deriving DecidableEq, Repr, Inhabited

/-- The BIST in progress (12). `world` is what its steps find; `halted` the step that hangs. -/
structure BistSt where
  cur     : BistRec
  prev    : BistRec
  running : Bool
  world   : BistWorld
  hang    : Option Nat
  goodAt  : Nat
  /-- cells that step 4 found present (02 R75) -/
  present : Nat
  /-- TEST read high at this reset (18 R456) -/
  testHeld : Bool
deriving DecidableEq, Repr, Inhabited

/-- What the keep island's retained SRAM holds of an interrupted survey and commit (03 R103, 16 R415). -/
structure RetainedSt where
  survey : Option (Nat × Nat × Nat × Nat)
  commit : Option (Nat × Nat × Nat × Nat × Nat)
  snapshot : Option Snapshot
  histOutcome : Nat
  rtcBroken : Bool
  /-- roll-call failures before a watchdog expiry, for the ledger entry of the next release (11 R317) -/
  wdog : Option Nat
deriving DecidableEq, Repr, Inhabited

/-- What left the device in the last command (the model's own): line units, host writes, messages, pins. -/
inductive OutEvt where
  | long (port hseq : Nat) (crier : Bool) (f : Frame)
  | short (port b0 b1 b2 : Nat)
  | abort (port : Nat) (crier : Bool)
  | train (port rate : Nat) (crier : Bool) (f : Frame)
  | tone (port : Nat) (safety : Option (Bool × Frame))
  | legacy (addr cmd : Nat) (data : List Byte) (crc : Nat)
  | hostWrite (addr : Nat) (bytes : List Byte)
  /-- a read request for a burst of descriptors (09 R261) -/
  | hostRead (addr bytes : Nat)
  | msix (v : Nat)
  | pewake
  | hostwake
  /-- the Grenpa wire (15 R390, R391): a reset sequence, write cells with the bit of each, read cells -/
  | gwReset
  | gwWrite (bits : List Bool)
  | gwRead (cells : Nat)
  /-- what the device drives on DIO, in the order sent (16 R422) -/
  | dio (bits : List Bool)
deriving DecidableEq, Repr, Inhabited

/-- The answer to the last command (the model's own): completion or access status (09 Table 9.12, 16 RETRY, 17 no
answer, 18 answer to follow), its value, and the words or bytes read. -/
structure Reply where
  status : Nat
  value  : Nat
  words  : List Nat
  bytes  : List Byte
deriving DecidableEq, Repr, Inhabited

/-- The whole device. `pending` is the model's queue of waiting commands, `free` its count of free values taken,
`reply` and `out` what the last command answered and sent. -/
structure State where
  pending  : List Instr
  free     : Nat
  reply    : Option Reply
  out      : List OutEvt
  clk      : ClkSt
  ident    : IdentSt
  mode     : ModeSt
  fault    : FaultSt
  wdog     : WdogSt
  clocks   : Nat
  hostWd   : WdogSt
  checks   : List CheckSt
  flash    : FlashSt
  dbg      : DbgSt
  ports    : List PortSt
  legacy   : LegacySt
  cmdRefs  : List CmdRef
  tree     : TreeSt
  host     : HostSt
  safety   : SafetySt
  sweep    : SweepSt
  cells    : List CellSt
  survey   : SurveySt
  bal      : BalanceSt
  diag     : DiagSt
  glean    : GleanSt
  expo     : ExpoSt
  power    : PowerSt
  wire     : WireSt
  bist     : BistSt
  kept     : RetainedSt
  granary  : Mem
deriving DecidableEq, Repr, Inhabited

/-- Why the device stops. -/
inductive Fault where
  /-- Raised by no command: the spec names no event that stops the device for good (safe). -/
  | stopped
deriving DecidableEq, Repr

/-- Why a command has no meaning. -/
inductive Refusal where
  /-- Raised by exec for a row that has no meaning yet, by its mnemonic (safe). -/
  | notModelled (mnemonic : String)
deriving DecidableEq, Repr

/-! ### The instant a reset ends -/

def emptyFrame : Frame :=
  { typ := 0, cls := 0, hasScope := false, dest := 0, src := 0, depth := 0, tag := 0, payload := [] }

def SeqSpace.reset : SeqSpace := { txNext := 0, unacked := [], rxNext := 0, nakSent := false }

def Four.zero : Four := { s := 0, c := 0, d := 0, b := 0 }

def PortCnt.zero : PortCnt :=
  { tx := 0, rx := 0, condemned := 0, retransmits := 0, cmdCounter := 0, cmdCheck := 0, crierOk := 0, crierBad := 0
    legacyCrc := 0, legacyNoReply := 0 }

def TrainSt.reset : TrainSt :=
  { step := 0, got := 0, agreedRx := false, agreedTx := false, rate := 0, since := 0, began := 0, trained := false
    partnerMax := 0 }

def CrierSt.reset : CrierSt := { rxBits := [], last := [], txMsg := [], txBit := 0, txCount := 0, tphBad := 0 }

/-- A port after reset (07 Table 7.8); RATE.MAX follows the flash configuration at BIST. -/
def PortSt.reset : PortSt :=
  { fn := .stopped, retryMax := 8, link := .disabled, tone := false, retrains := 0, rateMax := 2, rateNow := 0
    legacy := false, tol := 20, lRetry := 8, lRate := 2, lTol := 20, lLegacy := false
    credits := Four.zero, owed := Four.zero, cnt := PortCnt.zero, spaceS := SeqSpace.reset, spaceN := SeqSpace.reset
    txq := { safety := [], control := [], data := [], bulk := [], defC := 0, defD := 0, defB := 0 }
    train := TrainSt.reset, partner := none, crier := CrierSt.reset
    time := { seq := 0, t1 := 0, d := 0, lastSent := 0 }, everUp := false, lostAt := none, held := []
    lastTx := 0, toneAt := 0, afterTone := false
    alt := false, late := false, failed := false, overflow := false, kid := none, hot := false, altPeer := none, bufUsed := false }

def WdogSt.reset : WdogSt :=
  { running := false, openT := 1, closeT := 1000, winOpen := 1, winClose := 1000, count := 0, keyHeld := false
    pendEarly := 0, pendValid := 0, early := false, rollFail := false, duplicate := false, checked := 0
    rollMask := 0xFFF, rollFails := 0, expired := false, erasing := none }

def CheckSt.reset : CheckSt :=
  { state := .stopped, job := false, sel := 1, customInit := false, init := 0xFFFFFFFF, expect := 0, length := 1
    lSel := 1, lExpect := 0, lLength := 1, reg := 0, count := 0, outcome := 0, result := 0 }

def CommitSt.reset : CommitSt :=
  { isOpen := false, state := 0, reason := 0, sectors := 0, pages := 0, done := [], length := 0, crc := 0, tag := none
    start := 0, startRtc := 0, lastPiece := 0, recA := false, lastPending := 0, tResp := 50, owing := [], rx := [] }

def Deb.zero : Deb := { bad := 0, good := 0, rep := false }

def Ent.none : Ent := { v := 0, ok := false }

def CellSt.reset : CellSt :=
  { code := 0, raw := 0, vLast := none, proof := 0, mirror := 0, pHist := [], pCount := 0, pExceed := false, pDone := false
    rDone := false, rate := [], rCount := 0, seconds := 300, lSeconds := 300, remain := 0, excluded := false, closed := false, changed := 0
    log := [], mirCount := 0, stuck := none, rPath := Ent.none, rOn := Ent.none, prevPath := 0, ov := Deb.zero, uv := Deb.zero
    un := Deb.zero }

def SweepPar.reset : SweepPar :=
  { source := 0, period := 4000, corner := 4, mask := 0, blank := 0, settle := 200, auxDiv := 10, en1 := false
    en2 := false, inv1 := false, inv2 := false, gain1 := 0x800000, gain2 := 0x800000 }

def SurveyPar.reset : SurveyPar :=
  { setBase := false, tag := 0, ripple := false, groups := 0, chargePos := false, points := 1, cycles := 64
    minMa := 20, minSnr := 20, source := 0, shunt := 100000, freq := List.replicate 40 1000000, pubEn := false
    pubCh := 0 }

def SafBlock.new : SafBlock :=
  { func1 := 0, func2 := 0, ov := 4300, uv := 2000, ot := 0, debounce := 3, hbPeriod := 10, hbTimeout := 50
    disc1 := 100, disc2 := 100, degLimit := 24, brake := 1000, enroll := [] }

def OutputSt.reset : OutputSt :=
  { on := false, tripped := false, cause := 0, tpos := 0, titem := 0, autoUsed := false, pulse := none, nextSw := 0
    lastPulse := 0, tripAt := none, checked := false, judged := false }

def InputSt.reset : InputSt := { a := false, b := false, disc := false, since := none, bothOpen := false }

def SqSt.reset : SqSt :=
  { baseLo := 0, baseHi := 0, log2 := 4, state := .stopped, cq := 0, weight := 8, head := 0, tail := 0
    badBell := false, limit := 4032 }

def CqSt.reset : CqSt :=
  { baseLo := 0, baseHi := 0, log2 := 4, state := .stopped, vector := 0, irqEn := false, coCount := 1, coTime := 0
    tail := 0, phase := true, full := false, head := 0, unsig := 0, unsigAt := 0 }

def PoolSt.reset : PoolSt :=
  { listLo := 0, listHi := 0, listLog2 := 4, bufLog2 := 12, en := false, tail := 0, head := 0, waiting := false, closing := false }

/-- Advanced Error Reporting after reset: severities and the mask of correctable errors (PRESUMED from PCI Express Base 3.0,
notes/assumptions/61.md). -/
def aerReset : List Nat := [0, 0, 0x62010, 0, 0x2000, 0, 0, 0, 0, 0]

/-- The host island after reset (09 Tables 9.3–9.7). -/
def HostSt.reset : HostSt :=
  { enable := false, eventEn := false, eventCq := 0, eventPool := 0, writeIgn := false, drops := 0, speed := 3
    width := 2, speedNow := 0, widthNow := 0, linkUp := false, perst := false, refclk := false
    partner := (0, 0), ids := (0, 0), bar0 := 0, mps := 128, mrrs := 512, aspmL1 := false, d3hot := false, pmeEn := false
    pmeStatus := false, sq := { SqSt.reset with limit := 4096 } :: List.replicate 255 SqSt.reset
    cq := List.replicate 256 CqSt.reset, pool := List.replicate 64 PoolSt.reset, msix := [], msixPend := []
    events := [], eventCid := 0, heldWait := [], heldTold := [], txs := [], streams := [], aer := aerReset, gens := [], waits := [], cplWait := [], refs := [], used := false }

def WalkSt.reset : WalkSt :=
  { active := false, id := 0, upPort := none, next := 0, port := 0, training := false, since := 0, tStart := 0
    lastPend := 0, anyFail := false, tid := none, tResp := 50 }

def TreeSt.reset : TreeSt :=
  { pos := 0, valid := false, pending := false, reversal := none, cutBy := false, curUp := 0, numUp := 0, depth := 0
    hi := 0, hopDelay := 0, tResp := 50, strobeLead := 400, takeover := 20, sync := .unsync, steps := 0, tphFail := 0
    stepNext := false, good := 0, lastSync := none, upLocked := 0, rootUid := 0
    dropped := 0, heldArea := [], unsol := 0, routes := [], inCharge := false, standbyLike := false, walkId := 0, walked := false
    numberedBy := 0, walk := WalkSt.reset, marks := [], topo := [], reroutes := [], attaches := [], attachWait := [], waiting := [], parent := 0, parentPort := 0, alias_ := none
    lastStrobe := 0 }

def BistRec.empty : BistRec :=
  { format := 0, complete := false, pass := false, prevCut := false, wdt := false, cutLock := false, step := 0
    failStep := 0, history := 0xFF, config := 0, cuts := 0, reset := 0, rtc := 0, duration := 0, cover := 0
    steps := List.replicate 10 (0, 0, 0), sig := 0 }

/-- A BIST that finds nothing, of a device with no tier powered and every contact open. -/
def BistWorld.none : BistWorld :=
  { role := 0, vreg := [], vaux := false, test := false, channels := [], clocks := [], march := [], ecc := [], wear := [], tiers := []
    cells := [], is1 := 0, is2 := 0, aux := 0x8000, reach := [true, true, true, true], contacts := [], hangs := [] }

/-- Words 0–1,022 of the flash configuration of a new device: format 1, SEQ 1, masks of 16 cells for every tier,
CHEM 0, every port at 400 Mb/s, window 1 to 1,000 ticks. -/
def defaultConfig : List Nat :=
  [1, 1, 0, 0, 0xFFFFFFFF, 0xFFFF, 0xAA, 1000 * 65536 + 1] ++ List.replicate 1015 0

/-- Its CRC-32C (16 Table 16.9, word 1,023); Tests/Slice0.lean computes it. -/
def defaultConfigCrc : Nat := 1271986751

/-- The bytes of a number from an address on, lowest first, leaving out the bytes 0xFF of erased flash. -/
def flashBytes : Nat → Nat → Nat → Mem
  | 0, _, _ => []
  | k + 1, a, n =>
    let r := flashBytes k (a + 1) (n / 256)
    if n % 256 = 255 then r else (a, BitVec.ofNat 8 n) :: r

/-- The 256-byte header of a new device's 512-byte image (16 Table 16.3); the bytes after it are erased. -/
def newImageHeader : Nat :=
  148855820599990724799256633200394809478771691066924951450340357578812736026239287236979613692584039792019519624775189802452750137318711659257034386025348219853230927816940545202016271211928122458978844470933104677811691009563221187306556367265617554664086749976106030348932892545964496783652528295215931606859

/-- Key slot 0 of a new device: the public key that signs that image, and its CRC-32C. -/
def newKey : Nat :=
  22431118197733051060253776396842992622782905089207869796213566730899824034096873805213285688145526343096367801362922954731615608779195865257607971796589814346139696

def newRec : CommitRec :=
  { seq := 1, active := 0, previous := 0xFF, length := 512, crc := 2961746436, version := 1, rtc := 0 }

def FlashSt.new : FlashSt :=
  { bank0 := flashBytes 256 0 newImageHeader, bank1 := [], dataArea := flashBytes 68 0x2000 newKey
    cfgA := defaultConfig ++ [defaultConfigCrc], cfgB := []
    shadow := List.replicate 1024 0, cfgIndex := 0
    recA := some newRec, recB := some newRec
    active := 0, log := [], queue := [], nextSeq := 0, lost := 0, eccCorr := 0, eccUncorr := 0, loadIdle := 10
    commit := CommitSt.reset, pageAddr := 0, pageWords := [], portWrote := false, erases := [], logAt := 0, wear := [], fetchStop := false }

def ClkSt.reset : ClkSt :=
  { wall := 0, tt := 0, frac := 0, trim := 0, treeOn := false, xtalOn := true, rtc := 0, rtcSub := 0, timeHi := 0 }

def ModeSt.reset : ModeSt :=
  { mode := .bist, prior := none, cause := 1, station := false, sweepHeld := false, wakeSource := 0, wakePort := 0
    lampItem := 0, lampSafety := false, tLoss := 2000, lampInterval := 1000, lampUv := 0, lampOv := 0, cutSince := none
    lossMs := 2000, resetAt := none, haltHeld := false, fromSafe := false, shipDue := false, lampAt := 0, dormantAt := 0 }

def FaultSt.reset : FaultSt :=
  { isOpen := false, escalated := false, id := 0, item := 0, recMode := 0, time := 0, grace := 10, left := 0
    graceSub := 0, action := 0, actionNow := 0, enable0 := 0x07FFFFFE, enable1 := 0x07FFFFFE, running := false
    evq := [], low := false }

def DbgSt.reset : DbgSt :=
  { attached := false, halted := false, hit := 0, hitValid := false, err := 0
    brk := List.replicate 8 { en := false, typ := 0, wo := false, value := 0 }, stepping := false, held := [], go := false, passJob := none, passDesc := none }

def LegacySt.reset : LegacySt :=
  { devs := [], queue := [], polling := false, pollT := 0, pollMode := 0, pollNo := 0, words := [], records := [], status := [] }

def SafetySt.new (digest : Nat) : SafetySt :=
  { block := SafBlock.new, digest := digest, session := none, origin := 0, lastWrite := 0, staged := [], fails := 0
    level := 0, lockEnd := none, out1 := OutputSt.reset, out2 := OutputSt.reset, in1 := InputSt.reset
    in2 := InputSt.reset, failed := [false, false, false, false], degEnd := none, heard := [], sup := []
    nv := { block := SafBlock.new, digest := digest, fails := 0, level := 0, lock := 0, crcOk := true, writes := 0 }
    parish := [], parishSeq := 0, parishQ := [], lastBeat := 0, lastEval := 0, relock := false, dropped := none }

def SweepSt.reset : SweepSt :=
  { fn := .stopped, late := 0, par := SweepPar.reset, lat := SweepPar.reset, count := 0, pubEn := false, pubCh := 0
    startT := 0, outputs := 0, lastT := none, cursor := 0, pend := [], blankTo := none, tbias := false
    aux := List.replicate 16 0, auxAge := none, auxSeen := List.replicate 16 0, auxDeb := List.replicate 16 Deb.zero
    auxUn := List.replicate 16 Deb.zero, discards := [0, 0, 0], proofLost := [], slotsLost := [], live := [], counted := 0, lastSnap := 0
    snapBusy := false, tierTemp := [none, none, none], recsUsed := false }

def SurveySt.reset : SurveySt :=
  { fn := .stopped, par := SurveyPar.reset, lat := SurveyPar.reset, t0 := 0, tid := none, scope := (0, 0), point := 0, group := 0
    last := 0, reason := 0, base := 0, baseIndex := 0, baseArea := List.replicate 1023 0, run := none, after := 0
    exciteOn := false, toggles := 0, outs := [], currents := [], locked := false, recs := [], outcome := 0
    blocks := [], pubQ := [], pubNext := 0, pubLost := false, exciteLog := [], jobs := [], closing := none, used := false }

def BalanceSt.reset : BalanceSt :=
  { fn := .stopped, cont := false, enable := 0, limit := 1200, lEnable := 0, lLimit := 1200, starved := false
    suspHalt := false, governing := false, hot := false, duty := [], last := 0, reason := 0, pointer := 1
    allowed := 0, slotAt := none, resumeAt := none }

def DiagSt.reset : DiagSt :=
  { owEn := true, rocEn := true, tolerance := 25, persist := 3, owPeriod := 1000, switchEn := true, harnessEn := true
    ovrOw := false, ovrSwitch := false, ovrHarness := false, harnessHigh := false, pathChange := false
    harnessOn := false, refProof := [false, false, false], refWit := [false, false, false], refCnt := [0, 0, 0]
    witCnt := [0, 0, 0], swPeriod := 600, haPeriod := 3600, rocFixed := 10, rocSlope := 50, dFault := 0, dItem := 0
    dCheck := 0, dTier := 0, index := 0, rw := List.replicate 49 Ent.none, harnessAt := none, switchAt := none
    roundAt := none, rounds := [], vreg := [0, 0, 0], witAt := [none, none, none], witRec := [none, none, none]
    loopPtr := [0, 0, 0], loopMis := [0, 0, 0], loopOn := [0, 0, 0], openWires := [], suspects := [], steps := [], readLost := []
    owDone := [], swDone := [], haDone := [], owSince := 0, swSince := 0, haSince := 0, owFault := false
    swFault := false, swNow := false, ests := [], hOuts := [] }

def GleanSt.reset : GleanSt :=
  { islandEn := 15, islandOk := 15, inUse := 15, advertised := 0, collectLimit := 75, gleans := 0, overflows := 0
    gleaners := List.replicate 16 { running := none, deque := [], scratch := [] }, waiting := [], finished := [], nextAdm := 0
    harvests := [], members := [], legacyJobs := [], forwards := [], closed := [], asked := [], jobsUsed := false, gatherUsed := false }

def ExpoSt.reset : ExpoSt :=
  { state := .idle, tag := 0, done := 0
    plan := { corner := 0, trigger := 0, channel := 0, options := 0, n := 16, pre := 0, level := 0, time := 0 }
    pos := 0, depth := 0, ring := [], trip := none, own := false, conflict := false, segment := [], used := false }

/-- Power right at VPWR good after a KEEP power-on reset: safe defaults of Table 13.8, CHEM from BIST. -/
def PowerSt.reset : PowerSt :=
  { keepOnRes := false, vpwrGood := true, vauxSt := false, vauxSh := false, hvinOk := true, stageOn := true
    resOpen := false, chg := .off, vinregAct := false, defaults := false, present := false, resTemp := -32768
    en := false, chem := 0, timeoutH := 10, ichg := 10, nowMa := 0, vcv := 0, vresMv := 0, vinreg := 4500
    fMissing := false, fShort := false, fTimeout := false, fNtc := false, fShare := false, hold := false
    missed := false, ntc := false, shareEn := false, shareOn := false, shareMa := 0, tChg := 60, contact := 0, since := 0
    fastFrom := 0, goodAt := 0, retained := false, supply := [], pgFrom := 0, shareAt := none, lpAt := none, contactDone := false, onVaux := false, stageHv := true }

def WireSt.reset : WireSt :=
  { fn := .stopped, spuEn := true, fixed := false, maxRounds := 8, seed := 0, lSpu := true, lFixed := false
    lRounds := 8, lSeed := 0, rounds := 0, last := 0, dropped := 0, collisions := 0, retries := 0, faultCode := 0
    index := 0, ids := [], spu := none, opTag := none, pulled := false, refused := false }

def BistSt.reset : BistSt :=
  { cur := BistRec.empty, prev := BistRec.empty, running := false, world := BistWorld.none, hang := none, goodAt := 0, present := 0, testHeld := false }

def RetainedSt.reset : RetainedSt :=
  { survey := none, commit := none, snapshot := none, histOutcome := 1, rtcBroken := false, wdog := none }

/-- Identity of the unit the model stands for (17 Table 17.4): UID 0x0000_C14D_5E21_07A3, the spec's worked unit. -/
def IdentSt.new : IdentSt :=
  { silicon := 0x10, uid := 0x0000C14D5E2107A3, tiers := 0, role := .leaf, wdtHwstart := false, debugLock := false
    wdtBlown := false, lockBlown := false }

/-- SHA-256 of passcode 0 and the UID (10 R286); Tests/Slice0.lean computes it. -/
def factoryDigest : Nat :=
  87839259681879425068884626807580912854659267004010440166837178630783270906939

/-- The device right after a reset that ends with VPWR good, of a new device whose keep island has just powered up:
MODE.STATE reads BIST (0x4) and the BIST has not started. -/
def State.reset : State :=
  { pending := [], free := 0, reply := none, out := [], clk := ClkSt.reset, ident := IdentSt.new
    mode := ModeSt.reset, fault := FaultSt.reset, wdog := WdogSt.reset, clocks := 0
    hostWd := { WdogSt.reset with openT := 0, rollMask := 0 }
    checks := List.replicate 4 CheckSt.reset, flash := FlashSt.new, dbg := DbgSt.reset
    ports := List.replicate 4 PortSt.reset, legacy := LegacySt.reset, cmdRefs := [], tree := TreeSt.reset
    host := HostSt.reset, safety := SafetySt.new factoryDigest, sweep := SweepSt.reset
    cells := List.replicate 48 CellSt.reset, survey := SurveySt.reset, bal := BalanceSt.reset, diag := DiagSt.reset
    glean := GleanSt.reset, expo := ExpoSt.reset, power := PowerSt.reset, wire := WireSt.reset, bist := BistSt.reset
    kept := RetainedSt.reset, granary := [] }

end Sys2Proof.Machine
end

