-- ==== Sys2Proof/Machine/Bits.lean ====
section
/-! DEFINITION. Bit fields, byte order, two's complement, saturation, and memories as sorted lists. -/

namespace Sys2Proof.Machine

/-- Bits [hi:lo] of a word (00_scope.md R2). -/
def fld (n hi lo : Nat) : Nat := (n >>> lo) % 2 ^ (hi - lo + 1)

/-- Bit i of a word. -/
def bit (n i : Nat) : Bool := n.testBit i

/-- A one-bit field at bit i. -/
def flag (b : Bool) (i : Nat) : Nat := if b then 2 ^ i else 0

/-- A field of w bits at bit lo. -/
def put (v lo w : Nat) : Nat := (v % 2 ^ w) * 2 ^ lo

/-- The two's complement of an integer in w bits. -/
def uns (w : Nat) (i : Int) : Nat := (i % (2 ^ w : Int)).toNat

/-- The signed value of the low w bits. -/
def sgn (w n : Nat) : Int :=
  let m := n % 2 ^ w
  if m < 2 ^ (w - 1) then (m : Int) else (m : Int) - (2 ^ w : Int)

/-- k bytes of a number, lowest first (R2: little-endian). -/
def le : Nat → Nat → List Byte
  | 0, _ => []
  | k + 1, n => BitVec.ofNat 8 n :: le k (n / 256)

/-- The number that bytes give, lowest first. -/
def ofLe : List Byte → Nat
  | [] => 0
  | b :: bs => b.toNat + 256 * ofLe bs

/-- The number that bytes give, highest first. -/
def ofBe (bs : List Byte) : Nat := ofLe bs.reverse

/-- Bytes of a list of words, each little-endian in k bytes. -/
def wordsLe (k : Nat) (ws : List Nat) : List Byte := ws.flatMap (le k)

/-- n bytes from offset o, 0 where the list is short. -/
def slice (bs : List Byte) (o n : Nat) : List Byte :=
  let t := (bs.drop o).take n
  t ++ List.replicate (n - t.length) 0

/-- The little-endian field of n bytes at offset o. -/
def at_ (bs : List Byte) (o n : Nat) : Nat := ofLe (slice bs o n)

/-- A counter that saturates at m. -/
def sat (m n : Nat) : Nat := if m < n then m else n

/-- An integer held within lo to hi. -/
def clampI (lo hi i : Int) : Int := if i < lo then lo else if hi < i then hi else i

/-- Quotient rounded to nearest, halves away from zero; 0 where the divisor is 0. -/
def roundDiv (a b : Int) : Int :=
  if b = 0 then 0
  else
    let n : Int := a.natAbs
    let d : Int := b.natAbs
    let q := (2 * n + d) / (2 * d)
    if (a < 0) = (b < 0) then q else -q

/-- Quotient rounded up. -/
def ceilDiv (a b : Nat) : Nat := (a + b - 1) / b

/-- List element replaced by its image. -/
def updAt {α : Type} (l : List α) (i : Nat) (f : α → α) : List α :=
  match l[i]? with
  | some x => l.set i (f x)
  | none => l

/-- f repeated n times. -/
def iter {α : Type} (f : α → α) : Nat → α → α
  | 0, x => x
  | n + 1, x => iter f n (f x)

/-! ### Sparse memories: keys strictly rising, no entry equal to the default -/

/-- Value of an unlisted key is d. -/
def mget {β : Type} (d : β) : List (Nat × β) → Nat → β
  | [], _ => d
  | (k, v) :: r, a => if a = k then v else if a < k then d else mget d r a

/-- Insertion that keeps the keys rising. -/
def mins {β : Type} (a : Nat) (x : β) : List (Nat × β) → List (Nat × β)
  | [] => [(a, x)]
  | (k, v) :: r => if a < k then (a, x) :: (k, v) :: r else if a = k then (a, x) :: r else (k, v) :: mins a x r

/-- Removal of a key. -/
def mdel {β : Type} (a : Nat) : List (Nat × β) → List (Nat × β)
  | [] => []
  | (k, v) :: r => if a < k then (k, v) :: r else if a = k then r else (k, v) :: mdel a r

/-- A write; the default value removes the entry. -/
def mset {β : Type} [DecidableEq β] (d : β) (m : List (Nat × β)) (a : Nat) (x : β) : List (Nat × β) :=
  if x = d then mdel a m else mins a x m

/-- The canonical form of a sparse memory: keys strictly rising from a lower bound, no default values. -/
def mwfFrom {β : Type} [DecidableEq β] (d : β) : Nat → List (Nat × β) → Bool
  | _, [] => true
  | lo, (k, v) :: r => decide (lo ≤ k) && !decide (v = d) && mwfFrom d (k + 1) r

/-- The canonical form. -/
def Memory.wf (d : Byte) (m : Mem) : Bool := mwfFrom d 0 m

/-- n bytes of a memory from address a, in address order. -/
def mread (d : Byte) (m : Mem) (a : Nat) : Nat → List Byte
  | 0 => []
  | n + 1 => mget d m a :: mread d m (a + 1) n

/-- Bytes stored from address a. -/
def mwrite (d : Byte) (m : Mem) (a : Nat) : List Byte → Mem
  | [] => m
  | b :: bs => mwrite d (mset d m a b) (a + 1) bs

/-- The canonical form of a memory whose unlisted addresses hold no value: keys strictly rising from a lower bound. -/
def risingFrom {β : Type} : Nat → List (Nat × β) → Bool
  | _, [] => true
  | lo, (k, _) :: r => decide (lo ≤ k) && risingFrom (k + 1) r

/-- The canonical form of the granary, which lists every byte written through the debug port and no other. -/
def Memory.rising (m : Mem) : Bool := risingFrom 0 m

/-- The byte at an address of the granary, where one is listed. -/
def gget : Mem → Nat → Option Byte
  | [], _ => none
  | (k, v) :: r, a => if a = k then some v else if a < k then none else gget r a

/-- Bytes stored in the granary from address a. -/
def gwrite (m : Mem) (a : Nat) : List Byte → Mem
  | [] => m
  | b :: bs => gwrite (mins a b m) (a + 1) bs

/-- The byte an erased flash cell reads as (16 R409). -/
def flashByte : Byte := 0xFF

end Sys2Proof.Machine
end

