-- ==== Sys2Proof/Machine/Digest.lean ====
section
/-! DEFINITION. The check codes of the spec (CRC-32, CRC-32C, CRC-16/CCITT, CRC-8, CRC-4), and SHA-256 and ECDSA P-256,
which 10_safety.md R286 and 16_flash_ledger_debug.md R409 name and whose definitions are taken from the public standards
(PRESUMED, notes/assumptions/12.md). -/

namespace Sys2Proof.Machine

/-- One bit of a reflected CRC. -/
def crcReflBit (poly c : Nat) : Nat := if c.testBit 0 then (c >>> 1) ^^^ poly else c >>> 1

/-- One byte of a reflected CRC. -/
def crcReflByte (poly c : Nat) (b : Byte) : Nat := iter (crcReflBit poly) 8 (c ^^^ b.toNat)

/-- One bit of a CRC of width w, most significant bit first. -/
def crcMsbBit (w poly c : Nat) : Nat :=
  if c.testBit (w - 1) then ((c <<< 1) ^^^ poly) % 2 ^ w else (c <<< 1) % 2 ^ w

/-- One byte of a CRC of width w ≥ 8, most significant bit first. -/
def crcMsbByte (w poly c : Nat) (b : Byte) : Nat := iter (crcMsbBit w poly) 8 (c ^^^ (b.toNat <<< (w - 8)))

/-- One bit of the debug port's CRC-4 (16 R422): polynomial x⁴ + x + 1, bits in the order sent. -/
def crc4Bit (c : Nat) (b : Bool) : Nat := crcMsbBit 4 3 (c ^^^ (if b then 8 else 0))

/-- CRC-4 over bits in the order sent, from 0b1111. -/
def crc4 (bits : List Bool) : Nat := bits.foldl crc4Bit 15

/-- Width of algorithm SEL (11 Table 11.6). -/
def crcWidth (sel : Nat) : Nat := if sel = 0 then 32 else if sel = 1 then 32 else if sel = 2 then 16 else 8

/-- Initial value of algorithm SEL. -/
def crcInit (sel : Nat) : Nat := 2 ^ crcWidth sel - 1

/-- One byte fed to algorithm SEL. -/
def crcStep (sel c : Nat) (b : Byte) : Nat :=
  if sel = 0 then crcReflByte 0xEDB88320 c b
  else if sel = 1 then crcReflByte 0x82F63B78 c b
  else if sel = 2 then crcMsbByte 16 0x1021 c b
  else crcMsbByte 8 0x2F c b

/-- The final XOR of algorithm SEL. -/
def crcFinal (sel c : Nat) : Nat :=
  if sel = 0 then c ^^^ 0xFFFFFFFF else if sel = 1 then c ^^^ 0xFFFFFFFF else if sel = 2 then c else c ^^^ 0xFF

/-- Algorithm SEL over bytes. -/
def crcOf (sel : Nat) (bs : List Byte) : Nat := crcFinal sel (bs.foldl (crcStep sel) (crcInit sel))

/-- CRC-32C (02 R69). -/
def crc32c (bs : List Byte) : Nat := crcOf 1 bs

/-- CRC-16/CCITT (07 R210). -/
def crc16 (bs : List Byte) : Nat := crcOf 2 bs

/-- CRC-8 (07 R208). -/
def crc8 (bs : List Byte) : Nat := crcOf 3 bs

/-- CRC-16/CCITT with another initial value, the draw of 15 R395. -/
def crc16From (init : Nat) (bs : List Byte) : Nat := bs.foldl (crcStep 2) init

/-- Bytes with their CRC-32C after them (R69). -/
def withCrc (bs : List Byte) : List Byte := bs ++ le 4 (crc32c bs)

/-! ### SHA-256

The standard defines its constants as binary fractions of the roots of the first primes; they are computed as it defines them. -/

/-- Whether n has no divisor from 2 to 17 but itself; for n below 361 that is to be prime. -/
def noSmallDivisor (n : Nat) : Bool := decide (2 ≤ n) && (List.range 18).all (fun d => decide (d < 2) || d = n || n % d != 0)

/-- The greatest r below 2 to the power b with r to the power k at most n, from r's top bits on. -/
def rootFloor (k n : Nat) : Nat → Nat → Nat
  | 0, r => r
  | b + 1, r => rootFloor k n b (if (r + 2 ^ b) ^ k ≤ n then r + 2 ^ b else r)

/-- The first 32 bits of the fraction of the k-th root of p, for a root below 64. -/
def rootFraction (k p : Nat) : Nat := rootFloor k (p * 2 ^ (32 * k)) 38 0 % 2 ^ 32

/-- The 64 primes below 312. -/
def shaPrimes : List Nat := (List.range 312).filter noSmallDivisor

def shaK : List Nat := shaPrimes.map (rootFraction 3)
def shaInit : List Nat := (shaPrimes.take 8).map (rootFraction 2)

def add32 (a b : Nat) : Nat := (a + b) % 2 ^ 32

def rotr32 (n x : Nat) : Nat := (x >>> n) ||| ((x <<< (32 - n)) % 2 ^ 32)

/-- The message schedule, newest word first. -/
def shaSchedule : Nat → List Nat → List Nat
  | 0, w => w
  | n + 1, w =>
    let s0w := w.getD 14 0
    let s1w := w.getD 1 0
    let s0 := rotr32 7 s0w ^^^ rotr32 18 s0w ^^^ (s0w >>> 3)
    let s1 := rotr32 17 s1w ^^^ rotr32 19 s1w ^^^ (s1w >>> 10)
    shaSchedule n (add32 (add32 (w.getD 15 0) s0) (add32 (w.getD 6 0) s1) :: w)

def shaRound (h : List Nat) (kw : Nat × Nat) : List Nat :=
  let a := h.getD 0 0
  let b := h.getD 1 0
  let c := h.getD 2 0
  let d := h.getD 3 0
  let e := h.getD 4 0
  let f := h.getD 5 0
  let g := h.getD 6 0
  let hh := h.getD 7 0
  let s1 := rotr32 6 e ^^^ rotr32 11 e ^^^ rotr32 25 e
  let ch := (e &&& f) ^^^ ((e ^^^ 0xFFFFFFFF) &&& g)
  let t1 := add32 (add32 hh s1) (add32 ch (add32 kw.1 kw.2))
  let s0 := rotr32 2 a ^^^ rotr32 13 a ^^^ rotr32 22 a
  let mj := (a &&& b) ^^^ (a &&& c) ^^^ (b &&& c)
  [add32 t1 (add32 s0 mj), a, b, c, add32 d t1, e, f, g]

/-- Big-endian words of a block of 64 bytes. -/
def beWords : Nat → List Byte → List Nat
  | 0, _ => []
  | n + 1, bs => ofBe (bs.take 4) :: beWords n (bs.drop 4)

def shaBlock (h : List Nat) (blk : List Byte) : List Nat :=
  let w := (shaSchedule 48 (beWords 16 blk).reverse).reverse
  let r := (shaK.zip w).foldl shaRound h
  (h.zip r).map (fun p => add32 p.1 p.2)

def shaBlocks : Nat → List Nat → List Byte → List Nat
  | 0, h, _ => h
  | n + 1, h, bs => shaBlocks n (shaBlock h (bs.take 64)) (bs.drop 64)

/-- SHA-256 as a number, first byte most significant. -/
def sha256 (msg : List Byte) : Nat :=
  let n := msg.length
  let pad := (119 - n % 64) % 64
  let m := msg ++ [0x80] ++ List.replicate pad 0 ++ (le 8 (8 * n)).reverse
  (shaBlocks (m.length / 64) shaInit m).foldl (fun acc x => acc * 2 ^ 32 + x) 0

/-! ### ECDSA P-256 -/

def p256P : Nat := 0xFFFFFFFF00000001000000000000000000000000FFFFFFFFFFFFFFFFFFFFFFFF
def p256N : Nat := 0xFFFFFFFF00000000FFFFFFFFFFFFFFFFBCE6FAADA7179E84F3B9CAC2FC632551
def p256B : Nat := 0x5AC635D8AA3A93E7B3EBBD55769886BC651D06B0CC53B0F63BCE3C3E27D2604B
def p256G : Nat × Nat :=
  (0x6B17D1F2E12C4247F8BCE6E563A440F277037D812DEB33A0F4A13945D898C296,
   0x4FE342E2FE1A7F9B8EE7EB4A7C0F9E162BCE33576B315ECECBB6406837BF51F5)

/-- b to the power e modulo m, over k bits of e. -/
def powMod (m : Nat) : Nat → Nat → Nat → Nat
  | 0, _, _ => 1 % m
  | k + 1, b, e =>
    let r := powMod m k (b * b % m) (e / 2)
    if e % 2 = 1 then r * b % m else r

/-- The inverse modulo a prime below 2^256. -/
def invMod (m a : Nat) : Nat := powMod m 256 (a % m) (m - 2)

/-- Point addition in affine coordinates; none is the point at infinity. -/
def ecAdd (p q : Option (Nat × Nat)) : Option (Nat × Nat) :=
  match p, q with
  | none, q => q
  | p, none => p
  | some (x1, y1), some (x2, y2) =>
    if x1 = x2 ∧ (y1 + y2) % p256P = 0 then none
    else
      let l := if x1 = x2 then (3 * x1 * x1 + p256P - 3) * invMod p256P (2 * y1) % p256P
               else (y2 + p256P - y1) * invMod p256P (x2 + p256P - x1) % p256P
      let x3 := (l * l + 2 * p256P - x1 - x2) % p256P
      some (x3, (l * (x1 + p256P - x3) + p256P - y1) % p256P)

/-- k times a point, over n bits of k. -/
def ecMul : Nat → Nat → Option (Nat × Nat) → Option (Nat × Nat)
  | 0, _, _ => none
  | n + 1, k, p =>
    let r := ecMul n (k / 2) (ecAdd p p)
    if k % 2 = 1 then ecAdd r p else r

/-- Whether (r, s) signs the digest e under the public key (qx, qy). -/
def ecdsaOk (e r s qx qy : Nat) : Bool :=
  if r = 0 ∨ s = 0 ∨ p256N ≤ r ∨ p256N ≤ s ∨ p256P ≤ qx ∨ p256P ≤ qy then false
  else if (qy * qy) % p256P ≠ (qx * qx * qx + (p256P - 3) * qx + p256B) % p256P then false
  else
    let w := invMod p256N s
    let pt := ecAdd (ecMul 256 (e * w % p256N) (some p256G)) (ecMul 256 (r * w % p256N) (some (qx, qy)))
    match pt with
    | none => false
    | some (x, _) => x % p256N = r

end Sys2Proof.Machine
end

