-- ==== Sys2Proof/Machine/Ops.lean ====
section
/-! DEFINITION. The named operations every family shares: the frame of a command, replies, free values, time, cells and
ports by number, the ledger queue, fault events, completion entries, events and messages to the host. -/

namespace Sys2Proof.Machine

abbrev Out := Host.Outcome State Fault Refusal

/-- The state a command starts from: the answer and the emissions of the command before it are gone. -/
def State.begin (s : State) : State := { s with reply := none, out := [] }

/-- A command whose effect is f: it touches everything but the queue of waiting commands. -/
def run (f : State → State) (s : State) : Out := .next { f s.begin with pending := s.pending }

/-- An effect only under a condition; otherwise nothing happens. -/
def when_ (c : Bool) (f : State → State) (s : State) : State := if c then f s else s

/-- The converter and core islands have their clock: the crystal is not marked failed (11 Table 11.1). The host, link, keep, watchdog
and safety islands have clocks of their own (01 Table 1.2). -/
def State.crystalRuns (s : State) : Bool := !bit s.clocks 0

/-- The sequencer runs: the core has its clock, and no instruction fetch has met an uncorrectable read (16 R408). -/
def State.coreRuns (s : State) : Bool := s.crystalRuns && !s.flash.fetchStop

/-- A command of the converter island's hardware: while the island stops, it has no effect. -/
def runConv (f : State → State) (s : State) : Out := run (when_ s.crystalRuns f) s

/-- A command that the core carries out: while it stops, it has no effect. -/
def runCore (f : State → State) (s : State) : Out := run (when_ s.coreRuns f) s

/-! ### Answers -/

/-- The status codes of 09 Table 9.12. -/
def stOk : Nat := 0
def stPartial : Nat := 1
def stUnreachable : Nat := 2
def stBusy : Nat := 3
def stDenied : Nat := 4
def stCheckFail : Nat := 5
def stAborted : Nat := 6
def stOverflow : Nat := 7
def stBadDescriptor : Nat := 8
def stTimeout : Nat := 9
/-- The debug port's RETRY, and no answer at all (16 R422). -/
def stRetry : Nat := 16
def stSilent : Nat := 17
/-- The command is accepted and its answer comes later. -/
def stOpen : Nat := 18

def State.answer (s : State) (st : Nat) (v : Nat := 0) (ws : List Nat := []) (bs : List Byte := []) : State :=
  { s with reply := some { status := st, value := v, words := ws, bytes := bs } }

def State.emit (s : State) (e : OutEvt) : State := { s with out := s.out ++ [e] }

/-- The next free value, and the state that has taken it. -/
def State.fresh (s : State) : Nat := (Config.freeWord s.free).toNat
def State.took (s : State) : State := { s with free := s.free + 1 }

/-! ### Time -/

def State.now (s : State) : Nat := s.clk.tt
def State.wall (s : State) : Nat := s.clk.wall
/-- RTC seconds. -/
def State.rtcS (s : State) : Nat := s.clk.rtc / 32768
/-- Wall ticks since an earlier wall time. -/
def State.since (s : State) (w : Nat) : Nat := s.clk.wall - w

/-! ### Cells, ports, roles -/

def State.cell (s : State) (n : Nat) : CellSt := s.cells.getD (n - 1) CellSt.reset
def State.updCell (s : State) (n : Nat) (f : CellSt → CellSt) : State :=
  if n = 0 then s else { s with cells := updAt s.cells (n - 1) f }
def State.mapCells (s : State) (f : Nat → CellSt → CellSt) : State :=
  { s with cells := s.cells.mapIdx (fun i c => f (i + 1) c) }

def State.port (s : State) (p : Nat) : PortSt := s.ports.getD p PortSt.reset
def State.updPort (s : State) (p : Nat) (f : PortSt → PortSt) : State := { s with ports := updAt s.ports p f }

def Role.code : Role → Nat
  | .leaf => 0
  | .hub => 1
  | .root => 2
  | .standby => 3

def roleOf (n : Nat) : Role := if n = 0 then .leaf else if n = 1 then .hub else if n = 2 then .root else .standby

/-- ROOT and ROOT-STANDBY have the PCIe endpoint (01 R25). -/
def State.hasHost (s : State) : Bool := s.ident.role = .root || s.ident.role = .standby

/-- The device acts as the ROOT of the tree: a ROOT that met no standby in charge, or a standby, or such a ROOT, that has taken
over (08 R235). -/
def State.isRoot (s : State) : Bool := (s.ident.role = .root && !s.tree.standbyLike) || (s.hasHost && s.tree.inCharge)

/-- Restricted by 01 R28. -/
def State.restricted (s : State) : Bool := s.hasHost && !s.isRoot

/-- Ports the role holds in reset (01 R25): B–D of a LEAF. -/
def State.heldInReset (s : State) (p : Nat) : Bool := s.ident.role = .leaf && p != 0

/-- The tier of cell n, 1–3. -/
def tierOf (n : Nat) : Nat := (n - 1) / 16 + 1

def State.tierPresent (s : State) (t : Nat) : Bool := decide (1 ≤ t) && decide (t ≤ s.ident.tiers)

/-! ### Modes -/

/-- Mode codes (01 Table 1.6). -/
def Mode.code : Mode → Nat
  | .ship => 1
  | .keep => 2
  | .dormant => 3
  | .bist => 4
  | .quiet => 5
  | .run => 6
  | .survey => 7
  | .commit => 8
  | .halted => 9
  | .degraded => 10
  | .safe => 11
  | .lockout => 12

def FnState.code : FnState → Nat
  | .stopped => 0
  | .running => 1
  | .stopping => 2

def State.inMode (s : State) (ms : List Mode) : Bool := ms.contains s.mode.mode

/-! ### Ledger (16 R416, R417) -/

/-- Slots an entry takes. -/
def LedgerEntry.slots (e : LedgerEntry) : Nat := if e.cont.isSome then 2 else 1

def slotsOf (l : List LedgerEntry) : Nat := (l.map LedgerEntry.slots).sum

/-- The oldest slots go first; an entry whose first slot is overwritten is gone with its CONTINUED slot. -/
def trimLog : Nat → List LedgerEntry → List LedgerEntry
  | 0, l => l
  | n + 1, l => if slotsOf l ≤ 4096 then l else trimLog n (l.drop 1)

/-- An entry is queued; SEQ is used even where the queue of 16 slots is full and the entry is lost. -/
def State.ledgerAt (s : State) (code item data : Nat) (time : Nat) (cont : Option (Nat × Nat)) : State :=
  let e : LedgerEntry := { seq := s.flash.nextSeq, code := code, mode := s.mode.mode.code, rtc := s.rtcS,
                           time := time, item := item, data := data, cont := cont, torn := [] }
  let f := s.flash
  if slotsOf f.queue + e.slots ≤ 16 then
    { s with flash := { f with queue := f.queue ++ [e], nextSeq := (f.nextSeq + 1) % 2 ^ 32 } }
  else
    { s with flash := { f with nextSeq := (f.nextSeq + 1) % 2 ^ 32, lost := sat 0xFFFF (f.lost + 1) } }

def State.ledger (s : State) (code item data : Nat) : State := s.ledgerAt code item data s.now none

/-! ### Fault events (11 R322) -/

/-- An event reaches the collector at its next WDOSC edge; in SHIP and KEEP the collector does not run (R323). -/
def State.raise (s : State) (id item : Nat) : State :=
  if s.inMode [.ship, .keep] then s
  else { s with fault := { s.fault with evq := s.fault.evq ++ [{ id := id, item := item, time := s.now, mode := s.mode.mode.code }] } }

/-- The raw flag of a level source, Table 11.4; of an event source, whether it opened the open record. -/
def State.rawFlag (s : State) (id : Nat) : Bool :=
  match id with
  | 1 => s.cells.any (fun c => decide (s.diag.persist ≤ c.pCount) || decide (s.diag.persist ≤ c.rCount))
  | 2 => s.diag.refProof.any id' || s.diag.refWit.any id'
  | 3 => !s.diag.openWires.isEmpty
  | 6 => s.bal.hot
  | 9 => s.ports.any (fun p => p.link = .lost)
  | 16 => s.clocks != 0
  | 18 => !s.power.supply.isEmpty
  | 22 => s.safety.failed.any id'
  | 23 => s.safety.in1.disc || s.safety.in2.disc
  | 25 => s.diag.owFault || s.diag.swFault
  | k => s.fault.isOpen && (s.fault.id = k) && decide (1 ≤ k)
where id' (b : Bool) : Bool := b

/-- FAULT.SOURCE0 (11 Table 11.8). -/
def State.source0 (s : State) : Nat := ((List.range 32).map (fun k => flag (s.rawFlag k) k)).sum

/-- A level source raises its event when its flag goes from 0 to 1: `before` is the state before the change. -/
def State.raiseLevel (s before : State) (id item : Nat) : State :=
  if s.rawFlag id && !before.rawFlag id then s.raise id item else s

/-! ### Messages and completion entries (09 R268, R273, R275–R279) -/

def State.sq (s : State) (r : Nat) : SqSt := s.host.sq.getD r SqSt.reset
def State.cq (s : State) (c : Nat) : CqSt := s.host.cq.getD c CqSt.reset
def State.pool (s : State) (p : Nat) : PoolSt := s.host.pool.getD p PoolSt.reset
def State.updSq (s : State) (r : Nat) (f : SqSt → SqSt) : State :=
  { s with host := { s.host with sq := updAt s.host.sq r f } }
def State.updCq (s : State) (c : Nat) (f : CqSt → CqSt) : State :=
  { s with host := { s.host with cq := updAt s.host.cq c f } }
def State.updPool (s : State) (p : Nat) (f : PoolSt → PoolSt) : State :=
  { s with host := { s.host with pool := updAt s.host.pool p f } }

/-- A word of the MSI-X table; word 4v + 3 resets to 1, masked (PCI Express Base 3.0 format, R275). -/
def State.msixWord (s : State) (i : Nat) : Nat := mget (if i % 4 = 3 then 1 else 0) s.host.msix i

/-- A message on vector v: sent, or pending while masked or in D3hot with PME enabled, where PEWAKE_N and HOSTWAKE are asserted
(R275, R276). -/
def State.message (s : State) (v : Nat) : State :=
  if bit (s.msixWord (4 * v + 3)) 0 then
    { s with host := { s.host with msixPend := (s.host.msixPend.erase v) ++ [v] } }
  else if s.host.d3hot && s.host.pmeEn then
    ({ s with host := { s.host with pmeStatus := true, msixPend := (s.host.msixPend.erase v) ++ [v] } }.emit .pewake).emit .hostwake
  else s.emit (.msix v)

/-- Entries of a completion ring that wait for the host (R259). -/
def CqSt.used (q : CqSt) : Nat := (q.tail + 2 ^ q.log2 - q.head) % 2 ^ q.log2

/-- The ring has no space: fewer than one entry is free (R259). -/
def CqSt.lacks (q : CqSt) : Bool := decide (2 ^ q.log2 - 1 ≤ q.used)

def CqSt.room (q : CqSt) : Bool := !(q.state = .stopped) && !q.lacks

/-- The ring engine may write an entry of ring c: HOST_CTRL.ENABLE is 1 and the ring has room (Table 9.3, R259). -/
def State.cqRoom (s : State) (c : Nat) : Bool := s.host.enable && (s.cq c).room

/-- Transactions in flight of a ring (Table 9.4); a second copy (08 R232) belongs to no ring. -/
def State.inflight (s : State) (r : Nat) : Nat :=
  (s.host.txs.filter (fun t => t.hdr.ring = r && t.copyOf.isNone)).length

/-- A STOPPING submission ring whose last transaction has completed reads STOPPED (R281). -/
def State.settleSq (s : State) (r : Nat) : State :=
  if (s.sq r).state = .stopping && s.inflight r = 0 then s.updSq r (fun q => { q with state := .stopped }) else s

/-- The 32 bytes of a completion entry (Table 9.11). -/
def cplBytes (c : Cpl) (sqHead : Nat) (phase : Bool) : List Byte :=
  le 2 c.cid ++ le 1 (if c.isEvent then 0xFF else c.ring) ++ le 1 c.status
  ++ le 2 (if c.isEvent then 0 else sqHead)
  ++ le 2 (flag phase 0 + flag c.more 1 + flag c.isEvent 2 + flag c.isMap 3)
  ++ le 1 c.pool ++ le 1 c.nbuf ++ le 2 c.first ++ le 4 c.length ++ le 8 c.value
  ++ le 4 (sat 0x3FFFF c.answered) ++ le 2 c.tid ++ le 2 c.detail

/-- The message of a ring when its unsignalled entries reach COUNT (R275). -/
def State.signal (s : State) (c : Nat) : State :=
  let q := s.cq c
  if q.irqEn && decide (q.coCount ≤ q.unsig) && decide (0 < q.unsig) then
    (s.updCq c (fun q => { q with unsig := 0 })).message q.vector
  else s

/-- An entry is written: the memory write, TAIL and PHASE, the freed transaction, then the message (R268, R273). -/
def State.writeEntry (s : State) (e : Cpl) : State :=
  let q := s.cq e.cq
  let base := q.baseLo + q.baseHi * 2 ^ 32
  let s := s.emit (.hostWrite (base + 32 * q.tail) (cplBytes e (s.sq e.ring).head q.phase))
  let tail := (q.tail + 1) % 2 ^ q.log2
  let s := s.updCq e.cq (fun q => { q with
    tail := tail, phase := if tail = 0 then !q.phase else q.phase,
    unsig := if e.noIrq then q.unsig else q.unsig + 1,
    unsigAt := if !e.noIrq && q.unsig = 0 then s.wall else q.unsigAt })
  let s := match e.frees with
    | some id => { s with host := { s.host with txs := s.host.txs.filter (fun t => t.id != id) } }.settleSq e.ring
    | none => s
  s.signal e.cq

/-- A completion is written where its ring has room and nothing older waits for it, and waits otherwise (R279). -/
def State.complete (s : State) (e : Cpl) : State :=
  if s.cqRoom e.cq && !(s.host.cplWait.any (fun w => w.cq = e.cq)) then s.writeEntry e
  else { s with host := { s.host with cplWait := s.host.cplWait ++ [e] } }.updCq e.cq
        (fun q => { q with full := q.full || q.lacks })

/-- An event entry (R277). -/
def eventCpl (s : State) (ev : EventSt) : Cpl :=
  { ring := 0xFF, cq := s.host.eventCq, cid := ev.cid, status := 0, more := false, isEvent := true, isMap := false
    pool := 0xFF, nbuf := 0, first := 0, length := 0, value := ev.value, answered := 0, tid := 0, detail := ev.typ
    noIrq := false, barrier := false, frees := none }

/-- An event of Table 9.16: written, queued, or dropped and counted (R277, R278). -/
def State.event (s : State) (typ value : Nat) : State :=
  if !s.hasHost then s
  else
    let ev : EventSt := { typ := typ, value := value, cid := s.host.eventCid }
    let s := { s with host := { s.host with eventCid := (s.host.eventCid + 1) % 65536 } }
    if !s.host.eventEn then { s with host := { s.host with drops := sat 0xFFFFFFFF (s.host.drops + 1) } }
    else if s.host.events.isEmpty && s.cqRoom s.host.eventCq
        && !(s.host.cplWait.any (fun w => w.cq = s.host.eventCq)) then s.writeEntry (eventCpl s ev)
    else if s.host.events.length < 256 then { s with host := { s.host with events := s.host.events ++ [ev] } }
    else { s with host := { s.host with drops := sat 0xFFFFFFFF (s.host.drops + 1) } }

/-- Held completions that have room now are written, in order, ring by ring (R279). -/
def State.drainCpl (s : State) : State :=
  let ws := s.host.cplWait
  let s0 := { s with host := { s.host with cplWait := [] } }
  let s1 := ws.foldl (fun a e => a.complete e) s0
  let kept := s1.host.cplWait
  { s1 with host := { s1.host with cq := s1.host.cq.mapIdx (fun i q =>
      let waits := kept.any (fun w => w.cq = i)
      { q with full := waits && q.lacks,
               state := if q.state = .stopping && !waits then .stopped else q.state }) } }

/-- Queued events that have room now are written (R278). -/
def State.drainEvents (s : State) : State :=
  let evs := s.host.events
  if !s.host.eventEn then s
  else
    let s0 := { s with host := { s.host with events := [] } }
    evs.foldl (fun a ev =>
      if a.host.events.isEmpty && a.cqRoom a.host.eventCq
          && !(a.host.cplWait.any (fun w => w.cq = a.host.eventCq)) then a.writeEntry (eventCpl a ev)
      else { a with host := { a.host with events := a.host.events ++ [ev] } }) s0

/-! ### The BIST record (12 R340, R341) -/

/-- Bytes 0x00–0x5B of a record (12 Table 12.2). -/
def BistRec.span (r : BistRec) : List Byte :=
  le 2 r.format
    ++ le 1 (flag r.complete 0 + flag r.pass 1 + flag r.prevCut 2 + flag r.wdt 3 + flag r.cutLock 4)
    ++ le 1 r.step ++ le 1 r.failStep ++ le 1 r.history ++ le 1 r.config ++ le 1 r.cuts ++ le 1 r.reset ++ [0, 0, 0]
    ++ le 4 r.rtc ++ le 4 r.duration ++ le 4 (flag (r.format = 1) 0 + put r.cover 16 16)
    ++ r.steps.flatMap (fun e => le 4 (put e.1 0 8 + put e.2.1 8 8 + put e.2.2 16 16)) ++ List.replicate 28 0

/-- SIGNATURE is recomputed. -/
def BistRec.sealed (r : BistRec) : BistRec := { r with sig := crc32c r.span }

/-- The 96 bytes of a record. -/
def bistBytes (r : BistRec) : List Byte := r.span ++ le 4 r.sig

/-! ### The boot program's choice (16 R410) -/

/-- The active bank that the boot program chooses (R410). -/
def chooseBank (a b : Option CommitRec) : Nat :=
  match a, b with
  | some x, some y => if x = y then x.active else if y.seq < x.seq then (if x.previous = 1 then 1 else 0) else y.active
  | some x, none => if x.previous = 1 then 1 else 0
  | none, some y => y.active
  | none, none => 0

/-! ### The granary (06 Table 6.9, 12 R336, 14 R384) -/

/-- Bank b has been used since MARCH, or a wake, left it at 0; a MARCH that did not end by itself, PASS or
with what it found, leaves every bank open. -/
def State.bankUsed (s : State) (b : Nat) : Bool :=
  let march := s.bist.cur.steps.getD 1 (0, 0, 0)
  !(march.1 = 1 || (march.1 = 2 && march.2.2 != 0xFFFF))
    || (if b = 0 then s.sweep.recsUsed
        else if b ≤ 16 then (s.port ((b - 1) / 4)).bufUsed
        else if b ≤ 18 then s.glean.jobsUsed
        else if b ≤ 37 then s.expo.used
        else if b ≤ 53 then s.glean.gatherUsed
        else if b ≤ 55 then s.survey.used
        else if b ≤ 59 then s.glean.jobsUsed
        else if s.hasHost then s.host.used else s.glean.jobsUsed)

/-- A byte of the granary: as the debug port wrote it, 0 in a bank not used since it was cleared, and open otherwise. -/
def State.granaryByte (s : State) (a : Nat) : Option Byte :=
  (gget s.granary a).or (if s.bankUsed (a / 0x10000) then none else some 0)

/-! ### Mode changes (14 R374) -/

/-- A change of mode: the ledger entry MODE, and on a ROOT the event MODE. -/
def State.setMode (s : State) (m : Mode) : State :=
  if s.mode.mode = m then s
  else
    let old := s.mode.mode
    let s := { s with mode := { s.mode with mode := m } }
    let s := s.ledger 0x02 (old.code + 16 * m.code) 0
    s.event 0x0B m.code

end Sys2Proof.Machine
end

