-- ==== Sys2Proof/Machine/LinkOps.lean ====
section
/-! DEFINITION. The named operations of the link and the tree: frames and their check values, credits, the crier side
channel, queues and the round robin, acceptance and retransmission, routing and replication. -/

namespace Sys2Proof.Machine

/-! ### Frames (07 R186, R199) -/

/-- The 12 header bytes with CRIER and HSEQ 0. -/
def headerBytes (f : Frame) : List Byte :=
  le 4 (put f.typ 0 4 + put f.cls 4 2 + flag f.hasScope 7 + put f.dest 8 18)
  ++ le 4 (put f.src 0 18 + put f.depth 18 8)
  ++ le 4 (put f.tag 0 16 + put f.payload.length 16 9)

/-- The check value of a frame whose payload, check value left out, is `body` (R199). -/
def checkOver (f : Frame) (body : List Byte) : Nat := crc32c (headerBytes f ++ body)

/-- Payload before the check value. -/
def bodyOf (f : Frame) : List Byte := f.payload.take (f.payload.length - 4)

/-- Whether the check value in the last four bytes matches. -/
def checkOk (f : Frame) : Bool :=
  decide (4 ≤ f.payload.length) && at_ f.payload (f.payload.length - 4) 4 = checkOver f (bodyOf f)

/-- A frame with its check value put after `body`. -/
def protect (f : Frame) (body : List Byte) : Frame :=
  let g := { f with payload := body ++ [0, 0, 0, 0] }
  { f with payload := body ++ le 4 (checkOver g body) }

/-- The frame types whose CLASS and protection Table 7.4 lists; SAFETY carries at most 16 bytes (R187, R189). -/
def frameListed (f : Frame) : Bool :=
  let n := f.payload.length
  let ok (cls : Bool) (lo hi : Nat) := cls && decide (lo ≤ n) && decide (n ≤ hi)
  match f.typ with
  | 0 => ok (f.cls = 1) 0 256
  | 1 => ok (f.cls = 1) 8 256
  | 2 => ok (f.cls = 1) 4 256
  | 3 => ok (f.cls = 1) 4 256
  | 4 => ok (f.cls = 1) 4 256
  | 5 => ok (f.cls = 0) 8 16
  | 6 => ok (f.cls = 1) 0 256
  | 7 => ok (f.cls = 2 || f.cls = 3) 0 256
  | 8 => ok (f.cls = 1) 0 256
  | 9 => ok (f.cls = 1) 0 256
  | 10 => ok (f.cls = 1 || ((f.cls = 2 || f.cls = 3) && at_ f.payload 0 1 = 9)) 4 256
  | 11 => ok (f.cls = 1) 4 256
  | 12 => ok (f.cls = 1 || f.cls = 2 || f.cls = 3) 4 256
  | _ => false

/-- Credit units of a frame (08 R245). -/
def unitsOf (f : Frame) : Nat := ceilDiv (12 + f.payload.length) 64

/-- TRAIN, CREDIT and TIME take no credits (R245). -/
def creditFree (f : Frame) : Bool := f.typ = 0 || f.typ = 8 || f.typ = 9

def Four.get (q : Four) (c : Nat) : Nat := if c = 0 then q.s else if c = 1 then q.c else if c = 2 then q.d else q.b
def Four.upd (q : Four) (c : Nat) (f : Nat → Nat) : Four :=
  if c = 0 then { q with s := f q.s } else if c = 1 then { q with c := f q.c }
  else if c = 2 then { q with d := f q.d } else { q with b := f q.b }

/-- Table 8.7. -/
def allotment : Four := { s := 32, c := 512, d := 2048, b := 1504 }

/-! ### Crier message (07 Table 7.6) -/

def State.running (s : State) : Nat := (s.glean.gleaners.filter (fun g => g.running.isSome)).length
def State.queued (s : State) : Nat := (s.glean.gleaners.map (fun g => g.deque.length)).sum

/-- GLEAN.LOAD.PCT (06 Table 6.10). -/
def State.loadPct (s : State) : Nat := sat 100 (100 * (s.running + s.queued) / 64)

def SyncState.code : SyncState → Nat
  | .unsync => 0
  | .acquiring => 1
  | .locked => 2
  | .holdover => 3

/-- The sync state; the ROOT is always LOCKED (08 R242). -/
def State.syncNow (s : State) : SyncState := if s.isRoot then .locked else s.tree.sync

/-- The HEALTH field: fault record, raw flags, DEGRADED or SAFE, HIST_NONE, islands, ports UP. -/
def State.health (s : State) : Nat :=
  flag s.fault.isOpen 0 + flag (s.source0 != 0) 1 + flag (s.inMode [.degraded, .safe]) 2
  + flag (s.kept.histOutcome != 0) 3 + put s.glean.islandOk 4 4
  + ((List.range 4).map (fun p => flag ((s.port p).link = .up) (8 + p))).sum

def State.crierMsg (s : State) (count : Nat) : List Byte :=
  let body := le 1 (1 + put count 4 4)
    ++ le 1 (s.mode.mode.code + put s.ident.role.code 4 2 + flag s.mode.station 6 + flag s.tree.pending 7)
    ++ le 4 s.tree.pos ++ le 8 s.ident.uid ++ le 2 0x4800 ++ le 1 s.ident.silicon ++ le 1 s.loadPct
    ++ le 4 (sat 0xFFFFFFFF (s.since s.bist.goodAt / ttS)) ++ le 2 s.health
    ++ le 4 (put s.now 0 24 + put s.syncNow.code 24 2 + flag s.tree.inCharge 26)
    ++ le 1 0
  le 2 0x7E96 ++ body ++ le 1 (crc8 body)

/-- Bit i of a message: bit i mod 8 of byte i / 8 (R207). -/
def msgBit (m : List Byte) (i : Nat) : Bool := (m.getD (i / 8) 0).getLsbD (i % 8)

/-- The next crier bit of port p, and the state after it is used; a message's content is fixed when it starts. -/
def State.crierBit (s : State) (p : Nat) : Bool × State :=
  let c := (s.port p).crier
  if (s.port p).link = .legacy then (false, s)
  else
    let start := c.txBit = 0
    let msg := if start then s.crierMsg (c.txCount % 16) else c.txMsg
    -- ADVERTISED names the last message sent whole: its byte 0x13
    let s := if c.txBit = 255 then { s with glean := { s.glean with advertised := at_ msg 0x13 1 } } else s
    (msgBit msg c.txBit,
     s.updPort p (fun q => { q with crier := { q.crier with
        txMsg := msg, txBit := (c.txBit + 1) % 256, txCount := if c.txBit = 255 then c.txCount + 1 else c.txCount } }))

/-! ### Sending (07 R190, R196; 08 R246) -/

def PortSt.space (q : PortSt) (isS : Bool) : SeqSpace := if isS then q.spaceS else q.spaceN
def PortSt.updSpace (q : PortSt) (isS : Bool) (f : SeqSpace → SeqSpace) : PortSt :=
  if isS then { q with spaceS := f q.spaceS } else { q with spaceN := f q.spaceN }

/-- A port that may send: RUNNING and UP. -/
def PortSt.sends (q : PortSt) : Bool := q.fn = .running && q.link = .up

/-- Whether port p can send this frame now: UP, its space not full, credits for its class. -/
def PortSt.canSend (q : PortSt) (f : Frame) : Bool :=
  q.sends && decide ((q.space (f.cls = 0)).unacked.length < 32)
    && (creditFree f || decide (unitsOf f ≤ q.credits.get f.cls))

/-- Tree time in units of 2⁻¹⁶ tt. -/
def State.stamp (s : State) : Nat := s.clk.tt * 65536 + s.clk.frac

/-- The first header bit of the PROBE of the round trip in progress leaves: its time is recorded (09 R267). -/
def State.stampProbe (s : State) (f : Frame) : State :=
  if f.typ != 12 || !s.isRoot then s
  else { s with host := { s.host with txs := s.host.txs.map (fun (t : Tx) =>
    if t.id + 4096 * t.gen = f.tag && t.hdr.pos = f.dest && t.probeN = at_ f.payload 0 2 then { t with probeAt := s.stamp } else t) } }

/-- A time stamp of 10 bytes: tt, then the fraction (08 Table 8.6). -/
def stampBytes (t : Nat) : List Byte := le 8 (t / 65536) ++ le 2 t

/-- A TIME frame takes its stamp as it is sent: t1 of a SYNC, which the port remembers, or t3 of an ECHO (08 R240). -/
def State.stampTime (s : State) (p : Nat) (f : Frame) : Frame × State :=
  if f.typ != 9 then (f, s)
  else if at_ f.payload 0 1 = 1 then
    ({ f with payload := f.payload.take 4 ++ stampBytes s.stamp ++ f.payload.drop 14 },
     s.updPort p (fun q => { q with time := { q.time with t1 := s.stamp } }))
  else ({ f with payload := f.payload.take 14 ++ stampBytes s.stamp ++ f.payload.drop 24 }, s)

/-- A long frame goes out on port p: HSEQ, crier bit, credits, the unacknowledged queue, the counter TX. -/
def State.sendNow (s : State) (p : Nat) (x : QFrame) : State :=
  let (f, s) := s.stampTime p x.frame
  let isS : Bool := f.cls = 0
  let h := ((s.port p).space isS).txNext
  let (cb, s) := (s.stampProbe f).crierBit p
  let s := s.updPort p (fun q =>
    let q := q.updSpace isS (fun sp => { sp with
      txNext := (h + 1) % 64, unacked := sp.unacked ++ [{ frame := f, hseq := h, retries := 0, sentAt := s.wall }] })
    { q with credits := if creditFree f then q.credits else q.credits.upd f.cls (fun n => n - unitsOf f),
             cnt := { q.cnt with tx := sat 0xFFFFFFFF (q.cnt.tx + 1) }, lastTx := s.wall })
  let s := match x.src with
    | some o => if creditFree f then s else s.updPort o (fun q =>
        { q with owed := q.owed.upd f.cls (fun n => n + unitsOf f) })
    | none => s
  s.emit (.long p h cb f)

/-- Line bytes that a frame takes of a quantum (R248: 14 + LENGTH). -/
def lineBytes (f : Frame) : Nat := 14 + f.payload.length

/-- One choice of the transmitter: SAFETY first, then the round robin with quanta 2,048, 1,024 and 512 (R196). -/
def State.pumpOne (s : State) (p : Nat) : State :=
  let q := s.port p
  let t := q.txq
  let ready (l : List QFrame) : Bool := match l with
    | x :: _ => q.canSend x.frame
    | [] => false
  let fits (l : List QFrame) (d : Nat) : Bool := match l with
    | x :: _ => q.canSend x.frame && decide (lineBytes x.frame ≤ d)
    | [] => false
  let size (l : List QFrame) : Nat := match l with
    | x :: _ => lineBytes x.frame
    | [] => 0
  let go (l : List QFrame) (f : TxQueues → TxQueues) : State := match l with
    | x :: _ => (s.updPort p (fun q => { q with txq := f q.txq })).sendNow p x
    | [] => s
  if ready t.safety then go t.safety (fun t => { t with safety := t.safety.drop 1 })
  else if fits t.control t.defC then
    go t.control (fun t => { t with control := t.control.drop 1, defC := t.defC - size t.control })
  else if fits t.data t.defD then go t.data (fun t => { t with data := t.data.drop 1, defD := t.defD - size t.data })
  else if fits t.bulk t.defB then go t.bulk (fun t => { t with bulk := t.bulk.drop 1, defB := t.defB - size t.bulk })
  else
    s.updPort p (fun q => { q with txq := { q.txq with
      defC := if ready t.control then t.defC + 2048 else 0,
      defD := if ready t.data then t.defD + 1024 else 0,
      defB := if ready t.bulk then t.defB + 512 else 0 } })

/-- Everything port p can send now goes out. -/
def State.pump (s : State) (p : Nat) : State :=
  let t := (s.port p).txq
  iter (fun s => s.pumpOne p) (2 * (t.safety.length + t.control.length + t.data.length + t.bulk.length)) s

def Four.isZero (q : Four) : Bool := q.s = 0 && q.c = 0 && q.d = 0 && q.b = 0

/-- The CREDIT frame of port p: four increments (R246). -/
def creditFrame (s : State) (o : Four) : Frame :=
  { typ := 8, cls := 1, hasScope := false, dest := s.tree.pos, src := s.tree.pos, depth := 0, tag := 0
    payload := le 2 o.s ++ le 2 o.c ++ le 2 o.d ++ le 2 o.b }

/-- The staging banks of a ROOT, 256 KiB, are full of results that the host has not taken (R247). -/
def State.stagingFull (s : State) : Bool :=
  s.isRoot && decide (0x40000 ≤ (s.host.waits.map (fun w => w.bytes.length - w.sent)).sum + (s.host.heldWait.map (fun h => h.2.length)).sum)

/-- Credits owed on port p are returned in one CREDIT frame; of DATA and BULK none while the staging banks are full. -/
def State.giveCredit (s : State) (p : Nat) : State :=
  let q := s.port p
  let kept := if s.stagingFull then { q.owed with s := 0, c := 0 } else Four.zero
  let o := if s.stagingFull then { q.owed with d := 0, b := 0 } else q.owed
  if o.isZero || !(q.sends && decide (q.spaceN.unacked.length < 32)) then s
  else (s.updPort p (fun q => { q with owed := kept })).sendNow p { frame := creditFrame s o, src := none }

/-- The exposure area is free once the last frame of its segment has been given credits (06 R176). -/
def State.freeExposure (s : State) : State :=
  let e := s.expo
  let queued (q : PortSt) := (q.txq.bulk ++ q.held).any (fun x => x.frame.cls = 3 && x.frame.tag = e.tag && x.src.isNone)
  if e.state = .delivering && !e.segment.isEmpty && !(s.ports.any queued) then
    { s with expo := { e with state := .idle, ring := [], segment := [] } }
  else s

/-- Every port sends what it can, then returns the credits it owes. -/
def State.flush (s : State) : State :=
  ([0, 1, 2, 3].foldl State.giveCredit ([0, 1, 2, 3].foldl State.pump s)).freeExposure

/-- A frame becomes ready on port p; a LOST port's frames are held by the parent (08 R226, R230). -/
def State.enqueue (s : State) (p : Nat) (x : QFrame) : State :=
  s.updPort p (fun q =>
    if q.link = .lost && q.kid.isSome then { q with held := q.held ++ [x] }
    else
      let t := q.txq
      { q with txq :=
        if x.frame.cls = 0 then { t with safety := t.safety ++ [x] }
        else if x.frame.cls = 1 then { t with control := t.control ++ [x] }
        else if x.frame.cls = 2 then { t with data := t.data ++ [x] }
        else { t with bulk := t.bulk ++ [x] } })

/-- A frame taken off a port's buffer owes that port its credits (R246). -/
def State.consume (s : State) (a : Arrival) (f : Frame) : State :=
  match a with
  | .self => s
  | .port p _ _ => if creditFree f then s else s.updPort p (fun q =>
      { q with owed := q.owed.upd f.cls (fun n => n + unitsOf f) })

/-- A command that may send: everything that can go goes. -/
def runL (f : State → State) (s : State) : Out := run (fun s => (f s).flush) s

/-- A command of the converter island that may send. -/
def runConvL (f : State → State) (s : State) : Out := runConv (fun s => (f s).flush) s

/-- A command of the core that may send. -/
def runCoreL (f : State → State) (s : State) : Out := runCore (fun s => (f s).flush) s

/-! ### Short frames, acceptance (07 R188, R191, R192) -/

/-- A short frame with both ACKs and the NAKs given; a port that stops sends none (R215). -/
def State.sendShort (s : State) (p : Nat) (nakN nakS : Bool) : State :=
  let q := s.port p
  if !q.sends then s
  else
  let (cb, s) := s.crierBit p
  (s.updPort p (fun q => { q with lastTx := s.wall })).emit
    (.short p (0xF + flag nakN 4 + flag nakS 5 + flag cb 6) ((q.spaceN.rxNext + 63) % 64) ((q.spaceS.rxNext + 63) % 64))

/-- A crier bit received on port p; a 257th bit pushes the oldest out. -/
def State.takeCrier (s : State) (p : Nat) (b : Bool) : State :=
  s.updPort p (fun q => { q with crier := { q.crier with
    rxBits := (q.crier.rxBits ++ [b]).drop (q.crier.rxBits.length - 255) } })

/-- The receiver of port p takes crier bits: it is not stopped, and no legacy segment (R208, R209). -/
def State.hears (s : State) (p : Nat) : Bool := (s.port p).link != .disabled && (s.port p).link != .legacy

/-- The hop's verdict on a long frame received in cadence: the crier bit is taken; the frame is accepted when its HSEQ
is the next expected of its space, and answered with a short frame; otherwise it is discarded, NAKed at most once. While the core
stops, the frame finds no room at its crossing, and its sender repeats it (01 R22, 11 Table 11.1). -/
def State.hop (s : State) (a : Arrival) (f : Frame) : Bool × State :=
  match a with
  | .self => (true, s)
  | .port p h cb =>
    let q := s.port p
    let isS : Bool := f.cls = 0
    if q.link = .legacy || !s.coreRuns then (false, s)
    else if q.link != .up then
      let s := if s.hears p then s.takeCrier p cb else s
      -- the SAFETY frame after a wake tone is accepted as if the link were UP, unacknowledged (R206)
      if isS && q.afterTone then
        (true, s.updPort p (fun q => { q with afterTone := false, cnt := { q.cnt with rx := sat 0xFFFFFFFF (q.cnt.rx + 1) } }))
      else (false, s)
    else
      let s := s.takeCrier p cb
      let sp := q.space isS
      if h = sp.rxNext then
        let s := s.updPort p (fun q =>
          { q.updSpace isS (fun sp => { sp with rxNext := (sp.rxNext + 1) % 64, nakSent := false }) with
            cnt := { q.cnt with rx := sat 0xFFFFFFFF (q.cnt.rx + 1) } })
        (true, s.sendShort p false false)
      else if sp.nakSent then (false, s)
      else
        let s := s.updPort p (fun q => q.updSpace isS (fun sp => { sp with nakSent := true }))
        (false, s.sendShort p (!isS) isS)

/-- COUNTERS[2].CONDEMNED of the arrival port. -/
def State.countCondemned (s : State) (a : Arrival) : State :=
  match a with
  | .self => s
  | .port p _ _ => s.updPort p (fun q => { q with cnt := { q.cnt with condemned := sat 0xFFFF (q.cnt.condemned + 1) } })

/-- The item of an arrival: the port, or 5 for a frame the device addressed to itself (11 Table 11.4). -/
def arrItem : Arrival → Nat
  | .self => 5
  | .port p _ _ => p

/-- The port a frame came on. -/
def arrPort : Arrival → Option Nat
  | .self => none
  | .port p _ _ => some p

def State.countRej (s : State) (a : Arrival) (counter : Bool) : State :=
  match a with
  | .self => s
  | .port p _ _ => s.updPort p (fun q => { q with cnt :=
      if counter then { q.cnt with cmdCounter := sat 0xFFFF (q.cnt.cmdCounter + 1) }
      else { q.cnt with cmdCheck := sat 0xFFFF (q.cnt.cmdCheck + 1) } })

/-! ### Command counters (07 R200) -/

def cmdKey (f : Frame) (r : CmdRef) : Bool :=
  r.src = f.src && r.hasScope = f.hasScope && r.dest = f.dest && r.depth = f.depth

/-- The entry of a frame's key. -/
def State.cmdRef (s : State) (f : Frame) : Option CmdRef := s.cmdRefs.find? (cmdKey f)

/-- REF of a key becomes c; the entry is the most recently used of at most 64. -/
def State.setRef (s : State) (f : Frame) (c : Nat) : State :=
  { s with cmdRefs := ({ src := f.src, hasScope := f.hasScope, dest := f.dest, depth := f.depth, ref := c } ::
      s.cmdRefs.filter (fun r => !cmdKey f r)).take 64 }

/-- Why a protected frame is rejected: 0 accepted, 1 check value, 2 counter. -/
def counterVerdict (ref : Option Nat) (counter : Nat) (sync : Bool) : Bool :=
  match ref, sync with
  | some r, true => !(counter = r)
  | none, true => true
  | some r, false => counter = (r + 1) % 65536
  | none, false => false

/-- The verdict of R200 on a frame with a check value alone. -/
def State.checkFrame (s : State) (a : Arrival) (f : Frame) : Bool × State :=
  if checkOk f then (true, s) else (false, (s.raise 11 (arrItem a)).countRej a false)

/-- The verdict of R200 on a COMMAND frame. -/
def State.checkCommand (s : State) (a : Arrival) (f : Frame) : Bool × State :=
  if !checkOk f then (false, (s.raise 11 (arrItem a)).countRej a false)
  else
    let c := at_ f.payload 0 2
    let sync := bit (at_ f.payload 2 1) 0
    if counterVerdict ((s.cmdRef f).map CmdRef.ref) c sync then (true, s.setRef f c)
    else (false, (s.raise 10 (arrItem a)).countRej a true)

/-! ### Cut off, routing, replication (08 R226, R227, R234) -/

/-- The device is cut off from the ROOT. -/
def State.cutOff (s : State) : Bool :=
  s.tree.valid && !s.isRoot && (s.tree.cutBy || ((s.port s.tree.numUp).link != .up && s.tree.reversal.isNone))

/-- The instant since which the device is cut off, with the T_LOSS of that loss (14 R382, R386). -/
def State.trackCut (s : State) : State :=
  if !s.cutOff then { s with mode := { s.mode with cutSince := none } }
  else if s.mode.cutSince.isSome then s
  else { s with mode := { s.mode with cutSince := some s.wall, lossMs := s.mode.tLoss } }

/-- Where a frame goes. -/
inductive Hop where
  | here
  | out (p : Nat)
  | nowhere
deriving DecidableEq, Repr

def State.ownPos (s : State) (d : Nat) : Bool :=
  ((s.tree.valid || s.isRoot) && d = s.tree.pos) || s.tree.alias_ = some d

def lowestRoute (rs : List Route) (d : Nat) : Option Route :=
  (rs.filter (fun r => decide (r.lo ≤ d) && decide (d ≤ r.hi))).foldl (fun acc r => match acc with
    | none => some r
    | some b => if r.lo < b.lo then some r else some b) none

def State.kidPort (s : State) (d : Nat) : Option Nat :=
  [0, 1, 2, 3].find? (fun p => match (s.port p).kid with
    | some (lo, hi) => decide (lo ≤ d) && decide (d ≤ hi)
    | none => false)

/-- A KG1200 of this device's segment has the position (R219). -/
def State.legacyPos (s : State) (d : Nat) : Bool := s.tree.valid && s.legacy.devs.any (fun v => v.pos = d && v.pos != 0)

/-- The position at which the device stands in the numbered tree: a standby in charge keeps its own (R235). -/
def State.homePos (s : State) : Nat := s.tree.alias_.getD s.tree.pos

/-- The routing rule for a single destination (R226). -/
def State.route (s : State) (d : Nat) : Hop :=
  if s.ownPos d || s.legacyPos d then .here
  else match lowestRoute s.tree.routes d with
    | some r => .out r.port
    | none =>
      let inOwn := decide (s.homePos ≤ d) && decide (d ≤ s.tree.hi)
      let rev := match s.tree.reversal with
        | some (lo, hi) => decide (lo ≤ d) && decide (d ≤ hi) && !inOwn
        | none => false
      if rev then .out s.tree.numUp
      else match s.kidPort d with
        | some p => .out p
        | none => if s.isRoot || !s.tree.valid then .nowhere else .out s.tree.curUp

/-- An own frame is routed toward its destination. -/
def State.sendTo (s : State) (f : Frame) : State :=
  match s.route f.dest with
  | .out p => s.enqueue p { frame := f, src := none }
  | _ => s

/-- A received frame is passed on toward its destination; its credits are owed once it has gone. A LEAF forwards nothing (01
R26), and a frame that leads nowhere is discarded: neither returns credits (R246). -/
def State.forward (s : State) (a : Arrival) (f : Frame) : State :=
  if s.ident.role = .leaf then s
  else match s.route f.dest, a with
  | .out p, .port q _ _ => s.enqueue p { frame := f, src := if creditFree f then none else some q }
  | .out p, .self => s.enqueue p { frame := f, src := none }
  | _, _ => s

/-- Downstream ports of a scope that reaches below this device: numbered children, whose intervals lie in its subtree as the
scope does, and exception routes below it. The route of a reroute does not: it leads over an ALT port or upward to an interval
that the second copy of R232 serves. For a standby in charge the reversed tree lies beyond its numbered upstream port. -/
def State.downPorts (s : State) : List Nat :=
  [0, 1, 2, 3].filter (fun p => (s.port p).kid.isSome || (s.isRoot && s.tree.reversal.isSome && p = s.tree.numUp) ||
    (s.tree.routes.any (fun r => r.port = p) && !(s.port p).alt && (s.isRoot || (p != s.tree.curUp && p != s.tree.numUp))))

/-- The device acts on a scoped frame: it is the scope's top, or the frame came down its numbered upstream port. -/
def State.actsOn (s : State) (a : Arrival) (f : Frame) : Bool :=
  if s.ownPos f.dest then true
  else f.hasScope && match a with
    | .port p _ _ => s.tree.valid && !s.isRoot && p = s.tree.numUp &&
        (match s.route f.dest with
         | .out q => q = s.tree.numUp || q = s.tree.curUp
         | _ => false)
    | .self => false

/-- A DISCOVER frame (Table 8.1). -/
def discover (s : State) (cls sub walk a b : Nat) (extra : List Byte) (dest : Nat) : Frame :=
  protect { typ := 10, cls := cls, hasScope := false, dest := dest, src := s.tree.pos, depth := 0, tag := 0, payload := [] }
    (le 1 sub ++ [0] ++ le 2 walk ++ le 4 a ++ le 4 b ++ extra)

/-- The MARK that precedes a replica of f with n hops left (Table 8.2); its TAG, the marked one (Table 8.3), stands under its
check value. -/
def markFrame (s : State) (f : Frame) (hops : Nat) : Frame :=
  let m := discover s f.cls 9 0 hops (f.tag % 65536 + put f.typ 16 4) (le 4 f.src) f.dest
  protect { m with tag := f.tag, payload := [] } (bodyOf m)

/-- Replication onto the downstream ports; `hops` is what a MARK would carry, none for depth 0xFF. -/
def State.replicate (s : State) (f : Frame) (hops : Option Nat) (ports : List Nat) : State :=
  ports.foldl (fun s p =>
    let s := match hops with
      | some h => s.enqueue p { frame := markFrame s f h, src := none }
      | none => s
    s.enqueue p { frame := f, src := none }) s

/-- What DEPTH lets a device do with a scoped frame: ports to replicate to and the hops for their MARKs; a copy without
its MARK is acted on, not replicated, and counted (R227). -/
def State.spread (s : State) (a : Arrival) (f : Frame) : List Nat × State :=
  if !f.hasScope || f.depth = 0 then ([], s)
  else if f.depth = 255 then (s.downPorts, s.replicate f none s.downPorts)
  else if s.ownPos f.dest then (s.downPorts, s.replicate f (some (f.depth - 1)) s.downPorts)
  else match a with
    | .port p _ _ =>
      let m := s.tree.marks.find? (fun m => m.port = p && m.tag = f.tag && m.typ = f.typ && m.src = f.src)
      match m with
      | none => ([], s.countCondemned a)
      | some m =>
        let s := { s with tree := { s.tree with marks := s.tree.marks.erase m } }
        if m.hops = 0 then ([], s) else (s.downPorts, s.replicate f (some (m.hops - 1)) s.downPorts)
    | .self => ([], s)

/-! ### Retraining and loss (07 R193, R203, R205) -/

/-- A TRAIN frame of port p: RATE_MAX, flags, both ACKs, the UID. -/
def trainFrame (s : State) (p : Nat) (agreed rxValid : Bool) : Frame :=
  let q := s.port p
  { typ := 0, cls := 1, hasScope := false, dest := 0, src := s.tree.pos, depth := 0, tag := 0
    payload := le 1 q.lRate ++ le 1 (flag agreed 0 + flag rxValid 1) ++ le 1 ((q.spaceN.rxNext + 63) % 64)
      ++ le 1 ((q.spaceS.rxNext + 63) % 64) ++ le 8 s.ident.uid ++ [0, 0, 0, 0] }

/-- A TRAIN frame goes out at the rate of the step. -/
def State.sendTrain (s : State) (p : Nat) (agreed rxValid : Bool) : State :=
  if (s.port p).fn != .running then s
  else
    let (cb, s) := s.crierBit p
    (s.updPort p (fun q => { q with lastTx := s.wall, cnt := { q.cnt with tx := sat 0xFFFFFFFF (q.cnt.tx + 1) } })).emit (.train p (s.port p).train.rate cb (trainFrame s p agreed rxValid))

/-- A port trains anew from step 1 at 25 Mb/s, with its first TRAIN frame. -/
def State.retrain (s : State) (p : Nat) : State :=
  ((s.updPort p (fun q => { q with
    link := .training,
    retrains := if q.train.trained then sat 255 (q.retrains + 1) else q.retrains,
    train := { step := 1, got := 0, agreedRx := false, agreedTx := false, rate := 0, since := s.wall, began := s.now
               trained := true, partnerMax := q.train.partnerMax } })).trackCut).sendTrain p false false

/-- The unacknowledged frames of a space go out again in HSEQ order, a TIME frame with the stamp of this sending (08 R240); `f` is what
the queue keeps of each. -/
def State.sendAgain (s : State) (p : Nat) (isS : Bool) (f : Unacked → Unacked) : State :=
  let r := ((s.port p).space isS).unacked.foldl (fun (acc : List Unacked × State) u =>
    let (g, s) := acc.2.stampTime p u.frame
    let (cb, s) := s.crierBit p
    (acc.1 ++ [f { u with frame := g }], s.emit (.long p u.hseq cb g))) ([], s)
  r.2.updPort p (fun q => q.updSpace isS (fun sp => { sp with unacked := r.1 }))

/-- Go-back-N: every unacknowledged frame of the space is sent again in HSEQ order; at RETRY_MAX the port raises
FLT_CADENCE and retrains, and discards nothing (R193). -/
def State.retransmit (s : State) (p : Nat) (isS : Bool) : State :=
  let un := ((s.port p).space isS).unacked
  if un.isEmpty || !(s.port p).sends then s
  else
    let limit := un.any (fun u => decide ((s.port p).lRetry ≤ u.retries + 1))
    let s := s.sendAgain p isS (fun u => { u with retries := u.retries + 1, sentAt := s.wall })
    let s := s.updPort p (fun q =>
      { q with lastTx := s.wall, cnt := { q.cnt with retransmits := sat 0xFFFF (q.cnt.retransmits + un.length) } })
    if limit then (s.raise 8 p).retrain p else s

/-- An ACK frees the frames up to and with its HSEQ, where it names an unacknowledged one. -/
def ackSpace (sp : SeqSpace) (ack : Nat) : SeqSpace :=
  match sp.unacked.findIdx? (fun u => u.hseq = ack) with
  | some i => { sp with unacked := sp.unacked.drop (i + 1) }
  | none => sp

/-- T_RTX of a rate code in tt, rounded up (Table 7.1: 2.56, 10.24 and 40.96 µs). -/
def tRtx (rate : Nat) : Nat := if rate = 2 then 53 else if rate = 1 then 210 else 839

/-! ### FAULT frames (11 R326) -/

/-- A FAULT frame, or on the ROOT the event FAULT. -/
def State.faultFrame (s : State) (kind id item action time : Nat) : State :=
  if s.isRoot then s.event 0x02 (s.tree.pos + put id 32 5)
  else
    s.sendTo (protect { typ := 11, cls := 1, hasScope := false, dest := 0, src := s.tree.pos, depth := 0, tag := 0, payload := [] }
      (le 1 kind ++ le 1 id ++ le 1 item ++ le 1 action ++ le 1 s.mode.mode.code ++ [0, 0, 0] ++ le 8 time))

end Sys2Proof.Machine
end

