-- ==== Sys2Proof/Machine/HostOps.lean ====
section
/-! DEFINITION. The named operations of the host interface: results into pool buffers, final entries, the transaction
table, scopes in the topology table and the missing-position map (09 R270–R272, 08 R239, R250). -/

namespace Sys2Proof.Machine

/-! ### Results and pools (R271) -/

def PoolSt.entries (q : PoolSt) : Nat := 2 ^ q.listLog2
def PoolSt.bufSize (q : PoolSt) : Nat := 2 ^ q.bufLog2
/-- Buffers the host has supplied and the device has not taken. -/
def PoolSt.avail (q : PoolSt) : Nat := (q.tail % q.entries + q.entries - q.head % q.entries) % q.entries

/-- The pool is enabled and has the buffers for a result of n bytes. -/
def PoolSt.holds (q : PoolSt) (n : Nat) : Bool := q.en && decide (ceilDiv n q.bufSize ≤ q.avail)

/-- Whether a result of n bytes can never fit the pool's list (R271). -/
def PoolSt.tooBig (q : PoolSt) (n : Nat) : Bool := decide (q.entries - 1 < ceilDiv n q.bufSize)

/-- A 64-bit list entry read from host memory when it is taken; bits [7:0] are 0. -/
def listEntry (mem : List (Nat × Byte)) (q : PoolSt) (i : Nat) : Nat :=
  let base := q.listLo + q.listHi * 2 ^ 32 + 8 * i
  ofLe ((List.range 8).map (fun k => mget 0 mem (base + k))) / 256 * 256

/-- The buffers of a run of n bytes from HEAD on. -/
def runOf (mem : List (Nat × Byte)) (q : PoolSt) (n : Nat) : Nat × List Nat :=
  let i := q.head % q.entries
  (i, (List.range (ceilDiv n q.bufSize)).map (fun j => listEntry mem q ((i + j) % q.entries)))

/-- Bytes from offset `off` of a result on go into its run, one buffer after another, each from its first byte, in memory writes of
at most Max Payload Size; the first argument is fuel. -/
def State.fillRun (size mps : Nat) (bufs : List Nat) : Nat → Nat → List Byte → State → State
  | 0, _, _, s => s
  | n + 1, off, bs, s =>
    if bs.isEmpty then s
    else
      let k := mps - off % mps
      State.fillRun size mps bufs n (off + k) (bs.drop k) (s.emit (.hostWrite (bufs.getD (off / size) 0 + off % size) (bs.take k)))

/-- The bytes of a result that have come and are not written yet go out, where it has its run. -/
def State.writeOut (s : State) (w : ResultWait) : ResultWait × State :=
  match w.run with
  | none => (w, s)
  | some (_, bufs) =>
    let new := w.bytes.drop w.sent
    ({ w with sent := w.bytes.length }, State.fillRun (s.pool w.pool).bufSize s.host.mps bufs (new.length / s.host.mps + 2) w.sent new s)

/-- The `nbuf` byte of an entry with k buffers: the spec gives it 0–255, so for a longer run it is a free value. -/
def State.nbufOf (s : State) (k : Nat) : Nat × State := if k < 256 then (k, s) else (s.fresh % 256, s.took)

/-- A result without buffers, or with its run taken. -/
def ResultWait.placed (w : ResultWait) : Bool := w.total = 0 || w.run.isSome

/-- A result takes its run when its pool is enabled and holds enough buffers; `none` memory stands for a command that brings no
snapshot of host memory, in which no run is taken. -/
def State.tryRun (s : State) (mem : Option (List (Nat × Byte))) (w : ResultWait) : Option (ResultWait × State) :=
  if w.placed then some (w, s)
  else
    let q := s.pool w.pool
    match mem with
    | none => none
    | some m =>
      if q.holds w.total then
        some ({ w with run := some (runOf m q w.total) },
          s.updPool w.pool (fun q => { q with head := (q.head + ceilDiv w.total q.bufSize) % q.entries }))
      else none

/-- The entry of a result whose bytes are all written. -/
def State.finishResult (s : State) (w : ResultWait) : State :=
  match w.run with
  | none => s.complete w.entry
  | some (i, bufs) =>
    let (n, s) := s.nbufOf bufs.length
    s.complete { w.entry with pool := w.pool, nbuf := n, first := i, length := w.total }

/-- One waiting result: it takes its run behind those of its pool that came before, is written as far as it has come, and its
entry follows once it is whole; the last entry of a transaction follows the others. WAITING and the event tell of one that waits for
buffers, its own or those of a result before it (R271, R272). A held record that came earlier takes its run of EVENT_POOL first while
EVENT_EN is 1 (R278). -/
def State.settleOne (mem : Option (List (Nat × Byte))) (acc : State × List ResultWait) (w : ResultWait) :
    State × List ResultWait :=
  let (s, kept) := acc
  let mine (v : ResultWait) : Bool := v.entry.tid = w.entry.tid && v.entry.ring = w.entry.ring
  let ahead := s.host.eventEn && w.pool = s.host.eventPool && w.behind != 0
  let blocked := !w.placed && (ahead || kept.any (fun v => !v.placed && v.pool = w.pool))
  match (if blocked then none else s.tryRun mem w) with
  | some (w, s) =>
    let (w, s) := s.writeOut w
    if w.bytes.length < w.total || (w.comes.isNone && kept.any mine) then (s, kept ++ [w]) else (s.finishResult w, kept)
  | none =>
    let q := s.pool w.pool
    let short (v : ResultWait) : Bool := !v.placed && v.pool = w.pool && !q.holds v.total
    let held := ahead && (s.host.heldWait.take w.behind).any (fun h => !q.holds h.2.length)
    let lacks := !w.placed && (short w || kept.any short || held)
    let s := if lacks && !w.announced then s.event 0x09 w.pool else s
    let s := if lacks then s.updPool w.pool (fun q => { q with waiting := true }) else s
    (s, kept ++ [{ w with announced := w.announced || lacks }])

/-- A result is being written into the pool's buffers. -/
def State.poolBusy (s : State) (p : Nat) : Bool := s.host.waits.any (fun w => w.pool = p && w.run.isSome && decide (w.bytes.length < w.total))

/-- Pools whose EN was written 0 are disabled once no result is being written into their buffers (R258). -/
def State.closePools (s : State) : State :=
  { s with host := { s.host with pool := s.host.pool.mapIdx (fun p (q : PoolSt) =>
      if q.closing && !s.poolBusy p then { q with en := false, closing := false } else q) } }

/-- Whether a record that waits behind i others lacks buffers of EVENT_POOL, its own or those of a record or result before it. -/
def State.heldLacks (s : State) (i len : Nat) : Bool :=
  let q := s.pool s.host.eventPool
  s.host.eventEn && (!q.holds len || (s.host.heldWait.take i).any (fun h => !q.holds h.2.length)
    || s.host.waits.any (fun w => !w.placed && w.pool = s.host.eventPool && decide (w.behind ≤ i) && !q.holds w.total))

/-- WAITING of EVENT_POOL, and the event once for each wait, for the held records that lack its buffers (R271). -/
def State.tellHeld (s : State) : State :=
  let lacks := s.host.heldWait.mapIdx (fun i h => s.heldLacks i h.2.length)
  let told := s.host.heldTold
  let s := { s with host := { s.host with heldTold := lacks.mapIdx (fun i l => told.getD i false || l) } }
  let s := (lacks.mapIdx (fun i l => l && !told.getD i false)).foldl (fun (s : State) new =>
    if new then s.event 0x09 s.host.eventPool else s) s
  if lacks.any id then s.updPool s.host.eventPool (fun q => { q with waiting := true }) else s

/-- Every waiting result that can go goes; WAITING of a pool reads 1 while one waits for it, or a held record does. Without a view of host
memory a whole result takes no run: it waits for a command that brings one (DESIGN CHOICE, notes/assumptions/134.md). -/
def State.settleWaits (s : State) (mem : Option (List (Nat × Byte))) : State :=
  let ws := s.host.waits
  let s := { s with host := { s.host with waits := [], pool := s.host.pool.map (fun q => { q with waiting := false }) } }
  let (s, kept) := ws.foldl (State.settleOne mem) (s, [])
  ({ s with host := { s.host with waits := kept ++ s.host.waits } }.tellHeld).closePools

/-- The record that waits longest is delivered with its event once EVENT_EN, the ring and EVENT_POOL allow; it takes its run behind
the results of that pool that came before it (R271, R278). -/
def State.heldEvent (s : State) (mem : List (Nat × Byte)) (h : Nat × List Byte) : Option State :=
  let q := s.pool s.host.eventPool
  let k := ceilDiv h.2.length q.bufSize
  let first (w : ResultWait) : Bool := !w.placed && w.pool = s.host.eventPool && w.behind = 0
  if s.host.eventEn && q.holds h.2.length && !s.host.waits.any first && s.cqRoom s.host.eventCq
      && !(s.host.cplWait.any (fun w => w.cq = s.host.eventCq)) && s.host.events.isEmpty then
    let p := s.host.eventPool
    let s := { s with host := { s.host with
      heldWait := s.host.heldWait.drop 1, heldTold := s.host.heldTold.drop 1
      waits := s.host.waits.map (fun w => { w with behind := w.behind - 1 }) } }
    let s := State.fillRun q.bufSize s.host.mps (runOf mem q h.2.length).2 (h.2.length / s.host.mps + 2) 0 h.2 s
    let s := s.updPool p (fun q => { q with head := (q.head + k) % q.entries })
    let cid := s.host.eventCid
    let s := { s with host := { s.host with eventCid := (cid + 1) % 65536 } }
    let e := eventCpl s { typ := 0x01, value := h.1 % 2 ^ 18 + put (at_ h.2 4 4) 32 32, cid := cid }
    some (s.complete { e with pool := p, nbuf := k, first := q.head % q.entries, length := h.2.length })
  else none

/-- Results and held records go in the order in which they came, pool by pool, as far as each can. -/
def State.drainHeld (s : State) (mem : List (Nat × Byte)) : State :=
  (s.host.heldWait.foldl (fun (a : State × Bool) h =>
    match (if a.2 then a.1.heldEvent mem h else none) with
    | some s => (s.settleWaits (some mem), true)
    | none => (a.1, false)) (s.settleWaits (some mem), true)).1

/-! ### Transactions (08 R250, 09 R270) -/

def State.tx (s : State) (id : Nat) : Option Tx := s.host.txs.find? (fun t => t.id = id)
def State.updTx (s : State) (id : Nat) (f : Tx → Tx) : State :=
  { s with host := { s.host with txs := s.host.txs.map (fun t => if t.id = id then f t else t) } }

/-- A TAG names a transaction of the ROOT by id and generation (Table 8.3). -/
def State.txOfTag (s : State) (tag : Nat) : Option Tx :=
  s.host.txs.find? (fun t => t.id = tag % 4096 && t.gen = tag / 4096 % 16)

def Tx.tag (t : Tx) : Nat := t.id + 4096 * t.gen

/-- The lowest id in use by no transaction; ids from 4,032 on serve ring 0 alone (R250, R261). -/
def State.freeId (s : State) (ring : Nat) : Option Nat :=
  (List.range (if ring = 0 then 4096 else 4032)).find? (fun i => !(s.host.txs.any (fun t => t.id = i)))

/-- The generation of an id's next use. -/
def State.nextGen (s : State) (id : Nat) : Nat :=
  match s.host.gens.find? (fun p => p.1 = id) with
  | some p => (p.2 + 1) % 15
  | none => 0

/-- The entry for a result or an end of transaction t. -/
def Tx.cpl (t : Tx) (s : State) (status value answered detail : Nat) (more isMap final : Bool) : Cpl :=
  { ring := t.hdr.ring, cq := (s.sq t.hdr.ring).cq, cid := t.hdr.cid, status := status, more := more, isEvent := false
    isMap := isMap, pool := 0xFF, nbuf := 0, first := 0, length := 0, value := value, answered := answered
    tid := t.tag, detail := detail, noIrq := bit t.hdr.flags 0, barrier := bit t.hdr.flags 1, frees := if final then some t.id else none }

/-- A result that is there as a whole. -/
def ResultWait.whole (pool : Nat) (bs : List Byte) (e : Cpl) : ResultWait :=
  { pool := pool, total := bs.length, bytes := bs, run := none, sent := 0, comes := none, entry := e, announced := false, behind := 0 }

/-- What of a transaction is still arriving is discarded with it; a run that it has taken stays taken (R274; DESIGN CHOICE,
notes/assumptions/106.md). -/
def State.dropStreams (s : State) (id : Nat) : State :=
  let gone := s.host.streams.filter (fun r => r.tx = id)
  { s with host := { s.host with
      streams := s.host.streams.filter (fun r => r.tx != id)
      waits := s.host.waits.filter (fun w => !(gone.any (fun r => w.comes = some (r.tag, r.src)))) } }

def State.post (s : State) (w : ResultWait) : State :=
  { s with host := { s.host with waits := s.host.waits ++ [{ w with behind := s.host.heldWait.length }], used := true } }

/-- A result entry with MORE; a result larger than the pool's list is discarded and the transaction ends OVERFLOW. -/
def State.postMore (s : State) (id : Nat) (bytes : List Byte) (status value answered : Nat) : State :=
  match s.tx id with
  | none => s
  | some t =>
    if (s.pool t.hdr.pool).tooBig bytes.length then s.updTx id (fun t => { t with forced := some stOverflow })
    else
      (s.post (ResultWait.whole t.hdr.pool bytes (t.cpl s status value answered 0 true false false))).updTx id (fun t => { t with entries := t.entries + 1 })

/-- The transaction that a TAG serves: of a second copy the one it is a copy of (08 R232). -/
def State.mainTx (s : State) (tag : Nat) : Option Tx :=
  match s.txOfTag tag with
  | some t => (match t.copyOf with
    | some m => s.txOfTag m
    | none => some t)
  | none => none

/-- The mark of a position whose block or segment has come. A device that has not accepted its survey stays missing (03 R100). -/
def Tx.markPos (t : Tx) (pos mark : Nat) : Tx :=
  let from_ := match t.req with
    | .surveyRun _ _ _ _ _ _ => 1
    | _ => 0
  { t with survey := t.survey.map (fun (d : Nat × Nat) =>
      if d.1 = pos && (d.2 = 1 || d.2 = 5 || d.2 = from_) then (pos, mark) else d) }

/-- The ROOT's own survey block or exposure segment, which is there as a whole (R270): an entry with MORE, and the mark. -/
def State.blockIn (s : State) (tag pos mark : Nat) (bs : List Byte) : State :=
  match s.mainTx tag with
  | some t => if t.done then s else (s.postMore t.id bs 0 0 1).updTx t.id (fun t => t.markPos pos mark)
  | none => s

/-- The header of a segment or block has come: it is due its run, unless the pool's list cannot hold it (R271, R272). -/
def State.openStream (s : State) (t : Tx) (tag src total mark : Nat) : State :=
  let new : Stream := { tag := tag, src := src, tx := t.id, total := total, got := 0, mark := mark }
  let s := { s with host := { s.host with streams := s.host.streams ++ [new] } }
  if (s.pool t.hdr.pool).tooBig total then s.updTx t.id (fun t => { t with forced := some stOverflow })
  else
    (s.post { ResultWait.whole t.hdr.pool [] (t.cpl s 0 0 1 0 true false false) with total := total, comes := some (tag, src) }).updTx t.id
      (fun t => { t with entries := t.entries + 1 })

/-- The next bytes of a segment or block; with the last, the position has its mark. -/
def State.feedStream (s : State) (r : Stream) (bs : List Byte) : State :=
  let got := r.got + bs.length
  let rest := s.host.streams.filter (fun q => !(q.tag = r.tag && q.src = r.src))
  let s := { s with host := { s.host with
    streams := if r.total ≤ got then rest else rest ++ [{ r with got := got }]
    waits := s.host.waits.map (fun (w : ResultWait) =>
      if w.comes = some (r.tag, r.src) && decide (w.bytes.length < w.total) then { w with bytes := (w.bytes ++ bs).take w.total } else w) } }
  if r.total ≤ got then s.updTx r.tx (fun t => t.markPos r.src r.mark) else s

/-- A frame of a segment or block at the ROOT. Its first frame holds the header, which gives `total` and the mark, and with it the
result takes its run. -/
def State.streamIn (s : State) (mem : List (Nat × Byte)) (tag src total mark : Nat) (bs : List Byte) : State :=
  match s.mainTx tag with
  | none => s
  | some t =>
    if t.done then s
    else
      let is (r : Stream) : Bool := r.tag = tag && r.src = src
      let s := if s.host.streams.any is then s else s.openStream t tag src total mark
      match s.host.streams.find? is with
      | some r => (s.feedStream r bs).settleWaits (some mem)
      | none => s

/-- The mark of a segment: 4 for one with NO_TRIGGER (06 Table 6.8), 3 otherwise. -/
def segmentMark (bs : List Byte) : Nat := if bit (at_ bs 6 1) 1 then 4 else 3

/-- The final entry, with a buffer where bytes are given (R270). -/
def State.postFinal (s : State) (id : Nat) (bytes : List Byte) (status value answered detail : Nat) (isMap : Bool) :
    State :=
  match s.tx id with
  | none => s
  | some t =>
    let big := !bytes.isEmpty && (s.pool t.hdr.pool).tooBig bytes.length
    let st := if big then stOverflow else t.forced.getD status
    let bs := if big then [] else bytes
    let s := (s.updTx id (fun t => { t with done := true })).dropStreams id
    s.post (ResultWait.whole t.hdr.pool bs (t.cpl s st value answered detail false (isMap && !big) true))

/-- A descriptor that ends at a check of Table 9.10 writes its entry and takes no transaction. -/
def State.completeEarly (s : State) (h : Hdr) (status : Nat) : State :=
  (s.answer status).complete
    { ring := h.ring, cq := (s.sq h.ring).cq, cid := h.cid, status := status, more := false, isEvent := false
      isMap := false, pool := 0xFF, nbuf := 0, first := 0, length := 0, value := 0, answered := 0, tid := 0
      detail := 0, noIrq := bit h.flags 0, barrier := bit h.flags 1, frees := none }

/-! ### Scopes in the topology table (08 R220) -/

/-- The ROOT's own entry stands in the table from release. -/
def State.ownTopo (s : State) : TopoEntry :=
  { pos := s.tree.pos, uid := s.ident.uid, parent := 0, port := 0, depth := 0, hi := (s.tree.topo.map TopoEntry.hi).foldl max s.tree.hi
    alt := ((List.range 4).map (fun p => flag (s.port p).alt p)).sum
    portsUp := ((List.range 4).map (fun p => flag ((s.port p).link = .up) p)).sum
    role := s.ident.role.code, station := s.mode.station, pending := s.tree.pending, legacy := false
    modeHealth := s.mode.mode.code + put s.health 4 16 }

/-- The whole table; what a standby has been told of its own position, or of the ROOT whose place it takes, gives way (R235). -/
def State.topoAll (s : State) : List TopoEntry := s.ownTopo :: s.tree.topo.filter (fun e => e.pos != s.tree.pos)

def State.topoOf (s : State) (pos : Nat) : Option TopoEntry := s.topoAll.find? (fun e => e.pos = pos)

/-- Whether `pos` is the device p or below it, and how many hops, by the parents of the table. -/
def State.hopsBelow (s : State) (p : Nat) : Nat → Nat → Option Nat
  | 0, _ => none
  | n + 1, pos =>
    if pos = p then some 0
    else match s.tree.topo.find? (fun e => e.pos = pos) with
      | none => none
      | some e => (s.hopsBelow p n e.parent).map (· + 1)

/-- A position under which this device answers: position 0 for the alias of a standby in charge (R235). -/
def State.answersAs (s : State) (pos : Nat) : Nat := if s.tree.alias_ = some pos then s.tree.pos else pos

/-- Positions of a scope known to the ROOT, rising. -/
def State.scopeOf (s : State) (pos depth : Nat) : List Nat :=
  if depth = 0 then [s.answersAs pos]
  else (((s.topoAll.map TopoEntry.pos).filter (fun q =>
    match s.hopsBelow pos (s.tree.topo.length + 1) q with
    | none => false
    | some d => depth = 255 || decide (d ≤ depth))).map s.answersAs).eraseDups.mergeSort (fun a b => decide (a ≤ b))

/-- The missing-position map (Table 8.4): list form when 32 × COUNT is at most SPAN, bitmap otherwise. -/
def missingMap (tag base span : Nat) (miss : List (Nat × Nat)) : List Byte :=
  let ms := miss.mergeSort (fun a b => decide (a.1 ≤ b.1))
  let isList := decide (32 * ms.length ≤ span)
  let head := le 2 tag ++ le 1 (if isList then 0 else 1) ++ [0] ++ le 4 ms.length ++ le 4 base ++ le 4 span
  let data := if isList then ms.flatMap (fun m => le 4 (put m.1 0 18 + put m.2 18 4))
    else (List.range (ceilDiv span 8)).map (fun k =>
      BitVec.ofNat 8 ((List.range 8).map (fun b => flag (ms.any (fun m => m.1 = base + 8 * k + b)) b)).sum)
  withCrc (head ++ data)

end Sys2Proof.Machine
end

