-- ==== Sys2Proof/Machine/MeasureOps.lean ====
section
/-! DEFINITION. Shared operations on the balance switches, the apertures, the survey and the history: the precedence of
requests (02 Table 2.4), bleed correction (04 R114), open-wire flags, the snapshot, survey blocks, and how these
functions are stopped or aborted. -/

namespace Sys2Proof.Machine

/-! ### Selection and neighbours -/

/-- Cell n lies in a mask of 48 bits. -/
def inMask (m n : Nat) : Bool := decide (1 ≤ n) && decide (n ≤ 48) && bit m (n - 1)

def State.selected (s : State) (n : Nat) : Bool := inMask s.sweep.par.mask n

def cellNums : List Nat := (List.range 48).map (· + 1)

/-- Cells of present tiers. -/
def State.presentCells (s : State) : List Nat := cellNums.filter (fun n => s.tierPresent (tierOf n))

def State.selCells (s : State) : List Nat := cellNums.filter s.selected

/-- The nearest selected cell above or below (05 R136). -/
def State.above (s : State) (k : Nat) : Option Nat := s.selCells.find? (fun n => decide (k < n))
def State.below (s : State) (k : Nat) : Option Nat := s.selCells.reverse.find? (fun n => decide (n < k))

/-- OPEN_WIRE stands on cell j and on the nearest selected cell above it, for every open wire j (05 R137). -/
def State.openFlag (s : State) (n : Nat) : Bool :=
  s.selected n && s.diag.openWires.any (fun j => j = n || s.above j = some n)

/-! ### Timing of the corners (02 Table 2.1) -/

/-- Decimation ratio of a corner code. -/
def ratioOf (c : Nat) : Nat := [160, 320, 640, 1280, 5120, 20000, 80000, 320000].getD c 160

/-- Output period p_c in tt: 4 × the ratio. -/
def periodOf (c : Nat) : Nat := 4 * ratioOf c

/-- Group delay in tt: one and a half output periods. -/
def tgd (c : Nat) : Nat := 6 * ratioOf c

/-- SWEEP.SETTLE in tt: 20.48 tt per µs, rounded up. -/
def settleTt (us : Nat) : Nat := ceilDiv (us * 2048) 100

/-! ### Balance switches (02 Table 2.4) -/

/-- The period of the survey point in progress (03 R80): M × p_c, M rounded, a half up. -/
def cornerFor (f : Nat) : Nat :=
  -- the largest code whose −3 dB corner (in mHz) is at least 2 f
  let hz := [8000000, 4000000, 2000000, 1000000, 250000, 60000, 15000, 4000]
  (List.range 8).foldl (fun acc c => if 2 * f ≤ hz.getD c 0 then c else acc) 0

/-- M_k: round(20,480,000 / (f × p_c)), f in mHz. -/
def cyclesOutputs (f : Nat) : Nat :=
  let d := f * periodOf (cornerFor f)
  if d = 0 then 0 else (2 * 20480000000 + d) / (2 * d)

def pointPeriod (f : Nat) : Nat := cyclesOutputs f * periodOf (cornerFor f)

/-- n_k (R81). -/
def pointCycles (cycles f : Nat) : Nat := min cycles (1024000000 / max 1 (pointPeriod f))

/-- G (03 Table 3.2); RIPPLE runs one group. -/
def groupsOf (p : SurveyPar) : Nat := if p.ripple then 1 else if p.groups = 0 then 1 else if p.groups = 1 then 2 else 4

/-- BLEED excitation commands the switches now. -/
def State.bleedOn (s : State) : Bool := s.survey.exciteOn && !s.survey.lat.ripple && s.survey.run.isSome

/-- What BLEED excitation that began at st asks of cell n: closed in the first half of each period. It excites the cells that
the SWEEP mask selects now (DESIGN CHOICE, notes/assumptions/64.md). -/
def State.bleedWave (s : State) (st n : Nat) : Bool :=
  let v := s.survey
  let per := pointPeriod (v.lat.freq.getD v.point 0)
  s.selected n && (n - 1) % groupsOf v.lat = v.group && decide ((s.now - st) % max 1 per < per / 2)

/-- Closed time of an on-test, and the whole test with its recovery (05 R133). -/
def onTestTt : Nat := 40960
/-- P of the harness check, and the time of one cell: lead-in, 16 cycles, tail (05 R138). -/
def harnessP : Nat := 327680
def harnessTt : Nat := harnessP + 3 * periodOf 4 + 16 * harnessP + 2 * periodOf 4

/-- What a test step asks of the switch of cell n now (05 R133, R138). -/
def TestStep.asks (now n : Nat) : TestStep → Bool
  | .switch c st => c = n && decide (now < st + onTestTt)
  | .harness k st => k = n && decide (st ≤ now) && decide (now < st + harnessTt) && decide ((now - st) % harnessP < harnessP / 2)
  | .wire _ _ => false
  | .rest _ _ => false

/-- A harness cell is in progress: every switch but its own is held open, as in governor off-time (05 R138). -/
def State.harnessNowOn (s : State) : Bool :=
  s.diag.steps.any (fun t => match t with
    | .harness _ _ => true
    | .switch _ _ => false
    | .wire _ _ => false
    | .rest _ _ => false)

/-- The request of rank 2 on cell n: a BLEED survey run, or the switch under test (03 R84, 05 R133, R143). `none`: no such
request. -/
def State.rank2 (s : State) (n : Nat) : Option Bool :=
  match (if s.bleedOn then s.survey.run else none) with
  | some st => some (s.bleedWave st n)
  | none => if s.diag.steps.any (TestStep.asks s.now n) then some true else none

/-- The slot of the governor that tree time stands in (04 R111). -/
def State.slotNow (s : State) : Nat := s.now / 128000

/-- The balance request of cell n, after suspensions and withdrawals (04 R109, R117). -/
def State.balRequest (s : State) (n : Nat) : Bool :=
  let c := s.cell n
  s.bal.fn = .running && inMask s.bal.lEnable n && decide (0 < c.remain) && !c.excluded && !s.openFlag n
    && s.survey.fn = .stopped && !s.bal.suspHalt && s.bal.resumeAt != some s.slotNow

/-- The request of rank 5: the governor's off-time and a harness cell withdraw it (R109, 05 R138). -/
def State.rank5 (s : State) (n : Nat) : Bool := s.balRequest n && inMask s.bal.allowed n && !s.harnessNowOn

/-- A suspension of balancing ends: it resumes at the next slot boundary (04 R117). -/
def State.resumeBal (s : State) : State := { s with bal := { s.bal with resumeAt := some s.slotNow } }

/-- A rank-1 request: reset and BIST, SAFE, LOCKOUT, and every mode without a supply for the tiers. -/
def State.rank1 (s : State) : Bool := s.inMode [.bist, .safe, .lockout, .dormant, .ship, .keep]

/-- What the switch of cell n is commanded to, by the highest-ranked request. -/
def State.wantClosed (s : State) (n : Nat) : Bool :=
  if s.rank1 || !s.tierPresent (tierOf n) then false
  else match s.rank2 n with
    | some b => b
    | none => if s.sweep.blankTo.isSome then false else s.rank5 n

/-- How far back a window of corner 7 reaches from the time its record is complete. -/
def logSpan : Nat := 8000000

/-- The entries of a switch log that a window may still reach: the later ones, and the one in force before them. -/
def pruneLog (now : Nat) : List SwChange → List SwChange
  | [] => []
  | e :: l => if e.t + logSpan ≤ now then [e] else e :: pruneLog now l

/-- The switch of a cell takes a state; `bleed`: a BLEED run commands it. -/
def CellSt.setSwitch (c : CellSt) (now wall : Nat) (b bleed : Bool) : CellSt :=
  let e : SwChange := { t := now, closed := b, bleed := b && bleed }
  let last := (c.log.head?).getD { t := 0, closed := false, bleed := false }
  let log := if last.closed = e.closed && last.bleed = e.bleed then c.log else pruneLog now (e :: c.log)
  if b = c.closed then { c with log := log } else { c with closed := b, changed := wall, log := log }

/-- Every switch takes the state its requests give it now. -/
def State.switches (s : State) : State :=
  s.mapCells (fun n c => c.setSwitch s.now s.wall (s.wantClosed n) s.bleedOn)

/-- Every switch opens at once: a rank-1 request, or a mode that holds them open. -/
def State.openAll (s : State) : State := s.mapCells (fun _ c => c.setSwitch s.now s.wall false false)

/-- The entry of a log in force at tree time t. -/
def logAt (l : List SwChange) (t : Nat) : Option SwChange := l.find? (fun c => decide (c.t ≤ t))

/-- The entries in force at some instant from a to b. -/
def logIn (l : List SwChange) (a b : Nat) : List SwChange :=
  l.filter (fun c => decide (a < c.t) && decide (c.t < b)) ++ (logAt l a).toList

/-- The filtered state of a switch over the window from a to b (02 R47): 0 where it is open throughout, 65,536 where it is
closed throughout, otherwise what the filter makes of it, `mix`. With `only`, closed counts only under a BLEED run. -/
def filtered (l : List SwChange) (a b mix : Nat) (only : Bool) : Nat :=
  let on (c : SwChange) : Bool := c.closed && (!only || c.bleed)
  let cs := logIn l a b
  if !cs.any on then 0 else if (logAt l a).isSome && cs.all on then 65536 else mix

/-- BLEED excitation is on at some instant from a to b (02 Table 2.11). -/
def State.excitedIn (s : State) (a b : Nat) : Bool :=
  s.survey.exciteLog.any (fun e => e.2 && decide (a < e.1) && decide (e.1 < b))
    || ((s.survey.exciteLog.find? (fun e => decide (e.1 ≤ a))).map Prod.snd).getD false

/-- The excitation is noted where it begins or ends. -/
def State.noteExcite (s : State) : State :=
  let on := s.bleedOn
  if ((s.survey.exciteLog.head?).map Prod.snd).getD false = on then s
  else { s with survey := { s.survey with exciteLog := ((s.now, on) :: s.survey.exciteLog).take 64 } }

/-- BALANCE.CLOSEDn: closed now, whatever the request; a switch found stuck closed is closed (04 Table 4.8). -/
def State.closedMask (s : State) : Nat :=
  (cellNums.map (fun n => flag ((s.cell n).closed || (s.cell n).stuck.isSome) (n - 1))).sum

/-! ### Bleed correction (04 R114, 05 R125) -/

/-- I_k in nA: b̄ (0–65,536) × V (10 µV) / R (mΩ); a stuck switch that counts as closed and has no R_path takes its mirror
current, any other closed switch without a valid R_path none (DESIGN CHOICE, notes/assumptions/99.md). -/
def State.bleedNa (s : State) (bbar : Nat) (v : Int) (k : Nat) : Int :=
  if k = 0 ∨ 48 < k then 0
  else
    let c := s.cell k
    if c.rPath.ok && c.rPath.v != 0 then roundDiv ((bbar : Int) * v * 10000000) (65536 * (c.rPath.v : Int))
    else if c.stuck.isSome && bbar != 0 then (c.mirror : Int) * 1000
    else 0

/-- e_n in 10 µV from the currents around cell n and the wire resistances in µΩ; a wire whose entry is not valid counts as 0
(DESIGN CHOICE, notes/assumptions/99.md). -/
def State.bleedErr (s : State) (cur : Nat → Int) (n : Nat) : Int :=
  let rw (j : Nat) : Int := if (s.diag.rw.getD j Ent.none).ok then (s.diag.rw.getD j Ent.none).v else 0
  roundDiv (rw (n - 1) * (cur (n - 1) - cur n) - rw n * (cur n - cur (n + 1))) 10000000000

/-! ### The history snapshot (02 R73, R74) -/

/-- Mean of a proof history, rounded to nearest, halves away from zero (DESIGN CHOICE, notes/assumptions/65.md). -/
def runMean (l : List Int) : Int := roundDiv (l.foldl (· + ·) 0) l.length

/-- A word of the DIAG table (05 R150). -/
def entWord (e : Ent) : Nat := e.v + flag e.ok 31

/-- Bytes 0x0000–0x1FFB of the snapshot (Table 2.13). -/
def Snapshot.bytes (n : Snapshot) : List Byte :=
  le 4 1 ++ le 4 n.rtc ++ le 8 n.tt ++ le 1 n.tiers ++ le 6 n.present ++ le 1 n.corner ++ le 4 n.counted
  ++ List.replicate 36 0
  ++ (List.range 48).flatMap (fun i => let p := n.proof.getD i (0, 0)
      le 4 (uns 24 p.1 + put p.2 24 5))
  ++ (List.range 48).flatMap (fun i => let r := n.rate.getD i []
      (List.range 8).flatMap (fun j => le 4 (uns 24 (r.getD j 0) + (if j = 0 then put r.length 24 8 else 0))))
  ++ (List.range 49).flatMap (fun j => le 4 (n.wires.getD j 0)) ++ List.replicate 2108 0
  ++ (List.range 1023).flatMap (fun j => le 4 (n.base.getD j 0))

/-- A write of the snapshot begins: the CRC comes last, with the next tick (R74; DESIGN CHOICE, notes/assumptions/66.md). A keep
crystal that is marked failed leaves the RTC interrupted. -/
def State.writeSnapshot (s : State) : State :=
  let sn : Snapshot :=
    { rtc := s.rtcS, tt := s.now, tiers := s.ident.tiers, present := s.bist.present, corner := s.sweep.lat.corner
      counted := s.sweep.counted, proof := s.cells.map (fun c => (runMean c.pHist, c.pHist.length))
      rate := s.cells.map (fun c => c.rate.map RateEnt.code), wires := s.diag.rw.map entWord, base := s.survey.baseArea
      crc := none }
  { s with kept := { s.kept with snapshot := some sn, rtcBroken := bit s.clocks 2 }
           sweep := { s.sweep with lastSnap := s.wall, snapBusy := true } }

/-- The write in progress ends with its CRC; one that a reset or a supply loss broke off is not taken up again. -/
def State.sealSnapshot (s : State) : State :=
  if !s.sweep.snapBusy then s
  else
    { s with sweep := { s.sweep with snapBusy := false }
             kept := { s.kept with snapshot := s.kept.snapshot.map (fun n => { n with crc := some (crc32c n.bytes) }) } }

/-! ### Steps that act on the cells are abandoned (05 R143) -/

/-- A step in progress; a recovery is none. -/
def TestStep.acts : TestStep → Bool
  | .switch _ _ => true
  | .wire _ _ => true
  | .harness _ _ => true
  | .rest _ _ => false

def State.abandonStep (s : State) : State :=
  if !s.diag.steps.any TestStep.acts then s
  else { s with diag := { s.diag with steps := s.diag.steps.filter (fun t => !t.acts), hOuts := [] } }.switches

/-! ### Survey blocks (03 R94) -/

def entBytes (e : SurvEnt) : List Byte :=
  le 1 e.cell ++ [0] ++ le 2 e.flags ++ le 4 (uns 32 e.re) ++ le 4 (uns 32 e.im) ++ le 2 (uns 16 e.snr)
  ++ le 2 (uns 16 e.temp) ++ le 2 (uns 16 e.trend) ++ [0, 0]

def pointBytes (r : PointRec) : List Byte :=
  le 1 r.k ++ le 1 r.g ++ le 1 r.corner ++ le 1 r.ents.length ++ le 4 r.p ++ le 2 r.n ++ le 2 (flag r.gap 0)
  ++ le 4 r.amp ++ le 8 r.w ++ le 4 r.freq ++ [0, 0, 0, 0] ++ r.ents.flatMap entBytes

/-- Days since the baseline was set, saturating; 0xFFFF for none. -/
def State.baseAge (s : State) : Nat :=
  if s.survey.baseArea.getD 0 0 = 0 then 0xFFFF
  else sat 0xFFFE ((s.rtcS - s.survey.baseArea.getD 1 0) / 86400)

/-- The survey result block (Table 3.4) with the given outcome. -/
def State.surveyBlock (s : State) (outcome : Nat) : List Byte :=
  let v := s.survey
  withCrc (le 4 (put s.tree.pos 0 18 + put outcome 18 4 + put 2 24 8) ++ le 2 v.lat.tag ++ le 1 v.recs.length
    ++ le 1 (flag v.lat.ripple 0 + put v.lat.groups 1 2) ++ le 8 v.t0 ++ le 6 s.sweep.par.mask ++ le 2 s.baseAge
    ++ le 4 (if v.lat.ripple then v.lat.shunt else 0) ++ le 4 (if v.lat.ripple then v.lat.source else 0)
    ++ v.recs.flatMap pointBytes)

/-- Bytes cut into pieces of at most k; the first argument is fuel. -/
def cut (k : Nat) : Nat → List Byte → List (List Byte)
  | 0, _ => []
  | n + 1, bs => if bs.isEmpty then [] else bs.take k :: cut k n (bs.drop k)

/-- Bytes cut into pieces of at most 256. -/
def pieces (n : Nat) (bs : List Byte) : List (List Byte) := cut 256 n bs

/-- Result bytes leave toward a position in frames of 256 payload bytes: DATA (2) or BULK (3). -/
def State.sendBytesTo (s : State) (dest cls tag : Nat) (bs : List Byte) : State :=
  (pieces (bs.length / 256 + 1) bs).foldl (fun s pl => s.sendTo
    { typ := 7, cls := cls, hasScope := false, dest := dest, src := s.tree.pos, depth := 0, tag := tag, payload := pl }) s

/-- Result bytes leave toward position 0. -/
def State.sendBytes (s : State) (cls tag : Nat) (bs : List Byte) : State := s.sendBytesTo 0 cls tag bs

/-- The next TAG of an unsolicited DATA frame (08 Table 8.3). -/
def State.unsolTag (s : State) : Nat × State :=
  (s.tree.unsol + 0xF000, { s with tree := { s.tree with unsol := (s.tree.unsol + 1) % 4096 } })

/-- A block is in the granary and goes toward the host: to its own transaction at the ROOT, elsewhere upstream, under an
unsolicited TAG where the survey was started locally (DESIGN CHOICE, notes/assumptions/67.md). -/
def State.deliverBlock (s : State) (bs : List Byte) : State :=
  let s := { s with survey := { s.survey with blocks := [bs] } }
  match s.survey.tid with
  | none => if s.isRoot then s else let (tag, s) := s.unsolTag
            s.sendBytes 2 tag bs
  | some tag => if s.isRoot then s.blockIn tag s.tree.pos 3 bs else s.sendBytes 2 tag bs

/-- The block of a survey that has ended with this outcome, once no lock-in job of it is left. -/
def State.closeBlock (s : State) (outcome : Nat) (deliver : Bool) : State :=
  if s.survey.jobs.isEmpty then
    let s := { s with survey := { s.survey with closing := none } }
    if deliver then s.deliverBlock (s.surveyBlock outcome) else s
  else { s with survey := { s.survey with closing := some (outcome, deliver) } }

/-- The survey ends: excitation off, LAST and the block's outcome; the keep island's record of it goes. -/
def State.endSurvey (s : State) (outcome : Nat) (deliver : Bool) (fn : FnState) : State :=
  let s := { s with survey := { s.survey with fn := fn, exciteOn := false, run := none, last := outcome, outcome := outcome
                                              outs := [], currents := [], pubQ := [] },
                    kept := { s.kept with survey := none } }.noteExcite
  (s.resumeBal.closeBlock outcome deliver).switches

/-- A change of mode aborts the survey (R102). While lock-in jobs of a block to be delivered run, STATE reads STOPPING (DESIGN CHOICE,
notes/assumptions/122.md). -/
def State.abortSurvey (s : State) (deliver : Bool) : State :=
  let held := deliver && !s.survey.jobs.isEmpty
  if s.survey.fn = .stopped then s
  else if s.survey.fn = .stopping then
    if held then s else { s with survey := { s.survey with fn := .stopped } }.switches
  else s.endSurvey 4 deliver (if held then .stopping else .stopped)

/-- A running BALANCE becomes STOPPED with LAST = ABORTED (04 Table 4.5), one that is STOPPING stops as R121 has it (DEDUCED,
notes/assumptions/118.md); every REMAIN stays. -/
def State.abortBalance (s : State) : State :=
  if s.bal.fn = .stopped then s
  else
    let last := if s.bal.fn = .running then 4 else 3
    { s with bal := { s.bal with fn := .stopped, last := last, allowed := 0, suspHalt := false } }.switches

/-- TBIAS is driven from T − 500 µs of an auxiliary sweep, and all the time at AUX_DIV 1 (02 R55). -/
def State.tbiasDue (s : State) : Bool :=
  s.sweep.fn != .stopped && (s.sweep.lat.auxDiv = 1
    || s.sweep.pend.any (fun a => a.aux && decide (a.t ≤ s.now + 10240) && decide (10 * s.now < 10 * a.t + 8192)))

/-- P in tt. -/
def State.period (s : State) : Nat := 512 * s.sweep.lat.period

/-- Apertures open at every k × P: LOCAL, or the ROOT under TREE. -/
def State.periodic (s : State) : Bool := s.sweep.fn = .running && (s.sweep.lat.source = 1 || s.isRoot)

/-- Whether sweep number n samples the auxiliary inputs (R57). -/
def State.auxSweep (s : State) (n : Nat) : Bool := s.sweep.lat.auxDiv != 0 && n % s.sweep.lat.auxDiv = 0

def State.newAperture (s : State) (t num : Nat) : Aperture :=
  { t := t, num := num, opened := false, mode := 0, young := false, governed := false
    aux := s.auxSweep num, codes := none, auxDone := false, auxCodes := [], blanked := false, lost := [] }

/-- Insertion by T. An aperture at a T already on the schedule adds nothing: the first one's number stands, and LATE does not count
(DESIGN CHOICE, notes/assumptions/94.md). -/
def insertAp (a : Aperture) : List Aperture → List Aperture
  | [] => [a]
  | b :: l => if a.t < b.t then a :: b :: l else if a.t = b.t then b :: l else b :: insertAp a l

/-- One aperture of the schedule changed. -/
def mapAp (t : Nat) (f : Aperture → Aperture) (l : List Aperture) : List Aperture :=
  l.map (fun b => if b.t = t then f b else b)

def State.addAperture (s : State) (t num : Nat) : State :=
  { s with sweep := { s.sweep with pend := insertAp (s.newAperture t num) s.sweep.pend } }

/-- How long before T something of its sweep begins: the blanking interval, or TBIAS. -/
def State.lead (s : State) : Nat := max (tgd s.sweep.lat.corner + settleTt s.sweep.lat.settle) 10240

/-- Every k × P up to the lead is on the schedule, and at least the next one. One that tree time has passed, or that is not later
than the last aperture, is none to come (R38, R70). -/
def State.schedule (s : State) : State :=
  if !s.periodic then s
  else
    let p := s.period
    let k0 := max (max s.sweep.cursor s.now) (s.sweep.lastT.getD 0) / max 1 p + 1
    let k1 := max k0 ((s.now + s.lead) / max 1 p)
    let s := (List.range (k1 + 1 - k0)).foldl (fun s i => s.addAperture ((k0 + i) * p) ((k0 + i) % 2 ^ 32)) s
    { s with sweep := { s.sweep with cursor := max s.sweep.cursor (k1 * p) } }

/-- The apertures that stay on the schedule, and the blanking that they hold. -/
def State.keepAps (s : State) (keep : List Aperture) : State :=
  let held := keep.filter Aperture.blanked
  { s with sweep := { s.sweep with
      pend := keep
      blankTo := if held.isEmpty then none
        else some ((held.map (fun (a : Aperture) => a.t + tgd s.sweep.lat.corner + 4)).foldl max 0) } }

/-- A step of tree time past the T of an aperture that has not opened: T never comes, and the aperture is dropped (DESIGN CHOICE,
notes/assumptions/119.md). -/
def State.dropPassed (s : State) : State :=
  if s.sweep.pend.all (fun a => a.opened || decide (s.now ≤ a.t)) then s.schedule
  else ((s.keepAps (s.sweep.pend.filter (fun a => a.opened || decide (s.now ≤ a.t)))).schedule).switches

/-- STOP of SWEEP (02 R62): apertures whose window has not opened are dropped; the function stops when none is left. -/
def State.stopSweep (s : State) : State :=
  if s.sweep.fn = .stopped then s
  else
    let s := s.schedule
    let keep := s.sweep.pend.filter (fun a => a.opened || decide (a.t ≤ s.now + tgd s.sweep.lat.corner))
    let s := s.keepAps keep
    let s := { s with sweep := { s.sweep with fn := if keep.isEmpty then .stopped else .stopping } }
    let s := { s with sweep := { s.sweep with tbias := s.tbiasDue } }
    (if keep.isEmpty then s.writeSnapshot else s).switches

/-- An armed or undelivered exposure is discarded (06 R176). -/
def State.discardExposure (s : State) : State := { s with expo := { s.expo with state := .idle, ring := [], segment := [] } }

end Sys2Proof.Machine
end

