-- ==== Sys2Proof/Machine/GleanOps.lean ====
section
/-! DEFINITION. Shared operations on jobs: islands, slots, deques, the admission queue and the steps of a harvest (06
R152–R158, R170). -/

namespace Sys2Proof.Machine

/-! ### Islands, slots and deques (R152–R158) -/

def State.gleaner (s : State) (g : Nat) : GleanerSt := s.glean.gleaners.getD g { running := none, deque := [], scratch := [] }
def State.updGleaner (s : State) (g : Nat) (f : GleanerSt → GleanerSt) : State :=
  { s with glean := { s.glean with gleaners := updAt s.glean.gleaners g f } }

def State.islandWorks (s : State) (i : Nat) : Bool := bit s.glean.inUse i && bit s.glean.islandOk i
def State.working (s : State) : List Nat := (List.range 16).filter (fun g => s.islandWorks (g / 4))

/-- Slots 224–255 serve harvests and FORWARD jobs (R155). -/
def highSlots (k : JobKind) : Bool := k = .harvest || k = .forward

/-- Slots in use: running and queued jobs, finished ones not yet released, moved jobs, open harvests. The steps of a harvest
stand in its slot. -/
def State.slots (s : State) : List Nat :=
  (s.glean.gleaners.flatMap (fun g => (g.running.map Job.slot).toList ++ g.deque.map Job.slot)
  ++ s.glean.finished.map (fun f => f.job.slot) ++ s.glean.waiting.filterMap JobWait.slot
  ++ s.glean.harvests.filterMap Harvest.slot).eraseDups

/-- GLEAN.LOAD.SLOTS_USED. -/
def State.slotsUsed (s : State) : Nat := s.slots.length

/-- The lowest free slot of a kind. -/
def State.freeSlot (s : State) (k : JobKind) : Option Nat :=
  let used := s.slots
  if highSlots k then ((List.range 32).map (· + 224)).find? (fun n => !used.contains n)
  else (List.range 224).find? (fun n => !used.contains n)

/-- The working gleaner whose deque is shortest, the lowest index on a tie. -/
def State.shortest (s : State) : Option Nat :=
  s.working.foldl (fun acc g => match acc with
    | none => some g
    | some h => if (s.gleaner g).deque.length < (s.gleaner h).deque.length then some g else some h) none

/-- The working gleaner whose deque is longest, the lowest index on a tie. -/
def State.longest (s : State) : Option Nat :=
  s.working.foldl (fun acc g => match acc with
    | none => some g
    | some h => if (s.gleaner h).deque.length < (s.gleaner g).deque.length then some g else some h) none

/-- A job with its slot goes to the tail of the shortest deque, where that has room (R157). -/
def State.placeOn (s : State) (w : JobWait) (slot adm : Nat) : Option State :=
  match s.shortest with
  | some g =>
    if (s.gleaner g).deque.length < 32 then
      some (s.updGleaner g (fun q => { q with deque := q.deque ++ [Job.mk slot w.kind w.key w.tag adm] }))
    else none
  | none => none

/-- The credits of a request frame are owed, once no job that it asked for waits any longer (R156). -/
def State.payCredits (s : State) (owes : Option (Nat × Nat × Nat × Nat)) : State :=
  match owes with
  | some (p, c, u, t) =>
    if s.glean.waiting.any (fun w => w.owes = some (p, c, u, t)) then s
    else s.updPort p (fun q => { q with owed := q.owed.upd c (fun k => k + u) })
  | none => s

/-- The waiting jobs of a TAG keep the frame that asked for them in its receive buffer (R156). -/
def State.holdFrame (s : State) (tag : Nat) (owes : Option (Nat × Nat × Nat × Nat)) : State :=
  { s with glean := { s.glean with waiting := s.glean.waiting.map (fun (w : JobWait) =>
      if w.tag = tag && w.slot.isNone then { w with owes := owes } else w) } }

/-- The next number in order of admission, taken. -/
def State.tookAdm (s : State) : State := { s with glean := { s.glean with nextAdm := s.glean.nextAdm + 1 } }

def State.addWait (s : State) (w : JobWait) : State :=
  { s with glean := { s.glean with waiting := s.glean.waiting ++ [w], jobsUsed := true } }

/-- The frames of a result that a FORWARD job holds. -/
def Carried.frames : Carried → List Frame
  | .result fs => fs
  | .record _ => []

/-- Bytes of own results that await transmission, at a port or in a FORWARD job (Table 6.9). -/
def State.outUsed (s : State) : Nat :=
  ((s.ports.flatMap (fun q => q.txq.data ++ q.held)).map (fun (x : QFrame) =>
    if x.src.isNone && x.frame.cls = 2 then x.frame.payload.length else 0)).sum
  + ((s.glean.forwards.flatMap (fun m => m.2.frames)).map (fun (f : Frame) => f.payload.length)).sum

/-- Banks 56–59, and 60–63 where the role has no host, still take a result: one that finds them full waits (R177; DESIGN CHOICE,
notes/assumptions/82.md). -/
def State.outRoom (s : State) : Bool := decide (s.outUsed < (if s.hasHost then 0x40000 else 0x80000))

def State.harvestOf (s : State) (tag : Nat) : Option Harvest := s.glean.harvests.find? (fun h => h.tag = tag)

def State.updHarvest (s : State) (tag : Nat) (f : Harvest → Harvest) : State :=
  { s with glean := { s.glean with harvests := s.glean.harvests.map (fun h => if h.tag = tag then f h else h) } }

/-- Moved jobs and steps stand at the head of the admission queue, in order of admission (R157, R170). -/
def State.sortWait (s : State) : State :=
  let held := s.glean.waiting.filter (fun w => w.slot.isSome)
  { s with glean := { s.glean with
      waiting := held.mergeSort (fun a b => decide (a.adm ≤ b.adm)) ++ s.glean.waiting.filter (fun w => w.slot.isNone) } }

/-- Bytes of the items that a harvest has gathered (Table 6.9: banks 38–53). -/
def Harvest.merged (h : Harvest) : Nat := 12 * ((h.kids.filterMap Contributor.given).map (fun c => c.list.length)).sum

/-- The merge buffers, 1 MiB, hold the items of a harvest beside those of the harvests that opened before it; the oldest never
waits (R177; DESIGN CHOICE, notes/assumptions/82.md). -/
def State.mergeRoom (s : State) (h : Harvest) : Bool :=
  let older := ((s.glean.harvests.takeWhile (fun g => g.tag != h.tag)).map Harvest.merged).sum
  older = 0 || h.merged = 0 || decide (older + h.merged ≤ 0x100000)

/-- A step of the harvest is under way. -/
def State.stepOpen (s : State) (tag : Nat) : Bool :=
  let is (j : Job) : Bool := j.kind = .harvest && j.tag = tag
  s.glean.gleaners.any (fun g => g.running.any is || g.deque.any is)
    || s.glean.waiting.any (fun w => w.kind = .harvest && w.tag = tag && w.slot.isSome)

/-- The step that combines the first arrived part of a harvest is placed, or waits at the head of the queue (R170). In HALTED none is
placed (16 R425). -/
def State.startStep (s : State) (tag : Nat) : State :=
  match s.harvestOf tag with
  | none => s
  | some h =>
    match h.slot, h.todo with
    | some n, _ :: _ =>
      if s.stepOpen tag || !s.mergeRoom h || s.mode.mode = .halted then s
      else
        let w : JobWait := { kind := .harvest, key := tag, tag := tag, slot := some n, adm := s.glean.nextAdm, owes := none }
        let s := s.tookAdm
        (match s.placeOn w n w.adm with
        | some t => t
        | none => (s.addWait w).sortWait)
    | _, _ => s

/-- A harvest takes its slot, and its first step starts. -/
def State.slotHarvest (s : State) (tag n : Nat) : State :=
  (s.updHarvest tag (fun h => { h with slot := some n })).startStep tag

/-- A waiting job is placed, where a slot of its kind is free and a deque has room; a harvest needs its slot alone. -/
def State.place (s : State) (w : JobWait) : Option State :=
  match w.slot with
  | some n => s.placeOn w n w.adm
  | none =>
    match s.freeSlot w.kind with
    | none => none
    | some n =>
      if w.kind = .harvest && (s.harvestOf w.tag).isSome then some (s.tookAdm.slotHarvest w.tag n)
      else (s.placeOn w n s.glean.nextAdm).map State.tookAdm

/-- The admission queue in order: each job that can be placed is placed, and the frames that no job needs any longer are
consumed. Moved jobs and steps stand at its head. Admission is the sequencer's, so that in HALTED the jobs wait, and the frames that
asked for them keep their credits (16 R425). -/
def State.admitAll (s : State) : State :=
  if s.mode.mode = .halted then s
  else
  let ws := s.glean.waiting
  let s := { s with glean := { s.glean with waiting := [] } }
  let s := ws.foldl (fun s w => match s.place w with
    | some t => t
    | none => s.addWait w) s
  (ws.filterMap (fun w => w.owes)).eraseDups.foldl (fun s o => s.payCredits (some o)) s.sortWait

/-- The first waiting job that can be placed is placed, where no job is queued: the admission of a job that is stepped (16 R425). -/
def State.admitOne (s : State) : State :=
  if s.working.any (fun g => !(s.gleaner g).deque.isEmpty) then s
  else (s.glean.waiting.findSome? (fun w =>
    ({ s with glean := { s.glean with waiting := s.glean.waiting.erase w } }.place w).map (fun (t : State) => t.payCredits w.owes))).getD s

/-- Everything that waits to be placed, and the steps of the open harvests. -/
def State.placeAll (s : State) : State := (s.glean.harvests.map Harvest.tag).foldl State.startStep s.admitAll

/-- A job is raised: it takes its turn in the queue and is placed where it can be. -/
def State.raiseJob (s : State) (kind : JobKind) (key tag : Nat) (owes : Option (Nat × Nat × Nat × Nat)) : State :=
  (s.addWait { kind := kind, key := key, tag := tag, slot := none, adm := 0, owes := owes }).admitAll

end Sys2Proof.Machine
end

