-- ==== Sys2Proof/Machine/SafetyOps.lean ====
section
/-! DEFINITION. Shared operations of the safety partition: words of its block, the parish register, trips and arming
(10 R290–R305). -/

namespace Sys2Proof.Machine

def State.outp (s : State) (x : Nat) : OutputSt := if x = 1 then s.safety.out1 else s.safety.out2
def State.updOut (s : State) (x : Nat) (f : OutputSt → OutputSt) : State :=
  if x = 1 then { s with safety := { s.safety with out1 := f s.safety.out1 } }
  else { s with safety := { s.safety with out2 := f s.safety.out2 } }
def State.inp (s : State) (x : Nat) : InputSt := if x = 1 then s.safety.in1 else s.safety.in2
def State.updInp (s : State) (x : Nat) (f : InputSt → InputSt) : State :=
  if x = 1 then { s with safety := { s.safety with in1 := f s.safety.in1 } }
  else { s with safety := { s.safety with in2 := f s.safety.in2 } }

def SafBlock.func (b : SafBlock) (x : Nat) : Nat := if x = 1 then b.func1 else b.func2
def SafBlock.disc (b : SafBlock) (x : Nat) : Nat := if x = 1 then b.disc1 else b.disc2
def SafBlock.enr (b : SafBlock) (i : Nat) : Nat := mget 0 b.enroll i

/-- A word of the block by address (10 Table 10.10), the SW words alone. -/
def SafBlock.get (b : SafBlock) (a : Nat) : Option Nat :=
  if a = 0x2008 then some b.func1 else if a = 0x200C then some b.func2
  else if a = 0x2010 then some b.ov else if a = 0x2014 then some b.uv
  else if a = 0x2018 then some b.ot else if a = 0x201C then some b.debounce
  else if a = 0x2020 then some b.hbPeriod else if a = 0x2024 then some b.hbTimeout
  else if a = 0x2028 then some b.disc1 else if a = 0x202C then some b.disc2
  else if a = 0x2030 then some b.degLimit else if a = 0x2034 then some b.brake
  else if a = 0x2038 then some 0
  else if 0x4000 ≤ a ∧ a ≤ 0x7FFC ∧ a % 4 = 0 then some (b.enr ((a - 0x4000) / 4))
  else none

/-- A staged value applied; REARM holds nothing. -/
def SafBlock.set (b : SafBlock) (a v : Nat) : SafBlock :=
  if a = 0x2008 then { b with func1 := v } else if a = 0x200C then { b with func2 := v }
  else if a = 0x2010 then { b with ov := v } else if a = 0x2014 then { b with uv := v }
  else if a = 0x2018 then { b with ot := v } else if a = 0x201C then { b with debounce := v }
  else if a = 0x2020 then { b with hbPeriod := v } else if a = 0x2024 then { b with hbTimeout := v }
  else if a = 0x2028 then { b with disc1 := v } else if a = 0x202C then { b with disc2 := v }
  else if a = 0x2030 then { b with degLimit := v } else if a = 0x2034 then { b with brake := v }
  else if 0x4000 ≤ a ∧ a ≤ 0x7FFC then { b with enroll := mset 0 b.enroll ((a - 0x4000) / 4) v }
  else b

/-- The fields of a word that a write can set (unlisted bits are ignored, R7). -/
def safMask (a : Nat) : Nat :=
  if a = 0x2008 ∨ a = 0x200C then 0x3F else if a = 0x2010 ∨ a = 0x2014 then 0x1FFF
  else if a = 0x2018 then 0xFFFFFFFF else if a = 0x201C then 0xF else if a = 0x2020 then 0x7F
  else if a = 0x2024 ∨ a = 0x2028 ∨ a = 0x202C then 0x7FF else if a = 0x2030 then 0x7F
  else if a = 0x2034 then 0xFFFF else if a = 0x2038 then 3 else 0x1FFFFF

/-- Range of a value (Table 10.10). -/
def safInRange (a v : Nat) : Bool :=
  let within (lo hi : Nat) := decide (lo ≤ v) && decide (v ≤ hi)
  if a = 0x2008 ∨ a = 0x200C then !(fld v 1 0 = 3)
  else if a = 0x2010 then within 1000 5500
  else if a = 0x2014 then v = 0 || within 500 4000
  else if a = 0x201C then within 1 8
  else if a = 0x2020 then within 1 100
  else if a = 0x2024 then within 5 2000
  else if a = 0x2028 ∨ a = 0x202C then within 10 2000
  else if a = 0x2030 then within 1 72
  else if a = 0x2034 then within 100 60000
  else true

/-- BLOCK_CRC of a parish entry: 0x2008–0x2034, then ENROLL (Table 10.2). -/
def SafBlock.crc (b : SafBlock) : Nat :=
  crc32c (wordsLe 4 ([b.func1, b.func2, b.ov, b.uv, b.ot, b.debounce, b.hbPeriod, b.hbTimeout, b.disc1, b.disc2,
    b.degLimit, b.brake] ++ (List.range 4096).map b.enr))

/-- A parish entry of an event of now; it takes its SEQ when it is queued. -/
def State.parishEvent (s : State) (kind count address old new session origin : Nat) : ParishEntry :=
  { seq := 0, kind := kind, count := count, address := address, old := old, new := new, session := session, origin := origin
    time := s.now, rtc := s.rtcS, blockCrc := s.safety.block.crc }

/-- A parish entry is queued for programming; `tag` answers when it is programmed (R289, R292). -/
def State.parishAdd (s : State) (e : ParishEntry) (tag : Option Nat) : State :=
  { s with safety := { s.safety with parishSeq := s.safety.parishSeq + 1
                                     parishQ := s.safety.parishQ ++ [{ entry := { e with seq := s.safety.parishSeq + 1 }, tag := tag }] } }

def State.parish (s : State) (kind count address old new session origin : Nat) (tag : Option Nat) : State :=
  s.parishAdd (s.parishEvent kind count address old new session origin) tag

/-- The 64 bytes of a parish entry. -/
def parishBytes (e : ParishEntry) : List Byte :=
  withCrc (le 4 e.seq ++ le 1 e.kind ++ le 1 e.count ++ le 2 e.address ++ le 4 e.old ++ le 4 e.new ++ le 4 e.session
    ++ le 4 e.origin ++ le 8 e.time ++ le 4 e.rtc ++ le 4 e.blockCrc ++ List.replicate 20 0)

/-! ### Demands, arming, trips -/

def kindOf (w : Nat) : Nat := fld w 1 0

/-- The enrolled positions that feed function x (station-mounted). -/
def SafBlock.feeds (b : SafBlock) (x : Nat) : List Nat :=
  (b.enroll.filter (fun p => bit p.2 18 && bit p.2 (18 + x))).map (fun p => fld p.2 17 0)

def State.heardOf (s : State) (pos : Nat) : Option Heard := s.safety.heard.find? (fun h => h.pos = pos)

/-- HEARTBEAT_TIMEOUT in tt. -/
def SafBlock.timeoutTt (b : SafBlock) : Nat := b.hbTimeout * ttMs

/-- A position is healthy: its timer is below the timeout and its last frame carried CAUSE 0 (R297). -/
def State.healthy (s : State) (b : SafBlock) (pos : Nat) : Bool :=
  match s.heardOf pos with
  | some h => decide (s.since h.at_ < b.timeoutTt) && h.cause = 0
  | none => false

/-- The failed switches of output x: high side, low side. -/
def State.lostBoth (s : State) (x : Nat) : Bool :=
  s.safety.failed.getD (2 * x - 2) false && s.safety.failed.getD (2 * x - 1) false

/-- Whether an enabled input gives no demand: both contacts closed and no discrepancy latch. -/
def State.inputsQuiet (s : State) (w : Nat) : Bool :=
  [1, 2].all (fun i => !(bit w (1 + i)) || ((s.inp i).a && (s.inp i).b && !(s.inp i).disc))

/-- The switch the next pulse of output x may act on: never one that would energise the load through a failed partner
(R302). -/
def State.pulseSwitch (s : State) (x : Nat) : Option Nat :=
  let o := s.outp x
  let ok (sw : Nat) : Bool := o.on || !(s.safety.failed.getD (2 * (x - 1) + (1 - sw)) false)
  if ok o.nextSw then some o.nextSw else if ok (1 - o.nextSw) then some (1 - o.nextSw) else none

/-- The first readback cycle of output x has run, or none can: its function is OFF, or no switch of it may be pulsed (R304). -/
def State.cycleDone (s : State) (x : Nat) : Bool :=
  (s.outp x).checked || kindOf (s.safety.block.func x) = 0 || (s.pulseSwitch x).isNone

/-- The arming conditions of R299 for function x under a block; the first readback cycle of each output runs before any function
arms (R304). A REARM that comes before that is refused (DEDUCED, notes/assumptions/107.md). -/
def State.mayArm (s : State) (b : SafBlock) (x : Nat) : Bool :=
  let w := b.func x
  s.mode.station && kindOf w != 0 && s.inputsQuiet w && (!(bit w 4) || (b.feeds x).all (s.healthy b))
    && !(s.inMode [.safe, .lockout, .bist, .keep, .ship])
    && !(s.mode.mode = .halted && (s.mode.prior = some .safe || s.mode.prior = some .lockout)) && !s.lostBoth x
    && s.cycleDone 1 && s.cycleDone 2

/-- The output is energised; the function is armed. -/
def State.arm (s : State) (x : Nat) : State :=
  s.updOut x (fun o => { o with on := true, tripped := false, cause := 0, tpos := 0, titem := 0, autoUsed := true, pulse := none })

/-- A trip: both switches open, the first cause is recorded, the ledger entry is written (R298). -/
def State.tripNow (s : State) (x cause pos item : Nat) : State :=
  (s.updOut x (fun o => { o with on := false, tripped := true, cause := cause, tpos := pos, titem := item, pulse := none
                                 tripAt := some s.wall })).ledger 0x09 (cause + 16 * x) (pos + put item 24 7)

/-- A demand on an armed function trips it; on any other it adds nothing. -/
def State.trip (s : State) (x cause pos item : Nat) : State :=
  if (s.outp x).on then s.tripNow x cause pos item else s

/-- A trip that takes a function whether it is armed or not (R303, R305); a trip that is latched stands. -/
def State.tripAll (s : State) (x cause : Nat) : State :=
  if s.mode.station && !(s.outp x).tripped then s.tripNow x cause 0 0
  else s.updOut x (fun o => { o with on := false, pulse := none })

/-- Entry to SAFE: every function that is not tripped already is tripped with DEVICE_SAFE, one whose KIND is OFF too (R305). -/
def State.tripSafe (s : State) : State := (s.tripAll 1 6).tripAll 2 6

/-- Both outputs de-energise at once (R285). -/
def State.outputsOff (s : State) : State :=
  (s.updOut 1 (fun o => { o with on := false, pulse := none })).updOut 2 (fun o => { o with on := false, pulse := none })

/-- The DISCARD entry of the open session. -/
def State.discardEntry (s : State) : Option ParishEntry :=
  s.safety.session.map (fun id => s.parishEvent 4 s.safety.staged.length 0 0 0 id s.safety.origin)

/-- A session that ends other than by CLOSE discards its staged writes (R288, Table 10.1). -/
def State.dropSession (s : State) : State :=
  match s.discardEntry with
  | none => s
  | some e =>
    (s.parishAdd e none) |> fun s => { s with safety := { s.safety with session := none, staged := [] } }

/-- At release the DISCARD entry of a session that a reset ended is written (Table 10.1). -/
def State.writeDropped (s : State) : State :=
  match s.safety.dropped with
  | none => s
  | some e => (s.parishAdd e none) |> fun s => { s with safety := { s.safety with dropped := none } }

end Sys2Proof.Machine
end

