-- ==== Sys2Proof/Machine/Programs.lean ====
section
/-! DEFINITION. Contributions and how they combine (06 R164, R165), and job programs: their validity, the items of a
source, their steps (06 R161–R169). -/

namespace Sys2Proof.Machine

/-! ### Contributions -/

/-- A contribution with nothing in it. -/
def noContribution : Contribution :=
  { answers := [], missing := [], words := [], value := 0, part := none, list := [], gather := false, isList := false
    members := 0, time := 0, select := 0, mixed := false, cut := false, overflow := false, rejected := none, bytes := [] }

/-- One device's answer with a status and a value. -/
def answerOf (pos status value : Nat) : Contribution :=
  { noContribution with answers := [(pos, status)], value := value }

/-- An item comes before another by (position, index) (R165). -/
def itemLe (a b : Item) : Bool := decide (a.pos < b.pos) || (a.pos = b.pos && decide (a.index ≤ b.index))

def mergeItems (a b : List Item) : List Item := (a ++ b).mergeSort itemLe

/-- Ties of MIN and MAX go to the lowest position, then the lowest index (R164). -/
def atLe (a b : Nat × Nat) : Bool := decide (a.1 < b.1) || (a.1 = b.1 && decide (a.2 ≤ b.2))

def addHist (a b : List Nat) : List Nat :=
  (List.range (max a.length b.length)).map (fun i => a.getD i 0 + b.getD i 0)

/-- Two partials combined exactly (R164). -/
def combinePart (a b : Partial) : Partial :=
  if a.count = 0 then { b with hist := addHist a.hist b.hist }
  else if b.count = 0 then { a with hist := addHist a.hist b.hist }
  else
    let minA := decide (a.min < b.min) || (a.min = b.min && atLe a.minAt b.minAt)
    let maxA := decide (b.max < a.max) || (a.max = b.max && atLe a.maxAt b.maxAt)
    { count := a.count + b.count, sum := a.sum + b.sum, sumsq := a.sumsq + b.sumsq
      min := if minA then a.min else b.min, minAt := if minA then a.minAt else b.minAt
      max := if maxA then a.max else b.max, maxAt := if maxA then a.maxAt else b.maxAt
      hist := addHist a.hist b.hist }

def combineOpt (a b : Option Partial) : Option Partial :=
  match a, b with
  | none, b => b
  | a, none => a
  | some x, some y => some (combinePart x y)

/-- A contribution comes from a record, whether or not items of it are left. -/
def ofRecord (c : Contribution) : Bool := decide (0 < c.members) || c.time != 0 || c.select != 0

/-- Two contributions combined; TIME and SELECT are those of the lowest sweep number among the contributors that hold a
record, and differing numbers are mixed (R171). A list, but not a gather, is cut to 16,384 items (R165, R169). -/
def combine (a b : Contribution) : Contribution :=
  let l := mergeItems a.list b.list
  let g := a.gather || b.gather
  let both := ofRecord a && ofRecord b
  let useA := if both then decide (a.select ≤ b.select) else ofRecord a || !ofRecord b
  { answers := a.answers ++ b.answers, missing := a.missing ++ b.missing, words := a.words ++ b.words
    value := max a.value b.value, part := combineOpt a.part b.part
    list := if g then l else l.take 16384, gather := g, isList := a.isList || b.isList
    members := a.members + b.members, time := if useA then a.time else b.time
    select := if useA then a.select else b.select
    mixed := a.mixed || b.mixed || (both && a.select != b.select)
    cut := a.cut || b.cut || (!g && decide (16384 < l.length))
    overflow := a.overflow || b.overflow
    rejected := match a.rejected with
      | some r => some r
      | none => b.rejected
    bytes := a.bytes ++ b.bytes }

/-! ### Programs -/

def progSteps (p : Prog) : List PStep := if p.steps = 2 then [p.step1, p.step2] else [p.step1]
def isCollect (t : PStep) : Bool := t.op = 3 && decide (2 ≤ t.mode)
def progReduces (p : Prog) : Bool := (progSteps p).any (fun t => t.op = 2)
def progCollects (p : Prog) : Bool := (progSteps p).any isCollect

def stepListed (t : PStep) : Bool :=
  if t.op = 1 then decide (t.mode ≤ 4)
  else if t.op = 2 then t.mode = 0 && decide (t.aux ≤ 64) && (t.aux = 0 || decide (0 < t.p2))
  else if t.op = 3 then decide (t.mode ≤ 3)
  else false

/-- A valid program (R163). -/
def progValid (p : Prog) : Bool :=
  (p.steps = 1 || p.steps = 2) && (progSteps p).all stepListed && !(p.steps = 2 && p.step1.op = 2)
    && (if p.field ≤ 3 then p.source = 0 || p.source = 1 || p.source = 3 else p.source = 2 && decide (p.field ≤ 7))

/-- FILTER keeps an item (Table 6.3). -/
def filterKeeps (t : PStep) (i : Item) : Bool :=
  if t.mode = 0 then decide (t.p1 < i.value)
  else if t.mode = 1 then decide (i.value < t.p1)
  else if t.mode = 2 then decide (t.p1 ≤ i.value) && decide (i.value ≤ t.p2)
  else if t.mode = 3 then decide (i.value < t.p1) || decide (t.p2 < i.value)
  else i.flags &&& (uns 32 t.p1) != 0

/-- COMPARE PREVIOUS: the items of the record before, by index. -/
def comparePrev (prev : List Item) (l : List Item) : List Item :=
  l.filterMap (fun i => (prev.find? (fun q => q.index = i.index)).map (fun q =>
    { i with value := i.value - q.value, flags := i.flags ||| q.flags }))

/-- Lower middle value (R164). -/
def medianOf (l : List Int) : Int := (l.mergeSort (fun a b => decide (a ≤ b))).getD ((l.length - 1) / 2) 0

/-- A step over a list of items; REDUCE leaves it as it is. -/
def stepItems (prev : List Item) (t : PStep) (l : List Item) : List Item :=
  let sub (m : Int) := l.map (fun (i : Item) => { i with value := i.value - m })
  if t.op = 1 then l.filter (filterKeeps t)
  else if t.op = 3 then
    (if t.mode = 0 then sub t.p1
     else if t.mode = 1 then comparePrev prev l
     else if t.mode = 2 then sub (roundDiv ((l.map Item.value).foldl (· + ·) 0) l.length)
     else sub (medianOf (l.map Item.value)))
  else l

/-- The item's value and place become a one-item partial, with its histogram bin. -/
def partOf (t : PStep) (i : Item) : Partial :=
  let bin := if t.p2 ≤ 0 then 0 else clampI 0 (t.aux - 1 : Int) (Int.fdiv (i.value - t.p1) t.p2)
  { count := 1, sum := i.value, sumsq := i.value.natAbs * i.value.natAbs, min := i.value, minAt := (i.pos, i.index)
    max := i.value, maxAt := (i.pos, i.index)
    hist := (List.range t.aux).map (fun k => if (k : Int) = bin then 1 else 0) }

def emptyPart (bins : Nat) : Partial :=
  { count := 0, sum := 0, sumsq := 0, min := 0, minAt := (0, 0), max := 0, maxAt := (0, 0), hist := List.replicate bins 0 }

/-- REDUCE (R165). -/
def reduceItems (t : PStep) (l : List Item) : Partial := (l.map (partOf t)).foldl combinePart (emptyPart t.aux)

/-- Items whose value leaves the signed 32-bit field take a value the spec does not state, each its own free value (DESIGN
CHOICE, notes/assumptions/11.md). -/
def State.fitItems (s : State) (l : List Item) : List Item × State :=
  let out (i : Item) : Bool := decide (i.value < -2147483648) || decide (2147483647 < i.value)
  l.foldr (fun i (acc : List Item × State) =>
    if out i then ({ i with value := sgn 32 acc.2.fresh } :: acc.1, acc.2.took) else (i :: acc.1, acc.2)) ([], s)

/-- Steps run one after another; the last, where it is a REDUCE, gives the partial. -/
def State.runSteps (s : State) (prev : List Item) (ts : List PStep) (l : List Item) : List Item × Option Partial × State :=
  let l := ts.foldl (fun l t => stepItems prev t l) l
  let (l, s) := s.fitItems l
  match ts.getLast? with
  | some t => if t.op = 2 then ([], some (reduceItems t l), s) else (l, none, s)
  | none => (l, none, s)

/-- The steps a member runs: all before the first COLLECT step (R166). -/
def memberSteps (p : Prog) : List PStep := (progSteps p).takeWhile (fun t => !isCollect t)
def collectSteps (p : Prog) : List PStep := (progSteps p).dropWhile (fun t => !isCollect t)

/-- The collector's job over the complete gather; one longer than 87,381 items ends OVERFLOW (R169). -/
def State.gather (s : State) (p : Prog) (c : Contribution) : Contribution × State :=
  if 87381 < c.list.length then
    ({ c with overflow := true, list := [], gather := false },
     { s with glean := { s.glean with overflows := sat 0xFFFF (s.glean.overflows + 1) } })
  else
    let (l, part, s) := s.runSteps [] (collectSteps p) c.list
    ({ c with list := l.take 16384, cut := decide (16384 < l.length), part := part, isList := part.isNone, gather := false }, s)

/-! ### The items of a source (R161, R162) -/

/-- Flags of a cell item, at the bits of the survey entry (03 Table 3.6); PROOF_DISAGREE and HIST_IMMATURE at 9 and 10
(DEDUCED, notes/assumptions/27.md). -/
def cellFlags (r : Rec) (n : Nat) (v : Int) : Nat :=
  let b (m i : Nat) := flag (bit m (n - 1)) i
  flag (bit r.flags 7 && (v = -30000 || v = 550000)) 4 + b r.unsettled 5 + b r.openW 6 + b r.adj 7 + b r.disagree 9 + b r.immature 10

/-- Items of a sweep record, in increasing index. -/
def recItems (field : Nat) (r : Rec) : List Item :=
  let pos := fld r.idword 17 0
  if field = 0 then
    (cellNums.filter (inMask r.mask)).map (fun n =>
      let v := r.cells.getD (n - 1) 0
      { pos := pos, index := n, value := v, flags := cellFlags r n v })
  else if field = 1 then
    (if bit r.flags 4 then [{ pos := pos, index := 49, value := r.is1
                              flags := flag (bit r.flags 7 && r.is1.natAbs = 10000000) 4 }] else [])
    ++ (if bit r.flags 5 then [{ pos := pos, index := 50, value := r.is2
                                 flags := flag (bit r.flags 7 && r.is2.natAbs = 10000000) 4 }] else [])
  else if field = 2 then
    (List.range 16).map (fun k => { pos := pos, index := 51 + k, value := (r.aux.getD k 0 : Nat), flags := 0 })
  else
    ([1, 2, 3].filter (fun t => r.temps.getD (t - 1) (-32768) != -32768)).map (fun t =>
      { pos := pos, index := 66 + t, value := r.temps.getD (t - 1) 0, flags := 0 })

/-- Integer square root, rounded to nearest. -/
def sqrtRound (n : Nat) : Nat := (Nat.sqrt (4 * n) + 1) / 2

/-- Items of a survey entry. -/
def entItem (pos field : Nat) (e : SurvEnt) : Item :=
  { pos := pos, index := e.cell, flags := e.flags
    value := if field = 4 then e.re else if field = 5 then e.im
      else if field = 6 then (sqrtRound (e.re.natAbs * e.re.natAbs + e.im.natAbs * e.im.natAbs) : Nat) else e.trend }

/-- SKIP drops an item: UNSETTLED, OPEN_WIRE, CLAMP or INVALID; BALANCE_ADJ. -/
def skips (skip : Nat) (i : Item) : Bool :=
  (bit skip 0 && (bit i.flags 0 || bit i.flags 4 || bit i.flags 5 || bit i.flags 6)) || (bit skip 1 && bit i.flags 7)

end Sys2Proof.Machine
end

