-- ==== Sys2Proof/Machine/HarvestOps.lean ====
section
/-! DEFINITION. Harvests, contributions and what the ROOT makes of them: combining (06 R164, R165, R170, R171), the
completion status (09 R266), contact sheets, lists and the buffers of Tables 9.13–9.15. -/

namespace Sys2Proof.Machine

/-! ### Layouts -/

/-- Mean, rounded to nearest with halves away from zero (R164). -/
def meanOf (sum : Int) (n : Nat) : Int := roundDiv sum n

/-- Variance: floor((COUNT × SUMSQ − SUM²) / COUNT²) (R164). -/
def varOf (p : Partial) : Nat :=
  if p.count = 0 then 0 else (((p.count * p.sumsq : Nat) : Int) - p.sum * p.sum).toNat / (p.count * p.count)

/-- A contact sheet, or a partial with MEAN and VARIANCE at 0 (Table 6.4). -/
def sheetBytes (tag field pos depth missing : Nat) (c : Contribution) (p : Partial) (isPartial collected : Bool) :
    List Byte :=
  let z := p.count = 0
  withCrc (le 2 tag ++ le 1 field
    ++ le 1 (flag isPartial 0 + flag (decide (0 < missing)) 1 + flag collected 2 + flag c.mixed 3)
    ++ le 4 (put pos 0 18 + put depth 18 8) ++ le 4 c.members ++ le 4 missing ++ le 8 p.count ++ le 8 (uns 64 p.sum)
    ++ le 16 p.sumsq
    ++ le 4 (if z then 0x7FFFFFFF else uns 32 p.min) ++ le 4 (put p.minAt.1 0 18 + put p.minAt.2 18 14)
    ++ le 4 (if z then 0x80000000 else uns 32 p.max) ++ le 4 (put p.maxAt.1 0 18 + put p.maxAt.2 18 14)
    ++ le 4 (if isPartial || z then 0 else uns 32 (meanOf p.sum p.count)) ++ le 4 0
    ++ le 8 (if isPartial || z then 0 else varOf p)
    ++ le 8 c.time ++ le 4 c.select ++ le 2 p.hist.length ++ le 2 0 ++ wordsLe 4 p.hist)

def itemBytes (i : Item) : List Byte :=
  le 4 (put i.pos 0 18 + put i.index 18 14) ++ le 4 (uns 32 i.value) ++ le 2 i.flags ++ le 2 0

/-- A list result (Table 9.13). -/
def listBytes (tag field pos depth missing : Nat) (c : Contribution) (collected : Bool) : List Byte :=
  withCrc (le 2 tag ++ le 1 field
    ++ le 1 (flag c.cut 0 + flag (decide (0 < missing)) 1 + flag collected 2 + flag c.mixed 3)
    ++ le 4 (put pos 0 18 + put depth 18 8) ++ le 4 c.list.length ++ le 4 0 ++ le 8 c.time ++ le 4 c.select ++ le 4 0
    ++ c.list.flatMap itemBytes)

/-- A PARAM_READ result (Table 9.15): device records in increasing position. -/
def paramBytes (addr : Nat) (c : Contribution) : List Byte :=
  let ans := c.answers.mergeSort (fun a b => decide (a.1 ≤ b.1))
  withCrc (le 4 addr ++ le 4 ans.length ++ ans.flatMap (fun a =>
    let ws := ((c.words.find? (fun w => w.1 = a.1)).map Prod.snd).getD []
    le 4 (put a.1 0 18 + put a.2 18 4 + put ws.length 22 4) ++ wordsLe 4 ws))

/-- Answers, missing positions by name, the REF + 1 of a rejected COMMAND (07 R201), whether a collector ended the query
OVERFLOW (R169), value, words: the body of a RESPONSE, and what follows a partial or a list that has something to say beside
its items. The spec lays out neither (DESIGN CHOICE, notes/assumptions/5.md). -/
def contribBytes (c : Contribution) : List Byte :=
  le 2 c.answers.length ++ c.answers.flatMap (fun a => le 4 (put a.1 0 18 + put a.2 18 8))
  ++ le 2 c.missing.length ++ c.missing.flatMap (fun m => le 4 (put m.1 0 18 + put m.2 18 8))
  ++ le 2 (c.rejected.getD 0) ++ le 2 (flag c.rejected.isSome 0 + flag c.overflow 1)
  ++ le 8 c.value ++ c.words.flatMap (fun w => wordsLe 4 w.2)

/-- What follows a partial or a list: nothing where every contributor answered OK. -/
def trailer (c : Contribution) : List Byte :=
  if c.missing.isEmpty && c.answers.all (fun a => a.2 = stOk) then [] else contribBytes c

/-- Where the answer to a command goes: to its SRC. -/
def State.replyTo (s : State) (tag dest : Nat) : Nat :=
  ((s.glean.asked.find? (fun (a : Nat × Nat) => a.1 = tag)).map Prod.snd).getD dest

/-- The partial, list or gather that a contribution to a query carries: a list is sent where no partial is. -/
def hasResult (c : Contribution) : Bool :=
  c.rejected.isNone && !c.overflow && (c.part.isSome || c.isList || c.gather)

/-- The order key of the FORWARD jobs from here to one position: beyond the TAGs of transactions (DESIGN CHOICE,
notes/assumptions/83.md). -/
def forwardKey (dest : Nat) : Nat := 0xF000 + dest % 4096

/-- A FORWARD job is raised with what it holds. -/
def State.raiseForward (s : State) (tag dest : Nat) (c : Carried) : State :=
  { s with glean := { s.glean with forwards := s.glean.forwards ++ [(tag, c)] } }.raiseJob .forward (forwardKey dest) tag none

/-- Job tags of the FORWARD jobs of results stand beyond those of held records and of members. -/
def forwardTag (tag : Nat) : Nat := tag + 131072

/-- The next hop would take this frame now. -/
def State.granted (s : State) (f : Frame) : Bool :=
  match s.route f.dest with
  | .out p => (s.port p).canSend f
  | _ => true

/-- A result leaves, or waits in a FORWARD job until the next hop grants credits (R165). Without a working island it waits at its
port (DESIGN CHOICE, notes/assumptions/83.md). -/
def State.sendResult (s : State) (dest tag : Nat) (bs : List Byte) : State :=
  let fs := (pieces (bs.length / 256 + 1) bs).map (fun pl =>
    ({ typ := 7, cls := 2, hasScope := false, dest := dest, src := s.tree.pos, depth := 0, tag := tag, payload := pl } : Frame))
  if s.working.isEmpty || fs.head?.all s.granted then fs.foldl State.sendTo s
  else s.raiseForward (forwardTag tag) dest (.result fs)

/-- A device's answer goes toward the one that asked: a partial, a list or log bytes as DATA frames, anything else as a
RESPONSE, in as many frames as it takes. A gather goes to the query's collector, its result to the ROOT (R166, R169). -/
def State.sendUp (s : State) (tag dest : Nat) (req : Req) (pos depth : Nat) (c : Contribution) (collected : Bool) : State :=
  let field := match req with
    | .query p _ => p.field
    | _ => 0
  let collector := match req with
    | .query _ col => col
    | _ => 0
  let isQuery := match req with
    | .query _ _ => true
    | _ => false
  if isQuery && hasResult c then
    s.sendResult (if c.gather then collector else 0) tag ((match c.part with
      | some p => sheetBytes tag field pos depth c.missing.length c p true collected
      | none => listBytes tag field pos depth c.missing.length c collected) ++ trailer c)
  else
    let dest := s.replyTo tag dest
    let s := { s with glean := { s.glean with asked := s.glean.asked.filter (fun (a : Nat × Nat) => a.1 != tag) } }
    let s := s.sendBytes 2 tag c.bytes
    let body := contribBytes c
    (cut 252 (body.length / 252 + 1) body).foldl (fun s pl => s.sendTo
      (protect { typ := 2, cls := 1, hasScope := false, dest := dest, src := s.tree.pos, depth := 0, tag := tag
                 payload := [] } pl)) s

/-! ### Completion of a transaction at the ROOT (09 R266, Table 9.14) -/

/-- The status of one position of a scope. -/
def statusAt (c : Contribution) (p : Nat) : Nat :=
  match c.answers.find? (fun a => a.1 = p) with
  | some a => a.2
  | none => stUnreachable

/-- The shared status of a scope (R266). -/
def scopeStatus (scope : List Nat) (c : Contribution) : Nat :=
  match scope with
  | [] => stOk
  | p :: ps => if ps.all (fun q => statusAt c q == statusAt c p) then statusAt c p else stPartial

/-- The DENIED or BUSY of the lowest position that gave one (R266). -/
def lowestRefusal (c : Contribution) : Nat :=
  match ((c.answers.filter (fun a => a.2 = stDenied || a.2 = stBusy)).mergeSort (fun a b => decide (a.1 ≤ b.1))) with
  | a :: _ => a.2
  | [] => 0

/-- The reason that the map gives a status: DENIED and BUSY 5 (R266), CHECK_FAIL 4, UNREACHABLE 1; for any other status the
spec names none, and `other` stands there (DESIGN CHOICE, notes/assumptions/68.md). -/
def reasonOf (other st : Nat) : Nat :=
  if st = stDenied ∨ st = stBusy then 5 else if st = stCheckFail then 4 else if st = stUnreachable then 1 else other

/-- Positions that the map names, with the reason: missing ones, and all that answered otherwise than OK. -/
def mapOf (other : Nat) (scope : List Nat) (c : Contribution) : List (Nat × Nat) :=
  scope.filterMap (fun p =>
    match c.answers.find? (fun a => a.1 = p) with
    | some a => if a.2 = stOk then none else some (p, reasonOf other a.2)
    | none => some (p, ((c.missing.find? (fun m => m.1 = p)).map Prod.snd).getD 2))

/-- A free reason of Table 8.4. -/
def State.freeReason (s : State) : Nat := s.fresh % 5 + 1

/-- The topology result of READ (Table 9.15). -/
def topoBytes (s : State) (first number : Nat) : Nat × List Byte :=
  let es := (s.topoAll.filter (fun e => decide (first ≤ e.pos) && decide (e.pos < first + number))).mergeSort
    (fun a b => decide (a.pos ≤ b.pos))
  (es.length, withCrc (le 4 es.length ++ le 2 s.tree.walkId ++ List.replicate 10 0 ++ es.flatMap (fun e =>
    le 4 (put e.pos 0 18 + flag e.pending 18 + put e.role 19 2 + flag e.station 21 + flag e.legacy 22) ++ le 8 e.uid
    ++ le 4 (put e.parent 0 18 + put e.port 18 2) ++ le 4 (put e.depth 0 18 + put e.portsUp 18 4 + put e.alt 22 4)
    ++ le 4 e.hi ++ le 4 e.modeHealth ++ le 4 0)))

/-- GLEAN.STATS.OVERFLOWS: a query ended OVERFLOW here (06 R178). -/
def State.countOverflow (s : State) : State :=
  { s with glean := { s.glean with overflows := sat 0xFFFF (s.glean.overflows + 1) } }

/-- The ends of a transaction: its result entries and its final entry. -/
def State.finishTx (s : State) (t : Tx) (c : Contribution) : State :=
  let scope := s.scopeOf t.hdr.pos t.hdr.depth
  let one := t.hdr.depth = 0
  let mp := mapOf s.freeReason scope c
  let s := s.took
  let st := if c.rejected.isSome then stCheckFail else scopeStatus scope c
  let ansN := (c.answers.filter (fun a => a.2 != stUnreachable)).length
  let span := match scope.getLast? with
    | some m => m - scope.headD 0 + 1
    | none => 0
  let mapB := if t.hdr.pool = 0xFF then [] else missingMap t.tag (scope.headD 0) span mp
  let s := s.answer st c.value (c.words.flatMap Prod.snd) c.bytes
  let endWith (s : State) (st value : Nat) (bytes : List Byte) : State :=
    if st = stPartial then
      let s := if bytes.isEmpty then s else s.postMore t.id bytes st value ansN
      s.postFinal t.id mapB st value ansN (lowestRefusal c) true
    else if st = stOverflow && !bytes.isEmpty then
      (s.postMore t.id bytes st value ansN).postFinal t.id [] st value ansN (lowestRefusal c) false
    else s.postFinal t.id bytes st value ansN (lowestRefusal c) false
  let s := match t.req with
  | .paramRead a n =>
    if one && decide (n ≤ 2) then endWith s st (ofLe (wordsLe 4 ((c.words.headD (0, [])).2))) []
    else endWith s st 0 (paramBytes a c)
  | .query p _ =>
    -- a cut list and a gather too long end OVERFLOW, whoever is missing (R165, R169 before R266)
    let st := if c.rejected.isSome then stCheckFail else if c.overflow || c.cut then stOverflow else st
    let collected := progCollects p
    let big (bs : List Byte) : Bool := (s.pool t.hdr.pool).tooBig bs.length || (st = stPartial && (s.pool t.hdr.pool).tooBig mapB.length)
    -- a gather too long was counted by its collector (R169)
    let s := when_ (st = stOverflow && !c.overflow) State.countOverflow s
    let finish (value : Nat) (bs : List Byte) : State :=
      endWith (when_ (st != stOverflow && big bs) State.countOverflow s) st value bs
    if c.overflow then endWith s st 0 []
    else if st = stOk || st = stPartial || (st = stOverflow && c.cut) then
      -- a REDUCE gives a contact sheet, of no items where no partial came
      match (match c.part, (progSteps p).getLast? with
        | none, some k => if k.op = 2 then some (emptyPart k.aux) else none
        | o, _ => o) with
      | some q => finish ((if q.count = 0 then 0x7FFFFFFF else uns 32 q.min)
                    + put (put q.minAt.1 0 18 + put q.minAt.2 18 14) 32 32)
                    (sheetBytes t.tag p.field t.hdr.pos t.hdr.depth mp.length c q false collected)
      | none => finish c.list.length (listBytes t.tag p.field t.hdr.pos t.hdr.depth mp.length c collected)
    else endWith s st 0 []
  | .logRead _ _ _ => endWith s st c.value c.bytes
  | .wireReadIds => endWith s st 0 (if st = stOk then c.bytes else [])
  | .wireReadMem _ _ _ _ => endWith s st 0 (if st = stOk then c.bytes else [])
  | .topologyRead f n =>
    let r := topoBytes s f n
    if lowestRefusal c != 0 then endWith s (lowestRefusal c) 0 []
    else endWith s stOk (s.tree.walkId + put r.1 32 18) r.2
  | _ => endWith s st (if one then c.value else 0) []
  s.settleWaits none

/-! ### Harvests (06 R170) -/

def Contributor.settled (k : Contributor) : Bool := k.given.isSome || k.lost

/-- Positions a port leads to, as the missing list of a silent contributor. -/
def State.portPositions (s : State) (p : Nat) : List Nat :=
  match (s.port p).kid with
  | some (lo, hi) => (List.range (hi + 1 - lo)).map (· + lo)
  | none => if s.isRoot && s.tree.reversal.isSome && p = s.tree.numUp then
      (s.tree.topo.map TopoEntry.pos).filter (fun q => q != 0 && !(decide (s.homePos ≤ q) && decide (q ≤ s.tree.hi)))
    else (s.tree.routes.filter (fun r => r.port = p)).flatMap (fun r => (List.range (r.hi + 1 - r.lo)).map (· + r.lo))

/-- Frames of a transaction that has a harvest here, open or closed, end here (R170). -/
def State.answersHere (s : State) (tag : Nat) : Bool :=
  s.glean.harvests.any (fun h => h.tag = tag) || s.glean.closed.contains tag

/-- Contributor number of the second copy with transaction id n (08 R232): 16 + n, beyond the ports. -/
def copyKid (n : Nat) : Nat := 16 + n

/-- What a missing contributor leaves: its positions; of a second copy, what did arrive and the positions that did not. -/
def State.lostKid (s : State) (k : Contributor) : Contribution :=
  match k.port with
  | none => { noContribution with missing := [(s.tree.pos, 3)] }
  | some p =>
    if p < 16 then
      { noContribution with missing := (s.portPositions p).map (fun q => (q, if (s.port p).link = .up then 2 else 1)) }
    else match s.tx (p - 16) with
      | some t => { t.acc with missing := t.acc.missing ++ ((s.scopeOf t.hdr.pos t.hdr.depth).filter (fun q =>
          !(t.acc.answers.any (fun a => a.1 = q)))).map (fun q => (q, 2)) }
      | none => noContribution

/-- Intervals that second copies of a transaction serve. -/
def State.copied (s : State) (tag : Nat) : List (Nat × Nat) :=
  (s.host.txs.filter (fun (t : Tx) => t.copyOf = some tag)).filterMap (fun t =>
    (s.topoOf t.hdr.pos).map (fun e => (e.pos, e.hi)))

/-- What the numbered parent reports missing or unreachable of a rerouted interval is removed: the copy serves it (08 R232). -/
def State.dropCut (s : State) (tag : Nat) (c : Contribution) : Contribution :=
  let spans := s.copied tag
  let inC (p : Nat) := spans.any (fun v => decide (v.1 ≤ p) && decide (p ≤ v.2))
  if spans.isEmpty then c
  else { c with answers := c.answers.filter (fun a => !(a.2 = stUnreachable && inC a.1))
                missing := c.missing.filter (fun m => !inC m.1) }

/-- A contributor is a second copy. -/
def isCopyKid (port : Option Nat) : Bool := port.any (fun p => decide (16 ≤ p))

/-- The combined result of a harvest: what was given, and the positions of the missing contributors. -/
def State.harvestResult (s : State) (h : Harvest) : Contribution :=
  let got := (h.kids.filterMap Contributor.given).foldl combine noContribution
  let miss := ((h.kids.filter (fun k => k.lost)).map (fun k =>
    if isCopyKid k.port then s.lostKid k else s.dropCut h.tag (s.lostKid k))).foldl combine noContribution
  let got := combine got { miss with missing := [] }
  let miss := miss.missing
  { got with missing := got.missing ++ miss }

/-- A result for a survey or an exposure ends the transaction with what its devices did: reached, refused, silent. -/
def Tx.count (t : Tx) (marks : List Nat) : Nat := (t.survey.filter (fun d => marks.contains d.2)).length

/-- Positions that the map of a survey or exposure names. -/
def Tx.absent (t : Tx) : List (Nat × Nat) := t.survey.filterMap (fun d =>
  if d.2 = 2 then some (d.1, 5)
  else if d.2 = 0 || d.2 = 1 || d.2 = 5 then some (d.1, ((t.acc.missing.find? (fun m => m.1 = d.1)).map Prod.snd).getD 2)
  else none)

/-- The second copies of a transaction end with it (08 R232). -/
def State.dropCopies (s : State) (tag : Nat) : State :=
  { s with host := { s.host with txs := s.host.txs.filter (fun (t : Tx) => t.copyOf != some tag) } }

/-- The final entry of a SURVEY_RUN or EXPOSE (03 R100, 06 R174, 09 R270). -/
def State.finishBlocks (s : State) (t : Tx) (status : Nat) : State :=
  let mp := t.absent
  let ps := t.survey.map Prod.fst
  let lo := ps.foldl min (ps.headD 0)
  let bytes := if status = stPartial then missingMap t.tag lo (ps.foldl max 0 - lo + 1) mp else []
  (((s.dropCopies t.tag).answer status (t.count [3, 4])).postFinal t.id bytes status (t.count [3, 4]) t.acc.answers.length (lowestRefusal t.acc)
    (status = stPartial)).settleWaits none

/-- Acceptances of a SURVEY_RUN, or of an EXPOSE whose harvest has closed. -/
def markAnswers (t : Tx) (c : Contribution) : Tx :=
  { t with
    acc := combine t.acc c
    survey := t.survey.map (fun (d : Nat × Nat) => match c.answers.find? (fun a => a.1 = d.1) with
      | some a => if d.2 != 0 then d else (d.1, if a.2 = stOk then 1 else 2)
      | none => d) }

/-- An acceptance reaches the ROOT; after T0 + T_RESP a device counts as missing (03 R100). -/
def State.surveyAnswer (s : State) (t : Tx) (t0 : Nat) (c : Contribution) : State :=
  if c.rejected.isSome then s.finishTx t (combine t.acc c)
  else if t0 + t.tResp * ttMs ≤ s.now then s
  else s.updTx t.id (fun t => markAnswers t c)

/-- Armed devices that have lost their exposure are missing from then on (06 R160, R176). -/
def markLost (t : Tx) (c : Contribution) : Tx :=
  { t with
    acc := { t.acc with missing := t.acc.missing ++ c.missing }
    survey := t.survey.map (fun (d : Nat × Nat) => if d.2 = 1 && c.missing.any (fun m => m.1 = d.1) then (d.1, 5) else d) }

/-- The harvested answers to an EXPOSE: where no device has armed, it ends with their status. -/
def State.exposeAnswer (s : State) (t : Tx) (c : Contribution) : State :=
  if c.answers.isEmpty && t.survey.any (fun d => d.2 = 1) then s.updTx t.id (fun t => markLost t c)
  else if c.rejected.isSome || !(c.answers.any (fun a => a.2 = stOk)) then s.finishTx t c
  else s.updTx t.id (fun t => markAnswers t c)

/-- A whole result reaches its transaction. -/
def State.endTx (s : State) (t : Tx) (c : Contribution) : State :=
  if t.done then s
  else match t.req with
    | .surveyRun t0 _ _ _ _ _ => s.surveyAnswer t t0 c
    | .expose _ => s.exposeAnswer t c
    | _ => s.finishTx t c

/-- A query (R161). -/
def isQueryReq (r : Req) : Bool := match r with
  | .query _ _ => true
  | _ => false

/-- A harvest is over: its slot is free, and its result goes to the ROOT's transaction, or up. -/
def State.endHarvest (s : State) (h : Harvest) (c : Contribution) (collected : Bool) : State :=
  let mine (w : JobWait) : Bool := w.kind = JobKind.harvest && w.tag = h.tag
  let owes := (s.glean.waiting.filter mine).map JobWait.owes
  let s := { s with glean := { s.glean with
    closed := if h.up.isSome then h.tag :: s.glean.closed.filter (fun t => t != h.tag) else s.glean.closed
    harvests := s.glean.harvests.filter (fun g => g.tag != h.tag)
    waiting := s.glean.waiting.filter (fun w => !mine w) } }
  -- the frame that a harvest still waiting kept is consumed (R156)
  let s := owes.foldl State.payCredits s
  let s := match h.up with
    | none =>
      -- the copies of an EXPOSE still bring segments
      let s := match h.req with
        | .expose _ => s
        | _ => s.dropCopies h.tag
      (match s.txOfTag h.tag with
      | some t => s.endTx t c
      | none => s)
    | some _ => s.sendUp h.tag h.src h.req h.pos h.depth c collected
  s.placeAll

/-- A query on a device without a working island completes as ABORTED, at the ROOT with its whole scope (R154). -/
def State.abortedPart (s : State) (h : Harvest) (c : Contribution) : Contribution :=
  let ps := if h.up.isNone then s.scopeOf h.pos h.depth else c.answers.map Prod.fst
  { noContribution with answers := ps.map (fun p => (p, stAborted)), missing := if h.up.isNone then [] else c.missing }

/-- A harvest whose contributors have all answered or are missing, and whose steps have run, closes: its result leaves, or at
the collector the gather becomes the input of the collector's job (R169, R170). Where no island works no step is waited for. -/
def State.closeHarvest (s : State) (tag : Nat) : State :=
  match s.harvestOf tag with
  | none => s
  | some h =>
    if !h.kids.all Contributor.settled || (!h.todo.isEmpty && !s.working.isEmpty) || h.collecting || (h.up.isSome && isQueryReq h.req && !s.outRoom) then s
    else
      let c := s.harvestResult h
      match h.req with
      | .query _ col =>
        if s.working.isEmpty then s.endHarvest h (s.abortedPart h c) false
        else if c.gather && (col = s.tree.pos || h.up.isNone) then
          (s.updHarvest tag (fun h => { h with collecting := true })).raiseJob .collector tag tag none
        else s.endHarvest h c false
      | _ => s.endHarvest h c false

/-- The collector's job leaves: its steps over the complete gather, and the result goes to the ROOT. A failed one leaves every
gathered position missing, with a reason the spec does not name (R160). -/
def State.collectorLeaves (s : State) (tag : Nat) (failed : Bool) : State :=
  match s.harvestOf tag with
  | none => s
  | some h =>
    if !h.collecting then s
    else
      let c := s.harvestResult h
      match h.req with
      | .query p _ =>
        if failed then
          (s.took).endHarvest h { noContribution with missing := c.missing ++ c.answers.map (fun a => (a.1, s.freeReason)) } true
        else
          let (c, s) := s.gather p c
          s.endHarvest h c true
      | _ => s

/-- The part of a contributor counts as arrived. Combining it takes a step on a gleaner; a device without a working island runs
none, and combines the answers to a command that is no query all the same (DESIGN CHOICE, notes/assumptions/69.md). -/
def State.arrived (s : State) (h : Harvest) (port : Option Nat) : State :=
  if s.working.isEmpty then s.closeHarvest h.tag
  else
    let s1 := s.updHarvest h.tag (fun h => { h with todo := h.todo ++ [port] })
    if h.todo.isEmpty then s1.startStep h.tag else s1

/-- A contributor of an open harvest has given its part; one declared missing is ignored. -/
def State.giveKid (s : State) (tag : Nat) (port : Option Nat) (c : Contribution) : State :=
  match s.harvestOf tag with
  | none => s
  | some h =>
    let c := if isCopyKid port then c else s.dropCut tag c
    if h.kids.any (fun k => k.port = port && !k.settled) then
      (s.updHarvest tag (fun h => { h with kids := h.kids.map (fun k =>
        if k.port = port && !k.settled then { k with given := some c } else k) })).arrived h port
    else s

/-- A combining step of a harvest ends; a failed one leaves its contributor missing (R160). The next step starts, or the
harvest closes. -/
def State.stepLeaves (s : State) (tag : Nat) (failed : Bool) : State :=
  match s.harvestOf tag with
  | none => s
  | some h =>
    let p := h.todo.headD none
    let s := s.updHarvest tag (fun h => { h with
      todo := h.todo.drop 1
      kids := h.kids.map (fun k => if failed && k.port = p then { k with given := none, lost := true } else k) })
    (s.startStep tag).closeHarvest tag

/-- An answer to a second copy (08 R232): kept until every position of the copy has answered, then it is a contributor of
the transaction's harvest. -/
def State.copyPart (s : State) (t : Tx) (main : Nat) (c : Contribution) : State :=
  let acc := combine t.acc c
  let s := s.updTx t.id (fun t => { t with acc := acc })
  let s := s.updHarvest main (fun h => { h with kids := h.kids.map (fun (k : Contributor) =>
      if k.port = some (copyKid t.id) && !k.settled then { k with since := s.wall } else k) })
  if (s.scopeOf t.hdr.pos t.hdr.depth).all (fun q => acc.answers.any (fun a => a.1 = q) || acc.missing.any (fun m => m.1 = q))
  then s.giveKid main (some (copyKid t.id)) acc else s

/-- A contribution for a transaction arrives from a port, or from the device itself: it joins the open harvest; with no
harvest, at the ROOT it is the transaction's result, elsewhere it goes up. -/
def State.contribute (s : State) (tag : Nat) (port : Option Nat) (c : Contribution) (src : Nat) (req : Req)
    (pos depth : Nat) : State :=
  match s.glean.harvests.find? (fun h => h.tag = tag) with
  | some _ => s.giveKid tag port c
  | none =>
    match (if s.hasHost then s.txOfTag tag else none) with
    | some t => (match t.copyOf with
      | some main => (match (s.txOfTag main).map Tx.req, s.txOfTag main with
        -- the acceptances of a survey, and what an exposure loses later, need no harvest
        | some (.surveyRun _ _ _ _ _ _), some m => s.endTx m c
        | some (.expose _), some m => if s.harvestOf main |>.isNone then s.endTx m c else s.copyPart t main c
        | _, _ => s.copyPart t main c)
      | none => s.endTx t (s.dropCut tag c))
    | none => if s.isRoot || (port.isSome && s.glean.closed.contains tag) then s else s.sendUp tag src req pos depth c false

/-- The device answers a command addressed to it. -/
def State.respond (s : State) (tag : Option Nat) (status value : Nat) : State :=
  let s := s.answer status value
  match tag with
  | none => s
  | some t => s.contribute t none (answerOf s.tree.pos status value) 0 .nop s.tree.pos 0

end Sys2Proof.Machine
end

