-- ==== Sys2Proof/Machine/ModeOps.lean ====
section
/-! DEFINITION. Changes of mode and resets as shared operations (14 R374–R384, Table 14.5; 10 R303, R304), with what each
does to the functions that run. -/

namespace Sys2Proof.Machine

/-! ### Wire and commit, as the modes meet them -/

/-- HALTED, DORMANT or LOCKOUT ends a bus operation: GW is released, GWSPU high, the WIRE_OP completes ABORTED (15 R402). -/
def State.abortWire (s : State) (dormant : Bool) : State :=
  let tag := s.wire.opTag
  let busy := s.wire.spu.isSome
  let fn := if dormant || s.wire.fn = .stopping then FnState.stopped else s.wire.fn
  let s := { s with wire := { s.wire with spu := none, opTag := none, pulled := false, fn := fn } }
  if busy then s.respond tag stAborted 0 else s

/-- A commit that holds back a debug halt and an entry to DORMANT (14 R376). -/
def State.commitOpen (s : State) : Bool := s.flash.commit.isOpen

/-! ### SAFE, DEGRADED, LOCKOUT, HALTED -/

/-- What entry to SAFE does to the functions: outputs, trips, balancing, survey, steps, the snapshot. The allowance of DEGRADED
counts on (10 R304). -/
def State.safeEffects (s : State) : State :=
  ((((s.abandonStep).abortSurvey true).abortBalance).tripSafe).writeSnapshot

/-- PRIOR after a higher mode falls due in HALTED (14 R378): LOCKOUT over SAFE over DEGRADED over the rest. -/
def higherPrior (p : Option Mode) (m : Mode) : Option Mode :=
  let rank : Mode → Nat
    | .lockout => 3
    | .safe => 2
    | .degraded => 1
    | _ => 0
  match p with
  | none => some m
  | some q => if rank q < rank m then some m else some q

/-- The device enters SAFE from a mode Table 14.3 allows; in HALTED PRIOR takes it and its effects act at once. -/
def State.toSafe (s : State) : State :=
  if s.mode.mode = .halted then
    if s.mode.prior = some .safe || s.mode.prior = some .lockout then s
    else { s.safeEffects with mode := { s.safeEffects.mode with prior := higherPrior s.mode.prior .safe } }
  else if s.inMode [.quiet, .run, .survey, .commit, .degraded] then
    (s.safeEffects.setMode .safe).switches
  else s

/-- The device enters DEGRADED: the allowance starts unless it already counts (10 R304). -/
def State.toDegraded (s : State) : State :=
  let allowance := s.clk.rtc + s.safety.block.degLimit * 3600 * 32768
  let start (s : State) : State := match s.safety.degEnd with
    | some _ => s
    | none => { s with safety := { s.safety with degEnd := some allowance } }
  if s.mode.mode = .halted then
    if s.mode.prior = some .degraded || s.mode.prior = some .safe || s.mode.prior = some .lockout then s
    else { start s with mode := { s.mode with prior := some .degraded } }
  else if s.inMode [.quiet, .run, .survey, .commit] then ((start (s.abortSurvey true)).setMode .degraded).switches
  else s

/-- Entry to LOCKOUT by escalation (11 R325, Table 4.5): switches and outputs open, functions ended. -/
def State.lockoutEffects (s : State) : State :=
  let s := ((((s.abandonStep).abortSurvey true).abortBalance).dropSession).outputsOff
  let s := if s.sweep.fn = .stopped then s else s.writeSnapshot
  let s := { s with sweep := { s.sweep with fn := .stopped, pend := [], blankTo := none, tbias := false } }
  ((s.discardExposure).abortWire false).openAll

def State.toLockout (s : State) : State :=
  if s.mode.mode = .halted then
    if s.mode.prior = some .lockout then s
    else { s.lockoutEffects with mode := { s.lockoutEffects.mode with prior := some .lockout } }
  else if s.inMode [.quiet, .run, .survey, .commit, .degraded, .safe] then s.lockoutEffects.setMode .lockout
  else s

/-- The reset of a RESET request, 1 ms after it. -/
def State.resetDue (s : State) : Bool := match s.mode.resetAt with
  | some t => decide (t ≤ s.wall)
  | none => false

/-- The grace timer of the open record has run out. -/
def State.graceDue (s : State) : Bool :=
  s.fault.isOpen && !s.fault.escalated && s.fault.left = 0 && !(s.inMode [.halted, .dormant, .ship, .keep])

/-- The allowance of DEGRADED runs out on the RTC. -/
def State.allowanceOver (s : State) : Bool :=
  (s.mode.mode = .degraded || (s.mode.mode = .halted && s.mode.prior = some .degraded)) && (match s.safety.degEnd with
    | some e => decide (e ≤ s.clk.rtc)
    | none => false)

/-- A stack-mounted device has been cut off without a break for the T_LOSS of that loss, and no commit holds the entry to DORMANT
back (R376, R382). -/
def State.lossOver (s : State) : Bool :=
  !s.mode.station && s.inMode [.quiet, .run, .survey, .commit, .safe] && !s.commitOpen && (match s.mode.cutSince with
    | some w => decide (s.mode.lossMs * ttMs ≤ s.since w)
    | none => false)

/-- A trigger that goes before a debug halt is due (R376): a reset, an escalation, the end of the allowance, DORMANT. -/
def State.higherDue (s : State) : Bool := s.resetDue || s.graceDue || s.allowanceOver || s.lossOver

/-- Entry to HALTED (14 R378); a halt that falls due during a commit, or together with a trigger that
goes first, is held (R376). -/
def State.toHalted (s : State) : State :=
  if (s.commitOpen || s.higherDue) && s.inMode [.quiet, .run, .survey, .commit, .degraded, .safe, .lockout] then
    { s with mode := { s.mode with haltHeld := true } }
  else if s.inMode [.quiet, .run, .survey, .degraded, .safe, .lockout] then
    let old := if s.mode.mode = .survey then Mode.run else s.mode.mode
    let s := (((s.dropSession).abandonStep).abortSurvey true).abortWire false
    let s := { s with mode := { s.mode with prior := some old, haltHeld := false }, bal := { s.bal with suspHalt := s.bal.fn = FnState.running },
                      dbg := { s.dbg with halted := true } }
    (s.setMode .halted).switches
  else s

/-- A fresh window of the device watchdog (11 R318). -/
def State.rearmWdog (s : State) : State :=
  { s with wdog := { s.wdog with count := 0, keyHeld := false, pendEarly := 0, pendValid := 0, checked := 0, duplicate := false } }

/-- HALTED returns to PRIOR (14 R378). -/
def State.resumeHalt (s : State) : State :=
  if s.mode.mode != .halted then s
  else
    let p := s.mode.prior.getD .quiet
    let s := { s with mode := { s.mode with prior := none },
                      bal := { s.bal with suspHalt := false, resumeAt := some s.slotNow },
                      dbg := { s.dbg with halted := false, go := true } }
    ((s.setMode p).rearmWdog).switches

/-- RUN, or QUIET when neither SWEEP nor BALANCE runs: where a commit ends (Table 14.3). -/
def State.runOrQuiet (s : State) : Mode :=
  if s.sweep.fn != .stopped || s.bal.fn != .stopped then .run else .quiet

/-- A halt that was held takes place after the commit, and after every trigger that is due as well and goes first (R376). -/
def State.takeHalt (s : State) : State :=
  if s.mode.haltHeld && !s.commitOpen && !s.higherDue && s.coreRuns then s.toHalted else s

/-- After a commit ends: COMMIT is left, and what R376 held back takes place. -/
def State.leaveCommit (s : State) : State :=
  (if s.mode.mode = .commit then s.setMode s.runOrQuiet else s).takeHalt

/-! ### Readback failures (10 R303) -/

/-- Switch sw (0 SO1H, 1 SO1L, 2 SO2H, 3 SO2L) fails readback. -/
def State.switchFails (s : State) (sw : Nat) : State :=
  if s.safety.failed.getD sw false then s
  else
    let first := !(s.safety.failed.any (fun b => b))
    let partner := s.safety.failed.getD (if sw % 2 = 0 then sw + 1 else sw - 1) false
    let s := { s with safety := { s.safety with failed := s.safety.failed.set sw true } }.raise 22 sw
    let x := sw / 2 + 1
    -- a pulse that closes the partner of a failed switch of a de-energised output ends (R302)
    let s := s.updOut x (fun o => if !o.on && o.pulse.any (fun p => p.1 != sw % 2) then { o with pulse := none } else o)
    let s := if first then s.toDegraded else s
    -- a switch found while another is marked failed takes the device to SAFE; an output without a switch left trips
    let s := if partner then s.tripAll x 7 else s
    if first then s else s.toSafe

/-! ### Resets (14 R379, R380, Table 14.5) -/

/-- The slot of the ledger entry that a reset interrupts while it is programmed: bytes that the spec leaves open and a CRC that does
not match (16 R419). The entry at the front of the queue is in the page program unless an erase is in progress. -/
def tornSlot (s : State) : Option LedgerEntry :=
  match s.flash.queue with
  | [] => none
  | e :: _ =>
    if !s.flash.erases.isEmpty || s.inMode [.ship, .keep] || !s.power.vpwrGood then none
    else
      let v (i : Nat) : Nat := (Config.freeWord (s.free + i)).toNat
      let b := (wordsLe 4 ((List.range 8).map v)).take 30
      some { e with cont := none, torn := b ++ le 2 ((crc16 b + 1 + v 8 % 65535) % 65536) }

/-- What a reset with a cause of Table 14.4 leaves, in the mode `tgt`. Causes 1–3 clear the keep island. -/
def State.resetTo (s : State) (cause : Nat) (tgt : Mode) : State :=
  let kept := decide (4 ≤ cause)
  let z := State.reset
  let cut := tornSlot s
  let q := s.flash
  let newest := match q.log.getLast? with
    | some e => e.seq + 1
    | none => 0
  let flash : FlashSt :=
    { q with shadow := z.flash.shadow, cfgIndex := 0, queue := if kept then q.queue else []
             nextSeq := if kept then q.nextSeq else newest, lost := 0, eccCorr := 0, eccUncorr := 0, loadIdle := 10
             commit := CommitSt.reset, pageAddr := 0, pageWords := [], portWrote := false, erases := []
             active := chooseBank q.recA q.recB, log := trimLog 2 (q.log ++ cut.toList), logAt := q.logAt + cut.toList.length
             fetchStop := false }
  let ck := q.commit
  let keptC := if !kept then none
    else if ck.isOpen && decide (1 ≤ ck.state) && decide (ck.state ≤ 4) then some (ck.state, ck.length, ck.crc, ck.start, ck.startRtc)
    else s.kept.commit
  let sf := s.safety
  let safety : SafetySt :=
    { z.safety with
      block := sf.nv.block, digest := sf.nv.digest, nv := sf.nv, parish := sf.parish, parishSeq := sf.parishSeq
      parishQ := sf.parishQ.map (fun w => { w with tag := none })
      fails := if kept then sf.fails else sf.nv.fails, level := if kept then sf.level else sf.nv.level
      lockEnd := if kept then sf.lockEnd else none, relock := (kept && sf.relock) || (!kept && sf.nv.lock != 0)
      dropped := s.discardEntry.or sf.dropped
      in1 := { z.safety.in1 with disc := kept && sf.in1.disc }, in2 := { z.safety.in2 with disc := kept && sf.in2.disc }
      degEnd := if kept then sf.degEnd else none }
  let pw := s.power
  let power : PowerSt :=
    if kept then
      { z.power with keepOnRes := pw.keepOnRes, vpwrGood := pw.vpwrGood, vauxSt := pw.vauxSt, vauxSh := pw.vauxSh
                     hvinOk := pw.hvinOk, stageHv := pw.stageHv, stageOn := pw.stageOn, resOpen := pw.resOpen
                     supply := pw.supply.filter (fun i => i != 10 && (cause != 4 || decide (4 ≤ i)))
                     chem := pw.chem, en := pw.en, timeoutH := pw.timeoutH, ichg := pw.ichg, vcv := pw.vcv, vinreg := pw.vinreg
                     shareEn := pw.shareEn, vresMv := pw.vresMv, retained := pw.retained
                     chg := if tgt = .bist && pw.retained && pw.en && pw.chem != 0 then .wait else .off
                     goodAt := s.wall, contact := s.wall, pgFrom := s.wall }
    else
      { z.power with vauxSt := pw.vauxSt, vauxSh := pw.vauxSh, hvinOk := pw.hvinOk, stageHv := pw.stageHv
                     supply := pw.supply.filter (fun i => i = 8 || i = 9)
                     goodAt := s.wall, contact := s.wall, pgFrom := s.wall }
  let t := s.tree
  let tree : TreeSt :=
    if kept then { z.tree with pos := t.pos, pending := t.pending, curUp := t.curUp, numUp := t.numUp, depth := t.depth, hi := t.hi }
    else z.tree
  let ports := s.ports.map (fun p => if kept then { PortSt.reset with kid := p.kid, hot := p.hot } else PortSt.reset)
  let n : State :=
    { z with
      pending := s.pending, free := if cut.isSome then s.free + 9 else s.free, reply := s.reply, out := s.out
      clk := { z.clk with wall := s.clk.wall, rtc := if kept then s.clk.rtc else 0, rtcSub := if kept then s.clk.rtcSub else 0 }
      ident := { s.ident with wdtHwstart := s.ident.wdtHwstart || s.ident.wdtBlown
                              debugLock := s.ident.debugLock || s.ident.lockBlown }
      mode := { z.mode with mode := s.mode.mode, cause := cause
                            wakeSource := if kept then s.mode.wakeSource else 0, wakePort := if kept then s.mode.wakePort else 0
                            lampItem := if kept then s.mode.lampItem else 0, lampSafety := kept && s.mode.lampSafety }
      flash := flash, safety := safety, power := power, tree := tree, ports := ports
      -- under WDT_HWSTART the device watchdog runs from reset, in the boot window (11 R314)
      wdog := { z.wdog with running := s.ident.wdtHwstart || s.ident.wdtBlown }
      host := { z.host with perst := s.host.perst, refclk := s.host.refclk, partner := s.host.partner, linkUp := s.host.linkUp
                            speedNow := s.host.speedNow, widthNow := s.host.widthNow }
      bist := { z.bist with cur := if kept then s.bist.cur else BistRec.empty
                            prev := if kept then s.bist.prev else BistRec.empty, goodAt := s.wall }
      kept := if kept then { s.kept with commit := keptC } else RetainedSt.reset }
  n.setMode tgt

/-- A reset while VPWR is good: the device stands in BIST, not yet started. -/
def State.resetBy (s : State) (cause : Nat) : State := s.resetTo cause .bist

/-! ### Register operations -/

/-- Whether the parameter space can be reached: from release or from entry to LOCKOUT, and not while the device is in
SHIP, KEEP or DORMANT (17 R430, 14 Table 14.1). -/
def State.awake (s : State) : Bool := !(s.inMode [.bist, .ship, .keep, .dormant])

/-- The parameter space is reached through the core. -/
def State.reachable (s : State) : Bool := s.awake && s.coreRuns

/-- The tier channels work from release on, in LOCKOUT, and for the lamplighter rounds of DORMANT (11 R323). -/
def State.tiersOn (s : State) : Bool := s.awake || s.mode.mode = .dormant

/-- BAR0 can be accessed: the function has enumerated, PERST_N is high and the link is up (09 R254, R256). -/
def State.barOpen (s : State) : Bool := s.hasHost && s.awake && s.host.perst && s.host.linkUp

/-- The link trains as soon as PERST_N is deasserted and the reference clock runs, on a role with an endpoint, and settles at what
the partner gives, at most the targets (09 R254; 01 R27); not while TEST holds the outputs (18 R456). -/
def State.trainPcie (s : State) : State :=
  if s.hasHost && s.host.perst && s.host.refclk && !s.bist.testHeld then
    { s with host := { s.host with linkUp := true, speedNow := min s.host.partner.1 s.host.speed
                                   widthNow := min s.host.partner.2 s.host.width } }
  else s

/-- A register operation of any writer: f gives the status of Table 9.12 and the state after it. -/
def regAny (f : State → Nat × State) (s : State) : State :=
  if s.reachable then (f s).2.answer (f s).1 else s.answer stSilent

/-- A register operation, as PARAM_WRITE makes it: in LOCKOUT it completes as DENIED (14 R373). -/
def regOp (f : State → Nat × State) (s : State) : State :=
  regAny (fun s => if s.mode.mode = .lockout then (stDenied, s) else f s) s

def runReg (f : State → Nat × State) (s : State) : Out := run (regOp f) s

/-- A read of one word, as PARAM_READ makes it: in LOCKOUT it is refused (17 R439). -/
def runWindow (f : State → Nat × State) (s : State) : Out :=
  run (fun s =>
    if !s.reachable then s.answer stSilent
    else if s.mode.mode = .lockout then s.answer stDenied
    else (f s).2.answer stOk (f s).1 [(f s).1]) s

end Sys2Proof.Machine
end

