-- ==== Sys2Proof/Machine/Limits.lean ====
section
/-! DEFINITION. Limit evaluation on an enrolled stack-mounted device and its SAFETY frames (10 R293–R296). -/

namespace Sys2Proof.Machine

/-- The supervisors named by valid entries 0 and 1 of ENROLL (R293, R310). -/
def State.supervisors (s : State) : List Nat :=
  ([0, 1].filter (fun i => bit (s.safety.block.enr i) 18)).map (fun i => fld (s.safety.block.enr i) 17 0)

/-- The device is enrolled. -/
def State.enrolled (s : State) : Bool := !s.mode.station && !s.supervisors.isEmpty

/-- Whether the partition evaluates and sends: from release on, and not in LOCKOUT (12 R345). -/
def State.limitsActive (s : State) : Bool := s.enrolled && !(s.inMode [.bist, .lockout, .ship, .keep])

/-- One evaluation of an input against a limit (R294). -/
def debStep (n : Nat) (viol : Bool) (d : Deb) : Deb :=
  if viol then { bad := d.bad + 1, good := 0, rep := d.rep || decide (n ≤ d.bad + 1) }
  else { bad := 0, good := d.good + 1, rep := d.rep && decide (d.good + 1 < n) }

/-- A cell's code against the limits; a code flagged OPEN_WIRE violates with cause UNOBSERVED (Table 10.3). -/
def State.evalCell (s : State) (n : Nat) (code : Int) (isOpen : Bool) : State :=
  let b := s.safety.block
  s.updCell n (fun c =>
    if isOpen then { c with un := debStep b.debounce true c.un }
    else { c with un := debStep b.debounce false c.un, ov := debStep b.debounce (decide ((100 * b.ov : Int) ≤ code)) c.ov
                  uv := debStep b.debounce (b.uv != 0 && decide (code ≤ (100 * b.uv : Int))) c.uv })

/-- The inputs that OT_LIMIT names. -/
def State.otInput (s : State) (k : Nat) : Bool := bit s.safety.block.ot (16 + k)

/-- An auxiliary code against OT_LIMIT.CODE. -/
def State.evalAux (s : State) (k code : Nat) : State :=
  if !s.otInput k then s
  else
    let b := s.safety.block
    { s with sweep := { s.sweep with
      auxDeb := updAt s.sweep.auxDeb k (debStep b.debounce (decide (code ≤ b.ot % 65536)))
      auxUn := updAt s.sweep.auxUn k (debStep b.debounce false) } }

/-- What is reported now, limit by limit. -/
def State.reports (s : State) : List Bool :=
  s.cells.map (fun c => c.ov.rep) ++ s.cells.map (fun c => c.uv.rep) ++ s.cells.map (fun c => c.un.rep)
    ++ s.sweep.auxDeb.map Deb.rep ++ s.sweep.auxUn.map Deb.rep

/-- Some violation of `after` was not reported before. -/
def newReport (before after : List Bool) : Bool := (before.zip after).any (fun p => p.2 && !p.1)

/-- CAUSE of Table 10.4 without LAMP. -/
def State.causeBits (s : State) : Nat :=
  flag (s.cells.any (fun c => c.ov.rep)) 0 + flag (s.cells.any (fun c => c.uv.rep)) 1
  + flag (s.sweep.auxDeb.any Deb.rep) 2
  + flag (s.cells.any (fun c => c.un.rep) || s.sweep.auxUn.any Deb.rep) 3
  + flag (s.mode.mode = .safe || (s.mode.mode = .halted && s.mode.prior = some .safe)) 5

/-- Lowest violating cell, or 64 + k; 0 for none. -/
def State.causeItem (s : State) : Nat :=
  match s.cells.findIdx? (fun c => c.ov.rep || c.uv.rep || c.un.rep) with
  | some i => i + 1
  | none => match (List.range 16).find? (fun k => (s.sweep.auxDeb.getD k Deb.zero).rep || (s.sweep.auxUn.getD k Deb.zero).rep) with
    | some k => 64 + k
    | none => 0

/-- The SAFETY frame to one supervisor with its counter and SYNC (07 R199–R201, R295). -/
def safetyFrame (s : State) (sup counter : Nat) (sync : Bool) (kind cause item time : Nat) : Frame :=
  protect { typ := 5, cls := 0, hasScope := false, dest := sup, src := s.tree.pos, depth := 0, tag := 0, payload := [] }
    (le 2 counter ++ le 1 (flag sync 0) ++ [0] ++ le 1 kind ++ le 1 cause ++ le 1 item ++ le 1 s.mode.mode.code ++ le 4 time)

/-- The next counter toward a supervisor: the first after release carries SYNC and a counter the spec leaves open. -/
def State.nextSup (s : State) (sup : Nat) : Nat × Bool × State :=
  let put_ (s : State) (r : Nat) : State := { s with safety := { s.safety with
    sup := { pos := sup, ref := r, sync := false } :: s.safety.sup.filter (fun e => e.pos != sup) } }
  match s.safety.sup.find? (fun e => e.pos = sup) with
  | some e => let c := (e.ref + 1) % 65536
              (c, e.sync, put_ s c)
  | none => let c := s.fresh % 65536
            (c, true, put_ s.took c)

/-- A frame of the given kind to every supervisor. -/
def State.sendSafety (s : State) (kind time : Nat) : State :=
  let cause := s.causeBits
  let item := if cause = 0 then 0 else s.causeItem
  s.supervisors.foldl (fun s sup =>
    let (c, sync, s) := s.nextSup sup
    s.sendTo (safetyFrame s sup c sync kind cause item time)) s

/-- A newly reported violation sends a LIMIT frame to each supervisor at once (R295). -/
def State.limitReport (s : State) (before : List Bool) (time : Nat) : State :=
  let s := { s with safety := { s.safety with lastEval := time } }
  if newReport before s.reports then s.sendSafety 2 (time % 2 ^ 32) else s

/-- The last instant k × 20,480 × PERIOD + 512 × s that has passed (R295). -/
def State.beatInstant (s : State) : Option Nat :=
  let per := ttMs * s.safety.block.hbPeriod
  let ph := 512 * (s.tree.pos % max 1 (40 * s.safety.block.hbPeriod))
  if s.now < ph then none else some ((s.now - ph) / max 1 per * per + ph)

/-- After a step of tree time the heartbeats go on from the instants that are still to come (08 R241). -/
def State.beatFrom (s : State) : State := { s with safety := { s.safety with lastBeat := s.beatInstant.getD 0 } }

/-- The instant of cell n's slot in the proof round that began at t, in tt (05 R123): the middle of its slot. -/
def slotTt (t n : Nat) : Nat := t + (2 * ((n - 1) % 16) + 1) * 2048 / 10

end Sys2Proof.Machine
end

