-- ==== Sys2Proof/Machine/Measure.lean ====
section
/-! DEFINITION. Sweeps: the schedule of apertures, blanking, auxiliary samples, codes, the checks that follow each sweep
and the 256-byte record (02; 05 R126–R131, R141). -/

namespace Sys2Proof.Machine

/-! ### The schedule of apertures (R38, R39, R41) -/

/-- A strobe, or on the ROOT a SWEEP_TRIGGER: an aperture on the schedule, or a late one (R41). `own` is the ROOT's. -/
def State.takeStrobe (s : State) (t num : Nat) (own : Bool) : State :=
  if s.sweep.fn != .running || s.sweep.lat.source != 0 then s
  else
    let t := t / 4 * 4
    let limit := if s.sweep.lat.blank = 0 && !own then t - tgd s.sweep.lat.corner - settleTt s.sweep.lat.settle else t
    let past := match s.sweep.lastT with
      | some l => decide (t ≤ l)
      | none => false
    if decide (limit < s.now) || past then { s with sweep := { s.sweep with late := sat 255 (s.sweep.late + 1) } }
    else s.addAperture t (num % 2 ^ 32)

/-! ### Blanking (R44, R45) -/

/-- An aperture whose blanking interval has to open now. -/
def State.blankDue (s : State) (a : Aperture) : Bool :=
  s.sweep.lat.blank = 0 && !a.blanked && decide (a.t ≤ s.now + tgd s.sweep.lat.corner + settleTt s.sweep.lat.settle)

/-- One interval opens; while the one before it is still open, balancing is STARVED. -/
def State.blankOne (s : State) (t : Nat) : State :=
  let e := t + tgd s.sweep.lat.corner + 4
  let w := s.sweep
  let s := { s with sweep := { w with
    pend := mapAp t (fun a => { a with blanked := true }) w.pend
    blankTo := some (match w.blankTo with
      | some b => max b e
      | none => e) } }
  if w.blankTo.isSome then { s with bal := { s.bal with starved := true } } else s

/-- The blanking intervals that are due open, and the switches with them. -/
def State.blankStart (s : State) : State :=
  let s := s.schedule
  ((s.sweep.pend.filter s.blankDue).foldl (fun s a => s.blankOne a.t) s).switches

/-- The intervals are over: switches still requested reclose, and STARVED clears. -/
def State.blankEnd (s : State) : State :=
  match s.sweep.blankTo with
  | none => s
  | some b =>
    if s.now < b || s.sweep.pend.any s.blankDue then s
    else ({ s with sweep := { s.sweep with blankTo := none }, bal := { s.bal with starved := false } }).switches

def execBlankingStart (s : State) : Out := runConv State.blankStart s
def execBlankingEnd (s : State) : Out := runConv State.blankEnd s

/-! ### Auxiliary inputs (R55–R57) -/

def execTbiasDriveStart (s : State) : Out :=
  runConv (fun s => let s := s.schedule
    if s.tbiasDue then { s with sweep := { s.sweep with tbias := true } } else s) s

/-- round(65,536 × V / V(TBIAS)), saturating at 0 and 0xFFFF. -/
def ratioCode (v tb : Nat) : Nat := sat 0xFFFF ((2 * 65536 * v + tb) / (2 * max 1 tb))

/-- The conversions of an auxiliary sweep are complete, at the earliest T + 40 µs. -/
def State.auxReady (s : State) (volts : List Nat) (tb : Nat) : State :=
  match s.sweep.pend.find? (fun a => a.opened && a.aux && !a.auxDone && decide (10 * a.t + 8192 ≤ 10 * s.now)) with
  | none => s
  | some a =>
    let codes := (List.range 16).map (fun k => ratioCode (volts.getD k 0) tb)
    let w := s.sweep
    let s := { s with sweep := { w with pend := mapAp a.t (fun b => { b with auxDone := true, auxCodes := codes }) w.pend,
                                        auxSeen := List.replicate 16 s.wall } }
    { s with sweep := { s.sweep with tbias := s.tbiasDue } }

def execAuxCodesReady (volts : List Nat) (tbias : Nat) (s : State) : Out := runConv (fun s => s.auxReady volts tbias) s

/-! ### Tier channels (01 R15, R16) -/

/-- The aperture whose codes travel now: open longest, with its codes available and its record not complete. -/
def State.codesInFlight (s : State) : Option Aperture :=
  s.sweep.pend.find? (fun a => a.opened && decide (a.t + tgd s.sweep.lat.corner ≤ s.now))

/-- A frame of channel c: a failed CRC-8 discards it, with the codes of its cells, the proof samples and the tier status it
carried. Three in a row raise FLT_TIER_CHANNEL; a run that goes on raises nothing more (DESIGN CHOICE, notes/assumptions/70.md). -/
def State.tierFrame (s : State) (c : Nat) (crcOk : Bool) (load : TierLoad) : State :=
  if crcOk then { s with sweep := { s.sweep with discards := s.sweep.discards.set (c - 1) 0 } }
  else
    let n := s.sweep.discards.getD (c - 1) 0 + 1
    let w := s.sweep
    let pend := match s.codesInFlight with
      | some a => mapAp a.t (fun b => { b with lost := b.lost ++ load.cells }) w.pend
      | none => w.pend
    let s := { s with sweep := { w with discards := w.discards.set (c - 1) (sat 3 n), pend := pend
                                        proofLost := (w.proofLost ++ load.proofs).eraseDups
                                        slotsLost := (w.slotsLost ++ load.slots.filter (fun p => decide (p.2 ≤ 18))).eraseDups }
                      diag := { s.diag with
                      readLost := s.diag.readLost ++ (load.slots.filter (fun p => decide (18 < p.2))).map (fun p => (p.1, s.now)) } }
    if n = 3 then s.raise 7 c else s

def execTierChannelFrameReceive (channel : Nat) (crcOk : Bool) (load : TierLoad) (s : State) : Out :=
  runConv (when_ (s.tierPresent channel && s.tiersOn) (fun s => s.tierFrame channel crcOk load)) s

/-- The decimated codes of the oldest open aperture, at T + t_gd (R36). -/
def State.codesAvailable (s : State) (raw : RawCodes) : State :=
  match s.sweep.pend.find? (fun a => a.opened && a.codes.isNone && decide (a.t + tgd s.sweep.lat.corner ≤ s.now)) with
  | none => s
  | some a =>
    let pend := mapAp a.t (fun b => { b with codes := some raw }) s.sweep.pend
    { s with sweep := { s.sweep with pend := pend } }

def execTierCodesAvailable (raw : RawCodes) (s : State) : Out := runConv (fun s => s.codesAvailable raw) s

/-! ### Opening an aperture (R35, R71) -/

/-- The earliest scheduled aperture whose T has come. -/
def State.apertureDue (s : State) : Option Aperture :=
  s.sweep.pend.find? (fun a => !a.opened && decide (a.t ≤ s.now))

/-- UNSETTLED by R71: one of the first three outputs after START, or a window that opens less than t_settle after it. -/
def State.isYoung (s : State) (t : Nat) : Bool :=
  let g := tgd s.sweep.lat.corner
  decide (s.sweep.outputs < 3) || decide (t < s.sweep.startT + 3 * g)

/-- The aperture opens. -/
def State.openAperture (s : State) (a : Aperture) : State :=
  let w := s.sweep
  ({ s with sweep := { w with
    lastT := some a.t, outputs := w.outputs + 1
    pend := mapAp a.t (fun b => { b with
      opened := true, mode := s.mode.mode.code, young := s.isYoung a.t, governed := s.bal.governing }) w.pend } }).schedule

/-! ### Codes (R50–R54, 04 R114, R115) -/

def codeLo : Int := -30000
def codeHi : Int := 550000

/-- A cell code clamped as R50. -/
def clampCell (c : Int) : Int := clampI codeLo codeHi c
def cellClamped (c : Int) : Bool := decide (c < codeLo) || decide (codeHi < c)

/-- The full scale of a current channel: ±100 mV (R51). -/
def currentHi : Int := 10000000

/-- A current code: the converter saturates at full scale, R52 corrects, and the result saturates. The product with GAIN is
rounded to nearest (DESIGN CHOICE, notes/assumptions/24.md). -/
def fixCurrent (inv : Bool) (gain : Nat) (raw : Int) : Int :=
  let raw := clampI (-currentHi) currentHi raw
  let c := if inv then -raw else raw
  let g : Int := gain % 2 ^ 24
  let off : Int := sgn 8 (gain / 2 ^ 24)
  clampI (-currentHi) currentHi (roundDiv (c * g) 8388608 + off * 10)

/-- The input lies beyond ±100 mV, or the corrected code beyond full scale (R51, R52). -/
def currentClamped (inv : Bool) (gain : Nat) (raw : Int) : Bool :=
  let c := if inv then -raw else raw
  let g : Int := gain % 2 ^ 24
  let off : Int := sgn 8 (gain / 2 ^ 24)
  decide (currentHi < raw.natAbs)
    || decide (currentHi < (roundDiv (clampI (-currentHi) currentHi c * g) 8388608 + off * 10).natAbs)

/-- The reported code of channel 1 or 2; 0x8000_0000 where it is disabled. -/
def currentCode (p : SweepPar) (ch : Nat) (raw : Int) : Int :=
  if ch = 1 then (if p.en1 then fixCurrent p.inv1 p.gain1 raw else -2147483648)
  else (if p.en2 then fixCurrent p.inv2 p.gain2 raw else -2147483648)

/-- Channel 1 or 2 is enabled and saturates. -/
def chanClamped (p : SweepPar) (ch : Nat) (raw : Int) : Bool :=
  if ch = 1 then p.en1 && currentClamped p.inv1 p.gain1 raw else p.en2 && currentClamped p.inv2 p.gain2 raw

/-- The filtered state of switch k over the window about t of corner c, `mix` where it changed in the window. A switch found
stuck closed before the window opened counts as closed (05 R134); with `blank` only a BLEED survey leaves switches closed. -/
def State.filteredOf (s : State) (c t k mix : Nat) (blank : Bool) : Nat :=
  if k = 0 ∨ 48 < k then 0
  else
    let stuck := match (s.cell k).stuck with
      | some x => decide (x + tgd c ≤ t)
      | none => false
    if stuck then 65536 else filtered (s.cell k).log (t - tgd c) (t + tgd c) mix blank

/-- The filtered state of switch k for an aperture (R47). -/
def State.bbarOf (s : State) (raw : RawCodes) (t k : Nat) : Nat :=
  s.filteredOf s.sweep.lat.corner t k (raw.bbar.getD (k - 1) 0) (s.sweep.lat.blank = 0)

/-- The uncorrected code of cell k; a lost one keeps the one before it (01 R16; DEDUCED, notes/assumptions/71.md), and a cell that
is not selected gives its latest proof sample. -/
def State.uncOf (s : State) (raw : RawCodes) (lost : List Nat) (k : Nat) : Int :=
  if lost.contains k then (s.cell k).raw
  else if inMask s.sweep.lat.mask k then clampCell (raw.cells.getD (k - 1) 0) else (s.cell k).proof * 150

/-- The code of cell n after the compensation of R114. -/
def State.corrected (s : State) (bbar : Nat → Nat) (unc : Nat → Int) (n : Nat) : Int :=
  unc n - s.bleedErr (fun k => s.bleedNa (bbar k) (unc k) k) n

/-! ### Proof comparison and rate of change (05 R125–R127, R141) -/

/-- Ten times the slot instant of cell n in the round that began at t. -/
def slot10 (t n : Nat) : Nat := 10 * t + (2 * ((n - 1) % 16) + 1) * 2048

/-- The switch of cell k is closed at tree time t: commanded, or found stuck closed by then. -/
def State.closedAt (s : State) (t k : Nat) : Bool :=
  ((logAt (s.cell k).log t).map SwChange.closed).getD false || ((s.cell k).stuck.map (fun x => decide (x ≤ t))).getD false

/-- Cell n's sample of a round, less the bleed error of the switch states at the instant of its slot (R125, 03 R87), in 10 µV. -/
def State.proofCode (s : State) (r : ProofRound) (n : Nat) : Int :=
  let v (k : Nat) : Int := r.samples.getD (k - 1) 0 * 150
  v n - s.bleedErr (fun k => s.bleedNa (if s.closedAt (slot10 r.t n / 10) k then 65536 else 0) (v k) k) n

def gapTo (a b : Nat) : Nat := (a - b) + (b - a)

/-- The round whose slot of cell n lies nearest to T and holds its sample, the earlier on a tie. -/
def nearestRound (rs : List ProofRound) (t n : Nat) : Option ProofRound :=
  (rs.filter (fun r => !r.lost.contains n)).foldl (fun acc r => match acc with
    | none => some r
    | some b =>
      let db := gapTo (10 * t) (slot10 b.t n)
      let dr := gapTo (10 * t) (slot10 r.t n)
      if dr < db || (dr = db && decide (r.t < b.t)) then some r else some b) none

/-- The sample that the comparison of R126 takes, among the rounds that have run by then: one of a later slot is not waited for
(DESIGN CHOICE, notes/assumptions/120.md). -/
def State.proofNear (s : State) (t n : Nat) : Option Int :=
  (nearestRound s.diag.rounds t n).map (fun r => s.proofCode r n)

/-- Whether the mean of the differences exceeds the tolerance (R126). -/
def proofExceeds (tolMv : Nat) (h : List Int) : Bool :=
  let tol := if h.length = 16 then 100 * tolMv else 200 * tolMv
  decide (tol * h.length < (h.foldl (· + ·) 0).natAbs)

def State.detail (s : State) (fault item check tier : Nat) : State :=
  { s with diag := { s.diag with dFault := fault, dItem := item, dCheck := check, dTier := tier } }

/-- The comparison of one cell after a sweep. -/
def State.compareCell (s : State) (t n : Nat) (code : Int) : State :=
  match s.proofNear t n with
  | none => s
  | some p =>
    let h := ((code - p) :: (s.cell n).pHist).take 16
    let ex := proofExceeds s.diag.tolerance h
    let cnt := if ex then (s.cell n).pCount + 1 else 0
    let due := ex && decide (s.diag.persist ≤ cnt) && !(s.cell n).pDone
    let s := s.updCell n (fun c => { c with pHist := h, pExceed := ex, pCount := cnt, pDone := ex && (c.pDone || due) })
    if due then (s.raise 1 n).detail 1 n 1 (tierOf n) else s

/-- Twice the median. -/
def median2 (l : List Int) : Int :=
  let m := l.mergeSort (fun a b => decide (a ≤ b))
  let k := m.length
  if k % 2 = 1 then 2 * m.getD (k / 2) 0 else m.getD (k / 2 - 1) 0 + m.getD (k / 2) 0

def rateDelta (c : CellSt) : Int :=
  match c.rate.head?, c.rate.getLast? with
  | some a, some b => a.code - b.code
  | _, _ => 0

/-- Δt in units of 1/20,480,000 s; across a restore it comes from the RTC (R75), otherwise from the tree-time stamps, also where tree
time stood or stepped between them (DESIGN CHOICE, notes/assumptions/126.md). -/
def State.rateSpan (s : State) (c : CellSt) : Nat :=
  match c.rate.head?, c.rate.getLast? with
  | some a, some b => (match b.rtc with
    | some r => (s.clk.rtc - r) * 625
    | none => a.t - b.t)
  | _, _ => 0

/-- The check of one eligible cell against twice the median m2. -/
def State.rateCell (s : State) (m2 : Int) (n : Nat) : State :=
  let c := s.cell n
  let bad := decide ((1000 * s.diag.rocFixed) * ttS + s.diag.rocSlope * s.rateSpan c
    < 5 * (2 * rateDelta c - m2).natAbs * ttS)
  let cnt := if bad then c.rCount + 1 else 0
  let due := bad && decide (s.diag.persist ≤ cnt) && !c.rDone
  let s := s.updCell n (fun c => { c with rCount := cnt, rDone := bad && (c.rDone || due) })
  if due then (s.raise 1 n).detail 1 n 2 (tierOf n) else s

def State.rateCheck (s : State) (cells : List Nat) : State :=
  let el := cells.filter (fun n => (s.cell n).rate.length = 8)
  if !s.diag.rocEn || decide (el.length < 3) then s
  else
    let m2 := median2 (el.map (fun n => rateDelta (s.cell n)))
    el.foldl (fun s n => s.rateCell m2 n) s

/-! ### Converter loopback (05 R129, R131) -/

/-- The tier that runs the loopback on sweep number n. -/
def State.loopTier (s : State) (n : Nat) : Option Nat :=
  let r := n % (s.ident.tiers + 1)
  if r < s.ident.tiers then some (r + 1) else none

def State.tierSel (s : State) (t : Nat) : List Nat := cellNums.filter (fun n => inMask s.sweep.lat.mask n && tierOf n = t)

/-- The cell the pointer of tier t stands on: the tier's lowest selected cell where its own has left the masks (DESIGN CHOICE,
notes/assumptions/100.md). -/
def State.loopCell (s : State) (t : Nat) : Nat :=
  let l := s.tierSel t
  let p := s.diag.loopPtr.getD (t - 1) 0
  if l.contains p then p else l.headD 0

def nextIn (l : List Nat) (n : Nat) : Nat := (l.find? (fun m => decide (n < m))).getD (l.headD 0)

def State.loopback (s : State) (t : Nat) (witness code : Int) : State :=
  let n := s.loopCell t
  let lim : Nat := if s.sweep.lat.corner ≤ 3 then 1200 else 500
  let miss := decide (lim < (witness - code).natAbs)
  -- mismatches count on one cell: a pointer that had to leave its cell starts anew
  let k := (if s.diag.loopOn.getD (t - 1) 0 = n then s.diag.loopMis.getD (t - 1) 0 else 0) + 1
  let set_ (s : State) (ptr mis : Nat) : State := { s with diag := { s.diag with
    loopPtr := s.diag.loopPtr.set (t - 1) ptr, loopMis := s.diag.loopMis.set (t - 1) mis
    loopOn := s.diag.loopOn.set (t - 1) n } }
  if !miss then set_ s (nextIn (s.tierSel t) n) 0
  else if k < 3 then set_ s n k
  else ((set_ s (nextIn (s.tierSel t) n) 0).raise 4 n).detail 4 n 5 t

/-! ### The record (R65–R70) -/

def maskOf (f : Nat → Bool) : Nat := (cellNums.map (fun n => flag (f n) (n - 1))).sum

/-- Bytes 0x00–0xFB of a record (Table 2.10). -/
def Rec.body (r : Rec) : List Byte :=
  le 4 r.idword ++ le 4 r.sweep ++ le 8 r.t ++ le 2 (uns 16 r.frac) ++ le 2 r.flags ++ le 6 r.mask
    ++ le 2 r.config ++ le 2 r.auxAge ++ [0, 0] ++ le 4 (uns 32 r.is1) ++ le 4 (uns 32 r.is2)
    ++ (List.range 16).flatMap (fun k => le 2 (r.aux.getD k 0))
    ++ (List.range 48).flatMap (fun k => le 3 (uns 24 (r.cells.getD k 0)))
    ++ le 6 r.unsettled ++ le 6 r.adj ++ le 6 r.openW ++ le 6 r.disagree ++ le 6 r.immature
    ++ (List.range 3).flatMap (fun k => le 2 (uns 16 (r.temps.getD k (-32768))))

/-- Its 256 bytes, with the CRC it holds. -/
def sweepBytes (r : Rec) : List Byte := r.body ++ le 4 r.crc

/-- The CRC of a record that has just been written (R69). -/
def Rec.sealed (r : Rec) : Rec := { r with crc := crc32c r.body }

/-- The CRC matches. -/
def Rec.intact (r : Rec) : Bool := r.crc = crc32c r.body

/-- The same record with HELD set (08 R237). -/
def heldRec (r : Rec) : Rec := if bit r.flags 0 then r else Rec.sealed { r with flags := r.flags + 1 }

/-- A record is complete: the live ring of 128 takes it, and while the device is cut off so does the held area (08 R236). -/
def State.keepRec (s : State) (r : Rec) : State :=
  let s := { s with sweep := { s.sweep with live := (s.sweep.live ++ [r]).drop (s.sweep.live.length + 1 - 128)
                                            counted := sat 0xFFFFFFFF (s.sweep.counted + 1), count := r.sweep, recsUsed := true } }
  if !s.cutOff then s
  else if s.tree.heldArea.length < 64 then
    { s with tree := { s.tree with heldArea := s.tree.heldArea ++ [heldRec r] } }
  else { s with tree := { s.tree with dropped := sat 0xFFFF (s.tree.dropped + 1) } }

/-- The aperture whose record can be completed: the oldest, with its codes and its auxiliary samples. -/
def State.recordDue (s : State) : Option Aperture :=
  match s.sweep.pend with
  | a :: _ => if a.codes.isSome && (!a.aux || a.auxDone) then some a else none
  | [] => none

/-- AUX_AGE (R57). -/
def State.auxAgeOf (s : State) : Nat := if s.sweep.lat.auxDiv = 0 then 0xFFFF else s.sweep.auxAge.getD 0xFFFF

/-- The auxiliary codes and their age once the record of aperture a is complete. -/
def SweepSt.takeAux (w : SweepSt) (a : Aperture) : SweepSt :=
  if a.aux then { w with aux := a.auxCodes, auxAge := some 0 }
  else { w with auxAge := w.auxAge.map (fun n => sat 0xFFFE (n + 1)) }

/-- TIER_TEMP of tier t + 1: its last slot-18 reading (19 R466). Before the first one the spec states no value, and the command
brings one (DESIGN CHOICE, notes/assumptions/121.md). -/
def State.tierTempOf (s : State) (temps : List Int) (t : Nat) : Int := (s.sweep.tierTemp.getD t none).getD (temps.getD t 0)

/-- The record of aperture a is completed, and with it the checks that run after each sweep; the safety partition
evaluates first (01 R32). -/
def State.completeRecord (s : State) (a : Aperture) (raw : RawCodes) (temps : List Int) (frac : Int)
    (witness : Option Int) : State :=
  let p := s.sweep.lat
  let sel (n : Nat) := inMask p.mask n
  let g := tgd p.corner
  let bb := s.bbarOf raw a.t
  let unc := s.uncOf raw a.lost
  let lost (n : Nat) := a.lost.contains n
  let adj (n : Nat) := bb (n - 1) != 0 || bb n != 0 || bb (n + 1) != 0
  let code (n : Nat) : Int := if lost n then (s.cell n).code else if adj n then s.corrected bb unc n else unc n
  let uns_ (n : Nat) := a.young || lost n
  let opn := s.openFlag
  let clamp (n : Nat) := cellClamped (raw.cells.getD (n - 1) 0) && !lost n
  let cells := cellNums.filter sel
  -- the auxiliary codes of this sweep, or of the last one that sampled them
  let s := { s with sweep := s.sweep.takeAux a }
  -- limits
  let before := s.reports
  let s := if !s.limitsActive then s
    else
      let s := cells.foldl (fun s n =>
        let c := if uns_ n then (s.proofNear a.t n).getD (code n) else code n
        s.evalCell n c (opn n)) s
      let s := if a.aux then (List.range 16).foldl (fun s k => s.evalAux k (a.auxCodes.getD k 0)) s else s
      s.limitReport before a.t
  -- what each cell keeps
  let s := s.mapCells (fun n c => if !sel n then c else
    let c := { c with code := code n, raw := unc n, vLast := if uns_ n then c.vLast else some (code n) }
    if uns_ n then c else { c with rate := ({ code := code n, t := a.t, rtc := none } :: c.rate).take 8 })
  let eligible := cells.filter (fun n => !uns_ n && !opn n && !clamp n)
  let s := eligible.foldl (fun s n => s.compareCell a.t n (code n)) s
  let s := s.rateCheck eligible
  let s := match s.loopTier a.num, witness with
    | some t, some w => let n := s.loopCell t
                        if n = 0 || uns_ n then s else s.loopback t w (unc n)
    | _, _ => s
  let is1 := currentCode p 1 raw.is1
  let is2 := currentCode p 2 raw.is2
  let r : Rec :=
    { idword := put s.tree.pos 0 18 + put a.mode 18 4 + put s.ident.tiers 22 2 + put 1 24 8
      sweep := a.num, t := a.t, frac := frac
      flags := flag (s.kept.histOutcome = 0) 1 + flag (s.kept.histOutcome != 0) 2 + put p.source 3 1 + flag p.en1 4
        + flag p.en2 5 + flag (cells.any lost) 6
        + flag (cells.any clamp || chanClamped p 1 raw.is1 || chanClamped p 2 raw.is2) 7
        + flag (s.excitedIn (a.t - g) (a.t + g)) 8
      mask := p.mask, config := put p.corner 0 3 + put p.blank 3 1 + flag a.governed 4, auxAge := s.auxAgeOf
      is1 := is1, is2 := is2, aux := if p.auxDiv = 0 then List.replicate 16 0 else s.sweep.aux
      cells := cellNums.map (fun n => if sel n then code n else -8388608)
      unsettled := maskOf (fun n => sel n && uns_ n), adj := maskOf (fun n => sel n && adj n)
      openW := maskOf (fun n => sel n && opn n)
      disagree := maskOf (fun n => eligible.contains n && (s.cell n).pExceed && (s.proofNear a.t n).isSome)
      immature := maskOf (fun (n : Nat) => sel n && decide ((State.cell s n).rate.length < 8))
      temps := (List.range 3).map (fun t => if s.tierPresent (t + 1) then s.tierTempOf temps t else -32768)
      crc := 0 }
  let s := { s with sweep := { s.sweep with pend := s.sweep.pend.drop 1 } }
  s.keepRec r.sealed

def execSweepRecordComplete (temps : List Int) (frac : Int) (witness : Option Int) (s : State) : Out :=
  runConvL (fun s => match s.recordDue with
    | some a => (match a.codes with
      | some raw => s.completeRecord a raw temps frac witness
      | none => s)
    | none => s) s

/-! ### Windows and test steps (R48; 05 R142, R143) -/

/-- Where a window of the schedule begins: in BLANK with its blanking interval. -/
def State.winBegin (s : State) (a : Aperture) : Nat :=
  a.t - tgd s.sweep.lat.corner - (if s.sweep.lat.blank = 0 then settleTt s.sweep.lat.settle else 0)

/-- When the window that TREE in BLANK predicts begins: one period after the last aperture. -/
def State.nextWindow (s : State) : Option Nat :=
  let w := s.sweep
  let g := tgd w.lat.corner
  if w.fn != .running || w.lat.source != 0 then none
  else match w.lastT with
    | some t => if t + s.period + g ≤ s.now then none else some (t + s.period - g - settleTt w.lat.settle)
    | none => none

/-- No window lies between now and e: none of the schedule, the next k × P of LOCAL among them, and not the predicted one. -/
def State.clearTo (s : State) (e : Nat) : Bool :=
  s.sweep.pend.all (fun a => decide (a.t + tgd s.sweep.lat.corner ≤ s.now) || decide (e < s.winBegin a))
    && (match s.nextWindow with
      | some w => decide (e < w)
      | none => true)

/-- Length of an open-wire test with its recovery (05 R135). -/
def wireTt : Nat := 40960

/-- End of a step, with its recovery. -/
def TestStep.ends : TestStep → Nat
  | .switch _ st => st + onTestTt + 20480
  | .wire _ st => st + wireTt
  | .harness _ st => st + harnessTt
  | .rest _ e => e

/-- The tests do not run at all: TREE in COMPENSATE predicts no window (05 R142). -/
def State.noTests (s : State) : Bool := s.sweep.fn = .running && s.sweep.lat.source = 0 && s.sweep.lat.blank = 1

/-- A step that would reach into a window, or that must not run, is abandoned (DEDUCED from R48, notes/assumptions/72.md). -/
def State.clearSteps (s : State) : State :=
  if s.diag.steps.any (fun t => t.acts && (s.noTests || !s.clearTo t.ends)) then s.abandonStep else s

/-! ### START and STOP (R59, R61, R62) -/

/-- What a cell loses when it leaves the masks: its history (R72), its limit counts and reports (10 R294). -/
def leaveMask (c : CellSt) : CellSt :=
  { c with pHist := [], rate := [], pCount := 0, pExceed := false, pDone := false, rCount := 0, rDone := false, ov := Deb.zero, uv := Deb.zero, un := Deb.zero }

/-- The parameters are latched, the filters restart, LATE clears, STATE is RUNNING. -/
def State.runSweep (s : State) : State :=
  let s := s.mapCells (fun n c => if inMask s.sweep.par.mask n then c else leaveMask c)
  ({ s with sweep := { s.sweep with fn := .running, lat := s.sweep.par, late := 0, startT := s.now, outputs := 0, pend := []
                                    cursor := s.now, blankTo := none, tbias := s.sweep.par.auxDiv = 1
                                    lastSnap := s.wall } }).schedule

def startSweep (source : Nat) (s : State) : Nat × State :=
  if s.sweep.fn != .stopped then (stOk, s)
  else if !(s.inMode [.quiet, .run, .survey, .commit, .degraded, .safe]) then (stDenied, s)
  else
    let s := { s with sweep := { s.sweep with par := { s.sweep.par with source := source % 2 } } }
    let s := s.runSweep.clearSteps
    (stOk, if s.mode.mode = .quiet then s.setMode .run else s)

def execSweepStart (source : Nat) (s : State) : Out := runReg (startSweep source) s

def stopSweepReg (s : State) : Nat × State :=
  if s.sweep.fn = .running then (stOk, s.stopSweep) else (stOk, s)

def execSweepStop (s : State) : Out := runReg stopSweepReg s

/-- The last record is complete: STOPPED, and the snapshot is written (R62, R74). -/
def State.sweepStopped (s : State) : State :=
  if s.sweep.fn = .stopping && s.sweep.pend.isEmpty then
    ({ s with sweep := { s.sweep with fn := .stopped, tbias := false, blankTo := none } }).switches.writeSnapshot
  else s

def execSweepStopped (s : State) : Out := runCore State.sweepStopped s

/-- While SWEEP runs the snapshot is rewritten, at most every 10 s (R74). -/
def execSnapshotRewrite (s : State) : Out :=
  runCore (when_ (s.sweep.fn = .running && decide (10 * ttS ≤ s.since s.sweep.lastSnap)) State.writeSnapshot) s

end Sys2Proof.Machine
end

