-- ==== Sys2Proof/Machine/Balance.lean ====
section
/-! DEFINITION. Passive balancing: timers, the thermal governor, START and STOP (04). -/

namespace Sys2Proof.Machine

/-! ### The governor (R110–R113) -/

/-- V_n in 10 µV: the last settled primary code, or the latest proof sample while SWEEP does not run (R110), and also where there
is no settled code yet (DESIGN CHOICE, notes/assumptions/98.md). -/
def State.govV (s : State) (n : Nat) : Nat :=
  let c := s.cell n
  match (if s.sweep.fn = .running then c.vLast else none) with
  | some v => v.natAbs
  | none => c.proof * 150

/-- V_n / R_path[n] exceeds 300 mA. -/
def State.overCurrent (s : State) (n : Nat) : Bool := decide (30 * (s.cell n).rPath.v < s.govV n)

/-- P[n] in mW as a fraction: V² R_on / (10,000 R_path²), from 10 µV and mΩ. -/
def State.govP (s : State) (n : Nat) : Nat × Nat :=
  let c := s.cell n
  (s.govV n * s.govV n * c.rOn.v, 10000 * c.rPath.v * c.rPath.v)

/-- Sum of two fractions. -/
def fracAdd (a b : Nat × Nat) : Nat × Nat := (a.1 * b.2 + b.1 * a.2, a.2 * b.2)

/-- A fraction is at most a number. -/
def fracLe (a : Nat × Nat) (m : Nat) : Bool := decide (a.1 ≤ m * a.2)

/-- The cells taken in order until the next one would exceed the limit (R111). -/
def State.govTake (s : State) (limit : Nat) : Nat × Nat → List Nat → List Nat
  | _, [] => []
  | tot, n :: l =>
    let t := fracAdd tot (s.govP n)
    if fracLe t limit then n :: s.govTake limit t l else []

/-- The requested cells of R111, in increasing n. -/
def State.govReq (s : State) : List Nat := cellNums.filter s.balRequest

/-- Its candidates. -/
def State.govCand (s : State) : List Nat :=
  s.govReq.filter (fun n => !s.overCurrent n && fracLe (s.govP n) s.bal.lLimit)

/-- The cells allowed in a slot and the pointer after the choice. HOT counts as it stands at the choice, the first one of a START
too (DESIGN CHOICE, notes/assumptions/128.md). -/
def State.govAllow (s : State) : List Nat × Nat :=
  let cand := s.govCand
  let all := cand.foldl (fun t n => fracAdd t (s.govP n)) (0, 1)
  if s.bal.hot || cand.isEmpty then ([], s.bal.pointer)
  else if fracLe all s.bal.lLimit then (cand, s.bal.pointer)
  else
    let order := cand.filter (fun n => decide (s.bal.pointer ≤ n)) ++ cand.filter (fun n => decide (n < s.bal.pointer))
    let taken := s.govTake s.bal.lLimit (0, 1) order
    (taken, (order.drop (taken.length % order.length)).headD 1)

/-- A choice: which switches may close, GOVERNING, and the cell-slots of DUTY. -/
def State.govChoose (s : State) : State :=
  let req := s.govReq
  let (ok, ptr) := s.govAllow
  { s with bal := { s.bal with
      allowed := maskOf (fun n => ok.contains n), pointer := ptr, governing := decide (ok.length < req.length),
      duty := ((s.now / 128000, ok.length, req.length) :: s.bal.duty.filter (fun d => d.1 != s.now / 128000)).take 16
      slotAt := some (s.now / 128000 * 128000), resumeAt := none } }.switches

/-- BALANCE.STATUS.DUTY, over the slot of now and the 15 before it. -/
def State.dutyNow (s : State) : Nat :=
  let d := s.bal.duty.filter (fun d => decide (s.now / 128000 < d.1 + 16))
  let a := (d.map (fun d => d.2.1)).sum
  let r := (d.map (fun d => d.2.2)).sum
  if r = 0 then 0xFF else 255 * a / r

/-! ### The function -/

/-- Every enabled cell is done or excluded: STOPPED with LAST = COMPLETE (R109). -/
def State.balanceDone (s : State) : State :=
  if s.bal.fn = .running
      && cellNums.all (fun n => !inMask s.bal.lEnable n || (s.cell n).remain = 0 || (s.cell n).excluded) then
    { s with bal := { s.bal with fn := .stopped, last := 2, allowed := 0, suspHalt := false } }.switches
  else s

/-- One second of closed time in units of 4 tt. -/
def edgesPerS : Nat := 5120000

/-- REASON of a refused START, 0 none (R120). Of several causes the first in this order is recorded (DESIGN CHOICE,
notes/assumptions/73.md). -/
def State.balanceRefusal (s : State) : Nat :=
  let en := cellNums.filter (inMask s.bal.enable)
  if !(s.inMode [.quiet, .run, .survey, .commit, .degraded]) then 1
  else if s.mode.station then 5
  else if en.any (fun n => !s.selected n) then 2
  else if en.any (fun n => !(s.cell n).rPath.ok || !(s.cell n).rOn.ok) then 4
  else if en.any s.overCurrent then 3
  else if en.any (fun n => !fracLe (s.govP n) s.bal.limit) then 6
  else 0

def startBalance (cont : Bool) (s : State) : Nat × State :=
  if s.bal.fn != .stopped then (stOk, s)
  else
    let r := s.balanceRefusal
    if r != 0 then (stDenied, { s with bal := { s.bal with reason := r } })
    else
      let s := s.mapCells (fun n c =>
        let c := { c with excluded := false, lSeconds := c.seconds }
        if !inMask s.bal.enable n then { c with remain := 0 }
        else if cont && c.remain != 0 then c else { c with remain := edgesPerS * c.seconds })
      let s := { s with bal := { s.bal with
        fn := .running, cont := cont, lEnable := s.bal.enable, lLimit := s.bal.limit, last := 1, pointer := 1
        allowed := 0, duty := [], governing := false, resumeAt := none, suspHalt := false } }
      let s : State := s.govChoose.balanceDone
      (stOk, when_ (s.mode.mode = .quiet) (fun s => s.setMode .run) s)

def execBalanceStart (cont : Bool) (s : State) : Out := runReg (startBalance cont) s

def stopBalance (s : State) : Nat × State :=
  if s.bal.fn = .running then
    (stOk, { s with bal := { s.bal with fn := .stopping, allowed := 0 } }.switches)
  else (stOk, s)

def execBalanceStop (s : State) : Out := runReg stopBalance s

/-- The tiers confirm that the switches are open. -/
def execBalanceStopped (s : State) : Out :=
  runCore (when_ (s.bal.fn = .stopping) (fun s => { s with bal := { s.bal with fn := .stopped, last := 3, suspHalt := false } })) s

/-- Tree time stands in another slot than at the last choice (R111). -/
def State.slotDue (s : State) : Bool := s.bal.slotAt != some (s.slotNow * 128000)

def execGovernorSlot (s : State) : Out :=
  run (when_ (s.slotDue && s.reachable) (fun s =>
    if s.bal.fn = .running then s.govChoose.balanceDone
    else { s with bal := { s.bal with governing := false, slotAt := some (s.now / 128000 * 128000), resumeAt := none } })) s

/-- The accumulated closed time of a cell has reached its remaining time: its request ends (R108). -/
def execBalanceTimerExpire (cell : Nat) (s : State) : Out :=
  runCore (when_ (s.bal.fn = .running && inMask s.bal.lEnable cell && (s.cell cell).remain = 0)
    (fun s => s.switches.balanceDone)) s

end Sys2Proof.Machine
end

