-- ==== Sys2Proof/Machine/Flash.lean ====
section
/-! DEFINITION. Flash, commits, the ledger's programming, the configuration shadow and the debug port's own operations (16). -/

namespace Sys2Proof.Machine

/-! ### Read errors (R408) -/

/-- Read errors of a flash area, 1 the active bank, 2 the inactive bank, 3 the data area: counted, and an uncorrectable one raises
FLT_FLASH_ECC. -/
def State.flashErr (s : State) (area : Nat) (err : ReadErr) : State :=
  match err with
  | .none => s
  | .corrected n => { s with flash := { s.flash with eccCorr := sat 0xFFFF (s.flash.eccCorr + n) } }
  | .uncorrectable => { s with flash := { s.flash with eccUncorr := sat 0xFFFF (s.flash.eccUncorr + 1) } }.raise 13 (area - 1)

/-- The area of a region, 0 and 1 the banks and 2 the data area, as a read error names it. -/
def State.areaOf (s : State) (r : Nat) : Nat := if r = 2 then 3 else if r = s.flash.active then 1 else 2

/-- The worn words of a region from offset lo on, n bytes. -/
def State.wornIn (s : State) (r lo n : Nat) : List FlashWear :=
  s.flash.wear.filter (fun w => w.area = r && decide (lo ≤ 4 * w.word) && decide (4 * w.word < lo + n))

/-- A run of bytes of a region is read; whether every word could be corrected. -/
def State.readRun (s : State) (r lo n : Nat) : Bool × State :=
  let ws := s.wornIn r lo n
  (!ws.any FlashWear.bad, ws.foldl (fun (s : State) w => s.flashErr (s.areaOf r) (if w.bad then .uncorrectable else .corrected 1)) s)

/-- A word that was read: as stored, or a free value where the read could not be corrected. -/
def State.readWord (s : State) (r o v : Nat) : Nat × State :=
  let (ok, s) := s.readRun r o 4
  if ok then (v, s) else (s.fresh, s.took)

/-- The words at the offsets given, which hold these bytes. -/
def State.readWords (s : State) (r : Nat) (offs : List Nat) (bs : List Byte) : List Byte × State :=
  if s.flash.wear.isEmpty then (bs, s)
  else (offs.mapIdx (fun i o => (i, o))).foldl (fun (a : List Byte × State) x =>
    let (v, s) := a.2.readWord r x.2 (at_ bs (4 * x.1) 4)
    (a.1 ++ le 4 v, s)) ([], s)

/-! ### Erases (R408, 11 R318) -/

/-- The controller starts the erase at the front: the device watchdog is suspended. -/
def State.eraseStarts (s : State) : State := { s with wdog := { s.wdog with erasing := some s.wall } }

/-- An erase is due: it begins at once, or after those before it. -/
def State.eraseBegins (s : State) (k : Erase) : State :=
  let idle := s.flash.erases.isEmpty
  let s := { s with flash := { s.flash with erases := s.flash.erases ++ [k] } }
  if idle then s.eraseStarts else s

/-- The suspension ends and the watchdog re-arms with a fresh window. -/
def State.eraseOver (s : State) : State :=
  if s.wdog.erasing.isSome then { s with wdog := { s.wdog with erasing := none } }.rearmWdog else s

/-- The erase at the front is over, the rest of the queue goes on. -/
def State.eraseNext (s : State) (rest : List Erase) : State :=
  let s := { s with flash := { s.flash with erases := rest } }.eraseOver
  if rest.isEmpty then s else s.eraseStarts

/-- The erases of the commit that have ended with its step go. -/
def State.commitErased (s : State) : State :=
  let rest := s.flash.erases.filter (fun k => k = .data)
  if s.flash.erases.head? = rest.head? then { s with flash := { s.flash with erases := rest } } else s.eraseNext rest

/-- The commit ends before its erases: the one in progress runs on, the others do not start. -/
def State.commitErasesDrop (s : State) : State :=
  { s with flash := { s.flash with erases := match s.flash.erases with
    | [] => []
    | _ :: q => .data :: q.filter (fun k => k = .data) } }

/-- The controller neither erases nor stands without power: a page can be programmed. -/
def State.flashFree (s : State) : Bool := s.flash.erases.isEmpty && s.power.vpwrGood && !(s.inMode [.ship, .keep])

/-- A ring of `n` sectors of `per` slots keeps its next sector erased: when slot `at_` opens a sector and the next one holds old
slots, that one is erased in advance (R408). -/
def opensSector (per n at_ slots : Nat) : Bool :=
  let i := (at_ + slots - 1) / per
  decide (n ≤ i + 1) && (at_ % per = 0 || decide (at_ / per < i))

/-- The oldest queued entry is programmed. -/
def State.programEntry (s : State) : State :=
  match s.flash.queue with
  | [] => s
  | e :: q =>
    let s' := { s with flash := { s.flash with queue := q, log := trimLog 2 (s.flash.log ++ [e]), logAt := s.flash.logAt + e.slots } }
    if opensSector 128 34 s.flash.logAt e.slots then s'.eraseBegins .data else s'

/-- The oldest parish entry is programmed; the SAFETY_WRITE that waits for it completes with its SEQ (10 R289). -/
def State.parishProgrammed (s : State) : State :=
  match s.safety.parishQ with
  | [] => s
  | w :: q =>
    let l := s.safety.parish ++ [w.entry]
    let s := { s with safety := { s.safety with parishQ := q, parish := l.drop (l.length - 256) } }
    let s := if opensSector 64 5 (w.entry.seq - 1) 1 then s.eraseBegins .data else s
    match w.tag with
    | some t => s.respond (some t) stOk w.entry.seq
    | none => s

/-- Every queued entry is programmed. -/
def State.programAll (s : State) : State := iter State.programEntry s.flash.queue.length s

/-- Every waiting page of the data area is programmed (R408). -/
def State.programWaiting (s : State) : State := iter State.parishProgrammed s.safety.parishQ.length s.programAll

/-- The slot of an entry: SEQ, CODE, MODE, RTC, TIME, ITEM, DATA and its CRC-16. -/
def slotBytes (e : LedgerEntry) (code item data : Nat) : List Byte :=
  let b := le 4 e.seq ++ le 1 code ++ le 1 e.mode ++ le 4 e.rtc ++ le 8 e.time ++ le 4 item ++ le 8 data
  b ++ le 2 (crc16 b)

/-- An entry as stored, with its CONTINUED slot, or the slot that a reset left torn (R419). -/
def entryBytes (e : LedgerEntry) : List Byte :=
  if !e.torn.isEmpty then e.torn
  else slotBytes e e.code e.item e.data ++ (match e.cont with
    | some c => slotBytes e 0xFF c.1 c.2
    | none => [])

/-- FLASH.LOG_HEAD: SEQ of the newest ledger entry. -/
def State.logHead (s : State) : Nat := (s.flash.nextSeq + 2 ^ 32 - 1) % 2 ^ 32

/-- A program waits for the erase in progress (R408). -/
def execLedgerEntryProgrammed (s : State) : Out := runCore (when_ s.flashFree State.programEntry) s

/-! ### Banks, images, keys, records (R406, R409, R410) -/

def State.inactive (s : State) : Nat := 1 - s.flash.active
def State.bank (s : State) (b : Nat) : Mem := if b = 0 then s.flash.bank0 else s.flash.bank1
def State.setBank (s : State) (b : Nat) (m : Mem) : State :=
  if b = 0 then { s with flash := { s.flash with bank0 := m } } else { s with flash := { s.flash with bank1 := m } }

/-- Erased bytes are not listed. -/
def eraseRange (m : Mem) (a n : Nat) : Mem := m.filter (fun p => decide (p.1 < a) || decide (a + n ≤ p.1))

def fword (m : Mem) (a n : Nat) : Nat := ofLe (mread flashByte m a n)

/-- LENGTH and VERSION of the image in a bank (Table 16.3). -/
def imageLength (m : Mem) : Nat := fword m 8 4
def imageVersion (m : Mem) : Nat := fword m 0xC 4

/-- MAGIC, FORMAT, LENGTH and MIN_SILICON of an image. -/
def headerOk (s : State) (m : Mem) : Bool :=
  fword m 0 4 = 0x3834474B && fword m 4 2 = 1 && decide (512 ≤ imageLength m) && decide (imageLength m ≤ 1048576)
    && imageLength m % 256 = 0 && decide (fword m 0x14 1 ≤ s.ident.silicon)

def slotAddr (k : Nat) : Nat := 0x2000 + 0x100 * k

/-- The key slot holds a key whose CRC matches. -/
def keyOk (s : State) (k : Nat) : Bool :=
  decide (k < 4) && fword s.flash.dataArea (slotAddr k + 64) 4 = crc32c (mread flashByte s.flash.dataArea (slotAddr k) 64)

/-- The signature over the image with bytes 0x40–0x7F taken as 0; key bytes X then Y are little-endian (R2). -/
def signatureOk (s : State) (m : Mem) : Bool :=
  let k := fword m 6 1
  let img := mread flashByte m 0 (imageLength m)
  let e := sha256 (img.take 64 ++ List.replicate 64 0 ++ img.drop 128)
  keyOk s k && ecdsaOk e (ofBe (slice img 64 32)) (ofBe (slice img 96 32)) (fword s.flash.dataArea (slotAddr k) 32)
    (fword s.flash.dataArea (slotAddr k + 32) 32)

/-- The pair of records is complete (R410). -/
def State.completePair (s : State) : Bool := s.flash.recA.isSome && s.flash.recA = s.flash.recB

/-- FLASH.BANK. -/
def State.bankWord (s : State) : Nat :=
  put s.flash.active 0 1 + flag (s.completePair && ((s.flash.recA.map CommitRec.active).getD 0) != s.flash.active) 1

/-- FLASH.COMMIT_STATE. -/
def State.commitWord (s : State) : Nat :=
  let c := s.flash.commit
  put c.state 0 4 + put c.reason 4 4 + put c.sectors 8 5 + put c.pages 16 13

/-! ### The commit sequence (R411–R415) -/

def State.updCommit (s : State) (f : CommitSt → CommitSt) : State :=
  { s with flash := { s.flash with commit := f s.flash.commit } }

/-- Sectors of 64 KiB that cover a length. -/
def sectorsFor (n : Nat) : Nat := ceilDiv n 65536

/-- The status of a FLASH_COMMIT before it is accepted (R371, R411, R102). -/
def State.commitVerdict (s : State) (length : Nat) : Nat :=
  if s.inMode [.commit, .survey] then stBusy
  else if !(s.inMode [.quiet, .run, .safe, .lockout]) then stDenied
  else if s.flash.commit.isOpen || s.survey.fn != .stopped then stBusy
  else if length < 512 ∨ 1048576 < length ∨ length % 256 ≠ 0 then stBadDescriptor
  else stOpen

/-- FLASH_COMMIT is accepted: step 1, header sector first; QUIET and RUN go to COMMIT. -/
def State.openCommit (s : State) (length crc : Nat) (tag : Option Nat) : State :=
  let s := s.updCommit (fun _ => { CommitSt.reset with
    isOpen := true, state := 1, length := length, crc := crc, tag := tag, start := s.now, startRtc := s.rtcS
    lastPiece := s.wall, lastPending := s.wall, tResp := s.tree.tResp })
  let s := (s.setBank s.inactive (eraseRange (s.bank s.inactive) 0 65536)).eraseBegins .sector
  if s.inMode [.quiet, .run] then s.setMode .commit else s

/-- Credits of the frames that waited for an erase are owed now (R413). -/
def State.oweWaiting (s : State) : State :=
  (s.flash.commit.owing.foldl (fun s o => s.updPort o.1 (fun q => { q with owed := q.owed.upd o.2.1 (fun k => k + o.2.2) })) s).updCommit
    (fun c => { c with owing := [] })

/-- The complete pair that names the active bank alone (R415). -/
def State.oldPair (s : State) : CommitRec :=
  let m := s.bank s.flash.active
  let top := max ((s.flash.recA.map CommitRec.seq).getD 0) ((s.flash.recB.map CommitRec.seq).getD 0)
  let n := min (imageLength m) 1048576
  { seq := top + 1, active := s.flash.active, previous := 0xFF, length := n
    crc := crc32c (mread flashByte m 0 n), version := imageVersion m, rtc := s.rtcS }

/-- Both records are erased and written anew for the active bank. -/
def State.rewritePair (s : State) : State :=
  ({ s with flash := { s.flash with recA := some s.oldPair, recB := some s.oldPair } }.eraseBegins .data).eraseBegins .data

/-- A commit that ends in RECORDING without its pair leaves no record that names the inactive bank (R414; the pair is written as
R415 writes it, DESIGN CHOICE, notes/assumptions/110.md). -/
def State.dropRecords (s : State) (c : CommitSt) (state : Nat) : State :=
  if state != 5 && c.state = 4 && c.recA then s.rewritePair else s

/-- The commit ends: its state and reason, the ledger entry, the transaction's completion, then the mode. Pieces that have not
come whole find no commit open. -/
def State.endCommit (s : State) (state reason status : Nat) : State :=
  let c := s.flash.commit
  let ver := imageVersion (s.bank s.inactive)
  let s := s.oweWaiting.commitErasesDrop.updCommit (fun c => { c with isOpen := false, state := state, reason := reason, rx := [] })
  let s := s.dropRecords c state
  let s := c.rx.foldl (fun s r => s.respond r.tag stDenied 0) s
  let s := s.ledger 0x10 (state + 16 * reason) (ver + put c.crc 32 32)
  (s.respond c.tag status (if state = 5 then s.commitWord else 0)).leaveCommit

/-- One page of a piece: programmed where it is new, compared where it is there (R413). -/
def State.loadPage (acc : Bool × State) (p : Nat × List Byte) : Bool × State :=
  let (ok, s) := acc
  let b := s.inactive
  if s.flash.commit.done.contains p.1 then
    (ok && mread flashByte (s.bank b) (256 * p.1) 256 = p.2, s)
  else
    (ok, (s.setBank b (mwrite flashByte (s.bank b) (256 * p.1) p.2)).updCommit (fun c => { c with
      done := p.1 :: c.done, pages := c.pages + 1 }))

/-- A piece cut into pages. -/
def pagesOf (offset : Nat) (bs : List Byte) : List (Nat × List Byte) :=
  (List.range (bs.length / 256)).map (fun i => (offset / 256 + i, slice bs (256 * i) 256))

/-- Every page below the length is programmed: the verification starts. -/
def State.loadedAll (s : State) : State :=
  if s.flash.commit.state = 2 && decide (s.flash.commit.length / 256 ≤ s.flash.commit.pages) then
    s.updCommit (fun c => { c with state := 3 })
  else s

/-- A piece ends, and with CHECK_FAIL the commit too. -/
def State.pieceEnds (s : State) (r : PieceRx) (ok : Bool) : State :=
  let s := s.updCommit (fun c => { c with rx := c.rx.filter (fun q => q.tag != r.tag) })
  if ok then (s.respond r.tag stOk 0).loadedAll else (s.respond r.tag stCheckFail 0).endCommit 6 1 stCheckFail

/-- The pages of a piece that have come are programmed, each as it arrives, but none during an erase (R408); behind the last, the piece
CRC decides. -/
def State.loadPiece (s : State) (r : PieceRx) (last : Bool) : State :=
  if !s.flash.erases.isEmpty then s.updCommit (fun c => { c with lastPiece := s.wall })
  else
  let (ok, s) := (pagesOf (r.offset + r.paged) (r.got.drop r.paged)).foldl State.loadPage (true, s)
  let s := s.updCommit (fun c => { c with lastPiece := s.wall
                                          rx := c.rx.map (fun q => if q.tag = r.tag then { r with paged := r.got.length } else q) })
  if !ok then s.pieceEnds r false
  else if last || decide (r.length ≤ r.got.length) then s.pieceEnds r (crc32c r.got = r.crc)
  else s

/-- Whether a piece is refused (R413). -/
def State.pieceRefused (s : State) (offset length : Nat) : Bool :=
  let c := s.flash.commit
  !c.isOpen || !(c.state = 1 || c.state = 2) || decide (c.length < offset + length)

/-- A FLASH_LOAD piece begins to arrive: taken in LOADING, kept waiting in ERASING. -/
def State.takePiece (s : State) (r : PieceRx) : State :=
  let s := s.updCommit (fun c => { c with rx := c.rx ++ [r] })
  if s.flash.commit.state = 2 && !r.got.isEmpty then s.loadPiece r false else s

/-- What waited for an erase is taken in order. -/
def State.takeWaiting (s : State) : State :=
  s.flash.commit.rx.foldl (fun s r => if s.flash.commit.isOpen && !r.got.isEmpty then s.loadPiece r false else s) s.oweWaiting

/-- One sector of the code-bank erase has ended: waiting pages are programmed before the next sector starts (R408). -/
def State.sectorErased (s : State) : State :=
  let c := s.flash.commit
  let n := sectorsFor c.length
  let s := (s.setBank s.inactive (eraseRange (s.bank s.inactive) (65536 * c.sectors) 65536)).updCommit
    (fun c => { c with sectors := c.sectors + 1 })
  let s := s.programWaiting
  if c.sectors + 1 < n then s.eraseBegins .sector else s

/-- The new pair of records. -/
def State.nextRec (s : State) : CommitRec :=
  let top := max ((s.flash.recA.map CommitRec.seq).getD 0) ((s.flash.recB.map CommitRec.seq).getD 0)
  let c := s.flash.commit
  { seq := top + 1, active := s.inactive, previous := s.flash.active, length := c.length, crc := c.crc
    version := imageVersion (s.bank s.inactive), rtc := s.rtcS }

/-- What the end of an erase leads to: in ERASING the next sector starts; in RECORDING record A is programmed and the erase of B
starts (R412). -/
def State.erased (s : State) (k : Erase) : State :=
  let c := s.flash.commit
  match k with
  | .data => s
  | .sector => if c.isOpen && c.state = 1 then s.sectorErased else s
  | .recA =>
    if c.isOpen && c.state = 4 && !c.recA then
      ({ s with flash := { s.flash with recA := some s.nextRec, recB := none } }.updCommit
        (fun c => { c with recA := true })).eraseBegins .recB
    else s
  | .recB => s

/-- The erase in progress ends, and the next one in the queue starts. -/
def State.eraseEnded (s : State) : State :=
  match s.flash.erases with
  | [] => s.eraseOver
  | k :: q =>
    let s := { s with flash := { s.flash with erases := q } }.eraseOver.erased k
    if s.flash.erases.isEmpty then (if s.flash.commit.isOpen && s.flash.commit.state = 2 then s.takeWaiting else s)
    else if s.wdog.erasing.isSome then s else s.eraseStarts

/-- The erase has ended, or its suspension has reached 100 ms, behind which it runs on (11 R318). -/
def State.suspensionEnd (s : State) : State :=
  match s.wdog.erasing with
  | some t => if s.since t < 100 * ttMs then s.eraseEnded else s.eraseOver
  | none => s.eraseEnded

def execEraseSuspensionEnd (s : State) : Out := runCoreL State.suspensionEnd s

/-- ERASING ends: every sector that covers the length is erased, and between those that were left the waiting pages of the data area
are programmed (R408). -/
def State.eraseDone (s : State) : State :=
  let c := s.flash.commit
  if !c.isOpen || c.state != 1 then s
  else
    let n := sectorsFor c.length
    let s := if c.sectors + 1 < n then s.programWaiting else s
    let s := (s.setBank s.inactive (eraseRange (s.bank s.inactive) 0 (65536 * n))).commitErased
    (s.updCommit (fun c => { c with state := 2, sectors := n, lastPiece := s.wall })).takeWaiting

def execCommitEraseDone (s : State) : Out := runCoreL State.eraseDone s

/-- The header, then the whole image of the inactive bank and the key slots, are read; whether every word could be corrected. -/
def State.readImage (s : State) (length : Nat) : Bool × State :=
  let (a, s) := s.readRun s.inactive 256 (length - 256)
  let (b, s) := s.readRun 2 0x2000 0x400
  (a && b, s)

/-- VERIFYING ends in RECORDING, or in FAILED with REASON 2 HEADER, 3 CRC, 4 SIGNATURE, or 5 ECC where a read could not be corrected
(Table 16.11). -/
def State.verifyDone (s : State) : State :=
  let c := s.flash.commit
  let m := s.bank s.inactive
  if !c.isOpen || c.state != 3 then s
  else
  let (hdr, s) := s.readRun s.inactive 0 256
  if !hdr then s.endCommit 6 5 stCheckFail
  else if !headerOk s m then s.endCommit 6 2 stCheckFail
  else
  let (img, s) := s.readImage c.length
  if !img then s.endCommit 6 5 stCheckFail
  else if crc32c (mread flashByte m 0 c.length) != c.crc then s.endCommit 6 3 stCheckFail
  else if !signatureOk s m then s.endCommit 6 4 stCheckFail
  else ({ s with flash := { s.flash with recA := none } }.updCommit (fun c => { c with state := 4, recA := false })).eraseBegins .recA

def execCommitVerifyDone (s : State) : Out := runCoreL State.verifyDone s

/-- Both records are written: COMMITTED. -/
def State.recordDone (s : State) : State :=
  let c := s.flash.commit
  if !c.isOpen || c.state != 4 then s
  else
    let r := if c.recA then s.flash.recA.getD s.nextRec else s.nextRec
    let s := { s with flash := { s.flash with recA := some r, recB := some r },
                      bist := { s.bist with cur := { s.bist.cur with cuts := 0 }.sealed } }
    s.commitErased.endCommit 5 0 stOk

def execCommitRecordDone (s : State) : Out := runCoreL State.recordDone s

def execLoadIdleTimeout (s : State) : Out :=
  runCoreL (fun s =>
    let c := s.flash.commit
    if c.isOpen && c.state = 2 && decide (s.flash.loadIdle * ttS ≤ s.since c.lastPiece) then s.endCommit 8 6 stTimeout
    else s) s

def abandonCommit (s : State) : Nat × State :=
  if s.flash.commit.isOpen then (stOk, s.endCommit 8 7 stAborted) else (stOk, s)

def execFlashAbandon (s : State) : Out := runL (regOp abandonCommit) s

/-- COMMIT_LOADED through the debug port: VERIFYING with the header's LENGTH and the CRC the device computes (R424). -/
def commitLoaded (s : State) : Nat × State :=
  if s.flash.commit.isOpen then (stBusy, s)
  else
    let m := s.bank s.inactive
    let n := imageLength m
    let s := (s.readRun s.inactive 0 (min n 1048576)).2
    (stOk, s.updCommit (fun _ => { CommitSt.reset with
      isOpen := true, state := 3, length := n, crc := crc32c (mread flashByte m 0 (min n 1048576)), start := s.now
      startRtc := s.rtcS, lastPiece := s.wall, lastPending := s.wall }))

/-! ### The configuration (R420, R441) -/

/-- A copy whose CRC matches. -/
def cfgOk (c : List Nat) : Bool := c.length = 1024 && c.getD 1023 0 = crc32c (wordsLe 4 (c.take 1023))

/-- The copy in force: of the valid copies the one with the higher SEQ. -/
def State.cfgInForce (s : State) : Option (List Nat) :=
  let a := s.flash.cfgA
  let b := s.flash.cfgB
  if cfgOk a && cfgOk b then some (if b.getD 1 0 ≤ a.getD 1 0 then a else b)
  else if cfgOk a then some a else if cfgOk b then some b else none

/-- CONFIG_SAVE: the shadow, with SEQ one above the newer copy and a new CRC, over the older copy. -/
def configSave (s : State) : Nat × State :=
  if s.flash.commit.isOpen then (stBusy, s)
  else
    let a := s.flash.cfgA
    let b := s.flash.cfgB
    let useA := !cfgOk a || (cfgOk b && decide (a.getD 1 0 < b.getD 1 0))
    let newer := max (if cfgOk a then a.getD 1 0 else 0) (if cfgOk b then b.getD 1 0 else 0)
    let w := ((s.flash.shadow.set 1 ((newer + 1) % 2 ^ 32)).take 1023)
    let c := w ++ [crc32c (wordsLe 4 w)]
    let s := s.eraseBegins .data
    (stOk, if useA then { s with flash := { s.flash with cfgA := c } } else { s with flash := { s.flash with cfgB := c } })

def execConfigSave (s : State) : Out := runReg configSave s

def moveConfig (s : State) : State :=
  { s with flash := { s.flash with cfgIndex := if 1022 ≤ s.flash.cfgIndex then 0 else s.flash.cfgIndex + 1 } }

/-- The shadow word, then the index moves. -/
def configRead (s : State) : Nat × State := (s.flash.shadow.getD s.flash.cfgIndex 0, moveConfig s)

def configWrite (v : Nat) (s : State) : Nat × State :=
  if s.flash.commit.isOpen then (stBusy, s)
  else if s.flash.cfgIndex = 1 ∨ 1023 ≤ s.flash.cfgIndex then (stDenied, s)
  else (stOk, moveConfig { s with flash := { s.flash with shadow := s.flash.shadow.set s.flash.cfgIndex v } })

def execConfigDataRead (s : State) : Out := runWindow configRead s
def execConfigDataWrite (v : Nat) (s : State) : Out := runReg (configWrite v) s

/-! ### The debug port (R421–R427) -/

/-- A refused operation leaves its code in DEBUG.STATUS.ERR. -/
def State.dbgRefuse (s : State) (code : Nat) : State := { s with dbg := { s.dbg with err := code } }.answer code

/-- The port has been used since release: ATTACHED and the ledger entry of the first access. -/
def State.dbgAttach (s : State) : State :=
  if s.dbg.attached || s.mode.mode = .bist then s
  else { s with dbg := { s.dbg with attached := true } }.ledger 0x16 1 0

/-- n bits of v, most significant first. -/
def msbBits (n v : Nat) : List Bool := (List.range n).map (fun i => v.testBit (n - 1 - i))

/-- CHK of an operation: over OP, ADDR and any DATA (R422). -/
def dbgChk (op addr : Nat) (data : Option Nat) : Nat :=
  crc4 (msbBits 4 op ++ msbBits 24 addr ++ (match data with
    | some d => msbBits 32 d
    | none => []))

/-- What the device drives after the turnaround: STATUS, and behind a DONE read DATA and CHK over it. -/
def dioBits (status : Nat) (word : Option Nat) : List Bool :=
  msbBits 2 status ++ (match word with
    | some w => msbBits 32 w ++ msbBits 4 (crc4 (msbBits 32 w))
    | none => [])

/-- A refused operation: STATUS 0b00, and the code in DEBUG.STATUS.ERR. -/
def State.dioRefuse (s : State) (code : Nat) : State := (s.dbgRefuse code).emit (.dio (dioBits 0 none))

/-- The port never drives DIO: DEBUG_LOCK is blown, or the device is not powered. -/
def State.dioSilent (s : State) : Bool := s.ident.debugLock || s.inMode [.ship, .keep, .dormant]

/-- An operation that has arrived whole (R424): RETRY in BIST unless it is IDCODE; f gives a status, the words read and the
state. -/
def dbgAct (idcode : Bool) (f : State → Nat × List Nat × State) (s : State) : State :=
  if s.mode.mode = .bist && !idcode then (s.answer stRetry).emit (.dio (dioBits 2 none))
  else
    let (st, ws, s) := f s.dbgAttach
    if st = stOk then (s.answer stOk (ws.headD 0) ws).emit (.dio (dioBits 1 ws.head?)) else s.dioRefuse st

/-- An operation of the port with the CHK that the probe sent; a mismatch is refused with code 0x08 (R422). -/
def dbgOp (op addr : Nat) (data : Option Nat) (chk : Nat) (f : State → Nat × List Nat × State) (s : State) : State :=
  if s.dioSilent then s.answer stSilent
  else if chk != dbgChk op addr data then s.dioRefuse stBadDescriptor
  else dbgAct (op = 0xF) f s

/-- A write of one register through the port whose CHK is right. -/
def dbgDo (f : State → Nat × State) (s : State) : State :=
  if s.dioSilent then s.answer stSilent else dbgAct false (fun s => ((f s).1, [], (f s).2)) s

def execCommitLoaded (s : State) : Out := runL (dbgDo commitLoaded) s

def debugHalt (s : State) : Nat × State :=
  (stOk, (s.ledger 0x16 2 0).toHalted)

def execDebugHalt (s : State) : Out := runL (dbgDo debugHalt) s

def debugResume (s : State) : Nat × State := (stOk, s.resumeHalt)

def execDebugResume (s : State) : Out := runL (dbgDo debugResume) s

def debugReset (s : State) : Nat × State := (stOk, s.resetBy 8)

def execDebugReset (s : State) : Out := run (dbgDo debugReset) s

/-- A comparator matches (R426): TYPE 0 a job's tag, 1 a descriptor's host address, 2 a parameter's address. -/
def brkMatch (b : BreakSt) (what : Nat) (write : Bool) : Bool :=
  b.en && (if b.typ = 0 then what % 256 = b.value % 256
           else if b.typ = 1 then fld what 31 6 = fld b.value 31 6
           else if b.typ = 2 then fld what 15 2 = fld b.value 15 2 && (write || !b.wo)
           else false)

/-- The comparator that an action of its TYPE hits; in HALTED and where a job is stepped none does. -/
def State.breakAt (s : State) (typ what : Nat) (write : Bool) : Option Nat :=
  if s.mode.mode = .halted || s.dbg.stepping then none
  else (List.range 8).find? (fun k => s.dbg.brk[k]?.any (fun b => b.typ = typ && brkMatch b what write))

/-- Comparator k halts the device; a halt that is held lets the action go on. -/
def State.breakHit (s : State) (k : Nat) : State := { s with dbg := { s.dbg with hit := k, hitValid := true } }.toHalted

/-- BREAKPOINT_HIT: an access of the sequencer's own, which has no other row (DEDUCED, notes/assumptions/115.md). -/
def execBreakpointHit (k what : Nat) (write : Bool) (s : State) : Out :=
  runL (fun s =>
    match s.dbg.brk[k]? with
    | some b =>
      if brkMatch b what write && !(b.typ = 0 && s.dbg.stepping) && s.reachable then
        s.breakHit k
      else s
    | none => s) s

def execIdcode (tail : AddrChk) (s : State) : Out :=
  run (dbgOp 0xF tail.addr none tail.chk (fun s => (stOk, [0x4800 + put s.ident.silicon 16 8 + put 1 24 8], s))) s

/-- FUSE blows a fuse (R421). Until the next reset IDENT.FUSES, like the fuse's effect, stands as it was: R1 reports the fuses
set, R421 lets the fuse take effect at the next reset (DESIGN CHOICE, notes/assumptions/92.md). -/
def execFuse (data : Nat) (tail : AddrChk) (s : State) : Out :=
  run (dbgOp 8 tail.addr (some data) tail.chk (fun s =>
    if fld data 31 16 != 0x4655 || decide (1 < data % 16) then (stBadDescriptor, [], s)
    else
      let s := if data % 16 = 0 then { s with ident := { s.ident with wdtBlown := true } }
        else { s with ident := { s.ident with lockBlown := true } }
      (stOk, [], s.ledger 0x16 (4 + 256 * (data % 16)) 0))) s

/-! ### Flash addresses (R423) -/

/-- Region (0, 1 banks, 2 data area) and offset, where the address exists. -/
def flashAt (addr : Nat) : Option (Nat × Nat) :=
  let r := fld addr 21 20
  let o := addr % 2 ^ 20
  if 2 ^ 22 ≤ addr ∨ r = 3 ∨ (r = 2 ∧ 0x40000 ≤ o) then none else some (r, o)

/-- Sector of an offset. -/
def sectorOf (r o : Nat) : Nat := if r = 2 then o / 4096 else o / 65536

/-- The 32 bytes of a commit record. -/
def recBytes (r : CommitRec) : List Byte :=
  withCrc (le 4 1 ++ le 4 r.seq ++ le 1 r.active ++ le 1 r.previous ++ [0, 0] ++ le 4 r.length ++ le 4 r.crc
    ++ le 4 r.version ++ le 4 r.rtc)

/-- The word at offset o of a ring of slots of `size` bytes, of which the newest ends before slot `head` and `held` hold these
bytes; a slot that holds none is erased. The slot programmed i-th stands at i modulo `slots` (DESIGN CHOICE,
notes/assumptions/111.md). -/
def ringWord (size slots head held : Nat) (bs : List Byte) (o : Nat) : Nat :=
  let p := o / size
  let back := (head + slots - 1 - p) % slots
  if back < held then at_ bs (size * (held - 1 - back) + o % size) 4 else 0xFFFFFFFF

/-- A word of the data area (Table 16.1). -/
def State.dataWord (s : State) (o : Nat) : Nat :=
  let sec := o / 4096
  let rec_ (r : Option CommitRec) : Nat := match r with
    | some r => if o % 4096 < 32 then at_ (recBytes r) (o % 4096) 4 else 0xFFFFFFFF
    | none => 0xFFFFFFFF
  if sec = 0 then rec_ s.flash.recA
  else if sec = 1 then rec_ s.flash.recB
  else if sec = 3 then s.flash.cfgA.getD (o % 4096 / 4) 0xFFFFFFFF
  else if sec = 4 then s.flash.cfgB.getD (o % 4096 / 4) 0xFFFFFFFF
  else if 5 ≤ sec ∧ sec ≤ 14 then (Config.safetyWord s.safety.nv.writes o).toNat
  else if 16 ≤ sec ∧ sec ≤ 20 then
    ringWord 64 320 ((s.safety.parish.getLast?.map ParishEntry.seq).getD 0) s.safety.parish.length
      (s.safety.parish.flatMap parishBytes) (o - 0x10000)
  else if 21 ≤ sec ∧ sec ≤ 54 then
    ringWord 32 4352 s.flash.logAt (slotsOf s.flash.log) (s.flash.log.flatMap entryBytes) (o - 0x15000)
  else fword s.flash.dataArea o 4

def flashRead (addr : Nat) (s : State) : Nat × List Nat × State :=
  match flashAt addr with
  | none => (stBadDescriptor, [], s)
  | some (r, o) =>
    if o % 4 != 0 then (stBadDescriptor, [], s)
    else
      let (v, s) := s.readWord r o (if r = 2 then s.dataWord o else fword (s.bank r) o 4)
      (stOk, [v], s)

def execFlashRead (addr chk : Nat) (s : State) : Out := run (dbgOp 5 addr none chk (flashRead addr)) s

/-- Whether key slot k is empty. -/
def State.slotEmpty (s : State) (k : Nat) : Bool :=
  s.flash.dataArea.all (fun p => decide (p.1 < slotAddr k) || decide (slotAddr k + 0x100 ≤ p.1))

/-- Where the port may program or erase (R424); `prog` also admits the page of an empty key slot. -/
def State.portMay (s : State) (r o : Nat) (prog : Bool) : Bool :=
  if r = 2 then
    let sec := o / 4096
    sec = 3 || sec = 4 || sec = 15 || decide (55 ≤ sec)
      || (prog && sec = 2 && decide (o % 4096 < 0x400) && s.slotEmpty (o % 4096 / 0x100))
  else r = s.inactive

/-- The first flash write through the port since release writes a ledger entry. -/
def State.portWrites (s : State) (sector : Nat) : State :=
  if s.flash.portWrote then s
  else { s with flash := { s.flash with portWrote := true } }.ledger 0x16 (3 + 256 * sector) 0

/-- One byte of a page: an erased byte takes the value; the spec gives no result for a byte that is not erased. -/
def progByte (acc : Mem × State) (a : Nat × Byte) : Mem × State :=
  let (m, s) := acc
  if mget flashByte m a.1 = flashByte then (mset flashByte m a.1 a.2, s)
  else (mset flashByte m a.1 (BitVec.ofNat 8 s.fresh), s.took)

/-- One word of a configuration copy. -/
def progWord (acc : List Nat × State) (w : Nat × Nat) : List Nat × State :=
  let (c, s) := acc
  if c.getD w.1 0 = 0xFFFFFFFF then (c.set w.1 w.2, s) else (c.set w.1 s.fresh, s.took)

def wholeCfg (c : List Nat) : List Nat := (List.range 1024).map (fun i => c.getD i 0xFFFFFFFF)

/-- The page buffer is programmed at its page. -/
def State.programPage (s : State) (r o : Nat) : State :=
  let page := o / 256 * 256
  let ws := s.flash.pageWords
  let bytes := ws.flatMap (fun w => (le 4 w.2).mapIdx (fun i b => (page + w.1 + i, b)))
  let s := { s with flash := { s.flash with pageWords := [] } }
  if r = 2 && (o / 4096 = 3 || o / 4096 = 4) then
    let idx := ws.map (fun w => ((page % 4096 + w.1) / 4, w.2))
    if o / 4096 = 3 then
      let (c, s) := idx.foldl progWord (wholeCfg s.flash.cfgA, s)
      { s with flash := { s.flash with cfgA := c } }
    else
      let (c, s) := idx.foldl progWord (wholeCfg s.flash.cfgB, s)
      { s with flash := { s.flash with cfgB := c } }
  else if r = 2 then
    let key := o / 4096 = 2
    let (m, s) := bytes.foldl progByte (s.flash.dataArea, s)
    let s := { s with flash := { s.flash with dataArea := m } }
    if key then s.ledger 0x16 (5 + 256 * (o % 4096 / 0x100)) 0 else s
  else
    let (m, s) := bytes.foldl progByte (s.bank r, s)
    s.setBank r m

def flashProgram (addr value : Nat) (s : State) : Nat × List Nat × State :=
  match flashAt addr with
  | none => (stBadDescriptor, [], s)
  | some (r, o) =>
    if o % 4 != 0 then (stBadDescriptor, [], s)
    else if !s.portMay r o true then (stDenied, [], s)
    else if s.flash.commit.isOpen then (stBusy, [], s)
    else
      let s := s.portWrites (sectorOf r o)
      let page := addr / 256 * 256
      let ws := if s.flash.pageAddr = page then s.flash.pageWords.filter (fun w => w.1 != addr % 256) else []
      let s := { s with flash := { s.flash with pageAddr := page, pageWords := ws ++ [(addr % 256, value)] } }
      (stOk, [], if addr % 256 = 0xFC then s.programPage r o else s)

def execFlashProgram (addr value chk : Nat) (s : State) : Out :=
  run (dbgOp 6 addr (some value) chk (flashProgram addr value)) s

def flashErase (addr : Nat) (s : State) : Nat × List Nat × State :=
  match flashAt addr with
  | none => (stBadDescriptor, [], s)
  | some (r, o) =>
    if !s.portMay r o false then (stDenied, [], s)
    else if s.flash.commit.isOpen then (stBusy, [], s)
    else
      let s := (s.portWrites (sectorOf r o)).eraseBegins .data
      let blank := List.replicate 1024 0xFFFFFFFF
      (stOk, [], if r != 2 then s.setBank r (eraseRange (s.bank r) (o / 65536 * 65536) 65536)
        else if o / 4096 = 3 then { s with flash := { s.flash with cfgA := blank } }
        else if o / 4096 = 4 then { s with flash := { s.flash with cfgB := blank } }
        else { s with flash := { s.flash with dataArea := eraseRange s.flash.dataArea (o / 4096 * 4096) 4096 } })

/-- Table 16.10 gives FLASH_ERASE no DATA, so its CHK covers OP and ADDR (DEDUCED, notes/assumptions/93.md). -/
def execFlashErase (addr chk : Nat) (s : State) : Out := run (dbgOp 7 addr none chk (flashErase addr)) s

end Sys2Proof.Machine
end

