-- ==== Sys2Proof/Machine/Watch.lean ====
section
/-! DEFINITION. Watchdogs, the fault collector and the check units (11). -/

namespace Sys2Proof.Machine

/-! ### Watchdogs (R314–R321) -/

/-- The key logic of R315. -/
def wdKey (w : WdogSt) (key : Nat) : WdogSt :=
  if key = 0x4B1D then
    if w.keyHeld then { w with keyHeld := false, pendEarly := w.pendEarly + 1 } else { w with keyHeld := true }
  else if key = 0xE7A2 then
    if w.keyHeld then { w with keyHeld := false, pendValid := w.pendValid + 1 }
    else { w with pendEarly := w.pendEarly + 1 }
  else { w with keyHeld := false, pendEarly := w.pendEarly + 1 }

/-- A check-in by a task: unregistered tasks and second check-ins are duplicates (R320). -/
def wdCheckin (w : WdogSt) (task : Nat) : WdogSt :=
  if !bit w.rollMask task || bit w.checked task then { w with duplicate := true }
  else { w with checked := w.checked + 2 ^ task }

/-- The roll call is met. -/
def wdMet (w : WdogSt) : Bool := w.checked = w.rollMask && !w.duplicate

/-- What a tick edge finds. -/
inductive WdEdge where
  | expire
  | early
  | rollFail
  | valid
  | none
deriving DecidableEq, Repr

/-- The order of R316 on the held count; `roll` is whether the roll call counts. -/
def wdEdge (w : WdogSt) (roll : Bool) : WdEdge :=
  if w.count = w.winClose then .expire
  else if 2 ≤ w.pendEarly + w.pendValid then .early
  else if 1 ≤ w.pendEarly then .early
  else if 1 ≤ w.pendValid then
    if w.count < w.winOpen then .early
    else if roll && !wdMet w then .rollFail
    else .valid
  else .none

/-- A case that took a serve clears the pending serves and the check-in record. -/
def wdClear (w : WdogSt) : WdogSt := { w with pendEarly := 0, pendValid := 0, checked := 0, duplicate := false }

/-- The watchdog after an edge that does not expire. -/
def wdAfter (w : WdogSt) : WdEdge → WdogSt
  | .expire => w
  | .early => { wdClear w with count := w.count + 1, early := true }
  | .rollFail => { wdClear w with count := w.count + 1, rollFail := true, rollFails := w.rollFails + 1 }
  | .valid => { wdClear w with count := 0, rollFails := 0 }
  | .none => { w with count := w.count + 1 }

/-- The faults of an edge, ITEM 0 the device's watchdog, 1 the host's. -/
def State.raiseWd (s : State) (e : WdEdge) (item : Nat) : State :=
  match e with
  | .early => s.raise 14 item
  | .rollFail => s.raise 15 item
  | _ => s

/-- The device watchdog is suspended: during an erase, in HALTED and in DORMANT (R318, 14 R383). -/
def State.wdSuspended (s : State) : Bool := s.wdog.erasing.isSome || s.inMode [.halted, .dormant]

/-- Without VPWR, as in SHIP, in KEEP and after a long press, the controller does not run. -/
def State.unpowered (s : State) : Bool := s.inMode [.ship, .keep] || !s.power.vpwrGood

/-- Expiry of the device watchdog: a reset with cause WDOG, and the count kept for the ledger (R317). -/
def State.wdExpire (s : State) : State :=
  { s with kept := { s.kept with wdog := some s.wdog.rollFails } }.resetBy 5

/-- A running, unsuspended device watchdog at a tick edge (R316); in LOCKOUT there is no roll call (12 R345). -/
def State.wdTick (s : State) : State :=
  if !s.wdog.running || s.wdSuspended then s
  else
    let e := wdEdge s.wdog (s.mode.mode != .lockout)
    if e = .expire then s.wdExpire else ({ s with wdog := wdAfter s.wdog e }).raiseWd e 0

/-- The grace timer counts a tick; it holds in HALTED and DORMANT (R324). -/
def State.graceTick (s : State) : State :=
  if s.fault.isOpen && !s.fault.escalated && !bit s.clocks 1 && !(s.inMode [.halted, .dormant]) then
    { s with fault := { s.fault with left := s.fault.left - 1 } }
  else s

def startWdog (s : State) : Nat × State :=
  if s.wdog.running then (stDenied, s)
  else if 1 ≤ s.wdog.openT ∧ s.wdog.openT < s.wdog.closeT then
    (stOk, { s with wdog := { s.wdog with running := true, count := 0, winOpen := s.wdog.openT, winClose := s.wdog.closeT } })
  else (stDenied, s)

def execWdogStart (s : State) : Out := runReg startWdog s

/-- A key from the sequencer; discarded while the watchdog is suspended. -/
def execWdogKey (key : Nat) (s : State) : Out :=
  runCore (when_ (!s.wdSuspended && !s.unpowered) (fun s => { s with wdog := wdKey s.wdog key })) s

def execWdogCheckin (task : Nat) (s : State) : Out :=
  runCore (when_ (!s.wdSuspended && !s.unpowered) (fun s => { s with wdog := wdCheckin s.wdog task })) s

/-- A tick edge of WDOSC at the device watchdog and the grace timer. -/
def execWdogServeSampled (s : State) : Out := run (when_ (!s.unpowered) (fun s => s.graceTick.wdTick)) s

/-- The edge at which the held count equals CLOSE; any other edge is WDOG_SERVE_SAMPLED's. -/
def execWdogExpire (s : State) : Out :=
  run (when_ (s.wdog.running && !s.wdSuspended && !s.unpowered && s.wdog.count = s.wdog.winClose) State.wdExpire) s

/-! ### The host watchdog (R321) -/

def State.ignoreWrite (s : State) : State := { s with host := { s.host with writeIgn := true } }

def startHostWd (s : State) : State :=
  let w := s.hostWd
  if w.running then s.ignoreWrite
  else if 1 ≤ w.openT ∧ w.openT < w.closeT then
    { s with hostWd := { w with running := true, count := 0, winOpen := w.openT, winClose := w.closeT } }
  else s.ignoreWrite

def execHostWdStart (s : State) : Out := run (when_ s.barOpen startHostWd) s

def execHostWdKey (key : Nat) (s : State) : Out :=
  run (when_ s.barOpen (fun s => { s with hostWd := wdKey s.hostWd key })) s

def execHostRollCheckin (task : Nat) (s : State) : Out :=
  run (when_ s.barOpen (fun s => { s with hostWd := wdCheckin s.hostWd task })) s

/-! ### The fault collector (R322–R327) -/

/-- The first item of a list that holds, or d. -/
def firstOf (l : List Bool) (off d : Nat) : Nat := match l.findIdx? (fun b => b) with
  | some i => i + off
  | none => d

/-- ITEM of a level source whose flag is already 1 when the collector starts (Table 11.4). -/
def State.levelItem (s : State) (id : Nat) : Nat :=
  if id = 1 then firstOf (s.cells.map (fun c => decide (s.diag.persist ≤ c.pCount) || decide (s.diag.persist ≤ c.rCount))) 1 0
  else if id = 2 then firstOf ((List.range 3).map (fun i => s.diag.refProof.getD i false || s.diag.refWit.getD i false)) 1 0
  else if id = 3 then s.diag.openWires.headD 0
  else if id = 9 then firstOf (s.ports.map (fun p => p.link = .lost)) 0 0
  else if id = 16 then firstOf ((List.range 12).map (bit s.clocks)) 0 0
  else if id = 18 then s.power.supply.headD 0
  else if id = 22 then firstOf s.safety.failed 0 0
  else if id = 23 then (if s.safety.in1.disc then 1 else 2)
  else if id = 25 then s.diag.dCheck
  else 0

/-- The level sources of Table 11.4. -/
def levelIds : List Nat := [1, 2, 3, 6, 9, 16, 18, 22, 23, 25]

/-- The collector starts at release, or at entry to LOCKOUT: every level source that is set raises an event (R323). -/
def State.startCollector (s : State) : State :=
  let s := { s with fault := { s.fault with running := true, evq := [] } }
  levelIds.foldl (fun s id => if s.rawFlag id then s.raise id (s.levelItem id) else s) s

/-- The notices of an edge, in increasing ID order (R327). -/
def State.notices (s : State) (evs : List FaultEvt) : State :=
  (List.range 32).foldl (fun s id => (evs.filter (fun e => e.id = id)).foldl (fun s e =>
    if bit s.fault.enable1 id && !bit s.fault.enable0 id then s.faultFrame 3 id e.item 0 e.time else s) s) s

/-- An event opens the record and drives FAULT_N low (R323, R326). -/
def State.openRecord (s : State) (e : FaultEvt) : State :=
  let s := { s with fault := { s.fault with
    isOpen := true, escalated := false, id := e.id, item := e.item, recMode := e.mode, time := e.time
    left := s.fault.grace, graceSub := 0, actionNow := s.fault.action, low := true } }
  let s := s.ledgerAt 0x03 (e.id + 256 * e.item) 0 e.time none
  if bit s.fault.enable1 e.id then s.faultFrame 1 e.id e.item 0 e.time else s

/-- The event of lowest ID that opens a record. -/
def State.opener (s : State) (evs : List FaultEvt) : Option FaultEvt :=
  (List.range 32).findSome? (fun id => if bit s.fault.enable0 id then evs.find? (fun e => e.id = id) else none)

/-- The events of one WDOSC edge. -/
def State.collect (s : State) : State :=
  let evs := s.fault.evq
  let s := { s with fault := { s.fault with evq := [] } }
  if s.fault.isOpen then s
  else
    let s := s.notices evs
    match s.opener evs with
    | some e => s.openRecord e
    | none => s

def execFaultCollect (s : State) : Out := runL (when_ (s.fault.running && !s.unpowered) State.collect) s

/-- Escalation (R325): the action that was carried out is 0 where the device already stands there or in LOCKOUT. -/
def State.escalate (s : State) : State :=
  let f := s.fault
  let s := { s with fault := { s.fault with escalated := true } }
  let before := s.mode.mode
  let s := if f.actionNow = 0 then s.toSafe else s.toLockout
  let act := if s.mode.mode = before then 0 else f.actionNow + 1
  (s.faultFrame 2 f.id f.item act f.time).ledger 0x04 (f.id + 256 * f.item + 65536 * act) 0

def execGraceExpire (s : State) : Out := runL (when_ s.graceDue State.escalate) s

/-- A write to FAULT.ACK from a descriptor or the debug port; an expiry that falls with it goes first (R324). -/
def ackFault (id : Nat) (s : State) : Nat × State :=
  let s := when_ s.graceDue State.escalate s
  if s.mode.mode = .lockout then (stDenied, s)
  else if s.fault.isOpen && s.fault.id = id then
    (stOk, { s with fault := { s.fault with isOpen := false, escalated := false, left := 0, low := false } })
  else (stDenied, s)

def execFaultAck (id : Nat) (s : State) : Out := runL (regOp (ackFault id)) s

/-! ### Check units (R329–R331) -/

def State.chk (s : State) (k : Nat) : CheckSt := s.checks.getD k CheckSt.reset
def State.updChk (s : State) (k : Nat) (f : CheckSt → CheckSt) : State := { s with checks := updAt s.checks k f }

/-- START latches, clears the count and loads the initial value (R330). A unit that a job holds is BUSY (R331); on one that is not
STOPPED the write changes nothing (00 R476). -/
def startCheck (k : Nat) (s : State) : Nat × State :=
  let c := s.chk k
  if c.job then (stBusy, s)
  else if c.state != .stopped then (stOk, s)
  else (stOk, s.updChk k (fun c => { c with
    state := .running, lSel := c.sel, lExpect := c.expect, lLength := c.length, count := 0
    reg := if c.customInit then c.init % 2 ^ crcWidth c.sel else crcInit c.sel }))

/-- STOP: ABANDONED, RESULT unchanged. -/
def stopCheck (k : Nat) (s : State) : Nat × State :=
  let c := s.chk k
  if c.job then (stBusy, s)
  else if c.state = .stopped then (stOk, s)
  else (stOk, s.updChk k (fun c => { c with state := .stopped, outcome := 5 }))

def CheckSt.feed (c : CheckSt) (bs : List Byte) : CheckSt :=
  { c with reg := bs.foldl (crcStep c.lSel) c.reg, count := c.count + bs.length }

/-- n bytes of v, lowest first. -/
def feedCheck (k n v : Nat) (s : State) : Nat × State :=
  let c := s.chk k
  if c.job then (stBusy, s)
  else if c.state != .running then (stDenied, s)
  else (stOk, s.updChk k (fun c => c.feed (le n v)))

def closeCheck (k : Nat) (s : State) : Nat × State :=
  let c := s.chk k
  if c.job then (stBusy, s)
  else if c.state != .running then (stDenied, s)
  else (stOk, s.updChk k (fun c => { c with state := .stopping }))

/-- OUTCOME by the byte count: 1 PASS, 2 MISMATCH, 3 SHORT, 4 LONG. -/
def CheckSt.judge (c : CheckSt) (result : Nat) : Nat :=
  if c.count < c.lLength then 3 else if c.lLength < c.count then 4
  else if result = c.lExpect % 2 ^ crcWidth c.lSel then 1 else 2

def CheckSt.final (c : CheckSt) : Nat := crcFinal c.lSel c.reg

def State.checkOutcome (s : State) (k : Nat) : State :=
  let c := s.chk k
  if c.state != .stopping then s
  else
    let o := c.judge c.final
    let s := s.updChk k (fun c => { c with state := .stopped, result := c.final, outcome := o, job := false })
    if o = 1 then s else s.raise 17 k

def execCheckStart (k : Nat) (s : State) : Out := runReg (startCheck k) s
def execCheckStop (k : Nat) (s : State) : Out := runReg (stopCheck k) s
def execCheckData8 (k v : Nat) (s : State) : Out := runReg (feedCheck k 1 v) s
def execCheckData16 (k v : Nat) (s : State) : Out := runReg (feedCheck k 2 v) s
def execCheckData32 (k v : Nat) (s : State) : Out := runReg (feedCheck k 4 v) s
def execCheckClose (k : Nat) (s : State) : Out := runReg (closeCheck k) s
def execCheckOutcome (k : Nat) (s : State) : Out := runCore (fun s => s.checkOutcome k) s

end Sys2Proof.Machine
end

