-- ==== Sys2Proof/Machine/Power.lean ====
section
/-! DEFINITION. Supplies, the power path, the reserve cell charger, sharing and the long press (13), and the host
watchdog's expiry, which acts on the charger (11 R321). -/

namespace Sys2Proof.Machine

def State.updPower (s : State) (f : PowerSt → PowerSt) : State := { s with power := f s.power }

/-! ### The charger (R357–R361) -/

/-- Table 13.5, in mV, by CHEM. -/
def preLevel (chem : Nat) : Nat := if chem = 2 then 2500 else 1800
def cvLevel (chem sel : Nat) : Nat :=
  if chem = 2 then (if sel = 0 then 3550 else 3600) else (if sel = 0 then 2700 else 2850)
/-- Temperature window on RESTS, in 0.1 °C. -/
def windowLo (chem : Nat) : Int := if chem = 2 then 0 else -200
def windowHi (chem : Nat) : Int := if chem = 2 then 450 else 550

/-- ICHG as it stands: at most 40 mA from VAUX (R362). -/
def PowerSt.ichgNow (p : PowerSt) : Nat := if p.onVaux then min 40 p.ichg else p.ichg

/-- Precharge current in mA. -/
def PowerSt.preMa (p : PowerSt) : Nat := max 5 (p.ichgNow / 10)

/-- The charger is enabled, a chemistry is set, no fault holds it off, and it has VPWR in a mode that lets it run, or VAUX in the
share range (R357, R360–R362). -/
def State.allowsCharge (s : State) : Bool :=
  s.power.en && s.power.chem != 0 && !s.power.hold && !s.power.ntc && !s.bist.testHeld
    && (if s.power.onVaux then !s.power.vpwrGood else !s.unpowered && s.mode.mode != .dormant)

/-- It may start now: from VPWR at the earliest t_CHS, 50 ms, after VPWR good (R361). -/
def State.mayCharge (s : State) : Bool :=
  s.allowsCharge && (s.power.onVaux || decide (50 * ttMs ≤ s.since s.power.goodAt))

/-- The last reading of RESTS stands outside the window of the chemistry. -/
def PowerSt.outside (p : PowerSt) : Bool :=
  p.resTemp != -32768 && (decide (p.resTemp < windowLo p.chem) || decide (windowHi p.chem < p.resTemp))

/-- A soft-start, with what it ramps to; outside the temperature window it suspends instead (R358). -/
def State.softStart (s : State) (vres : Nat) : State :=
  s.updPower (fun p =>
    if p.outside then { p with chg := .suspended, vresMv := vres, since := s.wall, nowMa := 0, vinregAct := false }
    else if vres < preLevel p.chem then { p with chg := .precharge, vresMv := vres, since := s.wall, nowMa := p.preMa }
    else { p with chg := .cc, vresMv := vres, since := s.wall, fastFrom := s.wall, nowMa := p.ichgNow })

/-- A soft-start at a VRES that no command brings: a free value (DESIGN CHOICE, notes/assumptions/42.md). -/
def State.softRestart (s : State) : State := s.took.softStart (s.fresh % 4096)

/-- The charger turns off. -/
def State.chgStop (s : State) (st : ChgState) : State :=
  s.updPower (fun p => { p with chg := st, nowMa := 0, since := s.wall, vinregAct := false })

/-- Whether the charger charges now. -/
def PowerSt.charging (p : PowerSt) : Bool := p.chg = .precharge || p.chg = .cc || p.chg = .cv

/-- A charger fault: its bit latches, the source is raised when it latches, the charger turns off (R360). -/
def State.chgFault (s : State) (bit_ : Nat) : State :=
  let p := s.power
  let was := if bit_ = 0 then p.fMissing else if bit_ = 1 then p.fShort else if bit_ = 2 then p.fTimeout else p.fNtc
  let again := bit_ = 0 && p.missed
  let s := (s.chgStop .fault).updPower (fun p =>
    if bit_ = 0 then { p with fMissing := true, missed := true, present := false }
    else if bit_ = 1 then { p with fShort := true, hold := true }
    else if bit_ = 2 then { p with fTimeout := true, hold := true }
    else { p with fNtc := true })
  if was || again then s
  else if bit_ = 0 then s.raise 19 0 else if bit_ = 1 then s.raise 20 0 else if bit_ = 2 then s.raise 21 0 else s

/-- t_CHS after VPWR good. -/
def execChargerSoftStart (vresMv : Nat) (s : State) : Out :=
  run (when_ (s.power.chg = .wait && s.mayCharge && s.power.vpwrGood && decide (50 * ttMs ≤ s.since s.power.goodAt))
    (fun s => s.softStart vresMv)) s

def execPrechargeShortCheck (vresMv : Nat) (s : State) : Out :=
  run (when_ (s.power.chg = .precharge && decide (10 * ttS ≤ s.since s.power.since) && decide (vresMv < 1000))
    (fun s => (s.updPower (fun p => { p with vresMv := vresMv })).chgFault 1)) s

def execPrechargeTimeout (vresMv : Nat) (s : State) : Out :=
  run (when_ (s.power.chg = .precharge && decide (1800 * ttS ≤ s.since s.power.since)
      && decide (vresMv < preLevel s.power.chem))
    (fun s => (s.updPower (fun p => { p with vresMv := vresMv })).chgFault 2)) s

/-- VRES rises to the precharge level: CC at ICHG. -/
def execPrechargeLevelReached (s : State) : Out :=
  run (when_ (s.power.chg = .precharge) (fun s => s.updPower (fun p =>
    { p with chg := .cc, vresMv := preLevel p.chem, since := s.wall, fastFrom := s.wall, nowMa := p.ichgNow }))) s

/-- VRES reaches the CV voltage. -/
def execCvReached (s : State) : Out :=
  run (when_ (s.power.chg = .cc) (fun s => s.updPower (fun p =>
    { p with chg := .cv, vresMv := cvLevel p.chem p.vcv, since := s.wall }))) s

/-- The current has stayed below termination for 100 ms: a detection pulse starts. -/
def execChargeTermination (s : State) : Out :=
  run (when_ (s.power.chg = .cv && decide (100 * ttMs ≤ s.since s.power.since)) (fun s => s.chgStop .detect)) s

/-- The detection pulse ends after 20 ms: a fall below 200 mV finds the cell (R359). -/
def execDetectionPulseEnd (fallMv : Nat) (s : State) : Out :=
  run (when_ (s.power.chg = .detect && decide (20 * ttMs ≤ s.since s.power.since)) (fun s =>
    if fallMv < 200 then (s.chgStop .done).updPower (fun p => { p with present := true, missed := false })
    else s.chgFault 0)) s

def execPeriodicDetection (s : State) : Out :=
  run (when_ (s.power.chg = .done && decide (60 * ttS ≤ s.since s.power.since)) (fun s => s.chgStop .detect)) s

def execRecharge (vresMv : Nat) (s : State) : Out :=
  run (when_ (s.power.chg = .done && decide (vresMv + 100 < cvLevel s.power.chem s.power.vcv) && s.mayCharge)
    (fun s => s.softStart vresMv)) s

/-- CC and CV together exceed TIMEOUT_H. -/
def execFastChargeTimeout (s : State) : Out :=
  run (when_ ((s.power.chg = .cc || s.power.chg = .cv)
      && decide (s.power.timeoutH * 3600 * ttS < s.since s.power.fastFrom)) (fun s => s.chgFault 2)) s

/-- The charger may go on: it starts anew, or waits where t_CHS is not over. -/
def State.chgAgain (s : State) : State :=
  if s.mayCharge then s.softRestart else if s.allowsCharge then s.chgStop .wait else s

/-- A new reading of RESTS, 0.1 °C, or open or shorted (R358, R360): SUSPENDED outside the window, back 3 °C inside it. An open or
shorted thermistor of an enabled charger latches the fault NTC, also while the charger is off in DORMANT or for another fault; it stays
off until the reading returns to range. CHEM 0 reads 0x8000. -/
def State.rests (s : State) (temp : Option Int) : State :=
  if s.power.chem = 0 then s.updPower (fun p => { p with resTemp := -32768 })
  else
    let was := s.power.ntc
    match temp with
    | none =>
      let s := s.updPower (fun p => { p with resTemp := -32768, ntc := true })
      if !s.power.en || (was && (s.power.chg = .off || s.power.chg = .fault)) then s
      else if s.power.chg = .off || s.power.hold then s.updPower (fun p => { p with fNtc := true })
      else s.chgFault 3
    | some t =>
      let s := s.updPower (fun p => { p with resTemp := t, ntc := false })
      let lo := windowLo s.power.chem
      let hi := windowHi s.power.chem
      let well := decide (lo + 30 ≤ t) && decide (t ≤ hi - 30)
      let active := s.power.charging || s.power.chg = .detect || s.power.chg = .done
      if s.power.chg = .suspended then (if well then s.chgAgain else s)
      else if was && s.power.chg = .fault && !s.power.hold && !s.power.missed then s.chgAgain
      else if active && s.power.outside then s.chgStop .suspended
      else s

def execRestsWindowChange (temp : Option Int) (s : State) : Out :=
  run (when_ (!s.unpowered || s.power.onVaux) (fun s => s.rests temp)) s

/-- Every 10 s after MISSING the soft-start is retried. -/
def execMissingRetry (vresMv : Nat) (s : State) : Out :=
  run (when_ (s.power.chg = .fault && s.power.missed && decide (10 * ttS ≤ s.since s.power.since) && s.mayCharge)
    (fun s => s.softStart vresMv)) s

/-! ### Safe defaults (R364) -/

/-- The settings of Table 13.8; a change of ICHG or SEL makes a running charger start anew. -/
def State.chgDefaults (s : State) : State :=
  let p := s.power
  let changed := p.ichg != 10 || p.vcv != 0
  let s := (s.updPower (fun p => { p with ichg := 10, vcv := 0, vinreg := 4500, timeoutH := 10, defaults := true
                                          contactDone := true })).ledger 0x14 0 0
  if changed && p.charging then s.softRestart else s

def execChgDefaults (s : State) : Out :=
  run (when_ (s.awake && !s.power.contactDone && decide (s.power.tChg * ttS ≤ s.since s.power.contact))
    State.chgDefaults) s

/-- The contact timer restarts. -/
def State.contacted (s : State) : State := s.updPower (fun p => { p with contact := s.wall, contactDone := false })

/-! ### The host watchdog's edges (11 R321) -/

/-- Expiry: EXPIRED, the ledger entry, the charger's safe defaults, and a fresh count. -/
def State.hostWdExpire (s : State) : State :=
  (({ s with hostWd := { s.hostWd with expired := true, count := 0, checked := 0, duplicate := false, pendEarly := 0
                                       pendValid := 0 } }).ledger 0x07 0 0).chgDefaults

/-- A tick edge: an early serve and a roll-call failure both set HOST_WD_STATUS.EARLY. -/
def State.hostWdTick (s : State) : State :=
  if !s.hostWd.running || s.unpowered then s
  else
    let e := wdEdge s.hostWd true
    let w := wdAfter s.hostWd e
    if e = .expire then s.hostWdExpire else ({ s with hostWd := { w with early := w.early || e = WdEdge.rollFail } }).raiseWd e 1

def execHostWdServeSampled (s : State) : Out := run State.hostWdTick s

def execHostWdExpired (s : State) : Out :=
  run (when_ (s.hostWd.running && !s.unpowered && s.hostWd.count = s.hostWd.winClose) State.hostWdExpire) s

/-! ### Sharing (R362, R365) -/

def State.shareAllowed (s : State) : Bool := s.power.shareEn && !(s.inMode [.bist, .ship, .keep])

/-- VAUX leaves the share range: the charger no longer runs from it. -/
def State.shareEnds (s : State) : State :=
  (if s.power.onVaux then (s.chgStop .off).updPower (fun p => { p with onVaux := false }) else s).updPower
    (fun p => { p with vauxSh := false })

def execShareOver (s : State) : Out :=
  run (when_ s.power.shareOn (fun s => s.updPower (fun p =>
    { p with shareOn := false, shareMa := 0, fShare := true, shareAt := some s.wall }))) s

def execShareRetry (s : State) : Out :=
  run (fun s => match s.power.shareAt with
    | some t => if s.shareAllowed && decide (ttS ≤ s.since t) then
        s.updPower (fun p => { p with shareOn := true, shareAt := none }) else s
    | none => s) s

/-! ### Supply conditions (R352, R353, 01 R29) -/

/-- A condition of Table 13.3 arises. -/
def State.supplyBad (s : State) (item : Nat) : State :=
  if s.power.supply.contains item then s
  else ({ s with power := { s.power with supply := s.power.supply ++ [item] } }).raiseLevel s 18 item

/-- HVIN falls below V_HV_OFF: the stage goes on from VAUX where it has it (R348), and while VPWR is held up by other means the
condition is a fault. HVIN counts as the stage input until VAUX starts the stage (DEDUCED, notes/assumptions/113.md). -/
def State.hvinFalls (s : State) : State :=
  let s := if s.unpowered || !s.power.stageHv then s else s.supplyBad 8
  s.updPower (fun p => { p with hvinOk := false, stageOn := p.stageOn && (!p.stageHv || p.vauxSt) })

/-- VAUX falls below V_AUX_STF: a stage that runs from it stops, and on a station the condition is a fault. -/
def State.vauxFalls (s : State) : State :=
  let s := if s.unpowered || !s.mode.station then s else s.supplyBad 9
  s.updPower (fun p => { p with vauxSt := false, stageOn := p.stageOn && p.stageHv && p.hvinOk })

/-- VAUX lies in the share range, which POWER.STATUS shows. While VPWR is not good the charger runs from VAUX on the retained
settings (R362). In SHIP and while a long press holds the reserve switch open there is no cell to charge. -/
def State.shareRises (s : State) : State :=
  if s.power.vpwrGood then (when_ s.power.vauxSt State.vauxFalls s).updPower (fun p => { p with vauxSh := true })
  else
    let s := s.updPower (fun p => { p with vauxSh := true, vauxSt := false })
    if s.power.onVaux || !s.power.retained || s.power.resOpen then s
    else
      let t := s.updPower (fun p => { p with onVaux := true })
      if t.mayCharge then t.softRestart else s

def execShareCharge (s : State) : Out := run State.shareRises s

/-- The input of the stage rises: HVIN, used whenever it is there, or VAUX. In SHIP and during a long press the stage stays off. -/
def State.stageRises (s : State) (vaux : Bool) : State :=
  let s := if vaux then s.shareEnds else s
  s.updPower (fun p => { p with
    vauxSt := p.vauxSt || vaux, hvinOk := p.hvinOk || !vaux, stageHv := !vaux || (p.stageHv && p.hvinOk)
    supply := p.supply.erase (if vaux then 9 else 8), pgFrom := if p.stageOn then p.pgFrom else s.wall
    stageOn := p.stageOn || (p.lpAt.isNone && !p.resOpen) })

/-- A condition of Table 13.3 arises. -/
def execSupplyOutOfLimits (item : Nat) (s : State) : Out :=
  run (fun s =>
    if item = 8 then when_ (!s.mode.station && s.power.hvinOk) State.hvinFalls s
    else if item = 9 then when_ (s.mode.station && s.power.vauxSt) State.vauxFalls s
    else when_ (!s.unpowered && decide (1 ≤ item) && decide (item ≤ 10)
      && (!(decide (5 ≤ item) && decide (item ≤ 7)) || s.tierPresent (item - 4))) (fun s => s.supplyBad item) s) s

/-- A condition ends; HVIN and VAUX that return feed the stage again. -/
def execSupplyReturn (item : Nat) (s : State) : Out :=
  run (fun s =>
    if item = 8 then when_ (!s.mode.station) (fun s => s.stageRises false) s
    else if s.mode.mode = .ship then s
    else if item = 9 then s.stageRises true
    else s.updPower (fun p => { p with supply := p.supply.erase item })) s

/-- VAUX falls: from the station range, or out of the share range. -/
def execVauxLoss (s : State) : Out :=
  run (fun s => if s.power.vauxSt then s.vauxFalls else if s.power.vauxSh then s.shareEnds else s) s

/-- A tier that becomes powered after release is not measured (01 R29); the collector runs in DORMANT too. -/
def execTierPoweredAfterRelease (tier : Nat) (s : State) : Out :=
  run (when_ (s.tiersOn && decide (1 ≤ tier) && decide (tier ≤ 3) && !s.tierPresent tier) (fun s => s.supplyBad 10)) s

/-! ### VPWR, the keep island, the wake domain (R354–R356, R367, R368) -/

/-- VPWR has stayed below V_PF for t_PF: every domain but the keep island and the wake domain is reset. -/
def execVpwrFail (s : State) : Out :=
  run (when_ (s.power.vpwrGood && !s.unpowered) (fun s =>
    (s.resetTo 4 .keep).updPower (fun p => { p with vpwrGood := false }))) s

/-- VPWR below VRES + 50 mV: the keep island goes onto the reserve cell (01 R19). -/
def execKeepHandover (vpwrMv vresMv : Nat) (s : State) : Out :=
  run (when_ (!s.power.keepOnRes && !s.power.resOpen && s.mode.mode = .keep && decide (vpwrMv < vresMv + 50))
    (fun s => s.updPower (fun p => { p with keepOnRes := true, vresMv := vresMv }))) s

/-- The t_PG count restarts. -/
def execVpwrBelowPg (s : State) : Out :=
  run (when_ (!s.power.vpwrGood) (fun s => s.updPower (fun p => { p with pgFrom := s.wall }))) s

/-- VPWR has stayed above V_PG for t_PG (2.0 ms): the keep island returns to VPWR, the controller's reset ends. -/
def State.vpwrComesGood (s : State) : State :=
  let s := s.updPower (fun p => { p with vpwrGood := true, keepOnRes := false, goodAt := s.wall, nowMa := 0
                                         chg := if !p.retained || !p.en || p.chem = 0 then .off else if p.hold || p.ntc then .fault else .wait,
                                         onVaux := false, vinregAct := false
                                         contact := s.wall, contactDone := false })
  let s := if s.mode.cause = 4 then { s with mode := { s.mode with wakeSource := 5, wakePort := 0 } } else s
  ({ s with bist := { s.bist with goodAt := s.wall } }).setMode .bist

def execVpwrGood (s : State) : Out :=
  run (when_ (s.inMode [.keep, .ship, .bist] && !s.power.vpwrGood && s.power.stageOn && s.power.lpAt.isNone
      && decide (2 * ttMs ≤ s.since s.power.pgFrom)) State.vpwrComesGood) s

/-- VKEEP falls below V_KPOR: the keep island is lost, its next power-up is a KEEP power-on reset, unless another cause
of a cold reset is latched (14 Table 14.4). -/
def execKeepPowerOnReset (s : State) : Out :=
  run (when_ (!s.power.vpwrGood && s.inMode [.keep, .bist]) (fun s =>
    let c := if s.mode.cause = 2 ∨ s.mode.cause = 3 then s.mode.cause else 1
    (s.resetTo c s.mode.mode).updPower (fun p => { p with
      vpwrGood := false, lpAt := s.power.lpAt, stageOn := s.power.stageOn, resOpen := s.power.resOpen }))) s

/-- HVIN rises through V_HV_ON, or VAUX is applied, on an unpowered device: the stage starts. -/
def execPreRegulatorStart (vaux : Bool) (s : State) : Out :=
  run (when_ (s.inMode [.keep, .bist] && !s.power.vpwrGood && s.power.lpAt.isNone) (fun s => s.stageRises vaux)) s

/-- WAKE held for t_WK, or VAUX rising through V_AUX_ST, leaves SHIP: the reserve switch closes, the stage starts, and SHIP turns
into BIST at VPWR good (14 Table 14.3). A VAUX that was there at entry must first fall,
and a long press holds the switch and the stage off until t_LPO ends (R368). -/
def execShipWake (byWake : Bool) (s : State) : Out :=
  run (when_ (s.mode.mode = .ship && !s.power.stageOn && s.power.lpAt.isNone && (byWake || !s.power.vauxSt)) (fun s =>
    let s := (s.resetTo 2 .ship).updPower (fun p => { p with
      resOpen := false, stageOn := true, vpwrGood := false, vauxSt := p.vauxSt || !byWake, stageHv := p.stageHv && p.hvinOk })
    { s with mode := { s.mode with wakeSource := if byWake then 3 else 4 } })) s

/-- WAKE held low for t_LP, in any state. Of the modes of Table 14.3 the device takes BIST, which starts at VPWR good; without VPWR
it stays in KEEP or SHIP until then. -/
def execLongPress (s : State) : Out :=
  run (fun s => (s.resetTo 3 (if s.inMode [.keep, .ship] then s.mode.mode else .bist)).updPower (fun p => { p with
    resOpen := true, stageOn := false, vpwrGood := false, keepOnRes := false, lpAt := some s.wall })) s

/-- t_LPO ends: the reserve switch closes and power-up runs. -/
def execLongPressEnd (s : State) : Out :=
  run (fun s => match s.power.lpAt with
    | some t => if 1500 * ttMs ≤ s.since t then
        s.updPower (fun p => { p with resOpen := false, stageOn := p.hvinOk || p.vauxSt, lpAt := none, pgFrom := s.wall
                                      stageHv := p.hvinOk }) else s
    | none => s) s

end Sys2Proof.Machine
end

