-- ==== Sys2Proof/Machine/Lockin.lean ====
section
/-! DEFINITION. Lock-in demodulation in fixed point (03 R91, R92, R95, R97). The spec gives real numbers; sines and
cosines carry 40 fractional bits here and logarithms 30 (DESIGN CHOICE, notes/assumptions/25.md). -/

namespace Sys2Proof.Machine

/-- π with 60 fractional bits. -/
def piQ : Nat := 3622009729038561421

/-- Terms of a Taylor series: `t` the last term, `x2` the square of the angle, `k` the next factorial step. -/
def taylor (x2 : Int) : Nat → Int → Nat → Int
  | 0, _, _ => 0
  | n + 1, t, k => t + taylor x2 n (-(t * x2 / 2 ^ 60) / ((k + 1) * (k + 2) : Nat)) (k + 2)

/-- (cos, sin) of (π/4) r / m, 40 fractional bits. -/
def octantTrig (r m : Nat) : Int × Int :=
  let x : Int := (piQ * r / (4 * max 1 m) : Nat)
  let x2 := x * x / 2 ^ 60
  (roundDiv (taylor x2 12 (2 ^ 60) 0) (2 ^ 20), roundDiv (taylor x2 12 x 1) (2 ^ 20))

/-- (cos, sin) of 2π a / m. -/
def trig (a m : Nat) : Int × Int :=
  let a := a % max 1 m
  let o := 8 * a / max 1 m
  let r := 8 * a % max 1 m
  let (c, s) := octantTrig r m
  let (c', s') := octantTrig (m - r) m
  if o = 0 then (c, s) else if o = 1 then (s', c') else if o = 2 then (-s, c) else if o = 3 then (-c', s')
  else if o = 4 then (-c, -s) else if o = 5 then (-s', -c') else if o = 6 then (s, -c) else (c', -s')

/-- Phase of the output with index j in a window of cycles of m outputs: cos and sin of 2π (j + 3) / m. -/
def trigTable (m : Nat) : List (Int × Int) := (List.range m).map (fun i => trig i m)

/-- Sums x cos, x sin over samples (j, x). -/
def lockSum (tab : List (Int × Int)) (m : Nat) (xs : List (Nat × Int)) : Int × Int :=
  xs.foldl (fun acc p =>
    let t := tab.getD ((p.1 + 3) % max 1 m) (0, 0)
    (acc.1 + p.2 * t.1, acc.2 + p.2 * t.2)) (0, 0)

def sqNorm (p : Int × Int) : Nat := p.1.natAbs * p.1.natAbs + p.2.natAbs * p.2.natAbs

/-- Square root of a fraction, rounded to nearest. -/
def sqrtNear (a b : Nat) : Nat := (Nat.sqrt (4 * a / max 1 b) + 1) / 2

/-- Fraction bits of the binary logarithm of a mantissa with 60 fractional bits, in [1, 2). -/
def log2Frac : Nat → Nat → Nat → Nat
  | 0, _, acc => acc
  | n + 1, m, acc =>
    let q := m * m / 2 ^ 60
    if 2 ^ 61 ≤ q then log2Frac n (q / 2) (2 * acc + 1) else log2Frac n q (2 * acc)

/-- round(1,000 × log10(a / b)): hundredths of a decibel of a power ratio. -/
def centiDb (a b : Nat) : Int :=
  let q := a * 2 ^ 200 / max 1 b
  let k := Nat.log2 q
  let m := if 60 ≤ k then q / 2 ^ (k - 60) else q * 2 ^ (60 - k)
  let l : Int := ((k : Int) - 200) * 2 ^ 30 + (log2Frac 30 m 0 : Nat)
  roundDiv (l * 301029995664) (2 ^ 30 * 1000000000)

/-- What the lock-in makes of one cell: sums of the voltage and the current over the complete pairs, the sums of each
cycle of the voltage, and the number of pairs. -/
structure LockSums where
  v : Int × Int
  i : Int × Int
  cyc : List (Int × Int)
  n : Nat
deriving DecidableEq, Repr, Inhabited

/-- Σ |n S_m − S|² over the cycles. -/
def LockSums.spread (l : LockSums) : Nat :=
  let n : Int := l.cyc.length
  (l.cyc.map (fun c => sqNorm (n * c.1 - l.v.1, n * c.2 - l.v.2))).sum

/-- SNR in 0.01 dB; none where |V| or σ_V is 0, for which the spec states no number. -/
def LockSums.snr (l : LockSums) : Option Int :=
  let n := l.cyc.length
  if l.spread = 0 ∨ sqNorm l.v = 0 then none else some (centiDb (sqNorm l.v * (2 * n * (n - 1))) l.spread)

/-- A component of Z in 0.1 µΩ, saturating; `scale` turns the quotient of the raw sums into that unit. -/
def zPart (scale : Nat) (num : Int) (den : Nat) : Int := clampI (-2147483647) 2147483647 (roundDiv (scale * num) den)

def LockSums.re (l : LockSums) (scale : Nat) : Int := zPart scale (l.v.1 * l.i.1 + l.v.2 * l.i.2) (sqNorm l.i)
def LockSums.im (l : LockSums) (scale : Nat) : Int := zPart scale (l.v.1 * l.i.2 - l.v.2 * l.i.1) (sqNorm l.i)

/-- |I|² as a fraction, in units of (0.1 mA)²: the sums times 2 / n, times num / den. -/
def LockSums.ampSq (l : LockSums) (num den : Nat) : Nat × Nat :=
  (sqNorm l.i * (2 * num) * (2 * num), (max 1 l.n * 2 ^ 40 * max 1 den) * (max 1 l.n * 2 ^ 40 * max 1 den))

end Sys2Proof.Machine
end

