-- ==== Sys2Proof/Machine/Survey.lean ====
section
/-! DEFINITION. Impedance surveys (03): the plan, the runs, the stream outputs a run takes, the lock-in result, the end of
a survey and the baseline. -/

namespace Sys2Proof.Machine

/-! ### The plan (R79–R83) -/

def SurveyPar.f (p : SurveyPar) (k : Nat) : Nat := p.freq.getD k 0
def SurveyPar.pc (p : SurveyPar) (k : Nat) : Nat := periodOf (cornerFor (p.f k))
def SurveyPar.per (p : SurveyPar) (k : Nat) : Nat := pointPeriod (p.f k)
def SurveyPar.n (p : SurveyPar) (k : Nat) : Nat := pointCycles p.cycles (p.f k)

/-- The first multiple of m at or after t. -/
def multipleFrom (t m : Nat) : Nat := ceilDiv t (max 1 m) * m

/-- Start of a run of point k after time t, its window start, its window end and its own end (R82). -/
def SurveyPar.runStart (p : SurveyPar) (k t : Nat) : Nat := multipleFrom t (p.pc k)
def SurveyPar.winStart (p : SurveyPar) (k s : Nat) : Nat := s + p.per k + 3 * p.pc k
def SurveyPar.winEnd (p : SurveyPar) (k s : Nat) : Nat := p.winStart k s + p.n k * p.per k
def SurveyPar.runEnd (p : SurveyPar) (k s : Nat) : Nat := p.winEnd k s + 2 * p.pc k

/-- End of the last run of a plan that starts at t0. -/
def SurveyPar.planEnd (p : SurveyPar) (t0 : Nat) : Nat :=
  ((List.range p.points).flatMap (fun k => List.replicate (groupsOf p) k)).foldl
    (fun t k => p.runEnd k (p.runStart k t)) t0

/-! ### START (R77, R78, R83, R84, R86, R88) -/

/-- Twice the switch dissipation of group g over time, as a fraction in mW: the sum of (V / R_path)² × R_on. -/
def State.groupPower (s : State) (g k : Nat) : Nat × Nat :=
  ((s.selCells.filter (fun n => (n - 1) % g = k)).map s.govP).foldl fracAdd (0, 1)

/-- The device is the source of a RIPPLE survey. -/
def State.isSource (s : State) (p : SurveyPar) : Bool := p.ripple && s.ownPos p.source

/-- REASON of a refused start, 0 none; the order of the checks is the model's (DESIGN CHOICE, notes/assumptions/26.md). The largest
group of R84 is the one with the greatest sum (DEDUCED, notes/assumptions/74.md). -/
def State.surveyRefusal (s : State) (p : SurveyPar) (t0 : Nat) (run_ : Bool) : Nat :=
  let pubOff := !s.sweep.pubEn || !(if s.sweep.pubCh = 0 then s.sweep.par.en1 else s.sweep.par.en2)
  if s.mode.mode != .run then 1
  else if run_ && decide (t0 ≤ s.now) then 6
  else if !p.ripple && s.selCells.any (fun n => !(s.cell n).rPath.ok) then 5
  else if !p.ripple && (List.range (groupsOf p)).any (fun k => !fracLe (s.groupPower (groupsOf p) k) (2 * s.bal.limit)) then 2
  else if decide (25804800000 < p.planEnd t0 - t0) then 3
  else if s.isSource p && pubOff then 4
  else 0

/-- A start: refused with its REASON, or honoured. `scope` is that of the publications (R89). -/
def State.surveyBegin (s : State) (p : SurveyPar) (t0 : Nat) (run_ : Bool) (tid : Option Nat) (scope : Nat × Nat) :
    Nat × State :=
  let r := s.surveyRefusal p t0 run_
  if r != 0 then (stDenied, { s with survey := { s.survey with reason := r } })
  else
    let s := s.abandonStep
    let v := s.survey
    let s := { s with survey := { v with
      fn := .running, par := p, lat := { p with pubEn := s.sweep.pubEn, pubCh := s.sweep.pubCh }, t0 := t0, tid := tid
      scope := scope, point := 0, group := 0, last := 1, run := none, after := t0, exciteOn := false, toggles := 0
      outs := [], currents := [], locked := false, recs := [], outcome := 0, blocks := [], pubQ := []
      pubLost := false, jobs := [], closing := none, used := true } }
    (stOk, (s.setMode .survey).switches)

/-- T0 of a local start (R78). -/
def localT0 (now : Nat) : Nat := multipleFrom (now + 20480) 20480

/-- START in SURVEY.CTRL. A RIPPLE source that is started so publishes to its own subtree: no scope is named (DESIGN CHOICE,
notes/assumptions/96.md). -/
def startSurvey (tag : Nat) (setBaseline : Bool) (s : State) : Nat × State :=
  if s.survey.fn != .stopped then (stOk, s)
  else s.surveyBegin { s.survey.par with tag := tag, setBase := setBaseline } (localT0 s.now) false none (s.tree.pos, 0)

def execSurveyStart (tag : Nat) (setBaseline : Bool) (s : State) : Out := runReg (startSurvey tag setBaseline) s

/-! ### Baselines (R96–R99) -/

/-- Signed value of a word of the baseline area. -/
def State.baseI (s : State) (i : Nat) : Int := sgn 32 (s.survey.baseArea.getD i 0)

/-- Words of the area that a mask of cells takes: bytes 0x0A–0x0F. -/
def State.baseMask (s : State) : Nat := s.survey.baseArea.getD 2 0 / 65536 + 65536 * s.survey.baseArea.getD 3 0

/-- The baseline value of cell n at period p: a held, valid entry; of several points with the same P the first one (DESIGN CHOICE,
notes/assumptions/129.md). -/
def State.baseOf (s : State) (n p : Nat) : Option (Int × Int) :=
  let b := s.survey.baseArea
  if b.getD 0 0 = 0 ∨ !inMask s.baseMask n then none
  else match (List.range (min 10 (b.getD 2 0 % 256))).find? (fun j => b.getD (4 + j) 0 = p) with
    | none => none
    | some j =>
      let i := 14 + 96 * j + 2 * (n - 1)
      if s.baseI i = -2147483648 then none else some (s.baseI i, s.baseI (i + 1))

/-- round(10,000 (|Z| − |Z_b|) / |Z_b|), saturating; none where |Z_b| is 0. -/
def trendOf (z b : Int × Int) : Option Int :=
  if sqNorm b = 0 then none
  else some (clampI (-32767) 32767 ((sqrtNear (sqNorm z * 10000 * 10000) (sqNorm b) : Int) - 10000))

/-- The baseline area a complete survey leaves (R96, R98): points 0 to B − 1 of its plan, with the values of group 0. -/
def State.newBase (s : State) : List Nat :=
  let p := s.survey.lat
  let nb := min 10 p.points
  let m := s.sweep.par.mask
  [1, s.rtcS, nb + 256 * flag p.ripple 0 + 65536 * (m % 65536), m / 65536 % 2 ^ 32]
  ++ (List.range 10).map (fun b => if b < nb then p.per b else 0)
  ++ (List.range 10).flatMap (fun b => cellNums.flatMap (fun n =>
      match (if b < nb then s.survey.recs.find? (fun r => r.k = b) else none).bind (fun r => r.ents.find? (fun e => e.cell = n)) with
      | some e => [uns 32 e.re, if e.re = -2147483648 then 0x80000000 else uns 32 e.im]
      | none => [0x80000000, 0x80000000]))
  ++ List.replicate 49 0

/-- The area goes into its slot of the data flash, with its CRC-32C (R98). -/
def State.saveBase (s : State) : State :=
  { s with flash := { s.flash with
      dataArea := mwrite flashByte (s.flash.dataArea.filter (fun p => decide (p.1 < 0xF000) || decide (0x10000 ≤ p.1)))
        0xF000 (withCrc (wordsLe 4 s.survey.baseArea)) } }.eraseBegins .data

def baseSave (s : State) : Nat × State :=
  if s.survey.fn != .stopped then (stOk, s)
  else (stOk, s.saveBase)

def execBaseSave (s : State) : Out := runReg baseSave s

/-- SURVEY.STATUS.BASE. -/
def State.baseSource (s : State) : Nat := if s.survey.baseArea.getD 0 0 = 0 then 0 else s.survey.base

def stepBase (s : State) : State :=
  { s with survey := { s.survey with baseIndex := if s.survey.baseIndex = 1022 then 0 else s.survey.baseIndex + 1 } }

/-- A window read: the value, and the index moves; BUSY while SURVEY is not STOPPED. -/
def readBase (s : State) : Nat × Nat × State :=
  if s.survey.fn != .stopped then (stBusy, 0, s)
  else (stOk, s.survey.baseArea.getD s.survey.baseIndex 0, stepBase s)

def writeBase (v : Nat) (s : State) : Nat × State :=
  if s.survey.fn != .stopped then (stBusy, s)
  else if s.survey.baseIndex = 0 && decide (1 < v) then (stDenied, s)
  else
    let area := s.survey.baseArea.set s.survey.baseIndex (v % 2 ^ 32)
    (stOk, stepBase { s with survey := { s.survey with baseArea := area, base := 3 } })

def execBaseDataRead (s : State) : Out :=
  run (fun s =>
    if !s.reachable then s.answer stSilent
    else if s.mode.mode = .lockout then s.answer stDenied
    else
      let (st, v, t) := readBase s
      t.answer st v [v]) s

def execBaseDataWrite (v : Nat) (s : State) : Out := runReg (writeBase v) s

/-! ### The end of a survey (R94, R98, R101) -/

/-- The function is STOPPED and the device back in RUN. -/
def State.surveyOver (s : State) : State :=
  let s := { s with survey := { s.survey with fn := .stopped } }.resumeBal
  (when_ (s.mode.mode = .survey) (fun s => s.setMode .run) s).switches

/-- Complete: the baseline where asked, the block, then RUN. The block's BASE_AGE is that of the baseline then in force, its
TREND values those against the one before (DESIGN CHOICE, notes/assumptions/75.md). -/
def State.surveyComplete (s : State) : State :=
  let s := if s.survey.lat.setBase && groupsOf s.survey.lat = 1 then
      { s with survey := { s.survey with baseArea := s.newBase, base := 4 } }.saveBase
    else s
  (s.endSurvey 2 true .stopped).surveyOver

/-- The last run has ended: the survey is complete once its lock-in jobs are. -/
def State.surveyLast (s : State) : State :=
  if s.survey.jobs.isEmpty then s.surveyComplete
  else { s with survey := { s.survey with closing := some (2, true) } }.switches

/-- No lock-in job is left: what waited for them goes on. -/
def State.surveyClosed (s : State) : State :=
  match s.survey.closing with
  | some (2, _) => s.surveyComplete
  | some (o, d) => s.closeBlock o d
  | none => s

def stopSurvey (s : State) : Nat × State :=
  if s.survey.fn = .running then (stOk, s.endSurvey 3 true .stopping) else (stOk, s)

def execSurveyStop (s : State) : Out := runL (regOp stopSurvey) s

/-- The block of a stopped survey is in the granary. -/
def execSurveyStopped (s : State) : Out :=
  runCore (when_ (s.survey.fn = .stopping && s.survey.closing.isNone) State.surveyOver) s

/-! ### Runs (R82, R84, R103) -/

/-- The start of the run that comes next, where one does. -/
def State.nextRun (s : State) : Option Nat :=
  let v := s.survey
  if v.fn = .running && v.run.isNone && v.closing.isNone then some (v.lat.runStart v.point v.after) else none

def State.surveyRunStart (s : State) (st : Nat) : State :=
  let v := s.survey
  { s with
    survey := { v with run := some st, exciteOn := true, toggles := 0, outs := [], currents := [], locked := false, pubQ := []
                       pubNext := v.lat.winStart v.point st, pubLost := false }
    kept := { s.kept with survey := some (v.lat.tag, v.point, v.group, v.t0) } }.noteExcite.switches

def execSurveyRunStart (s : State) : Out :=
  runCore (fun s => match s.nextRun with
    | some st => if st ≤ s.now then s.surveyRunStart st else s
    | none => s) s

/-- The switches of the group change state every P / 2. -/
def State.toggle (s : State) : State :=
  { s with survey := { s.survey with toggles := s.survey.toggles + 1 } }.switches

def execExcitationToggle (s : State) : Out :=
  runCore (fun s => match s.survey.run with
    | some st =>
      let v := s.survey
      if !v.lat.ripple && decide (st + (v.toggles + 1) * (v.lat.per v.point / 2) ≤ s.now)
          && decide (st + (v.toggles + 1) * (v.lat.per v.point / 2) < v.lat.runEnd v.point st) then s.toggle else s
    | none => s) s

/-! ### Stream outputs (R37, R86, R89, R90) -/

/-- Stream code of a cell before compensation. -/
def State.streamUnc (s : State) (raw : RawCodes) (k : Nat) : Int :=
  if s.selected k then clampCell (raw.cells.getD (k - 1) 0) else (s.cell k).proof * 150

/-- The filtered switch state of a stream output of corner c with centre tap t. -/
def State.streamBbar (s : State) (raw : RawCodes) (c t k : Nat) : Nat :=
  s.filteredOf c t k (raw.bbar.getD (k - 1) 0) (s.sweep.par.blank = 0)

def State.streamAdj (s : State) (raw : RawCodes) (c t n : Nat) : Bool :=
  s.streamBbar raw c t (n - 1) != 0 || s.streamBbar raw c t n != 0 || s.streamBbar raw c t (n + 1) != 0

/-- Stream code of cell n, compensated where BALANCE_ADJ holds. -/
def State.streamCode (s : State) (raw : RawCodes) (c t n : Nat) : Int :=
  if s.streamAdj raw c t n then s.corrected (s.streamBbar raw c t) (s.streamUnc raw) n else s.streamUnc raw n

/-- Centre tap of the newest stream output of corner c. -/
def State.streamTap (s : State) (c : Nat) : Nat := (s.now - tgd c) / periodOf c * periodOf c

/-- The channel a source publishes. -/
def State.pubCode (s : State) (raw : RawCodes) : Int :=
  if s.survey.lat.pubCh = 0 then currentCode s.sweep.par 1 raw.is1 else currentCode s.sweep.par 2 raw.is2

def State.pubClamp (s : State) (raw : RawCodes) : Bool :=
  if s.survey.lat.pubCh = 0 then chanClamped s.sweep.par 1 raw.is1 else chanClamped s.sweep.par 2 raw.is2

/-- The queued outputs, of consecutive centre taps, leave in one frame (Table 3.3) to the subtree of the scope's top (08 R227). -/
def State.publish (s : State) : State :=
  let v := s.survey
  match v.pubQ with
  | [] => s
  | (t, _) :: _ =>
    let pl := le 2 v.lat.tag ++ le 1 v.point ++ le 1 (cornerFor (v.lat.f v.point)) ++ le 8 t ++ le 2 v.pubQ.length
      ++ le 2 (flag (v.pubQ.any (fun p => p.2.2)) 0 + flag v.pubLost 1) ++ wordsLe 4 (v.pubQ.map (fun p => uns 32 p.2.1))
    let f : Frame := { typ := 7, cls := 2, hasScope := true, dest := v.scope.1, src := s.tree.pos, depth := 255
                       tag := v.lat.tag, payload := pl }
    let s := { s with survey := { v with pubQ := [], pubLost := false } }
    if s.ownPos f.dest then (s.spread .self f).2 else s.sendTo f

/-- The source takes an output: what is queued leaves first where outputs between are lost (R89). -/
def State.publishOutput (s : State) (st t : Nat) (code : Int) (clamp : Bool) : State :=
  let s := if s.survey.pubNext < t then
      (let s := s.publish
       { s with survey := { s.survey with pubLost := true } })
    else s
  let v := s.survey
  let q := v.pubQ ++ [(t, code, clamp)]
  let s := { s with survey := { v with currents := v.currents ++ [(t, code, clamp)], pubQ := q
                                       pubNext := t + v.lat.pc v.point } }
  if 60 ≤ q.length || v.lat.winEnd v.point st ≤ t + v.lat.pc v.point then s.publish else s

/-! ### Lock-in jobs (R91) -/

/-- Every output of the run's window has its current (R90): always in BLEED and at the source of a RIPPLE survey. -/
def State.currentsIn (s : State) : Bool :=
  let v := s.survey
  !v.lat.ripple || s.isSource v.lat || v.outs.all (fun o => v.currents.any (fun c => c.1 = o.t))

/-- The last code of the run's window is available, half an output period after the window's end, and with it the currents. A
member still waits for them up to the end of the run (DESIGN CHOICE, notes/assumptions/97.md). -/
def State.lockinDue (s : State) : Option Nat :=
  let v := s.survey
  match v.run with
  | some st => if !v.locked && s.currentsIn && decide (v.lat.winEnd v.point st + v.lat.pc v.point / 2 ≤ s.now) then some st
    else none
  | none => none

/-- The run's lock-in is raised as a job, named by the run's start, under the survey's tag as its key (DESIGN CHOICE,
notes/assumptions/76.md). A device without selected cells that is not the source has none to run, and one without a working island
completes it as ABORTED (06 R154). -/
def State.lockinJob (s : State) (st : Nat) : State :=
  let v := s.survey
  let s := { s with survey := { v with locked := true } }
  if (s.selCells.isEmpty && !s.isSource v.lat) || s.working.isEmpty then s
  else
    let j : LockJob := { k := v.point, g := v.group, st := st, outs := v.outs, currents := v.currents }
    { s with survey := { s.survey with jobs := s.survey.jobs ++ [j] } }.raiseJob .lockin v.lat.tag st none

/-- The lock-in job of the run in progress, once it is due. -/
def State.lockinRaise (s : State) : State := match s.lockinDue with
  | none => s
  | some st => s.lockinJob st

/-- The lock-in job of a run that ends and whose currents have not all come. -/
def State.lockinLate (s : State) : State := match s.survey.run with
  | some st => if s.survey.locked then s else s.lockinJob st
  | none => s

/-- A stream output of the running point: the cells' outputs, and at the source the current it publishes. `unsettled` names
the cells whose code was lost with a discarded frame. -/
def State.surveyOutput (s : State) (c : Nat) (raw : RawCodes) (unsettled : List Nat) : State :=
  let v := s.survey
  match v.run with
  | none => s
  | some st =>
    let k := v.point
    let t := s.streamTap c
    let inWin := decide (v.lat.winStart k st ≤ t) && decide (t < v.lat.winEnd k st)
    if c != cornerFor (v.lat.f k) || !inWin || v.outs.any (fun o => o.t = t) then s
    else
      let adj := s.streamAdj raw c t
      let flags := cellNums.map (fun n => flag (cellClamped (raw.cells.getD (n - 1) 0)) 4 + flag (unsettled.contains n) 5
        + flag (s.openFlag n) 6 + flag (adj n) 7)
      let o : StreamOut := { t := t, cells := cellNums.map (s.streamCode raw c t), cur := s.pubCode raw
                             bbar := cellNums.map (s.streamBbar raw c t), flags := flags, temps := s.sweep.tierTemp }
      let s := { s with survey := { v with outs := v.outs ++ [o] } }
      (if s.isSource v.lat then s.publishOutput st t (s.pubCode raw) (s.pubClamp raw) else s).lockinRaise

/-- The currents that are new among those already held. -/
def addCurrents (old new : List (Nat × Int × Bool)) : List (Nat × Int × Bool) :=
  old ++ new.filter (fun q => !old.any (fun w => w.1 = q.1))

/-- A current-publication frame pairs with the member's own outputs by time stamp (R90): those of the run in progress, and those
of a run whose lock-in job has not left yet. -/
def State.takeCurrents (s : State) (pl : List Byte) : State :=
  let v := s.survey
  let c := at_ pl 3 1
  let k := at_ pl 2 1
  if v.fn != .running || !v.lat.ripple || at_ pl 0 2 != v.lat.tag || s.isSource v.lat then s
  else
    let m := min 60 (at_ pl 0xC 2)
    let clamp := bit (at_ pl 0xE 2) 0
    let new := (List.range m).map (fun i => (at_ pl 4 8 + i * periodOf c, sgn 32 (at_ pl (0x10 + 4 * i) 4), clamp))
    { s with survey := { v with
        currents := if k = v.point && v.run.isSome then addCurrents v.currents new else v.currents
        jobs := v.jobs.map (fun (j : LockJob) => if j.k = k then { j with currents := addCurrents j.currents new } else j) } }.lockinRaise

/-! ### The lock-in result of a run (R90–R95, R97) -/

/-- Samples of the window by index: voltage and current of the complete pairs of cell n. -/
def State.pairs (s : State) (q : LockJob) (w pc n : Nat) : List (Nat × Int × Int) :=
  let v := s.survey
  q.outs.filterMap (fun o =>
    let j := (o.t - w) / max 1 pc
    let x := o.cells.getD (n - 1) 0
    if v.lat.ripple then (q.currents.find? (fun c => c.1 = o.t)).map (fun c =>
      (j, x, if v.lat.chargePos then c.2.1 else -c.2.1))
    else some (j, x, -((o.bbar.getD (n - 1) 0 : Int) * x)))

/-- The sums of R91 over the pairs at hand: where some are missing, 2/N takes N as their number (DESIGN CHOICE,
notes/assumptions/130.md). -/
def lockSums (m nk : Nat) (ps : List (Nat × Int × Int)) : LockSums :=
  let tab := trigTable m
  { v := lockSum tab m (ps.map (fun p => (p.1, p.2.1)))
    i := lockSum tab m (ps.map (fun p => (p.1, p.2.2)))
    cyc := (List.range nk).map (fun c => lockSum tab m ((ps.filter (fun p => p.1 / max 1 m = c)).map (fun p => (p.1, p.2.1))))
    n := ps.length }

/-- Outputs of the window whose current is missing. -/
def State.missingCurrents (s : State) (q : LockJob) (total : Nat) : Nat :=
  if s.survey.lat.ripple then total - (q.currents.filter (fun c => q.outs.any (fun o => o.t = c.1))).length else 0

/-- Scale of Z and of |I| for cell n: R_path in BLEED, the shunt in RIPPLE. -/
def State.zScale (s : State) (n : Nat) : Nat :=
  if s.survey.lat.ripple then 10 * s.survey.lat.shunt else 10000 * 65536 * (s.cell n).rPath.v
def State.ampSq (s : State) (n : Nat) (l : LockSums) : Nat × Nat :=
  if s.survey.lat.ripple then l.ampSq 100000 s.survey.lat.shunt else l.ampSq 100 (65536 * (s.cell n).rPath.v)

/-- The entry of one cell, and the state: a free value is taken where the spec states no SNR, no TREND
or no mean temperature. -/
def State.surveyEntry (s : State) (q : LockJob) (n m nk w pc per total : Nat) : SurvEnt × LockSums × State :=
  let v := s.survey
  let l := lockSums m nk (s.pairs q w pc n)
  let miss := s.missingCurrents q total
  let fl := q.outs.foldl (fun a o => a ||| o.flags.getD (n - 1) 0) 0
  let clamp := bit fl 4 || (v.lat.ripple && q.currents.any (fun c => c.2.2))
  let invalid := clamp || bit fl 6 || decide (total < 10 * miss) || sqNorm l.i = 0
  let a := s.ampSq n l
  let lowI := decide (a.1 < (10 * v.lat.minMa) * (10 * v.lat.minMa) * a.2)
  let z := (l.re (s.zScale n), l.im (s.zScale n))
  let (snr, s) := match l.snr with
    | some x => (clampI (-32768) 32767 x, s)
    | none => (sgn 16 s.fresh, if invalid then s else s.took)
  let lowS := decide (snr < 100 * v.lat.minSnr)
  let base := s.baseOf n per
  let (tr, noBase, s) := match (if invalid then none else base) with
    | none => ((-32768 : Int), true, s)
    | some b => (match trendOf z b with
      | some t => (t, false, s)
      | none => (sgn 16 s.fresh, false, s.took))
  let temps := q.outs.filterMap (fun o => o.temps.getD (tierOf n - 1) none)
  let (temp, s) := if temps.isEmpty then (sgn 16 s.fresh, s.took) else (roundDiv (temps.foldl (· + ·) 0) temps.length, s)
  let flags := flag invalid 0 + flag lowS 1 + flag lowI 2 + flag (decide (0 < miss)) 3 + flag clamp 4 + flag (bit fl 5) 5
    + flag (bit fl 6) 6 + flag (bit fl 7) 7 + flag noBase 8
  let e : SurvEnt :=
    { cell := n, flags := flags, re := if invalid then -2147483648 else z.1, im := if invalid then -2147483648 else z.2
      snr := if invalid then -32768 else snr, temp := temp, trend := tr }
  (e, l, s)

/-- Cells of a run. -/
def State.runCells (s : State) (g : Nat) : List Nat :=
  let v := s.survey
  if v.lat.ripple then s.selCells else s.selCells.filter (fun n => (n - 1) % groupsOf v.lat = g)

/-- |I| of the run in 0.1 mA: the common current, or the mean over the run's cells. -/
def State.runAmp (s : State) (ls : List (Nat × LockSums)) : Nat :=
  let fine := ls.map (fun p => let a := s.ampSq p.1 p.2; sqrtNear (a.1 * 65536) a.2)
  if s.survey.lat.ripple then (fine.headD 0 + 128) / 256
  else (2 * fine.sum + 256 * ls.length) / (512 * max 1 ls.length)

/-- The record of a run. A BLEED run whose group holds no selected cell has no entries and no current to take a mean of: its
|I| is a free value (DESIGN CHOICE, notes/assumptions/77.md). -/
def State.lockin (s : State) (q : LockJob) : State :=
  let p := s.survey.lat
  let k := q.k
  let m := cyclesOutputs (p.f k)
  let w := p.winStart k q.st
  let total := p.n k * m
  let cells := s.runCells q.g
  let r := cells.foldl (fun (acc : List SurvEnt × List (Nat × LockSums) × State) n =>
    let (e, l, t) := acc.2.2.surveyEntry q n m (p.n k) w (p.pc k) (p.per k) total
    (acc.1 ++ [e], acc.2.1 ++ [(n, l)], t)) ([], [], s)
  let s := r.2.2
  let none_ := cells.isEmpty && !p.ripple
  let amp := if none_ then s.fresh
    else if cells.isEmpty then s.runAmp [(1, lockSums m (p.n k) (s.pairs q w (p.pc k) 1))] else s.runAmp r.2.1
  let s := if none_ then s.took else s
  let rec_ : PointRec :=
    { k := k, g := q.g, corner := cornerFor (p.f k), p := p.per k, n := p.n k
      gap := r.1.any (fun e => bit e.flags 3), amp := sat 0xFFFFFFFF amp, w := w, freq := p.f k, ents := r.1 }
  { s with survey := { s.survey with recs := s.survey.recs ++ [rec_] } }

/-- A lock-in job leaves: its record joins the block; a failed one leaves none (06 R160). -/
def State.lockinLeaves (s : State) (st : Nat) (failed : Bool) : State :=
  match s.survey.jobs.find? (fun j => j.st = st) with
  | none => s
  | some j =>
    let s := { s with survey := { s.survey with jobs := s.survey.jobs.erase j } }
    let s := if failed then s else s.lockin j
    if s.survey.jobs.isEmpty then s.surveyClosed else s

/-- The run ends: the excitation stops; the next run follows, or the survey is complete. -/
def State.surveyRunEnd (s : State) (e : Nat) : State :=
  let s := s.lockinLate.publish
  let v := s.survey
  let s := { s with survey := { v with run := none, exciteOn := false, after := e, outs := [], currents := [], pubQ := [] } }.noteExcite
  if v.group + 1 < groupsOf v.lat then { s with survey := { s.survey with group := v.group + 1 } }.switches
  else if v.point + 1 < v.lat.points then
    { s with survey := { s.survey with group := 0, point := v.point + 1 } }.switches
  else s.surveyLast

def execSurveyRunEnd (s : State) : Out :=
  runCoreL (fun s => match s.survey.run with
    | some st =>
      let e := s.survey.lat.runEnd s.survey.point st
      if e ≤ s.now then s.surveyRunEnd e else s
    | none => s) s

end Sys2Proof.Machine
end

