-- ==== Sys2Proof/Machine/Proof.lean ====
section
/-! DEFINITION. The proof path, its checks and tests, the resistance table and the lamplighter round (05). -/

namespace Sys2Proof.Machine

/-! ### Proof rounds (R123–R125, R128, R132, R144; 04 R113; 10 R293) -/

/-- A present tier whose tier channel works: no channel on the way to it has had its last three frames discarded (DEDUCED,
notes/assumptions/78.md). -/
def State.tierWorks (s : State) (t : Nat) : Bool :=
  s.tierPresent t && (List.range t).all (fun i => decide (s.sweep.discards.getD i 0 < 3))

/-- Whether proof rounds run: from release or entry to LOCKOUT, not in SHIP, KEEP and DORMANT (R124). -/
def State.roundsRun (s : State) : Bool := s.reachable

/-- The clock of the rounds: tree time, and while that stands the time of the crystal (DESIGN CHOICE, notes/assumptions/79.md). -/
def State.roundClock (s : State) : Nat := if s.clk.treeOn then s.now else s.wall

/-- A round begins at every multiple of 20,480 tt (R123). -/
def State.roundDue (s : State) : Bool := s.roundsRun && s.diag.roundAt != some (s.roundClock / 20480)

/-- The reading of a slot 16 to 18 of tier t has come in this round. -/
def State.slotCame (s : State) (t slot : Nat) : Bool := s.tierWorks t && !s.sweep.slotsLost.contains (t, slot)

/-- Slot 16: 8 readings in a row more than 6 mV off raise the drift (R128). -/
def State.refCheck (s : State) (t : Nat) (uv : Int) : State :=
  let bad := decide (6000 < uv.natAbs)
  let n := if bad then s.diag.refCnt.getD (t - 1) 0 + 1 else 0
  let drift := bad && (s.diag.refProof.getD (t - 1) false || decide (8 ≤ n))
  let new := { s with diag := { s.diag with refCnt := s.diag.refCnt.set (t - 1) (sat 8 n)
                                            refProof := s.diag.refProof.set (t - 1) drift } }
  let r := new.raiseLevel s 2 t
  if drift && !s.diag.refProof.getD (t - 1) false then r.detail 2 0 3 t else r

/-- The switch of cell n is found stuck closed (R132, R134): raised, excluded from balancing. -/
def State.foundStuck (s : State) (n : Nat) : State :=
  ((s.updCell n (fun c => { c with stuck := some (c.stuck.getD s.now), excluded := true })).raise 5 n).detail 5 n 6 (tierOf n)

/-- A mirror above 2 mA with the switch commanded open for 100 µs, 3 rounds in a row. -/
def State.mirrorCheck (s : State) (n : Nat) : State :=
  let c := s.cell n
  if !c.closed && decide (2048 ≤ s.since c.changed) && decide (2000 < c.mirror) then
    let k := c.mirCount + 1
    let s := s.updCell n (fun c => { c with mirCount := sat 3 k })
    if c.mirCount < 3 && k = 3 then s.foundStuck n else s
  else s.updCell n (fun c => { c with mirCount := 0 })

/-- Tier temperatures against 115 °C and 105 °C (04 R113); HOT clears only when every present tier gave a reading. -/
def State.thermal (s : State) (temps : List Int) : State :=
  let ts := (List.range 3).filter (fun t => s.slotCame (t + 1) 18)
  let hot := ts.any (fun t => decide (11500 < temps.getD t 0))
  let cold := (List.range s.ident.tiers).all (fun t => ts.contains t && decide (temps.getD t 0 < 10500))
  let item := ((ts.find? (fun t => decide (11500 < temps.getD t 0))).map (· + 1)).getD 0
  let new := { s with bal := { s.bal with hot := hot || (s.bal.hot && !cold) } }
  new.raiseLevel s 6 item

/-- The samples against the safety limits while SWEEP does not run (10 Table 10.3). -/
def State.roundLimits (s : State) (r : ProofRound) : State :=
  if !s.limitsActive || s.sweep.fn = .running then s
  else
    let before := s.reports
    let s := (s.selCells.filter (fun n => !r.lost.contains n)).foldl (fun s n => s.evalCell n (s.proofCode r n) false) s
    s.limitReport before (slotTt r.t (if 1 ≤ s.causeItem ∧ s.causeItem ≤ 48 then s.causeItem else 16))

/-- A 12-bit sample of the proof SAR (R122). -/
def proofSample (v : Nat) : Nat := sat 4095 v

/-- The samples and mirrors of a round, cell by cell: a lost one keeps the one before it. -/
def State.takeSamples (s : State) (p : ProofRead) (lost : List Nat) : State :=
  s.mapCells (fun n c => if lost.contains n then c else
    { c with proof := proofSample (p.samples.getD (n - 1) 0), mirror := p.mirrors.getD (n - 1) 0 })

/-- One round of the present tiers whose channel works. A sample or reading lost with a discarded frame is neither kept nor
evaluated. -/
def State.proofRound (s : State) (p : ProofRead) : State :=
  let t := s.now / 20480 * 20480
  let lost := cellNums.filter (fun n => s.sweep.proofLost.contains n || !s.tierWorks (tierOf n))
  let came (slot : Nat) := (List.range 3).filter (fun i => s.slotCame (i + 1) slot)
  let s := s.takeSamples p lost
  let r : ProofRound := { t := t, samples := s.cells.map CellSt.proof, lost := lost }
  let s := { s with
    diag := { s.diag with
      roundAt := some (s.roundClock / 20480), rounds := (r :: s.diag.rounds).take 256
      vreg := s.diag.vreg.mapIdx (fun i v => if (came 17).contains i then p.vreg.getD i 0 else v) }
    sweep := { s.sweep with
      proofLost := [], tierTemp := s.sweep.tierTemp.mapIdx (fun i v => if (came 18).contains i then some (p.temps.getD i 0) else v) } }
  let s := (cellNums.filter (fun n => !lost.contains n)).foldl (fun s n => s.mirrorCheck n) s
  let s := (came 16).foldl (fun s i => s.refCheck (i + 1) (p.refUv.getD i 0)) s
  let s := s.thermal p.temps
  let s := { s with sweep := { s.sweep with slotsLost := [] } }
  let s := if p.lost then (s.raise 25 9).detail 25 0 9 0 else s
  let s := s.roundLimits r
  s.switches.balanceDone

def execProofRound (r : ProofRead) (s : State) : Out := runConvL (when_ s.roundDue (fun s => s.proofRound r)) s

/-- A result of the reference cross-check of tier t: its distance from the factory ratio in 10⁻⁹ (R130). -/
def State.crossCheck (s : State) (t : Nat) (ppb : Int) : State :=
  let bad := decide (400000 < ppb.natAbs)
  let n := if bad then s.diag.witCnt.getD (t - 1) 0 + 1 else 0
  let drift := bad && (s.diag.refWit.getD (t - 1) false || decide (8 ≤ n))
  let new := { s with diag := { s.diag with witCnt := s.diag.witCnt.set (t - 1) (sat 8 n)
                                            refWit := s.diag.refWit.set (t - 1) drift } }
  let r := new.raiseLevel s 2 t
  if drift && !s.diag.refWit.getD (t - 1) false then r.detail 2 0 4 t else r

/-- The cross-check of tier t is due (R129): while SWEEP runs once for each sweep, but the one on which the tier's witness runs
the loopback, and otherwise every 100 ms. `count` is the number of the last sweep, `counted` how many there were. -/
def State.witnessDue (s : State) (t : Nat) : Bool :=
  s.roundsRun && s.tierWorks t &&
    (if s.sweep.fn = .running then
      s.loopTier s.sweep.count != some t && s.diag.witRec.getD (t - 1) none != some s.sweep.counted
        && decide (0 < s.sweep.outputs)
    else match s.diag.witAt.getD (t - 1) none with
      | some w => decide (100 * ttMs ≤ s.since w)
      | none => true)

/-- A cross-check of tier t runs: its wall time, and the sweep it belongs to. -/
def State.crossRun (s : State) (t : Nat) (ppb : Int) : State :=
  { s with diag := { s.diag with
    witAt := s.diag.witAt.set (t - 1) (some s.wall), witRec := s.diag.witRec.set (t - 1) (some s.sweep.counted) } }.crossCheck
    t ppb

def execWitnessCrossCheck (tier : Nat) (ppb : Int) (s : State) : Out :=
  runCore (when_ (s.witnessDue tier) (fun s => s.crossRun tier ppb)) s

/-! ### When a test step may start (R142) -/

/-- A step of `len` tt may start. -/
def State.gap (s : State) (len : Nat) : Bool :=
  s.survey.fn = .stopped && s.inMode [.quiet, .run, .commit, .degraded] && s.clearTo (s.now + len) && !s.noTests

/-- The tier whose switches and wires a step uses; 0 for a harness cell, which uses all. -/
def TestStep.tier : TestStep → Nat
  | .switch c _ => tierOf c
  | .wire k _ => tierOf k
  | .harness _ _ => 0
  | .rest t _ => t

/-- A step is over: a recovery whose time has come. -/
def TestStep.over (now : Nat) : TestStep → Bool
  | .rest _ e => decide (e ≤ now)
  | .switch _ _ => false
  | .wire _ _ => false
  | .harness _ _ => false

/-- No step of this tier, no harness cell and no recovery of this tier is in progress. -/
def State.tierFree (s : State) (t : Nat) : Bool :=
  !(s.diag.steps.any (fun x => (x.tier = t || x.tier = 0) && !x.over s.now))

/-- No step at all is in progress. -/
def State.allFree (s : State) : Bool := !(s.diag.steps.any (fun x => !x.over s.now))

/-- The start of a step. -/
def TestStep.since : TestStep → Nat
  | .switch _ st => st
  | .wire _ st => st
  | .harness _ st => st
  | .rest _ e => e

/-- A step starts; recoveries that are over go, and lost readings that no step in progress could have taken. -/
def State.startTest (s : State) (t : TestStep) : State :=
  let steps := s.diag.steps.filter (fun x => !x.over s.now)
  { s with diag := { s.diag with
      steps := steps ++ [t], readLost := s.diag.readLost.filter (fun p => steps.any (fun x => x.acts && decide (x.since ≤ p.2))) } }

/-- A diagnostic reading of tier t has been lost since tree time st. -/
def State.readingLost (s : State) (t st : Nat) : Bool := s.diag.readLost.any (fun p => p.1 = t && decide (st ≤ p.2))

/-- A pass of a test is due: none is complete yet, one is in progress or asked for, or the period has passed since the end of the
last one (DESIGN CHOICE, notes/assumptions/101.md). -/
def passDue (s : State) (now_ : Bool) (done : List Nat) (since period : Nat) (never : Bool) : Bool :=
  now_ || !done.isEmpty || never || decide (period ≤ s.since since)

/-! ### The switch on-test (R133) -/

/-- V_n of the on-test, in 10 µV. While SWEEP runs a cell without a new code of it keeps the one before, 0 where there was none, and
counts by that (DESIGN CHOICE, notes/assumptions/125.md). -/
def State.testV (s : State) (n : Nat) : Int :=
  if s.sweep.fn = .running then (s.cell n).raw else (s.cell n).proof * 150

/-- A cell is done; a complete pass is noted when every cell of the present tiers is. -/
def State.swDoneWith (s : State) (n : Nat) : State :=
  let done := n :: s.diag.swDone
  if s.presentCells.all done.contains then
    { s with diag := { s.diag with swDone := [], switchAt := some s.wall, swSince := s.wall, swNow := false
                                   ovrSwitch := false, swFault := false } }
  else { s with diag := { s.diag with swDone := done } }

def State.switchStep (s : State) (n : Nat) : State :=
  if s.testV n < 150000 then s.swDoneWith n
  else (s.startTest (.switch n s.now)).switches

def State.switchDue (s : State) (n : Nat) : Bool :=
  s.tierPresent (tierOf n) && s.diag.switchEn && s.gap 61440 && s.tierFree (tierOf n) && !s.diag.swDone.contains n
    && passDue s s.diag.swNow s.diag.swDone s.diag.swSince (s.diag.swPeriod * ttS) s.diag.switchAt.isNone

def execSwitchOnTestStep (cell : Nat) (s : State) : Out := runCore (when_ (s.switchDue cell) (fun s => s.switchStep cell)) s

/-- The entries a test writes, VALID set. -/
def State.writePath (s : State) (n path on : Nat) : State :=
  s.updCell n (fun c => { c with rPath := { v := path, ok := true }, rOn := { v := on, ok := true }, prevPath := path })

/-- FLT_BALANCE_SW by the on-test: the cell is excluded until the next START (04 R109). -/
def State.switchFault (s : State) (n : Nat) : State :=
  ((s.updCell n (fun c => { c with excluded := true })).raise 5 n).detail 5 n 7 (tierOf n)

/-- The outcome from the mirror current in µA and the switch voltage in µV. -/
def State.switchResult (s : State) (n ua uv : Nat) : State :=
  let v := (s.testV n).toNat
  if ua < 5000 then
    (s.switchFault n).updCell n (fun c => { c with rPath := Ent.none, rOn := Ent.none })
  else
    let path := sat 0xFFFFFF (roundDiv (v * 10000) ua).toNat
    let on := sat 0xFFFF (roundDiv (uv * 1000) ua).toNat
    let old := (s.cell n).prevPath
    if 3 * ua < uv then (s.switchFault n).writePath n path on
    else if old != 0 && decide (old < 10 * ((path : Int) - old).natAbs) then
      (({ s with diag := { s.diag with pathChange := true } }).ledger 0x0B n (old + path * 2 ^ 32)).writePath n path on
    else s.writePath n path on

/-- The start of the on-test of cell n, of open-wire test k and of harness cell k in progress. -/
def State.switchSince (s : State) (n : Nat) : Option Nat := s.diag.steps.findSome? (fun t => match t with
  | .switch c st => if c = n then some st else none
  | .wire _ _ => none
  | .harness _ _ => none
  | .rest _ _ => none)

def State.wireSince (s : State) (k : Nat) : Option Nat := s.diag.steps.findSome? (fun t => match t with
  | .wire c st => if c = k then some st else none
  | .switch _ _ => none
  | .harness _ _ => none
  | .rest _ _ => none)

def State.harnessSince (s : State) (k : Nat) : Option Nat := s.diag.steps.findSome? (fun t => match t with
  | .harness c st => if c = k then some st else none
  | .switch _ _ => none
  | .wire _ _ => none
  | .rest _ _ => none)

/-- A step that has begun and lasted `len` tt. -/
def State.lasted (s : State) (st : Option Nat) (len : Nat) : Bool := match st with
  | some a => decide (a + len ≤ s.now)
  | none => false

/-- The step ends with a recovery of its tier up to tree time e, or with none. -/
def State.endStep (s : State) (t : TestStep) (rest : Option TestStep) : State :=
  { s with diag := { s.diag with steps := s.diag.steps.filter (fun x => x != t) ++ rest.toList } }

/-- A step whose readings a discarded tier-channel frame took has no result and runs again (DEDUCED, notes/assumptions/123.md). -/
def State.switchEnd (s : State) (n ua uv : Nat) : State :=
  let st := (s.switchSince n).getD 0
  let after (s : State) := s.endStep (.switch n st) (some (.rest (tierOf n) (st + onTestTt + 20480)))
  if s.readingLost (tierOf n) st then ((after s).switches).balanceDone
  else ((((after (s.switchResult n ua uv))).swDoneWith n).switches).balanceDone

def execSwitchOnTestEnd (cell currentUa vswUv : Nat) (s : State) : Out :=
  runCore (when_ (s.lasted (s.switchSince cell) onTestTt) (fun s => s.switchEnd cell currentUa vswUv)) s

/-! ### Open wires (R135–R137) -/

def State.owDoneWith (s : State) (k : Nat) : State :=
  let done := k :: s.diag.owDone
  if s.selCells.all done.contains then
    { s with diag := { s.diag with owDone := [], owSince := s.wall, ovrOw := false, owFault := false } }
  else { s with diag := { s.diag with owDone := done } }

def State.wireDue (s : State) (k : Nat) : Bool :=
  s.selected k && s.diag.owEn && s.gap wireTt && s.tierFree (tierOf k) && !s.diag.owDone.contains k
    && passDue s false s.diag.owDone s.diag.owSince (s.diag.owPeriod * ttMs) (s.diag.owSince = 0)

def execOpenWireTestStep (k : Nat) (s : State) : Out :=
  runCore (when_ (s.wireDue k) (fun s => s.startTest (.wire k s.now))) s

/-- The wires a suspect test names (R136). -/
def State.namedWires (s : State) (k : Nat) (below above : Int) : List Nat :=
  let ws := (if 150000 < below then [k - 1] else []) ++ (if 150000 < above then [k] else [])
  if !ws.isEmpty then ws
  else if k = 1 then [0]
  else if s.selCells.getLast? = some k then [k]
  else []

/-- A wire is confirmed open: OPEN_WIRE on its cells, FLT_OPEN_WIRE, and their balance requests withdrawn. -/
def State.confirmWire (s : State) (j : Nat) : State :=
  if s.diag.openWires.contains j then s
  else
    let new := { s with diag := { s.diag with openWires := (s.diag.openWires ++ [j]).mergeSort (fun a b => decide (a ≤ b)) } }
    (new.raiseLevel s 3 j).detail 3 j 8 (if j = 0 then 1 else tierOf j)

/-- The tiers whose readings open-wire test k takes: those of cells k − 1, k and k + 1 (R135, R136). -/
def State.wireTiers (s : State) (k : Nat) : List Nat := ((s.below k).toList ++ [k] ++ (s.above k).toList).map tierOf

/-- A test whose readings a discarded tier-channel frame took has no result and runs again (DEDUCED, notes/assumptions/123.md). -/
def State.wireEnd (s : State) (k : Nat) (fall below above : Int) : State :=
  let st := (s.wireSince k).getD 0
  let gone := (s.wireTiers k).any (fun t => s.readingLost t st)
  let s := s.endStep (.wire k st) (some (.rest (tierOf k) (st + wireTt)))
  let prev := ((s.diag.suspects.find? (fun p => p.1 = k)).map Prod.snd).getD []
  let rest := s.diag.suspects.filter (fun p => p.1 != k)
  let s :=
    if gone then s
    else if fall ≤ 150000 then
      let open_ := s.diag.openWires.filter (fun j => j != k && j + 1 != k)
      ({ s with diag := { s.diag with suspects := rest, openWires := open_ } }).owDoneWith k
    else
      let ws := s.namedWires k below above
      let sure := ws.filter prev.contains
      let s := { s with diag := { s.diag with suspects := (k, ws) :: rest } }
      if sure.isEmpty then s else (sure.foldl (fun s j => s.confirmWire j) s).owDoneWith k
  s.switches.balanceDone

def execOpenWireTestEnd (k : Nat) (fallUv riseBelowUv riseAboveUv : Int) (s : State) : Out :=
  runCore (when_ (s.lasted (s.wireSince k) 20480) (fun s => s.wireEnd k fallUv riseBelowUv riseAboveUv)) s

/-! ### Harness wire resistance (R138–R140) -/

/-- The cells of a pass. -/
def State.harnessCells (s : State) : List Nat := s.selCells.filter (fun n => (s.cell n).rPath.ok)

/-- The next start of a harness cell: as in 03 R82 at a whole multiple of the output period. -/
def State.harnessFrom (s : State) : Nat := multipleFrom s.now (periodOf 4)

def State.harnessDue (s : State) (k : Nat) : Bool :=
  s.harnessCells.contains k && s.diag.harnessEn && s.gap (s.harnessFrom - s.now + harnessTt) && s.allFree && !s.diag.haDone.contains k
    && passDue s s.diag.harnessOn s.diag.haDone s.diag.haSince (s.diag.haPeriod * ttS) s.diag.harnessAt.isNone

/-- Harness cell k begins: its switch follows the square wave, every other is held open (R138). -/
def State.harnessStart (s : State) (k : Nat) : State :=
  let s := s.startTest (.harness k s.harnessFrom)
  { s with diag := { s.diag with harnessOn := true, hOuts := [] } }.switches

/-- A stream output at corner 4 in the window of harness cell k, begun at st: w = st + P + 3 p, 16 cycles of 16 outputs, of the
codes of cells k − 1, k and k + 1 before compensation (DEDUCED, notes/assumptions/80.md) and of the filtered state of switch k. -/
def State.harnessOutput (s : State) (k st : Nat) (codes : List Int) (bbar : Nat) : State :=
  let t := s.streamTap 4
  let w := st + harnessP + 3 * periodOf 4
  if decide (t < w) || decide (w + 16 * harnessP ≤ t) || s.diag.hOuts.any (fun o => o.1 = t) then s
  else { s with diag := { s.diag with hOuts := s.diag.hOuts ++ [(t, codes.map clampCell, s.filteredOf 4 t k bbar false)] } }

/-- A response over the current of the toggled cell, in µΩ: minus the in-phase quotient, since the current of R86 charges the
cell when it is positive and bleed current discharges it (DEDUCED, notes/assumptions/80.md). -/
def State.harnessEst (s : State) (st k n : Nat) : Option Int :=
  if !s.selected n then none
  else
    let w := st + harnessP + 3 * periodOf 4
    let ps := s.diag.hOuts.map (fun o =>
      ((o.1 - w) / periodOf 4, o.2.1.getD (n + 1 - k) 0, -((o.2.2 : Int) * o.2.1.getD 1 0)))
    let l := lockSums 16 16 ps
    if sqNorm l.i = 0 then none else some (roundDiv (-(l.re (10000 * 65536 * (s.cell k).rPath.v))) 10)

/-- Harness cell k, begun at st, ends: its three responses become estimates, −a_k / Î_k the negative of its own. -/
def State.harnessEnd (s : State) (k st : Nat) : State :=
  let e := (k, s.harnessEst st k (k - 1), s.harnessEst st k (k + 1), (s.harnessEst st k k).map (fun x => -x))
  let s := s.endStep (.harness k st) none
  { s with diag := { s.diag with haDone := k :: s.diag.haDone, ests := e :: s.diag.ests, hOuts := [] } }.switches

/-- HARNESS_CELL: cell k begins in a gap, its stream outputs follow, and 5,672,960 tt after its begin it ends. The operands
are a stream output: the codes of cells k − 1, k and k + 1, and the filtered state of switch k where it changed in the window. -/
def execHarnessCell (k : Nat) (below own above : Int) (bbar : Nat) (s : State) : Out :=
  runCore (fun s =>
    match s.harnessSince k with
    | some st => if st + harnessTt ≤ s.now then s.harnessEnd k st else s.harnessOutput k st [below, own, above] bbar
    | none => when_ (s.harnessDue k) (fun s => s.harnessStart k) s) s

/-- Estimates of wire j from toggling cell j and cell j + 1. -/
def State.estOf (s : State) (j : Nat) : Option Int :=
  let a := (s.diag.ests.find? (fun e => e.1 = j)).bind (fun e => e.2.2.1)
  let b := (s.diag.ests.find? (fun e => e.1 = j + 1)).bind (fun e => e.2.1)
  match a, b with
  | some x, some y => some (roundDiv (x + y) 2)
  | some x, none => some x
  | none, y => y

/-- The wire's value of a complete pass; the outer wires come from cells 1 and 48 (R139). -/
def State.wireOf (s : State) (j : Nat) : Option Int :=
  let own (k : Nat) := (s.diag.ests.find? (fun e => e.1 = k)).bind (fun e => e.2.2.2)
  if j = 0 then (match own 1, s.estOf 1 with
    | some a, some r => some (a - r)
    | _, _ => none)
  else if j = 48 then (match own 48, s.estOf 47 with
    | some a, some r => some (a - r)
    | _, _ => none)
  else s.estOf j

/-- The table of wires a pass leaves: a wire without an estimate keeps its entry. -/
def State.passTable (s : State) : List Ent :=
  s.diag.rw.mapIdx (fun j e => match s.wireOf j with
    | some r => { v := (clampI 0 0xFFFFF r).toNat, ok := true }
    | none => e)

/-- A complete pass writes the table. HARNESS_HIGH is judged here alone: a word that the host writes or a snapshot restores does
not move it (DESIGN CHOICE, notes/assumptions/102.md). -/
def State.harnessPass (s : State) : State :=
  let tab := s.passTable
  let high := (List.range 49).filter (fun j => (s.wireOf j).isSome && decide (100000 < (tab.getD j Ent.none).v))
  let s := { s with diag := { s.diag with rw := tab, harnessAt := some s.wall, haSince := s.wall, harnessOn := false
                                          haDone := [], ests := [], ovrHarness := false
                                          harnessHigh := tab.any (fun e => e.ok && decide (100000 < e.v)) } }
  high.foldl (fun s j => s.ledger 0x0C j (tab.getD j Ent.none).v) s

def State.passComplete (s : State) : Bool :=
  s.diag.harnessOn && !s.diag.haDone.isEmpty && s.harnessCells.all s.diag.haDone.contains

def execHarnessPassComplete (s : State) : Out := runCore (when_ s.passComplete State.harnessPass) s

/-! ### Overdue tests and passes on demand (R144, R149) -/

/-- Period and time since the last complete pass of the check: 8 open wire, 7 on-test, any other the harness check. -/
def State.overdueAge (s : State) (check : Nat) : Nat × Nat :=
  if check = 8 then (s.diag.owPeriod * ttMs, s.since s.diag.owSince)
  else if check = 7 then (s.diag.swPeriod * ttS, s.since s.diag.swSince)
  else (s.diag.haPeriod * ttS, s.since s.diag.haSince)

def State.ovr (s : State) (check : Nat) : Bool :=
  if check = 8 then s.diag.ovrOw else if check = 7 then s.diag.ovrSwitch else s.diag.ovrHarness
def State.testEn (s : State) (check : Nat) : Bool :=
  if check = 8 then s.diag.owEn else if check = 7 then s.diag.switchEn else s.diag.harnessEn

def State.setOvr (s : State) (check : Nat) : State :=
  if check = 8 then { s with diag := { s.diag with ovrOw := true } }
  else if check = 7 then { s with diag := { s.diag with ovrSwitch := true } }
  else { s with diag := { s.diag with ovrHarness := true } }

/-- (It runs on a station-mounted device too, which has no cells: DESIGN CHOICE, notes/assumptions/127.md.) Twice the period: the OVERDUE bit and the ledger entry, whose ITEM for the harness check is a free value (no CHECK
code names it); four times: FLT_RUNTIME_TEST of the open-wire test and the on-test. -/
def State.testOverdue (s : State) (check : Nat) : State :=
  let (p, age) := s.overdueAge check
  let named := check = 7 || check = 8
  let s1 := if decide (2 * p ≤ age) && !s.ovr check then
      (if named then (s.setOvr check).ledger 0x0D check 0 else ((s.setOvr check).ledger 0x0D (s.fresh % 16) 0).took)
    else s
  if named && decide (4 * p ≤ age) && !(if check = 8 then s1.diag.owFault else s1.diag.swFault) then
    let new := if check = 8 then { s1 with diag := { s1.diag with owFault := true } }
      else { s1 with diag := { s1.diag with swFault := true } }
    (new.detail 25 0 check 0).raiseLevel s1 25 check
  else s1

def execTestOverdue (check : Nat) (s : State) : Out :=
  runCore (when_ (s.reachable && s.testEn check) (fun s => s.testOverdue check)) s

/-- HARNESS_NOW: a pass starts anew; a disabled check runs none. -/
def harnessNow (s : State) : Nat × State :=
  (stOk, when_ s.diag.harnessEn (fun s => { s with diag := { s.diag with harnessOn := true, haDone := [], ests := [] } }) s)

def switchNow (s : State) : Nat × State :=
  (stOk, when_ s.diag.switchEn (fun s => { s with diag := { s.diag with swNow := true, swDone := [] } }) s)

def execHarnessNow (s : State) : Out := runReg harnessNow s
def execSwitchNow (s : State) : Out := runReg switchNow s

/-! ### The resistance table (R150, R151) -/

def State.tableWord (s : State) (i : Nat) : Nat :=
  if i < 49 then entWord (s.diag.rw.getD i Ent.none)
  else if 64 ≤ i ∧ i ≤ 111 then entWord (s.cell (i - 63)).rPath
  else if 128 ≤ i ∧ i ≤ 175 then entWord (s.cell (i - 127)).rOn
  else 0

def stepTable (s : State) : State := { s with diag := { s.diag with index := (s.diag.index + 1) % 256 } }

/-- The word at INDEX; on a station-mounted device it reads VALID 0 (17 R442). -/
def readTable (s : State) : Nat × State :=
  (if s.mode.station then s.tableWord s.diag.index % 2 ^ 31 else s.tableWord s.diag.index, stepTable s)

def writeTable (v : Nat) (s : State) : Nat × State :=
  let i := s.diag.index
  let ok := bit v 31
  if s.sweep.fn != .stopped || s.bal.fn != .stopped || s.survey.fn != .stopped then (stBusy, s)
  else if i < 49 then
    (stOk, stepTable { s with diag := { s.diag with rw := s.diag.rw.set i { v := v % 2 ^ 20, ok := ok }
                                                    harnessAt := some s.wall } })
  else if 64 ≤ i ∧ i ≤ 111 then
    let p := v % 2 ^ 24
    (stOk, stepTable (s.updCell (i - 63) (fun c => { c with rPath := { v := p, ok := ok }
                                                            prevPath := if ok then p else c.prevPath })))
  else if 128 ≤ i ∧ i ≤ 175 then
    (stOk, stepTable (s.updCell (i - 127) (fun c => { c with rOn := { v := v % 2 ^ 16, ok := ok } })))
  else (stDenied, s)

def execTableDataRead (s : State) : Out := runWindow readTable s
def execTableDataWrite (v : Nat) (s : State) : Out := runReg (writeTable v) s

/-! ### The lamplighter round (R146–R148, 14 R387) -/

/-- Input i of a round, cells 1–48 and 64 + k for Tk, sampled again every 20 µs: the further values it read. -/
def againOf (again : List (Nat × List Nat)) (i : Nat) : List Nat :=
  ((again.find? (fun p => p.1 = i)).map Prod.snd).getD []

/-- A violation confirmed by DEBOUNCE consecutive samples, counting the first. -/
def confirmed (n first : Nat) (more : List Nat) (viol : Nat → Bool) : Bool :=
  viol first && decide (n ≤ more.length + 1) && (more.take (n - 1)).all viol

def ovViol (b : SafBlock) (v : Nat) : Bool := decide (100 * b.ov ≤ 150 * v)
def uvViol (b : SafBlock) (v : Nat) : Bool := b.uv != 0 && decide (150 * v ≤ 100 * b.uv)
def otViol (b : SafBlock) (v : Nat) : Bool := decide (v ≤ b.ot % 65536)

/-- A lamp limit in mV against a sample; 0 is disabled. It holds for every cell of the present tiers, selected or not (DESIGN
CHOICE, notes/assumptions/103.md). -/
def State.lampViol (s : State) (v : Nat) : Bool :=
  (s.mode.lampOv != 0 && decide (100 * s.mode.lampOv ≤ 150 * v)) || (s.mode.lampUv != 0 && decide (150 * v ≤ 100 * s.mode.lampUv))

/-- The confirmed safety violations of a round: (item, cause bits). -/
def State.lampSafetyHits (s : State) (samples aux : List Nat) (again : List (Nat × List Nat)) : List (Nat × Nat) :=
  let b := s.safety.block
  if !s.enrolled then []
  else
    s.presentCells.filterMap (fun n =>
      let v := samples.getD (n - 1) 0
      if !s.selected n then none
      else if confirmed b.debounce v (againOf again n) (ovViol b) then some (n, 1)
      else if confirmed b.debounce v (againOf again n) (uvViol b) then some (n, 2) else none)
    ++ (List.range 16).filterMap (fun k =>
      if s.sweep.par.auxDiv != 0 && s.otInput k && confirmed b.debounce (aux.getD k 0) (againOf again (64 + k)) (otViol b)
      then some (64 + k, 4) else none)

/-- The wake tone with the one SAFETY frame of a round behind it, to the first valid supervisor (07 R206; DESIGN CHOICE,
notes/assumptions/81.md). -/
def State.lampFrame (s : State) (item cause : Nat) : State :=
  match s.supervisors with
  | sup :: _ =>
    let (c, sync, s) := s.nextSup sup
    let (cb, s) := s.crierBit s.tree.curUp
    let s := s.updPort s.tree.curUp (fun q => { q with cnt := { q.cnt with tx := sat 0xFFFFFFFF (q.cnt.tx + 1) } })
    s.emit (.tone s.tree.curUp (some (cb, safetyFrame s sup c sync 2 cause item 0xFFFFFFFF)))
  | [] => s.emit (.tone s.tree.curUp none)

/-- MODE.LAMP_INTERVAL in RTC ticks, to the nearest (14 Table 14.8). -/
def State.lampTicks (s : State) : Nat := max 1 ((s.mode.lampInterval * 32768 + 500) / 1000)

/-- The last multiple of the interval that the RTC has reached. -/
def State.lampMultiple (s : State) : Nat := s.clk.rtc / s.lampTicks * s.lampTicks

/-- A round is due in DORMANT at every multiple of the interval that the RTC has reached since the last round, or since DORMANT
was entered (R146, 14 R383). -/
def State.lampDue (s : State) : Bool := s.mode.mode = .dormant && decide (s.mode.lampAt < s.lampMultiple)

/-- One round. A sample lost with a discarded tier-channel frame is not evaluated (01 R15). -/
def State.lampRound (s : State) (samples aux : List Nat) (again : List (Nat × List Nat)) : State :=
  let lost := s.sweep.proofLost
  let s := { s with mode := { s.mode with lampAt := s.lampMultiple }
                    sweep := { s.sweep with
                      proofLost := [], slotsLost := []
                      auxSeen := if s.sweep.par.auxDiv = 0 then s.sweep.auxSeen else s.sweep.auxSeen.map (fun _ => s.wall) } }
  let hits := (s.lampSafetyHits samples aux again).filter (fun h => !lost.contains h.1)
  let lamp := s.presentCells.find? (fun n => !lost.contains n && s.lampViol (samples.getD (n - 1) 0))
  let wake (s : State) (item : Nat) (saf : Bool) : State :=
    { s with mode := { s.mode with wakeSource := 2, lampItem := item, lampSafety := saf } }
  match hits with
  | (i, _) :: _ =>
    let cause := [1, 2, 4].foldl (fun a b => if hits.any (fun h => h.2 = b) then a + b else a) 16
    (wake s i true).lampFrame i cause
  | [] => match lamp with
    | some n => (wake s n false).emit (.tone s.tree.curUp none)
    | none => s

def execLamplighterRound (samples aux : List Nat) (again : List (Nat × List Nat)) (s : State) : Out :=
  runCore (when_ s.lampDue (fun s => s.lampRound samples aux again)) s

end Sys2Proof.Machine
end

