-- ==== Sys2Proof/Machine/Glean.lean ====
section
/-! DEFINITION. Gleaners, jobs and harvests (06 R152–R170), the clock monitor (11 R313), which takes a failed island out of
use, and exposures (06 R172–R176) with the stream path that feeds them. -/

namespace Sys2Proof.Machine

/-! ### Jobs on their way (R153–R158) -/

/-- A job request; a device without a working island completes it as ABORTED (R154). -/
def State.requestJob (s : State) (kind : JobKind) (key : Nat) : State :=
  if s.working.isEmpty then s.answer stAborted 0 [] [] else s.raiseJob kind key 0 none

def execJobAdmission (kind : JobKind) (key : Nat) (s : State) : Out :=
  run (when_ s.reachable (fun s => s.requestJob kind key)) s

/-- Gleaner g takes job j off the deque of gleaner h; a take from another gleaner is counted. -/
def State.takeFrom (s : State) (g h : Nat) (j : Job) : State :=
  let s := s.updGleaner h (fun q => { q with deque := q.deque.drop 1 })
  let s := s.updGleaner g (fun q => { q with running := some j })
  let s := { s with dbg := { s.dbg with passJob := if s.dbg.passJob = some j.adm then none else s.dbg.passJob } }
  (if h = g then s else { s with glean := { s.glean with gleans := sat 0xFFFF (s.glean.gleans + 1) } }).admitAll

/-- An idle, working gleaner takes the oldest job of the longest deque; a comparator of TYPE 0 halts before that, once for the job
(16 R426). -/
def State.take (s : State) (g : Nat) : State :=
  if !s.islandWorks (g / 4) || (s.gleaner g).running.isSome || !decide (g < 16) then s
  else match s.longest with
    | none => s
    | some h => match (s.gleaner h).deque with
      | [] => s
      | j :: _ => match (if s.dbg.passJob = some j.adm then none else s.breakAt 0 j.tag false) with
        | none => s.takeFrom g h j
        | some k =>
          let t := s.breakHit k
          if t.mode.mode = .halted then { t with dbg := { t.dbg with passJob := some j.adm } } else t.takeFrom g h j

/-- In HALTED no gleaner starts a job (R153). -/
def execGlean (g : Nat) (s : State) : Out := run (when_ (s.mode.mode != .halted && s.reachable) (fun s => s.take g)) s

/-- The jobs of an island go to the head of the admission queue in order of admission and are placed (R154, R158). -/
def State.moveJobs (s : State) (i : Nat) (andRunning : Bool) : State :=
  let mine := (List.range 4).map (fun k => 4 * i + k)
  let js := mine.flatMap (fun g => (if andRunning then (s.gleaner g).running.toList else []) ++ (s.gleaner g).deque)
  let js := js.mergeSort (fun a b => decide (a.adm ≤ b.adm))
  let s := mine.foldl (fun s g => s.updGleaner g (fun q =>
    { q with running := if andRunning then none else q.running, deque := [] })) s
  let held := s.glean.waiting.filter (fun w => w.slot.isSome)
  let rest := s.glean.waiting.filter (fun w => w.slot.isNone)
  let moved := js.map (fun (j : Job) => ({ kind := j.kind, key := j.key, tag := j.tag, slot := some j.slot, adm := j.adm, owes := none } : JobWait))
  { s with glean := { s.glean with
      waiting := (held ++ moved).mergeSort (fun a b => decide (a.adm ≤ b.adm)) ++ rest } }.admitAll

/-- A failed island leaves use and its jobs are restarted or moved (R154). -/
def State.islandFail (s : State) (i : Nat) : State :=
  if !bit s.glean.islandOk i then s
  else { s with glean := { s.glean with islandOk := s.glean.islandOk - 2 ^ i } }.moveJobs i true

/-- A disabled island whose running jobs have ended leaves use (R179). -/
def State.islandLeaves (s : State) (i : Nat) : State :=
  let busy := (List.range 4).any (fun k => (s.gleaner (4 * i + k)).running.isSome)
  if decide (i < 4) && bit s.glean.inUse i && !bit s.glean.islandEn i && !busy then
    { s with glean := { s.glean with inUse := s.glean.inUse - 2 ^ i } }.moveJobs i false
  else s

def execIslandDisable (i : Nat) (s : State) : Out := run (fun s => s.islandLeaves i) s

/-! ### The clock monitor (11 R313, Table 11.1) -/

/-- The expected minimum and the failing count of a monitored clock. -/
def clockLimits (b : Nat) : Option (Nat × Nat) :=
  if b = 0 then some (17809, 5120) else if b = 1 then some (109, 32) else if b = 2 then some (524, 131)
  else if b = 3 then some (16000, 4000) else if b = 4 then some (250000, 62500)
  else if 8 ≤ b ∧ b ≤ 11 then some (180000, 50000) else none

/-- What a failed clock does beside its mark. -/
def State.clockEffect (s : State) (b : Nat) : State :=
  if b = 0 then { s with clk := { s.clk with xtalOn := false } }
  else if b = 2 then { s with kept := { s.kept with rtcBroken := true } }
  else if b = 3 then s.outputsOff
  else if b = 4 then { s with host := { s.host with refclk := false } }
  else if 8 ≤ b ∧ b ≤ 11 then s.islandFail (b - 8)
  else s

def State.clockWindow (s : State) (b count : Nat) : State :=
  match clockLimits b with
  | none => s
  | some (good, bad) =>
    if count < bad then
      let s1 := if bit s.clocks b then s else { s with clocks := s.clocks + 2 ^ b }
      (s1.raiseLevel s 16 b).clockEffect b
    else if good ≤ count then
      -- the host clock comes from REFCLKP/REFCLKN (01 Table of clocks): a good count is the clock running (09 R254)
      let s := if b = 4 && !s.host.refclk then { s with host := { s.host with refclk := true } }.trainPcie else s
      if !bit s.clocks b then s
      else
        let s := { s with clocks := s.clocks - 2 ^ b }
        if b = 0 then { s with clk := { s.clk with xtalOn := true } } else s
    else s

/-- The monitor works from SETUP on, which arms it (12 Table 12.1), the windows that the crystal counts while it runs; the host clock is monitored on a ROOT or ROOT-STANDBY while PERST_N
is deasserted. -/
def State.monitors (s : State) (b : Nat) : Bool :=
  (s.awake || (s.mode.mode = .bist && s.bist.running && decide (2 ≤ s.bist.cur.step))) && (b = 0 || s.crystalRuns) && (b != 4 || (s.hasHost && s.host.perst))

def execClockMonitorWindow (bit count : Nat) (s : State) : Out :=
  runL (when_ (s.monitors bit) (fun s => s.clockWindow bit count)) s

/-! ### Member jobs (R162, R166, R167) -/

/-- The record before r among those held (Table 6.3). -/
def prevRec (rs : List Rec) (r : Rec) : Option Rec := rs.find? (fun q => (q.sweep + 1) % 2 ^ 32 = r.sweep)

/-- Items of a program's source less those SKIP drops, with the items PREVIOUS compares with, TIME and SELECT; none where
the record is not held. HELD takes every held record: PREVIOUS then compares with the records before them taken together, and TIME
and SELECT are 0 (DESIGN CHOICE, notes/assumptions/131.md). -/
def State.sourceItems (s : State) (p : Prog) : Option (List Item × List Item × Nat × Nat) :=
  let get (r : Rec) := (recItems p.field r).filter (fun i => !skips p.skip i)
  let prev (rs : List Rec) (r : Rec) := match prevRec rs r with
    | some q => get q
    | none => []
  if p.source = 0 then
    match s.sweep.live.getLast? with
    | some r => some (get r, prev s.sweep.live r, r.t, r.sweep)
    | none => some ([], [], 0, 0)
  else if p.source = 1 then
    (s.sweep.live.find? (fun r => r.sweep = p.select)).map (fun r => (get r, prev s.sweep.live r, r.t, r.sweep))
  else if p.source = 2 then
    if s.survey.blocks.isEmpty then some ([], [], 0, 0)
    else
      let es := (s.survey.recs.filter (fun r => r.k = p.select % 64)).flatMap PointRec.ents
      let l := (es.map (entItem s.tree.pos p.field)).mergeSort itemLe
      some (l.filter (fun i => !skips p.skip i), [], s.survey.t0, p.select % 64)
  else
    some (s.tree.heldArea.flatMap get, s.tree.heldArea.flatMap (prev (s.sweep.live ++ s.tree.heldArea)), 0, 0)

/-- The program compares with the record before (Table 6.3). -/
def progPrevious (p : Prog) : Bool := (memberSteps p).any (fun t => t.op = 3 && t.mode = 1)

/-- The records that a program reads. -/
def State.inputRecs (s : State) (p : Prog) : List Rec :=
  let prev (rs : List Rec) (r : Rec) := if progPrevious p then (prevRec rs r).toList else []
  let with_ (rs : List Rec) (o : Option Rec) := match o with
    | some r => r :: prev rs r
    | none => []
  if p.source = 0 then with_ s.sweep.live s.sweep.live.getLast?
  else if p.source = 1 then with_ s.sweep.live (s.sweep.live.find? (fun r => r.sweep = p.select))
  else if p.source = 2 then []
  else s.tree.heldArea.flatMap (fun r => r :: prev (s.sweep.live ++ s.tree.heldArea) r)

/-- Records whose CRC does not match are discarded wherever the device holds them, and FLT_GRANARY_ECC is raised (02 R69). -/
def State.discardRecs (s : State) (rs : List Rec) : State :=
  if rs.isEmpty then s
  else { s with sweep := { s.sweep with live := s.sweep.live.filter (fun r => !rs.contains r) }
                tree := { s.tree with heldArea := s.tree.heldArea.filter (fun r => !rs.contains r) } }.raise 12 0

/-- What a member contributes: partial, list or gather; a device without the named record is missing, NO_RECORD. -/
def State.memberResult (s : State) (p : Prog) : Contribution × State :=
  let pos := s.tree.pos
  match s.sourceItems p with
  | none => ({ noContribution with missing := [(pos, 3)] }, s)
  | some (l, prev, t, sel) =>
    let (out, part, s) := s.runSteps prev (memberSteps p) (l.mergeSort itemLe)
    let any_ := !out.isEmpty || (match part with
      | some q => decide (0 < q.count)
      | none => false)
    let gather := progCollects p
    ({ noContribution with
        answers := [(pos, 0)], part := part, list := if gather then out else out.take 16384, gather := gather
        isList := part.isNone, members := if any_ then 1 else 0, time := t, select := sel
        cut := !gather && decide (16384 < out.length) }, s)

/-- A member query is accepted: its job is raised under the transaction's order key. A device without a working island
answers ABORTED (R154). -/
def State.acceptQuery (s : State) (tag : Nat) (port : Option Nat) (req : Req) (pos depth : Nat)
    (owes : Option (Nat × Nat × Nat × Nat)) : State :=
  if s.working.isEmpty then (s.payCredits owes).contribute tag none (answerOf s.tree.pos stAborted 0) 0 req pos depth
  else
    { s with glean := { s.glean with members := s.glean.members ++ [(tag, port, req, pos, depth)] } }.raiseJob .member tag tag owes

/-- The device's own part of a query is missing, with a reason the spec does not name (R160). -/
def State.missingPart (s : State) (ps : List Nat) : Contribution × State :=
  ({ noContribution with missing := ps.map (fun q => (q, s.freeReason)) }, s.took)

/-- The result of a member job leaves. A failed job, and one with an input record whose CRC does not match, leaves the device
missing. -/
def State.memberLeaves (s : State) (tag : Nat) (failed : Bool) : State :=
  match s.glean.members.find? (fun m => m.1 = tag) with
  | none => s
  | some m =>
    let s := { s with glean := { s.glean with members := s.glean.members.erase m } }
    match m.2.2.1 with
    | .query p col =>
      let bad := (s.inputRecs p).filter (fun r => !r.intact)
      let s := s.discardRecs bad
      let (c, s) := if failed || !bad.isEmpty then s.missingPart [s.tree.pos] else s.memberResult p
      s.contribute tag none c 0 (.query p col) m.2.2.2.1 m.2.2.2.2
    | _ => s

/-! ### Queries of legacy records (07 R212) -/

/-- A contribution of the legacy segment: a contributor of its own in a harvest, the answer itself without one. -/
def State.legacyGive (s : State) (tag src : Nat) (c : Contribution) (req : Req) : State :=
  let port : Option Nat := match s.harvestOf tag with
    | some h => if h.kids.any (fun k => k.port = some 1) then some 1 else none
    | none => none
  s.contribute tag port c src req s.tree.pos 0

/-- Job tags of the segment's queries stand beyond the 16-bit TAGs. -/
def legacyTag (tag : Nat) : Nat := tag + 65536

/-- A query of KG1200 records is a member job of the hub's gleaners, ABORTED where no island works (R154). -/
def State.acceptLegacy (s : State) (tag src : Nat) (req : Req) (ps : List Nat) : State :=
  if s.working.isEmpty then
    s.legacyGive tag src { noContribution with answers := ps.map (fun q => (q, stAborted)) } req
  else { s with glean := { s.glean with legacyJobs := s.glean.legacyJobs ++ [(tag, src, req, ps)] } }.raiseJob .member tag
    (legacyTag tag) none

/-- The part of one KG1200: the program over its records. A record whose CRC does not match is discarded and leaves the KG1200
missing (R160, 02 R69). -/
def State.legacyQuery (s : State) (p : Prog) (acc : Contribution) (pos : Nat) : Contribution × State :=
  let rs := s.legacy.records.filter (fun r => fld r.idword 17 0 = pos)
  let t := { s with sweep := { s.sweep with live := rs }, survey := { s.survey with blocks := [] }
                    tree := { s.tree with pos := pos, heldArea := [] } }
  let bad := (t.inputRecs p).filter (fun r => !r.intact)
  if bad.isEmpty then
    let r := t.memberResult p
    (combine acc r.1, { s with free := r.2.free })
  else
    let s := { s with legacy := { s.legacy with records := s.legacy.records.filter (fun r => !bad.contains r) } }.raise 12 0
    let (c, s) := s.missingPart [pos]
    (combine acc c, s)

def State.legacyLeaves (s : State) (tag : Nat) (failed : Bool) : State :=
  match s.glean.legacyJobs.find? (fun m => legacyTag m.1 = tag) with
  | none => s
  | some m =>
    let s := { s with glean := { s.glean with legacyJobs := s.glean.legacyJobs.erase m } }
    match m.2.2.1 with
    | .query p col =>
      let (c, s) := if failed then s.missingPart m.2.2.2
        else m.2.2.2.foldl (fun acc q => acc.2.legacyQuery p acc.1 q) (noContribution, s)
      s.legacyGive m.1 m.2.1 c (.query p col)
    | _ => s

/-! ### Exposure segments (R174–R176) -/

/-- Zigzag code of a difference. -/
def zigzag (d : Int) : Nat := if 0 ≤ d then (2 * d).toNat else (-2 * d - 1).toNat

def bitLen (n : Nat) : Nat := if n = 0 then 0 else Nat.log2 n + 1

/-- Values in w bits each, least significant bit first, padded to a whole byte. -/
def packBits (w : Nat) (zs : List Nat) : List Byte :=
  le (ceilDiv (w * zs.length) 8) ((zs.mapIdx (fun i z => z * 2 ^ (w * i))).sum)

/-- Blocks of 16 differences. -/
def deltaBlocks : Nat → List Nat → List Byte
  | 0, _ => []
  | n + 1, zs =>
    if zs.isEmpty then []
    else
      let b := zs.take 16
      let w := bitLen (b.foldl max 0)
      le 1 w ++ packBits w b ++ deltaBlocks n (zs.drop 16)

/-- One channel series (R175). -/
def deltaChannel (xs : List Int) : List Byte :=
  match xs with
  | [] => []
  | x :: _ =>
    let zs := (xs.zip (xs.drop 1)).map (fun p => zigzag (p.2 - p.1))
    le 4 (uns 32 x) ++ deltaBlocks (zs.length + 1) zs

def sampleBytes (x : Sample) : List Byte :=
  (List.range 48).flatMap (fun k => le 3 (uns 24 (x.cells.getD k 0))) ++ le 4 (uns 32 x.is1) ++ le 4 (uns 32 x.is2)

/-- Output period of the armed exposure. -/
def State.expoPc (s : State) : Nat := periodOf s.expo.plan.corner

/-- First and last centre tap of the capture window. -/
def State.expoFirst (s : State) (trip : Nat) : Nat := trip - s.expo.plan.pre * s.expoPc
def State.expoLast (s : State) (trip : Nat) : Nat := trip + (s.expo.plan.n - 1 - s.expo.plan.pre) * s.expoPc

/-- The samples of the window the ring still holds. -/
def State.expoSamples (s : State) : List Sample :=
  match s.expo.trip with
  | none => []
  | some t => s.expo.ring.filter (fun x => decide (s.expoFirst t ≤ x.t) && decide (x.t ≤ s.expoLast t))

/-- Sample data: raw, or DELTA over each selected cell and each enabled current. -/
def State.expoData (s : State) (xs : List Sample) : List Byte :=
  if !bit s.expo.plan.options 0 then xs.flatMap sampleBytes
  else
    s.selCells.flatMap (fun n => deltaChannel (xs.map (fun x => x.cells.getD (n - 1) 0)))
    ++ (if s.sweep.par.en1 then deltaChannel (xs.map Sample.is1) else [])
    ++ (if s.sweep.par.en2 then deltaChannel (xs.map Sample.is2) else [])

/-- The segment of Table 6.8; `trip` and `first` are its two times. -/
def State.segmentBytes (s : State) (xs : List Sample) (noTrig : Bool) (trip first : Nat) : List Byte :=
  let e := s.expo
  let d := s.expoData xs
  let any_ (b : Nat) := xs.any (fun x => bit x.flags b)
  withCrc (le 4 (put s.tree.pos 0 18 + put s.mode.mode.code 18 4 + put 3 24 8) ++ le 2 e.tag
    ++ le 2 (flag (bit e.plan.options 0) 0 + flag noTrig 1 + flag e.conflict 2 + flag e.own 3 + flag (any_ 0) 4
        + flag (any_ 1) 5 + flag (any_ 2) 6)
    ++ le 8 trip ++ le 8 first ++ le 2 xs.length ++ le 2 (e.plan.n - xs.length) ++ le 1 e.plan.corner
    ++ le 1 (flag s.sweep.par.en1 0 + flag s.sweep.par.en2 1) ++ le 6 s.sweep.par.mask ++ le 4 d.length
    ++ List.replicate 24 0 ++ d)

/-- A segment goes to the ROOT as BULK frames; the ROOT's own goes to its transaction, and its area is free. -/
def State.deliverSegment (s : State) (bs : List Byte) : State :=
  let s := { s with expo := { s.expo with state := .delivering, segment := bs } }
  if s.isRoot then
    let s := s.blockIn s.expo.tag s.tree.pos (segmentMark bs) bs
    { s with expo := { s.expo with state := .idle, ring := [], segment := [] } }
  else s.sendBytes 3 s.expo.tag bs

/-- The frozen window becomes a segment; one without samples has T_FIRST = T_TRIP (DESIGN CHOICE, notes/assumptions/133.md). -/
def State.buildSegment (s : State) : State :=
  let xs := s.expoSamples
  let trip := s.expo.trip.getD 0
  s.deliverSegment (s.segmentBytes xs false trip ((xs.head?.map (fun (x : Sample) => x.t)).getD trip))

/-- The exposure is lost: its area is free, and the device is missing for its transaction (R160). -/
def State.loseExposure (s : State) : State :=
  let tag := s.expo.tag
  let (c, s) := s.missingPart [s.tree.pos]
  s.discardExposure.contribute tag none c 0 .nop s.tree.pos 0

/-- The exposure is frozen and its segment is not built yet. -/
def State.deltaPending (s : State) : Bool := s.expo.state = .delivering && s.expo.segment.isEmpty

/-! ### CHECK jobs (11 R331) -/


/-- Bytes of an area when the job reads them (09 Table 9.9): 0 host memory of the ROOT, as given, 1 and 2 the code banks, 3 the data
area, 4 the granary, whose open bytes are as given. -/
def State.areaBytes (s : State) (area offset length : Nat) (bytes : List Byte) : List Byte :=
  let given (k : Nat) : Byte := bytes.getD k 0
  (List.range length).map (fun k =>
    let a := offset + k
    if area = 1 then mget flashByte (s.bank s.flash.active) a
    else if area = 2 then mget flashByte (s.bank s.inactive) a
    else if area = 3 then BitVec.ofNat 8 (s.dataWord (a / 4 * 4) / 2 ^ (8 * (a % 4)))
    else if area = 4 then (s.granaryByte a).getD (given k)
    else given k)

/-- The job reads and feeds its bytes, closes the unit and answers with RESULT. An uncorrectable flash word ends it with CHECK_FAIL
(16 R408), a granary error leaves the device missing (06 R160); either leaves the unit ABANDONED (DESIGN CHOICE,
notes/assumptions/52.md). -/
def State.checkLeaves (s : State) (tag : Nat) (failed : Bool) : State :=
  match s.glean.members.find? (fun m => m.1 = tag) with
  | none => s
  | some m =>
    let s := { s with glean := { s.glean with members := s.glean.members.erase m } }
    match m.2.2.1 with
    | .checkRun unit area _ offset length _ bytes err =>
      let s := if 1 ≤ area && area ≤ 3 then s.flashErr area err
        else if area = 4 && err = .uncorrectable then s.raise 12 (offset / 0x10000) else s
      let ended := s.updChk unit (fun c => { c with state := .stopped, job := false, outcome := 5 })
      if failed || (area = 4 && err = .uncorrectable) then
        let (c, s) := ended.missingPart [s.tree.pos]
        s.contribute tag none c 0 m.2.2.1 s.tree.pos 0
      else if err = .uncorrectable && area != 0 then ended.respond (some tag) stCheckFail (s.chk unit).result
      else
        let c := (s.chk unit).feed (s.areaBytes area offset length bytes)
        let o := c.judge c.final
        let s := s.updChk unit (fun _ => { c with state := .stopped, job := false, result := c.final, outcome := o })
        let s := if o = 1 then s else s.raise 17 unit
        s.respond (some tag) (if o = 1 then stOk else stCheckFail) c.final
    | _ => s

/-! ### Held records as FORWARD jobs (R165, 08 R237) -/

/-- A held record at the ROOT: it waits for EVENT_POOL and the event ring, or is discarded and counted (09 R278); one whose CRC
does not match is discarded (02 R69). -/
def State.acceptHeld (s : State) (pos : Nat) (bytes : List Byte) : State :=
  if at_ bytes 252 4 != crc32c (bytes.take 252) then s.raise 12 0
  else if s.host.eventEn then { s with host := { s.host with heldWait := s.host.heldWait ++ [(pos, bytes)] } }.tellHeld
  else { s with host := { s.host with drops := sat 0xFFFFFFFF (s.host.drops + 1), eventCid := (s.host.eventCid + 1) % 65536 } }

/-- The held records become FORWARD jobs, oldest first, and the held area is cleared. Without a working island they stay
(DESIGN CHOICE, notes/assumptions/83.md). -/
def State.deliverHeld (s : State) : State :=
  if s.working.isEmpty then s
  else
    let rs := s.tree.heldArea
    rs.foldl (fun s r =>
      let (tag, s) := s.unsolTag
      s.raiseForward tag 0 (.record r))
      { s with tree := { s.tree with heldArea := [] } }

/-- The DATA frame of a held record. -/
def heldFrame (s : State) (tag : Nat) (r : Rec) : Frame :=
  { typ := 7, cls := 2, hasScope := false, dest := 0, src := s.tree.pos, depth := 0, tag := tag, payload := sweepBytes r }

/-- The FORWARD job sends what it holds, unchanged; a failed one, or a record whose CRC does not match, sends nothing. -/
def State.forwardLeaves (s : State) (tag : Nat) (failed : Bool) : State :=
  match s.glean.forwards.find? (fun m => m.1 = tag) with
  | none => s
  | some m =>
    let s := { s with glean := { s.glean with forwards := s.glean.forwards.erase m } }
    if failed then s
    else match m.2 with
      | .record r =>
        if !r.intact then s.raise 12 0
        else if s.isRoot then s.acceptHeld s.tree.pos (sweepBytes r)
        else s.sendTo (heldFrame s tag r)
      | .result fs => fs.foldl State.sendTo s

/-- The next hop has granted credits for what a FORWARD job holds. -/
def State.forwardGranted (s : State) (tag : Nat) : Bool :=
  match s.glean.forwards.find? (fun m => m.1 = tag) with
  | none => true
  | some m => (match m.2 with
    | .record r => s.granted (heldFrame s tag r)
    | .result fs => fs.head?.all s.granted)

/-! ### Finishing jobs (R159, R160) -/

/-- What a job's result does as it leaves the reorder buffer. -/
def State.jobLeaves (s : State) (f : Finished) : State :=
  match f.job.kind with
  | .member => if f.job.tag < 65536 then s.memberLeaves f.job.tag f.failed else s.legacyLeaves f.job.tag f.failed
  | .collector => s.collectorLeaves f.job.tag f.failed
  | .lockin => s.lockinLeaves f.job.tag f.failed
  | .check => s.checkLeaves f.job.tag f.failed
  | .delta => if !s.deltaPending then s else if f.failed then s.loseExposure else s.buildSegment
  | .harvest => s.stepLeaves f.job.tag f.failed
  | .forward => s.forwardLeaves f.job.tag f.failed

/-- Whether an earlier job with the same key has not left yet. The steps of a harvest are no jobs of their own. -/
def State.keyBlocked (s : State) (j : Job) : Bool :=
  let before (k : Job) : Bool := k.key = j.key && decide (k.adm < j.adm) && k.kind != .harvest
  s.glean.gleaners.any (fun g => g.running.any before || g.deque.any before)
    || s.glean.waiting.any (fun w => w.slot.isSome && w.key = j.key && decide (w.adm < j.adm) && w.kind != .harvest)
    || s.glean.finished.any (fun f => before f.job)

/-- A finished result may leave: its key's turn has come, and what it sends has room or credits (R165, R177). -/
def State.mayLeave (s : State) (f : Finished) : Bool :=
  !s.keyBlocked f.job && (match f.job.kind with
    | .forward => s.forwardGranted f.job.tag
    | .member => s.outRoom
    | .collector => s.outRoom
    | _ => true)

/-- Results that may leave, leave, in order of admission; then harvests that waited for room close. The
reorder buffer and delivery are the sequencer's, so that in HALTED nothing leaves (16 R425). -/
def State.release (s : State) : State :=
  if s.mode.mode = .halted then s
  else
  let go (s : State) (_ : Nat) : State :=
    match (s.glean.finished.mergeSort (fun a b => decide (a.job.adm ≤ b.job.adm))).find? s.mayLeave with
    | none => s
    | some f => ({ s with glean := { s.glean with finished := s.glean.finished.erase f } }.jobLeaves f).admitAll
  let s := (List.range s.glean.finished.length).foldl go s
  (s.glean.harvests.map Harvest.tag).foldl State.closeHarvest s

/-- The job that was stepped leaves, alone (16 R425). -/
def State.releaseStepped (s : State) : State :=
  match s.glean.finished.getLast? with
  | some f => if s.mayLeave f then { s with glean := { s.glean with finished := s.glean.finished.erase f } }.jobLeaves f else s
  | none => s

/-- A command that may free room: what can leave leaves, and everything that can go goes. -/
def runG (f : State → State) (s : State) : Out := runL (fun s => (f s).flush.release) s

/-- A command of the core that may raise jobs. -/
def runCoreG (f : State → State) (s : State) : Out := runCoreL (fun s => (f s).flush.release) s

/-- A gleaner finishes its job. An unreadable input fails it and raises FLT_GRANARY_ECC; the record of a member that could not
be read is discarded (02 R69). The step of a harvest gives its part to the harvest at once. -/
def State.finishJob (s : State) (g : Nat) (badBank : Option Nat) : State :=
  match (s.gleaner g).running with
  | none => s
  | some j =>
    let s := s.updGleaner g (fun q => { q with running := none })
    let s := match badBank with
      | some b => s.raise 12 b
      | none => s
    if j.kind = .harvest then (s.stepLeaves j.tag badBank.isSome).admitAll
    else { s with glean := { s.glean with finished := s.glean.finished ++ [Finished.mk j badBank.isSome] } }

def execJobFinish (g : Nat) (badBank : Option Nat) (s : State) : Out := runCoreG (fun s => (s.finishJob g badBank).release) s

/-- LOCKIN_COMPLETE: the lock-in of a run whose window has ended is raised, and a gleaner that runs a lock-in job ends it (03
R91). -/
def State.lockinComplete (s : State) : State :=
  let s := s.lockinRaise
  match (List.range 16).find? (fun g => (s.gleaner g).running.any (fun j => j.kind = .lockin)) with
  | some g => (s.finishJob g none).release
  | none => s

def execLockinComplete (s : State) : Out := runCoreG State.lockinComplete s

/-! ### Harvest timers (R170) -/

/-- Contributors of a harvest whose timer has reached T_RESP are missing. -/
def State.harvestTimeout (s : State) (tag : Nat) : State :=
  (s.updHarvest tag (fun h => { h with kids := h.kids.map (fun k =>
      if !k.settled && decide (h.tResp * ttMs ≤ s.since k.since) then { k with lost := true } else k) })).closeHarvest tag

def execHarvestContributorTimeout (tid : Nat) (s : State) : Out := runCoreL (fun s => s.harvestTimeout tid) s

/-- A PENDING frame: the spec lays out no payload (DESIGN CHOICE, notes/assumptions/28.md). -/
def State.sendPending (s : State) (tag dest : Nat) : State :=
  s.sendTo { typ := 6, cls := 1, hasScope := false, dest := dest, src := s.tree.pos, depth := 0, tag := tag, payload := [] }

def State.harvestPending (s : State) (tag : Nat) : State :=
  match s.harvestOf tag with
  | none => s
  | some h =>
    if h.up.isNone || s.since h.lastPend < h.tResp * ttMs / 4 then s
    else (s.updHarvest tag (fun h => { h with lastPend := s.wall })).sendPending tag h.src

def execHarvestPendingTimer (tid : Nat) (s : State) : Out := runCoreL (fun s => s.harvestPending tid) s

/-! ### Exposures (R172–R174) -/

/-- An exposure is armed. A STROBE trigger names its T_trip at once: the first multiple of p_c at or after T_x. -/
def State.armExposure (s : State) (tag : Nat) (plan : Plan) (pos depth : Nat) : State :=
  let trip := if plan.trigger = 0 then some (multipleFrom plan.time (periodOf plan.corner)) else none
  { s with expo := { state := .armed, tag := tag, done := 0, plan := plan, pos := pos, depth := depth, ring := [], trip := trip
                     own := false, conflict := false, segment := [], used := true } }

/-- A plan whose N, PRE and modes are listed. -/
def planValid (p : Plan) : Bool :=
  decide (16 ≤ p.n) && decide (p.n ≤ 8192) && decide (p.pre ≤ p.n - 1) && decide (p.corner ≤ 7) && decide (p.trigger ≤ 3)
    && (p.trigger != 3 || decide (p.channel ≤ 1))

/-- CAPTURING from T_trip on. -/
def State.expoCapture (s : State) : State :=
  match s.expo.trip with
  | some t => if s.expo.state = .armed && decide (t ≤ s.now) then { s with expo := { s.expo with state := .capturing } } else s
  | none => s

/-- A stream output goes into the ring of an armed exposure. The stream path takes the ISENSE parameters as they are written, also
while SWEEP is STOPPED (DESIGN CHOICE, notes/assumptions/95.md). -/
def State.expoOutput (s : State) (c : Nat) (raw : RawCodes) (unsettled : List Nat) : State :=
  let e := s.expo
  let t := s.streamTap c
  let stale := match e.ring.getLast? with
    | some x => decide (t ≤ x.t)
    | none => false
  let done_ := match e.trip with
    | some tr => (match e.ring.getLast? with
      | some x => decide (s.expoLast tr ≤ x.t)
      | none => false)
    | none => false
  if !(e.state = .armed || e.state = .capturing) || c != e.plan.corner || stale || done_ then s
  else
    let is1 := currentCode s.sweep.par 1 raw.is1
    let is2 := currentCode s.sweep.par 2 raw.is2
    let clamp := s.selCells.any (fun n => cellClamped (raw.cells.getD (n - 1) 0)) || chanClamped s.sweep.par 1 raw.is1
      || chanClamped s.sweep.par 2 raw.is2
    let x : Sample :=
      { t := t, cells := cellNums.map (fun n => if s.selected n then s.streamCode raw c t n else -8388608)
        is1 := is1, is2 := is2
        flags := flag clamp 0 + flag (s.selCells.any unsettled.contains) 1 + flag (s.selCells.any (s.streamAdj raw c t)) 2 }
    { s with expo := { e with ring := (e.ring ++ [x]).drop (e.ring.length + 1 - e.plan.n), done := sat 0xFFFF (e.done + 1) } }.expoCapture

/-- An output of the stream path: to a survey run and the source's publication, to an armed exposure.
`unsettled` names the cells whose code was lost with a discarded frame. -/
def execStreamOutput (corner : Nat) (raw : RawCodes) (unsettled : List Nat) (s : State) : Out :=
  runL (when_ (s.reachable && decide (tgd corner ≤ s.now))
    (fun s => (s.surveyOutput corner raw unsettled).expoOutput corner raw unsettled)) s

/-- A sample meets the plan's threshold. -/
def State.meets (s : State) (x : Sample) : Bool :=
  let p := s.expo.plan
  if p.trigger = 1 then s.selCells.any (fun n => decide (p.level < x.cells.getD (n - 1) 0))
  else if p.trigger = 2 then s.selCells.any (fun n => decide (x.cells.getD (n - 1) 0 < p.level))
  else if p.trigger = 3 then
    (if p.channel = 0 then s.sweep.par.en1 && decide (p.level < (x.is1.natAbs : Int))
     else s.sweep.par.en2 && decide (p.level < (x.is2.natAbs : Int)))
  else false

/-- A TRIP frame to the exposure's scope. -/
def State.sendTrip (s : State) (t : Nat) : State :=
  let f : Frame := { typ := 4, cls := 1, hasScope := true, dest := s.expo.pos, src := s.tree.pos, depth := s.expo.depth
                     tag := s.expo.tag, payload := [] }
  let f := protect f (le 8 t)
  if s.ownPos f.dest then (s.spread .self f).2 else s.sendTo f

/-- The first output that meets the threshold sets T_trip; where a TRIP frame has set it already, this one is the later, a
conflict, and no further frame goes out (DEDUCED, notes/assumptions/84.md). -/
def State.thresholdTrip (s : State) : State :=
  if !(s.expo.state = .armed || s.expo.state = .capturing) then s
  else match s.expo.ring.find? s.meets with
    | none => s
    | some x =>
      if s.expo.trip.isSome then { s with expo := { s.expo with conflict := s.expo.conflict || !s.expo.own } }
      else ({ s with expo := { s.expo with trip := some x.t, own := true } }.expoCapture).sendTrip x.t

def execExposureThresholdTrip (s : State) : Out := runCoreL State.thresholdTrip s

/-- T_trip from a TRIP frame: taken where none is held, else a conflict. -/
def State.tripTime (s : State) (tag t : Nat) : State :=
  let e := s.expo
  if !(e.state = .armed || e.state = .capturing) || tag != e.tag then s
  else if e.trip.isSome then { s with expo := { e with conflict := true } }
  else { s with expo := { e with trip := some t } }.expoCapture

/-- The last output of the window is in the ring: it freezes, and the segment is built, by a DELTA job where asked. -/
def State.freeze (s : State) : State :=
  match s.expo.trip, s.expo.ring.getLast? with
  | some t, some x =>
    if s.expo.state = .capturing && decide (s.expoLast t ≤ x.t) then
      let s := { s with expo := { s.expo with state := .delivering, segment := [] } }
      if !bit s.expo.plan.options 0 then s.buildSegment
      -- no island works: the DELTA job is ABORTED (R154)
      else if s.working.isEmpty then s.loseExposure
      else s.raiseJob .delta s.expo.tag s.expo.tag none
    else s
  | _, _ => s

def execExposureFreeze (s : State) : Out := runCoreL State.freeze s

/-- The deadline without a trigger: a segment with NO_TRIGGER, whose two times the spec leaves open: two free
values (DESIGN CHOICE, notes/assumptions/53.md). -/
def State.noTrigger (s : State) : State :=
  let e := s.expo
  if e.state = .armed && e.plan.trigger != 0 && e.trip.isNone && decide (e.plan.time ≤ s.now) then
    let v := s.fresh
    let s := s.took
    let w := s.fresh
    s.took.deliverSegment (s.segmentBytes [] true v w)
  else s

def execExposureArmDeadline (s : State) : Out := runCoreL State.noTrigger s

end Sys2Proof.Machine
end

