-- ==== Sys2Proof/Machine/TreeOps.lean ====
section
/-! DEFINITION. Shared operations of the tree: cut off and held records, the discovery walk, rejoin and hot attach, loss of
a partner, reroutes, the legacy segment (08 R216–R238, 07 R203–R212). -/

namespace Sys2Proof.Machine

/-! ### Cut off and held records (R234, R236, R237) -/

/-- Ports to numbered children. -/
def State.kidPorts (s : State) : List Nat := [0, 1, 2, 3].filter (fun p => (s.port p).kid.isSome)

/-- CUT on every numbered downstream port: cut off (1) or restored (0). -/
def State.sendCut (s : State) (on : Nat) (top : Nat) : State :=
  s.kidPorts.foldl (fun s p => s.enqueue p { frame := discover s 1 7 0 top on [] ((s.port p).kid.getD (0, 0)).1, src := none }) s

/-- After a change that may end or begin a cut: the instant for T_LOSS, and what a device does that is cut off no longer. -/
def State.recut (s before : State) : State :=
  let s := s.trackCut
  if before.cutOff && !s.cutOff then (s.sendCut 0 s.tree.hi).deliverHeld else s

/-! ### Frames to the ROOT -/

/-- LOST or RESTORED for port p (Table 8.2). -/
def lostB (child : Option Nat) (p : Nat) (restored : Bool) : Nat :=
  put (child.getD 0) 0 18 + flag child.isSome 18 + put p 19 2 + flag restored 21

def State.portMap (s : State) (f : PortSt → Bool) : Nat := ((List.range 4).map (fun p => flag (f (s.port p)) p)).sum

/-- B of this device's REPORT. -/
def State.reportB (s : State) : Nat :=
  put s.tree.parent 0 18 + put s.tree.parentPort 18 2 + put (s.portMap (fun q => q.link = .up)) 20 4
  + put (s.portMap (fun q => q.alt)) 24 4 + put s.ident.role.code 28 2 + flag s.mode.station 30 + flag s.tree.pending 31

/-- REPORT of this device, with WALK_ID 0 outside a walk. -/
def State.sendReport (s : State) (walk : Nat) : State :=
  s.sendTo (discover s 1 4 walk s.tree.pos s.reportB (le 8 s.ident.uid ++ le 4 s.tree.hi) 0)

/-! ### The topology table at the ROOT (R220, R222) -/

/-- Depths follow from the parents. -/
def State.redepth (s : State) : State :=
  let n := s.tree.topo.length + 1
  { s with tree := { s.tree with topo := s.tree.topo.map (fun (e : TopoEntry) => { e with depth := (s.hopsBelow 0 n e.pos).getD 0 }) } }

/-- Mode and HEALTH of a UID as a neighbour's last crier message gives them; no frame carries them from farther away. -/
def State.crierOf (s : State) (uid : Nat) : Option Nat :=
  (s.ports.find? (fun q => decide (0 < q.crier.last.length) && at_ q.crier.last 8 8 = uid)).map
    (fun q => put (at_ q.crier.last 3 1) 0 4 + put (at_ q.crier.last 0x18 2) 4 16)

/-- B of the REPORT that gives a table entry. -/
def TopoEntry.reportB (e : TopoEntry) : Nat :=
  put e.parent 0 18 + put e.port 18 2 + put e.portsUp 20 4 + put e.alt 24 4 + put e.role 28 2 + flag e.station 30 + flag e.pending 31

/-- The ROOT sends each standby its table, one REPORT for each entry (R235; DESIGN CHOICE, notes/assumptions/85.md). -/
def State.shareTopo (s : State) : State :=
  if !s.isRoot then s
  else
    let sbs := (s.tree.topo.filter (fun e => e.role = 3 && e.pos != 0)).map TopoEntry.pos
    sbs.foldl (fun s d => s.topoAll.foldl (fun s e =>
      s.sendTo (discover s 1 4 0 e.pos e.reportB (le 8 e.uid ++ le 4 e.hi) d)) s) s

/-- An entry from a REPORT with this WALK_ID. -/
def State.enterTopo (s : State) (walk pos b uid hi src : Nat) : State :=
  let old := s.tree.topo.find? (fun e => e.pos = pos)
  let hot := s.tree.attaches.find? (fun a => a.pos = pos)
  -- outside a walk no interval changes: a replacement inherits that of its location (R222)
  let hi := match old with
    | some o => if walk = 0 then o.hi else hi
    | none => hi
  let e : TopoEntry :=
    { pos := pos, uid := uid, parent := (hot.map AttachSt.parent).getD (fld b 17 0)
      port := (hot.map AttachSt.port).getD (fld b 19 18), depth := 0, hi := hi, alt := fld b 27 24, portsUp := fld b 23 20
      role := fld b 29 28, station := bit b 30, pending := bit b 31, legacy := src != pos
      modeHealth := (s.crierOf uid).getD (s.fresh % 2 ^ 20) }
  let s := { s.took with tree := { s.tree with topo := s.tree.topo.filter (fun (e : TopoEntry) => e.pos != pos) ++ [e] } }.redepth
  s

/-! ### Exception routes and paths (R223, R231) -/

/-- Devices from p up to the ROOT by the table's parents, p first. -/
def State.pathUp (s : State) : Nat → Nat → List Nat
  | 0, _ => []
  | n + 1, p =>
    if p = 0 then [0]
    else match s.tree.topo.find? (fun e => e.pos = p) with
      | some e => p :: s.pathUp n e.parent
      | none => [p]

/-- Devices from a to b along numbered links. The old ROOT is none of a standby in charge: no path then leads over it. -/
def State.treePath (s : State) (a b : Nat) : List Nat :=
  let up := s.pathUp (s.tree.topo.length + 1) a
  let down := s.pathUp (s.tree.topo.length + 1) b
  let fromA := up.takeWhile (fun p => !down.contains p)
  let rest := down.takeWhile (fun p => !up.contains p)
  let meet := (up.find? down.contains).toList
  if s.homePos != 0 && meet.contains 0 then [] else fromA ++ meet ++ rest.reverse

/-- Devices from the ROOT, or the standby in charge, to p: along numbered links, and into a rerouted interval over its ring link.
Empty where no path is known. -/
def State.pathOver (s : State) : Nat → Nat → List Nat
  | 0, p => s.treePath s.homePos p
  | n + 1, p =>
    match s.tree.reroutes.find? (fun r => decide (r.lo ≤ p) && decide (p ≤ r.hi)) with
    | some r =>
      let out := s.pathOver n r.outer
      if out.isEmpty then [] else out ++ s.treePath r.inner p
    | none => s.treePath s.homePos p

def State.pathTo (s : State) (p : Nat) : List Nat := s.pathOver s.tree.reroutes.length p

/-- The port of x that leads to its child y. -/
def State.portToward (s : State) (y : Nat) : Nat := ((s.tree.topo.find? (fun e => e.pos = y)).map TopoEntry.port).getD 0

/-- The upstream port of a device, by the table: UP, no ring link, and leading to no child. -/
def State.upPortOf (s : State) (x : Nat) : Nat :=
  let e := s.topoOf x
  let m := (e.map TopoEntry.portsUp).getD 0
  let alt := (e.map TopoEntry.alt).getD 0
  ([0, 1, 2, 3].find? (fun p => bit m p && !bit alt p && !(s.tree.topo.any (fun k => k.parent = x && k.port = p)))).getD 0

/-- The lowest port of a port map. -/
def lowPort (m : Nat) : Nat := ([0, 1, 2, 3].find? (bit m)).getD 0

/-- The lowest ring port of a device, by the table. -/
def State.altPort (s : State) (p : Nat) : Nat := lowPort (((s.topoOf p).map TopoEntry.alt).getD 0)

/-- The ring port of x that faces y: of the device itself the one whose DUP named y. -/
def State.ringPort (s : State) (x y : Nat) : Nat :=
  if x = s.homePos then ([0, 1, 2, 3].find? (fun p => (s.port p).alt && (s.port p).altPeer = some y)).getD (s.altPort x) else s.altPort x

/-- The port of x that leads to its neighbour y: its child, its parent, or over a ring link. -/
def State.portFrom (s : State) (x y : Nat) : Nat :=
  if (s.topoOf y).any (fun e => e.parent = x && y != 0) then s.portToward y
  else if (s.topoOf x).any (fun e => e.parent = y && x != 0) then s.upPortOf x
  else s.ringPort x y

/-- Pairs (device, port) that lead from the ROOT to p, and at p to port q. -/
def State.hopsTo (s : State) (p q : Nat) : List (Nat × Nat) :=
  let path := s.pathTo p
  path.zip ((path.zip (path.drop 1)).map (fun h => s.portFrom h.1 h.2) ++ [q])

/-- An exception route or a reversal is installed or removed here. Held frames it contains leave by it. -/
def State.setRoute (s : State) (lo hi port : Nat) (install reversal : Bool) : State :=
  let before := s
  let s := if reversal then
      (if install then { s with tree := { s.tree with reversal := some (lo, hi), curUp := port } }
       else { s with tree := { s.tree with reversal := none, curUp := s.tree.numUp } })
    else
      let rest := s.tree.routes.filter (fun r => !(r.lo = lo && r.hi = hi))
      if !install then { s with tree := { s.tree with routes := rest } }
      else if 256 ≤ rest.length then s
      else
        let s := { s with tree := { s.tree with routes := rest ++ [{ lo := lo, hi := hi, port := port }] } }
        -- a hot-attached partner becomes the recorded child of its port (DEDUCED, notes/assumptions/46.md)
        let q := s.port port
        let s := if lo = hi && q.kid.isNone && !q.alt && q.link = .up && !(s.tree.valid && !s.isRoot && port = s.tree.numUp) then
            s.updPort port (fun q => { q with kid := some (lo, hi), hot := true }) else s
        [0, 1, 2, 3].foldl (fun s p =>
          let h := (s.port p).held
          -- all that waits for a port whose whole interval the route takes, copies of scoped frames too (notes/assumptions/47.md)
          let whole : Bool := match (s.port p).kid with
            | some (a, b) => decide (lo ≤ a) && decide (b ≤ hi)
            | none => false
          let inC (x : QFrame) := whole || (decide (lo ≤ x.frame.dest) && decide (x.frame.dest ≤ hi))
          if p = port then s
          else (h.filter inC).foldl (fun s x => s.enqueue port x)
            (s.updPort p (fun q => { q with held := h.filter (fun x => !inC x) }))) s
  s.recut before

/-- A ROUTE to one device, or the same done here. -/
def State.routeAt (s : State) (x lo hi port : Nat) (install reversal : Bool) : State :=
  if x = s.homePos then s.setRoute lo hi port install reversal
  else s.sendTo (discover s 1 8 0 lo hi (le 4 (put port 0 2 + flag install 2 + flag reversal 3)) x)

/-- Devices from the numbered parent of a rerouted interval up to the path to e′: what the parent holds goes back along them
(R231: "sent again along the new path"; DEDUCED, notes/assumptions/47.md). -/
def State.wayBack (s : State) (r : Reroute) : List Nat :=
  (s.pathUp (s.tree.topo.length + 1) (((s.topoOf r.lo).map TopoEntry.parent).getD 0)).takeWhile
    (fun p => !(s.pathTo r.outer).contains p && !(p = 0 && s.homePos != 0))

/-- Exception routes that the ROOT has installed at device x. -/
def State.routesAt (s : State) (x : Nat) : Nat :=
  (s.tree.attaches.filter (fun a => (s.pathTo a.parent).contains x)).length
  + (s.tree.reroutes.filter (fun r => (s.pathTo r.outer).contains x || (s.wayBack r).contains x)).length

/-- The position one above the highest of the table. -/
def State.nextPos (s : State) : Nat :=
  ((s.topoAll.map TopoEntry.hi ++ s.topoAll.map TopoEntry.pos ++ s.tree.attaches.map AttachSt.pos).foldl max 0) + 1

/-- ASSIGN of a position and a depth down a port. -/
def assignFrame (s : State) (pos depth : Nat) (pending : Bool) : Frame :=
  discover s 1 5 0 pos (put depth 0 18 + flag pending 18) [] pos

/-- A hot attach at the ROOT (R223): refused where no position is left or a table on the path is full. -/
def State.rootAttach (s : State) (parent port uid : Nat) : State :=
  let pos := s.nextPos
  let path := s.pathTo parent
  if 262143 < pos || path.any (fun x => decide (256 ≤ s.routesAt x)) then
    (s.ledger 0x12 parent uid).event 0x06 (parent * 2 ^ 32)
  else
    let s := (s.hopsTo parent port).foldl (fun s h => s.routeAt h.1 pos pos h.2 true false) s
    let s := { s with tree := { s.tree with attaches := s.tree.attaches ++ [AttachSt.mk pos parent port] } }
    let depth := ((s.topoOf parent).map TopoEntry.depth).getD 0 + 1
    (s.sendTo (assignFrame s pos depth true)).event 0x05 (pos + parent * 2 ^ 32)

/-- An ATTACH reaches the ROOT; during a walk it waits for the walk's end (R224). -/
def State.takeAttach (s : State) (parent port uid : Nat) : State :=
  if s.tree.walk.active then { s with tree := { s.tree with attachWait := s.tree.attachWait ++ [(parent, port, uid)] } }
  else s.rootAttach parent port uid

/-- A port that is UP outside a walk (R222): the recorded child is assigned its position, another is hot-attached. -/
def State.offerPort (s : State) (p : Nat) : State :=
  let q := s.port p
  if q.link != .up || q.alt || (s.tree.valid && !s.isRoot && p = s.tree.numUp) then s
  else match q.kid with
    | some (c, _) =>
      s.enqueue p { frame := assignFrame s c (s.tree.depth + 1) q.hot, src := none }
    | none =>
      let uid := q.partner.getD 0
      if s.isRoot then s.takeAttach s.tree.pos p uid
      else s.sendTo (discover s 1 10 0 s.tree.pos p (le 8 uid) 0)

/-- The rule applies to a numbered device that is not cut off and not walking. A ROOT assigns recorded children before its first
walk, too, but attaches no other before it (DEDUCED, notes/assumptions/87.md). -/
def State.portUpOutside (s : State) (p : Nat) : State :=
  let numbered := s.tree.valid || (s.isRoot && (s.tree.walkId != 0 || (s.port p).kid.isSome))
  if numbered && !s.cutOff && !s.tree.walk.active then s.offerPort p else s

/-! ### Reroutes at the ROOT (R231, R233) -/

/-- Ring ports of a device, by the table. -/
def altCount (e : TopoEntry) : Nat := ([0, 1, 2, 3].filter (bit e.alt)).length

/-- The reroute for the lost child c: an ALT link with one end e inside C and the other, e′, outside it, of several the one whose
e′ is lowest. The device's own ring links are known from their DUP. No frame tells it which other ALT ports face each other: which
devices outside C have a link into it, and to which e, are free values as far as the table leaves them open (DESIGN CHOICE,
notes/assumptions/47.md): a single device with a ring port on either side has a link across, and so has an odd number of ring ports. -/
def State.chooseReroute (s : State) (c hi : Nat) : Option Reroute × State :=
  let inC (p : Nat) := decide (c ≤ p) && decide (p ≤ hi)
  let home := s.homePos
  let mine := (s.ports.filterMap (fun q => if q.alt then q.altPeer else none))
  let alts := (s.topoAll.filter (fun e => e.alt != 0 && e.pos != home && e.pos != s.tree.pos)).mergeSort (fun a b => decide (a.pos ≤ b.pos))
  let outs := (alts.filter (fun e => !inC e.pos)).map TopoEntry.pos
  let ins := (alts.filter (fun e => inC e.pos)).map TopoEntry.pos
  -- ring ports on either side that do not face this device
  let open_ (es : List Nat) := ((alts.filter (fun e => es.contains e.pos)).map altCount).sum - (mine.filter es.contains).length
  let free := decide (open_ ins != 0) && decide (open_ outs != 0)
  let forced := free && (decide (open_ ins % 2 = 1) || ins.length = 1 || outs.length = 1)
  let sure := outs.length = 1 && ins.length = 1
  let bits := (outs.mapIdx (fun k o => (k, o))).filterMap (fun q => if bit s.fresh q.1 then some q.2 else none)
  let rest := s.fresh / 2 ^ outs.length
  let joined := if !free then [] else if forced && (sure || bits.isEmpty) then (outs.drop (rest % max 1 outs.length)).take 1 else bits
  let inner := ins.getD (rest / max 1 outs.length % max 1 ins.length) 0
  let cands := ((mine.find? inC).map (fun e => (home, e))).toList ++ joined.map (fun o => (o, inner))
  let best := (cands.filter (fun q => !(s.pathTo q.1).isEmpty)).foldl (fun (acc : Option (Nat × Nat)) q => match acc with
    | none => some q
    | some b => if q.1 < b.1 then some q else some b) none
  (best.map (fun q => { lo := c, hi := hi, outer := q.1, inner := q.2 }), when_ (free && !sure) State.took s)

/-- Routes and reversals of a reroute, installed or removed. -/
def State.applyReroute (s : State) (r : Reroute) (install : Bool) : State :=
  let s1 := (s.hopsTo r.outer (s.ringPort r.outer r.inner)).foldl (fun s h => s.routeAt h.1 r.lo r.hi h.2 install false) s
  let s1 := (s.wayBack r).foldl (fun s x => s.routeAt x r.lo r.hi (s.upPortOf x) install false) s1
  let up := (s.pathUp (s.tree.topo.length + 1) r.inner).takeWhile (fun p => decide (r.lo ≤ p) && decide (p ≤ r.hi))
  (up.zip (s.altPort r.inner :: up.map s.portToward)).foldl (fun s h => s.routeAt h.1 r.lo r.hi h.2 install true) s1

/-- The reroutes that a restored or replaced link ends are removed (R233). -/
def State.endReroutes (s : State) (ends : Reroute → Bool) : State :=
  let rs := s.tree.reroutes.filter ends
  let s := rs.foldl (fun s r => s.applyReroute r false) s
  let s := { s with tree := { s.tree with reroutes := s.tree.reroutes.filter (fun r => !rs.contains r) } }
  -- the route of a hot-attached device whose position alone was rerouted stands again (R223)
  (s.tree.attaches.filter (fun a => rs.any (fun r => r.lo = a.pos && r.hi = a.pos))).foldl (fun s a =>
    (s.hopsTo a.parent a.port).foldl (fun s h => s.routeAt h.1 a.pos a.pos h.2 true false) s) s

/-- A REPORT at the ROOT. Outside a walk another UID than the one last reported is a replacement: the reroutes of its links, to its
parent and to its children, go first (R233), then the ledger entry and the event. -/
def State.takeReport (s : State) (walk pos b uid hi src : Nat) : State :=
  match s.tree.topo.find? (fun e => e.pos = pos) with
  | some o =>
    if o.uid = uid then (s.enterTopo walk pos b uid hi src).shareTopo
    else
      let s := ((s.endReroutes (fun r => r.lo = pos || (s.topoOf r.lo).any (fun e => e.parent = pos))).enterTopo walk pos b uid hi src).shareTopo
      (s.ledgerAt 0x11 pos o.uid s.now (some (pos, uid))).event 0x07 pos
  | none => (s.enterTopo walk pos b uid hi src).shareTopo

/-- Armed devices beyond a lost link are missing for their exposure unless a segment of theirs still comes: nothing else tells the
ROOT of a reset or of DORMANT, which discard it (06 R176; DEDUCED, notes/assumptions/29.md). -/
def Tx.loseArmed (lo hi : Nat) (t : Tx) : Tx :=
  match t.req with
  | .expose _ =>
    let gone (d : Nat × Nat) : Bool := !t.done && d.2 = 1 && decide (lo ≤ d.1) && decide (d.1 ≤ hi)
    { t with acc := { t.acc with missing := t.acc.missing ++ (t.survey.filter gone).map (fun (d : Nat × Nat) => (d.1, 1)) }
             survey := t.survey.map (fun (d : Nat × Nat) => if gone d then (d.1, 5) else d) }
  | _ => t

def State.addReroute (s : State) (r : Reroute) : State := { s with tree := { s.tree with reroutes := s.tree.reroutes ++ [r] } }

/-- A lost interval is rerouted where a ring link joins it; one inside a rerouted interval is not (R231). -/
def State.rerouteTo (s : State) (c hi : Nat) : State :=
  if s.tree.reroutes.any (fun r => decide (r.lo ≤ c) && decide (c ≤ r.hi)) then s
  else match s.chooseReroute c hi with
    | (some r, s) => (s.applyReroute r true).addReroute r
    | (none, s) => s

/-- A LOST report reaches the ROOT. One with the id of the walk in progress tells of a port that the walk has marked FAILED (Table 8.1:
WALK_ID is 0 outside a walk). -/
def State.rootLost (s : State) (sender : Nat) (child : Option Nat) (restored : Bool) (walk : Nat) : State :=
  let v := sender + put (child.getD 0) 32 18
  if restored then
    (s.endReroutes (fun r => child = some r.lo || sender = r.lo)).event 0x04 v
  else
    let s := s.event 0x03 v
    let s := if s.tree.walk.active && walk != 0 && walk = s.tree.walk.id then { s with tree := { s.tree with walk := { s.tree.walk with anyFail := true } } } else s
    match child with
    | none => s
    | some c =>
      let hi := ((s.topoOf c).map TopoEntry.hi).getD c
      let s := { s with host := { s.host with txs := s.host.txs.map (Tx.loseArmed c hi) } }
      if s.tree.walk.active then s
      else match s.topoOf c with
        | none => s
        | some e => s.rerouteTo c e.hi

/-- LOST or RESTORED of port p goes to position 0, with the id of the walk that finds the port FAILED, and 0 otherwise. -/
def State.sendLost (s : State) (p : Nat) (restored : Bool) (walk : Nat) : State :=
  let child := ((s.port p).kid).map Prod.fst
  if s.isRoot then s.rootLost s.tree.pos child restored walk
  else s.sendTo (discover s 1 6 walk s.tree.pos (lostB child p restored) [] 0)

/-! ### The walk (R216–R219) -/

def State.updWalk (s : State) (f : WalkSt → WalkSt) : State := { s with tree := { s.tree with walk := f s.tree.walk } }

/-- Marks, children, routes and the pending flag of an earlier numbering go (R225). -/
def State.clearNumbering (s : State) : State :=
  { s with
    ports := s.ports.map (fun q => { q with alt := false, late := false, failed := false, overflow := false, kid := none, hot := false, altPeer := none })
    tree := { s.tree with routes := [], reversal := none, pending := false, cutBy := false, marks := [], reroutes := [], attaches := [] } }

/-- The KG1200 devices of the segment take the positions from next on, in the order of their chain index, and are
reported (R219). -/
def State.numberLegacy (s : State) (walk next : Nat) : Nat × State :=
  let devs := (s.legacy.devs.mergeSort (fun a b => decide (a.index ≤ b.index))).mapIdx (fun i (d : LegacyDev) => { d with pos := next + i })
  let s := { s with legacy := { s.legacy with devs := devs } }
  let b := put s.tree.pos 0 18 + put 1 18 2
  let s := devs.foldl (fun s d =>
    if s.isRoot then s.takeReport walk d.pos b d.identity d.pos s.tree.pos
    else s.sendTo (discover s 1 4 walk d.pos b (le 8 d.identity ++ le 4 d.pos) 0)) s
  (next + devs.length, s)

/-- The TOPOLOGY transaction that asked for the walk completes (R220). -/
def State.finishWalkTx (s : State) (tid : Option Nat) (failed : Bool) : State :=
  match tid with
  | none => s
  | some id => (match s.tx id with
    | some t =>
      -- PARTIAL brings the map of R239; a device that a failed port hides has no position to be named by
      let span := (s.topoAll.map TopoEntry.pos).foldl max 0 + 1
      let bytes := if failed && t.hdr.pool != 0xFF then missingMap t.tag 0 span [] else []
      (s.postFinal t.id bytes (if failed then stPartial else stOk) (s.tree.walkId + put s.topoAll.length 32 18) 0 0 failed).settleWaits none
    | none => s)

/-- walk_ports returns here. At the ROOT no frame tells of an OVERFLOW below it: where the positions are used up, whether there
was one is a free value (DESIGN CHOICE, notes/assumptions/86.md). -/
def State.walkEnd (s : State) : State :=
  let full := s.tree.walk.upPort.isNone && decide (262143 < s.tree.walk.next) && !s.tree.walk.anyFail
  let s := if full then s.took.updWalk (fun w => { w with anyFail := s.fresh % 2 = 1 }) else s
  let w := s.tree.walk
  let s := { s with tree := { s.tree with hi := w.next - 1, walk := { w with active := false } } }
  let s := match w.upPort with
    | none =>
      let s := { s with host := { s.host with refs := s.host.refs.map (fun (r : SendRef) => { r with sync := true }) } }
      let s := s.shareTopo.finishWalkTx w.tid w.anyFail
      let ws := s.tree.attachWait
      ws.foldl (fun s (a : Nat × Nat × Nat) => s.rootAttach a.1 a.2.1 a.2.2) { s with tree := { s.tree with attachWait := [] } }
    | some u =>
      (s.sendReport w.id).enqueue u { frame := discover s 1 2 w.id w.next 0 [] s.tree.parent, src := none }
  [0, 1, 2, 3].foldl (fun s p =>
    if (s.port p).late then (s.updPort p (fun q => { q with late := false })).offerPort p else s) s

/-- The walk goes on at port w.port: it waits there, or ends after port D. `waited`: the wait for training is over. -/
def State.walkFrom : Nat → Bool → State → State
  | 0, _, s => s
  | n + 1, waited, s =>
    let w := s.tree.walk
    let p := w.port
    let q := s.port p
    let skip (s : State) := State.walkFrom n false (s.updWalk (fun w => { w with port := p + 1, training := false }))
    if 4 ≤ p then s.walkEnd
    else if w.upPort = some p || s.heldInReset p then skip s
    else if q.link = .legacy then
      let (next, s) := s.numberLegacy w.id w.next
      skip (s.updWalk (fun w => { w with next := next }))
    else if q.link = .training && !waited then s.updWalk (fun w => { w with training := true, since := s.wall })
    else if q.link != .up then skip s
    else if w.tStart < q.train.began then skip (s.updPort p (fun q => { q with late := true }))
    else if 262143 < w.next then
      skip ((s.updPort p (fun q => { q with overflow := true })).updWalk (fun w => { w with anyFail := true }))
    else
      (s.updWalk (fun w => { w with training := false, since := s.wall })).enqueue p
        { frame := discover s 1 1 w.id w.next (s.tree.depth + 1) [] w.next, src := none }

/-- The walk goes on after the port it waited for. -/
def State.walkNext (s : State) : State :=
  State.walkFrom 5 false (s.updWalk (fun w => { w with port := w.port + 1, training := false }))

/-- walk_ports starts at this device. -/
def State.walkBegin (s : State) (id next : Nat) (up : Option Nat) (tStart : Nat) (tid : Option Nat) : State :=
  State.walkFrom 5 false (s.updWalk (fun _ =>
    { active := true, id := id, upPort := up, next := next, port := 0, training := false, since := s.wall, tStart := tStart
      lastPend := s.wall, anyFail := false, tid := tid, tResp := s.tree.tResp }))

/-- A walk starts at the ROOT. Walk id 0 stands for "outside a walk", so it is skipped. -/
def State.walkRoot (s : State) (tid : Option Nat) : State :=
  let id := s.tree.walkId % 65535 + 1
  let s := s.clearNumbering
  let s := { s with tree := { s.tree with walkId := id, numberedBy := id, pos := 0, depth := 0, valid := true, topo := [], attachWait := [] } }
  s.walkBegin id 1 none s.now tid

/-- A frame on the port the walk waits for restarts its silence. Short, TRAIN, CREDIT and TIME frames, which every live
link carries, are not meant (DEDUCED, notes/assumptions/48.md). -/
def State.touchWalk (s : State) (a : Arrival) (f : Frame) : State :=
  let w := s.tree.walk
  if w.active && !w.training && arrPort a = some w.port && !creditFree f then s.updWalk (fun w => { w with since := s.wall }) else s

/-! ### What a received long frame meets -/

/-- Frames that a wrong check value makes a discarded frame: protected ones but COMMAND, which is answered, and SAFETY, which the
safety partition tests (07 R200, R201). -/
def discardable (f : Frame) : Bool := [2, 3, 4, 10, 11, 12].contains f.typ

/-- Frames for the sequencer: walks, routes and reports (11 Table 11.3, task TREE; DESIGN CHOICE, notes/assumptions/114.md). -/
def sequenced (f : Frame) : Bool := f.typ = 10 && at_ f.payload 0 1 != 9

/-- Such a frame waits in its port buffer, its credits unreturned, while the device is HALTED and behind others that wait
(16 R425). -/
def State.frameWaits (s : State) (f : Frame) : Bool := sequenced f && (s.mode.mode = .halted || !s.tree.waiting.isEmpty)

/-- The frame is taken off the port's buffer. Neither a discarded frame nor a rejected one returns credits (R246); the credits of a
SAFETY frame are its receiver's to return. -/
def State.takeOff (s : State) (a : Arrival) (f : Frame) : State :=
  if f.typ = 5 || (discardable f && !checkOk f) then s else s.consume a f

/-- A frame at its destination: one that Table 7.4 does not list is discarded and counted (07 R187), one for a halted sequencer
waits, any other acts. -/
def State.deliver (s : State) (a : Arrival) (f : Frame) (act : State → State) : State :=
  if !frameListed f then s.countCondemned a
  else if s.frameWaits f then { s with tree := { s.tree with waiting := s.tree.waiting ++ [(a, f)] } }
  else act (s.takeOff a f)

/-- The hop accepts the frame; it is delivered where it is addressed, spread through its scope, or passed on. -/
def State.onFrame (s : State) (a : Arrival) (f : Frame) (act : State → State) : State :=
  let (ok, s) := s.hop a f
  if !ok then s
  else
    let s := s.touchWalk a f
    if s.actsOn a f then (s.spread a f).2.deliver a f act
    else match s.route f.dest with
      | .here => s.deliver a f act
      | _ => s.forward a f

/-- A frame that ends at this hop, whatever its DEST. -/
def State.onLocal (s : State) (a : Arrival) (f : Frame) (act : State → State) : State :=
  let (ok, s) := s.hop a f
  if !ok then s else (s.touchWalk a f).deliver a f act

/-- An effect after the check value alone (R200). -/
def State.ifChecked (s : State) (a : Arrival) (f : Frame) (act : State → State) : State :=
  let (ok, s) := s.checkFrame a f
  if ok then act s else s

/-! ### The link comes UP (07 R204, 08 R222, R230, R233, R245) -/

/-- Frames put in front of the queues of their class, in order. -/
def unhold (t : TxQueues) (xs : List QFrame) : TxQueues :=
  let of (c : Nat) := xs.filter (fun x => x.frame.cls = c)
  { t with safety := of 0 ++ t.safety, control := of 1 ++ t.control, data := of 2 ++ t.data, bulk := of 3 ++ t.bulk }

/-- Unacknowledged frames go out again, in HSEQ order. -/
def State.resend (s : State) (p : Nat) (isS : Bool) : State :=
  s.sendAgain p isS (fun u => { u with retries := 0, sentAt := s.wall })

/-- A space continues from the partner's ACK value. -/
def joinSpace (sp : SeqSpace) (ack : Nat) : SeqSpace :=
  let q := ackSpace sp ack
  if q.unacked.isEmpty then { q with txNext := (ack + 1) % 64 } else q

/-- The sequence spaces at UP. With another partner the unacknowledged frames are handed back: they are held for this port. -/
def State.joinSpaces (s : State) (p uid ackN ackS : Nat) : State :=
  let q := s.port p
  if q.partner = some uid then
    ((s.updPort p (fun q => { q with spaceN := joinSpace q.spaceN ackN, spaceS := joinSpace q.spaceS ackS })).resend p true).resend p false
  else
    let back := (q.spaceS.unacked ++ q.spaceN.unacked).map (fun u => ({ frame := u.frame, src := none } : QFrame))
    s.updPort p (fun q => { q with spaceN := SeqSpace.reset, spaceS := SeqSpace.reset, held := back ++ q.held })

/-- The port is UP with this partner. -/
def State.portUp (s : State) (p uid ackN ackS : Nat) : State :=
  let before := s
  let q := s.port p
  let same : Bool := q.partner = some uid
  let wasLost := q.lostAt.isSome
  let s := s.joinSpaces p uid ackN ackS
  let s := s.updPort p (fun q => { q with
    link := .up, rateNow := q.train.rate, credits := allotment, owed := Four.zero, everUp := true, bufUsed := true, partner := some uid
    lastTx := s.wall, afterTone := false
    -- frames still held are answered T_RESP after the loss, or after this moment where there was none (R230)
    lostAt := if same || q.held.isEmpty then none else some (q.lostAt.getD s.wall)
    train := { q.train with step := 0 } })
  let s := if same then s.updPort p (fun q => { q with txq := unhold q.txq q.held, held := [] }) else s
  let s := s.recut before
  let s := if wasLost && same && (s.tree.valid || s.isRoot) then s.sendLost p true 0 else s
  let s := if wasLost && same && s.tree.valid && !s.isRoot && p = s.tree.numUp then s.sendCut 0 s.tree.hi else s
  let w := s.tree.walk
  if w.active && w.training && w.port = p then State.walkFrom 5 true s
  else if w.active && decide (p < w.port) && w.upPort != some p && !(s.port p).alt && (s.port p).kid.isNone then
    s.updPort p (fun q => { q with late := true })
  else s.portUpOutside p

/-! ### Legacy segment (07 R209–R212) -/

def legacyCrc (addr cmd : Nat) (data : List Byte) : Nat :=
  crc16 (le 1 addr ++ le 1 cmd ++ le 1 data.length ++ data)

/-- The request at the head of the queue goes out; a port that stops sends nothing (R215). -/
def State.legacySend (s : State) : State :=
  match s.legacy.queue with
  | [] => s
  | r :: _ => if (s.port 1).fn != .running then s
    else (s.updPort 1 (fun q => { q with lastTx := s.wall })).emit (.legacy r.addr r.cmd r.data (legacyCrc r.addr r.cmd r.data))

/-- Requests join the queue; on an idle segment the first goes out. -/
def State.legacyAsk (s : State) (rs : List LegacyReq) : State :=
  let idle := s.legacy.queue.isEmpty
  let s := { s with legacy := { s.legacy with queue := s.legacy.queue ++ rs } }
  if idle then s.legacySend else s

def legacyReq (addr cmd : Nat) (data : List Byte) (tag : Option Nat) (expect : Option Nat) : LegacyReq :=
  { addr := addr, cmd := cmd, data := data, tries := 0, tag := tag, expect := expect }

/-- A poll, where the port runs: CONVERT, then READ_CELLS of every present KG1200; an aperture during an unfinished poll makes none (R211). -/
def State.legacyPoll (s : State) (t num : Nat) : State :=
  if (s.port 1).link != .legacy || (s.port 1).fn != .running || s.legacy.polling || s.legacy.devs.isEmpty then s
  else
    let s := { s with legacy := { s.legacy with
      polling := true, pollT := t, pollMode := s.mode.mode.code, pollNo := num, devs := s.legacy.devs.map (fun (d : LegacyDev) => { d with present := true, codes := [] }) } }
    let s := s.emit (.legacy 0 0x10 [] (legacyCrc 0 0x10 []))
    s.legacyAsk (s.legacy.devs.map (fun d => legacyReq d.index 0x11 [] none none))

/-- The record of a KG1200 (R212). -/
def State.legacyRec (s : State) (d : LegacyDev) : Rec :=
  Rec.sealed {
    idword := put d.pos 0 18 + put s.legacy.pollMode 18 4 + put 0x81 24 8, sweep := s.legacy.pollNo, t := s.legacy.pollT, frac := 0
    flags := 0, mask := 0xFFF, config := 0, auxAge := 0xFFFF, is1 := -2147483648, is2 := -2147483648, aux := List.replicate 16 0
    cells := (List.range 48).map (fun k => if k < 12 then (d.codes.getD k 0 : Int) * 10 else -8388608)
    unsettled := 0, adj := 0, openW := 0, disagree := 0, immature := 0, temps := [-32768, -32768, -32768], crc := 0 }

/-- The poll has ended: a record for each KG1200 that answered; 128 are kept for each. -/
def State.pollEnd (s : State) : State :=
  if !s.legacy.polling || s.legacy.queue.any (fun r => r.cmd = 0x11) then s
  else
    let rs := (s.legacy.devs.filter (fun d => d.present && !d.codes.isEmpty)).map s.legacyRec
    let all := s.legacy.records ++ rs
    { s with legacy := { s.legacy with polling := false
                                       records := all.drop (all.length - 128 * s.legacy.devs.length) } }

/-- The register accesses of a transaction have ended: their statuses and words are its contribution from this segment. A position
that is refused gives no words (17 R439). -/
def State.legacyDone (s : State) (tag : Nat) : State :=
  if s.legacy.queue.any (fun r => r.tag = some tag) then s
  else
    let whole := s.legacy.words.filter (fun w => s.legacy.status.all (fun a => a.1 != w.1 || a.2 = stOk))
    let c : Contribution := { noContribution with answers := s.legacy.status, words := whole }
    let s := { s with legacy := { s.legacy with status := [], words := [] } }
    let port : Option Nat := match s.glean.harvests.find? (fun h => h.tag = tag) with
      | some h => if h.kids.any (fun k => k.port = some 1) then some 1 else none
      | none => none
    s.contribute tag port c 0 .nop s.tree.pos 0

/-- The status of a position worsens at most once: the first refusal stands. -/
def setStatus (l : List (Nat × Nat)) (pos st : Nat) : List (Nat × Nat) :=
  match l.find? (fun a => a.1 = pos) with
  | some a => if a.2 = stOk then l.map (fun b => if b.1 = pos then (pos, st) else b) else l
  | none => l ++ [(pos, st)]

/-- One more register word of a position. -/
def addWord (l : List (Nat × List Nat)) (pos w : Nat) : List (Nat × List Nat) :=
  match l.find? (fun a => a.1 = pos) with
  | some _ => l.map (fun b => if b.1 = pos then (pos, b.2 ++ [w]) else b)
  | none => l ++ [(pos, [w])]

/-- The head of the queue has ended: the next request goes out. -/
def State.legacyNext (s : State) (tag : Option Nat) : State :=
  let s := { s with legacy := { s.legacy with queue := s.legacy.queue.drop 1 } }
  let s := match tag with
    | some t => s.legacyDone t
    | none => s
  s.pollEnd.legacySend

/-- A failed attempt: twice asked for again, then the KG1200 is absent for this poll and counted. -/
def State.legacyFail (s : State) (crcBad : Bool) : State :=
  match s.legacy.queue with
  | [] => s
  | r :: rest =>
    if r.tries < 2 then { s with legacy := { s.legacy with queue := { r with tries := r.tries + 1 } :: rest } }.legacySend
    else
      let s := s.updPort 1 (fun q => { q with cnt :=
        if crcBad then { q.cnt with legacyCrc := sat 0xFFFF (q.cnt.legacyCrc + 1) }
        else { q.cnt with legacyNoReply := sat 0xFFFF (q.cnt.legacyNoReply + 1) } })
      let pos := ((s.legacy.devs.find? (fun d => d.index = r.addr)).map LegacyDev.pos).getD 0
      let s := { s with legacy := { s.legacy with
        devs := s.legacy.devs.map (fun (d : LegacyDev) => if d.index = r.addr then { d with present := false } else d)
        status := if r.tag.isSome then setStatus s.legacy.status pos stUnreachable else s.legacy.status } }
      s.legacyNext r.tag

end Sys2Proof.Machine
end

