-- ==== Sys2Proof/Machine/Link.lean ====
section
/-! DEFINITION. The link ports (07): training, loss, retransmission, short and condemned frames, the crier side channel, the
port functions, the legacy segment, frames in transit; apertures, which on a legacy hub start a poll. -/

namespace Sys2Proof.Machine

/-! ### Training (R203–R205) -/

/-- A RUNNING port that sees symbols while it is DOWN or LOST trains from step 1 at 25 Mb/s. -/
def State.symbols (s : State) (p : Nat) : State :=
  let q := s.port p
  if q.fn = .running && (q.link = .down || q.link = .lost) && s.awake then s.retrain p else s

def execSymbolsDetected (p : Nat) (s : State) : Out := runL (fun s => s.symbols p) s

def State.updTrain (s : State) (p : Nat) (f : TrainSt → TrainSt) : State := s.updPort p (fun q => { q with train := f q.train })

/-- A TRAIN frame in step 1: 8 in cadence set AGREED, which then stays; with AGREED sent and received the end switches after its next frame, and sends its
first at the new rate. -/
def State.trainStep1 (s : State) (p : Nat) (f : Frame) : State :=
  let t := (s.port p).train
  let got := t.got + 1
  let rx : Bool := t.agreedRx || bit (at_ f.payload 1 1) 0
  let agreed : Bool := t.agreedTx || decide (8 ≤ got)
  let s := s.sendTrain p agreed false
  if t.agreedTx && rx then
    (s.updTrain p (fun t => { t with step := 3, got := 0, agreedRx := rx, partnerMax := at_ f.payload 0 1 % 4
                                     rate := min (s.port p).lRate (at_ f.payload 0 1 % 4), since := s.wall })).sendTrain p true false
  else s.updTrain p (fun t => { t with got := got, agreedRx := rx, agreedTx := agreed, partnerMax := at_ f.payload 0 1 % 4 })

/-- A TRAIN frame at the new rate: UP when each end has received 64, which RX_VALID tells (DEDUCED, notes/assumptions/49.md). -/
def State.trainStep3 (s : State) (p : Nat) (f : Frame) : State :=
  let got := (s.port p).train.got + 1
  let s := s.sendTrain p true (decide (64 ≤ got))
  if 64 ≤ got && bit (at_ f.payload 1 1) 1 then
    s.portUp p (at_ f.payload 4 8) (at_ f.payload 2 1 % 64) (at_ f.payload 3 1 % 64)
  else s.updTrain p (fun t => { t with got := got })

/-- Step 1 counts consecutive TRAIN frames in cadence: any other frame breaks the run. -/
def State.breakTrain (s : State) (p : Nat) : State := s.updTrain p (fun t => if t.step = 1 then { t with got := 0 } else t)

def State.trainFrameIn (s : State) (p : Nat) (crier : Bool) (f : Frame) : State :=
  let q := s.port p
  let s := if s.hears p then s.takeCrier p crier else s
  if q.fn != .running || q.link != .training then s
  else
    if !frameListed f then (s.countCondemned (.port p 0 false)).breakTrain p
    else if q.train.step = 3 then s.trainStep3 p f else s.trainStep1 p f

def execTrainFrameReceive (p : Nat) (crier : Bool) (f : Frame) (s : State) : Out := runL (fun s => s.trainFrameIn p crier f) s

/-- No UP within 1,000 µs of a switch: the next lower rate, and below 25 Mb/s step 1 again. -/
def State.rateTimeout (s : State) (p : Nat) : State :=
  let q := s.port p
  if q.fn = .running && q.link = .training && q.train.step = 3 && decide (ttMs ≤ s.since q.train.since) then
    if 0 < q.train.rate then (s.updTrain p (fun t => { t with rate := t.rate - 1, got := 0, since := s.wall })).sendTrain p true false
    else (s.updTrain p (fun t =>
      { t with step := 1, got := 0, agreedRx := false, agreedTx := false, since := s.wall })).sendTrain p false false
  else s

def execTrainingRateTimeout (p : Nat) (s : State) : Out := runL (fun s => s.rateTimeout p) s

/-- No transition for 8 µs (R205, R230): LOST, FLT_LINK_LOST, the report, and CUT below where it led up. The frames that
waited for the port are handed back; those sent and unacknowledged stay for R204. -/
def State.signalLoss (s : State) (p : Nat) : State :=
  let q := s.port p
  if q.fn != .running || q.link != .up then s
  else
    let before := s
    let t := q.txq
    let back := t.safety ++ t.control ++ t.data ++ t.bulk
    let s := s.updPort p (fun q => { q with
      link := .lost, lostAt := some s.wall
      held := if q.kid.isSome then q.held ++ back else q.held
      txq := if q.kid.isSome then { t with safety := [], control := [], data := [], bulk := [] } else t })
    let s := (s.recut before).raise 9 p
    let s := if s.tree.valid || s.isRoot then s.sendLost p false 0 else s
    if s.tree.valid && !s.isRoot && p = s.tree.numUp then s.sendCut 1 s.tree.hi else s

def execSignalLoss (p : Nat) (s : State) : Out := runL (fun s => s.signalLoss p) s

/-! ### Acknowledgement and retransmission (R188, R192, R193) -/

/-- The oldest unacknowledged frame of the space has waited T_RTX. -/
def State.rtxDue (s : State) (p : Nat) (safety : Bool) : Bool :=
  match ((s.port p).space safety).unacked with
  | u :: _ => decide (tRtx (s.port p).rateNow ≤ s.since u.sentAt)
  | [] => false

def execRetransmitTimeout (p : Nat) (safety : Bool) (s : State) : Out :=
  runL (when_ (s.rtxDue p safety) (fun s => s.retransmit p safety)) s

/-- No frame has begun for 2 µs (41 tt). -/
def execShortFrameIdle (p : Nat) (s : State) : Out :=
  runL (when_ ((s.port p).sends && decide (41 ≤ s.since (s.port p).lastTx)) (fun s => s.sendShort p false false)) s

/-- A short frame: its crier bit, both ACKs, then a NAKed space S before a NAKed space N. -/
def State.shortIn (s : State) (p b0 b1 b2 : Nat) : State :=
  if !s.hears p || b0 % 16 != 0xF then s
  else if (s.port p).link != .up then s.takeCrier p (bit b0 6)
  else
    let s := s.takeCrier p (bit b0 6)
    let s := s.updPort p (fun q => { q with spaceN := ackSpace q.spaceN (b1 % 64), spaceS := ackSpace q.spaceS (b2 % 64) })
    let s := if bit b0 5 then s.retransmit p true else s
    if bit b0 4 then s.retransmit p false else s

def execShortFrameReceive (p b0 b1 b2 : Nat) (s : State) : Out := runG (fun s => s.shortIn p b0 b1 b2) s

/-- A frame that ends at this hop or in a harvest of it, whatever its DEST: TRAIN, CREDIT and TIME, DISCOVER but for REPORT, LOST,
ROUTE, ATTACH and an ASSIGN that goes farther, and the answers and keep-alives of a harvest. -/
def State.staysHere (s : State) (f : Frame) : Bool :=
  if f.typ = 10 then
    let sub := at_ f.payload 0 1
    !([4, 6, 8, 10].contains sub || (sub = 5 && s.tree.valid && !s.ownPos f.dest && (lowestRoute s.tree.routes f.dest).isSome))
  else [0, 8, 9].contains f.typ || ([2, 6, 7].contains f.typ && s.answersHere f.tag)

/-- Outputs to which a frame goes by cut-through while it arrives (R194): of a scoped copy those it is replicated to, behind
their MARK where it has one (08 R227). -/
def State.cutPorts (s : State) (p : Nat) (f : Frame) : List Nat :=
  let hops := (s.tree.marks.find? (fun m => m.port = p && m.tag = f.tag && m.typ = f.typ && m.src = f.src)).map MarkSt.hops
  let outs := if s.ident.role = .leaf || s.staysHere f then []
    else if s.actsOn (.port p 0 false) f then
      (if f.hasScope && f.depth != 0 && (f.depth = 255 || s.ownPos f.dest || decide (0 < hops.getD 0)) then s.downPorts else [])
    else match s.route f.dest with
      | .out q => [q]
      | _ => []
  outs.filter (fun q => (s.port q).canSend f && decide ((s.port q).rateNow ≤ (s.port p).rateNow))

/-- The outgoing copy on port q ends with AD; its byte 0 carried a crier bit. It uses up no HSEQ. -/
def State.abortCopy (s : State) (q : Nat) : State :=
  let (cb, s) := s.crierBit q
  (s.updPort q (fun x => { x with lastTx := s.wall })).emit (.abort q cb)

/-- A condemned frame (R184, R192, R195), with byte 0 and the header as far as they arrived: its crier bit is taken, it is
counted, and NAKed for the space that byte 0 names; the copies of the frame expected next are aborted where they were going on
by cut-through. A port that trains answers nothing (R203). -/
def State.condemned (s : State) (p : Nat) (byte0 : Option Nat) (header : Option (Nat × Frame)) : State :=
  let s := match byte0 with
    | some b => if s.hears p then s.takeCrier p (bit b 6) else s
    | none => s
  if (s.port p).link != .up && (s.port p).link != .training then s
  else
    let s := s.countCondemned (.port p 0 false)
    if (s.port p).link = .training then s.breakTrain p
    else
      let isS := match byte0 with
        | some b => if b % 16 = 15 then none else some (decide (fld b 5 4 = 0))
        | none => none
      let s := s.sendShort p (isS = some false) (isS = some true)
      match header with
      | none => s
      | some (h, f) => if h = ((s.port p).space (f.cls = 0)).rxNext then (s.cutPorts p f).foldl State.abortCopy s else s

def execCondemnedFrame (p : Nat) (byte0 : Option Nat) (header : Option (Nat × Frame)) (s : State) : Out :=
  runL (fun s => s.condemned p byte0 header) s

/-- A frame that ended with AD: neither condemned, counted nor acknowledged; its crier bit came in cadence. -/
def execAbortedFrameReceive (p : Nat) (crier : Bool) (s : State) : Out :=
  runL (when_ (s.hears p) (fun s => s.takeCrier p crier)) s

/-- A long frame that this device only passes on (R191, R194, R226, R478). -/
def execLongFrameTransit (a : Arrival) (f : Frame) (s : State) : Out :=
  runL (fun s =>
    let (ok, s) := s.hop a f
    if ok then (s.touchWalk a f).forward a f else s) s

/-! ### The crier side channel (R208, 08 R243) -/

/-- Bytes of bits, least significant bit first. -/
def bytesOfBits : Nat → List Bool → List Byte
  | 0, _ => []
  | n + 1, bs => BitVec.ofNat 8 ((bs.take 8).mapIdx (fun i b => flag b i)).sum :: bytesOfBits n (bs.drop 8)

/-- TPHASE against the own stamp of the SD that carried bit 0, less the hop delay: three misses in a row count. -/
def State.tphaseCheck (s : State) (p : Nat) (m : List Byte) (stamp : Nat) : State :=
  let up := if s.tree.reversal.isSome then s.tree.curUp else s.tree.numUp
  if s.isRoot || !s.tree.valid || p != up then s
  else
    let diff : Int := sgn 24 (stamp + 2 ^ 24 - s.tree.hopDelay / 65536 % 2 ^ 24 + 2 ^ 24 - at_ m 0x1A 3)
    let bad := if 2 < diff.natAbs then (s.port p).crier.tphBad + 1 else 0
    let s := s.updPort p (fun q => { q with crier := { q.crier with tphBad := if bad = 3 then 0 else bad } })
    if bad = 3 then { s with tree := { s.tree with tphFail := sat 0xFF (s.tree.tphFail + 1), stepNext := true } } else s

/-- SYNC occupies the first 16 of the last 256 bits: with a matching CRC the message is kept, otherwise it is discarded. -/
def State.crierIn (s : State) (p stamp : Nat) : State :=
  let bits := (s.port p).crier.rxBits
  let m := bytesOfBits 32 bits
  if bits.length < 256 || at_ m 0 2 != 0x7E96 then s
  else if at_ m 31 1 = crc8 (slice m 2 29) then
    let s := s.updPort p (fun q => { q with
      crier := { q.crier with rxBits := [], last := m }, cnt := { q.cnt with crierOk := sat 0xFFFF (q.cnt.crierOk + 1) } })
    let s := if s.isRoot then { s with tree := { s.tree with topo := s.tree.topo.map (fun (e : TopoEntry) =>
        if e.uid = at_ m 8 8 then { e with modeHealth := put (at_ m 3 1) 0 4 + put (at_ m 0x18 2) 4 16 } else e) } } else s
    s.tphaseCheck p m stamp
  else s.updPort p (fun q => { q with
      crier := { q.crier with rxBits := q.crier.rxBits.drop 1 }, cnt := { q.cnt with crierBad := sat 0xFFFF (q.cnt.crierBad + 1) } })

def execCrierMessageComplete (p stamp : Nat) (s : State) : Out := run (fun s => s.crierIn p stamp) s

/-! ### The port functions (R214, R215) -/

/-- The device's upstream port (PORTx.CTRL.UPSTREAM): port A of a LEAF, numbered or not (01 Table 1.3). -/
def State.isUpstream (s : State) (p : Nat) : Bool :=
  if s.ident.role = .leaf then p = 0 else s.tree.valid && !s.isRoot && p = s.tree.curUp

/-- The port runs with its parameters latched; a legacy port asks its chain who is there. -/
def State.runPort (s : State) (p : Nat) : State :=
  let s := s.updPort p (fun q => { q with
    fn := .running, link := if q.legacy then .legacy else .down, retrains := 0, lRetry := q.retryMax, lRate := q.rateMax
    lTol := q.tol, lLegacy := q.legacy, train := TrainSt.reset, lastTx := s.wall })
  if (s.port p).link = .legacy then
    ({ s with legacy := { s.legacy with devs := [], queue := [], polling := false } }).legacyAsk [legacyReq 0 1 [] none none]
  else s

def startPort (p retryMax : Nat) (s : State) : Nat × State :=
  if (s.port p).fn != .stopped then (stOk, s)
  else if s.heldInReset p || retryMax = 0 || decide (15 < retryMax) then (stDenied, s)
  else (stOk, (s.updPort p (fun q => { q with retryMax := retryMax })).runPort p)

def execPortStart (p retryMax : Nat) (s : State) : Out := runL (regOp (startPort p retryMax)) s

def stopPort (p : Nat) (s : State) : Nat × State :=
  if (s.port p).fn != .running then (stOk, s)
  else if s.isUpstream p then (stDenied, s)
  else (stOk, s.updPort p (fun q => { q with fn := .stopping }))

def execPortStop (p : Nat) (s : State) : Out := runL (regOp (stopPort p)) s

/-- The transmit pair is silent; queued and unacknowledged frames stay for R204. -/
def State.portStopped (s : State) (p : Nat) : State :=
  if (s.port p).fn != .stopping then s
  else (s.updPort p (fun q => { q with fn := .stopped, link := .disabled })).trackCut

def execPortStopped (p : Nat) (s : State) : Out := runCore (fun s => s.portStopped p) s

/-! ### Frames held for a lost port (08 R230) -/

/-- A held frame at the end of T_RESP: a COMMAND is answered UNREACHABLE for the positions that the port leads to, any other is
discarded and returns no credits (08 R246). -/
def State.heldFails (s : State) (p : Nat) (x : QFrame) : State :=
  let f := x.frame
  if f.typ != 1 then s
  else
    let s := match x.src with
      | some o => s.consume (.port o 0 false) f
      | none => s
    let ps := if f.hasScope then s.portPositions p else [f.dest]
    let c := { noContribution with answers := ps.map (fun q => (q, stUnreachable)) }
    match s.harvestOf f.tag with
    | some h =>
      if h.kids.any (fun k => k.port = some p && !k.settled) then s.giveKid f.tag (some p) c
      else if h.up.isSome then s.sendUp f.tag f.src .nop f.dest f.depth c false
      else s
    | none => s.contribute f.tag none c f.src .nop f.dest f.depth

/-- A reroute of the interval that port p leads to is in force here. -/
def State.rerouted (s : State) (p : Nat) : Bool :=
  match (s.port p).kid with
  | some (lo, hi) => s.tree.routes.any (fun r => r.port != p && decide (r.lo ≤ lo) && decide (hi ≤ r.hi))
  | none => false

/-- T_RESP after the loss, held frames fail; copies of scoped frames that a reroute has left behind go without an answer, since
another copy serves their interval (R230–R232). -/
def State.heldTimeout (s : State) (p : Nat) : State :=
  match (s.port p).lostAt with
  | none => s
  | some w =>
    if s.since w < s.tree.tResp * ttMs then s
    else
      let xs := if s.rerouted p then [] else (s.port p).held
      xs.foldl (fun s x => s.heldFails p x) (s.updPort p (fun q => { q with held := [] }))

def execHeldFramesTimeout (p : Nat) (s : State) : Out := runCoreL (fun s => s.heldTimeout p) s

/-! ### The legacy segment (R210–R212) -/

/-- A reply that matches the request in progress. -/
def State.legacyIn (s : State) (r : LegacyReq) (data : List Byte) : State :=
  let pos := ((s.legacy.devs.find? (fun d => d.index = r.addr)).map LegacyDev.pos).getD 0
  if r.cmd = 1 then
    -- ENUMERATE is a broadcast: every KG1200 replies, and its time ends it
    let d : LegacyDev := { index := at_ data 0 1, identity := at_ data 1 6, pos := 0, present := true, codes := [] }
    if s.legacy.devs.any (fun v => v.index = d.index) || 16 ≤ s.legacy.devs.length then s
    else { s with legacy := { s.legacy with devs := s.legacy.devs ++ [d] } }
  else if r.cmd = 0x11 then
    ({ s with legacy := { s.legacy with devs := s.legacy.devs.map (fun (d : LegacyDev) =>
      if d.index = r.addr then { d with codes := (List.range 12).map (fun k => at_ data (2 * k) 2) } else d) } }).legacyNext none
  else if r.cmd = 0x20 then
    let w := at_ data 0 4
    let st := match r.expect with
      | some v => if v = w then stOk else stCheckFail
      | none => stOk
    ({ s with legacy := { s.legacy with
        status := setStatus s.legacy.status pos st
        words := if r.expect.isSome then s.legacy.words else addWord s.legacy.words pos w } }).legacyNext r.tag
  else ({ s with legacy := { s.legacy with status := setStatus s.legacy.status pos stOk } }).legacyNext r.tag

def State.legacyReplyIn (s : State) (addr cmd : Nat) (data : List Byte) (crc : Nat) : State :=
  match s.legacy.queue with
  | [] => s
  | r :: _ =>
    if (s.port 1).link != .legacy || cmd != r.cmd || (r.addr != 0 && addr != r.addr) then s
    else if crc = legacyCrc addr cmd data then s.legacyIn r data
    else s.legacyFail true

def execLegacyReply (addr cmd : Nat) (data : List Byte) (crc : Nat) (s : State) : Out :=
  runCoreL (fun s => s.legacyReplyIn addr cmd data crc) s

/-- 200 µs without a reply; an ENUMERATE that was answered has ended. -/
def State.legacyTimeout (s : State) : State :=
  match s.legacy.queue with
  | [] => s
  | r :: _ =>
    if (s.port 1).link != .legacy || s.since (s.port 1).lastTx < 4096 then s
    else if r.cmd = 1 && !s.legacy.devs.isEmpty then s.legacyNext none
    else s.legacyFail false

def execLegacyReplyTimeout (s : State) : Out := runCoreL State.legacyTimeout s

/-! ### Apertures (02 R35, R42) -/

def execApertureOpen (s : State) : Out :=
  runConvL (fun s => match s.apertureDue with
    | some a => (s.openAperture a).legacyPoll a.t a.num
    | none => s) s

end Sys2Proof.Machine
end

