-- ==== Sys2Proof/Machine/Tree.lean ====
section
/-! DEFINITION. The tree (08): the frames of the walk and of reroutes, tree time, strobes, credits, answers and keep-alives of
harvests, publications, takeover. -/

namespace Sys2Proof.Machine

/-! ### DISCOVER frames (R217–R234, Table 8.2) -/

def discA (f : Frame) : Nat := at_ f.payload 4 4
def discB (f : Frame) : Nat := at_ f.payload 8 4
def discWalk (f : Frame) : Nat := at_ f.payload 2 2

/-- WALK: a device already numbered under the walk answers DUP; any other takes the position and walks its own ports.
No frame carries t_start or the parent's port, so both are free values (DESIGN CHOICE, notes/assumptions/44.md, 45.md). -/
def State.walkIn (s : State) (p : Nat) (f : Frame) : State :=
  let id := discWalk f
  if s.tree.valid && s.tree.numberedBy = id then
    s.enqueue p { frame := discover s 1 3 id s.tree.pos 0 (le 8 s.ident.uid) f.src, src := none }
  else
    let before := s
    let pp := s.fresh % 4
    let s := s.took
    let t0 := s.now - s.fresh % (s.now + 1)
    let s := s.took.clearNumbering
    let next := discA f % 2 ^ 18
    let s := { s with tree := { s.tree with
      pos := next, valid := true, depth := discB f % 2 ^ 18, numUp := p, curUp := p, numberedBy := id, hi := next
      parent := f.src, parentPort := pp } }
    (s.recut before).walkBegin id (next + 1) (some p) t0 none

def State.walkAct (a : Arrival) (f : Frame) (s : State) : State :=
  s.ifChecked a f (fun s => match arrPort a with
    | some p => s.walkIn p f
    | none => s)

def execDiscoverWalk (a : Arrival) (f : Frame) (s : State) : Out := runL (fun s => s.onLocal a f (State.walkAct a f)) s

/-- The walk waits for an answer to this WALK on this port. -/
def State.walkAwaits (s : State) (a : Arrival) (f : Frame) : Bool :=
  let w := s.tree.walk
  w.active && !w.training && arrPort a = some w.port && discWalk f = w.id

/-- RETURN: the port is DOWNSTREAM with interval [next, n − 1]. -/
def State.returnIn (s : State) (n : Nat) : State :=
  let w := s.tree.walk
  ((s.updPort w.port (fun q => { q with kid := some (w.next, n - 1), hot := false })).updWalk (fun w => { w with next := n })).walkNext

def State.returnAct (a : Arrival) (f : Frame) (s : State) : State :=
  s.ifChecked a f (when_ (s.walkAwaits a f) (fun s => s.returnIn (discA f % 2 ^ 19)))

def execDiscoverReturn (a : Arrival) (f : Frame) (s : State) : Out := runL (fun s => s.onLocal a f (State.returnAct a f)) s

/-- DUP: the port is a ring link. -/
def State.dupAct (a : Arrival) (f : Frame) (s : State) : State :=
  s.ifChecked a f
    (when_ (s.walkAwaits a f) (fun s => (s.updPort s.tree.walk.port (fun q => { q with alt := true, altPeer := some (discA f % 2 ^ 18) })).walkNext))

def execDiscoverDup (a : Arrival) (f : Frame) (s : State) : Out := runL (fun s => s.onLocal a f (State.dupAct a f)) s

/-- REPORT: the ROOT's table takes the entry; outside a walk a new UID is a replacement. A standby takes the
entries that the ROOT sends it (R235; DESIGN CHOICE, notes/assumptions/85.md). -/
def State.reportIn (s : State) (f : Frame) : State :=
  let hi := at_ f.payload 20 4 % 2 ^ 18
  if s.isRoot then
    (if discWalk f != 0 && discWalk f != s.tree.walkId then s
    else s.takeReport (discWalk f) (discA f % 2 ^ 18) (discB f) (at_ f.payload 12 8) hi f.src)
  else if s.hasHost && discWalk f = 0 then
    s.enterTopo 1 (discA f % 2 ^ 18) (discB f) (at_ f.payload 12 8) hi (discA f % 2 ^ 18)
  else s

def State.reportAct (a : Arrival) (f : Frame) (s : State) : State := s.ifChecked a f (fun s => s.reportIn f)

def execDiscoverReport (a : Arrival) (f : Frame) (s : State) : Out := runL (fun s => s.onFrame a f (State.reportAct a f)) s

/-- The device takes the position an ASSIGN gives; a table kept under another position is disregarded (R222). -/
def State.assignIn (s : State) (p : Nat) (f : Frame) : State :=
  let before := s
  let pos := discA f % 2 ^ 18
  let other := s.tree.pos != pos
  let pending := bit (discB f) 18
  let m := (s.port p).crier.last
  let parent := if pending && decide (8 ≤ m.length) then at_ m 4 4 % 2 ^ 18 else f.src
  let s := if other then { s.clearNumbering with tree := { s.clearNumbering.tree with hi := pos } } else s
  let pp := s.fresh % 4
  let s := { s.took with tree := { s.tree with
    pos := pos, valid := true, pending := pending, depth := discB f % 2 ^ 18, numUp := p, curUp := p, cutBy := false
    reversal := none, parent := parent, parentPort := pp } }
  let s := s.recut before
  ([0, 1, 2, 3].foldl (fun s q => if q = p then s else s.offerPort q) s).sendReport 0

/-- An ASSIGN for a device farther on is passed along its exception route (R223); any other is taken. -/
def State.assignHere (s : State) (f : Frame) : Bool :=
  !s.isRoot && (!s.tree.valid || s.ownPos f.dest || (lowestRoute s.tree.routes f.dest).isNone)

def State.assignAct (a : Arrival) (f : Frame) (s : State) : State :=
  if !s.assignHere f then s
  else s.ifChecked a f (fun s => match arrPort a with
    | some p => s.assignIn p f
    | none => s)

def execDiscoverAssign (a : Arrival) (f : Frame) (s : State) : Out :=
  runL (fun s => if s.assignHere f then s.onLocal a f (State.assignAct a f) else s.onFrame a f (fun s => s)) s

def State.lostAct (a : Arrival) (f : Frame) (s : State) : State :=
  s.ifChecked a f (when_ s.isRoot (fun s =>
    s.rootLost (discA f % 2 ^ 18) (if bit (discB f) 18 then some (discB f % 2 ^ 18) else none) (bit (discB f) 21) (discWalk f)))

def execDiscoverLost (a : Arrival) (f : Frame) (s : State) : Out := runL (fun s => s.onFrame a f (State.lostAct a f)) s

/-- CUT: cut off or restored, and passed down every numbered downstream port. -/
def State.cutIn (s : State) (f : Frame) : State :=
  let before := s
  let on := discB f % 2
  let s := ({ s with tree := { s.tree with cutBy := on = 1 } }.sendCut on (discA f % 2 ^ 18)).trackCut
  if before.cutOff && !s.cutOff then s.deliverHeld else s

def State.cutAct (a : Arrival) (f : Frame) (s : State) : State :=
  s.ifChecked a f (when_ (s.tree.valid && !s.isRoot && arrPort a = some s.tree.numUp) (fun s => s.cutIn f))

def execDiscoverCut (a : Arrival) (f : Frame) (s : State) : Out := runL (fun s => s.onLocal a f (State.cutAct a f)) s

def State.routeAct (a : Arrival) (f : Frame) (s : State) : State :=
  s.ifChecked a f (fun s =>
    let x := at_ f.payload 12 4
    s.setRoute (discA f % 2 ^ 18) (discB f % 2 ^ 18) (fld x 1 0) (bit x 2) (bit x 3))

def execDiscoverRoute (a : Arrival) (f : Frame) (s : State) : Out := runL (fun s => s.onFrame a f (State.routeAct a f)) s

/-- A MARK waits for the copy it marks (R227). -/
def State.markIn (s : State) (p : Nat) (f : Frame) : State :=
  { s with tree := { s.tree with marks := s.tree.marks ++ [MarkSt.mk p (discA f % 256) (discB f % 65536) (fld (discB f) 19 16)
      (at_ f.payload 12 4 % 2 ^ 18)] } }

def execDiscoverMark (a : Arrival) (f : Frame) (s : State) : Out :=
  runL (fun s => s.onLocal a f (fun s => s.ifChecked a f (fun s => match arrPort a with
    | some p => s.markIn p f
    | none => s))) s

def State.attachAct (a : Arrival) (f : Frame) (s : State) : State :=
  s.ifChecked a f (when_ s.isRoot (fun s => s.takeAttach (discA f % 2 ^ 18) (discB f % 4) (at_ f.payload 12 8)))

def execDiscoverAttach (a : Arrival) (f : Frame) (s : State) : Out := runL (fun s => s.onFrame a f (State.attachAct a f)) s

/-- What the sequencer does with a DISCOVER frame, by its subtype. -/
def State.treeAct (s : State) (a : Arrival) (f : Frame) : State :=
  let act (k : Arrival → Frame → State → State) : State := k a f s
  match at_ f.payload 0 1 with
  | 1 => act State.walkAct
  | 2 => act State.returnAct
  | 3 => act State.dupAct
  | 4 => act State.reportAct
  | 5 => act State.assignAct
  | 6 => act State.lostAct
  | 7 => act State.cutAct
  | 8 => act State.routeAct
  | 10 => act State.attachAct
  | _ => s

/-- HALTED is left: the frames that waited for the sequencer act in the order of their arrival (16 R425). -/
def State.resumeFrames (s : State) : State :=
  if s.mode.mode = .halted || s.tree.waiting.isEmpty || !s.coreRuns then s
  else (s.tree.waiting.foldl (fun (s : State) x => (s.takeOff x.1 x.2).treeAct x.1 x.2) { s with tree := { s.tree with waiting := [] } }).flush

/-! ### Timers of the walk (R216, R217) -/

/-- 1 s after release the ROOT walks the tree, once, whatever walks RENUMBER has run before; a standby in charge does not. -/
def State.walkDue (s : State) : Bool :=
  s.isRoot && !s.tree.inCharge && s.reachable && !s.tree.walked && !s.tree.walk.active && decide (ttS ≤ s.since s.bist.goodAt)

def execWalkStart (s : State) : Out :=
  runCoreL (when_ s.walkDue (fun s => { s with tree := { s.tree with walked := true } }.walkRoot none)) s

/-- No frame on the port for T_RESP: the port is FAILED, and LOST goes to position 0. -/
def State.walkSilence (s : State) : State :=
  let w := s.tree.walk
  if !w.active || w.training || s.since w.since < w.tResp * ttMs then s
  else
    let s := (s.updPort w.port (fun q => { q with failed := true })).updWalk (fun w => { w with anyFail := true })
    (s.sendLost w.port false w.id).walkNext

def execWalkPortSilence (s : State) : Out := runCoreL State.walkSilence s

/-- The port has left TRAINING, or 2 ms are over. -/
def State.trainingWaitOver (s : State) : Bool :=
  let w := s.tree.walk
  w.active && w.training && ((s.port w.port).link != .training || decide (2 * ttMs ≤ s.since w.since))

def execWalkTrainingWaitEnd (s : State) : Out := runCoreL (when_ s.trainingWaitOver (State.walkFrom 5 true)) s

/-- While it waits, a device other than the ROOT sends PENDING on u every T_RESP / 4. -/
def State.walkPending (s : State) : State :=
  let w := s.tree.walk
  match w.upPort with
  | some u =>
    if w.active && decide (w.tResp * ttMs / 4 ≤ s.since w.lastPend) then
      (s.updWalk (fun w => { w with lastPend := s.wall })).enqueue u
        { frame := { typ := 6, cls := 1, hasScope := false, dest := s.tree.parent, src := s.tree.pos, depth := 0, tag := 0, payload := [] }
          src := none }
    else s
  | none => s

def execWalkPendingTimer (s : State) : Out := runCoreL State.walkPending s

/-! ### Tree time (R240–R242) -/

def stampAt (bs : List Byte) (o : Nat) : Nat := at_ bs o 8 * 65536 + at_ bs (o + 8) 2

def timeFrame (s : State) (dest : Nat) (body : List Byte) : Frame :=
  { typ := 9, cls := 1, hasScope := false, dest := dest, src := s.tree.pos, depth := 0, tag := 0, payload := body }

/-- SYNC goes out on port p; its stamp is taken when it leaves. -/
def State.syncOut (s : State) (p : Nat) : State :=
  let q := s.port p
  let seq := (q.time.seq + 1) % 65536
  let uid := if s.isRoot then s.ident.uid else s.tree.rootUid
  let body := le 1 1 ++ le 1 (s.syncNow.code + flag s.tree.inCharge 2) ++ le 2 seq ++ stampBytes s.stamp ++ stampBytes q.time.d ++ le 8 uid
  (s.updPort p (fun q => { q with time := { q.time with seq := seq, t1 := s.stamp, lastSent := s.now } })).enqueue p
    { frame := timeFrame s ((q.kid.getD (0, 0)).1) body, src := none }

/-- The port tree time comes from. -/
def State.timePort (s : State) : Nat := if s.tree.reversal.isSome then s.tree.curUp else s.tree.numUp

/-- Every 1 ms, and after a backward step of tree time, on every UP port but the one tree time comes from, and on every ALT port; a device without a position sends
none (R223). -/
def State.syncDue (s : State) (p : Nat) : Bool :=
  let q := s.port p
  q.sends && (s.isRoot || s.tree.valid) && (q.alt || s.isRoot || p != s.timePort)
    && (decide (q.time.lastSent + ttMs ≤ s.now) || decide (s.now < q.time.lastSent) || q.time.seq = 0)

def execTimeSyncSend (s : State) : Out :=
  runCoreL (fun s => [0, 1, 2, 3].foldl (fun s p => if s.syncDue p then s.syncOut p else s) s) s

/-- The offset is taken up: a step at the first SYNC, beyond 64 tt or after TPHASE failures; otherwise a trim of at most
200 ppm that cancels it (R241; the remaining offset stands in the clock's trim). -/
def State.takeOffset (s : State) (o : Int) : State :=
  if s.tree.lastSync.isNone || s.tree.stepNext || decide (64 * 65536 < o.natAbs) then
    let t := ((s.stamp : Int) - o).toNat
    { s with clk := { s.clk with tt := t / 65536, frac := t % 65536, trim := 0 }
             tree := { s.tree with steps := sat 0xFF (s.tree.steps + 1), stepNext := false } }.beatFrom.dropPassed
  else { s with clk := { s.clk with trim := -o } }

/-- The sync state after a SYNC from upstream with the given state (R242). -/
def State.syncAfter (s : State) (o : Int) (up : Nat) : State :=
  let good := if o.natAbs ≤ 1024 then sat 4 (s.tree.good + 1) else 0
  { s with tree := { s.tree with
      good := good, lastSync := some s.wall
      sync := if up = 3 then .holdover else if up = 2 && good = 4 then .locked else .acquiring } }

/-- A SYNC frame: every receiver that has a position answers with an ECHO; the child takes its time from it. -/
def State.syncIn (s : State) (p : Nat) (f : Frame) (t2 : Nat) : State :=
  let b := at_ f.payload 1 1
  let uid := at_ f.payload 0x18 8
  let s := if s.ident.role = .root && bit b 2 && uid != s.ident.uid then
      { s with tree := { s.tree with standbyLike := true, valid := s.tree.valid && s.tree.standbyLike } } else s
  let s := if b % 4 = 2 then { s with tree := { s.tree with upLocked := s.wall } } else s
  let s := if !(s.isRoot || s.tree.valid) then s
    else s.enqueue p { frame := timeFrame s f.src (le 1 2 ++ [0] ++ le 2 (at_ f.payload 2 2) ++ stampBytes t2
                                                     ++ stampBytes s.stamp ++ List.replicate 8 0), src := none }
  if s.isRoot || !s.tree.valid || p != s.timePort then s
  else
    let d := stampAt f.payload 0xE
    let o : Int := (t2 : Int) - stampAt f.payload 4 - d
    let s := { s with tree := { s.tree with hopDelay := d % 2 ^ 32, rootUid := uid } }
    (s.takeOffset o).syncAfter o (b % 4)

def execTimeSyncReceive (a : Arrival) (f : Frame) (t2 : Nat) (s : State) : Out :=
  runL (fun s => s.onLocal a f (fun s => match arrPort a with
    | some p => s.syncIn p f t2
    | none => s)) s

/-- d = ((t4 − t1) − (t3 − t2)) / 2 for the SYNC that the ECHO answers. -/
def State.echoIn (s : State) (p : Nat) (f : Frame) (t4 : Nat) : State :=
  let q := s.port p
  if at_ f.payload 2 2 != q.time.seq || q.time.seq = 0 then s
  else
    let d : Int := (((t4 : Int) - q.time.t1) - ((stampAt f.payload 0xE : Int) - stampAt f.payload 4)) / 2
    s.updPort p (fun q => { q with time := { q.time with d := d.toNat } })

def execTimeEchoReceive (a : Arrival) (f : Frame) (t4 : Nat) (s : State) : Out :=
  runL (fun s => s.onLocal a f (fun s => match arrPort a with
    | some p => s.echoIn p f t4
    | none => s)) s

/-- 4 ms since the last SYNC from upstream. -/
def State.holdoverDue (s : State) : Bool :=
  !s.isRoot && (match s.tree.lastSync with
    | some w => decide (81920 ≤ s.since w)
    | none => false)

def execHoldoverTimeout (s : State) : Out :=
  runCore (when_ s.holdoverDue (fun s => { s with tree := { s.tree with sync := .holdover, good := 0 } })) s

/-! ### Takeover (R235) -/

def State.takeoverDue (s : State) : Bool :=
  s.restricted && s.reachable && decide (s.tree.takeover * ttMs ≤ s.since s.tree.upLocked)

def State.strobeLeadTt (s : State) : Nat := 512 * s.tree.strobeLead

/-- The intervals of the old ROOT's other children are joined over ring links, those that a joined one makes reachable too. -/
def State.joinTops (s : State) : State :=
  let tops := (s.tree.topo.filter (fun e => e.parent = 0 && e.pos != 0 && !(decide (e.pos ≤ s.homePos) && decide (s.homePos ≤ e.hi)))).mergeSort
    (fun a b => decide (a.pos ≤ b.pos))
  tops.foldl (fun s _ => tops.foldl (fun s e => s.rerouteTo e.pos e.hi) s) s

/-- The standby takes position 0, keeps its own as an alias, and turns the tree around: the devices on its path to the old
ROOT send up toward it, and what hung on the old ROOT elsewhere is joined over ring links. -/
def State.takeOver (s : State) : State :=
  let own := s.tree.pos
  let path := (s.pathUp (s.tree.topo.length + 1) own).filter (fun p => p != own && p != 0)
  let ports := own :: path
  let had := s.tree.valid
  let s := { s with tree := { s.tree with
    inCharge := true, alias_ := if had then some own else none, pos := 0
    reversal := if had then some (1, 262143) else s.tree.reversal
    cutBy := false, lastStrobe := max s.tree.lastStrobe (s.now + s.strobeLeadTt) } }.schedule
  let s := (path.zip ports).foldl (fun s h => s.sendTo (discover s 1 8 0 1 262143 (le 4 (put (s.portToward h.2) 0 2 + 4 + 8)) h.1)) s
  let s := when_ had State.joinTops s
  ((s.trackCut.deliverHeld).ledger 0x13 0 s.tree.rootUid).event 0x08 0

def execTakeover (s : State) : Out := runCoreL (when_ s.takeoverDue State.takeOver) s

/-! ### Strobes (R38, R39, R244) -/

/-- A STROBE frame for scope (pos, depth): T and the sweep number. -/
def strobeFrame (s : State) (pos depth t num : Nat) : Frame :=
  protect { typ := 3, cls := 1, hasScope := true, dest := pos, src := s.tree.pos, depth := depth, tag := num % 65536, payload := [] }
    (le 8 t ++ le 4 num)

/-- An own scoped frame goes toward its top, or is spread from here where this device is the top. -/
def State.sendScoped (s : State) (f : Frame) : State :=
  if s.ownPos f.dest then (s.spread .self f).2 else s.sendTo f

/-- The next periodic T whose strobe has not gone: the first k × P after the last one whose lead lies after START. -/
def State.nextStrobe (s : State) : Nat :=
  let p := max 1 s.period
  (max s.tree.lastStrobe (s.sweep.startT + s.strobeLeadTt) / p + 1) * p

def State.strobeDue (s : State) : Bool :=
  s.isRoot && s.sweep.fn = .running && s.sweep.lat.source = 0 && decide (s.nextStrobe ≤ s.now + s.strobeLeadTt)

def State.strobeOut (s : State) : State :=
  let t := s.nextStrobe
  ({ s with tree := { s.tree with lastStrobe := t } }).sendScoped (strobeFrame s 0 255 t (t / max 1 s.period % 2 ^ 32))

def execPeriodicStrobeSend (s : State) : Out := runCoreL (when_ s.strobeDue State.strobeOut) s

/-- A strobe: a diagnostic step in progress is abandoned (05 R143), and the aperture is scheduled. The ROOT does not receive
its own periodic strobes. -/
def State.strobeIn (s : State) (f : Frame) : State := s.abandonStep.takeStrobe (at_ f.payload 0 8) (at_ f.payload 8 4) false

def execStrobeReceive (a : Arrival) (f : Frame) (s : State) : Out :=
  runL (fun s => s.onFrame a f (fun s => s.ifChecked a f (fun s => s.strobeIn f))) s

/-! ### Other frames -/

/-- A TRIP frame names T_trip (06 R173); the device's own, which the scope's top sends down to it as well, names no later one
(DEDUCED, notes/assumptions/84.md). -/
def execTripFrameReceive (a : Arrival) (f : Frame) (s : State) : Out :=
  runL (fun s => s.onFrame a f (fun s => s.ifChecked a f
    (when_ (!s.ownPos f.src) (fun s => s.tripTime f.tag (at_ f.payload 0 8))))) s

def execCurrentPublicationReceive (a : Arrival) (f : Frame) (s : State) : Out :=
  runL (fun s => s.onFrame a f (fun s => s.takeCurrents f.payload)) s

/-- CREDIT: four increments, one for each class (R246). -/
def State.creditIn (s : State) (p : Nat) (pl : List Byte) : State :=
  s.updPort p (fun q => { q with credits :=
    { s := sat 65535 (q.credits.s + at_ pl 0 2), c := sat 65535 (q.credits.c + at_ pl 2 2), d := sat 65535 (q.credits.d + at_ pl 4 2)
      b := sat 65535 (q.credits.b + at_ pl 6 2) } })

def execCreditFrameReceive (a : Arrival) (f : Frame) (s : State) : Out :=
  runG (fun s => s.onLocal a f (fun s => match arrPort a with
    | some p => s.creditIn p f.payload
    | none => s)) s

/-- A FAULT frame at the ROOT is the event FAULT (11 R326). -/
def execFaultFrameReceive (a : Arrival) (f : Frame) (s : State) : Out :=
  runL (fun s => s.onFrame a f (fun s => s.ifChecked a f
    (when_ s.isRoot (fun s => s.event 0x02 (f.src + put (at_ f.payload 1 1) 32 5))))) s

/-! ### Answers and keep-alives (06 R170) -/

/-- An open harvest here waits for this port. -/
def State.awaits (s : State) (tag : Nat) (a : Arrival) : Bool :=
  match arrPort a with
  | none => false
  | some p => s.glean.harvests.any (fun h => h.tag = tag && h.kids.any (fun k => k.port = some p && !k.settled))

/-- Every frame of a contributor for the query restarts its timer. -/
def State.restartTimer (s : State) (tag : Nat) (a : Arrival) : State :=
  s.updHarvest tag (fun h => { h with kids := h.kids.map (fun (k : Contributor) => if k.port = arrPort a && !k.settled then { k with since := s.wall } else k) })

/-- Whether an answer ends here: a harvest keeps its transaction's frames, also those that come after it has closed, and the
ROOT those addressed to it (06 R170). -/
def State.answerHere (s : State) (f : Frame) : Bool :=
  s.answersHere f.tag || (match s.route f.dest with
    | .here => true
    | _ => false)

/-- PENDING: consumed by the harvest it is for, or by a walk; passed on otherwise. -/
def State.pendingIn (s : State) (a : Arrival) (f : Frame) : State :=
  let (ok, s) := s.hop a f
  if !ok then s
  else
    let s := s.touchWalk a f
    if s.awaits f.tag a then s.deliver a f (fun s => s.restartTimer f.tag a)
    else if s.answerHere f then s.deliver a f (fun s => s)
    else s.forward a f

def execPendingFrameReceive (a : Arrival) (f : Frame) (s : State) : Out := runCoreL (fun s => s.pendingIn a f) s

/-- The keys of a transaction's COMMAND frames: its scope, and of a SURVEY_RUN the source by itself (03 R88). -/
def Tx.keys (t : Tx) : List (Nat × Nat) := (t.hdr.pos, t.hdr.depth) :: (match t.req with
  | .surveyRun _ _ source _ _ _ => [(source, 0)]
  | _ => [])

/-- After a rejection the next COMMAND of the key carries SYNC (07 R201). -/
def State.resync (s : State) (tag : Nat) : State :=
  match s.txOfTag tag with
  | some t => { s with host := { s.host with refs := s.host.refs.map (fun (r : SendRef) =>
      if t.keys.contains (r.dest, r.depth) then { r with sync := true } else r) } }
  | none => s

/-- A frame before the last of an answer brings nothing decoded (DESIGN CHOICE, notes/assumptions/4.md). -/
def partOnly (c : Contribution) : Bool := c.answers.isEmpty && c.missing.isEmpty && c.rejected.isNone

/-- What arrives for a transaction: consumed by the harvest that waits for it; at the ROOT it completes an unharvested
transaction; a late answer to a harvest is ignored. -/
def State.answerIn (s : State) (a : Arrival) (f : Frame) (c : Contribution) : State :=
  if partOnly c then s
  else if s.awaits f.tag a then
    (if c.rejected.isSome then s.resync f.tag else s).contribute f.tag (arrPort a) c f.src .nop f.dest 0
  else if s.glean.harvests.any (fun h => h.tag = f.tag) then s
  else if s.hasHost && (s.txOfTag f.tag).isSome then
    (if c.rejected.isSome then s.resync f.tag else s).contribute f.tag none c f.src .nop f.dest 0
  else s

/-- A RESPONSE: tested where it is consumed; a wrong check value is neither an answer nor a sign of life. -/
def State.responseIn (s : State) (a : Arrival) (f : Frame) (c : Contribution) : State :=
  let (ok, s) := s.hop a f
  if !ok then s
  else
    let s := s.touchWalk a f
    if s.answerHere f then
      s.deliver a f (fun s => s.ifChecked a f (fun s => (s.restartTimer f.tag a).answerIn a f c))
    else s.forward a f

def execResponseFrameReceive (a : Arrival) (f : Frame) (c : Contribution) (s : State) : Out :=
  runCoreL (fun s => s.responseIn a f c) s

/-! ### Wake tones (R238) -/

def State.toneDue (s : State) (p : Nat) : Bool :=
  let q := s.port p
  q.fn = .running && q.everUp && (q.link = .down || q.link = .lost) && decide (10 * ttMs ≤ s.since q.toneAt)

def execWakeToneSend (s : State) : Out :=
  runCore (when_ (s.reachable && s.mode.mode != .dormant && !s.cutOff) (fun s => [0, 1, 2, 3].foldl (fun s p =>
    if s.toneDue p then (s.updPort p (fun q => { q with toneAt := s.wall, lastTx := s.wall })).emit (.tone p none) else s) s)) s

end Sys2Proof.Machine
end

