-- ==== Sys2Proof/Machine/Partition.lean ====
section
/-! DEFINITION. The safety partition (10): passcode and sessions, staged writes, frames and heartbeats, inputs, outputs and
their tests, arming. -/

namespace Sys2Proof.Machine

/-! ### Passcode and authentication (R286, R287) -/

def digestOf (uid passcode : Nat) : Nat := sha256 (le 8 passcode ++ le 8 uid)

/-- SAFETY.SESSION.FACTORY. -/
def State.factory (s : State) : Bool := s.safety.digest = digestOf s.ident.uid 0

def State.locked (s : State) : Bool := s.safety.lockEnd.isSome

def State.updSafety (s : State) (f : SafetySt → SafetySt) : State := { s with safety := f s.safety }

/-- The five sectors of a copy of the partition's area are erased one after another, each under a suspension of its own (16 Table 16.1,
11 R318). -/
def State.eraseCopy (s : State) : State := (List.replicate 5 Erase.data).foldl State.eraseBegins s

/-- The partition's area of the data flash is written with new content: its older copy is erased first (DEDUCED,
notes/assumptions/112.md). -/
def State.writeNv (s : State) (nv : SafNv) : State :=
  if nv = s.safety.nv then s
  else (s.updSafety (fun f => { f with nv := { nv with writes := nv.writes + 1 } })).eraseCopy

/-- FAILS, LEVEL and the lock are mirrored in the data flash at each change. -/
def State.mirror (s : State) : State :=
  let f := s.safety
  s.writeNv { f.nv with fails := f.fails, level := f.level, lock := match f.lockEnd with
    | some e => e - s.clk.rtc
    | none => if f.relock then f.nv.lock else 0 }

/-- Minutes of the next lock. -/
def State.lockMinutes (s : State) : Nat := 10 * 2 ^ s.safety.level

/-- An authentication failure: counted, entered in the parish register, and at the fifth the partition locks. -/
def State.authFail (s : State) (session origin : Nat) : State :=
  let s := s.parish 5 0 0 0 0 session origin none
  if s.safety.fails < 4 then (s.updSafety (fun f => { f with fails := f.fails + 1 })).mirror
  else
    let m := s.lockMinutes
    let s := s.parish 6 0 0 0 m session origin none
    (s.updSafety (fun f => { f with fails := 0, level := sat 7 (f.level + 1), lockEnd := some (s.clk.rtc + m * 60 * 32768) })).mirror

/-! ### Sessions (R288–R291, Table 10.1) -/

/-- Modes that honour an OPEN. -/
def State.openMode (s : State) : Bool := s.inMode [.quiet, .run, .survey, .commit, .degraded, .safe]

def State.sessionOpen (s : State) (tag : Option Nat) (passcode origin : Nat) : State :=
  if s.locked || s.safety.session.isSome || !s.openMode then s.respond tag stDenied 0
  else if digestOf s.ident.uid passcode != s.safety.digest then (s.authFail 0 origin).respond tag stDenied 0
  else
    let id := s.fresh % (2 ^ 32 - 1) + 1
    let s := (s.took.updSafety (fun f => { f with fails := 0, level := 0, session := some id, origin := origin
                                                  staged := [], lastWrite := s.wall })).mirror
    (s.parish 1 0 0 0 0 id origin none).respond tag stOk id

/-- A SAFETY_SESSION or SAFETY_WRITE that names another session than the open one; none is counted while locked. -/
def State.wrongSession (s : State) (tag : Option Nat) (session origin : Nat) : State :=
  (if s.locked then s else s.authFail session origin).respond tag stDenied 0

def State.setPasscode (s : State) (tag : Option Nat) (session passcode new origin : Nat) : State :=
  if s.locked then s.respond tag stDenied 0
  else if s.safety.session != some session || digestOf s.ident.uid passcode != s.safety.digest then s.wrongSession tag session origin
  else if new = 0 then s.respond tag stDenied 0
  else
    let d := digestOf s.ident.uid new
    let s := (s.updSafety (fun f => { f with digest := d })).writeNv { s.safety.nv with digest := d }
    (s.parish 7 0 0 0 0 session origin none).respond tag stOk 0

/-- The value the session would apply. -/
def State.sessionValue (s : State) (a : Nat) : Option Nat :=
  match s.safety.staged.find? (fun w => w.1 = a) with
  | some w => some w.2
  | none => s.safety.block.get a

def isEnroll (a : Nat) : Bool := decide (0x4000 ≤ a) && decide (a ≤ 0x7FFC)

/-- Addresses and values that R31 and R310 allow on a stack-mounted device. -/
def stackWritable (a v : Nat) : Bool :=
  if isEnroll a then decide (a ≤ 0x4004) && !bit v 19 && !bit v 20
  else !(a = 0x2008 || a = 0x200C || (decide (0x2028 ≤ a) && decide (a ≤ 0x2038)))

/-- What the factory passcode forbids (R286). -/
def factoryForbids (a v : Nat) : Bool :=
  ((a = 0x2008 || a = 0x200C) && v != 0) || (isEnroll a && bit v 18)

def State.safetyWrite (s : State) (tag : Option Nat) (session a value old origin : Nat) : State :=
  if s.safety.session != some session then s.wrongSession tag session origin
  else
    let deny := s.respond tag stDenied 0
    let v := value % 2 ^ 32 &&& safMask a
    match s.sessionValue a with
    | none => deny
    | some cur =>
      let isNew := !(s.safety.staged.any (fun w => w.1 = a))
      if !safInRange a v || cur != old || (!s.mode.station && !stackWritable a v) || (s.factory && factoryForbids a v)
        || (isNew && decide (64 ≤ s.safety.staged.length)) then deny
      else
        let s := s.updSafety (fun f => { f with staged := f.staged.filter (fun w => w.1 != a) ++ [(a, v)], lastWrite := s.wall })
        (s.parish 2 0 a cur v session origin tag).answer stOpen

/-- Valid entries of ENROLL as words. -/
def SafBlock.valid (b : SafBlock) : List Nat := (b.enroll.map Prod.snd).filter (fun w => bit w 18)

/-- The consistency checks of R311. -/
def State.consistent (s : State) (b : SafBlock) : Bool :=
  let v := b.valid
  (b.uv = 0 || decide (b.uv + 100 ≤ b.ov))
    && decide ((v.map (fun w => fld w 17 0)).Nodup)
    && (!s.mode.station || v.all (fun w => bit w 19 || bit w 20))
    && (!s.factory || (b.func1 = 0 && b.func2 = 0 && v.isEmpty))

/-- The staged values as a block. -/
def State.stagedBlock (s : State) : SafBlock := s.safety.staged.foldl (fun b w => b.set w.1 w.2) s.safety.block

def State.stagedRearm (s : State) : Nat := ((s.safety.staged.find? (fun w => w.1 = 0x2038)).map Prod.snd).getD 0

/-- Timers of the positions a block enrols: a newly enrolled one counts as just heard (R297). -/
def State.enrolHeard (s : State) (b : SafBlock) : State :=
  if !s.mode.station then s
  else s.updSafety (fun f => { f with heard := b.valid.map (fun w =>
    match f.heard.find? (fun h => h.pos = fld w 17 0) with
    | some h => h
    | none => { pos := fld w 17 0, at_ := s.wall, cause := 0, out := false, ref := none }) })

/-- Supervisors whose ENROLL entry changes hear SYNC next (R295). -/
def State.resyncSup (s : State) (old b : SafBlock) : State :=
  let ch := ([0, 1].filter (fun i => old.enr i != b.enr i)).flatMap (fun i => [fld (old.enr i) 17 0, fld (b.enr i) 17 0])
  s.updSafety (fun f => { f with sup := f.sup.map (fun (e : SupRef) => if ch.contains e.pos then { e with sync := true } else e) })

def zeroCount (d : Deb) : Deb := { d with bad := 0, good := 0 }

/-- Debounce counts after a change of limits (R294); a device that is not enrolled keeps none (R296). -/
def State.limitCounts (s : State) (old b : SafBlock) : State :=
  let s := s.mapCells (fun _ c =>
    let c := if old.ov = b.ov then c else { c with ov := zeroCount c.ov }
    if old.uv = b.uv then c else { c with uv := zeroCount c.uv })
  let code := decide (old.ot % 65536 ≠ b.ot % 65536)
  let aux (l : List Deb) (lim : Bool) := l.mapIdx (fun k d =>
    if !bit b.ot (16 + k) then Deb.zero else if lim && code then zeroCount d else d)
  let s := { s with sweep := { s.sweep with auxDeb := aux s.sweep.auxDeb true, auxUn := aux s.sweep.auxUn false } }
  if s.enrolled then s
  else { s.mapCells (fun _ c => { c with ov := Deb.zero, uv := Deb.zero, un := Deb.zero }) with
         sweep := { s.sweep with auxDeb := List.replicate 16 Deb.zero, auxUn := List.replicate 16 Deb.zero } }

/-- CLOSE applies the staged values at one instant. -/
def State.applyStaged (s : State) (session origin : Nat) : State :=
  let old := s.safety.block
  let b := s.stagedBlock
  let rearm := s.stagedRearm
  let n := s.safety.staged.length
  let s := (s.writeNv { s.safety.nv with block := b }).updSafety (fun f => { f with block := b, session := none, staged := [] })
  let s := s.parish 3 n 0 0 0 session origin none
  let s := ((s.enrolHeard b).resyncSup old b).limitCounts old b
  let s := [1, 2].foldl (fun s x => if old.func x = b.func x then s else s.trip x 5 0 0) s
  [1, 2].foldl (fun s x => if bit rearm (x - 1) then s.arm x else s) s

def State.sessionClose (s : State) (tag : Option Nat) (session origin : Nat) : State :=
  if s.locked then s.respond tag stDenied 0
  else if s.safety.session != some session then s.wrongSession tag session origin
  else
    let b := s.stagedBlock
    let rearm := s.stagedRearm
    let t := s.enrolHeard b
    if !s.consistent b || [1, 2].any (fun x => bit rearm (x - 1) && !t.mayArm b x) then s.respond tag stDenied 0
    else (s.applyStaged session origin).respond tag stOk 0

/-- A program waits for the erase in progress (16 R408). -/
def execParishEntryProgrammed (s : State) : Out := runCoreL (when_ s.flashFree State.parishProgrammed) s

/-- 120 s with no accepted SAFETY_WRITE. -/
def execSessionIdleTimeout (s : State) : Out :=
  run (when_ (s.safety.session.isSome && decide (120 * ttS ≤ s.since s.safety.lastWrite)) State.dropSession) s

def execAuthenticationLockEnd (s : State) : Out :=
  run (when_ (match s.safety.lockEnd with
    | some e => decide (e ≤ s.clk.rtc)
    | none => false) (fun s => (s.updSafety (fun f => { f with lockEnd := none })).mirror)) s

/-! ### Frames of stack-mounted devices (R293–R295) -/

def State.heartbeat (s : State) : State :=
  match s.beatInstant with
  | some t => if s.safety.lastBeat < t then
      (s.updSafety (fun f => { f with lastBeat := t })).sendSafety 1 (s.safety.lastEval % 2 ^ 32) else s
  | none => s

def execHeartbeatSend (s : State) : Out := runCoreL (when_ (s.limitsActive && s.mode.mode != .dormant) State.heartbeat) s

/-- An input named in OT_LIMIT without a sample for 2 s outside DORMANT counts as violating with cause UNOBSERVED. Each further
2 s without a sample is one more evaluation (DESIGN CHOICE, notes/assumptions/108.md). -/
def State.unobserved (s : State) : State :=
  let before := s.reports
  let late (k : Nat) (d : Deb) : Bool := s.otInput k && decide (2 * ttS * (d.bad + 1) ≤ s.since (s.sweep.auxSeen.getD k 0))
  let s := { s with sweep := { s.sweep with auxUn := s.sweep.auxUn.mapIdx (fun k (d : Deb) =>
    if late k d then debStep s.safety.block.debounce true d else d) } }
  s.limitReport before s.safety.lastEval

def execUnobservedTimeout (s : State) : Out := runL (when_ (s.limitsActive && s.mode.mode != .dormant) State.unobserved) s

/-! ### Supervision (R284, R297, R298) -/

/-- The partition of a station-mounted device is at work. -/
def State.supervising (s : State) : Bool := s.mode.station && s.awake && s.mode.mode != .lockout

def State.supervises (s : State) (x : Nat) : Bool := kindOf (s.safety.block.func x) != 0 && bit (s.safety.block.func x) 4

def State.safetyReject (s : State) (a : Arrival) (counter : Bool) : State :=
  (s.raise (if counter then 10 else 11) 4).countRej a counter

/-- An accepted frame: the position is heard, and a cause is a demand. -/
def State.safetyHeard (s : State) (pos counter cause item : Nat) : State :=
  let s := s.updSafety (fun f => { f with heard := f.heard.map (fun (h : Heard) =>
    if h.pos = pos then { h with at_ := s.wall, cause := cause, out := false, ref := some counter } else h) })
  if cause = 0 then s
  else [1, 2].foldl (fun s x => if bit (s.safety.block.func x) 4 && (s.safety.block.feeds x).contains pos then s.trip x 3 pos item else s) s

/-- A SAFETY frame at its destination; a rejected one returns no credits (07 R201, 08 R246). -/
def State.safetyIn (s : State) (a : Arrival) (f : Frame) : State :=
  if !s.supervising then s.consume a f
  else match s.heardOf f.src with
    | none => s.consume a f
    | some h =>
      if !checkOk f then s.safetyReject a false
      else if !counterVerdict h.ref (at_ f.payload 0 2) (bit (at_ f.payload 2 1) 0) then s.safetyReject a true
      else (s.consume a f).safetyHeard f.src (at_ f.payload 0 2) (at_ f.payload 5 1) (at_ f.payload 6 1)

def execSafetyFrameReceive (a : Arrival) (f : Frame) (s : State) : Out :=
  runL (fun s => s.onFrame a f (fun s => s.safetyIn a f)) s

/-- An enrolled position is silent for HEARTBEAT_TIMEOUT. -/
def State.beatTimeout (s : State) (i : Nat) : State :=
  let w := s.safety.block.enr i
  let pos := fld w 17 0
  match s.heardOf pos with
  | none => s
  | some h =>
    if !s.supervising || !bit w 18 || h.out || s.since h.at_ < s.safety.block.timeoutTt then s
    else
      let s := s.updSafety (fun f => { f with heard := f.heard.map (fun (h : Heard) => if h.pos = pos then { h with out := true } else h) })
      [1, 2].foldl (fun s x => if bit w (18 + x) && s.supervises x then (s.raise 26 x).trip x 4 pos 0 else s) s

def execHeartbeatTimeout (index : Nat) (s : State) : Out := runL (fun s => s.beatTimeout index) s

/-! ### Arming (R299) -/

def execAutoArm (x : Nat) (s : State) : Out :=
  run (when_ (s.supervising && bit (s.safety.block.func x) 5 && !(s.outp x).autoUsed && !(s.outp x).tripped && !(s.outp x).on
    && s.mayArm s.safety.block x) (fun s => s.arm x)) s

/-! ### Dual-contact inputs (R300) -/

/-- Demands of input i on the functions it trips. -/
def State.demand (s : State) (i cause : Nat) : State :=
  [1, 2].foldl (fun s x => if kindOf (s.safety.block.func x) != 0 && bit (s.safety.block.func x) (1 + i) then s.trip x cause 0 0 else s) s

/-- The eighth sample changes a contact. -/
def State.contact (s : State) (k : Nat) (closed : Bool) : State :=
  let i := k / 2 + 1
  let q := s.inp i
  let a := if k % 2 = 0 then closed else q.a
  let b := if k % 2 = 0 then q.b else closed
  let lim := s.safety.block.disc i * ttMs
  let near := match q.since with
    | some w => decide (s.since w ≤ lim)
    | none => true
  let clears := a && b && q.bothOpen && near
  let s := s.updInp i (fun q => { q with
    a := a, b := b, since := if a = b then none else (match q.since with
      | some w => some w
      | none => some s.wall)
    bothOpen := if a && b then false else q.bothOpen || (!a && !b), disc := q.disc && !clears })
  if a && b then s else s.demand i 1

def execSiContactChange (contact : Nat) (closed : Bool) (s : State) : Out :=
  run (when_ (s.mode.station && s.awake) (fun s => s.contact contact closed)) s

/-- The contacts have disagreed for longer than DISCREPANCYx. -/
def State.discrepancy (s : State) (i : Nat) : State :=
  match (s.inp i).since with
  | none => s
  | some w =>
    if (s.inp i).disc || s.since w ≤ s.safety.block.disc i * ttMs then s
    else ((s.updInp i (fun q => { q with disc := true })).raise 23 i).demand i 2

def execDiscrepancyTimeout (x : Nat) (s : State) : Out :=
  run (when_ (s.mode.station && s.awake) (fun s => s.discrepancy x)) s

/-! ### Output tests (R302–R304, Table 10.6) -/

/-- The test period of output x. -/
def State.testPeriod (s : State) (x : Nat) : Nat :=
  if (s.outp x).on && kindOf (s.safety.block.func x) = 2 then s.safety.block.brake * ttMs else 500 * ttMs

def State.pulseDue (s : State) (x : Nat) : Bool :=
  let o := s.outp x
  s.supervising && kindOf (s.safety.block.func x) != 0 && o.pulse.isNone && decide (s.testPeriod x ≤ s.since o.lastPulse)
    && (match o.tripAt with
      | some w => decide (ttMs ≤ s.since w)
      | none => true)

def State.pulse (s : State) (x : Nat) : State :=
  match s.pulseSwitch x with
  | none => s
  | some sw => s.updOut x (fun o => { o with pulse := some (sw, s.wall), judged := false, nextSw := 1 - sw, lastPulse := s.wall })

def execOutputTestPulse (x : Nat) (s : State) : Out := run (when_ (s.pulseDue x) (fun s => s.pulse x)) s

/-- Every output has had its first cycle with every switch passing: the allowance of DEGRADED is cleared (R304). -/
def State.clearAllowance (s : State) : State :=
  if s.cycleDone 1 && s.cycleDone 2 && !(s.safety.failed.any (fun b => b))
      && !(s.inMode [.degraded]) && !(s.mode.prior = some .degraded) then
    s.updSafety (fun f => { f with degEnd := none })
  else s

/-- The node level is judged 150 µs after the pulse edge. A cycle is over after the low side, or after the high side where the
low side may not be pulsed. -/
def State.pulseJudge (s : State) (x sw : Nat) (reached : Bool) : State :=
  let s := s.updOut x (fun o => { o with judged := true })
  let s := if reached then s else s.switchFails (2 * (x - 1) + sw)
  (s.updOut x (fun o => { o with checked := o.checked || sw = 1 || s.pulseSwitch x != some 1 })).clearAllowance

/-- Length of a test pulse of output x (Table 10.6): 500 µs for an energised BRAKE, 200 µs otherwise. -/
def State.pulseTt (s : State) (x : Nat) : Nat :=
  if (s.outp x).on && kindOf (s.safety.block.func x) = 2 then 10240 else 4096

/-- A pulse whose length has passed ends: the switch goes back to its commanded state. -/
def State.pulseBack (s : State) (x : Nat) : State :=
  match (s.outp x).pulse with
  | some (_, w) => if (s.outp x).judged && decide (s.pulseTt x ≤ s.since w) then s.updOut x (fun o => { o with pulse := none }) else s
  | none => s

/-- The node level of a pulse is judged from 150 µs after its edge, and the pulse ends at its length. -/
def State.pulseEnd (s : State) (x : Nat) (reached : Bool) : State :=
  match (s.outp x).pulse with
  | none => s
  | some (sw, w) =>
    if s.since w < 3072 then s
    else (if (s.outp x).judged then s else s.pulseJudge x sw reached).pulseBack x

def execOutputTestPulseEnd (x : Nat) (reached : Bool) (s : State) : Out := runL (fun s => s.pulseEnd x reached) s

/-- A pulse is acting on switch sw. -/
def State.pulsing (s : State) (sw : Nat) : Bool :=
  match (s.outp (sw / 2 + 1)).pulse with
  | some (k, _) => k = sw % 2
  | none => false

/-- A node at its on level in 3 consecutive reads while its switch is commanded open. -/
def execStuckNodeDetect (sw : Nat) (s : State) : Out :=
  runL (when_ (s.supervising && !(s.outp (sw / 2 + 1)).on && !s.pulsing sw) (fun s => s.switchFails sw)) s

/-- The continuous readback of an energised output fails. -/
def execContinuousReadbackFail (sw : Nat) (s : State) : Out :=
  runL (when_ (s.supervising && (s.outp (sw / 2 + 1)).on && !s.pulsing sw) (fun s => s.switchFails sw)) s

def execDegradedAllowanceExpire (s : State) : Out := runL (when_ s.allowanceOver State.toSafe) s

end Sys2Proof.Machine
end

