-- ==== Sys2Proof/Machine/Bist.lean ====
section
/-! DEFINITION. The power-up self-test: its steps and record, the restore of the history, release and entry to LOCKOUT (12;
02 R75, R76; 03 R98; 11 R314; 16 R410, R415). -/

namespace Sys2Proof.Machine

def State.updBist (s : State) (f : BistSt → BistSt) : State := { s with bist := f s.bist }
/-- A change of the record: SIGNATURE is recomputed with it (R341). -/
def State.updRec (s : State) (f : BistRec → BistRec) : State := s.updBist (fun b => { b with cur := (f b.cur).sealed })

/-! ### Steps (R334, R335, Table 12.1) -/

/-- Steps 4–7 run on stack-mounted devices only, step 9 on station-mounted devices only. -/
def State.stepSkips (s : State) (k : Nat) : Bool :=
  if s.mode.station then decide (4 ≤ k) && decide (k ≤ 7) else k = 9

/-- RESULT of a step with a finding: 3 NOTED for the harness, cells and outputs, 2 FAIL for the device. -/
def badResult (k : Nat) : Nat := if k = 6 ∨ k = 7 ∨ k = 9 then 3 else 2

/-- What a step finds: (ITEM, DETAIL) in the order of Table 12.1, of which its entry names the first, and whether it covered all that
it is to cover (R338). -/
structure StepFinds where
  finds : List (Nat × Nat)
  full  : Bool
deriving DecidableEq, Repr, Inhabited

/-- The entry of a step that ends, DURATION, FAIL_STEP and the coverage bit. -/
def State.stepDone (s : State) (k result item detail : Nat) (full : Bool) : State :=
  s.updRec (fun r => { r with
    steps := r.steps.set (k - 1) (result, item, detail), duration := s.since s.bist.goodAt
    failStep := if result = 2 && r.failStep = 0 then k else r.failStep, cover := r.cover + flag (result = 1 && full) (k - 1) })

/-- Step k ran to its own end, so that what it found stands (R334, R343). -/
def State.stepRan (s : State) (k : Nat) : Bool :=
  let e := s.bist.cur.steps.getD (k - 1) (0, 0, 0)
  e.1 = 1 || e.1 = 3 || (e.1 = 2 && e.2.2 != 0xFFFF)

/-- Tier order, mounting, channels and clocks (01 R17, R30; R313); a clock that did not start has ITEM 0. -/
def State.setupFindings (s : State) : List (Nat × Nat) :=
  let w := s.bist.world
  let order := [2, 3].filter (fun t => w.vreg.getD (t - 1) false && !(w.vreg.getD (t - 2) false))
  order.map (fun t => (t, 1)) ++ (if s.hasHost && !s.mode.station then [(0, 2)] else []) ++ w.channels.map (fun t => (t, 3))
    ++ (if w.clocks.isEmpty then [] else [(0, 4)])

/-- The CRC the active image has to have: that of a record that names its bank as ACTIVE. A record that names it as PREVIOUS
holds the CRC of the other bank's image (16 R410, Table 16.6). -/
def State.bankCrc (s : State) : Option Nat :=
  (([s.flash.recA, s.flash.recB].filterMap (fun r => r)).find? (fun r => r.active = s.flash.active)).map CommitRec.crc

/-- An uncorrectable word in area i of step 3. -/
def State.eccBad (s : State) (i : Nat) : Bool := s.bist.world.ecc.any (fun e => e.1 = i && e.2 = .uncorrectable)

/-- LENGTH of an image names a span that a bank can hold (16 R409). -/
def spanOk (m : Mem) : Bool := decide (512 ≤ imageLength m) && decide (imageLength m ≤ 1048576) && imageLength m % 256 = 0

/-- The code CRC against the record, or the header's own span without one, the signature, the configuration and the SAFETY block
(R337). -/
def State.flashFindings (s : State) : List (Nat × Nat) :=
  let m := s.bank s.flash.active
  let crc := match s.bankCrc with
    | some c => crc32c (mread flashByte m 0 (min (imageLength m) 1048576)) != c
    | none => !spanOk m
  (if crc || s.eccBad 0 then [(0, 0)] else [])
    ++ (if headerOk s m && signatureOk s m then [] else [(1, 0)])
    ++ (if s.cfgInForce.isSome && !s.eccBad 1 then [] else [(2, 0)]) ++ (if s.safety.nv.crcOk && !s.eccBad 2 then [] else [(3, 0)])

/-! ### Analog steps (R338, R339) -/

def BistTier.none : BistTier := { refUv := [], ppb := [], temp := 0, repeat_ := (0, 0, 0) }
def BistCell.none : BistCell := { samples := [], mirrors := [], loop := (0, 0), onUa := 0, onUv := 0, wire := (0, 0, 0) }

def State.bistTier (s : State) (t : Nat) : BistTier := s.bist.world.tiers.getD (t - 1) BistTier.none
def State.bistCell (s : State) (n : Nat) : BistCell := s.bist.world.cells.getD (n - 1) BistCell.none

/-- Present tiers, and their cells. -/
def State.bistTiers (s : State) : List Nat := [1, 2, 3].filter s.tierPresent

/-- REFERENCE: slot 16 within 6 mV in all four rounds, every witness ratio within 400 ppm. -/
def State.refFindings (s : State) : List (Nat × Nat) :=
  s.bistTiers.flatMap (fun t =>
    (if (s.bistTier t).refUv.any (fun (v : Int) => decide (6000 < v.natAbs)) then [(t, 1)] else [])
      ++ (if (s.bistTier t).ppb.any (fun (v : Int) => decide (400000 < v.natAbs)) then [(t, 2)] else []))

/-- LOOPBACK: a difference above 12 mV that its repeat shows again. -/
def State.loopFindings (s : State) : List (Nat × Nat) :=
  s.presentCells.filterMap (fun n =>
    let d := (s.bistCell n).loop
    if 1200 < d.1.natAbs ∧ 1200 < d.2.natAbs then some (n, sat 0xFFFE (d.2.natAbs / 10)) else none)

/-- The cell's sample of the last round of step 4 in 10 µV. -/
def bistVolts (c : BistCell) : Nat := proofSample (c.samples.getD 3 0) * 150

/-- A mirror above 2 mA in 3 of the 4 rounds: the switch is stuck closed. -/
def bistStuck (c : BistCell) : Bool := decide (3 ≤ c.mirrors.countP (fun i => decide (2000 < i)))

/-- A cell below 1.5 V, whose switch is not pulsed. -/
def bistLow (c : BistCell) : Bool := decide (bistVolts c < 150000)

/-- SWITCH: 1 stuck closed, 2 stuck open below 5 mA, 3 on-resistance above 3.0 Ω. -/
def bistSwitch (c : BistCell) : Option Nat :=
  if bistStuck c then some 1 else if bistLow c then none else if c.onUa < 5000 then some 2 else if 3 * c.onUa < c.onUv then some 3 else none

def State.switchFindings (s : State) : StepFinds :=
  { finds := s.presentCells.filterMap (fun n => (bistSwitch (s.bistCell n)).map (fun d => (n, d)))
    full := s.presentCells.all (fun n => bistStuck (s.bistCell n) || !bistLow (s.bistCell n)) }

/-- The highest cell in use, by the masks of the configuration (05 R136). -/
def State.topCell (s : State) (mask : Nat) : Nat := ((s.presentCells.filter (inMask mask)).getLast?).getD 0

/-- The wires that a suspect test of cell k names (05 R136), with `top` the highest cell in use. -/
def wiresNamed (top k : Nat) (r : Int × Int × Int) : List Nat :=
  if r.1 ≤ 150000 then []
  else
    let ws := (if 150000 < r.2.1 then [k - 1] else []) ++ (if 150000 < r.2.2 then [k] else [])
    if !ws.isEmpty then ws else if k = 1 then [0] else if k = top then [k] else []

/-- OPEN_WIRE on tier t: the suspect tests in the order of the two passes, odd then even; the first is repeated, and what both name is
open. Whether every suspect test names a wire so confirmed. -/
def State.tierWires (s : State) (top t : Nat) : List Nat × Bool :=
  let ks := (List.range 16).map (fun i => 16 * (t - 1) + i + 1)
  let sus := (ks.filter (fun k => k % 2 = 1) ++ ks.filter (fun k => k % 2 = 0)).filter (fun k => decide (150000 < (s.bistCell k).wire.1))
  match sus with
  | [] => ([], true)
  | k :: rest =>
    let again := wiresNamed top k (s.bistTier t).repeat_
    let sure := (wiresNamed top k (s.bistCell k).wire).filter again.contains
    (sure, !sure.isEmpty && rest.all (fun j => (wiresNamed top j (s.bistCell j).wire).any sure.contains))

def State.wireFindings (s : State) (top : Nat) : StepFinds :=
  let r := s.bistTiers.map (s.tierWires top)
  { finds := ((r.flatMap Prod.fst).eraseDups.mergeSort (fun a b => decide (a ≤ b))).map (fun j => (j, 0)), full := r.all Prod.snd }

/-- CONTROLLER: IS1 and IS2 within ±5,000, the auxiliary midpoint within 0x8000 ± 64. -/
def controllerFindings (w : BistWorld) : List (Nat × Nat) :=
  (if 5000 < w.is1.natAbs then [(1, 0)] else []) ++ (if 5000 < w.is2.natAbs then [(2, 0)] else [])
    ++ (if w.aux + 64 < 0x8000 ∨ 0x8000 + 64 < w.aux then [(3, 0)] else [])

/-- SAFETY_IO: switches whose node does not reach its level within 150 µs of the pulse edge (10 R302). -/
def badSwitches (w : BistWorld) : List (Nat × Nat) :=
  ((List.range 4).filter (fun i => !(w.reach.getD i false))).map (fun i => (i, 0))

/-- The configuration that counts where BIST reads it. -/
def State.config (s : State) : List Nat := if s.eccBad 1 then defaultConfig else s.cfgInForce.getD defaultConfig

/-- Cells in use of a tier: a run from its lowest cell, of 8 at least (02 R60). -/
def maskOk (m : Nat) : Bool := ((List.range 9).map (fun i => 2 ^ (i + 8) - 1)).contains m

/-- The mask in force of tier t. -/
def State.tierMask (s : State) (t m : Nat) : Nat :=
  if !s.tierPresent t then 0
  else if maskOk m then m
  else
    let here (i : Nat) : Bool := bit s.bist.present (16 * (t - 1) + i)
    let k := ((List.range 16).findIdx? (fun i => !here i)).getD 16
    if k < 8 then 0xFF else 2 ^ k - 1

/-- The cell masks that the configuration gives (17 R430). -/
def State.configMask (s : State) : Nat :=
  let w4 := s.config.getD 4 0
  s.tierMask 1 (w4 % 65536) + 2 ^ 16 * s.tierMask 2 (w4 / 65536 % 65536) + 2 ^ 32 * s.tierMask 3 (s.config.getD 5 0 % 65536)

/-- The charger takes CHEM, and stays OFF without one; after a KEEP power-on reset it takes the settings of Table 13.8 (13 R357,
R361). -/
def State.chargerConfig (s : State) : State :=
  let chem := fld (s.config.getD 5 0) 18 16
  if s.power.retained then
    s.updPower (fun p =>
      if chem = 0 then { p with chem := 0, chg := .off, nowMa := 0, vinregAct := false, resTemp := -32768 }
      else { p with chem := chem, chg := if p.en && p.chg = .off then .wait else p.chg })
  else
    s.updPower (fun p => { p with
      resTemp := if chem = 0 then -32768 else p.resTemp
      chem := chem, en := chem != 0, ichg := 10, vcv := 0, vinreg := 4500, timeoutH := 10, shareEn := false, retained := true
      chg := if chem != 0 && p.chg = .off then .wait else p.chg })

/-- The cell presence map: inputs that the proof path reads above 0.5 V (02 R75). -/
def State.proofPresent (s : State) : Nat :=
  (cellNums.map (fun n => flag (s.tierPresent (tierOf n) && decide (50000 < (s.cell n).proof * 150)) (n - 1))).sum

/-- What step k finds. -/
def State.stepFinds (s : State) (k : Nat) : StepFinds :=
  let whole (l : List (Nat × Nat)) : StepFinds := { finds := l, full := true }
  if k = 1 then whole s.setupFindings
  else if k = 2 then whole s.bist.world.march
  else if k = 3 then whole s.flashFindings
  else if k = 4 then whole s.refFindings
  else if k = 5 then whole s.loopFindings
  else if k = 6 then s.switchFindings
  else if k = 7 then s.wireFindings (s.topCell s.configMask)
  else if k = 8 then whole (controllerFindings s.bist.world)
  else whole (badSwitches s.bist.world)

/-- Read errors of step 3: corrected words count as read, an uncorrectable one counts and raises FLT_FLASH_ECC at release. -/
def State.eccCounts (s : State) : State :=
  s.bist.world.ecc.foldl (fun s e => match e.2 with
    | .none => s
    | .corrected n => { s with flash := { s.flash with eccCorr := sat 0xFFFF (s.flash.eccCorr + n) } }
    | .uncorrectable => { s with flash := { s.flash with eccUncorr := sat 0xFFFF (s.flash.eccUncorr + 1) } }) s

/-- What a step that ends leaves beside its entry: each finding sets the state of its in-service rule (R335). Of the four proof
rounds of step 4 the last one gives the samples, and with them the presence map (DESIGN CHOICE, notes/assumptions/124.md). -/
def State.stepEffect (s : State) (k : Nat) (fs : List (Nat × Nat)) : State :=
  if k = 1 then
    s.bist.world.clocks.foldl (fun s b => (if bit s.clocks b then s else { s with clocks := s.clocks + 2 ^ b }).clockEffect b) s
  else if k = 2 then
    { s with granary := [], glean := { s.glean with gleaners := s.glean.gleaners.map (fun (g : GleanerSt) => { g with scratch := [] }) } }
  else if k = 3 then ({ s with checks := s.checks.set 0 CheckSt.reset }.eccCounts).chargerConfig
  else if k = 4 then
    let s := s.mapCells (fun n c =>
      if s.tierPresent (tierOf n) then
        { c with proof := proofSample ((s.bistCell n).samples.getD 3 0), mirror := (s.bistCell n).mirrors.getD 3 0 }
      else c)
    let s := { s with sweep := { s.sweep with
      tierTemp := s.sweep.tierTemp.mapIdx (fun i v => if s.tierPresent (i + 1) then some (s.bistTier (i + 1)).temp else v) } }
    s.updBist (fun b => { b with present := s.proofPresent })
  else if k = 6 then
    fs.foldl (fun s f => s.updCell f.1 (fun c => { c with excluded := true, stuck := if f.2 = 1 then some 0 else c.stuck })) s
  else if k = 7 then
    fs.foldl (fun s f => s.detail 3 f.1 8 (if f.1 = 0 then 1 else tierOf f.1)) { s with diag := { s.diag with openWires := fs.map Prod.fst } }
  else if k = 9 then
    let c (i : Nat) : Bool := s.bist.world.contacts.getD i false
    let s := (s.updInp 1 (fun q => { q with a := c 0, b := c 1, bothOpen := !(c 0) && !(c 1) })).updInp 2
      (fun q => { q with a := c 2, b := c 3, bothOpen := !(c 2) && !(c 3) })
    { s with safety := { s.safety with failed := (List.range 4).map (fun i => fs.any (fun f => f.1 = i)) } }
  else s

/-- Step k starts: STEP names it. -/
def State.stepStarts (s : State) (k : Nat) : State := s.updRec (fun r => { r with step := k })

/-- One step that ends by itself. -/
def State.runStep (s : State) (k : Nat) : State :=
  let s := s.stepStarts k
  if s.stepSkips k then s.stepDone k 4 0 0 false
  else
    let r := s.stepFinds k
    let s := s.stepEffect k r.finds
    match r.finds with
    | [] => s.stepDone k 1 0 0 r.full
    | f :: _ => s.stepDone k (badResult k) f.1 f.2 r.full

/-- A step that does not end by itself. -/
def State.stepHangs (s : State) (k : Nat) : Bool := s.bist.world.hangs.contains k && !s.stepSkips k

/-- Steps k on, up to one that hangs; step 10 itself is BIST_END's. -/
def State.bistSteps : Nat → Nat → State → State
  | 0, _, s => s
  | n + 1, k, s =>
    if s.stepHangs k && decide (k ≤ 10) then
      let s := if k = 10 then s.updRec (fun r => { r with step := 10, cuts := 0 }) else s.stepStarts k
      s.updBist (fun b => { b with hang := some k })
    else if 9 < k then s
    else State.bistSteps n (k + 1) (s.runStep k)

/-! ### The start of the BIST (R341, R343; 01 R17, R24, R29) -/

/-- The records at the start. -/
def State.openRec (s : State) : State :=
  let p := s.bist.cur
  let cut := p.format != 0 && !p.complete
  let new : BistRec := { BistRec.empty with
    format := 1, prevCut := cut, wdt := s.ident.wdtHwstart, reset := s.mode.cause, rtc := s.rtcS
    config := s.ident.role.code + flag s.mode.station 2 + put s.ident.tiers 3 2
    cuts := if cut && s.mode.cause = 5 then sat 255 (p.cuts + 1) else 0 }
  s.updBist (fun b => { b with prev := p, cur := new.sealed })

/-- Step 1 of a BIST that runs no other is over: CUT_LOCKOUT, and FAIL_STEP names the step that PREVIOUS reached (R343). -/
def State.cutOver (s : State) : State := s.updRec (fun r => { r with cutLock := true, failStep := s.bist.prev.step })

def State.bistStart (s : State) (w : BistWorld) : State :=
  let tiers := (w.vreg.take 3).countP (fun b => b)
  let station : Bool := w.vaux && tiers = 0
  let s := { s with ident := { s.ident with role := roleOf (w.role % 4), tiers := tiers }
                    mode := { s.mode with station := station }
                    flash := { s.flash with wear := w.wear }
                    power := { s.power with vauxSt := w.vaux, hvinOk := s.power.hvinOk && !station, stageHv := s.power.stageHv && !station
                                            supply := s.power.supply.erase 9 } }.trainPcie
  let s := (s.updBist (fun b => { b with running := true, world := w, hang := none })).openRec
  if 3 ≤ s.bist.cur.cuts then
    (if s.stepHangs 1 then (s.stepStarts 1).updBist (fun b => { b with hang := some 1 }) else (s.runStep 1).cutOver)
  else s.bistSteps 10 1

/-- TEST read high at the reset: until the next reset the charger does not start, PCIe does not train, and no BIST starts
(18 R456). -/
def State.holdTest (s : State) : State :=
  let s := { s with bist := { s.bist with testHeld := true }, host := { s.host with linkUp := false } }
  if s.power.charging || s.power.chg = .detect then { s with power := { s.power with chg := .wait, nowMa := 0, since := s.wall } } else s

/-- BIST_START, which tells what TEST read at the reset. -/
def execBistStart (w : BistWorld) (s : State) : Out :=
  run (when_ (s.mode.mode = .bist && !s.bist.running && s.power.vpwrGood && !s.bist.testHeld)
    (fun s => if w.test then s.holdTest else s.bistStart w)) s

/-- A step still running at its Max ends in FAIL with DETAIL 0xFFFF, and the sequence goes on (R334). -/
def State.stepTimeout (s : State) (k : Nat) : State :=
  let s := (s.updBist (fun b => { b with hang := none })).stepDone k 2 0 0xFFFF false
  if 3 ≤ s.bist.cur.cuts then s.cutOver else s.bistSteps 10 (k + 1)

def execBistStepTimeout (s : State) : Out :=
  run (fun s => match s.bist.hang with
    | some k => s.stepTimeout k
    | none => s) s

/-! ### The restore of the history (02 R75, R76; 03 R98) -/

/-- Table 2.14. An RTC that was interrupted since the write answers NONE_AGE, and of several conditions that fail the CRC comes
first, then the RTC, then tiers and map (DESIGN CHOICE, notes/assumptions/88.md). -/
def State.histVerdict (s : State) : Nat :=
  match s.kept.snapshot with
  | none => 1
  | some sn =>
    if sn.crc != some (crc32c sn.bytes) then 2
    else if s.kept.rtcBroken || decide (86400 ≤ s.rtcS - sn.rtc) then 3
    else if sn.tiers != s.ident.tiers || sn.present != s.bist.present then 4
    else 0

/-- The restored histories; the window of a proof mean goes on from as many copies of the mean as it had entries (DESIGN
CHOICE, notes/assumptions/65.md). -/
def State.restore (s : State) (sn : Snapshot) : State :=
  let s := s.mapCells (fun n c => { c with
    pHist := List.replicate (sn.proof.getD (n - 1) (0, 0)).2 (sn.proof.getD (n - 1) (0, 0)).1
    rate := (sn.rate.getD (n - 1) []).map (fun (x : Int) => { code := x, t := 0, rtc := some (sn.rtc * 32768) }) })
  { s with diag := { s.diag with rw := sn.wires.map (fun w => { v := w % 2 ^ 31, ok := bit w 31 }) }
           survey := { s.survey with baseArea := sn.base, base := 1 }
           sweep := { s.sweep with counted := sn.counted } }

/-- The baseline copy of the data flash (sector 15). -/
def State.flashBase (s : State) : Option (List Nat) :=
  let bs := mread flashByte s.flash.dataArea 0xF000 4096
  let ws := (List.range 1023).map (fun i => at_ bs (4 * i) 4)
  let m := ws.getD 2 0 / 65536 + 65536 * ws.getD 3 0
  let there := cellNums.all (fun n => !inMask m n || (s.tierPresent (tierOf n) && inMask s.bist.present n))
  if at_ bs 4092 4 = crc32c (bs.take 4092) && there then some ws else none

/-- Step 10: history and baseline. -/
def State.histStep (s : State) : State :=
  let v := s.histVerdict
  let s := { s with kept := { s.kept with histOutcome := v } }
  let s := match v, s.kept.snapshot with
    | 0, some sn => s.restore sn
    | _, _ => match s.flashBase with
      | some ws => { s with survey := { s.survey with baseArea := ws, base := 2 } }
      | none => s
  (s.updRec (fun r => { r with
    step := 10, history := v, complete := true, pass := r.failStep = 0, cuts := 0 })).stepDone 10 1 0 0 true

/-! ### Parameters from the flash configuration (17 R430, R431) -/

def State.takeConfig (s : State) : State :=
  let c := s.config
  let s := { s with sweep := { s.sweep with par := { s.sweep.par with mask := s.configMask } }
                    flash := { s.flash with shadow := c }
                    host := { s.host with ids := (c.getD 2 0, c.getD 3 0) } }
  let rates := c.getD 6 0
  ({ s with ports := s.ports.mapIdx (fun p (q : PortSt) => { q with rateMax := min 2 (fld rates (2 * p + 1) (2 * p)) }) }).chargerConfig

/-! ### Release and LOCKOUT (R344, R345) -/

/-- The ledger entries that a release or an entry to LOCKOUT writes. -/
def State.releaseLedger (s : State) (lock : Bool) : State :=
  let r := s.bist.cur
  let s := s.ledger 0x01 (put s.mode.cause 0 8 + flag r.pass 8 + flag lock 9 + put r.failStep 16 8)
    (imageVersion (s.bank s.flash.active) + put r.history 32 8)
  let s := match s.kept.wdog with
    | some n => { s with kept := { s.kept with wdog := none } }.ledger 0x06 n 0
    | none => s
  let s := if r.prevCut then s.ledger 0x08 (put s.bist.prev.step 0 8 + put s.bist.prev.reset 8 8) 0 else s
  let s := match s.kept.survey with
    | some (tag, point, group, t0) =>
      { s with kept := { s.kept with survey := none }, survey := { s.survey with last := 5, point := point, group := group } }.ledgerAt
        0x0E (put tag 0 16 + put point 16 6 + put group 22 2 + put s.mode.cause 24 8) t0 t0 none
    | none => s
  match s.kept.commit with
  | some (st, len, crc, start, _) =>
    { s with kept := { s.kept with commit := none } }.ledgerAt 0x0F (put st 0 4 + put s.mode.cause 8 8)
      (len + put crc 32 32) start none
  | none => s

/-- After an interrupted commit STATE reads INTERRUPTED, and records that do not form a complete pair are written again (16 R415),
also where the keep island lost the commit; without one, two records that were never written stay so. -/
def State.repairPair (s : State) (interrupted : Bool) : State :=
  let s := if interrupted then s.updCommit (fun c => { c with state := 7 }) else s
  if s.completePair || (!interrupted && s.flash.recA.isNone && s.flash.recB.isNone) then s else s.rewritePair

/-- Events that a fault latched before release raises (13 R360; 12 R335, R337). -/
def State.latched (s : State) : State :=
  let s := if s.power.fMissing then s.raise 19 0 else s
  let s := if s.power.fShort then s.raise 20 0 else s
  let s := if s.power.fTimeout then s.raise 21 0 else s
  let s := if !s.stepRan 3 then s
    else if s.eccBad 0 then s.raise 13 0 else if s.eccBad 1 || s.eccBad 2 then s.raise 13 2 else s
  if s.mode.station || !s.stepRan 6 then s else s.switchFindings.finds.foldl (fun s f => (s.raise 5 f.1).detail 5 f.1 (if f.2 = 1 then 6 else 7) (tierOf f.1)) s

/-- The ports the role uses start, but for those whose link buffers failed the MARCH step (Table 6.9). -/
def State.startPorts (s : State) : State :=
  ([0, 1, 2, 3].filter (fun p => !s.heldInReset p
    && !(s.stepRan 2 && s.bist.world.march.any (fun f => decide (4 * p + 1 ≤ f.1) && decide (f.1 ≤ 4 * p + 4))))).foldl (fun s p => s.runPort p) s

/-- The window of the release serve, and with it WDOG.OPEN and WDOG.CLOSE: word 7, or the boot window where START would refuse it
(11 R314). -/
def State.releaseServe (s : State) : State :=
  if !s.ident.wdtHwstart then s
  else
    let w := s.config.getD 7 0
    let o := w % 65536
    let c := w / 65536 % 65536
    let ok := decide (1 ≤ o) && decide (o < c)
    { s with wdog := { s.wdog with openT := if ok then o else 1, closeT := if ok then c else 1000
                                   winOpen := if ok then o else 1, winClose := if ok then c else 1000
                                   count := 0, keyHeld := false, pendEarly := 0, pendValid := 0, checked := 0
                                   duplicate := false, rollFails := 0 } }

/-- What release and LOCKOUT set alike: tree time starts, and every timer that counts from here. -/
def State.timersStart (s : State) : State :=
  let inp (q : InputSt) : InputSt := { q with since := if q.a = q.b then none else some s.wall }
  let out (o : OutputSt) : OutputSt := { o with lastPulse := s.wall }
  { s with
    clk := { s.clk with treeOn := true, tt := 0, frac := 0, trim := 0 }
    bist := { s.bist with goodAt := s.wall, running := false }
    tree := { s.tree with upLocked := s.wall }
    sweep := { s.sweep with auxSeen := List.replicate 16 s.wall, lastSnap := s.wall }
    diag := { s.diag with owSince := s.wall, swSince := s.wall, haSince := s.wall }
    power := { s.power with contact := s.wall, contactDone := false, shareOn := s.power.shareEn }
    safety := { s.safety with out1 := out s.safety.out1, out2 := out s.safety.out2
                              in1 := inp s.safety.in1, in2 := inp s.safety.in2
                              heard := if s.mode.station then s.safety.block.valid.map (fun w =>
                                { pos := fld w 17 0, at_ := s.wall, cause := 0x100, out := false, ref := none }) else [] } }

/-- A lock that a KEEP power-on reset found in force restarts in full at release (10 R287). -/
def State.restartLock (s : State) : State :=
  if s.safety.relock then { s with safety := { s.safety with lockEnd := some (s.clk.rtc + s.safety.nv.lock), relock := false } } else s

/-- Switches found failed together are taken one after another, as from release (10 R303). -/
def State.failFound (s : State) : State :=
  let marks := s.safety.failed
  let s := { s with safety := { s.safety with failed := [false, false, false, false] } }
  ((List.range 4).filter (fun i => marks.getD i false)).foldl (fun s i => s.switchFails i) s

/-- The sequencer fetches the program that it runs; at an uncorrectable read it stops (16 R408; that it meets the word at release is
DESIGN CHOICE, notes/assumptions/135.md). -/
def State.fetchImage (s : State) : State :=
  if (s.wornIn s.flash.active 0 (imageLength (s.bank s.flash.active))).any FlashWear.bad then
    let s := s.flashErr 1 .uncorrectable
    { s with flash := { s.flash with fetchStop := true } }
  else s

def State.releaseNow (s : State) : State :=
  let marks := s.safety.failed
  let cut := s.kept.commit.isSome
  let s := (s.setMode .quiet).releaseServe.timersStart.restartLock
  let s := ({ s with safety := { s.safety with failed := [false, false, false, false] } }).startCollector.latched
  let s := (((s.startPorts).releaseLedger false).writeDropped).repairPair cut
  ({ s with safety := { s.safety with failed := marks } }).failFound.clearAllowance.fetchImage

def State.refuseRelease (s : State) : State :=
  let cut := s.kept.commit.isSome
  let s := ((s.setMode .lockout).outputsOff).openAll.timersStart.startCollector.latched
  ((s.startPorts).releaseLedger true).repairPair cut

/-- The release logic reads CURRENT: COMPLETE, PASS and a SIGNATURE that matches (R342). -/
def State.mayRelease (s : State) : Bool :=
  s.bist.cur.complete && s.bist.cur.pass && s.bist.cur.sig = crc32c s.bist.cur.span

/-- The BIST ends: step 10 unless CUT_LOCKOUT holds or it has timed out, the parameters of the configuration, then release or
LOCKOUT (R342). -/
def State.bistEnd (s : State) : State :=
  let s := (if s.bist.cur.cutLock || s.bist.cur.step = 10 then s else s.histStep).takeConfig
  if s.mayRelease then s.releaseNow else s.refuseRelease

def State.bistOver (s : State) : Bool :=
  s.mode.mode = .bist && s.bist.running && s.bist.hang.isNone && (s.bist.cur.step = 9 || s.bist.cur.step = 10 || s.bist.cur.cutLock)

def execBistEnd (s : State) : Out := runCoreL (when_ s.bistOver State.bistEnd) s

end Sys2Proof.Machine
end

