-- ==== Sys2Proof/Machine/Modes.lean ====
section
/-! DEFINITION. Requests of host software on the mode, SHIP, DORMANT and its wake, the return to QUIET, the reset pin, and
the wake tone (14 R371–R384, 13 R366, 07 R206). -/

namespace Sys2Proof.Machine

/-! ### SHIP (14 R372; 13 R366) -/

/-- SHIP is reached: the data flash writes are complete, outputs and switches open, ports, sharing and charger stop, and
the keep island is gone with the reserve switch. -/
def State.enterShip (s : State) : State :=
  let s := (((s.ledger 0x15 0 0).setMode .ship).outputsOff).openAll
  let s := s.programWaiting
  let s := { s with flash := { s.flash with erases := [] } }
  let ports := s.ports.map (fun (q : PortSt) => { q with fn := .stopped, link := .disabled })
  ({ s with ports := ports, wire := { s.wire with fn := .stopped, spu := none, opTag := none, pulled := false }, mode := { s.mode with shipDue := false, resetAt := none } }).updPower (fun p => { p with
    shareOn := false, onVaux := false, chg := .off, nowMa := 0, resOpen := true, stageOn := false, vpwrGood := false, keepOnRes := false })

/-- An honoured SHIP request takes effect once its answer has left. -/
def State.settleShip (s : State) : State := if s.mode.shipDue then s.enterShip else s

/-- A command that may carry a SHIP request: its effect follows the answers to it. -/
def runS (f : State → State) (s : State) : Out := run (fun s => (f s).flush.settleShip) s

/-- Whether only a function that is not STOPPED stands in the way. -/
def State.allStopped (s : State) : Bool := s.sweep.fn = .stopped && s.bal.fn = .stopped && s.survey.fn = .stopped

def State.shipVerdict (s : State) : Nat :=
  let quiet := s.inMode [.quiet, .safe] && s.safety.session.isNone && !(s.expo.state = .armed || s.expo.state = .capturing)
    && [1, 2].all (fun x => kindOf (s.safety.block.func x) = 0 || (s.outp x).tripped) && !s.ownPos 0
  if !quiet then stDenied else if s.allStopped then stOk else stBusy

/-- CODE 1. -/
def requestShip (key : Nat) (s : State) : Nat × State :=
  if key != 0x5348 then (stDenied, s)
  else
    let v := s.shipVerdict
    (v, if v = stOk then { s with mode := { s.mode with shipDue := true } } else s)

/-- CODE 2: the reset follows 1 ms later; a second request does not postpone the first. -/
def requestReset (key : Nat) (s : State) : Nat × State :=
  if key != 0x5253 then (stDenied, s)
  else (stOk, { s with mode := { s.mode with resetAt := s.mode.resetAt.or (some (s.wall + ttMs)) } })

/-- CODE 3: SAFE is left for RUN when SWEEP is RUNNING, for QUIET otherwise (R381). -/
def requestResume (key : Nat) (s : State) : Nat × State :=
  if key != 0x5245 || s.mode.mode != .safe || s.fault.isOpen || s.safety.failed.any (fun b => b) then (stDenied, s)
  else (stOk, (s.setMode (if s.sweep.fn = .running then .run else .quiet)).switches)

def execShipRequest (key : Nat) (s : State) : Out :=
  runS (regOp (requestShip key)) s
def execModeResetRequest (key : Nat) (s : State) : Out := run (regAny (requestReset key)) s
def execResumeRequest (key : Nat) (s : State) : Out := runReg (requestResume key) s

/-! ### RUN to QUIET (R375) -/

def State.idleInRun (s : State) : Bool := s.mode.mode = .run && s.allStopped && s.expo.state = .idle

def execRunToQuiet (s : State) : Out := runCore (when_ s.idleInRun (fun s => s.setMode .quiet)) s

/-! ### DORMANT (R382–R384) -/

/-- The entry to DORMANT: an escalation that is due goes first (R376). -/
def State.dormantDue (s : State) : Bool := s.lossOver && !s.graceDue

/-- Jobs, harvests and everything in granary banks 1–63 end; records of bank 0 stay, those under way as FORWARD jobs too
(R382). A port that is STOPPED loses its buffers with the banks as well. -/
def State.powerDown (s : State) : State :=
  let g := s.glean
  let port (q : PortSt) : PortSt :=
    { q with link := (if q.fn = .stopped then q.link else .down), held := [], credits := Four.zero, owed := Four.zero
             train := TrainSt.reset, crier := CrierSt.reset, spaceN := { q.spaceN with unacked := [] }
             spaceS := { q.spaceS with unacked := [] }, txq := PortSt.reset.txq, lostAt := none, bufUsed := false }
  { s with
    glean := { g with gleaners := g.gleaners.map (fun _ => { running := none, deque := [], scratch := [] }), waiting := [], finished := []
                      harvests := [], members := [], legacyJobs := [], forwards := [], closed := [], asked := [], jobsUsed := false, gatherUsed := false }
    expo := { s.expo with used := false }, host := { s.host with used := false }
    checks := s.checks.map (fun (c : CheckSt) => if c.job then { c with state := .stopped, job := false, outcome := 5 } else c)
    survey := { s.survey with blocks := [], recs := [], jobs := [], closing := none, used := false }
    granary := s.granary.filter (fun p => decide (p.1 < 0x10000))
    ports := s.ports.map port
    tree := { s.tree with sync := .unsync, lastSync := none, marks := [], walk := WalkSt.reset
                          waiting := [], heldArea := (g.forwards.filterMap (fun m => match m.2 with
                            | .record r => some r
                            | .result _ => none) ++ s.tree.heldArea).take 64 }
    clk := { s.clk with xtalOn := s.clk.xtalOn && s.sweep.fn != .stopped } }

/-- Entry: SWEEP, survey, balancing and exposures end in the order of R382. -/
def State.enterDormant (s : State) : State :=
  let fromSafe : Bool := s.mode.mode = .safe
  let keptSurvey := if s.survey.fn = .running then s.kept.survey else none
  let s := s.setMode .dormant
  let s := { s with mode := { s.mode with dormantAt := s.wall, haltHeld := false, fromSafe := fromSafe, sweepHeld := decide (s.sweep.fn = FnState.running), lampAt := s.clk.rtc } }
  let s := (((s.stopSweep).abortSurvey false).abortBalance).discardExposure
  let s := ((((s.abandonStep).abortWire true).openAll).powerDown).writeSnapshot
  { s.chgStop .off with kept := { s.kept with survey := keptSurvey } }

def execDormantEntry (s : State) : Out := runCore (when_ s.dormantDue State.enterDormant) s

/-- A wake: crystal, proof rounds, ports and charger start, the watchdog re-arms, SAFE or QUIET is entered, the interrupted
survey is reported with reset cause 0, and a held SWEEP starts. -/
def State.wake (s : State) (link : Bool) (p : Nat) : State :=
  let s := { s with mode := { s.mode with wakeSource := if link then 1 else 3, wakePort := if link then p else 0
                                          cutSince := s.mode.cutSince.map (fun _ => s.wall) }
                    clk := { s.clk with xtalOn := true }
                    sweep := { s.sweep with auxSeen := s.sweep.auxSeen.map (fun w => if w < s.mode.dormantAt then w + s.since s.mode.dormantAt else s.wall) } }
  let s := s.updPower (fun w => { w with chg := if !w.en || w.chem = 0 then .off else if w.hold || w.ntc then .fault else .wait })
  let s := ([0, 1, 2, 3].filter (fun q => (s.port q).fn = .running)).foldl (fun s q => s.runPort q) s
  let s := if s.mode.fromSafe then ((s.rearmWdog).setMode .safe).writeSnapshot else (s.rearmWdog).setMode .quiet
  let s := match s.kept.survey with
    | some (tag, point, group, t0) =>
      { s with kept := { s.kept with survey := none }, survey := { s.survey with last := 5, point := point, group := group } }.ledgerAt
        0x0E (put tag 0 16 + put point 16 6 + put group 22 2) t0 t0 none
    | none => s
  let held := s.mode.sweepHeld
  let s := { s with mode := { s.mode with fromSafe := false, sweepHeld := false } }
  if !held then s
  else (if s.mode.mode = .quiet then s.runSweep.setMode .run else s.runSweep).switches

def execDormantWake (link : Bool) (port : Nat) (s : State) : Out :=
  runL (when_ (s.mode.mode = .dormant) (fun s => s.wake link port)) s

/-! ### RESET_N and the wake tone -/

/-- RESET_N held low for at least 10 µs resets the device; between 2 µs and 10 µs it may (`takes`). -/
def execPinReset (lowNs : Nat) (takes : Bool) (s : State) : Out :=
  run (when_ (s.power.vpwrGood && s.mode.mode != .ship && decide (2000 ≤ lowNs) && (decide (10000 ≤ lowNs) || takes))
    (fun s => s.resetBy 7)) s

/-- A wake tone on port p, with the SAFETY frame that may follow it and its crier bit (07 R206, R208). -/
def State.toneIn (s : State) (p : Nat) (safety : Option (Bool × Frame)) : State :=
  let q := s.port p
  if s.mode.mode = .dormant then (if q.everUp then s.wake true p else s)
  else if q.fn = .running && (q.link = .down || q.link = .lost) && s.awake then
    let s := s.updPort p (fun q => { q with tone := true, afterTone := true })
    let s := match safety with
      | some (cb, f) => s.onFrame (.port p 0 cb) f (fun s => s.safetyIn (.port p 0 cb) f)
      | none => s
    s.retrain p
  else s

def execWakeToneDetect (p : Nat) (safety : Option (Bool × Frame)) (s : State) : Out := runL (fun s => s.toneIn p safety) s

end Sys2Proof.Machine
end

