-- ==== Sys2Proof/Machine/Wire.lean ====
section
/-! DEFINITION. The Grenpa wire master (15): its function, the lottery search, the memory operations, the strong pull-up and
the ID table. -/

namespace Sys2Proof.Machine

def State.updWire (s : State) (f : WireSt → WireSt) : State := { s with wire := f s.wire }

/-- A WIRE_OP answers with a status, a value and the bytes it read. -/
def State.wireDone (s : State) (tag : Option Nat) (status value : Nat) (bytes : List Byte) : State :=
  let s := s.answer status value [] bytes
  match tag with
  | none => s
  | some t => s.contribute t none { answerOf s.tree.pos status value with bytes := bytes } 0 .wireReadIds s.tree.pos 0

/-- A bus fault (R403): the source is raised, the code recorded, the operation completes as CHECK_FAIL. -/
def State.wireFault (s : State) (tag : Option Nat) (code : Nat) : State :=
  ((s.updWire (fun w => { w with faultCode := code, spu := none, opTag := none, pulled := false })).raise 24 code).wireDone
    tag stCheckFail 0 []

/-! ### Bit cells (R391) -/

/-- How a cell reads. -/
inductive CellRead where
  | zero | one | collided | empty
deriving DecidableEq, Repr, Inhabited

/-- A cell by its early and its late sample: which of them is low. -/
def readCell (early late : Bool) : CellRead :=
  match early, late with
  | true, false => .zero
  | false, true => .one
  | true, true => .collided
  | false, false => .empty

/-- A cell in which accessories send these bits: a 0 pulls GW low in the early window, a 1 in the late one. -/
def sentCell (bits : List Bool) : CellRead := readCell (bits.contains false) (bits.contains true)

/-- n cells in which each accessory sends its own bits, and nothing after the last. -/
def sentCells (n : Nat) (sends : List (List Bool)) : List CellRead :=
  (List.range n).map (fun i => sentCell (sends.filterMap (fun b => b[i]?)))

/-- n cells by their samples. -/
def sampledCells (n : Nat) (samples : List (Bool × Bool)) : List CellRead :=
  (List.range n).map (fun i => readCell (samples.getD i (false, false)).1 (samples.getD i (false, false)).2)

/-- Bits of bytes, least significant first. -/
def bitsOf (bs : List Byte) : List Bool := bs.flatMap (fun b => (List.range 8).map b.toNat.testBit)

/-- The number that bits give, least significant first. -/
def ofBits : List Bool → Nat
  | [] => 0
  | b :: bs => flag b 0 + 2 * ofBits bs

/-- The bits of cells that all read 0 or 1. -/
def cellBits : List CellRead → Option (List Bool)
  | [] => some []
  | .zero :: cs => (cellBits cs).map (fun bs => false :: bs)
  | .one :: cs => (cellBits cs).map (fun bs => true :: bs)
  | .collided :: _ => none
  | .empty :: _ => none

/-- The bytes of cells that all read 0 or 1. -/
def cellBytes (cells : List CellRead) : Option (List Byte) :=
  (cellBits cells).map (fun bs => le (cells.length / 8) (ofBits bs))

/-! ### Commands (R393, Table 15.2) -/

/-- Bytes with the CRC-8 over them. -/
def withCrc8 (bs : List Byte) : List Byte := bs ++ le 1 (crc8 bs)

/-- LOTTERY and ROUND with their seed; round 0 is the LOTTERY. -/
def lotteryCmd (r seed : Nat) : List Byte := (if r = 0 then 0x5C else 0x5D) :: le 2 seed
def confirmCmd (id : Nat) : List Byte := 0x3A :: withCrc8 (le 6 id)
def convertCmd : List Byte := [0x4E]
def readCmd (id offset length : Nat) : List Byte := 0x71 :: withCrc8 (le 6 id) ++ le 2 offset ++ le 1 length
def writeCmd (id offset : Nat) (data : List Byte) : List Byte :=
  0x72 :: withCrc8 (le 6 id) ++ withCrc8 (le 2 offset ++ le 1 data.length ++ data)

/-- Events on GW in order. -/
def State.emitAll (s : State) (es : List OutEvt) : State := { s with out := s.out ++ es }

/-! ### Search (R395–R398) -/

/-- The slot an accessory draws (R395). -/
def drawSlot (seed id : Nat) : Nat := crc16From seed (le 6 id) % 64

/-- The bits an accessory sends in its readout of round r: its ID and CRC-8, cut short where it leaves. -/
def readoutBits (bus : WireBus) (r id : Nat) : List Bool :=
  let bits := bitsOf (withCrc8 (le 6 id))
  match bus.leaves.find? (fun l => l.1 = r && l.2.1 = id) with
  | some l => bits.take l.2.2
  | none => bits

/-- The 56 readout cells of slot k in round r, which these accessories hold. -/
def readoutCells (bus : WireBus) (r k : Nat) (ids : List Nat) : List CellRead :=
  match bus.noise.find? (fun l => l.1 = r && l.2.1 = k) with
  | some l => sampledCells 56 l.2.2
  | none => sentCells 56 (ids.map (readoutBits bus r))

/-- The ID the master accepts from a readout (R396), none where it rejects. -/
def readout (cells : List CellRead) : Option Nat :=
  match cellBytes cells with
  | some bs => if withCrc8 (bs.take 6) = bs then some (at_ bs 0 6) else none
  | none => none

/-- What a search holds between rounds: accessories on the bus and not found, accepted ones, collided slots of the last round, what
the master has sent. -/
structure Lottery where
  left     : List Nat
  accepted : List Nat
  last     : Nat
  sent     : List OutEvt
deriving DecidableEq, Repr, Inhabited

/-- Slot k of round r: the occupancy cell, and where it reads 0 the readout and the verdict. -/
def lotterySlot (bus : WireBus) (r : Nat) (drawn : List (Nat × Nat)) (t : Lottery) (k : Nat) : Lottery :=
  let ids := (drawn.filter (fun d => d.1 = k)).map Prod.snd
  let t := { t with sent := t.sent ++ [.gwRead 1] }
  if sentCell (ids.map (fun _ => false)) != .zero then t
  else match readout (readoutCells bus r k ids) with
    | some id => { t with
        left := t.left.filter (fun j => !ids.contains j), accepted := t.accepted ++ [id]
        sent := t.sent ++ [.gwRead 56, .gwWrite [true]] }
    | none => { t with last := t.last + 1, sent := t.sent ++ [.gwRead 56, .gwWrite [false]] }

/-- Round r, without the accessories that have left in an earlier one. -/
def lotteryRound (bus : WireBus) (r seed : Nat) (t : Lottery) : Lottery :=
  let here := t.left.filter (fun id => !(bus.leaves.any (fun l => l.2.1 = id && decide (l.1 < r))))
  let t := { t with left := here, last := 0, sent := t.sent ++ [.gwWrite (bitsOf (lotteryCmd r seed))] }
  (List.range 64).foldl (lotterySlot bus r (here.map (fun id => (drawSlot seed id, id)))) t

/-- The seed of round r, and the state that has drawn it (R397). -/
def State.wireSeed (s : State) (r : Nat) : Nat × State :=
  if s.wire.lFixed then ((s.wire.lSeed + r * 0x9E37) % 65536, s) else (s.fresh % 65536, s.took)

/-- Rounds from r on, n at most; a round follows each that held a collided slot. -/
def State.wireRounds (bus : WireBus) : Nat → Nat → Lottery → State → Nat × Lottery × State
  | 0, r, t, s => (r, t, s)
  | n + 1, r, t, s =>
    let (seed, s) := s.wireSeed r
    let t := lotteryRound bus r seed t
    if t.last = 0 then (r + 1, t, s) else State.wireRounds bus n (r + 1) t s

/-- Whether an accepted accessory answers its CONFIRM with exactly its ID and a matching CRC-8 (R398). -/
def confirms (bus : WireBus) (id : Nat) : Bool :=
  let samples := ((bus.confirm.find? (fun c => c.1 = id)).map Prod.snd).getD []
  cellBytes (sampledCells 56 samples) == some (withCrc8 (le 6 id))

/-- The n-th reset sequence of an operation. -/
def busTry (bus : WireBus) (n : Nat) : WireTry := bus.tries.getD n { fault := 0, after := none, presence := true, cells := [] }

/-- What the master has sent and read when k cells are over. -/
def cutCells : Nat → List OutEvt → List OutEvt
  | _, [] => []
  | k, .gwWrite bs :: es => if k < bs.length then [.gwWrite (bs.take k)] else .gwWrite bs :: cutCells (k - bs.length) es
  | k, .gwRead n :: es => if k < n then [.gwRead k] else .gwRead n :: cutCells (k - n) es
  | k, e :: es => e :: cutCells k es

/-- The line fault that a reset sequence followed by these cells meets: its code and what has been sent before it. -/
def busFault (t : WireTry) (es : List OutEvt) : Option (Nat × List OutEvt) :=
  if t.fault = 0 then none
  else match t.after with
    | none => some (t.fault, [])
    | some k => let cut := cutCells k es; if cut = es then none else some (t.fault, .gwReset :: cut)

/-- Verdicts that reject a slot: the collided slots (R396). -/
def collidedIn (es : List OutEvt) : Nat := es.countP (fun e => e = .gwWrite [false])

/-- The confirmation pass over the accepted accessories in increasing ID order, and what then stands in the ID table. -/
def State.confirmPass (s : State) (tag : Option Nat) (bus : WireBus) (rounds : Nat) (t : Lottery) : State :=
  let asked := t.accepted.mergeSort (fun a b => decide (a ≤ b))
  let ok := asked.filter (confirms bus)
  let found := ok.take 64
  let es := asked.flatMap (fun id => [.gwWrite (bitsOf (confirmCmd id)), .gwRead 56])
  match busFault (busTry bus 1) es with
  | some (code, sent) => (s.emitAll sent).wireFault tag code
  | none =>
    ((s.emitAll (.gwReset :: es)).updWire (fun w => { w with
      ids := found, rounds := rounds, last := if t.last = 0 then 2 else 3
      dropped := sat 255 (asked.length - ok.length) })).wireDone tag stOk found.length []

/-- Rounds begun in what a search has sent: LOTTERY and ROUND commands. -/
def roundsIn (es : List OutEvt) : Nat :=
  es.countP (fun e => match e with
    | .gwWrite bs => bs.length = 24
    | _ => false)

/-- SEARCH. One that a bus fault ends has run the rounds whose command it has sent whole; without presence there is no confirmation
pass, and DROPPED stays (R404). -/
def State.wireSearch (s : State) (tag : Option Nat) (bus : WireBus) : State :=
  let y := busTry bus 0
  if y.fault != 0 && y.after.isNone then (s.updWire (fun w => { w with rounds := 0 })).wireFault tag y.fault
  else if !y.presence then
    ((s.emit .gwReset).updWire (fun w => { w with ids := [], rounds := 0, last := 4 })).wireDone tag stOk 0 []
  else
    let (rounds, t, s) := State.wireRounds bus s.wire.lRounds 0 { left := bus.ids, accepted := [], last := 0, sent := [] } s
    let counted (es : List OutEvt) (n : Nat) (s : State) : State :=
      (s.emitAll es).updWire (fun w => { w with collisions := sat 255 (w.collisions + collidedIn es), rounds := n })
    match busFault y t.sent with
    | some (code, sent) => (counted sent (roundsIn sent) s).wireFault tag code
    | none => (counted (.gwReset :: t.sent) rounds s).confirmPass tag bus rounds t

/-! ### Memory and conversion (R389, R401) -/

/-- The strong pull-up begins, for `len` tt; with SPU_EN latched at 0 the wait is the same without it. `refused`: the WRITE before it
was answered 0x5A. -/
def State.pullUp (s : State) (tag : Option Nat) (len : Nat) (refused : Bool) : State :=
  (s.answer stOpen).updWire (fun w => { w with spu := some (s.wall, len), opTag := tag, pulled := w.lSpu, refused := refused })

/-- How a bus exchange ends: a code of Table 15.4, no good answer, or the bytes of one. -/
inductive WireEnd where
  | fault (code : Nat)
  | nothing
  | answer (bs : List Byte)
deriving DecidableEq, Repr, Inhabited

/-- One exchange: the reset sequence, the command and n answer bytes, which have to be good. -/
def exchange (t : WireTry) (cmd : List Byte) (n : Nat) (good : List Byte → Bool) : List OutEvt × WireEnd :=
  if t.fault != 0 && t.after.isNone then ([], .fault t.fault)
  else if !t.presence then ([.gwReset], .fault 6)
  else
    let es := .gwWrite (bitsOf cmd) :: (if n = 0 then [] else [.gwRead (8 * n)])
    match busFault t es with
    | some (code, sent) => (sent, .fault code)
    | none => match cellBytes (sampledCells (8 * n) t.cells) with
      | some bs => (.gwReset :: es, if good bs then .answer bs else .nothing)
      | none => (.gwReset :: es, .nothing)

/-- Exchanges until one gives a good answer, k repeats at most, each counted (R401). -/
def State.wireTries (bus : WireBus) (cmd : List Byte) (n : Nat) (good : List Byte → Bool) : Nat → Nat → State → WireEnd × State
  | 0, i, s =>
    let r := exchange (busTry bus i) cmd n good
    (r.2, s.emitAll r.1)
  | k + 1, i, s =>
    let r := exchange (busTry bus i) cmd n good
    let s := s.emitAll r.1
    if r.2 = .nothing then
      State.wireTries bus cmd n good k (i + 1) (s.updWire (fun w => { w with retries := sat 255 (w.retries + 1) }))
    else (r.2, s)

def State.wireConvert (s : State) (tag : Option Nat) (bus : WireBus) : State :=
  let r := exchange (busTry bus 0) convertCmd 0 (fun _ => true)
  match r.2 with
  | .fault k => (s.emitAll r.1).wireFault tag k
  | _ => (s.emitAll r.1).pullUp tag (300 * ttMs) false

/-- READ of the ID of an entry: the data bytes and a CRC-8 over them. -/
def State.wireRead (s : State) (tag : Option Nat) (entry offset length : Nat) (bus : WireBus) : State :=
  let cmd := readCmd (s.wire.ids.getD entry 0) offset length
  match State.wireTries bus cmd (length + 1) (fun bs => withCrc8 (bs.take length) = bs) 2 0 s with
  | (.answer bs, s) => s.wireDone tag stOk 0 (bs.take length)
  | (.fault k, s) => s.wireFault tag k
  | (.nothing, s) => s.wireFault tag 4

/-- WRITE: a status byte 0xA5 or 0x5A, and t_WR after either (Table 15.2); a byte of another value is taken as none (DESIGN CHOICE, notes/assumptions/63.md). -/
def State.wireWrite (s : State) (tag : Option Nat) (entry offset : Nat) (data : List Byte) (bus : WireBus) : State :=
  let cmd := writeCmd (s.wire.ids.getD entry 0) offset data
  match State.wireTries bus cmd 1 (fun bs => bs = [0xA5] || bs = [0x5A]) 2 0 s with
  | (.answer bs, s) => s.pullUp tag (8 * ttMs) (bs = [0x5A])
  | (.fault k, s) => s.wireFault tag k
  | (.nothing, s) => s.wireFault tag 5

/-- The READ_IDS buffer (R400). -/
def State.idBytes (s : State) : List Byte :=
  withCrc (le 4 (put s.wire.ids.length 0 7 + put s.wire.last 8 4)
    ++ (s.wire.ids.mapIdx (fun i id => le 8 (put id 0 48 + put i 48 6))).flatMap (fun b => b))

/-! ### WIRE_OP at its device (R400) -/

/-- The refusal of a WIRE_OP, if any: `entry` is the accessory that READ_MEM and WRITE_MEM name. -/
def State.wireRefusal (s : State) (entry : Option Nat) : Option Nat :=
  if s.wire.fn != .running || s.inMode [.halted, .dormant, .lockout] then some stDenied
  else if (match entry with
    | some i => decide (s.wire.ids.length ≤ i)
    | none => false) then some stDenied
  else if s.wire.spu.isSome then some stBusy
  else none

def State.wireOp (s : State) (tag : Option Nat) (entry : Option Nat) (f : State → State) : State :=
  match s.wireRefusal entry with
  | some st => s.wireDone tag st 0 []
  | none => f s

/-! ### The function (R404) and the ID table (R405) -/

def startWire (spuEn fixedSeed : Bool) (maxRounds : Nat) (s : State) : Nat × State :=
  if s.wire.fn != .stopped then (stOk, s)
  else if maxRounds = 0 ∨ 15 < maxRounds then (stDenied, s)
  else if !(s.inMode [.quiet, .run, .survey, .commit, .degraded, .safe]) then (stDenied, s)
  else (stOk, s.updWire (fun w => { w with
    fn := .running, spuEn := spuEn, fixed := fixedSeed, maxRounds := maxRounds, lSpu := spuEn, lFixed := fixedSeed
    lRounds := maxRounds, lSeed := w.seed }))

def stopWire (s : State) : Nat × State :=
  if s.wire.fn != .running then (stOk, s)
  else (stOk, s.updWire (fun w => { w with fn := if w.spu.isSome then .stopping else .stopped }))

def execWireStart (spuEn fixedSeed : Bool) (maxRounds : Nat) (s : State) : Out :=
  runReg (startWire spuEn fixedSeed maxRounds) s
def execWireStop (s : State) : Out := runReg stopWire s

/-- t_CONV or t_WR ends: the pull-up is released and the operation completes, as DENIED where the accessory refused. A sag under the
strong pull-up is fault 3; without it the master has released GW, and a line that stays low is fault 1. -/
def State.pullUpEnd (s : State) (sagged : Bool) : State :=
  match s.wire.spu with
  | none => s
  | some (w, len) =>
    if s.since w < len then s
    else
      let tag := s.wire.opTag
      let code := if s.wire.pulled then 3 else 1
      let st := if s.wire.refused then stDenied else stOk
      let s := s.updWire (fun w => { w with spu := none, opTag := none, pulled := false, refused := false
                                            fn := if w.fn = .stopping then .stopped else w.fn })
      if sagged then s.wireFault tag code else s.wireDone tag st 0 []

def execStrongPullupEnd (sagged : Bool) (s : State) : Out := runCoreL (fun s => s.pullUpEnd sagged) s

def State.idWord (s : State) (i : Nat) : Nat :=
  match s.wire.ids[i / 2]? with
  | some id => if i % 2 = 0 then id % 2 ^ 32 else put (id / 2 ^ 32) 0 16 + flag true 31
  | none => 0

/-- The word, then the index moves. -/
def readId (s : State) : Nat × State :=
  (s.idWord s.wire.index, s.updWire (fun w => { w with index := (w.index + 1) % 128 }))

def execIdDataRead (s : State) : Out := runWindow readId s

end Sys2Proof.Machine
end

