-- ==== Sys2Proof/Machine/Flags.lean ====
section
/-! DEFINITION. Every word of the parameter space as a read returns it (17 Table 17.1 and the field tables it names), and what a
read does beside it: RC fields clear, TIME_HI is latched, a window's index moves. -/

namespace Sys2Proof.Machine

def LinkState.code : LinkState → Nat
  | .disabled => 0
  | .down => 1
  | .training => 2
  | .up => 3
  | .lost => 4
  | .legacy => 5

def ExpoState.code : ExpoState → Nat
  | .idle => 0
  | .armed => 1
  | .capturing => 2
  | .delivering => 3

def ChgState.code : ChgState → Nat
  | .off => 0
  | .wait => 1
  | .precharge => 2
  | .cc => 3
  | .cv => 4
  | .detect => 5
  | .done => 6
  | .suspended => 7
  | .fault => 8

/-- Bits [16t + 15 : 16t] of a mask of 48 cells. -/
def part16 (m t : Nat) : Nat := m / 2 ^ (16 * t) % 65536

/-! ### Blocks, in the order of Table 17.1 -/

/-- IDENT (17 Table 17.4). -/
def State.identWord (s : State) (a : Nat) : Option Nat :=
  let i := s.ident
  if a = 0x0 then some 0x4800 else if a = 0x4 then some i.silicon
  else if a = 0x8 then some (i.uid % 2 ^ 32) else if a = 0xC then some (i.uid / 2 ^ 32 % 2 ^ 32)
  else if a = 0x10 then some i.tiers else if a = 0x14 then some i.role.code
  else if a = 0x18 then some (flag i.wdtHwstart 0 + flag i.debugLock 1) else none

/-- MODE (14 Table 14.8) and LAMP_LIMITS (05 Table 5.5). -/
def State.modeWord (s : State) (a : Nat) : Option Nat :=
  let m := s.mode
  if a = 0x100 then some (put m.mode.code 0 4 + put (match m.prior with
      | some p => p.code
      | none => 0) 4 4 + put m.cause 8 4 + flag m.station 12 + flag m.sweepHeld 13)
  else if a = 0x104 then some 0
  else if a = 0x108 then some (put m.wakeSource 0 4 + put m.wakePort 4 2 + put m.lampItem 8 8 + flag m.lampSafety 16)
  else if a = 0x10C then some m.tLoss else if a = 0x110 then some m.lampInterval
  else if a = 0x114 then some (put m.lampUv 0 13 + put m.lampOv 16 13) else none

/-- SWEEP and ISENSE (02 Tables 2.7–2.9). -/
def State.sweepWord (s : State) (a : Nat) : Option Nat :=
  let w := s.sweep
  let p := w.par
  if a = 0x200 then some (w.fn.code + put p.source 4 1 + put w.late 8 8)
  else if a = 0x204 then some p.period else if a = 0x208 then some p.corner
  else if a = 0x20C then some (part16 p.mask 0) else if a = 0x210 then some (part16 p.mask 1)
  else if a = 0x214 then some (part16 p.mask 2) else if a = 0x218 then some p.blank
  else if a = 0x21C then some p.settle else if a = 0x220 then some p.auxDiv else if a = 0x224 then some w.count
  else if a = 0x400 then some (flag p.en1 0 + flag p.en2 1 + flag p.inv1 2 + flag p.inv2 3)
  else if a = 0x404 then some p.gain1 else if a = 0x408 then some p.gain2
  else if a = 0x40C then some (flag w.pubEn 0 + put w.pubCh 1 1) else none

/-- SURVEY (03 Tables 3.2, 3.8). -/
def State.surveyWord (s : State) (a : Nat) : Option Nat :=
  let v := s.survey
  let p := v.par
  if a = 0x500 then some (v.fn.code + flag p.setBase 4 + put p.tag 16 16)
  else if a = 0x504 then some (flag p.ripple 0 + put p.groups 1 2 + flag p.chargePos 3)
  else if a = 0x508 then some p.points else if a = 0x50C then some p.cycles
  else if a = 0x510 then some (put p.minMa 0 16 + put p.minSnr 16 8) else if a = 0x514 then some p.source
  else if a = 0x518 then
    some (put v.point 0 6 + put v.group 6 2 + put v.last 8 4 + put v.reason 12 4 + put s.baseSource 16 3)
  else if a = 0x51C then some v.baseIndex else if a = 0x520 then some (v.baseArea.getD v.baseIndex 0)
  else if a = 0x524 then some p.shunt
  else if 0x540 ≤ a ∧ a ≤ 0x5DC then some (p.f ((a - 0x540) / 4)) else none

/-- BALANCE (04 Tables 4.6–4.8); a station-mounted device has no switches (17 R442). -/
def State.balanceWord (s : State) (a : Nat) : Option Nat :=
  let b := s.bal
  let closed := if s.mode.station then 0 else s.closedMask
  if a = 0x600 then some (b.fn.code + flag b.cont 4)
  else if a = 0x604 then some (part16 b.enable 0) else if a = 0x608 then some (part16 b.enable 1)
  else if a = 0x60C then some (part16 b.enable 2) else if a = 0x610 then some b.limit
  else if a = 0x614 then
    some (flag (cellNums.any s.rank5) 0 + flag b.starved 1 + flag (b.fn = .running && s.survey.fn != .stopped) 2
      + flag (b.suspHalt && b.fn = .running) 3 + flag b.governing 4 + flag b.hot 5 + put s.dutyNow 8 8 + put b.last 16 4 + put b.reason 20 4)
  else if a = 0x618 then some (part16 closed 0) else if a = 0x61C then some (part16 closed 1)
  else if a = 0x620 then some (part16 closed 2)
  else if 0x640 ≤ a ∧ a ≤ 0x6FC then
    let c := s.cell ((a - 0x640) / 4 + 1)
    some (put c.seconds 0 16 + put (ceilDiv c.remain edgesPerS) 16 16)
  else none

/-- Whole seconds since an instant, saturating; 0xFFFF where there is none. -/
def State.ageS (s : State) (w : Option Nat) : Nat := match w with
  | some t => sat 0xFFFF (s.since t / ttS)
  | none => 0xFFFF

/-- PROOF and DIAG (05 Table 5.5); on a station-mounted device every table word reads VALID 0 (17 R442). -/
def State.diagWord (s : State) (a : Nat) : Option Nat :=
  let d := s.diag
  if a = 0x700 then some (flag d.owEn 0 + flag d.rocEn 1 + put (s.cells.countP CellSt.pExceed) 8 6)
  else if a = 0x704 then some d.tolerance else if a = 0x708 then some d.persist else if a = 0x70C then some d.owPeriod
  else if a = 0x780 then some (flag d.switchEn 0 + flag d.harnessEn 1)
  else if a = 0x784 then
    some (flag d.ovrOw 0 + flag d.ovrSwitch 1 + flag d.ovrHarness 2 + flag d.harnessHigh 3 + flag d.pathChange 4
      + flag d.harnessOn 5 + flag (d.refProof.any (fun b => b)) 6 + flag (d.refWit.any (fun b => b)) 7)
  else if a = 0x788 then some d.swPeriod else if a = 0x78C then some d.haPeriod
  else if a = 0x790 then some (put d.rocFixed 0 8 + put d.rocSlope 8 16)
  else if a = 0x798 then some (put d.dFault 0 5 + put d.dItem 8 6 + put d.dCheck 16 4 + put d.dTier 20 2)
  else if a = 0x79C then some d.index
  else if a = 0x7A0 then some (if s.mode.station then s.tableWord d.index % 2 ^ 31 else s.tableWord d.index)
  else if a = 0x7A4 then some (s.ageS d.harnessAt + 65536 * s.ageS d.switchAt) else none

/-- GLEAN (06 Table 6.10). -/
def State.gleanWord (s : State) (a : Nat) : Option Nat :=
  let g := s.glean
  if a = 0x800 then some (put g.islandEn 0 4 + put g.islandOk 4 4)
  else if a = 0x804 then
    some (put s.loadPct 0 7 + put g.advertised 8 7 + put s.slotsUsed 16 9 + put (sat 127 g.waiting.length) 25 7)
  else if a = 0x808 then some g.collectLimit else if a = 0x80C then some (put g.gleans 0 16 + put g.overflows 16 16)
  else if a = 0x810 then some (s.expo.state.code + put s.expo.tag 8 8 + put s.expo.done 16 16) else none

/-- Word o of port p (07 Table 7.8); a port the role holds in reset reads as 17 R442. -/
def State.portWord (s : State) (p o : Nat) : Option Nat :=
  let q := s.port p
  let held := s.heldInReset p
  let c := q.cnt
  let two (lo hi : Nat) := if held then 0 else put lo 0 16 + put hi 16 16
  if o = 0x00 then some ((if held then 0 else q.fn.code) + put q.retryMax 4 4 + flag (s.isUpstream p) 8)
  else if o = 0x04 then some ((if held then 0 else q.link.code) + flag q.tone 3 + put q.retrains 8 8)
  else if o = 0x08 then some (put q.rateMax 0 2 + put (if q.link = .up then q.rateNow else 0) 4 2 + flag q.legacy 8)
  else if o = 0x0C then some q.tol
  else if o = 0x10 then some (two q.credits.s q.credits.c) else if o = 0x14 then some (two q.credits.d q.credits.b)
  else if o = 0x18 then some (if held then 0 else c.tx) else if o = 0x1C then some (if held then 0 else c.rx)
  else if o = 0x20 then some (two c.condemned c.retransmits) else if o = 0x24 then some (two c.cmdCounter c.cmdCheck)
  else if o = 0x28 then some (two c.crierOk c.crierBad) else if o = 0x2C then some (two c.legacyCrc c.legacyNoReply)
  else none

/-- TREE (08 Table 8.8). -/
def State.treeWord (s : State) (a : Nat) : Option Nat :=
  let t := s.tree
  if a = 0xA00 then
    some (put t.pos 0 18 + flag (t.valid || s.isRoot) 18 + flag t.pending 19 + flag t.reversal.isSome 20 + flag s.cutOff 21)
  else if a = 0xA04 then some (put t.curUp 0 2 + put t.numUp 2 2 + flag s.isRoot 4 + put t.depth 8 18)
  else if a = 0xA08 then some (s.now % 2 ^ 32) else if a = 0xA0C then some s.clk.timeHi
  else if a = 0xA10 then some t.hopDelay else if a = 0xA14 then some t.tResp else if a = 0xA18 then some t.strobeLead
  else if a = 0xA1C then some t.takeover
  else if a = 0xA20 then some (s.syncNow.code + put t.steps 8 8 + put t.tphFail 16 8)
  else if a = 0xA24 then some (put t.heldArea.length 0 7 + put t.dropped 16 16)
  else if a = 0xA28 then some (flag t.walk.active 0 + put t.routes.length 16 9 + flag t.inCharge 25)
  else if a = 0xA2C then
    some (if s.hasHost then put s.host.txs.length 0 13 + flag (decide (4096 ≤ s.host.txs.length)) 13 else 0)
  else none

/-- Seconds until the safe defaults (13 R364). -/
def State.chgLeft (s : State) : Nat :=
  if s.power.contactDone then 0 else sat 4095 (s.power.tChg - s.since s.power.contact / ttS)

/-- CHG: SHARE_CHARGE while the charger runs from VAUX (R362). -/
def PowerSt.shown (p : PowerSt) : Nat := if p.onVaux && p.chg != .off then 9 else p.chg.code

/-- POWER (13 Table 13.10). -/
def State.powerWord (s : State) (a : Nat) : Option Nat :=
  let p := s.power
  if a = 0xB00 then
    some (flag p.keepOnRes 0 + flag p.vpwrGood 1 + flag p.vauxSt 2 + flag p.vauxSh 3 + flag p.hvinOk 4 + put p.shown 5 4
      + flag p.vinregAct 9 + flag p.defaults 10 + flag p.present 11 + put (uns 16 p.resTemp) 16 16)
  else if a = 0xB04 then some (flag p.en 0 + put p.chem 1 3 + put p.timeoutH 8 5)
  else if a = 0xB08 then some (put p.ichg 0 7 + put p.nowMa 16 7)
  else if a = 0xB0C then some (put p.vcv 0 1 + put p.vresMv 16 12) else if a = 0xB10 then some p.vinreg
  else if a = 0xB14 then
    some (flag p.fMissing 0 + flag p.fShort 1 + flag p.fTimeout 2 + flag p.fNtc 3 + flag p.fShare 4)
  else if a = 0xB18 then some (flag p.shareEn 0 + flag p.shareOn 1 + put p.shareMa 16 8)
  else if a = 0xB1C then some (put p.tChg 0 12 + put s.chgLeft 16 12) else none

/-- WDOG and FAULT (11 Table 11.8). -/
def State.wdogWord (s : State) (a : Nat) : Option Nat :=
  let w := s.wdog
  let f := s.fault
  if a = 0xC00 then some (flag w.running 1 + flag s.ident.wdtHwstart 2 + flag s.wdSuspended 3)
  else if a = 0xC04 then some w.openT else if a = 0xC08 then some w.closeT else if a = 0xC0C then some 0
  else if a = 0xC10 then some w.rollMask
  else if a = 0xC14 then
    some (put w.count 0 16 + flag w.keyHeld 16 + flag w.early 17 + flag w.rollFail 18 + flag w.duplicate 19 + put w.checked 20 12)
  else if a = 0xC18 then some 0 else if a = 0xC1C then some s.clocks
  else if a = 0xD00 then
    some (put f.id 0 6 + flag f.isOpen 6 + flag f.escalated 7 + put f.item 8 8 + put f.recMode 16 4)
  else if a = 0xD04 then some (f.time % 2 ^ 32) else if a = 0xD08 then some (f.time / 2 ^ 32 % 2 ^ 32)
  else if a = 0xD0C then some (put f.grace 0 10 + put f.left 16 10) else if a = 0xD10 then some f.action
  else if a = 0xD14 then some f.enable0 else if a = 0xD18 then some f.enable1
  else if a = 0xD1C then some s.source0 else if a = 0xD20 then some 0 else if a = 0xD24 then some 0 else none

/-- Word o of check unit k (11 Table 11.8). -/
def State.checkWord (s : State) (k o : Nat) : Option Nat :=
  let c := s.chk k
  if o = 0x00 then some (c.state.code + flag c.job 4) else if o = 0x04 then some (put c.sel 0 2 + flag c.customInit 4)
  else if o = 0x08 then some c.init else if o = 0x0C then some c.expect else if o = 0x10 then some c.length
  else if o = 0x14 ∨ o = 0x18 ∨ o = 0x1C ∨ o = 0x20 then some 0
  else if o = 0x24 then some c.result else if o = 0x28 then some (put c.count 0 21 + put c.outcome 24 3) else none

/-- WIRE (15 Table 15.5). -/
def State.wireWord (s : State) (a : Nat) : Option Nat :=
  let w := s.wire
  if a = 0xF00 then some (w.fn.code + flag w.spuEn 4 + flag w.fixed 5 + put w.maxRounds 8 4)
  else if a = 0xF04 then some (put w.seed 0 16 + put w.rounds 16 4 + put w.last 20 4 + put w.dropped 24 8)
  else if a = 0xF08 then
    some (put w.ids.length 0 7 + put w.collisions 8 8 + put w.retries 16 8 + put w.faultCode 24 4)
  else if a = 0xF0C then some w.index else if a = 0xF10 then some (s.idWord w.index) else none

/-- FLASH and DEBUG (16 Table 16.11). -/
def State.flashWord (s : State) (a : Nat) : Option Nat :=
  let f := s.flash
  let d := s.dbg
  if a = 0x1000 then some s.bankWord else if a = 0x1004 then some s.commitWord
  else if a = 0x1008 then some (imageVersion (s.bank f.active)) else if a = 0x100C then some 0
  else if a = 0x1010 then some f.loadIdle else if a = 0x1014 then some f.cfgIndex
  else if a = 0x1018 then some (f.shadow.getD f.cfgIndex 0) else if a = 0x101C then some s.logHead
  else if a = 0x1020 then some (put f.queue.length 0 5 + put f.lost 16 16)
  else if a = 0x1024 then some (put f.eccCorr 0 16 + put f.eccUncorr 16 16)
  else if a = 0x1100 then
    some (flag s.ident.debugLock 0 + flag d.attached 1 + flag d.halted 2 + put d.hit 4 3 + flag d.hitValid 7 + put d.err 12 4)
  else if a = 0x1104 then some 0
  else if 0x1110 ≤ a ∧ a ≤ 0x114C then
    let b := d.brk.getD ((a - 0x1110) / 8) default
    some (if (a - 0x1110) % 8 = 0 then flag b.en 0 + put b.typ 1 2 + flag b.wo 3 else b.value)
  else none

/-- Seconds left on the RTC, rounded up. -/
def State.rtcLeft (s : State) (e : Option Nat) : Nat := match e with
  | some t => ceilDiv (t - s.clk.rtc) 32768
  | none => 0

/-- Whether the allowance of DEGRADED runs. -/
def State.degraded (s : State) : Bool :=
  s.mode.mode = .degraded || (s.mode.mode = .halted && s.mode.prior = some .degraded)

def tripWord (o : OutputSt) : Nat := put o.cause 0 4 + put o.tpos 4 18 + put o.titem 24 7

/-- SAFETY (10 Table 10.10): applied values, never staged ones. A lock that waits for the release from which it restarts has all its
time left (R287). -/
def State.safetyWord (s : State) (a : Nat) : Option Nat :=
  let f := s.safety
  if a = 0x2000 then
    some (flag f.session.isSome 0 + flag (s.locked || f.relock) 1 + flag s.factory 2 + put f.fails 3 3 + put f.level 6 3
      + put f.staged.length 9 7 + put (sat 0xFFFF (ceilDiv (if f.relock then ceilDiv f.nv.lock 32768 else s.rtcLeft f.lockEnd) 10)) 16 16)
  else if a = 0x2004 then
    some (flag f.out1.on 0 + flag f.out2.on 1 + flag f.out1.tripped 2 + flag f.out2.tripped 3
      + flag f.in1.a 4 + flag f.in1.b 5 + flag f.in2.a 6 + flag f.in2.b 7 + flag f.in1.disc 8 + flag f.in2.disc 9
      + flag (f.failed.getD 0 false) 10 + flag (f.failed.getD 1 false) 11 + flag (f.failed.getD 2 false) 12
      + flag (f.failed.getD 3 false) 13 + flag s.enrolled 14 + flag (s.reports.any (fun b => b)) 15
      + put (if s.degraded then sat 0xFFFE (ceilDiv (s.rtcLeft f.degEnd) 60) else 0xFFFF) 16 16)
  else if a = 0x203C then some (tripWord f.out1) else if a = 0x2040 then some (tripWord f.out2)
  else if a = 0x2044 then some ((f.parish.getLast?.map ParishEntry.seq).getD 0)
  else if 0x2100 ≤ a ∧ a ≤ 0x213C then
    some (match f.parish.getLast? with
      | some e => at_ (parishBytes e) (a - 0x2100) 4
      | none => 0)
  else f.block.get a

/-- A populated word of the space as a read returns it; none where the word holds no parameter (17 R428, R429). -/
def State.word (s : State) (a : Nat) : Option Nat :=
  if a % 4 != 0 then none
  else if a < 0x100 then s.identWord a
  else if a < 0x200 then s.modeWord a
  else if a < 0x500 then s.sweepWord a
  else if a < 0x600 then s.surveyWord a
  else if a < 0x700 then s.balanceWord a
  else if a < 0x800 then s.diagWord a
  else if a < 0x900 then s.gleanWord a
  else if a < 0xA00 then s.portWord ((a - 0x900) / 0x40) ((a - 0x900) % 0x40)
  else if a < 0xB00 then s.treeWord a
  else if a < 0xC00 then s.powerWord a
  else if a < 0xE00 then s.wdogWord a
  else if a < 0xF00 then s.checkWord ((a - 0xE00) / 0x40) ((a - 0xE00) % 0x40)
  else if a < 0x1000 then s.wireWord a
  else if a < 0x2000 then s.flashWord a
  else if a < 0x8000 then s.safetyWord a
  else none

/-- The value a read returns: an unpopulated word reads 0 (09 R265). -/
def State.readValue (s : State) (a : Nat) : Nat := (s.word a).getD 0

/-! ### What a read does (00 Table 0.5, 17 R437–R441) -/

/-- The RC counters of word o of a port clear. -/
def State.clearPortRc (s : State) (p o : Nat) : State :=
  s.updPort p (fun q => { q with cnt :=
    if o = 0x18 then { q.cnt with tx := 0 } else if o = 0x1C then { q.cnt with rx := 0 }
    else if o = 0x20 then { q.cnt with condemned := 0, retransmits := 0 }
    else if o = 0x24 then { q.cnt with cmdCounter := 0, cmdCheck := 0 }
    else if o = 0x28 then { q.cnt with crierOk := 0, crierBad := 0 }
    else if o = 0x2C then { q.cnt with legacyCrc := 0, legacyNoReply := 0 } else q.cnt })

/-- The RC fields of a word clear. -/
def State.clearRc (s : State) (a : Nat) : State :=
  if a = 0x80C then { s with glean := { s.glean with gleans := 0, overflows := 0 } }
  else if 0x900 ≤ a ∧ a < 0xA00 then s.clearPortRc ((a - 0x900) / 0x40) ((a - 0x900) % 0x40)
  else if a = 0xA20 then { s with tree := { s.tree with steps := 0, tphFail := 0 } }
  else if a = 0xA24 then { s with tree := { s.tree with dropped := 0 } }
  else if a = 0xB14 then
    s.updPower (fun p => { p with fMissing := false, fShort := false, fTimeout := false, fNtc := false, fShare := false })
  else if a = 0xF08 then s.updWire (fun w => { w with collisions := 0, retries := 0 })
  else if a = 0x1020 then { s with flash := { s.flash with lost := 0 } }
  else if a = 0x1024 then { s with flash := { s.flash with eccCorr := 0, eccUncorr := 0 } }
  else s

/-- TIME_LO latches TIME_HI; a data word moves the index of its window. -/
def State.touchRead (s : State) (a : Nat) : State :=
  if a = 0xA08 then { s with clk := { s.clk with timeHi := s.now / 2 ^ 32 % 2 ^ 32 } }
  else if a = 0x520 then stepBase s
  else if a = 0x7A0 then stepTable s
  else if a = 0xF10 then (readId s).2
  else if a = 0x1018 then moveConfig s
  else s

/-- Whether a read of the word is refused: the baseline window while SURVEY is not STOPPED (03 R99). -/
def State.readRefusal (s : State) (a : Nat) : Nat := if a = 0x520 && s.survey.fn != .stopped then stBusy else stOk

/-- The charger gives its set current: PRECHARGE and CC, once the 10 ms ramp of its soft-start is over (R358). -/
def State.fullCurrent (s : State) : Bool :=
  (s.power.chg = .precharge || s.power.chg = .cc) && decide (10 * ttMs ≤ s.since s.power.since)

/-- One reading of the charge current `v`, with ACT as input-voltage regulation reduces it or not: unreduced it lies within
±10 % ±1 mA of the set current, in CV and during the ramp anywhere below that, and reduced it lies below the set current
(R357, R358, R363). -/
def State.readMa (s : State) (act : Bool) (v : Nat) : Nat :=
  let i := if s.power.chg = .precharge then s.power.preMa else s.power.ichgNow
  let lo := i * 9 / 10 - 1
  let hi := i * 11 / 10 + 1
  if act then v % i else if s.fullCurrent then lo + v % (hi - lo + 1) else v % (hi + 1)

/-- The charge current now and whether R363 reduces it are one reading. -/
def State.sampleMa (s : State) : State :=
  let act := decide (s.fresh % 2 = 1)
  let ma := s.readMa act (s.fresh / 2)
  s.took.updPower (fun p => { p with vinregAct := act, nowMa := ma })

/-- A read of these words samples, once, what no command brings: the charge current with VINREG_ACT, VRES, and the current of VSHR
up to its limit of 75 mA (17 R438; 13 R365). Each is a free value (DESIGN CHOICE, notes/assumptions/42.md). -/
def State.sampled (s : State) (as : List Nat) : State :=
  let s := if (as.contains 0xB00 || as.contains 0xB08) && s.power.charging then s.sampleMa else s
  let s := if as.contains 0xB0C then s.took.updPower (fun p => { p with vresMv := s.fresh % 4096 }) else s
  if as.contains 0xB18 && s.power.shareOn then s.took.updPower (fun p => { p with shareMa := s.fresh % 76 }) else s

/-- One word read by a descriptor, once sampled: its value, and the state after it. -/
def State.readHost (s : State) (a : Nat) : Nat × State := (s.readValue a, (s.touchRead a).clearRc a)

/-- One word read through the debug port, which clears no RC field (00 R10). -/
def State.readDebug (s : State) (a : Nat) : Nat × State :=
  let s := s.sampled [a]
  (s.readValue a, s.touchRead a)

end Sys2Proof.Machine
end

