-- ==== Sys2Proof/Machine/Operands.lean ====
section
/-! DEFINITION. Every write to the parameter space: the rules of each block and of the space (17 Table 17.6, R434–R442), the
read-back of PARAM_WRITE_VERIFY, one-word accesses of the debug port to parameters and granary, and the STEP request. -/

namespace Sys2Proof.Machine

/-- A write that is in range takes effect; another completes as DENIED and changes nothing. -/
def accept (ok : Bool) (f : State → State) (s : State) : Nat × State := if ok then (stOk, f s) else (stDenied, s)

def within (v lo hi : Nat) : Bool := decide (lo ≤ v) && decide (v ≤ hi)

/-- A control word of a function with STATE (00 R476, 17 R440): while it is not STOPPED only STOP acts; while it is STOPPED
START and STOP together are refused, START alone starts it, and otherwise the fields are taken. -/
def ctrlWrite (fn : FnState) (v : Nat) (stop start take : State → Nat × State) (s : State) : Nat × State :=
  if fn != .stopped then (if bit v 3 then stop s else (stOk, s))
  else if bit v 2 && bit v 3 then (stDenied, s)
  else if bit v 2 then start s
  else take s

/-- The answer to a write of an all-RO word that counts as one of the parameters of a function: while the function is not
STOPPED the state rule comes first, BUSY (R476), against DENIED of R8 (DESIGN CHOICE, notes/assumptions/89.md). -/
def readOnly (fn : FnState) (s : State) : Nat × State := (if fn = .stopped then stDenied else stBusy, s)

/-! ### Blocks -/

/-- MODE (14 R372, R386; 05 R149). -/
def writeMode (a v : Nat) (s : State) : Nat × State :=
  let set_ (ok : Bool) (f : ModeSt → ModeSt) := accept ok (fun s => { s with mode := f s.mode }) s
  if a = 0x104 then
    let key := v / 65536
    if v % 16 = 1 then requestShip key s else if v % 16 = 2 then requestReset key s
    else if v % 16 = 3 then requestResume key s else (stDenied, s)
  else if a = 0x10C then set_ (within (v % 65536) 100 60000) (fun m => { m with tLoss := v % 65536 })
  else if a = 0x110 then set_ (within (v % 65536) 250 60000) (fun m => { m with lampInterval := v % 65536 })
  else if a = 0x114 then
    set_ (decide (fld v 28 16 ≤ 5500)) (fun m => { m with lampUv := fld v 12 0, lampOv := fld v 28 16 })
  else (stDenied, s)

/-- One tier's part of a mask of 48 cells replaced. -/
def putPart (m t v : Nat) : Nat := m - part16 m t * 2 ^ (16 * t) + v % 65536 * 2 ^ (16 * t)

/-- A cell mask that R60 takes for tier t. -/
def State.maskTaken (s : State) (t v : Nat) : Bool := if s.tierPresent t then maskOk v else v = 0

/-- SWEEP and ISENSE (02 R59–R61). -/
def writeSweep (a v : Nat) (s : State) : Nat × State :=
  let par (ok : Bool) (f : SweepPar → SweepPar) : Nat × State :=
    if s.sweep.fn != .stopped then (stBusy, s)
    else accept ok (fun s => { s with sweep := { s.sweep with par := f s.sweep.par } }) s
  let mask (t : Nat) := par (s.maskTaken (t + 1) (v % 65536)) (fun p => { p with mask := putPart p.mask t v })
  if a = 0x200 then
    ctrlWrite s.sweep.fn v stopSweepReg (startSweep (fld v 4 4))
      (fun s => (stOk, { s with sweep := { s.sweep with par := { s.sweep.par with source := fld v 4 4 } } })) s
  else if a = 0x204 then par (within (v % 2 ^ 22) 40 2400000) (fun p => { p with period := v % 2 ^ 22 })
  else if a = 0x208 then par true (fun p => { p with corner := v % 8 })
  else if a = 0x20C then mask 0 else if a = 0x210 then mask 1 else if a = 0x214 then mask 2
  else if a = 0x218 then par true (fun p => { p with blank := v % 2 })
  else if a = 0x21C then par (within (v % 2048) 50 2000) (fun p => { p with settle := v % 2048 })
  else if a = 0x220 then par true (fun p => { p with auxDiv := v % 65536 })
  else if a = 0x400 then par true (fun p => { p with en1 := bit v 0, en2 := bit v 1, inv1 := bit v 2, inv2 := bit v 3 })
  else if a = 0x404 then par (within (v % 2 ^ 24) 0x400000 0xBFFFFF) (fun p => { p with gain1 := v })
  else if a = 0x408 then par (within (v % 2 ^ 24) 0x400000 0xBFFFFF) (fun p => { p with gain2 := v })
  else if a = 0x40C then
    (if s.survey.fn != .stopped then (stBusy, s)
     else (stOk, { s with sweep := { s.sweep with pubEn := bit v 0, pubCh := fld v 1 1 } }))
  else if a = 0x224 then readOnly s.sweep.fn s
  else (stDenied, s)

/-- SURVEY.CTRL while STOPPED with START: BASE_SAVE of the same write goes first, where the start is honoured. -/
def surveyStartWrite (v : Nat) (s : State) : Nat × State :=
  let go (s : State) := startSurvey (fld v 31 16) (bit v 4) s
  if (go s).1 = stOk && bit v 5 then go (baseSave s).2 else go s

/-- SURVEY (03 R99, R104). -/
def writeSurvey (a v : Nat) (s : State) : Nat × State :=
  let upd (f : SurveyPar → SurveyPar) (s : State) : State := { s with survey := { s.survey with par := f s.survey.par } }
  let par (ok : Bool) (f : SurveyPar → SurveyPar) : Nat × State :=
    if s.survey.fn != .stopped then (stBusy, s) else accept ok (upd f) s
  if a = 0x500 then
    ctrlWrite s.survey.fn v stopSurvey (surveyStartWrite v)
      (fun s =>
        let s := upd (fun p => { p with setBase := bit v 4, tag := fld v 31 16 }) s
        if bit v 5 then baseSave s else (stOk, s)) s
  else if a = 0x504 then
    par (!(fld v 2 1 = 3)) (fun p => { p with ripple := bit v 0, groups := fld v 2 1, chargePos := bit v 3 })
  else if a = 0x508 then par (within (v % 64) 1 40) (fun p => { p with points := v % 64 })
  else if a = 0x50C then par (within (v % 2048) 4 1024) (fun p => { p with cycles := v % 2048 })
  else if a = 0x510 then par true (fun p => { p with minMa := v % 65536, minSnr := fld v 23 16 })
  else if a = 0x514 then par true (fun p => { p with source := v % 2 ^ 18 })
  else if a = 0x51C then
    (if s.survey.fn != .stopped then (stBusy, s)
     else accept (decide (v % 1024 ≤ 1022)) (fun s => { s with survey := { s.survey with baseIndex := v % 1024 } }) s)
  else if a = 0x520 then writeBase v s
  else if a = 0x524 then par (decide (1 ≤ v)) (fun p => { p with shunt := v })
  else if 0x540 ≤ a ∧ a ≤ 0x5DC then
    par (within v 100 4000000) (fun p => { p with freq := p.freq.set ((a - 0x540) / 4) v })
  else if a = 0x518 then readOnly s.survey.fn s
  else (stDenied, s)

/-- BALANCE (04 R119, R120). -/
def writeBalance (a v : Nat) (s : State) : Nat × State :=
  let par (ok : Bool) (f : State → State) : Nat × State :=
    if s.bal.fn != .stopped then (stBusy, s) else accept ok f s
  let bal (ok : Bool) (f : BalanceSt → BalanceSt) := par ok (fun s => { s with bal := f s.bal })
  let en (t : Nat) := bal true (fun b => { b with enable := putPart b.enable t v })
  if a = 0x600 then
    ctrlWrite s.bal.fn v stopBalance (startBalance (bit v 4))
      (fun s => (stOk, { s with bal := { s.bal with cont := bit v 4 } })) s
  else if a = 0x604 then en 0 else if a = 0x608 then en 1 else if a = 0x60C then en 2
  else if a = 0x610 then bal (within (v % 2048) 100 1200) (fun b => { b with limit := v % 2048 })
  else if 0x640 ≤ a ∧ a ≤ 0x6FC then
    par (decide (1 ≤ v % 65536)) (fun s => s.updCell ((a - 0x640) / 4 + 1) (fun c => { c with seconds := v % 65536 }))
  else (stDenied, s)

/-- The ledger entry DIAG_CHANGE, where the write is one that R149 names. -/
def State.diagChange (s : State) (named : Bool) (a v : Nat) : State := if named then s.ledger 0x0A a v else s

/-- PROOF and DIAG (05 R144, R149, R150). A test that is disabled lets the step in progress run on and keeps the cells its pass has
done (DESIGN CHOICE, notes/assumptions/104.md). -/
def writeDiag (a v : Nat) (s : State) : Nat × State :=
  let d := s.diag
  let set_ (ok : Bool) (f : DiagSt → DiagSt) := accept ok (fun s => { s with diag := f s.diag }) s
  if a = 0x700 then
    (stOk, ({ s with diag := { d with
        owEn := bit v 0, rocEn := bit v 1, ovrOw := d.ovrOw && bit v 0, owFault := d.owFault && bit v 0
        owSince := if bit v 0 && !d.owEn then s.wall else d.owSince } }).diagChange (d.owEn && !bit v 0) a (v % 4))
  else if a = 0x704 then
    accept (within (v % 128) 10 100) (fun s => ({ s with diag := { d with tolerance := v % 128 } }).diagChange
      (d.tolerance != v % 128) a (v % 128)) s
  else if a = 0x708 then
    accept (decide (1 ≤ v % 16)) (fun s => ({ s with diag := { d with persist := v % 16 } }).diagChange
      (d.persist != v % 16) a (v % 16)) s
  else if a = 0x70C then set_ (within (v % 65536) 100 60000) (fun d => { d with owPeriod := v % 65536 })
  else if a = 0x780 then
    let s := ({ s with diag := { d with
        switchEn := bit v 0, harnessEn := bit v 1, ovrSwitch := d.ovrSwitch && bit v 0, ovrHarness := d.ovrHarness && bit v 1
        swFault := d.swFault && bit v 0
        swSince := if bit v 0 && !d.switchEn then s.wall else d.swSince
        haSince := if bit v 1 && !d.harnessEn then s.wall else d.haSince } }).diagChange
          ((d.switchEn && !bit v 0) || (d.harnessEn && !bit v 1)) a (v % 4)
    let s := if bit v 2 then (harnessNow s).2 else s
    (stOk, if bit v 3 then (switchNow s).2 else s)
  else if a = 0x784 then set_ true (fun d => { d with pathChange := d.pathChange && !bit v 4 })
  else if a = 0x788 then set_ (decide (10 ≤ v % 65536)) (fun d => { d with swPeriod := v % 65536 })
  else if a = 0x78C then set_ (decide (60 ≤ v % 65536)) (fun d => { d with haPeriod := v % 65536 })
  else if a = 0x790 then set_ (decide (1 ≤ v % 256)) (fun d => { d with rocFixed := v % 256, rocSlope := fld v 23 8 })
  else if a = 0x79C then set_ true (fun d => { d with index := v % 256 })
  else if a = 0x7A0 then writeTable v s
  else (stDenied, s)

/-- GLEAN (06 R178, R179). -/
def writeGlean (a v : Nat) (s : State) : Nat × State :=
  if a = 0x800 then
    accept (v % 16 &&& s.glean.islandOk != 0) (fun s =>
      let s := { s with glean := { s.glean with islandEn := v % 16, inUse := s.glean.inUse ||| v % 16 } }
      ([0, 1, 2, 3].foldl State.islandLeaves s).admitAll) s
  else if a = 0x808 then
    accept (within (v % 128) 1 100) (fun s => { s with glean := { s.glean with collectLimit := v % 128 } }) s
  else (stDenied, s)

/-- Word o of port p (07 R209, R214). -/
def writePort (p o v : Nat) (s : State) : Nat × State :=
  let q := s.port p
  let par (ok : Bool) (f : PortSt → PortSt) : Nat × State :=
    if q.fn != .stopped then (stBusy, s) else accept ok (fun s => s.updPort p f) s
  if o = 0x00 then
    ctrlWrite q.fn v (stopPort p) (startPort p (fld v 7 4))
      (accept (decide (1 ≤ fld v 7 4)) (fun s => s.updPort p (fun q => { q with retryMax := fld v 7 4 }))) s
  else if o = 0x04 then (stOk, s.updPort p (fun q => { q with tone := q.tone && !bit v 3 }))
  else if o = 0x08 then
    par (decide (v % 4 ≤ 2) && (!bit v 8 || (p = 1 && s.ident.role != .leaf)))
      (fun q => { q with rateMax := v % 4, legacy := bit v 8 })
  else if o = 0x0C then par (within (v % 64) 10 30) (fun q => { q with tol := v % 64 })
  else (stDenied, s)

/-- TREE (08 R252); STROBE_LEAD has an effect at the ROOT alone. -/
def writeTree (a v : Nat) (s : State) : Nat × State :=
  let set_ (ok : Bool) (f : TreeSt → TreeSt) := accept ok (fun s => { s with tree := f s.tree }) s
  if a = 0xA14 then set_ (within (v % 2048) 1 2000) (fun t => { t with tResp := v % 2048 })
  else if a = 0xA18 then
    set_ (within (v % 2 ^ 19) 4 400000) (fun t => if s.isRoot then { t with strobeLead := v % 2 ^ 19 } else t)
  else if a = 0xA1C then set_ (within (v % 1024) 5 1000) (fun t => { t with takeover := v % 1024 })
  else (stDenied, s)

/-- A change of ICHG or SEL makes a running charger start anew (13 R358). -/
def State.recharge (s : State) (changed : Bool) : State :=
  if changed && s.power.charging then s.softRestart else s

/-- EN 0 turns the charger off; EN from 0 to 1 clears the hold and lets it start (13 R369), or finds the thermistor open or
shorted (R358). -/
def State.chargeEnable (s : State) (on : Bool) : State :=
  if on && !s.power.en then
    let s := s.updPower (fun p => { p with en := true, hold := false })
    if s.power.ntc then s.chgFault 3 else s.updPower (fun p => { p with chg := .wait })
  else if !on && s.power.en then (s.chgStop .off).updPower (fun p => { p with en := false })
  else s

/-- POWER (13 R364, R369): an accepted write clears DEFAULTS. -/
def writePower (a v : Nat) (s : State) : Nat × State :=
  let set_ (ok : Bool) (f : State → State) := accept ok (fun s => (f s).updPower (fun p => { p with defaults := false })) s
  if a = 0xB04 then
    set_ (within (fld v 12 8) 1 24 && !(bit v 0 && s.power.chem = 0))
      (fun s => (s.updPower (fun p => { p with timeoutH := fld v 12 8 })).chargeEnable (bit v 0))
  else if a = 0xB08 then
    set_ (within (v % 128) 5 100) (fun s =>
      (s.updPower (fun p => { p with ichg := v % 128 })).recharge (s.power.ichg != v % 128))
  else if a = 0xB0C then
    set_ true (fun s => (s.updPower (fun p => { p with vcv := v % 2 })).recharge (s.power.vcv != v % 2))
  else if a = 0xB10 then
    set_ (within (v % 8192) 4500 4900) (fun s => s.updPower (fun p => { p with vinreg := v % 8192 }))
  else if a = 0xB18 then
    set_ true (fun s => s.updPower (fun p =>
      { p with shareEn := bit v 0, shareOn := bit v 0 && (p.shareOn || !p.shareEn), shareMa := if bit v 0 then p.shareMa else 0
               shareAt := if bit v 0 then p.shareAt else none }))
  else if a = 0xB1C then
    set_ (within (v % 4096) 10 3600) (fun s => s.updPower (fun p => { p with tChg := v % 4096 }))
  else (stDenied, s)

/-- WDOG (11 R314, R315, R319, R332): KEY and CHECKIN take the sequencer alone. -/
def writeWdog (a v : Nat) (s : State) : Nat × State :=
  let set_ (ok : Bool) (f : WdogSt → WdogSt) := accept ok (fun s => { s with wdog := f s.wdog }) s
  let w := s.wdog
  if a = 0xC00 then (if w.running then (stDenied, s) else if bit v 0 then startWdog s else (stOk, s))
  else if a = 0xC04 then set_ (!w.running && within (v % 65536) 1 65534) (fun w => { w with openT := v % 65536 })
  else if a = 0xC08 then
    set_ (!w.running && within (v % 65536) (w.openT + 1) 65535) (fun w => { w with closeT := v % 65536 })
  else if a = 0xC14 then
    set_ true (fun w => { w with early := w.early && !bit v 17, rollFail := w.rollFail && !bit v 18 })
  else (stDenied, s)

/-- FAULT (11 R324, R332). -/
def writeFault (a v : Nat) (s : State) : Nat × State :=
  let set_ (ok : Bool) (f : FaultSt → FaultSt) := accept ok (fun s => { s with fault := f s.fault }) s
  let masked (s : State) : State := s.ledger 0x05 0 (s.fault.enable0 + s.fault.enable1 * 2 ^ 32)
  if a = 0xD0C then set_ (within (v % 1024) 1 1000) (fun f => { f with grace := v % 1024 })
  else if a = 0xD10 then set_ true (fun f => { f with action := v % 2 })
  else if a = 0xD14 then (stOk, masked { s with fault := { s.fault with enable0 := v } })
  else if a = 0xD18 then (stOk, masked { s with fault := { s.fault with enable1 := v } })
  else if a = 0xD24 then ackFault (v % 64) s
  else (stDenied, s)

/-- Word o of check unit k (11 R330, R331). -/
def writeCheck (k o v : Nat) (s : State) : Nat × State :=
  let c := s.chk k
  let par (ok : Bool) (f : CheckSt → CheckSt) : Nat × State :=
    if c.job || c.state != .stopped then (stBusy, s) else accept ok (fun s => s.updChk k f) s
  if o = 0x00 then
    (if c.job then (stBusy, s) else ctrlWrite c.state v (stopCheck k) (startCheck k) (fun s => (stOk, s)) s)
  else if o = 0x04 then par true (fun c => { c with sel := v % 4, customInit := bit v 4 })
  else if o = 0x08 then par true (fun c => { c with init := v })
  else if o = 0x0C then par true (fun c => { c with expect := v })
  else if o = 0x10 then par (within (v % 2 ^ 21) 1 1048576) (fun c => { c with length := v % 2 ^ 21 })
  else if o = 0x14 then feedCheck k 1 v s else if o = 0x18 then feedCheck k 2 v s else if o = 0x1C then feedCheck k 4 v s
  else if o = 0x20 then
    (if c.job then (stBusy, s) else if c.state = .running && !bit v 0 then (stOk, s) else closeCheck k s)
  else if o = 0x24 ∨ o = 0x28 then readOnly (if c.job then .running else .stopped) s
  else (stDenied, s)

/-- WIRE (15 R404). -/
def writeWire (a v : Nat) (s : State) : Nat × State :=
  if a = 0xF00 then
    ctrlWrite s.wire.fn v stopWire (startWire (bit v 4) (bit v 5) (fld v 11 8))
      (accept (decide (1 ≤ fld v 11 8)) (fun s => s.updWire (fun w =>
        { w with spuEn := bit v 4, fixed := bit v 5, maxRounds := fld v 11 8 }))) s
  else if a = 0xF04 then
    (if s.wire.fn != .stopped then (stBusy, s) else (stOk, s.updWire (fun w => { w with seed := v % 65536 })))
  else if a = 0xF0C then (stOk, s.updWire (fun w => { w with index := v % 128 }))
  else (stDenied, s)

/-- FLASH.CTRL: ABANDON, then CONFIG_SAVE, then COMMIT_LOADED, each where the ones before it were not refused. -/
def flashCtrl (v : Nat) (s : State) : Nat × State :=
  let andThen (b : Bool) (f : State → Nat × State) (r : Nat × State) : Nat × State :=
    if b && r.1 = stOk then f r.2 else r
  andThen (bit v 2) commitLoaded (andThen (bit v 1) configSave (andThen (bit v 0) abandonCommit (stOk, s)))

/-- FLASH (16 R414, R420, R424, R427). -/
def writeFlash (dbg : Bool) (a v : Nat) (s : State) : Nat × State :=
  if a = 0x100C then (if bit v 2 && !dbg then (stDenied, s) else flashCtrl v s)
  else if a = 0x1010 then
    accept (within (v % 1024) 1 600) (fun s => { s with flash := { s.flash with loadIdle := v % 1024 } }) s
  else if a = 0x1014 then
    accept (decide (v % 1024 ≤ 1022)) (fun s => { s with flash := { s.flash with cfgIndex := v % 1024 } }) s
  else if a = 0x1018 then configWrite v s
  else (stDenied, s)

/-- STEP: the job that the lowest-index idle working gleaner would take runs, with its admission, reorder and delivery, and an action
that a comparator holds is carried out (16 R425, R426); with no job queued it does nothing else, and nothing at all where the sequencer has stopped. -/
def debugStep (badBank : Option Nat) (s : State) : Nat × State :=
  if s.mode.mode != .halted || !s.coreRuns then (stOk, s)
  else
    let s := { s with dbg := { s.dbg with go := s.dbg.go || !s.dbg.held.isEmpty } }
    match s.working.find? (fun g => (s.gleaner g).running.isNone) with
    | none => (stOk, s)
    | some g =>
      let t := { s with dbg := { s.dbg with stepping := true } }.admitOne.take g
      let t := if (t.gleaner g).running.isSome then (t.finishJob g badBank).releaseStepped else t
      (stOk, { t with dbg := { t.dbg with stepping := false } })

/-- DEBUG.CTRL: HALT, RESUME, STEP and RESET, in that order. -/
def debugCtrl (v : Nat) (s : State) : Nat × State :=
  let s := if bit v 0 then (debugHalt s).2 else s
  let s := if bit v 1 then (debugResume s).2 else s
  let s := if bit v 2 then (debugStep none s).2 else s
  (stOk, if bit v 3 then (debugReset s).2 else s)

/-- DEBUG (16 R425–R427), which the debug port alone writes. -/
def writeDebug (a v : Nat) (s : State) : Nat × State :=
  let brk (k : Nat) (f : BreakSt → BreakSt) (s : State) : State := { s with dbg := { s.dbg with brk := updAt s.dbg.brk k f } }
  if a = 0x1104 then debugCtrl v s
  else if 0x1110 ≤ a ∧ a ≤ 0x114C then
    (if (a - 0x1110) % 8 = 0 then
       accept (!(fld v 2 1 = 3)) (brk ((a - 0x1110) / 8) (fun b => { b with en := bit v 0, typ := fld v 2 1, wo := bit v 3 })) s
     else (stOk, brk ((a - 0x1110) / 8) (fun b => { b with value := v }) s))
  else (stDenied, s)

/-- One word written by a descriptor, or through the debug port (`dbg`); a word that holds no parameter, one that is RO or RC
throughout, and the SAFETY block are refused (00 R8, R11; 09 R265; 17 R434). -/
def writeWord (dbg : Bool) (a v : Nat) (s : State) : Nat × State :=
  let v := v % 2 ^ 32
  if a % 4 != 0 then (stDenied, s)
  else if a < 0x100 then (stDenied, s)
  else if a < 0x200 then writeMode a v s
  else if a < 0x500 then writeSweep a v s
  else if a < 0x600 then writeSurvey a v s
  else if a < 0x700 then writeBalance a v s
  else if a < 0x800 then writeDiag a v s
  else if a < 0x900 then writeGlean a v s
  else if a < 0xA00 then writePort ((a - 0x900) / 0x40) ((a - 0x900) % 0x40) v s
  else if a < 0xB00 then writeTree a v s
  else if a < 0xC00 then writePower a v s
  else if a < 0xD00 then writeWdog a v s
  else if a < 0xE00 then writeFault a v s
  else if a < 0xF00 then writeCheck ((a - 0xE00) / 0x40) ((a - 0xE00) % 0x40) v s
  else if a < 0x1000 then writeWire a v s
  else if a < 0x1100 then writeFlash dbg a v s
  else if a < 0x2000 then (if dbg then writeDebug a v s else (stDenied, s))
  else (stDenied, s)

/-- A descriptor's word; a START that LOCKOUT refuses records no REASON (DESIGN CHOICE, notes/assumptions/105.md): in LOCKOUT only a RESET request is taken (14 R373), which holds for the debug port on MODE.REQUEST
too (17 R434). -/
def State.writeHost (s : State) (a v : Nat) : Nat × State :=
  if s.mode.mode = .lockout && !(a = 0x104 && v % 16 = 2) then (stDenied, s) else writeWord false a v s

/-- A word through the debug port. -/
def State.writePort (s : State) (a v : Nat) : Nat × State :=
  if s.mode.mode = .lockout && a = 0x104 && v % 16 != 2 then (stDenied, s) else writeWord true a v s

/-! ### The read-back of PARAM_WRITE_VERIFY (09 R265) -/

/-- The RW fields of a word. -/
def rwMask (a : Nat) : Nat :=
  let o := a % 0x40
  if a = 0x10C ∨ a = 0x110 then 0xFFFF else if a = 0x114 then 0x1FFF1FFF
  else if a = 0x200 then 0x10 else if a = 0x204 then 0x3FFFFF else if a = 0x208 then 7
  else if 0x20C ≤ a ∧ a ≤ 0x214 then 0xFFFF else if a = 0x218 then 1 else if a = 0x21C then 0x7FF else if a = 0x220 then 0xFFFF
  else if a = 0x400 then 0xF else if a = 0x404 ∨ a = 0x408 then 0xFFFFFFFF else if a = 0x40C then 3
  else if a = 0x500 then 0xFFFF0010 else if a = 0x504 then 0xF else if a = 0x508 then 0x3F else if a = 0x50C then 0x7FF
  else if a = 0x510 then 0xFFFFFF else if a = 0x514 then 0x3FFFF else if a = 0x51C then 0x3FF
  else if a = 0x520 ∨ a = 0x524 ∨ (0x540 ≤ a ∧ a ≤ 0x5DC) then 0xFFFFFFFF
  else if a = 0x600 then 0x10 else if 0x604 ≤ a ∧ a ≤ 0x60C then 0xFFFF else if a = 0x610 then 0x7FF
  else if 0x640 ≤ a ∧ a ≤ 0x6FC then 0xFFFF
  else if a = 0x700 then 3 else if a = 0x704 then 0x7F else if a = 0x708 then 0xF else if a = 0x70C then 0xFFFF
  else if a = 0x780 then 3 else if a = 0x788 ∨ a = 0x78C then 0xFFFF else if a = 0x790 then 0xFFFFFF
  else if a = 0x79C then 0xFF else if a = 0x7A0 then 0xFFFFFFFF
  else if a = 0x800 then 0xF else if a = 0x808 then 0x7F
  else if 0x900 ≤ a ∧ a < 0xA00 then (if o = 0 then 0xF0 else if o = 8 then 0x103 else if o = 0xC then 0x3F else 0)
  else if a = 0xA14 then 0x7FF else if a = 0xA18 then 0x7FFFF else if a = 0xA1C then 0x3FF
  else if a = 0xB04 then 0x1F01 else if a = 0xB08 then 0x7F else if a = 0xB0C then 1 else if a = 0xB10 then 0x1FFF
  else if a = 0xB18 then 1 else if a = 0xB1C then 0xFFF
  else if a = 0xC04 ∨ a = 0xC08 then 0xFFFF else if a = 0xD0C then 0x3FF else if a = 0xD10 then 1
  else if a = 0xD14 ∨ a = 0xD18 then 0xFFFFFFFF
  else if 0xE00 ≤ a ∧ a < 0xF00 then
    (if o = 4 then 0x13 else if o = 8 ∨ o = 0xC then 0xFFFFFFFF else if o = 0x10 then 0x1FFFFF else 0)
  else if a = 0xF00 then 0xF30 else if a = 0xF04 then 0xFFFF else if a = 0xF0C then 0x7F
  else if a = 0x1010 ∨ a = 0x1014 then 0x3FF else if a = 0x1018 then 0xFFFFFFFF
  else 0

/-- The state in which the data word of a window stands again at the word that was written (DEDUCED, notes/assumptions/50.md): the index a
write moved, one back. -/
def State.backOne (s : State) (a : Nat) : State :=
  if a = 0x520 then
    { s with survey := { s.survey with baseIndex := if s.survey.baseIndex = 0 then 1022 else s.survey.baseIndex - 1 } }
  else if a = 0x7A0 then { s with diag := { s.diag with index := (s.diag.index + 255) % 256 } }
  else if a = 0x1018 then
    { s with flash := { s.flash with cfgIndex := if s.flash.cfgIndex = 0 then 1022 else s.flash.cfgIndex - 1 } }
  else s

/-- One word read back equals the data in its RW fields. -/
def State.verifies (s : State) (a v : Nat) : Bool := (s.backOne a).readValue a &&& rwMask a == v % 2 ^ 32 &&& rwMask a

/-! ### Accesses of a device's own kind -/

def execTimeLoRead (s : State) : Out := runWindow (fun s => s.readHost 0xA08) s

/-- An address of the parameter space (17 R428). -/
def paramAddr (a : Nat) : Bool := decide (a ≤ 0x7FFF) && a % 4 = 0

def debugRead (addr : Nat) (s : State) : Nat × List Nat × State :=
  if !paramAddr addr then (stBadDescriptor, [], s)
  else if s.readRefusal addr != stOk then (s.readRefusal addr, [], s)
  else (stOk, [(s.readDebug addr).1], (s.readDebug addr).2)

def execDebugParamRead (addr chk : Nat) (s : State) : Out := run (dbgOp 1 addr none chk (debugRead addr)) s

def debugWrite (addr value : Nat) (s : State) : Nat × List Nat × State :=
  if !paramAddr addr then (stBadDescriptor, [], s)
  else ((s.writePort addr value).1, [], (s.writePort addr value).2)

def execDebugParamWrite (addr value chk : Nat) (s : State) : Out :=
  runS (dbgOp 2 addr (some value) chk (debugWrite addr value)) s

def execDebugStep (badBank : Option Nat) (s : State) : Out := runL (dbgDo (debugStep badBank)) s

/-- A byte offset of the granary, 4 MiB, a multiple of 4. -/
def granaryAddr (a : Nat) : Bool := decide (a < 0x400000) && a % 4 = 0

/-- A word written through the port reads back, and a bank not used since it was cleared reads 0 (12 R336, 14 R384); the spec lays out
no other content of the banks, so any other word is a free value (DESIGN CHOICE, notes/assumptions/51.md). -/
def granaryRead (addr : Nat) (s : State) : Nat × List Nat × State :=
  if !granaryAddr addr then (stBadDescriptor, [], s)
  else match s.granaryByte addr, s.granaryByte (addr + 1), s.granaryByte (addr + 2), s.granaryByte (addr + 3) with
    | some a, some b, some c, some d => (stOk, [ofLe [a, b, c, d]], s)
    | _, _, _, _ => (stOk, [s.fresh], s.took)

def execGranaryRead (addr chk : Nat) (s : State) : Out := run (dbgOp 3 addr none chk (granaryRead addr)) s

def granaryWrite (addr value : Nat) (s : State) : Nat × List Nat × State :=
  if !granaryAddr addr then (stBadDescriptor, [], s)
  else (stOk, [], { s with granary := gwrite s.granary addr (le 4 value) })

def execGranaryWrite (addr value chk : Nat) (s : State) : Out :=
  run (dbgOp 4 addr (some value) chk (granaryWrite addr value)) s

/-- While a commit's transaction is open the device sends PENDING every T_RESP / 4 (16 R411); its own part of a harvest stays
alive with it. -/
def State.commitPending (s : State) : State :=
  let c := s.flash.commit
  match c.tag with
  | some t =>
    if c.isOpen && decide (c.tResp * ttMs / 4 ≤ s.since c.lastPending) then
      let s := s.updCommit (fun c => { c with lastPending := s.wall })
      (s.updHarvest t (fun h => { h with kids := h.kids.map (fun (k : Contributor) =>
        if k.port.isNone && !k.settled then { k with since := s.wall } else k) })).sendPending t 0
    else s
  | none => s

def execCommitPendingTimer (s : State) : Out := runCoreL State.commitPending s

end Sys2Proof.Machine
end

