-- ==== Sys2Proof/Machine/Descriptor.lean ====
section
/-! DEFINITION. Descriptors: their 64 bytes (09 Tables 9.8, 9.9), the ranges of their arguments and the checks at fetch
(Table 9.10). -/

namespace Sys2Proof.Machine

/-! ### Layout (R262) -/

/-- A step of a job program (06 Table 6.2). -/
def stepBytes (t : PStep) : List Byte := le 1 t.op ++ le 1 t.mode ++ le 2 t.aux ++ le 4 (uns 32 t.p1) ++ le 4 (uns 32 t.p2)

def progBytes (p : Prog) : List Byte :=
  le 1 p.source ++ le 1 p.field ++ le 1 (put p.skip 0 2) ++ le 1 p.steps ++ le 4 p.select ++ stepBytes p.step1 ++ stepBytes p.step2

/-- An exposure plan (06 Table 6.7). -/
def planBytes (p : Plan) : List Byte :=
  le 1 p.corner ++ le 1 p.trigger ++ le 1 p.channel ++ le 1 (put p.options 0 1) ++ le 2 p.n ++ le 2 p.pre ++ le 4 (uns 32 p.level)
  ++ le 8 p.time

def stepAt (bs : List Byte) (o : Nat) : PStep :=
  { op := at_ bs o 1, mode := at_ bs (o + 1) 1, aux := at_ bs (o + 2) 2, p1 := sgn 32 (at_ bs (o + 4) 4), p2 := sgn 32 (at_ bs (o + 8) 4) }

def progAt (bs : List Byte) (o : Nat) : Prog :=
  { source := at_ bs o 1, field := at_ bs (o + 1) 1, skip := at_ bs (o + 2) 1, steps := at_ bs (o + 3) 1, select := at_ bs (o + 4) 4
    step1 := stepAt bs (o + 8), step2 := stepAt bs (o + 20) }

def planAt (bs : List Byte) (o : Nat) : Plan :=
  { corner := at_ bs o 1, trigger := at_ bs (o + 1) 1, channel := at_ bs (o + 2) 1, options := at_ bs (o + 3) 1, n := at_ bs (o + 4) 2
    pre := at_ bs (o + 6) 2, level := sgn 32 (at_ bs (o + 8) 4), time := at_ bs (o + 12) 8 }

/-- The opcode of a request (Table 9.9). -/
def opcodeOf : Req → Nat
  | .paramRead _ _ => 0x01
  | .paramWrite _ _ => 0x02
  | .paramWriteVerify _ _ => 0x03
  | .query _ _ => 0x10
  | .expose _ => 0x11
  | .surveyRun _ _ _ _ _ _ => 0x12
  | .sweepTrigger _ _ _ => 0x13
  | .topologyRead _ _ => 0x20
  | .renumber _ => 0x20
  | .pathTest _ _ _ => 0x21
  | .sessionOpen _ => 0x30
  | .sessionClose _ => 0x30
  | .setPasscode _ _ _ => 0x30
  | .safetyWrite _ _ _ _ => 0x31
  | .flashLoad _ _ _ _ => 0x40
  | .flashCommit _ _ => 0x41
  | .logRead _ _ _ => 0x42
  | .checkRun _ _ _ _ _ _ _ _ => 0x50
  | .wireSearch _ => 0x60
  | .wireReadIds => 0x60
  | .wireConvert _ => 0x60
  | .wireReadMem _ _ _ _ => 0x60
  | .wireWriteMem _ _ _ _ => 0x60
  | .nop => 0x7F

/-- Bytes 0x10 on of a descriptor; `ha` is its host address, where it has one. -/
def argBytes (ha : Nat) : Req → List Byte
  | .paramRead a n => le 4 a ++ le 1 n
  | .paramWrite a ws => le 4 a ++ le 1 ws.length ++ [0, 0, 0] ++ wordsLe 4 ws
  | .paramWriteVerify a ws => le 4 a ++ le 1 ws.length ++ [0, 0, 0] ++ wordsLe 4 ws
  | .query p _ => progBytes p
  | .expose p => planBytes p
  | .surveyRun t0 tag src ripple _ _ => le 8 t0 ++ le 2 tag ++ [0, 0] ++ le 4 (put src 0 18 + flag ripple 18)
  | .sweepTrigger t n now => le 8 t ++ le 4 n ++ le 1 (flag now 0)
  | .topologyRead f n => [0, 0, 0, 0] ++ le 4 (put f 0 18) ++ le 4 n
  | .renumber _ => [1]
  | .pathTest c n l => le 1 c ++ [0] ++ le 2 n ++ le 2 l
  | .sessionOpen p => [0, 0, 0, 0] ++ le 4 0 ++ le 8 p
  | .sessionClose s => [1, 0, 0, 0] ++ le 4 s
  | .setPasscode s p q => [2, 0, 0, 0] ++ le 4 s ++ le 8 p ++ le 8 q
  | .safetyWrite s a v o => le 4 s ++ le 4 a ++ le 4 v ++ le 4 o
  | .flashLoad o n _ _ => le 8 ha ++ le 4 o ++ le 4 n
  | .flashCommit l c => le 4 l ++ le 4 c
  | .logRead l f n => le 1 l ++ [0, 0, 0] ++ le 4 f ++ le 4 n
  | .checkRun u a p o l e _ _ => le 1 u ++ le 1 a ++ le 1 p ++ [0] ++ le 4 o ++ le 8 ha ++ le 4 l ++ le 4 e
  | .wireSearch _ => [0]
  | .wireReadIds => [1]
  | .wireConvert _ => [2]
  | .wireReadMem i o l _ => [3] ++ le 1 i ++ le 2 o ++ le 1 l
  | .wireWriteMem i o bs _ => [4] ++ le 1 i ++ le 2 o ++ le 1 bs.length ++ [0, 0, 0] ++ bs
  | .nop => []

/-- Bytes filled with zeros up to n. -/
def padTo (n : Nat) (bs : List Byte) : List Byte := bs ++ List.replicate (n - bs.length) 0

/-- The 64 bytes of a descriptor. -/
def descBytes (h : Hdr) (ha : Nat) (r : Req) : List Byte :=
  le 1 (opcodeOf r) ++ le 1 (put h.flags 0 2) ++ le 2 h.cid ++ le 4 (put h.pos 0 18 + put h.depth 18 8) ++ le 1 h.pool ++ [0, 0, 0]
  ++ le 2 h.timeout ++ [0, 0] ++ padTo 48 (argBytes ha r)

def hdrAt (ring : Nat) (bs : List Byte) : Hdr :=
  { ring := ring, cid := at_ bs 2 2, flags := at_ bs 1 1, pos := fld (at_ bs 4 4) 17 0, depth := fld (at_ bs 4 4) 25 18, pool := at_ bs 8 1
    timeout := at_ bs 12 2 }

/-- Bytes of host memory. -/
def hostBytes (mem : List (Nat × Byte)) (a n : Nat) : List Byte := (List.range n).map (fun k => mget 0 mem (a + k))

/-- The request that 64 bytes name, its reserved bytes apart: none for an opcode or subop that is not listed. An argument whose
length is out of range is read as empty, which the range check refuses. -/
def reqAt (mem : List (Nat × Byte)) (w : FetchWorld) (bs : List Byte) : Option Req :=
  let b (o : Nat) := at_ bs o 1
  let h (o : Nat) := at_ bs o 2
  let d (o : Nat) := at_ bs o 4
  let q (o : Nat) := at_ bs o 8
  let words := if b 0x14 ≤ 8 then (List.range (b 0x14)).map (fun i => d (0x18 + 4 * i)) else []
  match b 0 with
  | 0x01 => some (.paramRead (d 0x10) (b 0x14))
  | 0x02 => some (.paramWrite (d 0x10) words)
  | 0x03 => some (.paramWriteVerify (d 0x10) words)
  | 0x10 => some (.query (progAt bs 0x10) 0)
  | 0x11 => some (.expose (planAt bs 0x10))
  | 0x12 => some (.surveyRun (q 0x10) (h 0x18) (fld (d 0x1C) 17 0) (bit (d 0x1C) 18) (fld (d 4) 17 0) (fld (d 4) 25 18))
  | 0x13 => some (.sweepTrigger (q 0x10) (d 0x18) (bit (b 0x1C) 0))
  | 0x20 => (match b 0x10 with
    | 0 => some (.topologyRead (fld (d 0x14) 17 0) (d 0x18))
    | 1 => some (.renumber w.funcs)
    | _ => none)
  | 0x21 => some (.pathTest (b 0x10) (h 0x12) (h 0x14))
  | 0x30 => (match b 0x10 with
    | 0 => some (.sessionOpen (q 0x18))
    | 1 => some (.sessionClose (d 0x14))
    | 2 => some (.setPasscode (d 0x14) (q 0x18) (q 0x20))
    | _ => none)
  | 0x31 => some (.safetyWrite (d 0x10) (d 0x14) (d 0x18) (d 0x1C))
  | 0x40 =>
    let piece := if d 0x1C ≤ 65536 then hostBytes mem (q 0x10) (d 0x1C) else []
    some (.flashLoad (d 0x18) piece.length piece (crc32c piece))
  | 0x41 => some (.flashCommit (d 0x10) (d 0x14))
  | 0x42 => some (.logRead (b 0x10) (d 0x14) (d 0x18))
  | 0x50 => some (.checkRun (b 0x10) (b 0x11) (b 0x12) (d 0x14) (d 0x20) (d 0x24)
      (if b 0x11 = 0 && decide (d 0x20 ≤ 1048576) then hostBytes mem (q 0x18) (d 0x20) else w.bytes) w.err)
  | 0x60 => (match b 0x10 with
    | 0 => some (.wireSearch w.bus)
    | 1 => some .wireReadIds
    | 2 => some (.wireConvert w.bus)
    | 3 => some (.wireReadMem (b 0x11) (h 0x12) (b 0x14) w.bus)
    | 4 => some (.wireWriteMem (b 0x11) (h 0x12) (if b 0x14 ≤ 32 then slice bs 0x18 (b 0x14) else []) w.bus)
    | _ => none)
  | 0x7F => some .nop
  | _ => none

/-- n zero bytes put at offset o. -/
def zeroAt (o n : Nat) (bs : List Byte) : List Byte := bs.take o ++ List.replicate n 0 ++ bs.drop (o + n)

/-- The bytes without those that Table 9.9 names for another subop of their opcode; they carry nothing. -/
def ownArgs (r : Req) (bs : List Byte) : List Byte :=
  match r with
  | .renumber _ => zeroAt 0x14 8 bs
  | .sessionOpen _ => zeroAt 0x20 8 (zeroAt 0x14 4 bs)
  | .sessionClose _ => zeroAt 0x18 16 bs
  | .wireSearch _ => zeroAt 0x18 32 (zeroAt 0x11 4 bs)
  | .wireReadIds => zeroAt 0x18 32 (zeroAt 0x11 4 bs)
  | .wireConvert _ => zeroAt 0x18 32 (zeroAt 0x11 4 bs)
  | .wireReadMem _ _ _ _ => zeroAt 0x18 32 bs
  | .wireWriteMem _ _ d _ => zeroAt (0x18 + d.length) (32 - d.length) bs
  | _ => bs

/-- The host address of a descriptor that names one. -/
def hostAddrAt (r : Req) (bs : List Byte) : Nat :=
  match r with
  | .flashLoad _ _ _ _ => at_ bs 0x10 8
  | .checkRun _ _ _ _ _ _ _ _ => at_ bs 0x18 8
  | _ => 0

/-- A descriptor as the ROOT reads it: none where a reserved bit or byte is not 0, or the opcode is not listed (check 1). -/
def parseDesc (mem : List (Nat × Byte)) (w : FetchWorld) (ring : Nat) (bs : List Byte) : Option (Hdr × Req) :=
  match reqAt mem w bs with
  | none => none
  | some r =>
    if descBytes (hdrAt ring bs) (hostAddrAt r bs) r = ownArgs r bs then some (hdrAt ring bs, r) else none

/-! ### Ranges of the arguments (check 1) and validity (check 2) -/

def hdrOk (h : Hdr) : Bool :=
  decide (h.cid < 65536) && decide (h.flags < 4) && decide (h.pos < 262144) && decide (h.depth < 256)
    && (decide (h.pool < 64) || h.pool = 255) && decide (h.timeout < 65536)

/-- A run of parameter words (17 R428). -/
def wordsOk (a n : Nat) : Bool := a % 4 = 0 && decide (1 ≤ n) && decide (n ≤ 8) && decide (a + 4 * (n - 1) ≤ 0x7FFC)

def argsOk : Req → Bool
  | .paramRead a n => wordsOk a n
  | .paramWrite a ws => wordsOk a ws.length
  | .paramWriteVerify a ws => wordsOk a ws.length
  | .query p _ => decide (p.skip < 4)
  | .expose p => decide (p.options < 2)
  | .surveyRun _ tag src _ _ _ => decide (tag < 65536) && decide (src < 262144)
  | .topologyRead f n => decide (f < 262144) && decide (1 ≤ n) && decide (n ≤ 262144)
  | .pathTest c n l => decide (1 ≤ c) && decide (c ≤ 3) && decide (1 ≤ n) && decide (n ≤ 1024) && decide (8 ≤ l) && decide (l ≤ 256)
  | .flashLoad o n _ _ => o % 256 = 0 && decide (256 ≤ n) && decide (n ≤ 65536) && n % 256 = 0
  | .flashCommit l _ => decide (512 ≤ l) && decide (l ≤ 1048576) && l % 256 = 0
  | .logRead l _ n => decide (l ≤ 2) && decide (1 ≤ n) && decide (n ≤ 4096)
  | .checkRun u a p _ l _ _ _ => decide (u ≤ 3) && decide (a ≤ 4) && decide (p ≤ 3) && decide (1 ≤ l) && decide (l ≤ 1048576)
  | .wireReadMem i _ l _ => decide (i ≤ 63) && decide (1 ≤ l) && decide (l ≤ 32)
  | .wireWriteMem i _ bs _ => decide (i ≤ 63) && decide (1 ≤ bs.length) && decide (bs.length ≤ 32)
  | _ => true

def reqValid : Req → Bool
  | .query p _ => progValid p
  | .expose p => planValid p
  | _ => true

/-- Opcodes that address one device at depth 0 (check 3). -/
def oneDevice (r : Req) : Bool := [0x30, 0x31, 0x50, 0x21, 0x60].contains (opcodeOf r)

/-- Requests whose result needs a pool (Table 9.14, check 4). -/
def needsPool (h : Hdr) : Req → Bool
  | .paramRead _ n => h.depth != 0 || decide (2 < n)
  | .paramWrite _ _ => h.depth != 0
  | .paramWriteVerify _ _ => h.depth != 0
  | .query _ _ => true
  | .expose _ => true
  | .surveyRun _ _ _ _ _ _ => true
  | .topologyRead _ _ => true
  | .flashLoad _ _ _ _ => h.depth != 0
  | .flashCommit _ _ => h.depth != 0
  | .logRead _ _ _ => true
  | .wireReadIds => true
  | .wireReadMem _ _ _ _ => true
  | .nop => h.depth != 0
  | _ => false

/-- SAFETY_* and FLASH_*, which ring 0 alone may carry (check 5). -/
def ringZero (r : Req) : Bool := [0x30, 0x31, 0x40, 0x41].contains (opcodeOf r)

/-- What a ROOT-STANDBY before takeover honours (01 R28; TOPOLOGY with subop READ alone, R255). -/
def standbyTakes : Req → Bool
  | .paramRead _ _ => true
  | .topologyRead _ _ => true
  | .logRead _ _ _ => true
  | .nop => true
  | _ => false

/-- What a device in LOCKOUT honours (12 R345). -/
def lockoutTakes : Req → Bool
  | .paramRead a n => decide (a + 4 * n ≤ 0x100)
  | .paramWrite a ws => a = 0x104 && ws.length = 1 && ws.headD 0 % 16 = 2
  | .logRead _ _ _ => true
  | .flashLoad _ _ _ _ => true
  | .flashCommit _ _ => true
  | .nop => true
  | _ => false

/-- The refusal of a RENUMBER (08 R225): BUSY with another transaction in flight, DENIED where a station-mounted device has a
safety function, or does not answer the read of its words. -/
def State.renumberRefusal (s : State) (funcs : List (Nat × Option (Nat × Nat))) : Nat :=
  if !s.host.txs.isEmpty then stBusy
  else if s.safety.block.func1 != 0 || s.safety.block.func2 != 0 then stDenied
  else if (s.tree.topo.filter (fun e => e.station && !e.legacy)).any (fun e =>
      match funcs.find? (fun f => f.1 = e.pos) with
      | some (_, some (a, b)) => a != 0 || b != 0
      | _ => true) then stDenied
  else stOk

/-- The checks at fetch, in order; OK where all pass (R263, Table 9.10). -/
def State.verdict (s : State) (h : Hdr) (r : Req) : Nat :=
  if !hdrOk h || !argsOk r || !reqValid r || (oneDevice r && h.depth != 0) then stBadDescriptor
  else if (if h.pool = 255 then needsPool h r else !(s.pool h.pool).en) then stBadDescriptor
  else if ringZero r && h.ring != 0 then stDenied
  else if s.restricted && !standbyTakes r then stDenied
  else if s.mode.mode = .lockout && !(lockoutTakes r && h.ring = 0 && h.pos = 0 && h.depth = 0) then stDenied
  else
    let rn := match r with
      | .renumber fs => s.renumberRefusal fs
      | _ => stOk
    if rn != stOk then rn
    else if h.pos != 0 && (s.topoOf h.pos).isNone then stUnreachable
    else stOk

end Sys2Proof.Machine
end

