-- ==== Sys2Proof/Machine/Act.lean ====
section
/-! DEFINITION. What a request does at an addressed device: the meaning of each opcode there, the answers of legacy positions,
CHECK_RUN jobs (09 R262–R267 and the chapters that own the opcodes). -/

namespace Sys2Proof.Machine

/-! ### Words (09 R265, 17 R437–R439) -/

def wordAddrs (a n : Nat) : List Nat := (List.range n).map (fun i => a + 4 * i)

/-- Words read in increasing address order, with what reading them does. -/
def State.readAll (s : State) (addrs : List Nat) : List Nat × State :=
  addrs.foldl (fun acc a => let r := acc.2.readHost a; (acc.1 ++ [r.1], r.2)) ([], s)

/-- The status of a PARAM_READ, which is carried out whole or refused whole. -/
def State.readStatus (s : State) (a n : Nat) : Nat :=
  if s.mode.mode = .lockout && !decide (a + 4 * n ≤ 0x100) then stDenied
  else ((wordAddrs a n).map s.readRefusal).foldl (fun st r => if st = stOk then r else st) stOk

def State.paramRead (s : State) (a n : Nat) : Nat × List Nat × State :=
  let st := s.readStatus a n
  let as := wordAddrs a n
  if st = stOk then (stOk, ((s.sampled as).readAll as).1, ((s.sampled as).readAll as).2) else (st, [], s)

/-- Words written in increasing address order; the first that is refused ends the descriptor. -/
def State.writeAll (s : State) : Nat → List Nat → Nat × State
  | _, [] => (stOk, s)
  | a, w :: ws =>
    let r := s.writeHost a w
    if r.1 = stOk then r.2.writeAll (a + 4) ws else r

/-- Whether every word reads back as written. -/
def State.verifyAll (s : State) : Nat → List Nat → Bool
  | _, [] => true
  | a, w :: ws => s.verifies a w && s.verifyAll (a + 4) ws

def State.writeVerify (s : State) (a : Nat) (ws : List Nat) : Nat × State :=
  let r := s.writeAll a ws
  if r.1 != stOk then r else if r.2.verifyAll a ws then r else (stCheckFail, r.2)

/-- The device answers with words or bytes as well. -/
def State.respondWith (s : State) (tag : Option Nat) (c : Contribution) (status : Nat) : State :=
  let s := s.answer status c.value (c.words.flatMap Prod.snd) c.bytes
  match tag with
  | none => s
  | some t => s.contribute t none c 0 .nop s.tree.pos 0

def State.actRead (s : State) (tag : Option Nat) (a n : Nat) : State :=
  let r := s.paramRead a n
  r.2.2.respondWith tag { answerOf s.tree.pos r.1 (ofLe (wordsLe 4 (r.2.1.take 2))) with words := [(s.tree.pos, r.2.1)] } r.1

/-! ### Logs (16 R419, 10 R292, 12 Table 12.2) -/

/-- The first entries at or above a sequence number, oldest first. -/
def fromSeq {α : Type} (seq : α → Nat) (l : List α) (first number : Nat) : List α :=
  ((l.filter (fun e => decide (first ≤ seq e))).mergeSort (fun a b => decide (seq a ≤ seq b))).take number

/-- Slots written and their bytes. -/
def State.logOf (s : State) (log first number : Nat) : Nat × List Byte :=
  if log = 0 then
    let es := fromSeq LedgerEntry.seq s.flash.log first number
    (slotsOf es, es.flatMap entryBytes)
  else if log = 1 then
    let es := fromSeq ParishEntry.seq s.safety.parish first number
    (es.length, es.flatMap parishBytes)
  else
    let es := ([s.bist.cur, s.bist.prev].drop first).take number
    (es.length, es.flatMap bistBytes)

/-- The offsets in the data area of the words that a LOG_READ reads; BIST records stand in the retained SRAM (16 Table 16.1). -/
def State.logOffs (s : State) (log first number : Nat) : List Nat :=
  let words (base size slot : Nat) : List Nat := (List.range (size / 4)).map (fun i => base + size * slot + 4 * i)
  if log = 0 then
    (fromSeq Prod.fst (s.flash.log.mapIdx (fun i e => (e.seq, s.flash.logAt - slotsOf (s.flash.log.drop i), e.slots))) first number).flatMap
      (fun x => (List.range x.2.2).flatMap (fun k => words 0x15000 32 ((x.2.1 + k) % 4352)))
  else if log = 1 then
    (fromSeq ParishEntry.seq s.safety.parish first number).flatMap (fun e => words 0x10000 64 ((e.seq - 1) % 320))
  else []

/-- LOG_READ: the entries as stored, read error by read error (16 R408, R419). -/
def State.actLog (s : State) (tag : Option Nat) (log first number : Nat) : State :=
  let r := s.logOf log first number
  let (bs, s) := if log ≤ 1 then s.readWords 2 (s.logOffs log first number) r.2 else (r.2, s)
  s.respondWith tag { answerOf s.tree.pos stOk r.1 with bytes := bs } stOk

/-! ### CHECK_RUN (11 R331) -/

/-- Bytes of the area in all. -/
def areaSize (area : Nat) : Nat := if area = 3 then 0x40000 else if area = 4 then 0x400000 else 0x100000

/-- The refusal of a CHECK_RUN. -/
def State.checkRefusal (s : State) (unit area offset length : Nat) : Nat :=
  if (s.chk unit).job || (s.chk unit).state != .stopped then stBusy
  else if area = 0 then (if s.isRoot then stOk else stDenied)
  else if areaSize area < offset + length then stDenied
  else stOk

/-- The job is raised and holds its unit; its frame keeps its credits until it is admitted (06 R156). A device without a working
island answers ABORTED (06 R154). -/
def State.actCheck (s : State) (tag : Option Nat) (owes : Option (Nat × Nat × Nat × Nat))
    (unit area poly offset length expect : Nat) (bytes : List Byte) (err : ReadErr) : State :=
  let v := s.checkRefusal unit area offset length
  if v != stOk then (s.payCredits owes).respond tag v 0
  else if s.working.isEmpty then (s.payCredits owes).respond tag stAborted 0
  else
    let t := tag.getD 0
    let r : Req := .checkRun unit area poly offset length expect bytes err
    let s := s.updChk unit (fun c => { c with
      state := .running, job := true, lSel := poly, lExpect := expect, lLength := length, count := 0, reg := crcInit poly })
    ({ s with glean := { s.glean with members := s.glean.members ++ [(t, none, r, s.tree.pos, 0)] } }.raiseJob .check t t owes).answer stOpen

/-! ### Exposures and surveys -/

/-- BUSY goes before DENIED (DESIGN CHOICE, notes/assumptions/132.md). -/
def State.actExpose (s : State) (tag : Option Nat) (plan : Plan) (pos depth : Nat) : State :=
  if s.expo.state != .idle then s.respond tag stBusy 0
  else if !(s.inMode [.run, .survey, .commit, .degraded, .safe]) then s.respond tag stDenied 0
  else (s.armExposure (tag.getD 0) plan pos depth).respond tag stOk 0

/-- The acceptance carries the survey's tag, the REASON and, where accepted, the planned end (03 R100). -/
def State.actSurvey (s : State) (tag : Option Nat) (t0 stag pos depth : Nat) : State :=
  let p := { s.survey.par with tag := stag }
  let r := s.surveyBegin p t0 true (some (tag.getD 0)) (pos, depth)
  let reason := if r.1 = stOk then 0 else r.2.survey.reason
  r.2.respondWith tag { answerOf s.tree.pos r.1 (if r.1 = stOk then p.planEnd t0 else 0) with words := [(s.tree.pos, [reason, stag])] } r.1

/-! ### FLASH_COMMIT and FLASH_LOAD -/

def State.actCommit (s : State) (tag : Option Nat) (length crc : Nat) : State :=
  let v := s.commitVerdict length
  if v = stOpen then (s.openCommit length crc tag).answer stOpen else s.respond tag v 0

/-- The COMMAND of a piece, whose bytes follow in BULK frames, or a piece whole at the ROOT. While the erase runs the frame keeps its
credits (R413). -/
def State.actLoad (s : State) (tag : Option Nat) (offset length : Nat) (piece : List Byte) (crc : Nat)
    (owes : Option (Nat × Nat × Nat × Nat)) : State :=
  if s.pieceRefused offset length then (s.payCredits owes).respond tag stDenied 0
  else
    let s := match (if s.flash.commit.state = 1 || !s.flash.erases.isEmpty then owes else none) with
      | some o => s.updCommit (fun c => { c with owing := c.owing ++ [(o.1, o.2.1, o.2.2.1)] })
      | none => s.payCredits owes
    s.takePiece { tag := tag, offset := offset, length := length, crc := crc, got := piece, paged := 0 }

/-! ### The whole device -/

/-- The words that a request reads or, with true, writes. -/
def accesses : Req → List (Nat × Bool)
  | .paramRead a n => (wordAddrs a n).map (fun a => (a, false))
  | .paramWrite a ws => (wordAddrs a ws.length).map (fun a => (a, true))
  | .paramWriteVerify a ws => (wordAddrs a ws.length).map (fun a => (a, true))
  | _ => []

/-- A request at this device. `src` is the asker's position, (pos, depth) the scope, `owes` the credits of a frame in its
buffer, which a QUERY and a CHECK_RUN keep until their job is admitted and a FLASH_LOAD while the erase runs. -/
def State.actNow (s : State) (tag : Option Nat) (src pos depth : Nat) (owes : Option (Nat × Nat × Nat × Nat)) (r : Req) : State :=
  if s.mode.mode = .lockout && !lockoutTakes r then (s.payCredits owes).respond tag stDenied 0
  else match r with
    | .query p col => s.acceptQuery (tag.getD 0) none (.query p col) pos depth owes
    | .checkRun u a p o l e bs err => s.actCheck tag owes u a p o l e bs err
    | .flashLoad o n piece crc => s.actLoad tag o n piece crc owes
    | r =>
      let s := s.payCredits owes
      match r with
      | .paramRead a n => s.actRead tag a n
      | .paramWrite a ws => (s.writeAll a ws).2.respond tag (s.writeAll a ws).1 0
      | .paramWriteVerify a ws => (s.writeVerify a ws).2.respond tag (s.writeVerify a ws).1 0
      | .query _ _ => s
      | .expose plan => s.actExpose tag plan pos depth
      | .surveyRun t0 stag _ _ sp sd => s.actSurvey tag t0 stag sp sd
      | .sessionOpen p => s.sessionOpen tag p src
      | .sessionClose k => s.sessionClose tag k src
      | .setPasscode k p q => s.setPasscode tag k p q src
      | .safetyWrite k a v o => s.safetyWrite tag k a v o src
      | .flashLoad _ _ _ _ => s
      | .flashCommit l c => s.actCommit tag l c
      | .logRead l f n => s.actLog tag l f n
      | .checkRun _ _ _ _ _ _ _ _ => s
      | .wireSearch bus => s.wireOp tag none (fun s => s.wireSearch tag bus)
      | .wireReadIds => s.wireOp tag none (fun s => s.wireDone tag stOk 0 s.idBytes)
      | .wireConvert bus => s.wireOp tag none (fun s => s.wireConvert tag bus)
      | .wireReadMem i o l bus => s.wireOp tag (some i) (fun s => s.wireRead tag i o l bus)
      | .wireWriteMem i o bs bus => s.wireOp tag (some i) (fun s => s.wireWrite tag i o bs bus)
      | .nop => s.respond tag stOk 0
      -- requests that the ROOT carries out itself, and never sends
      | .sweepTrigger _ _ _ => s.respond tag stDenied 0
      | .topologyRead _ _ => s.respond tag stDenied 0
      | .renumber _ => s.respond tag stDenied 0
      | .pathTest _ _ _ => s.respond tag stDenied 0

/-! ### Legacy positions (07 R212, 17 R443) -/

/-- A request at legacy positions: register accesses on the segment, queries of their records, NOP; anything else is DENIED. -/
def State.legacyAct (s : State) (tag src : Nat) (r : Req) (ds : List LegacyDev) : State :=
  let each (st : Nat) : Contribution := { noContribution with answers := ds.map (fun d => (d.pos, st)) }
  let reg (a : Nat) : Bool := decide (a ≤ 0x3FC)
  let set (d : LegacyDev) (a w : Nat) := legacyReq d.index 0x21 (le 1 (a / 4) ++ le 4 w) (some tag) none
  match r with
  | .paramRead a n =>
    if reg (a + 4 * (n - 1)) then
      s.legacyAsk (ds.flatMap (fun d => (wordAddrs a n).map (fun a => legacyReq d.index 0x20 (le 1 (a / 4)) (some tag) none)))
    else s.legacyGive tag src (each stDenied) r
  | .paramWrite a ws =>
    if reg (a + 4 * (ws.length - 1)) then
      s.legacyAsk (ds.flatMap (fun d => (ws.zip (wordAddrs a ws.length)).map (fun w => set d w.2 w.1)))
    else s.legacyGive tag src (each stDenied) r
  | .paramWriteVerify a ws =>
    if reg (a + 4 * (ws.length - 1)) then
      s.legacyAsk (ds.flatMap (fun d =>
        (ws.zip (wordAddrs a ws.length)).map (fun w => set d w.2 w.1)
        ++ (ws.zip (wordAddrs a ws.length)).map (fun w => legacyReq d.index 0x20 (le 1 (w.2 / 4)) (some tag) (some (w.1 % 2 ^ 32)))))
    else s.legacyGive tag src (each stDenied) r
  | .query _ _ => s.acceptLegacy tag src r (ds.map LegacyDev.pos)
  | .nop => s.legacyGive tag src (each stOk) r
  | _ => s.legacyGive tag src (each stDenied) r

/-- A request acts, unless a comparator of TYPE 2 halts the device before: then it acts after RESUME or STEP (16 R426). -/
def State.act (s : State) (tag : Option Nat) (src pos depth : Nat) (owes : Option (Nat × Nat × Nat × Nat)) (r : Req) : State :=
  match (accesses r).findSome? (fun x => s.breakAt 2 x.1 x.2) with
  | none => s.actNow tag src pos depth owes r
  | some k =>
    let t := s.breakHit k
    if t.mode.mode = .halted then { t with dbg := { t.dbg with held := t.dbg.held ++ [HeldAct.mk tag src pos depth owes r] } }
    else t.actNow tag src pos depth owes r

/-- What waited for RESUME or STEP goes on: the held requests act, and in a mode other than HALTED jobs are placed and results leave. -/
def State.goOn (s : State) : State :=
  if !s.dbg.go || !s.coreRuns then s
  else
    let hs := s.dbg.held
    let s := { s with dbg := { s.dbg with held := [], go := false } }
    (hs.foldl (fun (s : State) h => s.actNow h.tag h.src h.pos h.depth h.owes h.req) s).placeAll.release.flush

end Sys2Proof.Machine
end

