-- ==== Sys2Proof/Machine/Command.lean ====
section
/-! DEFINITION. COMMAND frames: how the ROOT sends a request to a scope, and how a device takes one it receives: counter and
check value, the collector field, replication, the harvest, its own part (07 R199–R201, 06 R166–R170, 08 R226, R227, R232). -/

namespace Sys2Proof.Machine

/-! ### The body of a COMMAND (DESIGN CHOICE, notes/assumptions/5.md) -/

/-- The CRC-32C of a FLASH_LOAD piece, which its COMMAND carries behind the arguments (16 R413). -/
def pieceCrc : Req → List Byte
  | .flashLoad _ _ _ c => le 4 c
  | _ => []

/-- Counter and SYNC (R199), then opcode, COLLECTOR and the mark of a second copy (R232), then the descriptor's arguments. -/
def commandBody (r : Req) (counter collector : Nat) (sync copy : Bool) : List Byte :=
  le 2 counter ++ le 1 (flag sync 0) ++ [0] ++ le 1 (opcodeOf r) ++ le 3 (put collector 0 18 + flag copy 23) ++ padTo 48 (argBytes 0 r ++ pieceCrc r)

def collectorOf (f : Frame) : Nat := at_ f.payload 5 3 % 2 ^ 18
def isCopy (f : Frame) : Bool := bit (at_ f.payload 5 3) 23

/-- The frame with another COLLECTOR and a new check value. -/
def withCollector (f : Frame) (c : Nat) : Frame :=
  let b := bodyOf f
  protect f (b.take 5 ++ le 3 (put c 0 18 + flag (isCopy f) 23) ++ b.drop 8)

def isCollect_ : Req → Bool
  | .query p _ => progCollects p
  | _ => false

/-- Advertised load of the partner on port p: its last complete crier message, or full (R168). -/
def State.loadOn (s : State) (p : Nat) : Nat :=
  let m := (s.port p).crier.last
  if m.isEmpty then 100 else at_ m 0x13 1

/-- The partner on port p takes the collector's place: a HUB whose load is below COLLECT_LIMIT. -/
def State.collectorOn (s : State) (p : Nat) : Option Nat :=
  let m := (s.port p).crier.last
  if !m.isEmpty && fld (at_ m 3 1) 5 4 = 1 && decide (s.loadOn p < s.glean.collectLimit) then some (at_ m 4 4 % 2 ^ 18) else none

/-- The frame as it goes on toward the scope's top through port p: the collector field is updated where the frame is whole. -/
def State.toward (s : State) (r : Req) (p : Nat) (f : Frame) : Frame :=
  if isCollect_ r && checkOk f then (match s.collectorOn p with
    | some c => withCollector f c
    | none => f)
  else f

/-! ### Sending (R201) -/

/-- Counter and SYNC of the next COMMAND of a key. -/
def State.nextRef (s : State) (hasScope : Bool) (dest depth : Nat) : Nat × Bool × State :=
  let is (r : SendRef) : Bool := r.hasScope = hasScope && r.dest = dest && r.depth = depth
  match s.host.refs.find? is with
  | some r =>
    let c := (r.ref + 1) % 65536
    (c, r.sync, { s with host := { s.host with refs := s.host.refs.map (fun (q : SendRef) =>
      if is q then { q with ref := c, sync := false } else q) } })
  | none =>
    let c := s.fresh % 65536
    (c, true, { s.took with host := { s.host with refs := s.host.refs ++ [SendRef.mk hasScope dest depth c false] } })

/-- The COMMAND frame of a request. -/
def State.commandFrame (s : State) (tag pos depth : Nat) (r : Req) (copy : Bool) : Frame × State :=
  let sc : Bool := depth != 0
  let (c, sync, s) := s.nextRef sc pos depth
  let f : Frame := { typ := 1, cls := 1, hasScope := sc, dest := pos, src := s.tree.pos, depth := depth, tag := tag, payload := [] }
  (protect f (commandBody r c s.tree.pos sync copy), s)

/-! ### Harvests (06 R167, R170) -/

def State.newKid (s : State) (p : Option Nat) : Contributor := { port := p, since := s.wall, given := none, lost := false }

/-- A harvest opens, with a timer for each contributor; it takes a slot, or waits for one and keeps the frame (R155, R156). -/
def State.openHarvest (s : State) (tag : Nat) (up : Option Nat) (r : Req) (src pos depth : Nat) (ports : List (Option Nat))
    (owes : Option (Nat × Nat × Nat × Nat)) : State :=
  let h : Harvest :=
    { tag := tag, up := up, req := r, src := src, pos := pos, depth := depth, kids := ports.map s.newKid, lastPend := s.wall
      tResp := s.tree.tResp, slot := none, todo := [], collecting := false }
  ({ s with glean := { s.glean with harvests := s.glean.harvests ++ [h], gatherUsed := true } }.raiseJob .harvest tag tag none).holdFrame tag owes

/-- Whether a scoped frame that this device acts on goes below it: by its DEPTH, or by the hops of its MARK (R227). -/
def State.reachesBelow (s : State) (a : Arrival) (f : Frame) : Bool :=
  if !f.hasScope || f.depth = 0 then false
  else if f.depth = 255 || s.ownPos f.dest then true
  else match s.tree.marks.find? (fun m => arrPort a = some m.port && m.tag = f.tag && m.typ = f.typ && m.src = f.src) with
    | some m => m.hops != 0
    | none => false

/-- KG1200 devices of this device's segment in a scope that goes below it. -/
def State.legacyBelow (s : State) (below : Bool) : List LegacyDev :=
  if below && (s.port 1).link = .legacy then s.legacy.devs.filter (fun d => d.pos != 0) else []

/-- Requests whose devices answer the ROOT one by one: the acceptances of a SURVEY_RUN (03 R100), and a second copy. -/
def unharvested (r : Req) (copy : Bool) : Bool :=
  copy || (match r with
    | .surveyRun _ _ _ _ _ _ => true
    | _ => false)

/-! ### Receiving (R200, R201) -/

/-- What a rejected COMMAND answers: the reason, and REF + 1 where an entry exists; 65,536 stands for none. -/
def State.rejection (s : State) (f : Frame) : Contribution :=
  { noContribution with
    answers := [(s.tree.pos, stCheckFail)]
    rejected := some (match s.cmdRef f with
      | some r => (r.ref + 1) % 65536
      | none => 65536) }

/-- The frame's own buffer, which a QUERY keeps until its job is admitted. -/
def owedBy (a : Arrival) (f : Frame) : Option (Nat × Nat × Nat × Nat) := (arrPort a).map (fun p => (p, f.cls, unitsOf f, f.tag))

/-- The parts of this device and of its KG1200 devices in a COMMAND that it has accepted, or rejected for itself and for them. -/
def State.ownParts (s : State) (f : Frame) (ok : Bool) (r : Req) (own : Bool) (ds : List LegacyDev)
    (owes : Option (Nat × Nat × Nat × Nat)) : State :=
  if ok then
    let s := if ds.isEmpty then s else (s.legacyAct f.tag f.src r ds).holdFrame (legacyTag f.tag) owes
    if own then s.act (some f.tag) f.src f.dest f.depth owes r else s.payCredits owes
  else
    let rej := s.rejection f
    let s := if ds.isEmpty then s
      else s.legacyGive f.tag f.src { rej with answers := ds.map (fun d => (d.pos, stCheckFail)) } r
    if own then (s.payCredits owes).contribute f.tag none rej f.src r f.dest f.depth else s.payCredits owes

/-- A COMMAND that this device acts on. -/
def State.commandHere (s : State) (a : Arrival) (f : Frame) (r : Req) : State :=
  let below := s.reachesBelow a f
  let (ports, s) := s.spread a f
  let ds := s.legacyBelow below
  let copy := isCopy f
  let (ok, s) := s.checkCommand a f
  let r := match r with
    | .query p _ => Req.query p (collectorOf f)
    | r => r
  let kids := none :: ports.map some ++ (if ds.isEmpty then [] else [some 1])
  let collects := isCollect_ r && collectorOf f = s.tree.pos
  let s := if unharvested r copy || !(decide (1 < kids.length) || collects) then s
    else s.openHarvest f.tag (arrPort a) r f.src f.dest f.depth kids (owedBy a f)
  let s := if f.src = 0 then s else { s with glean := { s.glean with asked := s.glean.asked ++ [(f.tag, f.src)] } }
  let s := if ok && f.src = 0 then s.contacted else s
  s.ownParts f ok r true ds (owedBy a f)

/-- A COMMAND that passes through toward its top: the collector field, and the collector's harvest where this device is it. A
LEAF passes nothing on (01 R26). -/
def State.commandThrough (s : State) (a : Arrival) (f : Frame) (r : Req) : State :=
  match (if s.ident.role = .leaf then Hop.nowhere else s.route f.dest) with
  | .out p =>
    let g := s.toward r p f
    if isCollect_ r && collectorOf g = s.tree.pos && !isCopy g then
      let s := s.openHarvest f.tag (arrPort a) (match r with
        | .query q _ => Req.query q s.tree.pos
        | r => r) f.src f.dest f.depth [some p] (owedBy a f)
      -- a harvest that waits keeps the frame's buffer (06 R156)
      s.enqueue p { frame := g, src := if s.glean.waiting.any (fun w => w.owes.isSome && w.owes = owedBy a f) then none else arrPort a }
    else s.enqueue p { frame := g, src := arrPort a }
  | _ => s

/-- A COMMAND for a KG1200 of this device's segment; a collector that is its hub gathers from it (06 R168, R169). -/
def State.commandLegacy (s : State) (a : Arrival) (f : Frame) (r : Req) : State :=
  let (ok, s) := s.checkCommand a f
  let r := match r with
    | .query p _ => Req.query p (collectorOf f)
    | r => r
  let s := if f.src = 0 then s else { s with glean := { s.glean with asked := s.glean.asked ++ [(f.tag, f.src)] } }
  let s := if isCollect_ r && collectorOf f = s.tree.pos && !isCopy f then
      s.openHarvest f.tag (arrPort a) r f.src f.dest f.depth [some 1] (owedBy a f) else s
  let s := if ok && f.src = 0 then s.contacted else s
  s.ownParts f ok r false (s.legacy.devs.filter (fun d => d.pos = f.dest)) (owedBy a f)

/-- A TAG is in use again: what arrives for it counts (R170). -/
def State.reopen (s : State) (tag : Nat) : State :=
  { s with glean := { s.glean with closed := s.glean.closed.filter (fun t => t != tag) } }

def State.commandIn (s : State) (a : Arrival) (f : Frame) (r : Req) : State :=
  let (ok, s) := s.hop a f
  if !ok then s
  else
    let s := (s.touchWalk a f).reopen f.tag
    if s.actsOn a f then
      if frameListed f then s.commandHere a f r else s.countCondemned a
    else if s.legacyPos f.dest then (if frameListed f then s.commandLegacy a f r else s.countCondemned a)
    else s.commandThrough a f r

/-- A SHIP request is among what a COMMAND may carry: its effect follows the answer. -/
def execCommandFrameReceive (a : Arrival) (f : Frame) (req : Req) (s : State) : Out :=
  runS (when_ s.reachable (fun s => s.commandIn a f req)) s

/-! ### The ROOT's own sending (06 R167, R168; 08 R226, R227, R232) -/

/-- What sending a request to a scope leaves to do: its frame, the ports that lead to contributors, whether this device is one,
its KG1200 devices in the scope, and whether this device accepts the frame for itself and for them (07 R200). -/
structure Issued where
  frame : Frame
  ports : List Nat
  own   : Bool
  devs  : List LegacyDev
  ok    : Bool

/-- A request goes to a scope. -/
def State.issue (s : State) (tag pos depth : Nat) (r : Req) (copy : Bool) : Issued × State :=
  let (f, s) := s.commandFrame tag pos depth r copy
  if s.ownPos pos then
    let below := s.reachesBelow .self f
    let (ports, s) := s.spread .self f
    let ds := s.legacyBelow below
    let (ok, s) := s.checkCommand .self f
    (⟨f, ports, true, ds, ok⟩, s)
  else if s.legacyPos pos then
    let (ok, s) := s.checkCommand .self f
    (⟨f, [], false, s.legacy.devs.filter (fun d => d.pos = pos), ok⟩, s)
  else match s.route pos with
    | .out p => (⟨f, [p], false, [], true⟩, s.enqueue p { frame := s.toward r p f, src := none })
    | _ => (⟨f, [], false, [], true⟩, s)

/-- The ROOT's own part of what it has issued; its rejection, as any other, makes the key's next COMMAND carry SYNC. -/
def State.issuedParts (s : State) (t : Tx) (i : Issued) : State :=
  (if i.ok then s else { s with host := { s.host with refs := s.host.refs.map (fun (q : SendRef) =>
    if q.dest = i.frame.dest && q.depth = i.frame.depth then { q with sync := true } else q) } }).ownParts i.frame i.ok t.req i.own
    i.devs none

/-- BULK frames of a FLASH_LOAD piece, 256 payload bytes each (16 R413). -/
def State.sendPieces (s : State) (tag pos depth : Nat) (bs : List Byte) : State :=
  (pieces (bs.length / 256 + 1) bs).foldl (fun s pl =>
    let f : Frame := { typ := 7, cls := 3, hasScope := depth != 0, dest := pos, src := s.tree.pos, depth := depth, tag := tag, payload := pl }
    if s.ownPos pos then (s.spread .self f).2 else s.sendTo f) s

/-- The request as a remote device decodes it from the COMMAND: a FLASH_LOAD without its piece. -/
def afar : Req → Req
  | .flashLoad o n _ c => .flashLoad o n [] c
  | r => r

/-- Second copies of a transaction whose scope meets a rerouted interval that does not hold its top (R232). -/
def State.copiesFor (s : State) (pos depth : Nat) : List (Nat × Nat) :=
  s.tree.reroutes.filterMap (fun c =>
    let holdsTop := decide (c.lo ≤ pos) && decide (pos ≤ c.hi)
    match s.hopsBelow pos (s.tree.topo.length + 1) c.lo with
    | none => none
    | some d =>
      if depth = 0 || holdsTop || (depth != 255 && decide (depth < d)) then none
      else some (c.lo, if depth = 255 then 255 else depth - d))

def newTx (s : State) (id gen : Nat) (h : Hdr) (r : Req) (copyOf : Option Nat) : Tx :=
  { id := id, gen := gen, hdr := h, req := r, start := s.wall, entries := 0, done := false, survey := [], acc := noContribution
    copyOf := copyOf, probeN := 0, probeAt := s.stamp, probeMin := none, probeMax := 0, probeLost := 0, tResp := s.tree.tResp
    forced := none }

/-- A transaction entry is taken: the lowest free id and its next generation (R250). -/
def State.takeTx (s : State) (h : Hdr) (r : Req) (copyOf : Option Nat) : Option (Tx × State) :=
  match s.freeId h.ring with
  | none => none
  | some id =>
    let g := s.nextGen id
    let t := newTx s id g h r copyOf
    some (t, { s with host := { s.host with txs := s.host.txs ++ [t]
                                            gens := (id, g) :: s.host.gens.filter (fun (p : Nat × Nat) => p.1 != id) } })

/-- One second copy: a transaction of its own, a contributor of the first one's harvest. -/
def State.sendCopy (s : State) (t : Tx) (r : Req) (c : Nat × Nat) : State :=
  match s.takeTx { t.hdr with pos := c.1, depth := c.2 } r (some t.tag) with
  | none => s
  | some (k, s) =>
    let s := s.updHarvest t.tag (fun h => { h with kids := h.kids ++ [s.newKid (some (copyKid k.id))] })
    let s := { s with host := { s.host with refs := s.host.refs.map (fun (q : SendRef) =>
      if q.dest = c.1 && q.depth = c.2 then { q with sync := true } else q) } }
    let s := (s.issue k.tag c.1 c.2 r true).2
    match r with
    | .flashLoad _ _ bs _ => s.sendPieces k.tag c.1 c.2 bs
    | _ => s

/-- A transaction whose answers are harvested: its COMMAND, its pieces, the ROOT's harvest, its own part. -/
def State.startHarvested (s : State) (t : Tx) : State :=
  let h := t.hdr
  let (i, s) := s.issue t.tag h.pos h.depth t.req false
  let s := match t.req with
    | .flashLoad _ _ bs _ => s.sendPieces t.tag h.pos h.depth bs
    | _ => s
  let kids := (if i.own then [none] else []) ++ i.ports.map some ++ (if i.devs.isEmpty then [] else [some 1])
  if kids.isEmpty then s.endTx t { noContribution with missing := (s.scopeOf h.pos h.depth).map (fun p => (p, 1)) }
  else
    let s := s.openHarvest t.tag none t.req s.tree.pos h.pos h.depth kids none
    ((s.copiesFor h.pos h.depth).foldl (fun s c => s.sendCopy t t.req c) s).issuedParts t i

/-! ### Surveys and exposures at the ROOT (03 R88, R100; 06 R172) -/

/-- The position is that of a KG1200, of the ROOT's own segment or of another hub's. -/
def State.isLegacy (s : State) (pos : Nat) : Bool :=
  s.legacyPos pos || (match s.topoOf pos with
    | some e => e.legacy
    | none => false)

def State.markAll (s : State) (id : Nat) (ps : List Nat) : State :=
  s.updTx id (fun t => { t with survey := ps.map (fun p => (p, 0)) })

/-- A descriptor that a legacy position does not take (07 R212). -/
def State.denyLegacy (s : State) (t : Tx) : State := s.finishTx t { noContribution with answers := [(t.hdr.pos, stDenied)] }

/-- The start message goes to the scope, to a rerouted part of it (08 R232) and to the source; a legacy position is DENIED. -/
def State.startSurveyRun (s : State) (t : Tx) (source : Nat) (ripple : Bool) : State :=
  let h := t.hdr
  if s.isLegacy h.pos then s.denyLegacy t
  else
  let scope := s.scopeOf h.pos h.depth
  let alone := ripple && !scope.contains source
  let s := s.markAll t.id (scope ++ if alone then [source] else [])
  let (i, s) := s.issue t.tag h.pos h.depth t.req false
  let s := (s.copiesFor h.pos h.depth).foldl (fun s c => s.sendCopy t t.req c) s
  let s := s.issuedParts t i
  if alone then
    let (j, s) := s.issue t.tag source 0 t.req false
    s.issuedParts t j
  else s

def State.startExpose (s : State) (t : Tx) : State :=
  (s.markAll t.id (s.scopeOf t.hdr.pos t.hdr.depth)).startHarvested t

/-! ### PATH_TEST (09 R267) -/

/-- The PROBE of round trip n: class, length and fill. -/
def probeFrame (s : State) (tag dest cls length n : Nat) : Frame :=
  protect { typ := 12, cls := cls, hasScope := false, dest := dest, src := s.tree.pos, depth := 0, tag := tag, payload := [] }
    (le 2 n ++ [0, 0] ++ (List.range (length - 8)).map (fun k => BitVec.ofNat 8 (4 + k + n)))

/-- The completion: least and greatest round trip, rounded up to whole tt, frames lost. -/
def State.finishPath (s : State) (t : Tx) : State :=
  let v := match t.probeMin with
    | some m => ceilDiv m 65536 % 2 ^ 32 + ceilDiv t.probeMax 65536 % 2 ^ 32 * 2 ^ 32
    | none => 0
  let st := if t.probeMin.isSome then stOk else stUnreachable
  ((s.answer st v).postFinal t.id [] st v (if t.probeMin.isSome then 1 else 0) t.probeLost false).settleWaits none

/-- The next round trip, or the end of the last. Until the PROBE leaves, T_RESP runs from here (DESIGN CHOICE,
notes/assumptions/91.md). -/
def State.nextProbe (s : State) (id : Nat) : State :=
  match s.tx id with
  | none => s
  | some t => match t.req with
    | .pathTest cls times length =>
      if times ≤ t.probeN then s.finishPath t
      else (s.updTx id (fun t => { t with probeAt := s.stamp })).sendTo (probeFrame s t.tag t.hdr.pos cls length t.probeN)
    | _ => s

/-- Round trips to the ROOT itself take no time; a legacy position is DENIED (07 R212). -/
def State.startPath (s : State) (t : Tx) (times : Nat) : State :=
  if s.ownPos t.hdr.pos then s.finishPath { t with probeN := times, probeMin := some 0, probeMax := 0 }
  else if s.isLegacy t.hdr.pos then s.denyLegacy t
  else s.nextProbe t.id

/-! ### SWEEP_TRIGGER (08 R244) -/

/-- The strobe goes to the scope and to a rerouted part of it (R232); a legacy position is DENIED (07 R212). -/
def State.startTrigger (s : State) (t : Tx) (at_ num : Nat) (now : Bool) : State :=
  if s.isLegacy t.hdr.pos then s.denyLegacy t
  else
  let tt := if now then multipleFrom (s.now + s.strobeLeadTt) 4 else at_
  let s := ((t.hdr.pos, t.hdr.depth) :: s.copiesFor t.hdr.pos t.hdr.depth).foldl
    (fun s c => s.sendScoped (strobeFrame s c.1 c.2 tt num)) s
  let s := if s.ownPos t.hdr.pos then s.abandonStep.takeStrobe tt num true else s
  ((s.answer stOk tt).postFinal t.id [] stOk tt 0 0 false).settleWaits none

/-! ### Submission (09 R263, R264) -/

/-- The transaction starts. -/
def State.startTx (s : State) (t : Tx) : State :=
  match t.req with
  | .sweepTrigger at_ num now => s.startTrigger t at_ num now
  | .topologyRead _ _ => if s.isLegacy t.hdr.pos then s.denyLegacy t else s.finishTx t (answerOf s.tree.pos stOk 0)
  | .renumber _ => if s.isLegacy t.hdr.pos then s.denyLegacy t else s.walkRoot (some t.id)
  | .pathTest _ times _ => s.startPath t times
  | .surveyRun _ _ source ripple _ _ => s.startSurveyRun t source ripple
  | .expose _ => s.startExpose t
  | _ => s.startHarvested t

/-- A descriptor at the ROOT: its checks, then its transaction. -/
def State.submit (s : State) (h : Hdr) (r : Req) : State :=
  let s := if s.restricted then s else s.contacted
  let v := s.verdict h r
  if v != stOk then s.completeEarly h v
  else match s.takeTx h r none with
    | none => s.answer stSilent
    | some (t, s) => (s.answer stOpen).startTx t

/-- A request asked of a device: as a descriptor where it has a host, of its own part elsewhere. -/
def State.request (s : State) (h : Hdr) (r : Req) : State :=
  if !s.reachable then s.answer stSilent
  else if s.hasHost then s.submit h r
  else if !argsOk r || !reqValid r then s.answer stBadDescriptor
  else s.act none 0 s.tree.pos 0 none r

/-- A descriptor row. -/
def runDesc (h : Hdr) (r : Req) (s : State) : Out := runS (fun s => s.request h r) s

end Sys2Proof.Machine
end

