-- ==== Sys2Proof/Machine/Host.lean ====
section
/-! DEFINITION. BAR0 (09 R256–R261, R271, R275, R276, R281): rings, pools, doorbells, the other registers, MSI-X, configuration
requests, PERST_N and Function Level Reset. -/

namespace Sys2Proof.Machine

def State.updHost (s : State) (f : HostSt → HostSt) : State := { s with host := f s.host }

/-- Completions and events that have room now are written. -/
def State.drain (s : State) : State := s.drainCpl.drainEvents

/-- Staging that was full and is so no longer lets the credits kept for it go (08 R247). -/
def State.ungate (wasFull : Bool) (s : State) : State := if wasFull && !s.stagingFull then s.flush else s

/-- Everything that room in a ring or a pool lets go, with a snapshot of host memory at hand. -/
def State.drainAll (mem : List (Nat × Byte)) (s : State) : State :=
  (s.drain.drainHeld mem).ungate s.stagingFull

/-- A command of host software on BAR0, which has an effect only while the function answers. -/
def runBar (f : State → State) (s : State) : Out := run (when_ s.barOpen f) s

/-! ### Doorbells (R259, R260) -/

/-- BAD_DOORBELL of ring r, and its event. -/
def State.refuseBell (s : State) (r : Nat) : State := (s.updSq r (fun q => { q with badBell := true })).event 0x0A r

def State.bellTail (r tail : Nat) (s : State) : State :=
  let q := s.sq r
  if q.state = .stopped || decide (2 ^ q.log2 ≤ tail) then s.refuseBell r else s.updSq r (fun q => { q with tail := tail })

/-- CQ_HEAD alone, with what it lets go into the rings. -/
def State.bellHead (r head : Nat) (s : State) : State :=
  let q := s.cq r
  if q.state = .stopped || decide (2 ^ q.log2 ≤ head) then s.refuseBell r
  else (s.updCq r (fun q => { q with head := head })).drain

def execSqTailDoorbell (r tail : Nat) (s : State) : Out := runBar (State.bellTail r tail) s

def execCqHeadDoorbell (r head : Nat) (mem : List (Nat × Byte)) (s : State) : Out :=
  runBar (fun s => ((s.bellHead r head).drainHeld mem).ungate s.stagingFull) s

/-! ### Rings (R258, R281) -/

/-- CQ and WEIGHT of a submission ring; on a ring that is not STOPPED a change is ignored, and WEIGHT 0 always. -/
def State.setSqCtrl (r cq weight : Nat) (s : State) : State :=
  let q := s.sq r
  if q.state != .stopped then (if q.cq = cq && q.weight = weight then s else s.ignoreWrite)
  else if weight = 0 then s.ignoreWrite
  else s.updSq r (fun q => { q with cq := cq, weight := weight })

/-- START of a submission ring: ignored unless it is STOPPED and its completion ring RUNNING. -/
def State.startSq (r : Nat) (s : State) : State :=
  if (s.sq r).state = .stopped && (s.cq (s.sq r).cq).state = .running then
    s.updSq r (fun q => { q with state := .running, head := 0, tail := 0 })
  else s

/-- One write of SQ_CTRL with START; one whose WEIGHT is out of range is ignored whole. -/
def State.startSqWith (r cq weight : Nat) (s : State) : State :=
  let t := s.setSqCtrl r cq weight
  if weight = 0 then t else t.startSq r

/-- STOP ends fetching; STOPPED follows once no transaction of the ring is in flight. -/
def State.stopSq (r : Nat) (s : State) : State :=
  if (s.sq r).state = .running then (s.updSq r (fun q => { q with state := .stopping })).settleSq r else s

/-- VECTOR and IRQ_EN of a completion ring. -/
def State.setCqCtrl (c vector : Nat) (irqEn : Bool) (s : State) : State :=
  let q := s.cq c
  if q.state != .stopped then (if q.vector = vector && q.irqEn = irqEn then s else s.ignoreWrite)
  else s.updCq c (fun q => { q with vector := vector, irqEn := irqEn })

/-- START of a completion ring: indices 0, phase 1; what waited for it goes. -/
def State.startCq (c : Nat) (s : State) : State :=
  if (s.cq c).state = .stopped then
    (s.updCq c (fun q => { q with state := .running, tail := 0, head := 0, phase := true })).drain
  else s

/-- A submission ring that is not STOPPED, or the events, use completion ring c. -/
def State.cqInUse (s : State) (c : Nat) : Bool :=
  s.host.sq.any (fun q => q.state != .stopped && q.cq = c) || (s.host.eventEn && s.host.eventCq = c)

/-- STOP of a completion ring; STOPPED follows once no completion is held for it. -/
def State.stopCq (c : Nat) (s : State) : State :=
  if s.cqInUse c then s.ignoreWrite
  else if (s.cq c).state = .running then
    s.updCq c (fun q => { q with state := if s.host.cplWait.any (fun w => w.cq = c) then .stopping else .stopped })
  else s

def execSqStart (r cq weight : Nat) (s : State) : Out := runBar (State.startSqWith r cq weight) s
def execSqStop (r : Nat) (s : State) : Out := runBar (State.stopSq r) s
def execCqStart (c vector : Nat) (irqEn : Bool) (s : State) : Out := runBar (fun s => (s.setCqCtrl c vector irqEn).startCq c) s
def execCqStop (c : Nat) (s : State) : Out := runBar (State.stopCq c) s

/-! ### Pools (R258, R271) -/

/-- A write of POOL_CFG: while the pool is enabled it acts on EN alone, and a change of a size is ignored. -/
def State.setPool (p listLog2 bufLog2 : Nat) (en : Bool) (s : State) : State :=
  let q := s.pool p
  if q.en then
    let s := if q.listLog2 = listLog2 && q.bufLog2 = bufLog2 then s else s.ignoreWrite
    if en then s.updPool p (fun q => { q with closing := false }) else (s.updPool p (fun q => { q with closing := true })).closePools
  else if decide (4 ≤ listLog2) && decide (listLog2 ≤ 16) && decide (8 ≤ bufLog2) && decide (bufLog2 ≤ 20) then
    s.updPool p (fun q => { q with listLog2 := listLog2, bufLog2 := bufLog2, en := en })
  else s.ignoreWrite

/-- EN = 0: an enabled pool is disabled as soon as no result is being written into its buffers. -/
def State.disablePool (p : Nat) (s : State) : State := (s.updPool p (fun q => { q with closing := q.en })).closePools

/-- POOL_TAIL, modulo the entry count (R259). -/
def State.setPoolTail (p tail : Nat) (s : State) : State :=
  if 2 ^ (s.pool p).listLog2 ≤ tail then s.ignoreWrite else s.updPool p (fun q => { q with tail := tail })

def execPoolEnable (p listLog2 bufLog2 : Nat) (s : State) : Out := runBar (State.setPool p listLog2 bufLog2 true) s
def execPoolDisable (p : Nat) (s : State) : Out := runBar (State.disablePool p) s
def execPoolTailWrite (p tail : Nat) (mem : List (Nat × Byte)) (s : State) : Out :=
  runBar (fun s => (s.setPoolTail p tail).drainAll mem) s

/-! ### MSI-X (R275, R276) -/

/-- Pending vectors that are not masked send their messages, in D0. -/
def State.releaseMsix (s : State) : State :=
  if s.host.d3hot then s
  else
    let go := s.host.msixPend.filter (fun v => !bit (s.msixWord (4 * v + 3)) 0)
    go.foldl (fun s v => s.emit (.msix v)) (s.updHost (fun h => { h with msixPend := h.msixPend.filter (fun v => !go.contains v) }))

/-- Word i of the MSI-X table; only the mask bit of a vector control word is writable (PCI Express Base 3.0). -/
def State.writeMsix (i w : Nat) (s : State) : State :=
  let d := if i % 4 = 3 then 1 else 0
  let v := if i % 4 = 3 then w % 2 else if i % 4 = 0 then w / 4 * 4 else w
  (s.updHost (fun h => { h with msix := mset d h.msix i v })).releaseMsix

def execMsixVectorUnmask (v : Nat) (s : State) : Out := runBar (State.writeMsix (4 * v + 3) 0) s

/-- TIME_US in tt, rounded up: 20.48 tt for each microsecond. -/
def usTt (us : Nat) : Nat := ceilDiv (us * 2048) 100

def State.coalesceDue (s : State) (c : Nat) : Bool :=
  let q := s.cq c
  q.irqEn && decide (0 < q.unsig) && q.coTime != 0 && decide (usTt q.coTime ≤ s.since q.unsigAt)

def execInterruptCoalesceTimeout (c : Nat) (s : State) : Out :=
  run (when_ (s.coalesceDue c) (fun s => (s.updCq c (fun q => { q with unsig := 0 })).message (s.cq c).vector)) s

/-! ### The PCIe link (R254, R257) -/

/-- SPEED and WIDTH of LINK_CTRL: SPEED 0 stores 3; a WIDTH that Table 9.3 does not list is out of range. -/
def State.setLink (speed width : Nat) (s : State) : State :=
  if width = 1 ∨ width = 2 then s.updHost (fun h => { h with speed := if speed = 0 then 3 else speed, width := width })
  else s.ignoreWrite

/-- A write of LINK_CTRL with RETRAIN; one whose WIDTH is out of range is ignored whole. -/
def State.retrainPcie (speed width : Nat) (s : State) : State :=
  if width = 1 ∨ width = 2 then (s.setLink speed width).trainPcie else s.ignoreWrite

/-- RETRAIN, with what the partner gives now. -/
def execLinkRetrain (speed width gotSpeed gotWidth : Nat) (s : State) : Out :=
  runBar (fun s => (s.updHost (fun h => { h with partner := (gotSpeed, gotWidth) })).retrainPcie speed width) s

/-- The key of HOST_RESET: a device reset with cause HOST (R255, 14 R379). -/
def execHostReset (key : Nat) (s : State) : Out := runBar (when_ (key = 0x5A5A4800) (fun s => s.resetBy 6)) s

/-! ### Reset of the host island (R256) -/

/-- The island after PERST_N or Function Level Reset: rings STOPPED, pools disabled, registers at reset, every transaction
freed and its generation advanced at its next use. Queued events and held records wait for the rings. -/
def HostSt.island (h : HostSt) : HostSt :=
  { HostSt.reset with
    perst := h.perst, refclk := h.refclk, partner := h.partner, ids := h.ids, events := h.events, eventCid := h.eventCid, heldWait := h.heldWait, heldTold := h.heldTold, gens := h.gens, refs := h.refs }

/-- What the ROOT's own harvests and the walk hold for transactions that are gone goes with them. -/
def State.dropTxs (s : State) : State :=
  { s with
    glean := { s.glean with harvests := s.glean.harvests.filter (fun (h : Harvest) => h.up.isSome) }
    tree := { s.tree with walk := { s.tree.walk with tid := none } } }

/-- PERST_N low. -/
def State.perstLow (s : State) : State := s.dropTxs.updHost (fun h => { h.island with perst := false })

/-- The link, its Max Payload Size and ASPM control and its power management event context outlive a Function Level Reset
(PRESUMED from PCI Express Base 3.0, notes/assumptions/61.md). -/
def State.functionReset (s : State) : State :=
  s.dropTxs.updHost (fun h => { h.island with
    linkUp := h.linkUp, speedNow := h.speedNow, widthNow := h.widthNow, mps := h.mps, aspmL1 := h.aspmL1, aer := h.aer, pmeEn := h.pmeEn, pmeStatus := h.pmeStatus })

def execPerstNAssert (s : State) : Out := run State.perstLow s

def execFunctionLevelReset (s : State) : Out := run (when_ (s.hasHost && s.host.perst) State.functionReset) s

/-- PERST_N high, with the reference clock and the partner as they are then (R254). A clock or a role that comes later trains the
link in State.clockWindow and State.bistStart. -/
def execPerstNDeassert (refclk : Bool) (gotSpeed gotWidth : Nat) (s : State) : Out :=
  run (fun s => (s.updHost (fun h => { h with perst := true, refclk := refclk, partner := (gotSpeed, gotWidth) })).trainPcie) s

/-! ### Configuration requests (R254, R276) -/

/-- An ID of 16 bits from the flash configuration, where it is set. -/
def idOr (v dflt : Nat) : Nat := if v % 65536 = 0 then dflt else v % 65536

def idPair (w : Nat) : Nat := idOr w 0x1F4B + 65536 * idOr (w / 65536) 0x4800

/-- What Table 9.1 gives of the function's type 0 header, at the places of PCI Express Base 3.0 (PRESUMED, notes/assumptions/61.md):
IDs, Revision ID and class code, BAR0 of 64 KiB in 64-bit memory, no other BAR and no expansion ROM, subsystem IDs; and Advanced Error
Reporting at 0x100. -/
def State.configWord (s : State) (a : Nat) : Option Nat :=
  let h := s.host
  if a = 0x00 then some (idPair h.ids.1)
  else if a = 0x08 then some (put s.ident.silicon 0 8 + 0x118000 * 256)
  else if a = 0x10 then some (h.bar0 % 2 ^ 32 / 65536 * 65536 + 4)
  else if a = 0x14 then some (h.bar0 / 2 ^ 32 % 2 ^ 32)
  else if a = 0x18 ∨ a = 0x1C ∨ a = 0x20 ∨ a = 0x24 ∨ a = 0x30 then some 0
  else if a = 0x2C then some (idPair h.ids.2)
  else if a = 0x100 then some 0x20001
  else if 0x104 ≤ a ∧ a ≤ 0x128 ∧ a % 4 = 0 then some (h.aer.getD ((a - 0x104) / 4) 0)
  else none

/-- Register i of Advanced Error Reporting after a write: status bits are cleared by writing 1, masks and severities hold the bits
of the errors that exist, control and header log do not change (PRESUMED, notes/assumptions/61.md). -/
def aerAfter (i old v : Nat) : Nat :=
  if i = 0 ∨ i = 3 then old - (old &&& v)
  else if i = 1 ∨ i = 2 then v &&& 0x17F010
  else if i = 4 then v &&& 0x31C1
  else old

/-- Effects of configuration requests; a size that Table 9.1 does not support is not taken. A word that it does not give reads as
a free value. -/
def State.configEffect (s : State) : CfgReq → State
  | .read a => match s.configWord a with
    | some w => s.answer stOk w [w]
    | none => s.took.answer stOk s.fresh [s.fresh]
  | .powerState d3 => ((s.updHost (fun h => { h with d3hot := d3 })).releaseMsix).answer stOk
  | .pmeEnable on => (s.updHost (fun h => { h with pmeEn := on })).answer stOk
  | .maxPayload c => (when_ (decide (c ≤ 1)) (fun s => s.updHost (fun h => { h with mps := 128 * 2 ^ c })) s).answer stOk
  | .maxReadRequest c => (when_ (decide (c ≤ 2)) (fun s => s.updHost (fun h => { h with mrrs := 128 * 2 ^ c })) s).answer stOk
  | .aspm l1 => (s.updHost (fun h => { h with aspmL1 := l1 })).answer stOk
  | .errorReporting i v => (s.updHost (fun h => { h with aer := h.aer.set i (aerAfter i (h.aer.getD i 0) v) })).answer stOk
  | .barAddress a => (s.updHost (fun h => { h with bar0 := a / 65536 * 65536 % 2 ^ 64 })).answer stOk
  | .other => s.answer stOk

/-- Until BIST has ended the answer is Configuration Request Retry Status; with the link down there is none. -/
def State.configure (s : State) (r : CfgReq) : State :=
  if !s.hasHost || !s.host.perst || !s.host.linkUp then s.answer stSilent
  else if s.mode.mode = .bist then s.answer stRetry
  else if !s.awake then s.answer stSilent
  else s.configEffect r

def execConfigurationRequest (r : CfgReq) (s : State) : Out := run (fun s => s.configure r) s

/-! ### Register writes (Tables 9.3–9.7) -/

/-- A setup write that needs a stopped function and a value in range, or is ignored (R258). -/
def State.setup (s : State) (free ok : Bool) (f : State → State) : State := if free && ok then f s else s.ignoreWrite

/-- HOST_CTRL. -/
def State.setHostCtrl (v : Nat) (s : State) : State :=
  (s.updHost (fun h => { h with enable := bit v 0, eventEn := bit v 1, eventCq := fld v 15 8, eventPool := fld v 21 16 })).drain

/-- Global, link and host watchdog registers. -/
def State.writeGlobal (a v : Nat) (s : State) : State :=
  if a = 0x4 then s.updHost (fun h => { h with writeIgn := h.writeIgn && !bit v 20 })
  else if a = 0x8 then s.setHostCtrl v
  else if a = 0xC then when_ (v = 0x5A5A4800) (fun s => s.resetBy 6) s
  else if a = 0x14 then
    (if bit v 4 then s.retrainPcie (fld v 1 0) (fld v 3 2) else s.setLink (fld v 1 0) (fld v 3 2))
  else if a = 0x100 then when_ (bit v 0) startHostWd s
  else if a = 0x104 then { s with hostWd := wdKey s.hostWd (v % 65536) }
  else if a = 0x108 then s.setup (!s.hostWd.running) true (fun s => { s with hostWd := { s.hostWd with openT := v % 65536 } })
  else if a = 0x10C then s.setup (!s.hostWd.running) true (fun s => { s with hostWd := { s.hostWd with closeT := v % 65536 } })
  else if a = 0x110 then
    { s with hostWd := { s.hostWd with expired := s.hostWd.expired && !bit v 16, early := s.hostWd.early && !bit v 17 } }
  else if a = 0x114 then s.setup (!s.hostWd.running) true (fun s => { s with hostWd := { s.hostWd with rollMask := v % 65536 } })
  else if a = 0x118 then { s with hostWd := wdCheckin s.hostWd (v % 16) }
  else s

/-- Registers of submission ring r. -/
def State.writeSq (r o v : Nat) (s : State) : State :=
  let free : Bool := (s.sq r).state = .stopped
  if o = 0x00 then s.setup free (v % 4096 = 0) (fun s => s.updSq r (fun q => { q with baseLo := v }))
  else if o = 0x04 then s.setup free true (fun s => s.updSq r (fun q => { q with baseHi := v }))
  else if o = 0x08 then
    s.setup free (decide (4 ≤ v % 32) && decide (v % 32 ≤ 16)) (fun s => s.updSq r (fun q => { q with log2 := v % 32 }))
  else if o = 0x0C then
    (if free then (if bit v 2 then s.startSqWith r (fld v 15 8) (fld v 23 16) else s.setSqCtrl r (fld v 15 8) (fld v 23 16))
     else (when_ (bit v 3) (State.stopSq r) (s.setSqCtrl r (fld v 15 8) (fld v 23 16))))
  else if o = 0x10 then s.setup free true (fun s => s.updSq r (fun q => { q with badBell := q.badBell && !bit v 16 }))
  else if o = 0x14 then
    let m := v % 8192
    s.setup free (decide (1 ≤ m) && decide (m ≤ if r = 0 then 4096 else 4032)) (fun s => s.updSq r (fun q => { q with limit := m }))
  else if o = 0x18 then s.setup free true (fun s => s)
  else s

/-- Registers of completion ring c. -/
def State.writeCq (c o v : Nat) (s : State) : State :=
  let free : Bool := (s.cq c).state = .stopped
  if o = 0x00 then s.setup free (v % 4096 = 0) (fun s => s.updCq c (fun q => { q with baseLo := v }))
  else if o = 0x04 then s.setup free true (fun s => s.updCq c (fun q => { q with baseHi := v }))
  else if o = 0x08 then
    s.setup free (decide (4 ≤ v % 32) && decide (v % 32 ≤ 16)) (fun s => s.updCq c (fun q => { q with log2 := v % 32 }))
  else if o = 0x0C then
    let s1 := s.setCqCtrl c (fld v 15 8) (bit v 16)
    (if free && bit v 2 then s1.startCq c else when_ (bit v 3) (State.stopCq c) s1)
  else if o = 0x10 then
    s.setup free (v % 256 != 0) (fun s => s.updCq c (fun q => { q with coCount := v % 256, coTime := fld v 23 8 }))
  else if o = 0x14 then s.setup free true (fun s => s)
  else s

/-- Registers of pool p. -/
def State.writePool (p o v : Nat) (s : State) : State :=
  let free := !(s.pool p).en
  if o = 0x00 then s.setup free (v % 64 = 0) (fun s => s.updPool p (fun q => { q with listLo := v }))
  else if o = 0x04 then s.setup free true (fun s => s.updPool p (fun q => { q with listHi := v }))
  else if o = 0x08 then s.setPool p (fld v 4 0) (fld v 12 8) (bit v 16)
  else if o = 0x0C then s.setPoolTail p (v % 65536)
  else if o = 0x10 then s.setup free true (fun s => s)
  else s

/-- One 32-bit write (Table 9.2). -/
def State.writeBar (a v : Nat) (s : State) : State :=
  if a < 0x200 then s.writeGlobal a v
  else if 0x1000 ≤ a ∧ a < 0x3000 then s.writeSq ((a - 0x1000) / 0x20) (a % 0x20) v
  else if 0x3000 ≤ a ∧ a < 0x5000 then s.writeCq ((a - 0x3000) / 0x20) (a % 0x20) v
  else if 0x5000 ≤ a ∧ a < 0x5800 then s.writePool ((a - 0x5000) / 0x20) (a % 0x20) v
  else if 0x6000 ≤ a ∧ a < 0x7000 then s.writeMsix ((a - 0x6000) / 4) v
  else if 0x8000 ≤ a ∧ a < 0x8800 then
    (if a % 8 = 0 then s.bellTail ((a - 0x8000) / 8) (v % 65536) else s.bellHead ((a - 0x8000) / 8) (v % 65536))
  else s

/-- A write of BAR0: 32 bits aligned, or a doorbell as one aligned 64-bit write; any other changes nothing (R257). -/
def State.barWrite (addr size value : Nat) (s : State) : State :=
  if size = 4 ∧ addr % 4 = 0 then s.writeBar addr (value % 2 ^ 32)
  else if size = 8 ∧ addr % 8 = 0 ∧ 0x8000 ≤ addr ∧ addr < 0x8800 then
    (s.writeBar addr (value % 2 ^ 32)).writeBar (addr + 4) (value / 2 ^ 32 % 2 ^ 32)
  else s

def execBar0RegisterWrite (addr size value : Nat) (s : State) : Out := runBar (State.barWrite addr size value) s

/-! ### Reads of BAR0 (no row of the table reads BAR0) -/

def State.globalWord (s : State) (a : Nat) : Nat :=
  let h := s.host
  let w := s.hostWd
  if a = 0x0 then 0x4800 + put s.ident.silicon 16 8 + put 1 24 8
  else if a = 0x4 then
    s.mode.mode.code + flag s.restricted 4 + flag s.tree.inCharge 5 + flag (decide (4096 ≤ h.txs.length)) 6 + put h.txs.length 7 13
      + flag h.writeIgn 20
  else if a = 0x8 then flag h.enable 0 + flag h.eventEn 1 + put h.eventCq 8 8 + put h.eventPool 16 6
  else if a = 0x10 then h.drops
  else if a = 0x14 then put h.speed 0 2 + put h.width 2 2 + put h.speedNow 8 2 + put h.widthNow 10 2
  else if a = 0x100 then flag w.running 1 else if a = 0x108 then w.openT else if a = 0x10C then w.closeT
  else if a = 0x110 then put w.count 0 16 + flag w.expired 16 + flag w.early 17
  else if a = 0x114 then w.rollMask else 0

def State.sqWord (s : State) (r o : Nat) : Nat :=
  let q := s.sq r
  if o = 0x00 then q.baseLo else if o = 0x04 then q.baseHi else if o = 0x08 then q.log2
  else if o = 0x0C then q.state.code + put q.cq 8 8 + put q.weight 16 8
  else if o = 0x10 then put q.head 0 16 + flag q.badBell 16
  else if o = 0x14 then q.limit else if o = 0x18 then s.inflight r else 0

def State.cqWord (s : State) (c o : Nat) : Nat :=
  let q := s.cq c
  if o = 0x00 then q.baseLo else if o = 0x04 then q.baseHi else if o = 0x08 then q.log2
  else if o = 0x0C then q.state.code + put q.vector 8 8 + flag q.irqEn 16
  else if o = 0x10 then put q.coCount 0 8 + put q.coTime 8 16
  else if o = 0x14 then put q.tail 0 16 + flag q.phase 16 + flag q.full 17 else 0

def State.poolWord (s : State) (p o : Nat) : Nat :=
  let q := s.pool p
  if o = 0x00 then q.listLo else if o = 0x04 then q.listHi
  else if o = 0x08 then q.listLog2 + put q.bufLog2 8 5 + flag q.en 16
  else if o = 0x0C then q.tail else if o = 0x10 then put q.head 0 16 + flag q.waiting 16 else 0

/-- The word at an aligned address. -/
def State.barWord (s : State) (a : Nat) : Nat :=
  if a < 0x200 then s.globalWord a
  else if 0x1000 ≤ a ∧ a < 0x3000 then s.sqWord ((a - 0x1000) / 0x20) (a % 0x20)
  else if 0x3000 ≤ a ∧ a < 0x5000 then s.cqWord ((a - 0x3000) / 0x20) (a % 0x20)
  else if 0x5000 ≤ a ∧ a < 0x5800 then s.poolWord ((a - 0x5000) / 0x20) (a % 0x20)
  else if 0x6000 ≤ a ∧ a < 0x7000 then s.msixWord ((a - 0x6000) / 4)
  else if 0x7000 ≤ a ∧ a < 0x7020 then
    ((List.range 32).map (fun k => flag (s.host.msixPend.contains (8 * (a - 0x7000) + k)) k)).sum
  else if 0x8000 ≤ a ∧ a < 0x8800 then (if a % 8 = 0 then (s.sq ((a - 0x8000) / 8)).tail else (s.cq ((a - 0x8000) / 8)).head)
  else 0

/-- A read of BAR0: 32 bits aligned; any other returns 0 (R257). EVENT_DROPS is cleared by its read (Table 9.3). -/
def State.barRead (s : State) (addr size : Nat) : Nat × State :=
  if size != 4 || addr % 4 != 0 then (0, s)
  else (s.barWord addr, if addr = 0x10 then s.updHost (fun h => { h with drops := 0 }) else s)

end Sys2Proof.Machine
end

