-- ==== Sys2Proof/Machine/Request.lean ====
section
/-! DEFINITION. The descriptor rows, fetch, the end of transactions at the ROOT, and the frames that reach them: DATA, BULK, PROBE
(09 R261–R274, 08 R250, 03 R100, 06 R174, 16 R413). -/

namespace Sys2Proof.Machine

/-! ### One descriptor (09 Table 9.9) -/

def execParamRead (h : Hdr) (addr count : Nat) (s : State) : Out := runDesc h (.paramRead addr count) s
def execParamWrite (h : Hdr) (addr : Nat) (data : List Nat) (s : State) : Out := runDesc h (.paramWrite addr data) s
def execParamWriteVerify (h : Hdr) (addr : Nat) (data : List Nat) (s : State) : Out := runDesc h (.paramWriteVerify addr data) s
def execQuery (h : Hdr) (prog : Prog) (s : State) : Out := runDesc h (.query prog 0) s
def execExpose (h : Hdr) (plan : Plan) (s : State) : Out := runDesc h (.expose plan) s
def execSurveyRun (h : Hdr) (t0 tag source : Nat) (ripple : Bool) (s : State) : Out :=
  runDesc h (.surveyRun t0 tag source ripple h.pos h.depth) s
def execSweepTrigger (h : Hdr) (t sweep : Nat) (now : Bool) (s : State) : Out := runDesc h (.sweepTrigger t sweep now) s
def execTopologyRead (h : Hdr) (first number : Nat) (s : State) : Out := runDesc h (.topologyRead first number) s
def execRenumber (h : Hdr) (funcs : List (Nat × Option (Nat × Nat))) (s : State) : Out := runDesc h (.renumber funcs) s
def execPathTest (h : Hdr) (cls times length : Nat) (s : State) : Out := runDesc h (.pathTest cls times length) s
def execSafetySessionOpen (h : Hdr) (passcode : Nat) (s : State) : Out := runDesc h (.sessionOpen passcode) s
def execSafetySessionClose (h : Hdr) (session : Nat) (s : State) : Out := runDesc h (.sessionClose session) s
def execSetPasscode (h : Hdr) (session passcode newPasscode : Nat) (s : State) : Out :=
  runDesc h (.setPasscode session passcode newPasscode) s
def execSafetyWrite (h : Hdr) (session address value old : Nat) (s : State) : Out :=
  runDesc h (.safetyWrite session address value old) s
def execFlashLoad (h : Hdr) (offset : Nat) (piece : List Byte) (s : State) : Out := runDesc h (.flashLoad offset piece.length piece (crc32c piece)) s
def execFlashCommit (h : Hdr) (length crc : Nat) (s : State) : Out := runDesc h (.flashCommit length crc) s
def execLogRead (h : Hdr) (log first number : Nat) (s : State) : Out := runDesc h (.logRead log first number) s
def execCheckRun (h : Hdr) (unit area poly offset length expect : Nat) (bytes : List Byte) (err : ReadErr) (s : State) : Out :=
  runDesc h (.checkRun unit area poly offset length expect bytes err) s
def execWireSearch (h : Hdr) (bus : WireBus) (s : State) : Out := runDesc h (.wireSearch bus) s
def execWireReadIds (h : Hdr) (s : State) : Out := runDesc h .wireReadIds s
def execWireConvert (h : Hdr) (bus : WireBus) (s : State) : Out := runDesc h (.wireConvert bus) s
def execWireReadMem (h : Hdr) (accessory offset length : Nat) (bus : WireBus) (s : State) : Out :=
  runDesc h (.wireReadMem accessory offset length bus) s
def execWireWriteMem (h : Hdr) (accessory offset : Nat) (data : List Byte) (bus : WireBus) (s : State) : Out :=
  runDesc h (.wireWriteMem accessory offset data bus) s
def execNop (h : Hdr) (s : State) : Out := runDesc h .nop s

/-! ### Fetch (R261, R264) -/

/-- The host address of the next descriptor of ring r. -/
def State.descAddr (s : State) (r : Nat) : Nat := (s.sq r).baseLo + (s.sq r).baseHi * 2 ^ 32 + 64 * (s.sq r).head

/-- The comparator of TYPE 1 that the next descriptor of ring r hits, once (16 R426). -/
def State.descHit (s : State) (r : Nat) : Option Nat :=
  if s.dbg.passDesc = some (s.descAddr r) then none else s.breakAt 1 (s.descAddr r) false

/-- Ring r has a descriptor to fetch: it and its CQ are RUNNING, it holds descriptors, and neither its limit nor the table's stops
it. -/
def State.ringHas (s : State) (r : Nat) : Bool :=
  let q := s.sq r
  q.state = .running && (s.cq q.cq).state = .running && q.head != q.tail && decide (s.inflight r < q.limit)
    && decide (s.host.txs.length < if r = 0 then 4096 else 4032)

/-- Ring r is served in a round: no comparator halts the device before its next descriptor. -/
def State.ringServes (s : State) (r : Nat) : Bool := s.ringHas r && (s.descHit r).isNone

/-- A descriptor of ring r has not completed: its transaction is in the table, or its entry waits for room. -/
def State.ringBusy (s : State) (r : Nat) : Bool :=
  decide (0 < s.inflight r) || s.host.cplWait.any (fun w => w.ring = r && !w.isEvent)

/-- A BARRIER descriptor of ring r has not completed. -/
def State.barred (s : State) (r : Nat) : Bool :=
  s.host.txs.any (fun t => t.hdr.ring = r && t.copyOf.isNone && bit t.hdr.flags 1)
    || s.host.cplWait.any (fun w => w.ring = r && !w.isEvent && w.barrier)

/-- The 64 bytes at HEAD of ring r. -/
def State.nextDesc (s : State) (mem : List (Nat × Byte)) (r : Nat) : List Byte :=
  hostBytes mem (s.descAddr r) 64

/-- The descriptor at HEAD of ring r is held back by a BARRIER, its own or one before it. -/
def State.descBarred (s : State) (mem : List (Nat × Byte)) (r : Nat) : Bool :=
  s.barred r || (bit (at_ (s.nextDesc mem r) 1 1) 1 && s.ringBusy r)

/-- One descriptor of ring r, where the ring is served and no BARRIER holds it. -/
def State.fetchOne (mem : List (Nat × Byte)) (w : FetchWorld) (r : Nat) (s : State) : State :=
  let bs := s.nextDesc mem r
  if !s.ringServes r || s.descBarred mem r then s
  else
    let s := if s.dbg.passDesc = some (s.descAddr r) then { s with dbg := { s.dbg with passDesc := none } } else s
    let s := s.updSq r (fun q => { q with head := (q.head + 1) % 2 ^ q.log2 })
    match parseDesc mem w r bs with
    | none => (if s.restricted then s else s.contacted).completeEarly (hdrAt r bs) stBadDescriptor
    | some (h, q) => s.submit h q

/-- Descriptors of the next burst of ring r, of `left` still due to it: at most 8, at most what one read request brings, none
beyond the end of the ring, the tail or what may be in flight. -/
def State.burst (s : State) (r left : Nat) : Nat :=
  let q := s.sq r
  let n := 2 ^ q.log2
  [min 8 (s.host.mrrs / 64), (q.tail % n + n - q.head) % n, n - q.head, q.limit - s.inflight r,
    (if r = 0 then 4096 else 4032) - s.host.txs.length].foldl min left

/-- Where a comparator keeps the next descriptor of ring r from being fetched, the device halts before it; a halt that is held lets it be
fetched (16 R426). -/
def State.descStop (mem : List (Nat × Byte)) (w : FetchWorld) (r : Nat) (s : State) : State :=
  match (if s.ringHas r && !s.descBarred mem r then s.descHit r else none) with
  | none => s
  | some k =>
    let a := s.descAddr r
    let t := s.breakHit k
    let t := { t with dbg := { t.dbg with passDesc := some a } }
    if t.mode.mode = .halted then t else State.fetchOne mem w r t

/-- The bursts of ring r, each one read request of host memory. A descriptor that a BARRIER holds back is not taken, and a later
round reads it again (DESIGN CHOICE, notes/assumptions/90.md). -/
def State.fetchRing (mem : List (Nat × Byte)) (w : FetchWorld) (r : Nat) : Nat → Nat → State → State
  | 0, _, s => s
  | fuel + 1, left, s =>
    let q := s.sq r
    let k := s.burst r left
    if k = 0 then s
    else if !s.ringServes r || s.barred r then State.descStop mem w r s
    else
      let t := iter (State.fetchOne mem w r) k (s.emit (.hostRead (q.baseLo + q.baseHi * 2 ^ 32 + 64 * q.head) (64 * k)))
      if (t.sq r).head = (q.head + k) % 2 ^ q.log2 then State.fetchRing mem w r fuel (left - k) t
      else State.descStop mem w r t

/-- One round: the rings in increasing number, up to WEIGHT descriptors each. -/
def State.fetchRound (mem : List (Nat × Byte)) (w : FetchWorld) (s : State) : State :=
  (List.range 256).foldl (fun s r =>
    if s.mode.mode != .halted && s.ringHas r then State.fetchRing mem w r (s.sq r).weight (s.sq r).weight s else s) s

/-- The ring engine starts transactions: ENABLE is 1, the function is in D0, and the sequencer, whose task it is
(11 Table 11.3), runs. -/
def State.fetches (s : State) : Bool := s.barOpen && s.host.enable && !s.host.d3hot && s.coreRuns && s.mode.mode != .halted

def execDescriptorFetch (mem : List (Nat × Byte)) (w : FetchWorld) (s : State) : Out :=
  runS (when_ s.fetches (fun s => (s.fetchRound mem w).drainAll mem)) s

/-! ### The end of a transaction (R270, R274; 03 R100; 06 R174) -/

/-- A survey with the answer of every device and the block of every accepting one ends. -/
def State.surveyEnd (s : State) (t : Tx) : State :=
  if t.survey.all (fun d => d.2 = 2 || d.2 = 3) then s.finishBlocks t (if t.count [2] = 0 then stOk else stPartial) else s

/-- An exposure whose harvest has closed and whose armed devices have all sent their segments or are missing ends: TIMEOUT where
none triggered and none was lost, PARTIAL with its map where any is missing (R174, R176). -/
def State.exposeEnd (s : State) (t : Tx) : State :=
  if t.count [1] != 0 || s.glean.harvests.any (fun h => h.tag = t.tag) then s
  else s.finishBlocks t (if t.count [3] = 0 && t.count [5] = 0 then stTimeout else if t.absent.isEmpty then stOk else stPartial)

def State.endBlocks (s : State) (t : Tx) : State :=
  if t.done || t.survey.isEmpty then s
  else match t.req with
    | .surveyRun _ _ _ _ _ _ => s.surveyEnd t
    | .expose _ => s.exposeEnd t
    | _ => s

/-- The results that are ready at the ROOT go: the transaction's, and what waited for pools and rings. -/
def execTransactionComplete (tid : Nat) (mem : List (Nat × Byte)) (s : State) : Out :=
  runCore (when_ s.hasHost (fun s => (match s.tx tid with
    | some t => s.endBlocks t
    | none => s).drainAll mem)) s

/-- `timeout` ms have passed since the ROOT started the transaction, which has not ended. -/
def State.timedOut (s : State) (t : Tx) : Bool :=
  t.hdr.timeout != 0 && !t.done && decide (t.hdr.timeout * ttMs ≤ s.since t.start)

/-- What the ROOT holds for a transaction besides its entry goes: its harvest, its second copies, a walk's claim. -/
def State.forgetTx (s : State) (t : Tx) : State :=
  { s with
    glean := { s.glean with harvests := s.glean.harvests.filter (fun (h : Harvest) => !(h.tag = t.tag && h.up.isNone)) }
    host := (s.dropCopies t.tag).host
    tree := { s.tree with walk := { s.tree.walk with tid := if s.tree.walk.tid = some t.id then none else s.tree.walk.tid } } }

def State.expireTx (s : State) (t : Tx) : State :=
  (((s.forgetTx t).updTx t.id (fun t => { t with forced := none })).postFinal t.id [] stTimeout 0 0 0 false).settleWaits none

def execTransactionTimeout (tid : Nat) (s : State) : Out :=
  runCore (fun s => match s.tx tid with
    | some t => if s.timedOut t then s.expireTx t else s
    | none => s) s

/-- T0 + T_RESP with no acceptance: the status of R266; T_end + T_RESP: PARTIAL with the missing devices (03 R100). -/
def State.surveyDeadline (s : State) (t : Tx) (t0 : Nat) : State :=
  let wait := t.tResp * ttMs
  if t.done then s
  else if t.count [1, 3] = 0 then
    (if t0 + wait ≤ s.now then s.finishBlocks t (scopeStatus (t.survey.map Prod.fst) t.acc) else s)
  else if t.acc.value + wait ≤ s.now then s.finishBlocks t (if t.absent.isEmpty then stOk else stPartial)
  else s

def execSurveyResponseDeadline (tid : Nat) (s : State) : Out :=
  runCore (fun s => match s.tx tid with
    | some t => (match t.req with
      | .surveyRun t0 _ _ _ _ _ => s.surveyDeadline t t0
      | _ => s)
    | none => s) s

/-! ### PATH_TEST (R267) -/

/-- The transaction is a PATH_TEST that goes on. -/
def Tx.probing (t : Tx) : Bool := !t.done && (match t.req with
  | .pathTest _ _ _ => true
  | _ => false)

/-- A round trip that T_RESP leaves unanswered is lost. -/
def State.probeLost (s : State) (t : Tx) : State :=
  if t.probing && decide (t.probeAt + t.tResp * ttMs * 65536 ≤ s.stamp) then
    (s.updTx t.id (fun t => { t with probeLost := t.probeLost + 1, probeN := t.probeN + 1 })).nextProbe t.id
  else s

def execProbeRoundTripLost (tid : Nat) (s : State) : Out :=
  runCoreL (fun s => match s.tx tid with
    | some t => s.probeLost t
    | none => s) s

/-- A PROBE that matches is answered at once: SRC and DEST exchanged, a new check value. A KG1200 answers none. -/
def probeReply (f : Frame) : Frame := protect { f with dest := f.src, src := f.dest, payload := [] } (bodyOf f)

def execProbeReceive (a : Arrival) (f : Frame) (s : State) : Out :=
  runL (fun s => s.onFrame a f (fun s => s.ifChecked a f (when_ (!s.legacyPos f.dest) (fun s => s.sendTo (probeReply f))))) s

/-- The answer to the round trip in progress gives its time. -/
def State.probeBack (s : State) (t : Tx) (f : Frame) : State :=
  if t.probing && f.src = t.hdr.pos && at_ f.payload 0 2 = t.probeN then
    let d := s.stamp - t.probeAt
    (s.updTx t.id (fun t => { t with
      probeN := t.probeN + 1, probeMin := some (min d (t.probeMin.getD d)), probeMax := max d t.probeMax })).nextProbe t.id
  else s

def execProbeAnswerReceive (a : Arrival) (f : Frame) (s : State) : Out :=
  runL (fun s => s.onFrame a f (fun s => s.ifChecked a f (fun s => match s.txOfTag f.tag with
    | some t => s.probeBack t f
    | none => s))) s

/-! ### DATA and BULK frames (07 Table 7.4) -/

/-- A contribution in a DATA frame: for the harvest that waits for it, or for the ROOT, or on its way. -/
def State.partIn (s : State) (a : Arrival) (f : Frame) (c : Contribution) : State :=
  let (ok, s) := s.hop a f
  if !ok then s
  else
    let s := s.touchWalk a f
    if s.answerHere f then
      s.deliver a f (fun s => (s.restartTimer f.tag a).answerIn a f c)
    else s.forward a f

/-- A frame of a FLASH_LOAD piece that this device acts on: its page is programmed as it arrives. While the erase runs it waits in
its buffer and keeps its credits (16 R413). -/
def State.pieceHere (s : State) (a : Arrival) (f : Frame) (bs : List Byte) (last : Bool) : State :=
  let c := s.flash.commit
  match c.rx.find? (fun r => r.tag = some f.tag) with
  | none => s.consume a f
  | some r =>
    let r := { r with got := r.got ++ bs }
    let s := match (if c.isOpen && (c.state = 1 || !s.flash.erases.isEmpty) && !creditFree f then arrPort a else none) with
      | some p => s.updCommit (fun c => { c with owing := c.owing ++ [(p, f.cls, unitsOf f)] })
      | none => s.consume a f
    let s := s.updCommit (fun c => { c with rx := c.rx.map (fun q => if q.tag = r.tag then r else q) })
    if c.isOpen && c.state = 2 then s.loadPiece r last else s

def State.pieceIn (s : State) (a : Arrival) (f : Frame) (bs : List Byte) (last : Bool) : State :=
  let (ok, s) := s.hop a f
  if !ok then s
  else
    let s := s.touchWalk a f
    if s.actsOn a f then
      let s := (s.spread a f).2
      if frameListed f then s.pieceHere a f bs last else s.countCondemned a
    else s.forward a f

/-- The length of a segment by its header (06 Table 6.8). -/
def segmentLength (bs : List Byte) : Nat := 64 + at_ bs 0x24 4 + 4

/-- What a DATA or BULK frame does, by its content; a segment or block is written as its frames arrive (R272). -/
def State.dataIn (s : State) (a : Arrival) (f : Frame) (b : DataBody) : State :=
  match b with
  | .contribution c => s.partIn a f c
  | .heldRecord bs => s.onFrame a f (when_ s.isRoot (fun s => s.acceptHeld f.src bs))
  | .segment mem => s.onFrame a f (fun s => s.streamIn mem f.tag f.src (segmentLength f.payload) (segmentMark f.payload) f.payload)
  | .block n mem => s.onFrame a f (fun s => s.streamIn mem f.tag f.src n 3 f.payload)
  | .piece _ bs last => s.pieceIn a f bs last

def execDataFrameReceive (a : Arrival) (f : Frame) (body : DataBody) (s : State) : Out := runL (fun s => s.dataIn a f body) s

end Sys2Proof.Machine
end

