-- ==== Sys2Proof/Machine/Dispatch.lean ====
section
/-! DEFINITION. One arm per command: the direct call of its meaning. -/

namespace Sys2Proof.Machine

def exec (i : Instr) (s : State) : Host.Outcome State Fault Refusal :=
  match i with
  | .descriptorFetch mem w => Sys2Proof.Machine.execDescriptorFetch mem w s
  | .paramRead h addr count => Sys2Proof.Machine.execParamRead h addr count s
  | .paramWrite h addr data => Sys2Proof.Machine.execParamWrite h addr data s
  | .paramWriteVerify h addr data => Sys2Proof.Machine.execParamWriteVerify h addr data s
  | .query h prog => Sys2Proof.Machine.execQuery h prog s
  | .expose h plan => Sys2Proof.Machine.execExpose h plan s
  | .surveyRun h t0 tag source ripple => Sys2Proof.Machine.execSurveyRun h t0 tag source ripple s
  | .sweepTrigger h t sweep now => Sys2Proof.Machine.execSweepTrigger h t sweep now s
  | .topologyRead h first number => Sys2Proof.Machine.execTopologyRead h first number s
  | .renumber h funcs => Sys2Proof.Machine.execRenumber h funcs s
  | .pathTest h cls times length => Sys2Proof.Machine.execPathTest h cls times length s
  | .safetySessionOpen h passcode => Sys2Proof.Machine.execSafetySessionOpen h passcode s
  | .safetySessionClose h session => Sys2Proof.Machine.execSafetySessionClose h session s
  | .setPasscode h session passcode newPasscode => Sys2Proof.Machine.execSetPasscode h session passcode newPasscode s
  | .safetyWrite h session address value old => Sys2Proof.Machine.execSafetyWrite h session address value old s
  | .flashLoad h offset piece => Sys2Proof.Machine.execFlashLoad h offset piece s
  | .flashCommit h length crc => Sys2Proof.Machine.execFlashCommit h length crc s
  | .logRead h log first number => Sys2Proof.Machine.execLogRead h log first number s
  | .checkRun h unit area poly offset length expect bytes err => Sys2Proof.Machine.execCheckRun h unit area poly offset length expect bytes err s
  | .wireSearch h bus => Sys2Proof.Machine.execWireSearch h bus s
  | .wireReadIds h => Sys2Proof.Machine.execWireReadIds h s
  | .wireConvert h bus => Sys2Proof.Machine.execWireConvert h bus s
  | .wireReadMem h accessory offset length bus => Sys2Proof.Machine.execWireReadMem h accessory offset length bus s
  | .wireWriteMem h accessory offset data bus => Sys2Proof.Machine.execWireWriteMem h accessory offset data bus s
  | .nop h => Sys2Proof.Machine.execNop h s
  | .transactionComplete tid mem => Sys2Proof.Machine.execTransactionComplete tid mem s
  | .transactionTimeout tid => Sys2Proof.Machine.execTransactionTimeout tid s
  | .interruptCoalesceTimeout c => Sys2Proof.Machine.execInterruptCoalesceTimeout c s
  | .msixVectorUnmask v => Sys2Proof.Machine.execMsixVectorUnmask v s
  | .sqTailDoorbell r tail => Sys2Proof.Machine.execSqTailDoorbell r tail s
  | .cqHeadDoorbell r head mem => Sys2Proof.Machine.execCqHeadDoorbell r head mem s
  | .sqStart r cq weight => Sys2Proof.Machine.execSqStart r cq weight s
  | .sqStop r => Sys2Proof.Machine.execSqStop r s
  | .cqStart c vector irqEn => Sys2Proof.Machine.execCqStart c vector irqEn s
  | .cqStop c => Sys2Proof.Machine.execCqStop c s
  | .poolEnable p listLog2 bufLog2 => Sys2Proof.Machine.execPoolEnable p listLog2 bufLog2 s
  | .poolDisable p => Sys2Proof.Machine.execPoolDisable p s
  | .poolTailWrite p tail mem => Sys2Proof.Machine.execPoolTailWrite p tail mem s
  | .bar0RegisterWrite addr size value => Sys2Proof.Machine.execBar0RegisterWrite addr size value s
  | .hostReset key => Sys2Proof.Machine.execHostReset key s
  | .linkRetrain speed width gotSpeed gotWidth => Sys2Proof.Machine.execLinkRetrain speed width gotSpeed gotWidth s
  | .perstNAssert => Sys2Proof.Machine.execPerstNAssert s
  | .perstNDeassert refclk gotSpeed gotWidth => Sys2Proof.Machine.execPerstNDeassert refclk gotSpeed gotWidth s
  | .functionLevelReset => Sys2Proof.Machine.execFunctionLevelReset s
  | .hostWdStart => Sys2Proof.Machine.execHostWdStart s
  | .hostWdKey key => Sys2Proof.Machine.execHostWdKey key s
  | .hostRollCheckin task => Sys2Proof.Machine.execHostRollCheckin task s
  | .hostWdServeSampled => Sys2Proof.Machine.execHostWdServeSampled s
  | .hostWdExpired => Sys2Proof.Machine.execHostWdExpired s
  | .commandFrameReceive a f req => Sys2Proof.Machine.execCommandFrameReceive a f req s
  | .responseFrameReceive a f c => Sys2Proof.Machine.execResponseFrameReceive a f c s
  | .strobeReceive a f => Sys2Proof.Machine.execStrobeReceive a f s
  | .tripFrameReceive a f => Sys2Proof.Machine.execTripFrameReceive a f s
  | .safetyFrameReceive a f => Sys2Proof.Machine.execSafetyFrameReceive a f s
  | .pendingFrameReceive a f => Sys2Proof.Machine.execPendingFrameReceive a f s
  | .dataFrameReceive a f body => Sys2Proof.Machine.execDataFrameReceive a f body s
  | .currentPublicationReceive a f => Sys2Proof.Machine.execCurrentPublicationReceive a f s
  | .creditFrameReceive a f => Sys2Proof.Machine.execCreditFrameReceive a f s
  | .timeSyncReceive a f t2 => Sys2Proof.Machine.execTimeSyncReceive a f t2 s
  | .timeEchoReceive a f t4 => Sys2Proof.Machine.execTimeEchoReceive a f t4 s
  | .trainFrameReceive p crier f => Sys2Proof.Machine.execTrainFrameReceive p crier f s
  | .shortFrameReceive p b0 b1 b2 => Sys2Proof.Machine.execShortFrameReceive p b0 b1 b2 s
  | .condemnedFrame p byte0 header => Sys2Proof.Machine.execCondemnedFrame p byte0 header s
  | .abortedFrameReceive p crier => Sys2Proof.Machine.execAbortedFrameReceive p crier s
  | .discoverWalk a f => Sys2Proof.Machine.execDiscoverWalk a f s
  | .discoverReturn a f => Sys2Proof.Machine.execDiscoverReturn a f s
  | .discoverDup a f => Sys2Proof.Machine.execDiscoverDup a f s
  | .discoverReport a f => Sys2Proof.Machine.execDiscoverReport a f s
  | .discoverAssign a f => Sys2Proof.Machine.execDiscoverAssign a f s
  | .discoverLost a f => Sys2Proof.Machine.execDiscoverLost a f s
  | .discoverCut a f => Sys2Proof.Machine.execDiscoverCut a f s
  | .discoverRoute a f => Sys2Proof.Machine.execDiscoverRoute a f s
  | .discoverMark a f => Sys2Proof.Machine.execDiscoverMark a f s
  | .discoverAttach a f => Sys2Proof.Machine.execDiscoverAttach a f s
  | .faultFrameReceive a f => Sys2Proof.Machine.execFaultFrameReceive a f s
  | .probeReceive a f => Sys2Proof.Machine.execProbeReceive a f s
  | .probeAnswerReceive a f => Sys2Proof.Machine.execProbeAnswerReceive a f s
  | .crierMessageComplete p stamp => Sys2Proof.Machine.execCrierMessageComplete p stamp s
  | .wakeToneDetect p safety => Sys2Proof.Machine.execWakeToneDetect p safety s
  | .legacyReply addr cmd data crc => Sys2Proof.Machine.execLegacyReply addr cmd data crc s
  | .legacyReplyTimeout => Sys2Proof.Machine.execLegacyReplyTimeout s
  | .symbolsDetected p => Sys2Proof.Machine.execSymbolsDetected p s
  | .trainingRateTimeout p => Sys2Proof.Machine.execTrainingRateTimeout p s
  | .signalLoss p => Sys2Proof.Machine.execSignalLoss p s
  | .retransmitTimeout p safety => Sys2Proof.Machine.execRetransmitTimeout p safety s
  | .shortFrameIdle p => Sys2Proof.Machine.execShortFrameIdle p s
  | .portStart p retryMax => Sys2Proof.Machine.execPortStart p retryMax s
  | .portStop p => Sys2Proof.Machine.execPortStop p s
  | .portStopped p => Sys2Proof.Machine.execPortStopped p s
  | .walkStart => Sys2Proof.Machine.execWalkStart s
  | .walkPortSilence => Sys2Proof.Machine.execWalkPortSilence s
  | .walkTrainingWaitEnd => Sys2Proof.Machine.execWalkTrainingWaitEnd s
  | .walkPendingTimer => Sys2Proof.Machine.execWalkPendingTimer s
  | .heldFramesTimeout p => Sys2Proof.Machine.execHeldFramesTimeout p s
  | .takeover => Sys2Proof.Machine.execTakeover s
  | .timeSyncSend => Sys2Proof.Machine.execTimeSyncSend s
  | .holdoverTimeout => Sys2Proof.Machine.execHoldoverTimeout s
  | .periodicStrobeSend => Sys2Proof.Machine.execPeriodicStrobeSend s
  | .wakeToneSend => Sys2Proof.Machine.execWakeToneSend s
  | .apertureOpen => Sys2Proof.Machine.execApertureOpen s
  | .tbiasDriveStart => Sys2Proof.Machine.execTbiasDriveStart s
  | .blankingStart => Sys2Proof.Machine.execBlankingStart s
  | .blankingEnd => Sys2Proof.Machine.execBlankingEnd s
  | .tierCodesAvailable raw => Sys2Proof.Machine.execTierCodesAvailable raw s
  | .auxCodesReady volts tbias => Sys2Proof.Machine.execAuxCodesReady volts tbias s
  | .tierChannelFrameReceive channel crcOk load => Sys2Proof.Machine.execTierChannelFrameReceive channel crcOk load s
  | .sweepRecordComplete temps frac witness => Sys2Proof.Machine.execSweepRecordComplete temps frac witness s
  | .sweepStart source => Sys2Proof.Machine.execSweepStart source s
  | .sweepStop => Sys2Proof.Machine.execSweepStop s
  | .sweepStopped => Sys2Proof.Machine.execSweepStopped s
  | .snapshotRewrite => Sys2Proof.Machine.execSnapshotRewrite s
  | .surveyStart tag setBaseline => Sys2Proof.Machine.execSurveyStart tag setBaseline s
  | .surveyStop => Sys2Proof.Machine.execSurveyStop s
  | .surveyStopped => Sys2Proof.Machine.execSurveyStopped s
  | .surveyRunStart => Sys2Proof.Machine.execSurveyRunStart s
  | .excitationToggle => Sys2Proof.Machine.execExcitationToggle s
  | .lockinComplete => Sys2Proof.Machine.execLockinComplete s
  | .surveyRunEnd => Sys2Proof.Machine.execSurveyRunEnd s
  | .baseSave => Sys2Proof.Machine.execBaseSave s
  | .baseDataRead => Sys2Proof.Machine.execBaseDataRead s
  | .baseDataWrite v => Sys2Proof.Machine.execBaseDataWrite v s
  | .balanceStart cont => Sys2Proof.Machine.execBalanceStart cont s
  | .balanceStop => Sys2Proof.Machine.execBalanceStop s
  | .balanceStopped => Sys2Proof.Machine.execBalanceStopped s
  | .governorSlot => Sys2Proof.Machine.execGovernorSlot s
  | .balanceTimerExpire cell => Sys2Proof.Machine.execBalanceTimerExpire cell s
  | .proofRound r => Sys2Proof.Machine.execProofRound r s
  | .witnessCrossCheck tier ppb => Sys2Proof.Machine.execWitnessCrossCheck tier ppb s
  | .switchOnTestStep cell => Sys2Proof.Machine.execSwitchOnTestStep cell s
  | .switchOnTestEnd cell currentUa vswUv => Sys2Proof.Machine.execSwitchOnTestEnd cell currentUa vswUv s
  | .openWireTestStep k => Sys2Proof.Machine.execOpenWireTestStep k s
  | .openWireTestEnd k fallUv riseBelowUv riseAboveUv => Sys2Proof.Machine.execOpenWireTestEnd k fallUv riseBelowUv riseAboveUv s
  | .harnessCell k below own above bbar => Sys2Proof.Machine.execHarnessCell k below own above bbar s
  | .harnessPassComplete => Sys2Proof.Machine.execHarnessPassComplete s
  | .testOverdue check => Sys2Proof.Machine.execTestOverdue check s
  | .harnessNow => Sys2Proof.Machine.execHarnessNow s
  | .switchNow => Sys2Proof.Machine.execSwitchNow s
  | .tableDataRead => Sys2Proof.Machine.execTableDataRead s
  | .tableDataWrite v => Sys2Proof.Machine.execTableDataWrite v s
  | .lamplighterRound samples aux again => Sys2Proof.Machine.execLamplighterRound samples aux again s
  | .jobAdmission kind key => Sys2Proof.Machine.execJobAdmission kind key s
  | .glean g => Sys2Proof.Machine.execGlean g s
  | .jobFinish g badBank => Sys2Proof.Machine.execJobFinish g badBank s
  | .islandDisable island => Sys2Proof.Machine.execIslandDisable island s
  | .harvestContributorTimeout tid => Sys2Proof.Machine.execHarvestContributorTimeout tid s
  | .harvestPendingTimer tid => Sys2Proof.Machine.execHarvestPendingTimer tid s
  | .exposureThresholdTrip => Sys2Proof.Machine.execExposureThresholdTrip s
  | .exposureFreeze => Sys2Proof.Machine.execExposureFreeze s
  | .exposureArmDeadline => Sys2Proof.Machine.execExposureArmDeadline s
  | .heartbeatSend => Sys2Proof.Machine.execHeartbeatSend s
  | .unobservedTimeout => Sys2Proof.Machine.execUnobservedTimeout s
  | .heartbeatTimeout index => Sys2Proof.Machine.execHeartbeatTimeout index s
  | .autoArm x => Sys2Proof.Machine.execAutoArm x s
  | .siContactChange contact closed => Sys2Proof.Machine.execSiContactChange contact closed s
  | .discrepancyTimeout x => Sys2Proof.Machine.execDiscrepancyTimeout x s
  | .outputTestPulse x => Sys2Proof.Machine.execOutputTestPulse x s
  | .outputTestPulseEnd x reached => Sys2Proof.Machine.execOutputTestPulseEnd x reached s
  | .stuckNodeDetect sw => Sys2Proof.Machine.execStuckNodeDetect sw s
  | .sessionIdleTimeout => Sys2Proof.Machine.execSessionIdleTimeout s
  | .authenticationLockEnd => Sys2Proof.Machine.execAuthenticationLockEnd s
  | .degradedAllowanceExpire => Sys2Proof.Machine.execDegradedAllowanceExpire s
  | .wdogStart => Sys2Proof.Machine.execWdogStart s
  | .wdogKey key => Sys2Proof.Machine.execWdogKey key s
  | .wdogCheckin task => Sys2Proof.Machine.execWdogCheckin task s
  | .wdogServeSampled => Sys2Proof.Machine.execWdogServeSampled s
  | .wdogExpire => Sys2Proof.Machine.execWdogExpire s
  | .eraseSuspensionEnd => Sys2Proof.Machine.execEraseSuspensionEnd s
  | .clockMonitorWindow bit count => Sys2Proof.Machine.execClockMonitorWindow bit count s
  | .faultCollect => Sys2Proof.Machine.execFaultCollect s
  | .graceExpire => Sys2Proof.Machine.execGraceExpire s
  | .faultAck id => Sys2Proof.Machine.execFaultAck id s
  | .checkStart k => Sys2Proof.Machine.execCheckStart k s
  | .checkStop k => Sys2Proof.Machine.execCheckStop k s
  | .checkData8 k v => Sys2Proof.Machine.execCheckData8 k v s
  | .checkData16 k v => Sys2Proof.Machine.execCheckData16 k v s
  | .checkData32 k v => Sys2Proof.Machine.execCheckData32 k v s
  | .checkClose k => Sys2Proof.Machine.execCheckClose k s
  | .checkOutcome k => Sys2Proof.Machine.execCheckOutcome k s
  | .pinReset lowNs takes => Sys2Proof.Machine.execPinReset lowNs takes s
  | .bistStart w => Sys2Proof.Machine.execBistStart w s
  | .bistStepTimeout => Sys2Proof.Machine.execBistStepTimeout s
  | .bistEnd => Sys2Proof.Machine.execBistEnd s
  | .vpwrFail => Sys2Proof.Machine.execVpwrFail s
  | .keepHandover vpwrMv vresMv => Sys2Proof.Machine.execKeepHandover vpwrMv vresMv s
  | .vpwrBelowPg => Sys2Proof.Machine.execVpwrBelowPg s
  | .vpwrGood => Sys2Proof.Machine.execVpwrGood s
  | .keepPowerOnReset => Sys2Proof.Machine.execKeepPowerOnReset s
  | .vauxLoss => Sys2Proof.Machine.execVauxLoss s
  | .supplyOutOfLimits item => Sys2Proof.Machine.execSupplyOutOfLimits item s
  | .tierPoweredAfterRelease tier => Sys2Proof.Machine.execTierPoweredAfterRelease tier s
  | .chargerSoftStart vresMv => Sys2Proof.Machine.execChargerSoftStart vresMv s
  | .prechargeShortCheck vresMv => Sys2Proof.Machine.execPrechargeShortCheck vresMv s
  | .prechargeTimeout vresMv => Sys2Proof.Machine.execPrechargeTimeout vresMv s
  | .cvReached => Sys2Proof.Machine.execCvReached s
  | .chargeTermination => Sys2Proof.Machine.execChargeTermination s
  | .detectionPulseEnd fallMv => Sys2Proof.Machine.execDetectionPulseEnd fallMv s
  | .periodicDetection => Sys2Proof.Machine.execPeriodicDetection s
  | .recharge vresMv => Sys2Proof.Machine.execRecharge vresMv s
  | .fastChargeTimeout => Sys2Proof.Machine.execFastChargeTimeout s
  | .restsWindowChange temp => Sys2Proof.Machine.execRestsWindowChange temp s
  | .missingRetry vresMv => Sys2Proof.Machine.execMissingRetry vresMv s
  | .shareOver => Sys2Proof.Machine.execShareOver s
  | .shareRetry => Sys2Proof.Machine.execShareRetry s
  | .shareCharge => Sys2Proof.Machine.execShareCharge s
  | .chgDefaults => Sys2Proof.Machine.execChgDefaults s
  | .shipRequest key => Sys2Proof.Machine.execShipRequest key s
  | .shipWake byWake => Sys2Proof.Machine.execShipWake byWake s
  | .longPress => Sys2Proof.Machine.execLongPress s
  | .longPressEnd => Sys2Proof.Machine.execLongPressEnd s
  | .modeResetRequest key => Sys2Proof.Machine.execModeResetRequest key s
  | .resumeRequest key => Sys2Proof.Machine.execResumeRequest key s
  | .runToQuiet => Sys2Proof.Machine.execRunToQuiet s
  | .dormantEntry => Sys2Proof.Machine.execDormantEntry s
  | .dormantWake link port => Sys2Proof.Machine.execDormantWake link port s
  | .debugHalt => Sys2Proof.Machine.execDebugHalt s
  | .debugResume => Sys2Proof.Machine.execDebugResume s
  | .debugStep badBank => Sys2Proof.Machine.execDebugStep badBank s
  | .debugReset => Sys2Proof.Machine.execDebugReset s
  | .breakpointHit k what write => Sys2Proof.Machine.execBreakpointHit k what write s
  | .commitEraseDone => Sys2Proof.Machine.execCommitEraseDone s
  | .commitVerifyDone => Sys2Proof.Machine.execCommitVerifyDone s
  | .commitRecordDone => Sys2Proof.Machine.execCommitRecordDone s
  | .loadIdleTimeout => Sys2Proof.Machine.execLoadIdleTimeout s
  | .flashAbandon => Sys2Proof.Machine.execFlashAbandon s
  | .configSave => Sys2Proof.Machine.execConfigSave s
  | .commitLoaded => Sys2Proof.Machine.execCommitLoaded s
  | .configDataRead => Sys2Proof.Machine.execConfigDataRead s
  | .configDataWrite v => Sys2Proof.Machine.execConfigDataWrite v s
  | .ledgerEntryProgrammed => Sys2Proof.Machine.execLedgerEntryProgrammed s
  | .wireStart spuEn fixedSeed maxRounds => Sys2Proof.Machine.execWireStart spuEn fixedSeed maxRounds s
  | .wireStop => Sys2Proof.Machine.execWireStop s
  | .strongPullupEnd sagged => Sys2Proof.Machine.execStrongPullupEnd sagged s
  | .idDataRead => Sys2Proof.Machine.execIdDataRead s
  | .timeLoRead => Sys2Proof.Machine.execTimeLoRead s
  | .debugParamRead addr chk => Sys2Proof.Machine.execDebugParamRead addr chk s
  | .debugParamWrite addr value chk => Sys2Proof.Machine.execDebugParamWrite addr value chk s
  | .granaryRead addr chk => Sys2Proof.Machine.execGranaryRead addr chk s
  | .granaryWrite addr value chk => Sys2Proof.Machine.execGranaryWrite addr value chk s
  | .flashRead addr chk => Sys2Proof.Machine.execFlashRead addr chk s
  | .flashProgram addr value chk => Sys2Proof.Machine.execFlashProgram addr value chk s
  | .flashErase addr chk => Sys2Proof.Machine.execFlashErase addr chk s
  | .fuse data tail => Sys2Proof.Machine.execFuse data tail s
  | .idcode tail => Sys2Proof.Machine.execIdcode tail s
  | .longFrameTransit a f => Sys2Proof.Machine.execLongFrameTransit a f s
  | .streamOutput corner raw unsettled => Sys2Proof.Machine.execStreamOutput corner raw unsettled s
  | .surveyResponseDeadline tid => Sys2Proof.Machine.execSurveyResponseDeadline tid s
  | .probeRoundTripLost tid => Sys2Proof.Machine.execProbeRoundTripLost tid s
  | .commitPendingTimer => Sys2Proof.Machine.execCommitPendingTimer s
  | .parishEntryProgrammed => Sys2Proof.Machine.execParishEntryProgrammed s
  | .configurationRequest r => Sys2Proof.Machine.execConfigurationRequest r s
  | .preRegulatorStart vaux => Sys2Proof.Machine.execPreRegulatorStart vaux s
  | .supplyReturn item => Sys2Proof.Machine.execSupplyReturn item s
  | .prechargeLevelReached => Sys2Proof.Machine.execPrechargeLevelReached s
  | .continuousReadbackFail sw => Sys2Proof.Machine.execContinuousReadbackFail sw s

end Sys2Proof.Machine
end

