-- ==== Sys2Proof/Machine/Tick.lean ====
section
/-! DEFINITION. What one period of the crystal does when no command waits: the clocks, the balance timers, the grace timer
while WDOSC is marked failed, the end of a test pulse, the reset of a RESET request (00 R12, 04 R108, 08 R241, 10 R302,
11 R324, 14 R372, R382). -/

namespace Sys2Proof.Machine

/-- A trim takes up at most 200 ppm of a tick, 13 units of 2⁻¹⁶ tt (R241). -/
def trimStep (o : Int) : Int := clampI (-13) 13 o

/-- The clocks: local time, the RTC every 625 periods, and tree time from release on. -/
def ClkSt.tick (c : ClkSt) : ClkSt :=
  let c := { c with
    wall := c.wall + 1
    rtc := if c.rtcSub = 624 then c.rtc + 1 else c.rtc
    rtcSub := if c.rtcSub = 624 then 0 else c.rtcSub + 1 }
  if c.treeOn && c.xtalOn then
    let d := trimStep c.trim
    let t := ((c.tt * 65536 + c.frac + 65536 : Nat) + d).toNat
    { c with tt := t / 65536, frac := t % 65536, trim := c.trim - d }
  else c

/-- A modulator edge: the closed time of a closed switch counts down its remaining time (R108). -/
def CellSt.edge (c : CellSt) : CellSt := if c.closed then { c with remain := c.remain - 1 } else c

/-- The balance timers run: BALANCE is RUNNING and no survey suspends it (03 R85, 04 R117). -/
def State.timersRun (s : State) : Bool := s.bal.fn = .running && s.survey.fn = .stopped

/-- A request of some switch changes by itself at this edge: a timer has ended, a suspension ends, or a test step or BLEED
excitation drives switches in time. -/
def State.requestsMove (s : State) : Bool :=
  s.bleedOn || s.diag.steps.any TestStep.acts
    || (s.bal.fn = .running && (s.bal.resumeAt.isSome || s.cells.any (fun c => c.closed && c.remain = 0)))

/-- The modulator edges, every 4 tt: timers count, then every switch takes the state its requests give it. -/
def State.edges (s : State) (before : Nat) : State :=
  if before / 4 = s.now / 4 then s
  else
    let s := if s.timersRun then { s with cells := s.cells.map CellSt.edge } else s
    if s.requestsMove then s.switches else s

/-- The grace timer counts periods of 20,480 tt while WDOSC is marked failed, and holds in HALTED and DORMANT (R324). -/
def State.graceXtal (s : State) : State :=
  let f := s.fault
  if f.isOpen && !f.escalated && bit s.clocks 1 && s.coreRuns && !(s.inMode [.halted, .dormant]) then
    (if f.graceSub + 1 = ttMs then { s with fault := { f with graceSub := 0, left := f.left - 1 } }
     else { s with fault := { f with graceSub := f.graceSub + 1 } })
  else s

/-- In DORMANT the crystal stops once the last open window of the sweep is recorded (R382). -/
def State.stopCrystal (s : State) : State :=
  if s.mode.mode = .dormant && s.sweep.fn = .stopped then { s with clk := { s.clk with xtalOn := false } } else s

def State.tick (s : State) : State :=
  let s := ({ s with clk := s.clk.tick }.edges s.now).graceXtal.stopCrystal.sealSnapshot.takeHalt.resumeFrames.goOn
  let s := (s.pulseBack 1).pulseBack 2
  if s.resetDue then s.resetBy 6 else s

end Sys2Proof.Machine
end

