-- ==== Sys2Proof/WellFormed.lean ====
section
/-! DEFINITION. Which terms are commands at all: operands within the ranges that the hardware's own fields, pins and address
spaces give them. A value that a rule refuses (an argument of a descriptor out of range, a reserved code) is no
ill-formed operand: the command runs and is refused by that rule. -/

namespace Sys2Proof

/-- A number of w bits. -/
def isBits (w n : Nat) : Bool := decide (n < 2 ^ w)

def isPort (p : Nat) : Bool := decide (p < 4)
def isCell (n : Nat) : Bool := decide (1 ≤ n) && decide (n ≤ 48)
def isTier (t : Nat) : Bool := decide (1 ≤ t) && decide (t ≤ 3)

/-- A snapshot of host memory: 64-bit addresses, strictly rising. -/
def isHostMem : Nat → List (Nat × Byte) → Bool
  | _, [] => true
  | lo, (a, _) :: r => decide (lo ≤ a) && isBits 64 a && isHostMem (a + 1) r

/-- The fields of a long frame (07 Table 7.3): at most 256 payload bytes; DEPTH is 0 in an unscoped frame. -/
def Frame.wf (f : Frame) : Bool :=
  isBits 4 f.typ && isBits 2 f.cls && isBits 18 f.dest && isBits 18 f.src && isBits 8 f.depth && isBits 16 f.tag
    && decide (f.payload.length ≤ 256) && (f.hasScope || f.depth = 0)

def Arrival.wf : Arrival → Bool
  | .self => true
  | .port p h _ => isPort p && isBits 6 h

/-- The fields of a descriptor header (09 Table 9.8), and the ring it comes from. -/
def Hdr.wf (h : Hdr) : Bool :=
  isBits 8 h.ring && isBits 16 h.cid && isBits 8 h.flags && isBits 18 h.pos && isBits 8 h.depth && isBits 8 h.pool && isBits 16 h.timeout

def PStep.wf (t : PStep) : Bool := isBits 8 t.op && isBits 8 t.mode && isBits 16 t.aux
def Prog.wf (p : Prog) : Bool :=
  isBits 8 p.source && isBits 8 p.field && isBits 8 p.skip && isBits 8 p.steps && isBits 32 p.select && p.step1.wf && p.step2.wf
def Plan.wf (p : Plan) : Bool :=
  isBits 8 p.corner && isBits 8 p.trigger && isBits 8 p.channel && isBits 8 p.options && isBits 16 p.n && isBits 16 p.pre && isBits 64 p.time

def WireBus.wf (b : WireBus) : Bool :=
  b.tries.all (fun t => decide (t.fault ≤ 2)) && b.ids.all (isBits 48) && b.confirm.all (fun c => isBits 48 c.1)

/-- Codes of one centre tap: 48 cells and 48 filtered switch states. -/
def RawCodes.wf (r : RawCodes) : Bool := r.cells.length = 48 && r.bbar.length = 48 && r.bbar.all (fun b => decide (b ≤ 65536))

def ProofRead.wf (r : ProofRead) : Bool :=
  r.samples.length = 48 && r.samples.all (isBits 12) && r.mirrors.length = 48 && r.refUv.length = 3 && r.vreg.length = 3
    && r.temps.length = 3

/-- Addresses of configuration space and the codes of PCI Express Base 3.0. -/
def CfgReq.wf : CfgReq → Bool
  | .read a => isBits 12 a && a % 4 = 0
  | .powerState _ => true
  | .pmeEnable _ => true
  | .maxPayload c => isBits 3 c
  | .maxReadRequest c => isBits 3 c
  | .aspm _ => true
  | .barAddress a => isBits 64 a
  | .errorReporting i v => decide (i < 10) && isBits 32 v
  | .other => true

/-- Host memory beside a frame of a segment or block. -/
def DataBody.wf : DataBody → Bool
  | .contribution _ => true
  | .heldRecord _ => true
  | .segment mem => isHostMem 0 mem
  | .block _ mem => isHostMem 0 mem
  | .piece _ _ _ => true

/-- Four readings at each cell and each tier. -/
def BistCell.wf (c : BistCell) : Bool := c.samples.length = 4 && c.samples.all (isBits 12) && c.mirrors.length = 4
def BistTier.wf (t : BistTier) : Bool := t.refUv.length = 4 && t.ppb.length = 4

/-- What a BIST meets: a role of two pins, three tier rails, clocks of Table 11.1, banks and elements of MARCH, three areas of FLASH,
three tiers, 48 cells, four switches and contacts, ten steps. -/
def BistWorld.wf (w : BistWorld) : Bool :=
  isBits 2 w.role && w.vreg.length = 3 && w.channels.all (fun t => decide (1 ≤ t) && decide (t ≤ 3))
    && w.clocks.all (fun b => decide (b ≤ 4) || (decide (8 ≤ b) && decide (b ≤ 11)))
    && w.march.all (fun m => decide (m.1 < 80) && decide (1 ≤ m.2) && decide (m.2 ≤ 6)) && w.ecc.all (fun e => decide (e.1 ≤ 2))
    && w.wear.all (fun e => decide (e.area ≤ 2) && decide (e.word < (if e.area = 2 then 65536 else 262144)))
    && w.tiers.length = 3 && w.tiers.all BistTier.wf && w.cells.length = 48 && w.cells.all BistCell.wf && isBits 16 w.aux
    && w.reach.length = 4 && w.contacts.length = 4 && w.hangs.all (fun k => decide (1 ≤ k) && decide (k ≤ 10))

def isWords (ws : List Nat) : Bool := ws.all (isBits 32)

/-- The ranges of a command's operands. -/
def Instr.wf : Instr → Bool
  | .descriptorFetch mem w => isHostMem 0 mem && w.bus.wf
  | .paramRead h addr count => h.wf && isBits 32 addr && isBits 8 count
  | .paramWrite h addr data => h.wf && isBits 32 addr && isWords data && decide (data.length ≤ 8)
  | .paramWriteVerify h addr data => h.wf && isBits 32 addr && isWords data && decide (data.length ≤ 8)
  | .query h prog => h.wf && prog.wf
  | .expose h plan => h.wf && plan.wf
  | .surveyRun h t0 tag source _ => h.wf && isBits 64 t0 && isBits 16 tag && isBits 18 source
  | .sweepTrigger h t sweep _ => h.wf && isBits 64 t && isBits 32 sweep
  | .topologyRead h first number => h.wf && isBits 18 first && isBits 32 number
  | .renumber h funcs => h.wf && funcs.all (fun f => isBits 18 f.1)
  | .pathTest h cls times length => h.wf && isBits 8 cls && isBits 16 times && isBits 16 length
  | .safetySessionOpen h passcode => h.wf && isBits 64 passcode
  | .safetySessionClose h session => h.wf && isBits 32 session
  | .setPasscode h session passcode newPasscode => h.wf && isBits 32 session && isBits 64 passcode && isBits 64 newPasscode
  | .safetyWrite h session address value old => h.wf && isBits 32 session && isBits 32 address && isBits 32 value && isBits 32 old
  | .flashLoad h offset piece => h.wf && isBits 32 offset && decide (piece.length ≤ 65536)
  | .flashCommit h length crc => h.wf && isBits 32 length && isBits 32 crc
  | .logRead h log first number => h.wf && isBits 8 log && isBits 32 first && isBits 32 number
  | .checkRun h unit area poly offset length expect _ _ =>
    h.wf && isBits 8 unit && isBits 8 area && isBits 8 poly && isBits 32 offset && isBits 32 length && isBits 32 expect
  | .wireSearch h bus => h.wf && bus.wf
  | .wireReadIds h => h.wf
  | .wireConvert h bus => h.wf && bus.wf
  | .wireReadMem h accessory offset length bus => h.wf && isBits 8 accessory && isBits 16 offset && isBits 8 length && bus.wf
  | .wireWriteMem h accessory offset data bus => h.wf && isBits 8 accessory && isBits 16 offset && decide (data.length ≤ 32) && bus.wf
  | .nop h => h.wf
  | .transactionComplete tid mem => isBits 12 tid && isHostMem 0 mem
  | .transactionTimeout tid => isBits 12 tid
  | .interruptCoalesceTimeout c => isBits 8 c
  | .msixVectorUnmask v => isBits 8 v
  | .sqTailDoorbell r tail => isBits 8 r && isBits 16 tail
  | .cqHeadDoorbell r head mem => isBits 8 r && isBits 16 head && isHostMem 0 mem
  | .sqStart r cq weight => isBits 8 r && isBits 8 cq && isBits 8 weight
  | .sqStop r => isBits 8 r
  | .cqStart c vector _ => isBits 8 c && isBits 8 vector
  | .cqStop c => isBits 8 c
  | .poolEnable p listLog2 bufLog2 => isBits 6 p && isBits 5 listLog2 && isBits 5 bufLog2
  | .poolDisable p => isBits 6 p
  | .poolTailWrite p tail mem => isBits 6 p && isBits 16 tail && isHostMem 0 mem
  | .bar0RegisterWrite addr size value => isBits 16 addr && (size = 1 || size = 2 || size = 4 || size = 8) && isBits (8 * size) value
  | .hostReset key => isBits 32 key
  | .linkRetrain speed width gotSpeed gotWidth => isBits 2 speed && isBits 2 width && isBits 2 gotSpeed && isBits 2 gotWidth
  | .perstNAssert => true
  | .perstNDeassert _ gotSpeed gotWidth => isBits 2 gotSpeed && isBits 2 gotWidth
  | .functionLevelReset => true
  | .hostWdStart => true
  | .hostWdKey key => isBits 16 key
  | .hostRollCheckin task => isBits 4 task
  | .hostWdServeSampled => true
  | .hostWdExpired => true
  | .commandFrameReceive a f _ => a.wf && f.wf
  | .responseFrameReceive a f _ => a.wf && f.wf
  | .strobeReceive a f => a.wf && f.wf
  | .tripFrameReceive a f => a.wf && f.wf
  | .safetyFrameReceive a f => a.wf && f.wf
  | .pendingFrameReceive a f => a.wf && f.wf
  | .dataFrameReceive a f b => a.wf && f.wf && b.wf
  | .currentPublicationReceive a f => a.wf && f.wf
  | .creditFrameReceive a f => a.wf && f.wf
  | .timeSyncReceive a f _ => a.wf && f.wf
  | .timeEchoReceive a f _ => a.wf && f.wf
  | .trainFrameReceive p _ f => isPort p && f.wf
  | .shortFrameReceive p b0 b1 b2 => isPort p && isBits 8 b0 && isBits 8 b1 && isBits 8 b2
  | .condemnedFrame p byte0 header => isPort p && (match byte0, header with
    | some b, some (h, f) => isBits 8 b && isBits 6 h && f.wf && b % 16 = f.typ && b / 16 % 4 = f.cls && (b.testBit 7) = f.hasScope
    | some b, none => isBits 8 b
    | none, some _ => false
    | none, none => true)
  | .abortedFrameReceive p _ => isPort p
  | .discoverWalk a f => a.wf && f.wf
  | .discoverReturn a f => a.wf && f.wf
  | .discoverDup a f => a.wf && f.wf
  | .discoverReport a f => a.wf && f.wf
  | .discoverAssign a f => a.wf && f.wf
  | .discoverLost a f => a.wf && f.wf
  | .discoverCut a f => a.wf && f.wf
  | .discoverRoute a f => a.wf && f.wf
  | .discoverMark a f => a.wf && f.wf
  | .discoverAttach a f => a.wf && f.wf
  | .faultFrameReceive a f => a.wf && f.wf
  | .probeReceive a f => a.wf && f.wf
  | .probeAnswerReceive a f => a.wf && f.wf
  | .crierMessageComplete p _ => isPort p
  | .wakeToneDetect p safety => isPort p && (match safety with
    | some f => f.2.wf
    | none => true)
  | .legacyReply addr cmd _ crc => isBits 8 addr && isBits 8 cmd && isBits 16 crc
  | .legacyReplyTimeout => true
  | .symbolsDetected p => isPort p
  | .trainingRateTimeout p => isPort p
  | .signalLoss p => isPort p
  | .retransmitTimeout p _ => isPort p
  | .shortFrameIdle p => isPort p
  | .portStart p retryMax => isPort p && isBits 8 retryMax
  | .portStop p => isPort p
  | .portStopped p => isPort p
  | .walkStart => true
  | .walkPortSilence => true
  | .walkTrainingWaitEnd => true
  | .walkPendingTimer => true
  | .heldFramesTimeout p => isPort p
  | .takeover => true
  | .timeSyncSend => true
  | .holdoverTimeout => true
  | .periodicStrobeSend => true
  | .wakeToneSend => true
  | .apertureOpen => true
  | .tbiasDriveStart => true
  | .blankingStart => true
  | .blankingEnd => true
  | .tierCodesAvailable raw => raw.wf
  | .auxCodesReady volts _ => volts.length = 16
  | .tierChannelFrameReceive channel _ load => isTier channel && load.cells.all isCell && load.proofs.all isCell
    && load.slots.all (fun p => isTier p.1 && decide (16 ≤ p.2) && decide (p.2 ≤ 49))
  | .sweepRecordComplete temps _ _ => temps.length = 3
  | .sweepStart source => isBits 2 source
  | .sweepStop => true
  | .sweepStopped => true
  | .snapshotRewrite => true
  | .surveyStart tag _ => isBits 16 tag
  | .surveyStop => true
  | .surveyStopped => true
  | .surveyRunStart => true
  | .excitationToggle => true
  | .lockinComplete => true
  | .surveyRunEnd => true
  | .baseSave => true
  | .baseDataRead => true
  | .baseDataWrite v => isBits 32 v
  | .balanceStart _ => true
  | .balanceStop => true
  | .balanceStopped => true
  | .governorSlot => true
  | .balanceTimerExpire cell => isCell cell
  | .proofRound r => r.wf
  | .witnessCrossCheck tier _ => isTier tier
  | .switchOnTestStep cell => isCell cell
  | .switchOnTestEnd cell _ _ => isCell cell
  | .openWireTestStep k => isCell k
  | .openWireTestEnd k _ _ _ => isCell k
  | .harnessCell k _ _ _ bbar => isCell k && decide (bbar ≤ 65536)
  | .harnessPassComplete => true
  | .testOverdue check => decide (7 ≤ check) && decide (check ≤ 9)
  | .harnessNow => true
  | .switchNow => true
  | .tableDataRead => true
  | .tableDataWrite v => isBits 32 v
  | .lamplighterRound samples aux _ => samples.length = 48 && aux.length = 16
  | .jobAdmission _ key => isBits 16 key
  | .glean g => isBits 4 g
  | .jobFinish g badBank => isBits 4 g && (match badBank with
    | some b => isBits 6 b
    | none => true)
  | .islandDisable i => isBits 2 i
  | .harvestContributorTimeout tid => isBits 16 tid
  | .harvestPendingTimer tid => isBits 16 tid
  | .exposureThresholdTrip => true
  | .exposureFreeze => true
  | .exposureArmDeadline => true
  | .heartbeatSend => true
  | .unobservedTimeout => true
  | .heartbeatTimeout index => isBits 8 index
  | .autoArm x => decide (x = 1) || decide (x = 2)
  | .siContactChange contact _ => isBits 2 contact
  | .discrepancyTimeout x => decide (x = 1) || decide (x = 2)
  | .outputTestPulse x => decide (x = 1) || decide (x = 2)
  | .outputTestPulseEnd x _ => decide (x = 1) || decide (x = 2)
  | .stuckNodeDetect sw => isBits 2 sw
  | .sessionIdleTimeout => true
  | .authenticationLockEnd => true
  | .degradedAllowanceExpire => true
  | .wdogStart => true
  | .wdogKey key => isBits 16 key
  | .wdogCheckin task => isBits 4 task
  | .wdogServeSampled => true
  | .wdogExpire => true
  | .eraseSuspensionEnd => true
  | .clockMonitorWindow b _ => decide (b < 12)
  | .faultCollect => true
  | .graceExpire => true
  | .faultAck id => isBits 5 id
  | .checkStart k => isBits 2 k
  | .checkStop k => isBits 2 k
  | .checkData8 k v => isBits 2 k && isBits 8 v
  | .checkData16 k v => isBits 2 k && isBits 16 v
  | .checkData32 k v => isBits 2 k && isBits 32 v
  | .checkClose k => isBits 2 k
  | .checkOutcome k => isBits 2 k
  | .pinReset _ _ => true
  | .bistStart w => w.wf
  | .bistStepTimeout => true
  | .bistEnd => true
  | .vpwrFail => true
  | .keepHandover _ _ => true
  | .vpwrBelowPg => true
  | .vpwrGood => true
  | .keepPowerOnReset => true
  | .vauxLoss => true
  | .supplyOutOfLimits item => decide (1 ≤ item) && decide (item ≤ 10)
  | .tierPoweredAfterRelease tier => isTier tier
  | .chargerSoftStart _ => true
  | .prechargeShortCheck _ => true
  | .prechargeTimeout _ => true
  | .cvReached => true
  | .chargeTermination => true
  | .detectionPulseEnd _ => true
  | .periodicDetection => true
  | .recharge _ => true
  | .fastChargeTimeout => true
  | .restsWindowChange _ => true
  | .missingRetry _ => true
  | .shareOver => true
  | .shareRetry => true
  | .shareCharge => true
  | .chgDefaults => true
  | .shipRequest key => isBits 16 key
  | .shipWake _ => true
  | .longPress => true
  | .longPressEnd => true
  | .modeResetRequest key => isBits 16 key
  | .resumeRequest key => isBits 16 key
  | .runToQuiet => true
  | .dormantEntry => true
  | .dormantWake _ port => isPort port
  | .debugHalt => true
  | .debugResume => true
  | .debugStep badBank => (match badBank with
    | some b => isBits 6 b
    | none => true)
  | .debugReset => true
  | .breakpointHit k what _ => isBits 3 k && isBits 32 what
  | .commitEraseDone => true
  | .commitVerifyDone => true
  | .commitRecordDone => true
  | .loadIdleTimeout => true
  | .flashAbandon => true
  | .configSave => true
  | .commitLoaded => true
  | .configDataRead => true
  | .configDataWrite v => isBits 32 v
  | .ledgerEntryProgrammed => true
  | .wireStart _ _ maxRounds => isBits 8 maxRounds
  | .wireStop => true
  | .strongPullupEnd _ => true
  | .idDataRead => true
  | .timeLoRead => true
  | .debugParamRead addr chk => isBits 24 addr && isBits 4 chk
  | .debugParamWrite addr value chk => isBits 24 addr && isBits 32 value && isBits 4 chk
  | .granaryRead addr chk => isBits 24 addr && isBits 4 chk
  | .granaryWrite addr value chk => isBits 24 addr && isBits 32 value && isBits 4 chk
  | .flashRead addr chk => isBits 24 addr && isBits 4 chk
  | .flashProgram addr value chk => isBits 24 addr && isBits 32 value && isBits 4 chk
  | .flashErase addr chk => isBits 24 addr && isBits 4 chk
  | .fuse data tail => isBits 24 tail.addr && isBits 32 data && isBits 4 tail.chk
  | .idcode tail => isBits 24 tail.addr && isBits 4 tail.chk
  | .longFrameTransit a f => a.wf && f.wf
  | .streamOutput corner raw _ => isBits 3 corner && raw.wf
  | .surveyResponseDeadline tid => isBits 12 tid
  | .probeRoundTripLost tid => isBits 12 tid
  | .commitPendingTimer => true
  | .parishEntryProgrammed => true
  | .configurationRequest r => r.wf
  | .preRegulatorStart _ => true
  | .supplyReturn item => decide (1 ≤ item) && decide (item ≤ 10)
  | .prechargeLevelReached => true
  | .continuousReadbackFail sw => isBits 2 sw

end Sys2Proof
end

