-- ==== Sys2Proof/Safety.lean ====
section
/-! DEFINITION. The terms in which statements speak: what part of the device a command leaves alone, the canonical
form of the memories, and the queue of well-formed commands. -/

namespace Sys2Proof.Machine

/-- The parts of the state, one name per field of State. -/
inductive Part where
  | pending | free | reply | out | clk | ident | mode | fault | wdog | clocks | hostWd | checks | flash | dbg | ports
  | legacy | cmdRefs | tree | host | safety | sweep | cells | survey | bal | diag | glean | expo | power | wire | bist
  | kept | granary
deriving DecidableEq, Repr

/-- Two states hold the same in one part. -/
def Part.same (s t : State) : Part → Prop
  | .pending => t.pending = s.pending
  | .free => t.free = s.free
  | .reply => t.reply = s.reply
  | .out => t.out = s.out
  | .clk => t.clk = s.clk
  | .ident => t.ident = s.ident
  | .mode => t.mode = s.mode
  | .fault => t.fault = s.fault
  | .wdog => t.wdog = s.wdog
  | .clocks => t.clocks = s.clocks
  | .hostWd => t.hostWd = s.hostWd
  | .checks => t.checks = s.checks
  | .flash => t.flash = s.flash
  | .dbg => t.dbg = s.dbg
  | .ports => t.ports = s.ports
  | .legacy => t.legacy = s.legacy
  | .cmdRefs => t.cmdRefs = s.cmdRefs
  | .tree => t.tree = s.tree
  | .host => t.host = s.host
  | .safety => t.safety = s.safety
  | .sweep => t.sweep = s.sweep
  | .cells => t.cells = s.cells
  | .survey => t.survey = s.survey
  | .bal => t.bal = s.bal
  | .diag => t.diag = s.diag
  | .glean => t.glean = s.glean
  | .expo => t.expo = s.expo
  | .power => t.power = s.power
  | .wire => t.wire = s.wire
  | .bist => t.bist = s.bist
  | .kept => t.kept = s.kept
  | .granary => t.granary = s.granary

/-- From s to t nothing changes outside the named parts: the frame of a command. -/
def State.onlyChanges (s : State) (ps : List Part) (t : State) : Prop := ∀ p : Part, p ∉ ps → p.same s t

/-- The memories are in their canonical form: addresses strictly rising, no byte listed that reads so unlisted. -/
def State.memWf (s : State) : Prop :=
  Memory.wf flashByte s.flash.bank0 = true ∧ Memory.wf flashByte s.flash.bank1 = true
    ∧ Memory.wf flashByte s.flash.dataArea = true ∧ Memory.rising s.granary = true

/-- The files of the device have their sizes: four ports, 48 cells, four check units, 256 submission and 256 completion rings, 64
pools, 16 gleaners, eight comparators. -/
def State.shapeWf (s : State) : Bool :=
  s.ports.length = 4 && s.cells.length = 48 && s.checks.length = 4 && s.host.sq.length = 256 && s.host.cq.length = 256
    && s.host.pool.length = 64 && s.glean.gleaners.length = 16 && s.dbg.brk.length = 8

/-- The queues and tables stay within what the device has: 64 command counters (07 R200), 256 exception routes (08 R223), 16 ledger
slots that wait and 4,096 in the log (16 R417), 256 events (09 R278), 32 jobs in a deque (06 R157), 64 held and 128 live records (08 R236,
06 R177), 256 entries of the partition's log (10 R292). -/
def State.boundsWf (s : State) : Bool :=
  decide (s.cmdRefs.length ≤ 64) && decide (s.tree.routes.length ≤ 256) && decide (slotsOf s.flash.queue ≤ 16)
    && decide (slotsOf s.flash.log ≤ 4096) && decide (s.host.events.length ≤ 256)
    && s.glean.gleaners.all (fun g => decide (g.deque.length ≤ 32)) && decide (s.tree.heldArea.length ≤ 64)
    && decide (s.sweep.live.length ≤ 128) && decide (s.safety.parish.length ≤ 256)

/-- Every command that waits is well formed. -/
def State.queueWf (s : State) : Prop := ∀ c ∈ s.pending, c.wf = true

/-- The core runs, and port p is one of the four and UP. -/
def State.onPort (s : State) (p : Nat) : Bool := s.coreRuns && decide (p < 4) && s.ports.length = 4 && (s.port p).link = .up

/-- A long frame with this device's own position for its destination comes on port p, which is UP (07 R191, R192, R195). -/
def State.inSequence (s : State) (p : Nat) (f : Frame) : Bool := s.onPort p && !f.hasScope && s.ownPos f.dest

/-- The next frame of space N on port p, with its crier bit. -/
def State.via (s : State) (p : Nat) (cb : Bool) : Arrival := .port p (s.port p).spaceN.rxNext cb

/-- The next frame f of its own space on port p. -/
def State.viaSpace (s : State) (p : Nat) (f : Frame) (cb : Bool) : Arrival := .port p ((s.port p).space (f.cls = 0)).rxNext cb

/-- The sequencer takes the next frame meant for it at once: it is not HALTED, and no other waits (16 R425). -/
def State.sequences (s : State) : Bool := s.mode.mode != .halted && s.tree.waiting.isEmpty

/-- Port q is one of the four and trains: what is queued there waits. -/
def State.trains (s : State) (q : Nat) : Bool := decide (q < 4) && s.ports.length = 4 && (s.port q).link = .training

/-- No comparator of the debug unit is enabled (16 R426). -/
def State.breakFree (s : State) : Bool := s.dbg.brk.all (fun b => !b.en)

/-- No frame waits for a port, and no port owes credits. -/
def State.quiet (s : State) : Bool :=
  s.ports.all (fun q => q.txq.safety.isEmpty && q.txq.control.isEmpty && q.txq.data.isEmpty && q.txq.bulk.isEmpty && q.owed.isZero)

/-- Completion ring c takes the next entry at once: it has room, and nothing waits (09 R259, R271, R279). -/
def State.ringReady (s : State) (c : Nat) : Bool :=
  decide (c < s.host.cq.length) && s.cqRoom c && s.host.cplWait.isEmpty && s.host.waits.isEmpty && s.host.heldWait.isEmpty
    && s.host.events.isEmpty

/-- The memory write that puts an entry at the tail of its completion ring (09 R268). -/
def State.entryAtTail (s : State) (e : Cpl) : OutEvt :=
  .hostWrite ((s.cq e.cq).baseLo + (s.cq e.cq).baseHi * 2 ^ 32 + 32 * (s.cq e.cq).tail) (cplBytes e (s.sq e.ring).head (s.cq e.cq).phase)

/-- Everything of a transaction but the instant at which its PROBE under way left, which a frame that goes out notes. -/
def Tx.still (t : Tx) : Tx := { t with probeAt := 0 }

/-- An answer with a status and a value alone. -/
def replyOf (status value : Nat) : Option Reply := some { status := status, value := value, words := [], bytes := [] }

/-- A descriptor's arguments as the encoding admits them (09 Tables 9.8, 9.9): every field within its bits, and what it does not carry
(the bytes in host memory, the wire, the station's answers) as the world supplies it. -/
def reqFits (mem : List (Nat × Byte)) (w : FetchWorld) (h : Hdr) (ha : Nat) : Req → Bool
  | .paramRead a n => isBits 32 a && isBits 8 n
  | .paramWrite a ws => isBits 32 a && decide (ws.length ≤ 8) && isWords ws
  | .paramWriteVerify a ws => isBits 32 a && decide (ws.length ≤ 8) && isWords ws
  | .query p c => c = 0 && p.wf && isBits 2 p.skip && isInt32 p.step1.p1 && isInt32 p.step1.p2 && isInt32 p.step2.p1 && isInt32 p.step2.p2
  | .expose p => p.wf && isBits 1 p.options && isInt32 p.level
  | .surveyRun t0 tag src _ sp sd => isBits 64 t0 && isBits 16 tag && isBits 18 src && sp = h.pos && sd = h.depth
  | .sweepTrigger t n _ => isBits 64 t && isBits 32 n
  | .topologyRead f n => isBits 18 f && isBits 32 n
  | .renumber fs => fs = w.funcs
  | .pathTest c n l => isBits 8 c && isBits 16 n && isBits 16 l
  | .sessionOpen p => isBits 64 p
  | .sessionClose k => isBits 32 k
  | .setPasscode k p q => isBits 32 k && isBits 64 p && isBits 64 q
  | .safetyWrite k a v o => isBits 32 k && isBits 32 a && isBits 32 v && isBits 32 o
  | .flashLoad o n bs c => isBits 32 o && n = bs.length && isBits 64 ha && decide (bs.length ≤ 65536) && bs = hostBytes mem ha bs.length && c = crc32c bs
  | .flashCommit l c => isBits 32 l && isBits 32 c
  | .logRead l f n => isBits 8 l && isBits 32 f && isBits 32 n
  | .checkRun u a p o l e bs err =>
    isBits 8 u && isBits 8 a && isBits 8 p && isBits 32 o && isBits 32 l && isBits 32 e && isBits 64 ha && err = w.err
      && bs = (if a = 0 && decide (l ≤ 1048576) then hostBytes mem ha l else w.bytes)
  | .wireSearch b => b = w.bus
  | .wireReadIds => true
  | .wireConvert b => b = w.bus
  | .wireReadMem i o l b => isBits 8 i && isBits 16 o && isBits 8 l && b = w.bus
  | .wireWriteMem i o bs b => isBits 8 i && isBits 16 o && decide (bs.length ≤ 32) && b = w.bus
  | .nop => true
where isInt32 (x : Int) : Bool := decide (-2147483648 ≤ x) && decide (x ≤ 2147483647)

end Sys2Proof.Machine
end

