-- ==== Sys2Proof/Certificates/Slice0/Obligations.lean ====
section
/-! DEFINITION. The statements about the device, for the provers: the block's queue, then the families of commands. Every
statement about a command says where exec answers a next state, what that state holds and what it leaves alone. -/

open Sys2Proof Sys2Proof.Machine

/-! ### The queue of commands -/

/-- A step with a command at the front of the queue is exec of that command on the rest of the queue. -/
def Obligations.StepRunsTheFrontCommand : Prop :=
  ∀ (s : State) (c : Instr) (rest : List Instr),
    step { s with pending := c :: rest } = exec c { s with pending := rest }

/-- A command never stops the device, and takes, adds or reorders no waiting command: in every state exec answers a next
state with the queue it met, and a step leaves the queue that stood behind the front. -/
def Obligations.CommandsLeaveInOrderOfArrival : Prop :=
  ∀ (s : State) (c : Instr) (rest : List Instr),
    ∃ t, exec c { s with pending := rest } = .next t ∧ t.pending = rest ∧ step { s with pending := c :: rest } = .next t

/-- Every step keeps a queue of well-formed commands a queue of well-formed commands. -/
def Obligations.StepKeepsTheQueueWellFormed : Prop :=
  ∀ (s t : State), s.queueWf → step s = .next t → t.queueWf

/-- At reset no command waits, the memories have their canonical form, the files their sizes, and every queue fits. -/
def Obligations.ResetStateIsWellFormed : Prop :=
  State.reset.queueWf ∧ State.reset.memWf ∧ State.reset.shapeWf = true ∧ State.reset.boundsWf = true

/-- With no command waiting the device counts one period of the crystal (the model's choice, log 1): local time always,
the keep island's clock every 625 periods of 1/20.48 MHz (R12). Nothing else is due at it: no reset, no held halt, no frame that
waits for the sequencer, no access that a comparator held; a test pulse may end at it and the snapshot be sealed. -/
def Obligations.EmptyQueueCountsOneCrystalPeriod : Prop :=
  ∀ (s : State), s.pending = [] → s.mode.resetAt = none → s.mode.haltHeld = false → s.tree.waiting = [] → s.dbg.go = false →
    ∃ t, step s = .next t ∧ t.pending = [] ∧ t.clk.wall = s.clk.wall + 1
      ∧ (s.clk.rtcSub = 624 → t.clk.rtc = s.clk.rtc + 1 ∧ t.clk.rtcSub = 0)
      ∧ (s.clk.rtcSub ≠ 624 → t.clk.rtc = s.clk.rtc ∧ t.clk.rtcSub = s.clk.rtcSub + 1)
      ∧ (s.clk.treeOn = true → s.clk.xtalOn = true → s.clk.trim = 0 → t.clk.tt = s.clk.tt + (s.clk.frac + 65536) / 65536)
      ∧ ((s.clk.treeOn = false ∨ s.clk.xtalOn = false) → t.clk.tt = s.clk.tt)
      ∧ t.sweep = { s.sweep with snapBusy := t.sweep.snapBusy }
      ∧ t.safety = { s.safety with out1 := { s.safety.out1 with pulse := t.safety.out1.pulse }
                                   out2 := { s.safety.out2 with pulse := t.safety.out2.pulse } }
      ∧ s.onlyChanges [.reply, .out, .clk, .cells, .fault, .kept, .sweep, .safety] t

/-! ### Watchdogs, the fault collector, the check units -/

/-- The key and the check-in of both watchdogs (R315, R318, R320, R321): 0x4B1D with no key held is held; 0xE7A2 after it is a
valid pair; any other write is an early serve and drops the held key; a first check-in of a registered task is recorded, any other is
a duplicate; the device watchdog discards both while it is suspended, the host's never is. The device's keys and check-ins come
from its core: while that stops, for want of its crystal or of a program word, there are none (R313, R408).

START of a watchdog with 1 ≤ OPEN < CLOSE latches the window and starts the count at 0; a START with another window, or of a
watchdog that runs, changes nothing but the status DENIED, the host's nothing but WRITE_IGNORED (R314, R321).

exec answers a next state with the command's own effect, under the premises on the state and operands shown, for: HOST_WD_START,
HOST_WD_KEY, HOST_ROLL_CHECKIN, WDOG_START, WDOG_KEY, WDOG_CHECKIN. -/
def Obligations.WatchdogKeysCheckInsAndStart : Prop :=
  (∀ (s : State) (key task : Nat),
    (s.coreRuns = true → s.wdSuspended = false → s.unpowered = false →
      exec (.wdogKey key) s = .next { s with reply := none, out := [], wdog := { s.wdog with
        keyHeld := decide (key = 0x4B1D) && !s.wdog.keyHeld
        pendValid := s.wdog.pendValid + (if key = 0xE7A2 ∧ s.wdog.keyHeld = true then 1 else 0)
        pendEarly := s.wdog.pendEarly + (if (key = 0xE7A2 ∧ s.wdog.keyHeld = true)
          ∨ (key = 0x4B1D ∧ s.wdog.keyHeld = false) then 0 else 1) } }
      ∧ exec (.wdogCheckin task) s = .next
        { s with
          reply := none, out := []
          wdog := if s.wdog.rollMask.testBit task = true ∧ s.wdog.checked.testBit task = false then
            { s.wdog with checked := s.wdog.checked + 2 ^ task } else { s.wdog with duplicate := true } })
    ∧ (s.wdSuspended = true ∨ s.clocks.testBit 0 = true ∨ s.flash.fetchStop = true → exec (.wdogKey key) s = .next { s with reply := none, out := [] }
      ∧ exec (.wdogCheckin task) s = .next { s with reply := none, out := [] })
    ∧ (s.barOpen = true →
      exec (.hostWdKey key) s = .next { s with reply := none, out := [], hostWd := { s.hostWd with
        keyHeld := decide (key = 0x4B1D) && !s.hostWd.keyHeld
        pendValid := s.hostWd.pendValid + (if key = 0xE7A2 ∧ s.hostWd.keyHeld = true then 1 else 0)
        pendEarly := s.hostWd.pendEarly + (if (key = 0xE7A2 ∧ s.hostWd.keyHeld = true)
          ∨ (key = 0x4B1D ∧ s.hostWd.keyHeld = false) then 0 else 1) } }
      ∧ exec (.hostRollCheckin task) s = .next
        { s with
          reply := none, out := []
          hostWd := if s.hostWd.rollMask.testBit task = true ∧ s.hostWd.checked.testBit task = false then
            { s.hostWd with checked := s.hostWd.checked + 2 ^ task } else { s.hostWd with duplicate := true } }))
  ∧
  (∀ (s : State),
    (s.reachable = true → s.mode.mode ≠ .lockout → s.wdog.running = false → 1 ≤ s.wdog.openT →
      s.wdog.openT < s.wdog.closeT →
      exec .wdogStart s = .next { s with out := [], reply := some { status := stOk, value := 0, words := [], bytes := [] }
                                         wdog := { s.wdog with running := true, count := 0, winOpen := s.wdog.openT
                                                               winClose := s.wdog.closeT } })
    ∧ (s.reachable = true → s.wdog.running = true ∨ s.wdog.openT = 0 ∨ s.wdog.closeT ≤ s.wdog.openT →
      exec .wdogStart s = .next { s with out := [], reply := some { status := stDenied, value := 0, words := [], bytes := [] } })
    ∧ (s.barOpen = true → s.hostWd.running = false → 1 ≤ s.hostWd.openT → s.hostWd.openT < s.hostWd.closeT →
      exec .hostWdStart s = .next { s with reply := none, out := []
                                           hostWd := { s.hostWd with running := true, count := 0, winOpen := s.hostWd.openT
                                                                     winClose := s.hostWd.closeT } })
    ∧ (s.barOpen = true → s.hostWd.running = true ∨ s.hostWd.openT = 0 ∨ s.hostWd.closeT ≤ s.hostWd.openT →
      exec .hostWdStart s = .next { s with reply := none, out := [], host := { s.host with writeIgn := true } }))

/-- A tick edge of a running watchdog below CLOSE (R316, R321): one serve, complete, inside the window and with its roll
call met restarts the count; anything else counts on, an early or doubled serve and a failed roll call with their fault
(FLT_WDOG_EARLY 14, FLT_ROLL 15; ITEM 0 the device's watchdog, 1 the host's) and a cleared record.

The device watchdog at CLOSE resets the device with cause WDOG (5), keeping the count of failed roll calls (R317); the
host watchdog at CLOSE records its expiry and puts the charger on its safe defaults (R321); the end of an erase, and
100 ms of one that goes on, re-arm the device watchdog with a fresh window (R318).

exec answers a next state with the command's own effect, under the premises on the state and operands shown, for:
HOST_WD_SERVE_SAMPLED, HOST_WD_EXPIRED, WDOG_SERVE_SAMPLED, WDOG_EXPIRE, ERASE_SUSPENSION_END. -/
def Obligations.WatchdogEdgesExpiryAndRearm : Prop :=
  (∀ (s : State), s.unpowered = false →
    (s.wdog.running = true → s.wdSuspended = false → s.wdog.count ≠ s.wdog.winClose →
      ∃ t, exec .wdogServeSampled s = .next t ∧ s.onlyChanges [.reply, .out, .wdog, .fault] t
        ∧ (s.wdog.pendEarly = 0 → s.wdog.pendValid = 0 →
            t.wdog = { s.wdog with count := s.wdog.count + 1 } ∧ t.fault.evq = s.fault.evq)
        ∧ (s.wdog.pendEarly = 0 → s.wdog.pendValid = 1 → s.wdog.winOpen ≤ s.wdog.count → s.wdog.checked = s.wdog.rollMask →
            s.wdog.duplicate = false →
            t.wdog = { s.wdog with count := 0, pendEarly := 0, pendValid := 0, checked := 0, duplicate := false, rollFails := 0 }
              ∧ t.fault.evq = s.fault.evq)
        ∧ (s.wdog.pendEarly = 0 → s.wdog.pendValid = 1 → s.wdog.winOpen ≤ s.wdog.count → s.mode.mode ≠ .lockout →
            s.mode.mode ≠ .bist → (s.wdog.checked ≠ s.wdog.rollMask ∨ s.wdog.duplicate = true) →
            t.wdog = { s.wdog with count := s.wdog.count + 1, pendEarly := 0, pendValid := 0, checked := 0, duplicate := false
                                   rollFail := true, rollFails := s.wdog.rollFails + 1 }
              ∧ t.fault.evq = s.fault.evq ++ [{ id := 15, item := 0, time := s.clk.tt, mode := s.mode.mode.code }])
        ∧ ((1 ≤ s.wdog.pendEarly ∨ 2 ≤ s.wdog.pendValid ∨ (s.wdog.pendValid = 1 ∧ s.wdog.count < s.wdog.winOpen)) →
            t.wdog = { s.wdog with count := s.wdog.count + 1, pendEarly := 0, pendValid := 0, checked := 0, duplicate := false
                                   early := true }
              ∧ t.fault.evq = s.fault.evq ++ [{ id := 14, item := 0, time := s.clk.tt, mode := s.mode.mode.code }]))
    ∧ (s.hostWd.running = true → s.hostWd.count ≠ s.hostWd.winClose →
      ∃ t, exec .hostWdServeSampled s = .next t ∧ s.onlyChanges [.reply, .out, .hostWd, .fault] t
        ∧ (s.hostWd.pendEarly = 0 → s.hostWd.pendValid = 0 →
            t.hostWd = { s.hostWd with count := s.hostWd.count + 1 } ∧ t.fault = s.fault)
        ∧ (s.hostWd.pendEarly = 0 → s.hostWd.pendValid = 1 → s.hostWd.winOpen ≤ s.hostWd.count →
            s.hostWd.checked = s.hostWd.rollMask → s.hostWd.duplicate = false →
            t.hostWd = { s.hostWd with count := 0, pendEarly := 0, pendValid := 0, checked := 0, duplicate := false
                                       rollFails := 0 } ∧ t.fault = s.fault)
        ∧ (s.hostWd.pendEarly = 0 → s.hostWd.pendValid = 1 → s.hostWd.winOpen ≤ s.hostWd.count →
            (s.hostWd.checked ≠ s.hostWd.rollMask ∨ s.hostWd.duplicate = true) →
            t.hostWd = { s.hostWd with count := s.hostWd.count + 1, pendEarly := 0, pendValid := 0, checked := 0, duplicate := false
                                       rollFail := true, rollFails := s.hostWd.rollFails + 1, early := true }
              ∧ t.fault.evq = s.fault.evq ++ [{ id := 15, item := 1, time := s.clk.tt, mode := s.mode.mode.code }])
        ∧ ((1 ≤ s.hostWd.pendEarly ∨ 2 ≤ s.hostWd.pendValid ∨ (s.hostWd.pendValid = 1 ∧ s.hostWd.count < s.hostWd.winOpen)) →
            t.hostWd = { s.hostWd with count := s.hostWd.count + 1, pendEarly := 0, pendValid := 0, checked := 0
                                       duplicate := false, early := true }
              ∧ t.fault.evq = s.fault.evq ++ [{ id := 14, item := 1, time := s.clk.tt, mode := s.mode.mode.code }])))
  ∧
  (∀ (s : State) (w : Nat),
    (s.wdog.running = true → s.wdSuspended = false → s.unpowered = false → s.wdog.count = s.wdog.winClose →
      ∃ t, exec .wdogExpire s = .next t ∧ t.mode.mode = .bist ∧ t.mode.cause = 5 ∧ t.kept.wdog = some s.wdog.rollFails
        ∧ t.wdog.count = 0 ∧ t.clk.rtc = s.clk.rtc ∧ (s.flash.queue = [] → t.flash.log = s.flash.log) ∧ t.pending = s.pending)
    ∧ (s.hostWd.running = true → s.unpowered = false → s.hostWd.count = s.hostWd.winClose →
      ∃ t, exec .hostWdExpired s = .next t ∧ s.onlyChanges [.reply, .out, .hostWd, .flash, .power, .free] t
        ∧ t.hostWd = { s.hostWd with expired := true, count := 0, checked := 0, duplicate := false, pendEarly := 0, pendValid := 0 }
        ∧ t.power.ichg = 10 ∧ t.power.vcv = 0 ∧ t.power.vinreg = 4500 ∧ t.power.timeoutH = 10 ∧ t.power.defaults = true)
    ∧ (s.coreRuns = true → s.wdog.erasing = some w → s.clk.wall - w < 100 * ttMs → s.flash.erases = [.data] →
      ∃ t, exec .eraseSuspensionEnd s = .next t ∧ s.onlyChanges [.reply, .out, .flash, .wdog, .ports, .host, .glean, .expo] t
        ∧ t.flash = { s.flash with erases := [] }
        ∧ t.wdog = { s.wdog with erasing := none, count := 0, keyHeld := false, pendEarly := 0, pendValid := 0, checked := 0
                                 duplicate := false })
    ∧ (s.coreRuns = true → s.wdog.erasing = some w → 100 * ttMs ≤ s.clk.wall - w →
      ∃ t, exec .eraseSuspensionEnd s = .next t ∧ s.onlyChanges [.reply, .out, .wdog, .ports, .host, .glean, .expo] t
        ∧ t.wdog = { s.wdog with erasing := none, count := 0, keyHeld := false, pendEarly := 0, pendValid := 0, checked := 0
                                 duplicate := false }))

/-- The collector on a WDOSC edge (R323, R326, R416). With no record open, the event of lowest ID among those of a source enabled in
ENABLE0 opens the record, whatever stands before or behind it; the others are lost; the grace timer starts at GRACE, FAULT_N goes low,
and the ledger takes an entry FAULT with the ID and the ITEM. An event of a source that ENABLE0 disables opens none, and while a record
is open every event is lost.

exec answers a next state with the command's own effect, under the premises on the state and operands shown, for: FAULT_COLLECT. -/
def Obligations.CollectorOpensTheRecord : Prop :=
  ∀ (s : State) (e : FaultEvt) (l r : List FaultEvt), s.fault.running = true → s.unpowered = false →
    (s.fault.isOpen = false → s.fault.evq = l ++ e :: r → e.id < 32 → s.fault.enable0.testBit e.id = true →
        (∀ x ∈ l, s.fault.enable0.testBit x.id = true → e.id < x.id) → (∀ x ∈ r, s.fault.enable0.testBit x.id = true → e.id ≤ x.id) →
      ∃ t, exec .faultCollect s = .next t
        ∧ t.fault = { s.fault with evq := [], isOpen := true, escalated := false, id := e.id, item := e.item
                                   recMode := e.mode, time := e.time, left := s.fault.grace, graceSub := 0
                                   actionNow := s.fault.action, low := true }
        ∧ (slotsOf s.flash.queue < 16 → t.flash = { s.flash with
            nextSeq := (s.flash.nextSeq + 1) % 2 ^ 32
            queue := s.flash.queue ++ [{ seq := s.flash.nextSeq, code := 3, mode := s.mode.mode.code, rtc := s.clk.rtc / 32768
                                         time := e.time, item := e.id + 256 * e.item, data := 0, cont := none, torn := [] }] })
        ∧ s.onlyChanges [.reply, .out, .fault, .flash, .host, .ports, .glean, .expo] t)
    ∧ (s.fault.isOpen = false → (∀ x ∈ s.fault.evq, s.fault.enable0.testBit x.id = false) →
      ∃ t, exec .faultCollect s = .next t ∧ t.fault = { s.fault with evq := [] }
        ∧ s.onlyChanges [.reply, .out, .fault, .host, .ports, .glean, .expo] t)
    ∧ (s.fault.isOpen = true →
      ∃ t, exec .faultCollect s = .next t ∧ t.fault = { s.fault with evq := [] }
        ∧ s.onlyChanges [.reply, .out, .fault, .host, .ports, .glean, .expo] t)

/-- Expiry of the grace timer escalates: with ACTION 0 the device enters SAFE, with ACTION 1 LOCKOUT, and the record stays
open, ESCALATED (R325). An ACK of the open record's ID closes it (R324), in LOCKOUT it is DENIED (R325).

exec answers a next state with the command's own effect, under the premises on the state and operands shown, for: GRACE_EXPIRE,
FAULT_ACK. -/
def Obligations.EscalationAndAcknowledgement : Prop :=
  ∀ (s : State) (id : Nat),
    (s.fault.isOpen = true → s.fault.escalated = false → s.fault.left = 0 → s.mode.mode ∈ [.quiet, .run, .degraded] →
      ∃ t, exec .graceExpire s = .next t ∧ t.fault.isOpen = true ∧ t.fault.escalated = true ∧ t.fault.id = s.fault.id
        ∧ t.mode.mode = (if s.fault.actionNow = 0 then Mode.safe else Mode.lockout)
        ∧ s.onlyChanges [.reply, .out, .fault, .mode, .diag, .cells, .survey, .kept, .bal, .host, .ports, .safety, .flash,
            .sweep, .expo, .wire, .glean, .tree] t)
    ∧ (s.reachable = true → s.mode.mode ≠ .lockout → s.fault.isOpen = true → s.fault.id = id → s.fault.left ≠ 0 →
      ∃ t, exec (.faultAck id) s = .next t
        ∧ t.fault = { s.fault with isOpen := false, escalated := false, left := 0, low := false }
        ∧ t.reply = some { status := stOk, value := 0, words := [], bytes := [] }
        ∧ s.onlyChanges [.reply, .out, .fault, .ports, .host, .glean, .expo] t)
    ∧ (s.coreRuns = true → s.mode.mode = .lockout →
      ∃ t, exec (.faultAck id) s = .next t ∧ t.fault.isOpen = s.fault.isOpen ∧ t.fault.id = s.fault.id
        ∧ t.reply = some { status := stDenied, value := 0, words := [], bytes := [] })

/-- The operations of a check unit that no job holds (R329, R330): START of a stopped unit latches and loads, STOP leaves
RESULT, data of 1, 2 or 4 bytes moves the count, CLOSE asks for the outcome, and the outcome compares the count with the
length before it compares the value.

exec answers a next state with the command's own effect, under the premises on the state and operands shown, for: CHECK_START,
CHECK_STOP, CHECK_DATA8, CHECK_DATA16, CHECK_DATA32, CHECK_CLOSE, CHECK_OUTCOME. -/
def Obligations.CheckUnitOperations : Prop :=
  ∀ (s : State) (k v : Nat) (c : CheckSt), s.checks[k]? = some c → c.job = false → s.reachable = true → s.mode.mode ≠ .lockout →
    (c.state = .stopped → exec (.checkStart k) s = .next { s with
        out := [], reply := some { status := stOk, value := 0, words := [], bytes := [] }
        checks := s.checks.set k { c with state := .running, lSel := c.sel, lExpect := c.expect, lLength := c.length, count := 0
                                          reg := if c.customInit = true then c.init % 2 ^ crcWidth c.sel else crcInit c.sel } })
    ∧ (c.state ≠ .stopped → exec (.checkStop k) s = .next { s with
        out := [], reply := some { status := stOk, value := 0, words := [], bytes := [] }
        checks := s.checks.set k { c with state := .stopped, outcome := 5 } })
    ∧ (c.state = .running →
        exec (.checkData8 k v) s = .next { s with
          out := [], reply := some { status := stOk, value := 0, words := [], bytes := [] }
          checks := s.checks.set k { c with reg := (le 1 v).foldl (crcStep c.lSel) c.reg, count := c.count + 1 } }
        ∧ exec (.checkData16 k v) s = .next { s with
          out := [], reply := some { status := stOk, value := 0, words := [], bytes := [] }
          checks := s.checks.set k { c with reg := (le 2 v).foldl (crcStep c.lSel) c.reg, count := c.count + 2 } }
        ∧ exec (.checkData32 k v) s = .next { s with
          out := [], reply := some { status := stOk, value := 0, words := [], bytes := [] }
          checks := s.checks.set k { c with reg := (le 4 v).foldl (crcStep c.lSel) c.reg, count := c.count + 4 } }
        ∧ exec (.checkClose k) s = .next { s with
          out := [], reply := some { status := stOk, value := 0, words := [], bytes := [] }
          checks := s.checks.set k { c with state := .stopping } })
    ∧ (c.state = .stopping → ∃ t, exec (.checkOutcome k) s = .next t
        ∧ t.checks = s.checks.set k { c with state := .stopped, result := crcFinal c.lSel c.reg
                                             outcome := if c.count < c.lLength then 3 else if c.lLength < c.count then 4
                                               else if crcFinal c.lSel c.reg = c.lExpect % 2 ^ crcWidth c.lSel then 1 else 2 }
        ∧ (c.count = c.lLength → crcFinal c.lSel c.reg = c.lExpect % 2 ^ crcWidth c.lSel → t.fault = s.fault)
        ∧ ((c.count ≠ c.lLength ∨ crcFinal c.lSel c.reg ≠ c.lExpect % 2 ^ crcWidth c.lSel) →
            t.fault.evq = s.fault.evq ++ [{ id := 17, item := k, time := s.clk.tt, mode := s.mode.mode.code }])
        ∧ s.onlyChanges [.reply, .out, .checks, .fault] t)

/-! ### Supplies, the reserve cell charger, sharing -/

/-- A soft-start ramps to precharge below the precharge level and to constant current at ICHG from it (R358): after t_CHS
from VPWR good, at recharge, and on the retry after MISSING, unless the last reading of RESTS is outside the window.

The steps of a charge (R358, R359): the precharge level starts CC, the CV voltage CV, termination and the minute after
DONE a detection pulse, and a pulse that falls by less than 200 mV finds the cell.

exec answers a next state with the command's own effect, under the premises on the state and operands shown, for: CHARGER_SOFT_START,
CV_REACHED, CHARGE_TERMINATION, DETECTION_PULSE_END, PERIODIC_DETECTION, RECHARGE, MISSING_RETRY, PRECHARGE_LEVEL_REACHED. -/
def Obligations.ChargerStartsAndAdvances : Prop :=
  (∀ (s : State) (v : Nat), s.mayCharge = true →
    (s.power.resTemp = -32768 ∨ (windowLo s.power.chem ≤ s.power.resTemp ∧ s.power.resTemp ≤ windowHi s.power.chem)) →
    ((s.power.chg = .wait → s.power.vpwrGood = true → 50 * ttMs ≤ s.clk.wall - s.power.goodAt →
        exec (.chargerSoftStart v) s = .next { s with reply := none, out := [], power :=
          { s.power with vresMv := v, since := s.clk.wall
                         chg := if v < preLevel s.power.chem then .precharge else .cc
                         nowMa := if v < preLevel s.power.chem then s.power.preMa else s.power.ichgNow
                         fastFrom := if v < preLevel s.power.chem then s.power.fastFrom else s.clk.wall } })
      ∧ (s.power.chg = .done → v + 100 < cvLevel s.power.chem s.power.vcv →
        exec (.recharge v) s = .next { s with reply := none, out := [], power :=
          { s.power with vresMv := v, since := s.clk.wall
                         chg := if v < preLevel s.power.chem then .precharge else .cc
                         nowMa := if v < preLevel s.power.chem then s.power.preMa else s.power.ichgNow
                         fastFrom := if v < preLevel s.power.chem then s.power.fastFrom else s.clk.wall } })
      ∧ (s.power.chg = .fault → s.power.missed = true → 10 * ttS ≤ s.clk.wall - s.power.since →
        exec (.missingRetry v) s = .next { s with reply := none, out := [], power :=
          { s.power with vresMv := v, since := s.clk.wall
                         chg := if v < preLevel s.power.chem then .precharge else .cc
                         nowMa := if v < preLevel s.power.chem then s.power.preMa else s.power.ichgNow
                         fastFrom := if v < preLevel s.power.chem then s.power.fastFrom else s.clk.wall } })))
  ∧
  (∀ (s : State) (fall : Nat),
    (s.power.chg = .precharge → exec .prechargeLevelReached s = .next { s with reply := none, out := [], power :=
      { s.power with chg := .cc, vresMv := preLevel s.power.chem, since := s.clk.wall, fastFrom := s.clk.wall
                     nowMa := s.power.ichgNow } })
    ∧ (s.power.chg = .cc → exec .cvReached s = .next { s with reply := none, out := [], power :=
      { s.power with chg := .cv, vresMv := cvLevel s.power.chem s.power.vcv, since := s.clk.wall } })
    ∧ (s.power.chg = .cv → 100 * ttMs ≤ s.clk.wall - s.power.since →
      exec .chargeTermination s = .next { s with reply := none, out := [], power :=
        { s.power with chg := .detect, nowMa := 0, since := s.clk.wall, vinregAct := false } })
    ∧ (s.power.chg = .done → 60 * ttS ≤ s.clk.wall - s.power.since →
      exec .periodicDetection s = .next { s with reply := none, out := [], power :=
        { s.power with chg := .detect, nowMa := 0, since := s.clk.wall, vinregAct := false } })
    ∧ (s.power.chg = .detect → 20 * ttMs ≤ s.clk.wall - s.power.since → fall < 200 →
      exec (.detectionPulseEnd fall) s = .next { s with reply := none, out := [], power :=
        { s.power with chg := .done, nowMa := 0, since := s.clk.wall, vinregAct := false, present := true, missed := false } }))

/-- The charger's faults (R360): a short after 10 s of precharge, the precharge limit of 30 min and the fast charge limit
of TIMEOUT_H turn the charger off and hold it; no cell in the detection pulse turns it off as MISSING; each bit that was
not latched raises its source (19, 20, 21).

A reading of RESTS outside the chemistry's window suspends a charger that works, and inside it changes only the reading
(R358); VSHR protection opens the switch and a second later closes it again (R365); with VPWR gone the charger runs from
VAUX at no more than 40 mA, on retained settings alone (R362), at a VRES that no command brings, for which the model takes a free word
(its choice, log 42); the contact timer's end puts the safe defaults in force (R364).

exec answers a next state with the command's own effect, under the premises on the state and operands shown, for:
PRECHARGE_SHORT_CHECK, PRECHARGE_TIMEOUT, DETECTION_PULSE_END, FAST_CHARGE_TIMEOUT, RESTS_WINDOW_CHANGE, SHARE_OVER, SHARE_RETRY,
SHARE_CHARGE, CHG_DEFAULTS. -/
def Obligations.ChargerFaultsWindowAndSharing : Prop :=
  (∀ (s : State) (v : Nat), s.mode.mode ≠ .ship → s.mode.mode ≠ .keep →
    (s.power.chg = .precharge → 10 * ttS ≤ s.clk.wall - s.power.since → v < 1000 →
      ∃ t, exec (.prechargeShortCheck v) s = .next t ∧ s.onlyChanges [.reply, .out, .power, .fault] t
        ∧ t.power = { s.power with vresMv := v, chg := .fault, nowMa := 0, since := s.clk.wall, vinregAct := false
                                   fShort := true, hold := true }
        ∧ t.fault.evq = s.fault.evq ++ (if s.power.fShort = true then [] else [{ id := 20, item := 0, time := s.clk.tt, mode := s.mode.mode.code }]))
    ∧ (s.power.chg = .precharge → 1800 * ttS ≤ s.clk.wall - s.power.since → v < preLevel s.power.chem →
      ∃ t, exec (.prechargeTimeout v) s = .next t ∧ s.onlyChanges [.reply, .out, .power, .fault] t
        ∧ t.power = { s.power with vresMv := v, chg := .fault, nowMa := 0, since := s.clk.wall, vinregAct := false
                                   fTimeout := true, hold := true }
        ∧ t.fault.evq = s.fault.evq ++ (if s.power.fTimeout = true then [] else [{ id := 21, item := 0, time := s.clk.tt, mode := s.mode.mode.code }]))
    ∧ ((s.power.chg = .cc ∨ s.power.chg = .cv) → s.power.timeoutH * 3600 * ttS < s.clk.wall - s.power.fastFrom →
      ∃ t, exec .fastChargeTimeout s = .next t ∧ s.onlyChanges [.reply, .out, .power, .fault] t
        ∧ t.power = { s.power with chg := .fault, nowMa := 0, since := s.clk.wall, vinregAct := false
                                   fTimeout := true, hold := true }
        ∧ t.fault.evq = s.fault.evq ++ (if s.power.fTimeout = true then [] else [{ id := 21, item := 0, time := s.clk.tt, mode := s.mode.mode.code }]))
    ∧ (s.power.chg = .detect → 20 * ttMs ≤ s.clk.wall - s.power.since → 200 ≤ v →
      ∃ t, exec (.detectionPulseEnd v) s = .next t ∧ s.onlyChanges [.reply, .out, .power, .fault] t
        ∧ t.power = { s.power with chg := .fault, nowMa := 0, since := s.clk.wall, vinregAct := false
                                   fMissing := true, missed := true, present := false }
        ∧ t.fault.evq = s.fault.evq ++ (if s.power.fMissing = true ∨ s.power.missed = true then []
            else [{ id := 19, item := 0, time := s.clk.tt, mode := s.mode.mode.code }])))
  ∧
  (∀ (s : State) (x : Int) (w v : Nat),
    (s.unpowered = false → s.power.chem ≠ 0 → s.power.chg = .cc → (x < windowLo s.power.chem ∨ windowHi s.power.chem < x) →
      exec (.restsWindowChange (some x)) s = .next { s with reply := none, out := [], power :=
        { s.power with resTemp := x, ntc := false, chg := .suspended, nowMa := 0, since := s.clk.wall, vinregAct := false } })
    ∧ (s.unpowered = false → s.power.chem ≠ 0 → s.power.chg = .cc → windowLo s.power.chem ≤ x → x ≤ windowHi s.power.chem →
      exec (.restsWindowChange (some x)) s = .next { s with reply := none, out := [], power := { s.power with resTemp := x, ntc := false } })
    ∧ (s.power.shareOn = true →
      exec .shareOver s = .next { s with reply := none, out := [], power :=
        { s.power with shareOn := false, shareMa := 0, fShare := true, shareAt := some s.clk.wall } })
    ∧ (s.power.shareAt = some w → s.shareAllowed = true → ttS ≤ s.clk.wall - w →
      exec .shareRetry s = .next { s with reply := none, out := [], power := { s.power with shareOn := true, shareAt := none } })
    ∧ (s.power.vpwrGood = false → s.power.onVaux = false → s.power.resOpen = false → s.power.retained = true →
        s.power.en = true → s.power.chem ≠ 0 → s.power.hold = false → s.power.ntc = false →
        (s.power.resTemp = -32768 ∨ (windowLo s.power.chem ≤ s.power.resTemp ∧ s.power.resTemp ≤ windowHi s.power.chem)) →
        v = (Config.freeWord s.free).toNat % 4096 →
      exec .shareCharge s = .next { s with reply := none, out := [], free := s.free + 1, power :=
        { s.power with vauxSh := true, vauxSt := false, onVaux := true, vresMv := v, since := s.clk.wall
                       chg := if v < preLevel s.power.chem then .precharge else .cc
                       nowMa := if v < preLevel s.power.chem then max 5 (min 40 s.power.ichg / 10) else min 40 s.power.ichg
                       fastFrom := if v < preLevel s.power.chem then s.power.fastFrom else s.clk.wall } })
    ∧ (s.power.vpwrGood = false → s.power.onVaux = false → s.power.retained = false →
      exec .shareCharge s = .next { s with reply := none, out := [], power := { s.power with vauxSh := true, vauxSt := false } })
    ∧ (s.reachable = true → s.power.contactDone = false → s.power.tChg * ttS ≤ s.clk.wall - s.power.contact →
      ∃ t, exec .chgDefaults s = .next t ∧ s.onlyChanges [.reply, .out, .power, .flash, .free] t
        ∧ t.power.ichg = 10 ∧ t.power.vcv = 0 ∧ t.power.vinreg = 4500 ∧ t.power.timeoutH = 10 ∧ t.power.defaults = true))

/-- A supply condition of Table 13.3 is listed until it ends, and raises FLT_SUPPLY (18) with its item when none was listed
(R352, R353); HVIN falling is one while HVIN feeds the stage, VAUX falling on a station-mounted device, and each stops the stage
that it alone feeds (R348); VAUX leaving the share range ends the charge from it (R362); a tier powered after release is
condition 10.

exec answers a next state with the command's own effect, under the premises on the state and operands shown, for: VAUX_LOSS,
SUPPLY_OUT_OF_LIMITS, TIER_POWERED_AFTER_RELEASE, SUPPLY_RETURN. -/
def Obligations.SupplyConditions : Prop :=
  ∀ (s : State) (item tier : Nat),
    (s.unpowered = false → 1 ≤ item → item ≤ 4 → item ∉ s.power.supply →
      ∃ t, exec (.supplyOutOfLimits item) s = .next t ∧ s.onlyChanges [.reply, .out, .power, .fault] t
        ∧ t.power = { s.power with supply := s.power.supply ++ [item] }
        ∧ t.fault.evq = s.fault.evq ++ (if s.power.supply = [] then [{ id := 18, item := item, time := s.clk.tt, mode := s.mode.mode.code }] else []))
    ∧ (s.unpowered = false → s.mode.station = false → s.power.hvinOk = true → s.power.stageHv = true → 8 ∉ s.power.supply →
      ∃ t, exec (.supplyOutOfLimits 8) s = .next t ∧ s.onlyChanges [.reply, .out, .power, .fault] t
        ∧ t.power = { s.power with supply := s.power.supply ++ [8], hvinOk := false, stageOn := s.power.stageOn && s.power.vauxSt })
    ∧ (s.mode.mode ≠ .ship → item ≠ 8 → item ≠ 9 →
      exec (.supplyReturn item) s = .next { s with reply := none, out := [], power :=
        { s.power with supply := s.power.supply.erase item } })
    ∧ (s.mode.mode ≠ .ship → s.power.onVaux = false →
      ∃ t, exec (.supplyReturn 9) s = .next t ∧ s.onlyChanges [.reply, .out, .power] t ∧ t.power.vauxSt = true
        ∧ t.power.vauxSh = false ∧ t.power.supply = s.power.supply.erase 9)
    ∧ (s.power.vauxSt = true → (s.mode.station = false ∨ s.unpowered = true) →
      exec .vauxLoss s = .next { s with reply := none, out := [], power :=
        { s.power with vauxSt := false, stageOn := s.power.stageOn && s.power.stageHv && s.power.hvinOk } })
    ∧ (s.power.vauxSt = true → s.mode.station = true → s.unpowered = false → 9 ∉ s.power.supply →
      ∃ t, exec .vauxLoss s = .next t ∧ s.onlyChanges [.reply, .out, .power, .fault] t
        ∧ t.power = { s.power with vauxSt := false, supply := s.power.supply ++ [9]
                                   stageOn := s.power.stageOn && s.power.stageHv && s.power.hvinOk })
    ∧ (s.power.vauxSt = false → s.power.vauxSh = true → s.power.onVaux = true →
      exec .vauxLoss s = .next { s with reply := none, out := [], power :=
        { s.power with chg := .off, nowMa := 0, since := s.clk.wall, vinregAct := false, onVaux := false, vauxSh := false } })
    ∧ (s.reachable = true → 1 ≤ tier → tier ≤ 3 → s.ident.tiers < tier → 10 ∉ s.power.supply →
      ∃ t, exec (.tierPoweredAfterRelease tier) s = .next t ∧ s.onlyChanges [.reply, .out, .power, .fault] t
        ∧ t.power = { s.power with supply := s.power.supply ++ [10] } ∧ t.ident.tiers = s.ident.tiers)

/-- The power path (R354–R356, R366–R368): VPWR failing leaves the device in KEEP with reset cause 4, VPWR good starts BIST,
the loss of the keep island is cause 1, a wake out of SHIP cause 2 (a VAUX that was there at entry is none), a long press cause 3,
and of Table 14.3 SHIP ends in BIST once VPWR is good. VPWR failing, the loss of the keep island, the wake and the long press are
resets: each puts the configuration shadow back to what reset leaves and keeps the identity.

Small events of the power path: VPWR near the reserve cell's voltage hands the keep island to it (R354), a dip below
V_PG restarts the t_PG count (R355), and HVIN or VAUX starts the stage of an unpowered device, HVIN as its input whenever it is
there (R348).

exec answers a next state with the command's own effect, under the premises on the state and operands shown, for: VPWR_FAIL,
KEEP_HANDOVER, VPWR_BELOW_PG, VPWR_GOOD, KEEP_POWER_ON_RESET, SHIP_WAKE, LONG_PRESS, LONG_PRESS_END, PRE_REGULATOR_START. -/
def Obligations.PowerPathKeepIslandAndStage : Prop :=
  (∀ (s : State) (byWake : Bool) (w : Nat),
    (s.power.vpwrGood = true → s.unpowered = false →
      ∃ t, exec .vpwrFail s = .next t ∧ t.mode.mode = .keep ∧ t.mode.cause = 4 ∧ t.power.vpwrGood = false
        ∧ t.clk.rtc = s.clk.rtc ∧ t.ident.uid = s.ident.uid ∧ t.flash.shadow = State.reset.flash.shadow
        ∧ (s.flash.queue = [] → t.flash.log = s.flash.log) ∧ t.safety.block = s.safety.nv.block)
    ∧ (s.mode.mode ∈ [.keep, .ship, .bist] → s.power.vpwrGood = false → s.power.stageOn = true → s.power.lpAt = none →
        2 * ttMs ≤ s.clk.wall - s.power.pgFrom →
      ∃ t, exec .vpwrGood s = .next t ∧ t.mode.mode = .bist ∧ t.power.vpwrGood = true ∧ t.power.keepOnRes = false
        ∧ s.onlyChanges [.reply, .out, .power, .mode, .bist, .flash, .host] t)
    ∧ (s.mode.mode = .keep → s.power.vpwrGood = false → s.mode.cause ≠ 2 → s.mode.cause ≠ 3 →
      ∃ t, exec .keepPowerOnReset s = .next t ∧ t.mode.mode = .keep ∧ t.mode.cause = 1 ∧ t.clk.rtc = 0
        ∧ t.kept.snapshot = none ∧ t.ident.uid = s.ident.uid ∧ t.flash.shadow = State.reset.flash.shadow)
    ∧ (s.mode.mode = .ship → s.power.stageOn = false → s.power.lpAt = none → (byWake = true ∨ s.power.vauxSt = false) →
      ∃ t, exec (.shipWake byWake) s = .next t ∧ t.mode.mode = .ship ∧ t.mode.cause = 2
        ∧ t.mode.wakeSource = (if byWake = true then 3 else 4) ∧ t.power.resOpen = false ∧ t.power.stageOn = true
        ∧ t.ident.uid = s.ident.uid ∧ t.flash.shadow = State.reset.flash.shadow)
    ∧ (s.mode.mode = .ship → byWake = false → s.power.vauxSt = true →
      exec (.shipWake byWake) s = .next { s with reply := none, out := [] })
    ∧ (∃ t, exec .longPress s = .next t ∧ t.mode.mode = (if s.mode.mode = .keep ∨ s.mode.mode = .ship then s.mode.mode else .bist)
        ∧ t.mode.cause = 3 ∧ t.power.resOpen = true
        ∧ t.power.stageOn = false ∧ t.power.lpAt = some s.clk.wall ∧ t.clk.rtc = 0
        ∧ t.ident.uid = s.ident.uid ∧ t.flash.shadow = State.reset.flash.shadow)
    ∧ (s.power.lpAt = some w → 1500 * ttMs ≤ s.clk.wall - w →
      exec .longPressEnd s = .next { s with reply := none, out := [], power :=
        { s.power with resOpen := false, stageOn := s.power.hvinOk || s.power.vauxSt, lpAt := none, pgFrom := s.clk.wall
                       stageHv := s.power.hvinOk } }))
  ∧
  (∀ (s : State) (vpwr vres : Nat) (vaux : Bool),
    (s.mode.mode = .keep → s.power.keepOnRes = false → s.power.resOpen = false → vpwr < vres + 50 →
      exec (.keepHandover vpwr vres) s = .next { s with reply := none, out := [], power :=
        { s.power with keepOnRes := true, vresMv := vres } })
    ∧ (s.power.vpwrGood = false →
      exec .vpwrBelowPg s = .next { s with reply := none, out := [], power := { s.power with pgFrom := s.clk.wall } })
    ∧ (s.mode.mode = .keep → s.power.vpwrGood = false → s.power.lpAt = none → s.power.resOpen = false → s.power.onVaux = false →
      exec (.preRegulatorStart vaux) s = .next { s with reply := none, out := [], power :=
        { s.power with stageOn := true, vauxSt := s.power.vauxSt || vaux, vauxSh := s.power.vauxSh && !vaux
                       hvinOk := s.power.hvinOk || !vaux, stageHv := !vaux || (s.power.stageHv && s.power.hvinOk)
                       supply := s.power.supply.erase (if vaux = true then 9 else 8)
                       pgFrom := if s.power.stageOn = true then s.power.pgFrom else s.clk.wall } }))

/-! ### Flash, commits, configuration, ledger -/

/-- The phases of a commit (R412–R415): ERASING ends with every covered sector of the inactive bank erased and LOADING
begun; VERIFYING ends in RECORDING where header, CRC and signature hold, and FAILED with its reason where the header (2), the CRC (3) or
the signature (4) does not or, in the model, where a word that cannot be corrected is met (5, log 135); both records written end it COMMITTED, active
at the next BIST; the load timeout (reason 6) and ABANDON (reason 7) end it ABANDONED (8), ABANDON with no record left that names the inactive bank
(R414): that both records then name the active one is the model's choice (log 110).

While a commit is open for a transaction the device reports PENDING every T_RESP / 4 (R411): a PENDING frame with the transaction's
TAG joins those for the ROOT on the port that leads there (shown on one that trains), the timer restarts and nothing of the commit changes.

exec answers a next state with the command's own effect, under the premises on the state and operands shown, for: COMMIT_ERASE_DONE,
COMMIT_VERIFY_DONE, COMMIT_RECORD_DONE, LOAD_IDLE_TIMEOUT, FLASH_ABANDON, COMMIT_PENDING_TIMER. -/
def Obligations.CommitPhasesAndReports : Prop :=
  (∀ (s : State) (a : Nat), s.coreRuns = true → s.flash.commit.isOpen = true → s.flash.commit.tag = none → s.flash.commit.rx = [] →
    (s.flash.commit.state = 1 → s.memWf → a < 65536 * ((s.flash.commit.length + 65535) / 65536) →
      ∃ t, exec .commitEraseDone s = .next t ∧ t.flash.commit.state = 2 ∧ t.flash.commit.isOpen = true
        ∧ mget flashByte (t.bank s.inactive) a = flashByte ∧ t.bank s.flash.active = s.bank s.flash.active
        ∧ (s.flash.queue = [] → s.safety.parishQ = [] → s.onlyChanges [.reply, .out, .flash, .wdog, .ports, .host, .glean, .expo] t))
    ∧ (s.flash.commit.state = 3 → s.flash.wear = [] → headerOk s (s.bank s.inactive) = true →
      (crc32c (mread flashByte (s.bank s.inactive) 0 s.flash.commit.length) ≠ s.flash.commit.crc →
        ∃ t, exec .commitVerifyDone s = .next t ∧ t.flash.commit.state = 6 ∧ t.flash.commit.reason = 3 ∧ t.flash.commit.isOpen = false
          ∧ t.flash.recA = s.flash.recA ∧ t.flash.recB = s.flash.recB)
      ∧ (crc32c (mread flashByte (s.bank s.inactive) 0 s.flash.commit.length) = s.flash.commit.crc →
          signatureOk s (s.bank s.inactive) = false →
        ∃ t, exec .commitVerifyDone s = .next t ∧ t.flash.commit.state = 6 ∧ t.flash.commit.reason = 4 ∧ t.flash.commit.isOpen = false
          ∧ t.flash.recA = s.flash.recA ∧ t.flash.recB = s.flash.recB))
    ∧ (s.flash.commit.state = 3 → s.flash.wear = [{ area := s.inactive, word := a, bad := true }] → a < 64 →
      ∃ t, exec .commitVerifyDone s = .next t ∧ t.flash.commit.state = 6 ∧ t.flash.commit.reason = 5 ∧ t.flash.commit.isOpen = false
        ∧ t.flash.recA = s.flash.recA ∧ t.flash.recB = s.flash.recB)
    ∧ (s.flash.commit.state = 3 → s.flash.wear = [] → headerOk s (s.bank s.inactive) = false →
      ∃ t, exec .commitVerifyDone s = .next t ∧ t.flash.commit.state = 6 ∧ t.flash.commit.reason = 2
        ∧ t.flash.commit.isOpen = false ∧ t.flash.recA = s.flash.recA ∧ t.flash.recB = s.flash.recB
        ∧ (s.mode.haltHeld = false → s.onlyChanges [.reply, .out, .flash, .wdog, .mode, .host, .ports, .glean, .expo] t))
    ∧ (s.flash.commit.state = 3 → s.flash.wear = [] → headerOk s (s.bank s.inactive) = true →
        crc32c (mread flashByte (s.bank s.inactive) 0 s.flash.commit.length) = s.flash.commit.crc →
        signatureOk s (s.bank s.inactive) = true → s.flash.erases = [] →
      ∃ t, exec .commitVerifyDone s = .next t ∧ t.flash.commit = { s.flash.commit with state := 4, recA := false }
        ∧ t.flash.recA = none ∧ t.flash.recB = s.flash.recB ∧ t.wdog = { s.wdog with erasing := some s.clk.wall }
        ∧ s.onlyChanges [.reply, .out, .flash, .wdog, .ports, .host, .glean, .expo] t)
    ∧ (s.flash.commit.state = 4 →
      ∃ t, exec .commitRecordDone s = .next t ∧ t.flash.commit.state = 5 ∧ t.flash.commit.reason = 0
        ∧ t.flash.commit.isOpen = false ∧ t.flash.recA = t.flash.recB ∧ t.flash.recA ≠ none
        ∧ t.flash.active = s.flash.active ∧ t.bist.cur.cuts = 0
        ∧ (s.mode.haltHeld = false → s.onlyChanges [.reply, .out, .flash, .wdog, .mode, .host, .ports, .glean, .expo, .bist] t))
    ∧ (s.flash.commit.state = 2 → s.flash.loadIdle * ttS ≤ s.clk.wall - s.flash.commit.lastPiece →
      ∃ t, exec .loadIdleTimeout s = .next t ∧ t.flash.commit.state = 8 ∧ t.flash.commit.reason = 6
        ∧ t.flash.commit.isOpen = false ∧ t.flash.recA = s.flash.recA ∧ t.flash.recB = s.flash.recB
        ∧ (s.mode.haltHeld = false → s.onlyChanges [.reply, .out, .flash, .wdog, .mode, .host, .ports, .glean, .expo] t))
    ∧ (s.reachable = true → s.mode.mode ≠ .lockout →
      ∃ t, exec .flashAbandon s = .next t ∧ t.flash.commit.state = 8 ∧ t.flash.commit.reason = 7
        ∧ t.flash.commit.isOpen = false
        ∧ (s.flash.commit.state ≠ 4 ∨ s.flash.commit.recA = false → t.flash.recA = s.flash.recA ∧ t.flash.recB = s.flash.recB)
        ∧ (s.flash.commit.state = 4 → s.flash.commit.recA = true →
            t.flash.recA = t.flash.recB ∧ t.flash.recA.map CommitRec.active = some s.flash.active)
        ∧ (s.mode.haltHeld = false → s.onlyChanges [.reply, .out, .flash, .wdog, .mode, .host, .ports, .glean, .expo] t)))
  ∧
  (∀ (s : State) (g q : Nat), s.coreRuns = true → s.flash.commit.isOpen = true → s.flash.commit.tag = some g →
    s.flash.commit.tResp * ttMs / 4 ≤ s.clk.wall - s.flash.commit.lastPending →
    ∃ t, exec .commitPendingTimer s = .next t
      ∧ t.flash = { s.flash with commit := { s.flash.commit with lastPending := s.clk.wall } }
      ∧ (s.route 0 = .out q → s.trains q = true → (t.port q).txq.control = (s.port q).txq.control
          ++ [{ frame := { typ := 6, cls := 1, hasScope := false, dest := 0, src := s.tree.pos, depth := 0, tag := g, payload := [] }
                src := none }])
      ∧ s.onlyChanges [.reply, .out, .flash, .ports, .glean, .host, .expo] t)

/-- CONFIG_SAVE writes the shadow over the older copy with SEQ one above the newer (R420); the data window reads and
writes the shadow at its index and steps it, wrapping after word 1,022; every word of the saved copy but SEQ and the CRC is the shadow's; COMMIT_LOADED starts the verification of what the
debug port programmed (R424). A saved copy is taken at the next BIST, not now.

One queued entry is programmed at a time, the oldest first, and none during an erase (R408): a ledger entry goes to the end of the
ledger (R416), a parish entry to the end of the parish register, which keeps the newest 256 (R292); an entry that opens a sector of
its ring starts the erase of the next one where that holds old slots; which entry opens a sector is the model's choice (log 111).

exec answers a next state with the command's own effect, under the premises on the state and operands shown, for: CONFIG_SAVE,
COMMIT_LOADED, CONFIG_DATA_READ, CONFIG_DATA_WRITE, LEDGER_ENTRY_PROGRAMMED, PARISH_ENTRY_PROGRAMMED. -/
def Obligations.ConfigurationShadowAndQueuedEntries : Prop :=
  (∀ (s : State) (v : Nat), s.reachable = true → s.mode.mode ≠ .lockout →
    (s.flash.commit.isOpen = false → cfgOk s.flash.cfgA = true → cfgOk s.flash.cfgB = true →
        s.flash.cfgB.getD 1 0 ≤ s.flash.cfgA.getD 1 0 → s.flash.shadow.length = 1024 → s.flash.erases = [] →
      ∃ t, exec .configSave s = .next t ∧ s.onlyChanges [.reply, .out, .flash, .wdog] t
        ∧ t.flash.cfgA = s.flash.cfgA ∧ t.flash.cfgB.getD 1 0 = (s.flash.cfgA.getD 1 0 + 1) % 2 ^ 32
        ∧ (∀ k < 1023, k ≠ 1 → t.flash.cfgB.getD k 0 = s.flash.shadow.getD k 0) ∧ cfgOk t.flash.cfgB = true
        ∧ t.flash.shadow = s.flash.shadow ∧ t.wdog = { s.wdog with erasing := some s.clk.wall })
    ∧ (∃ t, exec .configDataRead s = .next t ∧ s.onlyChanges [.reply, .out, .flash] t
        ∧ t.reply = some { status := stOk, value := s.flash.shadow.getD s.flash.cfgIndex 0
                           words := [s.flash.shadow.getD s.flash.cfgIndex 0], bytes := [] }
        ∧ t.flash = { s.flash with cfgIndex := if 1022 ≤ s.flash.cfgIndex then 0 else s.flash.cfgIndex + 1 })
    ∧ (s.flash.commit.isOpen = false → s.flash.cfgIndex ≠ 1 → s.flash.cfgIndex < 1023 →
      exec (.configDataWrite v) s = .next { s with
        out := [], reply := some { status := stOk, value := 0, words := [], bytes := [] }
        flash := { s.flash with shadow := s.flash.shadow.set s.flash.cfgIndex v
                                cfgIndex := if 1022 ≤ s.flash.cfgIndex then 0 else s.flash.cfgIndex + 1 } })
    ∧ (s.flash.commit.isOpen = false → s.flash.cfgIndex = 1 →
      exec (.configDataWrite v) s = .next { s with
        out := [], reply := some { status := stDenied, value := 0, words := [], bytes := [] } })
    ∧ (s.ident.debugLock = false → s.flash.commit.isOpen = false →
      ∃ t, exec .commitLoaded s = .next t ∧ t.flash.commit.isOpen = true ∧ t.flash.commit.state = 3
        ∧ t.flash.commit.length = imageLength (s.bank s.inactive) ∧ t.flash.commit.tag = none
        ∧ s.onlyChanges [.reply, .out, .flash, .dbg, .ports, .host, .glean, .expo] t))
  ∧
  (∀ (s : State) (e : LedgerEntry) (q : List LedgerEntry) (w : ParishWait) (p : List ParishWait),
    (s.coreRuns = true → s.flashFree = true → s.flash.queue = e :: q → slotsOf (s.flash.log ++ [e]) ≤ 4096 →
      ∃ t, exec .ledgerEntryProgrammed s = .next t ∧ s.onlyChanges [.reply, .out, .flash, .wdog] t
        ∧ t.flash = { s.flash with queue := q, log := s.flash.log ++ [e], logAt := s.flash.logAt + e.slots
                                   erases := if opensSector 128 34 s.flash.logAt e.slots = true then [.data] else [] }
        ∧ t.wdog.erasing = (if opensSector 128 34 s.flash.logAt e.slots = true then some s.clk.wall else s.wdog.erasing))
    ∧ (s.flashFree = false → exec .ledgerEntryProgrammed s = .next { s with reply := none, out := [] })
    ∧ (s.coreRuns = true → s.flashFree = true → s.safety.parishQ = w :: p → w.tag = none →
      ∃ t, exec .parishEntryProgrammed s = .next t
        ∧ s.onlyChanges [.reply, .out, .safety, .flash, .wdog, .ports, .host, .glean, .expo] t
        ∧ t.flash = { s.flash with erases := if opensSector 64 5 (w.entry.seq - 1) 1 = true then [.data] else [] }
        ∧ t.safety = { s.safety with parishQ := p
                                     parish := (s.safety.parish ++ [w.entry]).drop ((s.safety.parish ++ [w.entry]).length - 256) }))

/-! ### The debug port -/

/-- What the port reads (R422, R423): IDCODE gives DEVICE, SILICON and the port's version, and answers in BIST too; a word
of a code bank is read little-endian; a granary word that the port wrote reads back, one of a bank not used since it was
cleared is 0 (R336), and any other is a free value (the model's choice, log 51). IDCODE and FUSE carry an ADDR that CHK alone covers
(log 93). The device drives STATUS 01, the word and its CRC-4; an operation whose CHK differs is refused with code 8, and a blown DEBUG_LOCK leaves DIO
alone.

What the port writes (R423, R424, R428). GRANARY_WRITE stores four bytes, lowest first, and no other. FLASH_ERASE of the
inactive bank, whose CHK covers no DATA in the model (log 93), erases the 64 KiB sector and nothing else. FLASH_PROGRAM keeps a word in the page buffer; the last word of a
page programs what the buffer holds. A fuse blown is in force from the next reset (R421).

HALT, where no trigger that goes first is due, takes the device to HALTED, remembering the mode it returns to, and RESUME returns
it (R376, R378, R425). STEP outside HALTED does nothing but answer; in HALTED it runs one job, here a FORWARD job, on the working gleaner
that is idle, with its delivery, and no other gleaner, job or mode changes; without a working gleaner it runs none. RESET resets with
cause 8 (R425), and a match of an enabled parameter breakpoint halts and records which comparator it was (R426).

exec answers a next state with the command's own effect, under the premises on the state and operands shown, for: DEBUG_HALT,
DEBUG_RESUME, DEBUG_STEP, DEBUG_RESET, BREAKPOINT_HIT, GRANARY_READ, GRANARY_WRITE, FLASH_READ, FLASH_PROGRAM, FLASH_ERASE, FUSE,
IDCODE. -/
def Obligations.DebugPortOperations : Prop :=
  (∀ (s : State) (addr chk : Nat) (a b c d : Byte),
    (s.ident.debugLock = true → exec (.granaryRead addr chk) s = .next { s with
        out := [], reply := some { status := stSilent, value := 0, words := [], bytes := [] } })
    ∧ (s.ident.debugLock = false → s.mode.mode ∉ [.ship, .keep, .dormant] → chk ≠ dbgChk 3 addr none →
      exec (.granaryRead addr chk) s = .next { s with out := [.dio [false, false]], dbg := { s.dbg with err := 8 }
                                                      reply := some { status := 8, value := 0, words := [], bytes := [] } })
    ∧ (s.ident.debugLock = false → s.mode.mode ∉ [.ship, .keep, .dormant] → s.ident.silicon < 256 →
      ∃ t, exec (.idcode ⟨addr, dbgChk 15 addr none⟩) s = .next t ∧ s.onlyChanges [.reply, .out, .dbg, .flash] t
        ∧ t.reply = some { status := stOk, value := 0x4800 + s.ident.silicon * 65536 + 16777216
                           words := [0x4800 + s.ident.silicon * 65536 + 16777216], bytes := [] }
        ∧ t.out = [.dio (dioBits 1 (some (0x4800 + s.ident.silicon * 65536 + 16777216)))])
    ∧ (s.flash.wear = [] → s.ident.debugLock = false → s.mode.mode ∉ [.ship, .keep, .dormant, .bist] → addr < 0x200000 → addr % 4 = 0 →
      ∃ t, exec (.flashRead addr (dbgChk 5 addr none)) s = .next t ∧ s.onlyChanges [.reply, .out, .dbg, .flash] t
        ∧ t.reply = some { status := stOk, value := ofLe (mread flashByte (s.bank (addr / 2 ^ 20)) (addr % 2 ^ 20) 4)
                           words := [ofLe (mread flashByte (s.bank (addr / 2 ^ 20)) (addr % 2 ^ 20) 4)], bytes := [] })
    ∧ (s.ident.debugLock = false → s.mode.mode ∉ [.ship, .keep, .dormant, .bist] → addr < 0x400000 → addr % 4 = 0 →
        gget s.granary addr = some a → gget s.granary (addr + 1) = some b → gget s.granary (addr + 2) = some c → gget s.granary (addr + 3) = some d →
      ∃ t, exec (.granaryRead addr (dbgChk 3 addr none)) s = .next t ∧ s.onlyChanges [.reply, .out, .dbg, .flash] t
        ∧ t.reply = some { status := stOk, value := ofLe [a, b, c, d], words := [ofLe [a, b, c, d]], bytes := [] }
        ∧ t.out = [.dio (dioBits 1 (some (ofLe [a, b, c, d])))])
    ∧ (s.ident.debugLock = false → s.mode.mode ∉ [.ship, .keep, .dormant, .bist] → addr < 0x400000 → addr % 4 = 0 →
        gget s.granary addr = none → s.bankUsed (addr / 0x10000) = true →
      ∃ t, exec (.granaryRead addr (dbgChk 3 addr none)) s = .next t ∧ s.onlyChanges [.reply, .out, .dbg, .flash, .free] t
        ∧ t.free = s.free + 1
        ∧ t.reply = some { status := stOk, value := (Config.freeWord s.free).toNat
                           words := [(Config.freeWord s.free).toNat], bytes := [] })
    ∧ (s.ident.debugLock = false → s.mode.mode ∉ [.ship, .keep, .dormant, .bist] → addr < 0x400000 → addr % 4 = 0 →
        s.bankUsed (addr / 0x10000) = false → gget s.granary addr = none → gget s.granary (addr + 1) = none →
        gget s.granary (addr + 2) = none → gget s.granary (addr + 3) = none →
      ∃ t, exec (.granaryRead addr (dbgChk 3 addr none)) s = .next t ∧ s.onlyChanges [.reply, .out, .dbg, .flash] t
        ∧ t.reply = some { status := stOk, value := 0, words := [0], bytes := [] }))
  ∧
  (∀ (s : State) (addr v x : Nat), s.ident.debugLock = false → s.mode.mode ∉ [.ship, .keep, .dormant, .bist] → s.memWf →
    (addr < 0x400000 → addr % 4 = 0 →
      ∃ t, exec (.granaryWrite addr v (dbgChk 4 addr (some v))) s = .next t ∧ s.onlyChanges [.reply, .out, .dbg, .flash, .granary] t
        ∧ gget t.granary x = (if x = addr then some (BitVec.ofNat 8 v) else if x = addr + 1 then some (BitVec.ofNat 8 (v / 256))
            else if x = addr + 2 then some (BitVec.ofNat 8 (v / 65536))
            else if x = addr + 3 then some (BitVec.ofNat 8 (v / 16777216)) else gget s.granary x))
    ∧ (addr < 0x200000 → addr / 2 ^ 20 = s.inactive → s.flash.active < 2 → s.flash.commit.isOpen = false →
        s.flash.erases = [] →
      ∃ t, exec (.flashErase addr (dbgChk 7 addr none)) s = .next t ∧ s.onlyChanges [.reply, .out, .dbg, .flash, .wdog] t
        ∧ t.wdog.erasing = some s.clk.wall
        ∧ t.bank s.flash.active = s.bank s.flash.active
        ∧ mget flashByte (t.bank s.inactive) x = (if x / 65536 = addr % 2 ^ 20 / 65536 then flashByte
            else mget flashByte (s.bank s.inactive) x))
    ∧ (addr < 0x200000 → addr / 2 ^ 20 = s.inactive → s.flash.active < 2 → s.flash.commit.isOpen = false → addr % 4 = 0 →
        addr % 256 ≠ 0xFC → s.flash.pageAddr = addr / 256 * 256 → s.flash.pageWords = [] →
      ∃ t, exec (.flashProgram addr v (dbgChk 6 addr (some v))) s = .next t ∧ s.onlyChanges [.reply, .out, .dbg, .flash] t
        ∧ t.flash.pageWords = [(addr % 256, v)] ∧ t.flash.bank0 = s.flash.bank0 ∧ t.flash.bank1 = s.flash.bank1)
    ∧ (addr < 0x200000 → addr / 2 ^ 20 = s.inactive → s.flash.active < 2 → s.flash.commit.isOpen = false →
        addr % 256 = 0xFC → s.flash.pageWords = [] →
        mread flashByte (s.bank s.inactive) (addr % 2 ^ 20) 4 = [flashByte, flashByte, flashByte, flashByte] →
      ∃ t, exec (.flashProgram addr v (dbgChk 6 addr (some v))) s = .next t ∧ s.onlyChanges [.reply, .out, .dbg, .flash] t
        ∧ t.flash.pageWords = [] ∧ t.bank s.flash.active = s.bank s.flash.active
        ∧ mget flashByte (t.bank s.inactive) x = (if addr % 2 ^ 20 ≤ x ∧ x < addr % 2 ^ 20 + 4
            then BitVec.ofNat 8 (v / 256 ^ (x - addr % 2 ^ 20)) else mget flashByte (s.bank s.inactive) x))
    ∧ (v < 2 →
      ∃ t, exec (.fuse (0x46550000 + v) ⟨addr, dbgChk 8 addr (some (0x46550000 + v))⟩) s = .next t ∧ s.onlyChanges [.reply, .out, .dbg, .flash, .ident] t
        ∧ t.ident = (if v = 0 then { s.ident with wdtBlown := true } else { s.ident with lockBlown := true })))
  ∧
  (∀ (s : State) (k addr g q : Nat) (b : BreakSt) (j : Job) (r : Rec), s.ident.debugLock = false →
    (s.mode.mode ∈ [.quiet, .run, .degraded, .safe, .lockout] → s.flash.commit.isOpen = false → s.higherDue = false →
      ∃ t, exec .debugHalt s = .next t ∧ t.mode.mode = .halted ∧ t.mode.prior = some s.mode.mode ∧ t.dbg.halted = true
        ∧ t.bal.suspHalt = decide (s.bal.fn = .running) ∧ t.safety.session = none)
    ∧ (s.mode.mode = .halted → s.mode.prior = some .run →
      ∃ t, exec .debugResume s = .next t ∧ t.mode.mode = .run ∧ t.mode.prior = none ∧ t.dbg.halted = false
        ∧ t.bal.suspHalt = false ∧ t.wdog.count = 0)
    ∧ (s.mode.mode ∉ [.halted, .ship, .keep, .dormant, .bist] →
      ∃ t, exec (.debugStep none) s = .next t ∧ s.onlyChanges [.reply, .out, .dbg, .flash, .ports, .host, .glean, .expo] t
        ∧ t.reply = some { status := stOk, value := 0, words := [], bytes := [] } ∧ t.glean.gleaners = s.glean.gleaners
        ∧ t.glean.waiting = s.glean.waiting ∧ t.glean.finished = s.glean.finished ∧ t.dbg.go = s.dbg.go ∧ t.dbg.held = s.dbg.held)
    ∧ (s.coreRuns = true → s.mode.mode = .halted → s.working.find? (fun x => (s.gleaner x).running.isNone) = some g → s.longest = some g →
        (s.gleaner g).deque = [j] → j.kind = .forward → s.glean.gleaners.length = 16 → s.glean.finished = [] → s.glean.waiting = [] →
        s.keyBlocked j = false → s.glean.forwards = [(j.tag, .record r)] → r.intact = true → s.isRoot = false →
        s.forwardGranted j.tag = true → s.route 0 = .out q → q < 4 → s.ports.length = 4 → s.quiet = true →
      ∃ t, exec (.debugStep none) s = .next t ∧ s.onlyChanges [.reply, .out, .dbg, .flash, .ports, .host, .glean, .expo] t
        ∧ t.reply = some { status := stOk, value := 0, words := [], bytes := [] } ∧ (t.gleaner g).running = none ∧ (t.gleaner g).deque = []
        ∧ t.glean.forwards = [] ∧ t.glean.finished = [] ∧ t.glean.waiting = [] ∧ (∀ x < 16, x ≠ g → t.gleaner x = s.gleaner x)
        ∧ t.out.any (fun e => match e with | .long x _ _ f => x == q && f == heldFrame s j.tag r | _ => false) = true)
    ∧ (s.mode.mode = .halted → s.working = [] →
      ∃ t, exec (.debugStep none) s = .next t ∧ s.onlyChanges [.reply, .out, .dbg, .flash, .ports, .host, .glean, .expo] t
        ∧ t.reply = some { status := stOk, value := 0, words := [], bytes := [] } ∧ t.mode.mode = .halted)
    ∧ (s.mode.mode ∉ [.ship, .keep, .dormant, .bist] →
      ∃ t, exec .debugReset s = .next t ∧ t.mode.mode = .bist ∧ t.mode.cause = 8 ∧ t.clk.rtc = s.clk.rtc
        ∧ t.ident.uid = s.ident.uid)
    ∧ (s.coreRuns = true → s.mode.mode ∈ [.quiet, .run, .degraded, .safe, .lockout] → s.flash.commit.isOpen = false → s.higherDue = false →
        s.dbg.brk[k]? = some b →
        b.en = true → b.typ = 2 → b.wo = false → b.value = addr → addr < 0x8000 →
      ∃ t, exec (.breakpointHit k addr false) s = .next t ∧ t.mode.mode = .halted ∧ t.dbg.hit = k ∧ t.dbg.hitValid = true))

/-! ### The safety partition -/

/-- SAFETY_SESSION OPEN, asked of a device that has no host of its own (R286–R288): with the passcode's digest and no lock or
session it opens one, whose id is a free value other than 0, clears the failures and enters the register; with another
passcode it is DENIED and the failure counted; the fifth failure locks the partition for 10 × 2^LEVEL minutes.

exec answers a next state with the command's own effect, under the premises on the state and operands shown, for: SAFETY_SESSION_OPEN. -/
def Obligations.SafetySessionOpens : Prop :=
  ∀ (s : State) (h : Hdr) (p : Nat), s.hasHost = false → s.mode.shipDue = false → s.coreRuns = true →
    s.mode.mode ∈ [.quiet, .run, .survey, .commit, .degraded, .safe] → s.safety.lockEnd = none → s.safety.session = none →
    (sha256 (le 8 p ++ le 8 s.ident.uid) = s.safety.digest →
      ∃ t, exec (.safetySessionOpen h p) s = .next t ∧ s.onlyChanges [.reply, .out, .safety, .free, .flash, .wdog, .ports, .host, .glean, .expo] t
        ∧ t.flash = { s.flash with erases := t.flash.erases } ∧ t.wdog = { s.wdog with erasing := t.wdog.erasing }
        ∧ t.safety.session = some ((Config.freeWord s.free).toNat % (2 ^ 32 - 1) + 1) ∧ t.safety.fails = 0 ∧ t.safety.level = 0
        ∧ t.safety.staged = [] ∧ t.free = s.free + 1 ∧ t.safety.block = s.safety.block
        ∧ t.safety.parishQ.length = s.safety.parishQ.length + 1
        ∧ t.reply = some { status := stOk, value := (Config.freeWord s.free).toNat % (2 ^ 32 - 1) + 1, words := [], bytes := [] })
    ∧ (sha256 (le 8 p ++ le 8 s.ident.uid) ≠ s.safety.digest → s.safety.fails < 4 →
      ∃ t, exec (.safetySessionOpen h p) s = .next t ∧ s.onlyChanges [.reply, .out, .safety, .flash, .wdog, .ports, .host, .glean, .expo] t
        ∧ t.flash = { s.flash with erases := t.flash.erases } ∧ t.wdog = { s.wdog with erasing := t.wdog.erasing }
        ∧ t.safety.session = none ∧ t.safety.fails = s.safety.fails + 1 ∧ t.safety.lockEnd = none
        ∧ t.safety.parishQ.length = s.safety.parishQ.length + 1
        ∧ t.reply = some { status := stDenied, value := 0, words := [], bytes := [] })
    ∧ (sha256 (le 8 p ++ le 8 s.ident.uid) ≠ s.safety.digest → s.safety.fails = 4 →
      ∃ t, exec (.safetySessionOpen h p) s = .next t ∧ s.onlyChanges [.reply, .out, .safety, .flash, .wdog, .ports, .host, .glean, .expo] t
        ∧ t.flash = { s.flash with erases := t.flash.erases } ∧ t.wdog = { s.wdog with erasing := t.wdog.erasing }
        ∧ t.safety.lockEnd = some (s.clk.rtc + 10 * 2 ^ s.safety.level * 60 * 32768) ∧ t.safety.fails = 0
        ∧ t.safety.parishQ.length = s.safety.parishQ.length + 2)

/-- SAFETY_WRITE, SESSION CLOSE and SET_PASSCODE with the open session (R289–R291): a write in range whose OLD is the value in
the session, here also of OV_LIMIT, is staged and applies nothing yet, one with another OLD changes nothing; CLOSE applies a consistent
block and ends the session; a new passcode other than 0 replaces the digest, and 0 does not.

The partition's timers (R287, R288): 120 s without an accepted write end the session and discard what was staged; the
lock ends on the RTC and leaves LEVEL.

exec answers a next state with the command's own effect, under the premises on the state and operands shown, for: SAFETY_SESSION_CLOSE,
SET_PASSCODE, SAFETY_WRITE, SESSION_IDLE_TIMEOUT, AUTHENTICATION_LOCK_END. -/
def Obligations.SafetyWritesAndTimers : Prop :=
  (∀ (s : State) (h : Hdr) (a k v old p q : Nat), s.hasHost = false → s.mode.shipDue = false → s.reachable = true →
    s.mode.mode ≠ .lockout → s.safety.lockEnd = none → s.safety.session = some k →
    (s.sessionValue a = some old → safInRange a (v % 2 ^ 32 &&& safMask a) = true →
        s.mode.station = true ∨ stackWritable a (v % 2 ^ 32 &&& safMask a) = true → s.factory = false → s.safety.staged.length < 64 →
      ∃ t, exec (.safetyWrite h k a v old) s = .next t ∧ s.onlyChanges [.reply, .out, .safety, .ports, .host, .glean, .expo] t
        ∧ t.safety.staged = s.safety.staged.filter (fun w => w.1 != a) ++ [(a, v % 2 ^ 32 &&& safMask a)]
        ∧ t.safety.block = s.safety.block ∧ t.safety.session = some k ∧ t.safety.lastWrite = s.clk.wall)
    ∧ (s.consistent s.stagedBlock = true →
      ∃ t, exec (.safetySessionClose h k) s = .next t ∧ t.safety.session = none ∧ t.safety.staged = []
        ∧ t.safety.block = s.stagedBlock ∧ t.reply = some { status := stOk, value := 0, words := [], bytes := [] }
        ∧ s.onlyChanges [.reply, .out, .safety, .cells, .sweep, .flash, .wdog, .ports, .host, .glean, .expo] t)
    ∧     (s.safety.staged = [] → s.safety.block.ov = old → 1000 ≤ v → v ≤ 5500 →
      ∃ t, exec (.safetyWrite h k 0x2010 v old) s = .next t ∧ s.onlyChanges [.reply, .out, .safety, .ports, .host, .glean, .expo] t
        ∧ t.safety.staged = [(0x2010, v)] ∧ t.safety.block = s.safety.block ∧ t.safety.session = some k
        ∧ t.safety.lastWrite = s.clk.wall ∧ t.safety.parishQ.length = s.safety.parishQ.length + 1)
    ∧ (s.safety.block.ov ≠ old → s.safety.staged = [] →
      ∃ t, exec (.safetyWrite h k 0x2010 v old) s = .next t ∧ t.safety = s.safety
        ∧ t.reply = some { status := stDenied, value := 0, words := [], bytes := [] })
    ∧ (s.safety.staged = [(0x2010, v)] → s.consistent { s.safety.block with ov := v } = true →
      ∃ t, exec (.safetySessionClose h k) s = .next t ∧ t.safety.session = none ∧ t.safety.staged = []
        ∧ t.safety.block = { s.safety.block with ov := v } ∧ t.safety.nv.block = { s.safety.block with ov := v }
        ∧ t.reply = some { status := stOk, value := 0, words := [], bytes := [] }
        ∧ s.onlyChanges [.reply, .out, .safety, .cells, .sweep, .flash, .wdog, .ports, .host, .glean, .expo] t)
    ∧ (sha256 (le 8 p ++ le 8 s.ident.uid) = s.safety.digest → q ≠ 0 →
      ∃ t, exec (.setPasscode h k p q) s = .next t ∧ s.onlyChanges [.reply, .out, .safety, .flash, .wdog, .ports, .host, .glean, .expo] t
        ∧ t.flash = { s.flash with erases := t.flash.erases } ∧ t.wdog = { s.wdog with erasing := t.wdog.erasing }
        ∧ t.safety.nv.digest = t.safety.digest
        ∧ t.safety.digest = sha256 (le 8 q ++ le 8 s.ident.uid) ∧ t.safety.session = some k
        ∧ t.reply = some { status := stOk, value := 0, words := [], bytes := [] })
    ∧ (sha256 (le 8 p ++ le 8 s.ident.uid) = s.safety.digest →
      ∃ t, exec (.setPasscode h k p 0) s = .next t ∧ t.safety = s.safety
        ∧ t.reply = some { status := stDenied, value := 0, words := [], bytes := [] }))
  ∧
  (∀ (s : State) (k e : Nat),
    (s.safety.session = some k → 120 * ttS ≤ s.clk.wall - s.safety.lastWrite →
      ∃ t, exec .sessionIdleTimeout s = .next t ∧ s.onlyChanges [.reply, .out, .safety] t
        ∧ t.safety.session = none ∧ t.safety.staged = [] ∧ t.safety.block = s.safety.block
        ∧ t.safety.parishQ.length = s.safety.parishQ.length + 1)
    ∧ (s.safety.lockEnd = some e → e ≤ s.clk.rtc →
      ∃ t, exec .authenticationLockEnd s = .next t ∧ s.onlyChanges [.reply, .out, .safety, .flash, .wdog] t
        ∧ t.flash = { s.flash with erases := t.flash.erases } ∧ t.wdog = { s.wdog with erasing := t.wdog.erasing }
        ∧ t.safety.lockEnd = none ∧ t.safety.level = s.safety.level ∧ t.safety.fails = s.safety.fails))

/-- The contacts of the dual-contact inputs and their discrepancies (R300), and the demands on an energised output of either function,
ISOLATE or BRAKE (R297, R298, R300): an open contact of an input that the function watches, a contact discrepancy and the silence of a
position the function supervises each open both switches at once and record the first cause (1 input, 2 discrepancy, 4 silence) in the
status and, as an entry SAFETY_TRIP with cause, function and position (R416), in the ledger.

exec answers a next state with the command's own effect, under the premises on the state and operands shown, for: HEARTBEAT_TIMEOUT,
SI_CONTACT_CHANGE, DISCREPANCY_TIMEOUT. -/
def Obligations.DemandsTripTheOutput : Prop :=
  ∀ (s : State) (i x w pos at_ : Nat) (closed : Bool) (hd : Heard), s.mode.station = true → s.reachable = true → s.mode.mode ≠ .lockout →
    (i < 4 →
      ∃ t, exec (.siContactChange i closed) s = .next t ∧ (t.inp (i / 2 + 1)).a = (if i % 2 = 0 then closed else (s.inp (i / 2 + 1)).a)
        ∧ (t.inp (i / 2 + 1)).b = (if i % 2 = 0 then (s.inp (i / 2 + 1)).b else closed) ∧ t.inp (2 - i / 2) = s.inp (2 - i / 2)
        ∧ s.onlyChanges [.reply, .out, .safety, .flash] t)
    ∧ (1 ≤ i → i ≤ 2 → (s.inp i).since = some w → (s.inp i).disc = false → s.safety.block.disc i * ttMs < s.clk.wall - w →
      ∃ t, exec (.discrepancyTimeout i) s = .next t ∧ (t.inp i).disc = true ∧ t.inp (3 - i) = s.inp (3 - i)
        ∧ t.fault.evq = s.fault.evq ++ [{ id := 23, item := i, time := s.clk.tt, mode := s.mode.mode.code }]
        ∧ s.onlyChanges [.reply, .out, .safety, .flash, .fault] t)
    ∧ (1 ≤ i → i ≤ 2 → 1 ≤ x → x ≤ 2 → (s.outp x).on = true → s.safety.block.func x % 4 ≠ 0 →
      ((s.safety.block.func x).testBit (1 + i) = true → (s.inp i).a = true → (s.inp i).b = true →
        ∃ t, exec (.siContactChange (2 * i - 2) false) s = .next t ∧ (t.outp x).on = false ∧ (t.outp x).tripped = true
          ∧ (t.outp x).cause = 1 ∧ (t.inp i).a = false ∧ (t.inp i).b = true ∧ (t.inp i).since = some ((s.inp i).since.getD s.clk.wall)
          ∧ (slotsOf s.flash.queue < 15 → t.flash.queue.any (fun e => e.code == 9 && e.item == 1 + 16 * x && e.data == 0
              && e.time == s.clk.tt && e.mode == s.mode.mode.code) = true)
          ∧ s.onlyChanges [.reply, .out, .safety, .flash] t)
      ∧ ((s.safety.block.func x).testBit (1 + i) = true → (s.inp i).since = some w → (s.inp i).disc = false →
          s.safety.block.disc i * ttMs < s.clk.wall - w →
        ∃ t, exec (.discrepancyTimeout i) s = .next t ∧ (t.inp i).disc = true ∧ (t.outp x).on = false
          ∧ (t.outp x).tripped = true ∧ (t.outp x).cause = 2
          ∧ (slotsOf s.flash.queue < 15 → t.flash.queue.any (fun e => e.code == 9 && e.item == 2 + 16 * x && e.data == 0
              && e.time == s.clk.tt && e.mode == s.mode.mode.code) = true)
          ∧ t.fault.evq = s.fault.evq ++ [{ id := 23, item := i, time := s.clk.tt, mode := s.mode.mode.code }]
          ∧ s.onlyChanges [.reply, .out, .safety, .flash, .fault] t))
    ∧ (1 ≤ x → x ≤ 2 → (s.outp x).on = true → s.safety.block.func x % 4 ≠ 0 → (s.safety.block.func x).testBit 4 = true →
        s.safety.block.enr i = pos + 2 ^ 18 + 2 ^ (18 + x) → pos < 2 ^ 18 →
        s.heardOf pos = some hd → hd.out = false → hd.at_ = at_ → s.safety.block.hbTimeout * ttMs ≤ s.clk.wall - at_ →
      ∃ t, exec (.heartbeatTimeout i) s = .next t ∧ (t.outp x).on = false ∧ (t.outp x).tripped = true
        ∧ (t.outp x).cause = 4 ∧ (t.outp x).tpos = pos
        ∧ (slotsOf s.flash.queue < 16 → t.flash.queue = s.flash.queue ++ [{
            seq := s.flash.nextSeq, code := 9, mode := s.mode.mode.code, rtc := s.clk.rtc / 32768, time := s.clk.tt, item := 4 + 16 * x
            data := pos, cont := none, torn := [] }])
        ∧ t.fault.evq = s.fault.evq ++ [{ id := 26, item := x, time := s.clk.tt, mode := s.mode.mode.code }]
        ∧ s.onlyChanges [.reply, .out, .safety, .flash, .fault, .ports, .host, .glean, .expo] t)

/-- AUTO_ARM energises an output once after release where every arming condition holds (R299), and leaves the other; the test pulses
of each output act on one switch and the other in turn; 150 µs after its edge a pulse is judged, after 200 µs (of an energised BRAKE
500 µs) it ends, and a node that does not reach its level marks the switch failed with FLT_OUTPUT (22) (R302, R303).

A switch that fails readback is marked; the first one takes the device to DEGRADED with its allowance running on the
RTC, and FLT_OUTPUT (22) is raised (R303, R304); a second one on another output takes it to SAFE; the allowance running out
takes it to SAFE.

exec answers a next state with the command's own effect, under the premises on the state and operands shown, for: AUTO_ARM,
OUTPUT_TEST_PULSE, OUTPUT_TEST_PULSE_END, STUCK_NODE_DETECT, DEGRADED_ALLOWANCE_EXPIRE, CONTINUOUS_READBACK_FAIL. -/
def Obligations.ArmingTestPulsesAndReadback : Prop :=
  (∀ (s : State) (x sw w : Nat), s.supervising = true →
    (x = 1 ∨ x = 2 →
      ((s.safety.block.func x).testBit 5 = true → (s.outp x).autoUsed = false → (s.outp x).tripped = false → (s.outp x).on = false →
          s.mayArm s.safety.block x = true →
        ∃ t, exec (.autoArm x) s = .next t ∧ t.outp x = { s.outp x with
            on := true, tripped := false, cause := 0, tpos := 0, titem := 0, autoUsed := true, pulse := none }
          ∧ t.outp (3 - x) = s.outp (3 - x) ∧ s.onlyChanges [.reply, .out, .safety] t)
      ∧ (s.pulseDue x = true → s.pulseSwitch x = some sw →
        ∃ t, exec (.outputTestPulse x) s = .next t ∧ t.outp x = { s.outp x with
            pulse := some (sw, s.clk.wall), judged := false, nextSw := 1 - sw, lastPulse := s.clk.wall }
          ∧ t.outp (3 - x) = s.outp (3 - x) ∧ s.onlyChanges [.reply, .out, .safety] t)
      ∧ ((s.outp x).pulse = some (sw, w) → (s.outp x).judged = false → 3072 ≤ s.clk.wall - w →
        ∃ t, exec (.outputTestPulseEnd x true) s = .next t ∧ s.onlyChanges [.reply, .out, .safety, .ports, .host, .glean, .expo] t
          ∧ t.outp x = { s.outp x with
              judged := true, checked := (s.outp x).checked || decide (sw = 1) || decide (s.pulseSwitch x ≠ some 1)
              pulse := if (if (s.outp x).on = true ∧ s.safety.block.func x % 4 = 2 then 10240 else 4096) ≤ s.clk.wall - w then none
                else some (sw, w) }
          ∧ t.outp (3 - x) = s.outp (3 - x) ∧ t.safety.failed = s.safety.failed)
      ∧ ((s.outp x).pulse = some (sw, w) → (s.outp x).judged = true →
          (if (s.outp x).on = true ∧ s.safety.block.func x % 4 = 2 then 10240 else 4096) ≤ s.clk.wall - w →
        ∃ t, exec (.outputTestPulseEnd x true) s = .next t ∧ s.onlyChanges [.reply, .out, .safety, .ports, .host, .glean, .expo] t
          ∧ t.outp x = { s.outp x with pulse := none } ∧ t.outp (3 - x) = s.outp (3 - x) ∧ t.safety.failed = s.safety.failed)
      ∧ ((s.outp x).pulse = some (sw, w) → (s.outp x).judged = false → 3072 ≤ s.clk.wall - w → sw < 2 →
          s.safety.failed = [false, false, false, false] →
        ∃ t, exec (.outputTestPulseEnd x false) s = .next t ∧ t.safety.failed = s.safety.failed.set (2 * (x - 1) + sw) true
          ∧ (t.outp x).judged = true ∧ t.fault.evq = s.fault.evq ++ [{ id := 22, item := 2 * (x - 1) + sw, time := s.clk.tt, mode := s.mode.mode.code }]))
    ∧ (s.safety.block.func2.testBit 5 = true → s.safety.out2.autoUsed = false → s.safety.out2.tripped = false →
        s.safety.out2.on = false → s.mayArm s.safety.block 2 = true →
      exec (.autoArm 2) s = .next { s with reply := none, out := [], safety := { s.safety with
        out2 := { s.safety.out2 with on := true, tripped := false, cause := 0, tpos := 0, titem := 0, autoUsed := true, pulse := none } } })
    ∧ (s.safety.block.func1 % 4 = 1 → s.safety.out1.on = true → s.safety.out1.pulse = none → s.safety.out1.tripAt = none →
        s.safety.out1.nextSw = sw → sw < 2 → 500 * ttMs ≤ s.clk.wall - s.safety.out1.lastPulse →
      exec (.outputTestPulse 1) s = .next { s with reply := none, out := [], safety := { s.safety with
        out1 := { s.safety.out1 with pulse := some (sw, s.clk.wall), judged := false, nextSw := 1 - sw, lastPulse := s.clk.wall } } }))
  ∧
  (∀ (s : State) (e sw : Nat), s.supervising = true →
    (sw < 4 → s.safety.failed = [false, false, false, false] → s.pulsing sw = false →
      ((s.outp (sw / 2 + 1)).on = false →
        ∃ t, exec (.stuckNodeDetect sw) s = .next t ∧ t.safety.failed = s.safety.failed.set sw true
          ∧ t.fault.evq = s.fault.evq ++ [{ id := 22, item := sw, time := s.clk.tt, mode := s.mode.mode.code }])
      ∧ ((s.outp (sw / 2 + 1)).on = true →
        ∃ t, exec (.continuousReadbackFail sw) s = .next t ∧ t.safety.failed = s.safety.failed.set sw true
          ∧ t.fault.evq = s.fault.evq ++ [{ id := 22, item := sw, time := s.clk.tt, mode := s.mode.mode.code }]))
    ∧ (s.safety.failed = [false, false, false, false] → s.safety.out1.on = false → s.safety.out1.pulse = none →
        s.mode.mode = .quiet → s.safety.degEnd = none →
      ∃ t, exec (.stuckNodeDetect 0) s = .next t ∧ t.safety.failed = [true, false, false, false] ∧ t.mode.mode = .degraded
        ∧ t.safety.degEnd = some (s.clk.rtc + s.safety.block.degLimit * 3600 * 32768)
        ∧ t.fault.evq = s.fault.evq ++ [{ id := 22, item := 0, time := s.clk.tt, mode := s.mode.mode.code }])
    ∧ (s.safety.failed = [true, false, false, false] → s.safety.out2.on = true → s.safety.out2.pulse = none →
        s.mode.mode ∈ [.quiet, .run, .degraded] →
      ∃ t, exec (.continuousReadbackFail 2) s = .next t ∧ t.safety.failed = [true, false, true, false] ∧ t.mode.mode = .safe
        ∧ t.safety.out1.on = false ∧ t.safety.out2.on = false)
    ∧ (s.mode.mode = .degraded → s.safety.degEnd = some e → e ≤ s.clk.rtc →
      ∃ t, exec .degradedAllowanceExpire s = .next t ∧ t.mode.mode = .safe ∧ t.safety.degEnd = s.safety.degEnd
        ∧ t.safety.out1.on = false ∧ t.safety.out2.on = false))

/-- An enrolled stack-mounted device reports (R293, R295): at its instant of each period a heartbeat, once for each
instant, which is a SAFETY frame of KIND 1 with CAUSE, ITEM, MODE and TIME of Table 10.4 that joins those for its one supervisor on the port
that leads there (shown on one that trains); an auxiliary input of OT_LIMIT without a sample for 2 s is one evaluation in violation, and one more for each further 2 s (the model's
choice, notes/assumptions/108.md); at DEBOUNCE of them it is reported (R294).

A SAFETY frame of an enrolled position, in sequence and addressed to this supervisor, is heard when its check value and
counter are accepted (R200, R297), and a reported cause trips a function that the position feeds (R298).

exec answers a next state with the command's own effect, under the premises on the state and operands shown, for: SAFETY_FRAME_RECEIVE,
HEARTBEAT_SEND, UNOBSERVED_TIMEOUT. -/
def Obligations.SafetyReportsAndFrames : Prop :=
  (∀ (s : State) (b k q u : Nat), s.limitsActive = true → s.mode.mode ≠ .dormant →
    (s.coreRuns = true → s.beatInstant = some b → s.safety.lastBeat < b →
      ∃ t, exec .heartbeatSend s = .next t ∧ t.safety.lastBeat = b
        ∧ (s.supervisors = [u] → s.route u = .out q → s.trains q = true →
          (t.port q).txq.safety.length = (s.port q).txq.safety.length + 1
            ∧ ((t.port q).txq.safety.getLast?).any (fun x => x.frame.typ == 5 && x.frame.cls == 0 && x.frame.dest == u
              && x.frame.src == s.tree.pos && x.frame.tag == 0 && x.frame.payload.length == 16 && checkOk x.frame
              && at_ x.frame.payload 4 1 == 1 && at_ x.frame.payload 5 1 == s.causeBits && at_ x.frame.payload 7 1 == s.mode.mode.code
              && (s.causeBits != 0 || at_ x.frame.payload 6 1 == 0) && at_ x.frame.payload 8 4 == s.safety.lastEval % 2 ^ 32) = true)
        ∧ s.onlyChanges [.reply, .out, .safety, .free, .ports, .host, .glean, .expo] t)
    ∧ (k < 16 → s.sweep.auxUn.length = 16 → s.safety.block.ot.testBit (16 + k) = true →
        2 * ttS * ((s.sweep.auxUn.getD k Deb.zero).bad + 1) ≤ s.clk.wall - s.sweep.auxSeen.getD k 0 →
      ∃ t, exec .unobservedTimeout s = .next t ∧ (t.sweep.auxUn.getD k Deb.zero).bad = (s.sweep.auxUn.getD k Deb.zero).bad + 1
        ∧ (s.safety.block.debounce ≤ (s.sweep.auxUn.getD k Deb.zero).bad + 1 → (t.sweep.auxUn.getD k Deb.zero).rep = true)
        ∧ ((s.sweep.auxUn.getD k Deb.zero).bad + 1 < s.safety.block.debounce →
            (t.sweep.auxUn.getD k Deb.zero).rep = (s.sweep.auxUn.getD k Deb.zero).rep)
        ∧ s.onlyChanges [.reply, .out, .sweep, .safety, .free, .ports, .host, .glean, .expo] t))
  ∧
  (∀ (s : State) (p : Nat) (cb : Bool) (f : Frame) (hd : Heard), s.inSequence p f = true → f.typ = 5 → f.cls = 0 → f.payload.length = 16 → checkOk f = true →
    s.supervising = true → s.heardOf f.src = some hd → counterVerdict hd.ref (at_ f.payload 0 2) (bit (at_ f.payload 2 1) 0) = true →
    (at_ f.payload 5 1 = 0 →
      ∃ t, exec (.safetyFrameReceive (.port p (s.port p).spaceS.rxNext cb) f) s = .next t
        ∧ t.safety = { s.safety with heard := s.safety.heard.map (fun (x : Heard) => if x.pos = f.src then
            { x with at_ := s.clk.wall, cause := 0, out := false, ref := some (at_ f.payload 0 2) } else x) }
        ∧ s.onlyChanges [.reply, .out, .safety, .ports, .host, .glean, .expo, .tree] t)
    ∧ (at_ f.payload 5 1 ≠ 0 → s.safety.out1.on = true → s.safety.block.func1.testBit 4 = true →
        f.src ∈ s.safety.block.feeds 1 →
      ∃ t, exec (.safetyFrameReceive (.port p (s.port p).spaceS.rxNext cb) f) s = .next t
        ∧ t.safety.out1.on = false ∧ t.safety.out1.tripped = true ∧ t.safety.out1.cause = 3 ∧ t.safety.out1.tpos = f.src
        ∧ t.safety.out1.titem = at_ f.payload 6 1))

/-! ### Modes, resets, the self-test, clocks -/

/-- The requests of host software (R371, R372, R381). A wrong key is DENIED and changes nothing. SHIP, from QUIET or SAFE
with everything stopped, ends in SHIP with the reserve switch open, the stage off and both outputs open; RESET is accepted
in every mode that answers and takes effect 1 ms after the first request; RESUME leaves SAFE for RUN where SWEEP runs, for QUIET otherwise.

exec answers a next state with the command's own effect, under the premises on the state and operands shown, for: SHIP_REQUEST,
MODE_RESET_REQUEST, RESUME_REQUEST. -/
def Obligations.ModeRequests : Prop :=
  ∀ (s : State) (key : Nat), s.reachable = true →
    (s.mode.mode ≠ .lockout → s.mode.shipDue = false → key ≠ 0x5348 → key ≠ 0x5253 → key ≠ 0x5245 →
      exec (.modeResetRequest key) s = .next { s with out := [], reply := some { status := stDenied, value := 0, words := [], bytes := [] } }
      ∧ exec (.resumeRequest key) s = .next { s with out := [], reply := some { status := stDenied, value := 0, words := [], bytes := [] } }
      ∧ ∃ t, exec (.shipRequest key) s = .next t ∧ s.onlyChanges [.reply, .out, .ports, .host, .glean, .expo] t
        ∧ t.reply = some { status := stDenied, value := 0, words := [], bytes := [] })
    ∧ (s.mode.mode ∈ [.quiet, .safe] → s.shipVerdict = stOk → (∀ w ∈ s.safety.parishQ, w.tag = none) →
      ∃ t, exec (.shipRequest 0x5348) s = .next t ∧ t.mode.mode = .ship ∧ t.power.resOpen = true ∧ t.power.stageOn = false
        ∧ t.power.chg = .off ∧ t.safety.out1.on = false ∧ t.safety.out2.on = false ∧ t.flash.queue = [] ∧ t.safety.parishQ = []
        ∧ t.reply = some { status := stOk, value := 0, words := [], bytes := [] }
        ∧ (∀ c ∈ t.cells, c.closed = false))
    ∧ exec (.modeResetRequest 0x5253) s = .next { s with
        out := [], reply := some { status := stOk, value := 0, words := [], bytes := [] }
        mode := { s.mode with resetAt := some (s.mode.resetAt.getD (s.clk.wall + 20480)) } }
    ∧ (s.mode.mode = .safe → s.fault.isOpen = false → s.safety.failed = [false, false, false, false] →
      ∃ t, exec (.resumeRequest 0x5245) s = .next t ∧ t.mode.mode = (if s.sweep.fn = .running then .run else .quiet)
        ∧ t.reply = some { status := stOk, value := 0, words := [], bytes := [] }
        ∧ s.onlyChanges [.reply, .out, .mode, .flash, .host, .cells] t)

/-- RUN ends when no function runs (R375). A stack-mounted device that was cut off for the T_LOSS of that loss, with no
escalation due, enters DORMANT: switches open, balancing,
survey and exposures ended, the granary beyond bank 0 gone; a partner's sign of life or WAKE takes it to QUIET or back to
SAFE, re-arms its watchdog and records the source (R382–R384). RESET_N held low for 10 µs resets with cause PIN (7) into BIST, keeps the
RTC, and drops the session and what was staged in it: the SAFETY block is the stored one and both outputs are open (R285, R379).

exec answers a next state with the command's own effect, under the premises on the state and operands shown, for: PIN_RESET,
RUN_TO_QUIET, DORMANT_ENTRY, DORMANT_WAKE. -/
def Obligations.DormantAndPinReset : Prop :=
  ∀ (s : State) (w p n : Nat) (link takes : Bool),
    (s.coreRuns = true → s.mode.mode = .run → s.allStopped = true → s.expo.state = .idle →
      ∃ t, exec .runToQuiet s = .next t ∧ t.mode = { s.mode with mode := .quiet } ∧ s.onlyChanges [.reply, .out, .mode, .flash, .host] t)
    ∧ (s.coreRuns = true → s.mode.station = false → s.mode.mode ∈ [.quiet, .run, .survey, .commit, .safe] → s.flash.commit.isOpen = false →
        s.graceDue = false → s.mode.cutSince = some w → s.mode.lossMs * ttMs ≤ s.clk.wall - w →
      ∃ t, exec .dormantEntry s = .next t ∧ t.mode.mode = .dormant ∧ t.mode.fromSafe = decide (s.mode.mode = .safe)
        ∧ t.mode.sweepHeld = decide (s.sweep.fn = .running) ∧ t.bal.fn = .stopped ∧ t.survey.fn = .stopped
        ∧ t.expo.state = .idle ∧ t.power.chg = .off ∧ (∀ c ∈ t.cells, c.closed = false)
        ∧ (∀ b ∈ t.granary, b.1 < 0x10000) ∧ t.flash.bank0 = s.flash.bank0 ∧ t.flash.bank1 = s.flash.bank1
        ∧ t.safety.block = s.safety.block ∧ t.clk.rtc = s.clk.rtc)
    ∧ (s.mode.mode = .dormant → s.mode.sweepHeld = false →
      ∃ t, exec (.dormantWake link p) s = .next t ∧ t.mode.mode = (if s.mode.fromSafe = true then .safe else .quiet)
        ∧ t.mode.wakeSource = (if link = true then 1 else 3) ∧ t.clk.xtalOn = true ∧ t.wdog.count = 0 ∧ t.kept.survey = none
        ∧ t.safety = s.safety ∧ t.clk.rtc = s.clk.rtc)
    ∧ (s.power.vpwrGood = true → s.mode.mode ≠ .ship → 10000 ≤ n →
      ∃ t, exec (.pinReset n takes) s = .next t ∧ t.mode.mode = .bist ∧ t.mode.cause = 7 ∧ t.clk.rtc = s.clk.rtc
        ∧ t.safety.block = s.safety.nv.block ∧ t.safety.out1.on = false ∧ t.safety.out2.on = false ∧ t.safety.session = none)

/-- The self-test (R333–R345). Its start latches role, tiers and mounting and runs the steps that end by themselves; a step
that is stuck ends in FAIL with DETAIL 0xFFFF; the end of a complete BIST that passed releases the device to QUIET, or to LOCKOUT where a
step failed, and tree time starts at 0 either way.

exec answers a next state with the command's own effect, under the premises on the state and operands shown, for: BIST_START,
BIST_STEP_TIMEOUT, BIST_END. -/
def Obligations.BistRunsAndReleases : Prop :=
  ∀ (s : State) (w : BistWorld) (k : Nat), s.mode.mode = .bist →
    (s.bist.running = false → s.power.vpwrGood = true → s.bist.testHeld = false → w.test = false → w.hangs = [] → s.bist.cur = BistRec.empty →
      ∃ t, exec (.bistStart w) s = .next t ∧ t.mode.mode = .bist ∧ t.bist.running = true ∧ t.bist.hang = none
        ∧ t.bist.cur.step = 9 ∧ t.bist.cur.format = 1 ∧ t.bist.cur.complete = false ∧ t.bist.cur.steps.length = 10
        ∧ t.ident.role = roleOf (w.role % 4) ∧ t.ident.tiers = (w.vreg.take 3).countP (fun b => b)
        ∧ t.mode.station = (w.vaux && decide ((w.vreg.take 3).countP (fun b => b) = 0)))
    ∧ (s.bist.hang = some k → 1 ≤ k → k ≤ 9 → s.bist.world.hangs = [k] → s.bist.cur.cuts < 3 → s.bist.cur.steps.length = 10 →
        s.bist.cur.failStep = 0 →
      ∃ t, exec .bistStepTimeout s = .next t ∧ t.bist.hang = none ∧ t.bist.cur.step = (if k = 9 then s.bist.cur.step else 9)
        ∧ t.bist.cur.steps.getD (k - 1) (0, 0, 0) = (2, 0, 0xFFFF) ∧ t.bist.cur.failStep = k)
    ∧ (s.coreRuns = true → s.bist.running = true → s.bist.hang = none → s.bist.cur.step = 9 → s.bist.cur.cutLock = false →
      (s.bist.cur.failStep = 0 → s.flash.wear = [] → s.safety.failed = [false, false, false, false] →
        ∃ t, exec .bistEnd s = .next t ∧ t.mode.mode = .quiet ∧ t.bist.running = false ∧ t.bist.cur.complete = true
          ∧ t.bist.cur.pass = true ∧ t.bist.cur.step = 10 ∧ t.clk.treeOn = true ∧ t.clk.tt = 0 ∧ t.fault.running = true
          ∧ t.flash.shadow = s.config)
      ∧ (s.bist.cur.failStep ≠ 0 →
        ∃ t, exec .bistEnd s = .next t ∧ t.mode.mode = .lockout ∧ t.bist.running = false ∧ t.bist.cur.pass = false
          ∧ t.clk.treeOn = true ∧ t.clk.tt = 0 ∧ t.safety.out1.on = false ∧ t.safety.out2.on = false
          ∧ (∀ c ∈ t.cells, c.closed = false)))

/-- The clock monitor of Table 11.1 (R313): a count below the failing one marks the clock and raises FLT_CLOCK (16) when it
is the first to be marked; a count that is good again clears the mark, and one between changes neither. A read of TIME_LO gives the low half of tree time
and latches the high half, which TIME_HI then reads (Table 8.8, R438).

exec answers a next state with the command's own effect, under the premises on the state and operands shown, for: CLOCK_MONITOR_WINDOW,
TIME_LO_READ. -/
def Obligations.ClockMonitorAndTimeRead : Prop :=
  ∀ (s : State) (b n lo hi : Nat), s.reachable = true →
    (clockLimits b = some (hi, lo) → s.monitors b = true →
      (n < lo → s.clocks = 0 →
        ∃ t, exec (.clockMonitorWindow b n) s = .next t ∧ t.clocks = 2 ^ b
          ∧ t.fault.evq = s.fault.evq ++ [{ id := 16, item := b, time := s.clk.tt, mode := s.mode.mode.code }])
      ∧ (hi ≤ n → s.clocks = 2 ^ b → ∃ t, exec (.clockMonitorWindow b n) s = .next t ∧ t.clocks = 0 ∧ t.fault = s.fault)
      ∧ (lo ≤ n → n < hi → exec (.clockMonitorWindow b n) s = .next ({ s with reply := none, out := [] } : State).flush))
    ∧ (n < 32 → s.clocks = 0 →
      exec (.clockMonitorWindow 1 n) s = .next ({ s with
        reply := none, out := [], clocks := 2
        fault := { s.fault with evq := s.fault.evq ++ [{ id := 16, item := 1, time := s.clk.tt, mode := s.mode.mode.code }] } } : State).flush)
    ∧ (109 ≤ n → s.clocks = 2 →
      exec (.clockMonitorWindow 1 n) s = .next ({ s with reply := none, out := [], clocks := 0 } : State).flush)
    ∧ (n < 5120 → s.clocks = 0 →
      ∃ t, exec (.clockMonitorWindow 0 n) s = .next t ∧ t.clocks = 1 ∧ t.clk = { s.clk with xtalOn := false }
        ∧ t.fault.evq = s.fault.evq ++ [{ id := 16, item := 0, time := s.clk.tt, mode := s.mode.mode.code }]
        ∧ s.onlyChanges [.reply, .out, .clocks, .clk, .fault, .ports, .host, .glean, .expo] t)
    ∧ (s.mode.mode ≠ .lockout →
      exec .timeLoRead s = .next { s with
        out := [], clk := { s.clk with timeHi := s.clk.tt / 2 ^ 32 % 2 ^ 32 }
        reply := some { status := stOk, value := s.clk.tt % 2 ^ 32, words := [s.clk.tt % 2 ^ 32], bytes := [] } })

/-! ### The host interface: rings, pools, messages, resets -/

/-- Submission rings (R258, R259, R260, R281). START with a RUNNING completion ring makes a STOPPED ring RUNNING with its
indices at 0 and the written CQ and WEIGHT; STOP makes a RUNNING one STOPPING, and STOPPED where no transaction of it is in
flight; the doorbell moves TAIL; a doorbell of a STOPPED ring, or out of range, sets BAD_DOORBELL and moves nothing.

exec answers a next state with the command's own effect, under the premises on the state and operands shown, for: SQ_TAIL_DOORBELL,
SQ_START, SQ_STOP. -/
def Obligations.SubmissionRings : Prop :=
  ∀ (s : State) (r c w : Nat), s.barOpen = true → s.host.sq.length = 256 → r < 256 →
    ((s.sq r).state = .stopped → 1 ≤ w → (s.cq c).state = .running →
      exec (.sqStart r c w) s = .next { s with reply := none, out := [], host := { s.host with
        sq := updAt s.host.sq r (fun (q : SqSt) => { q with cq := c, weight := w, state := .running, head := 0, tail := 0 }) } })
    ∧ ((s.sq r).state = .stopped →
      exec (.sqStart r c 0) s = .next { s with reply := none, out := [], host := { s.host with writeIgn := true } })
    ∧ ((s.sq r).state = .running →
      exec (.sqStop r) s = .next { s with reply := none, out := [], host := { s.host with
        sq := updAt s.host.sq r (fun (q : SqSt) => { q with state := if s.inflight r = 0 then .stopped else .stopping }) } })
    ∧ ((s.sq r).state ≠ .stopped → w < 2 ^ (s.sq r).log2 →
      exec (.sqTailDoorbell r w) s = .next { s with reply := none, out := [], host := { s.host with
        sq := updAt s.host.sq r (fun (q : SqSt) => { q with tail := w }) } })
    ∧ ((s.sq r).state = .stopped ∨ 2 ^ (s.sq r).log2 ≤ w →
      ∃ t, exec (.sqTailDoorbell r w) s = .next t ∧ (t.sq r).badBell = true ∧ (t.sq r).tail = (s.sq r).tail
        ∧ s.onlyChanges [.reply, .out, .host] t)

/-- Completion rings and messages (R258, R259, R275, R281). START makes a STOPPED ring RUNNING with its indices at 0 and PHASE 1;
STOP of a RUNNING ring that nothing uses makes it STOPPED, of one in use it is ignored with WRITE_IGNORED; CQ_HEAD moves HEAD; TIME_US after the
first unsignalled entry the ring's message goes out and the count is 0; unmasking a pending vector sends its message.

exec answers a next state with the command's own effect, under the premises on the state and operands shown, for:
INTERRUPT_COALESCE_TIMEOUT, MSIX_VECTOR_UNMASK, CQ_HEAD_DOORBELL, CQ_START, CQ_STOP. -/
def Obligations.CompletionRingsAndMessages : Prop :=
  ∀ (s : State) (c v : Nat) (e : Bool), s.host.cq.length = 256 → c < 256 →
    (s.barOpen = true → (s.cq c).state = .stopped → s.host.cplWait = [] → s.host.events = [] →
      ∃ t, exec (.cqStart c v e) s = .next t ∧ s.onlyChanges [.reply, .out, .host] t ∧ t.host.sq = s.host.sq
        ∧ t.cq c = { s.cq c with vector := v, irqEn := e, state := .running, tail := 0, head := 0, phase := true, full := false })
    ∧ (s.barOpen = true → (s.cq c).state = .running → s.cqInUse c = true →
      exec (.cqStop c) s = .next { s with reply := none, out := [], host := { s.host with writeIgn := true } })
    ∧ (s.barOpen = true → (s.cq c).state = .running → s.cqInUse c = false → s.host.cplWait = [] →
      exec (.cqStop c) s = .next { s with reply := none, out := [], host := { s.host with
        cq := updAt s.host.cq c (fun (q : CqSt) => { q with state := .stopped }) } })
    ∧ (s.barOpen = true → (s.cq c).state = .running → v < 2 ^ (s.cq c).log2 → s.host.cplWait = [] → s.host.events = [] →
        s.host.heldWait = [] →
      ∃ t, exec (.cqHeadDoorbell c v []) s = .next t ∧ s.onlyChanges [.reply, .out, .host] t
        ∧ t.cq c = { s.cq c with head := v, full := false })
    ∧ (s.coalesceDue c = true → s.host.d3hot = false → bit (s.msixWord (4 * (s.cq c).vector + 3)) 0 = false →
      exec (.interruptCoalesceTimeout c) s = .next { s with reply := none, out := [.msix (s.cq c).vector], host := { s.host with
        cq := updAt s.host.cq c (fun (q : CqSt) => { q with unsig := 0 }) } })
    ∧ (s.barOpen = true → s.host.d3hot = false → s.host.msixPend = [v] →
      ∃ t, exec (.msixVectorUnmask v) s = .next t ∧ s.onlyChanges [.reply, .out, .host] t ∧ t.out = [.msix v]
        ∧ t.host.msixPend = [] ∧ bit (t.msixWord (4 * v + 3)) 0 = false)

/-- Pools and plain register writes (R257, R258, R271). A disabled pool takes its sizes in range and EN, out of range nothing
but WRITE_IGNORED; EN 0 disables it once no result is being written into its buffers; POOL_TAIL moves the tail; a 32-bit write of EVENT and ENABLE bits sets HOST_CTRL, and a
write that is not aligned changes nothing.

exec answers a next state with the command's own effect, under the premises on the state and operands shown, for: POOL_ENABLE,
POOL_DISABLE, POOL_TAIL_WRITE, BAR0_REGISTER_WRITE. -/
def Obligations.PoolsAndRegisterWrites : Prop :=
  ∀ (s : State) (p l b v : Nat), s.barOpen = true → s.host.pool.length = 64 → p < 64 →
    ((s.pool p).en = false → 4 ≤ l → l ≤ 16 → 8 ≤ b → b ≤ 20 →
      exec (.poolEnable p l b) s = .next { s with reply := none, out := [], host := { s.host with
        pool := updAt s.host.pool p (fun (q : PoolSt) => { q with listLog2 := l, bufLog2 := b, en := true }) } })
    ∧ ((s.pool p).en = false → 16 < l →
      exec (.poolEnable p l b) s = .next { s with reply := none, out := [], host := { s.host with writeIgn := true } })
    ∧ (s.poolBusy p = false →
      ∃ t, exec (.poolDisable p) s = .next t ∧ s.onlyChanges [.reply, .out, .host] t ∧ t.pool p = { s.pool p with en := false, closing := false }
        ∧ t.host = { s.host with pool := t.host.pool }
        ∧ (v ≠ p → (∀ q ∈ s.host.pool, q.closing = false) → t.pool v = s.pool v))
    ∧ (s.poolBusy p = true → (s.pool p).en = true →
      ∃ t, exec (.poolDisable p) s = .next t ∧ s.onlyChanges [.reply, .out, .host] t
        ∧ (t.pool p).en = true ∧ (t.pool p).closing = true)
    ∧ (v < 2 ^ (s.pool p).listLog2 → (s.pool p).closing = false → s.host.cplWait = [] → s.host.events = [] → s.host.waits = [] →
        s.host.heldWait = [] →
      ∃ t, exec (.poolTailWrite p v []) s = .next t ∧ s.onlyChanges [.reply, .out, .host] t ∧ (t.pool p).tail = v
        ∧ (t.pool p).en = (s.pool p).en ∧ (t.pool p).head = (s.pool p).head)
    ∧ (s.host.cplWait = [] → s.host.events = [] → v < 2 ^ 22 →
      ∃ t, exec (.bar0RegisterWrite 8 4 v) s = .next t ∧ s.onlyChanges [.reply, .out, .host] t
        ∧ t.host.enable = v.testBit 0 ∧ t.host.eventEn = v.testBit 1 ∧ t.host.eventCq = v / 256 % 256
        ∧ t.host.eventPool = v / 65536 % 64)
    ∧ (exec (.bar0RegisterWrite 9 4 v) s = .next { s with reply := none, out := [] })

/-- The PCIe link and the resets of the host island (R254–R256, R276). RETRAIN takes the targets of LINK_CTRL (Table 9.3) and settles at what
the partner gives, at most at the targets (the model's choice, log 20); PERST_N
low puts every ring at STOPPED, disables every pool and frees every transaction; PERST_N high with the clock running
trains the link the same way; a Function Level Reset does what PERST_N does and keeps the link (PRESUMED, log 19); the key of HOST_RESET resets the device
with cause HOST (6); configuration requests answer with Configuration Request Retry Status until BIST has ended.

exec answers a next state with the command's own effect, under the premises on the state and operands shown, for: HOST_RESET,
LINK_RETRAIN, PERST_N_ASSERT, PERST_N_DEASSERT, FUNCTION_LEVEL_RESET, CONFIGURATION_REQUEST. -/
def Obligations.LinkAndHostResets : Prop :=
  ∀ (s : State) (sp w gs gw : Nat), s.bist.testHeld = false →
    (s.barOpen = true → s.host.refclk = true → 1 ≤ sp → w = 1 ∨ w = 2 →
      exec (.linkRetrain sp w gs gw) s = .next { s with reply := none, out := [], host := { s.host with
        partner := (gs, gw), speed := sp, width := w, linkUp := true, speedNow := min gs sp, widthNow := min gw w } })
    ∧ (∃ t, exec .perstNAssert s = .next t ∧ s.onlyChanges [.reply, .out, .host, .glean, .tree] t ∧ t.host.perst = false
        ∧ t.host.linkUp = false ∧ t.host.txs = [] ∧ t.host.enable = false ∧ (∀ q ∈ t.host.sq, q.state = .stopped)
        ∧ (∀ q ∈ t.host.cq, q.state = .stopped) ∧ (∀ q ∈ t.host.pool, q.en = false))
    ∧ (s.hasHost = true →
      exec (.perstNDeassert true gs gw) s = .next { s with reply := none, out := [], host := { s.host with
        perst := true, refclk := true, partner := (gs, gw), linkUp := true, speedNow := min gs s.host.speed, widthNow := min gw s.host.width } })
    ∧ (s.hasHost = true → s.host.perst = true →
      ∃ t, exec .functionLevelReset s = .next t ∧ s.onlyChanges [.reply, .out, .host, .glean, .tree] t ∧ t.host.perst = true
        ∧ t.host.linkUp = s.host.linkUp ∧ t.host.txs = [] ∧ t.host.enable = false ∧ (∀ q ∈ t.host.sq, q.state = .stopped)
        ∧ (∀ q ∈ t.host.cq, q.state = .stopped) ∧ (∀ q ∈ t.host.pool, q.en = false))
    ∧ (s.barOpen = true →
      ∃ t, exec (.hostReset 0x5A5A4800) s = .next t ∧ t.mode.mode = .bist ∧ t.mode.cause = 6 ∧ t.clk.rtc = s.clk.rtc
        ∧ t.host.txs = [])
    ∧ (s.hasHost = true → s.host.perst = true → s.host.linkUp = true → s.mode.mode = .bist →
      exec (.configurationRequest .other) s = .next { s with
        out := [], reply := some { status := stRetry, value := 0, words := [], bytes := [] } })
    ∧ (s.barOpen = true →
      ∃ t, exec (.configurationRequest (.pmeEnable false)) s = .next t ∧ t.host.pmeEn = false
        ∧ t.reply = some { status := stOk, value := 0, words := [], bytes := [] } ∧ s.onlyChanges [.reply, .out, .host] t)

/-! ### Sweeps and their records -/

/-- The function SWEEP (R59–R62, R74). START latches the parameters with its SOURCE, clears LATE and takes a QUIET device to RUN; STOP with
no aperture on the schedule whose window has opened stops at once, with one it is STOPPING until the last record is complete; stopping
writes the snapshot, which is also rewritten every 10 s while SWEEP runs.

exec answers a next state with the command's own effect, under the premises on the state and operands shown, for: SWEEP_START,
SWEEP_STOP, SWEEP_STOPPED, SNAPSHOT_REWRITE. -/
def Obligations.SweepFunction : Prop :=
  ∀ (s : State) (src : Nat) (a : Aperture), s.reachable = true → s.mode.mode ≠ .lockout →
    (s.sweep.fn = .stopped → s.mode.mode = .quiet → src < 2 →
      ∃ t, exec (.sweepStart src) s = .next t ∧ t.sweep.fn = .running ∧ t.sweep.lat = { s.sweep.par with source := src }
        ∧ t.sweep.late = 0 ∧ t.sweep.outputs = 0 ∧ t.sweep.startT = s.clk.tt ∧ t.mode = { s.mode with mode := .run }
        ∧ t.reply = some { status := stOk, value := 0, words := [], bytes := [] }
        ∧ s.onlyChanges [.reply, .out, .sweep, .cells, .mode, .flash, .host, .diag] t)
    ∧ (s.sweep.fn = .running → (∀ x ∈ s.schedule.sweep.pend, x.opened = false ∧ s.clk.tt + tgd s.sweep.lat.corner < x.t) →
      ∃ t, exec .sweepStop s = .next t ∧ t.sweep.fn = .stopped ∧ t.kept.snapshot.isSome = true
        ∧ t.kept.rtcBroken = s.clocks.testBit 2 ∧ s.onlyChanges [.reply, .out, .sweep, .cells, .kept] t)
    ∧ (s.sweep.fn = .running →
        s.schedule.sweep.pend.filter (fun x => x.opened || decide (x.t ≤ s.clk.tt + tgd s.sweep.lat.corner)) = [a] →
      ∃ t, exec .sweepStop s = .next t ∧ t.sweep.fn = .stopping ∧ t.sweep.pend = [a] ∧ t.kept = s.kept
        ∧ s.onlyChanges [.reply, .out, .sweep, .cells] t)
    ∧ (s.sweep.fn = .stopping → s.sweep.pend = [] →
      ∃ t, exec .sweepStopped s = .next t ∧ t.sweep.fn = .stopped ∧ t.sweep.tbias = false ∧ t.sweep.blankTo = none
        ∧ t.kept.snapshot.isSome = true ∧ s.onlyChanges [.reply, .out, .sweep, .cells, .kept] t)
    ∧ (s.sweep.fn = .running → 10 * ttS ≤ s.clk.wall - s.sweep.lastSnap →
      ∃ t, exec .snapshotRewrite s = .next t ∧ t.sweep = { s.sweep with lastSnap := s.clk.wall, snapBusy := true }
        ∧ (t.kept.snapshot.map Snapshot.counted) = some s.sweep.counted ∧ (t.kept.snapshot.map Snapshot.rtc) = some (s.clk.rtc / 32768)
        ∧ s.onlyChanges [.reply, .out, .sweep, .kept] t)

/-- What surrounds an aperture (R15, R16, R35, R36, R44, R45, R55–R57). Blanking opens its interval to T + t_gd + 4 and ends it; TBIAS is driven
all the time at AUX_DIV 1; the aperture opens at its T; codes arrive at T + t_gd and auxiliary codes as ratios; a good tier
channel frame clears the count of discards in a row, and the third bad one in a row raises FLT_TIER_CHANNEL (7).

exec answers a next state with the command's own effect, under the premises on the state and operands shown, for: APERTURE_OPEN,
TBIAS_DRIVE_START, BLANKING_START, BLANKING_END, TIER_CODES_AVAILABLE, AUX_CODES_READY, TIER_CHANNEL_FRAME_RECEIVE. -/
def Obligations.ApertureEvents : Prop :=
  ∀ (s : State) (a : Aperture) (b k tb c : Nat) (raw : RawCodes) (volts : List Nat) (ld : TierLoad), s.crystalRuns = true →
    (s.periodic = false → s.sweep.pend = [a] → s.blankDue a = true → s.sweep.blankTo = none →
      ∃ t, exec .blankingStart s = .next t ∧ t.sweep.blankTo = some (a.t + tgd s.sweep.lat.corner + 4)
        ∧ t.sweep.pend = [{ a with blanked := true }] ∧ s.onlyChanges [.reply, .out, .sweep, .cells] t)
    ∧ (s.sweep.blankTo = some b → b ≤ s.clk.tt → s.sweep.pend = [] →
      ∃ t, exec .blankingEnd s = .next t ∧ t.sweep.blankTo = none ∧ t.bal.starved = false
        ∧ s.onlyChanges [.reply, .out, .sweep, .bal, .cells] t)
    ∧ (s.sweep.fn = .running → s.sweep.lat.auxDiv = 1 →
      ∃ t, exec .tbiasDriveStart s = .next t ∧ t.sweep.tbias = true ∧ s.onlyChanges [.reply, .out, .sweep] t
        ∧ (s.periodic = false → t.sweep = { s.sweep with tbias := true }))
    ∧ (s.sweep.pend = [a] → a.opened = false → a.t ≤ s.clk.tt →
      ∃ t, exec .apertureOpen s = .next t ∧ t.sweep.lastT = some a.t ∧ t.sweep.outputs = s.sweep.outputs + 1
        ∧ (s.periodic = false → (t.sweep.pend.map Aperture.opened) = [true] ∧ (t.sweep.pend.map Aperture.t) = [a.t])
        ∧ s.onlyChanges [.reply, .out, .sweep, .legacy, .ports, .host, .glean, .expo] t)
    ∧ (s.sweep.pend = [a] → a.opened = true → a.codes = none → a.t + tgd s.sweep.lat.corner ≤ s.clk.tt →
      exec (.tierCodesAvailable raw) s = .next { s with reply := none, out := [], sweep := { s.sweep with
        pend := [{ a with codes := some raw }] } })
    ∧ (s.sweep.pend = [a] → a.opened = true → a.aux = true → a.auxDone = false → 10 * a.t + 8192 ≤ 10 * s.clk.tt → k < 16 →
      ∃ t, exec (.auxCodesReady volts tb) s = .next t ∧ s.onlyChanges [.reply, .out, .sweep] t
        ∧ (t.sweep.pend.map Aperture.auxDone) = [true]
        ∧ (t.sweep.pend.map (fun (p : Aperture) => p.auxCodes.getD k 0)) = [min 0xFFFF ((2 * 65536 * volts.getD k 0 + tb) / (2 * max 1 tb))])
    ∧ (s.tiersOn = true → s.tierPresent c = true →
      exec (.tierChannelFrameReceive c true ld) s = .next { s with
        reply := none, out := [], sweep := { s.sweep with discards := s.sweep.discards.set (c - 1) 0 } })
    ∧ (s.tiersOn = true → s.tierPresent c = true → s.sweep.discards.getD (c - 1) 0 = 2 →
      ∃ t, exec (.tierChannelFrameReceive c false ld) s = .next t ∧ s.onlyChanges [.reply, .out, .sweep, .fault] t
        ∧ t.fault.evq = s.fault.evq ++ [{ id := 7, item := c, time := s.clk.tt, mode := s.mode.mode.code }])

/-- A sweep record (R50, R65–R72): the oldest aperture with its codes leaves the schedule, the live ring ends with its record, COUNT and
the number of records follow it. A selected cell without a loss keeps the clamped code of its converter where BLANK holds
the switches open; a cell outside the masks keeps its code. A stream output joins the ring of an armed exposure.

exec answers a next state with the command's own effect, under the premises on the state and operands shown, for:
SWEEP_RECORD_COMPLETE, STREAM_OUTPUT. -/
def Obligations.SweepRecords : Prop :=
  ∀ (s : State) (a : Aperture) (raw : RawCodes) (temps : List Int) (frac : Int) (n : Nat), s.crystalRuns = true → s.sweep.pend = [a] → a.codes = some raw →
    a.aux = false → s.sweep.live.length < 128 →
    (∃ t, exec (.sweepRecordComplete temps frac none) s = .next t ∧ t.sweep.pend = [] ∧ t.sweep.count = a.num
        ∧ t.sweep.counted = min 0xFFFFFFFF (s.sweep.counted + 1) ∧ t.sweep.live.length = s.sweep.live.length + 1
        ∧ (t.sweep.live.getLast?).map (fun r => (r.sweep, r.t)) = some (a.num, a.t)
        ∧ s.onlyChanges [.reply, .out, .sweep, .cells, .fault, .diag, .tree, .safety, .free, .ports, .host, .glean, .expo] t)
    ∧ (1 ≤ n → n ≤ 48 → s.cells.length = 48 → inMask s.sweep.lat.mask n = true → s.sweep.lat.blank = 0 → 
        (∀ c ∈ s.cells, c.stuck = none ∧ ∀ e ∈ c.log, e.bleed = false) → a.lost = [] →
      ∃ t, exec (.sweepRecordComplete temps frac none) s = .next t
        ∧ (t.cell n).code = min 550000 (max (-30000) (raw.cells.getD (n - 1) 0)))
    ∧ (1 ≤ n → n ≤ 48 → s.cells.length = 48 → inMask s.sweep.lat.mask n = false →
      ∃ t, exec (.sweepRecordComplete temps frac none) s = .next t ∧ t.cell n = s.cell n)
    ∧ (s.reachable = true → s.survey.run = none → s.expo.state = .armed → s.expo.ring = [] → s.expo.trip = none → s.diag.steps = [] →
        1 ≤ s.expo.plan.n → tgd s.expo.plan.corner ≤ s.clk.tt →
      ∃ t, exec (.streamOutput s.expo.plan.corner raw []) s = .next t ∧ t.expo.state = .armed
        ∧ (t.expo.ring.map Sample.t) = [(s.clk.tt - tgd s.expo.plan.corner) / periodOf s.expo.plan.corner * periodOf s.expo.plan.corner]
        ∧ t.expo.done = min 0xFFFF (s.expo.done + 1) ∧ s.onlyChanges [.reply, .out, .ports, .host, .glean, .expo] t)

/-! ### Surveys, baselines, balancing -/

/-- The function SURVEY (R77, R78, R82, R84, R94, R101). An honoured START latches the plan, takes the device from RUN to SURVEY and sets T0 to a
multiple of 20,480 at least 1 ms ahead; one that is refused changes REASON alone, outside RUN to 1 whatever else also fails (the model's order of the reasons, log 26). A run starts at its time with the
excitation on and the record of it in the keep island; BLEED excitation toggles every half period; STOP ends it with LAST 3
and the device goes back to RUN.

exec answers a next state with the command's own effect, under the premises on the state and operands shown, for: SURVEY_START,
SURVEY_STOP, SURVEY_STOPPED, SURVEY_RUN_START, EXCITATION_TOGGLE. -/
def Obligations.SurveyFunction : Prop :=
  ∀ (s : State) (tag st : Nat) (b : Bool), s.reachable = true →
    (s.mode.mode ≠ .lockout → s.mode.mode ≠ .run → s.survey.fn = .stopped →
      exec (.surveyStart tag b) s = .next { s with
        out := [], reply := some { status := stDenied, value := 0, words := [], bytes := [] }, survey := { s.survey with reason := 1 } })
    ∧ (s.mode.mode = .run → s.survey.fn = .stopped →
        s.surveyRefusal { s.survey.par with tag := tag, setBase := b } (localT0 s.clk.tt) false = 0 →
      ∃ t, exec (.surveyStart tag b) s = .next t ∧ t.mode = { s.mode with mode := .survey } ∧ t.survey.fn = .running
        ∧ t.survey.lat.tag = tag ∧ t.survey.lat.setBase = b ∧ t.survey.t0 % 20480 = 0 ∧ s.clk.tt + 20480 ≤ t.survey.t0
        ∧ t.survey.t0 < s.clk.tt + 40960 ∧ t.survey.point = 0 ∧ t.survey.group = 0 ∧ t.survey.recs = [] ∧ t.survey.last = 1
        ∧ t.reply = some { status := stOk, value := 0, words := [], bytes := [] }
        ∧ s.onlyChanges [.reply, .out, .survey, .mode, .flash, .host, .cells, .diag] t)
    ∧ (s.survey.fn = .running → s.survey.run = none → s.survey.closing = none → s.survey.lat.runStart s.survey.point s.survey.after = st → st ≤ s.clk.tt →
      ∃ t, exec .surveyRunStart s = .next t
        ∧ t.survey = { s.survey with run := some st, exciteOn := true, toggles := 0, outs := [], currents := [], locked := false, pubQ := [], pubLost := false, pubNext := s.survey.lat.winStart s.survey.point st, exciteLog := t.survey.exciteLog }
        ∧ (s.survey.lat.ripple = false → (t.survey.exciteLog.head?).map Prod.snd = some true)
        ∧ t.kept = { s.kept with survey := some (s.survey.lat.tag, s.survey.point, s.survey.group, s.survey.t0) }
        ∧ s.onlyChanges [.reply, .out, .survey, .kept, .cells] t)
    ∧ (s.survey.run = some st → s.survey.lat.ripple = false →
        st + (s.survey.toggles + 1) * (s.survey.lat.per s.survey.point / 2) ≤ s.clk.tt →
        st + (s.survey.toggles + 1) * (s.survey.lat.per s.survey.point / 2) < s.survey.lat.runEnd s.survey.point st →
      ∃ t, exec .excitationToggle s = .next t ∧ t.survey = { s.survey with toggles := s.survey.toggles + 1 }
        ∧ s.onlyChanges [.reply, .out, .survey, .cells] t)
    ∧ (s.mode.mode ≠ .lockout → s.survey.fn = .running →
      ∃ t, exec .surveyStop s = .next t ∧ t.survey.fn = .stopping ∧ t.survey.last = 3 ∧ t.survey.exciteOn = false
        ∧ t.survey.run = none ∧ t.kept.survey = none ∧ t.reply = some { status := stOk, value := 0, words := [], bytes := [] })
    ∧ (s.survey.fn = .stopping → s.survey.closing = none →
      ∃ t, exec .surveyStopped s = .next t ∧ t.survey = { s.survey with fn := .stopped }
        ∧ t.mode = { s.mode with mode := if s.mode.mode = .survey then .run else s.mode.mode }
        ∧ s.onlyChanges [.reply, .out, .survey, .bal, .mode, .flash, .host, .cells] t)

/-- The end of a run (R82, R91, R94). Half an output period after the window the lock-in of a device with cells is raised as a job of
the gleaners, which keeps the run's outputs; that instant is the model's choice (log 97), and so are the job's key, the survey's tag, and
its name, the start of its run (log 76); the job adds one record, of its run's point and group, with an entry for each cell of the
group. A run that is not the last goes on to the next group or point; the last run of the last point ends the survey as COMPLETE (LAST 2)
with the device back in RUN, and waits where a lock-in job is left.

exec answers a next state with the command's own effect, under the premises on the state and operands shown, for: LOCKIN_COMPLETE,
SURVEY_RUN_END. -/
def Obligations.SurveyRunsComplete : Prop :=
  ∀ (s : State) (st : Nat) (q : LockJob) (j : Job) (m : Mem),
    (s.coreRuns = true → s.mode.mode ≠ .halted → s.survey.run = some st → s.survey.locked = false → s.selCells ≠ [] → s.glean = { GleanSt.reset with nextAdm := s.glean.nextAdm } →
        s.survey.lat.winEnd s.survey.point st + s.survey.lat.pc s.survey.point / 2 ≤ s.clk.tt →
      ∃ t, exec .lockinComplete s = .next t ∧ t.survey = { s.survey with
          locked := true
          jobs := s.survey.jobs ++ [{ k := s.survey.point, g := s.survey.group, st := st, outs := s.survey.outs
                                      currents := s.survey.currents }] }
        ∧ (t.gleaner 0).deque = [{ slot := 0, kind := .lockin, key := s.survey.lat.tag, tag := st, adm := s.glean.nextAdm }]
        ∧ s.onlyChanges [.reply, .out, .survey, .glean, .ports, .host, .expo] t)
    ∧ (s.coreRuns = true → s.mode.mode ≠ .halted → s.survey.run = none → s.survey.jobs = [q] → s.survey.closing = none → s.runCells q.g ≠ [] → j.kind = .lockin → j.tag = q.st →
        s.glean = { GleanSt.reset with gleaners := { running := some j, deque := [], scratch := m } :: GleanSt.reset.gleaners.drop 1 } →
      ∃ t, exec .lockinComplete s = .next t ∧ t.survey.jobs = [] ∧ t.survey.recs.length = s.survey.recs.length + 1
        ∧ (t.survey.recs.getLast?).map (fun r => (r.k, r.g, r.ents.length)) = some (q.k, q.g, (s.runCells q.g).length)
        ∧ (t.gleaner 0).running = none ∧ s.onlyChanges [.reply, .out, .survey, .free, .glean, .ports, .host, .expo] t)
    ∧ (s.coreRuns = true → s.survey.fn = .running → s.survey.run = some st → s.survey.locked = true → s.survey.lat.runEnd s.survey.point st ≤ s.clk.tt →
      (s.survey.group + 1 < groupsOf s.survey.lat →
        ∃ t, exec .surveyRunEnd s = .next t ∧ t.survey.group = s.survey.group + 1 ∧ t.survey.run = none
          ∧ t.survey.after = s.survey.lat.runEnd s.survey.point st ∧ t.survey.fn = .running ∧ t.survey.recs = s.survey.recs
          ∧ s.onlyChanges [.reply, .out, .survey, .cells, .ports, .host, .glean, .expo] t)
      ∧ (groupsOf s.survey.lat ≤ s.survey.group + 1 → s.survey.point + 1 < s.survey.lat.points →
        ∃ t, exec .surveyRunEnd s = .next t ∧ t.survey.group = 0 ∧ t.survey.point = s.survey.point + 1 ∧ t.survey.fn = .running
          ∧ s.onlyChanges [.reply, .out, .survey, .cells, .ports, .host, .glean, .expo] t)
      ∧ (groupsOf s.survey.lat ≤ s.survey.group + 1 → s.survey.lat.points ≤ s.survey.point + 1 → s.survey.jobs = [] →
          s.mode.mode = .survey →
        ∃ t, exec .surveyRunEnd s = .next t ∧ t.survey.fn = .stopped ∧ t.survey.last = 2 ∧ t.survey.exciteOn = false
          ∧ t.kept.survey = none ∧ t.mode = { s.mode with mode := .run })
      ∧ (groupsOf s.survey.lat ≤ s.survey.group + 1 → s.survey.lat.points ≤ s.survey.point + 1 → s.survey.jobs ≠ [] →
        ∃ t, exec .surveyRunEnd s = .next t ∧ t.survey.fn = .running ∧ t.survey.closing = some (2, true) ∧ t.survey.run = none
          ∧ t.survey.jobs = s.survey.jobs))

/-- The baseline window (R98, R99). A read gives the word at the index and steps it, wrapping after 1,022; a write sets the word; both
are BUSY while SURVEY runs. BASE_SAVE writes the area with its CRC-32C into sector 15 of the data flash and no other byte.

exec answers a next state with the command's own effect, under the premises on the state and operands shown, for: BASE_SAVE,
BASE_DATA_READ, BASE_DATA_WRITE. -/
def Obligations.BaselineWindow : Prop :=
  ∀ (s : State) (v x : Nat), s.reachable = true → s.mode.mode ≠ .lockout →
    (s.survey.fn = .stopped →
      exec .baseDataRead s = .next { s with
        out := []
        reply := some { status := stOk, value := s.survey.baseArea.getD s.survey.baseIndex 0
                        words := [s.survey.baseArea.getD s.survey.baseIndex 0], bytes := [] }
        survey := { s.survey with baseIndex := if s.survey.baseIndex = 1022 then 0 else s.survey.baseIndex + 1 } })
    ∧ (s.survey.fn = .stopped → s.survey.baseIndex ≠ 0 →
      exec (.baseDataWrite v) s = .next { s with
        out := [], reply := some { status := stOk, value := 0, words := [], bytes := [] }
        survey := { s.survey with baseArea := s.survey.baseArea.set s.survey.baseIndex (v % 2 ^ 32), base := 3
                                  baseIndex := if s.survey.baseIndex = 1022 then 0 else s.survey.baseIndex + 1 } })
    ∧ (s.survey.fn ≠ .stopped →
      exec .baseDataRead s = .next { s with out := [], reply := some { status := stBusy, value := 0, words := [0], bytes := [] } })
    ∧ (s.survey.fn ≠ .stopped →
      exec (.baseDataWrite v) s = .next { s with out := [], reply := some { status := stBusy, value := 0, words := [], bytes := [] } })
    ∧ (s.survey.fn = .stopped → s.survey.baseArea.length = 1023 → s.memWf → x < 0x40000 →
      ∃ t, exec .baseSave s = .next t ∧ s.onlyChanges [.reply, .out, .flash, .wdog] t
        ∧ t.wdog = { s.wdog with erasing := t.wdog.erasing } ∧ t.flash = { s.flash with dataArea := t.flash.dataArea, erases := s.flash.erases ++ [.data] }
        ∧ t.flash.bank0 = s.flash.bank0 ∧ t.flash.bank1 = s.flash.bank1
        ∧ mget flashByte t.flash.dataArea x = (if 0xF000 ≤ x ∧ x < 0x10000
            then (withCrc (wordsLe 4 s.survey.baseArea)).getD (x - 0xF000) 0 else mget flashByte s.flash.dataArea x))

/-- The function BALANCE (R106–R112, R116, R120). START where no check refuses it sets the remaining time of every enabled cell to its SECONDS (5,120,000
edges of 4 tt a second), latches the enables and the limit, and takes QUIET to RUN; a refused one changes REASON alone; STOP opens every
switch that no request of rank 2 holds, and STOPPED follows; the governor chooses once in a slot, at most the requested cells; a cell whose time is over is
requested no more and its switch opens while the others go on, and when none is left the function stops with LAST = COMPLETE.

exec answers a next state with the command's own effect, under the premises on the state and operands shown, for: BALANCE_START,
BALANCE_STOP, BALANCE_STOPPED, GOVERNOR_SLOT, BALANCE_TIMER_EXPIRE. -/
def Obligations.BalanceFunction : Prop :=
  ∀ (s : State) (n m : Nat) (cont : Bool), s.reachable = true → s.cells.length = 48 →
    (s.mode.mode ≠ .lockout → s.bal.fn = .stopped → s.balanceRefusal ≠ 0 →
      exec (.balanceStart cont) s = .next { s with
        out := [], reply := some { status := stDenied, value := 0, words := [], bytes := [] }, bal := { s.bal with reason := s.balanceRefusal } })
    ∧ (s.mode.mode ≠ .lockout → s.bal.fn = .stopped → s.balanceRefusal = 0 → 1 ≤ n → n ≤ 48 →
      ∃ t, exec (.balanceStart cont) s = .next t ∧ t.bal.lEnable = s.bal.enable ∧ t.bal.lLimit = s.bal.limit
        ∧ (t.cell n).remain = (if inMask s.bal.enable n = false then 0
            else if cont = true ∧ (s.cell n).remain ≠ 0 then (s.cell n).remain else 5120000 * (s.cell n).seconds)
        ∧ (t.bal.fn = .running ∨ t.bal.last = 2)
        ∧ t.mode = { s.mode with mode := if s.mode.mode = .quiet then .run else s.mode.mode }
        ∧ s.onlyChanges [.reply, .out, .bal, .cells, .mode, .flash, .host] t)
    ∧ (s.mode.mode ≠ .lockout → s.bal.fn = .running →
      ∃ t, exec .balanceStop s = .next t ∧ t.bal = { s.bal with fn := .stopping, allowed := 0 }
        ∧ (1 ≤ n → n ≤ 48 → s.rank2 n = none → (t.cell n).closed = false) ∧ s.onlyChanges [.reply, .out, .bal, .cells] t)
    ∧ (s.bal.fn = .stopping →
      exec .balanceStopped s = .next { s with reply := none, out := [], bal := { s.bal with fn := .stopped, last := 3, suspHalt := false } })
    ∧ (s.slotDue = true → s.bal.fn = .running →
      ∃ t, exec .governorSlot s = .next t ∧ t.bal.slotAt = some (s.clk.tt / 128000 * 128000)
        ∧ (inMask t.bal.allowed n = true → n ∈ s.govReq) ∧ s.onlyChanges [.reply, .out, .bal, .cells] t)
    ∧ (s.slotDue = true → s.bal.fn ≠ .running →
      exec .governorSlot s = .next { s with
        reply := none, out := [], bal := { s.bal with governing := false, slotAt := some (s.clk.tt / 128000 * 128000), resumeAt := none } })
    ∧ (s.bal.fn = .running → inMask s.bal.lEnable n = true → (s.cell n).remain = 0 → 1 ≤ n → n ≤ 48 →
        1 ≤ m → m ≤ 48 → inMask s.bal.lEnable m = true → (s.cell m).remain ≠ 0 → (s.cell m).excluded = false →
      ∃ t, exec (.balanceTimerExpire n) s = .next t ∧ t.bal = s.bal ∧ n ∉ t.govReq ∧ t.govReq = s.govReq
        ∧ (s.rank2 n = none → (t.cell n).closed = false) ∧ s.onlyChanges [.reply, .out, .cells] t)
    ∧ (s.bal.fn = .running → inMask s.bal.lEnable n = true → (s.cell n).remain = 0 →
        (∀ m ∈ cellNums, inMask s.bal.lEnable m = true → (s.cell m).remain = 0) →
      ∃ t, exec (.balanceTimerExpire n) s = .next t ∧ t.bal = { s.bal with fn := .stopped, last := 2, allowed := 0, suspHalt := false }
        ∧ s.onlyChanges [.reply, .out, .bal, .cells] t)

/-! ### Proof rounds, runtime tests, the resistance table, the lamplighter -/

/-- The proof path (R122, R123, R129, R130, R132, R144, R146–R148). A round, due once in each 1 ms, keeps the 12-bit sample and the mirror of
every cell of a present tier whose channel works, at a tree time that is a multiple of 1 ms; a cell of another tier, and one whose sample was lost
with a discarded frame, keeps what it had; a mirror above 2 mA with the switch open for 100 µs counts, and the third in a row excludes
the cell with FLT_BALANCE_SW (5); a due cross-check notes its time, and the eighth in a row beyond 400 ppm raises the reference drift (2); a test twice its
period overdue sets its OVERDUE bit, at four times it raises FLT_RUNTIME_TEST (25); a lamp limit met in DORMANT by a round that is due, here by
cell 1, selected, wakes toward the ROOT and records source 2 and the cell, and a round that meets none keeps its multiple of the interval
alone: when a round is due and which cells it compares are the model's choices (logs 81, 103).

exec answers a next state with the command's own effect, under the premises on the state and operands shown, for: PROOF_ROUND,
WITNESS_CROSS_CHECK, TEST_OVERDUE, LAMPLIGHTER_ROUND. -/
def Obligations.ProofPath : Prop :=
  ∀ (s : State) (r : ProofRead) (n tier : Nat) (ppb : Int) (v : List Nat), s.coreRuns = true → s.cells.length = 48 →
    (s.roundDue = true → 1 ≤ n → n ≤ 48 →
      ∃ t, exec (.proofRound r) s = .next t
        ∧ (s.tierWorks (tierOf n) = true → n ∉ s.sweep.proofLost →
            (t.cell n).proof = min 4095 (r.samples.getD (n - 1) 0) ∧ (t.cell n).mirror = r.mirrors.getD (n - 1) 0)
        ∧ (s.tierWorks (tierOf n) = false ∨ n ∈ s.sweep.proofLost →
            (t.cell n).proof = (s.cell n).proof ∧ (t.cell n).mirror = (s.cell n).mirror)
        ∧ (s.tierWorks (tierOf n) = true → n ∉ s.sweep.proofLost → (s.cell n).closed = false →
            2048 ≤ s.clk.wall - (s.cell n).changed → 2000 < r.mirrors.getD (n - 1) 0 → (s.cell n).mirCount = 2 →
            (t.cell n).excluded = true ∧ (t.cell n).stuck.isSome = true ∧ { id := 5, item := n, time := s.clk.tt, mode := s.mode.mode.code } ∈ t.fault.evq)
        ∧ (t.diag.rounds.head?).map ProofRound.t = some (s.clk.tt / 20480 * 20480) ∧ t.sweep.proofLost = [] ∧ t.sweep.slotsLost = []
        ∧ (s.clk.treeOn = true → t.diag.roundAt = some (s.clk.tt / 20480))
        ∧ (s.tierWorks tier = true → (tier, 18) ∉ s.sweep.slotsLost → s.sweep.tierTemp.length = 3 → t.sweep.tierTemp.getD (tier - 1) none = some (r.temps.getD (tier - 1) 0))
        ∧ s.onlyChanges [.reply, .out, .cells, .diag, .sweep, .fault, .bal, .safety, .free, .ports, .host, .glean, .expo] t)
    ∧ (s.witnessDue tier = true → ppb.natAbs ≤ 400000 →
      exec (.witnessCrossCheck tier ppb) s = .next { s with reply := none, out := [], diag := { s.diag with
        witAt := s.diag.witAt.set (tier - 1) (some s.clk.wall), witRec := s.diag.witRec.set (tier - 1) (some s.sweep.counted)
        witCnt := s.diag.witCnt.set (tier - 1) 0, refWit := s.diag.refWit.set (tier - 1) false } })
    ∧ (tier = 2 → s.witnessDue tier = true → 400000 < ppb.natAbs → s.diag.witCnt = [0, 7, 0] →
        s.diag.refWit = [false, false, false] → s.diag.refProof = [false, false, false] →
      ∃ t, exec (.witnessCrossCheck tier ppb) s = .next t ∧ t.diag.refWit = [false, true, false] ∧ t.diag.witCnt = [0, 8, 0]
        ∧ t.fault.evq = s.fault.evq ++ [{ id := 2, item := tier, time := s.clk.tt, mode := s.mode.mode.code }] ∧ s.onlyChanges [.reply, .out, .diag, .fault] t)
    ∧ (s.reachable = true → s.diag.owEn = true → s.diag.ovrOw = false → 2 * (s.diag.owPeriod * ttMs) ≤ s.clk.wall - s.diag.owSince →
        s.clk.wall - s.diag.owSince < 4 * (s.diag.owPeriod * ttMs) →
      ∃ t, exec (.testOverdue 8) s = .next t ∧ t.diag = { s.diag with ovrOw := true } ∧ s.onlyChanges [.reply, .out, .diag, .flash] t)
    ∧ (s.reachable = true → s.diag.switchEn = true → s.diag.swFault = false → s.diag.owFault = false →
        4 * (s.diag.swPeriod * ttS) ≤ s.clk.wall - s.diag.swSince →
      ∃ t, exec (.testOverdue 7) s = .next t ∧ t.diag.swFault = true ∧ t.diag.ovrSwitch = true
        ∧ t.fault.evq = s.fault.evq ++ [{ id := 25, item := 7, time := s.clk.tt, mode := s.mode.mode.code }] ∧ s.onlyChanges [.reply, .out, .diag, .flash, .fault] t)
    ∧ (s.reachable = true → s.diag.harnessEn = true → s.diag.ovrHarness = false → 2 * (s.diag.haPeriod * ttS) ≤ s.clk.wall - s.diag.haSince →
      ∃ t, exec (.testOverdue 9) s = .next t ∧ t.diag = { s.diag with ovrHarness := true } ∧ s.onlyChanges [.reply, .out, .diag, .flash, .free] t)
    ∧ (s.lampDue = true → s.enrolled = false → s.mode.lampUv = 0 → s.mode.lampOv ≠ 0 → s.tierPresent 1 = true → s.selected 1 = true →
        1 ∉ s.sweep.proofLost → 100 * s.mode.lampOv ≤ 150 * v.getD 0 0 →
      exec (.lamplighterRound v [] []) s = .next { s with
        reply := none, out := [.tone s.tree.curUp none]
        mode := { s.mode with lampAt := s.lampMultiple, wakeSource := 2, lampItem := 1, lampSafety := false }
        sweep := { s.sweep with proofLost := [], slotsLost := [],
                                auxSeen := if s.sweep.par.auxDiv = 0 then s.sweep.auxSeen else s.sweep.auxSeen.map (fun _ => s.clk.wall) } })
    ∧ (s.lampDue = true → s.enrolled = false → s.mode.lampUv = 0 → s.mode.lampOv = 0 →
      exec (.lamplighterRound v [] []) s = .next { s with
        reply := none, out := []
        mode := { s.mode with lampAt := s.lampMultiple }
        sweep := { s.sweep with proofLost := [], slotsLost := [],
                                auxSeen := if s.sweep.par.auxDiv = 0 then s.sweep.auxSeen else s.sweep.auxSeen.map (fun _ => s.clk.wall) } })

/-- The tests that drive the cells (R133, R135–R140, R142, R149). A due step starts with its cell or wire entered; the on-test ends, with the 1 ms of its tier's
recovery to go, with path and switch resistance from the current, or with FLT_BALANCE_SW (5) and the entries invalid where no current flowed from 1.5 V or more; a wire that does
not fall is open only when it was suspected before; a harness cell begins at the next multiple of 20,480 tt, closes its own switch alone, collects the stream outputs of its window, takes 5,672,960 tt
and leaves its estimates, and the pass ends with the table of wires; HARNESS_NOW and SWITCH_NOW begin a pass anew.

The window of the resistance table (R150, R151). A read gives the word at INDEX, value and VALID, and steps the index modulo 256; a write with
the functions STOPPED sets a wire's word, and is BUSY while SWEEP, BALANCE or SURVEY is not.

exec answers a next state with the command's own effect, under the premises on the state and operands shown, for: SWITCH_ON_TEST_STEP,
SWITCH_ON_TEST_END, OPEN_WIRE_TEST_STEP, OPEN_WIRE_TEST_END, HARNESS_CELL, HARNESS_PASS_COMPLETE, HARNESS_NOW, SWITCH_NOW,
TABLE_DATA_READ, TABLE_DATA_WRITE. -/
def Obligations.RuntimeTestsAndTableWindow : Prop :=
  (∀ (s : State) (n k w ua uv : Nat) (below own above : Int), s.coreRuns = true → s.diag.readLost = [] → s.cells.length = 48 → 1 ≤ n → n ≤ 48 →
    (s.switchDue n = true → 150000 ≤ s.testV n →
      ∃ t, exec (.switchOnTestStep n) s = .next t ∧ t.diag = { s.diag with steps := s.diag.steps.filter (fun x => !x.over s.clk.tt) ++ [TestStep.switch n s.clk.tt] }
        ∧ s.onlyChanges [.reply, .out, .diag, .cells] t)
    ∧ (s.diag.steps = [TestStep.switch n w] → w + 40960 ≤ s.clk.tt → 5000 ≤ ua → uv ≤ 3 * ua → (s.cell n).prevPath = 0 →
      ∃ t, exec (.switchOnTestEnd n ua uv) s = .next t ∧ t.diag.steps = [.rest (tierOf n) (w + 61440)]
        ∧ (t.cell n).rPath = { v := min 0xFFFFFF (roundDiv ((s.testV n).toNat * 10000) ua).toNat, ok := true }
        ∧ (t.cell n).rOn = { v := min 0xFFFF (roundDiv (uv * 1000) ua).toNat, ok := true }
        ∧ s.onlyChanges [.reply, .out, .diag, .cells, .bal] t)
    ∧ (s.diag.steps = [TestStep.switch n w] → w + 40960 ≤ s.clk.tt → ua < 5000 → 150000 ≤ s.testV n → s.mode.mode ∉ [.ship, .keep] →
      ∃ t, exec (.switchOnTestEnd n ua uv) s = .next t ∧ t.diag.steps = [.rest (tierOf n) (w + 61440)] ∧ (t.cell n).rPath.ok = false ∧ (t.cell n).rOn.ok = false
        ∧ (t.cell n).excluded = true ∧ t.fault.evq = s.fault.evq ++ [{ id := 5, item := n, time := s.clk.tt, mode := s.mode.mode.code }]
        ∧ s.onlyChanges [.reply, .out, .diag, .cells, .bal, .fault] t)
    ∧ (s.wireDue n = true →
      exec (.openWireTestStep n) s = .next { s with reply := none, out := [], diag :=
        { s.diag with steps := s.diag.steps.filter (fun x => !x.over s.clk.tt) ++ [TestStep.wire n s.clk.tt] } })
    ∧ (s.diag.steps = [TestStep.wire n w] → w + 20480 ≤ s.clk.tt → below ≤ 150000 → s.diag.openWires = [] →
      ∃ t, exec (.openWireTestEnd n below own above) s = .next t ∧ t.diag.steps = [.rest (tierOf n) (w + 40960)] ∧ t.diag.openWires = []
        ∧ (∀ p ∈ t.diag.suspects, p.1 ≠ n) ∧ s.onlyChanges [.reply, .out, .diag, .cells, .bal] t)
    ∧ (s.diag.steps = [TestStep.wire n w] → w + 20480 ≤ s.clk.tt → 150000 < below → s.diag.openWires = [] → s.diag.suspects = [] →
      ∃ t, exec (.openWireTestEnd n below own above) s = .next t ∧ t.diag.openWires = []
        ∧ t.diag.suspects = [(n, s.namedWires n own above)] ∧ t.fault = s.fault)
    ∧ (s.diag.steps = [TestStep.wire n w] → w + 20480 ≤ s.clk.tt → 150000 < below → 150000 < above → own ≤ 150000 →
        s.diag.openWires = [] → s.diag.suspects = [(n, [n])] → s.mode.mode ∉ [.ship, .keep] →
      ∃ t, exec (.openWireTestEnd n below own above) s = .next t ∧ t.diag.openWires = [n]
        ∧ t.fault.evq = s.fault.evq ++ [{ id := 3, item := n, time := s.clk.tt, mode := s.mode.mode.code }])
    ∧ (s.harnessDue n = true →
      ∃ t, exec (.harnessCell n below own above k) s = .next t
        ∧ t.diag = { s.diag with steps := [TestStep.harness n ((s.clk.tt + 20479) / 20480 * 20480)], harnessOn := true, hOuts := [] }
        ∧ (s.survey.run = none → 1 ≤ k → k ≤ 48 → (t.cell k).closed = (decide (k = n) && s.tierPresent (tierOf n) && decide (s.clk.tt % 20480 = 0)))
        ∧ s.onlyChanges [.reply, .out, .diag, .cells] t)
    ∧ (s.diag.steps = [TestStep.harness n w] → s.diag.hOuts = [] → s.clk.tt < w + 5672960 →
        w + 389120 ≤ s.streamTap 4 → s.streamTap 4 < w + 5632000 →
      exec (.harnessCell n below own above k) s = .next { s with reply := none, out := [], diag := { s.diag with
        hOuts := [(s.streamTap 4, [clampCell below, clampCell own, clampCell above], s.filteredOf 4 (s.streamTap 4) n k false)] } })
    ∧ (s.diag.steps = [TestStep.harness n w] → w + 5672960 ≤ s.clk.tt →
      ∃ t, exec (.harnessCell n below own above k) s = .next t ∧ t.diag.steps = [] ∧ t.diag.hOuts = [] ∧ t.diag.haDone = n :: s.diag.haDone
        ∧ (t.diag.ests.head?).map Prod.fst = some n ∧ t.diag.ests.drop 1 = s.diag.ests ∧ s.onlyChanges [.reply, .out, .diag, .cells] t)
    ∧ (s.passComplete = true →
      ∃ t, exec .harnessPassComplete s = .next t ∧ t.diag.harnessOn = false ∧ t.diag.haDone = [] ∧ t.diag.ests = []
        ∧ t.diag.harnessAt = some s.clk.wall ∧ t.diag.rw = s.passTable ∧ s.onlyChanges [.reply, .out, .diag, .flash] t)
    ∧ (s.reachable = true → s.mode.mode ≠ .lockout → s.diag.harnessEn = true →
      exec .harnessNow s = .next { s with
        out := [], reply := some { status := stOk, value := 0, words := [], bytes := [] }
        diag := { s.diag with harnessOn := true, haDone := [], ests := [] } })
    ∧ (s.reachable = true → s.mode.mode ≠ .lockout → s.diag.switchEn = true →
      exec .switchNow s = .next { s with
        out := [], reply := some { status := stOk, value := 0, words := [], bytes := [] }
        diag := { s.diag with swNow := true, swDone := [] } }))
  ∧
  (∀ (s : State) (v : Nat), s.reachable = true → s.mode.mode ≠ .lockout →
    (s.mode.station = false →
      exec .tableDataRead s = .next { s with
        out := []
        reply := some { status := stOk, value := s.tableWord s.diag.index, words := [s.tableWord s.diag.index], bytes := [] }
        diag := { s.diag with index := (s.diag.index + 1) % 256 } })
    ∧ (s.sweep.fn = .stopped → s.bal.fn = .stopped → s.survey.fn = .stopped → s.diag.index < 49 →
      exec (.tableDataWrite v) s = .next { s with
        out := [], reply := some { status := stOk, value := 0, words := [], bytes := [] }
        diag := { s.diag with rw := s.diag.rw.set s.diag.index { v := v % 2 ^ 20, ok := v.testBit 31 }
                              harnessAt := some s.clk.wall, index := (s.diag.index + 1) % 256 } })
    ∧ (s.sweep.fn ≠ .stopped ∨ s.bal.fn ≠ .stopped ∨ s.survey.fn ≠ .stopped →
      exec (.tableDataWrite v) s = .next { s with out := [], reply := some { status := stBusy, value := 0, words := [], bytes := [] } }))

/-! ### Gleaners, harvests, exposures -/

/-- Jobs (R153–R160). A job that finds a slot and room goes to the end of the shortest deque of a working gleaner; an idle working gleaner takes the oldest
job of the longest deque, from another gleaner's deque with GLEANS counted (R158); a job that finishes leaves its gleaner idle, with FLT_GRANARY_ECC (12) where its input could not be
read; a FORWARD job, whose key is the model's choice (log 83), sends its record once its turn and credits have come; an island disabled with its running jobs ended leaves use and keeps no queued job.

Harvest timers (R170). A contributor that is silent for T_RESP is missing, and the last one to settle closes the harvest; a
harvest still open reports PENDING every T_RESP / 4: a PENDING frame with its TAG joins those for the harvest's SRC on the port that leads
there (shown on one that trains).

exec answers a next state with the command's own effect, under the premises on the state and operands shown, for: JOB_ADMISSION, GLEAN,
JOB_FINISH, ISLAND_DISABLE, HARVEST_CONTRIBUTOR_TIMEOUT, HARVEST_PENDING_TIMER. -/
def Obligations.JobsAndHarvestTimers : Prop :=
  (∀ (s : State) (kind : JobKind) (key g n b i o : Nat) (j : Job) (r : Rec), s.glean.gleaners.length = 16 → s.coreRuns = true →
    (s.reachable = true → s.mode.mode ≠ .halted → s.glean.waiting = [] → s.shortest = some g → s.freeSlot kind = some n → (s.gleaner g).deque.length < 32 →
      exec (.jobAdmission kind key) s = .next { s with reply := none, out := [], glean := { s.glean with
        gleaners := updAt s.glean.gleaners g (fun (q : GleanerSt) => { q with deque := q.deque ++ [Job.mk n kind key 0 s.glean.nextAdm] })
        nextAdm := s.glean.nextAdm + 1, jobsUsed := true } })
    ∧ (s.reachable = true → s.mode.mode ≠ .halted → s.glean.waiting = [] → s.breakFree = true → s.dbg.passJob = none → g < 16 →
        s.islandWorks (g / 4) = true → (s.gleaner g).running = none →
      (s.longest = some g → (s.gleaner g).deque.head? = some j →
        exec (.glean g) s = .next { s with reply := none, out := [], glean := { s.glean with
          gleaners := updAt s.glean.gleaners g (fun (q : GleanerSt) => { q with running := some j, deque := q.deque.drop 1 }) } })
      ∧ (s.longest = some o → o < 16 → o ≠ g → (s.gleaner o).deque.head? = some j →
        exec (.glean g) s = .next { s with reply := none, out := [], glean := { s.glean with
          gleans := min 0xFFFF (s.glean.gleans + 1)
          gleaners := updAt (updAt s.glean.gleaners o (fun (q : GleanerSt) => { q with deque := q.deque.drop 1 })) g
            (fun (q : GleanerSt) => { q with running := some j }) } }))
    ∧ (g < 16 → (s.gleaner g).running = some j →
      ∃ t, exec (.jobFinish g (some b)) s = .next t ∧ (t.gleaner g).running = none
        ∧ (s.mode.mode ∉ [.ship, .keep] → { id := 12, item := b, time := s.clk.tt, mode := s.mode.mode.code } ∈ t.fault.evq))
    ∧ (s.mode.mode ≠ .halted → g < 16 → (s.gleaner g).running = some j → j.kind = .forward → s.glean.finished = [] → s.glean.waiting = [] →
        s.glean.harvests = [] → s.keyBlocked j = false → s.glean.forwards = [(j.tag, .record r)] → r.intact = true → s.isRoot = false →
        s.forwardGranted j.tag = true →
      exec (.jobFinish g none) s = .next (({ s with reply := none, out := [], glean := { s.glean with
        gleaners := updAt s.glean.gleaners g (fun (q : GleanerSt) => { q with running := none }), forwards := [] } } : State).sendTo
          (heldFrame s j.tag r)).flush)
    ∧ (i < 4 → bit s.glean.inUse i = true → bit s.glean.islandEn i = false → [0, 1, 2, 3].all (fun k => (s.gleaner (4 * i + k)).running.isNone) = true →
      ∃ t, exec (.islandDisable i) s = .next t ∧ bit t.glean.inUse i = false ∧ t.glean.islandEn = s.glean.islandEn
        ∧ [0, 1, 2, 3].all (fun k => (t.gleaner (4 * i + k)).deque.isEmpty) = true ∧ s.onlyChanges [.reply, .out, .glean, .ports, .host] t))
  ∧
  (∀ (s : State) (h : Harvest) (a b : Contributor) (u q : Nat), s.coreRuns = true → s.glean.harvests = [h] → h.up = some u → h.kids = [a, b] →
    (a.settled = false → b.settled = false → h.tResp * ttMs ≤ s.clk.wall - a.since → s.clk.wall - b.since < h.tResp * ttMs →
      exec (.harvestContributorTimeout h.tag) s = .next ({ s with reply := none, out := [], glean := { s.glean with
        harvests := [{ h with kids := [{ a with lost := true }, b] }] } } : State).flush)
    ∧ (a.settled = false → b.settled = true → h.tResp * ttMs ≤ s.clk.wall - a.since → h.todo = [] → h.collecting = false →
        (isQueryReq h.req = true → s.outRoom = true ∧ (∀ k ∈ h.kids, ∀ p, k.port = some p → p < 16)
          ∧ ∀ k ∈ h.kids, ∀ c, k.given = some c → c.gather = false) →
      ∃ t, exec (.harvestContributorTimeout h.tag) s = .next t ∧ t.glean.harvests = []
        ∧ s.onlyChanges [.reply, .out, .glean, .ports, .host, .expo, .free] t)
    ∧ (h.tResp * ttMs / 4 ≤ s.clk.wall - h.lastPend →
      ∃ t, exec (.harvestPendingTimer h.tag) s = .next t ∧ t.glean.harvests = [{ h with lastPend := s.clk.wall }]
        ∧ (s.route h.src = .out q → s.trains q = true → (t.port q).txq.control = (s.port q).txq.control
            ++ [{ frame := { typ := 6, cls := 1, hasScope := false, dest := h.src, src := s.tree.pos, depth := 0, tag := h.tag, payload := [] }
                  src := none }])
        ∧ s.onlyChanges [.reply, .out, .glean, .ports, .host, .expo] t))

/-- Exposures (R172–R176). The first output that meets the threshold of an armed exposure sets T_trip to its time; one that meets it after
a T_trip was received sets TRIP_CONFLICT alone (DEDUCED, log 84); with the last output of its window the capture freezes into the segment
of Table 6.8; a threshold exposure without a trigger by its deadline delivers a segment with NO_TRIGGER and no samples (the model's
choice, log 53: the two times of such a segment are two free values).

exec answers a next state with the command's own effect, under the premises on the state and operands shown, for:
EXPOSURE_THRESHOLD_TRIP, EXPOSURE_FREEZE, EXPOSURE_ARM_DEADLINE. -/
def Obligations.ExposuresTripFreezeAndExpire : Prop :=
  ∀ (s : State) (x : Sample) (p t0 : Nat), s.coreRuns = true →
    (s.expo.state = .armed → s.expo.trip = none → s.expo.ring = [x] → s.meets x = true →
      ∃ t, exec .exposureThresholdTrip s = .next t ∧ t.expo.trip = some x.t ∧ t.expo.own = true
        ∧ (t.expo.state = .armed ∨ t.expo.state = .capturing) ∧ t.expo.ring = [x]
        ∧ s.onlyChanges [.reply, .out, .expo, .ports, .host, .glean, .tree] t)
    ∧ (s.expo.state = .armed → s.expo.trip = some t0 → s.expo.own = false → s.expo.ring = [x] → s.meets x = true →
      exec .exposureThresholdTrip s = .next ({ s with reply := none, out := [], expo := { s.expo with conflict := true } } : State).flush)
    ∧ (s.expo.state = .armed → s.expo.trip = none → s.expo.ring = [x] → s.meets x = false →
      exec .exposureThresholdTrip s = .next ({ s with reply := none, out := [] } : State).flush)
    ∧ (s.expo.state = .capturing → s.expo.trip = some t0 → s.expo.ring = [x] → s.expoLast t0 ≤ x.t → bit s.expo.plan.options 0 = false →
        s.isRoot = false → s.route 0 = .out p → p < 4 → s.ports.length = 4 → (∀ q ∈ s.ports, q.link = .down) → s.segmentBytes s.expoSamples false t0
          ((s.expoSamples.head?.map Sample.t).getD t0) ≠ [] →
      ∃ t, exec .exposureFreeze s = .next t ∧ t.expo.state = .delivering
        ∧ t.expo.segment = s.segmentBytes s.expoSamples false t0 ((s.expoSamples.head?.map Sample.t).getD t0)
        ∧ s.onlyChanges [.reply, .out, .expo, .ports, .host] t)
    ∧ (s.expo.state = .armed → s.expo.plan.trigger ≠ 0 → s.expo.trip = none → s.expo.plan.time ≤ s.clk.tt →
      ∃ t, exec .exposureArmDeadline s = .next t ∧ t.free = s.free + 2 ∧ t.expo.trip = none ∧ t.expo.state ≠ .armed
        ∧ (s.isRoot = false → s.route 0 = .out p → p < 4 → s.ports.length = 4 → (∀ q ∈ s.ports, q.link = .down) →
          t.expo.state = .delivering
            ∧ t.expo.segment = s.segmentBytes [] true (Config.freeWord s.free).toNat (Config.freeWord (s.free + 1)).toNat
            ∧ bit (at_ t.expo.segment 6 2) 1 = true ∧ at_ t.expo.segment 0x18 2 = 0)
        ∧ s.onlyChanges [.reply, .out, .expo, .ports, .glean, .free, .host] t)

/-! ### Descriptors at an addressed device, the wire -/

/-- Register access at an addressed device (R265, R434–R441). PARAM_READ answers OK with the words from ADDR up, each read with what reading
it does; PARAM_WRITE writes its words from ADDR up, ends at the first that is refused and answers that word's status, and its verifying form
also compares what reads back (CHECK_FAIL); of the words, MODE.T_LOSS takes 100 to 60,000 and is DENIED any less, and SWEEP.PERIOD is taken
while SWEEP is STOPPED and BUSY otherwise, a refusal changing nothing; the debug port reads the same words, no RC field clearing, and writes
them; NOP answers OK. No comparator of the debug port is enabled where a request reads or writes here; where one matches a write, the device
halts before it, and the request waits (R426).

exec answers a next state with the command's own effect, under the premises on the state and operands shown, for: PARAM_READ,
PARAM_WRITE, PARAM_WRITE_VERIFY, NOP, DEBUG_PARAM_READ, DEBUG_PARAM_WRITE. -/
def Obligations.RegisterAccess : Prop :=
  ∀ (s : State) (h : Hdr) (v a n : Nat) (ws : List Nat), s.hasHost = false → s.mode.shipDue = false → s.reachable = true →
      s.mode.mode ≠ .lockout →
    (s.breakFree = true → argsOk (.paramRead a n) = true → s.readStatus a n = stOk →
      ∃ t, exec (.paramRead h a n) s = .next t
        ∧ (t.reply.map Reply.words) = some (({ s with reply := none, out := [] } : State).readAll (wordAddrs a n)).1
        ∧ (t.reply.map Reply.status) = some stOk
        ∧ s.onlyChanges [.reply, .out, .ports, .glean, .expo, .clk, .survey, .diag, .wire, .flash, .tree, .power, .free] t)
    ∧ (s.breakFree = true → s.mode.tLoss < 65536 → s.mode.lampInterval < 65536 →
      ∃ t, exec (.paramRead h 0x10C 2) s = .next t ∧ s.onlyChanges [.reply, .out, .ports, .glean, .expo] t
        ∧ (t.reply.map Reply.words) = some [s.mode.tLoss, s.mode.lampInterval] ∧ (t.reply.map Reply.status) = some stOk)
    ∧ (s.breakFree = true → argsOk (.paramWrite a ws) = true →
      exec (.paramWrite h a ws) s = .next { (((({ s with reply := none, out := [] } : State).writeAll a ws).2.answer
        (({ s with reply := none, out := [] } : State).writeAll a ws).1).flush).settleShip with pending := s.pending })
    ∧ (s.breakFree = true → 100 ≤ v → v ≤ 60000 →
      ∃ t, exec (.paramWrite h 0x10C [v]) s = .next t ∧ s.onlyChanges [.reply, .out, .mode, .ports, .glean, .expo] t
        ∧ t.mode = { s.mode with tLoss := v } ∧ t.reply = some { status := stOk, value := 0, words := [], bytes := [] })
    ∧ (s.breakFree = true → v < 100 →
      ∃ t, exec (.paramWrite h 0x10C [v]) s = .next t ∧ s.onlyChanges [.reply, .out, .ports, .glean, .expo] t
        ∧ t.reply = some { status := stDenied, value := 0, words := [], bytes := [] })
    ∧ (v < 2 ^ 32 → s.breakAt 2 0x10C true = some n → s.mode.mode ∈ [.quiet, .run, .degraded, .safe] → s.flash.commit.isOpen = false →
        s.higherDue = false →
      ∃ t, exec (.paramWrite h 0x10C [v]) s = .next t ∧ t.mode.mode = .halted ∧ t.mode.tLoss = s.mode.tLoss
        ∧ t.dbg.hit = n ∧ t.dbg.hitValid = true
        ∧ t.dbg.held = s.dbg.held ++ [{ tag := none, src := 0, pos := s.tree.pos, depth := 0, owes := none, req := .paramWrite 0x10C [v] }])
    ∧ (s.breakFree = true → argsOk (.paramWriteVerify a ws) = true →
      exec (.paramWriteVerify h a ws) s = .next { (((({ s with reply := none, out := [] } : State).writeVerify a ws).2.answer
        (({ s with reply := none, out := [] } : State).writeVerify a ws).1).flush).settleShip with pending := s.pending })
    ∧ (s.breakFree = true → s.sweep.fn = .stopped → 40 ≤ v → v ≤ 2400000 →
      ∃ t, exec (.paramWriteVerify h 0x204 [v]) s = .next t ∧ s.onlyChanges [.reply, .out, .sweep, .ports, .glean, .expo] t
        ∧ t.sweep = { s.sweep with par := { s.sweep.par with period := v } }
        ∧ t.reply = some { status := stOk, value := 0, words := [], bytes := [] })
    ∧ (s.breakFree = true → s.sweep.fn ≠ .stopped →
      ∃ t, exec (.paramWriteVerify h 0x204 [v]) s = .next t ∧ s.onlyChanges [.reply, .out, .ports, .glean, .expo] t
        ∧ t.reply = some { status := stBusy, value := 0, words := [], bytes := [] })
    ∧ (s.ident.debugLock = false → paramAddr a = true → s.readRefusal a = stOk →
      ∃ t, exec (.debugParamRead a (dbgChk 1 a none)) s = .next t
        ∧ t.reply = some { status := stOk, value := (({ s with reply := none, out := [] } : State).dbgAttach.readDebug a).1
                           words := [(({ s with reply := none, out := [] } : State).dbgAttach.readDebug a).1], bytes := [] }
        ∧ s.onlyChanges [.reply, .out, .dbg, .flash, .clk, .survey, .diag, .wire, .power, .free] t)
    ∧ (s.ident.debugLock = false → s.mode.tLoss < 65536 →
      ∃ t, exec (.debugParamRead 0x10C (dbgChk 1 0x10C none)) s = .next t ∧ s.onlyChanges [.reply, .out, .dbg, .flash] t
        ∧ t.reply = some { status := stOk, value := s.mode.tLoss, words := [s.mode.tLoss], bytes := [] })
    ∧ (s.ident.debugLock = false → paramAddr a = true →
        (({ s with reply := none, out := [] } : State).dbgAttach.writePort a v).1 = stOk →
      exec (.debugParamWrite a v (dbgChk 2 a (some v))) s = .next { (((((({ s with reply := none, out := [] } : State).dbgAttach.writePort a v).2.answer
        stOk).emit (.dio (dioBits 1 none))).flush).settleShip) with pending := s.pending })
    ∧ (s.ident.debugLock = false → 100 ≤ v → v ≤ 60000 →
      ∃ t, exec (.debugParamWrite 0x10C v (dbgChk 2 0x10C (some v))) s = .next t
        ∧ s.onlyChanges [.reply, .out, .dbg, .flash, .mode, .ports, .glean, .expo] t ∧ t.mode = { s.mode with tLoss := v })
    ∧ (∃ t, exec (.nop h) s = .next t ∧ s.onlyChanges [.reply, .out, .ports, .glean, .expo] t
        ∧ t.reply = some { status := stOk, value := 0, words := [], bytes := [] })

/-- What the larger requests begin at a device (R161, R172, R88, R331, R411, R413, R419). QUERY raises a member job under its order key; EXPOSE arms;
SURVEY_RUN starts the survey at its T0; FLASH_COMMIT opens a commit in ERASING and takes QUIET to COMMIT; FLASH_LOAD programs
a page of the loaded image; LOG_READ gives the entries of its log from FIRST up, of the BIST log the record of the last run; CHECK_RUN
occupies its unit with its algorithm and length.

exec answers a next state with the command's own effect, under the premises on the state and operands shown, for: QUERY, EXPOSE,
SURVEY_RUN, FLASH_LOAD, FLASH_COMMIT, LOG_READ, CHECK_RUN. -/
def Obligations.DescriptorsBeginTheirWork : Prop :=
  ∀ (s : State) (h : Hdr) (q : Prog) (p : Plan) (t0 tag src n c g k a y o : Nat) (bs : List Byte), s.hasHost = false → s.mode.shipDue = false →
    s.reachable = true →
    (s.mode.mode ∉ [.lockout, .halted] → progValid q = true → q.skip < 4 → s.working ≠ [] → s.glean.waiting = [] → s.shortest = some g →
        s.freeSlot .member = some k → (s.gleaner g).deque.length < 32 → s.glean.gleaners.length = 16 →
      ∃ t, exec (.query h q) s = .next t ∧ s.onlyChanges [.reply, .out, .glean, .ports, .expo] t ∧ t.glean.nextAdm = s.glean.nextAdm + 1
        ∧ t.glean.members = s.glean.members ++ [(0, none, Req.query q 0, s.tree.pos, 0)]
        ∧ (t.gleaner g).deque = (s.gleaner g).deque ++ [Job.mk k .member 0 0 s.glean.nextAdm])
    ∧ (s.mode.mode = .run → s.expo.state = .idle → planValid p = true → p.options < 2 →
      ∃ t, exec (.expose h p) s = .next t ∧ s.onlyChanges [.reply, .out, .expo, .ports, .glean] t ∧ t.expo.state = .armed
        ∧ t.expo.plan = p ∧ t.expo.ring = [] ∧ t.reply = some { status := stOk, value := 0, words := [], bytes := [] }
        ∧ t.expo.trip = (if p.trigger = 0 then some (multipleFrom p.time (periodOf p.corner)) else none))
    ∧ (s.mode.mode = .run → s.survey.fn = .stopped → tag < 65536 → src < 262144 →
        s.surveyRefusal { s.survey.par with tag := tag } t0 true = 0 →
      ∃ t, exec (.surveyRun h t0 tag src false) s = .next t ∧ t.survey.fn = .running ∧ t.survey.t0 = t0 ∧ t.survey.lat.tag = tag
        ∧ t.mode = { s.mode with mode := .survey }
        ∧ s.onlyChanges [.reply, .out, .survey, .mode, .flash, .host, .cells, .diag, .ports, .glean, .expo] t)
    ∧ (s.mode.mode = .quiet → s.survey.fn = .stopped → s.flash.commit.isOpen = false → 512 ≤ n → n ≤ 1048576 → n % 256 = 0 →
      ∃ t, exec (.flashCommit h n c) s = .next t ∧ t.flash.commit.isOpen = true ∧ t.flash.commit.state = 1
        ∧ t.flash.commit.length = n ∧ t.flash.commit.crc = c ∧ t.mode = { s.mode with mode := .commit }
        ∧ t.bank s.flash.active = s.bank s.flash.active ∧ t.wdog = { s.wdog with erasing := some s.clk.wall }
        ∧ s.onlyChanges [.reply, .out, .flash, .wdog, .mode, .host, .ports, .glean, .expo] t)
    ∧ (s.flash.commit.isOpen = true → s.flash.commit.state = 2 → s.flash.commit.done = [] → s.flash.commit.length = n → 512 ≤ n →
        a % 256 = 0 → a + 256 ≤ n → n ≤ 1048576 → bs.length = 256 → s.bank s.inactive = [] →
      ∃ t, exec (.flashLoad h a bs) s = .next t ∧ t.flash.commit.done = [a / 256] ∧ t.flash.commit.lastPiece = s.clk.wall
        ∧ (s.bank s.flash.active = t.bank s.flash.active) ∧ mread flashByte (t.bank s.inactive) a 256 = bs
        ∧ t.reply = some { status := stOk, value := 0, words := [], bytes := [] })
    ∧ (s.flash.wear = [] → argsOk (.logRead g a n) = true → s.mode.mode ≠ .lockout ∨ g = 2 →
      ∃ t, exec (.logRead h g a n) s = .next t ∧ s.onlyChanges [.reply, .out, .ports, .glean, .expo] t
        ∧ t.reply = some { status := stOk, value := (s.logOf g a n).1, words := [], bytes := (s.logOf g a n).2 }
        ∧ (g = 2 → a = 0 → n = 1 → s.logOf g a n = (1, bistBytes s.bist.cur)))
    ∧ (s.mode.mode ∉ [.lockout, .halted] → s.checks.length = 4 → argsOk (.checkRun k a y o n c bs .none) = true → s.checkRefusal k a o n = stOk →
        s.working ≠ [] →
      ∃ t, exec (.checkRun h k a y o n c bs .none) s = .next t ∧ t.reply = some { status := stOpen, value := 0, words := [], bytes := [] }
        ∧ (t.chk k).job = true ∧ (t.chk k).state = .running ∧ (t.chk k).lSel = y ∧ (t.chk k).lExpect = c ∧ (t.chk k).lLength = n
        ∧ (t.chk k).reg = crcInit y ∧ (t.chk k).count = 0
        ∧ s.onlyChanges [.reply, .out, .checks, .glean, .ports, .expo] t)

/-- The Grenpa wire (R389–R405). START latches its settings and STOP stops it; SEARCH on an empty bus finds nothing, and an accessory alone on
the bus that confirms is found in one round; READ_IDS gives the table, READ_MEM the bytes of an answer with a matching CRC-8; CONVERT
and WRITE_MEM raise the strong pull-up for 300 ms and 8 ms, whose end completes them, a WRITE answered 0x5A as DENIED; an absent accessory is fault 6, and a line fault its code 1 to 3, with FLT_WIRE (24); ID_DATA reads the table's
word. Each shows the cells it drives and reads on GW in order.

exec answers a next state with the command's own effect, under the premises on the state and operands shown, for: WIRE_SEARCH,
WIRE_READ_IDS, WIRE_CONVERT, WIRE_READ_MEM, WIRE_WRITE_MEM, WIRE_START, WIRE_STOP, STRONG_PULLUP_END, ID_DATA_READ. -/
def Obligations.GrenpaWire : Prop :=
  ∀ (s : State) (h : Hdr) (bus : WireBus) (w n id i : Nat) (bs : List Byte) (y : Byte), s.hasHost = false → s.mode.shipDue = false →
    s.mode.mode ∈ [.quiet, .run] → s.coreRuns = true →
    (s.wire.fn = .stopped → 1 ≤ n → n ≤ 15 →
      exec (.wireStart true false n) s = .next { s with
        out := [], reply := some { status := stOk, value := 0, words := [], bytes := [] }
        wire := { s.wire with fn := .running, spuEn := true, fixed := false, maxRounds := n, lSpu := true, lFixed := false
                              lRounds := n, lSeed := s.wire.seed } })
    ∧ (s.wire.fn = .running →
      exec .wireStop s = .next { s with
        out := [], reply := some { status := stOk, value := 0, words := [], bytes := [] }
        wire := { s.wire with fn := if s.wire.spu.isSome = true then .stopping else .stopped } })
    ∧ (s.wire.fn = .running → s.wire.spu = none → (busTry bus 0).fault = 0 → (busTry bus 0).presence = false →
      ∃ t, exec (.wireSearch h bus) s = .next t ∧ t.wire = { s.wire with ids := [], rounds := 0, last := 4 }
        ∧ (s.quiet = true → t.out = [.gwReset])
        ∧ t.reply = some { status := stOk, value := 0, words := [], bytes := [] } ∧ s.onlyChanges [.reply, .out, .wire, .ports, .glean, .expo] t)
    ∧ (s.wire.fn = .running → s.wire.spu = none → s.wire.lFixed = true → 1 ≤ s.wire.lRounds → (busTry bus 0).fault = 0 →
        (busTry bus 0).presence = true → (busTry bus 1).fault = 0 → bus.ids = [id] → id < 2 ^ 48 → bus.leaves = [] → bus.noise = [] → confirms bus id = true →
      ∃ t, exec (.wireSearch h bus) s = .next t ∧ t.wire.ids = [id] ∧ t.wire.rounds = 1 ∧ t.wire.last = 2 ∧ t.wire.dropped = 0
        ∧ (s.quiet = true → t.out.take 2 = [.gwReset, .gwWrite (bitsOf (lotteryCmd 0 (s.wire.lSeed % 65536)))]
            ∧ t.out.drop (t.out.length - 3) = [.gwReset, .gwWrite (bitsOf (confirmCmd id)), .gwRead 56])
        ∧ t.reply = some { status := stOk, value := 1, words := [], bytes := [] } ∧ s.onlyChanges [.reply, .out, .wire, .ports, .glean, .expo] t)
    ∧ (s.wire.fn = .running → s.wire.spu = none →
      ∃ t, exec (.wireReadIds h) s = .next t ∧ s.onlyChanges [.reply, .out, .ports, .glean, .expo] t
        ∧ t.reply = some { status := stOk, value := 0, words := [], bytes := s.idBytes })
    ∧ (s.wire.fn = .running → s.wire.spu = none → (busTry bus 0).fault = 0 → (busTry bus 0).presence = true →
      ∃ t, exec (.wireConvert h bus) s = .next t ∧ s.onlyChanges [.reply, .out, .wire, .ports, .glean, .expo] t
        ∧ t.wire = { s.wire with
            spu := some (s.clk.wall, 300 * 20480), opTag := none, pulled := s.wire.lSpu, refused := false }
        ∧ (s.quiet = true → t.out = [.gwReset, .gwWrite (bitsOf [0x4E])]) ∧ (t.reply.map Reply.status) = some stOpen)
    ∧ (s.wire.fn = .running → s.wire.spu = none → (busTry bus 0).fault = 0 → (busTry bus 0).presence = false →
      ∃ t, exec (.wireConvert h bus) s = .next t ∧ t.wire.faultCode = 6 ∧ (t.reply.map Reply.status) = some stCheckFail
        ∧ t.fault.evq = s.fault.evq ++ [{ id := 24, item := 6, time := s.clk.tt, mode := s.mode.mode.code }])
    ∧ (s.wire.fn = .running → s.wire.spu = none → s.wire.ids[i]? = some id → i ≤ 63 → (busTry bus 0).fault = 0 → (busTry bus 0).presence = true →
        1 ≤ n → n ≤ 32 → bs.length = n → cellBytes (sampledCells (8 * (n + 1)) (busTry bus 0).cells) = some (withCrc8 bs) →
      ∃ t, exec (.wireReadMem h i w n bus) s = .next t ∧ s.onlyChanges [.reply, .out, .wire, .ports, .glean, .expo] t
        ∧ t.wire = s.wire ∧ (s.quiet = true → t.out = [.gwReset, .gwWrite (bitsOf (readCmd id w n)), .gwRead (8 * (n + 1))])
        ∧ t.reply = some { status := stOk, value := 0, words := [], bytes := bs })
    ∧ (s.wire.fn = .running → s.wire.spu = none → s.wire.ids[i]? = some id → i ≤ 63 → (busTry bus 0).fault = 0 → (busTry bus 0).presence = true →
        1 ≤ bs.length → bs.length ≤ 32 → y ∈ [0xA5, 0x5A] → cellBytes (sampledCells 8 (busTry bus 0).cells) = some [y] →
      ∃ t, exec (.wireWriteMem h i w bs bus) s = .next t ∧ s.onlyChanges [.reply, .out, .wire, .ports, .glean, .expo] t
        ∧ (s.quiet = true → t.out = [.gwReset, .gwWrite (bitsOf (writeCmd id w bs)), .gwRead 8])
        ∧ t.wire = { s.wire with
            spu := some (s.clk.wall, 8 * 20480), opTag := none, pulled := s.wire.lSpu, refused := decide (y = 0x5A) })
    ∧ (s.wire.spu = some (w, n) → n ≤ s.clk.wall - w → s.wire.opTag = none → s.wire.fn = .running →
      ∃ t, exec (.strongPullupEnd false) s = .next t ∧ t.wire = { s.wire with spu := none, opTag := none, pulled := false, refused := false }
        ∧ t.reply = replyOf (if s.wire.refused = true then stDenied else stOk) 0
        ∧ s.onlyChanges [.reply, .out, .wire, .ports, .glean, .expo] t)
    ∧ (s.wire.fn = .running → s.wire.spu = none → 1 ≤ (busTry bus 0).fault → (busTry bus 0).fault ≤ 3 → (busTry bus 0).after = none →
        s.wire.ids[i]? = some id → i ≤ 63 → 1 ≤ n → n ≤ 32 → 1 ≤ bs.length → bs.length ≤ 32 →
        ∀ c ∈ ([.wireSearch h bus, .wireConvert h bus, .wireReadMem h i w n bus, .wireWriteMem h i w bs bus] : List Instr),
      ∃ t, exec c s = .next t ∧ t.wire.faultCode = (busTry bus 0).fault ∧ (t.reply.map Reply.status) = some stCheckFail ∧ t.wire.ids = s.wire.ids
        ∧ t.fault.evq = s.fault.evq ++ [{ id := 24, item := (busTry bus 0).fault, time := s.clk.tt, mode := s.mode.mode.code }])
    ∧ (exec .idDataRead s = .next { s with
        out := [], reply := some { status := stOk, value := s.idWord s.wire.index, words := [s.idWord s.wire.index], bytes := [] }
        wire := { s.wire with index := (s.wire.index + 1) % 128 } })

/-! ### Transactions at the ROOT -/

/-- Submission (R250, R263–R267, R244, R220). A descriptor that fails a check of Table 9.10 completes at once with that check's status
and takes no transaction (the model's reading, log 14); one for another device, to which a port leads, takes a transaction that stays open, here of NOP, PARAM_READ, PARAM_WRITE and
PARAM_WRITE_VERIFY. SWEEP_TRIGGER with the own position in its scope takes the strobe itself and completes with `value` T, or with
`now` the next multiple of 4 tt at least the lead from now. READ of the topology
leaves its result for its pool. RENUMBER starts the walk with the next id. That SWEEP_TRIGGER completes at once and RENUMBER only with the
walk's end is the model's reading (log 31). PATH_TEST to the ROOT itself takes no time, the model's choice (log 91), and to another
position stamps its first PROBE.

Fetching (R261, R262). Where one ring alone holds one descriptor, a round takes it and moves HEAD past it; one that does not
parse completes BAD_DESCRIPTOR, one that a check refuses completes with the check's status, neither with a transaction; one that is accepted begins its transaction, here of
NOP to another device to which a port leads; each, also one that does not parse, restarts the contact timer (13 R364). Where the ring engine does not run nothing is
fetched.

exec answers a next state with the command's own effect, under the premises on the state and operands shown, for: DESCRIPTOR_FETCH,
PARAM_READ, PARAM_WRITE, PARAM_WRITE_VERIFY, SWEEP_TRIGGER, TOPOLOGY_READ, RENUMBER, PATH_TEST, NOP. -/
def Obligations.SubmissionsAndFetching : Prop :=
  (∀ (s : State) (h : Hdr) (fs : List (Nat × Option (Nat × Nat))) (id num T n m c p : Nat) (ws : List Nat), s.hasHost = true → s.mode.shipDue = false →
    s.reachable = true → (s.sq h.ring).cq = c → s.ringReady c = true → s.freeId h.ring = some id →
    (s.verdict h .nop ≠ stOk →
      ∃ t, exec (.nop h) s = .next t ∧ t.reply = replyOf (s.verdict h .nop) 0 ∧ t.host.txs.map Tx.still = s.host.txs.map Tx.still
        ∧ (t.cq c).tail = ((s.cq c).tail + 1) % 2 ^ (s.cq c).log2)
    ∧ (s.ownPos h.pos = false → s.isLegacy h.pos = false → s.route h.pos = .out p →
      (s.verdict h .nop = stOk → ∃ t, exec (.nop h) s = .next t ∧ t.reply = replyOf stOpen 0
        ∧ (t.tx id).any (fun k => k.hdr == h && k.req == .nop && !k.done && k.start == s.clk.wall) = true)
      ∧ (s.verdict h (.paramRead n m) = stOk → ∃ t, exec (.paramRead h n m) s = .next t ∧ t.reply = replyOf stOpen 0
        ∧ (t.tx id).any (fun k => k.hdr == h && k.req == .paramRead n m && !k.done && k.start == s.clk.wall) = true)
      ∧ (s.verdict h (.paramWrite n ws) = stOk → ∃ t, exec (.paramWrite h n ws) s = .next t ∧ t.reply = replyOf stOpen 0
        ∧ (t.tx id).any (fun k => k.hdr == h && k.req == .paramWrite n ws && !k.done && k.start == s.clk.wall) = true)
      ∧ (s.verdict h (.paramWriteVerify n ws) = stOk → ∃ t, exec (.paramWriteVerify h n ws) s = .next t ∧ t.reply = replyOf stOpen 0
        ∧ (t.tx id).any (fun k => k.hdr == h && k.req == .paramWriteVerify n ws && !k.done && k.start == s.clk.wall) = true))
    ∧ (s.verdict h (.sweepTrigger T num false) = stOk → s.ownPos h.pos = true → s.isLegacy h.pos = false →
      ∃ t, exec (.sweepTrigger h T num false) s = .next t ∧ t.reply = replyOf stOk T ∧ t.host.txs.map Tx.still = s.host.txs.map Tx.still
        ∧ (t.cq c).tail = ((s.cq c).tail + 1) % 2 ^ (s.cq c).log2 ∧ t.sweep = (s.abandonStep.takeStrobe T num true).sweep)
    ∧ (s.verdict h (.sweepTrigger T num true) = stOk → s.isLegacy h.pos = false →
      ∃ t, exec (.sweepTrigger h T num true) s = .next t ∧ t.reply.any (fun x => x.status == stOk && x.value % 4 == 0
        && decide (s.clk.tt + 512 * s.tree.strobeLead ≤ x.value) && decide (x.value < s.clk.tt + 512 * s.tree.strobeLead + 4)) = true)
    ∧ (s.verdict h (.topologyRead n m) = stOk → s.isLegacy h.pos = false → (s.pool h.pool).tooBig (topoBytes s n m).2.length = false →
      ∃ t, exec (.topologyRead h n m) s = .next t ∧ t.host.waits.map ResultWait.bytes = [(topoBytes s n m).2]
        ∧ t.host.waits.map (fun w => w.entry.value) = [s.tree.walkId + put (topoBytes s n m).1 32 18])
    ∧ (s.verdict h (.renumber fs) = stOk → s.isLegacy h.pos = false →
      ∃ t, exec (.renumber h fs) s = .next t ∧ t.reply = replyOf stOpen 0 ∧ t.tree.walkId = s.tree.walkId % 65535 + 1
        ∧ t.tree.numberedBy = t.tree.walkId ∧ t.tree.valid = true ∧ t.tree.depth = 0)
    ∧ (s.verdict h (.pathTest n m T) = stOk → s.ownPos h.pos = true →
      ∃ t, exec (.pathTest h n m T) s = .next t ∧ t.reply = replyOf stOk 0 ∧ t.host.txs.map Tx.still = s.host.txs.map Tx.still
        ∧ (t.cq c).tail = ((s.cq c).tail + 1) % 2 ^ (s.cq c).log2)
    ∧ (s.verdict h (.pathTest n m T) = stOk → s.ownPos h.pos = false → s.isLegacy h.pos = false →
      ∃ t, exec (.pathTest h n m T) s = .next t ∧ t.reply = replyOf stOpen 0
        ∧ (t.tx id).any (fun k => k.probeAt == s.stamp && k.probeN == 0 && k.hdr == h && !k.done) = true))
  ∧
  (∀ (s : State) (mem : List (Nat × Byte)) (w : FetchWorld) (q : Hdr × Req) (r c id p : Nat), s.mode.shipDue = false → r < 256 → s.host.sq.length = 256 →
    (s.fetches = true → (s.sq r).cq = c → s.ringReady c = true → s.ringServes r = true → s.barred r = false → s.ringBusy r = false →
        1 ≤ (s.sq r).weight → ((s.sq r).head + 1) % 2 ^ (s.sq r).log2 = (s.sq r).tail →
        (List.range 256).all (fun k => k == r || (s.sq k).head == (s.sq k).tail) = true →
      (parseDesc mem w r (s.nextDesc mem r) = none →
        ∃ t, exec (.descriptorFetch mem w) s = .next t ∧ (t.sq r).head = (s.sq r).tail ∧ t.reply = replyOf stBadDescriptor 0
          ∧ t.host.txs.map Tx.still = s.host.txs.map Tx.still ∧ (t.cq c).tail = ((s.cq c).tail + 1) % 2 ^ (s.cq c).log2)
      ∧ (parseDesc mem w r (s.nextDesc mem r) = some q → s.verdict q.1 q.2 ≠ stOk →
        ∃ t, exec (.descriptorFetch mem w) s = .next t ∧ (t.sq r).head = (s.sq r).tail ∧ t.reply = replyOf (s.verdict q.1 q.2) 0
          ∧ t.host.txs.map Tx.still = s.host.txs.map Tx.still ∧ (t.cq c).tail = ((s.cq c).tail + 1) % 2 ^ (s.cq c).log2)
      ∧ (parseDesc mem w r (s.nextDesc mem r) = some q → s.verdict q.1 q.2 = stOk →
        ∃ t, exec (.descriptorFetch mem w) s = .next t ∧ (t.sq r).head = (s.sq r).tail)
      ∧ (parseDesc mem w r (s.nextDesc mem r) = some q → q.2 = .nop → s.verdict q.1 .nop = stOk → s.ownPos q.1.pos = false →
          s.isLegacy q.1.pos = false → s.route q.1.pos = .out p → s.freeId r = some id →
        ∃ t, exec (.descriptorFetch mem w) s = .next t ∧ t.reply = replyOf stOpen 0
          ∧ (t.tx id).any (fun k => k.hdr == q.1 && k.req == .nop && !k.done && k.start == s.clk.wall) = true)
      ∧ (s.restricted = false → ∃ t, exec (.descriptorFetch mem w) s = .next t ∧ t.power.contact = s.clk.wall))
    ∧ (s.fetches = false → (∀ q ∈ s.ports, q.link = .down) →
      ∃ t, exec (.descriptorFetch mem w) s = .next t ∧ s.onlyChanges [.reply, .out, .ports, .host, .expo] t ∧ t.out = []))

/-- The ends of transactions (R270, R274, R100, R267). A survey all of whose devices have sent their blocks completes OK with
their number, at the command of that name (status and instant are the model's reading, log 30), and leaves the table with its second copies; a transaction past its timeout ends TIMEOUT and leaves the table with its second copies; a survey without an
acceptance ends at T0 + T_RESP; a round trip unanswered for T_RESP is lost and the next begins, the last ends the test.

PROBEs (R267, R200). A PROBE whose check value matches goes back to its SRC with a new check value; one whose check value does not is
FLT_CMD_CHECK (11; that a PROBE raises it too is the model's reading, log 36) and nothing is sent back: no frame joins a queue, and none of
type PROBE leaves; the answer to the round trip in progress adds its time and begins the next.

exec answers a next state with the command's own effect, under the premises on the state and operands shown, for: TRANSACTION_COMPLETE,
TRANSACTION_TIMEOUT, PROBE_RECEIVE, PROBE_ANSWER_RECEIVE, SURVEY_RESPONSE_DEADLINE, PROBE_ROUND_TRIP_LOST. -/
def Obligations.TransactionsEndAndProbes : Prop :=
  (∀ (s : State) (k : Tx) (cls times len t0 tag src : Nat) (rip : Bool) (sp sd : Nat), s.hasHost = true → s.tx k.id = some k →
      s.ringReady (s.sq k.hdr.ring).cq = true → k.done = false → k.forced = none → s.coreRuns = true →
    (k.req = .surveyRun t0 tag src rip sp sd → k.survey ≠ [] → k.survey.all (fun d => d.2 == 3) = true →
      ∃ t, exec (.transactionComplete k.id []) s = .next t ∧ t.reply = replyOf stOk k.survey.length
        ∧ t.host.txs.map Tx.still = (s.host.txs.filter (fun x => x.copyOf != some k.tag && x.id != k.id)).map Tx.still)
    ∧ (k.hdr.timeout ≠ 0 → k.hdr.timeout * ttMs ≤ s.clk.wall - k.start →
      ∃ t, exec (.transactionTimeout k.id) s = .next t ∧ s.entryAtTail (k.cpl s stTimeout 0 0 0 false false true) ∈ t.out
        ∧ t.host.txs.map Tx.still = (s.host.txs.filter (fun x => x.copyOf != some k.tag && x.id != k.id)).map Tx.still
        ∧ t.glean.harvests = s.glean.harvests.filter (fun h => !(h.tag == k.tag && h.up.isNone)))
    ∧ (k.hdr.timeout = 0 ∨ s.clk.wall - k.start < k.hdr.timeout * ttMs →
      exec (.transactionTimeout k.id) s = .next { s with reply := none, out := [] })
    ∧ (k.req = .surveyRun t0 tag src rip sp sd → k.count [1, 3] = 0 → t0 + k.tResp * ttMs ≤ s.clk.tt →
        scopeStatus (k.survey.map Prod.fst) k.acc ≠ stPartial →
      ∃ t, exec (.surveyResponseDeadline k.id) s = .next t ∧ t.reply = replyOf (scopeStatus (k.survey.map Prod.fst) k.acc) (k.count [3, 4])
        ∧ t.host.txs.map Tx.still = (s.host.txs.filter (fun x => x.copyOf != some k.tag && x.id != k.id)).map Tx.still)
    ∧ (k.req = .pathTest cls times len → k.probeAt + k.tResp * ttMs * 65536 ≤ s.stamp → k.probeN + 1 < times →
      ∃ t, exec (.probeRoundTripLost k.id) s = .next t
        ∧ t.tx k.id = some { k with probeLost := k.probeLost + 1, probeN := k.probeN + 1, probeAt := s.stamp })
    ∧ (k.req = .pathTest cls times len → k.probeAt + k.tResp * ttMs * 65536 ≤ s.stamp → times ≤ k.probeN + 1 → k.probeMin = none →
      ∃ t, exec (.probeRoundTripLost k.id) s = .next t ∧ t.reply = replyOf stUnreachable 0
        ∧ t.host.txs.map Tx.still = (s.host.txs.filter (fun x => x.id != k.id)).map Tx.still
        ∧ s.entryAtTail (k.cpl s stUnreachable 0 0 (k.probeLost + 1) false false true) ∈ t.out))
  ∧
  (∀ (s : State) (p q : Nat) (cb : Bool) (f : Frame) (k : Tx) (cls times len : Nat), s.inSequence p f = true → f.typ = 12 → f.cls = 1 →
      f.payload.length ≤ 256 →
    (checkOk f = true → s.legacyPos f.dest = false → s.route f.src = .out q → q ≠ p → q < 4 → (s.port q).link = .training →
      ∃ t, exec (.probeReceive (.port p (s.port p).spaceN.rxNext cb) f) s = .next t
        ∧ (t.port q).txq.control = (s.port q).txq.control ++ [{ frame := probeReply f, src := none }]
        ∧ s.onlyChanges [.reply, .out, .ports, .host, .glean, .expo, .tree] t)
    ∧ (checkOk f = false → 4 ≤ f.payload.length → s.mode.mode ∉ [.ship, .keep] →
      ∃ t, exec (.probeReceive (.port p (s.port p).spaceN.rxNext cb) f) s = .next t
        ∧ t.fault.evq = s.fault.evq ++ [{ id := 11, item := p, time := s.clk.tt, mode := s.mode.mode.code }]
        ∧ (s.quiet = true → t.ports.map PortSt.txq = s.ports.map PortSt.txq
          ∧ t.out.all (fun e => match e with | .long _ _ _ g => g.typ != 12 | _ => true) = true)
        ∧ s.onlyChanges [.reply, .out, .ports, .host, .glean, .expo, .tree, .fault] t)
    ∧ (checkOk f = true → s.txOfTag f.tag = some k → s.tx k.id = some k → k.req = .pathTest cls times len → k.done = false →
        f.src = k.hdr.pos → at_ f.payload 0 2 = k.probeN → k.probeN + 1 < times →
      ∃ t, exec (.probeAnswerReceive (.port p (s.port p).spaceN.rxNext cb) f) s = .next t
        ∧ t.tx k.id = some { k with
            probeN := k.probeN + 1, probeMin := some (min (s.stamp - k.probeAt) (k.probeMin.getD (s.stamp - k.probeAt)))
            probeMax := max (s.stamp - k.probeAt) k.probeMax, probeAt := s.stamp }
        ∧ s.onlyChanges [.reply, .out, .ports, .glean, .expo, .tree, .host] t))

/-! ### The link -/

/-- The port function and training (R203–R206, R214, R215, R238). START latches its settings and brings the port DOWN, STOP makes it STOPPING
but is DENIED upstream, and STOPPED and DISABLED follow; symbols on a DOWN port begin training in step 1 at 25 Mb/s and a TRAIN frame goes out; the eighth TRAIN
frame makes the end agree, the 64th with the partner's mark RX_VALID (the instants at which TRAIN frames go out and the use of that mark are
the model's reading, log 49) brings the port UP at that rate; a rate that fails for 1 ms gives way to the
next lower one; a port whose signal is gone for 8 µs is LOST with FLT_LINK_LOST (9); a wake tone makes the port train, and a port that was UP before
and is not sends one every 10 ms.

exec answers a next state with the command's own effect, under the premises on the state and operands shown, for: TRAIN_FRAME_RECEIVE,
WAKE_TONE_DETECT, SYMBOLS_DETECTED, TRAINING_RATE_TIMEOUT, SIGNAL_LOSS, PORT_START, PORT_STOP, PORT_STOPPED, WAKE_TONE_SEND. -/
def Obligations.PortsTrainAndStop : Prop :=
  ∀ (s : State) (p n : Nat) (cb : Bool) (f : Frame), p < 4 → s.ports.length = 4 → s.quiet = true → s.reachable = true →
    (s.mode.mode ≠ .lockout → (s.port p).fn = .stopped → s.heldInReset p = false → 1 ≤ n → n ≤ 15 → (s.port p).legacy = false →
      ∃ t, exec (.portStart p n) s = .next t ∧ t.reply = replyOf stOk 0 ∧ s.onlyChanges [.reply, .out, .ports, .host, .glean, .expo] t
        ∧ t.port p = { s.port p with
            retryMax := n, fn := .running, link := .down, retrains := 0, lRetry := n, lRate := (s.port p).rateMax
            lTol := (s.port p).tol, lLegacy := false, train := TrainSt.reset, lastTx := s.clk.wall })
    ∧ ((s.port p).fn = .stopped → n = 0 ∨ 15 < n →
      ∃ t, exec (.portStart p n) s = .next t ∧ t.reply = replyOf stDenied 0 ∧ s.onlyChanges [.reply, .out, .ports, .host, .glean, .expo] t
        ∧ t.port p = s.port p)
    ∧ (s.mode.mode ≠ .lockout → (s.port p).fn = .running → s.isUpstream p = true →
      ∃ t, exec (.portStop p) s = .next t ∧ t.reply = replyOf stDenied 0 ∧ (t.port p).fn = .running)
    ∧ (s.mode.mode ≠ .lockout → (s.port p).fn = .running → s.isUpstream p = false →
      ∃ t, exec (.portStop p) s = .next t ∧ t.reply = replyOf stOk 0 ∧ (t.port p).fn = .stopping
        ∧ s.onlyChanges [.reply, .out, .ports, .host, .glean, .expo] t)
    ∧ ((s.port p).fn = .stopping →
      ∃ t, exec (.portStopped p) s = .next t ∧ t.port p = { s.port p with fn := .stopped, link := .disabled }
        ∧ s.onlyChanges [.reply, .out, .ports, .host, .mode] t)
    ∧ ((s.port p).fn = .running → (s.port p).link = .down →
      ∃ t, exec (.symbolsDetected p) s = .next t ∧ (t.port p).link = .training ∧ (t.port p).train.step = 1 ∧ (t.port p).train.rate = 0
        ∧ .train p 0 (s.crierBit p).1 (trainFrame (s.retrain p) p false false) ∈ t.out
        ∧ s.onlyChanges [.reply, .out, .ports, .host, .mode, .glean, .expo] t)
    ∧ ((s.port p).fn = .running → (s.port p).link = .training → (s.port p).train.step = 1 → (s.port p).train.got = 7 →
        (s.port p).train.agreedTx = false → frameListed f = true →
      ∃ t, exec (.trainFrameReceive p cb f) s = .next t ∧ (t.port p).train.agreedTx = true ∧ (t.port p).train.step = 1
        ∧ s.onlyChanges [.reply, .out, .ports, .host, .glean, .expo] t)
    ∧ ((s.port p).fn = .running → (s.port p).link = .training → (s.port p).train.step = 3 → 63 ≤ (s.port p).train.got →
        bit (at_ f.payload 1 1) 1 = true → frameListed f = true → s.tree.valid = false → s.isRoot = false → s.tree.walk.active = false →
      ∃ t, exec (.trainFrameReceive p cb f) s = .next t ∧ (t.port p).link = .up ∧ (t.port p).rateNow = (s.port p).train.rate
        ∧ (t.port p).partner = some (at_ f.payload 4 8))
    ∧ ((s.port p).fn = .running → (s.port p).link = .training → (s.port p).train.step = 3 → ttMs ≤ s.clk.wall - (s.port p).train.since →
        0 < (s.port p).train.rate →
      ∃ t, exec (.trainingRateTimeout p) s = .next t
        ∧ (t.port p).train = { (s.port p).train with rate := (s.port p).train.rate - 1, got := 0, since := s.clk.wall }
        ∧ t.out.any (fun e => match e with
            | .train x r cb g => x == p && r == (s.port p).train.rate - 1 && cb == (s.crierBit p).1 && g.typ == 0
            | _ => false) = true
        ∧ s.onlyChanges [.reply, .out, .ports, .host, .glean, .expo] t)
    ∧ ((s.port p).fn = .running → (s.port p).link = .up → s.tree.valid = false → s.isRoot = false →
      ∃ t, exec (.signalLoss p) s = .next t ∧ (t.port p).link = .lost ∧ (t.port p).lostAt = some s.clk.wall
        ∧ t.fault.evq = s.fault.evq ++ [{ id := 9, item := p, time := s.clk.tt, mode := s.mode.mode.code }]
        ∧ s.onlyChanges [.reply, .out, .ports, .host, .mode, .fault, .glean, .expo] t)
    ∧ ((s.port p).fn = .running → (s.port p).link = .down →
      ∃ t, exec (.wakeToneDetect p none) s = .next t ∧ (t.port p).tone = true ∧ (t.port p).link = .training
        ∧ s.onlyChanges [.reply, .out, .ports, .host, .mode, .glean, .expo] t)
    ∧ (s.cutOff = false → (s.port p).fn = .running → (s.port p).everUp = true → (s.port p).link = .down →
        10 * ttMs ≤ s.clk.wall - (s.port p).toneAt →
      ∃ t, exec .wakeToneSend s = .next t ∧ .tone p none ∈ t.out ∧ (t.port p).toneAt = s.clk.wall ∧ s.onlyChanges [.reply, .out, .ports, .host] t)

/-- Delivery on one hop (R184, R188, R190–R195, R246). A short frame's ACK frees the frames up to it; its NAK, or T_RTX
without one, sends the unacknowledged frames again; an idle port sends a short frame with both ACKs; a condemned frame is counted, and NAKed where its byte 0 named its space, an
aborted one is neither; a frame out of sequence is NAKed and not forwarded; a frame for elsewhere waits for the port toward it, but a
LEAF forwards none (R26); CREDIT adds its increments.

exec answers a next state with the command's own effect, under the premises on the state and operands shown, for: CREDIT_FRAME_RECEIVE,
SHORT_FRAME_RECEIVE, CONDEMNED_FRAME, ABORTED_FRAME_RECEIVE, RETRANSMIT_TIMEOUT, SHORT_FRAME_IDLE, LONG_FRAME_TRANSIT. -/
def Obligations.HopsAcknowledgeAndRepeat : Prop :=
  ∀ (s : State) (p q : Nat) (cb : Bool) (f : Frame) (u v : Unacked) (a b byte_ : Nat), s.onPort p = true → s.quiet = true → (s.port p).fn = .running →
    ((s.port p).spaceN.unacked = [u, v] → u.hseq = a → v.hseq ≠ a → a < 64 → (s.port p).spaceS.unacked = [] →
      ∃ t, exec (.shortFrameReceive p 0x0F a b) s = .next t ∧ (t.port p).spaceN.unacked = [v]
        ∧ s.onlyChanges [.reply, .out, .ports, .host, .glean, .expo] t)
    ∧ ((s.port p).spaceN.unacked = [u] → u.hseq ≠ a % 64 → u.retries + 1 < (s.port p).lRetry →
      ∃ t, exec (.shortFrameReceive p 0x1F a b) s = .next t ∧ (t.port p).spaceN.unacked = [{ u with retries := u.retries + 1, sentAt := s.clk.wall }]
        ∧ .long p u.hseq (s.crierBit p).1 u.frame ∈ t.out ∧ s.onlyChanges [.reply, .out, .ports, .host, .glean, .expo] t)
    ∧ ((s.port p).spaceN.unacked = [u] → tRtx (s.port p).rateNow ≤ s.clk.wall - u.sentAt → u.retries + 1 < (s.port p).lRetry →
      ∃ t, exec (.retransmitTimeout p false) s = .next t ∧ (t.port p).spaceN.unacked = [{ u with retries := u.retries + 1, sentAt := s.clk.wall }]
        ∧ .long p u.hseq (s.crierBit p).1 u.frame ∈ t.out ∧ s.onlyChanges [.reply, .out, .ports, .host, .glean, .expo] t)
    ∧ ((s.port p).spaceN.unacked = [u] → tRtx (s.port p).rateNow ≤ s.clk.wall - u.sentAt → (s.port p).lRetry ≤ u.retries + 1 →
        s.mode.mode ∉ [.ship, .keep] →
      ∃ t, exec (.retransmitTimeout p false) s = .next t ∧ (t.port p).link = .training ∧ (t.port p).spaceN.unacked.map Unacked.frame = [u.frame]
        ∧ t.fault.evq = s.fault.evq ++ [{ id := 8, item := p, time := s.clk.tt, mode := s.mode.mode.code }])
    ∧ (41 ≤ s.clk.wall - (s.port p).lastTx →
      ∃ t, exec (.shortFrameIdle p) s = .next t ∧ (t.port p).lastTx = s.clk.wall ∧ s.onlyChanges [.reply, .out, .ports, .host, .glean, .expo] t
        ∧ .short p (0xF + flag (s.crierBit p).1 6) (((s.port p).spaceN.rxNext + 63) % 64) (((s.port p).spaceS.rxNext + 63) % 64) ∈ t.out)
    ∧ (∃ t, exec (.condemnedFrame p none none) s = .next t ∧ (t.port p).cnt = { (s.port p).cnt with condemned := sat 0xFFFF ((s.port p).cnt.condemned + 1) }
        ∧ (t.port p).spaceN = (s.port p).spaceN ∧ s.onlyChanges [.reply, .out, .ports, .host, .glean, .expo] t)
    ∧ (∃ t, exec (.abortedFrameReceive p cb) s = .next t ∧ (t.port p).cnt = (s.port p).cnt ∧ (t.port p).spaceN = (s.port p).spaceN
        ∧ (t.port p).spaceS = (s.port p).spaceS ∧ s.onlyChanges [.reply, .out, .ports, .host, .glean, .expo] t)
    ∧ (f.cls ≠ 0 → a ≠ (s.port p).spaceN.rxNext → (s.port p).spaceN.nakSent = false →
      ∃ t, exec (.longFrameTransit (.port p a cb) f) s = .next t ∧ (t.port p).spaceN = { (s.port p).spaceN with nakSent := true }
        ∧ t.ports.map PortSt.txq = s.ports.map PortSt.txq
        ∧ .short p (0xF + 16 + flag (s.crierBit p).1 6) (((s.port p).spaceN.rxNext + 63) % 64) (((s.port p).spaceS.rxNext + 63) % 64) ∈ t.out
        ∧ s.onlyChanges [.reply, .out, .ports, .host, .glean, .expo] t)
    ∧ (byte_ % 16 ≠ 15 → fld byte_ 5 4 ≠ 0 →
      ∃ t, exec (.condemnedFrame p (some byte_) none) s = .next t
        ∧ (t.port p).cnt = { (s.port p).cnt with condemned := sat 0xFFFF ((s.port p).cnt.condemned + 1) }
        ∧ .short p (0xF + 16 + flag (s.crierBit p).1 6) (((s.port p).spaceN.rxNext + 63) % 64) (((s.port p).spaceS.rxNext + 63) % 64) ∈ t.out
        ∧ s.onlyChanges [.reply, .out, .ports, .host, .glean, .expo] t)
    ∧ (f.cls = 2 → creditFree f = false → s.ident.role = .leaf → s.ownPos f.dest = false → f.hasScope = false →
      ∃ t, exec (.longFrameTransit (.port p (s.port p).spaceN.rxNext cb) f) s = .next t
        ∧ (t.port p).spaceN.rxNext = ((s.port p).spaceN.rxNext + 1) % 64 ∧ t.ports.map PortSt.txq = s.ports.map PortSt.txq
        ∧ s.onlyChanges [.reply, .out, .ports, .host, .glean, .expo, .tree] t)
    ∧ (f.cls = 2 → creditFree f = false → s.ident.role ≠ .leaf → s.route f.dest = .out q → q < 4 → q ≠ p → (s.port q).link = .training →
      ∃ t, exec (.longFrameTransit (.port p (s.port p).spaceN.rxNext cb) f) s = .next t
        ∧ (t.port q).txq.data = [{ frame := f, src := some p }] ∧ (t.port p).spaceN.rxNext = ((s.port p).spaceN.rxNext + 1) % 64
        ∧ s.onlyChanges [.reply, .out, .ports, .host, .glean, .expo, .tree] t)
    ∧ (f.typ = 8 → f.cls = 1 → f.payload.length = 8 → (s.port p).credits.d + at_ f.payload 4 2 ≤ 65535 →
      ∃ t, exec (.creditFrameReceive (.port p (s.port p).spaceN.rxNext cb) f) s = .next t
        ∧ (t.port p).credits.d = (s.port p).credits.d + at_ f.payload 4 2 ∧ s.onlyChanges [.reply, .out, .ports, .host, .glean, .expo, .tree] t)

/-- The crier side channel and the legacy segment (R208, R211, R212). 256 bits with SYNC and a right CRC are kept as the partner's message and counted,
with a wrong CRC the oldest bit goes and the message is counted bad; a request without a reply for 200 µs goes out again, and after its third attempt the device is absent; a
reply whose CRC matches gives its codes and the next request goes out.

exec answers a next state with the command's own effect, under the premises on the state and operands shown, for:
CRIER_MESSAGE_COMPLETE, LEGACY_REPLY, LEGACY_REPLY_TIMEOUT. -/
def Obligations.CrierAndLegacySegment : Prop :=
  ∀ (s : State) (p x : Nat) (r : LegacyReq) (rs : List LegacyReq) (d : LegacyDev) (bs : List Byte), p < 4 → s.ports.length = 4 → s.quiet = true →
    (256 ≤ (s.port p).crier.rxBits.length → at_ (bytesOfBits 32 (s.port p).crier.rxBits) 0 2 = 0x7E96 →
      (at_ (bytesOfBits 32 (s.port p).crier.rxBits) 31 1 = crc8 (slice (bytesOfBits 32 (s.port p).crier.rxBits) 2 29) → s.tree.valid = false →
          s.isRoot = false →
        ∃ t, exec (.crierMessageComplete p x) s = .next t ∧ (t.port p).crier.last = bytesOfBits 32 (s.port p).crier.rxBits
          ∧ (t.port p).crier.rxBits = [] ∧ (t.port p).cnt.crierOk = sat 0xFFFF ((s.port p).cnt.crierOk + 1) ∧ s.onlyChanges [.reply, .out, .ports, .host] t)
      ∧ (at_ (bytesOfBits 32 (s.port p).crier.rxBits) 31 1 ≠ crc8 (slice (bytesOfBits 32 (s.port p).crier.rxBits) 2 29) →
        ∃ t, exec (.crierMessageComplete p x) s = .next t ∧ (t.port p).crier.last = (s.port p).crier.last
          ∧ (t.port p).crier.rxBits = (s.port p).crier.rxBits.drop 1
          ∧ (t.port p).cnt.crierBad = sat 0xFFFF ((s.port p).cnt.crierBad + 1) ∧ s.onlyChanges [.reply, .out, .ports, .host] t))
    ∧ (s.coreRuns = true → (s.port 1).link = .legacy → (s.port 1).fn = .running → s.legacy.queue = [r] → 4096 ≤ s.clk.wall - (s.port 1).lastTx → r.cmd ≠ 1 →
      (r.tries < 2 →
        ∃ t, exec .legacyReplyTimeout s = .next t ∧ t.legacy.queue = [{ r with tries := r.tries + 1 }]
          ∧ .legacy r.addr r.cmd r.data (legacyCrc r.addr r.cmd r.data) ∈ t.out ∧ s.onlyChanges [.reply, .out, .legacy, .ports, .host, .glean, .expo] t)
      ∧ (2 ≤ r.tries → r.tag = none →
        ∃ t, exec .legacyReplyTimeout s = .next t ∧ t.legacy.queue = []
          ∧ (t.port 1).cnt.legacyNoReply = sat 0xFFFF ((s.port 1).cnt.legacyNoReply + 1)
          ∧ t.legacy.devs = s.legacy.devs.map (fun (v : LegacyDev) => if v.index = r.addr then { v with present := false } else v)))
    ∧ (s.coreRuns = true → (s.port 1).link = .legacy → s.legacy.queue = r :: rs → r.cmd = 0x11 → r.addr = d.index → s.legacy.devs = [d] → s.legacy.polling = false →
      ∃ t, exec (.legacyReply r.addr 0x11 bs (legacyCrc r.addr 0x11 bs)) s = .next t ∧ t.legacy.queue = rs
        ∧ ((s.port 1).fn = .running → ∀ n ∈ rs.head?, .legacy n.addr n.cmd n.data (legacyCrc n.addr n.cmd n.data) ∈ t.out)
        ∧ t.legacy.devs = [{ d with codes := (List.range 12).map (fun k => at_ bs (2 * k) 2) }]
        ∧ s.onlyChanges [.reply, .out, .legacy, .ports, .host, .glean, .expo] t)

/-! ### The tree -/

/-- Tree time and strobes (R38, R143, R240–R242, R244). Every 1 ms a TIME frame SYNC goes out with the next sequence number, the sync state, the
stamp of its sending, the port's delay and the UID of the ROOT; a SYNC on the time port
sets the trim that cancels an offset within 64 tt, or steps the clock beyond it; an ECHO of the last SYNC gives the delay; 4 ms without a
SYNC is HOLDOVER; the ROOT sends the next periodic strobe, and a device acts on a strobe it receives.

exec answers a next state with the command's own effect, under the premises on the state and operands shown, for: STROBE_RECEIVE,
TIME_SYNC_RECEIVE, TIME_ECHO_RECEIVE, TIME_SYNC_SEND, HOLDOVER_TIMEOUT, PERIODIC_STROBE_SEND. -/
def Obligations.TreeTimeAndStrobes : Prop :=
  ∀ (s : State) (p w t2 : Nat) (cb : Bool) (f : Frame) (o : Int), s.onPort p = true → s.quiet = true → f.cls = 1 → 8 ≤ f.payload.length →
      frameListed f = true →
    (s.syncDue p = true →
      ∃ t, exec .timeSyncSend s = .next t ∧ s.onlyChanges [.reply, .out, .ports, .host, .glean, .expo] t
        ∧ (t.port p).time = { (s.port p).time with seq := ((s.port p).time.seq + 1) % 65536, t1 := s.stamp, lastSent := s.clk.tt }
        ∧ ((s.port p).spaceN.unacked.length < 32 → t.out.any (fun e => match e with
            | .long q n _ g => q == p && n == (s.port p).spaceN.txNext && g ==
                { typ := 9, cls := 1, hasScope := false, dest := ((s.port p).kid.getD (0, 0)).1, src := s.tree.pos, depth := 0, tag := 0
                  payload := le 1 1 ++ le 1 (s.syncNow.code + flag s.tree.inCharge 2) ++ le 2 (((s.port p).time.seq + 1) % 65536)
                    ++ stampBytes s.stamp ++ stampBytes (s.port p).time.d ++ le 8 (if s.isRoot then s.ident.uid else s.tree.rootUid) }
            | _ => false) = true))
    ∧ (f.typ = 9 → s.isRoot = false → s.tree.valid = true → p = s.timePort → o = (t2 : Int) - stampAt f.payload 4 - stampAt f.payload 0xE →
        s.tree.lastSync = some w → s.tree.stepNext = false → s.ident.role ≠ .root →
      (o.natAbs ≤ 64 * 65536 →
        ∃ t, exec (.timeSyncReceive (s.via p cb) f t2) s = .next t ∧ t.clk = { s.clk with trim := -o } ∧ t.tree.steps = s.tree.steps
          ∧ t.tree.lastSync = some s.clk.wall ∧ s.onlyChanges [.reply, .out, .ports, .host, .glean, .expo, .tree, .clk] t)
      ∧ (64 * 65536 < o.natAbs → o ≤ s.stamp →
        ∃ t, exec (.timeSyncReceive (s.via p cb) f t2) s = .next t ∧ (t.stamp : Int) = s.stamp - o ∧ t.clk.trim = 0
          ∧ t.tree.steps = sat 0xFF (s.tree.steps + 1) ∧ t.tree.good = 0
          ∧ t.safety = { s.safety with lastBeat := t.safety.lastBeat } ∧ t.safety.lastBeat ≤ t.clk.tt
          ∧ s.onlyChanges [.reply, .out, .ports, .host, .glean, .expo, .tree, .clk, .safety] t))
    ∧ (f.typ = 9 → at_ f.payload 2 2 = (s.port p).time.seq → (s.port p).time.seq ≠ 0 →
        o = ((t2 : Int) - (s.port p).time.t1 - ((stampAt f.payload 0xE : Int) - stampAt f.payload 4)) / 2 →
      ∃ t, exec (.timeEchoReceive (s.via p cb) f t2) s = .next t ∧ (t.port p).time = { (s.port p).time with d := o.toNat }
        ∧ s.onlyChanges [.reply, .out, .ports, .host, .glean, .expo, .tree] t)
    ∧ (s.isRoot = false → s.tree.lastSync = some w → 81920 ≤ s.clk.wall - w →
      exec .holdoverTimeout s = .next { s with reply := none, out := [], tree := { s.tree with sync := .holdover, good := 0 } })
    ∧ (s.strobeDue = true → s.tree.pos = 0 → w < 4 → (s.port w).kid.isSome = true → (s.port w).link = .training →
      ∃ t, exec .periodicStrobeSend s = .next t ∧ t.tree.lastStrobe = s.nextStrobe
        ∧ (t.port w).txq.control = [{ frame := strobeFrame s 0 255 s.nextStrobe (s.nextStrobe / max 1 s.period % 2 ^ 32), src := none }]
        ∧ s.onlyChanges [.reply, .out, .ports, .host, .glean, .expo, .tree] t)
    ∧ (f.typ = 3 → s.actsOn (s.via p cb) f = true → checkOk f = true →
      ∃ t, exec (.strobeReceive (s.via p cb) f) s = .next t
        ∧ t.sweep = (s.abandonStep.takeStrobe (at_ f.payload 0 8) (at_ f.payload 8 4) false).sweep ∧ t.diag = s.abandonStep.diag
        ∧ s.onlyChanges [.reply, .out, .ports, .host, .glean, .expo, .tree, .sweep, .diag, .cells] t)

/-- The walk going down (R216–R218, R225). WALK gives a device that has not been numbered under it its position, depth, parent and upstream
port, a device that has answers DUP; 1 s after release the ROOT begins one; a silent port is FAILED, a device that waits sends
the PENDING frame to its parent, and the wait for training ends with 2 ms. The device's parent port, which no frame carries, is a free value (the model's choice, log 45).

exec answers a next state with the command's own effect, under the premises on the state and operands shown, for: DISCOVER_WALK,
WALK_START, WALK_PORT_SILENCE, WALK_TRAINING_WAIT_END, WALK_PENDING_TIMER. -/
def Obligations.WalkGoesDown : Prop :=
  ∀ (s : State) (p : Nat) (cb : Bool) (f : Frame), s.onPort p = true → s.quiet = true → f.cls = 1 → frameListed f = true →
    (f.typ = 10 → checkOk f = true → s.sequences = true → s.tree.valid = false →
      ∃ t, exec (.discoverWalk (s.via p cb) f) s = .next t ∧ t.tree.pos = discA f % 2 ^ 18 ∧ t.tree.valid = true
        ∧ t.tree.depth = discB f % 2 ^ 18 ∧ t.tree.numUp = p ∧ t.tree.curUp = p ∧ t.tree.numberedBy = discWalk f ∧ t.tree.parent = f.src)
    ∧ (f.typ = 10 → checkOk f = true → s.sequences = true → s.tree.valid = true → s.tree.numberedBy = discWalk f → (s.port p).spaceN.unacked.length < 30 →
        16 ≤ (s.port p).credits.c → (s.port p).fn = .running →
      ∃ t, exec (.discoverWalk (s.via p cb) f) s = .next t ∧ t.tree.pos = s.tree.pos
        ∧ (t.port p).spaceN.unacked.any (fun u => u.frame == discover s 1 3 (discWalk f) s.tree.pos 0 (le 8 s.ident.uid) f.src) = true
        ∧ s.onlyChanges [.reply, .out, .ports, .host, .glean, .expo, .tree] t)
    ∧ (s.walkDue = true →
      ∃ t, exec .walkStart s = .next t ∧ t.tree.walkId = s.tree.walkId % 65535 + 1 ∧ t.tree.numberedBy = t.tree.walkId ∧ t.tree.pos = 0 ∧ t.tree.valid = true
        ∧ t.tree.depth = 0)
    ∧ (s.tree.walk.active = true → s.tree.walk.training = false → s.tree.walk.tResp * ttMs ≤ s.clk.wall - s.tree.walk.since → s.tree.walk.port = p →
      ∃ t, exec .walkPortSilence s = .next t ∧ (t.port p).failed = true ∧ t.tree.walk.anyFail = true)
    ∧ (s.tree.walk.active = true → s.tree.walk.training = true → s.tree.walk.port = 3 → (s.port 3).link = .down →
        s.ports.all (fun q => !q.late) = true → s.tree.walk.upPort = some p →
      ∃ t, exec .walkTrainingWaitEnd s = .next t ∧ t.tree.walk.active = false ∧ t.tree.hi = s.tree.walk.next - 1
        ∧ s.onlyChanges [.reply, .out, .ports, .host, .glean, .expo, .tree] t)
    ∧ (s.tree.walk.active = true → s.tree.walk.upPort = some p → s.tree.walk.tResp * ttMs / 4 ≤ s.clk.wall - s.tree.walk.lastPend →
      ∃ t, exec .walkPendingTimer s = .next t ∧ t.tree = { s.tree with walk := { s.tree.walk with lastPend := s.clk.wall } }
        ∧ ((s.port p).spaceN.unacked.length < 30 → 16 ≤ (s.port p).credits.c → (s.port p).fn = .running →
            (t.port p).spaceN.unacked.any (fun u => u.frame ==
              { typ := 6, cls := 1, hasScope := false, dest := s.tree.parent, src := s.tree.pos, depth := 0, tag := 0, payload := [] }) = true)
        ∧ s.onlyChanges [.reply, .out, .ports, .host, .glean, .expo, .tree] t)

/-- The walk coming up (R217, R218, R220, R222). RETURN gives the port its child's interval, and after port D the walk ends with the
device's own; DUP makes the port a ring link; REPORT enters the table of the ROOT; ASSIGN gives a device its position. In HALTED such a frame
waits (16 R425; which frames need the sequencer is the model's choice, log 114).

exec answers a next state with the command's own effect, under the premises on the state and operands shown, for: DISCOVER_RETURN,
DISCOVER_DUP, DISCOVER_REPORT, DISCOVER_ASSIGN. -/
def Obligations.WalkComesUp : Prop :=
  ∀ (s : State) (p : Nat) (cb : Bool) (f : Frame), s.onPort p = true → s.quiet = true → f.typ = 10 → f.cls = 1 → frameListed f = true →
      checkOk f = true →
    (s.sequences = true → s.walkAwaits (s.via p cb) f = true →
      ∃ t, exec (.discoverReturn (s.via p cb) f) s = .next t ∧ (t.port p).kid = some (s.tree.walk.next, discA f % 2 ^ 19 - 1))
    ∧ (s.sequences = true → s.walkAwaits (s.via p cb) f = true → p = 3 →
      ∃ t, exec (.discoverReturn (s.via p cb) f) s = .next t ∧ t.tree.walk.active = false ∧ t.tree.hi = discA f % 2 ^ 19 - 1)
    ∧ (s.sequences = true → s.walkAwaits (s.via p cb) f = true →
      ∃ t, exec (.discoverDup (s.via p cb) f) s = .next t ∧ (t.port p).alt = true ∧ (t.port p).kid = (s.port p).kid)
    ∧ (s.sequences = true → s.isRoot = true → s.ownPos f.dest = true → discWalk f = s.tree.walkId → discWalk f ≠ 0 →
      ∃ t, exec (.discoverReport (s.via p cb) f) s = .next t
        ∧ t.tree.topo.any (fun e => e.pos == discA f % 2 ^ 18 && e.uid == at_ f.payload 12 8 && e.hi == at_ f.payload 20 4 % 2 ^ 18) = true
        ∧ s.onlyChanges [.reply, .out, .ports, .glean, .expo, .tree, .free, .host, .flash] t)
    ∧ (s.sequences = true → s.assignHere f = true →
      ∃ t, exec (.discoverAssign (s.via p cb) f) s = .next t ∧ t.tree.pos = discA f % 2 ^ 18 ∧ t.tree.valid = true
        ∧ t.tree.pending = bit (discB f) 18 ∧ t.tree.depth = discB f % 2 ^ 18 ∧ t.tree.numUp = p ∧ t.tree.cutBy = false)
    ∧ (s.sequences = false → at_ f.payload 0 1 ≠ 9 → s.inSequence p f = true →
        ∀ i ∈ ([.discoverWalk (s.via p cb) f, .discoverReturn (s.via p cb) f, .discoverDup (s.via p cb) f, .discoverReport (s.via p cb) f,
            .discoverAssign (s.via p cb) f, .discoverLost (s.via p cb) f, .discoverCut (s.via p cb) f, .discoverRoute (s.via p cb) f,
            .discoverAttach (s.via p cb) f] : List Instr),
      ∃ t, exec i s = .next t ∧ t.tree.waiting = s.tree.waiting ++ [(s.via p cb, f)]
        ∧ t.tree.pos = s.tree.pos ∧ t.tree.topo = s.tree.topo ∧ t.tree.routes = s.tree.routes
        ∧ s.onlyChanges [.reply, .out, .ports, .host, .glean, .expo, .tree] t)

/-- Losses, routes and takeover (R222–R235, R326). LOST and FAULT at the ROOT are events, ATTACH outside a walk takes the next position and during
one waits; CUT marks a device below as cut off or restored; ROUTE installs or removes an exception route; MARK waits for its copy;
frames held for a LOST port end with T_RESP; a standby that misses LOCKED time for its TAKEOVER time takes position 0.

exec answers a next state with the command's own effect, under the premises on the state and operands shown, for: DISCOVER_LOST,
DISCOVER_CUT, DISCOVER_ROUTE, DISCOVER_MARK, DISCOVER_ATTACH, FAULT_FRAME_RECEIVE, HELD_FRAMES_TIMEOUT, TAKEOVER. -/
def Obligations.LossesRoutesAndTakeover : Prop :=
  ∀ (s : State) (p w : Nat) (cb : Bool) (f : Frame), s.onPort p = true → s.quiet = true → f.cls = 1 → frameListed f = true →
    (f.typ = 10 → checkOk f = true → s.sequences = true → s.inSequence p f = true → s.isRoot = true → s.hasHost = true → s.host.eventEn = true →
        s.ringReady s.host.eventCq = true → bit (discB f) 18 = false → bit (discB f) 21 = false →
      ∃ t, exec (.discoverLost (s.via p cb) f) s = .next t
        ∧ s.entryAtTail (eventCpl s { typ := 3, value := discA f % 2 ^ 18, cid := s.host.eventCid }) ∈ t.out
        ∧ s.onlyChanges [.reply, .out, .ports, .glean, .expo, .tree, .host] t)
    ∧ (f.typ = 11 → checkOk f = true → s.inSequence p f = true → s.isRoot = true → s.hasHost = true → s.host.eventEn = true →
        s.ringReady s.host.eventCq = true →
      ∃ t, exec (.faultFrameReceive (s.via p cb) f) s = .next t
        ∧ s.entryAtTail (eventCpl s { typ := 2, value := f.src + put (at_ f.payload 1 1) 32 5, cid := s.host.eventCid }) ∈ t.out
        ∧ s.onlyChanges [.reply, .out, .ports, .glean, .expo, .tree, .host] t)
    ∧ (f.typ = 10 → checkOk f = true → s.sequences = true → s.inSequence p f = true → s.isRoot = true → s.tree.walk.active = true →
      ∃ t, exec (.discoverAttach (s.via p cb) f) s = .next t
        ∧ t.tree.attachWait = s.tree.attachWait ++ [(discA f % 2 ^ 18, discB f % 4, at_ f.payload 12 8)] ∧ t.tree.attaches = s.tree.attaches)
    ∧ (f.typ = 10 → checkOk f = true → s.sequences = true → s.inSequence p f = true → s.isRoot = true → s.tree.walk.active = false → s.nextPos ≤ 262143 →
        (s.pathTo (discA f % 2 ^ 18)).all (fun x => decide (s.routesAt x < 256)) = true →
      ∃ t, exec (.discoverAttach (s.via p cb) f) s = .next t
        ∧ t.tree.attaches = s.tree.attaches ++ [{ pos := s.nextPos, parent := discA f % 2 ^ 18, port := discB f % 4 }])
    ∧ (f.typ = 10 → checkOk f = true → s.sequences = true → s.tree.valid = true → s.isRoot = false → s.tree.numUp = p →
      ∃ t, exec (.discoverCut (s.via p cb) f) s = .next t ∧ t.tree.cutBy = decide (discB f % 2 = 1) ∧ t.tree.pos = s.tree.pos)
    ∧ (f.typ = 10 → checkOk f = true → s.sequences = true → s.inSequence p f = true → bit (at_ f.payload 12 4) 3 = false →
      (bit (at_ f.payload 12 4) 2 = true → s.tree.routes.length < 256 →
        ∃ t, exec (.discoverRoute (s.via p cb) f) s = .next t
          ∧ t.tree.routes = s.tree.routes.filter (fun r => !(r.lo == discA f % 2 ^ 18 && r.hi == discB f % 2 ^ 18))
              ++ [{ lo := discA f % 2 ^ 18, hi := discB f % 2 ^ 18, port := fld (at_ f.payload 12 4) 1 0 }])
      ∧ (bit (at_ f.payload 12 4) 2 = false →
        ∃ t, exec (.discoverRoute (s.via p cb) f) s = .next t
          ∧ t.tree.routes = s.tree.routes.filter (fun r => !(r.lo == discA f % 2 ^ 18 && r.hi == discB f % 2 ^ 18))))
    ∧ (f.typ = 10 → checkOk f = true → (at_ f.payload 0 1 ≠ 9 → s.sequences = true) →
      ∃ t, exec (.discoverMark (s.via p cb) f) s = .next t ∧ s.onlyChanges [.reply, .out, .ports, .host, .glean, .expo, .tree] t
        ∧ t.tree.marks = s.tree.marks ++ [{ port := p, hops := discA f % 256, tag := discB f % 65536, typ := fld (discB f) 19 16
                                            src := at_ f.payload 12 4 % 2 ^ 18 }])
    ∧ ((s.port p).lostAt = some w →
      (s.tree.tResp * ttMs ≤ s.clk.wall - w →
        ∃ t, exec (.heldFramesTimeout p) s = .next t ∧ (t.port p).held = [])
      ∧ (s.clk.wall - w < s.tree.tResp * ttMs → s.expo.state = .idle →
        exec (.heldFramesTimeout p) s = .next { s with reply := none, out := [] }))
    ∧ (s.takeoverDue = true →
      ∃ t, exec .takeover s = .next t ∧ t.tree.inCharge = true ∧ t.tree.pos = 0 ∧ t.isRoot = true
        ∧ t.tree.alias_ = (if s.tree.valid then some s.tree.pos else none))

/-- Requests and answers on the tree (R90, R170, R173, R199–R201, R278). A COMMAND whose check value and counter are accepted updates REF and is carried out, one with
a wrong counter is FLT_CMD_COUNTER (10) and is not; an answer settles the contributor it comes from, and combining it is a step on a gleaner; PENDING restarts a contributor's timer; a
held record at the ROOT whose CRC-32C matches waits for its pool (the model's reading, log 33), with WAITING and the event POOL_WAIT (9) where
that lacks buffers (R271); TRIP sets T_trip once, and a device's own TRIP frame that comes back to it changes nothing (the model's reading, log 84); current publications join the survey's currents.

exec answers a next state with the command's own effect, under the premises on the state and operands shown, for:
COMMAND_FRAME_RECEIVE, RESPONSE_FRAME_RECEIVE, TRIP_FRAME_RECEIVE, PENDING_FRAME_RECEIVE, DATA_FRAME_RECEIVE,
CURRENT_PUBLICATION_RECEIVE. -/
def Obligations.RequestsAndAnswersOnTheTree : Prop :=
  ∀ (s : State) (p u g : Nat) (cb : Bool) (f : Frame) (c : Contribution) (h : Harvest) (a b : Contributor) (bs : List Byte),
      s.inSequence p f = true → s.quiet = true → f.cls = 1 → frameListed f = true →
    (f.typ = 1 → checkOk f = true → s.reachable = true → s.mode.shipDue = false → s.mode.mode ≠ .lockout → isCopy f = false →
        counterVerdict ((s.cmdRef f).map CmdRef.ref) (at_ f.payload 0 2) (bit (at_ f.payload 2 1) 0) = true → s.hasHost = false →
      ∃ t, exec (.commandFrameReceive (s.via p cb) f .nop) s = .next t ∧ t.reply = replyOf stOk 0
        ∧ t.cmdRefs.head? = some { src := f.src, hasScope := f.hasScope, dest := f.dest, depth := f.depth, ref := at_ f.payload 0 2 }
        ∧ s.onlyChanges [.reply, .out, .ports, .host, .glean, .expo, .tree, .cmdRefs, .power] t)
    ∧ (f.typ = 1 → checkOk f = true → s.reachable = true → s.mode.shipDue = false → s.hasHost = false →
        counterVerdict ((s.cmdRef f).map CmdRef.ref) (at_ f.payload 0 2) (bit (at_ f.payload 2 1) 0) = false →
      ∃ t, exec (.commandFrameReceive (s.via p cb) f .nop) s = .next t ∧ t.cmdRefs = s.cmdRefs
        ∧ t.fault.evq = s.fault.evq ++ [{ id := 10, item := p, time := s.clk.tt, mode := s.mode.mode.code }]
        ∧ (t.port p).cnt.cmdCounter = sat 0xFFFF ((s.port p).cnt.cmdCounter + 1))
    ∧ (f.typ = 2 → checkOk f = true → s.glean.harvests = [h] → h.tag = f.tag → h.kids = [a, b] → a.port = some p → a.settled = false →
        b.settled = false → b.port ≠ some p → c.answers ≠ [] → c.rejected = none → s.working ≠ [] →
      ∃ t, exec (.responseFrameReceive (s.via p cb) f c) s = .next t
        ∧ t.glean.harvests = [{ h with kids := [{ a with since := s.clk.wall, given := some c }, b], todo := h.todo ++ [some p] }]
        ∧ (s.mode.mode ≠ .halted → h.todo = [] → h.slot = some u → s.shortest = some g → (s.gleaner g).deque.length < 32 → g < s.glean.gleaners.length →
            (t.gleaner g).deque = (s.gleaner g).deque ++ [{ slot := u, kind := .harvest, key := h.tag, tag := h.tag, adm := s.glean.nextAdm }])
        ∧ s.onlyChanges [.reply, .out, .ports, .host, .glean, .expo, .tree] t)
    ∧ (f.typ = 6 → s.glean.harvests = [h] → h.tag = f.tag → h.kids = [a, b] → a.port = some p → a.settled = false → b.port ≠ some p →
      ∃ t, exec (.pendingFrameReceive (s.via p cb) f) s = .next t
        ∧ t.glean.harvests = [{ h with kids := [{ a with since := s.clk.wall }, b] }]
        ∧ s.onlyChanges [.reply, .out, .ports, .host, .glean, .expo, .tree] t)
    ∧ (s.isRoot = true → s.host.eventEn = true → at_ bs 252 4 = crc32c (bs.take 252) →
      ∃ t, exec (.dataFrameReceive (s.via p cb) { f with typ := 7, cls := 2 } (.heldRecord bs)) s = .next t
        ∧ t.host.heldWait = s.host.heldWait ++ [(f.src, bs)]
        ∧ (s.host.heldWait = [] → s.host.heldTold = [] → s.heldLacks 0 bs.length = false →
            t.host = { s.host with heldWait := [(f.src, bs)], heldTold := [false] })
        ∧ (s.host.heldWait = [] → s.host.heldTold = [] → s.heldLacks 0 bs.length = true → s.hasHost = true →
            s.ringReady s.host.eventCq = true → s.host.eventPool < s.host.pool.length →
          t.host.heldTold = [true] ∧ (t.pool s.host.eventPool).waiting = true
            ∧ s.entryAtTail (eventCpl s { typ := 9, value := s.host.eventPool, cid := s.host.eventCid }) ∈ t.out)
        ∧ s.onlyChanges [.reply, .out, .ports, .glean, .expo, .tree, .host] t)
    ∧ (f.typ = 4 → checkOk f = true → s.expo.state = .armed → s.expo.tag = f.tag →
      (s.ownPos f.src = true → ∃ t, exec (.tripFrameReceive (s.via p cb) f) s = .next t ∧ t.expo = s.expo)
      ∧ (s.expo.trip = none → s.ownPos f.src = false →
        ∃ t, exec (.tripFrameReceive (s.via p cb) f) s = .next t ∧ t.expo.trip = some (at_ f.payload 0 8) ∧ t.expo.conflict = s.expo.conflict)
      ∧ (s.expo.trip = some u → s.ownPos f.src = false →
        ∃ t, exec (.tripFrameReceive (s.via p cb) f) s = .next t ∧ t.expo.trip = some u ∧ t.expo.conflict = true))
    ∧ (s.survey.fn = .running → s.survey.lat.ripple = true → at_ f.payload 0 2 = s.survey.lat.tag → at_ f.payload 2 1 = s.survey.point →
        s.isSource s.survey.lat = false → at_ f.payload 0xC 2 = 1 → s.survey.currents = [] → s.survey.run.isSome = true →
      ∃ t, exec (.currentPublicationReceive (s.via p cb) { f with typ := 7, cls := 2 }) s = .next t
        ∧ t.survey.currents = [(at_ f.payload 4 8, sgn 32 (at_ f.payload 0x10 4), bit (at_ f.payload 0xE 2) 0)]
        ∧ (∀ j ∈ s.survey.jobs, j.k = s.survey.point → { j with currents := addCurrents j.currents t.survey.currents } ∈ t.survey.jobs)
        ∧ t.survey = { s.survey with currents := t.survey.currents, jobs := t.survey.jobs, locked := t.survey.locked }
        ∧ s.onlyChanges [.reply, .out, .ports, .host, .glean, .expo, .tree, .survey] t)

/-! ### Invariants and the descriptor's encoding -/

/-- Every step keeps the memories in their canonical form and the device's files at their sizes, whatever state it starts from. -/
def Obligations.StepKeepsMemoriesAndFiles : Prop :=
  ∀ (s t : State), s.memWf → s.shapeWf = true → step s = .next t → t.memWf ∧ t.shapeWf = true

/-- Every step keeps the queues and tables of the device within the room the spec gives them. -/
def Obligations.StepKeepsQueuesWithinBounds : Prop :=
  ∀ (s t : State), s.boundsWf = true → s.glean.gleaners.length = 16 → step s = .next t → t.boundsWf = true

/-- A descriptor read back is the descriptor written: for every header and every request of Table 9.9 with operands that the encoding
admits, the ROOT's reading of the 64 bytes gives the header and the request, with no operand bit dropped. -/
def Obligations.DescriptorsReadBackAsWritten : Prop :=
  ∀ (mem : List (Nat × Byte)) (w : FetchWorld) (h : Hdr) (ha : Nat) (r : Req), h.wf = true → h.flags < 4 → reqFits mem w h ha r = true →
    parseDesc mem w h.ring (descBytes h ha r) = some (h, r)

/-! ### Rules stated whole -/

/-- MODE.STATE never reads 0 or 13 to 15 in its STATE field (R33). -/
def Obligations.ModeCodesAreOneToTwelve : Prop :=
  ∀ (s : State), (s.readValue 0x100) % 16 ≠ 0 ∧ (s.readValue 0x100) % 16 ≠ 13 ∧ (s.readValue 0x100) % 16 ≠ 14 ∧ (s.readValue 0x100) % 16 ≠ 15

/-- In every sweep record a cell outside CELL_MASK carries the code 0x80_0000 and none of the five flags (R67), and a disabled current channel the
code 0x8000_0000, with nothing of the device after the sweep depending on what its converter held (R54). -/
def Obligations.DisabledSourcesAreNotSampled : Prop :=
  ∀ (s : State) (a : Aperture) (raw : RawCodes) (temps : List Int) (frac x : Int) (w : Option Int) (n : Nat), s.crystalRuns = true → s.sweep.pend = [a] →
      a.codes = some raw → a.aux = false ∨ a.auxDone = true →
    (1 ≤ n → n ≤ 48 → inMask s.sweep.lat.mask n = false →
      ∃ t, exec (.sweepRecordComplete temps frac w) s = .next t ∧ (t.sweep.live.getLast?).any (fun r =>
        r.cells.getD (n - 1) 0 == -0x800000 && !r.unsettled.testBit (n - 1) && !r.adj.testBit (n - 1) && !r.openW.testBit (n - 1)
          && !r.disagree.testBit (n - 1) && !r.immature.testBit (n - 1)) = true)
    ∧ (s.sweep.lat.en1 = false →
      (∃ t, exec (.sweepRecordComplete temps frac w) s = .next t ∧ (t.sweep.live.getLast?).map Rec.is1 = some (-0x80000000))
      ∧ exec (.sweepRecordComplete temps frac w) { s with sweep := { s.sweep with pend := [{ a with codes := some { raw with is1 := x } }] } }
          = exec (.sweepRecordComplete temps frac w) s)
    ∧ (s.sweep.lat.en2 = false →
      (∃ t, exec (.sweepRecordComplete temps frac w) s = .next t ∧ (t.sweep.live.getLast?).map Rec.is2 = some (-0x80000000))
      ∧ exec (.sweepRecordComplete temps frac w) { s with sweep := { s.sweep with pend := [{ a with codes := some { raw with is2 := x } }] } }
          = exec (.sweepRecordComplete temps frac w) s)

/-- The combinations of Table 7.4, with the 16 bytes of a SAFETY frame (R187, R189), and what happens to any other at its destination:
accepted by the hop, which expects the next HSEQ, discarded, and counted in CONDEMNED. -/
def Obligations.UnlistedFramesAreDiscarded : Prop :=
  ∀ (s : State) (p : Nat) (cb : Bool) (f : Frame) (req : Req) (c : Contribution), f.payload.length ≤ 256 →
    (frameListed f = true ↔
      ((f.typ ∈ [0, 1, 2, 3, 4, 6, 8, 9, 10, 11, 12] ∧ f.cls = 1) ∨ (f.typ = 5 ∧ f.cls = 0) ∨ (f.typ ∈ [7, 12] ∧ f.cls ∈ [2, 3])
        ∨ (f.typ = 10 ∧ f.cls ∈ [2, 3] ∧ at_ f.payload 0 1 = 9))
      ∧ (f.typ ∈ [1, 5] → 8 ≤ f.payload.length) ∧ (f.typ ∈ [2, 3, 4, 10, 11, 12] → 4 ≤ f.payload.length)
      ∧ (f.cls = 0 → f.payload.length ≤ 16))
    ∧ (s.inSequence p f = true → frameListed f = false → s.reachable = true → s.mode.shipDue = false →
      (∀ i ∈ ([.commandFrameReceive (s.viaSpace p f cb) f req, .responseFrameReceive (s.viaSpace p f cb) f c, .strobeReceive (s.viaSpace p f cb) f,
          .tripFrameReceive (s.viaSpace p f cb) f, .safetyFrameReceive (s.viaSpace p f cb) f, .pendingFrameReceive (s.viaSpace p f cb) f,
          .dataFrameReceive (s.viaSpace p f cb) f (.contribution c), .currentPublicationReceive (s.viaSpace p f cb) f,
          .creditFrameReceive (s.viaSpace p f cb) f, .timeSyncReceive (s.viaSpace p f cb) f 0, .timeEchoReceive (s.viaSpace p f cb) f 0,
          .discoverWalk (s.viaSpace p f cb) f, .discoverReport (s.viaSpace p f cb) f, .discoverCut (s.viaSpace p f cb) f,
          .faultFrameReceive (s.viaSpace p f cb) f, .probeReceive (s.viaSpace p f cb) f, .probeAnswerReceive (s.viaSpace p f cb) f] : List Instr),
        ∃ t, exec i s = .next t ∧ (t.port p).cnt.condemned = sat 0xFFFF ((s.port p).cnt.condemned + 1)
          ∧ ((t.port p).space (f.cls = 0)).rxNext = (((s.port p).space (f.cls = 0)).rxNext + 1) % 64
          ∧ (s.glean.finished = [] → s.onlyChanges [.reply, .out, .ports, .host, .glean, .expo, .tree] t
            ∧ ((∀ h ∈ s.glean.harvests, ∃ k ∈ h.kids, k.settled = false) → t.glean.harvests = s.glean.harvests))))
end

