-- ==== Sys2Proof/Laws/Frames.lean ====
section
/-! SUPPORT. Frames: what each shared operation leaves alone, in terms of State.onlyChanges (Safety.lean). A command's
frame follows by chaining these lemmas with only_step, without unfolding the operations again. -/

namespace Sys2Proof.Machine

-- one proof at a time: these proofs share the equations of the operations they unfold
set_option Elab.async false

theorem only_refl (ps : List Part) (s : State) : s.onlyChanges ps s := fun p _ => by cases p <;> rfl

theorem only_trans {s t u : State} {ps : List Part} (h : s.onlyChanges ps t) (k : t.onlyChanges ps u) :
    s.onlyChanges ps u := fun p hp => by
  have a := h p hp
  have b := k p hp
  cases p <;> exact Eq.trans b a

theorem only_mono {s t : State} {ps qs : List Part} (h : s.onlyChanges ps t) (hs : ∀ p ∈ ps, p ∈ qs) :
    s.onlyChanges qs t := fun p hp => h p (fun hm => hp (hs p hm))

/-- The last change of a chain; the parts it names are among those of the whole chain. -/
theorem only_step {s t u : State} {ps qs : List Part} (k : t.onlyChanges qs u) (h : s.onlyChanges ps t)
    (hq : ∀ p ∈ qs, p ∈ ps := by decide) : s.onlyChanges ps u := only_trans h (only_mono k hq)

/-- The only change. -/
theorem only_one {s t : State} {ps qs : List Part} (k : s.onlyChanges qs t)
    (hq : ∀ p ∈ qs, p ∈ ps := by decide) : s.onlyChanges ps t := only_mono k hq

theorem only_ite {s a b : State} {ps : List Part} {c : Prop} [Decidable c] (h : s.onlyChanges ps a)
    (k : s.onlyChanges ps b) : s.onlyChanges ps (if c then a else b) := by split <;> assumption

theorem only_foldl {α : Type} {ps : List Part} {f : State → α → State} {l : List α} {s : State}
    (h : ∀ (s : State) (x : α), s.onlyChanges ps (f s x)) : s.onlyChanges ps (l.foldl f s) := by
  induction l generalizing s with
  | nil => exact only_refl ps s
  | cons x l ih => exact only_trans (h s x) ih

theorem only_iter {ps : List Part} {f : State → State} {n : Nat} {s : State} (h : ∀ s : State, s.onlyChanges ps (f s)) :
    s.onlyChanges ps (iter f n s) := by
  induction n generalizing s with
  | zero => exact only_refl ps s
  | succ n ih => exact only_trans (h s) ih

theorem only_when {ps : List Part} {c : Bool} {f : State → State} {s : State} (h : s.onlyChanges ps (f s)) :
    s.onlyChanges ps (when_ c f s) := by
  unfold when_
  exact only_ite h (only_refl ps s)

/-! ### One field -/

theorem only_pending (s : State) (x : List Instr) : s.onlyChanges [.pending] { s with pending := x } := fun p hp => by
  cases p <;> first | rfl | exact absurd (by decide) hp

theorem only_free (s : State) (x : Nat) : s.onlyChanges [.free] { s with free := x } := fun p hp => by
  cases p <;> first | rfl | exact absurd (by decide) hp

theorem only_reply (s : State) (x : Option Reply) : s.onlyChanges [.reply] { s with reply := x } := fun p hp => by
  cases p <;> first | rfl | exact absurd (by decide) hp

theorem only_out (s : State) (x : List OutEvt) : s.onlyChanges [.out] { s with out := x } := fun p hp => by
  cases p <;> first | rfl | exact absurd (by decide) hp

theorem only_clk (s : State) (x : ClkSt) : s.onlyChanges [.clk] { s with clk := x } := fun p hp => by
  cases p <;> first | rfl | exact absurd (by decide) hp

theorem only_ident (s : State) (x : IdentSt) : s.onlyChanges [.ident] { s with ident := x } := fun p hp => by
  cases p <;> first | rfl | exact absurd (by decide) hp

theorem only_mode (s : State) (x : ModeSt) : s.onlyChanges [.mode] { s with mode := x } := fun p hp => by
  cases p <;> first | rfl | exact absurd (by decide) hp

theorem only_fault (s : State) (x : FaultSt) : s.onlyChanges [.fault] { s with fault := x } := fun p hp => by
  cases p <;> first | rfl | exact absurd (by decide) hp

theorem only_wdog (s : State) (x : WdogSt) : s.onlyChanges [.wdog] { s with wdog := x } := fun p hp => by
  cases p <;> first | rfl | exact absurd (by decide) hp

theorem only_clocks (s : State) (x : Nat) : s.onlyChanges [.clocks] { s with clocks := x } := fun p hp => by
  cases p <;> first | rfl | exact absurd (by decide) hp

theorem only_hostWd (s : State) (x : WdogSt) : s.onlyChanges [.hostWd] { s with hostWd := x } := fun p hp => by
  cases p <;> first | rfl | exact absurd (by decide) hp

theorem only_checks (s : State) (x : List CheckSt) : s.onlyChanges [.checks] { s with checks := x } := fun p hp => by
  cases p <;> first | rfl | exact absurd (by decide) hp

theorem only_flash (s : State) (x : FlashSt) : s.onlyChanges [.flash] { s with flash := x } := fun p hp => by
  cases p <;> first | rfl | exact absurd (by decide) hp

theorem only_dbg (s : State) (x : DbgSt) : s.onlyChanges [.dbg] { s with dbg := x } := fun p hp => by
  cases p <;> first | rfl | exact absurd (by decide) hp

theorem only_ports (s : State) (x : List PortSt) : s.onlyChanges [.ports] { s with ports := x } := fun p hp => by
  cases p <;> first | rfl | exact absurd (by decide) hp

theorem only_legacy (s : State) (x : LegacySt) : s.onlyChanges [.legacy] { s with legacy := x } := fun p hp => by
  cases p <;> first | rfl | exact absurd (by decide) hp

theorem only_cmdRefs (s : State) (x : List CmdRef) : s.onlyChanges [.cmdRefs] { s with cmdRefs := x } := fun p hp => by
  cases p <;> first | rfl | exact absurd (by decide) hp

theorem only_tree (s : State) (x : TreeSt) : s.onlyChanges [.tree] { s with tree := x } := fun p hp => by
  cases p <;> first | rfl | exact absurd (by decide) hp

theorem only_host (s : State) (x : HostSt) : s.onlyChanges [.host] { s with host := x } := fun p hp => by
  cases p <;> first | rfl | exact absurd (by decide) hp

theorem only_safety (s : State) (x : SafetySt) : s.onlyChanges [.safety] { s with safety := x } := fun p hp => by
  cases p <;> first | rfl | exact absurd (by decide) hp

theorem only_sweep (s : State) (x : SweepSt) : s.onlyChanges [.sweep] { s with sweep := x } := fun p hp => by
  cases p <;> first | rfl | exact absurd (by decide) hp

theorem only_cells (s : State) (x : List CellSt) : s.onlyChanges [.cells] { s with cells := x } := fun p hp => by
  cases p <;> first | rfl | exact absurd (by decide) hp

theorem only_survey (s : State) (x : SurveySt) : s.onlyChanges [.survey] { s with survey := x } := fun p hp => by
  cases p <;> first | rfl | exact absurd (by decide) hp

theorem only_bal (s : State) (x : BalanceSt) : s.onlyChanges [.bal] { s with bal := x } := fun p hp => by
  cases p <;> first | rfl | exact absurd (by decide) hp

theorem only_diag (s : State) (x : DiagSt) : s.onlyChanges [.diag] { s with diag := x } := fun p hp => by
  cases p <;> first | rfl | exact absurd (by decide) hp

theorem only_glean (s : State) (x : GleanSt) : s.onlyChanges [.glean] { s with glean := x } := fun p hp => by
  cases p <;> first | rfl | exact absurd (by decide) hp

theorem only_expo (s : State) (x : ExpoSt) : s.onlyChanges [.expo] { s with expo := x } := fun p hp => by
  cases p <;> first | rfl | exact absurd (by decide) hp

theorem only_power (s : State) (x : PowerSt) : s.onlyChanges [.power] { s with power := x } := fun p hp => by
  cases p <;> first | rfl | exact absurd (by decide) hp

theorem only_wire (s : State) (x : WireSt) : s.onlyChanges [.wire] { s with wire := x } := fun p hp => by
  cases p <;> first | rfl | exact absurd (by decide) hp

theorem only_bist (s : State) (x : BistSt) : s.onlyChanges [.bist] { s with bist := x } := fun p hp => by
  cases p <;> first | rfl | exact absurd (by decide) hp

theorem only_kept (s : State) (x : RetainedSt) : s.onlyChanges [.kept] { s with kept := x } := fun p hp => by
  cases p <;> first | rfl | exact absurd (by decide) hp

theorem only_granary (s : State) (x : Mem) : s.onlyChanges [.granary] { s with granary := x } := fun p hp => by
  cases p <;> first | rfl | exact absurd (by decide) hp

/-! ### Ops.lean -/

theorem begin_only (s : State) : s.onlyChanges [.reply, .out] s.begin := fun p hp => by
  cases p <;> first | rfl | exact absurd (by decide) hp

theorem answer_only (s : State) (st v : Nat) (ws : List Nat) (bs : List Byte) :
    s.onlyChanges [.reply] (s.answer st v ws bs) := only_reply s _

theorem emit_only (s : State) (e : OutEvt) : s.onlyChanges [.out] (s.emit e) := only_out s _

theorem took_only (s : State) : s.onlyChanges [.free] s.took := only_free s _

theorem updCell_only (s : State) (n : Nat) (f : CellSt → CellSt) : s.onlyChanges [.cells] (s.updCell n f) :=
  only_ite (only_refl _ s) (only_cells s _)

theorem mapCells_only (s : State) (f : Nat → CellSt → CellSt) : s.onlyChanges [.cells] (s.mapCells f) := only_cells s _

theorem updPort_only (s : State) (p : Nat) (f : PortSt → PortSt) : s.onlyChanges [.ports] (s.updPort p f) :=
  only_ports s _

theorem ledgerAt_only (s : State) (c i d t : Nat) (x : Option (Nat × Nat)) :
    s.onlyChanges [.flash] (s.ledgerAt c i d t x) := only_ite (only_flash s _) (only_flash s _)

theorem ledger_only (s : State) (c i d : Nat) : s.onlyChanges [.flash] (s.ledger c i d) := ledgerAt_only s _ _ _ _ _

theorem raise_only (s : State) (i t : Nat) : s.onlyChanges [.fault] (s.raise i t) :=
  only_ite (only_refl _ s) (only_fault s _)

theorem raiseLevel_only (s b : State) (i t : Nat) : s.onlyChanges [.fault] (s.raiseLevel b i t) :=
  only_ite (raise_only s _ _) (only_refl _ s)

theorem updSq_only (s : State) (r : Nat) (f : SqSt → SqSt) : s.onlyChanges [.host] (s.updSq r f) := only_host s _
theorem updCq_only (s : State) (r : Nat) (f : CqSt → CqSt) : s.onlyChanges [.host] (s.updCq r f) := only_host s _
theorem updPool_only (s : State) (r : Nat) (f : PoolSt → PoolSt) : s.onlyChanges [.host] (s.updPool r f) := only_host s _

theorem message_only (s : State) (v : Nat) : s.onlyChanges [.host, .out] (s.message v) := by
  unfold State.message
  refine only_ite (only_step (only_host _ _) (only_refl _ s)) (only_ite ?_ ?_)
  · exact only_step (emit_only _ _) (only_step (emit_only _ _) (only_step (only_host _ _) (only_refl _ s)))
  · exact only_step (emit_only _ _) (only_refl _ s)

theorem settleSq_only (s : State) (r : Nat) : s.onlyChanges [.host] (s.settleSq r) :=
  only_ite (updSq_only s _ _) (only_refl _ s)

theorem signal_only (s : State) (c : Nat) : s.onlyChanges [.host, .out] (s.signal c) :=
  only_ite (only_step (message_only _ _) (only_step (updCq_only _ _ _) (only_refl _ s))) (only_refl _ s)

theorem writeEntry_only (s : State) (e : Cpl) : s.onlyChanges [.host, .out] (s.writeEntry e) := by
  unfold State.writeEntry
  dsimp only
  refine only_step (signal_only _ _) ?_
  split
  · exact only_step (settleSq_only _ _) (only_step (only_host _ _) (only_step (updCq_only _ _ _) (only_one (emit_only s _))))
  · exact only_step (updCq_only _ _ _) (only_one (emit_only s _))

theorem complete_only (s : State) (e : Cpl) : s.onlyChanges [.host, .out] (s.complete e) :=
  only_ite (writeEntry_only s e) (only_step (updCq_only _ _ _) (only_one (only_host s _)))

theorem event_only (s : State) (t v : Nat) : s.onlyChanges [.host, .out] (s.event t v) := by
  unfold State.event
  extract_lets ev hs s1
  have h1 : s.onlyChanges [.host, .out] s1 := only_one (only_host _ _)
  exact only_ite (only_refl _ s) (only_ite (only_step (only_host _ _) h1) (only_ite (only_step (writeEntry_only _ _) h1)
    (only_ite (only_step (only_host _ _) h1) (only_step (only_host _ _) h1))))

theorem drainCpl_only (s : State) : s.onlyChanges [.host, .out] s.drainCpl := by
  unfold State.drainCpl
  dsimp only
  exact only_step (only_host _ _) (only_trans (only_one (only_host s _)) (only_foldl complete_only))

theorem drainEvents_only (s : State) : s.onlyChanges [.host, .out] s.drainEvents := by
  unfold State.drainEvents
  dsimp only
  refine only_ite (only_refl _ s) (only_trans (only_one (only_host s _)) (only_foldl fun a e => ?_))
  exact only_ite (writeEntry_only _ _) (only_one (only_host _ _))

theorem setMode_only (s : State) (m : Mode) : s.onlyChanges [.mode, .flash, .host, .out] (s.setMode m) := by
  unfold State.setMode
  dsimp only
  exact only_ite (only_refl _ s) (only_step (event_only _ _ _) (only_step (ledger_only _ _ _ _)
    (only_one (only_mode s _))))

/-- A meaning always goes on, and leaves the queue as it is. -/
theorem run_next (f : State → State) (s : State) : ∃ t, run f s = .next t ∧ t.pending = s.pending :=
  ⟨_, rfl, rfl⟩

theorem run_only {f : State → State} {s : State} {ps : List Part} (h : s.begin.onlyChanges ps (f s.begin)) :
    ∃ t, run f s = .next t ∧ s.onlyChanges (.reply :: .out :: ps) t := by
  refine ⟨_, rfl, ?_⟩
  have h1 : s.onlyChanges (.reply :: .out :: ps) (f s.begin) :=
    only_step h (only_mono (begin_only s) (fun p hp => by simp at hp; rcases hp with rfl | rfl <;> simp))
      (fun p hp => by simp [hp])
  intro p hp
  have := h1 p hp
  cases p <;> first | rfl | exact this

/-! ### LinkOps.lean -/

theorem crierBit_only (s : State) (p : Nat) : s.onlyChanges [.ports, .glean] (s.crierBit p).2 := by
  unfold State.crierBit
  dsimp only
  split
  · exact only_refl _ s
  · refine only_step (updPort_only _ _ _) ?_
    exact only_ite (only_one (only_glean s _)) (only_refl _ s)

theorem stampProbe_only (s : State) (f : Frame) : s.onlyChanges [.host] (s.stampProbe f) :=
  only_ite (only_refl _ s) (only_host s _)

theorem stampTime_only (s : State) (p : Nat) (f : Frame) : s.onlyChanges [.ports] (s.stampTime p f).2 := by
  unfold State.stampTime
  split
  · exact only_refl _ s
  · split
    · exact updPort_only s _ _
    · exact only_refl _ s

theorem sendNow_only (s : State) (p : Nat) (x : QFrame) : s.onlyChanges [.ports, .glean, .out, .host] (s.sendNow p x) := by
  unfold State.sendNow
  dsimp only
  refine only_step (emit_only _ _) ?_
  have h : s.onlyChanges [.ports, .glean, .out, .host] (((s.stampTime p x.frame).2.stampProbe (s.stampTime p x.frame).1).crierBit p).2 :=
    only_step (crierBit_only _ p) (only_step (stampProbe_only _ _) (only_one (stampTime_only s p _)))
  split
  · exact only_ite (only_step (updPort_only _ _ _) h) (only_step (updPort_only _ _ _) (only_step (updPort_only _ _ _) h))
  · exact only_step (updPort_only _ _ _) h

theorem pumpOne_only (s : State) (p : Nat) : s.onlyChanges [.ports, .glean, .out, .host] (s.pumpOne p) := by
  unfold State.pumpOne
  extract_lets q t ready fits size go
  have hg (l : List QFrame) (f : TxQueues → TxQueues) : s.onlyChanges [.ports, .glean, .out, .host] (go l f) := by
    cases l
    · exact only_refl _ s
    · exact only_step (sendNow_only _ _ _) (only_one (updPort_only s _ _))
  clear_value go
  split
  · exact hg _ _
  split
  · exact hg _ _
  split
  · exact hg _ _
  split
  · exact hg _ _
  exact only_one (updPort_only s _ _)

theorem pump_only (s : State) (p : Nat) : s.onlyChanges [.ports, .glean, .out, .host] (s.pump p) :=
  only_iter fun s => pumpOne_only s p

theorem giveCredit_only (s : State) (p : Nat) : s.onlyChanges [.ports, .glean, .out, .host] (s.giveCredit p) := by
  unfold State.giveCredit
  dsimp only
  exact only_ite (only_refl _ s) (only_step (sendNow_only _ _ _) (only_one (updPort_only s _ _)))

theorem freeExposure_only (s : State) : s.onlyChanges [.expo] s.freeExposure := by
  unfold State.freeExposure
  dsimp only
  exact only_ite (only_expo s _) (only_refl _ s)

/-- What sending does to the device: its ports, the load last advertised, the line, the time of a probe, and the exposure area
it frees. -/
theorem flush_only (s : State) : s.onlyChanges [.ports, .glean, .out, .host, .expo] s.flush :=
  only_step (freeExposure_only _) (only_step (only_foldl giveCredit_only) (only_one (only_foldl pump_only)))

theorem enqueue_only (s : State) (p : Nat) (x : QFrame) : s.onlyChanges [.ports] (s.enqueue p x) := updPort_only s _ _

theorem consume_only (s : State) (a : Arrival) (f : Frame) : s.onlyChanges [.ports] (s.consume a f) := by
  unfold State.consume
  split
  · exact only_refl _ s
  · exact only_ite (only_refl _ s) (updPort_only s _ _)

theorem sendShort_only (s : State) (p : Nat) (a b : Bool) : s.onlyChanges [.ports, .glean, .out] (s.sendShort p a b) := by
  unfold State.sendShort
  dsimp only
  refine only_ite (only_refl _ s) ?_
  exact only_step (emit_only _ _) (only_step (updPort_only _ _ _) (only_one (crierBit_only s p)))

theorem takeCrier_only (s : State) (p : Nat) (b : Bool) : s.onlyChanges [.ports] (s.takeCrier p b) := updPort_only s _ _

theorem hop_only (s : State) (a : Arrival) (f : Frame) : s.onlyChanges [.ports, .glean, .out] (s.hop a f).2 := by
  unfold State.hop
  split
  · exact only_refl _ s
  · dsimp only
    split
    · exact only_refl _ s
    · split
      · have h (c : Bool) (p : Nat) (b : Bool) : s.onlyChanges [.ports, .glean, .out] (if c = true then s.takeCrier p b else s) :=
          only_ite (only_one (takeCrier_only s _ _)) (only_refl _ s)
        split
        · exact only_step (updPort_only _ _ _) (h _ _ _)
        · exact h _ _ _
      · split
        · exact only_step (sendShort_only _ _ _ _) (only_step (updPort_only _ _ _) (only_one (takeCrier_only s _ _)))
        · split
          · exact only_one (takeCrier_only s _ _)
          · exact only_step (sendShort_only _ _ _ _) (only_step (updPort_only _ _ _) (only_one (takeCrier_only s _ _)))

theorem countCondemned_only (s : State) (a : Arrival) : s.onlyChanges [.ports] (s.countCondemned a) := by
  unfold State.countCondemned
  split
  · exact only_refl _ s
  · exact updPort_only s _ _

theorem countRej_only (s : State) (a : Arrival) (b : Bool) : s.onlyChanges [.ports] (s.countRej a b) := by
  unfold State.countRej
  split
  · exact only_refl _ s
  · exact updPort_only s _ _

theorem setRef_only (s : State) (f : Frame) (c : Nat) : s.onlyChanges [.cmdRefs] (s.setRef f c) := only_cmdRefs s _

theorem takeOff_only (s : State) (a : Arrival) (f : Frame) : s.onlyChanges [.ports] (s.takeOff a f) :=
  only_ite (only_refl _ s) (consume_only s a f)

/-- What delivery touches beside what the frame's own effect does: its credits, the counter of a discarded one, the queue of those that wait. -/
theorem deliver_only {ps : List Part} {s : State} {a : Arrival} {f : Frame} {act : State → State}
    (h : ∀ t : State, t.onlyChanges ps (act t)) (hp : Part.ports ∈ ps) (ht : Part.tree ∈ ps) :
    s.onlyChanges ps (s.deliver a f act) := by
  refine only_ite (only_mono (countCondemned_only s a) (by simpa using hp)) (only_ite (only_mono (only_tree s _) (by simpa using ht)) ?_)
  exact only_trans (only_mono (takeOff_only s a f) (by simpa using hp)) (h _)

theorem checkFrame_only (s : State) (a : Arrival) (f : Frame) : s.onlyChanges [.fault, .ports] (s.checkFrame a f).2 := by
  unfold State.checkFrame
  split
  · exact only_refl _ s
  · exact only_step (countRej_only _ _ _) (only_one (raise_only s _ _))

theorem checkCommand_only (s : State) (a : Arrival) (f : Frame) :
    s.onlyChanges [.fault, .ports, .cmdRefs] (s.checkCommand a f).2 := by
  unfold State.checkCommand
  split
  · exact only_step (countRej_only _ _ _) (only_one (raise_only s _ _))
  · dsimp only
    split
    · exact only_one (setRef_only s _ _)
    · exact only_step (countRej_only _ _ _) (only_one (raise_only s _ _))

theorem trackCut_only (s : State) : s.onlyChanges [.mode] s.trackCut :=
  only_ite (only_mode s _) (only_ite (only_refl _ s) (only_mode s _))

theorem sendTo_only (s : State) (f : Frame) : s.onlyChanges [.ports] (s.sendTo f) := by
  unfold State.sendTo
  split
  · exact enqueue_only s _ _
  · exact only_refl _ s

theorem forward_only (s : State) (a : Arrival) (f : Frame) : s.onlyChanges [.ports] (s.forward a f) := by
  unfold State.forward
  refine only_ite (only_refl _ s) ?_
  split
  · exact enqueue_only s _ _
  · exact enqueue_only s _ _
  · exact only_refl _ s

theorem replicate_only (s : State) (f : Frame) (h : Option Nat) (ps : List Nat) :
    s.onlyChanges [.ports] (s.replicate f h ps) := by
  refine only_foldl fun s p => only_step (enqueue_only _ _ _) ?_
  cases h
  · exact only_refl _ s
  · exact enqueue_only s _ _

theorem spread_only (s : State) (a : Arrival) (f : Frame) : s.onlyChanges [.ports, .tree] (s.spread a f).2 := by
  unfold State.spread
  split
  · exact only_refl _ s
  · split
    · exact only_one (replicate_only s _ _ _)
    · split
      · exact only_one (replicate_only s _ _ _)
      · split
        · dsimp only
          split
          · exact only_one (countCondemned_only s _)
          · split
            · exact only_one (only_tree s _)
            · exact only_step (replicate_only _ _ _ _) (only_one (only_tree s _))
        · exact only_refl _ s

theorem sendTrain_only (s : State) (p : Nat) (a b : Bool) : s.onlyChanges [.ports, .glean, .out] (s.sendTrain p a b) := by
  unfold State.sendTrain
  dsimp only
  refine only_ite (only_refl _ s) ?_
  exact only_step (emit_only _ _) (only_step (updPort_only _ _ _) (only_one (crierBit_only s p)))

theorem retrain_only (s : State) (p : Nat) : s.onlyChanges [.ports, .mode, .glean, .out] (s.retrain p) :=
  only_step (sendTrain_only _ _ _ _) (only_step (trackCut_only _) (only_one (updPort_only s _ _)))

theorem sendAgain_only (s : State) (p : Nat) (b : Bool) (f : Unacked → Unacked) :
    s.onlyChanges [.ports, .glean, .out] (s.sendAgain p b f) := by
  unfold State.sendAgain
  refine only_step (updPort_only _ _ _) ?_
  generalize ((s.port p).space b).unacked = l
  suffices h : ∀ (l : List Unacked) (acc : List Unacked × State), acc.2.onlyChanges [.ports, .glean, .out]
      (l.foldl (fun (acc : List Unacked × State) u =>
        (acc.1 ++ [f { u with frame := (acc.2.stampTime p u.frame).1 }],
         (((acc.2.stampTime p u.frame).2).crierBit p).2.emit
           (.long p u.hseq (((acc.2.stampTime p u.frame).2).crierBit p).1 (acc.2.stampTime p u.frame).1))) acc).2 from h l ([], s)
  intro l
  induction l with
  | nil => exact fun acc => only_refl _ acc.2
  | cons u l ih =>
    exact fun acc => only_trans (only_step (emit_only _ _) (only_step (crierBit_only _ p) (only_one (stampTime_only acc.2 p _)))) (ih _)

theorem retransmit_only (s : State) (p : Nat) (b : Bool) :
    s.onlyChanges [.ports, .glean, .out, .fault, .mode] (s.retransmit p b) := by
  unfold State.retransmit
  dsimp only
  have h : s.onlyChanges [.ports, .glean, .out, .fault, .mode] (s.sendAgain p b
      (fun u => { u with retries := u.retries + 1, sentAt := s.wall })) := only_one (sendAgain_only s p b _)
  exact only_ite (only_refl _ s) (only_ite (only_step (retrain_only _ _) (only_step (raise_only _ _ _) (only_step (updPort_only _ _ _) h)))
    (only_step (updPort_only _ _ _) h))

theorem faultFrame_only (s : State) (k i t a m : Nat) : s.onlyChanges [.host, .out, .ports] (s.faultFrame k i t a m) :=
  only_ite (only_one (event_only s _ _)) (only_one (sendTo_only s _))

/-! ### HostOps.lean -/

theorem fillRun_only (size mps k off : Nat) (bufs : List Nat) (bs : List Byte) (s : State) :
    s.onlyChanges [.out] (State.fillRun size mps bufs k off bs s) := by
  induction k generalizing off bs s with
  | zero => exact only_refl _ s
  | succ k ih => exact only_ite (only_refl _ s) (only_trans (emit_only s _) (ih _ _ _))

theorem nbufOf_only (s : State) (k : Nat) : s.onlyChanges [.free] (s.nbufOf k).2 := by
  unfold State.nbufOf
  split
  · exact only_refl _ s
  · exact only_free s _

theorem writeOut_only (s : State) (w : ResultWait) : s.onlyChanges [.out] (s.writeOut w).2 := by
  unfold State.writeOut
  split
  · exact only_refl _ s
  · exact fillRun_only _ _ _ _ _ _ s

theorem tryRun_only {s t : State} {mem : Option (List (Nat × Byte))} {w v : ResultWait} (h : s.tryRun mem w = some (v, t)) :
    s.onlyChanges [.host] t := by
  unfold State.tryRun at h
  split at h
  · cases h; exact only_refl _ s
  · dsimp only at h
    split at h
    · cases h
    · split at h
      · cases h; exact updPool_only s _ _
      · cases h

theorem finishResult_only (s : State) (w : ResultWait) : s.onlyChanges [.host, .out, .free] (s.finishResult w) := by
  unfold State.finishResult
  split
  · exact only_one (complete_only s _)
  · exact only_step (complete_only _ _) (only_one (nbufOf_only s _))

theorem settleOne_only (mem : Option (List (Nat × Byte))) (acc : State × List ResultWait) (w : ResultWait) :
    acc.1.onlyChanges [.host, .out, .free] (State.settleOne mem acc w).1 := by
  obtain ⟨s, kept⟩ := acc
  unfold State.settleOne
  dsimp only
  split
  · rename_i v t h
    split at h
    · cases h
    · have hw := only_step (ps := [.host, .out, .free]) (writeOut_only t v) (only_one (tryRun_only h))
      split
      · exact hw
      · exact only_step (finishResult_only _ _) hw
  · refine only_ite (only_step (updPool_only _ _ _) ?_) ?_ <;>
      exact only_ite (only_one (event_only s _ _)) (only_refl _ s)

theorem closePools_only (s : State) : s.onlyChanges [.host] s.closePools := only_host s _

theorem tellHeld_only (s : State) : s.onlyChanges [.host, .out] s.tellHeld := by
  unfold State.tellHeld
  dsimp only
  have h (x : HostSt) (l : List Bool) : s.onlyChanges [.host, .out] (l.foldl (fun (s : State) new =>
      if new then s.event 0x09 s.host.eventPool else s) { s with host := x }) :=
    only_trans (only_one (only_host s x)) (only_foldl fun a b => only_ite (event_only _ _ _) (only_refl _ a))
  exact only_ite (only_step (updPool_only _ _ _) (h _ _)) (h _ _)

theorem settleWaits_only (s : State) (mem : Option (List (Nat × Byte))) : s.onlyChanges [.host, .out, .free] (s.settleWaits mem) := by
  unfold State.settleWaits
  dsimp only
  refine only_step (closePools_only _) (only_step (tellHeld_only _) (only_step (only_host _ _) ?_))
  have h : ∀ (l : List ResultWait) (acc : State × List ResultWait),
      acc.1.onlyChanges [.host, .out, .free] (l.foldl (State.settleOne mem) acc).1 := by
    intro l
    induction l with
    | nil => exact fun acc => only_refl _ acc.1
    | cons w l ih => exact fun acc => only_trans (settleOne_only mem acc w) (ih _)
  exact only_trans (only_one (only_host s _)) (h s.host.waits ({ s with host := _ }, []))

theorem updTx_only (s : State) (i : Nat) (f : Tx → Tx) : s.onlyChanges [.host] (s.updTx i f) := only_host s _
theorem post_only (s : State) (w : ResultWait) : s.onlyChanges [.host] (s.post w) := only_host s _

theorem postMore_only (s : State) (i : Nat) (bs : List Byte) (a b c : Nat) : s.onlyChanges [.host] (s.postMore i bs a b c) := by
  unfold State.postMore
  split
  · exact only_refl _ s
  · exact only_ite (updTx_only s _ _) (only_step (updTx_only _ _ _) (post_only s _))

theorem dropStreams_only (s : State) (i : Nat) : s.onlyChanges [.host] (s.dropStreams i) := only_host s _

theorem postFinal_only (s : State) (i : Nat) (bs : List Byte) (a b c d : Nat) (m : Bool) :
    s.onlyChanges [.host] (s.postFinal i bs a b c d m) := by
  unfold State.postFinal
  split
  · exact only_refl _ s
  · exact only_step (post_only _ _) (only_step (only_host _ _) (updTx_only s _ _))

theorem completeEarly_only (s : State) (h : Hdr) (st : Nat) : s.onlyChanges [.reply, .host, .out] (s.completeEarly h st) :=
  only_step (complete_only _ _) (only_one (answer_only s _ _ _ _))

theorem blockIn_only (s : State) (t p m : Nat) (bs : List Byte) : s.onlyChanges [.host] (s.blockIn t p m bs) := by
  unfold State.blockIn
  split
  · exact only_ite (only_refl _ s) (only_step (updTx_only _ _ _) (postMore_only s _ _ _ _ _))
  · exact only_refl _ s

/-! ### MeasureOps.lean -/

theorem switches_only (s : State) : s.onlyChanges [.cells] s.switches := mapCells_only s _
theorem openAll_only (s : State) : s.onlyChanges [.cells] s.openAll := mapCells_only s _

theorem writeSnapshot_only (s : State) : s.onlyChanges [.kept, .sweep] s.writeSnapshot := fun p hp => by
  cases p <;> first | rfl | exact absurd (by decide) hp

theorem abandonStep_only (s : State) : s.onlyChanges [.diag, .cells] s.abandonStep :=
  only_ite (only_refl _ s) (only_step (switches_only _) (only_one (only_diag s _)))

theorem sendBytesTo_only (s : State) (d c t : Nat) (bs : List Byte) : s.onlyChanges [.ports] (s.sendBytesTo d c t bs) :=
  only_foldl fun s _ => sendTo_only s _

theorem sendBytes_only (s : State) (c t : Nat) (bs : List Byte) : s.onlyChanges [.ports] (s.sendBytes c t bs) :=
  sendBytesTo_only s 0 c t bs

theorem deliverBlock_only (s : State) (bs : List Byte) : s.onlyChanges [.survey, .host, .ports, .tree] (s.deliverBlock bs) := by
  unfold State.deliverBlock
  dsimp only
  split
  · exact only_ite (only_one (only_survey s _))
      (only_step (sendBytes_only _ _ _ _) (only_step (only_tree _ _) (only_one (only_survey s _))))
  · exact only_ite (only_step (blockIn_only _ _ _ _ _) (only_one (only_survey s _)))
      (only_step (sendBytes_only _ _ _ _) (only_one (only_survey s _)))

theorem noteExcite_only (s : State) : s.onlyChanges [.survey] s.noteExcite := only_ite (only_refl _ s) (only_survey s _)

theorem closeBlock_only (s : State) (o : Nat) (d : Bool) : s.onlyChanges [.survey, .host, .ports, .tree] (s.closeBlock o d) :=
  only_ite (only_ite (only_step (deliverBlock_only _ _) (only_one (only_survey s _))) (only_one (only_survey s _)))
    (only_one (only_survey s _))

theorem endSurvey_only (s : State) (o : Nat) (d : Bool) (fn : FnState) :
    s.onlyChanges [.survey, .kept, .bal, .host, .ports, .tree, .cells] (s.endSurvey o d fn) := by
  unfold State.endSurvey
  dsimp only
  have h (x : SurveySt) (y : RetainedSt) :
      s.onlyChanges [.survey, .kept, .bal, .host, .ports, .tree, .cells] { s with survey := x, kept := y } := fun p hp => by
    cases p <;> first | rfl | exact absurd (by decide) hp
  exact only_step (switches_only _) (only_step (closeBlock_only _ _ _) (only_step (only_bal _ _)
    (only_step (noteExcite_only _) (h _ _))))

theorem abortSurvey_only (s : State) (d : Bool) :
    s.onlyChanges [.survey, .kept, .bal, .host, .ports, .tree, .cells] (s.abortSurvey d) := by
  unfold State.abortSurvey
  dsimp only
  exact only_ite (only_refl _ s) (only_ite (only_ite (only_refl _ s) (only_step (switches_only _) (only_one (only_survey s _))))
    (endSurvey_only s _ _ _))

theorem resumeBal_only (s : State) : s.onlyChanges [.bal] s.resumeBal := only_bal s _

theorem abortBalance_only (s : State) : s.onlyChanges [.bal, .cells] s.abortBalance :=
  only_ite (only_refl _ s) (only_step (switches_only _) (only_one (only_bal s _)))

theorem schedule_only (s : State) : s.onlyChanges [.sweep] s.schedule := by
  unfold State.schedule
  dsimp only
  exact only_ite (only_refl _ s) (only_step (only_sweep _ _) (only_foldl fun a i => only_sweep a _))

theorem keepAps_only (s : State) (k : List Aperture) : s.onlyChanges [.sweep] (s.keepAps k) := only_sweep s _

theorem stopSweep_only (s : State) : s.onlyChanges [.sweep, .kept, .cells] s.stopSweep := by
  unfold State.stopSweep
  refine only_ite (only_refl _ s) ?_
  extract_lets s1 keep s2 x s3 y s4
  have h2 : s.onlyChanges [.sweep, .kept, .cells] s2 := only_step (keepAps_only _ _) (only_one (schedule_only s))
  have h3 : s.onlyChanges [.sweep, .kept, .cells] s3 := only_step (only_sweep s2 _) h2
  have h4 : s.onlyChanges [.sweep, .kept, .cells] s4 := only_step (only_sweep s3 _) h3
  exact only_step (switches_only _) (only_ite (only_step (writeSnapshot_only _) h4) h4)

theorem discardExposure_only (s : State) : s.onlyChanges [.expo] s.discardExposure := only_expo s _

/-! ### SafetyOps.lean -/

theorem updOut_only (s : State) (x : Nat) (f : OutputSt → OutputSt) : s.onlyChanges [.safety] (s.updOut x f) :=
  only_ite (only_safety s _) (only_safety s _)
theorem updInp_only (s : State) (x : Nat) (f : InputSt → InputSt) : s.onlyChanges [.safety] (s.updInp x f) :=
  only_ite (only_safety s _) (only_safety s _)
theorem parishAdd_only (s : State) (e : ParishEntry) (t : Option Nat) : s.onlyChanges [.safety] (s.parishAdd e t) := only_safety s _
theorem parish_only (s : State) (a b c d e f g : Nat) (t : Option Nat) : s.onlyChanges [.safety] (s.parish a b c d e f g t) :=
  only_safety s _
theorem arm_only (s : State) (x : Nat) : s.onlyChanges [.safety] (s.arm x) := updOut_only s _ _

theorem tripNow_only (s : State) (a b c d : Nat) : s.onlyChanges [.safety, .flash] (s.tripNow a b c d) :=
  only_step (ledger_only _ _ _ _) (only_one (updOut_only s _ _))

theorem trip_only (s : State) (a b c d : Nat) : s.onlyChanges [.safety, .flash] (s.trip a b c d) :=
  only_ite (tripNow_only s _ _ _ _) (only_refl _ s)

theorem tripAll_only (s : State) (x c : Nat) : s.onlyChanges [.safety, .flash] (s.tripAll x c) :=
  only_ite (tripNow_only s _ _ _ _) (only_one (updOut_only s _ _))

theorem tripSafe_only (s : State) : s.onlyChanges [.safety, .flash] s.tripSafe :=
  only_step (tripAll_only _ _ _) (tripAll_only s _ _)

theorem outputsOff_only (s : State) : s.onlyChanges [.safety] s.outputsOff :=
  only_step (updOut_only _ _ _) (updOut_only s _ _)

theorem dropSession_only (s : State) : s.onlyChanges [.safety] s.dropSession := by
  unfold State.dropSession
  split
  · exact only_refl _ s
  · exact only_step (only_safety _ _) (parishAdd_only s _ _)

/-! ### GleanOps.lean -/

theorem updGleaner_only (s : State) (g : Nat) (f : GleanerSt → GleanerSt) : s.onlyChanges [.glean] (s.updGleaner g f) := only_glean s _
theorem updHarvest_only (s : State) (t : Nat) (f : Harvest → Harvest) : s.onlyChanges [.glean] (s.updHarvest t f) := only_glean s _
theorem addWait_only (s : State) (w : JobWait) : s.onlyChanges [.glean] (s.addWait w) := only_glean s _
theorem sortWait_only (s : State) : s.onlyChanges [.glean] s.sortWait := only_glean s _
theorem tookAdm_only (s : State) : s.onlyChanges [.glean] s.tookAdm := only_glean s _

theorem placeOn_only {s t : State} {w : JobWait} {n a : Nat} (h : s.placeOn w n a = some t) : s.onlyChanges [.glean] t := by
  unfold State.placeOn at h
  split at h
  · split at h
    · cases h; exact updGleaner_only s _ _
    · cases h
  · cases h

theorem payCredits_only (s : State) (o : Option (Nat × Nat × Nat × Nat)) : s.onlyChanges [.ports] (s.payCredits o) := by
  unfold State.payCredits
  split
  · exact only_ite (only_refl _ s) (updPort_only s _ _)
  · exact only_refl _ s

theorem startStep_only (s : State) (tag : Nat) : s.onlyChanges [.glean] (s.startStep tag) := by
  unfold State.startStep
  split
  · exact only_refl _ s
  · split
    · refine only_ite (only_refl _ s) ?_
      dsimp only
      split
      · rename_i h
        exact only_step (placeOn_only h) (tookAdm_only s)
      · exact only_step (sortWait_only _) (only_step (addWait_only _ _) (tookAdm_only s))
    · exact only_refl _ s

theorem place_only {s t : State} {w : JobWait} (h : s.place w = some t) : s.onlyChanges [.glean] t := by
  unfold State.place at h
  split at h
  · exact placeOn_only h
  · split at h
    · cases h
    · split at h
      · cases h
        exact only_step (startStep_only _ _) (only_step (updHarvest_only _ _ _) (tookAdm_only s))
      · obtain ⟨u, hu, rfl⟩ := Option.map_eq_some_iff.mp h
        exact only_step (tookAdm_only _) (placeOn_only hu)

/-- The admission queue touches jobs, and the credits that their frames owe. -/
theorem admitAll_only (s : State) : s.onlyChanges [.ports, .glean] s.admitAll := by
  unfold State.admitAll
  dsimp only
  refine only_ite (only_refl _ s) ?_
  refine only_trans (only_step (sortWait_only _) (only_trans (only_one (only_glean s _)) (only_foldl fun s w => ?_)))
    (only_foldl fun s o => only_one (payCredits_only s _))
  split
  · rename_i h
    exact only_one (place_only h)
  · exact only_one (addWait_only s _)

theorem raiseJob_only (s : State) (k : JobKind) (a b : Nat) (o : Option (Nat × Nat × Nat × Nat)) :
    s.onlyChanges [.ports, .glean] (s.raiseJob k a b o) := only_step (admitAll_only _) (only_one (addWait_only s _))

/-! ### HarvestOps.lean -/

theorem raiseForward_only (s : State) (t d : Nat) (c : Carried) : s.onlyChanges [.ports, .glean] (s.raiseForward t d c) :=
  only_step (raiseJob_only _ _ _ _ _) (only_one (only_glean s _))

theorem sendResult_only (s : State) (d t : Nat) (bs : List Byte) : s.onlyChanges [.ports, .glean] (s.sendResult d t bs) :=
  only_ite (only_foldl fun s _ => only_one (sendTo_only s _)) (raiseForward_only s _ _ _)

theorem sendUp_only (s : State) (t d : Nat) (r : Req) (p e : Nat) (c : Contribution) (b : Bool) :
    s.onlyChanges [.ports, .glean] (s.sendUp t d r p e c b) := by
  unfold State.sendUp
  dsimp only
  refine only_ite (sendResult_only s _ _ _) ?_
  have h (x : GleanSt) (bs : List Byte) : s.onlyChanges [.ports, .glean] ({ s with glean := x }.sendBytes 2 t bs) :=
    only_step (sendBytes_only _ _ _ _) (only_one (only_glean s _))
  exact only_trans (h _ _) (only_foldl fun s _ => only_one (sendTo_only s _))

/-- What an answer of the device itself touches. -/
theorem respond_none (s : State) (st v : Nat) : s.respond none st v = s.answer st v := rfl

/-! ### ModeOps.lean -/

theorem safeEffects_only (s : State) :
    s.onlyChanges [.diag, .cells, .survey, .kept, .bal, .host, .ports, .tree, .safety, .flash, .sweep] s.safeEffects :=
  only_step (only_safety _ _) (only_step (writeSnapshot_only _) (only_step (tripSafe_only _) (only_step (abortBalance_only _)
    (only_step (abortSurvey_only _ _) (only_one (abandonStep_only s))))))

theorem toSafe_only (s : State) : s.onlyChanges
    [.diag, .cells, .survey, .kept, .bal, .host, .ports, .tree, .safety, .flash, .sweep, .mode, .out] s.toSafe := by
  unfold State.toSafe
  dsimp only
  refine only_ite (only_ite (only_refl _ s) ?_) (only_ite ?_ (only_refl _ s))
  · exact only_step (only_mode _ _) (only_one (safeEffects_only s))
  · exact only_step (switches_only _) (only_step (setMode_only _ _) (only_one (safeEffects_only s)))

theorem regAny_only {f : State → Nat × State} {s : State} {ps : List Part} (h : s.onlyChanges ps (f s).2)
    (hr : Part.reply ∈ ps := by decide) : s.onlyChanges ps (regAny f s) := by
  unfold regAny
  refine only_ite (only_step (answer_only _ _ _ _ _) h (by simpa using hr)) (only_one (answer_only s _ _ _ _) (by simpa using hr))

/-! ### A meaning as an equation -/

theorem run_eq {f : State → State} {s u : State} (h : f s.begin = u) (hp : u.pending = s.pending := by rfl) :
    run f s = .next u := by
  unfold run
  rw [h, ← hp]

theorem run_when {f : State → State} {s u : State} {c : Bool} (hc : c = true) (h : f s.begin = u)
    (hp : u.pending = s.pending := by rfl) : run (when_ c f) s = .next u :=
  run_eq (by simp [when_, hc, h]) hp

theorem run_unless {f : State → State} {s : State} {c : Bool} (hc : c = false) : run (when_ c f) s = .next s.begin :=
  run_eq (by simp [when_, hc])

theorem runReg_eq {f : State → Nat × State} {s u : State} {st : Nat} (hr : s.reachable = true)
    (hm : s.mode.mode ≠ .lockout) (h : f s.begin = (st, u)) (hp : u.pending = s.pending := by rfl) :
    runReg f s = .next (u.answer st) := by
  refine run_eq ?_ hp
  have e : s.begin.reachable = true := hr
  have e2 : s.begin.mode.mode ≠ .lockout := hm
  simp only [regOp, regAny, e, if_true, if_neg e2, h]

end Sys2Proof.Machine
end

