-- ==== Sys2Proof/Laws/Memory.lean ====
section
/-! SUPPORT. The sparse memories: a read after a write, and that every memory operation keeps the canonical form. -/

namespace Sys2Proof.Machine

-- one lemma at a time, which bounds the memory that the check needs
set_option Elab.async false

/-! ### One key -/

section Keys
variable {β : Type} [DecidableEq β] (d : β)

theorem mwfFrom_weaken {lo lo' : Nat} (h : lo' ≤ lo) : ∀ {m : List (Nat × β)}, mwfFrom d lo m = true → mwfFrom d lo' m = true
  | [], _ => rfl
  | (k, v) :: r, hm => by
    simp only [mwfFrom, Bool.and_eq_true, decide_eq_true_eq] at hm ⊢
    exact ⟨⟨le_trans h hm.1.1, hm.1.2⟩, hm.2⟩

theorem mins_wf {a : Nat} {x : β} (hx : x ≠ d) : ∀ {lo : Nat} {m : List (Nat × β)}, lo ≤ a → mwfFrom d lo m = true →
    mwfFrom d lo (mins a x m) = true
  | lo, [], h, _ => by simp [mins, mwfFrom, h, hx]
  | lo, (k, v) :: r, h, hm => by
    simp only [mwfFrom, Bool.and_eq_true, decide_eq_true_eq] at hm
    unfold mins
    split
    · rename_i hlt
      simp only [mwfFrom, Bool.and_eq_true, decide_eq_true_eq]
      exact ⟨⟨h, by simp [hx]⟩, ⟨hlt, hm.1.2⟩, hm.2⟩
    · split
      · rename_i heq
        subst heq
        simp only [mwfFrom, Bool.and_eq_true, decide_eq_true_eq]
        exact ⟨⟨h, by simp [hx]⟩, hm.2⟩
      · simp only [mwfFrom, Bool.and_eq_true, decide_eq_true_eq]
        exact ⟨hm.1, mins_wf hx (by omega) hm.2⟩

theorem mdel_wf {a : Nat} : ∀ {lo : Nat} {m : List (Nat × β)}, mwfFrom d lo m = true → mwfFrom d lo (mdel a m) = true
  | _, [], h => h
  | lo, (k, v) :: r, hm => by
    have hm' := hm
    simp only [mwfFrom, Bool.and_eq_true, decide_eq_true_eq] at hm'
    unfold mdel
    split
    · exact hm
    · split
      · exact mwfFrom_weaken d (by omega) hm'.2
      · simp only [mwfFrom, Bool.and_eq_true, decide_eq_true_eq]
        exact ⟨hm'.1, mdel_wf hm'.2⟩

theorem mset_wf {a : Nat} {x : β} {m : List (Nat × β)} (h : mwfFrom d 0 m = true) : mwfFrom d 0 (mset d m a x) = true := by
  unfold mset
  split
  · exact mdel_wf d h
  · rename_i hx
    exact mins_wf d hx (Nat.zero_le a) h

/-- A filter keeps the form. -/
theorem filter_wf (p : Nat × β → Bool) : ∀ {lo : Nat} {m : List (Nat × β)}, mwfFrom d lo m = true →
    mwfFrom d lo (m.filter p) = true
  | _, [], h => h
  | lo, (k, v) :: r, hm => by
    simp only [mwfFrom, Bool.and_eq_true, decide_eq_true_eq] at hm
    rw [List.filter_cons]
    split
    · simp only [mwfFrom, Bool.and_eq_true, decide_eq_true_eq]
      exact ⟨hm.1, filter_wf p hm.2⟩
    · exact mwfFrom_weaken d (by omega) (filter_wf p hm.2)

/-- Below the lowest key every address reads the default. -/
theorem mget_below {a : Nat} : ∀ {lo : Nat} {m : List (Nat × β)}, mwfFrom d lo m = true → a < lo → mget d m a = d
  | _, [], _, _ => rfl
  | lo, (k, v) :: r, hm, h => by
    simp only [mwfFrom, Bool.and_eq_true, decide_eq_true_eq] at hm
    have hk := hm.1.1
    unfold mget
    rw [if_neg (by omega), if_pos (by omega)]

omit [DecidableEq β] in
theorem mget_mins (a b : Nat) (x : β) : ∀ m : List (Nat × β), mget d (mins a x m) b = if b = a then x else mget d m b
  | [] => by
    simp only [mins, mget]
    split <;> simp
  | (k, v) :: r => by
    unfold mins
    split
    · simp only [mget]
      split
      · rfl
      · split
        · rw [if_neg (by omega), if_pos (by omega)]
        · rfl
    · split
      · rename_i h
        subst h
        simp only [mget]
        split <;> rfl
      · simp only [mget, mget_mins a b x r]
        split
        · rw [if_neg (by omega)]
        · split
          · rw [if_neg (by omega)]
          · rfl

theorem mget_mdel (a b : Nat) : ∀ {lo : Nat} {m : List (Nat × β)}, mwfFrom d lo m = true →
    mget d (mdel a m) b = if b = a then d else mget d m b
  | _, [], _ => by simp [mdel, mget]
  | lo, (k, v) :: r, hm => by
    simp only [mwfFrom, Bool.and_eq_true, decide_eq_true_eq] at hm
    have tail : ∀ c, c < k + 1 → mget d r c = d := fun c hc => mget_below d hm.2 hc
    unfold mdel
    split
    · simp only [mget]
      by_cases hb : b = a
      · rw [if_pos hb, if_neg (by omega), if_pos (by omega)]
      · rw [if_neg hb]
    · split
      · rename_i h
        subst h
        simp only [mget]
        split
        · rename_i hb
          rw [hb]
          exact tail a (by omega)
        · split
          · exact tail b (by omega)
          · rfl
      · simp only [mget, mget_mdel a b hm.2]
        split
        · rw [if_neg (by omega)]
        · split
          · rw [if_neg (by omega)]
          · rfl

/-- A read after a write: the value written at that key, what stood there at any other. -/
theorem mget_mset (a b : Nat) (x : β) {m : List (Nat × β)} (h : mwfFrom d 0 m = true) :
    mget d (mset d m a x) b = if b = a then x else mget d m b := by
  unfold mset
  split
  · rename_i hx
    rw [mget_mdel d a b h, hx]
  · exact mget_mins d a b x m

end Keys

/-! ### Bytes of the flash -/

theorem mwrite_wf (d : Byte) : ∀ (bs : List Byte) (m : Mem) (a : Nat), Memory.wf d m = true → Memory.wf d (mwrite d m a bs) = true
  | [], _, _, h => h
  | b :: bs, m, a, h => mwrite_wf d bs (mset d m a b) (a + 1) (mset_wf d h)

/-- A byte below the run that is written keeps its value. -/
theorem mget_mwrite_below (d : Byte) : ∀ (bs : List Byte) (m : Mem) (a b : Nat), Memory.wf d m = true → b < a →
    mget d (mwrite d m a bs) b = mget d m b
  | [], _, _, _, _, _ => rfl
  | x :: bs, m, a, b, h, hb => by
    have := mget_mwrite_below d bs (mset d m a x) (a + 1) b (mset_wf d h) (by omega)
    rw [mwrite, this, mget_mset d a b x h, if_neg (by omega)]

/-- A read after a write of a run of bytes. -/
theorem mget_mwrite (d : Byte) : ∀ (bs : List Byte) (m : Mem) (a b : Nat), Memory.wf d m = true →
    mget d (mwrite d m a bs) b = if a ≤ b ∧ b < a + bs.length then bs.getD (b - a) d else mget d m b
  | [], _, _, _, _ => by simp [mwrite]
  | x :: bs, m, a, b, h => by
    rw [mwrite, mget_mwrite d bs _ (a + 1) b (mset_wf d h), mget_mset d a b x h]
    by_cases hb : b = a
    · subst hb
      rw [if_neg (by omega), if_pos rfl, if_pos (by simp)]
      simp
    · rw [if_neg hb]
      by_cases hr : a + 1 ≤ b ∧ b < a + 1 + bs.length
      · rw [if_pos hr, if_pos ⟨by omega, by simp only [List.length_cons]; omega⟩]
        obtain ⟨k, rfl⟩ : ∃ k, b = a + 1 + k := ⟨b - (a + 1), by omega⟩
        have h1 : a + 1 + k - (a + 1) = k := by omega
        have h2 : a + 1 + k - a = k + 1 := by omega
        rw [h1, h2, List.getD_cons_succ]
      · rw [if_neg hr, if_neg (by simp only [List.length_cons]; omega)]

theorem eraseRange_wf (m : Mem) (a n : Nat) (h : Memory.wf flashByte m = true) : Memory.wf flashByte (eraseRange m a n) = true :=
  filter_wf flashByte _ h

/-! ### The granary -/

theorem risingFrom_weaken {β : Type} {lo lo' : Nat} (h : lo' ≤ lo) : ∀ {m : List (Nat × β)}, risingFrom lo m = true → risingFrom lo' m = true
  | [], _ => rfl
  | (k, v) :: r, hm => by
    simp only [risingFrom, Bool.and_eq_true, decide_eq_true_eq] at hm ⊢
    exact ⟨le_trans h hm.1, hm.2⟩

theorem mins_rising {β : Type} {a : Nat} {x : β} : ∀ {lo : Nat} {m : List (Nat × β)}, lo ≤ a → risingFrom lo m = true →
    risingFrom lo (mins a x m) = true
  | lo, [], h, _ => by simp [mins, risingFrom, h]
  | lo, (k, v) :: r, h, hm => by
    simp only [risingFrom, Bool.and_eq_true, decide_eq_true_eq] at hm
    unfold mins
    split
    · rename_i hlt
      simp only [risingFrom, Bool.and_eq_true, decide_eq_true_eq]
      exact ⟨h, hlt, hm.2⟩
    · split
      · rename_i heq
        subst heq
        simp only [risingFrom, Bool.and_eq_true, decide_eq_true_eq]
        exact ⟨h, hm.2⟩
      · simp only [risingFrom, Bool.and_eq_true, decide_eq_true_eq]
        exact ⟨hm.1, mins_rising (by omega) hm.2⟩

theorem gwrite_rising : ∀ (bs : List Byte) (m : Mem) (a : Nat), Memory.rising m = true → Memory.rising (gwrite m a bs) = true
  | [], _, _, h => h
  | b :: bs, m, a, h => gwrite_rising bs (mins a b m) (a + 1) (mins_rising (Nat.zero_le a) h)

theorem filter_rising {β : Type} (p : Nat × β → Bool) : ∀ {lo : Nat} {m : List (Nat × β)}, risingFrom lo m = true →
    risingFrom lo (m.filter p) = true
  | _, [], h => h
  | lo, (k, v) :: r, hm => by
    simp only [risingFrom, Bool.and_eq_true, decide_eq_true_eq] at hm
    rw [List.filter_cons]
    split
    · simp only [risingFrom, Bool.and_eq_true, decide_eq_true_eq]
      exact ⟨hm.1, filter_rising p hm.2⟩
    · exact risingFrom_weaken (by omega) (filter_rising p hm.2)

theorem gget_mins (a b : Nat) (x : Byte) : ∀ m : Mem, gget (mins a x m) b = if b = a then some x else gget m b
  | [] => by
    simp only [mins, gget]
    split <;> simp
  | (k, v) :: r => by
    unfold mins
    split
    · simp only [gget]
      split
      · rfl
      · split
        · rw [if_neg (by omega), if_pos (by omega)]
        · rfl
    · split
      · rename_i h
        subst h
        simp only [gget]
        split <;> rfl
      · simp only [gget, gget_mins a b x r]
        split
        · rw [if_neg (by omega)]
        · split
          · rw [if_neg (by omega)]
          · rfl

end Sys2Proof.Machine
end

