-- ==== Sys2Proof/Laws/State.lean ====
section
/-! SUPPORT. What each plain update of the state leaves in each field, one lemma for each field, so that no proof unfolds a record
update; and the readings of one port, ring, pool or unit after an update of it. -/

namespace Sys2Proof.Machine

-- one lemma at a time, which bounds the memory that the check needs
set_option Elab.async false

@[simp] theorem begin_pending (s : State) : (s.begin).pending = s.pending := rfl
@[simp] theorem begin_free (s : State) : (s.begin).free = s.free := rfl
@[simp] theorem begin_reply (s : State) : (s.begin).reply = none := rfl
@[simp] theorem begin_out (s : State) : (s.begin).out = [] := rfl
@[simp] theorem begin_clk (s : State) : (s.begin).clk = s.clk := rfl
@[simp] theorem begin_ident (s : State) : (s.begin).ident = s.ident := rfl
@[simp] theorem begin_mode (s : State) : (s.begin).mode = s.mode := rfl
@[simp] theorem begin_fault (s : State) : (s.begin).fault = s.fault := rfl
@[simp] theorem begin_wdog (s : State) : (s.begin).wdog = s.wdog := rfl
@[simp] theorem begin_clocks (s : State) : (s.begin).clocks = s.clocks := rfl
@[simp] theorem begin_hostWd (s : State) : (s.begin).hostWd = s.hostWd := rfl
@[simp] theorem begin_checks (s : State) : (s.begin).checks = s.checks := rfl
@[simp] theorem begin_flash (s : State) : (s.begin).flash = s.flash := rfl
@[simp] theorem begin_dbg (s : State) : (s.begin).dbg = s.dbg := rfl
@[simp] theorem begin_ports (s : State) : (s.begin).ports = s.ports := rfl
@[simp] theorem begin_legacy (s : State) : (s.begin).legacy = s.legacy := rfl
@[simp] theorem begin_cmdRefs (s : State) : (s.begin).cmdRefs = s.cmdRefs := rfl
@[simp] theorem begin_tree (s : State) : (s.begin).tree = s.tree := rfl
@[simp] theorem begin_host (s : State) : (s.begin).host = s.host := rfl
@[simp] theorem begin_safety (s : State) : (s.begin).safety = s.safety := rfl
@[simp] theorem begin_sweep (s : State) : (s.begin).sweep = s.sweep := rfl
@[simp] theorem begin_cells (s : State) : (s.begin).cells = s.cells := rfl
@[simp] theorem begin_survey (s : State) : (s.begin).survey = s.survey := rfl
@[simp] theorem begin_bal (s : State) : (s.begin).bal = s.bal := rfl
@[simp] theorem begin_diag (s : State) : (s.begin).diag = s.diag := rfl
@[simp] theorem begin_glean (s : State) : (s.begin).glean = s.glean := rfl
@[simp] theorem begin_expo (s : State) : (s.begin).expo = s.expo := rfl
@[simp] theorem begin_power (s : State) : (s.begin).power = s.power := rfl
@[simp] theorem begin_wire (s : State) : (s.begin).wire = s.wire := rfl
@[simp] theorem begin_bist (s : State) : (s.begin).bist = s.bist := rfl
@[simp] theorem begin_kept (s : State) : (s.begin).kept = s.kept := rfl
@[simp] theorem begin_granary (s : State) : (s.begin).granary = s.granary := rfl

@[simp] theorem answer_pending (s : State) (st v : Nat) (ws : List Nat) (bs : List Byte) : (s.answer st v ws bs).pending = s.pending := rfl
@[simp] theorem answer_free (s : State) (st v : Nat) (ws : List Nat) (bs : List Byte) : (s.answer st v ws bs).free = s.free := rfl
@[simp] theorem answer_reply (s : State) (st v : Nat) (ws : List Nat) (bs : List Byte) : (s.answer st v ws bs).reply = some { status := st, value := v, words := ws, bytes := bs } := rfl
@[simp] theorem answer_out (s : State) (st v : Nat) (ws : List Nat) (bs : List Byte) : (s.answer st v ws bs).out = s.out := rfl
@[simp] theorem answer_clk (s : State) (st v : Nat) (ws : List Nat) (bs : List Byte) : (s.answer st v ws bs).clk = s.clk := rfl
@[simp] theorem answer_ident (s : State) (st v : Nat) (ws : List Nat) (bs : List Byte) : (s.answer st v ws bs).ident = s.ident := rfl
@[simp] theorem answer_mode (s : State) (st v : Nat) (ws : List Nat) (bs : List Byte) : (s.answer st v ws bs).mode = s.mode := rfl
@[simp] theorem answer_fault (s : State) (st v : Nat) (ws : List Nat) (bs : List Byte) : (s.answer st v ws bs).fault = s.fault := rfl
@[simp] theorem answer_wdog (s : State) (st v : Nat) (ws : List Nat) (bs : List Byte) : (s.answer st v ws bs).wdog = s.wdog := rfl
@[simp] theorem answer_clocks (s : State) (st v : Nat) (ws : List Nat) (bs : List Byte) : (s.answer st v ws bs).clocks = s.clocks := rfl
@[simp] theorem answer_hostWd (s : State) (st v : Nat) (ws : List Nat) (bs : List Byte) : (s.answer st v ws bs).hostWd = s.hostWd := rfl
@[simp] theorem answer_checks (s : State) (st v : Nat) (ws : List Nat) (bs : List Byte) : (s.answer st v ws bs).checks = s.checks := rfl
@[simp] theorem answer_flash (s : State) (st v : Nat) (ws : List Nat) (bs : List Byte) : (s.answer st v ws bs).flash = s.flash := rfl
@[simp] theorem answer_dbg (s : State) (st v : Nat) (ws : List Nat) (bs : List Byte) : (s.answer st v ws bs).dbg = s.dbg := rfl
@[simp] theorem answer_ports (s : State) (st v : Nat) (ws : List Nat) (bs : List Byte) : (s.answer st v ws bs).ports = s.ports := rfl
@[simp] theorem answer_legacy (s : State) (st v : Nat) (ws : List Nat) (bs : List Byte) : (s.answer st v ws bs).legacy = s.legacy := rfl
@[simp] theorem answer_cmdRefs (s : State) (st v : Nat) (ws : List Nat) (bs : List Byte) : (s.answer st v ws bs).cmdRefs = s.cmdRefs := rfl
@[simp] theorem answer_tree (s : State) (st v : Nat) (ws : List Nat) (bs : List Byte) : (s.answer st v ws bs).tree = s.tree := rfl
@[simp] theorem answer_host (s : State) (st v : Nat) (ws : List Nat) (bs : List Byte) : (s.answer st v ws bs).host = s.host := rfl
@[simp] theorem answer_safety (s : State) (st v : Nat) (ws : List Nat) (bs : List Byte) : (s.answer st v ws bs).safety = s.safety := rfl
@[simp] theorem answer_sweep (s : State) (st v : Nat) (ws : List Nat) (bs : List Byte) : (s.answer st v ws bs).sweep = s.sweep := rfl
@[simp] theorem answer_cells (s : State) (st v : Nat) (ws : List Nat) (bs : List Byte) : (s.answer st v ws bs).cells = s.cells := rfl
@[simp] theorem answer_survey (s : State) (st v : Nat) (ws : List Nat) (bs : List Byte) : (s.answer st v ws bs).survey = s.survey := rfl
@[simp] theorem answer_bal (s : State) (st v : Nat) (ws : List Nat) (bs : List Byte) : (s.answer st v ws bs).bal = s.bal := rfl
@[simp] theorem answer_diag (s : State) (st v : Nat) (ws : List Nat) (bs : List Byte) : (s.answer st v ws bs).diag = s.diag := rfl
@[simp] theorem answer_glean (s : State) (st v : Nat) (ws : List Nat) (bs : List Byte) : (s.answer st v ws bs).glean = s.glean := rfl
@[simp] theorem answer_expo (s : State) (st v : Nat) (ws : List Nat) (bs : List Byte) : (s.answer st v ws bs).expo = s.expo := rfl
@[simp] theorem answer_power (s : State) (st v : Nat) (ws : List Nat) (bs : List Byte) : (s.answer st v ws bs).power = s.power := rfl
@[simp] theorem answer_wire (s : State) (st v : Nat) (ws : List Nat) (bs : List Byte) : (s.answer st v ws bs).wire = s.wire := rfl
@[simp] theorem answer_bist (s : State) (st v : Nat) (ws : List Nat) (bs : List Byte) : (s.answer st v ws bs).bist = s.bist := rfl
@[simp] theorem answer_kept (s : State) (st v : Nat) (ws : List Nat) (bs : List Byte) : (s.answer st v ws bs).kept = s.kept := rfl
@[simp] theorem answer_granary (s : State) (st v : Nat) (ws : List Nat) (bs : List Byte) : (s.answer st v ws bs).granary = s.granary := rfl

@[simp] theorem emit_pending (s : State) (e : OutEvt) : (s.emit e).pending = s.pending := rfl
@[simp] theorem emit_free (s : State) (e : OutEvt) : (s.emit e).free = s.free := rfl
@[simp] theorem emit_reply (s : State) (e : OutEvt) : (s.emit e).reply = s.reply := rfl
@[simp] theorem emit_out (s : State) (e : OutEvt) : (s.emit e).out = s.out ++ [e] := rfl
@[simp] theorem emit_clk (s : State) (e : OutEvt) : (s.emit e).clk = s.clk := rfl
@[simp] theorem emit_ident (s : State) (e : OutEvt) : (s.emit e).ident = s.ident := rfl
@[simp] theorem emit_mode (s : State) (e : OutEvt) : (s.emit e).mode = s.mode := rfl
@[simp] theorem emit_fault (s : State) (e : OutEvt) : (s.emit e).fault = s.fault := rfl
@[simp] theorem emit_wdog (s : State) (e : OutEvt) : (s.emit e).wdog = s.wdog := rfl
@[simp] theorem emit_clocks (s : State) (e : OutEvt) : (s.emit e).clocks = s.clocks := rfl
@[simp] theorem emit_hostWd (s : State) (e : OutEvt) : (s.emit e).hostWd = s.hostWd := rfl
@[simp] theorem emit_checks (s : State) (e : OutEvt) : (s.emit e).checks = s.checks := rfl
@[simp] theorem emit_flash (s : State) (e : OutEvt) : (s.emit e).flash = s.flash := rfl
@[simp] theorem emit_dbg (s : State) (e : OutEvt) : (s.emit e).dbg = s.dbg := rfl
@[simp] theorem emit_ports (s : State) (e : OutEvt) : (s.emit e).ports = s.ports := rfl
@[simp] theorem emit_legacy (s : State) (e : OutEvt) : (s.emit e).legacy = s.legacy := rfl
@[simp] theorem emit_cmdRefs (s : State) (e : OutEvt) : (s.emit e).cmdRefs = s.cmdRefs := rfl
@[simp] theorem emit_tree (s : State) (e : OutEvt) : (s.emit e).tree = s.tree := rfl
@[simp] theorem emit_host (s : State) (e : OutEvt) : (s.emit e).host = s.host := rfl
@[simp] theorem emit_safety (s : State) (e : OutEvt) : (s.emit e).safety = s.safety := rfl
@[simp] theorem emit_sweep (s : State) (e : OutEvt) : (s.emit e).sweep = s.sweep := rfl
@[simp] theorem emit_cells (s : State) (e : OutEvt) : (s.emit e).cells = s.cells := rfl
@[simp] theorem emit_survey (s : State) (e : OutEvt) : (s.emit e).survey = s.survey := rfl
@[simp] theorem emit_bal (s : State) (e : OutEvt) : (s.emit e).bal = s.bal := rfl
@[simp] theorem emit_diag (s : State) (e : OutEvt) : (s.emit e).diag = s.diag := rfl
@[simp] theorem emit_glean (s : State) (e : OutEvt) : (s.emit e).glean = s.glean := rfl
@[simp] theorem emit_expo (s : State) (e : OutEvt) : (s.emit e).expo = s.expo := rfl
@[simp] theorem emit_power (s : State) (e : OutEvt) : (s.emit e).power = s.power := rfl
@[simp] theorem emit_wire (s : State) (e : OutEvt) : (s.emit e).wire = s.wire := rfl
@[simp] theorem emit_bist (s : State) (e : OutEvt) : (s.emit e).bist = s.bist := rfl
@[simp] theorem emit_kept (s : State) (e : OutEvt) : (s.emit e).kept = s.kept := rfl
@[simp] theorem emit_granary (s : State) (e : OutEvt) : (s.emit e).granary = s.granary := rfl

@[simp] theorem took_pending (s : State) : (s.took).pending = s.pending := rfl
@[simp] theorem took_free (s : State) : (s.took).free = s.free + 1 := rfl
@[simp] theorem took_reply (s : State) : (s.took).reply = s.reply := rfl
@[simp] theorem took_out (s : State) : (s.took).out = s.out := rfl
@[simp] theorem took_clk (s : State) : (s.took).clk = s.clk := rfl
@[simp] theorem took_ident (s : State) : (s.took).ident = s.ident := rfl
@[simp] theorem took_mode (s : State) : (s.took).mode = s.mode := rfl
@[simp] theorem took_fault (s : State) : (s.took).fault = s.fault := rfl
@[simp] theorem took_wdog (s : State) : (s.took).wdog = s.wdog := rfl
@[simp] theorem took_clocks (s : State) : (s.took).clocks = s.clocks := rfl
@[simp] theorem took_hostWd (s : State) : (s.took).hostWd = s.hostWd := rfl
@[simp] theorem took_checks (s : State) : (s.took).checks = s.checks := rfl
@[simp] theorem took_flash (s : State) : (s.took).flash = s.flash := rfl
@[simp] theorem took_dbg (s : State) : (s.took).dbg = s.dbg := rfl
@[simp] theorem took_ports (s : State) : (s.took).ports = s.ports := rfl
@[simp] theorem took_legacy (s : State) : (s.took).legacy = s.legacy := rfl
@[simp] theorem took_cmdRefs (s : State) : (s.took).cmdRefs = s.cmdRefs := rfl
@[simp] theorem took_tree (s : State) : (s.took).tree = s.tree := rfl
@[simp] theorem took_host (s : State) : (s.took).host = s.host := rfl
@[simp] theorem took_safety (s : State) : (s.took).safety = s.safety := rfl
@[simp] theorem took_sweep (s : State) : (s.took).sweep = s.sweep := rfl
@[simp] theorem took_cells (s : State) : (s.took).cells = s.cells := rfl
@[simp] theorem took_survey (s : State) : (s.took).survey = s.survey := rfl
@[simp] theorem took_bal (s : State) : (s.took).bal = s.bal := rfl
@[simp] theorem took_diag (s : State) : (s.took).diag = s.diag := rfl
@[simp] theorem took_glean (s : State) : (s.took).glean = s.glean := rfl
@[simp] theorem took_expo (s : State) : (s.took).expo = s.expo := rfl
@[simp] theorem took_power (s : State) : (s.took).power = s.power := rfl
@[simp] theorem took_wire (s : State) : (s.took).wire = s.wire := rfl
@[simp] theorem took_bist (s : State) : (s.took).bist = s.bist := rfl
@[simp] theorem took_kept (s : State) : (s.took).kept = s.kept := rfl
@[simp] theorem took_granary (s : State) : (s.took).granary = s.granary := rfl

@[simp] theorem mapCells_pending (s : State) (f : Nat → CellSt → CellSt) : (s.mapCells f).pending = s.pending := rfl
@[simp] theorem mapCells_free (s : State) (f : Nat → CellSt → CellSt) : (s.mapCells f).free = s.free := rfl
@[simp] theorem mapCells_reply (s : State) (f : Nat → CellSt → CellSt) : (s.mapCells f).reply = s.reply := rfl
@[simp] theorem mapCells_out (s : State) (f : Nat → CellSt → CellSt) : (s.mapCells f).out = s.out := rfl
@[simp] theorem mapCells_clk (s : State) (f : Nat → CellSt → CellSt) : (s.mapCells f).clk = s.clk := rfl
@[simp] theorem mapCells_ident (s : State) (f : Nat → CellSt → CellSt) : (s.mapCells f).ident = s.ident := rfl
@[simp] theorem mapCells_mode (s : State) (f : Nat → CellSt → CellSt) : (s.mapCells f).mode = s.mode := rfl
@[simp] theorem mapCells_fault (s : State) (f : Nat → CellSt → CellSt) : (s.mapCells f).fault = s.fault := rfl
@[simp] theorem mapCells_wdog (s : State) (f : Nat → CellSt → CellSt) : (s.mapCells f).wdog = s.wdog := rfl
@[simp] theorem mapCells_clocks (s : State) (f : Nat → CellSt → CellSt) : (s.mapCells f).clocks = s.clocks := rfl
@[simp] theorem mapCells_hostWd (s : State) (f : Nat → CellSt → CellSt) : (s.mapCells f).hostWd = s.hostWd := rfl
@[simp] theorem mapCells_checks (s : State) (f : Nat → CellSt → CellSt) : (s.mapCells f).checks = s.checks := rfl
@[simp] theorem mapCells_flash (s : State) (f : Nat → CellSt → CellSt) : (s.mapCells f).flash = s.flash := rfl
@[simp] theorem mapCells_dbg (s : State) (f : Nat → CellSt → CellSt) : (s.mapCells f).dbg = s.dbg := rfl
@[simp] theorem mapCells_ports (s : State) (f : Nat → CellSt → CellSt) : (s.mapCells f).ports = s.ports := rfl
@[simp] theorem mapCells_legacy (s : State) (f : Nat → CellSt → CellSt) : (s.mapCells f).legacy = s.legacy := rfl
@[simp] theorem mapCells_cmdRefs (s : State) (f : Nat → CellSt → CellSt) : (s.mapCells f).cmdRefs = s.cmdRefs := rfl
@[simp] theorem mapCells_tree (s : State) (f : Nat → CellSt → CellSt) : (s.mapCells f).tree = s.tree := rfl
@[simp] theorem mapCells_host (s : State) (f : Nat → CellSt → CellSt) : (s.mapCells f).host = s.host := rfl
@[simp] theorem mapCells_safety (s : State) (f : Nat → CellSt → CellSt) : (s.mapCells f).safety = s.safety := rfl
@[simp] theorem mapCells_sweep (s : State) (f : Nat → CellSt → CellSt) : (s.mapCells f).sweep = s.sweep := rfl
@[simp] theorem mapCells_cells (s : State) (f : Nat → CellSt → CellSt) : (s.mapCells f).cells = s.cells.mapIdx (fun i c => f (i + 1) c) := rfl
@[simp] theorem mapCells_survey (s : State) (f : Nat → CellSt → CellSt) : (s.mapCells f).survey = s.survey := rfl
@[simp] theorem mapCells_bal (s : State) (f : Nat → CellSt → CellSt) : (s.mapCells f).bal = s.bal := rfl
@[simp] theorem mapCells_diag (s : State) (f : Nat → CellSt → CellSt) : (s.mapCells f).diag = s.diag := rfl
@[simp] theorem mapCells_glean (s : State) (f : Nat → CellSt → CellSt) : (s.mapCells f).glean = s.glean := rfl
@[simp] theorem mapCells_expo (s : State) (f : Nat → CellSt → CellSt) : (s.mapCells f).expo = s.expo := rfl
@[simp] theorem mapCells_power (s : State) (f : Nat → CellSt → CellSt) : (s.mapCells f).power = s.power := rfl
@[simp] theorem mapCells_wire (s : State) (f : Nat → CellSt → CellSt) : (s.mapCells f).wire = s.wire := rfl
@[simp] theorem mapCells_bist (s : State) (f : Nat → CellSt → CellSt) : (s.mapCells f).bist = s.bist := rfl
@[simp] theorem mapCells_kept (s : State) (f : Nat → CellSt → CellSt) : (s.mapCells f).kept = s.kept := rfl
@[simp] theorem mapCells_granary (s : State) (f : Nat → CellSt → CellSt) : (s.mapCells f).granary = s.granary := rfl

@[simp] theorem updPort_pending (s : State) (p : Nat) (f : PortSt → PortSt) : (s.updPort p f).pending = s.pending := rfl
@[simp] theorem updPort_free (s : State) (p : Nat) (f : PortSt → PortSt) : (s.updPort p f).free = s.free := rfl
@[simp] theorem updPort_reply (s : State) (p : Nat) (f : PortSt → PortSt) : (s.updPort p f).reply = s.reply := rfl
@[simp] theorem updPort_out (s : State) (p : Nat) (f : PortSt → PortSt) : (s.updPort p f).out = s.out := rfl
@[simp] theorem updPort_clk (s : State) (p : Nat) (f : PortSt → PortSt) : (s.updPort p f).clk = s.clk := rfl
@[simp] theorem updPort_ident (s : State) (p : Nat) (f : PortSt → PortSt) : (s.updPort p f).ident = s.ident := rfl
@[simp] theorem updPort_mode (s : State) (p : Nat) (f : PortSt → PortSt) : (s.updPort p f).mode = s.mode := rfl
@[simp] theorem updPort_fault (s : State) (p : Nat) (f : PortSt → PortSt) : (s.updPort p f).fault = s.fault := rfl
@[simp] theorem updPort_wdog (s : State) (p : Nat) (f : PortSt → PortSt) : (s.updPort p f).wdog = s.wdog := rfl
@[simp] theorem updPort_clocks (s : State) (p : Nat) (f : PortSt → PortSt) : (s.updPort p f).clocks = s.clocks := rfl
@[simp] theorem updPort_hostWd (s : State) (p : Nat) (f : PortSt → PortSt) : (s.updPort p f).hostWd = s.hostWd := rfl
@[simp] theorem updPort_checks (s : State) (p : Nat) (f : PortSt → PortSt) : (s.updPort p f).checks = s.checks := rfl
@[simp] theorem updPort_flash (s : State) (p : Nat) (f : PortSt → PortSt) : (s.updPort p f).flash = s.flash := rfl
@[simp] theorem updPort_dbg (s : State) (p : Nat) (f : PortSt → PortSt) : (s.updPort p f).dbg = s.dbg := rfl
@[simp] theorem updPort_ports (s : State) (p : Nat) (f : PortSt → PortSt) : (s.updPort p f).ports = updAt s.ports p f := rfl
@[simp] theorem updPort_legacy (s : State) (p : Nat) (f : PortSt → PortSt) : (s.updPort p f).legacy = s.legacy := rfl
@[simp] theorem updPort_cmdRefs (s : State) (p : Nat) (f : PortSt → PortSt) : (s.updPort p f).cmdRefs = s.cmdRefs := rfl
@[simp] theorem updPort_tree (s : State) (p : Nat) (f : PortSt → PortSt) : (s.updPort p f).tree = s.tree := rfl
@[simp] theorem updPort_host (s : State) (p : Nat) (f : PortSt → PortSt) : (s.updPort p f).host = s.host := rfl
@[simp] theorem updPort_safety (s : State) (p : Nat) (f : PortSt → PortSt) : (s.updPort p f).safety = s.safety := rfl
@[simp] theorem updPort_sweep (s : State) (p : Nat) (f : PortSt → PortSt) : (s.updPort p f).sweep = s.sweep := rfl
@[simp] theorem updPort_cells (s : State) (p : Nat) (f : PortSt → PortSt) : (s.updPort p f).cells = s.cells := rfl
@[simp] theorem updPort_survey (s : State) (p : Nat) (f : PortSt → PortSt) : (s.updPort p f).survey = s.survey := rfl
@[simp] theorem updPort_bal (s : State) (p : Nat) (f : PortSt → PortSt) : (s.updPort p f).bal = s.bal := rfl
@[simp] theorem updPort_diag (s : State) (p : Nat) (f : PortSt → PortSt) : (s.updPort p f).diag = s.diag := rfl
@[simp] theorem updPort_glean (s : State) (p : Nat) (f : PortSt → PortSt) : (s.updPort p f).glean = s.glean := rfl
@[simp] theorem updPort_expo (s : State) (p : Nat) (f : PortSt → PortSt) : (s.updPort p f).expo = s.expo := rfl
@[simp] theorem updPort_power (s : State) (p : Nat) (f : PortSt → PortSt) : (s.updPort p f).power = s.power := rfl
@[simp] theorem updPort_wire (s : State) (p : Nat) (f : PortSt → PortSt) : (s.updPort p f).wire = s.wire := rfl
@[simp] theorem updPort_bist (s : State) (p : Nat) (f : PortSt → PortSt) : (s.updPort p f).bist = s.bist := rfl
@[simp] theorem updPort_kept (s : State) (p : Nat) (f : PortSt → PortSt) : (s.updPort p f).kept = s.kept := rfl
@[simp] theorem updPort_granary (s : State) (p : Nat) (f : PortSt → PortSt) : (s.updPort p f).granary = s.granary := rfl

@[simp] theorem updSq_pending (s : State) (r : Nat) (f : SqSt → SqSt) : (s.updSq r f).pending = s.pending := rfl
@[simp] theorem updSq_free (s : State) (r : Nat) (f : SqSt → SqSt) : (s.updSq r f).free = s.free := rfl
@[simp] theorem updSq_reply (s : State) (r : Nat) (f : SqSt → SqSt) : (s.updSq r f).reply = s.reply := rfl
@[simp] theorem updSq_out (s : State) (r : Nat) (f : SqSt → SqSt) : (s.updSq r f).out = s.out := rfl
@[simp] theorem updSq_clk (s : State) (r : Nat) (f : SqSt → SqSt) : (s.updSq r f).clk = s.clk := rfl
@[simp] theorem updSq_ident (s : State) (r : Nat) (f : SqSt → SqSt) : (s.updSq r f).ident = s.ident := rfl
@[simp] theorem updSq_mode (s : State) (r : Nat) (f : SqSt → SqSt) : (s.updSq r f).mode = s.mode := rfl
@[simp] theorem updSq_fault (s : State) (r : Nat) (f : SqSt → SqSt) : (s.updSq r f).fault = s.fault := rfl
@[simp] theorem updSq_wdog (s : State) (r : Nat) (f : SqSt → SqSt) : (s.updSq r f).wdog = s.wdog := rfl
@[simp] theorem updSq_clocks (s : State) (r : Nat) (f : SqSt → SqSt) : (s.updSq r f).clocks = s.clocks := rfl
@[simp] theorem updSq_hostWd (s : State) (r : Nat) (f : SqSt → SqSt) : (s.updSq r f).hostWd = s.hostWd := rfl
@[simp] theorem updSq_checks (s : State) (r : Nat) (f : SqSt → SqSt) : (s.updSq r f).checks = s.checks := rfl
@[simp] theorem updSq_flash (s : State) (r : Nat) (f : SqSt → SqSt) : (s.updSq r f).flash = s.flash := rfl
@[simp] theorem updSq_dbg (s : State) (r : Nat) (f : SqSt → SqSt) : (s.updSq r f).dbg = s.dbg := rfl
@[simp] theorem updSq_ports (s : State) (r : Nat) (f : SqSt → SqSt) : (s.updSq r f).ports = s.ports := rfl
@[simp] theorem updSq_legacy (s : State) (r : Nat) (f : SqSt → SqSt) : (s.updSq r f).legacy = s.legacy := rfl
@[simp] theorem updSq_cmdRefs (s : State) (r : Nat) (f : SqSt → SqSt) : (s.updSq r f).cmdRefs = s.cmdRefs := rfl
@[simp] theorem updSq_tree (s : State) (r : Nat) (f : SqSt → SqSt) : (s.updSq r f).tree = s.tree := rfl
@[simp] theorem updSq_host (s : State) (r : Nat) (f : SqSt → SqSt) : (s.updSq r f).host = { s.host with sq := updAt s.host.sq r f } := rfl
@[simp] theorem updSq_safety (s : State) (r : Nat) (f : SqSt → SqSt) : (s.updSq r f).safety = s.safety := rfl
@[simp] theorem updSq_sweep (s : State) (r : Nat) (f : SqSt → SqSt) : (s.updSq r f).sweep = s.sweep := rfl
@[simp] theorem updSq_cells (s : State) (r : Nat) (f : SqSt → SqSt) : (s.updSq r f).cells = s.cells := rfl
@[simp] theorem updSq_survey (s : State) (r : Nat) (f : SqSt → SqSt) : (s.updSq r f).survey = s.survey := rfl
@[simp] theorem updSq_bal (s : State) (r : Nat) (f : SqSt → SqSt) : (s.updSq r f).bal = s.bal := rfl
@[simp] theorem updSq_diag (s : State) (r : Nat) (f : SqSt → SqSt) : (s.updSq r f).diag = s.diag := rfl
@[simp] theorem updSq_glean (s : State) (r : Nat) (f : SqSt → SqSt) : (s.updSq r f).glean = s.glean := rfl
@[simp] theorem updSq_expo (s : State) (r : Nat) (f : SqSt → SqSt) : (s.updSq r f).expo = s.expo := rfl
@[simp] theorem updSq_power (s : State) (r : Nat) (f : SqSt → SqSt) : (s.updSq r f).power = s.power := rfl
@[simp] theorem updSq_wire (s : State) (r : Nat) (f : SqSt → SqSt) : (s.updSq r f).wire = s.wire := rfl
@[simp] theorem updSq_bist (s : State) (r : Nat) (f : SqSt → SqSt) : (s.updSq r f).bist = s.bist := rfl
@[simp] theorem updSq_kept (s : State) (r : Nat) (f : SqSt → SqSt) : (s.updSq r f).kept = s.kept := rfl
@[simp] theorem updSq_granary (s : State) (r : Nat) (f : SqSt → SqSt) : (s.updSq r f).granary = s.granary := rfl

@[simp] theorem updCq_pending (s : State) (c : Nat) (f : CqSt → CqSt) : (s.updCq c f).pending = s.pending := rfl
@[simp] theorem updCq_free (s : State) (c : Nat) (f : CqSt → CqSt) : (s.updCq c f).free = s.free := rfl
@[simp] theorem updCq_reply (s : State) (c : Nat) (f : CqSt → CqSt) : (s.updCq c f).reply = s.reply := rfl
@[simp] theorem updCq_out (s : State) (c : Nat) (f : CqSt → CqSt) : (s.updCq c f).out = s.out := rfl
@[simp] theorem updCq_clk (s : State) (c : Nat) (f : CqSt → CqSt) : (s.updCq c f).clk = s.clk := rfl
@[simp] theorem updCq_ident (s : State) (c : Nat) (f : CqSt → CqSt) : (s.updCq c f).ident = s.ident := rfl
@[simp] theorem updCq_mode (s : State) (c : Nat) (f : CqSt → CqSt) : (s.updCq c f).mode = s.mode := rfl
@[simp] theorem updCq_fault (s : State) (c : Nat) (f : CqSt → CqSt) : (s.updCq c f).fault = s.fault := rfl
@[simp] theorem updCq_wdog (s : State) (c : Nat) (f : CqSt → CqSt) : (s.updCq c f).wdog = s.wdog := rfl
@[simp] theorem updCq_clocks (s : State) (c : Nat) (f : CqSt → CqSt) : (s.updCq c f).clocks = s.clocks := rfl
@[simp] theorem updCq_hostWd (s : State) (c : Nat) (f : CqSt → CqSt) : (s.updCq c f).hostWd = s.hostWd := rfl
@[simp] theorem updCq_checks (s : State) (c : Nat) (f : CqSt → CqSt) : (s.updCq c f).checks = s.checks := rfl
@[simp] theorem updCq_flash (s : State) (c : Nat) (f : CqSt → CqSt) : (s.updCq c f).flash = s.flash := rfl
@[simp] theorem updCq_dbg (s : State) (c : Nat) (f : CqSt → CqSt) : (s.updCq c f).dbg = s.dbg := rfl
@[simp] theorem updCq_ports (s : State) (c : Nat) (f : CqSt → CqSt) : (s.updCq c f).ports = s.ports := rfl
@[simp] theorem updCq_legacy (s : State) (c : Nat) (f : CqSt → CqSt) : (s.updCq c f).legacy = s.legacy := rfl
@[simp] theorem updCq_cmdRefs (s : State) (c : Nat) (f : CqSt → CqSt) : (s.updCq c f).cmdRefs = s.cmdRefs := rfl
@[simp] theorem updCq_tree (s : State) (c : Nat) (f : CqSt → CqSt) : (s.updCq c f).tree = s.tree := rfl
@[simp] theorem updCq_host (s : State) (c : Nat) (f : CqSt → CqSt) : (s.updCq c f).host = { s.host with cq := updAt s.host.cq c f } := rfl
@[simp] theorem updCq_safety (s : State) (c : Nat) (f : CqSt → CqSt) : (s.updCq c f).safety = s.safety := rfl
@[simp] theorem updCq_sweep (s : State) (c : Nat) (f : CqSt → CqSt) : (s.updCq c f).sweep = s.sweep := rfl
@[simp] theorem updCq_cells (s : State) (c : Nat) (f : CqSt → CqSt) : (s.updCq c f).cells = s.cells := rfl
@[simp] theorem updCq_survey (s : State) (c : Nat) (f : CqSt → CqSt) : (s.updCq c f).survey = s.survey := rfl
@[simp] theorem updCq_bal (s : State) (c : Nat) (f : CqSt → CqSt) : (s.updCq c f).bal = s.bal := rfl
@[simp] theorem updCq_diag (s : State) (c : Nat) (f : CqSt → CqSt) : (s.updCq c f).diag = s.diag := rfl
@[simp] theorem updCq_glean (s : State) (c : Nat) (f : CqSt → CqSt) : (s.updCq c f).glean = s.glean := rfl
@[simp] theorem updCq_expo (s : State) (c : Nat) (f : CqSt → CqSt) : (s.updCq c f).expo = s.expo := rfl
@[simp] theorem updCq_power (s : State) (c : Nat) (f : CqSt → CqSt) : (s.updCq c f).power = s.power := rfl
@[simp] theorem updCq_wire (s : State) (c : Nat) (f : CqSt → CqSt) : (s.updCq c f).wire = s.wire := rfl
@[simp] theorem updCq_bist (s : State) (c : Nat) (f : CqSt → CqSt) : (s.updCq c f).bist = s.bist := rfl
@[simp] theorem updCq_kept (s : State) (c : Nat) (f : CqSt → CqSt) : (s.updCq c f).kept = s.kept := rfl
@[simp] theorem updCq_granary (s : State) (c : Nat) (f : CqSt → CqSt) : (s.updCq c f).granary = s.granary := rfl

@[simp] theorem updPool_pending (s : State) (p : Nat) (f : PoolSt → PoolSt) : (s.updPool p f).pending = s.pending := rfl
@[simp] theorem updPool_free (s : State) (p : Nat) (f : PoolSt → PoolSt) : (s.updPool p f).free = s.free := rfl
@[simp] theorem updPool_reply (s : State) (p : Nat) (f : PoolSt → PoolSt) : (s.updPool p f).reply = s.reply := rfl
@[simp] theorem updPool_out (s : State) (p : Nat) (f : PoolSt → PoolSt) : (s.updPool p f).out = s.out := rfl
@[simp] theorem updPool_clk (s : State) (p : Nat) (f : PoolSt → PoolSt) : (s.updPool p f).clk = s.clk := rfl
@[simp] theorem updPool_ident (s : State) (p : Nat) (f : PoolSt → PoolSt) : (s.updPool p f).ident = s.ident := rfl
@[simp] theorem updPool_mode (s : State) (p : Nat) (f : PoolSt → PoolSt) : (s.updPool p f).mode = s.mode := rfl
@[simp] theorem updPool_fault (s : State) (p : Nat) (f : PoolSt → PoolSt) : (s.updPool p f).fault = s.fault := rfl
@[simp] theorem updPool_wdog (s : State) (p : Nat) (f : PoolSt → PoolSt) : (s.updPool p f).wdog = s.wdog := rfl
@[simp] theorem updPool_clocks (s : State) (p : Nat) (f : PoolSt → PoolSt) : (s.updPool p f).clocks = s.clocks := rfl
@[simp] theorem updPool_hostWd (s : State) (p : Nat) (f : PoolSt → PoolSt) : (s.updPool p f).hostWd = s.hostWd := rfl
@[simp] theorem updPool_checks (s : State) (p : Nat) (f : PoolSt → PoolSt) : (s.updPool p f).checks = s.checks := rfl
@[simp] theorem updPool_flash (s : State) (p : Nat) (f : PoolSt → PoolSt) : (s.updPool p f).flash = s.flash := rfl
@[simp] theorem updPool_dbg (s : State) (p : Nat) (f : PoolSt → PoolSt) : (s.updPool p f).dbg = s.dbg := rfl
@[simp] theorem updPool_ports (s : State) (p : Nat) (f : PoolSt → PoolSt) : (s.updPool p f).ports = s.ports := rfl
@[simp] theorem updPool_legacy (s : State) (p : Nat) (f : PoolSt → PoolSt) : (s.updPool p f).legacy = s.legacy := rfl
@[simp] theorem updPool_cmdRefs (s : State) (p : Nat) (f : PoolSt → PoolSt) : (s.updPool p f).cmdRefs = s.cmdRefs := rfl
@[simp] theorem updPool_tree (s : State) (p : Nat) (f : PoolSt → PoolSt) : (s.updPool p f).tree = s.tree := rfl
@[simp] theorem updPool_host (s : State) (p : Nat) (f : PoolSt → PoolSt) : (s.updPool p f).host = { s.host with pool := updAt s.host.pool p f } := rfl
@[simp] theorem updPool_safety (s : State) (p : Nat) (f : PoolSt → PoolSt) : (s.updPool p f).safety = s.safety := rfl
@[simp] theorem updPool_sweep (s : State) (p : Nat) (f : PoolSt → PoolSt) : (s.updPool p f).sweep = s.sweep := rfl
@[simp] theorem updPool_cells (s : State) (p : Nat) (f : PoolSt → PoolSt) : (s.updPool p f).cells = s.cells := rfl
@[simp] theorem updPool_survey (s : State) (p : Nat) (f : PoolSt → PoolSt) : (s.updPool p f).survey = s.survey := rfl
@[simp] theorem updPool_bal (s : State) (p : Nat) (f : PoolSt → PoolSt) : (s.updPool p f).bal = s.bal := rfl
@[simp] theorem updPool_diag (s : State) (p : Nat) (f : PoolSt → PoolSt) : (s.updPool p f).diag = s.diag := rfl
@[simp] theorem updPool_glean (s : State) (p : Nat) (f : PoolSt → PoolSt) : (s.updPool p f).glean = s.glean := rfl
@[simp] theorem updPool_expo (s : State) (p : Nat) (f : PoolSt → PoolSt) : (s.updPool p f).expo = s.expo := rfl
@[simp] theorem updPool_power (s : State) (p : Nat) (f : PoolSt → PoolSt) : (s.updPool p f).power = s.power := rfl
@[simp] theorem updPool_wire (s : State) (p : Nat) (f : PoolSt → PoolSt) : (s.updPool p f).wire = s.wire := rfl
@[simp] theorem updPool_bist (s : State) (p : Nat) (f : PoolSt → PoolSt) : (s.updPool p f).bist = s.bist := rfl
@[simp] theorem updPool_kept (s : State) (p : Nat) (f : PoolSt → PoolSt) : (s.updPool p f).kept = s.kept := rfl
@[simp] theorem updPool_granary (s : State) (p : Nat) (f : PoolSt → PoolSt) : (s.updPool p f).granary = s.granary := rfl

@[simp] theorem updTx_pending (s : State) (id : Nat) (f : Tx → Tx) : (s.updTx id f).pending = s.pending := rfl
@[simp] theorem updTx_free (s : State) (id : Nat) (f : Tx → Tx) : (s.updTx id f).free = s.free := rfl
@[simp] theorem updTx_reply (s : State) (id : Nat) (f : Tx → Tx) : (s.updTx id f).reply = s.reply := rfl
@[simp] theorem updTx_out (s : State) (id : Nat) (f : Tx → Tx) : (s.updTx id f).out = s.out := rfl
@[simp] theorem updTx_clk (s : State) (id : Nat) (f : Tx → Tx) : (s.updTx id f).clk = s.clk := rfl
@[simp] theorem updTx_ident (s : State) (id : Nat) (f : Tx → Tx) : (s.updTx id f).ident = s.ident := rfl
@[simp] theorem updTx_mode (s : State) (id : Nat) (f : Tx → Tx) : (s.updTx id f).mode = s.mode := rfl
@[simp] theorem updTx_fault (s : State) (id : Nat) (f : Tx → Tx) : (s.updTx id f).fault = s.fault := rfl
@[simp] theorem updTx_wdog (s : State) (id : Nat) (f : Tx → Tx) : (s.updTx id f).wdog = s.wdog := rfl
@[simp] theorem updTx_clocks (s : State) (id : Nat) (f : Tx → Tx) : (s.updTx id f).clocks = s.clocks := rfl
@[simp] theorem updTx_hostWd (s : State) (id : Nat) (f : Tx → Tx) : (s.updTx id f).hostWd = s.hostWd := rfl
@[simp] theorem updTx_checks (s : State) (id : Nat) (f : Tx → Tx) : (s.updTx id f).checks = s.checks := rfl
@[simp] theorem updTx_flash (s : State) (id : Nat) (f : Tx → Tx) : (s.updTx id f).flash = s.flash := rfl
@[simp] theorem updTx_dbg (s : State) (id : Nat) (f : Tx → Tx) : (s.updTx id f).dbg = s.dbg := rfl
@[simp] theorem updTx_ports (s : State) (id : Nat) (f : Tx → Tx) : (s.updTx id f).ports = s.ports := rfl
@[simp] theorem updTx_legacy (s : State) (id : Nat) (f : Tx → Tx) : (s.updTx id f).legacy = s.legacy := rfl
@[simp] theorem updTx_cmdRefs (s : State) (id : Nat) (f : Tx → Tx) : (s.updTx id f).cmdRefs = s.cmdRefs := rfl
@[simp] theorem updTx_tree (s : State) (id : Nat) (f : Tx → Tx) : (s.updTx id f).tree = s.tree := rfl
@[simp] theorem updTx_host (s : State) (id : Nat) (f : Tx → Tx) : (s.updTx id f).host = { s.host with txs := s.host.txs.map (fun t => if t.id = id then f t else t) } := rfl
@[simp] theorem updTx_safety (s : State) (id : Nat) (f : Tx → Tx) : (s.updTx id f).safety = s.safety := rfl
@[simp] theorem updTx_sweep (s : State) (id : Nat) (f : Tx → Tx) : (s.updTx id f).sweep = s.sweep := rfl
@[simp] theorem updTx_cells (s : State) (id : Nat) (f : Tx → Tx) : (s.updTx id f).cells = s.cells := rfl
@[simp] theorem updTx_survey (s : State) (id : Nat) (f : Tx → Tx) : (s.updTx id f).survey = s.survey := rfl
@[simp] theorem updTx_bal (s : State) (id : Nat) (f : Tx → Tx) : (s.updTx id f).bal = s.bal := rfl
@[simp] theorem updTx_diag (s : State) (id : Nat) (f : Tx → Tx) : (s.updTx id f).diag = s.diag := rfl
@[simp] theorem updTx_glean (s : State) (id : Nat) (f : Tx → Tx) : (s.updTx id f).glean = s.glean := rfl
@[simp] theorem updTx_expo (s : State) (id : Nat) (f : Tx → Tx) : (s.updTx id f).expo = s.expo := rfl
@[simp] theorem updTx_power (s : State) (id : Nat) (f : Tx → Tx) : (s.updTx id f).power = s.power := rfl
@[simp] theorem updTx_wire (s : State) (id : Nat) (f : Tx → Tx) : (s.updTx id f).wire = s.wire := rfl
@[simp] theorem updTx_bist (s : State) (id : Nat) (f : Tx → Tx) : (s.updTx id f).bist = s.bist := rfl
@[simp] theorem updTx_kept (s : State) (id : Nat) (f : Tx → Tx) : (s.updTx id f).kept = s.kept := rfl
@[simp] theorem updTx_granary (s : State) (id : Nat) (f : Tx → Tx) : (s.updTx id f).granary = s.granary := rfl

@[simp] theorem post_pending (s : State) (w : ResultWait) : (s.post w).pending = s.pending := rfl
@[simp] theorem post_free (s : State) (w : ResultWait) : (s.post w).free = s.free := rfl
@[simp] theorem post_reply (s : State) (w : ResultWait) : (s.post w).reply = s.reply := rfl
@[simp] theorem post_out (s : State) (w : ResultWait) : (s.post w).out = s.out := rfl
@[simp] theorem post_clk (s : State) (w : ResultWait) : (s.post w).clk = s.clk := rfl
@[simp] theorem post_ident (s : State) (w : ResultWait) : (s.post w).ident = s.ident := rfl
@[simp] theorem post_mode (s : State) (w : ResultWait) : (s.post w).mode = s.mode := rfl
@[simp] theorem post_fault (s : State) (w : ResultWait) : (s.post w).fault = s.fault := rfl
@[simp] theorem post_wdog (s : State) (w : ResultWait) : (s.post w).wdog = s.wdog := rfl
@[simp] theorem post_clocks (s : State) (w : ResultWait) : (s.post w).clocks = s.clocks := rfl
@[simp] theorem post_hostWd (s : State) (w : ResultWait) : (s.post w).hostWd = s.hostWd := rfl
@[simp] theorem post_checks (s : State) (w : ResultWait) : (s.post w).checks = s.checks := rfl
@[simp] theorem post_flash (s : State) (w : ResultWait) : (s.post w).flash = s.flash := rfl
@[simp] theorem post_dbg (s : State) (w : ResultWait) : (s.post w).dbg = s.dbg := rfl
@[simp] theorem post_ports (s : State) (w : ResultWait) : (s.post w).ports = s.ports := rfl
@[simp] theorem post_legacy (s : State) (w : ResultWait) : (s.post w).legacy = s.legacy := rfl
@[simp] theorem post_cmdRefs (s : State) (w : ResultWait) : (s.post w).cmdRefs = s.cmdRefs := rfl
@[simp] theorem post_tree (s : State) (w : ResultWait) : (s.post w).tree = s.tree := rfl
@[simp] theorem post_host (s : State) (w : ResultWait) : (s.post w).host = { s.host with waits := s.host.waits ++ [{ w with behind := s.host.heldWait.length }], used := true } := rfl
@[simp] theorem post_safety (s : State) (w : ResultWait) : (s.post w).safety = s.safety := rfl
@[simp] theorem post_sweep (s : State) (w : ResultWait) : (s.post w).sweep = s.sweep := rfl
@[simp] theorem post_cells (s : State) (w : ResultWait) : (s.post w).cells = s.cells := rfl
@[simp] theorem post_survey (s : State) (w : ResultWait) : (s.post w).survey = s.survey := rfl
@[simp] theorem post_bal (s : State) (w : ResultWait) : (s.post w).bal = s.bal := rfl
@[simp] theorem post_diag (s : State) (w : ResultWait) : (s.post w).diag = s.diag := rfl
@[simp] theorem post_glean (s : State) (w : ResultWait) : (s.post w).glean = s.glean := rfl
@[simp] theorem post_expo (s : State) (w : ResultWait) : (s.post w).expo = s.expo := rfl
@[simp] theorem post_power (s : State) (w : ResultWait) : (s.post w).power = s.power := rfl
@[simp] theorem post_wire (s : State) (w : ResultWait) : (s.post w).wire = s.wire := rfl
@[simp] theorem post_bist (s : State) (w : ResultWait) : (s.post w).bist = s.bist := rfl
@[simp] theorem post_kept (s : State) (w : ResultWait) : (s.post w).kept = s.kept := rfl
@[simp] theorem post_granary (s : State) (w : ResultWait) : (s.post w).granary = s.granary := rfl

@[simp] theorem updHost_pending (s : State) (f : HostSt → HostSt) : (s.updHost f).pending = s.pending := rfl
@[simp] theorem updHost_free (s : State) (f : HostSt → HostSt) : (s.updHost f).free = s.free := rfl
@[simp] theorem updHost_reply (s : State) (f : HostSt → HostSt) : (s.updHost f).reply = s.reply := rfl
@[simp] theorem updHost_out (s : State) (f : HostSt → HostSt) : (s.updHost f).out = s.out := rfl
@[simp] theorem updHost_clk (s : State) (f : HostSt → HostSt) : (s.updHost f).clk = s.clk := rfl
@[simp] theorem updHost_ident (s : State) (f : HostSt → HostSt) : (s.updHost f).ident = s.ident := rfl
@[simp] theorem updHost_mode (s : State) (f : HostSt → HostSt) : (s.updHost f).mode = s.mode := rfl
@[simp] theorem updHost_fault (s : State) (f : HostSt → HostSt) : (s.updHost f).fault = s.fault := rfl
@[simp] theorem updHost_wdog (s : State) (f : HostSt → HostSt) : (s.updHost f).wdog = s.wdog := rfl
@[simp] theorem updHost_clocks (s : State) (f : HostSt → HostSt) : (s.updHost f).clocks = s.clocks := rfl
@[simp] theorem updHost_hostWd (s : State) (f : HostSt → HostSt) : (s.updHost f).hostWd = s.hostWd := rfl
@[simp] theorem updHost_checks (s : State) (f : HostSt → HostSt) : (s.updHost f).checks = s.checks := rfl
@[simp] theorem updHost_flash (s : State) (f : HostSt → HostSt) : (s.updHost f).flash = s.flash := rfl
@[simp] theorem updHost_dbg (s : State) (f : HostSt → HostSt) : (s.updHost f).dbg = s.dbg := rfl
@[simp] theorem updHost_ports (s : State) (f : HostSt → HostSt) : (s.updHost f).ports = s.ports := rfl
@[simp] theorem updHost_legacy (s : State) (f : HostSt → HostSt) : (s.updHost f).legacy = s.legacy := rfl
@[simp] theorem updHost_cmdRefs (s : State) (f : HostSt → HostSt) : (s.updHost f).cmdRefs = s.cmdRefs := rfl
@[simp] theorem updHost_tree (s : State) (f : HostSt → HostSt) : (s.updHost f).tree = s.tree := rfl
@[simp] theorem updHost_host (s : State) (f : HostSt → HostSt) : (s.updHost f).host = f s.host := rfl
@[simp] theorem updHost_safety (s : State) (f : HostSt → HostSt) : (s.updHost f).safety = s.safety := rfl
@[simp] theorem updHost_sweep (s : State) (f : HostSt → HostSt) : (s.updHost f).sweep = s.sweep := rfl
@[simp] theorem updHost_cells (s : State) (f : HostSt → HostSt) : (s.updHost f).cells = s.cells := rfl
@[simp] theorem updHost_survey (s : State) (f : HostSt → HostSt) : (s.updHost f).survey = s.survey := rfl
@[simp] theorem updHost_bal (s : State) (f : HostSt → HostSt) : (s.updHost f).bal = s.bal := rfl
@[simp] theorem updHost_diag (s : State) (f : HostSt → HostSt) : (s.updHost f).diag = s.diag := rfl
@[simp] theorem updHost_glean (s : State) (f : HostSt → HostSt) : (s.updHost f).glean = s.glean := rfl
@[simp] theorem updHost_expo (s : State) (f : HostSt → HostSt) : (s.updHost f).expo = s.expo := rfl
@[simp] theorem updHost_power (s : State) (f : HostSt → HostSt) : (s.updHost f).power = s.power := rfl
@[simp] theorem updHost_wire (s : State) (f : HostSt → HostSt) : (s.updHost f).wire = s.wire := rfl
@[simp] theorem updHost_bist (s : State) (f : HostSt → HostSt) : (s.updHost f).bist = s.bist := rfl
@[simp] theorem updHost_kept (s : State) (f : HostSt → HostSt) : (s.updHost f).kept = s.kept := rfl
@[simp] theorem updHost_granary (s : State) (f : HostSt → HostSt) : (s.updHost f).granary = s.granary := rfl

@[simp] theorem updHarvest_pending (s : State) (tag : Nat) (f : Harvest → Harvest) : (s.updHarvest tag f).pending = s.pending := rfl
@[simp] theorem updHarvest_free (s : State) (tag : Nat) (f : Harvest → Harvest) : (s.updHarvest tag f).free = s.free := rfl
@[simp] theorem updHarvest_reply (s : State) (tag : Nat) (f : Harvest → Harvest) : (s.updHarvest tag f).reply = s.reply := rfl
@[simp] theorem updHarvest_out (s : State) (tag : Nat) (f : Harvest → Harvest) : (s.updHarvest tag f).out = s.out := rfl
@[simp] theorem updHarvest_clk (s : State) (tag : Nat) (f : Harvest → Harvest) : (s.updHarvest tag f).clk = s.clk := rfl
@[simp] theorem updHarvest_ident (s : State) (tag : Nat) (f : Harvest → Harvest) : (s.updHarvest tag f).ident = s.ident := rfl
@[simp] theorem updHarvest_mode (s : State) (tag : Nat) (f : Harvest → Harvest) : (s.updHarvest tag f).mode = s.mode := rfl
@[simp] theorem updHarvest_fault (s : State) (tag : Nat) (f : Harvest → Harvest) : (s.updHarvest tag f).fault = s.fault := rfl
@[simp] theorem updHarvest_wdog (s : State) (tag : Nat) (f : Harvest → Harvest) : (s.updHarvest tag f).wdog = s.wdog := rfl
@[simp] theorem updHarvest_clocks (s : State) (tag : Nat) (f : Harvest → Harvest) : (s.updHarvest tag f).clocks = s.clocks := rfl
@[simp] theorem updHarvest_hostWd (s : State) (tag : Nat) (f : Harvest → Harvest) : (s.updHarvest tag f).hostWd = s.hostWd := rfl
@[simp] theorem updHarvest_checks (s : State) (tag : Nat) (f : Harvest → Harvest) : (s.updHarvest tag f).checks = s.checks := rfl
@[simp] theorem updHarvest_flash (s : State) (tag : Nat) (f : Harvest → Harvest) : (s.updHarvest tag f).flash = s.flash := rfl
@[simp] theorem updHarvest_dbg (s : State) (tag : Nat) (f : Harvest → Harvest) : (s.updHarvest tag f).dbg = s.dbg := rfl
@[simp] theorem updHarvest_ports (s : State) (tag : Nat) (f : Harvest → Harvest) : (s.updHarvest tag f).ports = s.ports := rfl
@[simp] theorem updHarvest_legacy (s : State) (tag : Nat) (f : Harvest → Harvest) : (s.updHarvest tag f).legacy = s.legacy := rfl
@[simp] theorem updHarvest_cmdRefs (s : State) (tag : Nat) (f : Harvest → Harvest) : (s.updHarvest tag f).cmdRefs = s.cmdRefs := rfl
@[simp] theorem updHarvest_tree (s : State) (tag : Nat) (f : Harvest → Harvest) : (s.updHarvest tag f).tree = s.tree := rfl
@[simp] theorem updHarvest_host (s : State) (tag : Nat) (f : Harvest → Harvest) : (s.updHarvest tag f).host = s.host := rfl
@[simp] theorem updHarvest_safety (s : State) (tag : Nat) (f : Harvest → Harvest) : (s.updHarvest tag f).safety = s.safety := rfl
@[simp] theorem updHarvest_sweep (s : State) (tag : Nat) (f : Harvest → Harvest) : (s.updHarvest tag f).sweep = s.sweep := rfl
@[simp] theorem updHarvest_cells (s : State) (tag : Nat) (f : Harvest → Harvest) : (s.updHarvest tag f).cells = s.cells := rfl
@[simp] theorem updHarvest_survey (s : State) (tag : Nat) (f : Harvest → Harvest) : (s.updHarvest tag f).survey = s.survey := rfl
@[simp] theorem updHarvest_bal (s : State) (tag : Nat) (f : Harvest → Harvest) : (s.updHarvest tag f).bal = s.bal := rfl
@[simp] theorem updHarvest_diag (s : State) (tag : Nat) (f : Harvest → Harvest) : (s.updHarvest tag f).diag = s.diag := rfl
@[simp] theorem updHarvest_glean (s : State) (tag : Nat) (f : Harvest → Harvest) : (s.updHarvest tag f).glean = { s.glean with harvests := s.glean.harvests.map (fun h => if h.tag = tag then f h else h) } := rfl
@[simp] theorem updHarvest_expo (s : State) (tag : Nat) (f : Harvest → Harvest) : (s.updHarvest tag f).expo = s.expo := rfl
@[simp] theorem updHarvest_power (s : State) (tag : Nat) (f : Harvest → Harvest) : (s.updHarvest tag f).power = s.power := rfl
@[simp] theorem updHarvest_wire (s : State) (tag : Nat) (f : Harvest → Harvest) : (s.updHarvest tag f).wire = s.wire := rfl
@[simp] theorem updHarvest_bist (s : State) (tag : Nat) (f : Harvest → Harvest) : (s.updHarvest tag f).bist = s.bist := rfl
@[simp] theorem updHarvest_kept (s : State) (tag : Nat) (f : Harvest → Harvest) : (s.updHarvest tag f).kept = s.kept := rfl
@[simp] theorem updHarvest_granary (s : State) (tag : Nat) (f : Harvest → Harvest) : (s.updHarvest tag f).granary = s.granary := rfl

@[simp] theorem updGleaner_pending (s : State) (g : Nat) (f : GleanerSt → GleanerSt) : (s.updGleaner g f).pending = s.pending := rfl
@[simp] theorem updGleaner_free (s : State) (g : Nat) (f : GleanerSt → GleanerSt) : (s.updGleaner g f).free = s.free := rfl
@[simp] theorem updGleaner_reply (s : State) (g : Nat) (f : GleanerSt → GleanerSt) : (s.updGleaner g f).reply = s.reply := rfl
@[simp] theorem updGleaner_out (s : State) (g : Nat) (f : GleanerSt → GleanerSt) : (s.updGleaner g f).out = s.out := rfl
@[simp] theorem updGleaner_clk (s : State) (g : Nat) (f : GleanerSt → GleanerSt) : (s.updGleaner g f).clk = s.clk := rfl
@[simp] theorem updGleaner_ident (s : State) (g : Nat) (f : GleanerSt → GleanerSt) : (s.updGleaner g f).ident = s.ident := rfl
@[simp] theorem updGleaner_mode (s : State) (g : Nat) (f : GleanerSt → GleanerSt) : (s.updGleaner g f).mode = s.mode := rfl
@[simp] theorem updGleaner_fault (s : State) (g : Nat) (f : GleanerSt → GleanerSt) : (s.updGleaner g f).fault = s.fault := rfl
@[simp] theorem updGleaner_wdog (s : State) (g : Nat) (f : GleanerSt → GleanerSt) : (s.updGleaner g f).wdog = s.wdog := rfl
@[simp] theorem updGleaner_clocks (s : State) (g : Nat) (f : GleanerSt → GleanerSt) : (s.updGleaner g f).clocks = s.clocks := rfl
@[simp] theorem updGleaner_hostWd (s : State) (g : Nat) (f : GleanerSt → GleanerSt) : (s.updGleaner g f).hostWd = s.hostWd := rfl
@[simp] theorem updGleaner_checks (s : State) (g : Nat) (f : GleanerSt → GleanerSt) : (s.updGleaner g f).checks = s.checks := rfl
@[simp] theorem updGleaner_flash (s : State) (g : Nat) (f : GleanerSt → GleanerSt) : (s.updGleaner g f).flash = s.flash := rfl
@[simp] theorem updGleaner_dbg (s : State) (g : Nat) (f : GleanerSt → GleanerSt) : (s.updGleaner g f).dbg = s.dbg := rfl
@[simp] theorem updGleaner_ports (s : State) (g : Nat) (f : GleanerSt → GleanerSt) : (s.updGleaner g f).ports = s.ports := rfl
@[simp] theorem updGleaner_legacy (s : State) (g : Nat) (f : GleanerSt → GleanerSt) : (s.updGleaner g f).legacy = s.legacy := rfl
@[simp] theorem updGleaner_cmdRefs (s : State) (g : Nat) (f : GleanerSt → GleanerSt) : (s.updGleaner g f).cmdRefs = s.cmdRefs := rfl
@[simp] theorem updGleaner_tree (s : State) (g : Nat) (f : GleanerSt → GleanerSt) : (s.updGleaner g f).tree = s.tree := rfl
@[simp] theorem updGleaner_host (s : State) (g : Nat) (f : GleanerSt → GleanerSt) : (s.updGleaner g f).host = s.host := rfl
@[simp] theorem updGleaner_safety (s : State) (g : Nat) (f : GleanerSt → GleanerSt) : (s.updGleaner g f).safety = s.safety := rfl
@[simp] theorem updGleaner_sweep (s : State) (g : Nat) (f : GleanerSt → GleanerSt) : (s.updGleaner g f).sweep = s.sweep := rfl
@[simp] theorem updGleaner_cells (s : State) (g : Nat) (f : GleanerSt → GleanerSt) : (s.updGleaner g f).cells = s.cells := rfl
@[simp] theorem updGleaner_survey (s : State) (g : Nat) (f : GleanerSt → GleanerSt) : (s.updGleaner g f).survey = s.survey := rfl
@[simp] theorem updGleaner_bal (s : State) (g : Nat) (f : GleanerSt → GleanerSt) : (s.updGleaner g f).bal = s.bal := rfl
@[simp] theorem updGleaner_diag (s : State) (g : Nat) (f : GleanerSt → GleanerSt) : (s.updGleaner g f).diag = s.diag := rfl
@[simp] theorem updGleaner_glean (s : State) (g : Nat) (f : GleanerSt → GleanerSt) : (s.updGleaner g f).glean = { s.glean with gleaners := updAt s.glean.gleaners g f } := rfl
@[simp] theorem updGleaner_expo (s : State) (g : Nat) (f : GleanerSt → GleanerSt) : (s.updGleaner g f).expo = s.expo := rfl
@[simp] theorem updGleaner_power (s : State) (g : Nat) (f : GleanerSt → GleanerSt) : (s.updGleaner g f).power = s.power := rfl
@[simp] theorem updGleaner_wire (s : State) (g : Nat) (f : GleanerSt → GleanerSt) : (s.updGleaner g f).wire = s.wire := rfl
@[simp] theorem updGleaner_bist (s : State) (g : Nat) (f : GleanerSt → GleanerSt) : (s.updGleaner g f).bist = s.bist := rfl
@[simp] theorem updGleaner_kept (s : State) (g : Nat) (f : GleanerSt → GleanerSt) : (s.updGleaner g f).kept = s.kept := rfl
@[simp] theorem updGleaner_granary (s : State) (g : Nat) (f : GleanerSt → GleanerSt) : (s.updGleaner g f).granary = s.granary := rfl

@[simp] theorem updChk_pending (s : State) (k : Nat) (f : CheckSt → CheckSt) : (s.updChk k f).pending = s.pending := rfl
@[simp] theorem updChk_free (s : State) (k : Nat) (f : CheckSt → CheckSt) : (s.updChk k f).free = s.free := rfl
@[simp] theorem updChk_reply (s : State) (k : Nat) (f : CheckSt → CheckSt) : (s.updChk k f).reply = s.reply := rfl
@[simp] theorem updChk_out (s : State) (k : Nat) (f : CheckSt → CheckSt) : (s.updChk k f).out = s.out := rfl
@[simp] theorem updChk_clk (s : State) (k : Nat) (f : CheckSt → CheckSt) : (s.updChk k f).clk = s.clk := rfl
@[simp] theorem updChk_ident (s : State) (k : Nat) (f : CheckSt → CheckSt) : (s.updChk k f).ident = s.ident := rfl
@[simp] theorem updChk_mode (s : State) (k : Nat) (f : CheckSt → CheckSt) : (s.updChk k f).mode = s.mode := rfl
@[simp] theorem updChk_fault (s : State) (k : Nat) (f : CheckSt → CheckSt) : (s.updChk k f).fault = s.fault := rfl
@[simp] theorem updChk_wdog (s : State) (k : Nat) (f : CheckSt → CheckSt) : (s.updChk k f).wdog = s.wdog := rfl
@[simp] theorem updChk_clocks (s : State) (k : Nat) (f : CheckSt → CheckSt) : (s.updChk k f).clocks = s.clocks := rfl
@[simp] theorem updChk_hostWd (s : State) (k : Nat) (f : CheckSt → CheckSt) : (s.updChk k f).hostWd = s.hostWd := rfl
@[simp] theorem updChk_checks (s : State) (k : Nat) (f : CheckSt → CheckSt) : (s.updChk k f).checks = updAt s.checks k f := rfl
@[simp] theorem updChk_flash (s : State) (k : Nat) (f : CheckSt → CheckSt) : (s.updChk k f).flash = s.flash := rfl
@[simp] theorem updChk_dbg (s : State) (k : Nat) (f : CheckSt → CheckSt) : (s.updChk k f).dbg = s.dbg := rfl
@[simp] theorem updChk_ports (s : State) (k : Nat) (f : CheckSt → CheckSt) : (s.updChk k f).ports = s.ports := rfl
@[simp] theorem updChk_legacy (s : State) (k : Nat) (f : CheckSt → CheckSt) : (s.updChk k f).legacy = s.legacy := rfl
@[simp] theorem updChk_cmdRefs (s : State) (k : Nat) (f : CheckSt → CheckSt) : (s.updChk k f).cmdRefs = s.cmdRefs := rfl
@[simp] theorem updChk_tree (s : State) (k : Nat) (f : CheckSt → CheckSt) : (s.updChk k f).tree = s.tree := rfl
@[simp] theorem updChk_host (s : State) (k : Nat) (f : CheckSt → CheckSt) : (s.updChk k f).host = s.host := rfl
@[simp] theorem updChk_safety (s : State) (k : Nat) (f : CheckSt → CheckSt) : (s.updChk k f).safety = s.safety := rfl
@[simp] theorem updChk_sweep (s : State) (k : Nat) (f : CheckSt → CheckSt) : (s.updChk k f).sweep = s.sweep := rfl
@[simp] theorem updChk_cells (s : State) (k : Nat) (f : CheckSt → CheckSt) : (s.updChk k f).cells = s.cells := rfl
@[simp] theorem updChk_survey (s : State) (k : Nat) (f : CheckSt → CheckSt) : (s.updChk k f).survey = s.survey := rfl
@[simp] theorem updChk_bal (s : State) (k : Nat) (f : CheckSt → CheckSt) : (s.updChk k f).bal = s.bal := rfl
@[simp] theorem updChk_diag (s : State) (k : Nat) (f : CheckSt → CheckSt) : (s.updChk k f).diag = s.diag := rfl
@[simp] theorem updChk_glean (s : State) (k : Nat) (f : CheckSt → CheckSt) : (s.updChk k f).glean = s.glean := rfl
@[simp] theorem updChk_expo (s : State) (k : Nat) (f : CheckSt → CheckSt) : (s.updChk k f).expo = s.expo := rfl
@[simp] theorem updChk_power (s : State) (k : Nat) (f : CheckSt → CheckSt) : (s.updChk k f).power = s.power := rfl
@[simp] theorem updChk_wire (s : State) (k : Nat) (f : CheckSt → CheckSt) : (s.updChk k f).wire = s.wire := rfl
@[simp] theorem updChk_bist (s : State) (k : Nat) (f : CheckSt → CheckSt) : (s.updChk k f).bist = s.bist := rfl
@[simp] theorem updChk_kept (s : State) (k : Nat) (f : CheckSt → CheckSt) : (s.updChk k f).kept = s.kept := rfl
@[simp] theorem updChk_granary (s : State) (k : Nat) (f : CheckSt → CheckSt) : (s.updChk k f).granary = s.granary := rfl

@[simp] theorem updPower_pending (s : State) (f : PowerSt → PowerSt) : (s.updPower f).pending = s.pending := rfl
@[simp] theorem updPower_free (s : State) (f : PowerSt → PowerSt) : (s.updPower f).free = s.free := rfl
@[simp] theorem updPower_reply (s : State) (f : PowerSt → PowerSt) : (s.updPower f).reply = s.reply := rfl
@[simp] theorem updPower_out (s : State) (f : PowerSt → PowerSt) : (s.updPower f).out = s.out := rfl
@[simp] theorem updPower_clk (s : State) (f : PowerSt → PowerSt) : (s.updPower f).clk = s.clk := rfl
@[simp] theorem updPower_ident (s : State) (f : PowerSt → PowerSt) : (s.updPower f).ident = s.ident := rfl
@[simp] theorem updPower_mode (s : State) (f : PowerSt → PowerSt) : (s.updPower f).mode = s.mode := rfl
@[simp] theorem updPower_fault (s : State) (f : PowerSt → PowerSt) : (s.updPower f).fault = s.fault := rfl
@[simp] theorem updPower_wdog (s : State) (f : PowerSt → PowerSt) : (s.updPower f).wdog = s.wdog := rfl
@[simp] theorem updPower_clocks (s : State) (f : PowerSt → PowerSt) : (s.updPower f).clocks = s.clocks := rfl
@[simp] theorem updPower_hostWd (s : State) (f : PowerSt → PowerSt) : (s.updPower f).hostWd = s.hostWd := rfl
@[simp] theorem updPower_checks (s : State) (f : PowerSt → PowerSt) : (s.updPower f).checks = s.checks := rfl
@[simp] theorem updPower_flash (s : State) (f : PowerSt → PowerSt) : (s.updPower f).flash = s.flash := rfl
@[simp] theorem updPower_dbg (s : State) (f : PowerSt → PowerSt) : (s.updPower f).dbg = s.dbg := rfl
@[simp] theorem updPower_ports (s : State) (f : PowerSt → PowerSt) : (s.updPower f).ports = s.ports := rfl
@[simp] theorem updPower_legacy (s : State) (f : PowerSt → PowerSt) : (s.updPower f).legacy = s.legacy := rfl
@[simp] theorem updPower_cmdRefs (s : State) (f : PowerSt → PowerSt) : (s.updPower f).cmdRefs = s.cmdRefs := rfl
@[simp] theorem updPower_tree (s : State) (f : PowerSt → PowerSt) : (s.updPower f).tree = s.tree := rfl
@[simp] theorem updPower_host (s : State) (f : PowerSt → PowerSt) : (s.updPower f).host = s.host := rfl
@[simp] theorem updPower_safety (s : State) (f : PowerSt → PowerSt) : (s.updPower f).safety = s.safety := rfl
@[simp] theorem updPower_sweep (s : State) (f : PowerSt → PowerSt) : (s.updPower f).sweep = s.sweep := rfl
@[simp] theorem updPower_cells (s : State) (f : PowerSt → PowerSt) : (s.updPower f).cells = s.cells := rfl
@[simp] theorem updPower_survey (s : State) (f : PowerSt → PowerSt) : (s.updPower f).survey = s.survey := rfl
@[simp] theorem updPower_bal (s : State) (f : PowerSt → PowerSt) : (s.updPower f).bal = s.bal := rfl
@[simp] theorem updPower_diag (s : State) (f : PowerSt → PowerSt) : (s.updPower f).diag = s.diag := rfl
@[simp] theorem updPower_glean (s : State) (f : PowerSt → PowerSt) : (s.updPower f).glean = s.glean := rfl
@[simp] theorem updPower_expo (s : State) (f : PowerSt → PowerSt) : (s.updPower f).expo = s.expo := rfl
@[simp] theorem updPower_power (s : State) (f : PowerSt → PowerSt) : (s.updPower f).power = f s.power := rfl
@[simp] theorem updPower_wire (s : State) (f : PowerSt → PowerSt) : (s.updPower f).wire = s.wire := rfl
@[simp] theorem updPower_bist (s : State) (f : PowerSt → PowerSt) : (s.updPower f).bist = s.bist := rfl
@[simp] theorem updPower_kept (s : State) (f : PowerSt → PowerSt) : (s.updPower f).kept = s.kept := rfl
@[simp] theorem updPower_granary (s : State) (f : PowerSt → PowerSt) : (s.updPower f).granary = s.granary := rfl

@[simp] theorem updSafety_pending (s : State) (f : SafetySt → SafetySt) : (s.updSafety f).pending = s.pending := rfl
@[simp] theorem updSafety_free (s : State) (f : SafetySt → SafetySt) : (s.updSafety f).free = s.free := rfl
@[simp] theorem updSafety_reply (s : State) (f : SafetySt → SafetySt) : (s.updSafety f).reply = s.reply := rfl
@[simp] theorem updSafety_out (s : State) (f : SafetySt → SafetySt) : (s.updSafety f).out = s.out := rfl
@[simp] theorem updSafety_clk (s : State) (f : SafetySt → SafetySt) : (s.updSafety f).clk = s.clk := rfl
@[simp] theorem updSafety_ident (s : State) (f : SafetySt → SafetySt) : (s.updSafety f).ident = s.ident := rfl
@[simp] theorem updSafety_mode (s : State) (f : SafetySt → SafetySt) : (s.updSafety f).mode = s.mode := rfl
@[simp] theorem updSafety_fault (s : State) (f : SafetySt → SafetySt) : (s.updSafety f).fault = s.fault := rfl
@[simp] theorem updSafety_wdog (s : State) (f : SafetySt → SafetySt) : (s.updSafety f).wdog = s.wdog := rfl
@[simp] theorem updSafety_clocks (s : State) (f : SafetySt → SafetySt) : (s.updSafety f).clocks = s.clocks := rfl
@[simp] theorem updSafety_hostWd (s : State) (f : SafetySt → SafetySt) : (s.updSafety f).hostWd = s.hostWd := rfl
@[simp] theorem updSafety_checks (s : State) (f : SafetySt → SafetySt) : (s.updSafety f).checks = s.checks := rfl
@[simp] theorem updSafety_flash (s : State) (f : SafetySt → SafetySt) : (s.updSafety f).flash = s.flash := rfl
@[simp] theorem updSafety_dbg (s : State) (f : SafetySt → SafetySt) : (s.updSafety f).dbg = s.dbg := rfl
@[simp] theorem updSafety_ports (s : State) (f : SafetySt → SafetySt) : (s.updSafety f).ports = s.ports := rfl
@[simp] theorem updSafety_legacy (s : State) (f : SafetySt → SafetySt) : (s.updSafety f).legacy = s.legacy := rfl
@[simp] theorem updSafety_cmdRefs (s : State) (f : SafetySt → SafetySt) : (s.updSafety f).cmdRefs = s.cmdRefs := rfl
@[simp] theorem updSafety_tree (s : State) (f : SafetySt → SafetySt) : (s.updSafety f).tree = s.tree := rfl
@[simp] theorem updSafety_host (s : State) (f : SafetySt → SafetySt) : (s.updSafety f).host = s.host := rfl
@[simp] theorem updSafety_safety (s : State) (f : SafetySt → SafetySt) : (s.updSafety f).safety = f s.safety := rfl
@[simp] theorem updSafety_sweep (s : State) (f : SafetySt → SafetySt) : (s.updSafety f).sweep = s.sweep := rfl
@[simp] theorem updSafety_cells (s : State) (f : SafetySt → SafetySt) : (s.updSafety f).cells = s.cells := rfl
@[simp] theorem updSafety_survey (s : State) (f : SafetySt → SafetySt) : (s.updSafety f).survey = s.survey := rfl
@[simp] theorem updSafety_bal (s : State) (f : SafetySt → SafetySt) : (s.updSafety f).bal = s.bal := rfl
@[simp] theorem updSafety_diag (s : State) (f : SafetySt → SafetySt) : (s.updSafety f).diag = s.diag := rfl
@[simp] theorem updSafety_glean (s : State) (f : SafetySt → SafetySt) : (s.updSafety f).glean = s.glean := rfl
@[simp] theorem updSafety_expo (s : State) (f : SafetySt → SafetySt) : (s.updSafety f).expo = s.expo := rfl
@[simp] theorem updSafety_power (s : State) (f : SafetySt → SafetySt) : (s.updSafety f).power = s.power := rfl
@[simp] theorem updSafety_wire (s : State) (f : SafetySt → SafetySt) : (s.updSafety f).wire = s.wire := rfl
@[simp] theorem updSafety_bist (s : State) (f : SafetySt → SafetySt) : (s.updSafety f).bist = s.bist := rfl
@[simp] theorem updSafety_kept (s : State) (f : SafetySt → SafetySt) : (s.updSafety f).kept = s.kept := rfl
@[simp] theorem updSafety_granary (s : State) (f : SafetySt → SafetySt) : (s.updSafety f).granary = s.granary := rfl

@[simp] theorem updWire_pending (s : State) (f : WireSt → WireSt) : (s.updWire f).pending = s.pending := rfl
@[simp] theorem updWire_free (s : State) (f : WireSt → WireSt) : (s.updWire f).free = s.free := rfl
@[simp] theorem updWire_reply (s : State) (f : WireSt → WireSt) : (s.updWire f).reply = s.reply := rfl
@[simp] theorem updWire_out (s : State) (f : WireSt → WireSt) : (s.updWire f).out = s.out := rfl
@[simp] theorem updWire_clk (s : State) (f : WireSt → WireSt) : (s.updWire f).clk = s.clk := rfl
@[simp] theorem updWire_ident (s : State) (f : WireSt → WireSt) : (s.updWire f).ident = s.ident := rfl
@[simp] theorem updWire_mode (s : State) (f : WireSt → WireSt) : (s.updWire f).mode = s.mode := rfl
@[simp] theorem updWire_fault (s : State) (f : WireSt → WireSt) : (s.updWire f).fault = s.fault := rfl
@[simp] theorem updWire_wdog (s : State) (f : WireSt → WireSt) : (s.updWire f).wdog = s.wdog := rfl
@[simp] theorem updWire_clocks (s : State) (f : WireSt → WireSt) : (s.updWire f).clocks = s.clocks := rfl
@[simp] theorem updWire_hostWd (s : State) (f : WireSt → WireSt) : (s.updWire f).hostWd = s.hostWd := rfl
@[simp] theorem updWire_checks (s : State) (f : WireSt → WireSt) : (s.updWire f).checks = s.checks := rfl
@[simp] theorem updWire_flash (s : State) (f : WireSt → WireSt) : (s.updWire f).flash = s.flash := rfl
@[simp] theorem updWire_dbg (s : State) (f : WireSt → WireSt) : (s.updWire f).dbg = s.dbg := rfl
@[simp] theorem updWire_ports (s : State) (f : WireSt → WireSt) : (s.updWire f).ports = s.ports := rfl
@[simp] theorem updWire_legacy (s : State) (f : WireSt → WireSt) : (s.updWire f).legacy = s.legacy := rfl
@[simp] theorem updWire_cmdRefs (s : State) (f : WireSt → WireSt) : (s.updWire f).cmdRefs = s.cmdRefs := rfl
@[simp] theorem updWire_tree (s : State) (f : WireSt → WireSt) : (s.updWire f).tree = s.tree := rfl
@[simp] theorem updWire_host (s : State) (f : WireSt → WireSt) : (s.updWire f).host = s.host := rfl
@[simp] theorem updWire_safety (s : State) (f : WireSt → WireSt) : (s.updWire f).safety = s.safety := rfl
@[simp] theorem updWire_sweep (s : State) (f : WireSt → WireSt) : (s.updWire f).sweep = s.sweep := rfl
@[simp] theorem updWire_cells (s : State) (f : WireSt → WireSt) : (s.updWire f).cells = s.cells := rfl
@[simp] theorem updWire_survey (s : State) (f : WireSt → WireSt) : (s.updWire f).survey = s.survey := rfl
@[simp] theorem updWire_bal (s : State) (f : WireSt → WireSt) : (s.updWire f).bal = s.bal := rfl
@[simp] theorem updWire_diag (s : State) (f : WireSt → WireSt) : (s.updWire f).diag = s.diag := rfl
@[simp] theorem updWire_glean (s : State) (f : WireSt → WireSt) : (s.updWire f).glean = s.glean := rfl
@[simp] theorem updWire_expo (s : State) (f : WireSt → WireSt) : (s.updWire f).expo = s.expo := rfl
@[simp] theorem updWire_power (s : State) (f : WireSt → WireSt) : (s.updWire f).power = s.power := rfl
@[simp] theorem updWire_wire (s : State) (f : WireSt → WireSt) : (s.updWire f).wire = f s.wire := rfl
@[simp] theorem updWire_bist (s : State) (f : WireSt → WireSt) : (s.updWire f).bist = s.bist := rfl
@[simp] theorem updWire_kept (s : State) (f : WireSt → WireSt) : (s.updWire f).kept = s.kept := rfl
@[simp] theorem updWire_granary (s : State) (f : WireSt → WireSt) : (s.updWire f).granary = s.granary := rfl

@[simp] theorem updBist_pending (s : State) (f : BistSt → BistSt) : (s.updBist f).pending = s.pending := rfl
@[simp] theorem updBist_free (s : State) (f : BistSt → BistSt) : (s.updBist f).free = s.free := rfl
@[simp] theorem updBist_reply (s : State) (f : BistSt → BistSt) : (s.updBist f).reply = s.reply := rfl
@[simp] theorem updBist_out (s : State) (f : BistSt → BistSt) : (s.updBist f).out = s.out := rfl
@[simp] theorem updBist_clk (s : State) (f : BistSt → BistSt) : (s.updBist f).clk = s.clk := rfl
@[simp] theorem updBist_ident (s : State) (f : BistSt → BistSt) : (s.updBist f).ident = s.ident := rfl
@[simp] theorem updBist_mode (s : State) (f : BistSt → BistSt) : (s.updBist f).mode = s.mode := rfl
@[simp] theorem updBist_fault (s : State) (f : BistSt → BistSt) : (s.updBist f).fault = s.fault := rfl
@[simp] theorem updBist_wdog (s : State) (f : BistSt → BistSt) : (s.updBist f).wdog = s.wdog := rfl
@[simp] theorem updBist_clocks (s : State) (f : BistSt → BistSt) : (s.updBist f).clocks = s.clocks := rfl
@[simp] theorem updBist_hostWd (s : State) (f : BistSt → BistSt) : (s.updBist f).hostWd = s.hostWd := rfl
@[simp] theorem updBist_checks (s : State) (f : BistSt → BistSt) : (s.updBist f).checks = s.checks := rfl
@[simp] theorem updBist_flash (s : State) (f : BistSt → BistSt) : (s.updBist f).flash = s.flash := rfl
@[simp] theorem updBist_dbg (s : State) (f : BistSt → BistSt) : (s.updBist f).dbg = s.dbg := rfl
@[simp] theorem updBist_ports (s : State) (f : BistSt → BistSt) : (s.updBist f).ports = s.ports := rfl
@[simp] theorem updBist_legacy (s : State) (f : BistSt → BistSt) : (s.updBist f).legacy = s.legacy := rfl
@[simp] theorem updBist_cmdRefs (s : State) (f : BistSt → BistSt) : (s.updBist f).cmdRefs = s.cmdRefs := rfl
@[simp] theorem updBist_tree (s : State) (f : BistSt → BistSt) : (s.updBist f).tree = s.tree := rfl
@[simp] theorem updBist_host (s : State) (f : BistSt → BistSt) : (s.updBist f).host = s.host := rfl
@[simp] theorem updBist_safety (s : State) (f : BistSt → BistSt) : (s.updBist f).safety = s.safety := rfl
@[simp] theorem updBist_sweep (s : State) (f : BistSt → BistSt) : (s.updBist f).sweep = s.sweep := rfl
@[simp] theorem updBist_cells (s : State) (f : BistSt → BistSt) : (s.updBist f).cells = s.cells := rfl
@[simp] theorem updBist_survey (s : State) (f : BistSt → BistSt) : (s.updBist f).survey = s.survey := rfl
@[simp] theorem updBist_bal (s : State) (f : BistSt → BistSt) : (s.updBist f).bal = s.bal := rfl
@[simp] theorem updBist_diag (s : State) (f : BistSt → BistSt) : (s.updBist f).diag = s.diag := rfl
@[simp] theorem updBist_glean (s : State) (f : BistSt → BistSt) : (s.updBist f).glean = s.glean := rfl
@[simp] theorem updBist_expo (s : State) (f : BistSt → BistSt) : (s.updBist f).expo = s.expo := rfl
@[simp] theorem updBist_power (s : State) (f : BistSt → BistSt) : (s.updBist f).power = s.power := rfl
@[simp] theorem updBist_wire (s : State) (f : BistSt → BistSt) : (s.updBist f).wire = s.wire := rfl
@[simp] theorem updBist_bist (s : State) (f : BistSt → BistSt) : (s.updBist f).bist = f s.bist := rfl
@[simp] theorem updBist_kept (s : State) (f : BistSt → BistSt) : (s.updBist f).kept = s.kept := rfl
@[simp] theorem updBist_granary (s : State) (f : BistSt → BistSt) : (s.updBist f).granary = s.granary := rfl

@[simp] theorem updWalk_pending (s : State) (f : WalkSt → WalkSt) : (s.updWalk f).pending = s.pending := rfl
@[simp] theorem updWalk_free (s : State) (f : WalkSt → WalkSt) : (s.updWalk f).free = s.free := rfl
@[simp] theorem updWalk_reply (s : State) (f : WalkSt → WalkSt) : (s.updWalk f).reply = s.reply := rfl
@[simp] theorem updWalk_out (s : State) (f : WalkSt → WalkSt) : (s.updWalk f).out = s.out := rfl
@[simp] theorem updWalk_clk (s : State) (f : WalkSt → WalkSt) : (s.updWalk f).clk = s.clk := rfl
@[simp] theorem updWalk_ident (s : State) (f : WalkSt → WalkSt) : (s.updWalk f).ident = s.ident := rfl
@[simp] theorem updWalk_mode (s : State) (f : WalkSt → WalkSt) : (s.updWalk f).mode = s.mode := rfl
@[simp] theorem updWalk_fault (s : State) (f : WalkSt → WalkSt) : (s.updWalk f).fault = s.fault := rfl
@[simp] theorem updWalk_wdog (s : State) (f : WalkSt → WalkSt) : (s.updWalk f).wdog = s.wdog := rfl
@[simp] theorem updWalk_clocks (s : State) (f : WalkSt → WalkSt) : (s.updWalk f).clocks = s.clocks := rfl
@[simp] theorem updWalk_hostWd (s : State) (f : WalkSt → WalkSt) : (s.updWalk f).hostWd = s.hostWd := rfl
@[simp] theorem updWalk_checks (s : State) (f : WalkSt → WalkSt) : (s.updWalk f).checks = s.checks := rfl
@[simp] theorem updWalk_flash (s : State) (f : WalkSt → WalkSt) : (s.updWalk f).flash = s.flash := rfl
@[simp] theorem updWalk_dbg (s : State) (f : WalkSt → WalkSt) : (s.updWalk f).dbg = s.dbg := rfl
@[simp] theorem updWalk_ports (s : State) (f : WalkSt → WalkSt) : (s.updWalk f).ports = s.ports := rfl
@[simp] theorem updWalk_legacy (s : State) (f : WalkSt → WalkSt) : (s.updWalk f).legacy = s.legacy := rfl
@[simp] theorem updWalk_cmdRefs (s : State) (f : WalkSt → WalkSt) : (s.updWalk f).cmdRefs = s.cmdRefs := rfl
@[simp] theorem updWalk_tree (s : State) (f : WalkSt → WalkSt) : (s.updWalk f).tree = { s.tree with walk := f s.tree.walk } := rfl
@[simp] theorem updWalk_host (s : State) (f : WalkSt → WalkSt) : (s.updWalk f).host = s.host := rfl
@[simp] theorem updWalk_safety (s : State) (f : WalkSt → WalkSt) : (s.updWalk f).safety = s.safety := rfl
@[simp] theorem updWalk_sweep (s : State) (f : WalkSt → WalkSt) : (s.updWalk f).sweep = s.sweep := rfl
@[simp] theorem updWalk_cells (s : State) (f : WalkSt → WalkSt) : (s.updWalk f).cells = s.cells := rfl
@[simp] theorem updWalk_survey (s : State) (f : WalkSt → WalkSt) : (s.updWalk f).survey = s.survey := rfl
@[simp] theorem updWalk_bal (s : State) (f : WalkSt → WalkSt) : (s.updWalk f).bal = s.bal := rfl
@[simp] theorem updWalk_diag (s : State) (f : WalkSt → WalkSt) : (s.updWalk f).diag = s.diag := rfl
@[simp] theorem updWalk_glean (s : State) (f : WalkSt → WalkSt) : (s.updWalk f).glean = s.glean := rfl
@[simp] theorem updWalk_expo (s : State) (f : WalkSt → WalkSt) : (s.updWalk f).expo = s.expo := rfl
@[simp] theorem updWalk_power (s : State) (f : WalkSt → WalkSt) : (s.updWalk f).power = s.power := rfl
@[simp] theorem updWalk_wire (s : State) (f : WalkSt → WalkSt) : (s.updWalk f).wire = s.wire := rfl
@[simp] theorem updWalk_bist (s : State) (f : WalkSt → WalkSt) : (s.updWalk f).bist = s.bist := rfl
@[simp] theorem updWalk_kept (s : State) (f : WalkSt → WalkSt) : (s.updWalk f).kept = s.kept := rfl
@[simp] theorem updWalk_granary (s : State) (f : WalkSt → WalkSt) : (s.updWalk f).granary = s.granary := rfl

@[simp] theorem updCommit_pending (s : State) (f : CommitSt → CommitSt) : (s.updCommit f).pending = s.pending := rfl
@[simp] theorem updCommit_free (s : State) (f : CommitSt → CommitSt) : (s.updCommit f).free = s.free := rfl
@[simp] theorem updCommit_reply (s : State) (f : CommitSt → CommitSt) : (s.updCommit f).reply = s.reply := rfl
@[simp] theorem updCommit_out (s : State) (f : CommitSt → CommitSt) : (s.updCommit f).out = s.out := rfl
@[simp] theorem updCommit_clk (s : State) (f : CommitSt → CommitSt) : (s.updCommit f).clk = s.clk := rfl
@[simp] theorem updCommit_ident (s : State) (f : CommitSt → CommitSt) : (s.updCommit f).ident = s.ident := rfl
@[simp] theorem updCommit_mode (s : State) (f : CommitSt → CommitSt) : (s.updCommit f).mode = s.mode := rfl
@[simp] theorem updCommit_fault (s : State) (f : CommitSt → CommitSt) : (s.updCommit f).fault = s.fault := rfl
@[simp] theorem updCommit_wdog (s : State) (f : CommitSt → CommitSt) : (s.updCommit f).wdog = s.wdog := rfl
@[simp] theorem updCommit_clocks (s : State) (f : CommitSt → CommitSt) : (s.updCommit f).clocks = s.clocks := rfl
@[simp] theorem updCommit_hostWd (s : State) (f : CommitSt → CommitSt) : (s.updCommit f).hostWd = s.hostWd := rfl
@[simp] theorem updCommit_checks (s : State) (f : CommitSt → CommitSt) : (s.updCommit f).checks = s.checks := rfl
@[simp] theorem updCommit_flash (s : State) (f : CommitSt → CommitSt) : (s.updCommit f).flash = { s.flash with commit := f s.flash.commit } := rfl
@[simp] theorem updCommit_dbg (s : State) (f : CommitSt → CommitSt) : (s.updCommit f).dbg = s.dbg := rfl
@[simp] theorem updCommit_ports (s : State) (f : CommitSt → CommitSt) : (s.updCommit f).ports = s.ports := rfl
@[simp] theorem updCommit_legacy (s : State) (f : CommitSt → CommitSt) : (s.updCommit f).legacy = s.legacy := rfl
@[simp] theorem updCommit_cmdRefs (s : State) (f : CommitSt → CommitSt) : (s.updCommit f).cmdRefs = s.cmdRefs := rfl
@[simp] theorem updCommit_tree (s : State) (f : CommitSt → CommitSt) : (s.updCommit f).tree = s.tree := rfl
@[simp] theorem updCommit_host (s : State) (f : CommitSt → CommitSt) : (s.updCommit f).host = s.host := rfl
@[simp] theorem updCommit_safety (s : State) (f : CommitSt → CommitSt) : (s.updCommit f).safety = s.safety := rfl
@[simp] theorem updCommit_sweep (s : State) (f : CommitSt → CommitSt) : (s.updCommit f).sweep = s.sweep := rfl
@[simp] theorem updCommit_cells (s : State) (f : CommitSt → CommitSt) : (s.updCommit f).cells = s.cells := rfl
@[simp] theorem updCommit_survey (s : State) (f : CommitSt → CommitSt) : (s.updCommit f).survey = s.survey := rfl
@[simp] theorem updCommit_bal (s : State) (f : CommitSt → CommitSt) : (s.updCommit f).bal = s.bal := rfl
@[simp] theorem updCommit_diag (s : State) (f : CommitSt → CommitSt) : (s.updCommit f).diag = s.diag := rfl
@[simp] theorem updCommit_glean (s : State) (f : CommitSt → CommitSt) : (s.updCommit f).glean = s.glean := rfl
@[simp] theorem updCommit_expo (s : State) (f : CommitSt → CommitSt) : (s.updCommit f).expo = s.expo := rfl
@[simp] theorem updCommit_power (s : State) (f : CommitSt → CommitSt) : (s.updCommit f).power = s.power := rfl
@[simp] theorem updCommit_wire (s : State) (f : CommitSt → CommitSt) : (s.updCommit f).wire = s.wire := rfl
@[simp] theorem updCommit_bist (s : State) (f : CommitSt → CommitSt) : (s.updCommit f).bist = s.bist := rfl
@[simp] theorem updCommit_kept (s : State) (f : CommitSt → CommitSt) : (s.updCommit f).kept = s.kept := rfl
@[simp] theorem updCommit_granary (s : State) (f : CommitSt → CommitSt) : (s.updCommit f).granary = s.granary := rfl

@[simp] theorem emitAll_pending (s : State) (es : List OutEvt) : (s.emitAll es).pending = s.pending := rfl
@[simp] theorem emitAll_free (s : State) (es : List OutEvt) : (s.emitAll es).free = s.free := rfl
@[simp] theorem emitAll_reply (s : State) (es : List OutEvt) : (s.emitAll es).reply = s.reply := rfl
@[simp] theorem emitAll_out (s : State) (es : List OutEvt) : (s.emitAll es).out = s.out ++ es := rfl
@[simp] theorem emitAll_clk (s : State) (es : List OutEvt) : (s.emitAll es).clk = s.clk := rfl
@[simp] theorem emitAll_ident (s : State) (es : List OutEvt) : (s.emitAll es).ident = s.ident := rfl
@[simp] theorem emitAll_mode (s : State) (es : List OutEvt) : (s.emitAll es).mode = s.mode := rfl
@[simp] theorem emitAll_fault (s : State) (es : List OutEvt) : (s.emitAll es).fault = s.fault := rfl
@[simp] theorem emitAll_wdog (s : State) (es : List OutEvt) : (s.emitAll es).wdog = s.wdog := rfl
@[simp] theorem emitAll_clocks (s : State) (es : List OutEvt) : (s.emitAll es).clocks = s.clocks := rfl
@[simp] theorem emitAll_hostWd (s : State) (es : List OutEvt) : (s.emitAll es).hostWd = s.hostWd := rfl
@[simp] theorem emitAll_checks (s : State) (es : List OutEvt) : (s.emitAll es).checks = s.checks := rfl
@[simp] theorem emitAll_flash (s : State) (es : List OutEvt) : (s.emitAll es).flash = s.flash := rfl
@[simp] theorem emitAll_dbg (s : State) (es : List OutEvt) : (s.emitAll es).dbg = s.dbg := rfl
@[simp] theorem emitAll_ports (s : State) (es : List OutEvt) : (s.emitAll es).ports = s.ports := rfl
@[simp] theorem emitAll_legacy (s : State) (es : List OutEvt) : (s.emitAll es).legacy = s.legacy := rfl
@[simp] theorem emitAll_cmdRefs (s : State) (es : List OutEvt) : (s.emitAll es).cmdRefs = s.cmdRefs := rfl
@[simp] theorem emitAll_tree (s : State) (es : List OutEvt) : (s.emitAll es).tree = s.tree := rfl
@[simp] theorem emitAll_host (s : State) (es : List OutEvt) : (s.emitAll es).host = s.host := rfl
@[simp] theorem emitAll_safety (s : State) (es : List OutEvt) : (s.emitAll es).safety = s.safety := rfl
@[simp] theorem emitAll_sweep (s : State) (es : List OutEvt) : (s.emitAll es).sweep = s.sweep := rfl
@[simp] theorem emitAll_cells (s : State) (es : List OutEvt) : (s.emitAll es).cells = s.cells := rfl
@[simp] theorem emitAll_survey (s : State) (es : List OutEvt) : (s.emitAll es).survey = s.survey := rfl
@[simp] theorem emitAll_bal (s : State) (es : List OutEvt) : (s.emitAll es).bal = s.bal := rfl
@[simp] theorem emitAll_diag (s : State) (es : List OutEvt) : (s.emitAll es).diag = s.diag := rfl
@[simp] theorem emitAll_glean (s : State) (es : List OutEvt) : (s.emitAll es).glean = s.glean := rfl
@[simp] theorem emitAll_expo (s : State) (es : List OutEvt) : (s.emitAll es).expo = s.expo := rfl
@[simp] theorem emitAll_power (s : State) (es : List OutEvt) : (s.emitAll es).power = s.power := rfl
@[simp] theorem emitAll_wire (s : State) (es : List OutEvt) : (s.emitAll es).wire = s.wire := rfl
@[simp] theorem emitAll_bist (s : State) (es : List OutEvt) : (s.emitAll es).bist = s.bist := rfl
@[simp] theorem emitAll_kept (s : State) (es : List OutEvt) : (s.emitAll es).kept = s.kept := rfl
@[simp] theorem emitAll_granary (s : State) (es : List OutEvt) : (s.emitAll es).granary = s.granary := rfl

@[simp] theorem tookAdm_pending (s : State) : (s.tookAdm).pending = s.pending := rfl
@[simp] theorem tookAdm_free (s : State) : (s.tookAdm).free = s.free := rfl
@[simp] theorem tookAdm_reply (s : State) : (s.tookAdm).reply = s.reply := rfl
@[simp] theorem tookAdm_out (s : State) : (s.tookAdm).out = s.out := rfl
@[simp] theorem tookAdm_clk (s : State) : (s.tookAdm).clk = s.clk := rfl
@[simp] theorem tookAdm_ident (s : State) : (s.tookAdm).ident = s.ident := rfl
@[simp] theorem tookAdm_mode (s : State) : (s.tookAdm).mode = s.mode := rfl
@[simp] theorem tookAdm_fault (s : State) : (s.tookAdm).fault = s.fault := rfl
@[simp] theorem tookAdm_wdog (s : State) : (s.tookAdm).wdog = s.wdog := rfl
@[simp] theorem tookAdm_clocks (s : State) : (s.tookAdm).clocks = s.clocks := rfl
@[simp] theorem tookAdm_hostWd (s : State) : (s.tookAdm).hostWd = s.hostWd := rfl
@[simp] theorem tookAdm_checks (s : State) : (s.tookAdm).checks = s.checks := rfl
@[simp] theorem tookAdm_flash (s : State) : (s.tookAdm).flash = s.flash := rfl
@[simp] theorem tookAdm_dbg (s : State) : (s.tookAdm).dbg = s.dbg := rfl
@[simp] theorem tookAdm_ports (s : State) : (s.tookAdm).ports = s.ports := rfl
@[simp] theorem tookAdm_legacy (s : State) : (s.tookAdm).legacy = s.legacy := rfl
@[simp] theorem tookAdm_cmdRefs (s : State) : (s.tookAdm).cmdRefs = s.cmdRefs := rfl
@[simp] theorem tookAdm_tree (s : State) : (s.tookAdm).tree = s.tree := rfl
@[simp] theorem tookAdm_host (s : State) : (s.tookAdm).host = s.host := rfl
@[simp] theorem tookAdm_safety (s : State) : (s.tookAdm).safety = s.safety := rfl
@[simp] theorem tookAdm_sweep (s : State) : (s.tookAdm).sweep = s.sweep := rfl
@[simp] theorem tookAdm_cells (s : State) : (s.tookAdm).cells = s.cells := rfl
@[simp] theorem tookAdm_survey (s : State) : (s.tookAdm).survey = s.survey := rfl
@[simp] theorem tookAdm_bal (s : State) : (s.tookAdm).bal = s.bal := rfl
@[simp] theorem tookAdm_diag (s : State) : (s.tookAdm).diag = s.diag := rfl
@[simp] theorem tookAdm_glean (s : State) : (s.tookAdm).glean = { s.glean with nextAdm := s.glean.nextAdm + 1 } := rfl
@[simp] theorem tookAdm_expo (s : State) : (s.tookAdm).expo = s.expo := rfl
@[simp] theorem tookAdm_power (s : State) : (s.tookAdm).power = s.power := rfl
@[simp] theorem tookAdm_wire (s : State) : (s.tookAdm).wire = s.wire := rfl
@[simp] theorem tookAdm_bist (s : State) : (s.tookAdm).bist = s.bist := rfl
@[simp] theorem tookAdm_kept (s : State) : (s.tookAdm).kept = s.kept := rfl
@[simp] theorem tookAdm_granary (s : State) : (s.tookAdm).granary = s.granary := rfl

@[simp] theorem updCell_pending (s : State) (n : Nat) (f : CellSt → CellSt) : (s.updCell n f).pending = s.pending := by unfold State.updCell; split <;> rfl
@[simp] theorem updCell_free (s : State) (n : Nat) (f : CellSt → CellSt) : (s.updCell n f).free = s.free := by unfold State.updCell; split <;> rfl
@[simp] theorem updCell_reply (s : State) (n : Nat) (f : CellSt → CellSt) : (s.updCell n f).reply = s.reply := by unfold State.updCell; split <;> rfl
@[simp] theorem updCell_out (s : State) (n : Nat) (f : CellSt → CellSt) : (s.updCell n f).out = s.out := by unfold State.updCell; split <;> rfl
@[simp] theorem updCell_clk (s : State) (n : Nat) (f : CellSt → CellSt) : (s.updCell n f).clk = s.clk := by unfold State.updCell; split <;> rfl
@[simp] theorem updCell_ident (s : State) (n : Nat) (f : CellSt → CellSt) : (s.updCell n f).ident = s.ident := by unfold State.updCell; split <;> rfl
@[simp] theorem updCell_mode (s : State) (n : Nat) (f : CellSt → CellSt) : (s.updCell n f).mode = s.mode := by unfold State.updCell; split <;> rfl
@[simp] theorem updCell_fault (s : State) (n : Nat) (f : CellSt → CellSt) : (s.updCell n f).fault = s.fault := by unfold State.updCell; split <;> rfl
@[simp] theorem updCell_wdog (s : State) (n : Nat) (f : CellSt → CellSt) : (s.updCell n f).wdog = s.wdog := by unfold State.updCell; split <;> rfl
@[simp] theorem updCell_clocks (s : State) (n : Nat) (f : CellSt → CellSt) : (s.updCell n f).clocks = s.clocks := by unfold State.updCell; split <;> rfl
@[simp] theorem updCell_hostWd (s : State) (n : Nat) (f : CellSt → CellSt) : (s.updCell n f).hostWd = s.hostWd := by unfold State.updCell; split <;> rfl
@[simp] theorem updCell_checks (s : State) (n : Nat) (f : CellSt → CellSt) : (s.updCell n f).checks = s.checks := by unfold State.updCell; split <;> rfl
@[simp] theorem updCell_flash (s : State) (n : Nat) (f : CellSt → CellSt) : (s.updCell n f).flash = s.flash := by unfold State.updCell; split <;> rfl
@[simp] theorem updCell_dbg (s : State) (n : Nat) (f : CellSt → CellSt) : (s.updCell n f).dbg = s.dbg := by unfold State.updCell; split <;> rfl
@[simp] theorem updCell_ports (s : State) (n : Nat) (f : CellSt → CellSt) : (s.updCell n f).ports = s.ports := by unfold State.updCell; split <;> rfl
@[simp] theorem updCell_legacy (s : State) (n : Nat) (f : CellSt → CellSt) : (s.updCell n f).legacy = s.legacy := by unfold State.updCell; split <;> rfl
@[simp] theorem updCell_cmdRefs (s : State) (n : Nat) (f : CellSt → CellSt) : (s.updCell n f).cmdRefs = s.cmdRefs := by unfold State.updCell; split <;> rfl
@[simp] theorem updCell_tree (s : State) (n : Nat) (f : CellSt → CellSt) : (s.updCell n f).tree = s.tree := by unfold State.updCell; split <;> rfl
@[simp] theorem updCell_host (s : State) (n : Nat) (f : CellSt → CellSt) : (s.updCell n f).host = s.host := by unfold State.updCell; split <;> rfl
@[simp] theorem updCell_safety (s : State) (n : Nat) (f : CellSt → CellSt) : (s.updCell n f).safety = s.safety := by unfold State.updCell; split <;> rfl
@[simp] theorem updCell_sweep (s : State) (n : Nat) (f : CellSt → CellSt) : (s.updCell n f).sweep = s.sweep := by unfold State.updCell; split <;> rfl
@[simp] theorem updCell_survey (s : State) (n : Nat) (f : CellSt → CellSt) : (s.updCell n f).survey = s.survey := by unfold State.updCell; split <;> rfl
@[simp] theorem updCell_bal (s : State) (n : Nat) (f : CellSt → CellSt) : (s.updCell n f).bal = s.bal := by unfold State.updCell; split <;> rfl
@[simp] theorem updCell_diag (s : State) (n : Nat) (f : CellSt → CellSt) : (s.updCell n f).diag = s.diag := by unfold State.updCell; split <;> rfl
@[simp] theorem updCell_glean (s : State) (n : Nat) (f : CellSt → CellSt) : (s.updCell n f).glean = s.glean := by unfold State.updCell; split <;> rfl
@[simp] theorem updCell_expo (s : State) (n : Nat) (f : CellSt → CellSt) : (s.updCell n f).expo = s.expo := by unfold State.updCell; split <;> rfl
@[simp] theorem updCell_power (s : State) (n : Nat) (f : CellSt → CellSt) : (s.updCell n f).power = s.power := by unfold State.updCell; split <;> rfl
@[simp] theorem updCell_wire (s : State) (n : Nat) (f : CellSt → CellSt) : (s.updCell n f).wire = s.wire := by unfold State.updCell; split <;> rfl
@[simp] theorem updCell_bist (s : State) (n : Nat) (f : CellSt → CellSt) : (s.updCell n f).bist = s.bist := by unfold State.updCell; split <;> rfl
@[simp] theorem updCell_kept (s : State) (n : Nat) (f : CellSt → CellSt) : (s.updCell n f).kept = s.kept := by unfold State.updCell; split <;> rfl
@[simp] theorem updCell_granary (s : State) (n : Nat) (f : CellSt → CellSt) : (s.updCell n f).granary = s.granary := by unfold State.updCell; split <;> rfl

/-! ### Lists indexed by number -/

@[simp] theorem updAt_length {α : Type} (l : List α) (i : Nat) (f : α → α) : (updAt l i f).length = l.length := by
  unfold updAt
  split <;> simp

theorem updAt_getD_self {α : Type} (l : List α) (i : Nat) (f : α → α) (d : α) (h : i < l.length) :
    (updAt l i f).getD i d = f (l.getD i d) := by
  simp [updAt, List.getD, h]

theorem updAt_getD_ne {α : Type} (l : List α) (i j : Nat) (f : α → α) (d : α) (h : i ≠ j) :
    (updAt l i f).getD j d = l.getD j d := by
  unfold updAt
  split <;> simp [List.getD, List.getElem?_set_ne h]

/-- The port that an update names, where the device has it. -/
theorem updPort_port_self (s : State) (p : Nat) (f : PortSt → PortSt) (h : p < s.ports.length) :
    (s.updPort p f).port p = f (s.port p) := updAt_getD_self _ _ _ _ h

/-- Any other port. -/
theorem updPort_port_ne (s : State) (p q : Nat) (f : PortSt → PortSt) (h : p ≠ q) : (s.updPort p f).port q = s.port q :=
  updAt_getD_ne _ _ _ _ _ h

theorem updSq_sq_self (s : State) (r : Nat) (f : SqSt → SqSt) (h : r < s.host.sq.length) : (s.updSq r f).sq r = f (s.sq r) :=
  updAt_getD_self _ _ _ _ h

theorem updSq_sq_ne (s : State) (r k : Nat) (f : SqSt → SqSt) (h : r ≠ k) : (s.updSq r f).sq k = s.sq k := updAt_getD_ne _ _ _ _ _ h

theorem updCq_cq_self (s : State) (c : Nat) (f : CqSt → CqSt) (h : c < s.host.cq.length) : (s.updCq c f).cq c = f (s.cq c) :=
  updAt_getD_self _ _ _ _ h

theorem updCq_cq_ne (s : State) (c k : Nat) (f : CqSt → CqSt) (h : c ≠ k) : (s.updCq c f).cq k = s.cq k := updAt_getD_ne _ _ _ _ _ h

theorem updPool_pool_self (s : State) (p : Nat) (f : PoolSt → PoolSt) (h : p < s.host.pool.length) :
    (s.updPool p f).pool p = f (s.pool p) := updAt_getD_self _ _ _ _ h

theorem updPool_pool_ne (s : State) (p k : Nat) (f : PoolSt → PoolSt) (h : p ≠ k) : (s.updPool p f).pool k = s.pool k :=
  updAt_getD_ne _ _ _ _ _ h

theorem updGleaner_gleaner_self (s : State) (g : Nat) (f : GleanerSt → GleanerSt) (h : g < s.glean.gleaners.length) :
    (s.updGleaner g f).gleaner g = f (s.gleaner g) := updAt_getD_self _ _ _ _ h

theorem updGleaner_gleaner_ne (s : State) (g k : Nat) (f : GleanerSt → GleanerSt) (h : g ≠ k) :
    (s.updGleaner g f).gleaner k = s.gleaner k := updAt_getD_ne _ _ _ _ _ h

/-! ### exec -/

/-- A command built by run answers the next state whose effect is f, with the queue of waiting commands as it was. -/
theorem run_answers (f : State → State) (s : State) : run f s = .next { f s.begin with pending := s.pending } := rfl

/-- A command whose effect keeps the queue answers f of the state it starts from. -/
theorem run_answers_of_pending (f : State → State) (s : State) (h : (f s.begin).pending = s.pending) : run f s = .next (f s.begin) := by
  rw [run_answers, ← h]

theorem runL_answers (f : State → State) (s : State) : runL f s = .next { (f s.begin).flush with pending := s.pending } := rfl

@[simp] theorem when_true (f : State → State) (s : State) : when_ true f s = f s := rfl
@[simp] theorem when_false (f : State → State) (s : State) : when_ false f s = s := rfl

end Sys2Proof.Machine
end

