-- ==== Sys2Proof/Tests/Slice0.lean ====
section
/-! SUPPORT. Tests of the model: worked figures of the spec, one ill-formed operand for each check of WellFormed, and for every
statement of Certificates/Slice0/Obligations.lean states and operands that meet its hypotheses, clause by clause. -/

namespace Sys2Proof.Tests
open Sys2Proof Sys2Proof.Machine

-- one theorem at a time: a kernel evaluation for each of many threads would need more memory than the check gives
set_option Elab.async false

/-! ### States to start from -/

/-- The wall clock of the states below. -/
abbrev T : Nat := 100000000000000

def upPort : PortSt := { PortSt.reset with fn := .running, link := .up }

/-- A stack-mounted LEAF with three tiers, released and in QUIET. -/
def unit : State := { State.reset with
  mode.mode := .quiet, ident.tiers := 3, clk.wall := T, clk.tt := 10000000000000, clk.treeOn := true, sweep.par.mask := 2 ^ 48 - 1 }

def rings (q : SqSt) : List SqSt := List.replicate 255 SqSt.reset ++ [q]

/-- A ROOT whose rings 0 are RUNNING. -/
def rootUnit : State := { unit with
  ident.role := .root, host.perst := true, host.linkUp := true, host.refclk := true, host.enable := true, host.eventEn := true
  host.sq := { SqSt.reset with state := .running } :: List.replicate 255 SqSt.reset
  host.cq := { CqSt.reset with state := .running } :: List.replicate 255 CqSt.reset }

/-- A HUB at position 5, its parent on port A and the positions 6 to 9 under port B. -/
def hubUnit : State := { unit with
  ident.role := .hub, tree.valid := true, tree.pos := 5, tree.hi := 9
  ports := [upPort, { upPort with kid := some (6, 9) }, PortSt.reset, PortSt.reset] }

def hdr0 : Hdr := { ring := 0, cid := 0, flags := 0, pos := 0, depth := 0, pool := 255, timeout := 0 }

def frame0 (typ cls : Nat) (bs : List Byte) : Frame :=
  { typ := typ, cls := cls, hasScope := false, dest := 5, src := 0, depth := 0, tag := 0, payload := bs }

def rawCodes : RawCodes := default
def topo6 : TopoEntry := { (default : TopoEntry) with pos := 6 }

/-- A record keeps the CRC it is sealed with. -/
theorem sealed_intact (r : Rec) : r.sealed.intact = true := by
  unfold Rec.intact Rec.sealed Rec.body
  exact decide_eq_true rfl

/-- The 256 crier bits of a message of zeros, its CRC-8 off by e. -/
def crierBits (e : Byte) : List Bool :=
  ([0x96#8, 0x7E#8] ++ List.replicate 29 0#8 ++ [BitVec.ofNat 8 (crc8 (List.replicate 29 0#8)) + e]).flatMap
    (fun b => (List.range 8).map b.toNat.testBit)

/-! ### Ill-formed operands -/

def goodFrame : Frame := frame0 8 1 []
def goodArrival : Arrival := .port 3 63 true
def goodBus : WireBus := { tries := [], ids := [], leaves := [], confirm := [], noise := [] }
def badBuses : List WireBus :=
  [{ goodBus with tries := [{ fault := 4, after := none, presence := true, cells := [] }] }, { goodBus with ids := [2 ^ 64] }]
def badHeaders : List Hdr :=
  [{ hdr0 with ring := 256 }, { hdr0 with cid := 65536 }, { hdr0 with flags := 256 }, { hdr0 with pos := 262144 }
   , { hdr0 with depth := 256 }, { hdr0 with pool := 256 }, { hdr0 with timeout := 65536 }]
def badFrames : List Frame :=
  [{ goodFrame with typ := 16 }, { goodFrame with cls := 4 }, { goodFrame with dest := 262144 }, { goodFrame with src := 262144 }
   , { goodFrame with depth := 1 }, { goodFrame with hasScope := true, depth := 256 }, { goodFrame with tag := 65536 }
   , { goodFrame with payload := List.replicate 257 0 }]

theorem test_headers_out_of_range : badHeaders.all (fun h => !(Instr.nop h).wf) = true ∧ (Instr.nop hdr0).wf = true := by decide +kernel

theorem test_frames_out_of_range :
    badFrames.all (fun f => !(Instr.longFrameTransit goodArrival f).wf) = true
      ∧ (Instr.longFrameTransit (.port 4 0 true) goodFrame).wf = false ∧ (Instr.longFrameTransit (.port 0 64 true) goodFrame).wf = false
      ∧ (Instr.longFrameTransit goodArrival goodFrame).wf = true := by decide +kernel

theorem test_numbers_out_of_range : ([.portStop 4, .balanceTimerExpire 0, .balanceTimerExpire 49, .witnessCrossCheck 0 0,
    .witnessCrossCheck 4 0, .sqStop 256, .poolDisable 64, .transactionTimeout 4096, .wdogKey 65536, .wdogCheckin 16, .faultAck 32,
    .checkStart 4, .checkData8 0 256, .checkData16 0 65536, .checkData32 0 (2 ^ 32), .testOverdue 6, .testOverdue 10, .autoArm 0,
    .autoArm 3, .siContactChange 4 true, .clockMonitorWindow 12 0, .supplyOutOfLimits 0, .supplyReturn 11, .glean 16,
    .islandDisable 4, .jobFinish 0 (some 64), .breakpointHit 8 0 true, .hostReset (2 ^ 32), .surveyStart 65536 true,
    .bar0RegisterWrite 0 3 0, .bar0RegisterWrite 0 1 256, .linkRetrain 4 0 0 0] : List Instr).all (fun i => !i.wf) = true := by
  decide +kernel

theorem test_lists_out_of_range : ([.paramWrite hdr0 0 (List.replicate 9 0), .paramWrite hdr0 0 [2 ^ 32],
    .flashLoad hdr0 0 (List.replicate 65537 0), .wireWriteMem hdr0 0 0 (List.replicate 33 0) goodBus,
    .auxCodesReady [] 0, .tierChannelFrameReceive 0 true ⟨[], [], []⟩, .sweepRecordComplete [] 0 none,
    .tierCodesAvailable { cells := [], is1 := 0, is2 := 0, bbar := [] },
    .lamplighterRound [] [] [], .bistStart BistWorld.none, .poolTailWrite 0 0 [(7, 1), (7, 1)],
    .poolTailWrite 0 0 [(2 ^ 64, 1)]] : List Instr).all (fun i => !i.wf) = true
      ∧ badBuses.all (fun b => !(Instr.wireSearch hdr0 b).wf) = true ∧ (Instr.wireSearch hdr0 goodBus).wf = true := by decide +kernel

/-! ### Worked figures -/

def nine : List Byte := [0x31, 0x32, 0x33, 0x34, 0x35, 0x36, 0x37, 0x38, 0x39]

/-- 11 Table 11.6: the four algorithms over "123456789". -/
theorem test_check_values :
    [0, 1, 2, 3].map (fun k => crcOf k nine) = [0xCBF43926, 0xE3069283, 0x29B1, 0xDF] := by decide +kernel

/-- 11 Table 11.7: the unit that has taken "123456789" with LENGTH 9 passes; with LENGTH 10 it ends SHORT. -/
def fedUnit (n : Nat) : State := { unit with checks := List.replicate 4 { CheckSt.reset with
  state := .stopping, lSel := 1, lExpect := 0xE3069283, lLength := n, count := 9, reg := nine.foldl (crcStep 1) 0xFFFFFFFF } }

theorem test_check_unit_passes : (match exec (.checkOutcome 2) (fedUnit 9) with
    | .next t => ((t.chk 2).result, (t.chk 2).outcome, t.fault.evq.length)
    | _ => (0, 0, 9)) = (0xE3069283, 1, 0) := by decide +kernel

theorem test_check_unit_short : (match exec (.checkOutcome 2) (fedUnit 10) with
    | .next t => ((t.chk 2).result, (t.chk 2).outcome, t.fault.evq.map FaultEvt.id)
    | _ => (0, 0, [])) = (0xE3069283, 3, [17]) := by decide +kernel

/-- 02, the choice of a corner: code 5 settles in 11.71875 ms, its window is twice t_gd. -/
theorem test_window_of_code_5 : 2 * tgd 5 = 240000 := by decide +kernel

/-- 04 Table 4.1: ten of 48 equal cells in the first slot, the pointer then at 11. -/
def fullBalance : State := { unit with
  bal.fn := .running, bal.lEnable := 2 ^ 48 - 1, bal.lLimit := 1200
  cells := List.replicate 48 { CellSt.reset with
    remain := 3600 * 5120000, vLast := some 330000, raw := 330000, proof := 2200
    rPath := { v := 12000, ok := true }, rOn := { v := 1500, ok := true } } }

theorem test_governor_rotation : (match exec .governorSlot fullBalance with
    | .next t => (t.bal.allowed, t.bal.pointer)
    | _ => (0, 0)) = (2 ^ 10 - 1, 11) := by decide +kernel

/-- 17 Table 17.5: the identity block of a HUB with three tiers and WDT_HWSTART blown. -/
theorem test_identity_block : [0, 4, 8, 0xC, 0x10, 0x14, 0x18].map { hubUnit with ident.wdtHwstart := true }.readValue
    = [0x4800, 0x10, 0x5E2107A3, 0xC14D, 3, 1, 1] := by decide +kernel

/-- 12 and 01: right after reset MODE.STATE reads BIST. -/
theorem test_reset_mode : State.reset.readValue 0x100 % 16 = 4 := by decide +kernel

/-- A write of MODE.REQUEST with another code's key is DENIED (14 R372). -/
theorem test_reset_key : (match exec (.modeResetRequest 0) unit with
    | .next t => t.reply.map Reply.status
    | _ => none) = some stDenied := by decide +kernel

/-- 10 R286: the digest of passcode 0 with the UID of the unit. -/
theorem test_factory_digest : sha256 (le 8 0 ++ le 8 IdentSt.new.uid) = factoryDigest := by decide +kernel

/-! ### The image of a new device -/

/-- A left fold whose accumulator is looked at in every step, so that the kernel holds a number and no growing term. -/
def foldF (f : Nat → Byte → Nat) : List Byte → Nat → Nat
  | [], a => a
  | b :: bs, a => if a = 0 then foldF f bs (f 0 b) else foldF f bs (f a b)

theorem foldl_eq_foldF (f : Nat → Byte → Nat) : ∀ (bs : List Byte) (a : Nat), bs.foldl f a = foldF f bs a
  | [], _ => rfl
  | b :: bs, a => by
    rw [List.foldl_cons, foldl_eq_foldF f bs, foldF]
    split
    · rename_i h
      rw [h]
    · rfl

theorem mread_nil (a : Nat) : ∀ j, mread flashByte [] a j = List.replicate j flashByte
  | 0 => rfl
  | j + 1 => by rw [mread, mread_nil (a + 1) j]; rfl

theorem mread_above (k a : Nat) (x : Byte) (m : Mem) : ∀ (n b : Nat), k < b → mread flashByte ((k, x) :: m) b n = mread flashByte m b n
  | 0, _, _ => rfl
  | n + 1, b, h => by
    rw [mread, mread, mread_above k a x m n (b + 1) (by omega), mget, if_neg (by omega), if_neg (by omega)]

theorem flashBytes_wf : ∀ (k a n lo : Nat), lo ≤ a → mwfFrom flashByte lo (flashBytes k a n) = true
  | 0, _, _, _, _ => rfl
  | k + 1, a, n, lo, h => by
    unfold flashBytes
    simp only
    split
    · exact flashBytes_wf k (a + 1) (n / 256) lo (by omega)
    · rename_i hn
      simp only [mwfFrom, Bool.and_eq_true, decide_eq_true_eq]
      refine ⟨⟨h, ?_⟩, flashBytes_wf k (a + 1) (n / 256) (a + 1) (le_refl _)⟩
      rw [Bool.not_eq_true', decide_eq_false_iff_not]
      intro hc
      apply hn
      have := congrArg BitVec.toNat hc
      simpa [flashByte] using this

/-- The bytes that a bank lists read back, and erased bytes behind them. -/
theorem mread_flashBytes : ∀ (k j a n : Nat), mread flashByte (flashBytes k a n) a (k + j) = le k n ++ List.replicate j flashByte
  | 0, j, a, n => by rw [flashBytes, Nat.zero_add, mread_nil]; rfl
  | k + 1, j, a, n => by
    have ih := mread_flashBytes k j (a + 1) (n / 256)
    have hw := flashBytes_wf k (a + 1) (n / 256) (a + 1) (le_refl _)
    rw [show k + 1 + j = (k + j) + 1 by omega, mread]
    unfold flashBytes
    simp only
    split
    · rename_i hn
      rw [ih, mget_below flashByte hw (by omega), le]
      have : flashByte = BitVec.ofNat 8 n := by
        apply BitVec.eq_of_toNat_eq
        simpa [flashByte] using hn.symm
      rw [this, List.cons_append]
    · rw [mread_above a a _ _ _ _ (by omega), ih, mget, if_pos rfl, le, List.cons_append]

theorem new_image : mread flashByte State.reset.flash.bank0 0 512 = le 256 newImageHeader ++ List.replicate 256 flashByte :=
  mread_flashBytes 256 256 0 newImageHeader

/-- The CRC-32C in the commit record is that of the image. -/
theorem test_new_image_crc : crc32c (mread flashByte State.reset.flash.bank0 0 512) = newRec.crc := by
  rw [new_image, crc32c, crcOf, foldl_eq_foldF]
  decide +kernel

/-- 16 Table 16.9: word 1,023 of the configuration is the CRC-32C of the others. -/
theorem test_default_config_crc : cfgOk (defaultConfig ++ [defaultConfigCrc]) = true := by
  rw [cfgOk, crc32c, crcOf, foldl_eq_foldF]
  decide +kernel

theorem new_image_digest :
    sha256 ((le 256 newImageHeader ++ List.replicate 256 flashByte).take 64 ++ List.replicate 64 0
      ++ (le 256 newImageHeader ++ List.replicate 256 flashByte).drop 128)
      = 115186973271596424133774474731308059944808409121683242367490719551325259843619 := by decide +kernel

theorem new_image_signature (e : Nat) (he : e = 115186973271596424133774474731308059944808409121683242367490719551325259843619) :
    ecdsaOk e 3865378232181912193596890086933759922903331283510397838945557624557826097500
      76178003595663522672861355871328538424263751883879648737673939936152289868499
      64183123401798463132666082665801514263394585880848792900756718051700801783856
      600483544326383254126879092482789613821577672604573750888535665535931095465 = true := by
  rw [he]
  decide +kernel

/-- 16 R409: the signature verifies under the key of slot 0. -/
theorem test_new_image_signature (s : State) (hd : s.flash.dataArea = State.reset.flash.dataArea) :
    signatureOk s State.reset.flash.bank0 = true := by
  have hk : fword State.reset.flash.bank0 6 1 = 0 := by decide +kernel
  have hl : imageLength State.reset.flash.bank0 = 512 := by decide +kernel
  unfold signatureOk keyOk
  simp only [hk, hl, hd, new_image]
  rw [Bool.and_eq_true]
  constructor
  · decide +kernel
  · rw [new_image_digest]
    have h1 : ofBe (slice (le 256 newImageHeader ++ List.replicate 256 flashByte) 64 32)
      = 3865378232181912193596890086933759922903331283510397838945557624557826097500 := by decide +kernel
    have h2 : ofBe (slice (le 256 newImageHeader ++ List.replicate 256 flashByte) 96 32)
      = 76178003595663522672861355871328538424263751883879648737673939936152289868499 := by decide +kernel
    have h3 : fword State.reset.flash.dataArea (slotAddr 0) 32
      = 64183123401798463132666082665801514263394585880848792900756718051700801783856 := by decide +kernel
    have h4 : fword State.reset.flash.dataArea (slotAddr 0 + 32) 32
      = 600483544326383254126879092482789613821577672604573750888535665535931095465 := by decide +kernel
    rw [h1, h2, h3, h4]
    exact new_image_signature _ rfl

/-! ### The hypotheses of the statements are met -/

theorem witness_StepKeepsTheQueueWellFormed :
    (∃ (s t : State), s.queueWf ∧ step s = .next t) :=
  ⟨unit, _, by unfold State.queueWf; decide +kernel, rfl⟩

theorem witness_EmptyQueueCountsOneCrystalPeriod :
    (∃ (s : State), s.pending = [] ∧ s.mode.resetAt = none ∧ s.mode.haltHeld = false ∧ s.tree.waiting = [] ∧ s.dbg.go = false) :=
  ⟨{ unit with pending := [], mode.resetAt := none, mode.haltHeld := false, tree.waiting := [], dbg.go := false }, by decide +kernel⟩

theorem witness_WatchdogKeysCheckInsAndStart :
    (∃ (s : State), s.coreRuns = true ∧ s.wdSuspended = false ∧ s.unpowered = false)
    ∧ (∃ (s : State), (s.wdSuspended = true ∨ s.clocks.testBit 0 = true ∨ s.flash.fetchStop = true))
    ∧ (∃ (s : State), s.barOpen = true)
    ∧ (∃ (s : State), s.reachable = true ∧ s.mode.mode ≠ .lockout ∧ s.wdog.running = false ∧ 1 ≤ s.wdog.openT ∧ s.wdog.openT <
      s.wdog.closeT)
    ∧ (∃ (s : State), s.reachable = true ∧ (s.wdog.running = true ∨ s.wdog.openT = 0 ∨ s.wdog.closeT ≤ s.wdog.openT))
    ∧ (∃ (s : State), s.barOpen = true ∧ s.hostWd.running = false ∧ 1 ≤ s.hostWd.openT ∧ s.hostWd.openT < s.hostWd.closeT)
    ∧ (∃ (s : State), s.barOpen = true ∧ (s.hostWd.running = true ∨ s.hostWd.openT = 0 ∨ s.hostWd.closeT ≤ s.hostWd.openT)) :=
  ⟨⟨unit, by decide +kernel⟩,
  ⟨{ unit with wdog.erasing := some 0 }, by decide +kernel⟩,
  ⟨rootUnit, by decide +kernel⟩,
  ⟨{ unit with wdog.openT := 1, wdog.closeT := 2, wdog.running := false }, by decide +kernel⟩,
  ⟨{ unit with wdog.running := false, wdog.openT := 2, wdog.closeT := 2 }, by decide +kernel⟩,
  ⟨{ rootUnit with hostWd.openT := 1, hostWd.closeT := 2, hostWd.running := false }, by decide +kernel⟩,
  ⟨{ rootUnit with hostWd.running := false, hostWd.openT := 2, hostWd.closeT := 2 }, by decide +kernel⟩⟩

theorem witness_WatchdogEdgesExpiryAndRearm :
    (∃ (s : State), s.unpowered = false ∧ s.wdog.running = true ∧ s.wdSuspended = false ∧ s.wdog.count ≠ s.wdog.winClose)
    ∧ (∃ (s : State), s.unpowered = false ∧ s.hostWd.running = true ∧ s.hostWd.count ≠ s.hostWd.winClose)
    ∧ (∃ (s : State), s.wdog.running = true ∧ s.wdSuspended = false ∧ s.unpowered = false ∧ s.wdog.count = s.wdog.winClose)
    ∧ (∃ (s : State), s.hostWd.running = true ∧ s.unpowered = false ∧ s.hostWd.count = s.hostWd.winClose)
    ∧ (∃ (s : State) (w : Nat), s.coreRuns = true ∧ s.wdog.erasing = some w ∧ s.clk.wall - w < 100 * ttMs ∧ s.flash.erases =
      [.data])
    ∧ (∃ (s : State) (w : Nat), s.coreRuns = true ∧ s.wdog.erasing = some w ∧ 100 * ttMs ≤ s.clk.wall - w) :=
  ⟨⟨{ unit with wdog.count := 999, wdog.running := true }, by decide +kernel⟩,
  ⟨{ unit with hostWd.count := 999, hostWd.running := true }, by decide +kernel⟩,
  ⟨{ unit with wdog.count := 1000, wdog.running := true }, by decide +kernel⟩,
  ⟨{ rootUnit with hostWd.count := 1000, hostWd.running := true }, by decide +kernel⟩,
  ⟨{ unit with flash.erases := [.data], wdog.erasing := some T }, T, by decide +kernel⟩,
  ⟨{ unit with wdog.erasing := some 7 }, 7, by decide +kernel⟩⟩

theorem witness_CollectorOpensTheRecord :
    (∃ (s : State) (e : FaultEvt) (l : List FaultEvt) (r : List FaultEvt), s.fault.running = true ∧ s.unpowered = false ∧
      s.fault.isOpen = false ∧ s.fault.evq = l ++ e :: r ∧ e.id < 32 ∧ s.fault.enable0.testBit e.id = true ∧ (∀ x ∈ l,
      s.fault.enable0.testBit x.id = true → e.id < x.id) ∧ (∀ x ∈ r, s.fault.enable0.testBit x.id = true → e.id ≤ x.id))
    ∧ (∃ (s : State), s.fault.running = true ∧ s.unpowered = false ∧ s.fault.isOpen = false ∧ (∀ x ∈ s.fault.evq,
      s.fault.enable0.testBit x.id = false))
    ∧ (∃ (s : State), s.fault.running = true ∧ s.unpowered = false ∧ s.fault.isOpen = true) :=
  ⟨⟨{ unit with fault.enable0 := 2 ^ 31, fault.running := true, fault.isOpen := false, fault.evq := ([{ id := 3, item := 0, time := 0, mode := 2 }]) ++ ({ id := 31, item := 0, time := 0, mode := 2 }) :: ([{ id := 31, item := 0, time := 0, mode := 2 }, { id := 0, item := 0, time := 0, mode := 2 }]) }, { id := 31, item := 0, time := 0, mode := 2 }, [{ id := 3, item := 0, time := 0, mode := 2 }], [{ id := 31, item := 0, time := 0, mode := 2 }, { id := 0, item := 0, time := 0, mode := 2 }], by decide +kernel⟩,
  ⟨{ unit with fault.enable0 := 1, fault.evq := [{ id := 31, item := 0, time := 0, mode := 2 }], fault.running := true, fault.isOpen := false }, by decide +kernel⟩,
  ⟨{ unit with fault.evq := [{ id := 31, item := 0, time := 0, mode := 2 }], fault.running := true, fault.isOpen := true }, by decide +kernel⟩⟩

theorem witness_EscalationAndAcknowledgement :
    (∃ (s : State), s.fault.isOpen = true ∧ s.fault.escalated = false ∧ s.fault.left = 0 ∧ s.mode.mode ∈ [.quiet, .run,
      .degraded])
    ∧ (∃ (s : State) (id : Nat), s.reachable = true ∧ s.mode.mode ≠ .lockout ∧ s.fault.isOpen = true ∧ s.fault.id = id ∧
      s.fault.left ≠ 0)
    ∧ (∃ (s : State), s.coreRuns = true ∧ s.mode.mode = .lockout) :=
  ⟨⟨{ unit with fault.isOpen := true, fault.escalated := false, fault.left := 0, mode.mode := .quiet }, by decide +kernel⟩,
  ⟨{ unit with fault.left := 1, fault.isOpen := true, fault.id := 5 }, 5, by decide +kernel⟩,
  ⟨{ unit with mode.mode := .lockout }, by decide +kernel⟩⟩

theorem witness_CheckUnitOperations :
    (∃ (s : State) (k : Nat) (c : CheckSt), s.checks[k]? = some c ∧ c.job = false ∧ s.reachable = true ∧ s.mode.mode ≠
      .lockout ∧ c.state = .stopped)
    ∧ (∃ (s : State) (k : Nat) (c : CheckSt), s.checks[k]? = some c ∧ c.job = false ∧ s.reachable = true ∧ s.mode.mode ≠
      .lockout ∧ c.state ≠ .stopped)
    ∧ (∃ (s : State) (k : Nat) (c : CheckSt), s.checks[k]? = some c ∧ c.job = false ∧ s.reachable = true ∧ s.mode.mode ≠
      .lockout ∧ c.state = .running)
    ∧ (∃ (s : State) (k : Nat) (c : CheckSt), s.checks[k]? = some c ∧ c.job = false ∧ s.reachable = true ∧ s.mode.mode ≠
      .lockout ∧ c.state = .stopping) :=
  ⟨⟨{ unit with checks := [CheckSt.reset, CheckSt.reset, CheckSt.reset, ({ CheckSt.reset with state := .stopped })] }, 3, { CheckSt.reset with state := .stopped }, by decide +kernel⟩,
  ⟨{ unit with checks := [CheckSt.reset, CheckSt.reset, CheckSt.reset, ({ CheckSt.reset with state := .running })] }, 3, { CheckSt.reset with state := .running }, by decide +kernel⟩,
  ⟨{ unit with checks := [CheckSt.reset, CheckSt.reset, CheckSt.reset, ({ CheckSt.reset with state := .running })] }, 3, { CheckSt.reset with state := .running }, by decide +kernel⟩,
  ⟨{ unit with checks := [CheckSt.reset, CheckSt.reset, CheckSt.reset, ({ CheckSt.reset with state := .stopping })] }, 3, { CheckSt.reset with state := .stopping }, by decide +kernel⟩⟩

theorem witness_ChargerStartsAndAdvances :
    (∃ (s : State), s.mayCharge = true ∧ (s.power.resTemp = -32768 ∨ (windowLo s.power.chem ≤ s.power.resTemp ∧
      s.power.resTemp ≤ windowHi s.power.chem)) ∧ s.power.chg = .wait ∧ s.power.vpwrGood = true ∧ 50 * ttMs ≤ s.clk.wall -
      s.power.goodAt)
    ∧ (∃ (s : State) (v : Nat), s.mayCharge = true ∧ (s.power.resTemp = -32768 ∨ (windowLo s.power.chem ≤ s.power.resTemp ∧
      s.power.resTemp ≤ windowHi s.power.chem)) ∧ s.power.chg = .done ∧ v + 100 < cvLevel s.power.chem s.power.vcv)
    ∧ (∃ (s : State), s.mayCharge = true ∧ (s.power.resTemp = -32768 ∨ (windowLo s.power.chem ≤ s.power.resTemp ∧
      s.power.resTemp ≤ windowHi s.power.chem)) ∧ s.power.chg = .fault ∧ s.power.missed = true ∧ 10 * ttS ≤ s.clk.wall -
      s.power.since)
    ∧ (∃ (s : State), s.power.chg = .precharge)
    ∧ (∃ (s : State), s.power.chg = .cc)
    ∧ (∃ (s : State), s.power.chg = .cv ∧ 100 * ttMs ≤ s.clk.wall - s.power.since)
    ∧ (∃ (s : State), s.power.chg = .done ∧ 60 * ttS ≤ s.clk.wall - s.power.since)
    ∧ (∃ (s : State) (fall : Nat), s.power.chg = .detect ∧ 20 * ttMs ≤ s.clk.wall - s.power.since ∧ fall < 200) :=
  ⟨⟨{ unit with power.en := true, power.chem := 1, power.goodAt := T - 50 * ttMs, power.chg := .wait, power.vpwrGood := true }, by decide +kernel⟩,
  ⟨{ unit with power.en := true, power.chem := 1, power.chg := .done }, cvLevel 1 0 - 101, by decide +kernel⟩,
  ⟨{ unit with power.en := true, power.chem := 1, power.since := T - 10 * ttS, power.chg := .fault, power.missed := true }, by decide +kernel⟩,
  ⟨{ unit with power.since := T - 0, power.chg := .precharge }, by decide +kernel⟩,
  ⟨{ unit with power.since := T - 0, power.chg := .cc }, by decide +kernel⟩,
  ⟨{ unit with power.since := T - 100 * ttMs, power.chg := .cv }, by decide +kernel⟩,
  ⟨{ unit with power.since := T - 60 * ttS, power.chg := .done }, by decide +kernel⟩,
  ⟨{ unit with power.since := T - 20 * ttMs, power.chg := .detect }, 199, by decide +kernel⟩⟩

theorem witness_ChargerFaultsWindowAndSharing :
    (∃ (s : State) (v : Nat), s.mode.mode ≠ .ship ∧ s.mode.mode ≠ .keep ∧ s.power.chg = .precharge ∧ 10 * ttS ≤ s.clk.wall -
      s.power.since ∧ v < 1000)
    ∧ (∃ (s : State) (v : Nat), s.mode.mode ≠ .ship ∧ s.mode.mode ≠ .keep ∧ s.power.chg = .precharge ∧ 1800 * ttS ≤ s.clk.wall
      - s.power.since ∧ v < preLevel s.power.chem)
    ∧ (∃ (s : State), s.mode.mode ≠ .ship ∧ s.mode.mode ≠ .keep ∧ (s.power.chg = .cc ∨ s.power.chg = .cv) ∧ s.power.timeoutH *
      3600 * ttS < s.clk.wall - s.power.fastFrom)
    ∧ (∃ (s : State) (v : Nat), s.mode.mode ≠ .ship ∧ s.mode.mode ≠ .keep ∧ s.power.chg = .detect ∧ 20 * ttMs ≤ s.clk.wall -
      s.power.since ∧ 200 ≤ v)
    ∧ (∃ (s : State) (x : Int), s.unpowered = false ∧ s.power.chem ≠ 0 ∧ s.power.chg = .cc ∧ (x < windowLo s.power.chem ∨
      windowHi s.power.chem < x))
    ∧ (∃ (s : State) (x : Int), s.unpowered = false ∧ s.power.chem ≠ 0 ∧ s.power.chg = .cc ∧ windowLo s.power.chem ≤ x ∧ x ≤
      windowHi s.power.chem)
    ∧ (∃ (s : State), s.power.shareOn = true)
    ∧ (∃ (s : State) (w : Nat), s.power.shareAt = some w ∧ s.shareAllowed = true ∧ ttS ≤ s.clk.wall - w)
    ∧ (∃ (s : State) (v : Nat), s.power.vpwrGood = false ∧ s.power.onVaux = false ∧ s.power.resOpen = false ∧ s.power.retained
      = true ∧ s.power.en = true ∧ s.power.chem ≠ 0 ∧ s.power.hold = false ∧ s.power.ntc = false ∧ (s.power.resTemp = -32768 ∨
      (windowLo s.power.chem ≤ s.power.resTemp ∧ s.power.resTemp ≤ windowHi s.power.chem)) ∧ v = (Config.freeWord
      s.free).toNat % 4096)
    ∧ (∃ (s : State), s.power.vpwrGood = false ∧ s.power.onVaux = false ∧ s.power.retained = false)
    ∧ (∃ (s : State), s.reachable = true ∧ s.power.contactDone = false ∧ s.power.tChg * ttS ≤ s.clk.wall - s.power.contact) :=
  ⟨⟨{ unit with power.since := T - 10 * ttS, power.chg := .precharge }, 999, by decide +kernel⟩,
  ⟨{ unit with power.since := T - 1800 * ttS, power.chg := .precharge }, preLevel 0 - 1, by decide +kernel⟩,
  ⟨{ unit with power.chg := .cc, power.fastFrom := T - 36000 * ttS - 1 }, by decide +kernel⟩,
  ⟨{ unit with power.since := T - 20 * ttMs, power.chg := .detect }, 200, by decide +kernel⟩,
  ⟨{ unit with power.chem := 1, power.chg := .cc }, windowHi 1 + 1, by decide +kernel⟩,
  ⟨{ unit with power.chem := 1, power.chg := .cc }, windowHi 1, by decide +kernel⟩,
  ⟨{ unit with power.shareOn := true }, by decide +kernel⟩,
  ⟨{ unit with power.shareEn := true, power.shareAt := some (T - ttS) }, T - ttS, by decide +kernel⟩,
  ⟨{ unit with power.chem := 1, power.vpwrGood := false, power.onVaux := false, power.resOpen := false, power.retained := true, power.en := true, power.hold := false, power.ntc := false }, (Config.freeWord 0).toNat % 4096, by decide +kernel, by decide +kernel, by decide +kernel, by decide +kernel, by decide +kernel, by decide +kernel, by decide +kernel, by decide +kernel, by decide +kernel, rfl⟩,
  ⟨{ unit with power.vpwrGood := false, power.onVaux := false, power.retained := false }, by decide +kernel⟩,
  ⟨{ unit with power.contact := T - 60 * ttS, power.contactDone := false }, by decide +kernel⟩⟩

theorem witness_SupplyConditions :
    (∃ (s : State) (item : Nat), s.unpowered = false ∧ 1 ≤ item ∧ item ≤ 4 ∧ item ∉ s.power.supply)
    ∧ (∃ (s : State), s.unpowered = false ∧ s.mode.station = false ∧ s.power.hvinOk = true ∧ s.power.stageHv = true ∧ 8 ∉
      s.power.supply)
    ∧ (∃ (s : State) (item : Nat), s.mode.mode ≠ .ship ∧ item ≠ 8 ∧ item ≠ 9)
    ∧ (∃ (s : State), s.mode.mode ≠ .ship ∧ s.power.onVaux = false)
    ∧ (∃ (s : State), s.power.vauxSt = true ∧ (s.mode.station = false ∨ s.unpowered = true))
    ∧ (∃ (s : State), s.power.vauxSt = true ∧ s.mode.station = true ∧ s.unpowered = false ∧ 9 ∉ s.power.supply)
    ∧ (∃ (s : State), s.power.vauxSt = false ∧ s.power.vauxSh = true ∧ s.power.onVaux = true)
    ∧ (∃ (s : State) (tier : Nat), s.reachable = true ∧ 1 ≤ tier ∧ tier ≤ 3 ∧ s.ident.tiers < tier ∧ 10 ∉ s.power.supply) :=
  ⟨⟨unit, 4, by decide +kernel⟩,
  ⟨{ unit with mode.station := false, power.hvinOk := true, power.stageHv := true }, by decide +kernel⟩,
  ⟨unit, 5, by decide +kernel⟩,
  ⟨{ unit with power.onVaux := false }, by decide +kernel⟩,
  ⟨{ unit with power.vauxSt := true }, by decide +kernel⟩,
  ⟨{ unit with power.vauxSt := true, mode.station := true }, by decide +kernel⟩,
  ⟨{ unit with power.vauxSt := false, power.vauxSh := true, power.onVaux := true }, by decide +kernel⟩,
  ⟨{ unit with ident.tiers := 2 }, 3, by decide +kernel⟩⟩

theorem witness_PowerPathKeepIslandAndStage :
    (∃ (s : State), s.power.vpwrGood = true ∧ s.unpowered = false)
    ∧ (∃ (s : State), s.mode.mode ∈ [.keep, .ship, .bist] ∧ s.power.vpwrGood = false ∧ s.power.stageOn = true ∧ s.power.lpAt =
      none ∧ 2 * ttMs ≤ s.clk.wall - s.power.pgFrom)
    ∧ (∃ (s : State), s.mode.mode = .keep ∧ s.power.vpwrGood = false ∧ s.mode.cause ≠ 2 ∧ s.mode.cause ≠ 3)
    ∧ (∃ (s : State) (byWake : Bool), s.mode.mode = .ship ∧ s.power.stageOn = false ∧ s.power.lpAt = none ∧ (byWake = true ∨
      s.power.vauxSt = false))
    ∧ (∃ (s : State) (byWake : Bool), s.mode.mode = .ship ∧ byWake = false ∧ s.power.vauxSt = true)
    ∧ (∃ (s : State) (w : Nat), s.power.lpAt = some w ∧ 1500 * ttMs ≤ s.clk.wall - w)
    ∧ (∃ (s : State) (vpwr : Nat) (vres : Nat), s.mode.mode = .keep ∧ s.power.keepOnRes = false ∧ s.power.resOpen = false ∧
      vpwr < vres + 50)
    ∧ (∃ (s : State), s.mode.mode = .keep ∧ s.power.vpwrGood = false ∧ s.power.lpAt = none ∧ s.power.resOpen = false ∧
      s.power.onVaux = false) :=
  ⟨⟨{ unit with power.vpwrGood := true }, by decide +kernel⟩,
  ⟨{ unit with power.pgFrom := T - 2 * ttMs, mode.mode := .keep, power.vpwrGood := false, power.stageOn := true, power.lpAt := none }, by decide +kernel⟩,
  ⟨{ unit with mode.cause := 1, mode.mode := .keep, power.vpwrGood := false }, by decide +kernel⟩,
  ⟨{ unit with mode.mode := .ship, power.stageOn := false, power.lpAt := none }, true, by decide +kernel⟩,
  ⟨{ unit with mode.mode := .ship, power.vauxSt := true }, false, by decide +kernel⟩,
  ⟨{ unit with power.lpAt := some (T - 1500 * ttMs) }, T - 1500 * ttMs, by decide +kernel⟩,
  ⟨{ unit with mode.mode := .keep, power.keepOnRes := false, power.resOpen := false }, 49, 0, by decide +kernel⟩,
  ⟨{ unit with mode.mode := .keep, power.vpwrGood := false, power.lpAt := none, power.resOpen := false, power.onVaux := false }, by decide +kernel⟩⟩

theorem witness_CommitPhasesAndReports :
    (∃ (s : State) (a : Nat), s.coreRuns = true ∧ s.flash.commit.isOpen = true ∧ s.flash.commit.tag = none ∧ s.flash.commit.rx
      = [] ∧ s.flash.commit.state = 1 ∧ s.memWf ∧ a < 65536 * ((s.flash.commit.length + 65535) / 65536))
    ∧ (∃ (s : State), s.coreRuns = true ∧ s.flash.commit.isOpen = true ∧ s.flash.commit.tag = none ∧ s.flash.commit.rx = [] ∧
      s.flash.commit.state = 3 ∧ s.flash.wear = [] ∧ headerOk s (s.bank s.inactive) = true ∧ crc32c (mread flashByte (s.bank
      s.inactive) 0 s.flash.commit.length) ≠ s.flash.commit.crc)
    ∧ (∃ (s : State), s.coreRuns = true ∧ s.flash.commit.isOpen = true ∧ s.flash.commit.tag = none ∧ s.flash.commit.rx = [] ∧
      s.flash.commit.state = 3 ∧ s.flash.wear = [] ∧ headerOk s (s.bank s.inactive) = true ∧ crc32c (mread flashByte (s.bank
      s.inactive) 0 s.flash.commit.length) = s.flash.commit.crc ∧ signatureOk s (s.bank s.inactive) = false)
    ∧ (∃ (s : State) (a : Nat), s.coreRuns = true ∧ s.flash.commit.isOpen = true ∧ s.flash.commit.tag = none ∧
      s.flash.commit.rx = [] ∧ s.flash.commit.state = 3 ∧ s.flash.wear = [{ area := s.inactive, word := a, bad := true }] ∧ a
      < 64)
    ∧ (∃ (s : State), s.coreRuns = true ∧ s.flash.commit.isOpen = true ∧ s.flash.commit.tag = none ∧ s.flash.commit.rx = [] ∧
      s.flash.commit.state = 3 ∧ s.flash.wear = [] ∧ headerOk s (s.bank s.inactive) = false)
    ∧ (∃ (s : State), s.coreRuns = true ∧ s.flash.commit.isOpen = true ∧ s.flash.commit.tag = none ∧ s.flash.commit.rx = [] ∧
      s.flash.commit.state = 3 ∧ s.flash.wear = [] ∧ headerOk s (s.bank s.inactive) = true ∧ crc32c (mread flashByte (s.bank
      s.inactive) 0 s.flash.commit.length) = s.flash.commit.crc ∧ signatureOk s (s.bank s.inactive) = true ∧ s.flash.erases =
      [])
    ∧ (∃ (s : State), s.coreRuns = true ∧ s.flash.commit.isOpen = true ∧ s.flash.commit.tag = none ∧ s.flash.commit.rx = [] ∧
      s.flash.commit.state = 4)
    ∧ (∃ (s : State), s.coreRuns = true ∧ s.flash.commit.isOpen = true ∧ s.flash.commit.tag = none ∧ s.flash.commit.rx = [] ∧
      s.flash.commit.state = 2 ∧ s.flash.loadIdle * ttS ≤ s.clk.wall - s.flash.commit.lastPiece)
    ∧ (∃ (s : State), s.coreRuns = true ∧ s.flash.commit.isOpen = true ∧ s.flash.commit.tag = none ∧ s.flash.commit.rx = [] ∧
      s.reachable = true ∧ s.mode.mode ≠ .lockout)
    ∧ (∃ (s : State) (g : Nat), s.coreRuns = true ∧ s.flash.commit.isOpen = true ∧ s.flash.commit.tag = some g ∧
      s.flash.commit.tResp * ttMs / 4 ≤ s.clk.wall - s.flash.commit.lastPending) :=
  ⟨⟨{ unit with flash.commit.length := 512, flash.commit.isOpen := true, flash.commit.tag := none, flash.commit.rx := [], flash.commit.state := 1 }, 65535, by unfold State.memWf; decide +kernel⟩,
  ⟨{ unit with flash.active := 1, flash.commit.length := 512, flash.commit.crc := 0, flash.commit.isOpen := true, flash.commit.tag := none, flash.commit.rx := [], flash.commit.state := 3, flash.wear := [] }, by decide, rfl, rfl, rfl, rfl, rfl, by decide +kernel, fun h => absurd (test_new_image_crc.symm.trans h) (by decide +kernel)⟩,
  ⟨{ unit with flash.active := 1, flash.commit.length := 512, flash.commit.crc := newRec.crc, flash.dataArea := [], flash.commit.isOpen := true, flash.commit.tag := none, flash.commit.rx := [], flash.commit.state := 3, flash.wear := [] }, by decide, rfl, rfl, rfl, rfl, rfl, by decide +kernel, test_new_image_crc, by decide +kernel⟩,
  ⟨{ unit with flash.wear := [{ area := 1, word := 63, bad := true }], flash.commit.isOpen := true, flash.commit.tag := none, flash.commit.rx := [], flash.commit.state := 3 }, 63, by decide +kernel⟩,
  ⟨{ unit with flash.commit.isOpen := true, flash.commit.tag := none, flash.commit.rx := [], flash.commit.state := 3, flash.wear := [] }, by decide +kernel⟩,
  ⟨{ unit with flash.active := 1, flash.commit.length := 512, flash.commit.crc := newRec.crc, flash.commit.isOpen := true, flash.commit.tag := none, flash.commit.rx := [], flash.commit.state := 3, flash.wear := [], flash.erases := [] }, by decide, rfl, rfl, rfl, rfl, rfl, by decide +kernel, test_new_image_crc, test_new_image_signature _ rfl, rfl⟩,
  ⟨{ unit with flash.commit.isOpen := true, flash.commit.tag := none, flash.commit.rx := [], flash.commit.state := 4 }, by decide +kernel⟩,
  ⟨{ unit with flash.commit.lastPiece := T - 10 * ttS, flash.commit.isOpen := true, flash.commit.tag := none, flash.commit.rx := [], flash.commit.state := 2 }, by decide +kernel⟩,
  ⟨{ unit with flash.commit.isOpen := true, flash.commit.tag := none, flash.commit.rx := [] }, by decide +kernel⟩,
  ⟨{ hubUnit with ports := [{ upPort with link := .training, credits := { s := 32, c := 512, d := 2048, b := 1504 } }, PortSt.reset, PortSt.reset, PortSt.reset], flash.commit.lastPending := T - 50 * ttMs / 4, flash.commit.isOpen := true, flash.commit.tag := some 9 }, 9, by decide +kernel⟩⟩

theorem witness_ConfigurationShadowAndQueuedEntries :
    (∃ (s : State), s.reachable = true ∧ s.mode.mode ≠ .lockout ∧ s.flash.commit.isOpen = false ∧ cfgOk s.flash.cfgA = true ∧
      cfgOk s.flash.cfgB = true ∧ s.flash.cfgB.getD 1 0 ≤ s.flash.cfgA.getD 1 0 ∧ s.flash.shadow.length = 1024 ∧
      s.flash.erases = [])
    ∧ (∃ (s : State), s.reachable = true ∧ s.mode.mode ≠ .lockout ∧ s.flash.commit.isOpen = false ∧ s.flash.cfgIndex ≠ 1 ∧
      s.flash.cfgIndex < 1023)
    ∧ (∃ (s : State), s.reachable = true ∧ s.mode.mode ≠ .lockout ∧ s.flash.commit.isOpen = false ∧ s.flash.cfgIndex = 1)
    ∧ (∃ (s : State), s.reachable = true ∧ s.mode.mode ≠ .lockout ∧ s.ident.debugLock = false ∧ s.flash.commit.isOpen = false)
    ∧ (∃ (s : State) (e : LedgerEntry) (q : List LedgerEntry), s.coreRuns = true ∧ s.flashFree = true ∧ s.flash.queue = e :: q
      ∧ slotsOf (s.flash.log ++ [e]) ≤ 4096)
    ∧ (∃ (s : State), s.flashFree = false)
    ∧ (∃ (s : State) (w : ParishWait) (p : List ParishWait), s.coreRuns = true ∧ s.flashFree = true ∧ s.safety.parishQ = w ::
      p ∧ w.tag = none) :=
  ⟨⟨{ unit with flash.cfgB := State.reset.flash.cfgA, flash.commit.isOpen := false, flash.erases := [] }, rfl, by decide, rfl, test_default_config_crc, test_default_config_crc, by decide +kernel, by decide +kernel⟩,
  ⟨{ unit with flash.cfgIndex := 1022, flash.commit.isOpen := false }, by decide +kernel⟩,
  ⟨{ unit with flash.commit.isOpen := false, flash.cfgIndex := 1 }, by decide +kernel⟩,
  ⟨{ unit with ident.debugLock := false, flash.commit.isOpen := false }, by decide +kernel⟩,
  ⟨{ unit with flash.queue := ({ seq := 0, code := 2, mode := 5, rtc := 0, time := 0, item := 0, data := 0, cont := none, torn := [] }) :: [] }, { seq := 0, code := 2, mode := 5, rtc := 0, time := 0, item := 0, data := 0, cont := none, torn := [] }, [], by decide +kernel⟩,
  ⟨{ unit with flash.erases := [.data] }, by decide +kernel⟩,
  ⟨{ unit with safety.parishQ := ({ entry := { seq := 1, kind := 1, count := 0, address := 0, old := 0, new := 0, session := 0, origin := 0, time := 0, rtc := 0, blockCrc := 0 }, tag := none }) :: [] }, { entry := { seq := 1, kind := 1, count := 0, address := 0, old := 0, new := 0, session := 0, origin := 0, time := 0, rtc := 0, blockCrc := 0 }, tag := none }, [], by decide +kernel⟩⟩

theorem witness_DebugPortOperations :
    (∃ (s : State), s.ident.debugLock = true)
    ∧ (∃ (s : State) (addr : Nat) (chk : Nat), s.ident.debugLock = false ∧ s.mode.mode ∉ [.ship, .keep, .dormant] ∧ chk ≠
      dbgChk 3 addr none)
    ∧ (∃ (s : State), s.ident.debugLock = false ∧ s.mode.mode ∉ [.ship, .keep, .dormant] ∧ s.ident.silicon < 256)
    ∧ (∃ (s : State) (addr : Nat), s.flash.wear = [] ∧ s.ident.debugLock = false ∧ s.mode.mode ∉ [.ship, .keep, .dormant,
      .bist] ∧ addr < 0x200000 ∧ addr % 4 = 0)
    ∧ (∃ (s : State) (addr : Nat) (a : Byte) (b : Byte) (c : Byte) (d : Byte), s.ident.debugLock = false ∧ s.mode.mode ∉
      [.ship, .keep, .dormant, .bist] ∧ addr < 0x400000 ∧ addr % 4 = 0 ∧ gget s.granary addr = some a ∧ gget s.granary (addr +
      1) = some b ∧ gget s.granary (addr + 2) = some c ∧ gget s.granary (addr + 3) = some d)
    ∧ (∃ (s : State) (addr : Nat), s.ident.debugLock = false ∧ s.mode.mode ∉ [.ship, .keep, .dormant, .bist] ∧ addr < 0x400000
      ∧ addr % 4 = 0 ∧ gget s.granary addr = none ∧ s.bankUsed (addr / 0x10000) = true)
    ∧ (∃ (s : State) (addr : Nat), s.ident.debugLock = false ∧ s.mode.mode ∉ [.ship, .keep, .dormant, .bist] ∧ addr < 0x400000
      ∧ addr % 4 = 0 ∧ s.bankUsed (addr / 0x10000) = false ∧ gget s.granary addr = none ∧ gget s.granary (addr + 1) = none ∧
      gget s.granary (addr + 2) = none ∧ gget s.granary (addr + 3) = none)
    ∧ (∃ (s : State) (addr : Nat), s.ident.debugLock = false ∧ s.mode.mode ∉ [.ship, .keep, .dormant, .bist] ∧ s.memWf ∧ addr
      < 0x400000 ∧ addr % 4 = 0)
    ∧ (∃ (s : State) (addr : Nat), s.ident.debugLock = false ∧ s.mode.mode ∉ [.ship, .keep, .dormant, .bist] ∧ s.memWf ∧ addr
      < 0x200000 ∧ addr / 2 ^ 20 = s.inactive ∧ s.flash.active < 2 ∧ s.flash.commit.isOpen = false ∧ s.flash.erases = [])
    ∧ (∃ (s : State) (addr : Nat), s.ident.debugLock = false ∧ s.mode.mode ∉ [.ship, .keep, .dormant, .bist] ∧ s.memWf ∧ addr
      < 0x200000 ∧ addr / 2 ^ 20 = s.inactive ∧ s.flash.active < 2 ∧ s.flash.commit.isOpen = false ∧ addr % 4 = 0 ∧ addr % 256
      ≠ 0xFC ∧ s.flash.pageAddr = addr / 256 * 256 ∧ s.flash.pageWords = [])
    ∧ (∃ (s : State) (addr : Nat), s.ident.debugLock = false ∧ s.mode.mode ∉ [.ship, .keep, .dormant, .bist] ∧ s.memWf ∧ addr
      < 0x200000 ∧ addr / 2 ^ 20 = s.inactive ∧ s.flash.active < 2 ∧ s.flash.commit.isOpen = false ∧ addr % 256 = 0xFC ∧
      s.flash.pageWords = [] ∧ mread flashByte (s.bank s.inactive) (addr % 2 ^ 20) 4 = [flashByte, flashByte, flashByte,
      flashByte])
    ∧ (∃ (s : State) (v : Nat), s.ident.debugLock = false ∧ s.mode.mode ∉ [.ship, .keep, .dormant, .bist] ∧ s.memWf ∧ v < 2)
    ∧ (∃ (s : State), s.ident.debugLock = false ∧ s.mode.mode = .halted ∧ s.mode.prior = some .run)
    ∧ (∃ (s : State), s.ident.debugLock = false ∧ s.mode.mode ∉ [.halted, .ship, .keep, .dormant, .bist])
    ∧ (∃ (s : State) (g : Nat) (q : Nat) (j : Job) (r : Rec), s.ident.debugLock = false ∧ s.coreRuns = true ∧ s.mode.mode =
      .halted ∧ s.working.find? (fun x => (s.gleaner x).running.isNone) = some g ∧ s.longest = some g ∧ (s.gleaner g).deque =
      [j] ∧ j.kind = .forward ∧ s.glean.gleaners.length = 16 ∧ s.glean.finished = [] ∧ s.glean.waiting = [] ∧ s.keyBlocked j =
      false ∧ s.glean.forwards = [(j.tag, .record r)] ∧ r.intact = true ∧ s.isRoot = false ∧ s.forwardGranted j.tag = true ∧
      s.route 0 = .out q ∧ q < 4 ∧ s.ports.length = 4 ∧ s.quiet = true)
    ∧ (∃ (s : State), s.ident.debugLock = false ∧ s.mode.mode = .halted ∧ s.working = [])
    ∧ (∃ (s : State), s.ident.debugLock = false ∧ s.mode.mode ∉ [.ship, .keep, .dormant, .bist])
    ∧ (∃ (s : State) (k : Nat) (addr : Nat) (b : BreakSt), s.ident.debugLock = false ∧ s.coreRuns = true ∧ s.mode.mode ∈
      [.quiet, .run, .degraded, .safe, .lockout] ∧ s.flash.commit.isOpen = false ∧ s.higherDue = false ∧ s.dbg.brk[k]? = some
      b ∧ b.en = true ∧ b.typ = 2 ∧ b.wo = false ∧ b.value = addr ∧ addr < 0x8000) :=
  ⟨⟨{ unit with ident.debugLock := true }, by decide +kernel⟩,
  ⟨{ unit with ident.debugLock := false }, 0x3FFFFC, 16, by decide +kernel⟩,
  ⟨{ unit with ident.debugLock := false }, by decide +kernel⟩,
  ⟨{ unit with flash.wear := [], ident.debugLock := false }, 0x1FFFFC, by decide +kernel⟩,
  ⟨{ unit with granary := [(0x3FFFFC, 1), (0x3FFFFD, 2), (0x3FFFFE, 3), (0x3FFFFF, 4)], ident.debugLock := false }, 0x3FFFFC, 1, 2, 3, 4, by decide +kernel⟩,
  ⟨{ unit with glean.jobsUsed := true, ident.debugLock := false }, 0x3FFFFC, by decide +kernel⟩,
  ⟨{ unit with bist.cur.steps := [(1, 0, 0), (1, 0, 0)], ident.debugLock := false }, 0x3FFFFC, by decide +kernel⟩,
  ⟨{ unit with ident.debugLock := false }, 0x3FFFFC, by unfold State.memWf; decide +kernel⟩,
  ⟨{ unit with ident.debugLock := false, flash.commit.isOpen := false, flash.erases := [] }, 0x1FFFFF, by unfold State.memWf; decide +kernel⟩,
  ⟨{ unit with flash.pageAddr := 0x1FFF00, ident.debugLock := false, flash.commit.isOpen := false, flash.pageWords := [] }, 0x1FFFF8, by unfold State.memWf; decide +kernel⟩,
  ⟨{ unit with ident.debugLock := false, flash.commit.isOpen := false, flash.pageWords := [] }, 0x1FFFFC, by unfold State.memWf; decide +kernel⟩,
  ⟨{ unit with ident.debugLock := false }, 1, by unfold State.memWf; decide +kernel⟩,
  ⟨{ unit with ident.debugLock := false, mode.mode := .halted, mode.prior := some .run }, by decide +kernel⟩,
  ⟨{ unit with ident.debugLock := false }, by decide +kernel⟩,
  ⟨{ hubUnit with ports := [{ upPort with credits := { s := 32, c := 512, d := 2048, b := 1504 } }, PortSt.reset, PortSt.reset, PortSt.reset], glean.gleaners := { running := none, deque := [({ slot := 3, kind := .forward, key := 0, tag := 0, adm := 0 })], scratch := [] } :: List.replicate 15 { running := none, deque := [], scratch := [] }, glean.forwards := [(0, .record (default : Rec).sealed)], ident.debugLock := false, mode.mode := .halted, glean.finished := [], glean.waiting := [] }, 0, 0, { slot := 3, kind := .forward, key := 0, tag := 0, adm := 0 }, (default : Rec).sealed, by decide +kernel, by decide +kernel, by decide +kernel, by decide +kernel, by decide +kernel, by decide +kernel, by decide +kernel, by decide +kernel, by decide +kernel, by decide +kernel, by decide +kernel, rfl, sealed_intact _, by decide +kernel, by decide +kernel, by decide +kernel, by decide +kernel, by decide +kernel, by decide +kernel⟩,
  ⟨{ unit with glean.inUse := 0, ident.debugLock := false, mode.mode := .halted }, by decide +kernel⟩,
  ⟨{ unit with ident.debugLock := false }, by decide +kernel⟩,
  ⟨{ unit with dbg.brk := [({ en := true, typ := 2, wo := false, value := 0x7FFC })], ident.debugLock := false, mode.mode := .quiet, flash.commit.isOpen := false }, 0, 0x7FFC, { en := true, typ := 2, wo := false, value := 0x7FFC }, by decide +kernel⟩⟩

theorem witness_SafetySessionOpens :
    (∃ (s : State) (p : Nat), s.hasHost = false ∧ s.mode.shipDue = false ∧ s.coreRuns = true ∧ s.mode.mode ∈ [.quiet, .run,
      .survey, .commit, .degraded, .safe] ∧ s.safety.lockEnd = none ∧ s.safety.session = none ∧ sha256 (le 8 p ++ le 8
      s.ident.uid) = s.safety.digest)
    ∧ (∃ (s : State) (p : Nat), s.hasHost = false ∧ s.mode.shipDue = false ∧ s.coreRuns = true ∧ s.mode.mode ∈ [.quiet, .run,
      .survey, .commit, .degraded, .safe] ∧ s.safety.lockEnd = none ∧ s.safety.session = none ∧ sha256 (le 8 p ++ le 8
      s.ident.uid) ≠ s.safety.digest ∧ s.safety.fails < 4)
    ∧ (∃ (s : State) (p : Nat), s.hasHost = false ∧ s.mode.shipDue = false ∧ s.coreRuns = true ∧ s.mode.mode ∈ [.quiet, .run,
      .survey, .commit, .degraded, .safe] ∧ s.safety.lockEnd = none ∧ s.safety.session = none ∧ sha256 (le 8 p ++ le 8
      s.ident.uid) ≠ s.safety.digest ∧ s.safety.fails = 4) :=
  ⟨⟨{ unit with mode.shipDue := false, mode.mode := .quiet, safety.lockEnd := none, safety.session := none }, 0, by decide +kernel⟩,
  ⟨{ unit with safety.fails := 3, mode.shipDue := false, mode.mode := .quiet, safety.lockEnd := none, safety.session := none }, 1, by decide +kernel⟩,
  ⟨{ unit with safety.fails := 4, mode.shipDue := false, mode.mode := .quiet, safety.lockEnd := none, safety.session := none }, 1, by decide +kernel⟩⟩

theorem witness_SafetyWritesAndTimers :
    (∃ (s : State) (a : Nat) (k : Nat) (v : Nat) (old : Nat), s.hasHost = false ∧ s.mode.shipDue = false ∧ s.reachable = true
      ∧ s.mode.mode ≠ .lockout ∧ s.safety.lockEnd = none ∧ s.safety.session = some k ∧ s.sessionValue a = some old ∧
      safInRange a (v % 2 ^ 32 &&& safMask a) = true ∧ (s.mode.station = true ∨ stackWritable a (v % 2 ^ 32 &&& safMask a) =
      true) ∧ s.factory = false ∧ s.safety.staged.length < 64)
    ∧ (∃ (s : State) (k : Nat), s.hasHost = false ∧ s.mode.shipDue = false ∧ s.reachable = true ∧ s.mode.mode ≠ .lockout ∧
      s.safety.lockEnd = none ∧ s.safety.session = some k ∧ s.consistent s.stagedBlock = true)
    ∧ (∃ (s : State) (k : Nat) (v : Nat) (old : Nat), s.hasHost = false ∧ s.mode.shipDue = false ∧ s.reachable = true ∧
      s.mode.mode ≠ .lockout ∧ s.safety.lockEnd = none ∧ s.safety.session = some k ∧ s.safety.staged = [] ∧ s.safety.block.ov
      = old ∧ 1000 ≤ v ∧ v ≤ 5500)
    ∧ (∃ (s : State) (k : Nat) (old : Nat), s.hasHost = false ∧ s.mode.shipDue = false ∧ s.reachable = true ∧ s.mode.mode ≠
      .lockout ∧ s.safety.lockEnd = none ∧ s.safety.session = some k ∧ s.safety.block.ov ≠ old ∧ s.safety.staged = [])
    ∧ (∃ (s : State) (k : Nat) (v : Nat), s.hasHost = false ∧ s.mode.shipDue = false ∧ s.reachable = true ∧ s.mode.mode ≠
      .lockout ∧ s.safety.lockEnd = none ∧ s.safety.session = some k ∧ s.safety.staged = [(0x2010, v)] ∧ s.consistent
      { s.safety.block with ov := v } = true)
    ∧ (∃ (s : State) (k : Nat) (p : Nat) (q : Nat), s.hasHost = false ∧ s.mode.shipDue = false ∧ s.reachable = true ∧
      s.mode.mode ≠ .lockout ∧ s.safety.lockEnd = none ∧ s.safety.session = some k ∧ sha256 (le 8 p ++ le 8 s.ident.uid) =
      s.safety.digest ∧ q ≠ 0)
    ∧ (∃ (s : State) (k : Nat), s.safety.session = some k ∧ 120 * ttS ≤ s.clk.wall - s.safety.lastWrite)
    ∧ (∃ (s : State) (e : Nat), s.safety.lockEnd = some e ∧ e ≤ s.clk.rtc) :=
  ⟨⟨{ unit with mode.station := true, safety.digest := 0, mode.shipDue := false, safety.lockEnd := none, safety.session := some 1 }, 0x2014, 1, 600, 2000, by decide +kernel⟩,
  ⟨{ unit with mode.shipDue := false, safety.lockEnd := none, safety.session := some 1 }, 1, by decide +kernel⟩,
  ⟨{ unit with safety.session := some 1, mode.shipDue := false, safety.lockEnd := none, safety.staged := [], safety.block.ov := 4300 }, 1, 5500, 4300, by decide +kernel⟩,
  ⟨{ unit with mode.shipDue := false, safety.lockEnd := none, safety.session := some 1, safety.staged := [] }, 1, 0, by decide +kernel⟩,
  ⟨{ unit with mode.shipDue := false, safety.lockEnd := none, safety.session := some 1, safety.staged := [(0x2010, 2100)] }, 1, 2100, by decide +kernel⟩,
  ⟨{ unit with mode.shipDue := false, safety.lockEnd := none, safety.session := some 1 }, 1, 0, 1, by decide +kernel⟩,
  ⟨{ unit with safety.lastWrite := T - 120 * ttS, safety.session := some 1 }, 1, by decide +kernel⟩,
  ⟨{ unit with clk.rtc := 8, safety.lockEnd := some 8 }, 8, by decide +kernel⟩⟩

theorem witness_DemandsTripTheOutput :
    (∃ (s : State) (i : Nat), s.mode.station = true ∧ s.reachable = true ∧ s.mode.mode ≠ .lockout ∧ i < 4)
    ∧ (∃ (s : State) (i : Nat) (x : Nat), s.mode.station = true ∧ s.reachable = true ∧ s.mode.mode ≠ .lockout ∧ 1 ≤ i ∧ i ≤ 2
      ∧ 1 ≤ x ∧ x ≤ 2 ∧ (s.outp x).on = true ∧ s.safety.block.func x % 4 ≠ 0 ∧ (s.safety.block.func x).testBit (1 + i) = true
      ∧ (s.inp i).a = true ∧ (s.inp i).b = true)
    ∧ (∃ (s : State) (i : Nat) (x : Nat) (w : Nat), s.mode.station = true ∧ s.reachable = true ∧ s.mode.mode ≠ .lockout ∧ 1 ≤
      i ∧ i ≤ 2 ∧ 1 ≤ x ∧ x ≤ 2 ∧ (s.outp x).on = true ∧ s.safety.block.func x % 4 ≠ 0 ∧ (s.safety.block.func x).testBit (1 +
      i) = true ∧ (s.inp i).since = some w ∧ (s.inp i).disc = false ∧ s.safety.block.disc i * ttMs < s.clk.wall - w)
    ∧ (∃ (s : State) (i : Nat) (x : Nat) (pos : Nat) (at_ : Nat) (hd : Heard), s.mode.station = true ∧ s.reachable = true ∧
      s.mode.mode ≠ .lockout ∧ 1 ≤ x ∧ x ≤ 2 ∧ (s.outp x).on = true ∧ s.safety.block.func x % 4 ≠ 0 ∧ (s.safety.block.func
      x).testBit 4 = true ∧ s.safety.block.enr i = pos + 2 ^ 18 + 2 ^ (18 + x) ∧ pos < 2 ^ 18 ∧ s.heardOf pos = some hd ∧
      hd.out = false ∧ hd.at_ = at_ ∧ s.safety.block.hbTimeout * ttMs ≤ s.clk.wall - at_) :=
  ⟨⟨{ unit with safety.block.func1 := 1, mode.station := true }, 3, by decide +kernel⟩,
  ⟨{ unit with safety.block.func1 := 5, safety.in1.a := true, safety.in1.b := true, safety.out1.on := true, mode.station := true }, 1, 1, by decide +kernel⟩,
  ⟨{ unit with safety.block.func1 := 5, safety.in1.since := some (T - 100 * ttMs - 1), safety.out1.on := true, mode.station := true }, 1, 1, T - 100 * ttMs - 1, by decide +kernel⟩,
  ⟨{ unit with safety.block.func1 := 17, safety.block.enroll := [(0, 262143 + 2 ^ 18 + 2 ^ 19)], safety.heard := [({ pos := 262143, at_ := T - 50 * ttMs, cause := 0, out := false, ref := none })], safety.out1.on := true, mode.station := true }, 0, 1, 262143, T - 50 * ttMs, { pos := 262143, at_ := T - 50 * ttMs, cause := 0, out := false, ref := none }, by decide +kernel⟩⟩

theorem witness_ArmingTestPulsesAndReadback :
    (∃ (s : State) (x : Nat), s.supervising = true ∧ (x = 1 ∨ x = 2) ∧ (s.safety.block.func x).testBit 5 = true ∧ (s.outp
      x).autoUsed = false ∧ (s.outp x).tripped = false ∧ (s.outp x).on = false ∧ s.mayArm s.safety.block x = true)
    ∧ (∃ (s : State) (x : Nat) (sw : Nat), s.supervising = true ∧ (x = 1 ∨ x = 2) ∧ s.pulseDue x = true ∧ s.pulseSwitch x =
      some sw)
    ∧ (∃ (s : State) (x : Nat) (sw : Nat) (w : Nat), s.supervising = true ∧ (x = 1 ∨ x = 2) ∧ (s.outp x).pulse = some (sw, w)
      ∧ (s.outp x).judged = true ∧ (if (s.outp x).on = true ∧ s.safety.block.func x % 4 = 2 then 10240 else 4096) ≤ s.clk.wall
      - w)
    ∧ (∃ (s : State) (x : Nat) (sw : Nat) (w : Nat), s.supervising = true ∧ (x = 1 ∨ x = 2) ∧ (s.outp x).pulse = some (sw, w)
      ∧ (s.outp x).judged = false ∧ 3072 ≤ s.clk.wall - w ∧ sw < 2 ∧ s.safety.failed = [false, false, false, false])
    ∧ (∃ (s : State), s.supervising = true ∧ s.safety.block.func2.testBit 5 = true ∧ s.safety.out2.autoUsed = false ∧
      s.safety.out2.tripped = false ∧ s.safety.out2.on = false ∧ s.mayArm s.safety.block 2 = true)
    ∧ (∃ (s : State) (sw : Nat), s.supervising = true ∧ s.safety.block.func1 % 4 = 1 ∧ s.safety.out1.on = true ∧
      s.safety.out1.pulse = none ∧ s.safety.out1.tripAt = none ∧ s.safety.out1.nextSw = sw ∧ sw < 2 ∧ 500 * ttMs ≤ s.clk.wall
      - s.safety.out1.lastPulse)
    ∧ (∃ (s : State) (sw : Nat), s.supervising = true ∧ sw < 4 ∧ s.safety.failed = [false, false, false, false] ∧ s.pulsing sw
      = false ∧ (s.outp (sw / 2 + 1)).on = false)
    ∧ (∃ (s : State) (sw : Nat), s.supervising = true ∧ sw < 4 ∧ s.safety.failed = [false, false, false, false] ∧ s.pulsing sw
      = false ∧ (s.outp (sw / 2 + 1)).on = true)
    ∧ (∃ (s : State), s.supervising = true ∧ s.safety.failed = [false, false, false, false] ∧ s.safety.out1.on = false ∧
      s.safety.out1.pulse = none ∧ s.mode.mode = .quiet ∧ s.safety.degEnd = none)
    ∧ (∃ (s : State), s.supervising = true ∧ s.safety.failed = [true, false, false, false] ∧ s.safety.out2.on = true ∧
      s.safety.out2.pulse = none ∧ s.mode.mode ∈ [.quiet, .run, .degraded])
    ∧ (∃ (s : State) (e : Nat), s.supervising = true ∧ s.mode.mode = .degraded ∧ s.safety.degEnd = some e ∧ e ≤ s.clk.rtc) :=
  ⟨⟨{ unit with mode.station := true, safety.block.func2 := 33, safety.out2.checked := true }, 2, by decide +kernel⟩,
  ⟨{ unit with mode.station := true, safety.block.func2 := 1, safety.out2.on := true, safety.out2.lastPulse := T - 500 * ttMs }, 2, 0, by decide +kernel⟩,
  ⟨{ unit with mode.station := true, safety.out2.pulse := some (1, T - 4096), safety.out2.judged := true }, 2, 1, T - 4096, by decide +kernel⟩,
  ⟨{ unit with mode.station := true, safety.out2.pulse := some (1, T - 3072), safety.failed := [false, false, false, false] }, 2, 1, T - 3072, by decide +kernel⟩,
  ⟨{ unit with mode.station := true, safety.block.func2 := 33, safety.out2.checked := true, safety.out2.autoUsed := false, safety.out2.tripped := false, safety.out2.on := false }, by decide +kernel⟩,
  ⟨{ unit with mode.station := true, safety.block.func1 := 1, safety.out1.lastPulse := T - 500 * ttMs, safety.out1.on := true, safety.out1.pulse := none, safety.out1.tripAt := none, safety.out1.nextSw := 1 }, 1, by decide +kernel⟩,
  ⟨{ unit with mode.station := true, safety.failed := [false, false, false, false] }, 3, by decide +kernel⟩,
  ⟨{ unit with mode.station := true, safety.out2.on := true, safety.failed := [false, false, false, false] }, 3, by decide +kernel⟩,
  ⟨{ unit with mode.station := true, safety.failed := [false, false, false, false], safety.out1.on := false, safety.out1.pulse := none, mode.mode := .quiet, safety.degEnd := none }, by decide +kernel⟩,
  ⟨{ unit with mode.station := true, mode.mode := .quiet, safety.failed := [true, false, false, false], safety.out2.on := true, safety.out2.pulse := none }, by decide +kernel⟩,
  ⟨{ unit with mode.station := true, clk.rtc := 8, mode.mode := .degraded, safety.degEnd := some 8 }, 8, by decide +kernel⟩⟩

theorem witness_SafetyReportsAndFrames :
    (∃ (s : State) (b : Nat), s.limitsActive = true ∧ s.mode.mode ≠ .dormant ∧ s.coreRuns = true ∧ s.beatInstant = some b ∧
      s.safety.lastBeat < b)
    ∧ (∃ (s : State) (k : Nat), s.limitsActive = true ∧ s.mode.mode ≠ .dormant ∧ k < 16 ∧ s.sweep.auxUn.length = 16 ∧
      s.safety.block.ot.testBit (16 + k) = true ∧ 2 * ttS * ((s.sweep.auxUn.getD k Deb.zero).bad + 1) ≤ s.clk.wall -
      s.sweep.auxSeen.getD k 0)
    ∧ (∃ (s : State) (p : Nat) (f : Frame) (hd : Heard), s.inSequence p f = true ∧ f.typ = 5 ∧ f.cls = 0 ∧ f.payload.length =
      16 ∧ checkOk f = true ∧ s.supervising = true ∧ s.heardOf f.src = some hd ∧ counterVerdict hd.ref (at_ f.payload 0 2)
      (bit (at_ f.payload 2 1) 0) = true ∧ at_ f.payload 5 1 = 0)
    ∧ (∃ (s : State) (p : Nat) (f : Frame) (hd : Heard), s.inSequence p f = true ∧ f.typ = 5 ∧ f.cls = 0 ∧ f.payload.length =
      16 ∧ checkOk f = true ∧ s.supervising = true ∧ s.heardOf f.src = some hd ∧ counterVerdict hd.ref (at_ f.payload 0 2)
      (bit (at_ f.payload 2 1) 0) = true ∧ at_ f.payload 5 1 ≠ 0 ∧ s.safety.out1.on = true ∧ s.safety.block.func1.testBit 4 =
      true ∧ f.src ∈ s.safety.block.feeds 1) :=
  ⟨⟨{ unit with safety.block.enroll := [(0, 7 + 2 ^ 18)], clk.tt := 409600, safety.lastBeat := 204800 }, 204800 * 2, by decide +kernel⟩,
  ⟨{ unit with safety.block.enroll := [(0, 7 + 2 ^ 18)], safety.block.ot := 2 ^ 31 }, 15, by decide +kernel⟩,
  ⟨{ hubUnit with mode.station := true, safety.heard := [({ pos := 7, at_ := 0, cause := 0, out := false, ref := some 0 })] }, 0, protect { typ := 5, cls := 0, hasScope := false, dest := 5, src := 7, depth := 0, tag := 0, payload := [] } [1, 0, 0, 0, 0, 0, 0, 0, 0, 0, 0, 0], { pos := 7, at_ := 0, cause := 0, out := false, ref := some 0 }, by decide +kernel⟩,
  ⟨{ hubUnit with mode.station := true, safety.heard := [({ pos := 7, at_ := 0, cause := 0, out := false, ref := some 0 })], safety.block.func1 := 17, safety.block.enroll := [(0, 7 + 2 ^ 18 + 2 ^ 19)], safety.out1.on := true }, 0, protect { typ := 5, cls := 0, hasScope := false, dest := 5, src := 7, depth := 0, tag := 0, payload := [] } [1, 0, 0, 0, 0, 1, 0, 0, 0, 0, 0, 0], { pos := 7, at_ := 0, cause := 0, out := false, ref := some 0 }, by decide +kernel⟩⟩

theorem witness_ModeRequests :
    (∃ (s : State), s.reachable = true) :=
  ⟨unit, by decide +kernel⟩

theorem witness_DormantAndPinReset :
    (∃ (s : State), s.coreRuns = true ∧ s.mode.mode = .run ∧ s.allStopped = true ∧ s.expo.state = .idle)
    ∧ (∃ (s : State) (w : Nat), s.coreRuns = true ∧ s.mode.station = false ∧ s.mode.mode ∈ [.quiet, .run, .survey, .commit,
      .safe] ∧ s.flash.commit.isOpen = false ∧ s.graceDue = false ∧ s.mode.cutSince = some w ∧ s.mode.lossMs * ttMs ≤
      s.clk.wall - w)
    ∧ (∃ (s : State), s.mode.mode = .dormant ∧ s.mode.sweepHeld = false)
    ∧ (∃ (s : State) (n : Nat), s.power.vpwrGood = true ∧ s.mode.mode ≠ .ship ∧ 10000 ≤ n) :=
  ⟨⟨{ unit with mode.mode := .run, expo.state := .idle }, by decide +kernel⟩,
  ⟨{ unit with mode.mode := .quiet, mode.station := false, flash.commit.isOpen := false, mode.cutSince := some (T - 2000 * ttMs) }, T - 2000 * ttMs, by decide +kernel⟩,
  ⟨{ unit with mode.mode := .dormant, mode.sweepHeld := false }, by decide +kernel⟩,
  ⟨{ unit with power.vpwrGood := true }, 10000, by decide +kernel⟩⟩

theorem witness_BistRunsAndReleases :
    (∃ (s : State) (w : BistWorld), s.mode.mode = .bist ∧ s.bist.running = false ∧ s.power.vpwrGood = true ∧ s.bist.testHeld =
      false ∧ w.test = false ∧ w.hangs = [] ∧ s.bist.cur = BistRec.empty)
    ∧ (∃ (s : State) (k : Nat), s.mode.mode = .bist ∧ s.bist.hang = some k ∧ 1 ≤ k ∧ k ≤ 9 ∧ s.bist.world.hangs = [k] ∧
      s.bist.cur.cuts < 3 ∧ s.bist.cur.steps.length = 10 ∧ s.bist.cur.failStep = 0)
    ∧ (∃ (s : State), s.mode.mode = .bist ∧ s.coreRuns = true ∧ s.bist.running = true ∧ s.bist.hang = none ∧ s.bist.cur.step =
      9 ∧ s.bist.cur.cutLock = false ∧ s.bist.cur.failStep = 0 ∧ s.flash.wear = [] ∧ s.safety.failed = [false, false, false,
      false])
    ∧ (∃ (s : State), s.mode.mode = .bist ∧ s.coreRuns = true ∧ s.bist.running = true ∧ s.bist.hang = none ∧ s.bist.cur.step =
      9 ∧ s.bist.cur.cutLock = false ∧ s.bist.cur.failStep ≠ 0) :=
  ⟨⟨{ unit with mode.mode := .bist, bist.running := false, power.vpwrGood := true, bist.testHeld := false, bist.cur := BistRec.empty }, BistWorld.none, by decide +kernel⟩,
  ⟨{ unit with bist.world := { BistWorld.none with hangs := [9] }, mode.mode := .bist, bist.hang := some 9, bist.cur.failStep := 0 }, 9, by decide +kernel⟩,
  ⟨{ unit with mode.mode := .bist, bist.running := true, bist.hang := none, bist.cur.step := 9, bist.cur.cutLock := false, bist.cur.failStep := 0, flash.wear := [], safety.failed := [false, false, false, false] }, by decide +kernel⟩,
  ⟨{ unit with bist.cur.failStep := 1, mode.mode := .bist, bist.running := true, bist.hang := none, bist.cur.step := 9, bist.cur.cutLock := false }, by decide +kernel⟩⟩

theorem witness_ClockMonitorAndTimeRead :
    (∃ (s : State) (b : Nat) (n : Nat) (lo : Nat) (hi : Nat), s.reachable = true ∧ clockLimits b = some (hi, lo) ∧ s.monitors
      b = true ∧ n < lo ∧ s.clocks = 0)
    ∧ (∃ (s : State) (b : Nat) (n : Nat) (lo : Nat) (hi : Nat), s.reachable = true ∧ clockLimits b = some (hi, lo) ∧
      s.monitors b = true ∧ hi ≤ n ∧ s.clocks = 2 ^ b)
    ∧ (∃ (s : State) (b : Nat) (n : Nat) (lo : Nat) (hi : Nat), s.reachable = true ∧ clockLimits b = some (hi, lo) ∧
      s.monitors b = true ∧ lo ≤ n ∧ n < hi)
    ∧ (∃ (s : State) (n : Nat), s.reachable = true ∧ n < 32 ∧ s.clocks = 0)
    ∧ (∃ (s : State) (n : Nat), s.reachable = true ∧ 109 ≤ n ∧ s.clocks = 2)
    ∧ (∃ (s : State) (n : Nat), s.reachable = true ∧ n < 5120 ∧ s.clocks = 0)
    ∧ (∃ (s : State), s.reachable = true ∧ s.mode.mode ≠ .lockout) :=
  ⟨⟨{ unit with clocks := 0 }, 11, 49999, 50000, 180000, by decide +kernel⟩,
  ⟨{ unit with clocks := 2 ^ 11 }, 11, 180000, 50000, 180000, by decide +kernel⟩,
  ⟨unit, 11, 50000, 50000, 180000, by decide +kernel⟩,
  ⟨{ unit with clocks := 0 }, 31, by decide +kernel⟩,
  ⟨{ unit with clocks := 2 }, 109, by decide +kernel⟩,
  ⟨{ unit with clocks := 0 }, 5119, by decide +kernel⟩,
  ⟨unit, by decide +kernel⟩⟩

theorem witness_SubmissionRings :
    (∃ (s : State) (r : Nat) (c : Nat) (w : Nat), s.barOpen = true ∧ s.host.sq.length = 256 ∧ r < 256 ∧ (s.sq r).state =
      .stopped ∧ 1 ≤ w ∧ (s.cq c).state = .running)
    ∧ (∃ (s : State) (r : Nat), s.barOpen = true ∧ s.host.sq.length = 256 ∧ r < 256 ∧ (s.sq r).state = .running)
    ∧ (∃ (s : State) (r : Nat) (w : Nat), s.barOpen = true ∧ s.host.sq.length = 256 ∧ r < 256 ∧ (s.sq r).state ≠ .stopped ∧ w
      < 2 ^ (s.sq r).log2)
    ∧ (∃ (s : State) (r : Nat) (w : Nat), s.barOpen = true ∧ s.host.sq.length = 256 ∧ r < 256 ∧ (s.sq r).state = .stopped ∨ 2
      ^ (s.sq r).log2 ≤ w) :=
  ⟨⟨{ rootUnit with host.sq := rings { SqSt.reset with state := .stopped }, host.cq := { CqSt.reset with state := .running } :: List.replicate 255 CqSt.reset }, 255, 0, 1, by decide +kernel⟩,
  ⟨{ rootUnit with host.sq := rings { SqSt.reset with state := .running } }, 255, by decide +kernel⟩,
  ⟨{ rootUnit with host.sq := rings { SqSt.reset with state := .stopping } }, 255, 15, by decide +kernel⟩,
  ⟨{ rootUnit with host.sq := rings { SqSt.reset with state := .running } }, 255, 16, by decide +kernel⟩⟩

theorem witness_CompletionRingsAndMessages :
    (∃ (s : State) (c : Nat), s.host.cq.length = 256 ∧ c < 256 ∧ s.barOpen = true ∧ (s.cq c).state = .stopped ∧ s.host.cplWait
      = [] ∧ s.host.events = [])
    ∧ (∃ (s : State) (c : Nat), s.host.cq.length = 256 ∧ c < 256 ∧ s.barOpen = true ∧ (s.cq c).state = .running ∧ s.cqInUse c
      = true)
    ∧ (∃ (s : State) (c : Nat), s.host.cq.length = 256 ∧ c < 256 ∧ s.barOpen = true ∧ (s.cq c).state = .running ∧ s.cqInUse c
      = false ∧ s.host.cplWait = [])
    ∧ (∃ (s : State) (c : Nat) (v : Nat), s.host.cq.length = 256 ∧ c < 256 ∧ s.barOpen = true ∧ (s.cq c).state = .running ∧ v
      < 2 ^ (s.cq c).log2 ∧ s.host.cplWait = [] ∧ s.host.events = [] ∧ s.host.heldWait = [])
    ∧ (∃ (s : State) (c : Nat), s.host.cq.length = 256 ∧ c < 256 ∧ s.coalesceDue c = true ∧ s.host.d3hot = false ∧ bit
      (s.msixWord (4 * (s.cq c).vector + 3)) 0 = false)
    ∧ (∃ (s : State) (c : Nat) (v : Nat), s.host.cq.length = 256 ∧ c < 256 ∧ s.barOpen = true ∧ s.host.d3hot = false ∧
      s.host.msixPend = [v]) :=
  ⟨⟨{ rootUnit with host.cq := List.replicate 255 CqSt.reset ++ [{ CqSt.reset with state := .stopped }], host.cplWait := [], host.events := [] }, 255, by decide +kernel⟩,
  ⟨{ rootUnit with host.cq := List.replicate 255 CqSt.reset ++ [{ CqSt.reset with state := .running }], host.eventCq := 255 }, 255, by decide +kernel⟩,
  ⟨{ rootUnit with host.cq := List.replicate 255 CqSt.reset ++ [{ CqSt.reset with state := .running }], host.cplWait := [] }, 255, by decide +kernel⟩,
  ⟨{ rootUnit with host.cq := List.replicate 255 CqSt.reset ++ [{ CqSt.reset with state := .running }], host.cplWait := [], host.events := [], host.heldWait := [] }, 255, 15, by decide +kernel⟩,
  ⟨{ rootUnit with host.cq := List.replicate 255 CqSt.reset ++ [{ CqSt.reset with irqEn := true, unsig := 1, coTime := 1, vector := 2, unsigAt := T - 21 }], host.msix := [(11, 0)], host.d3hot := false }, 255, by decide +kernel⟩,
  ⟨{ rootUnit with host.d3hot := false, host.msixPend := [3] }, 255, 3, by decide +kernel⟩⟩

theorem witness_PoolsAndRegisterWrites :
    (∃ (s : State) (p : Nat) (l : Nat) (b : Nat), s.barOpen = true ∧ s.host.pool.length = 64 ∧ p < 64 ∧ (s.pool p).en = false
      ∧ 4 ≤ l ∧ l ≤ 16 ∧ 8 ≤ b ∧ b ≤ 20)
    ∧ (∃ (s : State) (p : Nat) (l : Nat), s.barOpen = true ∧ s.host.pool.length = 64 ∧ p < 64 ∧ (s.pool p).en = false ∧ 16 <
      l)
    ∧ (∃ (s : State) (p : Nat), s.barOpen = true ∧ s.host.pool.length = 64 ∧ p < 64 ∧ s.poolBusy p = false)
    ∧ (∃ (s : State) (p : Nat), s.barOpen = true ∧ s.host.pool.length = 64 ∧ p < 64 ∧ s.poolBusy p = true ∧ (s.pool p).en =
      true)
    ∧ (∃ (s : State) (p : Nat) (v : Nat), s.barOpen = true ∧ s.host.pool.length = 64 ∧ p < 64 ∧ v < 2 ^ (s.pool p).listLog2 ∧
      (s.pool p).closing = false ∧ s.host.cplWait = [] ∧ s.host.events = [] ∧ s.host.waits = [] ∧ s.host.heldWait = [])
    ∧ (∃ (s : State) (p : Nat) (v : Nat), s.barOpen = true ∧ s.host.pool.length = 64 ∧ p < 64 ∧ s.host.cplWait = [] ∧
      s.host.events = [] ∧ v < 2 ^ 22) :=
  ⟨⟨{ rootUnit with host.pool := List.replicate 63 PoolSt.reset ++ [{ PoolSt.reset with en := false }] }, 63, 16, 20, by decide +kernel⟩,
  ⟨{ rootUnit with host.pool := List.replicate 63 PoolSt.reset ++ [{ PoolSt.reset with en := false }] }, 63, 17, by decide +kernel⟩,
  ⟨{ rootUnit with host.pool := List.replicate 63 PoolSt.reset ++ [{ PoolSt.reset with en := true }] }, 63, by decide +kernel⟩,
  ⟨{ rootUnit with host.pool := List.replicate 63 PoolSt.reset ++ [{ PoolSt.reset with en := true }], host.waits := [{ ResultWait.whole 63 [] default with run := some (0, [0]), total := 9 }] }, 63, by decide +kernel⟩,
  ⟨{ rootUnit with host.pool := List.replicate 63 PoolSt.reset ++ [{ PoolSt.reset with en := true }], host.cplWait := [], host.events := [], host.waits := [], host.heldWait := [] }, 63, 15, by decide +kernel⟩,
  ⟨{ rootUnit with host.pool := List.replicate 63 PoolSt.reset ++ [{ PoolSt.reset with en := true }], host.cplWait := [], host.events := [] }, 63, 2 ^ 22 - 1, by decide +kernel⟩⟩

theorem witness_LinkAndHostResets :
    (∃ (s : State) (sp : Nat) (w : Nat), s.bist.testHeld = false ∧ s.barOpen = true ∧ s.host.refclk = true ∧ 1 ≤ sp ∧ (w = 1 ∨
      w = 2))
    ∧ (∃ (s : State), s.bist.testHeld = false ∧ s.hasHost = true ∧ s.host.perst = true ∧ s.host.linkUp = true ∧ s.mode.mode =
      .bist) :=
  ⟨⟨{ rootUnit with bist.testHeld := false, host.refclk := true }, 1, 2, by decide +kernel⟩,
  ⟨{ rootUnit with bist.testHeld := false, host.perst := true, host.linkUp := true, mode.mode := .bist }, by decide +kernel⟩⟩

theorem witness_SweepFunction :
    (∃ (s : State) (src : Nat), s.reachable = true ∧ s.mode.mode ≠ .lockout ∧ s.sweep.fn = .stopped ∧ s.mode.mode = .quiet ∧
      src < 2)
    ∧ (∃ (s : State), s.reachable = true ∧ s.mode.mode ≠ .lockout ∧ s.sweep.fn = .running ∧ (∀ x ∈ s.schedule.sweep.pend,
      x.opened = false ∧ s.clk.tt + tgd s.sweep.lat.corner < x.t))
    ∧ (∃ (s : State) (a : Aperture), s.reachable = true ∧ s.mode.mode ≠ .lockout ∧ s.sweep.fn = .running ∧
      s.schedule.sweep.pend.filter (fun x => x.opened || decide (x.t ≤ s.clk.tt + tgd s.sweep.lat.corner)) = [a])
    ∧ (∃ (s : State), s.reachable = true ∧ s.mode.mode ≠ .lockout ∧ s.sweep.fn = .stopping ∧ s.sweep.pend = [])
    ∧ (∃ (s : State), s.reachable = true ∧ s.mode.mode ≠ .lockout ∧ s.sweep.fn = .running ∧ 10 * ttS ≤ s.clk.wall -
      s.sweep.lastSnap) :=
  ⟨⟨{ unit with sweep.fn := .stopped, mode.mode := .quiet }, 1, by decide +kernel⟩,
  ⟨{ unit with sweep.fn := .running }, by decide +kernel⟩,
  ⟨{ unit with sweep.pend := [({ t := 40, num := 1, opened := true, mode := 0, young := false, governed := false, aux := false, codes := none, auxDone := false, auxCodes := [], blanked := false, lost := [] })], sweep.fn := .running }, { t := 40, num := 1, opened := true, mode := 0, young := false, governed := false, aux := false, codes := none, auxDone := false, auxCodes := [], blanked := false, lost := [] }, by decide +kernel⟩,
  ⟨{ unit with sweep.fn := .stopping, sweep.pend := [] }, by decide +kernel⟩,
  ⟨{ unit with sweep.lastSnap := T - 10 * ttS, sweep.fn := .running }, by decide +kernel⟩⟩

theorem witness_ApertureEvents :
    (∃ (s : State) (a : Aperture), s.crystalRuns = true ∧ s.periodic = false ∧ s.sweep.pend = [a] ∧ s.blankDue a = true ∧
      s.sweep.blankTo = none)
    ∧ (∃ (s : State) (b : Nat), s.crystalRuns = true ∧ s.sweep.blankTo = some b ∧ b ≤ s.clk.tt ∧ s.sweep.pend = [])
    ∧ (∃ (s : State), s.crystalRuns = true ∧ s.sweep.fn = .running ∧ s.sweep.lat.auxDiv = 1)
    ∧ (∃ (s : State) (a : Aperture), s.crystalRuns = true ∧ s.sweep.pend = [a] ∧ a.opened = false ∧ a.t ≤ s.clk.tt)
    ∧ (∃ (s : State) (a : Aperture), s.crystalRuns = true ∧ s.sweep.pend = [a] ∧ a.opened = true ∧ a.codes = none ∧ a.t + tgd
      s.sweep.lat.corner ≤ s.clk.tt)
    ∧ (∃ (s : State) (a : Aperture) (k : Nat), s.crystalRuns = true ∧ s.sweep.pend = [a] ∧ a.opened = true ∧ a.aux = true ∧
      a.auxDone = false ∧ 10 * a.t + 8192 ≤ 10 * s.clk.tt ∧ k < 16)
    ∧ (∃ (s : State) (c : Nat), s.crystalRuns = true ∧ s.tiersOn = true ∧ s.tierPresent c = true ∧ s.sweep.discards.getD (c -
      1) 0 = 2) :=
  ⟨⟨{ unit with sweep.pend := [({ t := 40, num := 1, opened := false, mode := 0, young := false, governed := false, aux := false, codes := none, auxDone := false, auxCodes := [], blanked := false, lost := [] })], sweep.blankTo := none }, { t := 40, num := 1, opened := false, mode := 0, young := false, governed := false, aux := false, codes := none, auxDone := false, auxCodes := [], blanked := false, lost := [] }, by decide +kernel⟩,
  ⟨{ unit with clk.tt := 44, sweep.blankTo := some 44, sweep.pend := [] }, 44, by decide +kernel⟩,
  ⟨{ unit with sweep.fn := .running, sweep.lat.auxDiv := 1 }, by decide +kernel⟩,
  ⟨{ unit with clk.tt := 40, sweep.pend := [({ t := 40, num := 1, opened := false, mode := 0, young := false, governed := false, aux := false, codes := none, auxDone := false, auxCodes := [], blanked := false, lost := [] })] }, { t := 40, num := 1, opened := false, mode := 0, young := false, governed := false, aux := false, codes := none, auxDone := false, auxCodes := [], blanked := false, lost := [] }, by decide +kernel⟩,
  ⟨{ unit with clk.tt := 40 + tgd 4, sweep.pend := [({ t := 40, num := 1, opened := true, mode := 0, young := false, governed := false, aux := false, codes := none, auxDone := false, auxCodes := [], blanked := false, lost := [] })] }, { t := 40, num := 1, opened := true, mode := 0, young := false, governed := false, aux := false, codes := none, auxDone := false, auxCodes := [], blanked := false, lost := [] }, by decide +kernel⟩,
  ⟨{ unit with clk.tt := 860, sweep.pend := [({ t := 40, num := 1, opened := true, mode := 0, young := false, governed := false, aux := true, codes := none, auxDone := false, auxCodes := [], blanked := false, lost := [] })] }, { t := 40, num := 1, opened := true, mode := 0, young := false, governed := false, aux := true, codes := none, auxDone := false, auxCodes := [], blanked := false, lost := [] }, 15, by decide +kernel⟩,
  ⟨{ unit with sweep.discards := [0, 0, 2] }, 3, by decide +kernel⟩⟩

theorem witness_SweepRecords :
    (∃ (s : State) (a : Aperture) (raw : RawCodes) (n : Nat), s.crystalRuns = true ∧ s.sweep.pend = [a] ∧ a.codes = some raw ∧
      a.aux = false ∧ s.sweep.live.length < 128 ∧ 1 ≤ n ∧ n ≤ 48 ∧ s.cells.length = 48 ∧ inMask s.sweep.lat.mask n = true ∧
      s.sweep.lat.blank = 0 ∧ (∀ c ∈ s.cells, c.stuck = none ∧ ∀ e ∈ c.log, e.bleed = false) ∧ a.lost = [])
    ∧ (∃ (s : State) (a : Aperture) (raw : RawCodes) (n : Nat), s.crystalRuns = true ∧ s.sweep.pend = [a] ∧ a.codes = some raw
      ∧ a.aux = false ∧ s.sweep.live.length < 128 ∧ 1 ≤ n ∧ n ≤ 48 ∧ s.cells.length = 48 ∧ inMask s.sweep.lat.mask n = false)
    ∧ (∃ (s : State) (a : Aperture) (raw : RawCodes), s.crystalRuns = true ∧ s.sweep.pend = [a] ∧ a.codes = some raw ∧ a.aux =
      false ∧ s.sweep.live.length < 128 ∧ s.reachable = true ∧ s.survey.run = none ∧ s.expo.state = .armed ∧ s.expo.ring = []
      ∧ s.expo.trip = none ∧ s.diag.steps = [] ∧ 1 ≤ s.expo.plan.n ∧ tgd s.expo.plan.corner ≤ s.clk.tt) :=
  ⟨⟨{ unit with sweep.lat.mask := 2 ^ 47, sweep.lat.blank := 0, sweep.pend := [({ t := 40, num := 1, opened := true, mode := 0, young := false, governed := false, aux := false, codes := some rawCodes, auxDone := false, auxCodes := [], blanked := false, lost := [] })] }, { t := 40, num := 1, opened := true, mode := 0, young := false, governed := false, aux := false, codes := some rawCodes, auxDone := false, auxCodes := [], blanked := false, lost := [] }, rawCodes, 48, by decide +kernel⟩,
  ⟨{ unit with sweep.lat.mask := 2 ^ 47, sweep.pend := [({ t := 40, num := 1, opened := true, mode := 0, young := false, governed := false, aux := false, codes := some rawCodes, auxDone := false, auxCodes := [], blanked := false, lost := [] })] }, { t := 40, num := 1, opened := true, mode := 0, young := false, governed := false, aux := false, codes := some rawCodes, auxDone := false, auxCodes := [], blanked := false, lost := [] }, rawCodes, 47, by decide +kernel⟩,
  ⟨{ unit with expo.plan.n := 16, sweep.pend := [({ t := 40, num := 1, opened := true, mode := 0, young := false, governed := false, aux := false, codes := some rawCodes, auxDone := false, auxCodes := [], blanked := false, lost := [] })], survey.run := none, expo.state := .armed, expo.ring := [], expo.trip := none, diag.steps := [] }, { t := 40, num := 1, opened := true, mode := 0, young := false, governed := false, aux := false, codes := some rawCodes, auxDone := false, auxCodes := [], blanked := false, lost := [] }, rawCodes, by decide +kernel⟩⟩

theorem witness_SurveyFunction :
    (∃ (s : State), s.reachable = true ∧ s.mode.mode ≠ .lockout ∧ s.mode.mode ≠ .run ∧ s.survey.fn = .stopped)
    ∧ (∃ (s : State) (tag : Nat) (b : Bool), s.reachable = true ∧ s.mode.mode = .run ∧ s.survey.fn = .stopped ∧
      s.surveyRefusal { s.survey.par with tag := tag, setBase := b } (localT0 s.clk.tt) false = 0)
    ∧ (∃ (s : State) (st : Nat), s.reachable = true ∧ s.survey.fn = .running ∧ s.survey.run = none ∧ s.survey.closing = none ∧
      s.survey.lat.runStart s.survey.point s.survey.after = st ∧ st ≤ s.clk.tt)
    ∧ (∃ (s : State) (st : Nat), s.reachable = true ∧ s.survey.run = some st ∧ s.survey.lat.ripple = false ∧ st +
      (s.survey.toggles + 1) * (s.survey.lat.per s.survey.point / 2) ≤ s.clk.tt ∧ st + (s.survey.toggles + 1) *
      (s.survey.lat.per s.survey.point / 2) < s.survey.lat.runEnd s.survey.point st)
    ∧ (∃ (s : State), s.reachable = true ∧ s.mode.mode ≠ .lockout ∧ s.survey.fn = .running)
    ∧ (∃ (s : State), s.reachable = true ∧ s.survey.fn = .stopping ∧ s.survey.closing = none) :=
  ⟨⟨{ unit with survey.fn := .stopped }, by decide +kernel⟩,
  ⟨{ unit with survey.par.ripple := true, survey.par.source := 3, mode.mode := .run, survey.fn := .stopped }, 0, false, by decide +kernel⟩,
  ⟨{ unit with survey.lat.ripple := true, survey.after := 0, survey.fn := .running, survey.run := none, survey.closing := none }, 0, by decide +kernel⟩,
  ⟨{ unit with clk.tt := pointPeriod 1000000 / 2, survey.run := some 0, survey.lat.ripple := false }, 0, by decide +kernel⟩,
  ⟨{ unit with survey.fn := .running }, by decide +kernel⟩,
  ⟨{ unit with survey.fn := .stopping, survey.closing := none }, by decide +kernel⟩⟩

theorem witness_SurveyRunsComplete :
    (∃ (s : State) (st : Nat), s.coreRuns = true ∧ s.mode.mode ≠ .halted ∧ s.survey.run = some st ∧ s.survey.locked = false ∧
      s.selCells ≠ [] ∧ s.glean = { GleanSt.reset with nextAdm := s.glean.nextAdm } ∧ s.survey.lat.winEnd s.survey.point st +
      s.survey.lat.pc s.survey.point / 2 ≤ s.clk.tt)
    ∧ (∃ (s : State) (q : LockJob) (j : Job) (m : Mem), s.coreRuns = true ∧ s.mode.mode ≠ .halted ∧ s.survey.run = none ∧
      s.survey.jobs = [q] ∧ s.survey.closing = none ∧ s.runCells q.g ≠ [] ∧ j.kind = .lockin ∧ j.tag = q.st ∧ s.glean =
      { GleanSt.reset with gleaners := { running := some j, deque := [], scratch := m } :: GleanSt.reset.gleaners.drop 1 })
    ∧ (∃ (s : State) (st : Nat), s.coreRuns = true ∧ s.survey.fn = .running ∧ s.survey.run = some st ∧ s.survey.locked = true
      ∧ s.survey.lat.runEnd s.survey.point st ≤ s.clk.tt ∧ s.survey.group + 1 < groupsOf s.survey.lat)
    ∧ (∃ (s : State) (st : Nat), s.coreRuns = true ∧ s.survey.fn = .running ∧ s.survey.run = some st ∧ s.survey.locked = true
      ∧ s.survey.lat.runEnd s.survey.point st ≤ s.clk.tt ∧ groupsOf s.survey.lat ≤ s.survey.group + 1 ∧ s.survey.point + 1 <
      s.survey.lat.points)
    ∧ (∃ (s : State) (st : Nat), s.coreRuns = true ∧ s.survey.fn = .running ∧ s.survey.run = some st ∧ s.survey.locked = true
      ∧ s.survey.lat.runEnd s.survey.point st ≤ s.clk.tt ∧ groupsOf s.survey.lat ≤ s.survey.group + 1 ∧ s.survey.lat.points ≤
      s.survey.point + 1 ∧ s.survey.jobs = [] ∧ s.mode.mode = .survey)
    ∧ (∃ (s : State) (st : Nat), s.coreRuns = true ∧ s.survey.fn = .running ∧ s.survey.run = some st ∧ s.survey.locked = true
      ∧ s.survey.lat.runEnd s.survey.point st ≤ s.clk.tt ∧ groupsOf s.survey.lat ≤ s.survey.group + 1 ∧ s.survey.lat.points ≤
      s.survey.point + 1 ∧ s.survey.jobs ≠ []) :=
  ⟨⟨{ unit with sweep.lat.mask := 2 ^ 48 - 1, glean := GleanSt.reset, survey.run := some 0, survey.locked := false }, 0, by decide +kernel⟩,
  ⟨{ unit with sweep.lat.mask := 2 ^ 48 - 1, glean := { GleanSt.reset with gleaners := { running := some ({ slot := 3, kind := .lockin, key := 9, tag := 0, adm := 2 }), deque := [], scratch := [] } :: GleanSt.reset.gleaners.drop 1 }, survey.run := none, survey.jobs := [({ k := 0, g := 0, st := 0, outs := [], currents := [] })], survey.closing := none }, { k := 0, g := 0, st := 0, outs := [], currents := [] }, { slot := 3, kind := .lockin, key := 9, tag := 0, adm := 2 }, [], by decide +kernel⟩,
  ⟨{ unit with survey.lat.groups := 1, survey.fn := .running, survey.run := some 0, survey.locked := true }, 0, by decide +kernel⟩,
  ⟨{ unit with survey.lat.points := 2, survey.fn := .running, survey.run := some 0, survey.locked := true }, 0, by decide +kernel⟩,
  ⟨{ unit with mode.mode := .survey, survey.fn := .running, survey.run := some 0, survey.locked := true, survey.jobs := [] }, 0, by decide +kernel⟩,
  ⟨{ unit with survey.jobs := [{ k := 0, g := 0, st := 0, outs := [], currents := [] }], survey.fn := .running, survey.run := some 0, survey.locked := true }, 0, by decide +kernel⟩⟩

theorem witness_BaselineWindow :
    (∃ (s : State), s.reachable = true ∧ s.mode.mode ≠ .lockout ∧ s.survey.fn = .stopped ∧ s.survey.baseIndex ≠ 0)
    ∧ (∃ (s : State), s.reachable = true ∧ s.mode.mode ≠ .lockout ∧ s.survey.fn ≠ .stopped)
    ∧ (∃ (s : State) (x : Nat), s.reachable = true ∧ s.mode.mode ≠ .lockout ∧ s.survey.fn = .stopped ∧
      s.survey.baseArea.length = 1023 ∧ s.memWf ∧ x < 0x40000) :=
  ⟨⟨{ unit with survey.baseIndex := 1022, survey.fn := .stopped }, by decide +kernel⟩,
  ⟨{ unit with survey.fn := .running }, by decide +kernel⟩,
  ⟨{ unit with survey.fn := .stopped }, 0x3FFFF, by unfold State.memWf; decide +kernel⟩⟩

theorem witness_BalanceFunction :
    (∃ (s : State), s.reachable = true ∧ s.cells.length = 48 ∧ s.mode.mode ≠ .lockout ∧ s.bal.fn = .stopped ∧ s.balanceRefusal
      ≠ 0)
    ∧ (∃ (s : State) (n : Nat), s.reachable = true ∧ s.cells.length = 48 ∧ s.mode.mode ≠ .lockout ∧ s.bal.fn = .stopped ∧
      s.balanceRefusal = 0 ∧ 1 ≤ n ∧ n ≤ 48)
    ∧ (∃ (s : State), s.reachable = true ∧ s.cells.length = 48 ∧ s.mode.mode ≠ .lockout ∧ s.bal.fn = .running)
    ∧ (∃ (s : State), s.reachable = true ∧ s.cells.length = 48 ∧ s.bal.fn = .stopping)
    ∧ (∃ (s : State), s.reachable = true ∧ s.cells.length = 48 ∧ s.slotDue = true ∧ s.bal.fn = .running)
    ∧ (∃ (s : State), s.reachable = true ∧ s.cells.length = 48 ∧ s.slotDue = true ∧ s.bal.fn ≠ .running)
    ∧ (∃ (s : State) (n : Nat) (m : Nat), s.reachable = true ∧ s.cells.length = 48 ∧ s.bal.fn = .running ∧ inMask
      s.bal.lEnable n = true ∧ (s.cell n).remain = 0 ∧ 1 ≤ n ∧ n ≤ 48 ∧ 1 ≤ m ∧ m ≤ 48 ∧ inMask s.bal.lEnable m = true ∧
      (s.cell m).remain ≠ 0 ∧ (s.cell m).excluded = false)
    ∧ (∃ (s : State) (n : Nat), s.reachable = true ∧ s.cells.length = 48 ∧ s.bal.fn = .running ∧ inMask s.bal.lEnable n = true
      ∧ (s.cell n).remain = 0 ∧ (∀ m ∈ cellNums, inMask s.bal.lEnable m = true → (s.cell m).remain = 0)) :=
  ⟨⟨{ unit with mode.station := true, bal.fn := .stopped }, by decide +kernel⟩,
  ⟨{ unit with bal.fn := .stopped }, 48, by decide +kernel⟩,
  ⟨{ unit with bal.fn := .running }, by decide +kernel⟩,
  ⟨{ unit with bal.fn := .stopping }, by decide +kernel⟩,
  ⟨{ unit with bal.fn := .running }, by decide +kernel⟩,
  ⟨unit, by decide +kernel⟩,
  ⟨{ unit with bal.lEnable := 3, cells := CellSt.reset :: { CellSt.reset with remain := 1 } :: List.replicate 46 CellSt.reset, bal.fn := .running }, 1, 2, by decide +kernel⟩,
  ⟨{ unit with bal.lEnable := 1, bal.fn := .running }, 1, by decide +kernel⟩⟩

theorem witness_ProofPath :
    (∃ (s : State) (n : Nat), s.coreRuns = true ∧ s.cells.length = 48 ∧ s.roundDue = true ∧ 1 ≤ n ∧ n ≤ 48)
    ∧ (∃ (s : State) (tier : Nat) (ppb : Int), s.coreRuns = true ∧ s.cells.length = 48 ∧ s.witnessDue tier = true ∧ ppb.natAbs
      ≤ 400000)
    ∧ (∃ (s : State) (tier : Nat) (ppb : Int), s.coreRuns = true ∧ s.cells.length = 48 ∧ tier = 2 ∧ s.witnessDue tier = true ∧
      400000 < ppb.natAbs ∧ s.diag.witCnt = [0, 7, 0] ∧ s.diag.refWit = [false, false, false] ∧ s.diag.refProof = [false,
      false, false])
    ∧ (∃ (s : State), s.coreRuns = true ∧ s.cells.length = 48 ∧ s.reachable = true ∧ s.diag.owEn = true ∧ s.diag.ovrOw = false
      ∧ 2 * (s.diag.owPeriod * ttMs) ≤ s.clk.wall - s.diag.owSince ∧ s.clk.wall - s.diag.owSince < 4 * (s.diag.owPeriod *
      ttMs))
    ∧ (∃ (s : State), s.coreRuns = true ∧ s.cells.length = 48 ∧ s.reachable = true ∧ s.diag.switchEn = true ∧ s.diag.swFault =
      false ∧ s.diag.owFault = false ∧ 4 * (s.diag.swPeriod * ttS) ≤ s.clk.wall - s.diag.swSince)
    ∧ (∃ (s : State), s.coreRuns = true ∧ s.cells.length = 48 ∧ s.reachable = true ∧ s.diag.harnessEn = true ∧
      s.diag.ovrHarness = false ∧ 2 * (s.diag.haPeriod * ttS) ≤ s.clk.wall - s.diag.haSince)
    ∧ (∃ (s : State) (v : List Nat), s.coreRuns = true ∧ s.cells.length = 48 ∧ s.lampDue = true ∧ s.enrolled = false ∧
      s.mode.lampUv = 0 ∧ s.mode.lampOv ≠ 0 ∧ s.tierPresent 1 = true ∧ s.selected 1 = true ∧ 1 ∉ s.sweep.proofLost ∧ 100 *
      s.mode.lampOv ≤ 150 * v.getD 0 0)
    ∧ (∃ (s : State), s.coreRuns = true ∧ s.cells.length = 48 ∧ s.lampDue = true ∧ s.enrolled = false ∧ s.mode.lampUv = 0 ∧
      s.mode.lampOv = 0) :=
  ⟨⟨unit, 48, by decide +kernel⟩,
  ⟨unit, 3, -400000, by decide +kernel⟩,
  ⟨{ unit with diag.witCnt := [0, 7, 0], diag.refWit := [false, false, false], diag.refProof := [false, false, false] }, 2, 400001, by decide +kernel⟩,
  ⟨{ unit with diag.owSince := T - 2000 * ttMs, diag.owEn := true, diag.ovrOw := false }, by decide +kernel⟩,
  ⟨{ unit with diag.swSince := T - 2400 * ttS, diag.switchEn := true, diag.swFault := false, diag.owFault := false }, by decide +kernel⟩,
  ⟨{ unit with diag.haSince := T - 2 * (unit.diag.haPeriod * ttS), diag.harnessEn := true, diag.ovrHarness := false }, by decide +kernel⟩,
  ⟨{ unit with mode.mode := .dormant, clk.rtc := 2 ^ 40, mode.lampUv := 0, mode.lampOv := 3 }, [2], by decide +kernel⟩,
  ⟨{ unit with mode.mode := .dormant, clk.rtc := 2 ^ 40, mode.lampUv := 0, mode.lampOv := 0 }, by decide +kernel⟩⟩

theorem witness_RuntimeTestsAndTableWindow :
    (∃ (s : State) (n : Nat), s.coreRuns = true ∧ s.diag.readLost = [] ∧ s.cells.length = 48 ∧ 1 ≤ n ∧ n ≤ 48 ∧ s.switchDue n
      = true ∧ 150000 ≤ s.testV n)
    ∧ (∃ (s : State) (n : Nat) (w : Nat) (ua : Nat) (uv : Nat), s.coreRuns = true ∧ s.diag.readLost = [] ∧ s.cells.length = 48
      ∧ 1 ≤ n ∧ n ≤ 48 ∧ s.diag.steps = [TestStep.switch n w] ∧ w + 40960 ≤ s.clk.tt ∧ 5000 ≤ ua ∧ uv ≤ 3 * ua ∧ (s.cell
      n).prevPath = 0)
    ∧ (∃ (s : State) (n : Nat) (w : Nat) (ua : Nat), s.coreRuns = true ∧ s.diag.readLost = [] ∧ s.cells.length = 48 ∧ 1 ≤ n ∧
      n ≤ 48 ∧ s.diag.steps = [TestStep.switch n w] ∧ w + 40960 ≤ s.clk.tt ∧ ua < 5000 ∧ 150000 ≤ s.testV n ∧ s.mode.mode ∉
      [.ship, .keep])
    ∧ (∃ (s : State) (n : Nat), s.coreRuns = true ∧ s.diag.readLost = [] ∧ s.cells.length = 48 ∧ 1 ≤ n ∧ n ≤ 48 ∧ s.wireDue n
      = true)
    ∧ (∃ (s : State) (n : Nat) (w : Nat) (below : Int), s.coreRuns = true ∧ s.diag.readLost = [] ∧ s.cells.length = 48 ∧ 1 ≤ n
      ∧ n ≤ 48 ∧ s.diag.steps = [TestStep.wire n w] ∧ w + 20480 ≤ s.clk.tt ∧ below ≤ 150000 ∧ s.diag.openWires = [])
    ∧ (∃ (s : State) (n : Nat) (w : Nat) (below : Int), s.coreRuns = true ∧ s.diag.readLost = [] ∧ s.cells.length = 48 ∧ 1 ≤ n
      ∧ n ≤ 48 ∧ s.diag.steps = [TestStep.wire n w] ∧ w + 20480 ≤ s.clk.tt ∧ 150000 < below ∧ s.diag.openWires = [] ∧
      s.diag.suspects = [])
    ∧ (∃ (s : State) (n : Nat) (w : Nat) (below : Int) (own : Int) (above : Int), s.coreRuns = true ∧ s.diag.readLost = [] ∧
      s.cells.length = 48 ∧ 1 ≤ n ∧ n ≤ 48 ∧ s.diag.steps = [TestStep.wire n w] ∧ w + 20480 ≤ s.clk.tt ∧ 150000 < below ∧
      150000 < above ∧ own ≤ 150000 ∧ s.diag.openWires = [] ∧ s.diag.suspects = [(n, [n])] ∧ s.mode.mode ∉ [.ship, .keep])
    ∧ (∃ (s : State) (n : Nat), s.coreRuns = true ∧ s.diag.readLost = [] ∧ s.cells.length = 48 ∧ 1 ≤ n ∧ n ≤ 48 ∧ s.harnessDue
      n = true)
    ∧ (∃ (s : State) (n : Nat) (w : Nat), s.coreRuns = true ∧ s.diag.readLost = [] ∧ s.cells.length = 48 ∧ 1 ≤ n ∧ n ≤ 48 ∧
      s.diag.steps = [TestStep.harness n w] ∧ s.diag.hOuts = [] ∧ s.clk.tt < w + 5672960 ∧ w + 389120 ≤ s.streamTap 4 ∧
      s.streamTap 4 < w + 5632000)
    ∧ (∃ (s : State) (n : Nat) (w : Nat), s.coreRuns = true ∧ s.diag.readLost = [] ∧ s.cells.length = 48 ∧ 1 ≤ n ∧ n ≤ 48 ∧
      s.diag.steps = [TestStep.harness n w] ∧ w + 5672960 ≤ s.clk.tt)
    ∧ (∃ (s : State) (n : Nat), s.coreRuns = true ∧ s.diag.readLost = [] ∧ s.cells.length = 48 ∧ 1 ≤ n ∧ n ≤ 48 ∧
      s.passComplete = true)
    ∧ (∃ (s : State) (n : Nat), s.coreRuns = true ∧ s.diag.readLost = [] ∧ s.cells.length = 48 ∧ 1 ≤ n ∧ n ≤ 48 ∧ s.reachable
      = true ∧ s.mode.mode ≠ .lockout ∧ s.diag.harnessEn = true)
    ∧ (∃ (s : State) (n : Nat), s.coreRuns = true ∧ s.diag.readLost = [] ∧ s.cells.length = 48 ∧ 1 ≤ n ∧ n ≤ 48 ∧ s.reachable
      = true ∧ s.mode.mode ≠ .lockout ∧ s.diag.switchEn = true)
    ∧ (∃ (s : State), s.reachable = true ∧ s.mode.mode ≠ .lockout ∧ s.mode.station = false)
    ∧ (∃ (s : State), s.reachable = true ∧ s.mode.mode ≠ .lockout ∧ s.sweep.fn = .stopped ∧ s.bal.fn = .stopped ∧ s.survey.fn
      = .stopped ∧ s.diag.index < 49)
    ∧ (∃ (s : State), s.reachable = true ∧ s.mode.mode ≠ .lockout ∧ (s.sweep.fn ≠ .stopped ∨ s.bal.fn ≠ .stopped ∨ s.survey.fn
      ≠ .stopped)) :=
  ⟨⟨{ unit with diag.swNow := true, cells := List.replicate 48 { CellSt.reset with proof := 1000 }, diag.readLost := [] }, 48, by decide +kernel⟩,
  ⟨{ unit with clk.tt := 41000, diag.readLost := [], diag.steps := [TestStep.switch 48 40] }, 48, 40, 5000, 15000, by decide +kernel⟩,
  ⟨{ unit with cells := List.replicate 48 { CellSt.reset with proof := 1000 }, diag.readLost := [], diag.steps := [TestStep.switch 48 40] }, 48, 40, 4999, by decide +kernel⟩,
  ⟨{ unit with diag.readLost := [] }, 48, by decide +kernel⟩,
  ⟨{ unit with diag.readLost := [], diag.steps := [TestStep.wire 48 0], diag.openWires := [] }, 48, 0, 150000, by decide +kernel⟩,
  ⟨{ unit with diag.readLost := [], diag.steps := [TestStep.wire 48 0], diag.openWires := [], diag.suspects := [] }, 48, 0, 150001, by decide +kernel⟩,
  ⟨{ unit with diag.readLost := [], diag.steps := [TestStep.wire 48 0], diag.openWires := [], diag.suspects := [(48, [48])] }, 48, 0, 150001, 150000, 150001, by decide +kernel⟩,
  ⟨{ unit with cells := List.replicate 48 { CellSt.reset with rPath := { v := 1, ok := true } }, diag.harnessOn := true, sweep.lat.mask := 2 ^ 48 - 1, diag.readLost := [] }, 48, by decide +kernel⟩,
  ⟨{ unit with clk.tt := 480000, diag.steps := [TestStep.harness 48 40], diag.readLost := [], diag.hOuts := [] }, 48, 40, by decide +kernel⟩,
  ⟨{ unit with clk.tt := 5673000, diag.steps := [TestStep.harness 48 40], diag.readLost := [] }, 48, 40, by decide +kernel⟩,
  ⟨{ unit with diag.harnessOn := true, diag.haDone := [1], diag.readLost := [] }, 1, by decide +kernel⟩,
  ⟨{ unit with diag.readLost := [], diag.harnessEn := true }, 1, by decide +kernel⟩,
  ⟨{ unit with diag.readLost := [], diag.switchEn := true }, 1, by decide +kernel⟩,
  ⟨{ unit with mode.station := false }, by decide +kernel⟩,
  ⟨{ unit with diag.index := 48, sweep.fn := .stopped, bal.fn := .stopped, survey.fn := .stopped }, by decide +kernel⟩,
  ⟨{ unit with bal.fn := .running }, by decide +kernel⟩⟩

theorem witness_JobsAndHarvestTimers :
    (∃ (s : State) (kind : JobKind) (g : Nat) (n : Nat), s.glean.gleaners.length = 16 ∧ s.coreRuns = true ∧ s.reachable = true
      ∧ s.mode.mode ≠ .halted ∧ s.glean.waiting = [] ∧ s.shortest = some g ∧ s.freeSlot kind = some n ∧ (s.gleaner
      g).deque.length < 32)
    ∧ (∃ (s : State) (g : Nat) (j : Job), s.glean.gleaners.length = 16 ∧ s.coreRuns = true ∧ s.reachable = true ∧ s.mode.mode
      ≠ .halted ∧ s.glean.waiting = [] ∧ s.breakFree = true ∧ s.dbg.passJob = none ∧ g < 16 ∧ s.islandWorks (g / 4) = true ∧
      (s.gleaner g).running = none ∧ s.longest = some g ∧ (s.gleaner g).deque.head? = some j)
    ∧ (∃ (s : State) (g : Nat) (o : Nat) (j : Job), s.glean.gleaners.length = 16 ∧ s.coreRuns = true ∧ s.reachable = true ∧
      s.mode.mode ≠ .halted ∧ s.glean.waiting = [] ∧ s.breakFree = true ∧ s.dbg.passJob = none ∧ g < 16 ∧ s.islandWorks (g /
      4) = true ∧ (s.gleaner g).running = none ∧ s.longest = some o ∧ o < 16 ∧ o ≠ g ∧ (s.gleaner o).deque.head? = some j)
    ∧ (∃ (s : State) (g : Nat) (j : Job) (r : Rec), s.glean.gleaners.length = 16 ∧ s.coreRuns = true ∧ s.mode.mode ≠ .halted ∧
      g < 16 ∧ (s.gleaner g).running = some j ∧ j.kind = .forward ∧ s.glean.finished = [] ∧ s.glean.waiting = [] ∧
      s.glean.harvests = [] ∧ s.keyBlocked j = false ∧ s.glean.forwards = [(j.tag, .record r)] ∧ r.intact = true ∧ s.isRoot =
      false ∧ s.forwardGranted j.tag = true)
    ∧ (∃ (s : State) (i : Nat), s.glean.gleaners.length = 16 ∧ s.coreRuns = true ∧ i < 4 ∧ bit s.glean.inUse i = true ∧ bit
      s.glean.islandEn i = false ∧ [0, 1, 2, 3].all (fun k => (s.gleaner (4 * i + k)).running.isNone) = true)
    ∧ (∃ (s : State) (h : Harvest) (a : Contributor) (b : Contributor) (u : Nat), s.coreRuns = true ∧ s.glean.harvests = [h] ∧
      h.up = some u ∧ h.kids = [a, b] ∧ a.settled = false ∧ b.settled = false ∧ h.tResp * ttMs ≤ s.clk.wall - a.since ∧
      s.clk.wall - b.since < h.tResp * ttMs)
    ∧ (∃ (s : State) (h : Harvest) (a : Contributor) (b : Contributor) (u : Nat), s.coreRuns = true ∧ s.glean.harvests = [h] ∧
      h.up = some u ∧ h.kids = [a, b] ∧ a.settled = false ∧ b.settled = true ∧ h.tResp * ttMs ≤ s.clk.wall - a.since ∧ h.todo
      = [] ∧ h.collecting = false ∧ (isQueryReq h.req = true → s.outRoom = true ∧ (∀ k ∈ h.kids, ∀ p, k.port = some p → p <
      16) ∧ ∀ k ∈ h.kids, ∀ c, k.given = some c → c.gather = false))
    ∧ (∃ (s : State) (h : Harvest) (a : Contributor) (b : Contributor) (u : Nat), s.coreRuns = true ∧ s.glean.harvests = [h] ∧
      h.up = some u ∧ h.kids = [a, b] ∧ h.tResp * ttMs / 4 ≤ s.clk.wall - h.lastPend) :=
  ⟨⟨{ unit with glean.waiting := [] }, .member, 0, 0, by decide +kernel⟩,
  ⟨{ unit with glean.gleaners := { running := none, deque := [({ slot := 3, kind := .forward, key := 0, tag := 0, adm := 0 })], scratch := [] } :: List.replicate 15 { running := none, deque := [], scratch := [] }, glean.waiting := [], dbg.passJob := none }, 0, { slot := 3, kind := .forward, key := 0, tag := 0, adm := 0 }, by decide +kernel⟩,
  ⟨{ unit with glean.gleaners := { running := none, deque := [], scratch := [] } :: { running := none, deque := [({ slot := 3, kind := .forward, key := 0, tag := 0, adm := 0 })], scratch := [] } :: List.replicate 14 { running := none, deque := [], scratch := [] }, glean.waiting := [], dbg.passJob := none }, 0, 1, { slot := 3, kind := .forward, key := 0, tag := 0, adm := 0 }, by decide +kernel⟩,
  ⟨{ hubUnit with ports := [{ upPort with credits := { s := 32, c := 512, d := 2048, b := 1504 } }, PortSt.reset, PortSt.reset, PortSt.reset], glean.gleaners := { running := some ({ slot := 3, kind := .forward, key := 0, tag := 0, adm := 0 }), deque := [], scratch := [] } :: List.replicate 15 { running := none, deque := [], scratch := [] }, glean.forwards := [(0, .record (default : Rec).sealed)], glean.finished := [], glean.waiting := [], glean.harvests := [] }, 0, { slot := 3, kind := .forward, key := 0, tag := 0, adm := 0 }, (default : Rec).sealed, by decide +kernel, by decide +kernel, by decide +kernel, by decide +kernel, by decide +kernel, by decide +kernel, by decide +kernel, by decide +kernel, by decide +kernel, by decide +kernel, rfl, sealed_intact _, by decide +kernel, by decide +kernel⟩,
  ⟨{ unit with glean.islandEn := 7 }, 3, by decide +kernel⟩,
  ⟨{ unit with glean.harvests := [({ tag := 7, up := some 0, req := .nop, src := 0, pos := 0, depth := 255, kids := [{ port := some 1, since := T - 50 * ttMs, given := none, lost := false }, { port := some 1, since := T, given := none, lost := false }], lastPend := 0, tResp := 50, slot := none, todo := [], collecting := false })] }, { tag := 7, up := some 0, req := .nop, src := 0, pos := 0, depth := 255, kids := [{ port := some 1, since := T - 50 * ttMs, given := none, lost := false }, { port := some 1, since := T, given := none, lost := false }], lastPend := 0, tResp := 50, slot := none, todo := [], collecting := false }, { port := some 1, since := T - 50 * ttMs, given := none, lost := false }, { port := some 1, since := T, given := none, lost := false }, 0, by decide +kernel⟩,
  ⟨{ unit with glean.harvests := [({ tag := 7, up := some 0, req := .nop, src := 0, pos := 0, depth := 255, kids := [{ port := some 1, since := T - 50 * ttMs, given := none, lost := false }, { port := some 1, since := 0, given := none, lost := true }], lastPend := 0, tResp := 50, slot := none, todo := [], collecting := false })] }, { tag := 7, up := some 0, req := .nop, src := 0, pos := 0, depth := 255, kids := [{ port := some 1, since := T - 50 * ttMs, given := none, lost := false }, { port := some 1, since := 0, given := none, lost := true }], lastPend := 0, tResp := 50, slot := none, todo := [], collecting := false }, { port := some 1, since := T - 50 * ttMs, given := none, lost := false }, { port := some 1, since := 0, given := none, lost := true }, 0, by decide +kernel⟩,
  ⟨{ hubUnit with ports := [{ upPort with link := .training, credits := { s := 32, c := 512, d := 2048, b := 1504 } }, PortSt.reset, PortSt.reset, PortSt.reset], glean.harvests := [({ tag := 7, up := some 0, req := .nop, src := 0, pos := 0, depth := 255, kids := [{ port := some 1, since := T, given := none, lost := false }, { port := some 1, since := T, given := none, lost := false }], lastPend := T - 50 * ttMs / 4, tResp := 50, slot := none, todo := [], collecting := false })] }, { tag := 7, up := some 0, req := .nop, src := 0, pos := 0, depth := 255, kids := [{ port := some 1, since := T, given := none, lost := false }, { port := some 1, since := T, given := none, lost := false }], lastPend := T - 50 * ttMs / 4, tResp := 50, slot := none, todo := [], collecting := false }, { port := some 1, since := T, given := none, lost := false }, { port := some 1, since := T, given := none, lost := false }, 0, by decide +kernel⟩⟩

theorem witness_ExposuresTripFreezeAndExpire :
    (∃ (s : State) (x : Sample), s.coreRuns = true ∧ s.expo.state = .armed ∧ s.expo.trip = none ∧ s.expo.ring = [x] ∧ s.meets
      x = true)
    ∧ (∃ (s : State) (x : Sample) (t0 : Nat), s.coreRuns = true ∧ s.expo.state = .armed ∧ s.expo.trip = some t0 ∧ s.expo.own =
      false ∧ s.expo.ring = [x] ∧ s.meets x = true)
    ∧ (∃ (s : State) (x : Sample), s.coreRuns = true ∧ s.expo.state = .armed ∧ s.expo.trip = none ∧ s.expo.ring = [x] ∧
      s.meets x = false)
    ∧ (∃ (s : State) (x : Sample) (p : Nat) (t0 : Nat), s.coreRuns = true ∧ s.expo.state = .capturing ∧ s.expo.trip = some t0
      ∧ s.expo.ring = [x] ∧ s.expoLast t0 ≤ x.t ∧ bit s.expo.plan.options 0 = false ∧ s.isRoot = false ∧ s.route 0 = .out p ∧
      p < 4 ∧ s.ports.length = 4 ∧ (∀ q ∈ s.ports, q.link = .down) ∧ s.segmentBytes s.expoSamples false t0
      ((s.expoSamples.head?.map Sample.t).getD t0) ≠ [])
    ∧ (∃ (s : State), s.coreRuns = true ∧ s.expo.state = .armed ∧ s.expo.plan.trigger ≠ 0 ∧ s.expo.trip = none ∧
      s.expo.plan.time ≤ s.clk.tt) :=
  ⟨⟨{ unit with expo.plan.trigger := 1, expo.plan.level := 6, expo.state := .armed, expo.trip := none, expo.ring := [({ t := 40, cells := List.replicate 48 7, is1 := 0, is2 := 0, flags := 0 })] }, { t := 40, cells := List.replicate 48 7, is1 := 0, is2 := 0, flags := 0 }, by decide +kernel⟩,
  ⟨{ unit with expo.plan.trigger := 1, expo.plan.level := 6, expo.state := .armed, expo.trip := some 40, expo.own := false, expo.ring := [({ t := 40, cells := List.replicate 48 7, is1 := 0, is2 := 0, flags := 0 })] }, { t := 40, cells := List.replicate 48 7, is1 := 0, is2 := 0, flags := 0 }, 40, by decide +kernel⟩,
  ⟨{ unit with expo.plan.trigger := 1, expo.plan.level := 7, expo.state := .armed, expo.trip := none, expo.ring := [({ t := 40, cells := List.replicate 48 7, is1 := 0, is2 := 0, flags := 0 })] }, { t := 40, cells := List.replicate 48 7, is1 := 0, is2 := 0, flags := 0 }, by decide +kernel⟩,
  ⟨{ hubUnit with expo.plan.n := 16, expo.plan.pre := 15, ports := List.replicate 4 { PortSt.reset with link := .down }, expo.state := .capturing, expo.trip := some 40, expo.ring := [({ t := 40, cells := List.replicate 48 7, is1 := 0, is2 := 0, flags := 0 })] }, { t := 40, cells := List.replicate 48 7, is1 := 0, is2 := 0, flags := 0 }, 0, 40, by decide +kernel⟩,
  ⟨{ unit with expo.plan.trigger := 3, expo.plan.time := 5, expo.state := .armed, expo.trip := none }, by decide +kernel⟩⟩

theorem witness_RegisterAccess :
    (∃ (s : State) (a : Nat) (n : Nat), s.hasHost = false ∧ s.mode.shipDue = false ∧ s.reachable = true ∧ s.mode.mode ≠
      .lockout ∧ s.breakFree = true ∧ argsOk (.paramRead a n) = true ∧ s.readStatus a n = stOk)
    ∧ (∃ (s : State), s.hasHost = false ∧ s.mode.shipDue = false ∧ s.reachable = true ∧ s.mode.mode ≠ .lockout ∧ s.breakFree =
      true ∧ s.mode.tLoss < 65536 ∧ s.mode.lampInterval < 65536)
    ∧ (∃ (s : State) (a : Nat) (ws : List Nat), s.hasHost = false ∧ s.mode.shipDue = false ∧ s.reachable = true ∧ s.mode.mode
      ≠ .lockout ∧ s.breakFree = true ∧ argsOk (.paramWrite a ws) = true)
    ∧ (∃ (s : State) (v : Nat), s.hasHost = false ∧ s.mode.shipDue = false ∧ s.reachable = true ∧ s.mode.mode ≠ .lockout ∧
      s.breakFree = true ∧ 100 ≤ v ∧ v ≤ 60000)
    ∧ (∃ (s : State) (v : Nat), s.hasHost = false ∧ s.mode.shipDue = false ∧ s.reachable = true ∧ s.mode.mode ≠ .lockout ∧
      s.breakFree = true ∧ v < 100)
    ∧ (∃ (s : State) (v : Nat) (n : Nat), s.hasHost = false ∧ s.mode.shipDue = false ∧ s.reachable = true ∧ s.mode.mode ≠
      .lockout ∧ v < 2 ^ 32 ∧ s.breakAt 2 0x10C true = some n ∧ s.mode.mode ∈ [.quiet, .run, .degraded, .safe] ∧
      s.flash.commit.isOpen = false ∧ s.higherDue = false)
    ∧ (∃ (s : State) (a : Nat) (ws : List Nat), s.hasHost = false ∧ s.mode.shipDue = false ∧ s.reachable = true ∧ s.mode.mode
      ≠ .lockout ∧ s.breakFree = true ∧ argsOk (.paramWriteVerify a ws) = true)
    ∧ (∃ (s : State) (v : Nat), s.hasHost = false ∧ s.mode.shipDue = false ∧ s.reachable = true ∧ s.mode.mode ≠ .lockout ∧
      s.breakFree = true ∧ s.sweep.fn = .stopped ∧ 40 ≤ v ∧ v ≤ 2400000)
    ∧ (∃ (s : State), s.hasHost = false ∧ s.mode.shipDue = false ∧ s.reachable = true ∧ s.mode.mode ≠ .lockout ∧ s.breakFree =
      true ∧ s.sweep.fn ≠ .stopped)
    ∧ (∃ (s : State) (a : Nat), s.hasHost = false ∧ s.mode.shipDue = false ∧ s.reachable = true ∧ s.mode.mode ≠ .lockout ∧
      s.ident.debugLock = false ∧ paramAddr a = true ∧ s.readRefusal a = stOk)
    ∧ (∃ (s : State), s.hasHost = false ∧ s.mode.shipDue = false ∧ s.reachable = true ∧ s.mode.mode ≠ .lockout ∧
      s.ident.debugLock = false ∧ s.mode.tLoss < 65536)
    ∧ (∃ (s : State) (v : Nat) (a : Nat), s.hasHost = false ∧ s.mode.shipDue = false ∧ s.reachable = true ∧ s.mode.mode ≠
      .lockout ∧ s.ident.debugLock = false ∧ paramAddr a = true ∧ (({ s with reply := none, out := [] } :
      State).dbgAttach.writePort a v).1 = stOk)
    ∧ (∃ (s : State) (v : Nat), s.hasHost = false ∧ s.mode.shipDue = false ∧ s.reachable = true ∧ s.mode.mode ≠ .lockout ∧
      s.ident.debugLock = false ∧ 100 ≤ v ∧ v ≤ 60000) :=
  ⟨⟨{ unit with mode.shipDue := false }, 0x100, 3, by decide +kernel⟩,
  ⟨{ unit with mode.shipDue := false }, by decide +kernel⟩,
  ⟨{ unit with mode.shipDue := false }, 0x7FF8, [1, 2], by decide +kernel⟩,
  ⟨{ unit with mode.shipDue := false }, 60000, by decide +kernel⟩,
  ⟨{ unit with mode.shipDue := false }, 99, by decide +kernel⟩,
  ⟨{ unit with dbg.brk := [{ en := true, typ := 2, wo := true, value := 0x10C }], mode.shipDue := false, mode.mode := .quiet, flash.commit.isOpen := false }, 60000, 0, by decide +kernel⟩,
  ⟨{ unit with mode.shipDue := false }, 0x204, [40], by decide +kernel⟩,
  ⟨{ unit with mode.shipDue := false, sweep.fn := .stopped }, 40, by decide +kernel⟩,
  ⟨{ unit with sweep.fn := .stopping, mode.shipDue := false }, by decide +kernel⟩,
  ⟨{ unit with mode.shipDue := false, ident.debugLock := false }, 0x518, by decide +kernel⟩,
  ⟨{ unit with mode.shipDue := false, ident.debugLock := false }, by decide +kernel⟩,
  ⟨{ unit with mode.shipDue := false, ident.debugLock := false }, 100, 0x10C, by decide +kernel⟩,
  ⟨{ unit with mode.shipDue := false, ident.debugLock := false }, 100, by decide +kernel⟩⟩

theorem witness_DescriptorsBeginTheirWork :
    (∃ (s : State) (q : Prog) (g : Nat) (k : Nat), s.hasHost = false ∧ s.mode.shipDue = false ∧ s.reachable = true ∧
      s.mode.mode ∉ [.lockout, .halted] ∧ progValid q = true ∧ q.skip < 4 ∧ s.working ≠ [] ∧ s.glean.waiting = [] ∧ s.shortest
      = some g ∧ s.freeSlot .member = some k ∧ (s.gleaner g).deque.length < 32 ∧ s.glean.gleaners.length = 16)
    ∧ (∃ (s : State) (p : Plan), s.hasHost = false ∧ s.mode.shipDue = false ∧ s.reachable = true ∧ s.mode.mode = .run ∧
      s.expo.state = .idle ∧ planValid p = true ∧ p.options < 2)
    ∧ (∃ (s : State) (t0 : Nat) (tag : Nat) (src : Nat), s.hasHost = false ∧ s.mode.shipDue = false ∧ s.reachable = true ∧
      s.mode.mode = .run ∧ s.survey.fn = .stopped ∧ tag < 65536 ∧ src < 262144 ∧ s.surveyRefusal
      { s.survey.par with tag := tag } t0 true = 0)
    ∧ (∃ (s : State) (n : Nat), s.hasHost = false ∧ s.mode.shipDue = false ∧ s.reachable = true ∧ s.mode.mode = .quiet ∧
      s.survey.fn = .stopped ∧ s.flash.commit.isOpen = false ∧ 512 ≤ n ∧ n ≤ 1048576 ∧ n % 256 = 0)
    ∧ (∃ (s : State) (n : Nat) (a : Nat) (bs : List Byte), s.hasHost = false ∧ s.mode.shipDue = false ∧ s.reachable = true ∧
      s.flash.commit.isOpen = true ∧ s.flash.commit.state = 2 ∧ s.flash.commit.done = [] ∧ s.flash.commit.length = n ∧ 512 ≤ n
      ∧ a % 256 = 0 ∧ a + 256 ≤ n ∧ n ≤ 1048576 ∧ bs.length = 256 ∧ s.bank s.inactive = [])
    ∧ (∃ (s : State) (n : Nat) (g : Nat) (a : Nat), s.hasHost = false ∧ s.mode.shipDue = false ∧ s.reachable = true ∧
      s.flash.wear = [] ∧ argsOk (.logRead g a n) = true ∧ (s.mode.mode ≠ .lockout ∨ g = 2))
    ∧ (∃ (s : State) (n : Nat) (c : Nat) (k : Nat) (a : Nat) (y : Nat) (o : Nat) (bs : List Byte), s.hasHost = false ∧
      s.mode.shipDue = false ∧ s.reachable = true ∧ s.mode.mode ∉ [.lockout, .halted] ∧ s.checks.length = 4 ∧ argsOk
      (.checkRun k a y o n c bs .none) = true ∧ s.checkRefusal k a o n = stOk ∧ s.working ≠ []) :=
  ⟨⟨{ unit with mode.shipDue := false, glean.waiting := [] }, { source := 0, field := 0, skip := 3, steps := 1, select := 0, step1 := { op := 2, mode := 0, aux := 0, p1 := 0, p2 := 0 }, step2 := { op := 0, mode := 0, aux := 0, p1 := 0, p2 := 0 } }, 0, 0, by decide +kernel⟩,
  ⟨{ unit with mode.shipDue := false, mode.mode := .run, expo.state := .idle }, { corner := 7, trigger := 3, channel := 1, options := 1, n := 8192, pre := 8191, level := 0, time := 0 }, by decide +kernel⟩,
  ⟨{ unit with survey.par.ripple := true, survey.par.source := 3, mode.shipDue := false, mode.mode := .run, survey.fn := .stopped }, 10000000000001, 65535, 262143, by decide +kernel⟩,
  ⟨{ unit with mode.shipDue := false, mode.mode := .quiet, survey.fn := .stopped, flash.commit.isOpen := false }, 512, by decide +kernel⟩,
  ⟨{ unit with flash.commit.length := 512, mode.shipDue := false, flash.commit.isOpen := true, flash.commit.state := 2, flash.commit.done := [] }, 512, 256, List.replicate 256 255, by decide +kernel⟩,
  ⟨{ unit with mode.mode := .lockout, mode.shipDue := false, flash.wear := [] }, 4096, 2, 7, by decide +kernel⟩,
  ⟨{ unit with mode.shipDue := false }, 1048576, 0, 3, 1, 3, 0, [], by decide +kernel⟩⟩

theorem witness_GrenpaWire :
    (∃ (s : State) (n : Nat), s.hasHost = false ∧ s.mode.shipDue = false ∧ s.mode.mode ∈ [.quiet, .run] ∧ s.coreRuns = true ∧
      s.wire.fn = .stopped ∧ 1 ≤ n ∧ n ≤ 15)
    ∧ (∃ (s : State) (bus : WireBus), s.hasHost = false ∧ s.mode.shipDue = false ∧ s.mode.mode ∈ [.quiet, .run] ∧ s.coreRuns =
      true ∧ s.wire.fn = .running ∧ s.wire.spu = none ∧ (busTry bus 0).fault = 0 ∧ (busTry bus 0).presence = false)
    ∧ (∃ (s : State) (bus : WireBus) (id : Nat), s.hasHost = false ∧ s.mode.shipDue = false ∧ s.mode.mode ∈ [.quiet, .run] ∧
      s.coreRuns = true ∧ s.wire.fn = .running ∧ s.wire.spu = none ∧ s.wire.lFixed = true ∧ 1 ≤ s.wire.lRounds ∧ (busTry bus
      0).fault = 0 ∧ (busTry bus 0).presence = true ∧ (busTry bus 1).fault = 0 ∧ bus.ids = [id] ∧ id < 2 ^ 48 ∧ bus.leaves =
      [] ∧ bus.noise = [] ∧ confirms bus id = true)
    ∧ (∃ (s : State) (bus : WireBus) (n : Nat) (id : Nat) (i : Nat) (bs : List Byte), s.hasHost = false ∧ s.mode.shipDue =
      false ∧ s.mode.mode ∈ [.quiet, .run] ∧ s.coreRuns = true ∧ s.wire.fn = .running ∧ s.wire.spu = none ∧ s.wire.ids[i]? =
      some id ∧ i ≤ 63 ∧ (busTry bus 0).fault = 0 ∧ (busTry bus 0).presence = true ∧ 1 ≤ n ∧ n ≤ 32 ∧ bs.length = n ∧
      cellBytes (sampledCells (8 * (n + 1)) (busTry bus 0).cells) = some (withCrc8 bs))
    ∧ (∃ (s : State) (bus : WireBus) (id : Nat) (i : Nat) (bs : List Byte) (y : Byte), s.hasHost = false ∧ s.mode.shipDue =
      false ∧ s.mode.mode ∈ [.quiet, .run] ∧ s.coreRuns = true ∧ s.wire.fn = .running ∧ s.wire.spu = none ∧ s.wire.ids[i]? =
      some id ∧ i ≤ 63 ∧ (busTry bus 0).fault = 0 ∧ (busTry bus 0).presence = true ∧ 1 ≤ bs.length ∧ bs.length ≤ 32 ∧ y ∈
      [0xA5, 0x5A] ∧ cellBytes (sampledCells 8 (busTry bus 0).cells) = some [y])
    ∧ (∃ (s : State) (w : Nat) (n : Nat), s.hasHost = false ∧ s.mode.shipDue = false ∧ s.mode.mode ∈ [.quiet, .run] ∧
      s.coreRuns = true ∧ s.wire.spu = some (w, n) ∧ n ≤ s.clk.wall - w ∧ s.wire.opTag = none ∧ s.wire.fn = .running)
    ∧ (∃ (s : State) (bus : WireBus) (n : Nat) (id : Nat) (i : Nat) (bs : List Byte), s.hasHost = false ∧ s.mode.shipDue =
      false ∧ s.mode.mode ∈ [.quiet, .run] ∧ s.coreRuns = true ∧ s.wire.fn = .running ∧ s.wire.spu = none ∧ 1 ≤ (busTry bus
      0).fault ∧ (busTry bus 0).fault ≤ 3 ∧ (busTry bus 0).after = none ∧ s.wire.ids[i]? = some id ∧ i ≤ 63 ∧ 1 ≤ n ∧ n ≤ 32 ∧
      1 ≤ bs.length ∧ bs.length ≤ 32) :=
  ⟨⟨{ unit with mode.mode := .quiet, mode.shipDue := false, wire.fn := .stopped }, 15, by decide +kernel⟩,
  ⟨{ unit with mode.mode := .quiet, mode.shipDue := false, wire.fn := .running, wire.spu := none }, { tries := List.replicate 2 { fault := 0, after := none, presence := false, cells := [] }, ids := [], leaves := [], noise := [], confirm := [] }, by decide +kernel⟩,
  ⟨{ unit with mode.mode := .quiet, wire.lRounds := 1, mode.shipDue := false, wire.fn := .running, wire.spu := none, wire.lFixed := true }, { tries := List.replicate 2 { fault := 0, after := none, presence := true, cells := [] }, ids := [5], leaves := [], noise := [], confirm := [(5, ((bitsOf (withCrc8 (le 6 5))).map (fun b => (!b, b))))] }, 5, by decide +kernel⟩,
  ⟨{ unit with mode.mode := .quiet, wire.ids := [1, 5], mode.shipDue := false, wire.fn := .running, wire.spu := none }, { tries := List.replicate 2 { fault := 0, after := none, presence := true, cells := ((bitsOf (withCrc8 (List.replicate 32 9))).map (fun b => (!b, b))) }, ids := [], leaves := [], noise := [], confirm := [] }, 32, 5, 1, List.replicate 32 9, by decide +kernel⟩,
  ⟨{ unit with mode.mode := .quiet, wire.ids := [1, 5], mode.shipDue := false, wire.fn := .running, wire.spu := none }, { tries := List.replicate 2 { fault := 0, after := none, presence := true, cells := ((bitsOf ([0xA5])).map (fun b => (!b, b))) }, ids := [], leaves := [], noise := [], confirm := [] }, 5, 1, List.replicate 32 1, 0xA5, by decide +kernel⟩,
  ⟨{ unit with mode.mode := .quiet, mode.shipDue := false, wire.spu := some ((T - 9), 9), wire.opTag := none, wire.fn := .running }, T - 9, 9, by decide +kernel⟩,
  ⟨{ unit with mode.mode := .quiet, wire.ids := [1, 5], mode.shipDue := false, wire.fn := .running, wire.spu := none }, { tries := List.replicate 2 { fault := 3, after := none, presence := true, cells := [] }, ids := [], leaves := [], noise := [], confirm := [] }, 32, 5, 1, List.replicate 32 0, by decide +kernel⟩⟩

theorem witness_SubmissionsAndFetching :
    (∃ (s : State) (h : Hdr) (id : Nat) (c : Nat), s.hasHost = true ∧ s.mode.shipDue = false ∧ s.reachable = true ∧ (s.sq
      h.ring).cq = c ∧ s.ringReady c = true ∧ s.freeId h.ring = some id ∧ s.verdict h .nop ≠ stOk)
    ∧ (∃ (s : State) (h : Hdr) (id : Nat) (c : Nat) (p : Nat), s.hasHost = true ∧ s.mode.shipDue = false ∧ s.reachable = true
      ∧ (s.sq h.ring).cq = c ∧ s.ringReady c = true ∧ s.freeId h.ring = some id ∧ s.ownPos h.pos = false ∧ s.isLegacy h.pos =
      false ∧ s.route h.pos = .out p ∧ s.verdict h .nop = stOk)
    ∧ (∃ (s : State) (h : Hdr) (id : Nat) (n : Nat) (m : Nat) (c : Nat) (p : Nat), s.hasHost = true ∧ s.mode.shipDue = false ∧
      s.reachable = true ∧ (s.sq h.ring).cq = c ∧ s.ringReady c = true ∧ s.freeId h.ring = some id ∧ s.ownPos h.pos = false ∧
      s.isLegacy h.pos = false ∧ s.route h.pos = .out p ∧ s.verdict h (.paramRead n m) = stOk)
    ∧ (∃ (s : State) (h : Hdr) (id : Nat) (n : Nat) (c : Nat) (p : Nat) (ws : List Nat), s.hasHost = true ∧ s.mode.shipDue =
      false ∧ s.reachable = true ∧ (s.sq h.ring).cq = c ∧ s.ringReady c = true ∧ s.freeId h.ring = some id ∧ s.ownPos h.pos =
      false ∧ s.isLegacy h.pos = false ∧ s.route h.pos = .out p ∧ s.verdict h (.paramWrite n ws) = stOk)
    ∧ (∃ (s : State) (h : Hdr) (id : Nat) (n : Nat) (c : Nat) (p : Nat) (ws : List Nat), s.hasHost = true ∧ s.mode.shipDue =
      false ∧ s.reachable = true ∧ (s.sq h.ring).cq = c ∧ s.ringReady c = true ∧ s.freeId h.ring = some id ∧ s.ownPos h.pos =
      false ∧ s.isLegacy h.pos = false ∧ s.route h.pos = .out p ∧ s.verdict h (.paramWriteVerify n ws) = stOk)
    ∧ (∃ (s : State) (h : Hdr) (id : Nat) (num : Nat) (T : Nat) (c : Nat), s.hasHost = true ∧ s.mode.shipDue = false ∧
      s.reachable = true ∧ (s.sq h.ring).cq = c ∧ s.ringReady c = true ∧ s.freeId h.ring = some id ∧ s.verdict h
      (.sweepTrigger T num false) = stOk ∧ s.ownPos h.pos = true ∧ s.isLegacy h.pos = false)
    ∧ (∃ (s : State) (h : Hdr) (id : Nat) (num : Nat) (T : Nat) (c : Nat), s.hasHost = true ∧ s.mode.shipDue = false ∧
      s.reachable = true ∧ (s.sq h.ring).cq = c ∧ s.ringReady c = true ∧ s.freeId h.ring = some id ∧ s.verdict h
      (.sweepTrigger T num true) = stOk ∧ s.isLegacy h.pos = false)
    ∧ (∃ (s : State) (h : Hdr) (id : Nat) (n : Nat) (m : Nat) (c : Nat), s.hasHost = true ∧ s.mode.shipDue = false ∧
      s.reachable = true ∧ (s.sq h.ring).cq = c ∧ s.ringReady c = true ∧ s.freeId h.ring = some id ∧ s.verdict h
      (.topologyRead n m) = stOk ∧ s.isLegacy h.pos = false ∧ (s.pool h.pool).tooBig (topoBytes s n m).2.length = false)
    ∧ (∃ (s : State) (h : Hdr) (fs : List (Nat × Option (Nat × Nat))) (id : Nat) (c : Nat), s.hasHost = true ∧ s.mode.shipDue
      = false ∧ s.reachable = true ∧ (s.sq h.ring).cq = c ∧ s.ringReady c = true ∧ s.freeId h.ring = some id ∧ s.verdict h
      (.renumber fs) = stOk ∧ s.isLegacy h.pos = false)
    ∧ (∃ (s : State) (h : Hdr) (id : Nat) (T : Nat) (n : Nat) (m : Nat) (c : Nat), s.hasHost = true ∧ s.mode.shipDue = false ∧
      s.reachable = true ∧ (s.sq h.ring).cq = c ∧ s.ringReady c = true ∧ s.freeId h.ring = some id ∧ s.verdict h (.pathTest n
      m T) = stOk ∧ s.ownPos h.pos = true)
    ∧ (∃ (s : State) (h : Hdr) (id : Nat) (T : Nat) (n : Nat) (m : Nat) (c : Nat), s.hasHost = true ∧ s.mode.shipDue = false ∧
      s.reachable = true ∧ (s.sq h.ring).cq = c ∧ s.ringReady c = true ∧ s.freeId h.ring = some id ∧ s.verdict h (.pathTest n
      m T) = stOk ∧ s.ownPos h.pos = false ∧ s.isLegacy h.pos = false)
    ∧ (∃ (s : State) (mem : List (Nat × Byte)) (w : FetchWorld) (r : Nat) (c : Nat), s.mode.shipDue = false ∧ r < 256 ∧
      s.host.sq.length = 256 ∧ s.fetches = true ∧ (s.sq r).cq = c ∧ s.ringReady c = true ∧ s.ringServes r = true ∧ s.barred r
      = false ∧ s.ringBusy r = false ∧ 1 ≤ (s.sq r).weight ∧ ((s.sq r).head + 1) % 2 ^ (s.sq r).log2 = (s.sq r).tail ∧
      (List.range 256).all (fun k => k == r || (s.sq k).head == (s.sq k).tail) = true ∧ parseDesc mem w r (s.nextDesc mem r) =
      none)
    ∧ (∃ (s : State) (mem : List (Nat × Byte)) (w : FetchWorld) (q : Hdr × Req) (r : Nat) (c : Nat), s.mode.shipDue = false ∧
      r < 256 ∧ s.host.sq.length = 256 ∧ s.fetches = true ∧ (s.sq r).cq = c ∧ s.ringReady c = true ∧ s.ringServes r = true ∧
      s.barred r = false ∧ s.ringBusy r = false ∧ 1 ≤ (s.sq r).weight ∧ ((s.sq r).head + 1) % 2 ^ (s.sq r).log2 = (s.sq
      r).tail ∧ (List.range 256).all (fun k => k == r || (s.sq k).head == (s.sq k).tail) = true ∧ parseDesc mem w r
      (s.nextDesc mem r) = some q ∧ s.verdict q.1 q.2 ≠ stOk)
    ∧ (∃ (s : State) (mem : List (Nat × Byte)) (w : FetchWorld) (q : Hdr × Req) (r : Nat) (c : Nat), s.mode.shipDue = false ∧
      r < 256 ∧ s.host.sq.length = 256 ∧ s.fetches = true ∧ (s.sq r).cq = c ∧ s.ringReady c = true ∧ s.ringServes r = true ∧
      s.barred r = false ∧ s.ringBusy r = false ∧ 1 ≤ (s.sq r).weight ∧ ((s.sq r).head + 1) % 2 ^ (s.sq r).log2 = (s.sq
      r).tail ∧ (List.range 256).all (fun k => k == r || (s.sq k).head == (s.sq k).tail) = true ∧ parseDesc mem w r
      (s.nextDesc mem r) = some q ∧ s.verdict q.1 q.2 = stOk)
    ∧ (∃ (s : State) (mem : List (Nat × Byte)) (w : FetchWorld) (q : Hdr × Req) (r : Nat) (c : Nat) (id : Nat) (p : Nat),
      s.mode.shipDue = false ∧ r < 256 ∧ s.host.sq.length = 256 ∧ s.fetches = true ∧ (s.sq r).cq = c ∧ s.ringReady c = true ∧
      s.ringServes r = true ∧ s.barred r = false ∧ s.ringBusy r = false ∧ 1 ≤ (s.sq r).weight ∧ ((s.sq r).head + 1) % 2 ^
      (s.sq r).log2 = (s.sq r).tail ∧ (List.range 256).all (fun k => k == r || (s.sq k).head == (s.sq k).tail) = true ∧
      parseDesc mem w r (s.nextDesc mem r) = some q ∧ q.2 = .nop ∧ s.verdict q.1 .nop = stOk ∧ s.ownPos q.1.pos = false ∧
      s.isLegacy q.1.pos = false ∧ s.route q.1.pos = .out p ∧ s.freeId r = some id)
    ∧ (∃ (s : State) (r : Nat) (c : Nat), s.mode.shipDue = false ∧ r < 256 ∧ s.host.sq.length = 256 ∧ s.fetches = true ∧ (s.sq
      r).cq = c ∧ s.ringReady c = true ∧ s.ringServes r = true ∧ s.barred r = false ∧ s.ringBusy r = false ∧ 1 ≤ (s.sq
      r).weight ∧ ((s.sq r).head + 1) % 2 ^ (s.sq r).log2 = (s.sq r).tail ∧ (List.range 256).all (fun k => k == r || (s.sq
      k).head == (s.sq k).tail) = true ∧ s.restricted = false)
    ∧ (∃ (s : State) (r : Nat), s.mode.shipDue = false ∧ r < 256 ∧ s.host.sq.length = 256 ∧ s.fetches = false ∧ (∀ q ∈
      s.ports, q.link = .down)) :=
  ⟨⟨{ rootUnit with mode.shipDue := false }, { hdr0 with pos := 6 }, 0, 0, by decide +kernel⟩,
  ⟨{ rootUnit with tree.topo := [topo6], ports := [PortSt.reset, { upPort with kid := some (6, 6) }, PortSt.reset, PortSt.reset], mode.shipDue := false }, { hdr0 with pos := 6 }, 0, 0, 1, by decide +kernel⟩,
  ⟨{ rootUnit with tree.topo := [topo6], ports := [PortSt.reset, { upPort with kid := some (6, 6) }, PortSt.reset, PortSt.reset], mode.shipDue := false }, { hdr0 with pos := 6 }, 0, 0x10C, 1, 0, 1, by decide +kernel⟩,
  ⟨{ rootUnit with tree.topo := [topo6], ports := [PortSt.reset, { upPort with kid := some (6, 6) }, PortSt.reset, PortSt.reset], mode.shipDue := false }, { hdr0 with pos := 6 }, 0, 0x10C, 0, 1, [7], by decide +kernel⟩,
  ⟨{ rootUnit with tree.topo := [topo6], ports := [PortSt.reset, { upPort with kid := some (6, 6) }, PortSt.reset, PortSt.reset], mode.shipDue := false }, { hdr0 with pos := 6 }, 0, 0x10C, 0, 1, [7], by decide +kernel⟩,
  ⟨{ rootUnit with mode.shipDue := false }, hdr0, 0, 0, 10000000000004, 0, by decide +kernel⟩,
  ⟨{ rootUnit with mode.shipDue := false }, hdr0, 0, 0, 0, 0, by decide +kernel⟩,
  ⟨{ rootUnit with host.pool := { PoolSt.reset with en := true } :: List.replicate 63 PoolSt.reset, mode.shipDue := false }, { hdr0 with pool := 0 }, 0, 0, 1, 0, by decide +kernel⟩,
  ⟨{ rootUnit with mode.shipDue := false }, hdr0, [], 0, 0, by decide +kernel⟩,
  ⟨{ rootUnit with mode.shipDue := false }, hdr0, 0, 16, 1, 1, 0, by decide +kernel⟩,
  ⟨{ rootUnit with tree.topo := [topo6], ports := [PortSt.reset, { upPort with kid := some (6, 6) }, PortSt.reset, PortSt.reset], mode.shipDue := false }, { hdr0 with pos := 6 }, 0, 16, 1, 1, 0, by decide +kernel⟩,
  ⟨{ rootUnit with host.sq := { SqSt.reset with state := .running, tail := 1 } :: List.replicate 255 SqSt.reset, mode.shipDue := false }, [], { funcs := [], bus := { tries := List.replicate 2 { fault := 0, after := none, presence := false, cells := [] }, ids := [], leaves := [], noise := [], confirm := [] }, bytes := [], err := .none }, 0, 0, by decide +kernel⟩,
  ⟨{ rootUnit with host.sq := { SqSt.reset with state := .running, tail := 1 } :: List.replicate 255 SqSt.reset, tree.topo := [topo6], mode.shipDue := false }, (descBytes { hdr0 with pos := 7 } 0 .nop).mapIdx (fun i b => (i, b)), { funcs := [], bus := { tries := List.replicate 2 { fault := 0, after := none, presence := false, cells := [] }, ids := [], leaves := [], noise := [], confirm := [] }, bytes := [], err := .none }, ({ hdr0 with pos := 7 }, .nop), 0, 0, by decide +kernel⟩,
  ⟨{ rootUnit with host.sq := { SqSt.reset with state := .running, tail := 1 } :: List.replicate 255 SqSt.reset, tree.topo := [topo6], ports := [PortSt.reset, { upPort with kid := some (6, 6) }, PortSt.reset, PortSt.reset], mode.shipDue := false }, (descBytes { hdr0 with pos := 6 } 0 .nop).mapIdx (fun i b => (i, b)), { funcs := [], bus := { tries := List.replicate 2 { fault := 0, after := none, presence := false, cells := [] }, ids := [], leaves := [], noise := [], confirm := [] }, bytes := [], err := .none }, ({ hdr0 with pos := 6 }, .nop), 0, 0, by decide +kernel⟩,
  ⟨{ rootUnit with host.sq := { SqSt.reset with state := .running, tail := 1 } :: List.replicate 255 SqSt.reset, tree.topo := [topo6], ports := [PortSt.reset, { upPort with kid := some (6, 6) }, PortSt.reset, PortSt.reset], mode.shipDue := false }, (descBytes { hdr0 with pos := 6 } 0 .nop).mapIdx (fun i b => (i, b)), { funcs := [], bus := { tries := List.replicate 2 { fault := 0, after := none, presence := false, cells := [] }, ids := [], leaves := [], noise := [], confirm := [] }, bytes := [], err := .none }, ({ hdr0 with pos := 6 }, .nop), 0, 0, 0, 1, by decide +kernel⟩,
  ⟨{ rootUnit with host.sq := { SqSt.reset with state := .running, tail := 1 } :: List.replicate 255 SqSt.reset, mode.shipDue := false }, 0, 0, by decide +kernel⟩,
  ⟨{ rootUnit with host.enable := false, ports := List.replicate 4 { PortSt.reset with link := .down }, mode.shipDue := false }, 0, by decide +kernel⟩⟩

theorem witness_TransactionsEndAndProbes :
    (∃ (s : State) (k : Tx) (t0 : Nat) (tag : Nat) (src : Nat) (rip : Bool) (sp : Nat) (sd : Nat), s.hasHost = true ∧ s.tx
      k.id = some k ∧ s.ringReady (s.sq k.hdr.ring).cq = true ∧ k.done = false ∧ k.forced = none ∧ s.coreRuns = true ∧ k.req =
      .surveyRun t0 tag src rip sp sd ∧ k.survey ≠ [] ∧ k.survey.all (fun d => d.2 == 3) = true)
    ∧ (∃ (s : State) (k : Tx), s.hasHost = true ∧ s.tx k.id = some k ∧ s.ringReady (s.sq k.hdr.ring).cq = true ∧ k.done =
      false ∧ k.forced = none ∧ s.coreRuns = true ∧ k.hdr.timeout ≠ 0 ∧ k.hdr.timeout * ttMs ≤ s.clk.wall - k.start)
    ∧ (∃ (s : State) (k : Tx), s.hasHost = true ∧ s.tx k.id = some k ∧ s.ringReady (s.sq k.hdr.ring).cq = true ∧ k.done =
      false ∧ k.forced = none ∧ s.coreRuns = true ∧ (k.hdr.timeout = 0 ∨ s.clk.wall - k.start < k.hdr.timeout * ttMs))
    ∧ (∃ (s : State) (k : Tx) (t0 : Nat) (tag : Nat) (src : Nat) (rip : Bool) (sp : Nat) (sd : Nat), s.hasHost = true ∧ s.tx
      k.id = some k ∧ s.ringReady (s.sq k.hdr.ring).cq = true ∧ k.done = false ∧ k.forced = none ∧ s.coreRuns = true ∧ k.req =
      .surveyRun t0 tag src rip sp sd ∧ k.count [1, 3] = 0 ∧ t0 + k.tResp * ttMs ≤ s.clk.tt ∧ scopeStatus (k.survey.map
      Prod.fst) k.acc ≠ stPartial)
    ∧ (∃ (s : State) (k : Tx) (cls : Nat) (times : Nat) (len : Nat), s.hasHost = true ∧ s.tx k.id = some k ∧ s.ringReady (s.sq
      k.hdr.ring).cq = true ∧ k.done = false ∧ k.forced = none ∧ s.coreRuns = true ∧ k.req = .pathTest cls times len ∧
      k.probeAt + k.tResp * ttMs * 65536 ≤ s.stamp ∧ k.probeN + 1 < times)
    ∧ (∃ (s : State) (k : Tx) (cls : Nat) (times : Nat) (len : Nat), s.hasHost = true ∧ s.tx k.id = some k ∧ s.ringReady (s.sq
      k.hdr.ring).cq = true ∧ k.done = false ∧ k.forced = none ∧ s.coreRuns = true ∧ k.req = .pathTest cls times len ∧
      k.probeAt + k.tResp * ttMs * 65536 ≤ s.stamp ∧ times ≤ k.probeN + 1 ∧ k.probeMin = none)
    ∧ (∃ (s : State) (p : Nat) (q : Nat) (f : Frame), s.inSequence p f = true ∧ f.typ = 12 ∧ f.cls = 1 ∧ f.payload.length ≤
      256 ∧ checkOk f = true ∧ s.legacyPos f.dest = false ∧ s.route f.src = .out q ∧ q ≠ p ∧ q < 4 ∧ (s.port q).link =
      .training)
    ∧ (∃ (s : State) (p : Nat) (f : Frame), s.inSequence p f = true ∧ f.typ = 12 ∧ f.cls = 1 ∧ f.payload.length ≤ 256 ∧
      checkOk f = false ∧ 4 ≤ f.payload.length ∧ s.mode.mode ∉ [.ship, .keep])
    ∧ (∃ (s : State) (p : Nat) (f : Frame) (k : Tx) (cls : Nat) (times : Nat) (len : Nat), s.inSequence p f = true ∧ f.typ =
      12 ∧ f.cls = 1 ∧ f.payload.length ≤ 256 ∧ checkOk f = true ∧ s.txOfTag f.tag = some k ∧ s.tx k.id = some k ∧ k.req =
      .pathTest cls times len ∧ k.done = false ∧ f.src = k.hdr.pos ∧ at_ f.payload 0 2 = k.probeN ∧ k.probeN + 1 < times) :=
  ⟨⟨{ rootUnit with host.txs := [({ id := 9, gen := 0, hdr := hdr0, req := .surveyRun 0 0 0 false 0 0, start := 0, entries := 0, done := false, survey := [(6, 3)], acc := noContribution, copyOf := none, probeN := 0, probeAt := 0, probeMin := none, probeMax := 0, probeLost := 0, tResp := 50, forced := none })] }, { id := 9, gen := 0, hdr := hdr0, req := .surveyRun 0 0 0 false 0 0, start := 0, entries := 0, done := false, survey := [(6, 3)], acc := noContribution, copyOf := none, probeN := 0, probeAt := 0, probeMin := none, probeMax := 0, probeLost := 0, tResp := 50, forced := none }, 0, 0, 0, false, 0, 0, by decide +kernel⟩,
  ⟨{ rootUnit with host.txs := [({ id := 9, gen := 0, hdr := { hdr0 with timeout := 5 }, req := .nop, start := T - 5 * ttMs, entries := 0, done := false, survey := [], acc := noContribution, copyOf := none, probeN := 0, probeAt := 0, probeMin := none, probeMax := 0, probeLost := 0, tResp := 50, forced := none })] }, { id := 9, gen := 0, hdr := { hdr0 with timeout := 5 }, req := .nop, start := T - 5 * ttMs, entries := 0, done := false, survey := [], acc := noContribution, copyOf := none, probeN := 0, probeAt := 0, probeMin := none, probeMax := 0, probeLost := 0, tResp := 50, forced := none }, by decide +kernel⟩,
  ⟨{ rootUnit with host.txs := [({ id := 9, gen := 0, hdr := hdr0, req := .nop, start := 0, entries := 0, done := false, survey := [], acc := noContribution, copyOf := none, probeN := 0, probeAt := 0, probeMin := none, probeMax := 0, probeLost := 0, tResp := 50, forced := none })] }, { id := 9, gen := 0, hdr := hdr0, req := .nop, start := 0, entries := 0, done := false, survey := [], acc := noContribution, copyOf := none, probeN := 0, probeAt := 0, probeMin := none, probeMax := 0, probeLost := 0, tResp := 50, forced := none }, by decide +kernel⟩,
  ⟨{ rootUnit with host.txs := [({ id := 9, gen := 0, hdr := hdr0, req := .surveyRun 0 0 0 false 0 0, start := 0, entries := 0, done := false, survey := [(6, 2)], acc := noContribution, copyOf := none, probeN := 0, probeAt := 0, probeMin := none, probeMax := 0, probeLost := 0, tResp := 50, forced := none })] }, { id := 9, gen := 0, hdr := hdr0, req := .surveyRun 0 0 0 false 0 0, start := 0, entries := 0, done := false, survey := [(6, 2)], acc := noContribution, copyOf := none, probeN := 0, probeAt := 0, probeMin := none, probeMax := 0, probeLost := 0, tResp := 50, forced := none }, 0, 0, 0, false, 0, 0, by decide +kernel⟩,
  ⟨{ rootUnit with host.txs := [({ id := 9, gen := 0, hdr := hdr0, req := .pathTest 1 2 16, start := 0, entries := 0, done := false, survey := [], acc := noContribution, copyOf := none, probeN := 0, probeAt := 0, probeMin := none, probeMax := 0, probeLost := 0, tResp := 50, forced := none })] }, { id := 9, gen := 0, hdr := hdr0, req := .pathTest 1 2 16, start := 0, entries := 0, done := false, survey := [], acc := noContribution, copyOf := none, probeN := 0, probeAt := 0, probeMin := none, probeMax := 0, probeLost := 0, tResp := 50, forced := none }, 1, 2, 16, by decide +kernel⟩,
  ⟨{ rootUnit with host.txs := [({ id := 9, gen := 0, hdr := hdr0, req := .pathTest 1 1 16, start := 0, entries := 0, done := false, survey := [], acc := noContribution, copyOf := none, probeN := 0, probeAt := 0, probeMin := none, probeMax := 0, probeLost := 0, tResp := 50, forced := none })] }, { id := 9, gen := 0, hdr := hdr0, req := .pathTest 1 1 16, start := 0, entries := 0, done := false, survey := [], acc := noContribution, copyOf := none, probeN := 0, probeAt := 0, probeMin := none, probeMax := 0, probeLost := 0, tResp := 50, forced := none }, 1, 1, 16, by decide +kernel⟩,
  ⟨{ hubUnit with ports := [upPort, { PortSt.reset with link := .training, kid := some (6, 9) }, PortSt.reset, PortSt.reset] }, 0, 1, protect { typ := 12, cls := 1, hasScope := false, dest := 5, src := 6, depth := 0, tag := 0, payload := [] } [0, 0], by decide +kernel⟩,
  ⟨hubUnit, 0, { typ := 12, cls := 1, hasScope := false, dest := 5, src := 0, depth := 0, tag := 0, payload := [1, 2, 3, 4] }, by decide +kernel⟩,
  ⟨{ rootUnit with ports := [PortSt.reset, upPort, PortSt.reset, PortSt.reset], host.txs := [({ id := 9, gen := 0, hdr := { hdr0 with pos := 6 }, req := .pathTest 1 2 16, start := 0, entries := 0, done := false, survey := [], acc := noContribution, copyOf := none, probeN := 0, probeAt := 0, probeMin := none, probeMax := 0, probeLost := 0, tResp := 50, forced := none })] }, 1, protect { typ := 12, cls := 1, hasScope := false, dest := 0, src := 6, depth := 0, tag := 9, payload := [] } [0, 0], { id := 9, gen := 0, hdr := { hdr0 with pos := 6 }, req := .pathTest 1 2 16, start := 0, entries := 0, done := false, survey := [], acc := noContribution, copyOf := none, probeN := 0, probeAt := 0, probeMin := none, probeMax := 0, probeLost := 0, tResp := 50, forced := none }, 1, 2, 16, by decide +kernel⟩⟩

theorem witness_PortsTrainAndStop :
    (∃ (s : State) (p : Nat) (n : Nat), p < 4 ∧ s.ports.length = 4 ∧ s.quiet = true ∧ s.reachable = true ∧ s.mode.mode ≠
      .lockout ∧ (s.port p).fn = .stopped ∧ s.heldInReset p = false ∧ 1 ≤ n ∧ n ≤ 15 ∧ (s.port p).legacy = false)
    ∧ (∃ (s : State) (p : Nat) (n : Nat), p < 4 ∧ s.ports.length = 4 ∧ s.quiet = true ∧ s.reachable = true ∧ (s.port p).fn =
      .stopped ∧ (n = 0 ∨ 15 < n))
    ∧ (∃ (s : State) (p : Nat), p < 4 ∧ s.ports.length = 4 ∧ s.quiet = true ∧ s.reachable = true ∧ s.mode.mode ≠ .lockout ∧
      (s.port p).fn = .running ∧ s.isUpstream p = true)
    ∧ (∃ (s : State) (p : Nat), p < 4 ∧ s.ports.length = 4 ∧ s.quiet = true ∧ s.reachable = true ∧ s.mode.mode ≠ .lockout ∧
      (s.port p).fn = .running ∧ s.isUpstream p = false)
    ∧ (∃ (s : State) (p : Nat), p < 4 ∧ s.ports.length = 4 ∧ s.quiet = true ∧ s.reachable = true ∧ (s.port p).fn = .stopping)
    ∧ (∃ (s : State) (p : Nat) (f : Frame), p < 4 ∧ s.ports.length = 4 ∧ s.quiet = true ∧ s.reachable = true ∧ (s.port p).fn =
      .running ∧ (s.port p).link = .training ∧ (s.port p).train.step = 1 ∧ (s.port p).train.got = 7 ∧ (s.port
      p).train.agreedTx = false ∧ frameListed f = true)
    ∧ (∃ (s : State) (p : Nat) (f : Frame), p < 4 ∧ s.ports.length = 4 ∧ s.quiet = true ∧ s.reachable = true ∧ (s.port p).fn =
      .running ∧ (s.port p).link = .training ∧ (s.port p).train.step = 3 ∧ 63 ≤ (s.port p).train.got ∧ bit (at_ f.payload 1 1)
      1 = true ∧ frameListed f = true ∧ s.tree.valid = false ∧ s.isRoot = false ∧ s.tree.walk.active = false)
    ∧ (∃ (s : State) (p : Nat), p < 4 ∧ s.ports.length = 4 ∧ s.quiet = true ∧ s.reachable = true ∧ (s.port p).fn = .running ∧
      (s.port p).link = .training ∧ (s.port p).train.step = 3 ∧ ttMs ≤ s.clk.wall - (s.port p).train.since ∧ 0 < (s.port
      p).train.rate)
    ∧ (∃ (s : State) (p : Nat), p < 4 ∧ s.ports.length = 4 ∧ s.quiet = true ∧ s.reachable = true ∧ (s.port p).fn = .running ∧
      (s.port p).link = .up ∧ s.tree.valid = false ∧ s.isRoot = false)
    ∧ (∃ (s : State) (p : Nat), p < 4 ∧ s.ports.length = 4 ∧ s.quiet = true ∧ s.reachable = true ∧ s.cutOff = false ∧ (s.port
      p).fn = .running ∧ (s.port p).everUp = true ∧ (s.port p).link = .down ∧ 10 * ttMs ≤ s.clk.wall - (s.port p).toneAt) :=
  ⟨⟨{ hubUnit with ports := [PortSt.reset, PortSt.reset, PortSt.reset, { PortSt.reset with fn := .stopped }] }, 3, 15, by decide +kernel⟩,
  ⟨{ hubUnit with ports := [PortSt.reset, PortSt.reset, PortSt.reset, { PortSt.reset with fn := .stopped }] }, 3, 16, by decide +kernel⟩,
  ⟨hubUnit, 0, by decide +kernel⟩,
  ⟨{ hubUnit with ports := [PortSt.reset, PortSt.reset, PortSt.reset, { PortSt.reset with fn := .running, link := .up }] }, 3, by decide +kernel⟩,
  ⟨{ hubUnit with ports := [PortSt.reset, PortSt.reset, PortSt.reset, { PortSt.reset with fn := .stopping }] }, 3, by decide +kernel⟩,
  ⟨{ hubUnit with ports := [PortSt.reset, PortSt.reset, PortSt.reset, { PortSt.reset with fn := .running, link := .training, train.step := 1, train.got := 7 }] }, 3, frame0 8 1 [], by decide +kernel⟩,
  ⟨{ hubUnit with ports := [PortSt.reset, PortSt.reset, PortSt.reset, { PortSt.reset with fn := .running, link := .training, train.step := 3, train.got := 63 }], tree.valid := false, tree.walk.active := false }, 3, { typ := 0, cls := 1, hasScope := false, dest := 0, src := 0, depth := 0, tag := 0, payload := [0, 2] }, by decide +kernel⟩,
  ⟨{ hubUnit with ports := [PortSt.reset, PortSt.reset, PortSt.reset, { PortSt.reset with fn := .running, link := .training, train.step := 3, train.rate := 1, train.since := T - ttMs }] }, 3, by decide +kernel⟩,
  ⟨{ hubUnit with ports := [PortSt.reset, PortSt.reset, PortSt.reset, { PortSt.reset with fn := .running, link := .up }], tree.valid := false }, 3, by decide +kernel⟩,
  ⟨{ hubUnit with ports := [PortSt.reset, PortSt.reset, PortSt.reset, { PortSt.reset with fn := .running, link := .down, everUp := true, toneAt := T - 10 * ttMs }], tree.numUp := 3, tree.reversal := some (0, 0) }, 3, by decide +kernel⟩⟩

theorem witness_HopsAcknowledgeAndRepeat :
    (∃ (s : State) (p : Nat) (u : Unacked) (v : Unacked) (a : Nat), s.onPort p = true ∧ s.quiet = true ∧ (s.port p).fn =
      .running ∧ (s.port p).spaceN.unacked = [u, v] ∧ u.hseq = a ∧ v.hseq ≠ a ∧ a < 64 ∧ (s.port p).spaceS.unacked = [])
    ∧ (∃ (s : State) (p : Nat) (u : Unacked) (a : Nat), s.onPort p = true ∧ s.quiet = true ∧ (s.port p).fn = .running ∧
      (s.port p).spaceN.unacked = [u] ∧ u.hseq ≠ a % 64 ∧ u.retries + 1 < (s.port p).lRetry)
    ∧ (∃ (s : State) (p : Nat) (u : Unacked), s.onPort p = true ∧ s.quiet = true ∧ (s.port p).fn = .running ∧ (s.port
      p).spaceN.unacked = [u] ∧ tRtx (s.port p).rateNow ≤ s.clk.wall - u.sentAt ∧ u.retries + 1 < (s.port p).lRetry)
    ∧ (∃ (s : State) (p : Nat) (u : Unacked), s.onPort p = true ∧ s.quiet = true ∧ (s.port p).fn = .running ∧ (s.port
      p).spaceN.unacked = [u] ∧ tRtx (s.port p).rateNow ≤ s.clk.wall - u.sentAt ∧ (s.port p).lRetry ≤ u.retries + 1 ∧
      s.mode.mode ∉ [.ship, .keep])
    ∧ (∃ (s : State) (p : Nat), s.onPort p = true ∧ s.quiet = true ∧ (s.port p).fn = .running ∧ 41 ≤ s.clk.wall - (s.port
      p).lastTx)
    ∧ (∃ (s : State) (p : Nat) (f : Frame) (a : Nat), s.onPort p = true ∧ s.quiet = true ∧ (s.port p).fn = .running ∧ f.cls ≠
      0 ∧ a ≠ (s.port p).spaceN.rxNext ∧ (s.port p).spaceN.nakSent = false)
    ∧ (∃ (s : State) (p : Nat) (byte_ : Nat), s.onPort p = true ∧ s.quiet = true ∧ (s.port p).fn = .running ∧ byte_ % 16 ≠ 15
      ∧ fld byte_ 5 4 ≠ 0)
    ∧ (∃ (s : State) (p : Nat) (f : Frame), s.onPort p = true ∧ s.quiet = true ∧ (s.port p).fn = .running ∧ f.cls = 2 ∧
      creditFree f = false ∧ s.ident.role = .leaf ∧ s.ownPos f.dest = false ∧ f.hasScope = false)
    ∧ (∃ (s : State) (p : Nat) (q : Nat) (f : Frame), s.onPort p = true ∧ s.quiet = true ∧ (s.port p).fn = .running ∧ f.cls =
      2 ∧ creditFree f = false ∧ s.ident.role ≠ .leaf ∧ s.route f.dest = .out q ∧ q < 4 ∧ q ≠ p ∧ (s.port q).link = .training)
    ∧ (∃ (s : State) (p : Nat) (f : Frame), s.onPort p = true ∧ s.quiet = true ∧ (s.port p).fn = .running ∧ f.typ = 8 ∧ f.cls
      = 1 ∧ f.payload.length = 8 ∧ (s.port p).credits.d + at_ f.payload 4 2 ≤ 65535) :=
  ⟨⟨{ hubUnit with ports := [{ upPort with spaceN.unacked := [({ hseq := 63, frame := frame0 8 1 [], retries := 0, sentAt := 0 }), ({ hseq := 0, frame := frame0 8 1 [], retries := 0, sentAt := 0 })] }, PortSt.reset, PortSt.reset, PortSt.reset] }, 0, { hseq := 63, frame := frame0 8 1 [], retries := 0, sentAt := 0 }, { hseq := 0, frame := frame0 8 1 [], retries := 0, sentAt := 0 }, 63, by decide +kernel⟩,
  ⟨{ hubUnit with ports := [{ upPort with spaceN.unacked := [({ hseq := 63, frame := frame0 8 1 [], retries := 6, sentAt := 0 })] }, PortSt.reset, PortSt.reset, PortSt.reset] }, 0, { hseq := 63, frame := frame0 8 1 [], retries := 6, sentAt := 0 }, 64, by decide +kernel⟩,
  ⟨{ hubUnit with ports := [{ upPort with spaceN.unacked := [({ hseq := 63, frame := frame0 8 1 [], retries := 6, sentAt := T - tRtx 0 })] }, PortSt.reset, PortSt.reset, PortSt.reset] }, 0, { hseq := 63, frame := frame0 8 1 [], retries := 6, sentAt := T - tRtx 0 }, by decide +kernel⟩,
  ⟨{ hubUnit with ports := [{ upPort with spaceN.unacked := [({ hseq := 63, frame := frame0 8 1 [], retries := 7, sentAt := T - tRtx 0 })] }, PortSt.reset, PortSt.reset, PortSt.reset] }, 0, { hseq := 63, frame := frame0 8 1 [], retries := 7, sentAt := T - tRtx 0 }, by decide +kernel⟩,
  ⟨{ hubUnit with ports := [{ upPort with lastTx := T - 41 }, PortSt.reset, PortSt.reset, PortSt.reset] }, 0, by decide +kernel⟩,
  ⟨hubUnit, 0, frame0 8 1 [], 1, by decide +kernel⟩,
  ⟨hubUnit, 0, 0x17, by decide +kernel⟩,
  ⟨{ hubUnit with ident.role := .leaf }, 0, { frame0 7 2 [] with dest := 6 }, by decide +kernel⟩,
  ⟨{ hubUnit with ports := [upPort, { PortSt.reset with link := .training, kid := some (6, 9) }, PortSt.reset, PortSt.reset] }, 0, 1, { frame0 7 2 [] with dest := 6 }, by decide +kernel⟩,
  ⟨hubUnit, 0, frame0 8 1 (List.replicate 8 255), by decide +kernel⟩⟩

theorem witness_CrierAndLegacySegment :
    (∃ (s : State) (p : Nat), p < 4 ∧ s.ports.length = 4 ∧ s.quiet = true ∧ 256 ≤ (s.port p).crier.rxBits.length ∧ at_
      (bytesOfBits 32 (s.port p).crier.rxBits) 0 2 = 0x7E96 ∧ at_ (bytesOfBits 32 (s.port p).crier.rxBits) 31 1 = crc8 (slice
      (bytesOfBits 32 (s.port p).crier.rxBits) 2 29) ∧ s.tree.valid = false ∧ s.isRoot = false)
    ∧ (∃ (s : State) (p : Nat), p < 4 ∧ s.ports.length = 4 ∧ s.quiet = true ∧ 256 ≤ (s.port p).crier.rxBits.length ∧ at_
      (bytesOfBits 32 (s.port p).crier.rxBits) 0 2 = 0x7E96 ∧ at_ (bytesOfBits 32 (s.port p).crier.rxBits) 31 1 ≠ crc8 (slice
      (bytesOfBits 32 (s.port p).crier.rxBits) 2 29))
    ∧ (∃ (s : State) (p : Nat) (r : LegacyReq), p < 4 ∧ s.ports.length = 4 ∧ s.quiet = true ∧ s.coreRuns = true ∧ (s.port
      1).link = .legacy ∧ (s.port 1).fn = .running ∧ s.legacy.queue = [r] ∧ 4096 ≤ s.clk.wall - (s.port 1).lastTx ∧ r.cmd ≠ 1
      ∧ r.tries < 2)
    ∧ (∃ (s : State) (p : Nat) (r : LegacyReq), p < 4 ∧ s.ports.length = 4 ∧ s.quiet = true ∧ s.coreRuns = true ∧ (s.port
      1).link = .legacy ∧ (s.port 1).fn = .running ∧ s.legacy.queue = [r] ∧ 4096 ≤ s.clk.wall - (s.port 1).lastTx ∧ r.cmd ≠ 1
      ∧ 2 ≤ r.tries ∧ r.tag = none)
    ∧ (∃ (s : State) (p : Nat) (r : LegacyReq) (rs : List LegacyReq) (d : LegacyDev), p < 4 ∧ s.ports.length = 4 ∧ s.quiet =
      true ∧ s.coreRuns = true ∧ (s.port 1).link = .legacy ∧ s.legacy.queue = r :: rs ∧ r.cmd = 0x11 ∧ r.addr = d.index ∧
      s.legacy.devs = [d] ∧ s.legacy.polling = false) :=
  ⟨⟨{ hubUnit with tree.valid := false, ports := [PortSt.reset, PortSt.reset, PortSt.reset, { PortSt.reset with crier.rxBits := crierBits 0 }] }, 3, by decide +kernel⟩,
  ⟨{ hubUnit with tree.valid := false, ports := [PortSt.reset, PortSt.reset, PortSt.reset, { PortSt.reset with crier.rxBits := crierBits 1 }] }, 3, by decide +kernel⟩,
  ⟨{ hubUnit with ports := [PortSt.reset, { PortSt.reset with fn := .running, link := .legacy, lastTx := T - 4096 }, PortSt.reset, PortSt.reset], legacy.queue := [({ addr := 2, cmd := 2, data := [], tries := 1, tag := none, expect := none })] }, 0, { addr := 2, cmd := 2, data := [], tries := 1, tag := none, expect := none }, by decide +kernel⟩,
  ⟨{ hubUnit with ports := [PortSt.reset, { PortSt.reset with fn := .running, link := .legacy, lastTx := T - 4096 }, PortSt.reset, PortSt.reset], legacy.queue := [({ addr := 2, cmd := 2, data := [], tries := 2, tag := none, expect := none })] }, 0, { addr := 2, cmd := 2, data := [], tries := 2, tag := none, expect := none }, by decide +kernel⟩,
  ⟨{ hubUnit with ports := [PortSt.reset, { PortSt.reset with fn := .running, link := .legacy, lastTx := T - 4096 }, PortSt.reset, PortSt.reset], legacy.queue := ({ addr := 2, cmd := 17, data := [], tries := 0, tag := none, expect := none }) :: ([{ addr := 2, cmd := 32, data := [], tries := 0, tag := none, expect := none }]), legacy.devs := [({ (default : LegacyDev) with index := 2 })], legacy.polling := false }, 0, { addr := 2, cmd := 17, data := [], tries := 0, tag := none, expect := none }, [{ addr := 2, cmd := 32, data := [], tries := 0, tag := none, expect := none }], { (default : LegacyDev) with index := 2 }, by decide +kernel⟩⟩

theorem witness_TreeTimeAndStrobes :
    (∃ (s : State) (p : Nat) (f : Frame), s.onPort p = true ∧ s.quiet = true ∧ f.cls = 1 ∧ 8 ≤ f.payload.length ∧ frameListed
      f = true ∧ s.syncDue p = true)
    ∧ (∃ (s : State) (p : Nat) (w : Nat) (t2 : Nat) (f : Frame) (o : Int), s.onPort p = true ∧ s.quiet = true ∧ f.cls = 1 ∧ 8
      ≤ f.payload.length ∧ frameListed f = true ∧ f.typ = 9 ∧ s.isRoot = false ∧ s.tree.valid = true ∧ p = s.timePort ∧ o =
      (t2 : Int) - stampAt f.payload 4 - stampAt f.payload 0xE ∧ s.tree.lastSync = some w ∧ s.tree.stepNext = false ∧
      s.ident.role ≠ .root ∧ o.natAbs ≤ 64 * 65536)
    ∧ (∃ (s : State) (p : Nat) (w : Nat) (t2 : Nat) (f : Frame) (o : Int), s.onPort p = true ∧ s.quiet = true ∧ f.cls = 1 ∧ 8
      ≤ f.payload.length ∧ frameListed f = true ∧ f.typ = 9 ∧ s.isRoot = false ∧ s.tree.valid = true ∧ p = s.timePort ∧ o =
      (t2 : Int) - stampAt f.payload 4 - stampAt f.payload 0xE ∧ s.tree.lastSync = some w ∧ s.tree.stepNext = false ∧
      s.ident.role ≠ .root ∧ 64 * 65536 < o.natAbs ∧ o ≤ s.stamp)
    ∧ (∃ (s : State) (p : Nat) (t2 : Nat) (f : Frame) (o : Int), s.onPort p = true ∧ s.quiet = true ∧ f.cls = 1 ∧ 8 ≤
      f.payload.length ∧ frameListed f = true ∧ f.typ = 9 ∧ at_ f.payload 2 2 = (s.port p).time.seq ∧ (s.port p).time.seq ≠ 0
      ∧ o = ((t2 : Int) - (s.port p).time.t1 - ((stampAt f.payload 0xE : Int) - stampAt f.payload 4)) / 2)
    ∧ (∃ (s : State) (p : Nat) (w : Nat) (f : Frame), s.onPort p = true ∧ s.quiet = true ∧ f.cls = 1 ∧ 8 ≤ f.payload.length ∧
      frameListed f = true ∧ s.isRoot = false ∧ s.tree.lastSync = some w ∧ 81920 ≤ s.clk.wall - w)
    ∧ (∃ (s : State) (p : Nat) (w : Nat) (f : Frame), s.onPort p = true ∧ s.quiet = true ∧ f.cls = 1 ∧ 8 ≤ f.payload.length ∧
      frameListed f = true ∧ s.strobeDue = true ∧ s.tree.pos = 0 ∧ w < 4 ∧ (s.port w).kid.isSome = true ∧ (s.port w).link =
      .training)
    ∧ (∃ (s : State) (p : Nat) (cb : Bool) (f : Frame), s.onPort p = true ∧ s.quiet = true ∧ f.cls = 1 ∧ 8 ≤ f.payload.length
      ∧ frameListed f = true ∧ f.typ = 3 ∧ s.actsOn (s.via p cb) f = true ∧ checkOk f = true) :=
  ⟨⟨{ hubUnit with ports := [upPort, upPort, PortSt.reset, PortSt.reset] }, 1, frame0 8 1 (List.replicate 8 0), by decide +kernel⟩,
  ⟨{ hubUnit with tree.valid := true, tree.lastSync := some 5, tree.stepNext := false }, 0, 5, 64 * 65536, frame0 9 1 (List.replicate 24 0), 64 * 65536, by decide +kernel⟩,
  ⟨{ hubUnit with tree.valid := true, tree.lastSync := some 5, tree.stepNext := false }, 0, 5, 64 * 65536 + 1, frame0 9 1 (List.replicate 24 0), 64 * 65536 + 1, by decide +kernel⟩,
  ⟨{ hubUnit with ports := [{ upPort with time := { seq := 1, t1 := 3, d := 0, lastSent := 0 } }, PortSt.reset, PortSt.reset, PortSt.reset] }, 0, 9, frame0 9 1 ([0, 0, 1, 0] ++ List.replicate 20 0), 3, by decide +kernel⟩,
  ⟨{ hubUnit with tree.lastSync := some (T - 81920) }, 0, T - 81920, frame0 8 1 (List.replicate 8 0), by decide +kernel⟩,
  ⟨{ rootUnit with sweep.fn := .running, ports := [upPort, PortSt.reset, PortSt.reset, { PortSt.reset with link := .training, kid := some (1, 1) }], tree.pos := 0 }, 0, 3, frame0 8 1 (List.replicate 8 0), by decide +kernel⟩,
  ⟨hubUnit, 0, false, protect { frame0 3 1 [] with hasScope := true } (List.replicate 12 0), by decide +kernel⟩⟩

theorem witness_WalkGoesDown :
    (∃ (s : State) (p : Nat) (f : Frame), s.onPort p = true ∧ s.quiet = true ∧ f.cls = 1 ∧ frameListed f = true ∧ f.typ = 10 ∧
      checkOk f = true ∧ s.sequences = true ∧ s.tree.valid = false)
    ∧ (∃ (s : State) (p : Nat) (f : Frame), s.onPort p = true ∧ s.quiet = true ∧ f.cls = 1 ∧ frameListed f = true ∧ f.typ = 10
      ∧ checkOk f = true ∧ s.sequences = true ∧ s.tree.valid = true ∧ s.tree.numberedBy = discWalk f ∧ (s.port
      p).spaceN.unacked.length < 30 ∧ 16 ≤ (s.port p).credits.c ∧ (s.port p).fn = .running)
    ∧ (∃ (s : State) (p : Nat) (f : Frame), s.onPort p = true ∧ s.quiet = true ∧ f.cls = 1 ∧ frameListed f = true ∧ s.walkDue
      = true)
    ∧ (∃ (s : State) (p : Nat) (f : Frame), s.onPort p = true ∧ s.quiet = true ∧ f.cls = 1 ∧ frameListed f = true ∧
      s.tree.walk.active = true ∧ s.tree.walk.training = false ∧ s.tree.walk.tResp * ttMs ≤ s.clk.wall - s.tree.walk.since ∧
      s.tree.walk.port = p)
    ∧ (∃ (s : State) (p : Nat) (f : Frame), s.onPort p = true ∧ s.quiet = true ∧ f.cls = 1 ∧ frameListed f = true ∧
      s.tree.walk.active = true ∧ s.tree.walk.training = true ∧ s.tree.walk.port = 3 ∧ (s.port 3).link = .down ∧ s.ports.all
      (fun q => !q.late) = true ∧ s.tree.walk.upPort = some p)
    ∧ (∃ (s : State) (p : Nat) (f : Frame), s.onPort p = true ∧ s.quiet = true ∧ f.cls = 1 ∧ frameListed f = true ∧
      s.tree.walk.active = true ∧ s.tree.walk.upPort = some p ∧ s.tree.walk.tResp * ttMs / 4 ≤ s.clk.wall -
      s.tree.walk.lastPend) :=
  ⟨⟨{ hubUnit with tree.valid := false }, 0, protect (frame0 10 1 []) ([1, 0, 3, 0] ++ List.replicate 8 0), by decide +kernel⟩,
  ⟨{ hubUnit with ports := [{ upPort with credits := { s := 0, c := 16, d := 0, b := 0 } }, PortSt.reset, PortSt.reset, PortSt.reset], tree.numberedBy := 3, tree.valid := true }, 0, protect (frame0 10 1 []) ([1, 0, 3, 0] ++ List.replicate 8 0), by decide +kernel⟩,
  ⟨{ rootUnit with ports := [upPort, PortSt.reset, PortSt.reset, PortSt.reset] }, 0, protect (frame0 10 1 []) ([1, 0, 3, 0] ++ List.replicate 8 0), by decide +kernel⟩,
  ⟨{ hubUnit with tree.walk := { WalkSt.reset with active := true, port := 0, since := T - 50 * ttMs } }, 0, protect (frame0 10 1 []) ([1, 0, 3, 0] ++ List.replicate 8 0), by decide +kernel⟩,
  ⟨{ hubUnit with tree.walk := { WalkSt.reset with active := true, training := true, port := 3, upPort := some 0 }, ports := [upPort, PortSt.reset, PortSt.reset, { PortSt.reset with link := .down }] }, 0, protect (frame0 10 1 []) ([1, 0, 3, 0] ++ List.replicate 8 0), by decide +kernel⟩,
  ⟨{ hubUnit with tree.walk := { WalkSt.reset with active := true, upPort := some 0, lastPend := T - 50 * ttMs / 4 } }, 0, protect (frame0 10 1 []) ([1, 0, 3, 0] ++ List.replicate 8 0), by decide +kernel⟩⟩

theorem witness_WalkComesUp :
    (∃ (s : State) (p : Nat) (cb : Bool) (f : Frame), s.onPort p = true ∧ s.quiet = true ∧ f.typ = 10 ∧ f.cls = 1 ∧
      frameListed f = true ∧ checkOk f = true ∧ s.sequences = true ∧ s.walkAwaits (s.via p cb) f = true ∧ p = 3)
    ∧ (∃ (s : State) (p : Nat) (f : Frame), s.onPort p = true ∧ s.quiet = true ∧ f.typ = 10 ∧ f.cls = 1 ∧ frameListed f = true
      ∧ checkOk f = true ∧ s.sequences = true ∧ s.isRoot = true ∧ s.ownPos f.dest = true ∧ discWalk f = s.tree.walkId ∧
      discWalk f ≠ 0)
    ∧ (∃ (s : State) (p : Nat) (f : Frame), s.onPort p = true ∧ s.quiet = true ∧ f.typ = 10 ∧ f.cls = 1 ∧ frameListed f = true
      ∧ checkOk f = true ∧ s.sequences = true ∧ s.assignHere f = true)
    ∧ (∃ (s : State) (p : Nat) (f : Frame), s.onPort p = true ∧ s.quiet = true ∧ f.typ = 10 ∧ f.cls = 1 ∧ frameListed f = true
      ∧ checkOk f = true ∧ s.sequences = false ∧ at_ f.payload 0 1 ≠ 9 ∧ s.inSequence p f = true) :=
  ⟨⟨{ hubUnit with tree.walk := { WalkSt.reset with active := true, id := 3, port := 3, next := 6 }, ports := [upPort, PortSt.reset, PortSt.reset, upPort] }, 3, false, protect (frame0 10 1 []) ([1, 0, 3, 0] ++ List.replicate 8 0), by decide +kernel⟩,
  ⟨{ rootUnit with tree.walkId := 3, ports := [upPort, PortSt.reset, PortSt.reset, upPort] }, 3, { protect { frame0 10 1 [] with dest := 0 } ([1, 0, 3, 0] ++ List.replicate 8 0) with dest := 0 }, by decide +kernel⟩,
  ⟨hubUnit, 0, protect (frame0 10 1 []) ([1, 0, 3, 0] ++ List.replicate 8 0), by decide +kernel⟩,
  ⟨{ hubUnit with mode.mode := .halted }, 0, protect (frame0 10 1 []) ([1, 0, 3, 0] ++ List.replicate 8 0), by decide +kernel⟩⟩

theorem witness_LossesRoutesAndTakeover :
    (∃ (s : State) (p : Nat) (f : Frame), s.onPort p = true ∧ s.quiet = true ∧ f.cls = 1 ∧ frameListed f = true ∧ f.typ = 10 ∧
      checkOk f = true ∧ s.sequences = true ∧ s.inSequence p f = true ∧ s.isRoot = true ∧ s.hasHost = true ∧ s.host.eventEn =
      true ∧ s.ringReady s.host.eventCq = true ∧ bit (discB f) 18 = false ∧ bit (discB f) 21 = false)
    ∧ (∃ (s : State) (p : Nat) (f : Frame), s.onPort p = true ∧ s.quiet = true ∧ f.cls = 1 ∧ frameListed f = true ∧ f.typ = 11
      ∧ checkOk f = true ∧ s.inSequence p f = true ∧ s.isRoot = true ∧ s.hasHost = true ∧ s.host.eventEn = true ∧ s.ringReady
      s.host.eventCq = true)
    ∧ (∃ (s : State) (p : Nat) (f : Frame), s.onPort p = true ∧ s.quiet = true ∧ f.cls = 1 ∧ frameListed f = true ∧ f.typ = 10
      ∧ checkOk f = true ∧ s.sequences = true ∧ s.inSequence p f = true ∧ s.isRoot = true ∧ s.tree.walk.active = true)
    ∧ (∃ (s : State) (p : Nat) (f : Frame), s.onPort p = true ∧ s.quiet = true ∧ f.cls = 1 ∧ frameListed f = true ∧ f.typ = 10
      ∧ checkOk f = true ∧ s.sequences = true ∧ s.inSequence p f = true ∧ s.isRoot = true ∧ s.tree.walk.active = false ∧
      s.nextPos ≤ 262143 ∧ (s.pathTo (discA f % 2 ^ 18)).all (fun x => decide (s.routesAt x < 256)) = true)
    ∧ (∃ (s : State) (p : Nat) (f : Frame), s.onPort p = true ∧ s.quiet = true ∧ f.cls = 1 ∧ frameListed f = true ∧ f.typ = 10
      ∧ checkOk f = true ∧ s.sequences = true ∧ s.tree.valid = true ∧ s.isRoot = false ∧ s.tree.numUp = p)
    ∧ (∃ (s : State) (p : Nat) (f : Frame), s.onPort p = true ∧ s.quiet = true ∧ f.cls = 1 ∧ frameListed f = true ∧ f.typ = 10
      ∧ checkOk f = true ∧ s.sequences = true ∧ s.inSequence p f = true ∧ bit (at_ f.payload 12 4) 3 = false ∧ bit (at_
      f.payload 12 4) 2 = true ∧ s.tree.routes.length < 256)
    ∧ (∃ (s : State) (p : Nat) (f : Frame), s.onPort p = true ∧ s.quiet = true ∧ f.cls = 1 ∧ frameListed f = true ∧ f.typ = 10
      ∧ checkOk f = true ∧ s.sequences = true ∧ s.inSequence p f = true ∧ bit (at_ f.payload 12 4) 3 = false ∧ bit (at_
      f.payload 12 4) 2 = false)
    ∧ (∃ (s : State) (p : Nat) (f : Frame), s.onPort p = true ∧ s.quiet = true ∧ f.cls = 1 ∧ frameListed f = true ∧ f.typ = 10
      ∧ checkOk f = true ∧ (at_ f.payload 0 1 ≠ 9 → s.sequences = true))
    ∧ (∃ (s : State) (p : Nat) (w : Nat) (f : Frame), s.onPort p = true ∧ s.quiet = true ∧ f.cls = 1 ∧ frameListed f = true ∧
      (s.port p).lostAt = some w ∧ s.tree.tResp * ttMs ≤ s.clk.wall - w)
    ∧ (∃ (s : State) (p : Nat) (w : Nat) (f : Frame), s.onPort p = true ∧ s.quiet = true ∧ f.cls = 1 ∧ frameListed f = true ∧
      (s.port p).lostAt = some w ∧ s.clk.wall - w < s.tree.tResp * ttMs ∧ s.expo.state = .idle)
    ∧ (∃ (s : State) (p : Nat) (f : Frame), s.onPort p = true ∧ s.quiet = true ∧ f.cls = 1 ∧ frameListed f = true ∧
      s.takeoverDue = true) :=
  ⟨⟨{ rootUnit with ports := [PortSt.reset, upPort, PortSt.reset, PortSt.reset], host.eventEn := true }, 1, protect { frame0 10 1 [] with dest := 0 } ([1, 0, 3, 0] ++ List.replicate 8 0), by decide +kernel⟩,
  ⟨{ rootUnit with ports := [PortSt.reset, upPort, PortSt.reset, PortSt.reset], host.eventEn := true }, 1, protect { frame0 11 1 [] with dest := 0 } ([1, 0, 3, 0] ++ List.replicate 8 0), by decide +kernel⟩,
  ⟨{ rootUnit with ports := [PortSt.reset, upPort, PortSt.reset, PortSt.reset], tree.walk := { WalkSt.reset with active := true, id := 3 } }, 1, protect { frame0 10 1 [] with dest := 0 } ([1, 0, 3, 0] ++ List.replicate 8 0), by decide +kernel⟩,
  ⟨{ rootUnit with ports := [PortSt.reset, upPort, PortSt.reset, PortSt.reset], tree.walk.active := false }, 1, protect { frame0 10 1 [] with dest := 0 } ([1, 0, 3, 0] ++ List.replicate 8 0), by decide +kernel⟩,
  ⟨{ hubUnit with tree.valid := true, tree.numUp := 0 }, 0, protect (frame0 10 1 []) ([1, 0, 3, 0] ++ List.replicate 8 0), by decide +kernel⟩,
  ⟨hubUnit, 0, protect (frame0 10 1 []) ([8, 0, 0, 0] ++ List.replicate 8 0 ++ [4, 0, 0, 0]), by decide +kernel⟩,
  ⟨hubUnit, 0, protect (frame0 10 1 []) ([8, 0, 0, 0] ++ List.replicate 8 0 ++ [0, 0, 0, 0]), by decide +kernel⟩,
  ⟨hubUnit, 0, protect (frame0 10 1 []) ([8, 0, 0, 0] ++ List.replicate 8 0 ++ [0, 0, 0, 0]), by decide +kernel⟩,
  ⟨{ hubUnit with ports := [{ upPort with lostAt := some (T - 50 * ttMs) }, PortSt.reset, PortSt.reset, PortSt.reset] }, 0, T - 50 * ttMs, protect (frame0 10 1 []) ([1, 0, 3, 0] ++ List.replicate 8 0), by decide +kernel⟩,
  ⟨{ hubUnit with ports := [{ upPort with lostAt := some T }, PortSt.reset, PortSt.reset, PortSt.reset], expo.state := .idle }, 0, T, protect (frame0 10 1 []) ([1, 0, 3, 0] ++ List.replicate 8 0), by decide +kernel⟩,
  ⟨{ hubUnit with ident.role := .standby }, 0, protect (frame0 10 1 []) ([1, 0, 3, 0] ++ List.replicate 8 0), by decide +kernel⟩⟩

theorem witness_RequestsAndAnswersOnTheTree :
    (∃ (s : State) (p : Nat) (f : Frame), s.inSequence p f = true ∧ s.quiet = true ∧ f.cls = 1 ∧ frameListed f = true ∧ f.typ
      = 1 ∧ checkOk f = true ∧ s.reachable = true ∧ s.mode.shipDue = false ∧ s.mode.mode ≠ .lockout ∧ isCopy f = false ∧
      counterVerdict ((s.cmdRef f).map CmdRef.ref) (at_ f.payload 0 2) (bit (at_ f.payload 2 1) 0) = true ∧ s.hasHost = false)
    ∧ (∃ (s : State) (p : Nat) (f : Frame), s.inSequence p f = true ∧ s.quiet = true ∧ f.cls = 1 ∧ frameListed f = true ∧
      f.typ = 1 ∧ checkOk f = true ∧ s.reachable = true ∧ s.mode.shipDue = false ∧ s.hasHost = false ∧ counterVerdict
      ((s.cmdRef f).map CmdRef.ref) (at_ f.payload 0 2) (bit (at_ f.payload 2 1) 0) = false)
    ∧ (∃ (s : State) (p : Nat) (f : Frame) (c : Contribution) (h : Harvest) (a : Contributor) (b : Contributor), s.inSequence
      p f = true ∧ s.quiet = true ∧ f.cls = 1 ∧ frameListed f = true ∧ f.typ = 2 ∧ checkOk f = true ∧ s.glean.harvests = [h] ∧
      h.tag = f.tag ∧ h.kids = [a, b] ∧ a.port = some p ∧ a.settled = false ∧ b.settled = false ∧ b.port ≠ some p ∧ c.answers
      ≠ [] ∧ c.rejected = none ∧ s.working ≠ [])
    ∧ (∃ (s : State) (p : Nat) (f : Frame) (h : Harvest) (a : Contributor) (b : Contributor), s.inSequence p f = true ∧
      s.quiet = true ∧ f.cls = 1 ∧ frameListed f = true ∧ f.typ = 6 ∧ s.glean.harvests = [h] ∧ h.tag = f.tag ∧ h.kids = [a, b]
      ∧ a.port = some p ∧ a.settled = false ∧ b.port ≠ some p)
    ∧ (∃ (s : State) (p : Nat) (f : Frame) (bs : List Byte), s.inSequence p f = true ∧ s.quiet = true ∧ f.cls = 1 ∧
      frameListed f = true ∧ s.isRoot = true ∧ s.host.eventEn = true ∧ at_ bs 252 4 = crc32c (bs.take 252))
    ∧ (∃ (s : State) (p : Nat) (f : Frame), s.inSequence p f = true ∧ s.quiet = true ∧ f.cls = 1 ∧ frameListed f = true ∧
      f.typ = 4 ∧ checkOk f = true ∧ s.expo.state = .armed ∧ s.expo.tag = f.tag ∧ s.ownPos f.src = true)
    ∧ (∃ (s : State) (p : Nat) (f : Frame), s.inSequence p f = true ∧ s.quiet = true ∧ f.cls = 1 ∧ frameListed f = true ∧
      f.typ = 4 ∧ checkOk f = true ∧ s.expo.state = .armed ∧ s.expo.tag = f.tag ∧ s.expo.trip = none ∧ s.ownPos f.src = false)
    ∧ (∃ (s : State) (p : Nat) (u : Nat) (f : Frame), s.inSequence p f = true ∧ s.quiet = true ∧ f.cls = 1 ∧ frameListed f =
      true ∧ f.typ = 4 ∧ checkOk f = true ∧ s.expo.state = .armed ∧ s.expo.tag = f.tag ∧ s.expo.trip = some u ∧ s.ownPos f.src
      = false)
    ∧ (∃ (s : State) (p : Nat) (f : Frame), s.inSequence p f = true ∧ s.quiet = true ∧ f.cls = 1 ∧ frameListed f = true ∧
      s.survey.fn = .running ∧ s.survey.lat.ripple = true ∧ at_ f.payload 0 2 = s.survey.lat.tag ∧ at_ f.payload 2 1 =
      s.survey.point ∧ s.isSource s.survey.lat = false ∧ at_ f.payload 0xC 2 = 1 ∧ s.survey.currents = [] ∧
      s.survey.run.isSome = true) :=
  ⟨⟨{ hubUnit with mode.shipDue := false }, 0, protect (frame0 1 1 []) [1, 0, 1, 0, 0, 0, 0, 0], by decide +kernel⟩,
  ⟨{ hubUnit with mode.shipDue := false }, 0, protect (frame0 1 1 []) [1, 0, 0, 0, 0, 0, 0, 0], by decide +kernel⟩,
  ⟨{ hubUnit with glean.harvests := [({ tag := 0, up := some 0, req := .nop, src := 0, pos := 0, depth := 255, kids := [{ port := some 0, since := 0, given := none, lost := false }, { port := some 1, since := 0, given := none, lost := false }], lastPend := 0, tResp := 50, slot := none, todo := [], collecting := false })] }, 0, protect (frame0 2 1 []) [], { noContribution with answers := [(6, 0)] }, { tag := 0, up := some 0, req := .nop, src := 0, pos := 0, depth := 255, kids := [{ port := some 0, since := 0, given := none, lost := false }, { port := some 1, since := 0, given := none, lost := false }], lastPend := 0, tResp := 50, slot := none, todo := [], collecting := false }, { port := some 0, since := 0, given := none, lost := false }, { port := some 1, since := 0, given := none, lost := false }, by decide +kernel⟩,
  ⟨{ hubUnit with glean.harvests := [({ tag := 0, up := some 0, req := .nop, src := 0, pos := 0, depth := 255, kids := [{ port := some 0, since := 0, given := none, lost := false }, { port := some 1, since := 0, given := none, lost := false }], lastPend := 0, tResp := 50, slot := none, todo := [], collecting := false })] }, 0, frame0 6 1 [], { tag := 0, up := some 0, req := .nop, src := 0, pos := 0, depth := 255, kids := [{ port := some 0, since := 0, given := none, lost := false }, { port := some 1, since := 0, given := none, lost := false }], lastPend := 0, tResp := 50, slot := none, todo := [], collecting := false }, { port := some 0, since := 0, given := none, lost := false }, { port := some 1, since := 0, given := none, lost := false }, by decide +kernel⟩,
  ⟨{ rootUnit with ports := [PortSt.reset, upPort, PortSt.reset, PortSt.reset], host.eventEn := true }, 1, protect { frame0 10 1 [] with dest := 0 } ([1, 0, 3, 0] ++ List.replicate 8 0), [], by decide +kernel⟩,
  ⟨{ hubUnit with expo.state := .armed, expo.tag := (protect { frame0 4 1 [] with src := 5 } (List.replicate 8 0)).tag }, 0, protect { frame0 4 1 [] with src := 5 } (List.replicate 8 0), by decide +kernel⟩,
  ⟨{ hubUnit with expo.state := .armed, expo.tag := (protect (frame0 4 1 []) (List.replicate 8 0)).tag, expo.trip := none }, 0, protect (frame0 4 1 []) (List.replicate 8 0), by decide +kernel⟩,
  ⟨{ hubUnit with expo.state := .armed, expo.tag := (protect (frame0 4 1 []) (List.replicate 8 0)).tag, expo.trip := some 9 }, 0, 9, protect (frame0 4 1 []) (List.replicate 8 0), by decide +kernel⟩,
  ⟨{ hubUnit with survey.lat.ripple := true, survey.lat.source := 9, survey.run := some 0, survey.fn := .running, survey.currents := [] }, 0, frame0 8 1 (List.replicate 12 0 ++ [1, 0] ++ List.replicate 6 0), by decide +kernel⟩⟩

theorem witness_StepKeepsMemoriesAndFiles :
    (∃ (s t : State), s.memWf ∧ s.shapeWf = true ∧ step s = .next t) :=
  ⟨unit, _, by unfold State.memWf; decide +kernel, by decide +kernel, rfl⟩

theorem witness_StepKeepsQueuesWithinBounds :
    (∃ (s t : State), s.boundsWf = true ∧ s.glean.gleaners.length = 16 ∧ step s = .next t) :=
  ⟨unit, _, by decide +kernel, by decide +kernel, rfl⟩

theorem witness_DescriptorsReadBackAsWritten :
    (∃ (mem : List (Nat × Byte)) (w : FetchWorld) (h : Hdr) (ha : Nat) (r : Req), h.wf = true ∧ h.flags < 4 ∧ reqFits mem w h
      ha r = true) :=
  ⟨[], { funcs := [], bus := { tries := List.replicate 2 { fault := 0, after := none, presence := false, cells := [] }, ids := [], leaves := [], noise := [], confirm := [] }, bytes := [], err := .none }, hdr0, 0, .paramRead 0xFFFFFFFF 255, by decide +kernel⟩

theorem witness_DisabledSourcesAreNotSampled :
    (∃ (s : State) (a : Aperture) (raw : RawCodes) (n : Nat), s.crystalRuns = true ∧ s.sweep.pend = [a] ∧ a.codes = some raw ∧
      (a.aux = false ∨ a.auxDone = true) ∧ 1 ≤ n ∧ n ≤ 48 ∧ inMask s.sweep.lat.mask n = false)
    ∧ (∃ (s : State) (a : Aperture) (raw : RawCodes), s.crystalRuns = true ∧ s.sweep.pend = [a] ∧ a.codes = some raw ∧ (a.aux
      = false ∨ a.auxDone = true) ∧ s.sweep.lat.en1 = false)
    ∧ (∃ (s : State) (a : Aperture) (raw : RawCodes), s.crystalRuns = true ∧ s.sweep.pend = [a] ∧ a.codes = some raw ∧ (a.aux
      = false ∨ a.auxDone = true) ∧ s.sweep.lat.en2 = false) :=
  ⟨⟨{ unit with sweep.lat.mask := 2 ^ 47, sweep.pend := [({ t := 40, num := 1, opened := true, mode := 0, young := false, governed := false, aux := false, codes := some rawCodes, auxDone := false, auxCodes := [], blanked := false, lost := [] })] }, { t := 40, num := 1, opened := true, mode := 0, young := false, governed := false, aux := false, codes := some rawCodes, auxDone := false, auxCodes := [], blanked := false, lost := [] }, rawCodes, 47, by decide +kernel⟩,
  ⟨{ unit with sweep.pend := [({ t := 40, num := 1, opened := true, mode := 0, young := false, governed := false, aux := false, codes := some rawCodes, auxDone := false, auxCodes := [], blanked := false, lost := [] })], sweep.lat.en1 := false }, { t := 40, num := 1, opened := true, mode := 0, young := false, governed := false, aux := false, codes := some rawCodes, auxDone := false, auxCodes := [], blanked := false, lost := [] }, rawCodes, by decide +kernel⟩,
  ⟨{ unit with sweep.pend := [({ t := 40, num := 1, opened := true, mode := 0, young := false, governed := false, aux := false, codes := some rawCodes, auxDone := false, auxCodes := [], blanked := false, lost := [] })], sweep.lat.en2 := false }, { t := 40, num := 1, opened := true, mode := 0, young := false, governed := false, aux := false, codes := some rawCodes, auxDone := false, auxCodes := [], blanked := false, lost := [] }, rawCodes, by decide +kernel⟩⟩

theorem witness_UnlistedFramesAreDiscarded :
    (∃ (s : State) (p : Nat) (f : Frame), f.payload.length ≤ 256 ∧ s.inSequence p f = true ∧ frameListed f = false ∧
      s.reachable = true ∧ s.mode.shipDue = false) :=
  ⟨{ hubUnit with mode.shipDue := false }, 0, frame0 13 1 [], by decide +kernel⟩


end Sys2Proof.Tests
end

section
/-!
The word MODE.STATE (14_modes.md Table 14.8). The fields above STATE stand at bit 4 and higher, so the low four bits of the word are the code of
the mode, and Table 1.6 numbers the modes 1 to 12 (R33).
-/
namespace Sys2Proof.Machine

theorem put_mod_two_pow {k lo : Nat} (h : k ≤ lo) (v w : Nat) : put v lo w % 2 ^ k = 0 :=
  Nat.mod_eq_zero_of_dvd (Dvd.dvd.mul_left (pow_dvd_pow 2 h) (v % 2 ^ w))

theorem flag_mod_two_pow {k i : Nat} (h : k ≤ i) (b : Bool) : flag b i % 2 ^ k = 0 := by
  cases b with
  | false => exact Nat.zero_mod _
  | true => exact Nat.mod_eq_zero_of_dvd (pow_dvd_pow 2 h)

theorem put_at_zero (v w : Nat) : put v 0 w = v % 2 ^ w := Nat.mul_one _

theorem Mode.one_le_code (m : Mode) : 1 ≤ m.code := by cases m <;> decide

theorem Mode.code_le_twelve (m : Mode) : m.code ≤ 12 := by cases m <;> decide

/-- The STATE field of MODE.STATE is the code of the mode the device is in. -/
theorem readValue_modeState_mod (s : State) : s.readValue 0x100 % 2 ^ 4 = s.mode.mode.code := by
  have hlt : s.mode.mode.code < 2 ^ 4 := Nat.lt_of_le_of_lt s.mode.mode.code_le_twelve (by decide)
  simp [State.readValue, State.word, State.modeWord, Nat.add_mod, put_at_zero, put_mod_two_pow, flag_mod_two_pow,
    Nat.mod_eq_of_lt hlt, -Nat.reducePow]

/-- Settles O58: the STATE field is a mode's code, which lies from 1 to 12. -/
theorem modeCodesAreOneToTwelve : Obligations.ModeCodesAreOneToTwelve := by
  intro s
  have hstate : s.readValue 0x100 % 16 = s.mode.mode.code := readValue_modeState_mod s
  have hlow := s.mode.mode.one_le_code
  have hhigh := s.mode.mode.code_le_twelve
  omega

end Sys2Proof.Machine
end

section
/-!
The record of a sweep and what is not sampled (02_cell_measurement.md R54, R67). A record is a function of the state without its schedule of
apertures and of that part of the conversion which the latched parameters let the device sample, so what the converter of a disabled current
channel held reaches nothing after the sweep.
-/
namespace Sys2Proof.Machine

/-! ### Masks of 48 cells -/

theorem flag_eq_two_pow_mul (b : Bool) (i : Nat) : flag b i = 2 ^ i * b.toNat := by
  cases b <;> simp [flag]

/-- Flags at the places below k. -/
def flagSum (f : Nat → Bool) (k : Nat) : Nat := ((List.range k).map (fun i => flag (f i) i)).sum

theorem flagSum_succ (f : Nat → Bool) (k : Nat) : flagSum f (k + 1) = 2 ^ k * (f k).toNat + flagSum f k := by
  simp [flagSum, List.range_succ, flag_eq_two_pow_mul, Nat.add_comm]

theorem flagSum_lt (f : Nat → Bool) (k : Nat) : flagSum f k < 2 ^ k := by
  induction k with
  | zero => exact Nat.one_pos
  | succ k ih =>
    have hbit : 2 ^ k * (f k).toNat ≤ 2 ^ k * 1 := Nat.mul_le_mul_left _ (Bool.toNat_le _)
    rw [flagSum_succ, Nat.pow_succ]
    omega

theorem flagSum_testBit (f : Nat → Bool) {i k : Nat} (h : i < k) : (flagSum f k).testBit i = f i := by
  induction k with
  | zero => exact absurd h (Nat.not_lt_zero i)
  | succ k ih =>
    rw [flagSum_succ, Nat.testBit_two_pow_mul_add _ (flagSum_lt f k)]
    split
    · exact ih ‹i < k›
    · have hik : i = k := by omega
      cases hf : f k <;> simp [hik, hf]

theorem maskOf_eq_flagSum (f : Nat → Bool) : maskOf f = flagSum (fun i => f (i + 1)) 48 := by
  simp [maskOf, cellNums, flagSum, Function.comp_def]

theorem maskOf_testBit (f : Nat → Bool) {n : Nat} (h1 : 1 ≤ n) (h48 : n ≤ 48) : (maskOf f).testBit (n - 1) = f n := by
  rw [maskOf_eq_flagSum, flagSum_testBit _ (by omega : n - 1 < 48), Nat.sub_add_cancel h1]

theorem cellNums_getD (f : Nat → Int) {n : Nat} (h1 : 1 ≤ n) (h48 : n ≤ 48) : (cellNums.map f).getD (n - 1) 0 = f n := by
  have hlt : n - 1 < 48 := by omega
  simp [cellNums, hlt, Nat.sub_add_cancel h1]

/-! ### What the latched parameters let the device sample -/

/-- Current channel 1 or 2 is enabled. -/
def SweepPar.enabled (p : SweepPar) (ch : Nat) : Bool := if ch = 1 then p.en1 else p.en2

theorem currentCode_disabled {p : SweepPar} {ch : Nat} (h : p.enabled ch = false) (x : Int) : currentCode p ch x = -0x80000000 := by
  unfold SweepPar.enabled at h
  unfold currentCode
  split at h <;> simp [*]

theorem chanClamped_disabled {p : SweepPar} {ch : Nat} (h : p.enabled ch = false) (x : Int) : chanClamped p ch x = false := by
  unfold SweepPar.enabled at h
  unfold chanClamped
  split at h <;> simp [*]

theorem currentCode_congr {p : SweepPar} {ch : Nat} {x y : Int} (h : p.enabled ch = true → x = y) :
    currentCode p ch x = currentCode p ch y := by
  cases hen : p.enabled ch with
  | true => rw [h hen]
  | false => rw [currentCode_disabled hen, currentCode_disabled hen]

theorem chanClamped_congr {p : SweepPar} {ch : Nat} {x y : Int} (h : p.enabled ch = true → x = y) :
    chanClamped p ch x = chanClamped p ch y := by
  cases hen : p.enabled ch with
  | true => rw [h hen]
  | false => rw [chanClamped_disabled hen, chanClamped_disabled hen]

/-- Two conversions differ at most in what the converter of a disabled current channel held. -/
structure SampledAlike (p : SweepPar) (raw raw' : RawCodes) : Prop where
  cells : raw.cells = raw'.cells
  bbar : raw.bbar = raw'.bbar
  is1 : p.enabled 1 = true → raw.is1 = raw'.is1
  is2 : p.enabled 2 = true → raw.is2 = raw'.is2

theorem sampledAlike_is1 {p : SweepPar} (raw : RawCodes) (x : Int) (h : p.enabled 1 = false) :
    SampledAlike p { raw with is1 := x } raw where
  cells := rfl
  bbar := rfl
  is1 hen := absurd hen (by simp [h])
  is2 _ := rfl

theorem sampledAlike_is2 {p : SweepPar} (raw : RawCodes) (x : Int) (h : p.enabled 2 = false) :
    SampledAlike p { raw with is2 := x } raw where
  cells := rfl
  bbar := rfl
  is1 _ := rfl
  is2 hen := absurd hen (by simp [h])

theorem bbarOf_congr {raw raw' : RawCodes} (h : raw.bbar = raw'.bbar) (s : State) : s.bbarOf raw = s.bbarOf raw' := by
  funext t k
  rw [State.bbarOf, State.bbarOf, h]

theorem uncOf_congr {raw raw' : RawCodes} (h : raw.cells = raw'.cells) (s : State) : s.uncOf raw = s.uncOf raw' := by
  funext lost k
  rw [State.uncOf, State.uncOf, h]

theorem completeRecord_congr {s : State} {raw raw' : RawCodes} (h : SampledAlike s.sweep.lat raw raw') (a : Aperture)
    (temps : List Int) (frac : Int) (w : Option Int) :
    s.completeRecord a raw temps frac w = s.completeRecord a raw' temps frac w := by
  unfold State.completeRecord
  simp only [h.cells, bbarOf_congr h.bbar, uncOf_congr h.cells, currentCode_congr h.is1, currentCode_congr h.is2,
    chanClamped_congr h.is1, chanClamped_congr h.is2]

/-! ### The schedule of apertures is not read while a record is completed -/

/-- The same state with these apertures on the schedule. -/
def State.withPend (s : State) (l : List Aperture) : State := { s with sweep := { s.sweep with pend := l } }

theorem ite_withPend {c : Prop} [Decidable c] {l : List Aperture} {u v s t : State} (hu : u = s.withPend l) (hv : v = t.withPend l) :
    (if c then u else v) = (if c then s else t).withPend l := by
  rw [hu, hv, apply_ite (State.withPend · l)]

theorem foldl_withPend {α : Type} {f : State → α → State} (h : ∀ s l x, f (s.withPend l) x = (f s x).withPend l) (s : State)
    (l : List Aperture) (xs : List α) : xs.foldl f (s.withPend l) = (xs.foldl f s).withPend l :=
  List.foldl_hom (State.withPend · l) fun s x => h s l x

theorem updCell_withPend (s : State) (l : List Aperture) (n : Nat) (f : CellSt → CellSt) :
    (s.withPend l).updCell n f = (s.updCell n f).withPend l := ite_withPend rfl rfl

theorem raise_withPend (s : State) (l : List Aperture) (id item : Nat) :
    (s.withPend l).raise id item = (s.raise id item).withPend l :=
  ite_withPend (c := s.inMode [.ship, .keep] = true) rfl rfl

theorem sendTo_withPend (s : State) (l : List Aperture) (f : Frame) : (s.withPend l).sendTo f = (s.sendTo f).withPend l := by
  have hroute : (s.withPend l).route f.dest = s.route f.dest := rfl
  rw [State.sendTo, State.sendTo, hroute]
  cases s.route f.dest <;> rfl

theorem nextSup_withPend (s : State) (l : List Aperture) (sup : Nat) :
    (s.withPend l).nextSup sup = ((s.nextSup sup).1, (s.nextSup sup).2.1, (s.nextSup sup).2.2.withPend l) := by
  unfold State.nextSup
  dsimp only [State.withPend]
  cases s.safety.sup.find? (fun e => e.pos = sup) <;> rfl

theorem sendSafety_withPend (s : State) (l : List Aperture) (kind time : Nat) :
    (s.withPend l).sendSafety kind time = (s.sendSafety kind time).withPend l := by
  refine foldl_withPend (fun u m sup => ?_) s l s.supervisors
  dsimp only
  rw [nextSup_withPend]
  exact sendTo_withPend _ m _

theorem evalCell_withPend (s : State) (l : List Aperture) (n : Nat) (code : Int) (isOpen : Bool) :
    (s.withPend l).evalCell n code isOpen = (s.evalCell n code isOpen).withPend l := updCell_withPend _ _ _ _

theorem evalAux_withPend (s : State) (l : List Aperture) (k code : Nat) :
    (s.withPend l).evalAux k code = (s.evalAux k code).withPend l :=
  ite_withPend (c := (!s.otInput k) = true) rfl rfl

theorem limitReport_withPend (s : State) (l : List Aperture) (before : List Bool) (time : Nat) :
    (s.withPend l).limitReport before time = (s.limitReport before time).withPend l :=
  ite_withPend (sendSafety_withPend { s with safety := { s.safety with lastEval := time } } l _ _) rfl

theorem compareCell_withPend (s : State) (l : List Aperture) (t n : Nat) (code : Int) :
    (s.withPend l).compareCell t n code = (s.compareCell t n code).withPend l := by
  have hnear : (s.withPend l).proofNear t n = s.proofNear t n := rfl
  unfold State.compareCell
  rw [hnear]
  cases s.proofNear t n with
  | none => rfl
  | some p =>
    dsimp only
    rw [updCell_withPend, raise_withPend]
    exact ite_withPend rfl rfl

theorem rateCell_withPend (s : State) (l : List Aperture) (m2 : Int) (n : Nat) :
    (s.withPend l).rateCell m2 n = (s.rateCell m2 n).withPend l := by
  unfold State.rateCell
  dsimp only
  rw [updCell_withPend, raise_withPend]
  exact ite_withPend rfl rfl

theorem rateCheck_withPend (s : State) (l : List Aperture) (cells : List Nat) :
    (s.withPend l).rateCheck cells = (s.rateCheck cells).withPend l :=
  ite_withPend rfl (foldl_withPend (fun u m n => rateCell_withPend u m _ n) s l _)

theorem loopback_withPend (s : State) (l : List Aperture) (t : Nat) (witness code : Int) :
    (s.withPend l).loopback t witness code = (s.loopback t witness code).withPend l := by
  unfold State.loopback
  extract_lets n lim miss k set_
  refine ite_withPend rfl (ite_withPend rfl ?_)
  exact congrArg (State.detail · 4 n 5 t) (raise_withPend (set_ s _ 0) l 4 n)

theorem takeAux_pend (w : SweepSt) (l : List Aperture) (a : Aperture) :
    SweepSt.takeAux { w with pend := l } a = { w.takeAux a with pend := l } := by
  cases h : a.aux <;> simp [SweepSt.takeAux, h]

theorem keepRec_withPend (s : State) (l : List Aperture) (r : Rec) : (s.withPend l).keepRec r = (s.keepRec r).withPend l := by
  unfold State.keepRec
  refine ite_withPend ?_ (ite_withPend ?_ ?_)
  all_goals dsimp only [State.withPend]

/-- Stage by stage the two runs differ in the schedule alone; the last stage drops its first aperture. -/
theorem completeRecord_withPend (s : State) (l : List Aperture) (a : Aperture) (raw : RawCodes) (temps : List Int) (frac : Int)
    (w : Option Int) :
    (s.withPend l).completeRecord a raw temps frac w = (s.completeRecord a raw temps frac w).withPend (l.drop 1) := by
  unfold State.completeRecord
  extract_lets p' sel' g' bb' unc' lost adj' code' uns_ opn' clamp cells' aux' before' cell' eval' lim' kept' elig' comp' rate' loop'
    is1' is2' r' src' done' p sel g bb unc adj code opn cells aux before cell eval lim kept elig comp rate loop is1 is2 r src done
  have haux : aux' = aux.withPend l := congrArg (fun x => { s with sweep := x }) (takeAux_pend s.sweep l a)
  clear_value aux'; subst haux
  have hcell : cell' = cell.withPend l := foldl_withPend (fun u m n => evalCell_withPend u m n _ _) aux l _
  clear_value cell'; subst hcell
  have heval : eval' = eval.withPend l := ite_withPend (foldl_withPend (fun u m k => evalAux_withPend u m k _) cell l _) rfl
  clear_value eval'; subst heval
  have hlim : lim' = lim.withPend l := ite_withPend rfl (limitReport_withPend eval l _ _)
  clear_value lim'; subst hlim
  have hcomp : comp' = comp.withPend l := foldl_withPend (fun u m n => compareCell_withPend u m _ n _) kept l _
  clear_value comp'; subst hcomp
  have hrate : rate' = rate.withPend l := rateCheck_withPend comp l _
  clear_value rate'; subst hrate
  have hloop : loop' = loop.withPend l := by
    have htier : (rate.withPend l).loopTier a.num = rate.loopTier a.num := rfl
    unfold loop' loop
    rw [htier]
    cases rate.loopTier a.num with
    | none => rfl
    | some t =>
      cases w with
      | none => rfl
      | some w => exact ite_withPend rfl (loopback_withPend rate l t w _)
  clear_value loop'; subst hloop
  exact keepRec_withPend done _ _

/-! ### The record -/

/-- The record shows cell n as one outside CELL_MASK (R67). -/
structure Rec.ShowsUnselected (r : Rec) (n : Nat) : Prop where
  code : r.cells.getD (n - 1) 0 = -0x800000
  unsettled : r.unsettled.testBit (n - 1) = false
  adj : r.adj.testBit (n - 1) = false
  openW : r.openW.testBit (n - 1) = false
  disagree : r.disagree.testBit (n - 1) = false
  immature : r.immature.testBit (n - 1) = false

/-- The record that a completed sweep with the parameters p and the conversion raw is kept as. -/
structure Rec.Shows (r : Rec) (p : SweepPar) (raw : RawCodes) : Prop where
  is1 : r.is1 = currentCode p 1 raw.is1
  is2 : r.is2 = currentCode p 2 raw.is2
  unselected : ∀ n, 1 ≤ n → n ≤ 48 → inMask p.mask n = false → r.ShowsUnselected n

theorem completeRecord_eq_keepRec (s : State) (a : Aperture) (raw : RawCodes) (temps : List Int) (frac : Int) (w : Option Int) :
    ∃ (u : State) (r : Rec), s.completeRecord a raw temps frac w = u.keepRec r.sealed ∧ r.Shows s.sweep.lat raw := by
  unfold State.completeRecord
  extract_lets p sel g bb unc lost adj code uns_ opn clamp cells aux before cell eval lim kept elig comp rate loop is1 is2 r src done
  refine ⟨done, r, rfl, rfl, rfl, fun n h1 h48 hout => ?_⟩
  have hsel : sel n = false := hout
  have helig : n ∉ elig := fun hmem => by simp [elig, cells, hsel] at hmem
  have hcode : r.cells.getD (n - 1) 0 = if sel n then code n else -0x800000 :=
    cellNums_getD (fun n => if sel n then code n else -0x800000) h1 h48
  exact
    { code := hcode.trans (by simp [hsel])
      unsettled := by simp [r, maskOf_testBit _ h1 h48, hsel]
      adj := by simp [r, maskOf_testBit _ h1 h48, hsel]
      openW := by simp [r, maskOf_testBit _ h1 h48, hsel]
      disagree := by simp [r, maskOf_testBit _ h1 h48, helig]
      immature := by simp [r, maskOf_testBit _ h1 h48, hsel] }

theorem keepRec_live (s : State) (r : Rec) :
    (s.keepRec r).sweep.live = (s.sweep.live ++ [r]).drop (s.sweep.live.length + 1 - 128) := by
  unfold State.keepRec
  extract_lets _ u
  split
  · dsimp only [u]
  · split <;> dsimp only [u]

theorem keepRec_live_getLast (s : State) (r : Rec) : (s.keepRec r).sweep.live.getLast? = some r := by
  have hroom : s.sweep.live.length + 1 - 128 ≤ s.sweep.live.length := by omega
  rw [keepRec_live, List.drop_append_of_le_length hroom, List.getLast?_concat]

theorem flush_sweep (s : State) : s.flush.sweep = s.sweep := flush_only s .sweep (by decide)

/-! ### The command -/

section
variable {s : State} {a : Aperture} {l : List Aperture} {raw : RawCodes} (temps : List Int) (frac : Int) (w : Option Int)
  (hclk : s.crystalRuns = true) (hpend : s.sweep.pend = a :: l) (hcodes : a.codes = some raw)
  (haux : a.aux = false ∨ a.auxDone = true)
include hclk hpend hcodes haux

theorem exec_sweepRecordComplete_of_due :
    exec (.sweepRecordComplete temps frac w) s
      = .next { (s.begin.completeRecord a raw temps frac w).flush with pending := s.pending } := by
  have hdue : s.begin.recordDue = some a := by
    rcases haux with h | h <;> simp [State.recordDue, hpend, hcodes, h]
  have harm : exec (.sweepRecordComplete temps frac w) s = execSweepRecordComplete temps frac w s := rfl
  rw [harm, execSweepRecordComplete, runConvL, runConv, run_answers]
  simp [hclk, hdue, hcodes]

/-- The record comes last in the live ring. -/
theorem exec_sweepRecordComplete_record :
    ∃ (t : State) (r : Rec), exec (.sweepRecordComplete temps frac w) s = .next t ∧ t.sweep.live.getLast? = some r.sealed
      ∧ r.Shows s.sweep.lat raw := by
  obtain ⟨u, r, hrec, hshows⟩ := completeRecord_eq_keepRec s.begin a raw temps frac w
  refine ⟨_, r, exec_sweepRecordComplete_of_due temps frac w hclk hpend hcodes haux, ?_, hshows⟩
  rw [hrec]
  dsimp only
  rw [flush_sweep, keepRec_live_getLast]

theorem exec_sweepRecordComplete_congr {raw' : RawCodes} (halike : SampledAlike s.sweep.lat raw' raw) :
    exec (.sweepRecordComplete temps frac w) (s.withPend ({ a with codes := some raw' } :: l))
      = exec (.sweepRecordComplete temps frac w) s := by
  have hself : s.begin.withPend (a :: l) = s.begin := by rw [← hpend]; rfl
  have hrec : (s.begin.withPend ({ a with codes := some raw' } :: l)).completeRecord { a with codes := some raw' } raw' temps frac w
      = s.begin.completeRecord a raw temps frac w := by
    calc _ = (s.begin.completeRecord a raw' temps frac w).withPend l := completeRecord_withPend _ _ _ _ _ _ _
      _ = (s.begin.completeRecord a raw temps frac w).withPend l := by rw [completeRecord_congr (s := s.begin) halike]
      _ = (s.begin.withPend (a :: l)).completeRecord a raw temps frac w := (completeRecord_withPend _ (a :: l) _ _ _ _ _).symm
      _ = s.begin.completeRecord a raw temps frac w := by rw [hself]
  have hbegin (m : List Aperture) : (s.withPend m).begin = s.begin.withPend m := rfl
  rw [exec_sweepRecordComplete_of_due (s := s.withPend ({ a with codes := some raw' } :: l)) temps frac w hclk rfl rfl haux, hbegin, hrec]
  exact (exec_sweepRecordComplete_of_due temps frac w hclk hpend hcodes haux).symm

end

/-- Settles O59: the record shows every unselected cell and disabled channel as such, and two conversions that differ in a disabled channel
alone lead to the same state. -/
theorem disabledSourcesAreNotSampled : Obligations.DisabledSourcesAreNotSampled := by
  intro s a raw temps frac x w n hclk hpend hcodes haux
  obtain ⟨t, r, hexec, hlast, his1, his2, hcells⟩ := exec_sweepRecordComplete_record temps frac w hclk hpend hcodes haux
  refine ⟨fun h1 h48 hout => ⟨t, hexec, ?_⟩, fun hen => ⟨⟨t, hexec, ?_⟩, ?_⟩, fun hen => ⟨⟨t, hexec, ?_⟩, ?_⟩⟩
  · obtain ⟨hcode, huns, hadj, hopen, hdis, himm⟩ := hcells n h1 h48 hout
    simp [hlast, Rec.sealed, -List.getD_eq_getElem?_getD, hcode, huns, hadj, hopen, hdis, himm]
  · simp [hlast, Rec.sealed, his1, currentCode_disabled (ch := 1) hen]
  · exact exec_sweepRecordComplete_congr temps frac w hclk hpend hcodes haux (sampledAlike_is1 raw x hen)
  · simp [hlast, Rec.sealed, his2, currentCode_disabled (ch := 2) hen]
  · exact exec_sweepRecordComplete_congr temps frac w hclk hpend hcodes haux (sampledAlike_is2 raw x hen)

end Sys2Proof.Machine
end

section
/-!
An unlisted CREDIT frame (07 R187) at a ROOT where a harvest only waits to close. The command that receives CREDIT frames ends with the
release of what can leave the device, also when it discards the frame. A harvest whose contributors have all answered then closes (06 R170):
its transaction completes, and the completion takes one of the model's free values.
-/
namespace Sys2Proof.Machine

/-- A frame of an unlisted combination that ends at this hop is counted, and has no other effect there. -/
theorem onLocal_unlisted {s : State} {a : Arrival} {f : Frame} (act : State → State) (hlist : frameListed f = false)
    (hhop : (s.hop a f).1 = true) : s.onLocal a f act = ((s.hop a f).2.touchWalk a f).countCondemned a := by
  simp [State.onLocal, State.deliver, hhop, hlist]

theorem flush_free (s : State) : s.flush.free = s.free := flush_only s .free (by decide)

/-- Sending takes no free value. -/
theorem runL_free {f : State → State} {s t : State} (h : runL f s = .next t) : t.free = (f s.begin).free := by
  rw [runL_answers, Host.Outcome.next.injEq] at h
  subst h
  dsimp only
  rw [flush_free]

/-- An unlisted CREDIT frame takes the free values that the release after its discard takes. -/
theorem exec_creditFrameReceive_unlisted_free {s t : State} {a : Arrival} {f : Frame} (hlist : frameListed f = false)
    (hhop : (s.begin.hop a f).1 = true) (hexec : exec (.creditFrameReceive a f) s = .next t) :
    t.free = (((s.begin.hop a f).2.touchWalk a f).countCondemned a).flush.release.free := by
  have hrun : exec (.creditFrameReceive a f) s = runL (fun s => (s.onLocal a f _).flush.release) s := rfl
  rw [runL_free (hrun.symm.trans hexec), onLocal_unlisted _ hlist hhop]

/-! ### The counterexample -/

/-- A CREDIT frame of class D, which Table 7.4 does not list, to the ROOT. -/
def creditOfClassD : Frame :=
  { typ := 8, cls := 2, hasScope := false, dest := 0, src := 1, depth := 0, tag := 0, payload := [] }

/-- A harvest at the ROOT for a NOP: its one contributor, position 1 on port A, has answered, and the step that combines the answer is
still to run. -/
def answeredHarvest : Harvest :=
  { tag := 0, up := none, req := .nop, src := 0, pos := 1, depth := 255
    kids := [{ port := some 0, since := 0, given := some (answerOf 1 stOk 0), lost := false }]
    lastPend := 0, tResp := 50, slot := some 224, todo := [some 0], collecting := false }

/-- A ROOT with this harvest and no working gleaner island: the last has failed (06 R154), so that no step is waited for. -/
def rootWithAnsweredHarvest : State := { State.reset with
  mode.mode := .quiet, ident.role := .root
  ports := [{ PortSt.reset with fn := .running, link := .up, kid := some (1, 1) }, PortSt.reset, PortSt.reset, PortSt.reset]
  host.txs := [newTx State.reset 0 0 { ring := 0, cid := 0, flags := 0, pos := 1, depth := 255, pool := 255, timeout := 0 } .nop none]
  glean.islandOk := 0, glean.harvests := [answeredHarvest] }

/-- The frame as it arrives: the next of space N on port A. -/
def creditArrival : Arrival := rootWithAnsweredHarvest.viaSpace 0 creditOfClassD true

/-- The release that follows the discarded frame completes the transaction. -/
theorem release_rootWithAnsweredHarvest_free :
    (((rootWithAnsweredHarvest.begin.hop creditArrival creditOfClassD).2.touchWalk creditArrival creditOfClassD).countCondemned
      creditArrival).flush.release.free = rootWithAnsweredHarvest.free + 1 := by decide +kernel

theorem hop_accepts_creditOfClassD : (rootWithAnsweredHarvest.begin.hop creditArrival creditOfClassD).1 = true := by decide +kernel

/-- Refutes O60: its frame leaves out the model's free values, and only the clause on the harvests supposes that none of them waits to close.
On a ROOT where one does, an unlisted CREDIT frame is discarded and counted, and in the same command the harvest's transaction completes and
takes a free value. -/
theorem not_unlistedFramesAreDiscarded : ¬ Obligations.UnlistedFramesAreDiscarded := by
  intro h
  obtain ⟨-, hdiscard⟩ := h rootWithAnsweredHarvest 0 true creditOfClassD .nop noContribution (by decide)
  obtain ⟨t, hexec, -, -, hframe⟩ := hdiscard (by decide +kernel) (by decide) (by decide +kernel) (by decide)
    (.creditFrameReceive creditArrival creditOfClassD) (by simp [creditArrival])
  obtain ⟨honly, -⟩ := hframe rfl
  have hsame : t.free = rootWithAnsweredHarvest.free := honly .free (by decide)
  have htaken : t.free = rootWithAnsweredHarvest.free + 1 :=
    (exec_creditFrameReceive_unlisted_free (by decide) hop_accepts_creditOfClassD hexec).trans release_rootWithAnsweredHarvest_free
  omega

end Sys2Proof.Machine
end

section
/-!
A step and the queue of commands (00_scope.md, 95_what_each_step_holds.md): the front command leaves the queue and exec carries it out on the
rest; no command refuses, and none takes, adds or reorders a waiting one.
-/
namespace Sys2Proof.Machine

-- one proof at a time: these proofs share the equations of the operations they unfold
set_option Elab.async false

theorem exec_next_pending (c : Instr) (s : State) : ∃ t, exec c s = .next t ∧ t.pending = s.pending := by
  cases c <;> exact ⟨_, rfl, rfl⟩

theorem step_cons (s : State) (c : Instr) (rest : List Instr) :
    step { s with pending := c :: rest } = exec c { s with pending := rest } := rfl

/-- Settles O1: it is what step is on a queue that is not empty. -/
theorem stepRunsTheFrontCommand : Obligations.StepRunsTheFrontCommand := step_cons

/-- Settles O2: every command is a function of the state that answers a next state with the queue it met. -/
theorem commandsLeaveInOrderOfArrival : Obligations.CommandsLeaveInOrderOfArrival := by
  intro s c rest
  obtain ⟨t, hexec, hpend⟩ := exec_next_pending c { s with pending := rest }
  exact ⟨t, hexec, hpend, (step_cons s c rest).trans hexec⟩

theorem reset_memWf : State.reset.memWf := by
  unfold State.memWf
  decide +kernel

/-- Settles O4: the reset state is closed, and each predicate evaluates on it. -/
theorem resetStateIsWellFormed : Obligations.ResetStateIsWellFormed :=
  ⟨fun _ hc => absurd hc List.not_mem_nil, reset_memWf, by decide +kernel, by decide +kernel⟩

end Sys2Proof.Machine
end

section
/-!
One period of the crystal with no command waiting (00_scope.md, R12): what each stage of the tick can touch, and which stages do nothing
when no reset, halt, waiting frame or held access is due.
-/
namespace Sys2Proof.Machine

-- one proof at a time: these proofs share the equations of the operations they unfold
set_option Elab.async false

theorem edges_only (s : State) (n : Nat) : s.onlyChanges [.cells] (s.edges n) := by
  unfold State.edges
  refine only_ite (only_refl _ s) ?_
  have htimers : s.onlyChanges [.cells] (if s.timersRun then { s with cells := s.cells.map CellSt.edge } else s) :=
    only_ite (only_cells s _) (only_refl _ s)
  exact only_ite (only_trans htimers (switches_only _)) htimers

theorem graceXtal_only (s : State) : s.onlyChanges [.fault] s.graceXtal := by
  unfold State.graceXtal
  exact only_ite (only_ite (only_fault s _) (only_fault s _)) (only_refl _ s)

theorem pulseBack_only (s : State) (x : Nat) : s.onlyChanges [.safety] (s.pulseBack x) := by
  unfold State.pulseBack
  split
  · exact only_ite (updOut_only s x _) (only_refl _ s)
  · exact only_refl _ s

theorem sealSnapshot_only (s : State) : s.onlyChanges [.sweep, .kept] s.sealSnapshot :=
  only_ite (only_refl _ s) fun p hp => by cases p <;> first | rfl | exact absurd (by decide) hp

/-- Sealing the snapshot ends its busy time and nothing else of SWEEP. -/
theorem sealSnapshot_sweep (s : State) :
    s.sealSnapshot.sweep = { s.sweep with snapBusy := s.sealSnapshot.sweep.snapBusy } := by
  unfold State.sealSnapshot
  split <;> rfl

theorem stopCrystal_clk (s : State) : ∃ b, s.stopCrystal = { s with clk := { s.clk with xtalOn := b } } := by
  unfold State.stopCrystal
  split
  · exact ⟨false, rfl⟩
  · exact ⟨s.clk.xtalOn, rfl⟩

/-- The end of a test pulse clears the pulse of one output. -/
theorem pulseBack_safety (s : State) (x : Nat) : ∃ p1 p2, (s.pulseBack x).safety
    = { s.safety with out1 := { s.safety.out1 with pulse := p1 }, out2 := { s.safety.out2 with pulse := p2 } } := by
  unfold State.pulseBack
  split
  · split
    · unfold State.updOut
      split
      · exact ⟨none, s.safety.out2.pulse, rfl⟩
      · exact ⟨s.safety.out1.pulse, none, rfl⟩
    · exact ⟨s.safety.out1.pulse, s.safety.out2.pulse, rfl⟩
  · exact ⟨s.safety.out1.pulse, s.safety.out2.pulse, rfl⟩

theorem takeHalt_of_not_held {s : State} (h : s.mode.haltHeld = false) : s.takeHalt = s := by
  simp [State.takeHalt, h]

theorem resumeFrames_of_none {s : State} (h : s.tree.waiting = []) : s.resumeFrames = s := by
  simp [State.resumeFrames, h]

theorem goOn_of_not_go {s : State} (h : s.dbg.go = false) : s.goOn = s := by
  simp [State.goOn, h]

theorem resetDue_of_none {s : State} (h : s.mode.resetAt = none) : s.resetDue = false := by
  simp [State.resetDue, h]

/-! ### The clocks -/

theorem tick_wall (c : ClkSt) : c.tick.wall = c.wall + 1 := by
  unfold ClkSt.tick
  dsimp only
  split <;> rfl

theorem tick_rtc (c : ClkSt) : c.tick.rtc = (if c.rtcSub = 624 then c.rtc + 1 else c.rtc)
    ∧ c.tick.rtcSub = (if c.rtcSub = 624 then 0 else c.rtcSub + 1) := by
  unfold ClkSt.tick
  dsimp only
  split <;> exact ⟨rfl, rfl⟩

theorem tick_tt_of_stopped {c : ClkSt} (h : c.treeOn = false ∨ c.xtalOn = false) : c.tick.tt = c.tt := by
  have hoff : (c.treeOn && c.xtalOn) = false := by rcases h with h | h <;> simp [h]
  simp [ClkSt.tick, hoff]

theorem tick_tt_untrimmed {c : ClkSt} (htree : c.treeOn = true) (hxtal : c.xtalOn = true) (htrim : c.trim = 0) :
    c.tick.tt = c.tt + (c.frac + 65536) / 65536 := by
  have hstep : trimStep 0 = 0 := by decide
  simp only [ClkSt.tick, htree, hxtal, htrim, hstep, Bool.and_self, if_true]
  omega

/-! ### A tick at which nothing else is due -/

/-- The stages of a tick before the pulses. -/
def State.tickClocks (s : State) : State := ({ s with clk := s.clk.tick }.edges s.now).graceXtal.stopCrystal.sealSnapshot

theorem tickClocks_only (s : State) : s.onlyChanges [.clk, .cells, .fault, .sweep, .kept] s.tickClocks := by
  have hedges : s.onlyChanges [.clk, .cells, .fault, .sweep, .kept] (({ s with clk := s.clk.tick }.edges s.now).graceXtal) :=
    only_step (graceXtal_only _) (only_step (edges_only _ _) (only_one (only_clk s _)))
  obtain ⟨b, hstop⟩ := stopCrystal_clk ({ s with clk := s.clk.tick }.edges s.now).graceXtal
  refine only_step (sealSnapshot_only _) ?_
  rw [hstop]
  exact only_step (only_clk _ _) hedges

theorem tickClocks_clk (s : State) : ∃ b, s.tickClocks.clk = { s.clk.tick with xtalOn := b } := by
  have hedges := edges_only { s with clk := s.clk.tick } s.now
  have hgrace := graceXtal_only ({ s with clk := s.clk.tick }.edges s.now)
  obtain ⟨b, hstop⟩ := stopCrystal_clk ({ s with clk := s.clk.tick }.edges s.now).graceXtal
  have hseal := sealSnapshot_only ({ s with clk := s.clk.tick }.edges s.now).graceXtal.stopCrystal
  refine ⟨b, (hseal .clk (by decide)).trans ?_⟩
  rw [hstop, hgrace .clk (by decide), hedges .clk (by decide)]

theorem tickClocks_sweep (s : State) : s.tickClocks.sweep = { s.sweep with snapBusy := s.tickClocks.sweep.snapBusy } := by
  have hedges := edges_only { s with clk := s.clk.tick } s.now
  have hgrace := graceXtal_only ({ s with clk := s.clk.tick }.edges s.now)
  obtain ⟨b, hstop⟩ := stopCrystal_clk ({ s with clk := s.clk.tick }.edges s.now).graceXtal
  have hsame : ({ s with clk := s.clk.tick }.edges s.now).graceXtal.stopCrystal.sweep = s.sweep := by
    rw [hstop]
    exact (hgrace .sweep (by decide)).trans (hedges .sweep (by decide))
  have hseal := sealSnapshot_sweep ({ s with clk := s.clk.tick }.edges s.now).graceXtal.stopCrystal
  rw [hsame] at hseal
  exact hseal

theorem tick_of_nothing_due {s : State} (hreset : s.mode.resetAt = none) (hhalt : s.mode.haltHeld = false)
    (hframes : s.tree.waiting = []) (hgo : s.dbg.go = false) : s.tick = (s.tickClocks.pulseBack 1).pulseBack 2 := by
  have hclocks := tickClocks_only s
  have hpulses : s.tickClocks.onlyChanges [.safety] ((s.tickClocks.pulseBack 1).pulseBack 2) :=
    only_trans (pulseBack_only _ 1) (pulseBack_only _ 2)
  have hmode : ((s.tickClocks.pulseBack 1).pulseBack 2).mode = s.mode :=
    (hpulses .mode (by decide)).trans (hclocks .mode (by decide))
  have hidle : s.tickClocks.takeHalt.resumeFrames.goOn = s.tickClocks := by
    rw [takeHalt_of_not_held (by rw [hclocks .mode (by decide)]; exact hhalt),
      resumeFrames_of_none (by rw [hclocks .tree (by decide)]; exact hframes),
      goOn_of_not_go (by rw [hclocks .dbg (by decide)]; exact hgo)]
  have hdue : ((s.tickClocks.pulseBack 1).pulseBack 2).resetDue = false := resetDue_of_none (by rw [hmode]; exact hreset)
  rw [show s.tick = (if ((s.tickClocks.takeHalt.resumeFrames.goOn.pulseBack 1).pulseBack 2).resetDue then
    ((s.tickClocks.takeHalt.resumeFrames.goOn.pulseBack 1).pulseBack 2).resetBy 6
    else (s.tickClocks.takeHalt.resumeFrames.goOn.pulseBack 1).pulseBack 2) from rfl, hidle, hdue]
  exact if_neg Bool.false_ne_true

/-- Settles O5: the tick is its clocks and the end of test pulses, and each of these touches what it names. -/
theorem emptyQueueCountsOneCrystalPeriod : Obligations.EmptyQueueCountsOneCrystalPeriod := by
  intro s hqueue hreset hhalt hframes hgo
  have hstep : step s = .next s.begin.tick := by simp [step, hqueue]
  have htick := tick_of_nothing_due (s := s.begin) hreset hhalt hframes hgo
  have hclocks := tickClocks_only s.begin
  have hpulses : s.begin.tickClocks.onlyChanges [.safety] s.begin.tick := by
    rw [htick]
    exact only_trans (pulseBack_only _ 1) (pulseBack_only _ 2)
  obtain ⟨b, hb⟩ := tickClocks_clk s.begin
  have hclk : s.begin.tick.clk = { s.clk.tick with xtalOn := b } := (hpulses .clk (by decide)).trans hb
  have hsweep : s.begin.tick.sweep = { s.sweep with snapBusy := s.begin.tick.sweep.snapBusy } := by
    rw [hpulses .sweep (by decide)]
    exact tickClocks_sweep s.begin
  obtain ⟨p1, p2, hfirst⟩ := pulseBack_safety s.begin.tickClocks 1
  obtain ⟨q1, q2, hsecond⟩ := pulseBack_safety (s.begin.tickClocks.pulseBack 1) 2
  have hsafety : s.begin.tick.safety = { s.safety with out1 := { s.safety.out1 with pulse := q1 }
                                                       out2 := { s.safety.out2 with pulse := q2 } } := by
    rw [htick, hsecond, hfirst, hclocks .safety (by decide)]
    rfl
  have hrtc := tick_rtc s.clk
  refine ⟨s.begin.tick, hstep, ?_, ?_, ?_, ?_, ?_, ?_, hsweep, ?_, ?_⟩
  · rw [hpulses .pending (by decide), hclocks .pending (by decide)]
    exact hqueue
  · rw [hclk]
    exact tick_wall s.clk
  · intro hsub
    rw [hclk]
    exact ⟨by simp [hrtc.1, hsub], by simp [hrtc.2, hsub]⟩
  · intro hsub
    rw [hclk]
    exact ⟨by simp [hrtc.1, hsub], by simp [hrtc.2, hsub]⟩
  · intro htree hxtal htrim
    rw [hclk]
    exact tick_tt_untrimmed htree hxtal htrim
  · intro hoff
    rw [hclk]
    exact tick_tt_of_stopped hoff
  · rw [hsafety]
  · exact only_step hpulses (only_step hclocks (only_one (begin_only s)))

end Sys2Proof.Machine
end

section
/-!
What every command and every tick keeps (Safety.lean memWf, shapeWf, boundsWf): a state's footprint holds what these claims speak of, most
operations leave it as it is, and the few that touch it keep the claims.
-/
namespace Sys2Proof.Machine

-- one proof at a time: these proofs share the equations of the operations they unfold
set_option Elab.async false

/-- What is claimed of a state: the memories and files (`files`), the room of the queues (`room`), and the commands that wait. -/
structure Claim where
  files : Prop
  room  : Prop
  queue : List Instr

/-- The part of a state that the claims speak of. -/
structure Footprint where
  pending  : List Instr
  bank0    : Mem
  bank1    : Mem
  dataArea : Mem
  granary  : Mem
  ports    : Nat
  cells    : Nat
  checks   : Nat
  sq       : Nat
  cq       : Nat
  pool     : Nat
  brk      : Nat
  gleaners : Nat
  refs     : Nat
  routes   : Nat
  queued   : Nat
  logged   : Nat
  events   : Nat
  deques   : List Nat
  held     : Nat
  live     : Nat
  parish   : Nat

/-- The part of this state that the claims speak of. -/
def State.foot (s : State) : Footprint where
  pending := s.pending
  bank0 := s.flash.bank0
  bank1 := s.flash.bank1
  dataArea := s.flash.dataArea
  granary := s.granary
  ports := s.ports.length
  cells := s.cells.length
  checks := s.checks.length
  sq := s.host.sq.length
  cq := s.host.cq.length
  pool := s.host.pool.length
  brk := s.dbg.brk.length
  gleaners := s.glean.gleaners.length
  refs := s.cmdRefs.length
  routes := s.tree.routes.length
  queued := slotsOf s.flash.queue
  logged := slotsOf s.flash.log
  events := s.host.events.length
  deques := s.glean.gleaners.map (·.deque.length)
  held := s.tree.heldArea.length
  live := s.sweep.live.length
  parish := s.safety.parish.length

/-- The claims hold of a footprint. -/
structure Footprint.Sound (K : Claim) (f : Footprint) : Prop where
  pending  : f.pending = K.queue
  bank0    : K.files → Memory.wf flashByte f.bank0 = true
  bank1    : K.files → Memory.wf flashByte f.bank1 = true
  dataArea : K.files → Memory.wf flashByte f.dataArea = true
  granary  : K.files → Memory.rising f.granary = true
  ports    : K.files → f.ports = 4
  cells    : K.files → f.cells = 48
  checks   : K.files → f.checks = 4
  sq       : K.files → f.sq = 256
  cq       : K.files → f.cq = 256
  pool     : K.files → f.pool = 64
  brk      : K.files → f.brk = 8
  gleaners : K.files → f.gleaners = 16
  refs     : K.room → f.refs ≤ 64
  routes   : K.room → f.routes ≤ 256
  queued   : K.room → f.queued ≤ 16
  logged   : K.room → f.logged ≤ 4096
  events   : K.room → f.events ≤ 256
  deques   : K.room → ∀ n ∈ f.deques, n ≤ 32
  held     : K.room → f.held ≤ 64
  live     : K.room → f.live ≤ 128
  parish   : K.room → f.parish ≤ 256

/-- The claims hold of a state. -/
def State.Sound (K : Claim) (s : State) : Prop := s.foot.Sound K

variable {K : Claim} {s t : State}

theorem sound_of_foot (h : s.Sound K) (hf : t.foot = s.foot) : t.Sound K := by
  unfold State.Sound
  rw [hf]
  exact h

/-- A record update of any fields but the queue of commands. -/
theorem sound_mk {free reply out clk ident mode fault wdog clocks hostWd checks flash dbg ports legacy cmdRefs tree host safety sweep cells
      survey bal diag glean expo power wire bist kept granary} (h : s.Sound K)
    (hf : (State.mk s.pending free reply out clk ident mode fault wdog clocks hostWd checks flash dbg ports legacy cmdRefs tree host safety
      sweep cells survey bal diag glean expo power wire bist kept granary).foot = s.foot) :
    (State.mk s.pending free reply out clk ident mode fault wdog clocks hostWd checks flash dbg ports legacy cmdRefs tree host safety
      sweep cells survey bal diag glean expo power wire bist kept granary).Sound K :=
  sound_of_foot h hf

/-- The parts that the claims speak of. -/
def Part.claimed : Part → Bool
  | .pending | .checks | .flash | .dbg | .ports | .cmdRefs | .tree | .host | .safety | .sweep | .cells | .glean | .granary => true
  | _ => false

theorem foot_of_only {ps : List Part} (ho : s.onlyChanges ps t) (hps : ps.all (fun p => !p.claimed) = true) : t.foot = s.foot := by
  have hsame (p : Part) (hp : p.claimed = true) : p.same s t := by
    refine ho p fun hmem => ?_
    have := List.all_eq_true.mp hps p hmem
    simp [hp] at this
  have h1 : t.pending = s.pending := hsame .pending rfl
  have h2 : t.checks = s.checks := hsame .checks rfl
  have h3 : t.flash = s.flash := hsame .flash rfl
  have h4 : t.dbg = s.dbg := hsame .dbg rfl
  have h5 : t.ports = s.ports := hsame .ports rfl
  have h6 : t.cmdRefs = s.cmdRefs := hsame .cmdRefs rfl
  have h7 : t.tree = s.tree := hsame .tree rfl
  have h8 : t.host = s.host := hsame .host rfl
  have h9 : t.safety = s.safety := hsame .safety rfl
  have h10 : t.sweep = s.sweep := hsame .sweep rfl
  have h11 : t.cells = s.cells := hsame .cells rfl
  have h12 : t.glean = s.glean := hsame .glean rfl
  have h13 : t.granary = s.granary := hsame .granary rfl
  simp only [State.foot, h1, h2, h3, h4, h5, h6, h7, h8, h9, h10, h11, h12, h13]

theorem sound_of_only {ps : List Part} (h : s.Sound K) (ho : s.onlyChanges ps t)
    (hps : ps.all (fun p => !p.claimed) = true := by decide) : t.Sound K :=
  sound_of_foot h (foot_of_only ho hps)

theorem forall_mem_updAt {α : Type} {p : α → Prop} {l : List α} {i : Nat} {f : α → α} (h : ∀ x ∈ l, p x)
    (hf : ∀ x ∈ l, p (f x)) : ∀ x ∈ updAt l i f, p x := by
  unfold updAt
  split
  · rename_i y hy
    intro x hx
    rcases List.mem_or_eq_of_mem_set hx with hx | rfl
    · exact h x hx
    · exact hf y (List.mem_of_getElem? hy)
  · exact h

theorem forall_mem_updAt_at {α : Type} {p : α → Prop} {l : List α} {i : Nat} {f : α → α} {d : α} (h : ∀ x ∈ l, p x)
    (hf : p (f (l.getD i d))) : ∀ x ∈ updAt l i f, p x := by
  unfold updAt
  split
  · rename_i y hy
    intro x hx
    rcases List.mem_or_eq_of_mem_set hx with hx | rfl
    · exact h x hx
    · simpa [List.getD, hy] using hf
  · exact h

/-! ### The ledger's slots -/

theorem slotsOf_cons (e : LedgerEntry) (l : List LedgerEntry) : slotsOf (e :: l) = e.slots + slotsOf l := by simp [slotsOf]

theorem slotsOf_append (l m : List LedgerEntry) : slotsOf (l ++ m) = slotsOf l + slotsOf m := by simp [slotsOf]

theorem LedgerEntry.slots_le (e : LedgerEntry) : e.slots ≤ 2 := by
  unfold LedgerEntry.slots
  split <;> decide

theorem LedgerEntry.slots_pos (e : LedgerEntry) : 1 ≤ e.slots := by
  unfold LedgerEntry.slots
  split <;> decide

/-- Each entry that goes frees a slot at least. -/
theorem slotsOf_trimLog {n : Nat} {l : List LedgerEntry} (h : slotsOf l ≤ 4096 + n) : slotsOf (trimLog n l) ≤ 4096 := by
  induction n generalizing l with
  | zero => exact h
  | succ n ih =>
    unfold trimLog
    split
    · assumption
    · refine ih ?_
      cases l with
      | nil => exact Nat.zero_le _
      | cons e l =>
        have := e.slots_pos
        rw [slotsOf_cons] at h
        simp only [List.drop_succ_cons, List.drop_zero]
        omega

theorem slotsOf_tornSlot (s : State) : slotsOf (tornSlot s).toList ≤ 2 := by
  unfold tornSlot
  split
  · exact Nat.zero_le _
  · dsimp only
    split
    · exact Nat.zero_le _
    · simp [slotsOf, LedgerEntry.slots]

/-! ### Control structures -/

theorem sound_ite {p : Prop} [Decidable p] (hs : s.Sound K) (ht : t.Sound K) : (if p then s else t).Sound K := by
  split
  · exact hs
  · exact ht

theorem sound_ite_snd {α : Type} {p : Prop} [Decidable p] {a b : α × State} (ha : a.2.Sound K) (hb : b.2.Sound K) :
    (if p then a else b).2.Sound K := by
  split
  · exact ha
  · exact hb

theorem sound_ite_snd_snd {α β : Type} {p : Prop} [Decidable p] {a b : α × β × State} (ha : a.2.2.Sound K) (hb : b.2.2.Sound K) :
    (if p then a else b).2.2.Sound K := by
  split
  · exact ha
  · exact hb

theorem sound_ite_fst {α : Type} {p : Prop} [Decidable p] {a b : State × α} (ha : a.1.Sound K) (hb : b.1.Sound K) :
    (if p then a else b).1.Sound K := by
  split
  · exact ha
  · exact hb

theorem sound_when {b : Bool} {f : State → State} (h : s.Sound K) (hf : ∀ u : State, u.Sound K → (f u).Sound K) :
    (when_ b f s).Sound K := sound_ite (hf s h) h

theorem sound_foldl {α : Type} {f : State → α → State} {l : List α} (h : s.Sound K)
    (hf : ∀ (u : State) (x : α), u.Sound K → (f u x).Sound K) : (l.foldl f s).Sound K :=
  List.foldlRecOn l f h fun u hu x _ => hf u x hu

theorem sound_foldl_snd {α β : Type} {f : β × State → α → β × State} {l : List α} {b : β × State} (h : b.2.Sound K)
    (hf : ∀ (u : β × State) (x : α), u.2.Sound K → (f u x).2.Sound K) : (l.foldl f b).2.Sound K :=
  List.foldlRecOn (motive := fun b => b.2.Sound K) l f h fun u hu x _ => hf u x hu

theorem sound_foldl_snd_snd {α β γ : Type} {f : β × γ × State → α → β × γ × State} {l : List α} {b : β × γ × State} (h : b.2.2.Sound K)
    (hf : ∀ (u : β × γ × State) (x : α), u.2.2.Sound K → (f u x).2.2.Sound K) : (l.foldl f b).2.2.Sound K :=
  List.foldlRecOn (motive := fun b => b.2.2.Sound K) l f h fun u hu x _ => hf u x hu

theorem sound_foldl_fst {α β : Type} {f : State × β → α → State × β} {l : List α} {b : State × β} (h : b.1.Sound K)
    (hf : ∀ (u : State × β) (x : α), u.1.Sound K → (f u x).1.Sound K) : (l.foldl f b).1.Sound K :=
  List.foldlRecOn (motive := fun b => b.1.Sound K) l f h fun u hu x _ => hf u x hu

theorem sound_iter {f : State → State} {n : Nat} (h : s.Sound K) (hf : ∀ u : State, u.Sound K → (f u).Sound K) :
    (iter f n s).Sound K := by
  induction n generalizing s with
  | zero => exact h
  | succ n ih => exact ih (hf s h)

/-- A component of a pair that a function answers. -/
theorem sound_of_pair {α : Type} {p : α × State} {a : α} (hp : p = (a, t)) (h : p.2.Sound K) : t.Sound K := by
  subst hp
  exact h

theorem sound_of_triple {α β : Type} {p : α × β × State} {a : α} {b : β} (hp : p = (a, b, t)) (h : p.2.2.Sound K) : t.Sound K := by
  subst hp
  exact h

/-- The claims hold of the state that a command answers. -/
def Answers (K : Claim) (o : Out) : Prop := ∀ t : State, o = .next t → t.Sound K

theorem answers_run {f : State → State} (h : s.Sound K) (hf : ∀ u : State, u.Sound K → (f u).Sound K) : Answers K (run f s) := by
  rintro t ⟨rfl⟩
  have hb : (f s.begin).Sound K := hf _ (sound_of_foot h rfl)
  have hq : s.pending = (f s.begin).pending := h.pending.trans hb.pending.symm
  exact sound_of_foot hb (by rw [hq])

end Sys2Proof.Machine
end

section
/-!
The shared operations and the commands keep the claims, in the order of the model's files: a lemma for each function of the model that gives a
state.
-/
namespace Sys2Proof.Machine

-- one proof at a time: these proofs share the equations of the operations they unfold
set_option Elab.async false

variable {K : Claim} {s t : State}

/-! ### Ops -/

theorem begin_sound (h : s.Sound K) : s.begin.Sound K := sound_of_foot h rfl

theorem answers_runConv {f : State → State} (h : s.Sound K) (hf : ∀ u : State, u.Sound K → (f u).Sound K) : Answers K (runConv f s) :=
  answers_run h fun _ hu => sound_when hu hf

theorem answers_runCore {f : State → State} (h : s.Sound K) (hf : ∀ u : State, u.Sound K → (f u).Sound K) : Answers K (runCore f s) :=
  answers_run h fun _ hu => sound_when hu hf

theorem answer_sound {st v : Nat} {ws : List Nat} {bs : List Byte} (h : s.Sound K) :
    (s.answer st v ws bs).Sound K := sound_of_foot h rfl

theorem emit_sound {e : OutEvt} (h : s.Sound K) : (s.emit e).Sound K := sound_of_foot h rfl

theorem took_sound (h : s.Sound K) : s.took.Sound K := sound_of_foot h rfl

theorem updCell_sound {n : Nat} {f : CellSt → CellSt} (h : s.Sound K) : (s.updCell n f).Sound K :=
  sound_ite h (sound_of_foot h (by simp [State.foot]))

theorem mapCells_sound {f : Nat → CellSt → CellSt} (h : s.Sound K) : (s.mapCells f).Sound K :=
  sound_of_foot h (by simp [State.foot, State.mapCells])

theorem updPort_sound {p : Nat} {f : PortSt → PortSt} (h : s.Sound K) : (s.updPort p f).Sound K :=
  sound_of_foot h (by simp [State.foot, State.updPort])

/-- The queue of 16 slots takes no entry that it has no room for (16 R417). -/
theorem ledgerAt_sound {code item data time : Nat} {cont : Option (Nat × Nat)} (h : s.Sound K) :
    (s.ledgerAt code item data time cont).Sound K := by
  unfold State.ledgerAt
  extract_lets e f
  split
  · exact { h with queued := fun _ => by simpa [State.foot, slotsOf, f] using ‹_› }
  · exact sound_of_foot h rfl

theorem ledger_sound {code item data : Nat} (h : s.Sound K) : (s.ledger code item data).Sound K := by
  unfold State.ledger
  exact ledgerAt_sound h

theorem raise_sound {id item : Nat} (h : s.Sound K) : (s.raise id item).Sound K := by
  unfold State.raise
  exact sound_ite h (sound_of_foot h rfl)

theorem raiseLevel_sound {before : State} {id item : Nat} (h : s.Sound K) : (s.raiseLevel before id item).Sound K := by
  unfold State.raiseLevel
  exact sound_ite (raise_sound h) h

theorem updSq_sound {r : Nat} {f : SqSt → SqSt} (h : s.Sound K) : (s.updSq r f).Sound K :=
  sound_of_foot h (by simp [State.foot, State.updSq])

theorem updCq_sound {c : Nat} {f : CqSt → CqSt} (h : s.Sound K) : (s.updCq c f).Sound K :=
  sound_of_foot h (by simp [State.foot, State.updCq])

theorem updPool_sound {p : Nat} {f : PoolSt → PoolSt} (h : s.Sound K) : (s.updPool p f).Sound K :=
  sound_of_foot h (by simp [State.foot, State.updPool])

theorem message_sound {v : Nat} (h : s.Sound K) : (s.message v).Sound K := by
  unfold State.message
  exact sound_ite (sound_of_foot h rfl) (sound_ite (sound_of_foot h rfl) (sound_of_foot h rfl))

theorem settleSq_sound {r : Nat} (h : s.Sound K) : (s.settleSq r).Sound K := by
  unfold State.settleSq
  exact sound_ite (updSq_sound h) h

theorem signal_sound {c : Nat} (h : s.Sound K) : (s.signal c).Sound K := by
  unfold State.signal
  extract_lets q
  exact sound_ite (message_sound (updCq_sound h)) h

theorem writeEntry_sound {e : Cpl} (h : s.Sound K) : (s.writeEntry e).Sound K := by
  unfold State.writeEntry
  extract_lets q base s1 tail s2 r s3
  have hs1 : s1.Sound K := sound_of_foot h rfl
  have hs2 : s2.Sound K := updCq_sound hs1
  have hs3 : s3.Sound K := by
    unfold s3
    split
    · exact settleSq_sound (sound_of_foot hs2 rfl)
    · exact hs2
  exact signal_sound hs3

theorem complete_sound {e : Cpl} (h : s.Sound K) : (s.complete e).Sound K := by
  unfold State.complete
  exact sound_ite (writeEntry_sound h) (updCq_sound (sound_of_foot h rfl))

/-- An event is queued only below 256 of them (09 R278). -/
theorem event_sound {typ value : Nat} (h : s.Sound K) : (s.event typ value).Sound K := by
  unfold State.event
  extract_lets ev hs s1
  have hs1 : s1.Sound K := sound_of_foot h rfl
  refine sound_ite h (sound_ite (sound_of_foot hs1 rfl) (sound_ite (writeEntry_sound hs1) ?_))
  split
  · exact { hs1 with events := fun _ => by simpa [State.foot, Nat.succ_le_iff] using ‹_› }
  · exact sound_of_foot hs1 rfl

theorem drainCpl_sound (h : s.Sound K) : s.drainCpl.Sound K := by
  unfold State.drainCpl
  extract_lets ws r s0 s1 kept r1
  have hs1 : s1.Sound K := sound_foldl (sound_of_foot h rfl) fun _ _ hu => complete_sound hu
  exact sound_of_foot hs1 (by simp [State.foot, r1])

theorem message_events (s : State) (v : Nat) : (s.message v).host.events = s.host.events := by
  unfold State.message
  split
  · rfl
  · split <;> rfl

theorem signal_events (s : State) (c : Nat) : (s.signal c).host.events = s.host.events := by
  unfold State.signal
  dsimp only
  split
  · exact message_events _ _
  · rfl

theorem settleSq_events (s : State) (r : Nat) : (s.settleSq r).host.events = s.host.events := by
  unfold State.settleSq
  split <;> rfl

/-- A fold whose steps each add one at most to what a queue with room for m holds. -/
theorem sound_foldl_counted {α : Type} {f : State → α → State} {n : State → Nat} {m : Nat} {l : List α} (h : s.Sound K)
    (hn : K.room → n s + l.length ≤ m)
    (hf : ∀ (u : State) (x : α), u.Sound K → (K.room → n u < m) → (f u x).Sound K ∧ n (f u x) ≤ n u + 1) : (l.foldl f s).Sound K := by
  induction l generalizing s with
  | nil => exact h
  | cons x l ih =>
    have hlen : (x :: l).length = l.length + 1 := rfl
    obtain ⟨hs, hle⟩ := hf s x h fun hk => by have := hn hk; omega
    exact ih hs fun hk => by have := hn hk; omega

theorem writeEntry_events (s : State) (e : Cpl) : (s.writeEntry e).host.events = s.host.events := by
  unfold State.writeEntry
  dsimp only
  rw [signal_events]
  split
  · exact settleSq_events _ _
  · rfl

/-- The events that were queued are written or queued again, so that no more are queued than before. -/
theorem drainEvents_sound (h : s.Sound K) : s.drainEvents.Sound K := by
  unfold State.drainEvents
  refine sound_ite h (sound_foldl_counted (n := fun u => u.host.events.length) (m := 256)
    (sound_of_foot (s := { s with host := { s.host with events := [] } }) { h with events := fun _ => Nat.zero_le _ } rfl) ?_ ?_)
  · intro hk
    exact (Nat.zero_add _).trans_le (h.events hk)
  · intro u ev hu hroom
    have hlen : (u.host.events ++ [ev]).length = u.host.events.length + 1 := List.length_append
    dsimp only
    split
    · refine ⟨writeEntry_sound hu, ?_⟩
      rw [writeEntry_events]
      exact Nat.le_succ _
    · exact ⟨{ hu with events := fun hk => hlen.trans_le (hroom hk) }, hlen.le⟩

theorem setMode_sound {m : Mode} (h : s.Sound K) : (s.setMode m).Sound K := by
  unfold State.setMode
  extract_lets old r s1 s2
  have hs1 : s1.Sound K := sound_of_foot h rfl
  have hs2 : s2.Sound K := ledger_sound hs1
  exact sound_ite h (event_sound hs2)

/-! ### LinkOps -/

theorem crierBit_sound {p : Nat} (h : s.Sound K) : (s.crierBit p).2.Sound K := by
  unfold State.crierBit
  extract_lets c start msg r s1
  have hs1 : s1.Sound K := sound_ite (sound_of_foot h rfl) h
  exact sound_ite_snd h (updPort_sound hs1)

theorem stampProbe_sound {f : Frame} (h : s.Sound K) : (s.stampProbe f).Sound K := by
  unfold State.stampProbe
  exact sound_ite h (sound_of_foot h rfl)

theorem stampTime_sound {p : Nat} {f : Frame} (h : s.Sound K) : (s.stampTime p f).2.Sound K := by
  unfold State.stampTime
  exact sound_ite_snd h (sound_ite_snd (updPort_sound h) h)

theorem sendNow_sound {p : Nat} {x : QFrame} (h : s.Sound K) : (s.sendNow p x).Sound K := by
  unfold State.sendNow
  split
  · rename_i _ _ _ he0_3
    extract_lets isS h1
    split
    · rename_i _ _ _ he2_3
      extract_lets s1 s2
      have hs1 : s1.Sound K := updPort_sound (sound_of_pair he2_3 (crierBit_sound (stampProbe_sound (sound_of_pair he0_3
        (stampTime_sound h)))))
      have hs2 : s2.Sound K := by
        unfold s2
        split
        · exact sound_ite hs1 (updPort_sound hs1)
        · exact hs1
      exact sound_of_foot hs2 rfl

theorem pumpOne_sound {p : Nat} (h : s.Sound K) : (s.pumpOne p).Sound K := by
  unfold State.pumpOne
  extract_lets q t ready fits size go
  have hgo (l : List QFrame) (f : TxQueues → TxQueues) : (go l f).Sound K := by
    cases l
    · exact h
    · exact sendNow_sound (updPort_sound h)
  clear_value go ready fits size
  exact sound_ite (hgo _ _) (sound_ite (hgo _ _) (sound_ite (hgo _ _) (sound_ite (hgo _ _) (updPort_sound h))))

theorem pump_sound {p : Nat} (h : s.Sound K) : (s.pump p).Sound K := by
  unfold State.pump
  extract_lets t
  exact sound_iter h (fun _ hu => pumpOne_sound hu)

theorem giveCredit_sound {p : Nat} (h : s.Sound K) : (s.giveCredit p).Sound K := by
  unfold State.giveCredit
  extract_lets q r kept o
  exact sound_ite h (sendNow_sound (updPort_sound h))

theorem freeExposure_sound (h : s.Sound K) : s.freeExposure.Sound K := by
  unfold State.freeExposure
  extract_lets e queued
  exact sound_ite (sound_of_foot h rfl) h

theorem flush_sound (h : s.Sound K) : s.flush.Sound K := by
  unfold State.flush
  exact freeExposure_sound (sound_foldl (sound_foldl h (fun _ _ hu => pump_sound hu)) (fun _ _ hu => giveCredit_sound hu))

theorem enqueue_sound {p : Nat} {x : QFrame} (h : s.Sound K) : (s.enqueue p x).Sound K := by
  unfold State.enqueue
  exact updPort_sound h

theorem consume_sound {a : Arrival} {f : Frame} (h : s.Sound K) : (s.consume a f).Sound K := by
  unfold State.consume
  split
  · exact h
  · exact sound_ite h (updPort_sound h)

theorem answers_runL {f : State → State} (h : s.Sound K) (hf : ∀ u : State, u.Sound K → (f u).Sound K) : Answers K (runL f s) :=
  answers_run h fun u hu => flush_sound (hf u hu)

theorem answers_runConvL {f : State → State} (h : s.Sound K) (hf : ∀ u : State, u.Sound K → (f u).Sound K) : Answers K (runConvL f s) :=
  answers_runConv h fun u hu => flush_sound (hf u hu)

theorem answers_runCoreL {f : State → State} (h : s.Sound K) (hf : ∀ u : State, u.Sound K → (f u).Sound K) : Answers K (runCoreL f s) :=
  answers_runCore h fun u hu => flush_sound (hf u hu)

theorem sendShort_sound {p : Nat} {nakN nakS : Bool} (h : s.Sound K) : (s.sendShort p nakN nakS).Sound K := by
  unfold State.sendShort
  extract_lets q
  refine sound_ite h ?_
  split
  · rename_i _ _ _ he2_3
    exact emit_sound (updPort_sound (sound_of_pair he2_3 (crierBit_sound h)))

theorem takeCrier_sound {p : Nat} {b : Bool} (h : s.Sound K) : (s.takeCrier p b).Sound K := by
  unfold State.takeCrier
  exact updPort_sound h

theorem hop_sound {a : Arrival} {f : Frame} (h : s.Sound K) : (s.hop a f).2.Sound K := by
  unfold State.hop
  extract_lets isS
  split
  · exact h
  · extract_lets q s1 s2 sp s3 s4
    have hs1 : s1.Sound K := sound_ite (takeCrier_sound h) h
    have hs2 : s2.Sound K := takeCrier_sound h
    have hs3 : s3.Sound K := updPort_sound hs2
    have hs4 : s4.Sound K := updPort_sound hs2
    exact sound_ite_snd h (sound_ite_snd (sound_ite_snd (updPort_sound hs1) hs1) (sound_ite_snd (sendShort_sound hs3) (sound_ite_snd hs2
      (sendShort_sound hs4))))

theorem countCondemned_sound {a : Arrival} (h : s.Sound K) : (s.countCondemned a).Sound K := by
  unfold State.countCondemned
  split
  · exact h
  · exact updPort_sound h

theorem countRej_sound {a : Arrival} {counter : Bool} (h : s.Sound K) : (s.countRej a counter).Sound K := by
  unfold State.countRej
  split
  · exact h
  · exact updPort_sound h

/-- The table of command counters keeps 64 entries (07 R200). -/
theorem setRef_sound {f : Frame} {c : Nat} (h : s.Sound K) : (s.setRef f c).Sound K :=
  { h with refs := fun _ => by simp [State.foot, State.setRef] }

theorem checkFrame_sound {a : Arrival} {f : Frame} (h : s.Sound K) : (s.checkFrame a f).2.Sound K := by
  unfold State.checkFrame
  exact sound_ite_snd h (countRej_sound (raise_sound h))

theorem checkCommand_sound {a : Arrival} {f : Frame} (h : s.Sound K) : (s.checkCommand a f).2.Sound K := by
  unfold State.checkCommand
  extract_lets c sync
  exact sound_ite_snd (countRej_sound (raise_sound h)) (sound_ite_snd (setRef_sound h) (countRej_sound (raise_sound h)))

theorem trackCut_sound (h : s.Sound K) : s.trackCut.Sound K := by
  unfold State.trackCut
  exact sound_ite (sound_of_foot h rfl) (sound_ite h (sound_of_foot h rfl))

theorem sendTo_sound {f : Frame} (h : s.Sound K) : (s.sendTo f).Sound K := by
  unfold State.sendTo
  split
  · exact enqueue_sound h
  · exact h

theorem forward_sound {a : Arrival} {f : Frame} (h : s.Sound K) : (s.forward a f).Sound K := by
  unfold State.forward
  refine sound_ite h ?_
  split
  · exact enqueue_sound h
  · exact enqueue_sound h
  · exact h

theorem replicate_sound {f : Frame} {hops : Option Nat} {ports : List Nat} (h : s.Sound K) :
    (s.replicate f hops ports).Sound K := by
  unfold State.replicate
  refine sound_foldl h (fun u x0 hu => ?_)
  extract_lets s1
  have hs1 : s1.Sound K := by
    unfold s1
    split
    · exact enqueue_sound hu
    · exact hu
  exact enqueue_sound hs1

theorem spread_sound {a : Arrival} {f : Frame} (h : s.Sound K) : (s.spread a f).2.Sound K := by
  unfold State.spread
  refine sound_ite_snd h (sound_ite_snd (replicate_sound h) (sound_ite_snd (replicate_sound h) ?_))
  split
  · dsimp only
    have hs1 (m : MarkSt) : { s with tree := { s.tree with marks := s.tree.marks.erase m } }.Sound K := sound_of_foot h rfl
    split
    · exact countCondemned_sound h
    · exact sound_ite_snd (hs1 _) (replicate_sound (hs1 _))
  · exact h

theorem sendTrain_sound {p : Nat} {agreed rxValid : Bool} (h : s.Sound K) : (s.sendTrain p agreed rxValid).Sound K := by
  unfold State.sendTrain
  refine sound_ite h ?_
  split
  · rename_i _ _ _ he1_3
    exact emit_sound (updPort_sound (sound_of_pair he1_3 (crierBit_sound h)))

theorem retrain_sound {p : Nat} (h : s.Sound K) : (s.retrain p).Sound K := by
  unfold State.retrain
  exact sendTrain_sound (trackCut_sound (updPort_sound h))

theorem sendAgain_sound {p : Nat} {isS : Bool} {f : Unacked → Unacked} (h : s.Sound K) : (s.sendAgain p isS f).Sound K := by
  unfold State.sendAgain
  extract_lets r
  have hr : r.2.Sound K := by
    unfold r
    refine sound_foldl_snd h (fun u x0 hu => ?_)
    split
    · rename_i _ _ _ he2_3
      split
      · rename_i _ _ _ he3_3
        exact emit_sound (sound_of_pair he3_3 (crierBit_sound (sound_of_pair he2_3 (stampTime_sound hu))))
  exact updPort_sound hr

theorem retransmit_sound {p : Nat} {isS : Bool} (h : s.Sound K) : (s.retransmit p isS).Sound K := by
  unfold State.retransmit
  extract_lets un limit s1 s2
  have hs1 : s1.Sound K := sendAgain_sound h
  have hs2 : s2.Sound K := updPort_sound hs1
  exact sound_ite h (sound_ite (retrain_sound (raise_sound hs2)) hs2)

theorem faultFrame_sound {kind id item action time : Nat} (h : s.Sound K) : (s.faultFrame kind id item action time).Sound K := by
  unfold State.faultFrame
  exact sound_ite (event_sound h) (sendTo_sound h)

/-! ### HostOps -/

theorem fillRun_sound {size mps : Nat} {bufs : List Nat} {n off : Nat} {bs : List Byte} (h : s.Sound K) :
    (State.fillRun size mps bufs n off bs s).Sound K :=
  sound_of_only h (fillRun_only size mps n off bufs bs s)

theorem writeOut_sound {w : ResultWait} (h : s.Sound K) : (s.writeOut w).2.Sound K := by
  unfold State.writeOut
  extract_lets new
  split
  · exact h
  · exact fillRun_sound h

theorem nbufOf_sound {k : Nat} (h : s.Sound K) : (s.nbufOf k).2.Sound K := by
  unfold State.nbufOf
  exact sound_ite_snd h (sound_of_foot h rfl)

theorem tryRun_sound {mem : Option (List (Nat × Byte))} {w : ResultWait} (h : s.Sound K) {p : ResultWait × State}
    (hp : s.tryRun mem w = some p) : p.2.Sound K := by
  unfold State.tryRun at hp
  split at hp
  · cases hp
    exact h
  · dsimp only at hp
    split at hp
    · cases hp
    · split at hp
      · cases hp
        exact updPool_sound h
      · cases hp

theorem finishResult_sound {w : ResultWait} (h : s.Sound K) : (s.finishResult w).Sound K := by
  unfold State.finishResult
  extract_lets r
  split
  · exact complete_sound h
  · split
    · rename_i _ _ _ he2_3
      exact complete_sound (sound_of_pair he2_3 (nbufOf_sound h))

theorem settleOne_sound {mem : Option (List (Nat × Byte))} {acc : State × List ResultWait} {w : ResultWait} (h : acc.1.Sound K) :
    (State.settleOne mem acc w).1.Sound K := by
  obtain ⟨s, kept⟩ := acc
  unfold State.settleOne
  dsimp only
  split
  · rename_i v u hrun
    have hu : u.Sound K := by
      split at hrun
      · cases hrun
      · exact tryRun_sound (p := (v, u)) h hrun
    exact sound_ite_fst (writeOut_sound hu) (finishResult_sound (writeOut_sound hu))
  · have hs1 (c : Prop) [Decidable c] (k v : Nat) : (if c then s.event k v else s).Sound K := sound_ite (event_sound h) h
    exact sound_ite (updPool_sound (hs1 ..)) (hs1 ..)

theorem closePools_sound (h : s.Sound K) : s.closePools.Sound K := by
  unfold State.closePools
  exact sound_mk h (by simp [State.foot])

theorem tellHeld_sound (h : s.Sound K) : s.tellHeld.Sound K := by
  unfold State.tellHeld
  extract_lets lacks told r s1 s2
  have hs1 : s1.Sound K := sound_of_foot h rfl
  have hs2 : s2.Sound K := sound_foldl hs1 (fun _ _ hu => sound_ite (event_sound hu) hu)
  exact sound_ite (updPool_sound hs2) hs2

theorem settleWaits_sound {mem : Option (List (Nat × Byte))} (h : s.Sound K) : (s.settleWaits mem).Sound K := by
  unfold State.settleWaits
  extract_lets ws r s1
  have hs1 : s1.Sound K := sound_of_foot h (by simp [State.foot, s1, r])
  split
  rename_i s2 kept he
  have hs2 : s2.Sound K := by
    have hf := sound_foldl_fst (l := ws) (b := (s1, [])) hs1 fun u w hu => settleOne_sound (mem := mem) (acc := u) (w := w) hu
    rwa [he] at hf
  exact closePools_sound (tellHeld_sound (sound_of_foot hs2 rfl))

theorem heldEvent_sound {mem : List (Nat × Byte)} {b : Nat × List Byte} (h : s.Sound K) (ht : s.heldEvent mem b = some t) : t.Sound K := by
  unfold State.heldEvent at ht
  dsimp only at ht
  split at ht
  · cases ht
    exact complete_sound (sound_mk (updPool_sound (fillRun_sound (sound_of_foot h rfl))) rfl)
  · cases ht

theorem drainHeld_sound {mem : List (Nat × Byte)} (h : s.Sound K) : (s.drainHeld mem).Sound K := by
  unfold State.drainHeld
  refine sound_foldl_fst (b := (s.settleWaits (some mem), true)) (settleWaits_sound h) fun u x hu => ?_
  split
  · rename_i v hv
    split at hv
    · exact settleWaits_sound (heldEvent_sound hu hv)
    · cases hv
  · exact hu

theorem updTx_sound {id : Nat} {f : Tx → Tx} (h : s.Sound K) : (s.updTx id f).Sound K := sound_of_foot h rfl

theorem postMore_sound {id : Nat} {bytes : List Byte} {status value answered : Nat} (h : s.Sound K) :
    (s.postMore id bytes status value answered).Sound K := by
  unfold State.postMore
  split
  · exact h
  · exact sound_ite (sound_of_foot h rfl) (sound_of_foot h rfl)

theorem blockIn_sound {tag pos mark : Nat} {bs : List Byte} (h : s.Sound K) : (s.blockIn tag pos mark bs).Sound K := by
  unfold State.blockIn
  split
  · exact sound_ite h (updTx_sound (postMore_sound h))
  · exact h

theorem openStream_sound {t : Tx} {tag src total mark : Nat} (h : s.Sound K) : (s.openStream t tag src total mark).Sound K := by
  unfold State.openStream
  extract_lets new r s1 r1
  have hs1 : s1.Sound K := sound_of_foot h rfl
  exact sound_ite (sound_of_foot hs1 rfl) (sound_of_foot hs1 rfl)

theorem feedStream_sound {r : Stream} {bs : List Byte} (h : s.Sound K) : (s.feedStream r bs).Sound K := by
  unfold State.feedStream
  extract_lets got rest r1 s1
  have hs1 : s1.Sound K := sound_of_foot h rfl
  exact sound_ite (sound_of_foot hs1 rfl) hs1

theorem streamIn_sound {mem : List (Nat × Byte)} {tag src total mark : Nat} {bs : List Byte} (h : s.Sound K) :
    (s.streamIn mem tag src total mark bs).Sound K := by
  unfold State.streamIn
  extract_lets is
  split
  · exact h
  · extract_lets s1
    have hs1 : s1.Sound K := sound_ite h (openStream_sound h)
    refine sound_ite h ?_
    split
    · exact settleWaits_sound (feedStream_sound hs1)
    · exact hs1

theorem postFinal_sound {id : Nat} {bytes : List Byte} {status value answered detail : Nat} {isMap : Bool} (h : s.Sound K) :
    (s.postFinal id bytes status value answered detail isMap).Sound K := by
  unfold State.postFinal
  extract_lets s1
  have hs1 : s1.Sound K := sound_of_foot h rfl
  split
  · exact h
  · extract_lets big st bs
    exact sound_of_foot hs1 rfl

theorem completeEarly_sound {h : Hdr} {status : Nat} (hs : s.Sound K) : (s.completeEarly h status).Sound K := by
  unfold State.completeEarly
  exact complete_sound (sound_of_foot hs rfl)

/-! ### MeasureOps -/

theorem switches_sound (h : s.Sound K) : s.switches.Sound K := by
  unfold State.switches
  exact mapCells_sound h

theorem openAll_sound (h : s.Sound K) : s.openAll.Sound K := by
  unfold State.openAll
  exact mapCells_sound h

theorem noteExcite_sound (h : s.Sound K) : s.noteExcite.Sound K := by
  unfold State.noteExcite
  extract_lets on r
  exact sound_ite h (sound_of_foot h rfl)

theorem writeSnapshot_sound (h : s.Sound K) : s.writeSnapshot.Sound K := sound_of_foot h rfl

theorem sealSnapshot_sound (h : s.Sound K) : s.sealSnapshot.Sound K := by
  unfold State.sealSnapshot
  exact sound_ite h (sound_of_foot h rfl)

theorem abandonStep_sound (h : s.Sound K) : s.abandonStep.Sound K := by
  unfold State.abandonStep
  exact sound_ite h (switches_sound (sound_of_foot h rfl))

theorem sendBytesTo_sound {dest cls tag : Nat} {bs : List Byte} (h : s.Sound K) : (s.sendBytesTo dest cls tag bs).Sound K := by
  unfold State.sendBytesTo
  exact sound_foldl h (fun _ _ hu => sendTo_sound hu)

theorem sendBytes_sound {cls tag : Nat} {bs : List Byte} (h : s.Sound K) : (s.sendBytes cls tag bs).Sound K := by
  unfold State.sendBytes
  exact sendBytesTo_sound h

theorem unsolTag_sound (h : s.Sound K) : (s.unsolTag).2.Sound K := by
  unfold State.unsolTag
  exact sound_of_foot h rfl

theorem deliverBlock_sound {bs : List Byte} (h : s.Sound K) : (s.deliverBlock bs).Sound K := by
  unfold State.deliverBlock
  extract_lets r s1
  have hs1 : s1.Sound K := sound_of_foot h rfl
  split
  · refine sound_ite hs1 ?_
    split
    · rename_i _ _ _ he3_3
      exact sendBytes_sound (sound_of_pair he3_3 (unsolTag_sound hs1))
  · exact sound_ite (blockIn_sound hs1) (sendBytes_sound hs1)

theorem closeBlock_sound {outcome : Nat} {deliver : Bool} (h : s.Sound K) : (s.closeBlock outcome deliver).Sound K := by
  unfold State.closeBlock
  extract_lets r s1
  have hs1 : s1.Sound K := sound_of_foot h rfl
  exact sound_ite (sound_ite (deliverBlock_sound hs1) hs1) (sound_of_foot h rfl)

theorem endSurvey_sound {outcome : Nat} {deliver : Bool} {fn : FnState} (h : s.Sound K) :
    (s.endSurvey outcome deliver fn).Sound K := by
  unfold State.endSurvey
  extract_lets r r1 s1
  have hs1 : s1.Sound K := noteExcite_sound (sound_of_foot h rfl)
  exact switches_sound (closeBlock_sound (sound_of_foot hs1 rfl))

theorem abortSurvey_sound {deliver : Bool} (h : s.Sound K) : (s.abortSurvey deliver).Sound K := by
  unfold State.abortSurvey
  extract_lets held r
  exact sound_ite h (sound_ite (sound_ite h (switches_sound (sound_of_foot h rfl))) (endSurvey_sound h))

theorem abortBalance_sound (h : s.Sound K) : s.abortBalance.Sound K := by
  unfold State.abortBalance
  extract_lets last r
  exact sound_ite h (switches_sound (sound_of_foot h rfl))

theorem schedule_sound (h : s.Sound K) : s.schedule.Sound K := by
  unfold State.schedule
  extract_lets p k0 k1 s1 r
  have hs1 : s1.Sound K := sound_foldl h (fun _ _ hu => sound_of_foot hu rfl)
  exact sound_ite h (sound_of_foot hs1 rfl)

theorem dropPassed_sound (h : s.Sound K) : s.dropPassed.Sound K := by
  unfold State.dropPassed
  exact sound_ite (schedule_sound h) (switches_sound (schedule_sound (sound_of_foot h rfl)))

theorem stopSweep_sound (h : s.Sound K) : s.stopSweep.Sound K := by
  unfold State.stopSweep
  extract_lets s1 keep s2 r s3 r1 s4
  have hs1 : s1.Sound K := schedule_sound h
  have hs2 : s2.Sound K := sound_of_foot hs1 rfl
  have hs3 : s3.Sound K := sound_of_foot hs2 rfl
  have hs4 : s4.Sound K := sound_of_foot hs3 rfl
  exact sound_ite h (switches_sound (sound_ite (sound_of_foot hs4 rfl) hs4))

theorem discardExposure_sound (h : s.Sound K) : s.discardExposure.Sound K := sound_of_foot h rfl

/-! ### GleanOps -/

/-- An update of a gleaner whose deque does not grow. -/
theorem updGleaner_sound {g : Nat} {f : GleanerSt → GleanerSt} (h : s.Sound K) (hf : ∀ q, (f q).deque.length ≤ 32 ∨
    (f q).deque.length ≤ q.deque.length) :
    (s.updGleaner g f).Sound K := by
  refine { h with gleaners := fun hk => (updAt_length _ _ _).trans (h.gleaners hk), deques := fun hk => ?_ }
  have hd := h.deques hk
  simp only [State.foot, State.updGleaner, List.mem_map, forall_exists_index, and_imp, forall_apply_eq_imp_iff₂] at hd ⊢
  refine forall_mem_updAt hd fun q hq => ?_
  have := hd q hq
  have := hf q
  omega

/-- A job is placed on a deque below 32 (06 R157). -/
theorem placeOn_sound {w : JobWait} {slot adm : Nat} (h : s.Sound K) (ht : s.placeOn w slot adm = some t) : t.Sound K := by
  unfold State.placeOn at ht
  split at ht
  · rename_i g _
    split at ht
    · rename_i hroom
      cases ht
      refine { h with gleaners := fun hk => (updAt_length _ _ _).trans (h.gleaners hk), deques := fun hk => ?_ }
      have hd := h.deques hk
      simp only [State.foot, State.updGleaner, List.mem_map, forall_exists_index, and_imp, forall_apply_eq_imp_iff₂] at hd ⊢
      refine forall_mem_updAt_at (d := { running := none, deque := [], scratch := [] }) hd ?_
      rw [List.length_append]
      exact Nat.succ_le_of_lt hroom
    · cases ht
  · cases ht

theorem payCredits_sound {owes : Option (Nat × Nat × Nat × Nat)} (h : s.Sound K) : (s.payCredits owes).Sound K := by
  unfold State.payCredits
  split
  · exact sound_ite h (updPort_sound h)
  · exact h

theorem holdFrame_sound {tag : Nat} {owes : Option (Nat × Nat × Nat × Nat)} (h : s.Sound K) :
    (s.holdFrame tag owes).Sound K := sound_of_foot h rfl

theorem startStep_sound {tag : Nat} (h : s.Sound K) : (s.startStep tag).Sound K := by
  unfold State.startStep
  extract_lets s1
  have hs1 : s1.Sound K := sound_of_foot h rfl
  split
  · exact h
  · split
    · extract_lets w
      refine sound_ite h ?_
      split
      · rename_i _ _ he5_2
        exact placeOn_sound hs1 he5_2
      · exact sound_of_foot hs1 rfl
    · exact h

theorem slotHarvest_sound {tag n : Nat} (h : s.Sound K) : (s.slotHarvest tag n).Sound K := by
  unfold State.slotHarvest
  exact startStep_sound (sound_of_foot h rfl)

theorem place_sound {w : JobWait} (h : s.Sound K) (ht : s.place w = some t) : t.Sound K := by
  unfold State.place at ht
  split at ht
  · exact placeOn_sound h ht
  · split at ht
    · cases ht
    · split at ht
      · cases ht
        exact slotHarvest_sound (sound_of_foot h rfl)
      · obtain ⟨u, hu, rfl⟩ := Option.map_eq_some_iff.mp ht
        exact sound_mk (placeOn_sound h hu) rfl

theorem admitAll_sound (h : s.Sound K) : s.admitAll.Sound K := by
  unfold State.admitAll
  extract_lets ws r s1 s2
  have hs1 : s1.Sound K := sound_of_foot h rfl
  have hs2 : s2.Sound K := by
    unfold s2
    refine sound_foldl hs1 (fun u x0 hu => ?_)
    split
    · rename_i _ _ he2_2
      exact place_sound hu he2_2
    · exact sound_of_foot hu rfl
  exact sound_ite h (sound_foldl (sound_of_foot hs2 rfl) (fun _ _ hu => payCredits_sound hu))

theorem admitOne_sound (h : s.Sound K) : s.admitOne.Sound K := by
  unfold State.admitOne
  refine sound_ite h ?_
  rcases hfind : List.findSome? _ s.glean.waiting with _ | t
  · exact h
  · obtain ⟨w, _, hw⟩ := List.exists_of_findSome?_eq_some hfind
    obtain ⟨u, hu, rfl⟩ := Option.map_eq_some_iff.mp hw
    exact payCredits_sound (place_sound (s := { s with glean := { s.glean with waiting := s.glean.waiting.erase w } })
      (sound_of_foot h rfl) hu)

theorem placeAll_sound (h : s.Sound K) : s.placeAll.Sound K := by
  unfold State.placeAll
  exact sound_foldl (admitAll_sound h) (fun _ _ hu => startStep_sound hu)

theorem raiseJob_sound {kind : JobKind} {key tag : Nat} {owes : Option (Nat × Nat × Nat × Nat)} (h : s.Sound K) :
    (s.raiseJob kind key tag owes).Sound K := by
  unfold State.raiseJob
  exact admitAll_sound (sound_of_foot h rfl)

/-! ### SafetyOps -/

theorem updOut_sound {x : Nat} {f : OutputSt → OutputSt} (h : s.Sound K) : (s.updOut x f).Sound K := by
  unfold State.updOut
  exact sound_ite (sound_of_foot h rfl) (sound_of_foot h rfl)

theorem updInp_sound {x : Nat} {f : InputSt → InputSt} (h : s.Sound K) : (s.updInp x f).Sound K := by
  unfold State.updInp
  exact sound_ite (sound_of_foot h rfl) (sound_of_foot h rfl)

theorem parish_sound {kind count address old new session origin : Nat} {tag : Option Nat} (h : s.Sound K) :
    (s.parish kind count address old new session origin tag).Sound K := sound_of_foot h rfl

theorem arm_sound {x : Nat} (h : s.Sound K) : (s.arm x).Sound K := by
  unfold State.arm
  exact updOut_sound h

theorem tripNow_sound {x cause pos item : Nat} (h : s.Sound K) : (s.tripNow x cause pos item).Sound K := by
  unfold State.tripNow
  exact ledger_sound (updOut_sound h)

theorem trip_sound {x cause pos item : Nat} (h : s.Sound K) : (s.trip x cause pos item).Sound K := by
  unfold State.trip
  exact sound_ite (tripNow_sound h) h

theorem tripAll_sound {x cause : Nat} (h : s.Sound K) : (s.tripAll x cause).Sound K := by
  unfold State.tripAll
  exact sound_ite (tripNow_sound h) (updOut_sound h)

theorem tripSafe_sound (h : s.Sound K) : s.tripSafe.Sound K := by
  unfold State.tripSafe
  exact tripAll_sound (tripAll_sound h)

theorem outputsOff_sound (h : s.Sound K) : s.outputsOff.Sound K := sound_of_foot h rfl

theorem dropSession_sound (h : s.Sound K) : s.dropSession.Sound K := by
  unfold State.dropSession
  split
  · exact h
  · exact sound_of_foot h rfl

theorem writeDropped_sound (h : s.Sound K) : s.writeDropped.Sound K := by
  unfold State.writeDropped
  split
  · exact h
  · exact sound_of_foot h rfl

/-! ### Programs -/

theorem fitItems_sound {l : List Item} (h : s.Sound K) : (s.fitItems l).2.Sound K := by
  unfold State.fitItems
  extract_lets out
  induction l with
  | nil => exact h
  | cons i l ih => exact sound_ite_snd (sound_mk ih rfl) ih

theorem runSteps_sound {prev : List Item} {ts : List PStep} {l : List Item} (h : s.Sound K) :
    (s.runSteps prev ts l).2.2.Sound K := by
  unfold State.runSteps
  extract_lets l1
  split
  · rename_i _ _ _ he1_3
    split
    · exact sound_ite_snd_snd (sound_of_pair he1_3 (fitItems_sound h)) (sound_of_pair he1_3 (fitItems_sound h))
    · exact sound_of_pair he1_3 (fitItems_sound h)

theorem gather_sound {p : Prog} {c : Contribution} (h : s.Sound K) : (s.gather p c).2.Sound K := by
  unfold State.gather
  extract_lets r
  split
  · exact sound_of_foot h rfl
  · split
    · rename_i _ _ _ _ he2_4
      exact sound_of_triple he2_4 (runSteps_sound h)

/-! ### HarvestOps -/

theorem raiseForward_sound {tag dest : Nat} {c : Carried} (h : s.Sound K) : (s.raiseForward tag dest c).Sound K := by
  unfold State.raiseForward
  exact raiseJob_sound (sound_of_foot h rfl)

theorem sendResult_sound {dest tag : Nat} {bs : List Byte} (h : s.Sound K) : (s.sendResult dest tag bs).Sound K := by
  unfold State.sendResult
  extract_lets fs
  exact sound_ite (sound_foldl h (fun _ _ hu => sendTo_sound hu)) (raiseForward_sound h)

theorem sendUp_sound {tag dest : Nat} {req : Req} {pos depth : Nat} {c : Contribution} {collected : Bool} (h : s.Sound K) :
    (s.sendUp tag dest req pos depth c collected).Sound K := by
  unfold State.sendUp
  extract_lets field collector isQuery dest1 r s1 s2 body
  have hs1 : s1.Sound K := sound_of_foot h rfl
  have hs2 : s2.Sound K := sendBytes_sound hs1
  exact sound_ite (sendResult_sound h) (sound_foldl hs2 (fun _ _ hu => sendTo_sound hu))

theorem countOverflow_sound (h : s.Sound K) : s.countOverflow.Sound K := sound_of_foot h rfl

theorem finishTx_sound {x : Tx} {c : Contribution} (h : s.Sound K) : (s.finishTx x c).Sound K := by
  unfold State.finishTx
  extract_lets scope one mp s1 st ansN span mapB s2 endWith stq big sq finish s3
  have hs2 : s2.Sound K := sound_of_foot h rfl
  have hend (u : State) (a v : Nat) (bs : List Byte) (hu : u.Sound K) : (endWith u a v bs).Sound K := by
    unfold endWith
    refine sound_ite (postFinal_sound (sound_ite hu (postMore_sound hu))) (sound_ite ?_ (postFinal_sound hu))
    exact postFinal_sound (postMore_sound hu)
  clear_value endWith s2
  have hsq : sq.Sound K := sound_when hs2 fun _ hv => countOverflow_sound hv
  clear_value sq big
  have hfinish (v : Nat) (bs : List Byte) : (finish v bs).Sound K := hend _ _ _ _ (sound_when hsq fun _ hv => countOverflow_sound hv)
  clear_value finish
  refine settleWaits_sound ?_
  unfold s3
  split
  · exact sound_ite (hend _ _ _ _ hs2) (hend _ _ _ _ hs2)
  · refine sound_ite (hend _ _ _ _ hsq) (sound_ite ?_ (hend _ _ _ _ hsq))
    split <;> exact hfinish _ _
  · exact hend _ _ _ _ hs2
  · exact hend _ _ _ _ hs2
  · exact hend _ _ _ _ hs2
  · exact sound_ite (hend _ _ _ _ hs2) (hend _ _ _ _ hs2)
  · exact hend _ _ _ _ hs2

theorem finishBlocks_sound {t : Tx} {status : Nat} (h : s.Sound K) : (s.finishBlocks t status).Sound K := by
  unfold State.finishBlocks
  extract_lets mp ps lo bytes
  exact settleWaits_sound (postFinal_sound (sound_of_foot h rfl))

theorem surveyAnswer_sound {t : Tx} {t0 : Nat} {c : Contribution} (h : s.Sound K) : (s.surveyAnswer t t0 c).Sound K := by
  unfold State.surveyAnswer
  exact sound_ite (finishTx_sound h) (sound_ite h (sound_of_foot h rfl))

theorem exposeAnswer_sound {t : Tx} {c : Contribution} (h : s.Sound K) : (s.exposeAnswer t c).Sound K := by
  unfold State.exposeAnswer
  exact sound_ite (sound_of_foot h rfl) (sound_ite (finishTx_sound h) (sound_of_foot h rfl))

theorem endTx_sound {t : Tx} {c : Contribution} (h : s.Sound K) : (s.endTx t c).Sound K := by
  unfold State.endTx
  refine sound_ite h ?_
  split
  · exact surveyAnswer_sound h
  · exact exposeAnswer_sound h
  · exact finishTx_sound h

theorem endHarvest_sound {h : Harvest} {c : Contribution} {collected : Bool} (hs : s.Sound K) :
    (s.endHarvest h c collected).Sound K := by
  unfold State.endHarvest
  extract_lets mine owes r s1 s2 s3 s4
  have hs1 : s1.Sound K := sound_of_foot hs rfl
  have hs2 : s2.Sound K := sound_foldl hs1 (fun _ _ hu => payCredits_sound hu)
  have hs3 : s3.Sound K := by
    unfold s3
    split
    · exact hs2
    · exact sound_of_foot hs2 rfl
  have hs4 : s4.Sound K := by
    unfold s4
    split
    · split
      · exact endTx_sound hs3
      · exact hs3
    · exact sendUp_sound hs2
  exact placeAll_sound hs4

theorem closeHarvest_sound {tag : Nat} (h : s.Sound K) : (s.closeHarvest tag).Sound K := by
  unfold State.closeHarvest
  split
  · exact h
  · extract_lets c
    refine sound_ite h ?_
    split
    · exact sound_ite (endHarvest_sound h) (sound_ite (raiseJob_sound (sound_of_foot h rfl)) (endHarvest_sound h))
    · exact endHarvest_sound h

theorem collectorLeaves_sound {tag : Nat} {failed : Bool} (h : s.Sound K) : (s.collectorLeaves tag failed).Sound K := by
  unfold State.collectorLeaves
  extract_lets r
  split
  · exact h
  · extract_lets c
    refine sound_ite h ?_
    split
    · refine sound_ite (endHarvest_sound (sound_of_foot h rfl)) ?_
      split
      · rename_i _ _ _ he6_3
        exact endHarvest_sound (sound_of_pair he6_3 (gather_sound h))
    · exact h

theorem arrived_sound {h : Harvest} {port : Option Nat} (hs : s.Sound K) : (s.arrived h port).Sound K := by
  unfold State.arrived
  extract_lets s1
  have hs1 : s1.Sound K := sound_of_foot hs rfl
  exact sound_ite (closeHarvest_sound hs) (sound_ite (startStep_sound hs1) hs1)

theorem giveKid_sound {tag : Nat} {port : Option Nat} {c : Contribution} (h : s.Sound K) : (s.giveKid tag port c).Sound K := by
  unfold State.giveKid
  extract_lets c1
  split
  · exact h
  · exact sound_ite (arrived_sound (sound_of_foot h rfl)) h

theorem stepLeaves_sound {tag : Nat} {failed : Bool} (h : s.Sound K) : (s.stepLeaves tag failed).Sound K := by
  unfold State.stepLeaves
  split
  · exact h
  · extract_lets p s1
    have hs1 : s1.Sound K := sound_of_foot h rfl
    exact closeHarvest_sound (startStep_sound hs1)

theorem copyPart_sound {t : Tx} {main : Nat} {c : Contribution} (h : s.Sound K) : (s.copyPart t main c).Sound K := by
  unfold State.copyPart
  extract_lets acc s1 s2
  have hs1 : s1.Sound K := sound_of_foot h rfl
  have hs2 : s2.Sound K := sound_of_foot hs1 rfl
  exact sound_ite (giveKid_sound hs2) hs2

theorem contribute_sound {tag : Nat} {port : Option Nat} {c : Contribution} {src : Nat} {req : Req} {pos depth : Nat} (h : s.Sound K) :
    (s.contribute tag port c src req pos depth).Sound K := by
  unfold State.contribute
  split
  · exact giveKid_sound h
  · split
    · split
      · split
        · exact endTx_sound h
        · exact sound_ite (endTx_sound h) (copyPart_sound h)
        · exact copyPart_sound h
      · exact endTx_sound h
    · exact sound_ite h (sendUp_sound h)

theorem respond_sound {tag : Option Nat} {status value : Nat} (h : s.Sound K) : (s.respond tag status value).Sound K := by
  unfold State.respond
  extract_lets s1
  have hs1 : s1.Sound K := sound_of_foot h rfl
  split
  · exact hs1
  · exact contribute_sound hs1

/-! ### ModeOps -/

theorem abortWire_sound {dormant : Bool} (h : s.Sound K) : (s.abortWire dormant).Sound K := by
  unfold State.abortWire
  extract_lets tag busy fn r s1
  have hs1 : s1.Sound K := sound_of_foot h rfl
  exact sound_ite (respond_sound hs1) hs1

theorem safeEffects_sound (h : s.Sound K) : s.safeEffects.Sound K := by
  unfold State.safeEffects
  exact writeSnapshot_sound (tripSafe_sound (abortBalance_sound (abortSurvey_sound (abandonStep_sound h))))

theorem toSafe_sound (h : s.Sound K) : s.toSafe.Sound K := by
  unfold State.toSafe
  extract_lets r r1
  have hr : r.Sound K := safeEffects_sound h
  exact sound_ite (sound_ite h (sound_mk hr (by simp [State.foot]))) (sound_ite (switches_sound (setMode_sound (safeEffects_sound h))) h)

theorem toDegraded_sound (h : s.Sound K) : s.toDegraded.Sound K := by
  unfold State.toDegraded
  extract_lets allowance start r r1
  have hstart (u : State) (hu : u.Sound K) : (start u).Sound K := by
    unfold start
    extract_lets r2
    split
    · exact hu
    · exact sound_of_foot hu rfl
  have hr : r.Sound K := hstart _ h
  clear_value start
  exact sound_ite (sound_ite h (sound_of_foot hr rfl)) (sound_ite (switches_sound (setMode_sound (hstart _ (abortSurvey_sound h)))) h)

theorem lockoutEffects_sound (h : s.Sound K) : s.lockoutEffects.Sound K := by
  unfold State.lockoutEffects
  extract_lets s1 s2 r s3
  have hs1 : s1.Sound K := outputsOff_sound (dropSession_sound (abortBalance_sound (abortSurvey_sound (abandonStep_sound h))))
  have hs2 : s2.Sound K := sound_ite hs1 (writeSnapshot_sound hs1)
  clear_value s2
  have hs3 : s3.Sound K := sound_of_foot hs2 rfl
  exact openAll_sound (abortWire_sound (discardExposure_sound hs3))

theorem toLockout_sound (h : s.Sound K) : s.toLockout.Sound K := by
  unfold State.toLockout
  extract_lets r r1
  have hr : r.Sound K := lockoutEffects_sound h
  exact sound_ite (sound_ite h (sound_mk hr (by simp [State.foot]))) (sound_ite (setMode_sound (lockoutEffects_sound h)) h)

theorem toHalted_sound (h : s.Sound K) : s.toHalted.Sound K := by
  unfold State.toHalted
  extract_lets r old s1 r1 r2 r3 s2
  have hs1 : s1.Sound K := abortWire_sound (abortSurvey_sound (abandonStep_sound (dropSession_sound h)))
  have hs2 : s2.Sound K := sound_of_foot hs1 rfl
  exact sound_ite (sound_of_foot h rfl) (sound_ite (switches_sound (setMode_sound hs2)) h)

theorem rearmWdog_sound (h : s.Sound K) : s.rearmWdog.Sound K := sound_of_foot h rfl

theorem resumeHalt_sound (h : s.Sound K) : s.resumeHalt.Sound K := by
  unfold State.resumeHalt
  extract_lets p r r1 r2 s1
  have hs1 : s1.Sound K := sound_of_foot h rfl
  exact sound_ite h (switches_sound (rearmWdog_sound (setMode_sound hs1)))

theorem takeHalt_sound (h : s.Sound K) : s.takeHalt.Sound K := by
  unfold State.takeHalt
  exact sound_ite (toHalted_sound h) h

theorem leaveCommit_sound (h : s.Sound K) : s.leaveCommit.Sound K := by
  unfold State.leaveCommit
  exact takeHalt_sound (sound_ite (setMode_sound h) h)

theorem switchFails_sound {sw : Nat} (h : s.Sound K) : (s.switchFails sw).Sound K := by
  unfold State.switchFails
  extract_lets first partner r s1 x s2 s3 s4
  have hs1 : s1.Sound K := raise_sound (sound_of_foot h rfl)
  have hs2 : s2.Sound K := updOut_sound hs1
  have hs3 : s3.Sound K := sound_ite (toDegraded_sound hs2) hs2
  have hs4 : s4.Sound K := sound_ite (tripAll_sound hs3) hs3
  exact sound_ite h (sound_ite hs4 (toSafe_sound hs4))

theorem hostReset_files : HostSt.reset.sq.length = 256 ∧ HostSt.reset.cq.length = 256 ∧ HostSt.reset.pool.length = 64 := by
  decide +kernel

theorem reset_files : State.reset.cells.length = 48 ∧ State.reset.checks.length = 4 ∧ State.reset.dbg.brk.length = 8
    ∧ State.reset.glean.gleaners.length = 16 ∧ ∀ n ∈ State.reset.foot.deques, n ≤ 32 := by
  decide +kernel

/-- A reset keeps the arrays of the flash, shortens the ledger's queue and tables, and gives every file its size. -/
theorem resetTo_sound {cause : Nat} {tgt : Mode} (h : s.Sound K) : (s.resetTo cause tgt).Sound K := by
  unfold State.resetTo
  extract_lets kept z cut q newest flash ck keptC sf _ _ _ safety pw _ power tr _ tree _ ports _ _ _ _ _ _ _ n
  obtain ⟨hcells, hchecks, hbrk, hgleaners, hdeques⟩ := reset_files
  obtain ⟨hsq, hcq, hpool⟩ := hostReset_files
  refine setMode_sound ?_
  have hqueue : flash.queue = if kept then q.queue else [] := rfl
  have hlog : flash.log = trimLog 2 (q.log ++ cut.toList) := rfl
  have htree : tree.routes = [] ∧ tree.heldArea = [] := by
    unfold tree
    split <;> exact ⟨rfl, rfl⟩
  exact
    { pending := h.pending
      bank0 := h.bank0, bank1 := h.bank1, dataArea := h.dataArea
      granary := fun _ => rfl
      ports := fun hk => (List.length_map _).trans (h.ports hk)
      cells := fun _ => hcells, checks := fun _ => hchecks, sq := fun _ => hsq, cq := fun _ => hcq, pool := fun _ => hpool
      brk := fun _ => hbrk, gleaners := fun _ => hgleaners
      refs := fun _ => Nat.zero_le _
      routes := fun _ => by simp only [State.foot, n, htree.1]; exact Nat.zero_le _
      queued := fun hk => by
        simp only [State.foot, n, hqueue]
        split
        · exact h.queued hk
        · exact Nat.zero_le _
      logged := fun hk => by
        simp only [State.foot, n, hlog]
        refine slotsOf_trimLog ?_
        rw [slotsOf_append]
        exact Nat.add_le_add (h.logged hk) (slotsOf_tornSlot s)
      events := fun _ => Nat.zero_le _
      deques := fun _ => hdeques
      held := fun _ => by simp only [State.foot, n, htree.2]; exact Nat.zero_le _
      live := fun _ => Nat.zero_le _
      parish := h.parish }

theorem resetBy_sound {cause : Nat} (h : s.Sound K) : (s.resetBy cause).Sound K := by
  unfold State.resetBy
  exact resetTo_sound h

theorem trainPcie_sound (h : s.Sound K) : s.trainPcie.Sound K := by
  unfold State.trainPcie
  exact sound_ite (sound_of_foot h rfl) h

theorem regAny_sound {f : State → Nat × State} (h : s.Sound K) (hf : ∀ u : State, u.Sound K → (f u).2.Sound K) :
    (regAny f s).Sound K := by
  unfold regAny
  exact sound_ite (answer_sound (hf _ h)) (sound_of_foot h rfl)

theorem regOp_sound {f : State → Nat × State} (h : s.Sound K) (hf : ∀ u : State, u.Sound K → (f u).2.Sound K) :
    (regOp f s).Sound K := by
  unfold regOp
  exact regAny_sound h (fun _ hu => sound_ite_snd hu (hf _ hu))

theorem answers_runReg {f : State → Nat × State} (h : s.Sound K) (hf : ∀ u : State, u.Sound K → (f u).2.Sound K) : Answers K (runReg f s) :=
  answers_run h fun _ hu => regOp_sound hu hf

theorem answers_runWindow {f : State → Nat × State} (h : s.Sound K) (hf : ∀ u : State, u.Sound K → (f u).2.Sound K) :
    Answers K (runWindow f s) :=
  answers_run h fun u hu => sound_ite (answer_sound hu) (sound_ite (answer_sound hu) (answer_sound (hf u hu)))

/-! ### Limits -/

theorem evalCell_sound {n : Nat} {code : Int} {isOpen : Bool} (h : s.Sound K) : (s.evalCell n code isOpen).Sound K := by
  unfold State.evalCell
  extract_lets b
  exact updCell_sound h

theorem evalAux_sound {k code : Nat} (h : s.Sound K) : (s.evalAux k code).Sound K := by
  unfold State.evalAux
  extract_lets b r
  exact sound_ite h (sound_of_foot h rfl)

theorem nextSup_sound {sup : Nat} (h : s.Sound K) : (s.nextSup sup).2.2.Sound K := by
  unfold State.nextSup
  split
  · exact sound_of_foot h rfl
  · exact sound_of_foot h rfl

theorem sendSafety_sound {kind time : Nat} (h : s.Sound K) : (s.sendSafety kind time).Sound K := by
  unfold State.sendSafety
  extract_lets cause item
  refine sound_foldl h (fun u x0 hu => ?_)
  split
  · rename_i _ _ _ _ he2_4
    exact sendTo_sound (sound_of_triple he2_4 (nextSup_sound hu))

theorem limitReport_sound {before : List Bool} {time : Nat} (h : s.Sound K) : (s.limitReport before time).Sound K := by
  unfold State.limitReport
  extract_lets r s1
  have hs1 : s1.Sound K := sound_of_foot h rfl
  exact sound_ite (sendSafety_sound hs1) hs1

/-! ### Measure -/

theorem takeStrobe_sound {t num : Nat} {own : Bool} (h : s.Sound K) : (s.takeStrobe t num own).Sound K := by
  unfold State.takeStrobe
  extract_lets t1 limit past r
  exact sound_ite h (sound_ite (sound_of_foot h rfl) (sound_of_foot h rfl))

theorem blankOne_sound {t : Nat} (h : s.Sound K) : (s.blankOne t).Sound K := by
  unfold State.blankOne
  extract_lets e w s1 r
  have hs1 : s1.Sound K := sound_of_foot h rfl
  exact sound_ite (sound_of_foot hs1 rfl) hs1

theorem blankStart_sound (h : s.Sound K) : s.blankStart.Sound K := by
  unfold State.blankStart
  extract_lets s1
  have hs1 : s1.Sound K := schedule_sound h
  exact switches_sound (sound_foldl hs1 (fun _ _ hu => blankOne_sound hu))

theorem blankEnd_sound (h : s.Sound K) : s.blankEnd.Sound K := by
  unfold State.blankEnd
  extract_lets r r1
  split
  · exact h
  · exact sound_ite h (switches_sound (sound_of_foot h rfl))

theorem execBlankingStart_sound (h : s.Sound K) : Answers K (execBlankingStart s) :=
  answers_runConv h (fun _ hu => blankStart_sound hu)

theorem execBlankingEnd_sound (h : s.Sound K) : Answers K (execBlankingEnd s) := answers_runConv h (fun _ hu => blankEnd_sound hu)

theorem execTbiasDriveStart_sound (h : s.Sound K) : Answers K (execTbiasDriveStart s) := by
  refine answers_runConv h fun u hu => ?_
  extract_lets s1 r
  have hs1 : s1.Sound K := schedule_sound hu
  exact sound_ite (sound_of_foot hs1 rfl) hs1

theorem auxReady_sound {volts : List Nat} {tb : Nat} (h : s.Sound K) : (s.auxReady volts tb).Sound K := by
  unfold State.auxReady
  extract_lets codes w
  split
  · exact h
  · extract_lets s1 r
    have hs1 : s1.Sound K := sound_of_foot h rfl
    exact sound_of_foot hs1 rfl

theorem execAuxCodesReady_sound {volts : List Nat} {tbias : Nat} (h : s.Sound K) : Answers K (execAuxCodesReady volts tbias s) :=
  answers_runConv h (fun _ hu => auxReady_sound hu)

theorem tierFrame_sound {c : Nat} {crcOk : Bool} {load : TierLoad} (h : s.Sound K) : (s.tierFrame c crcOk load).Sound K := by
  unfold State.tierFrame
  extract_lets r n pend r1 s1
  have hs1 : s1.Sound K := sound_of_foot h rfl
  exact sound_ite (sound_of_foot h rfl) (sound_ite (raise_sound hs1) hs1)

theorem execTierChannelFrameReceive_sound {channel : Nat} {crcOk : Bool} {load : TierLoad} (h : s.Sound K) :
    Answers K (execTierChannelFrameReceive channel crcOk load s) :=
  answers_runConv h (fun _ hu => sound_when hu (fun _ hu1 => tierFrame_sound hu1))

theorem codesAvailable_sound {raw : RawCodes} (h : s.Sound K) : (s.codesAvailable raw).Sound K := by
  unfold State.codesAvailable
  extract_lets r
  split
  · exact h
  · extract_lets pend
    exact sound_of_foot h rfl

theorem execTierCodesAvailable_sound {raw : RawCodes} (h : s.Sound K) : Answers K (execTierCodesAvailable raw s) :=
  answers_runConv h (fun _ hu => codesAvailable_sound hu)

theorem openAperture_sound {a : Aperture} (h : s.Sound K) : (s.openAperture a).Sound K := by
  unfold State.openAperture
  extract_lets w
  exact schedule_sound (sound_of_foot h rfl)

theorem detail_sound {fault item check tier : Nat} (h : s.Sound K) :
    (s.detail fault item check tier).Sound K := sound_of_foot h rfl

theorem compareCell_sound {t n : Nat} {code : Int} (h : s.Sound K) : (s.compareCell t n code).Sound K := by
  unfold State.compareCell
  split
  · exact h
  · extract_lets h1 ex cnt due s1
    have hs1 : s1.Sound K := updCell_sound h
    exact sound_ite (detail_sound (raise_sound hs1)) hs1

theorem rateCell_sound {m2 : Int} {n : Nat} (h : s.Sound K) : (s.rateCell m2 n).Sound K := by
  unfold State.rateCell
  extract_lets c bad cnt due s1
  have hs1 : s1.Sound K := updCell_sound h
  exact sound_ite (detail_sound (raise_sound hs1)) hs1

theorem rateCheck_sound {cells : List Nat} (h : s.Sound K) : (s.rateCheck cells).Sound K := by
  unfold State.rateCheck
  extract_lets el m2
  exact sound_ite h (sound_foldl h (fun _ _ hu => rateCell_sound hu))

theorem loopback_sound {t : Nat} {witness code : Int} (h : s.Sound K) : (s.loopback t witness code).Sound K := by
  unfold State.loopback
  extract_lets n lim miss k set_
  have hset_ (u : State) (hu : u.Sound K) (x1 : Nat) (x2 : Nat) : (set_ u x1 x2).Sound K := sound_of_foot hu rfl
  clear_value set_
  exact sound_ite (hset_ _ h _ _) (sound_ite (hset_ _ h _ _) (detail_sound (raise_sound (hset_ _ h _ _))))

theorem keepRec_sound {r : Rec} (h : s.Sound K) : (s.keepRec r).Sound K := by
  unfold State.keepRec
  have hlen : ((s.sweep.live ++ [r]).drop (s.sweep.live.length + 1 - 128)).length ≤ 128 := by
    rw [List.length_drop, List.length_append, List.length_singleton]
    omega
  generalize (s.sweep.live ++ [r]).drop (s.sweep.live.length + 1 - 128) = l at hlen ⊢
  extract_lets _ s1
  have hs1 : s1.Sound K := { h with live := fun _ => hlen }
  clear_value s1
  refine sound_ite hs1 ?_
  split
  · rename_i hroom
    have hheld : (s1.tree.heldArea ++ [heldRec r]).length ≤ 64 := by
      rw [List.length_append]
      exact hroom
    exact { hs1 with held := fun _ => hheld }
  · exact sound_of_foot hs1 rfl

theorem completeRecord_sound {a : Aperture} {raw : RawCodes} {temps : List Int} {frac : Int} {witness : Option Int} (h : s.Sound K) :
    (s.completeRecord a raw temps frac witness).Sound K := by
  unfold State.completeRecord
  extract_lets p sel g bb unc lost adj code uns opn clamp cells s1 before s2 s3 s4 s5 el s6 s7 s8 is1 is2 r src s9
  have hs1 : s1.Sound K := sound_of_foot h (by
    simp only [s1, State.foot]
    unfold SweepSt.takeAux
    split <;> rfl)
  clear_value s1 code uns
  have hs2 : s2.Sound K := sound_foldl hs1 fun _ _ hu => evalCell_sound hu
  clear_value s2
  have hs3 : s3.Sound K := sound_ite (sound_foldl hs2 fun _ _ hu => evalAux_sound hu) hs2
  clear_value s3
  have hs4 : s4.Sound K := sound_ite hs1 (limitReport_sound hs3)
  clear_value s4
  have hs5 : s5.Sound K := mapCells_sound hs4
  clear_value s5
  have hs7 : s7.Sound K := rateCheck_sound (sound_foldl hs5 fun _ _ hu => compareCell_sound hu)
  clear_value s7
  have hs8 : s8.Sound K := by
    unfold s8
    split
    · exact sound_ite hs7 (loopback_sound hs7)
    · exact hs7
  clear_value s8 r
  have hs9 : s9.Sound K := sound_of_foot hs8 rfl
  exact keepRec_sound hs9

theorem execSweepRecordComplete_sound {temps : List Int} {frac : Int} {witness : Option Int} (h : s.Sound K) :
    Answers K (execSweepRecordComplete temps frac witness s) := by
  refine answers_runConvL h fun u hu => ?_
  split
  · split
    · exact completeRecord_sound hu
    · exact hu
  · exact hu

theorem clearSteps_sound (h : s.Sound K) : s.clearSteps.Sound K := by
  unfold State.clearSteps
  exact sound_ite (abandonStep_sound h) h

theorem runSweep_sound (h : s.Sound K) : s.runSweep.Sound K := by
  unfold State.runSweep
  extract_lets s1 r
  have hs1 : s1.Sound K := mapCells_sound h
  exact schedule_sound (sound_of_foot hs1 rfl)

theorem startSweep_sound {source : Nat} (h : s.Sound K) : (startSweep source s).2.Sound K := by
  unfold startSweep
  extract_lets r r1 s1 s2
  have hs1 : s1.Sound K := sound_of_foot h rfl
  have hs2 : s2.Sound K := clearSteps_sound (runSweep_sound hs1)
  exact sound_ite_snd h (sound_ite_snd h (sound_ite (setMode_sound hs2) hs2))

theorem execSweepStart_sound {source : Nat} (h : s.Sound K) : Answers K (execSweepStart source s) :=
  answers_runReg h (fun _ hu => startSweep_sound hu)

theorem stopSweepReg_sound (h : s.Sound K) : (stopSweepReg s).2.Sound K := by
  unfold stopSweepReg
  exact sound_ite_snd (stopSweep_sound h) h

theorem execSweepStop_sound (h : s.Sound K) : Answers K (execSweepStop s) := answers_runReg h (fun _ hu => stopSweepReg_sound hu)

theorem sweepStopped_sound (h : s.Sound K) : s.sweepStopped.Sound K := by
  unfold State.sweepStopped
  exact sound_ite (writeSnapshot_sound (switches_sound (sound_of_foot h rfl))) h

theorem execSweepStopped_sound (h : s.Sound K) : Answers K (execSweepStopped s) :=
  answers_runCore h (fun _ hu => sweepStopped_sound hu)

theorem execSnapshotRewrite_sound (h : s.Sound K) : Answers K (execSnapshotRewrite s) :=
  answers_runCore h (fun _ hu => sound_when hu (fun _ hu1 => sound_of_foot hu1 rfl))

/-! ### Balance -/

theorem govChoose_sound (h : s.Sound K) : s.govChoose.Sound K := by
  unfold State.govChoose
  extract_lets req r
  split
  · exact switches_sound (sound_of_foot h rfl)

theorem balanceDone_sound (h : s.Sound K) : s.balanceDone.Sound K := by
  unfold State.balanceDone
  exact sound_ite (switches_sound (sound_of_foot h rfl)) h

theorem startBalance_sound {cont : Bool} (h : s.Sound K) : (startBalance cont s).2.Sound K := by
  unfold startBalance
  extract_lets r r1 s1 r2 s2 s3
  have hs1 : s1.Sound K := mapCells_sound h
  have hs2 : s2.Sound K := sound_of_foot hs1 rfl
  have hs3 : s3.Sound K := balanceDone_sound (govChoose_sound hs2)
  exact sound_ite_snd h (sound_ite_snd (sound_of_foot h rfl) (sound_when hs3 (fun _ hu => setMode_sound hu)))

theorem execBalanceStart_sound {cont : Bool} (h : s.Sound K) : Answers K (execBalanceStart cont s) :=
  answers_runReg h (fun _ hu => startBalance_sound hu)

theorem stopBalance_sound (h : s.Sound K) : (stopBalance s).2.Sound K := by
  unfold stopBalance
  exact sound_ite_snd (switches_sound (sound_of_foot h rfl)) h

theorem execBalanceStop_sound (h : s.Sound K) : Answers K (execBalanceStop s) :=
  answers_runReg h (fun _ hu => stopBalance_sound hu)

theorem execBalanceStopped_sound (h : s.Sound K) : Answers K (execBalanceStopped s) :=
  answers_runCore h (fun _ hu => sound_when hu (fun _ hu1 => sound_of_foot hu1 rfl))

theorem execGovernorSlot_sound (h : s.Sound K) : Answers K (execGovernorSlot s) :=
  answers_run h (fun _ hu => sound_when hu (fun _ hu1 => sound_ite (balanceDone_sound (govChoose_sound hu1)) (sound_of_foot hu1 rfl)))

theorem execBalanceTimerExpire_sound {cell : Nat} (h : s.Sound K) : Answers K (execBalanceTimerExpire cell s) :=
  answers_runCore h (fun _ hu => sound_when hu (fun _ hu1 => balanceDone_sound (switches_sound hu1)))

/-! ### Flash -/

theorem flashErr_sound {area : Nat} {err : ReadErr} (h : s.Sound K) : (s.flashErr area err).Sound K := by
  unfold State.flashErr
  extract_lets r
  split
  · exact h
  · exact sound_of_foot h rfl
  · exact raise_sound (sound_of_foot h rfl)

theorem readRun_sound {r lo n : Nat} (h : s.Sound K) : (s.readRun r lo n).2.Sound K := by
  unfold State.readRun
  extract_lets ws
  exact sound_foldl h (fun _ _ hu => flashErr_sound hu)

theorem readWord_sound {r o v : Nat} (h : s.Sound K) : (s.readWord r o v).2.Sound K := by
  unfold State.readWord
  split
  · rename_i _ _ _ he0_3
    exact sound_ite_snd (sound_of_pair he0_3 (readRun_sound h)) (took_sound (sound_of_pair he0_3 (readRun_sound h)))

theorem readWords_sound {r : Nat} {offs : List Nat} {bs : List Byte} (h : s.Sound K) : (s.readWords r offs bs).2.Sound K := by
  unfold State.readWords
  split
  · exact h
  · refine sound_foldl_snd h (fun u x0 hu => ?_)
    split
    · rename_i _ _ _ he2_3
      exact sound_of_pair he2_3 (readWord_sound hu)

theorem eraseBegins_sound {k : Erase} (h : s.Sound K) : (s.eraseBegins k).Sound K := by
  unfold State.eraseBegins
  extract_lets idle r s1
  have hs1 : s1.Sound K := sound_of_foot h rfl
  exact sound_ite (sound_of_foot hs1 rfl) hs1

theorem eraseOver_sound (h : s.Sound K) : s.eraseOver.Sound K := by
  unfold State.eraseOver
  exact sound_ite (sound_of_foot h rfl) h

theorem eraseNext_sound {rest : List Erase} (h : s.Sound K) : (s.eraseNext rest).Sound K := by
  unfold State.eraseNext
  extract_lets r s1
  have hs1 : s1.Sound K := eraseOver_sound (sound_of_foot h rfl)
  exact sound_ite hs1 (sound_of_foot hs1 rfl)

theorem commitErased_sound (h : s.Sound K) : s.commitErased.Sound K := by
  unfold State.commitErased
  extract_lets rest r
  exact sound_ite (sound_of_foot h rfl) (eraseNext_sound h)

theorem commitErasesDrop_sound (h : s.Sound K) : s.commitErasesDrop.Sound K := sound_of_foot h rfl

theorem programEntry_sound (h : s.Sound K) : s.programEntry.Sound K := by
  unfold State.programEntry
  split
  · exact h
  · rename_i e q he
    dsimp only
    have hs1 : { s with flash := { s.flash with queue := q, log := trimLog 2 (s.flash.log ++ [e])
                                                logAt := s.flash.logAt + e.slots } }.Sound K :=
      { h with
        queued := fun hk => by
          have hq : slotsOf s.flash.queue ≤ 16 := h.queued hk
          rw [he, slotsOf_cons] at hq
          exact le_trans (Nat.le_add_left _ _) hq
        logged := fun hk => slotsOf_trimLog (by
          have hl : slotsOf s.flash.log ≤ 4096 := h.logged hk
          rw [slotsOf_append, slotsOf_cons]
          exact Nat.add_le_add hl e.slots_le) }
    exact sound_ite (eraseBegins_sound hs1) hs1

/-- The parish register keeps the newest 256 entries (10 R292). -/
theorem parishProgrammed_sound (h : s.Sound K) : s.parishProgrammed.Sound K := by
  unfold State.parishProgrammed
  split
  · exact h
  · rename_i w q he
    have hlen : ((s.safety.parish ++ [w.entry]).drop ((s.safety.parish ++ [w.entry]).length - 256)).length ≤ 256 := by
      rw [List.length_drop]
      omega
    dsimp only
    generalize (s.safety.parish ++ [w.entry]).drop ((s.safety.parish ++ [w.entry]).length - 256) = l at hlen ⊢
    have hs1 : { s with safety := { s.safety with parishQ := q, parish := l } }.Sound K := { h with parish := fun _ => hlen }
    split
    · exact respond_sound (sound_ite (eraseBegins_sound hs1) hs1)
    · exact sound_ite (eraseBegins_sound hs1) hs1

theorem programAll_sound (h : s.Sound K) : s.programAll.Sound K := by
  unfold State.programAll
  exact sound_iter h (fun _ hu => programEntry_sound hu)

theorem programWaiting_sound (h : s.Sound K) : s.programWaiting.Sound K := by
  unfold State.programWaiting
  exact sound_iter (programAll_sound h) (fun _ hu => parishProgrammed_sound hu)

theorem execLedgerEntryProgrammed_sound (h : s.Sound K) : Answers K (execLedgerEntryProgrammed s) :=
  answers_runCore h (fun _ hu => sound_when hu (fun _ hu1 => programEntry_sound hu1))

theorem setBank_sound {b : Nat} {m : Mem} (h : s.Sound K) (hm : K.files → Memory.wf flashByte m = true) : (s.setBank b m).Sound K := by
  unfold State.setBank
  split
  · exact { h with bank0 := hm }
  · exact { h with bank1 := hm }

theorem updCommit_sound {f : CommitSt → CommitSt} (h : s.Sound K) : (s.updCommit f).Sound K := sound_of_foot h rfl

theorem bank_wf {b : Nat} (h : s.Sound K) (hk : K.files) : Memory.wf flashByte (s.bank b) = true := by
  unfold State.bank
  split
  · exact h.bank0 hk
  · exact h.bank1 hk

theorem setBank_erase_sound {b c a n : Nat} (h : s.Sound K) : (s.setBank b (eraseRange (s.bank c) a n)).Sound K :=
  setBank_sound h fun hk => eraseRange_wf _ a n (bank_wf h hk)

theorem openCommit_sound {length crc : Nat} {tag : Option Nat} (h : s.Sound K) : (s.openCommit length crc tag).Sound K := by
  unfold State.openCommit
  extract_lets r s1 s2
  have hs1 : s1.Sound K := sound_of_foot h rfl
  have hs2 : s2.Sound K := eraseBegins_sound (setBank_erase_sound hs1)
  exact sound_ite (setMode_sound hs2) hs2

theorem oweWaiting_sound (h : s.Sound K) : s.oweWaiting.Sound K := by
  unfold State.oweWaiting
  exact updCommit_sound (sound_foldl h (fun _ _ hu => updPort_sound hu))

theorem rewritePair_sound (h : s.Sound K) : s.rewritePair.Sound K := by
  unfold State.rewritePair
  exact eraseBegins_sound (eraseBegins_sound (sound_of_foot h rfl))

theorem dropRecords_sound {c : CommitSt} {state : Nat} (h : s.Sound K) : (s.dropRecords c state).Sound K := by
  unfold State.dropRecords
  exact sound_ite (rewritePair_sound h) h

theorem endCommit_sound {state reason status : Nat} (h : s.Sound K) : (s.endCommit state reason status).Sound K := by
  unfold State.endCommit
  extract_lets c ver s1 s2 s3 s4
  have hs1 : s1.Sound K := updCommit_sound (commitErasesDrop_sound (oweWaiting_sound h))
  have hs2 : s2.Sound K := dropRecords_sound hs1
  have hs3 : s3.Sound K := sound_foldl hs2 (fun _ _ hu => respond_sound hu)
  have hs4 : s4.Sound K := ledger_sound hs3
  exact leaveCommit_sound (respond_sound hs4)

theorem setBank_program_sound {b c a : Nat} {bs : List Byte} (h : s.Sound K) :
    (s.setBank b (mwrite flashByte (s.bank c) a bs)).Sound K :=
  setBank_sound h fun hk => mwrite_wf flashByte bs _ a (bank_wf h hk)

theorem loadPage_sound {acc : Bool × State} {p : Nat × List Byte} (h : acc.2.Sound K) : (State.loadPage acc p).2.Sound K := by
  obtain ⟨ok, s⟩ := acc
  exact sound_ite_snd h (sound_mk (setBank_program_sound h) rfl)

theorem loadedAll_sound (h : s.Sound K) : s.loadedAll.Sound K := by
  unfold State.loadedAll
  exact sound_ite (sound_of_foot h rfl) h

theorem pieceEnds_sound {r : PieceRx} {ok : Bool} (h : s.Sound K) : (s.pieceEnds r ok).Sound K := by
  unfold State.pieceEnds
  extract_lets s1
  have hs1 : s1.Sound K := sound_of_foot h rfl
  exact sound_ite (loadedAll_sound (respond_sound hs1)) (endCommit_sound (respond_sound hs1))

theorem loadPiece_sound {r : PieceRx} {last : Bool} (h : s.Sound K) : (s.loadPiece r last).Sound K := by
  unfold State.loadPiece
  refine sound_ite (sound_of_foot h rfl) ?_
  have hpages : ((pagesOf (r.offset + r.paged) (r.got.drop r.paged)).foldl State.loadPage (true, s)).2.Sound K :=
    sound_foldl_snd (b := (true, s)) h fun _ _ hu => loadPage_sound hu
  generalize (pagesOf (r.offset + r.paged) (r.got.drop r.paged)).foldl State.loadPage (true, s) = p at hpages ⊢
  have hs1 (f : CommitSt → CommitSt) : (p.2.updCommit f).Sound K := sound_of_foot hpages rfl
  exact sound_ite (pieceEnds_sound (hs1 _)) (sound_ite (pieceEnds_sound (hs1 _)) (hs1 _))

theorem takePiece_sound {r : PieceRx} (h : s.Sound K) : (s.takePiece r).Sound K := by
  unfold State.takePiece
  extract_lets s1
  have hs1 : s1.Sound K := sound_of_foot h rfl
  exact sound_ite (loadPiece_sound hs1) hs1

theorem takeWaiting_sound (h : s.Sound K) : s.takeWaiting.Sound K := by
  unfold State.takeWaiting
  exact sound_foldl (oweWaiting_sound h) (fun _ _ hu => sound_ite (loadPiece_sound hu) hu)

theorem sectorErased_sound (h : s.Sound K) : s.sectorErased.Sound K := by
  unfold State.sectorErased
  extract_lets c n s1 s2
  have hs1 : s1.Sound K := updCommit_sound (setBank_erase_sound h)
  have hs2 : s2.Sound K := programWaiting_sound hs1
  exact sound_ite (eraseBegins_sound hs2) hs2

theorem erased_sound {k : Erase} (h : s.Sound K) : (s.erased k).Sound K := by
  unfold State.erased
  extract_lets c r
  split
  · exact h
  · exact sound_ite (sectorErased_sound h) h
  · exact sound_ite (eraseBegins_sound (sound_of_foot h rfl)) h
  · exact h

theorem eraseEnded_sound (h : s.Sound K) : s.eraseEnded.Sound K := by
  unfold State.eraseEnded
  extract_lets r
  split
  · exact eraseOver_sound h
  · extract_lets s1
    have hs1 : s1.Sound K := erased_sound (eraseOver_sound (sound_of_foot h rfl))
    exact sound_ite (sound_ite (takeWaiting_sound hs1) hs1) (sound_ite hs1 (sound_of_foot hs1 rfl))

theorem suspensionEnd_sound (h : s.Sound K) : s.suspensionEnd.Sound K := by
  unfold State.suspensionEnd
  split
  · exact sound_ite (eraseEnded_sound h) (eraseOver_sound h)
  · exact eraseEnded_sound h

theorem execEraseSuspensionEnd_sound (h : s.Sound K) : Answers K (execEraseSuspensionEnd s) :=
  answers_runCoreL h (fun _ hu => suspensionEnd_sound hu)

theorem eraseDone_sound (h : s.Sound K) : s.eraseDone.Sound K := by
  unfold State.eraseDone
  extract_lets c n s1 s2
  have hs1 : s1.Sound K := sound_ite (programWaiting_sound h) h
  have hs2 : s2.Sound K := commitErased_sound (setBank_erase_sound hs1)
  exact sound_ite h (takeWaiting_sound (sound_of_foot hs2 rfl))

theorem execCommitEraseDone_sound (h : s.Sound K) : Answers K (execCommitEraseDone s) :=
  answers_runCoreL h (fun _ hu => eraseDone_sound hu)

theorem readImage_sound {length : Nat} (h : s.Sound K) : (s.readImage length).2.Sound K := by
  unfold State.readImage
  split
  · rename_i _ _ _ he0_3
    split
    · rename_i _ _ _ he1_3
      exact sound_of_pair he1_3 (readRun_sound (sound_of_pair he0_3 (readRun_sound h)))

theorem verifyDone_sound (h : s.Sound K) : s.verifyDone.Sound K := by
  unfold State.verifyDone
  extract_lets c m
  refine sound_ite h ?_
  split
  · rename_i _ _ _ he2_3
    refine sound_ite (endCommit_sound (sound_of_pair he2_3 (readRun_sound h))) (sound_ite (endCommit_sound (sound_of_pair he2_3
      (readRun_sound h))) ?_)
    split
    · rename_i _ _ _ he4_3
      exact sound_ite (endCommit_sound (sound_of_pair he4_3 (readImage_sound (sound_of_pair he2_3 (readRun_sound h))))) (sound_ite
        (endCommit_sound (sound_of_pair he4_3 (readImage_sound (sound_of_pair he2_3 (readRun_sound h))))) (sound_ite (endCommit_sound
          (sound_of_pair he4_3 (readImage_sound (sound_of_pair he2_3 (readRun_sound h))))) (eraseBegins_sound (updCommit_sound (sound_mk
            (sound_of_pair he4_3 (readImage_sound (sound_of_pair he2_3 (readRun_sound h)))) rfl)))))

theorem execCommitVerifyDone_sound (h : s.Sound K) : Answers K (execCommitVerifyDone s) :=
  answers_runCoreL h (fun _ hu => verifyDone_sound hu)

theorem recordDone_sound (h : s.Sound K) : s.recordDone.Sound K := by
  unfold State.recordDone
  extract_lets c r r1 r2 r3 s1
  have hs1 : s1.Sound K := sound_of_foot h rfl
  exact sound_ite h (endCommit_sound (commitErased_sound hs1))

theorem execCommitRecordDone_sound (h : s.Sound K) : Answers K (execCommitRecordDone s) :=
  answers_runCoreL h (fun _ hu => recordDone_sound hu)

theorem execLoadIdleTimeout_sound (h : s.Sound K) : Answers K (execLoadIdleTimeout s) := by
  refine answers_runCoreL h fun u hu => ?_
  extract_lets c
  exact sound_ite (endCommit_sound hu) hu

theorem abandonCommit_sound (h : s.Sound K) : (abandonCommit s).2.Sound K := by
  unfold abandonCommit
  exact sound_ite_snd (endCommit_sound h) h

theorem execFlashAbandon_sound (h : s.Sound K) : Answers K (execFlashAbandon s) :=
  answers_runL h (fun _ hu => regOp_sound hu (fun _ hu1 => abandonCommit_sound hu1))

theorem commitLoaded_sound (h : s.Sound K) : (commitLoaded s).2.Sound K := by
  unfold commitLoaded
  extract_lets m n s1 r
  have hs1 : s1.Sound K := readRun_sound h
  exact sound_ite_snd h (sound_of_foot hs1 rfl)

theorem configSave_sound (h : s.Sound K) : (configSave s).2.Sound K := by
  unfold configSave
  extract_lets a b useA newer w c s1 r
  have hs1 : s1.Sound K := eraseBegins_sound h
  exact sound_ite_snd h (sound_ite (sound_of_foot hs1 rfl) (sound_of_foot hs1 rfl))

theorem execConfigSave_sound (h : s.Sound K) : Answers K (execConfigSave s) := answers_runReg h (fun _ hu => configSave_sound hu)

theorem configRead_sound (h : s.Sound K) : (configRead s).2.Sound K := by
  unfold configRead
  exact sound_of_foot h rfl

theorem configWrite_sound {v : Nat} (h : s.Sound K) : (configWrite v s).2.Sound K := by
  unfold configWrite
  exact sound_ite_snd h (sound_ite_snd h (sound_of_foot h rfl))

theorem execConfigDataRead_sound (h : s.Sound K) : Answers K (execConfigDataRead s) :=
  answers_runWindow h (fun _ hu => configRead_sound hu)

theorem execConfigDataWrite_sound {v : Nat} (h : s.Sound K) : Answers K (execConfigDataWrite v s) :=
  answers_runReg h (fun _ hu => configWrite_sound hu)

theorem dbgAttach_sound (h : s.Sound K) : s.dbgAttach.Sound K := by
  unfold State.dbgAttach
  exact sound_ite h (ledger_sound (sound_of_foot h rfl))

theorem dioRefuse_sound {code : Nat} (h : s.Sound K) : (s.dioRefuse code).Sound K := sound_of_foot h rfl

theorem dbgAct_sound {idcode : Bool} {f : State → Nat × List Nat × State} (h : s.Sound K) (hf : ∀ u : State, u.Sound K →
    (f u).2.2.Sound K) :
    (dbgAct idcode f s).Sound K := by
  unfold dbgAct
  refine sound_ite (sound_of_foot h rfl) ?_
  split
  · rename_i _ _ _ _ he1_4
    exact sound_ite (emit_sound (answer_sound (sound_of_triple he1_4 (hf _ (dbgAttach_sound h))))) (dioRefuse_sound (sound_of_triple he1_4
      (hf _ (dbgAttach_sound h))))

theorem dbgOp_sound {op addr : Nat} {data : Option Nat} {chk : Nat} {f : State → Nat × List Nat × State} (h : s.Sound K) (hf :
    ∀ u : State, u.Sound K → (f u).2.2.Sound K) :
    (dbgOp op addr data chk f s).Sound K := by
  unfold dbgOp
  exact sound_ite (sound_of_foot h rfl) (sound_ite (sound_of_foot h rfl) (dbgAct_sound h hf))

theorem dbgDo_sound {f : State → Nat × State} (h : s.Sound K) (hf : ∀ u : State, u.Sound K → (f u).2.Sound K) :
    (dbgDo f s).Sound K := by
  unfold dbgDo
  exact sound_ite (sound_of_foot h rfl) (dbgAct_sound h (fun _ hu => hf _ hu))

theorem execCommitLoaded_sound (h : s.Sound K) : Answers K (execCommitLoaded s) :=
  answers_runL h (fun _ hu => dbgDo_sound hu (fun _ hu1 => commitLoaded_sound hu1))

theorem debugHalt_sound (h : s.Sound K) : (debugHalt s).2.Sound K := by
  unfold debugHalt
  exact toHalted_sound (ledger_sound h)

theorem execDebugHalt_sound (h : s.Sound K) : Answers K (execDebugHalt s) :=
  answers_runL h (fun _ hu => dbgDo_sound hu (fun _ hu1 => debugHalt_sound hu1))

theorem debugResume_sound (h : s.Sound K) : (debugResume s).2.Sound K := by
  unfold debugResume
  exact resumeHalt_sound h

theorem execDebugResume_sound (h : s.Sound K) : Answers K (execDebugResume s) :=
  answers_runL h (fun _ hu => dbgDo_sound hu (fun _ hu1 => debugResume_sound hu1))

theorem debugReset_sound (h : s.Sound K) : (debugReset s).2.Sound K := by
  unfold debugReset
  exact resetBy_sound h

theorem execDebugReset_sound (h : s.Sound K) : Answers K (execDebugReset s) :=
  answers_run h (fun _ hu => dbgDo_sound hu (fun _ hu1 => debugReset_sound hu1))

theorem breakHit_sound {k : Nat} (h : s.Sound K) : (s.breakHit k).Sound K := by
  unfold State.breakHit
  exact toHalted_sound (sound_of_foot h rfl)

theorem execBreakpointHit_sound {k what : Nat} {write : Bool} (h : s.Sound K) : Answers K (execBreakpointHit k what write s) := by
  refine answers_runL h fun u hu => ?_
  split
  · exact sound_ite (breakHit_sound hu) hu
  · exact hu

theorem execIdcode_sound {tail : AddrChk} (h : s.Sound K) : Answers K (execIdcode tail s) :=
  answers_run h (fun _ hu => dbgOp_sound hu (fun _ hu1 => hu1))

theorem execFuse_sound {data : Nat} {tail : AddrChk} (h : s.Sound K) : Answers K (execFuse data tail s) := by
  refine answers_run h fun u hu => ?_
  refine dbgOp_sound hu (fun u hu => sound_ite_snd_snd hu ?_)
  extract_lets r s1
  have hs1 : s1.Sound K := sound_ite (sound_of_foot hu rfl) (sound_of_foot hu rfl)
  exact ledger_sound hs1

theorem flashRead_sound {addr : Nat} (h : s.Sound K) : (flashRead addr s).2.2.Sound K := by
  unfold flashRead
  split
  · exact h
  · split
    · exact h
    · split
      · rename_i _ _ _ he2_3
        exact sound_of_pair he2_3 (readWord_sound h)

theorem execFlashRead_sound {addr chk : Nat} (h : s.Sound K) : Answers K (execFlashRead addr chk s) :=
  answers_run h (fun _ hu => dbgOp_sound hu (fun _ hu1 => flashRead_sound hu1))

theorem portWrites_sound {sector : Nat} (h : s.Sound K) : (s.portWrites sector).Sound K := by
  unfold State.portWrites
  exact sound_ite h (ledger_sound (sound_of_foot h rfl))

theorem progByte_sound {acc : Mem × State} {a : Nat × Byte} (h : acc.2.Sound K) : (progByte acc a).2.Sound K := by
  obtain ⟨m, s⟩ := acc
  exact sound_ite_snd h (sound_of_foot h rfl)

theorem progWord_sound {acc : List Nat × State} {w : Nat × Nat} (h : acc.2.Sound K) : (progWord acc w).2.Sound K := by
  obtain ⟨c, s⟩ := acc
  exact sound_ite_snd h (sound_of_foot h rfl)

/-- The bytes of a page programmed one by one keep the canonical form. -/
theorem foldl_progByte_wf {l : List (Nat × Byte)} {acc : Mem × State} (h : Memory.wf flashByte acc.1 = true) :
    Memory.wf flashByte (l.foldl progByte acc).1 = true := by
  induction l generalizing acc with
  | nil => exact h
  | cons a l ih =>
    obtain ⟨m, s⟩ := acc
    refine ih ?_
    unfold progByte
    dsimp only
    split <;> exact mset_wf flashByte h

theorem setDataArea_sound {m : Mem} (h : s.Sound K) (hm : K.files → Memory.wf flashByte m = true) :
    { s with flash := { s.flash with dataArea := m } }.Sound K := { h with dataArea := hm }

theorem programPage_sound {r o : Nat} (h : s.Sound K) : (s.programPage r o).Sound K := by
  unfold State.programPage
  extract_lets page ws bytes q s1 idx key
  have hs1 : s1.Sound K := sound_of_foot h rfl
  have hword (c : List Nat) : (idx.foldl progWord (c, s1)).2.Sound K :=
    sound_foldl_snd (b := (c, s1)) hs1 fun _ _ hu => progWord_sound hu
  have hbyte (m : Mem) : (bytes.foldl progByte (m, s1)).2.Sound K :=
    sound_foldl_snd (b := (m, s1)) hs1 fun _ _ hu => progByte_sound hu
  refine sound_ite (sound_ite (sound_mk (hword _) rfl) (sound_mk (hword _) rfl)) (sound_ite ?_ ?_)
  · have hs2 := setDataArea_sound (hbyte s1.flash.dataArea) fun hk => foldl_progByte_wf (l := bytes) (acc := (s1.flash.dataArea, s1))
      (hs1.dataArea hk)
    exact sound_ite (ledger_sound hs2) hs2
  · exact setBank_sound (hbyte (s1.bank r)) fun hk => foldl_progByte_wf (acc := (s1.bank r, s1)) (bank_wf hs1 hk)

theorem flashProgram_sound {addr value : Nat} (h : s.Sound K) : (flashProgram addr value s).2.2.Sound K := by
  unfold flashProgram
  extract_lets page
  split
  · exact h
  · extract_lets s1 ws r s2
    have hs1 : s1.Sound K := portWrites_sound h
    have hs2 : s2.Sound K := sound_of_foot hs1 rfl
    exact sound_ite_snd_snd h (sound_ite_snd_snd h (sound_ite_snd_snd h (sound_ite (programPage_sound hs2) hs2)))

theorem execFlashProgram_sound {addr value chk : Nat} (h : s.Sound K) : Answers K (execFlashProgram addr value chk s) :=
  answers_run h (fun _ hu => dbgOp_sound hu (fun _ hu1 => flashProgram_sound hu1))

theorem flashErase_sound {addr : Nat} (h : s.Sound K) : (flashErase addr s).2.2.Sound K := by
  unfold flashErase
  split
  · exact h
  · refine sound_ite_snd_snd h (sound_ite_snd_snd h ?_)
    have hs1 (r o : Nat) : ((s.portWrites (sectorOf r o)).eraseBegins .data).Sound K := eraseBegins_sound (portWrites_sound h)
    exact sound_ite (setBank_erase_sound (hs1 ..)) (sound_ite (sound_mk (hs1 ..) rfl) (sound_ite (sound_mk (hs1 ..) rfl)
      (setDataArea_sound (hs1 ..) fun hk => eraseRange_wf _ _ _ ((hs1 ..).dataArea hk))))

theorem execFlashErase_sound {addr chk : Nat} (h : s.Sound K) : Answers K (execFlashErase addr chk s) :=
  answers_run h (fun _ hu => dbgOp_sound hu (fun _ hu1 => flashErase_sound hu1))

/-! ### Watch -/

theorem raiseWd_sound {e : WdEdge} {item : Nat} (h : s.Sound K) : (s.raiseWd e item).Sound K := by
  unfold State.raiseWd
  split
  · exact raise_sound h
  · exact raise_sound h
  · exact h

theorem wdExpire_sound (h : s.Sound K) : s.wdExpire.Sound K := by
  unfold State.wdExpire
  exact resetBy_sound (sound_of_foot h rfl)

theorem wdTick_sound (h : s.Sound K) : s.wdTick.Sound K := by
  unfold State.wdTick
  extract_lets e
  exact sound_ite h (sound_ite (wdExpire_sound h) (raiseWd_sound (sound_of_foot h rfl)))

theorem graceTick_sound (h : s.Sound K) : s.graceTick.Sound K := by
  unfold State.graceTick
  exact sound_ite (sound_of_foot h rfl) h

theorem startWdog_sound (h : s.Sound K) : (startWdog s).2.Sound K := by
  unfold startWdog
  exact sound_ite_snd h (sound_ite_snd (sound_of_foot h rfl) h)

theorem execWdogStart_sound (h : s.Sound K) : Answers K (execWdogStart s) := answers_runReg h (fun _ hu => startWdog_sound hu)

theorem execWdogKey_sound {key : Nat} (h : s.Sound K) : Answers K (execWdogKey key s) :=
  answers_runCore h (fun _ hu => sound_when hu (fun _ hu1 => sound_of_foot hu1 rfl))

theorem execWdogCheckin_sound {task : Nat} (h : s.Sound K) : Answers K (execWdogCheckin task s) :=
  answers_runCore h (fun _ hu => sound_when hu (fun _ hu1 => sound_of_foot hu1 rfl))

theorem execWdogServeSampled_sound (h : s.Sound K) : Answers K (execWdogServeSampled s) :=
  answers_run h (fun _ hu => sound_when hu (fun _ hu1 => wdTick_sound (graceTick_sound hu1)))

theorem execWdogExpire_sound (h : s.Sound K) : Answers K (execWdogExpire s) :=
  answers_run h (fun _ hu => sound_when hu (fun _ hu1 => wdExpire_sound hu1))

theorem startHostWd_sound (h : s.Sound K) : (startHostWd s).Sound K := by
  unfold startHostWd
  extract_lets w
  exact sound_ite (sound_of_foot h rfl) (sound_ite (sound_of_foot h rfl) (sound_of_foot h rfl))

theorem execHostWdStart_sound (h : s.Sound K) : Answers K (execHostWdStart s) :=
  answers_run h (fun _ hu => sound_when hu (fun _ hu1 => startHostWd_sound hu1))

theorem execHostWdKey_sound {key : Nat} (h : s.Sound K) : Answers K (execHostWdKey key s) :=
  answers_run h (fun _ hu => sound_when hu (fun _ hu1 => sound_of_foot hu1 rfl))

theorem execHostRollCheckin_sound {task : Nat} (h : s.Sound K) : Answers K (execHostRollCheckin task s) :=
  answers_run h (fun _ hu => sound_when hu (fun _ hu1 => sound_of_foot hu1 rfl))

theorem startCollector_sound (h : s.Sound K) : s.startCollector.Sound K := by
  unfold State.startCollector
  extract_lets r s1
  have hs1 : s1.Sound K := sound_of_foot h rfl
  exact sound_foldl hs1 (fun _ _ hu => sound_ite (raise_sound hu) hu)

theorem notices_sound {evs : List FaultEvt} (h : s.Sound K) : (s.notices evs).Sound K := by
  unfold State.notices
  exact sound_foldl h (fun _ _ hu => sound_foldl hu (fun _ _ hu1 => sound_ite (faultFrame_sound hu1) hu1))

theorem openRecord_sound {e : FaultEvt} (h : s.Sound K) : (s.openRecord e).Sound K := by
  unfold State.openRecord
  extract_lets r s1 s2
  have hs1 : s1.Sound K := sound_of_foot h rfl
  have hs2 : s2.Sound K := ledgerAt_sound hs1
  exact sound_ite (faultFrame_sound hs2) hs2

theorem collect_sound (h : s.Sound K) : s.collect.Sound K := by
  unfold State.collect
  extract_lets evs r s1 s2
  have hs1 : s1.Sound K := sound_of_foot h rfl
  have hs2 : s2.Sound K := notices_sound hs1
  refine sound_ite hs1 ?_
  split
  · exact openRecord_sound hs2
  · exact hs2

theorem execFaultCollect_sound (h : s.Sound K) : Answers K (execFaultCollect s) :=
  answers_runL h (fun _ hu => sound_when hu (fun _ hu1 => collect_sound hu1))

theorem escalate_sound (h : s.Sound K) : s.escalate.Sound K := by
  unfold State.escalate
  extract_lets f s1 before s2 act
  have hs1 : s1.Sound K := sound_of_foot h rfl
  have hs2 : s2.Sound K := sound_ite (toSafe_sound hs1) (toLockout_sound hs1)
  exact ledger_sound (faultFrame_sound hs2)

theorem execGraceExpire_sound (h : s.Sound K) : Answers K (execGraceExpire s) :=
  answers_runL h (fun _ hu => sound_when hu (fun _ hu1 => escalate_sound hu1))

theorem ackFault_sound {id : Nat} (h : s.Sound K) : (ackFault id s).2.Sound K := by
  unfold ackFault
  extract_lets s1 r
  have hs1 : s1.Sound K := sound_when h (fun _ hu => escalate_sound hu)
  exact sound_ite_snd hs1 (sound_ite_snd (sound_of_foot hs1 rfl) hs1)

theorem execFaultAck_sound {id : Nat} (h : s.Sound K) : Answers K (execFaultAck id s) :=
  answers_runL h (fun _ hu => regOp_sound hu (fun _ hu1 => ackFault_sound hu1))

theorem updChk_sound {i : Nat} {f : CheckSt → CheckSt} (h : s.Sound K) : (s.updChk i f).Sound K :=
  sound_of_foot h (by simp [State.foot, State.updChk])

theorem startCheck_sound {k : Nat} (h : s.Sound K) : (startCheck k s).2.Sound K := by
  unfold startCheck
  extract_lets c
  exact sound_ite_snd h (sound_ite_snd h (updChk_sound h))

theorem stopCheck_sound {k : Nat} (h : s.Sound K) : (stopCheck k s).2.Sound K := by
  unfold stopCheck
  extract_lets c
  exact sound_ite_snd h (sound_ite_snd h (updChk_sound h))

theorem feedCheck_sound {k n v : Nat} (h : s.Sound K) : (feedCheck k n v s).2.Sound K := by
  unfold feedCheck
  extract_lets c
  exact sound_ite_snd h (sound_ite_snd h (updChk_sound h))

theorem closeCheck_sound {k : Nat} (h : s.Sound K) : (closeCheck k s).2.Sound K := by
  unfold closeCheck
  extract_lets c
  exact sound_ite_snd h (sound_ite_snd h (updChk_sound h))

theorem checkOutcome_sound {k : Nat} (h : s.Sound K) : (s.checkOutcome k).Sound K := by
  unfold State.checkOutcome
  extract_lets c o s1
  have hs1 : s1.Sound K := updChk_sound h
  exact sound_ite h (sound_ite hs1 (raise_sound hs1))

theorem execCheckStart_sound {k : Nat} (h : s.Sound K) : Answers K (execCheckStart k s) :=
  answers_runReg h (fun _ hu => startCheck_sound hu)

theorem execCheckStop_sound {k : Nat} (h : s.Sound K) : Answers K (execCheckStop k s) :=
  answers_runReg h (fun _ hu => stopCheck_sound hu)

theorem execCheckData8_sound {k v : Nat} (h : s.Sound K) : Answers K (execCheckData8 k v s) :=
  answers_runReg h (fun _ hu => feedCheck_sound hu)

theorem execCheckData16_sound {k v : Nat} (h : s.Sound K) : Answers K (execCheckData16 k v s) :=
  answers_runReg h (fun _ hu => feedCheck_sound hu)

theorem execCheckData32_sound {k v : Nat} (h : s.Sound K) : Answers K (execCheckData32 k v s) :=
  answers_runReg h (fun _ hu => feedCheck_sound hu)

theorem execCheckClose_sound {k : Nat} (h : s.Sound K) : Answers K (execCheckClose k s) :=
  answers_runReg h (fun _ hu => closeCheck_sound hu)

theorem execCheckOutcome_sound {k : Nat} (h : s.Sound K) : Answers K (execCheckOutcome k s) :=
  answers_runCore h (fun _ hu => checkOutcome_sound hu)

/-! ### Power -/

theorem updPower_sound {f : PowerSt → PowerSt} (h : s.Sound K) : (s.updPower f).Sound K := sound_of_foot h rfl

theorem chgStop_sound {st : ChgState} (h : s.Sound K) : (s.chgStop st).Sound K := sound_of_foot h rfl

theorem chgFault_sound {bit_ : Nat} (h : s.Sound K) : (s.chgFault bit_).Sound K := by
  unfold State.chgFault
  extract_lets p was again s1
  have hs1 : s1.Sound K := sound_of_foot h rfl
  exact sound_ite hs1 (sound_ite (raise_sound hs1) (sound_ite (raise_sound hs1) (sound_ite (raise_sound hs1) hs1)))

theorem execChargerSoftStart_sound {vresMv : Nat} (h : s.Sound K) : Answers K (execChargerSoftStart vresMv s) :=
  answers_run h (fun _ hu => sound_when hu (fun _ hu1 => sound_of_foot hu1 rfl))

theorem execPrechargeShortCheck_sound {vresMv : Nat} (h : s.Sound K) : Answers K (execPrechargeShortCheck vresMv s) :=
  answers_run h (fun _ hu => sound_when hu (fun _ hu1 => chgFault_sound (sound_of_foot hu1 rfl)))

theorem execPrechargeTimeout_sound {vresMv : Nat} (h : s.Sound K) : Answers K (execPrechargeTimeout vresMv s) :=
  answers_run h (fun _ hu => sound_when hu (fun _ hu1 => chgFault_sound (sound_of_foot hu1 rfl)))

theorem execPrechargeLevelReached_sound (h : s.Sound K) : Answers K (execPrechargeLevelReached s) :=
  answers_run h (fun _ hu => sound_when hu (fun _ hu1 => sound_of_foot hu1 rfl))

theorem execCvReached_sound (h : s.Sound K) : Answers K (execCvReached s) :=
  answers_run h (fun _ hu => sound_when hu (fun _ hu1 => sound_of_foot hu1 rfl))

theorem execChargeTermination_sound (h : s.Sound K) : Answers K (execChargeTermination s) :=
  answers_run h (fun _ hu => sound_when hu (fun _ hu1 => sound_of_foot hu1 rfl))

theorem execDetectionPulseEnd_sound {fallMv : Nat} (h : s.Sound K) : Answers K (execDetectionPulseEnd fallMv s) :=
  answers_run h (fun _ hu => sound_when hu (fun _ hu1 => sound_ite (sound_of_foot hu1 rfl) (chgFault_sound hu1)))

theorem execPeriodicDetection_sound (h : s.Sound K) : Answers K (execPeriodicDetection s) :=
  answers_run h (fun _ hu => sound_when hu (fun _ hu1 => sound_of_foot hu1 rfl))

theorem execRecharge_sound {vresMv : Nat} (h : s.Sound K) : Answers K (execRecharge vresMv s) :=
  answers_run h (fun _ hu => sound_when hu (fun _ hu1 => sound_of_foot hu1 rfl))

theorem execFastChargeTimeout_sound (h : s.Sound K) : Answers K (execFastChargeTimeout s) :=
  answers_run h (fun _ hu => sound_when hu (fun _ hu1 => chgFault_sound hu1))

theorem chgAgain_sound (h : s.Sound K) : s.chgAgain.Sound K := by
  unfold State.chgAgain
  exact sound_ite (sound_of_foot h rfl) (sound_ite (sound_of_foot h rfl) h)

theorem rests_sound {temp : Option Int} (h : s.Sound K) : (s.rests temp).Sound K := by
  unfold State.rests
  extract_lets was s1
  have hs1 : s1.Sound K := sound_of_foot h rfl
  refine sound_ite (sound_of_foot h rfl) ?_
  split
  · exact sound_ite hs1 (sound_ite (sound_of_foot hs1 rfl) (chgFault_sound hs1))
  · extract_lets s2 lo hi well active
    have hs2 : s2.Sound K := sound_of_foot h rfl
    exact sound_ite (sound_ite (chgAgain_sound hs2) hs2) (sound_ite (chgAgain_sound hs2) (sound_ite (sound_of_foot hs2 rfl) hs2))

theorem execRestsWindowChange_sound {temp : Option Int} (h : s.Sound K) : Answers K (execRestsWindowChange temp s) :=
  answers_run h (fun _ hu => sound_when hu (fun _ hu1 => rests_sound hu1))

theorem execMissingRetry_sound {vresMv : Nat} (h : s.Sound K) : Answers K (execMissingRetry vresMv s) :=
  answers_run h (fun _ hu => sound_when hu (fun _ hu1 => sound_of_foot hu1 rfl))

theorem chgDefaults_sound (h : s.Sound K) : s.chgDefaults.Sound K := by
  unfold State.chgDefaults
  extract_lets p changed s1
  have hs1 : s1.Sound K := ledger_sound (sound_of_foot h rfl)
  exact sound_ite (sound_of_foot hs1 rfl) hs1

theorem execChgDefaults_sound (h : s.Sound K) : Answers K (execChgDefaults s) :=
  answers_run h (fun _ hu => sound_when hu (fun _ hu1 => chgDefaults_sound hu1))

theorem contacted_sound (h : s.Sound K) : s.contacted.Sound K := sound_of_foot h rfl

theorem hostWdExpire_sound (h : s.Sound K) : s.hostWdExpire.Sound K := by
  unfold State.hostWdExpire
  exact chgDefaults_sound (ledger_sound (sound_of_foot h rfl))

theorem hostWdTick_sound (h : s.Sound K) : s.hostWdTick.Sound K := by
  unfold State.hostWdTick
  extract_lets e w
  exact sound_ite h (sound_ite (hostWdExpire_sound h) (raiseWd_sound (sound_of_foot h rfl)))

theorem execHostWdServeSampled_sound (h : s.Sound K) : Answers K (execHostWdServeSampled s) :=
  answers_run h (fun _ hu => hostWdTick_sound hu)

theorem execHostWdExpired_sound (h : s.Sound K) : Answers K (execHostWdExpired s) :=
  answers_run h (fun _ hu => sound_when hu (fun _ hu1 => hostWdExpire_sound hu1))

theorem shareEnds_sound (h : s.Sound K) : s.shareEnds.Sound K := by
  unfold State.shareEnds
  exact updPower_sound (sound_ite (sound_of_foot h rfl) h)

theorem execShareOver_sound (h : s.Sound K) : Answers K (execShareOver s) :=
  answers_run h (fun _ hu => sound_when hu (fun _ hu1 => sound_of_foot hu1 rfl))

theorem execShareRetry_sound (h : s.Sound K) : Answers K (execShareRetry s) := by
  refine answers_run h fun u hu => ?_
  split
  · exact sound_ite (sound_of_foot hu rfl) hu
  · exact hu

theorem supplyBad_sound {item : Nat} (h : s.Sound K) : (s.supplyBad item).Sound K := by
  unfold State.supplyBad
  exact sound_ite h (raiseLevel_sound (sound_of_foot h rfl))

theorem hvinFalls_sound (h : s.Sound K) : s.hvinFalls.Sound K := by
  unfold State.hvinFalls
  extract_lets s1
  have hs1 : s1.Sound K := sound_ite h (supplyBad_sound h)
  exact sound_of_foot hs1 rfl

theorem vauxFalls_sound (h : s.Sound K) : s.vauxFalls.Sound K := by
  unfold State.vauxFalls
  extract_lets s1
  have hs1 : s1.Sound K := sound_ite h (supplyBad_sound h)
  exact sound_of_foot hs1 rfl

theorem shareRises_sound (h : s.Sound K) : s.shareRises.Sound K := by
  unfold State.shareRises
  extract_lets s1 t
  have hs1 : s1.Sound K := sound_of_foot h rfl
  have ht : t.Sound K := sound_of_foot hs1 rfl
  exact sound_ite (updPower_sound (sound_when h (fun _ hu => vauxFalls_sound hu))) (sound_ite hs1 (sound_ite (sound_of_foot ht rfl) hs1))

theorem execShareCharge_sound (h : s.Sound K) : Answers K (execShareCharge s) := answers_run h (fun _ hu => shareRises_sound hu)

theorem stageRises_sound {vaux : Bool} (h : s.Sound K) : (s.stageRises vaux).Sound K := by
  unfold State.stageRises
  extract_lets s1
  have hs1 : s1.Sound K := sound_ite (shareEnds_sound h) h
  exact sound_of_foot hs1 rfl

theorem execSupplyOutOfLimits_sound {item : Nat} (h : s.Sound K) : Answers K (execSupplyOutOfLimits item s) :=
  answers_run h (fun _ hu => sound_ite (sound_when hu (fun _ hu1 => hvinFalls_sound hu1)) (sound_ite (sound_when hu
    (fun _ hu1 => vauxFalls_sound hu1)) (sound_when hu (fun _ hu1 => supplyBad_sound hu1))))

theorem execSupplyReturn_sound {item : Nat} (h : s.Sound K) : Answers K (execSupplyReturn item s) :=
  answers_run h (fun _ hu => sound_ite (sound_when hu (fun _ hu1 => stageRises_sound hu1)) (sound_ite hu (sound_ite (stageRises_sound hu)
    (sound_of_foot hu rfl))))

theorem execVauxLoss_sound (h : s.Sound K) : Answers K (execVauxLoss s) :=
  answers_run h (fun _ hu => sound_ite (vauxFalls_sound hu) (sound_ite (shareEnds_sound hu) hu))

theorem execTierPoweredAfterRelease_sound {tier : Nat} (h : s.Sound K) : Answers K (execTierPoweredAfterRelease tier s) :=
  answers_run h (fun _ hu => sound_when hu (fun _ hu1 => supplyBad_sound hu1))

theorem execVpwrFail_sound (h : s.Sound K) : Answers K (execVpwrFail s) :=
  answers_run h (fun _ hu => sound_when hu (fun _ hu1 => updPower_sound (resetTo_sound hu1)))

theorem execKeepHandover_sound {vpwrMv vresMv : Nat} (h : s.Sound K) : Answers K (execKeepHandover vpwrMv vresMv s) :=
  answers_run h (fun _ hu => sound_when hu (fun _ hu1 => sound_of_foot hu1 rfl))

theorem execVpwrBelowPg_sound (h : s.Sound K) : Answers K (execVpwrBelowPg s) :=
  answers_run h (fun _ hu => sound_when hu (fun _ hu1 => sound_of_foot hu1 rfl))

theorem vpwrComesGood_sound (h : s.Sound K) : s.vpwrComesGood.Sound K := by
  unfold State.vpwrComesGood
  extract_lets s1 r s2 r1
  have hs1 : s1.Sound K := sound_of_foot h rfl
  have hs2 : s2.Sound K := sound_ite (sound_of_foot hs1 rfl) hs1
  exact setMode_sound (sound_of_foot hs2 rfl)

theorem execVpwrGood_sound (h : s.Sound K) : Answers K (execVpwrGood s) :=
  answers_run h (fun _ hu => sound_when hu (fun _ hu1 => vpwrComesGood_sound hu1))

theorem execKeepPowerOnReset_sound (h : s.Sound K) : Answers K (execKeepPowerOnReset s) := by
  refine answers_run h fun u hu => ?_
  refine sound_when hu (fun u hu => ?_)
  extract_lets c
  exact updPower_sound (resetTo_sound hu)

theorem execPreRegulatorStart_sound {vaux : Bool} (h : s.Sound K) : Answers K (execPreRegulatorStart vaux s) :=
  answers_run h (fun _ hu => sound_when hu (fun _ hu1 => stageRises_sound hu1))

theorem execShipWake_sound {byWake : Bool} (h : s.Sound K) : Answers K (execShipWake byWake s) := by
  refine answers_run h fun u hu => ?_
  refine sound_when hu (fun u hu => ?_)
  extract_lets s1 r
  have hs1 : s1.Sound K := updPower_sound (resetTo_sound hu)
  exact sound_of_foot hs1 rfl

theorem execLongPress_sound (h : s.Sound K) : Answers K (execLongPress s) :=
  answers_run h (fun _ hu => updPower_sound (resetTo_sound hu))

theorem execLongPressEnd_sound (h : s.Sound K) : Answers K (execLongPressEnd s) := by
  refine answers_run h fun u hu => ?_
  split
  · exact sound_ite (sound_of_foot hu rfl) hu
  · exact hu

/-! ### Survey -/

theorem surveyBegin_sound {p : SurveyPar} {t0 : Nat} {run_ : Bool} {tid : Option Nat} {scope : Nat × Nat} (h : s.Sound K) :
    (s.surveyBegin p t0 run_ tid scope).2.Sound K := by
  unfold State.surveyBegin
  extract_lets r r1 s1 v s2
  have hs1 : s1.Sound K := abandonStep_sound h
  have hs2 : s2.Sound K := sound_of_foot hs1 rfl
  exact sound_ite_snd (sound_of_foot h rfl) (switches_sound (setMode_sound hs2))

theorem startSurvey_sound {tag : Nat} {setBaseline : Bool} (h : s.Sound K) : (startSurvey tag setBaseline s).2.Sound K := by
  unfold startSurvey
  exact sound_ite_snd h (surveyBegin_sound h)

theorem execSurveyStart_sound {tag : Nat} {setBaseline : Bool} (h : s.Sound K) : Answers K (execSurveyStart tag setBaseline s) :=
  answers_runReg h (fun _ hu => startSurvey_sound hu)

theorem saveBase_sound (h : s.Sound K) : s.saveBase.Sound K := by
  unfold State.saveBase
  refine eraseBegins_sound ?_
  exact { h with dataArea := fun hk => mwrite_wf _ _ _ _ (filter_wf _ _ (h.dataArea hk)) }

theorem baseSave_sound (h : s.Sound K) : (baseSave s).2.Sound K := by
  unfold baseSave
  exact sound_ite_snd h (saveBase_sound h)

theorem execBaseSave_sound (h : s.Sound K) : Answers K (execBaseSave s) := answers_runReg h (fun _ hu => baseSave_sound hu)

theorem readBase_sound (h : s.Sound K) : (readBase s).2.2.Sound K := by
  unfold readBase
  exact sound_ite_snd_snd h (sound_of_foot h rfl)

theorem writeBase_sound {v : Nat} (h : s.Sound K) : (writeBase v s).2.Sound K := by
  unfold writeBase
  extract_lets area r
  exact sound_ite_snd h (sound_ite_snd h (sound_of_foot h rfl))

theorem execBaseDataRead_sound (h : s.Sound K) : Answers K (execBaseDataRead s) := by
  refine answers_run h fun u hu => ?_
  refine sound_ite (sound_of_foot hu rfl) (sound_ite (sound_of_foot hu rfl) ?_)
  split
  · rename_i _ _ _ _ he1_4
    exact answer_sound (sound_of_triple he1_4 (readBase_sound hu))

theorem execBaseDataWrite_sound {v : Nat} (h : s.Sound K) : Answers K (execBaseDataWrite v s) :=
  answers_runReg h (fun _ hu => writeBase_sound hu)

theorem surveyOver_sound (h : s.Sound K) : s.surveyOver.Sound K := by
  unfold State.surveyOver
  extract_lets r s1
  have hs1 : s1.Sound K := sound_of_foot h rfl
  exact switches_sound (sound_when hs1 (fun _ hu => setMode_sound hu))

theorem surveyComplete_sound (h : s.Sound K) : s.surveyComplete.Sound K := by
  unfold State.surveyComplete
  extract_lets r s1
  have hs1 : s1.Sound K := sound_ite (saveBase_sound (sound_of_foot h rfl)) h
  exact surveyOver_sound (endSurvey_sound hs1)

theorem surveyLast_sound (h : s.Sound K) : s.surveyLast.Sound K := by
  unfold State.surveyLast
  exact sound_ite (surveyComplete_sound h) (switches_sound (sound_of_foot h rfl))

theorem surveyClosed_sound (h : s.Sound K) : s.surveyClosed.Sound K := by
  unfold State.surveyClosed
  split
  · exact surveyComplete_sound h
  · exact closeBlock_sound h
  · exact h

theorem stopSurvey_sound (h : s.Sound K) : (stopSurvey s).2.Sound K := by
  unfold stopSurvey
  exact sound_ite_snd (endSurvey_sound h) h

theorem execSurveyStop_sound (h : s.Sound K) : Answers K (execSurveyStop s) :=
  answers_runL h (fun _ hu => regOp_sound hu (fun _ hu1 => stopSurvey_sound hu1))

theorem execSurveyStopped_sound (h : s.Sound K) : Answers K (execSurveyStopped s) :=
  answers_runCore h (fun _ hu => sound_when hu (fun _ hu1 => surveyOver_sound hu1))

theorem surveyRunStart_sound {st : Nat} (h : s.Sound K) : (s.surveyRunStart st).Sound K := by
  unfold State.surveyRunStart
  extract_lets v r
  exact switches_sound (noteExcite_sound (sound_of_foot h rfl))

theorem execSurveyRunStart_sound (h : s.Sound K) : Answers K (execSurveyRunStart s) := by
  refine answers_runCore h fun u hu => ?_
  split
  · exact sound_ite (surveyRunStart_sound hu) hu
  · exact hu

theorem toggle_sound (h : s.Sound K) : s.toggle.Sound K := by
  unfold State.toggle
  exact switches_sound (sound_of_foot h rfl)

theorem execExcitationToggle_sound (h : s.Sound K) : Answers K (execExcitationToggle s) := by
  refine answers_runCore h fun u hu => ?_
  extract_lets v
  split
  · exact sound_ite (toggle_sound hu) hu
  · exact hu

theorem publish_sound (h : s.Sound K) : s.publish.Sound K := by
  unfold State.publish
  extract_lets v s1
  have hs1 : s1.Sound K := sound_of_foot h rfl
  split
  · exact h
  · extract_lets pl f
    exact sound_ite (spread_sound hs1) (sendTo_sound hs1)

theorem publishOutput_sound {st t : Nat} {code : Int} {clamp : Bool} (h : s.Sound K) :
    (s.publishOutput st t code clamp).Sound K := by
  unfold State.publishOutput
  extract_lets s1 r s2 v q s3
  have hs1 : s1.Sound K := publish_sound h
  have hs2 : s2.Sound K := sound_ite (sound_of_foot hs1 rfl) h
  have hs3 : s3.Sound K := sound_of_foot hs2 rfl
  exact sound_ite (publish_sound hs3) hs3

theorem lockinJob_sound {st : Nat} (h : s.Sound K) : (s.lockinJob st).Sound K := by
  unfold State.lockinJob
  extract_lets v s1 j r
  have hs1 : s1.Sound K := sound_of_foot h rfl
  exact sound_ite hs1 (raiseJob_sound (sound_of_foot hs1 rfl))

theorem lockinRaise_sound (h : s.Sound K) : s.lockinRaise.Sound K := by
  unfold State.lockinRaise
  split
  · exact h
  · exact lockinJob_sound h

theorem lockinLate_sound (h : s.Sound K) : s.lockinLate.Sound K := by
  unfold State.lockinLate
  split
  · exact sound_ite h (lockinJob_sound h)
  · exact h

theorem surveyOutput_sound {c : Nat} {raw : RawCodes} {unsettled : List Nat} (h : s.Sound K) :
    (s.surveyOutput c raw unsettled).Sound K := by
  unfold State.surveyOutput
  extract_lets v k t adj flags o s1
  have hs1 : s1.Sound K := sound_of_foot h rfl
  split
  · exact h
  · extract_lets inWin
    exact sound_ite h (lockinRaise_sound (sound_ite (publishOutput_sound hs1) hs1))

theorem takeCurrents_sound {pl : List Byte} (h : s.Sound K) : (s.takeCurrents pl).Sound K := by
  unfold State.takeCurrents
  extract_lets v c k m clamp new
  exact sound_ite h (lockinRaise_sound (sound_of_foot h rfl))

theorem surveyEntry_sound {q : LockJob} {n m nk w pc per total : Nat} (h : s.Sound K) :
    (s.surveyEntry q n m nk w pc per total).2.2.Sound K := by
  unfold State.surveyEntry
  extract_lets v l miss fl clamp invalid a lowI z temps
  split
  · rename_i _ _ _ he1_3
    extract_lets lowS base
    split
    · rename_i _ _ _ _ he3_4
      extract_lets flags
      split
      · rename_i _ _ _ he5_3
        extract_lets e
        refine sound_of_pair he5_3 (sound_ite_snd (took_sound (sound_of_triple he3_4 ?_)) (sound_of_triple he3_4 ?_))
        · split
          · refine sound_of_pair he1_3 ?_
            split
            · exact h
            · exact sound_ite h (sound_of_foot h rfl)
          · split
            · refine sound_of_pair he1_3 ?_
              split
              · exact h
              · exact sound_ite h (sound_of_foot h rfl)
            · refine took_sound (sound_of_pair he1_3 ?_)
              split
              · exact h
              · exact sound_ite h (sound_of_foot h rfl)
        · split
          · refine sound_of_pair he1_3 ?_
            split
            · exact h
            · exact sound_ite h (sound_of_foot h rfl)
          · split
            · refine sound_of_pair he1_3 ?_
              split
              · exact h
              · exact sound_ite h (sound_of_foot h rfl)
            · refine took_sound (sound_of_pair he1_3 ?_)
              split
              · exact h
              · exact sound_ite h (sound_of_foot h rfl)

theorem lockin_sound {q : LockJob} (h : s.Sound K) : (s.lockin q).Sound K := by
  unfold State.lockin
  extract_lets p k m w total cells r s1 none_ amp s2 rec_ r1
  have hr : r.2.2.Sound K := by
    unfold r
    refine sound_foldl_snd_snd h (fun u x0 hu => ?_)
    split
    · rename_i _ _ _ _ he2_4
      exact sound_of_triple he2_4 (surveyEntry_sound hu)
  have hs1 : s1.Sound K := hr
  have hs2 : s2.Sound K := sound_ite (sound_of_foot hs1 rfl) hs1
  exact sound_of_foot hs2 rfl

theorem lockinLeaves_sound {st : Nat} {failed : Bool} (h : s.Sound K) : (s.lockinLeaves st failed).Sound K := by
  unfold State.lockinLeaves
  extract_lets r
  split
  · exact h
  · extract_lets s1 s2
    have hs1 : s1.Sound K := sound_of_foot h rfl
    have hs2 : s2.Sound K := sound_ite hs1 (lockin_sound hs1)
    exact sound_ite (surveyClosed_sound hs2) hs2

theorem surveyRunEnd_sound {e : Nat} (h : s.Sound K) : (s.surveyRunEnd e).Sound K := by
  unfold State.surveyRunEnd
  extract_lets s1 v s2 r
  have hs1 : s1.Sound K := publish_sound (lockinLate_sound h)
  have hs2 : s2.Sound K := noteExcite_sound (sound_of_foot hs1 rfl)
  exact sound_ite (switches_sound (sound_of_foot hs2 rfl)) (sound_ite (switches_sound (sound_of_foot hs2 rfl)) (surveyLast_sound hs2))

theorem execSurveyRunEnd_sound (h : s.Sound K) : Answers K (execSurveyRunEnd s) := by
  refine answers_runCoreL h fun u hu => ?_
  split
  · extract_lets e
    exact sound_ite (surveyRunEnd_sound hu) hu
  · exact hu

/-! ### Proof -/

theorem refCheck_sound {t : Nat} {uv : Int} (h : s.Sound K) : (s.refCheck t uv).Sound K := by
  unfold State.refCheck
  extract_lets bad n drift r new r1
  have hnew : new.Sound K := sound_of_foot h rfl
  have hr1 : r1.Sound K := raiseLevel_sound hnew
  exact sound_ite (sound_of_foot hr1 rfl) hr1

theorem foundStuck_sound {n : Nat} (h : s.Sound K) : (s.foundStuck n).Sound K := by
  unfold State.foundStuck
  exact detail_sound (raise_sound (updCell_sound h))

theorem mirrorCheck_sound {n : Nat} (h : s.Sound K) : (s.mirrorCheck n).Sound K := by
  unfold State.mirrorCheck
  extract_lets c k s1
  have hs1 : s1.Sound K := updCell_sound h
  exact sound_ite (sound_ite (foundStuck_sound hs1) hs1) (updCell_sound h)

theorem thermal_sound {temps : List Int} (h : s.Sound K) : (s.thermal temps).Sound K := by
  unfold State.thermal
  extract_lets ts hot cold item r new
  have hnew : new.Sound K := sound_of_foot h rfl
  exact raiseLevel_sound hnew

theorem roundLimits_sound {r : ProofRound} (h : s.Sound K) : (s.roundLimits r).Sound K := by
  unfold State.roundLimits
  extract_lets before s1
  have hs1 : s1.Sound K := sound_foldl h (fun _ _ hu => evalCell_sound hu)
  exact sound_ite h (limitReport_sound hs1)

theorem takeSamples_sound {p : ProofRead} {lost : List Nat} (h : s.Sound K) : (s.takeSamples p lost).Sound K := by
  unfold State.takeSamples
  exact mapCells_sound h

theorem proofRound_sound {p : ProofRead} (h : s.Sound K) : (s.proofRound p).Sound K := by
  unfold State.proofRound
  extract_lets x lost came s1 r r1 r2 s2 s3 s4 s5 r3 s6 s7 s8
  have hs1 : s1.Sound K := takeSamples_sound h
  clear_value s1 came
  have hs2 : s2.Sound K := sound_of_foot hs1 rfl
  clear_value s2
  have hs3 : s3.Sound K := sound_foldl hs2 fun _ _ hu => mirrorCheck_sound hu
  have hs4 : s4.Sound K := sound_foldl hs3 fun _ _ hu => refCheck_sound hu
  clear_value s4
  have hs5 : s5.Sound K := thermal_sound hs4
  clear_value s5
  have hs6 : s6.Sound K := sound_of_foot hs5 rfl
  clear_value s6
  have hs7 : s7.Sound K := sound_ite (detail_sound (raise_sound hs6)) hs6
  clear_value s7
  exact balanceDone_sound (switches_sound (roundLimits_sound hs7))

theorem execProofRound_sound {r : ProofRead} (h : s.Sound K) : Answers K (execProofRound r s) :=
  answers_runConvL h (fun _ hu => sound_when hu (fun _ hu1 => proofRound_sound hu1))

theorem crossCheck_sound {t : Nat} {ppb : Int} (h : s.Sound K) : (s.crossCheck t ppb).Sound K := by
  unfold State.crossCheck
  extract_lets bad n drift r new r1
  have hnew : new.Sound K := sound_of_foot h rfl
  have hr1 : r1.Sound K := raiseLevel_sound hnew
  exact sound_ite (sound_of_foot hr1 rfl) hr1

theorem crossRun_sound {t : Nat} {ppb : Int} (h : s.Sound K) : (s.crossRun t ppb).Sound K := by
  unfold State.crossRun
  exact crossCheck_sound (sound_of_foot h rfl)

theorem execWitnessCrossCheck_sound {tier : Nat} {ppb : Int} (h : s.Sound K) : Answers K (execWitnessCrossCheck tier ppb s) :=
  answers_runCore h (fun _ hu => sound_when hu (fun _ hu1 => crossRun_sound hu1))

theorem swDoneWith_sound {n : Nat} (h : s.Sound K) : (s.swDoneWith n).Sound K := by
  unfold State.swDoneWith
  extract_lets done r
  exact sound_ite (sound_of_foot h rfl) (sound_of_foot h rfl)

theorem switchStep_sound {n : Nat} (h : s.Sound K) : (s.switchStep n).Sound K := by
  unfold State.switchStep
  exact sound_ite (swDoneWith_sound h) (switches_sound (sound_of_foot h rfl))

theorem execSwitchOnTestStep_sound {cell : Nat} (h : s.Sound K) : Answers K (execSwitchOnTestStep cell s) :=
  answers_runCore h (fun _ hu => sound_when hu (fun _ hu1 => switchStep_sound hu1))

theorem writePath_sound {n path on : Nat} (h : s.Sound K) : (s.writePath n path on).Sound K := by
  unfold State.writePath
  exact updCell_sound h

theorem switchFault_sound {n : Nat} (h : s.Sound K) : (s.switchFault n).Sound K := by
  unfold State.switchFault
  exact detail_sound (raise_sound (updCell_sound h))

theorem switchResult_sound {n ua uv : Nat} (h : s.Sound K) : (s.switchResult n ua uv).Sound K := by
  unfold State.switchResult
  extract_lets v path on old r
  exact sound_ite (updCell_sound (switchFault_sound h)) (sound_ite (writePath_sound (switchFault_sound h)) (sound_ite (writePath_sound
    (ledger_sound (sound_of_foot h rfl))) (writePath_sound h)))

theorem switchEnd_sound {n ua uv : Nat} (h : s.Sound K) : (s.switchEnd n ua uv).Sound K := by
  unfold State.switchEnd
  extract_lets st after
  have hafter (u : State) (hu : u.Sound K) : (after u).Sound K := sound_of_foot hu rfl
  clear_value after
  exact sound_ite (balanceDone_sound (switches_sound (hafter _ h))) (balanceDone_sound (switches_sound (swDoneWith_sound (hafter _
    (switchResult_sound h)))))

theorem execSwitchOnTestEnd_sound {cell currentUa vswUv : Nat} (h : s.Sound K) :
    Answers K (execSwitchOnTestEnd cell currentUa vswUv s) :=
  answers_runCore h (fun _ hu => sound_when hu (fun _ hu1 => switchEnd_sound hu1))

theorem owDoneWith_sound {k : Nat} (h : s.Sound K) : (s.owDoneWith k).Sound K := by
  unfold State.owDoneWith
  extract_lets done r
  exact sound_ite (sound_of_foot h rfl) (sound_of_foot h rfl)

theorem execOpenWireTestStep_sound {k : Nat} (h : s.Sound K) : Answers K (execOpenWireTestStep k s) :=
  answers_runCore h (fun _ hu => sound_when hu (fun _ hu1 => sound_of_foot hu1 rfl))

theorem confirmWire_sound {j : Nat} (h : s.Sound K) : (s.confirmWire j).Sound K := by
  unfold State.confirmWire
  extract_lets r new
  have hnew : new.Sound K := sound_of_foot h rfl
  exact sound_ite h (detail_sound (raiseLevel_sound hnew))

theorem wireEnd_sound {k : Nat} {fall below above : Int} (h : s.Sound K) : (s.wireEnd k fall below above).Sound K := by
  unfold State.wireEnd
  extract_lets st gone s1 prev rest open_ r ws sure s2 s3
  have hs1 : s1.Sound K := sound_of_foot h rfl
  have hs2 : s2.Sound K := sound_of_foot hs1 rfl
  have hs3 : s3.Sound K := sound_ite hs1 (sound_ite (owDoneWith_sound (sound_of_foot hs1 rfl)) (sound_ite hs2 (owDoneWith_sound
    (sound_foldl hs2 (fun _ _ hu => confirmWire_sound hu)))))
  exact balanceDone_sound (switches_sound hs3)

theorem execOpenWireTestEnd_sound {k : Nat} {fallUv riseBelowUv riseAboveUv : Int} (h : s.Sound K) :
    Answers K (execOpenWireTestEnd k fallUv riseBelowUv riseAboveUv s) :=
  answers_runCore h (fun _ hu => sound_when hu (fun _ hu1 => wireEnd_sound hu1))

theorem harnessStart_sound {k : Nat} (h : s.Sound K) : (s.harnessStart k).Sound K := by
  unfold State.harnessStart
  extract_lets s1 r
  have hs1 : s1.Sound K := sound_of_foot h rfl
  exact switches_sound (sound_of_foot hs1 rfl)

theorem harnessOutput_sound {k st : Nat} {codes : List Int} {bbar : Nat} (h : s.Sound K) :
    (s.harnessOutput k st codes bbar).Sound K := by
  unfold State.harnessOutput
  extract_lets t w r
  exact sound_ite h (sound_of_foot h rfl)

theorem harnessEnd_sound {k st : Nat} (h : s.Sound K) : (s.harnessEnd k st).Sound K := by
  unfold State.harnessEnd
  extract_lets e s1 r
  have hs1 : s1.Sound K := sound_of_foot h rfl
  exact switches_sound (sound_of_foot hs1 rfl)

theorem execHarnessCell_sound {k : Nat} {below own above : Int} {bbar : Nat} (h : s.Sound K) :
    Answers K (execHarnessCell k below own above bbar s) := by
  refine answers_runCore h fun u hu => ?_
  split
  · exact sound_ite (harnessEnd_sound hu) (harnessOutput_sound hu)
  · exact sound_when hu (fun _ hu => harnessStart_sound hu)

theorem harnessPass_sound (h : s.Sound K) : s.harnessPass.Sound K := by
  unfold State.harnessPass
  extract_lets tab high r s1
  have hs1 : s1.Sound K := sound_of_foot h rfl
  exact sound_foldl hs1 (fun _ _ hu => ledger_sound hu)

theorem execHarnessPassComplete_sound (h : s.Sound K) : Answers K (execHarnessPassComplete s) :=
  answers_runCore h (fun _ hu => sound_when hu (fun _ hu1 => harnessPass_sound hu1))

theorem setOvr_sound {check : Nat} (h : s.Sound K) : (s.setOvr check).Sound K := by
  unfold State.setOvr
  exact sound_ite (sound_of_foot h rfl) (sound_ite (sound_of_foot h rfl) (sound_of_foot h rfl))

theorem testOverdue_sound {check : Nat} (h : s.Sound K) : (s.testOverdue check).Sound K := by
  unfold State.testOverdue
  extract_lets named
  split
  · extract_lets s1 r new
    have hs1 : s1.Sound K := sound_ite (sound_ite (ledger_sound (setOvr_sound h)) (took_sound (ledger_sound (setOvr_sound h)))) h
    have hnew : new.Sound K := sound_ite (sound_of_foot hs1 rfl) (sound_of_foot hs1 rfl)
    exact sound_ite (raiseLevel_sound (sound_of_foot hnew rfl)) hs1

theorem execTestOverdue_sound {check : Nat} (h : s.Sound K) : Answers K (execTestOverdue check s) :=
  answers_runCore h (fun _ hu => sound_when hu (fun _ hu1 => testOverdue_sound hu1))

theorem harnessNow_sound (h : s.Sound K) : (harnessNow s).2.Sound K := by
  unfold harnessNow
  exact sound_when h (fun _ hu => sound_of_foot hu rfl)

theorem switchNow_sound (h : s.Sound K) : (switchNow s).2.Sound K := by
  unfold switchNow
  exact sound_when h (fun _ hu => sound_of_foot hu rfl)

theorem execHarnessNow_sound (h : s.Sound K) : Answers K (execHarnessNow s) := answers_runReg h (fun _ hu => harnessNow_sound hu)

theorem execSwitchNow_sound (h : s.Sound K) : Answers K (execSwitchNow s) := answers_runReg h (fun _ hu => switchNow_sound hu)

theorem stepTable_sound (h : s.Sound K) : (stepTable s).Sound K := sound_of_foot h rfl

theorem readTable_sound (h : s.Sound K) : (readTable s).2.Sound K := by
  unfold readTable
  exact sound_of_foot h rfl

theorem writeTable_sound {v : Nat} (h : s.Sound K) : (writeTable v s).2.Sound K := by
  unfold writeTable
  extract_lets i ok r p
  exact sound_ite_snd h (sound_ite_snd (sound_of_foot h rfl) (sound_ite_snd (stepTable_sound (updCell_sound h)) (sound_ite_snd
    (stepTable_sound (updCell_sound h)) h)))

theorem execTableDataRead_sound (h : s.Sound K) : Answers K (execTableDataRead s) :=
  answers_runWindow h (fun _ hu => readTable_sound hu)

theorem execTableDataWrite_sound {v : Nat} (h : s.Sound K) : Answers K (execTableDataWrite v s) :=
  answers_runReg h (fun _ hu => writeTable_sound hu)

theorem lampFrame_sound {item cause : Nat} (h : s.Sound K) : (s.lampFrame item cause).Sound K := by
  unfold State.lampFrame
  split
  · dsimp only
    exact emit_sound (updPort_sound (crierBit_sound (nextSup_sound h)))
  · exact emit_sound h

theorem lampRound_sound {samples aux : List Nat} {again : List (Nat × List Nat)} (h : s.Sound K) :
    (s.lampRound samples aux again).Sound K := by
  unfold State.lampRound
  dsimp only
  split
  · exact lampFrame_sound (sound_of_foot h rfl)
  · split
    · exact emit_sound (sound_of_foot h rfl)
    · exact sound_of_foot h rfl

theorem execLamplighterRound_sound {samples aux : List Nat} {again : List (Nat × List Nat)} (h : s.Sound K) :
    Answers K (execLamplighterRound samples aux again s) :=
  answers_runCore h (fun _ hu => sound_when hu (fun _ hu1 => lampRound_sound hu1))

/-! ### Glean -/

theorem requestJob_sound {kind : JobKind} {key : Nat} (h : s.Sound K) : (s.requestJob kind key).Sound K := by
  unfold State.requestJob
  exact sound_ite (sound_of_foot h rfl) (raiseJob_sound h)

theorem execJobAdmission_sound {kind : JobKind} {key : Nat} (h : s.Sound K) : Answers K (execJobAdmission kind key s) :=
  answers_run h (fun _ hu => sound_when hu (fun _ hu1 => requestJob_sound hu1))

theorem takeFrom_sound {g k : Nat} {j : Job} (h : s.Sound K) : (s.takeFrom g k j).Sound K := by
  unfold State.takeFrom
  extract_lets s1 s2 r s3
  have hs1 : s1.Sound K := updGleaner_sound h fun q => .inr (by rw [List.length_drop]; exact Nat.sub_le _ _)
  have hs2 : s2.Sound K := updGleaner_sound hs1 fun q => .inr (Nat.le_refl _)
  have hs3 : s3.Sound K := sound_of_foot hs2 rfl
  exact admitAll_sound (sound_ite hs3 (sound_of_foot hs3 rfl))

theorem take_sound {g : Nat} (h : s.Sound K) : (s.take g).Sound K := by
  unfold State.take
  refine sound_ite h ?_
  split
  · exact h
  · split
    · exact h
    · split
      · exact takeFrom_sound h
      · extract_lets t r
        have ht : t.Sound K := breakHit_sound h
        exact sound_ite (sound_of_foot ht rfl) (takeFrom_sound ht)

theorem execGlean_sound {g : Nat} (h : s.Sound K) : Answers K (execGlean g s) :=
  answers_run h (fun _ hu => sound_when hu (fun _ hu1 => take_sound hu1))

theorem moveJobs_sound {i : Nat} {andRunning : Bool} (h : s.Sound K) : (s.moveJobs i andRunning).Sound K :=
  admitAll_sound (sound_mk (sound_foldl h fun _ _ hu => updGleaner_sound hu fun _ => .inl (Nat.zero_le _)) rfl)

theorem islandFail_sound {i : Nat} (h : s.Sound K) : (s.islandFail i).Sound K := by
  unfold State.islandFail
  exact sound_ite h (moveJobs_sound (sound_of_foot h rfl))

theorem islandLeaves_sound {i : Nat} (h : s.Sound K) : (s.islandLeaves i).Sound K := by
  unfold State.islandLeaves
  extract_lets busy r
  exact sound_ite (moveJobs_sound (sound_of_foot h rfl)) h

theorem execIslandDisable_sound {i : Nat} (h : s.Sound K) : Answers K (execIslandDisable i s) :=
  answers_run h (fun _ hu => islandLeaves_sound hu)

theorem clockEffect_sound {b : Nat} (h : s.Sound K) : (s.clockEffect b).Sound K := by
  unfold State.clockEffect
  exact sound_ite (sound_of_foot h rfl) (sound_ite (sound_of_foot h rfl) (sound_ite (sound_of_foot h rfl) (sound_ite (sound_of_foot h rfl)
    (sound_ite (islandFail_sound h) h))))

theorem clockWindow_sound {b count : Nat} (h : s.Sound K) : (s.clockWindow b count).Sound K := by
  unfold State.clockWindow
  extract_lets s1 r s2 s3 r1
  have hs1 : s1.Sound K := sound_ite h (sound_of_foot h rfl)
  have hs2 : s2.Sound K := sound_ite (trainPcie_sound (sound_of_foot h rfl)) h
  have hs3 : s3.Sound K := sound_of_foot hs2 rfl
  split
  · exact h
  · exact sound_ite (clockEffect_sound (raiseLevel_sound hs1)) (sound_ite (sound_ite hs2 (sound_ite (sound_of_foot hs3 rfl) hs3)) h)

theorem execClockMonitorWindow_sound {bit count : Nat} (h : s.Sound K) : Answers K (execClockMonitorWindow bit count s) :=
  answers_runL h (fun _ hu => sound_when hu (fun _ hu1 => clockWindow_sound hu1))

theorem discardRecs_sound {rs : List Rec} (h : s.Sound K) : (s.discardRecs rs).Sound K := by
  unfold State.discardRecs
  refine sound_ite h (raise_sound ?_)
  exact { h with live := fun hk => (List.length_filter_le _ _).trans (h.live hk)
                 held := fun hk => (List.length_filter_le _ _).trans (h.held hk) }

theorem memberResult_sound {p : Prog} (h : s.Sound K) : (s.memberResult p).2.Sound K := by
  unfold State.memberResult
  extract_lets pos r gather
  split
  · exact h
  · split
    · rename_i _ _ _ _ he2_4
      extract_lets any_
      exact sound_of_triple he2_4 (runSteps_sound h)

theorem acceptQuery_sound {tag : Nat} {port : Option Nat} {req : Req} {pos depth : Nat} {owes : Option (Nat × Nat × Nat × Nat)}
    (h : s.Sound K) :
    (s.acceptQuery tag port req pos depth owes).Sound K := by
  unfold State.acceptQuery
  exact sound_ite (contribute_sound (payCredits_sound h)) (raiseJob_sound (sound_of_foot h rfl))

theorem missingPart_sound {ps : List Nat} (h : s.Sound K) : (s.missingPart ps).2.Sound K := by
  unfold State.missingPart
  exact sound_of_foot h rfl

theorem memberLeaves_sound {tag : Nat} {failed : Bool} (h : s.Sound K) : (s.memberLeaves tag failed).Sound K := by
  unfold State.memberLeaves
  extract_lets r
  split
  · exact h
  · extract_lets s1
    have hs1 : s1.Sound K := sound_of_foot h rfl
    split
    · extract_lets bad s2
      have hs2 : s2.Sound K := discardRecs_sound hs1
      split
      · rename_i _ _ _ he5_3
        exact contribute_sound (sound_of_pair he5_3 (sound_ite_snd (missingPart_sound hs2) (memberResult_sound hs2)))
    · exact hs1

theorem legacyGive_sound {tag src : Nat} {c : Contribution} {req : Req} (h : s.Sound K) :
    (s.legacyGive tag src c req).Sound K := by
  unfold State.legacyGive
  extract_lets port
  exact contribute_sound h

theorem acceptLegacy_sound {tag src : Nat} {req : Req} {ps : List Nat} (h : s.Sound K) :
    (s.acceptLegacy tag src req ps).Sound K := by
  unfold State.acceptLegacy
  exact sound_ite (legacyGive_sound h) (raiseJob_sound (sound_of_foot h rfl))

/-- The records of a legacy device are read in the place of the device's own; the device keeps its own. -/
theorem legacyQuery_sound {p : Prog} {acc : Contribution} {pos : Nat} (h : s.Sound K) : (s.legacyQuery p acc pos).2.Sound K := by
  unfold State.legacyQuery
  extract_lets rs t bad r s1
  split
  · exact sound_of_foot h rfl
  · exact missingPart_sound (ps := [pos]) (raise_sound (sound_of_foot h rfl))

theorem legacyLeaves_sound {tag : Nat} {failed : Bool} (h : s.Sound K) : (s.legacyLeaves tag failed).Sound K := by
  unfold State.legacyLeaves
  extract_lets r
  split
  · exact h
  · extract_lets s1
    have hs1 : s1.Sound K := sound_of_foot h rfl
    split
    · split
      · rename_i _ _ _ he4_3
        exact legacyGive_sound (sound_of_pair he4_3 (sound_ite_snd (missingPart_sound hs1) (sound_foldl_snd hs1
          (fun _ _ hu => legacyQuery_sound hu))))
    · exact hs1

theorem deliverSegment_sound {bs : List Byte} (h : s.Sound K) : (s.deliverSegment bs).Sound K := by
  unfold State.deliverSegment
  extract_lets r s1 s2 r1
  have hs1 : s1.Sound K := sound_of_foot h rfl
  have hs2 : s2.Sound K := blockIn_sound hs1
  exact sound_ite (sound_of_foot hs2 rfl) (sendBytes_sound hs1)

theorem buildSegment_sound (h : s.Sound K) : s.buildSegment.Sound K := by
  unfold State.buildSegment
  extract_lets xs trip
  exact deliverSegment_sound h

theorem loseExposure_sound (h : s.Sound K) : s.loseExposure.Sound K := by
  unfold State.loseExposure
  extract_lets tag
  split
  · rename_i _ _ _ he1_3
    exact contribute_sound (discardExposure_sound (sound_of_pair he1_3 (missingPart_sound h)))

theorem checkLeaves_sound {tag : Nat} {failed : Bool} (h : s.Sound K) : (s.checkLeaves tag failed).Sound K := by
  unfold State.checkLeaves
  extract_lets r
  split
  · exact h
  · extract_lets s1
    have hs1 : s1.Sound K := sound_of_foot h rfl
    split
    · extract_lets s2 ended c o s3 s4
      have hs2 : s2.Sound K := sound_ite (flashErr_sound hs1) (sound_ite (raise_sound hs1) hs1)
      have hended : ended.Sound K := updChk_sound hs2
      have hs3 : s3.Sound K := updChk_sound hs2
      have hs4 : s4.Sound K := sound_ite hs3 (raise_sound hs3)
      refine sound_ite ?_ (sound_ite (respond_sound hended) (respond_sound hs4))
      split
      · rename_i _ _ _ he6_3
        exact contribute_sound (sound_of_pair he6_3 (missingPart_sound hended))
    · exact hs1

theorem acceptHeld_sound {pos : Nat} {bytes : List Byte} (h : s.Sound K) : (s.acceptHeld pos bytes).Sound K := by
  unfold State.acceptHeld
  exact sound_ite (raise_sound h) (sound_ite (tellHeld_sound (sound_of_foot h rfl)) (sound_of_foot h rfl))

theorem deliverHeld_sound (h : s.Sound K) : s.deliverHeld.Sound K := by
  unfold State.deliverHeld
  refine sound_ite h (sound_foldl { h with held := fun _ => Nat.zero_le _ } fun u r hu => ?_)
  exact raiseForward_sound (unsolTag_sound hu)

theorem forwardLeaves_sound {tag : Nat} {failed : Bool} (h : s.Sound K) : (s.forwardLeaves tag failed).Sound K := by
  unfold State.forwardLeaves
  extract_lets r
  split
  · exact h
  · extract_lets s1
    have hs1 : s1.Sound K := sound_of_foot h rfl
    refine sound_ite hs1 ?_
    split
    · exact sound_ite (raise_sound hs1) (sound_ite (acceptHeld_sound hs1) (sendTo_sound hs1))
    · exact sound_foldl hs1 (fun _ _ hu => sendTo_sound hu)

theorem jobLeaves_sound {f : Finished} (h : s.Sound K) : (s.jobLeaves f).Sound K := by
  unfold State.jobLeaves
  split
  · exact sound_ite (memberLeaves_sound h) (legacyLeaves_sound h)
  · exact collectorLeaves_sound h
  · exact lockinLeaves_sound h
  · exact checkLeaves_sound h
  · exact sound_ite h (sound_ite (loseExposure_sound h) (buildSegment_sound h))
  · exact stepLeaves_sound h
  · exact forwardLeaves_sound h

theorem release_sound (h : s.Sound K) : s.release.Sound K := by
  unfold State.release
  extract_lets go s1
  have hgo (u : State) (x : Nat) (hu : u.Sound K) : (go u x).Sound K := by
    unfold go
    split
    · exact hu
    · exact admitAll_sound (jobLeaves_sound (sound_of_foot hu rfl))
  exact sound_ite h (sound_foldl (sound_foldl h hgo) fun _ _ hu => closeHarvest_sound hu)

theorem releaseStepped_sound (h : s.Sound K) : s.releaseStepped.Sound K := by
  unfold State.releaseStepped
  extract_lets r
  split
  · exact sound_ite (jobLeaves_sound (sound_of_foot h rfl)) h
  · exact h

theorem answers_runG {f : State → State} (h : s.Sound K) (hf : ∀ u : State, u.Sound K → (f u).Sound K) : Answers K (runG f s) :=
  answers_runL h fun u hu => release_sound (flush_sound (hf u hu))

theorem answers_runCoreG {f : State → State} (h : s.Sound K) (hf : ∀ u : State, u.Sound K → (f u).Sound K) : Answers K (runCoreG f s) :=
  answers_runCoreL h fun u hu => release_sound (flush_sound (hf u hu))

theorem finishJob_sound {g : Nat} {badBank : Option Nat} (h : s.Sound K) : (s.finishJob g badBank).Sound K := by
  unfold State.finishJob
  extract_lets s1 s2 r
  have hs1 : s1.Sound K := updGleaner_sound h fun _ => .inr (Nat.le_refl _)
  have hs2 : s2.Sound K := by
    unfold s2
    split
    · exact raise_sound hs1
    · exact hs1
  split
  · exact h
  · exact sound_ite (admitAll_sound (stepLeaves_sound hs2)) (sound_of_foot hs2 rfl)

theorem execJobFinish_sound {g : Nat} {badBank : Option Nat} (h : s.Sound K) : Answers K (execJobFinish g badBank s) :=
  answers_runCoreG h (fun _ hu => release_sound (finishJob_sound hu))

theorem lockinComplete_sound (h : s.Sound K) : s.lockinComplete.Sound K := by
  unfold State.lockinComplete
  extract_lets s1
  have hs1 : s1.Sound K := lockinRaise_sound h
  split
  · exact release_sound (finishJob_sound hs1)
  · exact hs1

theorem execLockinComplete_sound (h : s.Sound K) : Answers K (execLockinComplete s) :=
  answers_runCoreG h (fun _ hu => lockinComplete_sound hu)

theorem harvestTimeout_sound {tag : Nat} (h : s.Sound K) : (s.harvestTimeout tag).Sound K := by
  unfold State.harvestTimeout
  exact closeHarvest_sound (sound_of_foot h rfl)

theorem execHarvestContributorTimeout_sound {tid : Nat} (h : s.Sound K) : Answers K (execHarvestContributorTimeout tid s) :=
  answers_runCoreL h (fun _ hu => harvestTimeout_sound hu)

theorem sendPending_sound {tag dest : Nat} (h : s.Sound K) : (s.sendPending tag dest).Sound K := by
  unfold State.sendPending
  exact sendTo_sound h

theorem harvestPending_sound {tag : Nat} (h : s.Sound K) : (s.harvestPending tag).Sound K := by
  unfold State.harvestPending
  split
  · exact h
  · exact sound_ite h (sendPending_sound (sound_of_foot h rfl))

theorem execHarvestPendingTimer_sound {tid : Nat} (h : s.Sound K) : Answers K (execHarvestPendingTimer tid s) :=
  answers_runCoreL h (fun _ hu => harvestPending_sound hu)

theorem expoCapture_sound (h : s.Sound K) : s.expoCapture.Sound K := by
  unfold State.expoCapture
  extract_lets r
  split
  · exact sound_ite (sound_of_foot h rfl) h
  · exact h

theorem expoOutput_sound {c : Nat} {raw : RawCodes} {unsettled : List Nat} (h : s.Sound K) :
    (s.expoOutput c raw unsettled).Sound K := by
  unfold State.expoOutput
  extract_lets e t stale done_ is1 is2 clamp x
  exact sound_ite h (expoCapture_sound (sound_of_foot h rfl))

theorem execStreamOutput_sound {corner : Nat} {raw : RawCodes} {unsettled : List Nat} (h : s.Sound K) :
    Answers K (execStreamOutput corner raw unsettled s) :=
  answers_runL h (fun _ hu => sound_when hu (fun _ hu1 => expoOutput_sound (surveyOutput_sound hu1)))

theorem sendTrip_sound {t : Nat} (h : s.Sound K) : (s.sendTrip t).Sound K := by
  unfold State.sendTrip
  extract_lets f f1
  exact sound_ite (spread_sound h) (sendTo_sound h)

theorem thresholdTrip_sound (h : s.Sound K) : s.thresholdTrip.Sound K := by
  unfold State.thresholdTrip
  extract_lets r
  refine sound_ite h ?_
  split
  · exact h
  · exact sound_ite (sound_of_foot h rfl) (sendTrip_sound (expoCapture_sound (sound_of_foot h rfl)))

theorem execExposureThresholdTrip_sound (h : s.Sound K) : Answers K (execExposureThresholdTrip s) :=
  answers_runCoreL h (fun _ hu => thresholdTrip_sound hu)

theorem tripTime_sound {tag t : Nat} (h : s.Sound K) : (s.tripTime tag t).Sound K := by
  unfold State.tripTime
  extract_lets e
  exact sound_ite h (sound_ite (sound_of_foot h rfl) (expoCapture_sound (sound_of_foot h rfl)))

theorem freeze_sound (h : s.Sound K) : s.freeze.Sound K := by
  unfold State.freeze
  extract_lets r s1
  have hs1 : s1.Sound K := sound_of_foot h rfl
  split
  · exact sound_ite (sound_ite (buildSegment_sound hs1) (sound_ite (loseExposure_sound hs1) (raiseJob_sound hs1))) h
  · exact h

theorem execExposureFreeze_sound (h : s.Sound K) : Answers K (execExposureFreeze s) :=
  answers_runCoreL h (fun _ hu => freeze_sound hu)

theorem noTrigger_sound (h : s.Sound K) : s.noTrigger.Sound K := by
  unfold State.noTrigger
  extract_lets e v s1 w
  have hs1 : s1.Sound K := sound_of_foot h rfl
  exact sound_ite (deliverSegment_sound (sound_of_foot hs1 rfl)) h

theorem execExposureArmDeadline_sound (h : s.Sound K) : Answers K (execExposureArmDeadline s) :=
  answers_runCoreL h (fun _ hu => noTrigger_sound hu)

/-! ### TreeOps -/

theorem sendCut_sound {on top : Nat} (h : s.Sound K) : (s.sendCut on top).Sound K := by
  unfold State.sendCut
  exact sound_foldl h (fun _ _ hu => enqueue_sound hu)

theorem recut_sound {before : State} (h : s.Sound K) : (s.recut before).Sound K := by
  unfold State.recut
  extract_lets s1
  have hs1 : s1.Sound K := trackCut_sound h
  exact sound_ite (deliverHeld_sound (sendCut_sound hs1)) hs1

theorem sendReport_sound {walk : Nat} (h : s.Sound K) : (s.sendReport walk).Sound K := by
  unfold State.sendReport
  exact sendTo_sound h

theorem shareTopo_sound (h : s.Sound K) : s.shareTopo.Sound K := by
  unfold State.shareTopo
  extract_lets sbs
  exact sound_ite h (sound_foldl h (fun _ _ hu => sound_foldl hu (fun _ _ hu1 => sendTo_sound hu1)))

theorem enterTopo_sound {walk pos b uid hi src : Nat} (h : s.Sound K) :
    (s.enterTopo walk pos b uid hi src).Sound K := sound_of_foot h rfl

theorem setRoute_sound {lo hi port : Nat} {install reversal : Bool} (h : s.Sound K) :
    (s.setRoute lo hi port install reversal).Sound K := by
  unfold State.setRoute
  extract_lets before r rest s1 q s2 s3
  have hrest : rest.length ≤ s.tree.routes.length := List.length_filter_le _ _
  have hle (hk : K.room) : s.tree.routes.length ≤ 256 := h.routes hk
  refine recut_sound ?_
  unfold s3
  split
  · exact sound_ite (sound_of_foot h rfl) (sound_of_foot h rfl)
  · have hfewer : { s with tree := { s.tree with routes := rest } }.Sound K := { h with routes := fun hk => hrest.trans (hle hk) }
    refine sound_ite hfewer ?_
    split
    · exact h
    · rename_i hfull
      have hlen : (rest ++ [({ lo := lo, hi := hi, port := port } : Route)]).length ≤ 256 := by
        rw [List.length_append, List.length_singleton]
        omega
      have hs1 : s1.Sound K := { h with routes := fun _ => hlen }
      clear_value s1
      have hs2 : s2.Sound K := sound_ite (updPort_sound hs1) hs1
      clear_value s2
      refine sound_foldl hs2 fun u p hu => sound_ite hu (sound_foldl (updPort_sound hu) fun _ _ hv => enqueue_sound hv)

theorem routeAt_sound {x lo hi port : Nat} {install reversal : Bool} (h : s.Sound K) :
    (s.routeAt x lo hi port install reversal).Sound K := by
  unfold State.routeAt
  exact sound_ite (setRoute_sound h) (sendTo_sound h)

theorem rootAttach_sound {parent port uid : Nat} (h : s.Sound K) : (s.rootAttach parent port uid).Sound K := by
  unfold State.rootAttach
  extract_lets pos path s1 r s2 depth
  have hs1 : s1.Sound K := sound_foldl h (fun _ _ hu => routeAt_sound hu)
  have hs2 : s2.Sound K := sound_of_foot hs1 rfl
  exact sound_ite (event_sound (ledger_sound h)) (event_sound (sendTo_sound hs2))

theorem takeAttach_sound {parent port uid : Nat} (h : s.Sound K) : (s.takeAttach parent port uid).Sound K := by
  unfold State.takeAttach
  exact sound_ite (sound_of_foot h rfl) (rootAttach_sound h)

theorem offerPort_sound {p : Nat} (h : s.Sound K) : (s.offerPort p).Sound K := by
  unfold State.offerPort
  extract_lets q uid
  refine sound_ite h ?_
  split
  · exact enqueue_sound h
  · exact sound_ite (takeAttach_sound h) (sendTo_sound h)

theorem portUpOutside_sound {p : Nat} (h : s.Sound K) : (s.portUpOutside p).Sound K := by
  unfold State.portUpOutside
  extract_lets numbered
  exact sound_ite (offerPort_sound h) h

theorem chooseReroute_sound {c hi : Nat} (h : s.Sound K) : (s.chooseReroute c hi).2.Sound K := by
  unfold State.chooseReroute
  extract_lets inC home mine alts outs ins open_ free forced sure bits rest joined inner cands best
  exact sound_when h (fun _ hu => sound_of_foot hu rfl)

theorem applyReroute_sound {r : Reroute} {install : Bool} (h : s.Sound K) : (s.applyReroute r install).Sound K := by
  unfold State.applyReroute
  extract_lets s1 s11 up
  have hs1 : s1.Sound K := sound_foldl h (fun _ _ hu => routeAt_sound hu)
  have hs11 : s11.Sound K := sound_foldl hs1 (fun _ _ hu => routeAt_sound hu)
  exact sound_foldl hs11 (fun _ _ hu => routeAt_sound hu)

theorem endReroutes_sound {ends : Reroute → Bool} (h : s.Sound K) : (s.endReroutes ends).Sound K := by
  unfold State.endReroutes
  extract_lets rs s1 r s2
  have hs1 : s1.Sound K := sound_foldl h (fun _ _ hu => applyReroute_sound hu)
  have hs2 : s2.Sound K := sound_of_foot hs1 rfl
  exact sound_foldl hs2 (fun _ _ hu => sound_foldl hu (fun _ _ hu1 => routeAt_sound hu1))

theorem takeReport_sound {walk pos b uid hi src : Nat} (h : s.Sound K) : (s.takeReport walk pos b uid hi src).Sound K := by
  unfold State.takeReport
  extract_lets s1
  have hs1 : s1.Sound K := shareTopo_sound (enterTopo_sound (endReroutes_sound h))
  split
  · exact sound_ite (shareTopo_sound (sound_of_foot h rfl)) (event_sound (ledgerAt_sound hs1))
  · exact shareTopo_sound (sound_of_foot h rfl)

theorem addReroute_sound {r : Reroute} (h : s.Sound K) : (s.addReroute r).Sound K := sound_of_foot h rfl

theorem rerouteTo_sound {c hi : Nat} (h : s.Sound K) : (s.rerouteTo c hi).Sound K := by
  unfold State.rerouteTo
  refine sound_ite h ?_
  split
  · rename_i _ _ _ he1_3
    exact addReroute_sound (applyReroute_sound (sound_of_pair he1_3 (chooseReroute_sound h)))
  · rename_i _ _ he1_2
    exact sound_of_pair he1_2 (chooseReroute_sound h)

theorem rootLost_sound {sender : Nat} {child : Option Nat} {restored : Bool} {walk : Nat} (h : s.Sound K) :
    (s.rootLost sender child restored walk).Sound K := by
  unfold State.rootLost
  refine sound_ite (event_sound (endReroutes_sound h)) ?_
  extract_lets s1 r r1 s2 r2
  have hs1 : s1.Sound K := event_sound h
  clear_value s1
  have hs2 : s2.Sound K := sound_ite (sound_of_foot hs1 rfl) hs1
  clear_value s2
  split
  · exact hs2
  · have hs3 (l : List Tx) : { s2 with host := { s2.host with txs := l } }.Sound K := sound_of_foot hs2 rfl
    refine sound_ite (hs3 _) ?_
    split
    · exact hs3 _
    · exact rerouteTo_sound (hs3 _)

theorem sendLost_sound {p : Nat} {restored : Bool} {walk : Nat} (h : s.Sound K) : (s.sendLost p restored walk).Sound K := by
  unfold State.sendLost
  extract_lets child
  exact sound_ite (rootLost_sound h) (sendTo_sound h)

theorem updWalk_sound {f : WalkSt → WalkSt} (h : s.Sound K) : (s.updWalk f).Sound K := sound_of_foot h rfl

theorem clearNumbering_sound (h : s.Sound K) : s.clearNumbering.Sound K :=
  { h with ports := fun hk => (List.length_map _).trans (h.ports hk), routes := fun _ => Nat.zero_le _ }

theorem numberLegacy_sound {walk next : Nat} (h : s.Sound K) : (s.numberLegacy walk next).2.Sound K := by
  unfold State.numberLegacy
  extract_lets devs r s1 b s2
  have hs1 : s1.Sound K := sound_of_foot h rfl
  have hs2 : s2.Sound K := sound_foldl hs1 (fun _ _ hu => sound_ite (takeReport_sound hu) (sendTo_sound hu))
  exact hs2

theorem finishWalkTx_sound {tid : Option Nat} {failed : Bool} (h : s.Sound K) : (s.finishWalkTx tid failed).Sound K := by
  unfold State.finishWalkTx
  extract_lets span
  split
  · exact h
  · split
    · extract_lets bytes
      exact settleWaits_sound (postFinal_sound h)
    · exact h

theorem walkEnd_sound (h : s.Sound K) : s.walkEnd.Sound K := by
  unfold State.walkEnd
  extract_lets full s1 w r s2 r1 s3 s4 ws r2 s5
  have hs1 : s1.Sound K := sound_ite (sound_of_foot h rfl) h
  have hs2 : s2.Sound K := sound_of_foot hs1 rfl
  have hs3 : s3.Sound K := sound_of_foot hs2 rfl
  have hs4 : s4.Sound K := finishWalkTx_sound (shareTopo_sound hs3)
  have hs5 : s5.Sound K := by
    unfold s5
    split
    · exact sound_foldl (sound_of_foot hs4 rfl) (fun _ _ hu => rootAttach_sound hu)
    · exact enqueue_sound (sendReport_sound hs2)
  exact sound_foldl hs5 (fun _ _ hu => sound_ite (offerPort_sound (updPort_sound hu)) hu)

theorem walkFrom_sound {n : Nat} {waited : Bool} (h : s.Sound K) : (State.walkFrom n waited s).Sound K := by
  induction n generalizing waited s with
  | zero => exact h
  | succ n ih =>
    unfold State.walkFrom
    extract_lets w p q skip
    have hskip (u : State) (hu : u.Sound K) : (skip u).Sound K := ih (sound_of_foot hu rfl)
    clear_value skip
    refine sound_ite (walkEnd_sound h) (sound_ite (hskip _ h) (sound_ite ?_ (sound_ite (sound_of_foot h rfl) (sound_ite (hskip _ h)
      (sound_ite (hskip _ (updPort_sound h)) (sound_ite (hskip _ ?_) (enqueue_sound (sound_of_foot h rfl))))))))
    · exact hskip _ (updWalk_sound (numberLegacy_sound h))
    · exact updWalk_sound (updPort_sound h)

theorem walkNext_sound (h : s.Sound K) : s.walkNext.Sound K := by
  unfold State.walkNext
  exact walkFrom_sound (sound_of_foot h rfl)

theorem walkBegin_sound {id next : Nat} {up : Option Nat} {tStart : Nat} {tid : Option Nat} (h : s.Sound K) :
    (s.walkBegin id next up tStart tid).Sound K := by
  unfold State.walkBegin
  exact walkFrom_sound (sound_of_foot h rfl)

theorem walkRoot_sound {tid : Option Nat} (h : s.Sound K) : (s.walkRoot tid).Sound K := by
  unfold State.walkRoot
  extract_lets id s1 r s2
  have hs1 : s1.Sound K := clearNumbering_sound h
  have hs2 : s2.Sound K := sound_of_foot hs1 rfl
  exact walkBegin_sound hs2

theorem touchWalk_sound {a : Arrival} {f : Frame} (h : s.Sound K) : (s.touchWalk a f).Sound K := by
  unfold State.touchWalk
  extract_lets w
  exact sound_ite (sound_of_foot h rfl) h

theorem takeOff_sound {a : Arrival} {f : Frame} (h : s.Sound K) : (s.takeOff a f).Sound K := by
  unfold State.takeOff
  exact sound_ite h (consume_sound h)

theorem deliver_sound {a : Arrival} {f : Frame} {act : State → State} (h : s.Sound K) (hact : ∀ u : State, u.Sound K → (act u).Sound K) :
    (s.deliver a f act).Sound K := by
  unfold State.deliver
  exact sound_ite (countCondemned_sound h) (sound_ite (sound_of_foot h rfl) (hact _ (takeOff_sound h)))

theorem onFrame_sound {a : Arrival} {f : Frame} {act : State → State} (h : s.Sound K) (hact : ∀ u : State, u.Sound K → (act u).Sound K) :
    (s.onFrame a f act).Sound K := by
  unfold State.onFrame
  split
  · rename_i _ _ _ he0_3
    extract_lets s1
    have hs1 : s1.Sound K := touchWalk_sound (sound_of_pair he0_3 (hop_sound h))
    refine sound_ite (sound_of_pair he0_3 (hop_sound h)) (sound_ite (deliver_sound (spread_sound hs1) hact) ?_)
    split
    · exact deliver_sound hs1 hact
    · exact forward_sound hs1

theorem onLocal_sound {a : Arrival} {f : Frame} {act : State → State} (h : s.Sound K) (hact : ∀ u : State, u.Sound K → (act u).Sound K) :
    (s.onLocal a f act).Sound K := by
  unfold State.onLocal
  split
  · rename_i _ _ _ he0_3
    exact sound_ite (sound_of_pair he0_3 (hop_sound h)) (deliver_sound (touchWalk_sound (sound_of_pair he0_3 (hop_sound h))) hact)

theorem ifChecked_sound {a : Arrival} {f : Frame} {act : State → State} (h : s.Sound K) (hact : ∀ u : State, u.Sound K → (act u).Sound K) :
    (s.ifChecked a f act).Sound K := by
  unfold State.ifChecked
  split
  · rename_i _ _ _ he0_3
    exact sound_ite (hact _ (sound_of_pair he0_3 (checkFrame_sound h))) (sound_of_pair he0_3 (checkFrame_sound h))

theorem resend_sound {p : Nat} {isS : Bool} (h : s.Sound K) : (s.resend p isS).Sound K := by
  unfold State.resend
  exact sendAgain_sound h

theorem joinSpaces_sound {p uid ackN ackS : Nat} (h : s.Sound K) : (s.joinSpaces p uid ackN ackS).Sound K := by
  unfold State.joinSpaces
  extract_lets q back
  exact sound_ite (resend_sound (resend_sound (updPort_sound h))) (updPort_sound h)

theorem portUp_sound {p uid ackN ackS : Nat} (h : s.Sound K) : (s.portUp p uid ackN ackS).Sound K := by
  unfold State.portUp
  extract_lets before q same wasLost s1 s2 s3 s4 s5 s6 w
  have hs1 : s1.Sound K := joinSpaces_sound h
  have hs2 : s2.Sound K := updPort_sound hs1
  have hs3 : s3.Sound K := sound_ite (updPort_sound hs2) hs2
  have hs4 : s4.Sound K := recut_sound hs3
  have hs5 : s5.Sound K := sound_ite (sendLost_sound hs4) hs4
  have hs6 : s6.Sound K := sound_ite (sendCut_sound hs5) hs5
  exact sound_ite (walkFrom_sound hs6) (sound_ite (updPort_sound hs6) (portUpOutside_sound hs6))

theorem legacySend_sound (h : s.Sound K) : s.legacySend.Sound K := by
  unfold State.legacySend
  split
  · exact h
  · exact sound_ite h (emit_sound (updPort_sound h))

theorem legacyAsk_sound {rs : List LegacyReq} (h : s.Sound K) : (s.legacyAsk rs).Sound K := by
  unfold State.legacyAsk
  extract_lets idle r s1
  have hs1 : s1.Sound K := sound_of_foot h rfl
  exact sound_ite (legacySend_sound hs1) hs1

theorem legacyPoll_sound {t num : Nat} (h : s.Sound K) : (s.legacyPoll t num).Sound K := by
  unfold State.legacyPoll
  extract_lets r s1 s2
  have hs1 : s1.Sound K := sound_of_foot h rfl
  have hs2 : s2.Sound K := sound_of_foot hs1 rfl
  exact sound_ite h (legacyAsk_sound hs2)

theorem pollEnd_sound (h : s.Sound K) : s.pollEnd.Sound K := by
  unfold State.pollEnd
  extract_lets rs all r
  exact sound_ite h (sound_of_foot h rfl)

theorem legacyDone_sound {tag : Nat} (h : s.Sound K) : (s.legacyDone tag).Sound K := by
  unfold State.legacyDone
  extract_lets whole r c r1 s1 port
  have hs1 : s1.Sound K := sound_of_foot h rfl
  exact sound_ite h (contribute_sound hs1)

theorem legacyNext_sound {tag : Option Nat} (h : s.Sound K) : (s.legacyNext tag).Sound K := by
  unfold State.legacyNext
  extract_lets r s1 s2
  have hs1 : s1.Sound K := sound_of_foot h rfl
  have hs2 : s2.Sound K := by
    unfold s2
    split
    · exact legacyDone_sound hs1
    · exact hs1
  exact legacySend_sound (pollEnd_sound hs2)

theorem legacyFail_sound {crcBad : Bool} (h : s.Sound K) : (s.legacyFail crcBad).Sound K := by
  unfold State.legacyFail
  extract_lets r s1 r1
  have hs1 : s1.Sound K := updPort_sound h
  split
  · exact h
  · extract_lets pos s2
    have hs2 : s2.Sound K := sound_of_foot hs1 rfl
    exact sound_ite (legacySend_sound (sound_of_foot h rfl)) (legacyNext_sound hs2)

/-! ### Link -/

theorem symbols_sound {p : Nat} (h : s.Sound K) : (s.symbols p).Sound K := by
  unfold State.symbols
  extract_lets q
  exact sound_ite (retrain_sound h) h

theorem execSymbolsDetected_sound {p : Nat} (h : s.Sound K) : Answers K (execSymbolsDetected p s) :=
  answers_runL h (fun _ hu => symbols_sound hu)

theorem updTrain_sound {p : Nat} {f : TrainSt → TrainSt} (h : s.Sound K) : (s.updTrain p f).Sound K := by
  unfold State.updTrain
  exact updPort_sound h

theorem trainStep1_sound {p : Nat} {f : Frame} (h : s.Sound K) : (s.trainStep1 p f).Sound K := by
  unfold State.trainStep1
  extract_lets t got rx agreed s1
  have hs1 : s1.Sound K := sendTrain_sound h
  exact sound_ite (sendTrain_sound (updTrain_sound hs1)) (updTrain_sound hs1)

theorem trainStep3_sound {p : Nat} {f : Frame} (h : s.Sound K) : (s.trainStep3 p f).Sound K := by
  unfold State.trainStep3
  extract_lets got s1
  have hs1 : s1.Sound K := sendTrain_sound h
  exact sound_ite (portUp_sound hs1) (updTrain_sound hs1)

theorem breakTrain_sound {p : Nat} (h : s.Sound K) : (s.breakTrain p).Sound K := by
  unfold State.breakTrain
  exact updTrain_sound h

theorem trainFrameIn_sound {p : Nat} {crier : Bool} {f : Frame} (h : s.Sound K) : (s.trainFrameIn p crier f).Sound K := by
  unfold State.trainFrameIn
  extract_lets q s1
  have hs1 : s1.Sound K := sound_ite (takeCrier_sound h) h
  exact sound_ite hs1 (sound_ite (breakTrain_sound (countCondemned_sound hs1)) (sound_ite (trainStep3_sound hs1) (trainStep1_sound hs1)))

theorem execTrainFrameReceive_sound {p : Nat} {crier : Bool} {f : Frame} (h : s.Sound K) :
    Answers K (execTrainFrameReceive p crier f s) :=
  answers_runL h (fun _ hu => trainFrameIn_sound hu)

theorem rateTimeout_sound {p : Nat} (h : s.Sound K) : (s.rateTimeout p).Sound K := by
  unfold State.rateTimeout
  extract_lets q
  exact sound_ite (sound_ite (sendTrain_sound (updTrain_sound h)) (sendTrain_sound (updTrain_sound h))) h

theorem execTrainingRateTimeout_sound {p : Nat} (h : s.Sound K) : Answers K (execTrainingRateTimeout p s) :=
  answers_runL h (fun _ hu => rateTimeout_sound hu)

theorem signalLoss_sound {p : Nat} (h : s.Sound K) : (s.signalLoss p).Sound K := by
  unfold State.signalLoss
  extract_lets q before x back s1 s2 s3
  have hs2 : s2.Sound K := raise_sound (recut_sound (updPort_sound h))
  have hs3 : s3.Sound K := sound_ite (sendLost_sound hs2) hs2
  exact sound_ite h (sound_ite (sendCut_sound hs3) hs3)

theorem execSignalLoss_sound {p : Nat} (h : s.Sound K) : Answers K (execSignalLoss p s) :=
  answers_runL h (fun _ hu => signalLoss_sound hu)

theorem execRetransmitTimeout_sound {p : Nat} {safety : Bool} (h : s.Sound K) : Answers K (execRetransmitTimeout p safety s) :=
  answers_runL h (fun _ hu => sound_when hu (fun _ hu1 => retransmit_sound hu1))

theorem execShortFrameIdle_sound {p : Nat} (h : s.Sound K) : Answers K (execShortFrameIdle p s) :=
  answers_runL h (fun _ hu => sound_when hu (fun _ hu1 => sendShort_sound hu1))

theorem shortIn_sound {p b0 b1 b2 : Nat} (h : s.Sound K) : (s.shortIn p b0 b1 b2).Sound K := by
  unfold State.shortIn
  extract_lets s1 s2 s3
  have hs1 : s1.Sound K := takeCrier_sound h
  have hs2 : s2.Sound K := updPort_sound hs1
  have hs3 : s3.Sound K := sound_ite (retransmit_sound hs2) hs2
  exact sound_ite h (sound_ite (takeCrier_sound h) (sound_ite (retransmit_sound hs3) hs3))

theorem execShortFrameReceive_sound {p b0 b1 b2 : Nat} (h : s.Sound K) : Answers K (execShortFrameReceive p b0 b1 b2 s) :=
  answers_runG h (fun _ hu => shortIn_sound hu)

theorem abortCopy_sound {q : Nat} (h : s.Sound K) : (s.abortCopy q).Sound K := by
  unfold State.abortCopy
  split
  · rename_i _ _ _ he0_3
    exact emit_sound (updPort_sound (sound_of_pair he0_3 (crierBit_sound h)))

theorem condemned_sound {p : Nat} {byte0 : Option Nat} {header : Option (Nat × Frame)} (h : s.Sound K) :
    (s.condemned p byte0 header).Sound K := by
  unfold State.condemned
  extract_lets s1 s2 isS s3
  have hs1 : s1.Sound K := by
    unfold s1
    split
    · exact sound_ite (takeCrier_sound h) h
    · exact h
  have hs2 : s2.Sound K := countCondemned_sound hs1
  have hs3 : s3.Sound K := sendShort_sound hs2
  refine sound_ite hs1 (sound_ite (breakTrain_sound hs2) ?_)
  split
  · exact hs3
  · exact sound_ite (sound_foldl hs3 (fun _ _ hu => abortCopy_sound hu)) hs3

theorem execCondemnedFrame_sound {p : Nat} {byte0 : Option Nat} {header : Option (Nat × Frame)} (h : s.Sound K) :
    Answers K (execCondemnedFrame p byte0 header s) :=
  answers_runL h (fun _ hu => condemned_sound hu)

theorem execAbortedFrameReceive_sound {p : Nat} {crier : Bool} (h : s.Sound K) : Answers K (execAbortedFrameReceive p crier s) :=
  answers_runL h (fun _ hu => sound_when hu (fun _ hu1 => takeCrier_sound hu1))

theorem execLongFrameTransit_sound {a : Arrival} {f : Frame} (h : s.Sound K) : Answers K (execLongFrameTransit a f s) := by
  refine answers_runL h fun u hu => ?_
  split
  · rename_i _ _ _ he0_3
    exact sound_ite (forward_sound (touchWalk_sound (sound_of_pair he0_3 (hop_sound hu)))) (sound_of_pair he0_3 (hop_sound hu))

theorem tphaseCheck_sound {p : Nat} {m : List Byte} {stamp : Nat} (h : s.Sound K) : (s.tphaseCheck p m stamp).Sound K := by
  unfold State.tphaseCheck
  extract_lets up diff bad s1 r
  have hs1 : s1.Sound K := updPort_sound h
  exact sound_ite h (sound_ite (sound_of_foot hs1 rfl) hs1)

theorem crierIn_sound {p stamp : Nat} (h : s.Sound K) : (s.crierIn p stamp).Sound K := by
  unfold State.crierIn
  extract_lets bits m s1 r s2
  have hs1 : s1.Sound K := updPort_sound h
  have hs2 : s2.Sound K := sound_ite (sound_of_foot hs1 rfl) hs1
  exact sound_ite h (sound_ite (tphaseCheck_sound hs2) (updPort_sound h))

theorem execCrierMessageComplete_sound {p stamp : Nat} (h : s.Sound K) : Answers K (execCrierMessageComplete p stamp s) :=
  answers_run h (fun _ hu => crierIn_sound hu)

theorem runPort_sound {p : Nat} (h : s.Sound K) : (s.runPort p).Sound K := by
  unfold State.runPort
  extract_lets s1 r
  have hs1 : s1.Sound K := updPort_sound h
  exact sound_ite (legacyAsk_sound (sound_of_foot hs1 rfl)) hs1

theorem startPort_sound {p retryMax : Nat} (h : s.Sound K) : (startPort p retryMax s).2.Sound K := by
  unfold startPort
  exact sound_ite_snd h (sound_ite_snd h (runPort_sound (updPort_sound h)))

theorem execPortStart_sound {p retryMax : Nat} (h : s.Sound K) : Answers K (execPortStart p retryMax s) :=
  answers_runL h (fun _ hu => regOp_sound hu (fun _ hu1 => startPort_sound hu1))

theorem stopPort_sound {p : Nat} (h : s.Sound K) : (stopPort p s).2.Sound K := by
  unfold stopPort
  exact sound_ite_snd h (sound_ite_snd h (updPort_sound h))

theorem execPortStop_sound {p : Nat} (h : s.Sound K) : Answers K (execPortStop p s) :=
  answers_runL h (fun _ hu => regOp_sound hu (fun _ hu1 => stopPort_sound hu1))

theorem portStopped_sound {p : Nat} (h : s.Sound K) : (s.portStopped p).Sound K := by
  unfold State.portStopped
  exact sound_ite h (trackCut_sound (updPort_sound h))

theorem execPortStopped_sound {p : Nat} (h : s.Sound K) : Answers K (execPortStopped p s) :=
  answers_runCore h (fun _ hu => portStopped_sound hu)

theorem heldFails_sound {p : Nat} {x : QFrame} (h : s.Sound K) : (s.heldFails p x).Sound K := by
  unfold State.heldFails
  extract_lets f s1 ps r c
  have hs1 : s1.Sound K := by
    unfold s1
    split
    · exact consume_sound h
    · exact h
  refine sound_ite h ?_
  split
  · exact sound_ite (giveKid_sound hs1) (sound_ite (sendUp_sound hs1) hs1)
  · exact contribute_sound hs1

theorem heldTimeout_sound {p : Nat} (h : s.Sound K) : (s.heldTimeout p).Sound K := by
  unfold State.heldTimeout
  extract_lets xs
  split
  · exact h
  · exact sound_ite h (sound_foldl (updPort_sound h) (fun _ _ hu => heldFails_sound hu))

theorem execHeldFramesTimeout_sound {p : Nat} (h : s.Sound K) : Answers K (execHeldFramesTimeout p s) :=
  answers_runCoreL h (fun _ hu => heldTimeout_sound hu)

theorem legacyIn_sound {r : LegacyReq} {data : List Byte} (h : s.Sound K) : (s.legacyIn r data).Sound K := by
  unfold State.legacyIn
  extract_lets pos d r1 w st
  exact sound_ite (sound_ite h (sound_of_foot h rfl)) (sound_ite (legacyNext_sound (sound_of_foot h rfl)) (sound_ite (legacyNext_sound
    (sound_of_foot h rfl)) (legacyNext_sound (sound_of_foot h rfl))))

theorem legacyReplyIn_sound {addr cmd : Nat} {data : List Byte} {crc : Nat} (h : s.Sound K) :
    (s.legacyReplyIn addr cmd data crc).Sound K := by
  unfold State.legacyReplyIn
  split
  · exact h
  · exact sound_ite h (sound_ite (legacyIn_sound h) (legacyFail_sound h))

theorem execLegacyReply_sound {addr cmd : Nat} {data : List Byte} {crc : Nat} (h : s.Sound K) :
    Answers K (execLegacyReply addr cmd data crc s) :=
  answers_runCoreL h (fun _ hu => legacyReplyIn_sound hu)

theorem legacyTimeout_sound (h : s.Sound K) : s.legacyTimeout.Sound K := by
  unfold State.legacyTimeout
  split
  · exact h
  · exact sound_ite h (sound_ite (legacyNext_sound h) (legacyFail_sound h))

theorem execLegacyReplyTimeout_sound (h : s.Sound K) : Answers K (execLegacyReplyTimeout s) :=
  answers_runCoreL h (fun _ hu => legacyTimeout_sound hu)

theorem execApertureOpen_sound (h : s.Sound K) : Answers K (execApertureOpen s) := by
  refine answers_runConvL h fun u hu => ?_
  split
  · exact legacyPoll_sound (openAperture_sound hu)
  · exact hu

/-! ### Tree -/

theorem walkIn_sound {p : Nat} {f : Frame} (h : s.Sound K) : (s.walkIn p f).Sound K := by
  unfold State.walkIn
  extract_lets id before pp s1 t0 s2 next r s3
  have hs1 : s1.Sound K := sound_of_foot h rfl
  have hs2 : s2.Sound K := clearNumbering_sound (sound_of_foot hs1 rfl)
  have hs3 : s3.Sound K := sound_of_foot hs2 rfl
  exact sound_ite (enqueue_sound h) (walkBegin_sound (recut_sound hs3))

theorem walkAct_sound {a : Arrival} {f : Frame} (h : s.Sound K) : (State.walkAct a f s).Sound K := by
  unfold State.walkAct
  refine ifChecked_sound h (fun u hu => ?_)
  split
  · exact walkIn_sound hu
  · exact hu

theorem execDiscoverWalk_sound {a : Arrival} {f : Frame} (h : s.Sound K) : Answers K (execDiscoverWalk a f s) :=
  answers_runL h (fun _ hu => onLocal_sound hu (fun _ hu1 => walkAct_sound hu1))

theorem returnIn_sound {n : Nat} (h : s.Sound K) : (s.returnIn n).Sound K := by
  unfold State.returnIn
  extract_lets w
  exact walkNext_sound (updWalk_sound (updPort_sound h))

theorem returnAct_sound {a : Arrival} {f : Frame} (h : s.Sound K) : (State.returnAct a f s).Sound K := by
  unfold State.returnAct
  exact ifChecked_sound h (fun _ hu => sound_when hu (fun _ hu1 => returnIn_sound hu1))

theorem execDiscoverReturn_sound {a : Arrival} {f : Frame} (h : s.Sound K) : Answers K (execDiscoverReturn a f s) :=
  answers_runL h (fun _ hu => onLocal_sound hu (fun _ hu1 => returnAct_sound hu1))

theorem dupAct_sound {a : Arrival} {f : Frame} (h : s.Sound K) : (State.dupAct a f s).Sound K := by
  unfold State.dupAct
  exact ifChecked_sound h (fun _ hu => sound_when hu (fun _ hu1 => walkNext_sound (updPort_sound hu1)))

theorem execDiscoverDup_sound {a : Arrival} {f : Frame} (h : s.Sound K) : Answers K (execDiscoverDup a f s) :=
  answers_runL h (fun _ hu => onLocal_sound hu (fun _ hu1 => dupAct_sound hu1))

theorem reportIn_sound {f : Frame} (h : s.Sound K) : (s.reportIn f).Sound K := by
  unfold State.reportIn
  extract_lets hi
  exact sound_ite (sound_ite h (takeReport_sound h)) (sound_ite (sound_of_foot h rfl) h)

theorem reportAct_sound {a : Arrival} {f : Frame} (h : s.Sound K) : (State.reportAct a f s).Sound K := by
  unfold State.reportAct
  exact ifChecked_sound h (fun _ hu => reportIn_sound hu)

theorem execDiscoverReport_sound {a : Arrival} {f : Frame} (h : s.Sound K) : Answers K (execDiscoverReport a f s) :=
  answers_runL h (fun _ hu => onFrame_sound hu (fun _ hu1 => reportAct_sound hu1))

theorem assignIn_sound {p : Nat} {f : Frame} (h : s.Sound K) : (s.assignIn p f).Sound K := by
  unfold State.assignIn
  extract_lets before pos other pending m parent r r1 s1 pp r2 r3 s2 s3
  have hr : r.Sound K := clearNumbering_sound h
  have hs1 : s1.Sound K := sound_ite (sound_of_foot hr rfl) h
  have hr2 : r2.Sound K := sound_of_foot hs1 rfl
  have hs2 : s2.Sound K := sound_of_foot hr2 rfl
  have hs3 : s3.Sound K := recut_sound hs2
  exact sendReport_sound (sound_foldl hs3 (fun _ _ hu => sound_ite hu (offerPort_sound hu)))

theorem assignAct_sound {a : Arrival} {f : Frame} (h : s.Sound K) : (State.assignAct a f s).Sound K := by
  unfold State.assignAct
  refine sound_ite h (ifChecked_sound h (fun u hu => ?_))
  split
  · exact assignIn_sound hu
  · exact hu

theorem execDiscoverAssign_sound {a : Arrival} {f : Frame} (h : s.Sound K) : Answers K (execDiscoverAssign a f s) :=
  answers_runL h (fun _ hu => sound_ite (onLocal_sound hu (fun _ hu1 => assignAct_sound hu1)) (onFrame_sound hu (fun _ hu1 => hu1)))

theorem lostAct_sound {a : Arrival} {f : Frame} (h : s.Sound K) : (State.lostAct a f s).Sound K := by
  unfold State.lostAct
  exact ifChecked_sound h (fun _ hu => sound_when hu (fun _ hu1 => rootLost_sound hu1))

theorem execDiscoverLost_sound {a : Arrival} {f : Frame} (h : s.Sound K) : Answers K (execDiscoverLost a f s) :=
  answers_runL h (fun _ hu => onFrame_sound hu (fun _ hu1 => lostAct_sound hu1))

theorem cutIn_sound {f : Frame} (h : s.Sound K) : (s.cutIn f).Sound K := by
  unfold State.cutIn
  extract_lets before on r s1
  have hs1 : s1.Sound K := trackCut_sound (sendCut_sound (sound_of_foot h rfl))
  exact sound_ite (deliverHeld_sound hs1) hs1

theorem cutAct_sound {a : Arrival} {f : Frame} (h : s.Sound K) : (State.cutAct a f s).Sound K := by
  unfold State.cutAct
  exact ifChecked_sound h (fun _ hu => sound_when hu (fun _ hu1 => cutIn_sound hu1))

theorem execDiscoverCut_sound {a : Arrival} {f : Frame} (h : s.Sound K) : Answers K (execDiscoverCut a f s) :=
  answers_runL h (fun _ hu => onLocal_sound hu (fun _ hu1 => cutAct_sound hu1))

theorem routeAct_sound {a : Arrival} {f : Frame} (h : s.Sound K) : (State.routeAct a f s).Sound K := by
  unfold State.routeAct
  extract_lets x
  exact ifChecked_sound h (fun _ hu => setRoute_sound hu)

theorem execDiscoverRoute_sound {a : Arrival} {f : Frame} (h : s.Sound K) : Answers K (execDiscoverRoute a f s) :=
  answers_runL h (fun _ hu => onFrame_sound hu (fun _ hu1 => routeAct_sound hu1))

theorem execDiscoverMark_sound {a : Arrival} {f : Frame} (h : s.Sound K) : Answers K (execDiscoverMark a f s) := by
  refine answers_runL h fun u hu => ?_
  refine onLocal_sound hu (fun u hu => ifChecked_sound hu (fun u1 hu1 => ?_))
  split
  · exact sound_of_foot hu1 rfl
  · exact hu1

theorem attachAct_sound {a : Arrival} {f : Frame} (h : s.Sound K) : (State.attachAct a f s).Sound K := by
  unfold State.attachAct
  exact ifChecked_sound h (fun _ hu => sound_when hu (fun _ hu1 => takeAttach_sound hu1))

theorem execDiscoverAttach_sound {a : Arrival} {f : Frame} (h : s.Sound K) : Answers K (execDiscoverAttach a f s) :=
  answers_runL h (fun _ hu => onFrame_sound hu (fun _ hu1 => attachAct_sound hu1))

theorem treeAct_sound {a : Arrival} {f : Frame} (h : s.Sound K) : (s.treeAct a f).Sound K := by
  unfold State.treeAct
  extract_lets act
  have hact (x : Arrival → Frame → State → State) (hx : ∀ (a : Arrival) (a_1 : Frame) (a_2 : State), State.Sound K a_2 → State.Sound K
    (x a a_1 a_2)) : (act x).Sound K := hx _ _ _ h
  clear_value act
  split
  · exact hact _ (fun _ _ _ hu => walkAct_sound hu)
  · exact hact _ (fun _ _ _ hu => returnAct_sound hu)
  · exact hact _ (fun _ _ _ hu => dupAct_sound hu)
  · exact hact _ (fun _ _ _ hu => reportAct_sound hu)
  · exact hact _ (fun _ _ _ hu => assignAct_sound hu)
  · exact hact _ (fun _ _ _ hu => lostAct_sound hu)
  · exact hact _ (fun _ _ _ hu => cutAct_sound hu)
  · exact hact _ (fun _ _ _ hu => routeAct_sound hu)
  · exact hact _ (fun _ _ _ hu => attachAct_sound hu)
  · exact h

theorem resumeFrames_sound (h : s.Sound K) : s.resumeFrames.Sound K := by
  unfold State.resumeFrames
  exact sound_ite h (flush_sound (sound_foldl (sound_of_foot h rfl) (fun _ _ hu => treeAct_sound (takeOff_sound hu))))

theorem execWalkStart_sound (h : s.Sound K) : Answers K (execWalkStart s) :=
  answers_runCoreL h (fun _ hu => sound_when hu (fun _ hu1 => walkRoot_sound (sound_of_foot hu1 rfl)))

theorem walkSilence_sound (h : s.Sound K) : s.walkSilence.Sound K := by
  unfold State.walkSilence
  extract_lets w s1
  have hs1 : s1.Sound K := updWalk_sound (updPort_sound h)
  exact sound_ite h (walkNext_sound (sendLost_sound hs1))

theorem execWalkPortSilence_sound (h : s.Sound K) : Answers K (execWalkPortSilence s) :=
  answers_runCoreL h (fun _ hu => walkSilence_sound hu)

theorem execWalkTrainingWaitEnd_sound (h : s.Sound K) : Answers K (execWalkTrainingWaitEnd s) :=
  answers_runCoreL h (fun _ hu => sound_when hu (fun _ hu1 => walkFrom_sound hu1))

theorem walkPending_sound (h : s.Sound K) : s.walkPending.Sound K := by
  unfold State.walkPending
  extract_lets w
  split
  · exact sound_ite (enqueue_sound (sound_of_foot h rfl)) h
  · exact h

theorem execWalkPendingTimer_sound (h : s.Sound K) : Answers K (execWalkPendingTimer s) :=
  answers_runCoreL h (fun _ hu => walkPending_sound hu)

theorem syncOut_sound {p : Nat} (h : s.Sound K) : (s.syncOut p).Sound K := by
  unfold State.syncOut
  extract_lets q seq uid body
  exact enqueue_sound (updPort_sound h)

theorem execTimeSyncSend_sound (h : s.Sound K) : Answers K (execTimeSyncSend s) :=
  answers_runCoreL h (fun _ hu => sound_foldl hu (fun _ _ hu1 => sound_ite (syncOut_sound hu1) hu1))

theorem takeOffset_sound {o : Int} (h : s.Sound K) : (s.takeOffset o).Sound K := by
  unfold State.takeOffset
  extract_lets t r r1
  exact sound_ite (dropPassed_sound (sound_of_foot h rfl)) (sound_of_foot h rfl)

theorem syncAfter_sound {o : Int} {up : Nat} (h : s.Sound K) : (s.syncAfter o up).Sound K := sound_of_foot h rfl

theorem syncIn_sound {p : Nat} {f : Frame} {t2 : Nat} (h : s.Sound K) : (s.syncIn p f t2).Sound K := by
  unfold State.syncIn
  extract_lets b uid r s1 r1 s2 s3 d o r2 s4
  have hs1 : s1.Sound K := sound_ite (sound_of_foot h rfl) h
  clear_value s1
  have hs2 : s2.Sound K := sound_ite (sound_of_foot hs1 rfl) hs1
  clear_value s2
  have hs3 : s3.Sound K := sound_ite hs2 (enqueue_sound hs2)
  clear_value s3
  have hs4 : s4.Sound K := sound_of_foot hs3 rfl
  clear_value s4
  exact sound_ite hs3 (syncAfter_sound (takeOffset_sound hs4))

theorem execTimeSyncReceive_sound {a : Arrival} {f : Frame} {t2 : Nat} (h : s.Sound K) :
    Answers K (execTimeSyncReceive a f t2 s) := by
  refine answers_runL h fun u hu => ?_
  refine onLocal_sound hu (fun u hu => ?_)
  split
  · exact syncIn_sound hu
  · exact hu

theorem echoIn_sound {p : Nat} {f : Frame} {t4 : Nat} (h : s.Sound K) : (s.echoIn p f t4).Sound K := by
  unfold State.echoIn
  extract_lets q d
  exact sound_ite h (updPort_sound h)

theorem execTimeEchoReceive_sound {a : Arrival} {f : Frame} {t4 : Nat} (h : s.Sound K) :
    Answers K (execTimeEchoReceive a f t4 s) := by
  refine answers_runL h fun u hu => ?_
  refine onLocal_sound hu (fun u hu => ?_)
  split
  · exact echoIn_sound hu
  · exact hu

theorem execHoldoverTimeout_sound (h : s.Sound K) : Answers K (execHoldoverTimeout s) :=
  answers_runCore h (fun _ hu => sound_when hu (fun _ hu1 => sound_of_foot hu1 rfl))

theorem joinTops_sound (h : s.Sound K) : s.joinTops.Sound K := by
  unfold State.joinTops
  extract_lets tops
  exact sound_foldl h (fun _ _ hu => sound_foldl hu (fun _ _ hu1 => rerouteTo_sound hu1))

theorem takeOver_sound (h : s.Sound K) : s.takeOver.Sound K := by
  unfold State.takeOver
  extract_lets own path ports had r s1 s2 s3
  have hs1 : s1.Sound K := schedule_sound (sound_of_foot h rfl)
  have hs2 : s2.Sound K := sound_foldl hs1 (fun _ _ hu => sendTo_sound hu)
  have hs3 : s3.Sound K := sound_when hs2 (fun _ hu => joinTops_sound hu)
  exact event_sound (ledger_sound (deliverHeld_sound (trackCut_sound hs3)))

theorem execTakeover_sound (h : s.Sound K) : Answers K (execTakeover s) :=
  answers_runCoreL h (fun _ hu => sound_when hu (fun _ hu1 => takeOver_sound hu1))

theorem sendScoped_sound {f : Frame} (h : s.Sound K) : (s.sendScoped f).Sound K := by
  unfold State.sendScoped
  exact sound_ite (spread_sound h) (sendTo_sound h)

theorem strobeOut_sound (h : s.Sound K) : s.strobeOut.Sound K := by
  unfold State.strobeOut
  extract_lets t r
  exact sendScoped_sound (sound_of_foot h rfl)

theorem execPeriodicStrobeSend_sound (h : s.Sound K) : Answers K (execPeriodicStrobeSend s) :=
  answers_runCoreL h (fun _ hu => sound_when hu (fun _ hu1 => strobeOut_sound hu1))

theorem strobeIn_sound {f : Frame} (h : s.Sound K) : (s.strobeIn f).Sound K := by
  unfold State.strobeIn
  exact takeStrobe_sound (abandonStep_sound h)

theorem execStrobeReceive_sound {a : Arrival} {f : Frame} (h : s.Sound K) : Answers K (execStrobeReceive a f s) :=
  answers_runL h (fun _ hu => onFrame_sound hu (fun _ hu1 => ifChecked_sound hu1 (fun _ hu2 => strobeIn_sound hu2)))

theorem execTripFrameReceive_sound {a : Arrival} {f : Frame} (h : s.Sound K) : Answers K (execTripFrameReceive a f s) :=
  answers_runL h (fun _ hu => onFrame_sound hu (fun _ hu1 => ifChecked_sound hu1 (fun _ hu2 => sound_when hu2
    (fun _ hu3 => tripTime_sound hu3))))

theorem execCurrentPublicationReceive_sound {a : Arrival} {f : Frame} (h : s.Sound K) :
    Answers K (execCurrentPublicationReceive a f s) :=
  answers_runL h (fun _ hu => onFrame_sound hu (fun _ hu1 => takeCurrents_sound hu1))

theorem creditIn_sound {p : Nat} {pl : List Byte} (h : s.Sound K) : (s.creditIn p pl).Sound K := by
  unfold State.creditIn
  exact updPort_sound h

theorem execCreditFrameReceive_sound {a : Arrival} {f : Frame} (h : s.Sound K) : Answers K (execCreditFrameReceive a f s) := by
  refine answers_runG h fun u hu => ?_
  refine onLocal_sound hu (fun u hu => ?_)
  split
  · exact creditIn_sound hu
  · exact hu

theorem execFaultFrameReceive_sound {a : Arrival} {f : Frame} (h : s.Sound K) : Answers K (execFaultFrameReceive a f s) :=
  answers_runL h (fun _ hu => onFrame_sound hu (fun _ hu1 => ifChecked_sound hu1 (fun _ hu2 => sound_when hu2
    (fun _ hu3 => event_sound hu3))))

theorem pendingIn_sound {a : Arrival} {f : Frame} (h : s.Sound K) : (s.pendingIn a f).Sound K := by
  unfold State.pendingIn
  split
  · rename_i _ _ _ he0_3
    extract_lets s1
    have hs1 : s1.Sound K := touchWalk_sound (sound_of_pair he0_3 (hop_sound h))
    exact sound_ite (sound_of_pair he0_3 (hop_sound h)) (sound_ite (deliver_sound hs1 (fun _ hu => sound_of_foot hu rfl)) (sound_ite
      (deliver_sound hs1 (fun _ hu => hu)) (forward_sound hs1)))

theorem execPendingFrameReceive_sound {a : Arrival} {f : Frame} (h : s.Sound K) : Answers K (execPendingFrameReceive a f s) :=
  answers_runCoreL h (fun _ hu => pendingIn_sound hu)

theorem resync_sound {tag : Nat} (h : s.Sound K) : (s.resync tag).Sound K := by
  unfold State.resync
  extract_lets r
  split
  · exact sound_of_foot h rfl
  · exact h

theorem answerIn_sound {a : Arrival} {f : Frame} {c : Contribution} (h : s.Sound K) : (s.answerIn a f c).Sound K := by
  unfold State.answerIn
  exact sound_ite h (sound_ite (contribute_sound (sound_ite (resync_sound h) h)) (sound_ite h (sound_ite (contribute_sound (sound_ite
    (resync_sound h) h)) h)))

theorem responseIn_sound {a : Arrival} {f : Frame} {c : Contribution} (h : s.Sound K) : (s.responseIn a f c).Sound K := by
  unfold State.responseIn
  split
  · rename_i _ _ _ he0_3
    extract_lets s1
    have hs1 : s1.Sound K := touchWalk_sound (sound_of_pair he0_3 (hop_sound h))
    exact sound_ite (sound_of_pair he0_3 (hop_sound h)) (sound_ite (deliver_sound hs1 (fun _ hu => ifChecked_sound hu
      (fun _ hu1 => answerIn_sound (sound_of_foot hu1 rfl)))) (forward_sound hs1))

theorem execResponseFrameReceive_sound {a : Arrival} {f : Frame} {c : Contribution} (h : s.Sound K) :
    Answers K (execResponseFrameReceive a f c s) :=
  answers_runCoreL h (fun _ hu => responseIn_sound hu)

theorem execWakeToneSend_sound (h : s.Sound K) : Answers K (execWakeToneSend s) :=
  answers_runCore h (fun _ hu => sound_when hu (fun _ hu1 => sound_foldl hu1 (fun _ _ hu2 => sound_ite (emit_sound
    (updPort_sound hu2)) hu2)))

/-! ### Partition -/

theorem updSafety_sound {f : SafetySt → SafetySt} (h : s.Sound K) (hf : (s.updSafety f).foot = s.foot := by rfl) :
    (s.updSafety f).Sound K :=
  sound_of_foot h hf

theorem eraseCopy_sound (h : s.Sound K) : s.eraseCopy.Sound K := by
  unfold State.eraseCopy
  exact sound_foldl h (fun _ _ hu => eraseBegins_sound hu)

theorem writeNv_sound {nv : SafNv} (h : s.Sound K) : (s.writeNv nv).Sound K := by
  unfold State.writeNv
  exact sound_ite h (eraseCopy_sound (sound_of_foot h rfl))

theorem mirror_sound (h : s.Sound K) : s.mirror.Sound K := by
  unfold State.mirror
  extract_lets f r
  exact writeNv_sound h

theorem authFail_sound {session origin : Nat} (h : s.Sound K) : (s.authFail session origin).Sound K := by
  unfold State.authFail
  extract_lets s1 m s2
  have hs1 : s1.Sound K := sound_of_foot h rfl
  have hs2 : s2.Sound K := sound_of_foot hs1 rfl
  exact sound_ite (mirror_sound (sound_of_foot hs1 rfl)) (mirror_sound (sound_of_foot hs2 rfl))

theorem sessionOpen_sound {tag : Option Nat} {passcode origin : Nat} (h : s.Sound K) :
    (s.sessionOpen tag passcode origin).Sound K := by
  unfold State.sessionOpen
  extract_lets id s1
  have hs1 : s1.Sound K := mirror_sound (sound_of_foot h rfl)
  exact sound_ite (respond_sound h) (sound_ite (respond_sound (authFail_sound h)) (respond_sound (sound_of_foot hs1 rfl)))

theorem wrongSession_sound {tag : Option Nat} {session origin : Nat} (h : s.Sound K) :
    (s.wrongSession tag session origin).Sound K := by
  unfold State.wrongSession
  exact respond_sound (sound_ite h (authFail_sound h))

theorem setDigest_sound {d : Nat} {nv : SafNv} (h : s.Sound K) :
    ((s.updSafety (fun f => { f with digest := d })).writeNv nv).Sound K := writeNv_sound (updSafety_sound h)

theorem setPasscode_sound {tag : Option Nat} {session passcode new origin : Nat} (h : s.Sound K) :
    (s.setPasscode tag session passcode new origin).Sound K :=
  sound_ite (respond_sound h) (sound_ite (wrongSession_sound h) (sound_ite (respond_sound h)
    (respond_sound (parish_sound (setDigest_sound h)))))

theorem safetyWrite_sound {tag : Option Nat} {session a value old origin : Nat} (h : s.Sound K) :
    (s.safetyWrite tag session a value old origin).Sound K := by
  unfold State.safetyWrite
  extract_lets deny v isNew s1
  have hdeny : deny.Sound K := respond_sound h
  have hs1 : s1.Sound K := sound_of_foot h rfl
  refine sound_ite (wrongSession_sound h) ?_
  split
  · exact hdeny
  · exact sound_ite hdeny (sound_of_foot hs1 rfl)

theorem enrolHeard_sound {b : SafBlock} (h : s.Sound K) : (s.enrolHeard b).Sound K := by
  unfold State.enrolHeard
  exact sound_ite h (sound_of_foot h rfl)

theorem resyncSup_sound {old b : SafBlock} (h : s.Sound K) : (s.resyncSup old b).Sound K := sound_of_foot h rfl

theorem limitCounts_sound {old b : SafBlock} (h : s.Sound K) : (s.limitCounts old b).Sound K := by
  unfold State.limitCounts
  extract_lets s1 code aux r s2 r1 r2
  have hs1 : s1.Sound K := mapCells_sound h
  have hs2 : s2.Sound K := sound_of_foot hs1 rfl
  have hr1 : r1.Sound K := mapCells_sound hs2
  exact sound_ite hs2 (sound_of_foot hr1 rfl)

theorem applyStaged_sound {session origin : Nat} (h : s.Sound K) : (s.applyStaged session origin).Sound K := by
  unfold State.applyStaged
  extract_lets old b rearm n r s1 s2 s3 s4
  have hs1 : s1.Sound K := updSafety_sound (writeNv_sound h)
  have hs2 : s2.Sound K := sound_of_foot hs1 rfl
  have hs3 : s3.Sound K := limitCounts_sound (resyncSup_sound (enrolHeard_sound hs2))
  have hs4 : s4.Sound K := sound_foldl hs3 (fun _ _ hu => sound_ite hu (trip_sound hu))
  exact sound_foldl hs4 (fun _ _ hu => sound_ite (arm_sound hu) hu)

theorem sessionClose_sound {tag : Option Nat} {session origin : Nat} (h : s.Sound K) :
    (s.sessionClose tag session origin).Sound K := by
  unfold State.sessionClose
  extract_lets b rearm t
  exact sound_ite (respond_sound h) (sound_ite (wrongSession_sound h) (sound_ite (respond_sound h) (respond_sound (applyStaged_sound h))))

theorem execParishEntryProgrammed_sound (h : s.Sound K) : Answers K (execParishEntryProgrammed s) :=
  answers_runCoreL h (fun _ hu => sound_when hu (fun _ hu1 => parishProgrammed_sound hu1))

theorem execSessionIdleTimeout_sound (h : s.Sound K) : Answers K (execSessionIdleTimeout s) :=
  answers_run h (fun _ hu => sound_when hu (fun _ hu1 => dropSession_sound hu1))

theorem execAuthenticationLockEnd_sound (h : s.Sound K) : Answers K (execAuthenticationLockEnd s) :=
  answers_run h (fun _ hu => sound_when hu (fun _ hu1 => mirror_sound (sound_of_foot hu1 rfl)))

theorem heartbeat_sound (h : s.Sound K) : s.heartbeat.Sound K := by
  unfold State.heartbeat
  split
  · exact sound_ite (sendSafety_sound (sound_of_foot h rfl)) h
  · exact h

theorem execHeartbeatSend_sound (h : s.Sound K) : Answers K (execHeartbeatSend s) :=
  answers_runCoreL h (fun _ hu => sound_when hu (fun _ hu1 => heartbeat_sound hu1))

theorem unobserved_sound (h : s.Sound K) : s.unobserved.Sound K := by
  unfold State.unobserved
  extract_lets before late r s1
  have hs1 : s1.Sound K := sound_of_foot h rfl
  exact limitReport_sound hs1

theorem execUnobservedTimeout_sound (h : s.Sound K) : Answers K (execUnobservedTimeout s) :=
  answers_runL h (fun _ hu => sound_when hu (fun _ hu1 => unobserved_sound hu1))

theorem safetyReject_sound {a : Arrival} {counter : Bool} (h : s.Sound K) : (s.safetyReject a counter).Sound K := by
  unfold State.safetyReject
  exact countRej_sound (raise_sound h)

theorem safetyHeard_sound {pos counter cause item : Nat} (h : s.Sound K) : (s.safetyHeard pos counter cause item).Sound K := by
  unfold State.safetyHeard
  extract_lets s1
  have hs1 : s1.Sound K := sound_of_foot h rfl
  exact sound_ite hs1 (sound_foldl hs1 (fun _ _ hu => sound_ite (trip_sound hu) hu))

theorem safetyIn_sound {a : Arrival} {f : Frame} (h : s.Sound K) : (s.safetyIn a f).Sound K := by
  unfold State.safetyIn
  refine sound_ite (consume_sound h) ?_
  split
  · exact consume_sound h
  · exact sound_ite (safetyReject_sound h) (sound_ite (safetyReject_sound h) (safetyHeard_sound (consume_sound h)))

theorem execSafetyFrameReceive_sound {a : Arrival} {f : Frame} (h : s.Sound K) : Answers K (execSafetyFrameReceive a f s) :=
  answers_runL h (fun _ hu => onFrame_sound hu (fun _ hu1 => safetyIn_sound hu1))

theorem beatTimeout_sound {i : Nat} (h : s.Sound K) : (s.beatTimeout i).Sound K := by
  unfold State.beatTimeout
  extract_lets w pos s1
  have hs1 : s1.Sound K := sound_of_foot h rfl
  split
  · exact h
  · exact sound_ite h (sound_foldl hs1 (fun _ _ hu => sound_ite (trip_sound (raise_sound hu)) hu))

theorem execHeartbeatTimeout_sound {index : Nat} (h : s.Sound K) : Answers K (execHeartbeatTimeout index s) :=
  answers_runL h (fun _ hu => beatTimeout_sound hu)

theorem execAutoArm_sound {x : Nat} (h : s.Sound K) : Answers K (execAutoArm x s) :=
  answers_run h (fun _ hu => sound_when hu (fun _ hu1 => arm_sound hu1))

theorem demand_sound {i cause : Nat} (h : s.Sound K) : (s.demand i cause).Sound K := by
  unfold State.demand
  exact sound_foldl h (fun _ _ hu => sound_ite (trip_sound hu) hu)

theorem contact_sound {k : Nat} {closed : Bool} (h : s.Sound K) : (s.contact k closed).Sound K := by
  unfold State.contact
  extract_lets i q a b lim near clears s1
  have hs1 : s1.Sound K := updInp_sound h
  exact sound_ite hs1 (demand_sound hs1)

theorem execSiContactChange_sound {contact : Nat} {closed : Bool} (h : s.Sound K) :
    Answers K (execSiContactChange contact closed s) :=
  answers_run h (fun _ hu => sound_when hu (fun _ hu1 => contact_sound hu1))

theorem discrepancy_sound {i : Nat} (h : s.Sound K) : (s.discrepancy i).Sound K := by
  unfold State.discrepancy
  split
  · exact h
  · exact sound_ite h (demand_sound (raise_sound (updInp_sound h)))

theorem execDiscrepancyTimeout_sound {x : Nat} (h : s.Sound K) : Answers K (execDiscrepancyTimeout x s) :=
  answers_run h (fun _ hu => sound_when hu (fun _ hu1 => discrepancy_sound hu1))

theorem pulse_sound {x : Nat} (h : s.Sound K) : (s.pulse x).Sound K := by
  unfold State.pulse
  split
  · exact h
  · exact updOut_sound h

theorem execOutputTestPulse_sound {x : Nat} (h : s.Sound K) : Answers K (execOutputTestPulse x s) :=
  answers_run h (fun _ hu => sound_when hu (fun _ hu1 => pulse_sound hu1))

theorem clearAllowance_sound (h : s.Sound K) : s.clearAllowance.Sound K := by
  unfold State.clearAllowance
  exact sound_ite (sound_of_foot h rfl) h

theorem pulseJudge_sound {x sw : Nat} {reached : Bool} (h : s.Sound K) : (s.pulseJudge x sw reached).Sound K := by
  unfold State.pulseJudge
  extract_lets s1 s2
  have hs1 : s1.Sound K := updOut_sound h
  have hs2 : s2.Sound K := sound_ite hs1 (switchFails_sound hs1)
  exact clearAllowance_sound (updOut_sound hs2)

theorem pulseBack_sound {x : Nat} (h : s.Sound K) : (s.pulseBack x).Sound K := by
  unfold State.pulseBack
  split
  · exact sound_ite (updOut_sound h) h
  · exact h

theorem pulseEnd_sound {x : Nat} {reached : Bool} (h : s.Sound K) : (s.pulseEnd x reached).Sound K := by
  unfold State.pulseEnd
  split
  · exact h
  · exact sound_ite h (pulseBack_sound (sound_ite h (pulseJudge_sound h)))

theorem execOutputTestPulseEnd_sound {x : Nat} {reached : Bool} (h : s.Sound K) :
    Answers K (execOutputTestPulseEnd x reached s) :=
  answers_runL h (fun _ hu => pulseEnd_sound hu)

theorem execStuckNodeDetect_sound {sw : Nat} (h : s.Sound K) : Answers K (execStuckNodeDetect sw s) :=
  answers_runL h (fun _ hu => sound_when hu (fun _ hu1 => switchFails_sound hu1))

theorem execContinuousReadbackFail_sound {sw : Nat} (h : s.Sound K) : Answers K (execContinuousReadbackFail sw s) :=
  answers_runL h (fun _ hu => sound_when hu (fun _ hu1 => switchFails_sound hu1))

theorem execDegradedAllowanceExpire_sound (h : s.Sound K) : Answers K (execDegradedAllowanceExpire s) :=
  answers_runL h (fun _ hu => sound_when hu (fun _ hu1 => toSafe_sound hu1))

/-! ### Bist -/

theorem updBist_sound {f : BistSt → BistSt} (h : s.Sound K) : (s.updBist f).Sound K := sound_of_foot h rfl

theorem updRec_sound {f : BistRec → BistRec} (h : s.Sound K) : (s.updRec f).Sound K := sound_of_foot h rfl

theorem chargerConfig_sound (h : s.Sound K) : s.chargerConfig.Sound K := by
  unfold State.chargerConfig
  extract_lets chem
  exact sound_ite (sound_of_foot h rfl) (sound_of_foot h rfl)

theorem eccCounts_sound (h : s.Sound K) : s.eccCounts.Sound K := by
  unfold State.eccCounts
  refine sound_foldl h (fun u x0 hu => ?_)
  extract_lets r
  split
  · exact hu
  · exact sound_of_foot hu rfl
  · exact sound_of_foot hu rfl

theorem stepEffect_sound {k : Nat} {fs : List (Nat × Nat)} (h : s.Sound K) : (s.stepEffect k fs).Sound K := by
  unfold State.stepEffect
  refine sound_ite (sound_foldl h fun _ _ hu => clockEffect_sound (sound_ite hu (sound_of_foot hu rfl))) (sound_ite ?_ (sound_ite ?_
    (sound_ite ?_ ?_)))
  · exact { h with
      granary := fun _ => rfl
      gleaners := fun hk => (List.length_map _).trans (h.gleaners hk)
      deques := fun hk => by
        have hd := h.deques hk
        simpa [State.foot] using hd }
  · exact chargerConfig_sound (eccCounts_sound { h with checks := fun hk => (List.length_set ..).trans (h.checks hk) })
  · extract_lets s1 r s2
    have hs1 : s1.Sound K := mapCells_sound h
    clear_value s1
    have hs2 : s2.Sound K := sound_of_foot hs1 (by simp only [State.foot, s2, r])
    clear_value s2
    exact updBist_sound hs2
  · refine sound_ite (sound_foldl h fun _ _ hu => updCell_sound hu) (sound_ite ?_ (sound_ite ?_ h))
    · exact sound_foldl (sound_of_foot h rfl) fun _ _ hu => detail_sound hu
    · exact sound_mk (updInp_sound (updInp_sound h)) rfl

theorem stepStarts_sound {k : Nat} (h : s.Sound K) : (s.stepStarts k).Sound K := sound_of_foot h rfl

theorem runStep_sound {k : Nat} (h : s.Sound K) : (s.runStep k).Sound K := by
  unfold State.runStep
  extract_lets s1 r s2
  have hs1 : s1.Sound K := sound_of_foot h rfl
  have hs2 : s2.Sound K := stepEffect_sound hs1
  refine sound_ite (sound_of_foot hs1 rfl) ?_
  split
  · exact sound_of_foot hs2 rfl
  · exact sound_of_foot hs2 rfl

theorem bistSteps_sound {n k : Nat} (h : s.Sound K) : (State.bistSteps n k s).Sound K := by
  induction n generalizing k s with
  | zero => exact h
  | succ n ih =>
    unfold State.bistSteps
    dsimp only
    refine sound_ite ?_ (sound_ite h (ih (runStep_sound h)))
    exact sound_mk (sound_ite (updRec_sound h) (stepStarts_sound h)) rfl

theorem openRec_sound (h : s.Sound K) : s.openRec.Sound K := sound_of_foot h rfl

theorem cutOver_sound (h : s.Sound K) : s.cutOver.Sound K := sound_of_foot h rfl

theorem bistStart_sound {w : BistWorld} (h : s.Sound K) : (s.bistStart w).Sound K := by
  unfold State.bistStart
  have hstart (id : IdentSt) (m : ModeSt) (n : List FlashWear) (p : PowerSt) (b : BistSt → BistSt) :
      ((({ s with ident := id, mode := m, flash := { s.flash with wear := n }, power := p }.trainPcie).updBist b).openRec).Sound K :=
    openRec_sound (updBist_sound (trainPcie_sound (sound_of_foot h rfl)))
  exact sound_ite (sound_ite (updBist_sound (stepStarts_sound (hstart ..))) (cutOver_sound (runStep_sound (hstart ..)))) (bistSteps_sound
    (hstart ..))

theorem holdTest_sound (h : s.Sound K) : s.holdTest.Sound K := by
  unfold State.holdTest
  extract_lets r r1 s1 r2
  have hs1 : s1.Sound K := sound_of_foot h rfl
  exact sound_ite (sound_of_foot hs1 rfl) hs1

theorem execBistStart_sound {w : BistWorld} (h : s.Sound K) : Answers K (execBistStart w s) :=
  answers_run h (fun _ hu => sound_when hu (fun _ hu1 => sound_ite (holdTest_sound hu1) (bistStart_sound hu1)))

theorem stepTimeout_sound {k : Nat} (h : s.Sound K) : (s.stepTimeout k).Sound K := by
  unfold State.stepTimeout
  extract_lets s1
  have hs1 : s1.Sound K := sound_of_foot h rfl
  exact sound_ite (sound_of_foot hs1 rfl) (bistSteps_sound hs1)

theorem execBistStepTimeout_sound (h : s.Sound K) : Answers K (execBistStepTimeout s) := by
  refine answers_run h fun u hu => ?_
  split
  · exact stepTimeout_sound hu
  · exact hu

theorem restore_sound {sn : Snapshot} (h : s.Sound K) : (s.restore sn).Sound K := by
  unfold State.restore
  extract_lets s1 r r1 r2
  have hs1 : s1.Sound K := mapCells_sound h
  exact sound_of_foot hs1 rfl

theorem histStep_sound (h : s.Sound K) : s.histStep.Sound K := by
  unfold State.histStep
  extract_lets v r s1 r1 s2
  have hs1 : s1.Sound K := sound_of_foot h rfl
  have hs2 : s2.Sound K := by
    unfold s2
    split
    · exact restore_sound hs1
    · split
      · exact sound_of_foot hs1 rfl
      · exact hs1
  exact sound_of_foot hs2 rfl

theorem takeConfig_sound (h : s.Sound K) : s.takeConfig.Sound K := by
  unfold State.takeConfig
  extract_lets c r r1 r2 r3 s1 rates
  have hs1 : s1.Sound K := sound_of_foot h rfl
  exact chargerConfig_sound (sound_mk hs1 (by simp [State.foot]))

theorem releaseLedger_sound {lock : Bool} (h : s.Sound K) : (s.releaseLedger lock).Sound K := by
  unfold State.releaseLedger
  extract_lets r s1 r1 s2 s3 r2 r3 s4 r4
  have hs1 : s1.Sound K := ledger_sound h
  have hs2 : s2.Sound K := by
    unfold s2
    split
    · exact ledger_sound (sound_of_foot hs1 rfl)
    · exact hs1
  have hs3 : s3.Sound K := sound_ite (ledger_sound hs2) hs2
  have hs4 : s4.Sound K := by
    unfold s4
    split
    · exact ledgerAt_sound (sound_of_foot hs3 rfl)
    · exact hs3
  split
  · exact ledgerAt_sound (sound_of_foot hs4 rfl)
  · exact hs4

theorem repairPair_sound {interrupted : Bool} (h : s.Sound K) : (s.repairPair interrupted).Sound K := by
  unfold State.repairPair
  extract_lets s1
  have hs1 : s1.Sound K := sound_ite (sound_of_foot h rfl) h
  exact sound_ite hs1 (rewritePair_sound hs1)

theorem latched_sound (h : s.Sound K) : s.latched.Sound K := by
  unfold State.latched
  extract_lets s1 s2 s3 s4
  have hs1 : s1.Sound K := sound_ite (raise_sound h) h
  have hs2 : s2.Sound K := sound_ite (raise_sound hs1) hs1
  have hs3 : s3.Sound K := sound_ite (raise_sound hs2) hs2
  have hs4 : s4.Sound K := sound_ite hs3 (sound_ite (raise_sound hs3) (sound_ite (raise_sound hs3) hs3))
  exact sound_ite hs4 (sound_foldl hs4 (fun _ _ hu => detail_sound (raise_sound hu)))

theorem startPorts_sound (h : s.Sound K) : s.startPorts.Sound K := by
  unfold State.startPorts
  exact sound_foldl h (fun _ _ hu => runPort_sound hu)

theorem releaseServe_sound (h : s.Sound K) : s.releaseServe.Sound K := by
  unfold State.releaseServe
  extract_lets w o c ok r
  exact sound_ite h (sound_of_foot h rfl)

theorem timersStart_sound (h : s.Sound K) : s.timersStart.Sound K := sound_of_foot h rfl

theorem restartLock_sound (h : s.Sound K) : s.restartLock.Sound K := by
  unfold State.restartLock
  exact sound_ite (sound_of_foot h rfl) h

theorem failFound_sound (h : s.Sound K) : s.failFound.Sound K := by
  unfold State.failFound
  extract_lets marks r s1
  have hs1 : s1.Sound K := sound_of_foot h rfl
  exact sound_foldl hs1 (fun _ _ hu => switchFails_sound hu)

theorem fetchImage_sound (h : s.Sound K) : s.fetchImage.Sound K := by
  unfold State.fetchImage
  extract_lets s1 r
  have hs1 : s1.Sound K := flashErr_sound h
  exact sound_ite (sound_of_foot hs1 rfl) h

theorem releaseNow_sound (h : s.Sound K) : s.releaseNow.Sound K := by
  unfold State.releaseNow
  extract_lets marks cut s1 r s2 s3 r1
  have hs1 : s1.Sound K := restartLock_sound (timersStart_sound (releaseServe_sound (setMode_sound h)))
  have hs2 : s2.Sound K := latched_sound (startCollector_sound (sound_of_foot hs1 rfl))
  have hs3 : s3.Sound K := repairPair_sound (writeDropped_sound (releaseLedger_sound (startPorts_sound hs2)))
  exact fetchImage_sound (clearAllowance_sound (failFound_sound (sound_of_foot hs3 rfl)))

theorem refuseRelease_sound (h : s.Sound K) : s.refuseRelease.Sound K := by
  unfold State.refuseRelease
  extract_lets cut s1
  have hs1 : s1.Sound K := latched_sound (startCollector_sound (timersStart_sound (openAll_sound (outputsOff_sound (setMode_sound h)))))
  exact repairPair_sound (releaseLedger_sound (startPorts_sound hs1))

theorem bistEnd_sound (h : s.Sound K) : s.bistEnd.Sound K := by
  unfold State.bistEnd
  extract_lets s1
  have hs1 : s1.Sound K := takeConfig_sound (sound_ite h (histStep_sound h))
  exact sound_ite (releaseNow_sound hs1) (refuseRelease_sound hs1)

theorem execBistEnd_sound (h : s.Sound K) : Answers K (execBistEnd s) :=
  answers_runCoreL h (fun _ hu => sound_when hu (fun _ hu1 => bistEnd_sound hu1))

/-! ### Modes -/

theorem enterShip_sound (h : s.Sound K) : s.enterShip.Sound K := by
  unfold State.enterShip
  extract_lets s1 s2 r s3 ports
  have hs2 : s2.Sound K := programWaiting_sound (mapCells_sound (outputsOff_sound (setMode_sound (ledger_sound h))))
  exact sound_of_foot hs2 (by simp [State.foot, State.updPower, s3, r, ports])

theorem settleShip_sound (h : s.Sound K) : s.settleShip.Sound K := by
  unfold State.settleShip
  exact sound_ite (enterShip_sound h) h

theorem answers_runS {f : State → State} (h : s.Sound K) (hf : ∀ u : State, u.Sound K → (f u).Sound K) : Answers K (runS f s) :=
  answers_run h fun u hu => settleShip_sound (flush_sound (hf u hu))

theorem requestShip_sound {key : Nat} (h : s.Sound K) : (requestShip key s).2.Sound K := by
  unfold requestShip
  extract_lets v r
  exact sound_ite_snd h (sound_ite (sound_of_foot h rfl) h)

theorem requestReset_sound {key : Nat} (h : s.Sound K) : (requestReset key s).2.Sound K := by
  unfold requestReset
  exact sound_ite_snd h (sound_of_foot h rfl)

theorem requestResume_sound {key : Nat} (h : s.Sound K) : (requestResume key s).2.Sound K := by
  unfold requestResume
  exact sound_ite_snd h (switches_sound (setMode_sound h))

theorem execShipRequest_sound {key : Nat} (h : s.Sound K) : Answers K (execShipRequest key s) :=
  answers_runS h (fun _ hu => regOp_sound hu (fun _ hu1 => requestShip_sound hu1))

theorem execModeResetRequest_sound {key : Nat} (h : s.Sound K) : Answers K (execModeResetRequest key s) :=
  answers_run h (fun _ hu => regAny_sound hu (fun _ hu1 => requestReset_sound hu1))

theorem execResumeRequest_sound {key : Nat} (h : s.Sound K) : Answers K (execResumeRequest key s) :=
  answers_runReg h (fun _ hu => requestResume_sound hu)

theorem execRunToQuiet_sound (h : s.Sound K) : Answers K (execRunToQuiet s) :=
  answers_runCore h (fun _ hu => sound_when hu (fun _ hu1 => setMode_sound hu1))

theorem powerDown_sound (h : s.Sound K) : s.powerDown.Sound K := { h with
    ports := fun hk => (List.length_map _).trans (h.ports hk)
    checks := fun hk => (List.length_map _).trans (h.checks hk)
    gleaners := fun hk => (List.length_map _).trans (h.gleaners hk)
    granary := fun hk => filter_rising _ (h.granary hk)
    deques := fun _ => by simp [State.foot, State.powerDown]
    held := fun _ => List.length_take_le _ _ }

theorem enterDormant_sound (h : s.Sound K) : s.enterDormant.Sound K := by
  unfold State.enterDormant
  extract_lets fromSafe kept s1 r s2 s3 s4 r1
  have hs1 : s1.Sound K := setMode_sound h
  clear_value s1
  have hs2 : s2.Sound K := sound_of_foot hs1 rfl
  clear_value s2
  have hs3 : s3.Sound K := discardExposure_sound (abortBalance_sound (abortSurvey_sound (stopSweep_sound hs2)))
  clear_value s3
  have hs4 : s4.Sound K := writeSnapshot_sound (powerDown_sound (openAll_sound (abortWire_sound (abandonStep_sound hs3))))
  clear_value s4
  exact sound_mk (chgStop_sound hs4) rfl

theorem execDormantEntry_sound (h : s.Sound K) : Answers K (execDormantEntry s) :=
  answers_runCore h (fun _ hu => sound_when hu (fun _ hu1 => enterDormant_sound hu1))

theorem wake_sound {link : Bool} {p : Nat} (h : s.Sound K) : (s.wake link p).Sound K := by
  unfold State.wake
  extract_lets r r1 r2 s1 s2 s3 s4 r3 r4 s5 held r5 s6
  have hs1 : s1.Sound K := sound_of_foot h rfl
  have hs2 : s2.Sound K := sound_of_foot hs1 rfl
  have hs3 : s3.Sound K := sound_foldl hs2 (fun _ _ hu => runPort_sound hu)
  have hs4 : s4.Sound K := sound_ite (writeSnapshot_sound (setMode_sound (sound_of_foot hs3 rfl))) (setMode_sound (sound_of_foot hs3 rfl))
  have hs5 : s5.Sound K := by
    unfold s5
    split
    · exact ledgerAt_sound (sound_of_foot hs4 rfl)
    · exact hs4
  have hs6 : s6.Sound K := sound_of_foot hs5 rfl
  exact sound_ite hs6 (switches_sound (sound_ite (setMode_sound (runSweep_sound hs6)) (runSweep_sound hs6)))

theorem execDormantWake_sound {link : Bool} {port : Nat} (h : s.Sound K) : Answers K (execDormantWake link port s) :=
  answers_runL h (fun _ hu => sound_when hu (fun _ hu1 => wake_sound hu1))

theorem execPinReset_sound {lowNs : Nat} {takes : Bool} (h : s.Sound K) : Answers K (execPinReset lowNs takes s) :=
  answers_run h (fun _ hu => sound_when hu (fun _ hu1 => resetBy_sound hu1))

theorem toneIn_sound {p : Nat} {safety : Option (Bool × Frame)} (h : s.Sound K) : (s.toneIn p safety).Sound K := by
  unfold State.toneIn
  extract_lets q s1 s2
  have hs1 : s1.Sound K := updPort_sound h
  have hs2 : s2.Sound K := by
    unfold s2
    split
    · exact onFrame_sound hs1 (fun _ hu => safetyIn_sound hu)
    · exact hs1
  exact sound_ite (sound_ite (wake_sound h) h) (sound_ite (retrain_sound hs2) h)

theorem execWakeToneDetect_sound {p : Nat} {safety : Option (Bool × Frame)} (h : s.Sound K) :
    Answers K (execWakeToneDetect p safety s) :=
  answers_runL h (fun _ hu => toneIn_sound hu)

/-! ### Wire -/

theorem wireDone_sound {tag : Option Nat} {status value : Nat} {bytes : List Byte} (h : s.Sound K) :
    (s.wireDone tag status value bytes).Sound K := by
  unfold State.wireDone
  extract_lets s1 r
  have hs1 : s1.Sound K := sound_of_foot h rfl
  split
  · exact hs1
  · exact contribute_sound hs1

theorem wireFault_sound {tag : Option Nat} {code : Nat} (h : s.Sound K) : (s.wireFault tag code).Sound K := by
  unfold State.wireFault
  exact wireDone_sound (raise_sound (sound_of_foot h rfl))

theorem wireSeed_sound {r : Nat} (h : s.Sound K) : (s.wireSeed r).2.Sound K := by
  unfold State.wireSeed
  exact sound_ite_snd h (sound_of_foot h rfl)

theorem wireRounds_sound {bus : WireBus} {n r : Nat} {l : Lottery} (h : s.Sound K) : (State.wireRounds bus n r l s).2.2.Sound K := by
  induction n generalizing r l s with
  | zero => exact h
  | succ n ih => exact sound_ite_snd_snd (wireSeed_sound h) (ih (wireSeed_sound h))

theorem confirmPass_sound {tag : Option Nat} {bus : WireBus} {rounds : Nat} {t : Lottery} (h : s.Sound K) :
    (s.confirmPass tag bus rounds t).Sound K := by
  unfold State.confirmPass
  extract_lets asked ok found es
  split
  · exact wireFault_sound (sound_of_foot h rfl)
  · exact wireDone_sound (sound_of_foot h rfl)

theorem wireSearch_sound {tag : Option Nat} {bus : WireBus} (h : s.Sound K) : (s.wireSearch tag bus).Sound K := by
  unfold State.wireSearch
  extract_lets y counted
  have hcounted (x : List OutEvt) (x1 : Nat) (u2 : State) (hu2 : u2.Sound K) : (counted x x1 u2).Sound K := sound_of_foot hu2 rfl
  clear_value counted
  refine sound_ite (wireFault_sound (sound_of_foot h rfl)) (sound_ite (wireDone_sound (sound_of_foot h rfl)) ?_)
  split
  · rename_i _ _ _ _ he2_4
    split
    · exact wireFault_sound (hcounted _ _ _ (sound_of_triple he2_4 (wireRounds_sound h)))
    · exact confirmPass_sound (hcounted _ _ _ (sound_of_triple he2_4 (wireRounds_sound h)))

theorem pullUp_sound {tag : Option Nat} {len : Nat} {refused : Bool} (h : s.Sound K) :
    (s.pullUp tag len refused).Sound K := sound_of_foot h rfl

theorem wireTries_sound {bus : WireBus} {cmd : List Byte} {n : Nat} {good : List Byte → Bool} {k i : Nat} (h : s.Sound K) :
    (State.wireTries bus cmd n good k i s).2.Sound K := by
  induction k generalizing i s with
  | zero => exact sound_of_foot h rfl
  | succ k ih => exact sound_ite_snd (ih (sound_of_foot h rfl)) (sound_of_foot h rfl)

theorem wireConvert_sound {tag : Option Nat} {bus : WireBus} (h : s.Sound K) : (s.wireConvert tag bus).Sound K := by
  unfold State.wireConvert
  extract_lets r
  split
  · exact wireFault_sound (sound_of_foot h rfl)
  · exact sound_of_foot h rfl

theorem wireRead_sound {tag : Option Nat} {entry offset length : Nat} {bus : WireBus} (h : s.Sound K) :
    (s.wireRead tag entry offset length bus).Sound K := by
  unfold State.wireRead
  extract_lets cmd
  split
  · rename_i _ _ _ he1_3
    exact wireDone_sound (sound_of_pair he1_3 (wireTries_sound h))
  · rename_i _ _ _ he1_3
    exact wireFault_sound (sound_of_pair he1_3 (wireTries_sound h))
  · rename_i _ _ he1_2
    exact wireFault_sound (sound_of_pair he1_2 (wireTries_sound h))

theorem wireWrite_sound {tag : Option Nat} {entry offset : Nat} {data : List Byte} {bus : WireBus} (h : s.Sound K) :
    (s.wireWrite tag entry offset data bus).Sound K := by
  unfold State.wireWrite
  extract_lets cmd
  split
  · rename_i _ _ _ he1_3
    exact pullUp_sound (sound_of_pair he1_3 (wireTries_sound h))
  · rename_i _ _ _ he1_3
    exact wireFault_sound (sound_of_pair he1_3 (wireTries_sound h))
  · rename_i _ _ he1_2
    exact wireFault_sound (sound_of_pair he1_2 (wireTries_sound h))

theorem wireOp_sound {tag entry : Option Nat} {f : State → State} (h : s.Sound K) (hf : ∀ u : State, u.Sound K → (f u).Sound K) :
    (s.wireOp tag entry f).Sound K := by
  unfold State.wireOp
  split
  · exact wireDone_sound h
  · exact hf _ h

theorem startWire_sound {spuEn fixedSeed : Bool} {maxRounds : Nat} (h : s.Sound K) :
    (startWire spuEn fixedSeed maxRounds s).2.Sound K := by
  unfold startWire
  exact sound_ite_snd h (sound_ite_snd h (sound_ite_snd h (sound_of_foot h rfl)))

theorem stopWire_sound (h : s.Sound K) : (stopWire s).2.Sound K := by
  unfold stopWire
  exact sound_ite_snd h (sound_of_foot h rfl)

theorem execWireStart_sound {spuEn fixedSeed : Bool} {maxRounds : Nat} (h : s.Sound K) :
    Answers K (execWireStart spuEn fixedSeed maxRounds s) :=
  answers_runReg h (fun _ hu => startWire_sound hu)

theorem execWireStop_sound (h : s.Sound K) : Answers K (execWireStop s) := answers_runReg h (fun _ hu => stopWire_sound hu)

theorem pullUpEnd_sound {sagged : Bool} (h : s.Sound K) : (s.pullUpEnd sagged).Sound K := by
  unfold State.pullUpEnd
  extract_lets tag code st s1
  have hs1 : s1.Sound K := sound_of_foot h rfl
  split
  · exact h
  · exact sound_ite h (sound_ite (wireFault_sound hs1) (wireDone_sound hs1))

theorem execStrongPullupEnd_sound {sagged : Bool} (h : s.Sound K) : Answers K (execStrongPullupEnd sagged s) :=
  answers_runCoreL h (fun _ hu => pullUpEnd_sound hu)

theorem readId_sound (h : s.Sound K) : (readId s).2.Sound K := by
  unfold readId
  exact sound_of_foot h rfl

theorem execIdDataRead_sound (h : s.Sound K) : Answers K (execIdDataRead s) := answers_runWindow h (fun _ hu => readId_sound hu)

/-! ### Flags -/

theorem clearPortRc_sound {p o : Nat} (h : s.Sound K) : (s.clearPortRc p o).Sound K := by
  unfold State.clearPortRc
  exact updPort_sound h

theorem clearRc_sound {a : Nat} (h : s.Sound K) : (s.clearRc a).Sound K := by
  unfold State.clearRc
  exact sound_ite (sound_of_foot h rfl) (sound_ite (clearPortRc_sound h) (sound_ite (sound_of_foot h rfl) (sound_ite (sound_of_foot h rfl)
    (sound_ite (sound_of_foot h rfl) (sound_ite (sound_of_foot h rfl) (sound_ite (sound_of_foot h rfl) (sound_ite
      (sound_of_foot h rfl) h)))))))

theorem touchRead_sound {a : Nat} (h : s.Sound K) : (s.touchRead a).Sound K := by
  unfold State.touchRead
  exact sound_ite (sound_of_foot h rfl) (sound_ite (sound_of_foot h rfl) (sound_ite (sound_of_foot h rfl) (sound_ite (readId_sound h)
    (sound_ite (sound_of_foot h rfl) h))))

theorem sampled_sound {as : List Nat} (h : s.Sound K) : (s.sampled as).Sound K := by
  unfold State.sampled
  extract_lets s1 s2
  have hs1 : s1.Sound K := sound_ite (sound_of_foot h rfl) h
  have hs2 : s2.Sound K := sound_ite (sound_of_foot hs1 rfl) hs1
  exact sound_ite (sound_of_foot hs2 rfl) hs2

theorem readHost_sound {a : Nat} (h : s.Sound K) : (s.readHost a).2.Sound K := by
  unfold State.readHost
  exact clearRc_sound (touchRead_sound h)

theorem readDebug_sound {a : Nat} (h : s.Sound K) : (s.readDebug a).2.Sound K := by
  unfold State.readDebug
  extract_lets s1
  have hs1 : s1.Sound K := sampled_sound h
  exact touchRead_sound hs1

/-! ### Operands -/

theorem accept_sound {ok : Bool} {f : State → State} (h : s.Sound K) (hf : ∀ u : State, u.Sound K → (f u).Sound K) :
    (accept ok f s).2.Sound K := by
  unfold accept
  exact sound_ite_snd (hf _ h) h

theorem ctrlWrite_sound {fn : FnState} {v : Nat} {stop start take : State → Nat × State} (h : s.Sound K) (hstop : ∀ u : State, u.Sound K →
    (stop u).2.Sound K) (hstart : ∀ u : State, u.Sound K → (start u).2.Sound K) (htake : ∀ u : State, u.Sound K → (take u).2.Sound K) :
    (ctrlWrite fn v stop start take s).2.Sound K := by
  unfold ctrlWrite
  exact sound_ite_snd (sound_ite_snd (hstop _ h) h) (sound_ite_snd h (sound_ite_snd (hstart _ h) (htake _ h)))

theorem readOnly_sound {fn : FnState} (h : s.Sound K) : (readOnly fn s).2.Sound K := by
  unfold readOnly
  exact h

theorem writeMode_sound {a v : Nat} (h : s.Sound K) : (writeMode a v s).2.Sound K := by
  unfold writeMode
  extract_lets set_ key
  have hset_ (x : Bool) (x1 : ModeSt → ModeSt) : (set_ x x1).2.Sound K := accept_sound h (fun _ hu => sound_of_foot hu rfl)
  clear_value set_
  exact sound_ite_snd (sound_ite_snd (requestShip_sound h) (sound_ite_snd (requestReset_sound h) (sound_ite_snd
    (requestResume_sound h) h))) (sound_ite_snd (hset_ _ _) (sound_ite_snd (hset_ _ _) (sound_ite_snd (hset_ _ _) h)))

theorem writeSweep_sound {a v : Nat} (h : s.Sound K) : (writeSweep a v s).2.Sound K := by
  unfold writeSweep
  extract_lets par mask r
  have hpar (x : Bool) (x1 : SweepPar → SweepPar) : (par x x1).2.Sound K := sound_ite_snd h (accept_sound h
    (fun _ hu => sound_of_foot hu rfl))
  clear_value par
  exact sound_ite_snd (ctrlWrite_sound h (fun _ hu => stopSweepReg_sound hu) (fun _ hu => startSweep_sound hu)
    (fun _ hu => sound_of_foot hu rfl)) (sound_ite_snd (hpar _ _) (sound_ite_snd (hpar _ _) (sound_ite_snd (hpar _ _) (sound_ite_snd
      (hpar _ _) (sound_ite_snd (hpar _ _) (sound_ite_snd (hpar _ _) (sound_ite_snd (hpar _ _) (sound_ite_snd (hpar _ _) (sound_ite_snd
        (hpar _ _) (sound_ite_snd (hpar _ _) (sound_ite_snd (hpar _ _) (sound_ite_snd (sound_ite_snd h (sound_of_foot h rfl))
          (sound_ite_snd (readOnly_sound h) h)))))))))))))

theorem surveyStartWrite_sound {v : Nat} (h : s.Sound K) : (surveyStartWrite v s).2.Sound K := by
  unfold surveyStartWrite
  extract_lets go
  have hgo (u : State) (hu : u.Sound K) : (go u).2.Sound K := startSurvey_sound hu
  clear_value go
  exact sound_ite_snd (hgo _ (baseSave_sound h)) (hgo _ h)

theorem writeSurvey_sound {a v : Nat} (h : s.Sound K) : (writeSurvey a v s).2.Sound K := by
  unfold writeSurvey
  extract_lets upd par
  have hupd (f : SurveyPar → SurveyPar) (u : State) (hu : u.Sound K) : (upd f u).Sound K := sound_of_foot hu rfl
  have hpar (ok : Bool) (f : SurveyPar → SurveyPar) : (par ok f).2.Sound K := sound_ite_snd h (accept_sound h (hupd f))
  clear_value upd par
  refine sound_ite_snd (ctrlWrite_sound h (fun _ hu => stopSurvey_sound hu) (fun _ hu => surveyStartWrite_sound hu) fun u hu => ?_)
    (sound_ite_snd (hpar _ _) (sound_ite_snd (hpar _ _) (sound_ite_snd (hpar _ _) (sound_ite_snd (hpar _ _) (sound_ite_snd (hpar _ _)
      (sound_ite_snd (sound_ite_snd h (accept_sound h fun _ hu => sound_of_foot hu rfl)) (sound_ite_snd (writeBase_sound h)
        (sound_ite_snd (hpar _ _) (sound_ite_snd (hpar _ _) (sound_ite_snd (readOnly_sound h) h))))))))))
  exact sound_ite_snd (baseSave_sound (hupd _ u hu)) (hupd _ u hu)

theorem writeBalance_sound {a v : Nat} (h : s.Sound K) : (writeBalance a v s).2.Sound K := by
  unfold writeBalance
  extract_lets par bal en
  have hpar (x : Bool) (x1 : State → State) (hx1 : ∀ (a : State), State.Sound K a → State.Sound K (x1 a)) :
    (par x x1).2.Sound K := sound_ite_snd h (accept_sound h hx1)
  have hbal (x : Bool) (x1 : BalanceSt → BalanceSt) : (bal x x1).2.Sound K := hpar _ _ (fun _ hu => sound_of_foot hu rfl)
  clear_value par bal
  exact sound_ite_snd (ctrlWrite_sound h (fun _ hu => stopBalance_sound hu) (fun _ hu => startBalance_sound hu)
    (fun _ hu => sound_of_foot hu rfl)) (sound_ite_snd (hbal _ _) (sound_ite_snd (hbal _ _) (sound_ite_snd (hbal _ _) (sound_ite_snd
      (hbal _ _) (sound_ite_snd (hpar _ _ (fun _ hu => updCell_sound hu)) h)))))

theorem diagChange_sound {named : Bool} {a v : Nat} (h : s.Sound K) : (s.diagChange named a v).Sound K := by
  unfold State.diagChange
  exact sound_ite (ledger_sound h) h

theorem writeDiag_sound {a v : Nat} (h : s.Sound K) : (writeDiag a v s).2.Sound K := by
  unfold writeDiag
  extract_lets d set_ s1 s2
  have hs1 : s1.Sound K := diagChange_sound (sound_of_foot h rfl)
  have hs2 : s2.Sound K := sound_ite (harnessNow_sound hs1) hs1
  exact sound_ite_snd (diagChange_sound (sound_of_foot h rfl)) (sound_ite_snd (accept_sound h (fun _ hu => diagChange_sound
    (sound_of_foot hu rfl))) (sound_ite_snd (accept_sound h (fun _ hu => diagChange_sound (sound_of_foot hu rfl))) (sound_ite_snd
      (accept_sound h (fun _ hu => sound_of_foot hu rfl)) (sound_ite_snd (sound_ite (switchNow_sound hs2) hs2) (sound_ite_snd
        (accept_sound h (fun _ hu => sound_of_foot hu rfl)) (sound_ite_snd (accept_sound h (fun _ hu => sound_of_foot hu rfl))
          (sound_ite_snd (accept_sound h (fun _ hu => sound_of_foot hu rfl)) (sound_ite_snd (accept_sound h
            (fun _ hu => sound_of_foot hu rfl)) (sound_ite_snd (accept_sound h (fun _ hu => sound_of_foot hu rfl)) (sound_ite_snd
              (writeTable_sound h) h))))))))))

theorem writeGlean_sound {a v : Nat} (h : s.Sound K) : (writeGlean a v s).2.Sound K := by
  unfold writeGlean
  split
  · refine accept_sound h (fun u hu => ?_)
    extract_lets r s1
    have hs1 : s1.Sound K := sound_of_foot hu rfl
    exact admitAll_sound (sound_foldl hs1 (fun _ _ hu => islandLeaves_sound hu))
  · exact sound_ite_snd (accept_sound h (fun _ hu => sound_of_foot hu rfl)) h

theorem writePort_sound {p o v : Nat} (h : s.Sound K) : (writePort p o v s).2.Sound K := by
  unfold writePort
  extract_lets q par
  exact sound_ite_snd (ctrlWrite_sound h (fun _ hu => stopPort_sound hu) (fun _ hu => startPort_sound hu) (fun _ hu => accept_sound hu
    (fun _ hu1 => updPort_sound hu1))) (sound_ite_snd (updPort_sound h) (sound_ite_snd (sound_ite_snd h (accept_sound h
      (fun _ hu => updPort_sound hu))) (sound_ite_snd (sound_ite_snd h (accept_sound h (fun _ hu => updPort_sound hu))) h)))

theorem writeTree_sound {a v : Nat} (h : s.Sound K) : (writeTree a v s).2.Sound K := by
  unfold writeTree
  extract_lets set_
  have hset (ok : Bool) (f : TreeSt → TreeSt) (hr : ∀ u, (f u).routes = u.routes) (hh : ∀ u, (f u).heldArea = u.heldArea) :
      (set_ ok f).2.Sound K := accept_sound h fun _ hu => sound_of_foot hu (by simp [State.foot, hr, hh])
  clear_value set_
  refine sound_ite_snd (hset _ _ (fun _ => rfl) fun _ => rfl) (sound_ite_snd (hset _ _ (fun u => ?_) fun u => ?_)
    (sound_ite_snd (hset _ _ (fun _ => rfl) fun _ => rfl) h)) <;> split <;> rfl

theorem recharge_sound {changed : Bool} (h : s.Sound K) : (s.recharge changed).Sound K := by
  unfold State.recharge
  exact sound_ite (sound_of_foot h rfl) h

theorem chargeEnable_sound {on : Bool} (h : s.Sound K) : (s.chargeEnable on).Sound K := by
  unfold State.chargeEnable
  extract_lets s1
  have hs1 : s1.Sound K := sound_of_foot h rfl
  exact sound_ite (sound_ite (chgFault_sound hs1) (sound_of_foot hs1 rfl)) (sound_ite (sound_of_foot h rfl) h)

theorem writePower_sound {a v : Nat} (h : s.Sound K) : (writePower a v s).2.Sound K := by
  unfold writePower
  extract_lets set_
  exact sound_ite_snd (accept_sound h (fun _ hu => updPower_sound (chargeEnable_sound (sound_of_foot hu rfl)))) (sound_ite_snd
    (accept_sound h (fun _ hu => updPower_sound (recharge_sound (sound_of_foot hu rfl)))) (sound_ite_snd (accept_sound h
      (fun _ hu => updPower_sound (recharge_sound (sound_of_foot hu rfl)))) (sound_ite_snd (accept_sound h
        (fun _ hu => sound_of_foot hu rfl)) (sound_ite_snd (accept_sound h (fun _ hu => sound_of_foot hu rfl)) (sound_ite_snd
          (accept_sound h (fun _ hu => sound_of_foot hu rfl)) h)))))

theorem writeWdog_sound {a v : Nat} (h : s.Sound K) : (writeWdog a v s).2.Sound K := by
  unfold writeWdog
  extract_lets set_ w
  exact sound_ite_snd (sound_ite_snd h (sound_ite_snd (startWdog_sound h) h)) (sound_ite_snd (accept_sound h
    (fun _ hu => sound_of_foot hu rfl)) (sound_ite_snd (accept_sound h (fun _ hu => sound_of_foot hu rfl)) (sound_ite_snd (accept_sound h
      (fun _ hu => sound_of_foot hu rfl)) h)))

theorem writeFault_sound {a v : Nat} (h : s.Sound K) : (writeFault a v s).2.Sound K := by
  unfold writeFault
  extract_lets set_ masked r
  have hset_ (x : Bool) (x1 : FaultSt → FaultSt) : (set_ x x1).2.Sound K := accept_sound h (fun _ hu => sound_of_foot hu rfl)
  have hmasked (u : State) (hu : u.Sound K) : (masked u).Sound K := ledger_sound hu
  clear_value set_ masked
  exact sound_ite_snd (hset_ _ _) (sound_ite_snd (hset_ _ _) (sound_ite_snd (hmasked _ (sound_of_foot h rfl)) (sound_ite_snd (hmasked _
    (sound_of_foot h rfl)) (sound_ite_snd (ackFault_sound h) h))))

theorem writeCheck_sound {k o v : Nat} (h : s.Sound K) : (writeCheck k o v s).2.Sound K := by
  unfold writeCheck
  extract_lets c par
  exact sound_ite_snd (sound_ite_snd h (ctrlWrite_sound h (fun _ hu => stopCheck_sound hu) (fun _ hu => startCheck_sound hu)
    (fun _ hu => hu))) (sound_ite_snd (sound_ite_snd h (accept_sound h (fun _ hu => updChk_sound hu))) (sound_ite_snd (sound_ite_snd h
      (accept_sound h (fun _ hu => updChk_sound hu))) (sound_ite_snd (sound_ite_snd h (accept_sound h (fun _ hu => updChk_sound hu)))
        (sound_ite_snd (sound_ite_snd h (accept_sound h (fun _ hu => updChk_sound hu))) (sound_ite_snd (feedCheck_sound h) (sound_ite_snd
          (feedCheck_sound h) (sound_ite_snd (feedCheck_sound h) (sound_ite_snd (sound_ite_snd h (sound_ite_snd h (closeCheck_sound h)))
            (sound_ite_snd (readOnly_sound h) h)))))))))

theorem writeWire_sound {a v : Nat} (h : s.Sound K) : (writeWire a v s).2.Sound K := by
  unfold writeWire
  exact sound_ite_snd (ctrlWrite_sound h (fun _ hu => stopWire_sound hu) (fun _ hu => startWire_sound hu) (fun _ hu => accept_sound hu
    (fun _ hu1 => sound_of_foot hu1 rfl))) (sound_ite_snd (sound_ite_snd h (sound_of_foot h rfl)) (sound_ite_snd (sound_of_foot h rfl) h))

theorem flashCtrl_sound {v : Nat} (h : s.Sound K) : (flashCtrl v s).2.Sound K := by
  unfold flashCtrl
  extract_lets andThen
  exact sound_ite_snd (commitLoaded_sound (sound_ite_snd (configSave_sound (sound_ite_snd (abandonCommit_sound h) h)) (sound_ite_snd
    (abandonCommit_sound h) h))) (sound_ite_snd (configSave_sound (sound_ite_snd (abandonCommit_sound h) h)) (sound_ite_snd
      (abandonCommit_sound h) h))

theorem writeFlash_sound {dbg : Bool} {a v : Nat} (h : s.Sound K) : (writeFlash dbg a v s).2.Sound K := by
  unfold writeFlash
  exact sound_ite_snd (sound_ite_snd h (flashCtrl_sound h)) (sound_ite_snd (accept_sound h (fun _ hu => sound_of_foot hu rfl))
    (sound_ite_snd (accept_sound h (fun _ hu => sound_of_foot hu rfl)) (sound_ite_snd (configWrite_sound h) h)))

theorem debugStep_sound {badBank : Option Nat} (h : s.Sound K) : (debugStep badBank s).2.Sound K := by
  unfold debugStep
  extract_lets r s1 r1
  have hs1 : s1.Sound K := sound_of_foot h rfl
  split
  · exact h
  · split
    · exact hs1
    · extract_lets t t1 r2
      have ht : t.Sound K := take_sound (admitOne_sound (sound_of_foot hs1 rfl))
      have ht1 : t1.Sound K := sound_ite (releaseStepped_sound (finishJob_sound ht)) ht
      exact sound_of_foot ht1 rfl

theorem debugCtrl_sound {v : Nat} (h : s.Sound K) : (debugCtrl v s).2.Sound K := by
  unfold debugCtrl
  extract_lets s1 s2 s3
  have hs1 : s1.Sound K := sound_ite (debugHalt_sound h) h
  have hs2 : s2.Sound K := sound_ite (debugResume_sound hs1) hs1
  have hs3 : s3.Sound K := sound_ite (debugStep_sound hs2) hs2
  exact sound_ite (debugReset_sound hs3) hs3

theorem writeDebug_sound {a v : Nat} (h : s.Sound K) : (writeDebug a v s).2.Sound K := by
  unfold writeDebug
  extract_lets brk
  have hbrk (x : Nat) (x1 : BreakSt → BreakSt) (u2 : State) (hu2 : u2.Sound K) : (brk x x1 u2).Sound K := sound_mk hu2 (by simp
    [State.foot])
  clear_value brk
  exact sound_ite_snd (debugCtrl_sound h) (sound_ite_snd (sound_ite_snd (accept_sound h (fun _ hu => hbrk _ _ _ hu)) (hbrk _ _ _ h)) h)

theorem writeWord_sound {dbg : Bool} {a v : Nat} (h : s.Sound K) : (writeWord dbg a v s).2.Sound K := by
  unfold writeWord
  extract_lets v
  exact sound_ite_snd h (sound_ite_snd h (sound_ite_snd (writeMode_sound h) (sound_ite_snd (writeSweep_sound h)
    (sound_ite_snd (writeSurvey_sound h) (sound_ite_snd (writeBalance_sound h) (sound_ite_snd (writeDiag_sound h)
    (sound_ite_snd (writeGlean_sound h) (sound_ite_snd (writePort_sound h) (sound_ite_snd (writeTree_sound h)
    (sound_ite_snd (writePower_sound h) (sound_ite_snd (writeWdog_sound h) (sound_ite_snd (writeFault_sound h)
    (sound_ite_snd (writeCheck_sound h) (sound_ite_snd (writeWire_sound h) (sound_ite_snd (writeFlash_sound h)
    (sound_ite_snd (sound_ite_snd (writeDebug_sound h) h) h))))))))))))))))

theorem writeHost_sound {a v : Nat} (h : s.Sound K) : (s.writeHost a v).2.Sound K := by
  unfold State.writeHost
  exact sound_ite_snd h (writeWord_sound h)

theorem portWrite_sound {a v : Nat} (h : s.Sound K) : (s.writePort a v).2.Sound K := by
  unfold State.writePort
  exact sound_ite_snd h (writeWord_sound h)

theorem execTimeLoRead_sound (h : s.Sound K) : Answers K (execTimeLoRead s) := answers_runWindow h (fun _ hu => readHost_sound hu)

theorem debugRead_sound {addr : Nat} (h : s.Sound K) : (debugRead addr s).2.2.Sound K := by
  unfold debugRead
  exact sound_ite_snd_snd h (sound_ite_snd_snd h (readDebug_sound h))

theorem execDebugParamRead_sound {addr chk : Nat} (h : s.Sound K) : Answers K (execDebugParamRead addr chk s) :=
  answers_run h (fun _ hu => dbgOp_sound hu (fun _ hu1 => debugRead_sound hu1))

theorem debugWrite_sound {addr value : Nat} (h : s.Sound K) : (debugWrite addr value s).2.2.Sound K := by
  unfold debugWrite
  exact sound_ite_snd_snd h (portWrite_sound h)

theorem execDebugParamWrite_sound {addr value chk : Nat} (h : s.Sound K) : Answers K (execDebugParamWrite addr value chk s) :=
  answers_runS h (fun _ hu => dbgOp_sound hu (fun _ hu1 => debugWrite_sound hu1))

theorem execDebugStep_sound {badBank : Option Nat} (h : s.Sound K) : Answers K (execDebugStep badBank s) :=
  answers_runL h (fun _ hu => dbgDo_sound hu (fun _ hu1 => debugStep_sound hu1))

theorem granaryRead_sound {addr : Nat} (h : s.Sound K) : (granaryRead addr s).2.2.Sound K := by
  unfold granaryRead
  split
  · exact h
  · split
    · exact h
    · exact sound_of_foot h rfl

theorem execGranaryRead_sound {addr chk : Nat} (h : s.Sound K) : Answers K (execGranaryRead addr chk s) :=
  answers_run h (fun _ hu => dbgOp_sound hu (fun _ hu1 => granaryRead_sound hu1))

theorem granaryWrite_sound {addr value : Nat} (h : s.Sound K) : (granaryWrite addr value s).2.2.Sound K :=
  sound_ite_snd_snd h { h with granary := fun hk => gwrite_rising _ _ _ (h.granary hk) }

theorem execGranaryWrite_sound {addr value chk : Nat} (h : s.Sound K) : Answers K (execGranaryWrite addr value chk s) :=
  answers_run h (fun _ hu => dbgOp_sound hu (fun _ hu1 => granaryWrite_sound hu1))

theorem commitPending_sound (h : s.Sound K) : s.commitPending.Sound K := by
  unfold State.commitPending
  extract_lets c s1
  have hs1 : s1.Sound K := sound_of_foot h rfl
  split
  · exact sound_ite (sendPending_sound (sound_of_foot hs1 rfl)) h
  · exact h

theorem execCommitPendingTimer_sound (h : s.Sound K) : Answers K (execCommitPendingTimer s) :=
  answers_runCoreL h (fun _ hu => commitPending_sound hu)

/-! ### Act -/

theorem readAll_sound {addrs : List Nat} (h : s.Sound K) : (s.readAll addrs).2.Sound K := by
  unfold State.readAll
  refine sound_foldl_snd h (fun u x0 hu => ?_)
  extract_lets r
  have hr : r.2.Sound K := readHost_sound hu
  exact hr

theorem paramRead_sound {a n : Nat} (h : s.Sound K) : (s.paramRead a n).2.2.Sound K := by
  unfold State.paramRead
  extract_lets st as
  exact sound_ite_snd_snd (readAll_sound (sampled_sound h)) h

theorem writeAll_sound {a : Nat} {ws : List Nat} (h : s.Sound K) : (s.writeAll a ws).2.Sound K := by
  induction ws generalizing s a with
  | nil => exact h
  | cons w ws ih => exact sound_ite_snd (ih (writeHost_sound h)) (writeHost_sound h)

theorem writeVerify_sound {a : Nat} {ws : List Nat} (h : s.Sound K) : (s.writeVerify a ws).2.Sound K :=
  have hwrite : (s.writeAll a ws).2.Sound K := writeAll_sound h
  sound_ite_snd hwrite (sound_ite_snd hwrite hwrite)

theorem respondWith_sound {tag : Option Nat} {c : Contribution} {status : Nat} (h : s.Sound K) :
    (s.respondWith tag c status).Sound K := by
  unfold State.respondWith
  extract_lets s1
  have hs1 : s1.Sound K := sound_of_foot h rfl
  split
  · exact hs1
  · exact contribute_sound hs1

theorem actRead_sound {tag : Option Nat} {a n : Nat} (h : s.Sound K) : (s.actRead tag a n).Sound K := by
  unfold State.actRead
  extract_lets r r1
  have hr : r.2.2.Sound K := paramRead_sound h
  exact respondWith_sound hr

theorem actLog_sound {tag : Option Nat} {log first number : Nat} (h : s.Sound K) : (s.actLog tag log first number).Sound K := by
  unfold State.actLog
  extract_lets r
  split
  · rename_i _ _ _ he1_3
    exact respondWith_sound (sound_of_pair he1_3 (sound_ite_snd (readWords_sound h) h))

theorem actCheck_sound {tag : Option Nat} {owes : Option (Nat × Nat × Nat × Nat)} {unit area poly offset length expect : Nat}
    {bytes : List Byte} {err : ReadErr} (h : s.Sound K) :
    (s.actCheck tag owes unit area poly offset length expect bytes err).Sound K := by
  unfold State.actCheck
  extract_lets v t r s1 r1
  have hs1 : s1.Sound K := updChk_sound h
  exact sound_ite (respond_sound (payCredits_sound h)) (sound_ite (respond_sound (payCredits_sound h)) (answer_sound (raiseJob_sound
    (sound_of_foot hs1 rfl))))

theorem actExpose_sound {tag : Option Nat} {plan : Plan} {pos depth : Nat} (h : s.Sound K) :
    (s.actExpose tag plan pos depth).Sound K := by
  unfold State.actExpose
  exact sound_ite (respond_sound h) (sound_ite (respond_sound h) (respond_sound (sound_of_foot h rfl)))

theorem actSurvey_sound {tag : Option Nat} {t0 stag pos depth : Nat} (h : s.Sound K) :
    (s.actSurvey tag t0 stag pos depth).Sound K := by
  unfold State.actSurvey
  extract_lets r p r1 reason r2
  have hr1 : r1.2.Sound K := surveyBegin_sound h
  exact respondWith_sound hr1

theorem actCommit_sound {tag : Option Nat} {length crc : Nat} (h : s.Sound K) : (s.actCommit tag length crc).Sound K := by
  unfold State.actCommit
  extract_lets v
  exact sound_ite (answer_sound (openCommit_sound h)) (respond_sound h)

theorem actLoad_sound {tag : Option Nat} {offset length : Nat} {piece : List Byte} {crc : Nat} {owes : Option (Nat × Nat × Nat × Nat)}
    (h : s.Sound K) :
    (s.actLoad tag offset length piece crc owes).Sound K := by
  unfold State.actLoad
  extract_lets s1
  have hs1 : s1.Sound K := by
    unfold s1
    split
    · exact sound_of_foot h rfl
    · exact payCredits_sound h
  exact sound_ite (respond_sound (payCredits_sound h)) (takePiece_sound hs1)

theorem actNow_sound {tag : Option Nat} {src pos depth : Nat} {owes : Option (Nat × Nat × Nat × Nat)} {r : Req} (h : s.Sound K) :
    (s.actNow tag src pos depth owes r).Sound K := by
  unfold State.actNow
  extract_lets s1
  have hs1 : s1.Sound K := payCredits_sound h
  refine sound_ite (respond_sound (payCredits_sound h)) ?_
  split
  · exact acceptQuery_sound h
  · exact actCheck_sound h
  · exact actLoad_sound h
  · split
    · exact actRead_sound hs1
    · exact respond_sound (writeAll_sound hs1)
    · exact respond_sound (writeVerify_sound hs1)
    · exact hs1
    · exact actExpose_sound hs1
    · exact actSurvey_sound hs1
    · exact sessionOpen_sound hs1
    · exact sessionClose_sound hs1
    · exact setPasscode_sound hs1
    · exact safetyWrite_sound hs1
    · exact hs1
    · exact actCommit_sound hs1
    · exact actLog_sound hs1
    · exact hs1
    · exact wireOp_sound hs1 (fun _ hu => wireSearch_sound hu)
    · exact wireOp_sound hs1 (fun _ hu => wireDone_sound hu)
    · exact wireOp_sound hs1 (fun _ hu => wireConvert_sound hu)
    · exact wireOp_sound hs1 (fun _ hu => wireRead_sound hu)
    · exact wireOp_sound hs1 (fun _ hu => wireWrite_sound hu)
    · exact respond_sound hs1
    · exact respond_sound hs1
    · exact respond_sound hs1
    · exact respond_sound hs1
    · exact respond_sound hs1

theorem legacyAct_sound {tag src : Nat} {r : Req} {ds : List LegacyDev} (h : s.Sound K) : (s.legacyAct tag src r ds).Sound K := by
  unfold State.legacyAct
  extract_lets r1 each reg set
  split
  · exact sound_ite (legacyAsk_sound h) (legacyGive_sound h)
  · exact sound_ite (legacyAsk_sound h) (legacyGive_sound h)
  · exact sound_ite (legacyAsk_sound h) (legacyGive_sound h)
  · exact acceptLegacy_sound h
  · exact legacyGive_sound h
  · exact legacyGive_sound h

theorem act_sound {tag : Option Nat} {src pos depth : Nat} {owes : Option (Nat × Nat × Nat × Nat)} {r : Req} (h : s.Sound K) :
    (s.act tag src pos depth owes r).Sound K := by
  unfold State.act
  split
  · exact actNow_sound h
  · extract_lets t r1
    have ht : t.Sound K := breakHit_sound h
    exact sound_ite (sound_of_foot ht rfl) (actNow_sound ht)

theorem goOn_sound (h : s.Sound K) : s.goOn.Sound K := by
  unfold State.goOn
  extract_lets hs r s1
  have hs1 : s1.Sound K := sound_of_foot h rfl
  exact sound_ite h (flush_sound (release_sound (placeAll_sound (sound_foldl hs1 (fun _ _ hu => actNow_sound hu)))))

/-! ### Command -/

theorem nextRef_sound {hasScope : Bool} {dest depth : Nat} (h : s.Sound K) : (s.nextRef hasScope dest depth).2.2.Sound K := by
  unfold State.nextRef
  extract_lets is r c r1
  have hr1 : r1.Sound K := sound_of_foot h rfl
  split
  · extract_lets c1
    exact sound_of_foot h rfl
  · exact sound_of_foot hr1 rfl

theorem commandFrame_sound {tag pos depth : Nat} {r : Req} {copy : Bool} (h : s.Sound K) :
    (s.commandFrame tag pos depth r copy).2.Sound K := by
  unfold State.commandFrame
  extract_lets sc
  split
  · rename_i _ _ _ _ he1_4
    extract_lets f
    exact sound_of_triple he1_4 (nextRef_sound h)

theorem openHarvest_sound {tag : Nat} {up : Option Nat} {r : Req} {src pos depth : Nat} {ports : List (Option Nat)} {owes : Option
    (Nat × Nat × Nat × Nat)} (h : s.Sound K) :
    (s.openHarvest tag up r src pos depth ports owes).Sound K := by
  unfold State.openHarvest
  extract_lets h1 r1
  exact holdFrame_sound (raiseJob_sound (sound_of_foot h rfl))

theorem ownParts_sound {f : Frame} {ok : Bool} {r : Req} {own : Bool} {ds : List LegacyDev} {owes : Option (Nat × Nat × Nat × Nat)}
    (h : s.Sound K) :
    (s.ownParts f ok r own ds owes).Sound K := by
  unfold State.ownParts
  extract_lets s1 rej s2
  have hs1 : s1.Sound K := sound_ite h (holdFrame_sound (legacyAct_sound h))
  have hs2 : s2.Sound K := sound_ite h (legacyGive_sound h)
  exact sound_ite (sound_ite (act_sound hs1) (payCredits_sound hs1)) (sound_ite (contribute_sound (payCredits_sound hs2))
    (payCredits_sound hs2))

theorem commandHere_sound {a : Arrival} {f : Frame} {r : Req} (h : s.Sound K) : (s.commandHere a f r).Sound K := by
  unfold State.commandHere
  extract_lets below copy r1
  split
  · rename_i _ _ _ he1_3
    extract_lets ds kids
    split
    · rename_i _ _ _ he3_3
      extract_lets collects s1 r2 s2 s3
      have hs1 : s1.Sound K := sound_ite (sound_of_pair he3_3 (checkCommand_sound (sound_of_pair he1_3 (spread_sound h))))
        (openHarvest_sound (sound_of_pair he3_3 (checkCommand_sound (sound_of_pair he1_3 (spread_sound h)))))
      have hs2 : s2.Sound K := sound_ite hs1 (sound_of_foot hs1 rfl)
      have hs3 : s3.Sound K := sound_ite (sound_of_foot hs2 rfl) hs2
      exact ownParts_sound hs3

theorem commandThrough_sound {a : Arrival} {f : Frame} {r : Req} (h : s.Sound K) : (s.commandThrough a f r).Sound K := by
  unfold State.commandThrough
  split
  · extract_lets g s1
    have hs1 : s1.Sound K := openHarvest_sound h
    exact sound_ite (enqueue_sound hs1) (enqueue_sound h)
  · exact h

theorem commandLegacy_sound {a : Arrival} {f : Frame} {r : Req} (h : s.Sound K) : (s.commandLegacy a f r).Sound K := by
  unfold State.commandLegacy
  extract_lets r1
  split
  · rename_i _ _ _ he1_3
    extract_lets r2 s1 s2 s3
    have hs1 : s1.Sound K := sound_ite (sound_of_pair he1_3 (checkCommand_sound h)) (sound_mk (sound_of_pair he1_3
      (checkCommand_sound h)) rfl)
    have hs2 : s2.Sound K := sound_ite (openHarvest_sound hs1) hs1
    have hs3 : s3.Sound K := sound_ite (sound_of_foot hs2 rfl) hs2
    exact ownParts_sound hs3

theorem reopen_sound {tag : Nat} (h : s.Sound K) : (s.reopen tag).Sound K := sound_of_foot h rfl

theorem commandIn_sound {a : Arrival} {f : Frame} {r : Req} (h : s.Sound K) : (s.commandIn a f r).Sound K := by
  unfold State.commandIn
  split
  · rename_i _ _ _ he0_3
    extract_lets s1
    have hs1 : s1.Sound K := reopen_sound (touchWalk_sound (sound_of_pair he0_3 (hop_sound h)))
    exact sound_ite (sound_of_pair he0_3 (hop_sound h)) (sound_ite (sound_ite (commandHere_sound hs1) (countCondemned_sound hs1))
      (sound_ite (sound_ite (commandLegacy_sound hs1) (countCondemned_sound hs1)) (commandThrough_sound hs1)))

theorem execCommandFrameReceive_sound {a : Arrival} {f : Frame} {req : Req} (h : s.Sound K) :
    Answers K (execCommandFrameReceive a f req s) :=
  answers_runS h (fun _ hu => sound_when hu (fun _ hu1 => commandIn_sound hu1))

theorem issue_sound {tag pos depth : Nat} {r : Req} {copy : Bool} (h : s.Sound K) : (s.issue tag pos depth r copy).2.Sound K := by
  unfold State.issue
  split
  · rename_i _ _ _ he0_3
    extract_lets below
    split
    · split
      · rename_i _ _ _ he3_3
        extract_lets ds
        split
        · rename_i _ _ _ he5_3
          exact sound_of_pair he5_3 (checkCommand_sound (sound_of_pair he3_3 (spread_sound (sound_of_pair he0_3 (commandFrame_sound h)))))
    · split
      · split
        · rename_i _ _ _ he4_3
          exact sound_of_pair he4_3 (checkCommand_sound (sound_of_pair he0_3 (commandFrame_sound h)))
      · split
        · exact enqueue_sound (sound_of_pair he0_3 (commandFrame_sound h))
        · exact sound_of_pair he0_3 (commandFrame_sound h)

theorem issuedParts_sound {t : Tx} {i : Issued} (h : s.Sound K) : (s.issuedParts t i).Sound K := by
  unfold State.issuedParts
  exact ownParts_sound (sound_ite h (sound_of_foot h rfl))

theorem sendPieces_sound {tag pos depth : Nat} {bs : List Byte} (h : s.Sound K) : (s.sendPieces tag pos depth bs).Sound K := by
  unfold State.sendPieces
  refine sound_foldl h (fun u x0 hu => ?_)
  extract_lets f
  exact sound_ite (spread_sound hu) (sendTo_sound hu)

theorem takeTx_sound {d : Hdr} {r : Req} {copyOf : Option Nat} (h : s.Sound K) {p : Tx × State} (hp : s.takeTx d r copyOf = some p) :
    p.2.Sound K := by
  unfold State.takeTx at hp
  split at hp
  · cases hp
  · cases hp
    exact sound_of_foot h rfl

theorem sendCopy_sound {x : Tx} {r : Req} {c : Nat × Nat} (h : s.Sound K) : (s.sendCopy x r c).Sound K := by
  unfold State.sendCopy
  split
  · exact h
  · rename_i k s1 htake
    have hs1 : s1.Sound K := takeTx_sound (p := (k, s1)) h htake
    dsimp only
    split
    · exact sendPieces_sound (issue_sound (sound_mk (sound_mk hs1 rfl) rfl))
    · exact issue_sound (sound_mk (sound_mk hs1 rfl) rfl)

theorem startHarvested_sound {t : Tx} (h : s.Sound K) : (s.startHarvested t).Sound K := by
  unfold State.startHarvested
  extract_lets h1 r
  split
  · rename_i _ _ _ he1_3
    extract_lets s1 kids s2
    have hs1 : s1.Sound K := by
      unfold s1
      split
      · exact sendPieces_sound (sound_of_pair he1_3 (issue_sound h))
      · exact sound_of_pair he1_3 (issue_sound h)
    have hs2 : s2.Sound K := openHarvest_sound hs1
    exact sound_ite (endTx_sound hs1) (issuedParts_sound (sound_foldl hs2 (fun _ _ hu => sendCopy_sound hu)))

theorem markAll_sound {id : Nat} {ps : List Nat} (h : s.Sound K) : (s.markAll id ps).Sound K := sound_of_foot h rfl

theorem denyLegacy_sound {t : Tx} (h : s.Sound K) : (s.denyLegacy t).Sound K := by
  unfold State.denyLegacy
  exact finishTx_sound h

theorem startSurveyRun_sound {x : Tx} {source : Nat} {ripple : Bool} (h : s.Sound K) : (s.startSurveyRun x source ripple).Sound K := by
  unfold State.startSurveyRun
  extract_lets hdr scope alone s1
  refine sound_ite (denyLegacy_sound h) ?_
  have hs1 : s1.Sound K := markAll_sound h
  clear_value s1
  split
  rename_i i s2 he
  have hs2 : s2.Sound K := sound_of_pair he (issue_sound hs1)
  extract_lets s3 s4
  have hs4 : s4.Sound K := issuedParts_sound (sound_foldl hs2 fun _ _ hu => sendCopy_sound hu)
  clear_value s4
  exact sound_ite (issuedParts_sound (issue_sound hs4)) hs4

theorem startExpose_sound {t : Tx} (h : s.Sound K) : (s.startExpose t).Sound K := by
  unfold State.startExpose
  exact startHarvested_sound (sound_of_foot h rfl)

theorem finishPath_sound {t : Tx} (h : s.Sound K) : (s.finishPath t).Sound K := by
  unfold State.finishPath
  extract_lets v st
  exact settleWaits_sound (postFinal_sound (sound_of_foot h rfl))

theorem nextProbe_sound {id : Nat} (h : s.Sound K) : (s.nextProbe id).Sound K := by
  unfold State.nextProbe
  split
  · exact h
  · split
    · exact sound_ite (finishPath_sound h) (sendTo_sound (sound_of_foot h rfl))
    · exact h

theorem startPath_sound {t : Tx} {times : Nat} (h : s.Sound K) : (s.startPath t times).Sound K := by
  unfold State.startPath
  exact sound_ite (finishPath_sound h) (sound_ite (denyLegacy_sound h) (nextProbe_sound h))

theorem startTrigger_sound {t : Tx} {at_ num : Nat} {now : Bool} (h : s.Sound K) : (s.startTrigger t at_ num now).Sound K := by
  unfold State.startTrigger
  extract_lets tt s1 s2
  have hs1 : s1.Sound K := sound_foldl h (fun _ _ hu => sendScoped_sound hu)
  have hs2 : s2.Sound K := sound_ite (takeStrobe_sound (abandonStep_sound hs1)) hs1
  exact sound_ite (denyLegacy_sound h) (settleWaits_sound (postFinal_sound (sound_of_foot hs2 rfl)))

theorem startTx_sound {t : Tx} (h : s.Sound K) : (s.startTx t).Sound K := by
  unfold State.startTx
  split
  · exact startTrigger_sound h
  · exact sound_ite (denyLegacy_sound h) (finishTx_sound h)
  · exact sound_ite (denyLegacy_sound h) (walkRoot_sound h)
  · exact startPath_sound h
  · exact startSurveyRun_sound h
  · exact startExpose_sound h
  · exact startHarvested_sound h

theorem submit_sound {d : Hdr} {r : Req} (h : s.Sound K) : (s.submit d r).Sound K := by
  unfold State.submit
  extract_lets s1 v
  have hs1 : s1.Sound K := sound_ite h (contacted_sound h)
  clear_value s1
  refine sound_ite (completeEarly_sound hs1) ?_
  split
  · exact sound_of_foot hs1 rfl
  · rename_i x s2 htake
    have hs2 : s2.Sound K := takeTx_sound (p := (x, s2)) hs1 htake
    exact startTx_sound (answer_sound hs2)

theorem request_sound {h : Hdr} {r : Req} (hs : s.Sound K) : (s.request h r).Sound K := by
  unfold State.request
  exact sound_ite (sound_of_foot hs rfl) (sound_ite (submit_sound hs) (sound_ite (sound_of_foot hs rfl) (act_sound hs)))

theorem answers_runDesc {d : Hdr} {r : Req} (h : s.Sound K) : Answers K (runDesc d r s) :=
  answers_runS h fun _ hu => request_sound hu

/-! ### Host -/

theorem drain_sound (h : s.Sound K) : s.drain.Sound K := by
  unfold State.drain
  exact drainEvents_sound (drainCpl_sound h)

theorem ungate_sound {wasFull : Bool} (h : s.Sound K) : (State.ungate wasFull s).Sound K := by
  unfold State.ungate
  exact sound_ite (flush_sound h) h

theorem drainAll_sound {mem : List (Nat × Byte)} (h : s.Sound K) : (State.drainAll mem s).Sound K := by
  unfold State.drainAll
  exact ungate_sound (drainHeld_sound (drain_sound h))

theorem answers_runBar {f : State → State} (h : s.Sound K) (hf : ∀ u : State, u.Sound K → (f u).Sound K) : Answers K (runBar f s) :=
  answers_run h fun _ hu => sound_when hu hf

theorem refuseBell_sound {r : Nat} (h : s.Sound K) : (s.refuseBell r).Sound K := by
  unfold State.refuseBell
  exact event_sound (updSq_sound h)

theorem bellTail_sound {r tail : Nat} (h : s.Sound K) : (State.bellTail r tail s).Sound K := by
  unfold State.bellTail
  extract_lets q
  exact sound_ite (refuseBell_sound h) (updSq_sound h)

theorem bellHead_sound {r head : Nat} (h : s.Sound K) : (State.bellHead r head s).Sound K := by
  unfold State.bellHead
  extract_lets q
  exact sound_ite (refuseBell_sound h) (drain_sound (updCq_sound h))

theorem execSqTailDoorbell_sound {r tail : Nat} (h : s.Sound K) : Answers K (execSqTailDoorbell r tail s) :=
  answers_runBar h (fun _ hu => bellTail_sound hu)

theorem execCqHeadDoorbell_sound {r head : Nat} {mem : List (Nat × Byte)} (h : s.Sound K) :
    Answers K (execCqHeadDoorbell r head mem s) :=
  answers_runBar h (fun _ hu => ungate_sound (drainHeld_sound (bellHead_sound hu)))

theorem setSqCtrl_sound {r cq weight : Nat} (h : s.Sound K) : (State.setSqCtrl r cq weight s).Sound K := by
  unfold State.setSqCtrl
  extract_lets q
  exact sound_ite (sound_ite h (sound_of_foot h rfl)) (sound_ite (sound_of_foot h rfl) (updSq_sound h))

theorem startSq_sound {r : Nat} (h : s.Sound K) : (State.startSq r s).Sound K := by
  unfold State.startSq
  exact sound_ite (updSq_sound h) h

theorem startSqWith_sound {r cq weight : Nat} (h : s.Sound K) : (State.startSqWith r cq weight s).Sound K := by
  unfold State.startSqWith
  extract_lets t
  have ht : t.Sound K := setSqCtrl_sound h
  exact sound_ite ht (startSq_sound ht)

theorem stopSq_sound {r : Nat} (h : s.Sound K) : (State.stopSq r s).Sound K := by
  unfold State.stopSq
  exact sound_ite (settleSq_sound (updSq_sound h)) h

theorem setCqCtrl_sound {c vector : Nat} {irqEn : Bool} (h : s.Sound K) : (State.setCqCtrl c vector irqEn s).Sound K := by
  unfold State.setCqCtrl
  extract_lets q
  exact sound_ite (sound_ite h (sound_of_foot h rfl)) (updCq_sound h)

theorem startCq_sound {c : Nat} (h : s.Sound K) : (State.startCq c s).Sound K := by
  unfold State.startCq
  exact sound_ite (drain_sound (updCq_sound h)) h

theorem stopCq_sound {c : Nat} (h : s.Sound K) : (State.stopCq c s).Sound K := by
  unfold State.stopCq
  exact sound_ite (sound_of_foot h rfl) (sound_ite (updCq_sound h) h)

theorem execSqStart_sound {r cq weight : Nat} (h : s.Sound K) : Answers K (execSqStart r cq weight s) :=
  answers_runBar h (fun _ hu => startSqWith_sound hu)

theorem execSqStop_sound {r : Nat} (h : s.Sound K) : Answers K (execSqStop r s) := answers_runBar h (fun _ hu => stopSq_sound hu)

theorem execCqStart_sound {c vector : Nat} {irqEn : Bool} (h : s.Sound K) : Answers K (execCqStart c vector irqEn s) :=
  answers_runBar h (fun _ hu => startCq_sound (setCqCtrl_sound hu))

theorem execCqStop_sound {c : Nat} (h : s.Sound K) : Answers K (execCqStop c s) := answers_runBar h (fun _ hu => stopCq_sound hu)

theorem setPool_sound {p listLog2 bufLog2 : Nat} {en : Bool} (h : s.Sound K) :
    (State.setPool p listLog2 bufLog2 en s).Sound K := by
  unfold State.setPool
  extract_lets q s1
  have hs1 : s1.Sound K := sound_ite h (sound_of_foot h rfl)
  exact sound_ite (sound_ite (updPool_sound hs1) (closePools_sound (updPool_sound hs1))) (sound_ite (updPool_sound h) (sound_of_foot h rfl))

theorem disablePool_sound {p : Nat} (h : s.Sound K) : (State.disablePool p s).Sound K := by
  unfold State.disablePool
  exact closePools_sound (updPool_sound h)

theorem setPoolTail_sound {p tail : Nat} (h : s.Sound K) : (State.setPoolTail p tail s).Sound K := by
  unfold State.setPoolTail
  exact sound_ite (sound_of_foot h rfl) (updPool_sound h)

theorem execPoolEnable_sound {p listLog2 bufLog2 : Nat} (h : s.Sound K) : Answers K (execPoolEnable p listLog2 bufLog2 s) :=
  answers_runBar h (fun _ hu => setPool_sound hu)

theorem execPoolDisable_sound {p : Nat} (h : s.Sound K) : Answers K (execPoolDisable p s) :=
  answers_runBar h (fun _ hu => disablePool_sound hu)

theorem execPoolTailWrite_sound {p tail : Nat} {mem : List (Nat × Byte)} (h : s.Sound K) :
    Answers K (execPoolTailWrite p tail mem s) :=
  answers_runBar h (fun _ hu => drainAll_sound (setPoolTail_sound hu))

theorem releaseMsix_sound (h : s.Sound K) : s.releaseMsix.Sound K := by
  unfold State.releaseMsix
  extract_lets go
  exact sound_ite h (sound_foldl (sound_of_foot h rfl) (fun _ _ hu => sound_of_foot hu rfl))

theorem writeMsix_sound {i w : Nat} (h : s.Sound K) : (State.writeMsix i w s).Sound K := by
  unfold State.writeMsix
  extract_lets d v
  exact releaseMsix_sound (sound_of_foot h rfl)

theorem execMsixVectorUnmask_sound {v : Nat} (h : s.Sound K) : Answers K (execMsixVectorUnmask v s) :=
  answers_runBar h (fun _ hu => writeMsix_sound hu)

theorem execInterruptCoalesceTimeout_sound {c : Nat} (h : s.Sound K) : Answers K (execInterruptCoalesceTimeout c s) :=
  answers_run h (fun _ hu => sound_when hu (fun _ hu1 => message_sound (updCq_sound hu1)))

theorem setLink_sound {speed width : Nat} (h : s.Sound K) : (State.setLink speed width s).Sound K := by
  unfold State.setLink
  exact sound_ite (sound_of_foot h rfl) (sound_of_foot h rfl)

theorem retrainPcie_sound {speed width : Nat} (h : s.Sound K) : (State.retrainPcie speed width s).Sound K := by
  unfold State.retrainPcie
  exact sound_ite (trainPcie_sound (setLink_sound h)) (sound_of_foot h rfl)

theorem execLinkRetrain_sound {speed width gotSpeed gotWidth : Nat} (h : s.Sound K) :
    Answers K (execLinkRetrain speed width gotSpeed gotWidth s) :=
  answers_runBar h (fun _ hu => retrainPcie_sound (sound_of_foot hu rfl))

theorem execHostReset_sound {key : Nat} (h : s.Sound K) : Answers K (execHostReset key s) :=
  answers_runBar h (fun _ hu => sound_when hu (fun _ hu1 => resetBy_sound hu1))

theorem perstLow_sound (h : s.Sound K) : s.perstLow.Sound K :=
  { h with sq := fun _ => hostReset_files.1, cq := fun _ => hostReset_files.2.1, pool := fun _ => hostReset_files.2.2 }

theorem functionReset_sound (h : s.Sound K) : s.functionReset.Sound K :=
  { h with sq := fun _ => hostReset_files.1, cq := fun _ => hostReset_files.2.1, pool := fun _ => hostReset_files.2.2 }

theorem execPerstNAssert_sound (h : s.Sound K) : Answers K (execPerstNAssert s) := answers_run h (fun _ hu => perstLow_sound hu)

theorem execFunctionLevelReset_sound (h : s.Sound K) : Answers K (execFunctionLevelReset s) :=
  answers_run h (fun _ hu => sound_when hu (fun _ hu1 => functionReset_sound hu1))

theorem execPerstNDeassert_sound {refclk : Bool} {gotSpeed gotWidth : Nat} (h : s.Sound K) :
    Answers K (execPerstNDeassert refclk gotSpeed gotWidth s) :=
  answers_run h (fun _ hu => trainPcie_sound (sound_of_foot hu rfl))

theorem configEffect_sound {a : CfgReq} (h : s.Sound K) : (s.configEffect a).Sound K := by
  unfold State.configEffect
  split
  · split
    · exact sound_of_foot h rfl
    · exact sound_of_foot h rfl
  · exact answer_sound (releaseMsix_sound (sound_of_foot h rfl))
  · exact sound_of_foot h rfl
  · exact answer_sound (sound_when h (fun _ hu => sound_of_foot hu rfl))
  · exact answer_sound (sound_when h (fun _ hu => sound_of_foot hu rfl))
  · exact sound_of_foot h rfl
  · exact sound_of_foot h rfl
  · exact sound_of_foot h rfl
  · exact sound_of_foot h rfl

theorem configure_sound {r : CfgReq} (h : s.Sound K) : (s.configure r).Sound K := by
  unfold State.configure
  exact sound_ite (sound_of_foot h rfl) (sound_ite (sound_of_foot h rfl) (sound_ite (sound_of_foot h rfl) (configEffect_sound h)))

theorem execConfigurationRequest_sound {r : CfgReq} (h : s.Sound K) : Answers K (execConfigurationRequest r s) :=
  answers_run h (fun _ hu => configure_sound hu)

theorem setup_sound {free ok : Bool} {f : State → State} (h : s.Sound K) (hf : ∀ u : State, u.Sound K → (f u).Sound K) :
    (s.setup free ok f).Sound K := by
  unfold State.setup
  exact sound_ite (hf _ h) (sound_of_foot h rfl)

theorem setHostCtrl_sound {v : Nat} (h : s.Sound K) : (State.setHostCtrl v s).Sound K := by
  unfold State.setHostCtrl
  exact drain_sound (sound_of_foot h rfl)

theorem writeGlobal_sound {a v : Nat} (h : s.Sound K) : (State.writeGlobal a v s).Sound K := by
  unfold State.writeGlobal
  exact sound_ite (sound_of_foot h rfl) (sound_ite (setHostCtrl_sound h) (sound_ite (sound_when h (fun _ hu => resetBy_sound hu))
    (sound_ite (sound_ite (retrainPcie_sound h) (setLink_sound h)) (sound_ite (sound_when h (fun _ hu => startHostWd_sound hu)) (sound_ite
      (sound_of_foot h rfl) (sound_ite (setup_sound h (fun _ hu => sound_of_foot hu rfl)) (sound_ite (setup_sound h
        (fun _ hu => sound_of_foot hu rfl)) (sound_ite (sound_of_foot h rfl) (sound_ite (setup_sound h (fun _ hu => sound_of_foot hu rfl))
          (sound_ite (sound_of_foot h rfl) h))))))))))

theorem writeSq_sound {r o v : Nat} (h : s.Sound K) : (State.writeSq r o v s).Sound K := by
  unfold State.writeSq
  extract_lets free m
  exact sound_ite (setup_sound h (fun _ hu => updSq_sound hu)) (sound_ite (setup_sound h (fun _ hu => updSq_sound hu)) (sound_ite
    (setup_sound h (fun _ hu => updSq_sound hu)) (sound_ite (sound_ite (sound_ite (startSqWith_sound h) (setSqCtrl_sound h)) (sound_when
      (setSqCtrl_sound h) (fun _ hu => stopSq_sound hu))) (sound_ite (setup_sound h (fun _ hu => updSq_sound hu)) (sound_ite
        (setup_sound h (fun _ hu => updSq_sound hu)) (sound_ite (setup_sound h (fun _ hu => hu)) h))))))

theorem writeCq_sound {c o v : Nat} (h : s.Sound K) : (State.writeCq c o v s).Sound K := by
  unfold State.writeCq
  extract_lets free s1
  have hs1 : s1.Sound K := setCqCtrl_sound h
  exact sound_ite (setup_sound h (fun _ hu => updCq_sound hu)) (sound_ite (setup_sound h (fun _ hu => updCq_sound hu)) (sound_ite
    (setup_sound h (fun _ hu => updCq_sound hu)) (sound_ite (sound_ite (startCq_sound hs1) (sound_when hs1 (fun _ hu => stopCq_sound hu)))
      (sound_ite (setup_sound h (fun _ hu => updCq_sound hu)) (sound_ite (setup_sound h (fun _ hu => hu)) h)))))

theorem writePool_sound {p o v : Nat} (h : s.Sound K) : (State.writePool p o v s).Sound K := by
  unfold State.writePool
  extract_lets free
  exact sound_ite (setup_sound h (fun _ hu => updPool_sound hu)) (sound_ite (setup_sound h (fun _ hu => updPool_sound hu)) (sound_ite
    (setPool_sound h) (sound_ite (setPoolTail_sound h) (sound_ite (setup_sound h (fun _ hu => hu)) h))))

theorem writeBar_sound {a v : Nat} (h : s.Sound K) : (State.writeBar a v s).Sound K := by
  unfold State.writeBar
  exact sound_ite (writeGlobal_sound h) (sound_ite (writeSq_sound h) (sound_ite (writeCq_sound h) (sound_ite (writePool_sound h)
    (sound_ite (writeMsix_sound h) (sound_ite (sound_ite (bellTail_sound h) (bellHead_sound h)) h)))))

theorem barWrite_sound {addr size value : Nat} (h : s.Sound K) : (State.barWrite addr size value s).Sound K := by
  unfold State.barWrite
  exact sound_ite (writeBar_sound h) (sound_ite (writeBar_sound (writeBar_sound h)) h)

theorem execBar0RegisterWrite_sound {addr size value : Nat} (h : s.Sound K) :
    Answers K (execBar0RegisterWrite addr size value s) :=
  answers_runBar h (fun _ hu => barWrite_sound hu)

/-! ### Request -/

theorem execParamRead_sound {h : Hdr} {addr count : Nat} (hs : s.Sound K) :
    Answers K (execParamRead h addr count s) := answers_runDesc hs

theorem execParamWrite_sound {h : Hdr} {addr : Nat} {data : List Nat} (hs : s.Sound K) :
    Answers K (execParamWrite h addr data s) := answers_runDesc hs

theorem execParamWriteVerify_sound {h : Hdr} {addr : Nat} {data : List Nat} (hs : s.Sound K) :
    Answers K (execParamWriteVerify h addr data s) := answers_runDesc hs

theorem execQuery_sound {h : Hdr} {prog : Prog} (hs : s.Sound K) : Answers K (execQuery h prog s) := answers_runDesc hs

theorem execExpose_sound {h : Hdr} {plan : Plan} (hs : s.Sound K) : Answers K (execExpose h plan s) := answers_runDesc hs

theorem execSurveyRun_sound {h : Hdr} {t0 tag source : Nat} {ripple : Bool} (hs : s.Sound K) :
    Answers K (execSurveyRun h t0 tag source ripple s) := answers_runDesc hs

theorem execSweepTrigger_sound {h : Hdr} {t sweep : Nat} {now : Bool} (hs : s.Sound K) :
    Answers K (execSweepTrigger h t sweep now s) := answers_runDesc hs

theorem execTopologyRead_sound {h : Hdr} {first number : Nat} (hs : s.Sound K) :
    Answers K (execTopologyRead h first number s) := answers_runDesc hs

theorem execRenumber_sound {h : Hdr} {funcs : List (Nat × Option (Nat × Nat))} (hs : s.Sound K) :
    Answers K (execRenumber h funcs s) := answers_runDesc hs

theorem execPathTest_sound {h : Hdr} {cls times length : Nat} (hs : s.Sound K) :
    Answers K (execPathTest h cls times length s) := answers_runDesc hs

theorem execSafetySessionOpen_sound {h : Hdr} {passcode : Nat} (hs : s.Sound K) :
    Answers K (execSafetySessionOpen h passcode s) := answers_runDesc hs

theorem execSafetySessionClose_sound {h : Hdr} {session : Nat} (hs : s.Sound K) :
    Answers K (execSafetySessionClose h session s) := answers_runDesc hs

theorem execSetPasscode_sound {h : Hdr} {session passcode newPasscode : Nat} (hs : s.Sound K) :
    Answers K (execSetPasscode h session passcode newPasscode s) := answers_runDesc hs

theorem execSafetyWrite_sound {h : Hdr} {session address value old : Nat} (hs : s.Sound K) :
    Answers K (execSafetyWrite h session address value old s) := answers_runDesc hs

theorem execFlashLoad_sound {h : Hdr} {offset : Nat} {piece : List Byte} (hs : s.Sound K) :
    Answers K (execFlashLoad h offset piece s) := answers_runDesc hs

theorem execFlashCommit_sound {h : Hdr} {length crc : Nat} (hs : s.Sound K) :
    Answers K (execFlashCommit h length crc s) := answers_runDesc hs

theorem execLogRead_sound {h : Hdr} {log first number : Nat} (hs : s.Sound K) :
    Answers K (execLogRead h log first number s) := answers_runDesc hs

theorem execCheckRun_sound {h : Hdr} {unit area poly offset length expect : Nat} {bytes : List Byte} {err : ReadErr} (hs : s.Sound K) :
    Answers K (execCheckRun h unit area poly offset length expect bytes err s) := answers_runDesc hs

theorem execWireSearch_sound {h : Hdr} {bus : WireBus} (hs : s.Sound K) : Answers K (execWireSearch h bus s) := answers_runDesc hs

theorem execWireReadIds_sound {h : Hdr} (hs : s.Sound K) : Answers K (execWireReadIds h s) := answers_runDesc hs

theorem execWireConvert_sound {h : Hdr} {bus : WireBus} (hs : s.Sound K) :
    Answers K (execWireConvert h bus s) := answers_runDesc hs

theorem execWireReadMem_sound {h : Hdr} {accessory offset length : Nat} {bus : WireBus} (hs : s.Sound K) :
    Answers K (execWireReadMem h accessory offset length bus s) := answers_runDesc hs

theorem execWireWriteMem_sound {h : Hdr} {accessory offset : Nat} {data : List Byte} {bus : WireBus} (hs : s.Sound K) :
    Answers K (execWireWriteMem h accessory offset data bus s) := answers_runDesc hs

theorem execNop_sound {h : Hdr} (hs : s.Sound K) : Answers K (execNop h s) := answers_runDesc hs

theorem fetchOne_sound {mem : List (Nat × Byte)} {w : FetchWorld} {r : Nat} (h : s.Sound K) :
    (State.fetchOne mem w r s).Sound K := by
  unfold State.fetchOne
  extract_lets bs r1 s1 s2
  have hs1 : s1.Sound K := sound_ite (sound_of_foot h rfl) h
  have hs2 : s2.Sound K := updSq_sound hs1
  refine sound_ite h ?_
  split
  · exact completeEarly_sound (sound_ite hs2 (sound_of_foot hs2 rfl))
  · exact submit_sound hs2

theorem descStop_sound {mem : List (Nat × Byte)} {w : FetchWorld} {r : Nat} (h : s.Sound K) :
    (State.descStop mem w r s).Sound K := by
  unfold State.descStop
  extract_lets a
  split
  · exact h
  · extract_lets t r1 t1
    have ht : t.Sound K := breakHit_sound h
    have ht1 : t1.Sound K := sound_of_foot ht rfl
    exact sound_ite ht1 (fetchOne_sound ht1)

theorem fetchRing_sound {mem : List (Nat × Byte)} {w : FetchWorld} {r n k : Nat} (h : s.Sound K) :
    (State.fetchRing mem w r n k s).Sound K := by
  induction n generalizing k s with
  | zero => exact h
  | succ n ih =>
    unfold State.fetchRing
    extract_lets q m u
    have hu : u.Sound K := sound_iter (sound_of_foot h rfl) fun _ hv => fetchOne_sound hv
    clear_value u
    exact sound_ite h (sound_ite (descStop_sound h) (sound_ite (ih hu) (descStop_sound hu)))

theorem fetchRound_sound {mem : List (Nat × Byte)} {w : FetchWorld} (h : s.Sound K) : (State.fetchRound mem w s).Sound K :=
  sound_foldl h fun _ _ hu => sound_ite (fetchRing_sound hu) hu

theorem execDescriptorFetch_sound {mem : List (Nat × Byte)} {w : FetchWorld} (h : s.Sound K) :
    Answers K (execDescriptorFetch mem w s) :=
  answers_runS h (fun _ hu => sound_when hu (fun _ hu1 => drainAll_sound (fetchRound_sound hu1)))

theorem surveyEnd_sound {t : Tx} (h : s.Sound K) : (s.surveyEnd t).Sound K := by
  unfold State.surveyEnd
  exact sound_ite (finishBlocks_sound h) h

theorem exposeEnd_sound {t : Tx} (h : s.Sound K) : (s.exposeEnd t).Sound K := by
  unfold State.exposeEnd
  exact sound_ite h (finishBlocks_sound h)

theorem endBlocks_sound {t : Tx} (h : s.Sound K) : (s.endBlocks t).Sound K := by
  unfold State.endBlocks
  refine sound_ite h ?_
  split
  · exact surveyEnd_sound h
  · exact exposeEnd_sound h
  · exact h

theorem execTransactionComplete_sound {tid : Nat} {mem : List (Nat × Byte)} (h : s.Sound K) :
    Answers K (execTransactionComplete tid mem s) := by
  refine answers_runCore h fun u hu => ?_
  refine sound_when hu (fun u hu => drainAll_sound ?_)
  split
  · exact endBlocks_sound hu
  · exact hu

theorem expireTx_sound {t : Tx} (h : s.Sound K) : (s.expireTx t).Sound K := by
  unfold State.expireTx
  exact settleWaits_sound (postFinal_sound (sound_of_foot h rfl))

theorem execTransactionTimeout_sound {tid : Nat} (h : s.Sound K) : Answers K (execTransactionTimeout tid s) := by
  refine answers_runCore h fun u hu => ?_
  split
  · exact sound_ite (expireTx_sound hu) hu
  · exact hu

theorem surveyDeadline_sound {t : Tx} {t0 : Nat} (h : s.Sound K) : (s.surveyDeadline t t0).Sound K := by
  unfold State.surveyDeadline
  extract_lets wait
  exact sound_ite h (sound_ite (sound_ite (finishBlocks_sound h) h) (sound_ite (finishBlocks_sound h) h))

theorem execSurveyResponseDeadline_sound {tid : Nat} (h : s.Sound K) : Answers K (execSurveyResponseDeadline tid s) := by
  refine answers_runCore h fun u hu => ?_
  split
  · split
    · exact surveyDeadline_sound hu
    · exact hu
  · exact hu

theorem probeLost_sound {t : Tx} (h : s.Sound K) : (s.probeLost t).Sound K := by
  unfold State.probeLost
  exact sound_ite (nextProbe_sound (sound_of_foot h rfl)) h

theorem execProbeRoundTripLost_sound {tid : Nat} (h : s.Sound K) : Answers K (execProbeRoundTripLost tid s) := by
  refine answers_runCoreL h fun u hu => ?_
  split
  · exact probeLost_sound hu
  · exact hu

theorem execProbeReceive_sound {a : Arrival} {f : Frame} (h : s.Sound K) : Answers K (execProbeReceive a f s) :=
  answers_runL h (fun _ hu => onFrame_sound hu (fun _ hu1 => ifChecked_sound hu1 (fun _ hu2 => sound_when hu2
    (fun _ hu3 => sendTo_sound hu3))))

theorem probeBack_sound {t : Tx} {f : Frame} (h : s.Sound K) : (s.probeBack t f).Sound K := by
  unfold State.probeBack
  extract_lets d
  exact sound_ite (nextProbe_sound (sound_of_foot h rfl)) h

theorem execProbeAnswerReceive_sound {a : Arrival} {f : Frame} (h : s.Sound K) : Answers K (execProbeAnswerReceive a f s) := by
  refine answers_runL h fun u hu => ?_
  refine onFrame_sound hu (fun u hu => ifChecked_sound hu (fun u1 hu1 => ?_))
  split
  · exact probeBack_sound hu1
  · exact hu1

theorem partIn_sound {a : Arrival} {f : Frame} {c : Contribution} (h : s.Sound K) : (s.partIn a f c).Sound K := by
  unfold State.partIn
  split
  · rename_i _ _ _ he0_3
    extract_lets s1
    have hs1 : s1.Sound K := touchWalk_sound (sound_of_pair he0_3 (hop_sound h))
    exact sound_ite (sound_of_pair he0_3 (hop_sound h)) (sound_ite (deliver_sound hs1 (fun _ hu => answerIn_sound (sound_of_foot hu rfl)))
      (forward_sound hs1))

theorem pieceHere_sound {a : Arrival} {f : Frame} {bs : List Byte} {last : Bool} (h : s.Sound K) :
    (s.pieceHere a f bs last).Sound K := by
  unfold State.pieceHere
  extract_lets c s1
  have hs1 : s1.Sound K := by
    unfold s1
    split
    · exact sound_of_foot h rfl
    · exact consume_sound h
  split
  · exact consume_sound h
  · extract_lets r s2
    have hs2 : s2.Sound K := sound_of_foot hs1 rfl
    exact sound_ite (loadPiece_sound hs2) hs2

theorem pieceIn_sound {a : Arrival} {f : Frame} {bs : List Byte} {last : Bool} (h : s.Sound K) :
    (s.pieceIn a f bs last).Sound K := by
  unfold State.pieceIn
  split
  · rename_i _ _ _ he0_3
    extract_lets s1 s2
    have hs1 : s1.Sound K := touchWalk_sound (sound_of_pair he0_3 (hop_sound h))
    have hs2 : s2.Sound K := spread_sound hs1
    exact sound_ite (sound_of_pair he0_3 (hop_sound h)) (sound_ite (sound_ite (pieceHere_sound hs2) (countCondemned_sound hs2))
      (forward_sound hs1))

theorem dataIn_sound {a : Arrival} {f : Frame} {b : DataBody} (h : s.Sound K) : (s.dataIn a f b).Sound K := by
  unfold State.dataIn
  split
  · exact partIn_sound h
  · exact onFrame_sound h (fun _ hu => sound_when hu (fun _ hu1 => acceptHeld_sound hu1))
  · exact onFrame_sound h (fun _ hu => streamIn_sound hu)
  · exact onFrame_sound h (fun _ hu => streamIn_sound hu)
  · exact pieceIn_sound h

theorem execDataFrameReceive_sound {a : Arrival} {f : Frame} {body : DataBody} (h : s.Sound K) :
    Answers K (execDataFrameReceive a f body s) :=
  answers_runL h (fun _ hu => dataIn_sound hu)

/-! ### Tick -/

theorem edges_sound {before : Nat} (h : s.Sound K) : (s.edges before).Sound K := by
  unfold State.edges
  extract_lets s1
  have hs1 : s1.Sound K := sound_ite (sound_mk h (by simp [State.foot])) h
  exact sound_ite h (sound_ite (switches_sound hs1) hs1)

theorem graceXtal_sound (h : s.Sound K) : s.graceXtal.Sound K := by
  unfold State.graceXtal
  extract_lets f
  exact sound_ite (sound_ite (sound_of_foot h rfl) (sound_of_foot h rfl)) h

theorem stopCrystal_sound (h : s.Sound K) : s.stopCrystal.Sound K := by
  unfold State.stopCrystal
  exact sound_ite (sound_of_foot h rfl) h

theorem tick_sound (h : s.Sound K) : s.tick.Sound K := by
  unfold State.tick
  extract_lets s1 s2
  have hs1 : s1.Sound K := goOn_sound (resumeFrames_sound (takeHalt_sound (sealSnapshot_sound (stopCrystal_sound (graceXtal_sound
    (edges_sound (sound_of_foot h rfl)))))))
  have hs2 : s2.Sound K := pulseBack_sound (pulseBack_sound hs1)
  exact sound_ite (resetBy_sound hs2) hs2

/-! ### Dispatch -/

theorem exec_sound (c : Instr) (h : s.Sound K) : Answers K (exec c s) := match c with
  | .descriptorFetch _ _ => execDescriptorFetch_sound h
  | .paramRead _ _ _ => execParamRead_sound h
  | .paramWrite _ _ _ => execParamWrite_sound h
  | .paramWriteVerify _ _ _ => execParamWriteVerify_sound h
  | .query _ _ => execQuery_sound h
  | .expose _ _ => execExpose_sound h
  | .surveyRun _ _ _ _ _ => execSurveyRun_sound h
  | .sweepTrigger _ _ _ _ => execSweepTrigger_sound h
  | .topologyRead _ _ _ => execTopologyRead_sound h
  | .renumber _ _ => execRenumber_sound h
  | .pathTest _ _ _ _ => execPathTest_sound h
  | .safetySessionOpen _ _ => execSafetySessionOpen_sound h
  | .safetySessionClose _ _ => execSafetySessionClose_sound h
  | .setPasscode _ _ _ _ => execSetPasscode_sound h
  | .safetyWrite _ _ _ _ _ => execSafetyWrite_sound h
  | .flashLoad _ _ _ => execFlashLoad_sound h
  | .flashCommit _ _ _ => execFlashCommit_sound h
  | .logRead _ _ _ _ => execLogRead_sound h
  | .checkRun _ _ _ _ _ _ _ _ _ => execCheckRun_sound h
  | .wireSearch _ _ => execWireSearch_sound h
  | .wireReadIds _ => execWireReadIds_sound h
  | .wireConvert _ _ => execWireConvert_sound h
  | .wireReadMem _ _ _ _ _ => execWireReadMem_sound h
  | .wireWriteMem _ _ _ _ _ => execWireWriteMem_sound h
  | .nop _ => execNop_sound h
  | .transactionComplete _ _ => execTransactionComplete_sound h
  | .transactionTimeout _ => execTransactionTimeout_sound h
  | .interruptCoalesceTimeout _ => execInterruptCoalesceTimeout_sound h
  | .msixVectorUnmask _ => execMsixVectorUnmask_sound h
  | .sqTailDoorbell _ _ => execSqTailDoorbell_sound h
  | .cqHeadDoorbell _ _ _ => execCqHeadDoorbell_sound h
  | .sqStart _ _ _ => execSqStart_sound h
  | .sqStop _ => execSqStop_sound h
  | .cqStart _ _ _ => execCqStart_sound h
  | .cqStop _ => execCqStop_sound h
  | .poolEnable _ _ _ => execPoolEnable_sound h
  | .poolDisable _ => execPoolDisable_sound h
  | .poolTailWrite _ _ _ => execPoolTailWrite_sound h
  | .bar0RegisterWrite _ _ _ => execBar0RegisterWrite_sound h
  | .hostReset _ => execHostReset_sound h
  | .linkRetrain _ _ _ _ => execLinkRetrain_sound h
  | .perstNAssert => execPerstNAssert_sound h
  | .perstNDeassert _ _ _ => execPerstNDeassert_sound h
  | .functionLevelReset => execFunctionLevelReset_sound h
  | .hostWdStart => execHostWdStart_sound h
  | .hostWdKey _ => execHostWdKey_sound h
  | .hostRollCheckin _ => execHostRollCheckin_sound h
  | .hostWdServeSampled => execHostWdServeSampled_sound h
  | .hostWdExpired => execHostWdExpired_sound h
  | .commandFrameReceive _ _ _ => execCommandFrameReceive_sound h
  | .responseFrameReceive _ _ _ => execResponseFrameReceive_sound h
  | .strobeReceive _ _ => execStrobeReceive_sound h
  | .tripFrameReceive _ _ => execTripFrameReceive_sound h
  | .safetyFrameReceive _ _ => execSafetyFrameReceive_sound h
  | .pendingFrameReceive _ _ => execPendingFrameReceive_sound h
  | .dataFrameReceive _ _ _ => execDataFrameReceive_sound h
  | .currentPublicationReceive _ _ => execCurrentPublicationReceive_sound h
  | .creditFrameReceive _ _ => execCreditFrameReceive_sound h
  | .timeSyncReceive _ _ _ => execTimeSyncReceive_sound h
  | .timeEchoReceive _ _ _ => execTimeEchoReceive_sound h
  | .trainFrameReceive _ _ _ => execTrainFrameReceive_sound h
  | .shortFrameReceive _ _ _ _ => execShortFrameReceive_sound h
  | .condemnedFrame _ _ _ => execCondemnedFrame_sound h
  | .abortedFrameReceive _ _ => execAbortedFrameReceive_sound h
  | .discoverWalk _ _ => execDiscoverWalk_sound h
  | .discoverReturn _ _ => execDiscoverReturn_sound h
  | .discoverDup _ _ => execDiscoverDup_sound h
  | .discoverReport _ _ => execDiscoverReport_sound h
  | .discoverAssign _ _ => execDiscoverAssign_sound h
  | .discoverLost _ _ => execDiscoverLost_sound h
  | .discoverCut _ _ => execDiscoverCut_sound h
  | .discoverRoute _ _ => execDiscoverRoute_sound h
  | .discoverMark _ _ => execDiscoverMark_sound h
  | .discoverAttach _ _ => execDiscoverAttach_sound h
  | .faultFrameReceive _ _ => execFaultFrameReceive_sound h
  | .probeReceive _ _ => execProbeReceive_sound h
  | .probeAnswerReceive _ _ => execProbeAnswerReceive_sound h
  | .crierMessageComplete _ _ => execCrierMessageComplete_sound h
  | .wakeToneDetect _ _ => execWakeToneDetect_sound h
  | .legacyReply _ _ _ _ => execLegacyReply_sound h
  | .legacyReplyTimeout => execLegacyReplyTimeout_sound h
  | .symbolsDetected _ => execSymbolsDetected_sound h
  | .trainingRateTimeout _ => execTrainingRateTimeout_sound h
  | .signalLoss _ => execSignalLoss_sound h
  | .retransmitTimeout _ _ => execRetransmitTimeout_sound h
  | .shortFrameIdle _ => execShortFrameIdle_sound h
  | .portStart _ _ => execPortStart_sound h
  | .portStop _ => execPortStop_sound h
  | .portStopped _ => execPortStopped_sound h
  | .walkStart => execWalkStart_sound h
  | .walkPortSilence => execWalkPortSilence_sound h
  | .walkTrainingWaitEnd => execWalkTrainingWaitEnd_sound h
  | .walkPendingTimer => execWalkPendingTimer_sound h
  | .heldFramesTimeout _ => execHeldFramesTimeout_sound h
  | .takeover => execTakeover_sound h
  | .timeSyncSend => execTimeSyncSend_sound h
  | .holdoverTimeout => execHoldoverTimeout_sound h
  | .periodicStrobeSend => execPeriodicStrobeSend_sound h
  | .wakeToneSend => execWakeToneSend_sound h
  | .apertureOpen => execApertureOpen_sound h
  | .tbiasDriveStart => execTbiasDriveStart_sound h
  | .blankingStart => execBlankingStart_sound h
  | .blankingEnd => execBlankingEnd_sound h
  | .tierCodesAvailable _ => execTierCodesAvailable_sound h
  | .auxCodesReady _ _ => execAuxCodesReady_sound h
  | .tierChannelFrameReceive _ _ _ => execTierChannelFrameReceive_sound h
  | .sweepRecordComplete _ _ _ => execSweepRecordComplete_sound h
  | .sweepStart _ => execSweepStart_sound h
  | .sweepStop => execSweepStop_sound h
  | .sweepStopped => execSweepStopped_sound h
  | .snapshotRewrite => execSnapshotRewrite_sound h
  | .surveyStart _ _ => execSurveyStart_sound h
  | .surveyStop => execSurveyStop_sound h
  | .surveyStopped => execSurveyStopped_sound h
  | .surveyRunStart => execSurveyRunStart_sound h
  | .excitationToggle => execExcitationToggle_sound h
  | .lockinComplete => execLockinComplete_sound h
  | .surveyRunEnd => execSurveyRunEnd_sound h
  | .baseSave => execBaseSave_sound h
  | .baseDataRead => execBaseDataRead_sound h
  | .baseDataWrite _ => execBaseDataWrite_sound h
  | .balanceStart _ => execBalanceStart_sound h
  | .balanceStop => execBalanceStop_sound h
  | .balanceStopped => execBalanceStopped_sound h
  | .governorSlot => execGovernorSlot_sound h
  | .balanceTimerExpire _ => execBalanceTimerExpire_sound h
  | .proofRound _ => execProofRound_sound h
  | .witnessCrossCheck _ _ => execWitnessCrossCheck_sound h
  | .switchOnTestStep _ => execSwitchOnTestStep_sound h
  | .switchOnTestEnd _ _ _ => execSwitchOnTestEnd_sound h
  | .openWireTestStep _ => execOpenWireTestStep_sound h
  | .openWireTestEnd _ _ _ _ => execOpenWireTestEnd_sound h
  | .harnessCell _ _ _ _ _ => execHarnessCell_sound h
  | .harnessPassComplete => execHarnessPassComplete_sound h
  | .testOverdue _ => execTestOverdue_sound h
  | .harnessNow => execHarnessNow_sound h
  | .switchNow => execSwitchNow_sound h
  | .tableDataRead => execTableDataRead_sound h
  | .tableDataWrite _ => execTableDataWrite_sound h
  | .lamplighterRound _ _ _ => execLamplighterRound_sound h
  | .jobAdmission _ _ => execJobAdmission_sound h
  | .glean _ => execGlean_sound h
  | .jobFinish _ _ => execJobFinish_sound h
  | .islandDisable _ => execIslandDisable_sound h
  | .harvestContributorTimeout _ => execHarvestContributorTimeout_sound h
  | .harvestPendingTimer _ => execHarvestPendingTimer_sound h
  | .exposureThresholdTrip => execExposureThresholdTrip_sound h
  | .exposureFreeze => execExposureFreeze_sound h
  | .exposureArmDeadline => execExposureArmDeadline_sound h
  | .heartbeatSend => execHeartbeatSend_sound h
  | .unobservedTimeout => execUnobservedTimeout_sound h
  | .heartbeatTimeout _ => execHeartbeatTimeout_sound h
  | .autoArm _ => execAutoArm_sound h
  | .siContactChange _ _ => execSiContactChange_sound h
  | .discrepancyTimeout _ => execDiscrepancyTimeout_sound h
  | .outputTestPulse _ => execOutputTestPulse_sound h
  | .outputTestPulseEnd _ _ => execOutputTestPulseEnd_sound h
  | .stuckNodeDetect _ => execStuckNodeDetect_sound h
  | .sessionIdleTimeout => execSessionIdleTimeout_sound h
  | .authenticationLockEnd => execAuthenticationLockEnd_sound h
  | .degradedAllowanceExpire => execDegradedAllowanceExpire_sound h
  | .wdogStart => execWdogStart_sound h
  | .wdogKey _ => execWdogKey_sound h
  | .wdogCheckin _ => execWdogCheckin_sound h
  | .wdogServeSampled => execWdogServeSampled_sound h
  | .wdogExpire => execWdogExpire_sound h
  | .eraseSuspensionEnd => execEraseSuspensionEnd_sound h
  | .clockMonitorWindow _ _ => execClockMonitorWindow_sound h
  | .faultCollect => execFaultCollect_sound h
  | .graceExpire => execGraceExpire_sound h
  | .faultAck _ => execFaultAck_sound h
  | .checkStart _ => execCheckStart_sound h
  | .checkStop _ => execCheckStop_sound h
  | .checkData8 _ _ => execCheckData8_sound h
  | .checkData16 _ _ => execCheckData16_sound h
  | .checkData32 _ _ => execCheckData32_sound h
  | .checkClose _ => execCheckClose_sound h
  | .checkOutcome _ => execCheckOutcome_sound h
  | .pinReset _ _ => execPinReset_sound h
  | .bistStart _ => execBistStart_sound h
  | .bistStepTimeout => execBistStepTimeout_sound h
  | .bistEnd => execBistEnd_sound h
  | .vpwrFail => execVpwrFail_sound h
  | .keepHandover _ _ => execKeepHandover_sound h
  | .vpwrBelowPg => execVpwrBelowPg_sound h
  | .vpwrGood => execVpwrGood_sound h
  | .keepPowerOnReset => execKeepPowerOnReset_sound h
  | .vauxLoss => execVauxLoss_sound h
  | .supplyOutOfLimits _ => execSupplyOutOfLimits_sound h
  | .tierPoweredAfterRelease _ => execTierPoweredAfterRelease_sound h
  | .chargerSoftStart _ => execChargerSoftStart_sound h
  | .prechargeShortCheck _ => execPrechargeShortCheck_sound h
  | .prechargeTimeout _ => execPrechargeTimeout_sound h
  | .cvReached => execCvReached_sound h
  | .chargeTermination => execChargeTermination_sound h
  | .detectionPulseEnd _ => execDetectionPulseEnd_sound h
  | .periodicDetection => execPeriodicDetection_sound h
  | .recharge _ => execRecharge_sound h
  | .fastChargeTimeout => execFastChargeTimeout_sound h
  | .restsWindowChange _ => execRestsWindowChange_sound h
  | .missingRetry _ => execMissingRetry_sound h
  | .shareOver => execShareOver_sound h
  | .shareRetry => execShareRetry_sound h
  | .shareCharge => execShareCharge_sound h
  | .chgDefaults => execChgDefaults_sound h
  | .shipRequest _ => execShipRequest_sound h
  | .shipWake _ => execShipWake_sound h
  | .longPress => execLongPress_sound h
  | .longPressEnd => execLongPressEnd_sound h
  | .modeResetRequest _ => execModeResetRequest_sound h
  | .resumeRequest _ => execResumeRequest_sound h
  | .runToQuiet => execRunToQuiet_sound h
  | .dormantEntry => execDormantEntry_sound h
  | .dormantWake _ _ => execDormantWake_sound h
  | .debugHalt => execDebugHalt_sound h
  | .debugResume => execDebugResume_sound h
  | .debugStep _ => execDebugStep_sound h
  | .debugReset => execDebugReset_sound h
  | .breakpointHit _ _ _ => execBreakpointHit_sound h
  | .commitEraseDone => execCommitEraseDone_sound h
  | .commitVerifyDone => execCommitVerifyDone_sound h
  | .commitRecordDone => execCommitRecordDone_sound h
  | .loadIdleTimeout => execLoadIdleTimeout_sound h
  | .flashAbandon => execFlashAbandon_sound h
  | .configSave => execConfigSave_sound h
  | .commitLoaded => execCommitLoaded_sound h
  | .configDataRead => execConfigDataRead_sound h
  | .configDataWrite _ => execConfigDataWrite_sound h
  | .ledgerEntryProgrammed => execLedgerEntryProgrammed_sound h
  | .wireStart _ _ _ => execWireStart_sound h
  | .wireStop => execWireStop_sound h
  | .strongPullupEnd _ => execStrongPullupEnd_sound h
  | .idDataRead => execIdDataRead_sound h
  | .timeLoRead => execTimeLoRead_sound h
  | .debugParamRead _ _ => execDebugParamRead_sound h
  | .debugParamWrite _ _ _ => execDebugParamWrite_sound h
  | .granaryRead _ _ => execGranaryRead_sound h
  | .granaryWrite _ _ _ => execGranaryWrite_sound h
  | .flashRead _ _ => execFlashRead_sound h
  | .flashProgram _ _ _ => execFlashProgram_sound h
  | .flashErase _ _ => execFlashErase_sound h
  | .fuse _ _ => execFuse_sound h
  | .idcode _ => execIdcode_sound h
  | .longFrameTransit _ _ => execLongFrameTransit_sound h
  | .streamOutput _ _ _ => execStreamOutput_sound h
  | .surveyResponseDeadline _ => execSurveyResponseDeadline_sound h
  | .probeRoundTripLost _ => execProbeRoundTripLost_sound h
  | .commitPendingTimer => execCommitPendingTimer_sound h
  | .parishEntryProgrammed => execParishEntryProgrammed_sound h
  | .configurationRequest _ => execConfigurationRequest_sound h
  | .preRegulatorStart _ => execPreRegulatorStart_sound h
  | .supplyReturn _ => execSupplyReturn_sound h
  | .prechargeLevelReached => execPrechargeLevelReached_sound h
  | .continuousReadbackFail _ => execContinuousReadbackFail_sound h

/-! ### Steps -/

/-- A step keeps what is claimed of the memories, the files and the queues; the front command leaves. -/
theorem step_sound {files room : Prop} (h : s.Sound ⟨files, room, s.pending⟩) (hstep : step s = .next t) :
    t.Sound ⟨files, room, s.pending.tail⟩ := by
  rcases hqueue : s.pending with _ | ⟨c, rest⟩
  · have ht : step s = .next s.begin.tick := by simp [step, hqueue]
    cases ht.symm.trans hstep
    rw [hqueue] at h
    exact tick_sound (begin_sound h)
  · have ht : step s = exec c { s with pending := rest } := by simp [step, hqueue]
    have hrest : { s with pending := rest }.Sound ⟨files, room, rest⟩ := { h with pending := rfl }
    exact exec_sound c hrest t (ht.symm.trans hstep)

theorem sound_of_wf (hmem : s.memWf) (hshape : s.shapeWf = true) : s.Sound ⟨True, False, s.pending⟩ := by
  obtain ⟨hb0, hb1, hdata, hgran⟩ := hmem
  simp only [State.shapeWf, Bool.and_eq_true, decide_eq_true_eq] at hshape
  obtain ⟨⟨⟨⟨⟨⟨⟨hports, hcells⟩, hchecks⟩, hsq⟩, hcq⟩, hpool⟩, hgleaners⟩, hbrk⟩ := hshape
  exact
    { pending := rfl, bank0 := fun _ => hb0, bank1 := fun _ => hb1, dataArea := fun _ => hdata, granary := fun _ => hgran
      ports := fun _ => hports, cells := fun _ => hcells, checks := fun _ => hchecks, sq := fun _ => hsq, cq := fun _ => hcq
      pool := fun _ => hpool, brk := fun _ => hbrk, gleaners := fun _ => hgleaners
      refs := False.elim, routes := False.elim, queued := False.elim, logged := False.elim, events := False.elim
      deques := False.elim, held := False.elim, live := False.elim, parish := False.elim }

theorem wf_of_sound (h : s.Sound K) (hk : K.files) : s.memWf ∧ s.shapeWf = true := by
  refine ⟨⟨h.bank0 hk, h.bank1 hk, h.dataArea hk, h.granary hk⟩, ?_⟩
  simp only [State.shapeWf, Bool.and_eq_true, decide_eq_true_eq]
  exact ⟨⟨⟨⟨⟨⟨⟨h.ports hk, h.cells hk⟩, h.checks hk⟩, h.sq hk⟩, h.cq hk⟩, h.pool hk⟩, h.gleaners hk⟩, h.brk hk⟩

theorem boundsWf_iff : s.boundsWf = true ↔ s.Sound ⟨False, True, s.pending⟩ := by
  simp only [State.boundsWf, Bool.and_eq_true, decide_eq_true_eq, List.all_eq_true]
  constructor
  · rintro ⟨⟨⟨⟨⟨⟨⟨⟨hrefs, hroutes⟩, hqueued⟩, hlogged⟩, hevents⟩, hdeques⟩, hheld⟩, hlive⟩, hparish⟩
    exact
      { pending := rfl, bank0 := False.elim, bank1 := False.elim, dataArea := False.elim, granary := False.elim
        ports := False.elim, cells := False.elim, checks := False.elim, sq := False.elim, cq := False.elim
        pool := False.elim, brk := False.elim, gleaners := False.elim
        refs := fun _ => hrefs, routes := fun _ => hroutes, queued := fun _ => hqueued, logged := fun _ => hlogged
        events := fun _ => hevents, deques := fun _ => List.forall_mem_map.mpr hdeques, held := fun _ => hheld
        live := fun _ => hlive, parish := fun _ => hparish }
  · intro h
    exact ⟨⟨⟨⟨⟨⟨⟨⟨h.refs trivial, h.routes trivial⟩, h.queued trivial⟩, h.logged trivial⟩, h.events trivial⟩,
      List.forall_mem_map.mp (h.deques trivial)⟩, h.held trivial⟩, h.live trivial⟩, h.parish trivial⟩

/-- Settles O55: the claims on memories and files are among those that every step keeps. -/
theorem stepKeepsMemoriesAndFiles : Obligations.StepKeepsMemoriesAndFiles := by
  intro s t hmem hshape hstep
  exact wf_of_sound (step_sound (sound_of_wf hmem hshape) hstep) trivial

/-- Settles O56: the claims on the room of the queues are among those that every step keeps. -/
theorem stepKeepsQueuesWithinBounds : Obligations.StepKeepsQueuesWithinBounds := by
  intro s t hbounds _ hstep
  have ht := step_sound (boundsWf_iff.mp hbounds) hstep
  exact boundsWf_iff.mpr { ht with pending := rfl }

/-- Settles O3: a step only takes the front command off. -/
theorem stepKeepsTheQueueWellFormed : Obligations.StepKeepsTheQueueWellFormed := by
  intro s t hqueue hstep c hc
  have hnone : s.Sound ⟨False, False, s.pending⟩ :=
    { pending := rfl, bank0 := False.elim, bank1 := False.elim, dataArea := False.elim, granary := False.elim
      ports := False.elim, cells := False.elim, checks := False.elim, sq := False.elim, cq := False.elim
      pool := False.elim, brk := False.elim, gleaners := False.elim
      refs := False.elim, routes := False.elim, queued := False.elim, logged := False.elim, events := False.elim
      deques := False.elim, held := False.elim, live := False.elim, parish := False.elim }
  have ht : t.pending = s.pending.tail := (step_sound hnone hstep).pending
  exact hqueue c (List.mem_of_mem_tail (ht ▸ hc))

end Sys2Proof.Machine
end

section
/-!
How the runners of commands act: a command of the core or of the converter island does nothing while that stops, and a write of a register is
carried out where the device answers.
-/
namespace Sys2Proof.Machine

-- one proof at a time: these proofs share the equations of the operations they unfold
set_option Elab.async false

theorem runCore_of_runs {f : State → State} {s : State} (h : s.coreRuns = true) : runCore f s = run f s := by
  unfold runCore
  rw [h]
  rfl

theorem runCore_of_stopped {f : State → State} {s : State} (h : s.coreRuns = false) : runCore f s = .next s.begin :=
  run_unless h

theorem runCoreL_of_runs {f : State → State} {s : State} (h : s.coreRuns = true) : runCoreL f s = runL f s :=
  runCore_of_runs h

theorem runBar_of_open {f : State → State} {s : State} (h : s.barOpen = true) : runBar f s = run f s := by
  unfold runBar
  rw [h]
  rfl

/-- A register write that the function refuses or takes, outside LOCKOUT or answered DENIED in it as well (17 R439). -/
theorem runReg_denied {f : State → Nat × State} {s : State} (hr : s.reachable = true) (hf : f s.begin = (stDenied, s.begin)) :
    runReg f s = .next (s.begin.answer stDenied) := by
  refine run_eq ?_
  have hreach : s.begin.reachable = true := hr
  unfold regOp regAny
  rw [if_pos hreach]
  by_cases hm : s.begin.mode.mode = .lockout
  · simp only [if_pos hm]
  · simp only [if_neg hm, hf]

theorem coreRuns_of_crystal {s : State} (h : s.clocks.testBit 0 = true) : s.coreRuns = false := by
  simp [State.coreRuns, State.crystalRuns, bit, h]

theorem coreRuns_of_fetchStop {s : State} (h : s.flash.fetchStop = true) : s.coreRuns = false := by
  simp [State.coreRuns, h]

theorem reachable_parts {s : State} (h : s.reachable = true) : s.awake = true ∧ s.coreRuns = true := Bool.and_eq_true_iff.mp h

theorem inMode_of_awake {s : State} (h : s.awake = true) : s.inMode [.ship, .keep] = false := by
  revert h
  unfold State.awake State.inMode
  cases s.mode.mode <;> decide

theorem raise_of_awake {s : State} (h : s.awake = true) (id item : Nat) : s.raise id item = { s with fault := { s.fault with
    evq := s.fault.evq ++ [{ id := id, item := item, time := s.now, mode := s.mode.mode.code }] } } := by
  rw [State.raise, inMode_of_awake h]
  rfl

/-! What a flush of the ports leaves. -/

@[simp] theorem flush_reply (s : State) : s.flush.reply = s.reply := flush_only s .reply (by decide)
@[simp] theorem flush_mode (s : State) : s.flush.mode = s.mode := flush_only s .mode (by decide)
@[simp] theorem flush_fault (s : State) : s.flush.fault = s.fault := flush_only s .fault (by decide)
@[simp] theorem flush_flash (s : State) : s.flush.flash = s.flash := flush_only s .flash (by decide)
@[simp] theorem flush_safety (s : State) : s.flush.safety = s.safety := flush_only s .safety (by decide)
@[simp] theorem flush_clk (s : State) : s.flush.clk = s.clk := flush_only s .clk (by decide)
@[simp] theorem flush_tree (s : State) : s.flush.tree = s.tree := flush_only s .tree (by decide)
@[simp] theorem flush_bal (s : State) : s.flush.bal = s.bal := flush_only s .bal (by decide)
@[simp] theorem flush_diag (s : State) : s.flush.diag = s.diag := flush_only s .diag (by decide)
@[simp] theorem flush_survey (s : State) : s.flush.survey = s.survey := flush_only s .survey (by decide)
@[simp] theorem flush_wdog (s : State) : s.flush.wdog = s.wdog := flush_only s .wdog (by decide)
@[simp] theorem flush_bist (s : State) : s.flush.bist = s.bist := flush_only s .bist (by decide)
@[simp] theorem flush_power (s : State) : s.flush.power = s.power := flush_only s .power (by decide)

/-! What a command answers whose condition holds, without its effect spelled out. -/

theorem run_next_eq {f : State → State} {s u : State} (h : f s.begin = u) : run f s = .next { u with pending := s.pending } := by
  rw [← h]
  rfl

theorem runL_next_eq {f : State → State} {s u : State} (h : f s.begin = u) :
    runL f s = .next { u.flush with pending := s.pending } := by
  rw [← h]
  rfl

theorem run_when_next {f : State → State} {s : State} {c : Bool} (hc : c = true) :
    run (when_ c f) s = .next { f s.begin with pending := s.pending } := by
  rw [hc]
  rfl

theorem runL_when_next {f : State → State} {s : State} {c : Bool} (hc : c = true) :
    runL (when_ c f) s = .next { (f s.begin).flush with pending := s.pending } := by
  rw [hc]
  rfl

theorem runReg_next {f : State → Nat × State} {s u : State} {st : Nat} (hr : s.reachable = true) (hm : s.mode.mode ≠ .lockout)
    (h : f s.begin = (st, u)) : runReg f s = .next { u.answer st with pending := s.pending } := by
  have hreach : s.begin.reachable = true := hr
  have hmode : s.begin.mode.mode ≠ .lockout := hm
  unfold runReg run
  simp only [regOp, regAny, if_pos hreach, if_neg hmode, h]

/-- The frame of an answer: what the effect changes from the state it begins in. -/
theorem next_only {s u : State} {ps : List Part} (h : s.begin.onlyChanges ps u) (hq : ∀ p ∈ [Part.reply, .out], p ∈ ps := by decide) :
    s.onlyChanges ps { u with pending := s.pending } := by
  intro p hp
  have hsame := only_trans (only_one (begin_only s) hq) h p hp
  cases p with
  | pending => rfl
  | _ => exact hsame

/-- The frame of an answer that flushes the ports. -/
theorem nextL_only {s u : State} {ps : List Part} (h : s.begin.onlyChanges ps u)
    (hq : ∀ p ∈ [Part.reply, .out, .ports, .host, .glean, .expo], p ∈ ps := by decide) :
    s.onlyChanges ps { u.flush with pending := s.pending } :=
  next_only (only_step (flush_only u) h (fun p hp => hq p (by revert p; decide))) (fun p hp => hq p (by revert p; decide))

/-- The state an exec answers; a refusal leaves the state it met. -/
def stateAfter (i : Instr) (s : State) : State :=
  match exec i s with
  | .next t => t
  | _ => s

theorem stateAfter_of_next {i : Instr} {s t : State} (h : exec i s = .next t) : stateAfter i s = t := by
  unfold stateAfter
  rw [h]

end Sys2Proof.Machine
end

section
/-!
The watchdogs' key, check-in and START (11_watchdog_faults_checks.md R314, R315, R318, R320, R321).
-/
namespace Sys2Proof.Machine

-- one proof at a time: these proofs share the equations of the operations they unfold
set_option Elab.async false

/-- The key of a watchdog by its three outcomes at once. -/
theorem wdKey_eq (w : WdogSt) (key : Nat) : wdKey w key = { w with
    keyHeld := decide (key = 0x4B1D) && !w.keyHeld
    pendValid := w.pendValid + (if key = 0xE7A2 ∧ w.keyHeld = true then 1 else 0)
    pendEarly := w.pendEarly + (if (key = 0xE7A2 ∧ w.keyHeld = true) ∨ (key = 0x4B1D ∧ w.keyHeld = false) then 0 else 1) } := by
  unfold wdKey
  split
  · split <;> simp_all
  · split
    · split <;> simp_all
    · simp_all

theorem wdCheckin_eq (w : WdogSt) (task : Nat) : wdCheckin w task =
    if w.rollMask.testBit task = true ∧ w.checked.testBit task = false then { w with checked := w.checked + 2 ^ task }
    else { w with duplicate := true } := by
  unfold wdCheckin bit
  cases w.rollMask.testBit task <;> cases w.checked.testBit task <;> rfl

theorem wdogKey_takes {s : State} (key : Nat) (hrun : s.coreRuns = true) (hsusp : s.wdSuspended = false) (hpow : s.unpowered = false) :
    exec (.wdogKey key) s = .next { s with reply := none, out := [], wdog := wdKey s.wdog key } :=
  (runCore_of_runs hrun).trans (run_when (by simp [hsusp, hpow]) rfl)

theorem wdogCheckin_takes {s : State} (task : Nat) (hrun : s.coreRuns = true) (hsusp : s.wdSuspended = false)
    (hpow : s.unpowered = false) :
    exec (.wdogCheckin task) s = .next { s with reply := none, out := [], wdog := wdCheckin s.wdog task } :=
  (runCore_of_runs hrun).trans (run_when (by simp [hsusp, hpow]) rfl)

/-- While the device watchdog is suspended, or its core stops, a key and a check-in do nothing. -/
theorem wdog_discards {s : State} (key task : Nat) (h : s.wdSuspended = true ∨ s.coreRuns = false) :
    exec (.wdogKey key) s = .next s.begin ∧ exec (.wdogCheckin task) s = .next s.begin := by
  cases hrun : s.coreRuns with
  | false => exact ⟨runCore_of_stopped hrun, runCore_of_stopped hrun⟩
  | true =>
    have hsusp : (!s.wdSuspended && !s.unpowered) = false := by simp [h.resolve_right (by simp [hrun])]
    exact ⟨(runCore_of_runs hrun).trans (run_unless hsusp), (runCore_of_runs hrun).trans (run_unless hsusp)⟩

/-- START with a window that is out of order, or of a watchdog that runs, is refused. -/
theorem startWdog_denied {s : State} (h : s.wdog.running = true ∨ s.wdog.openT = 0 ∨ s.wdog.closeT ≤ s.wdog.openT) :
    startWdog s = (stDenied, s) := by
  unfold startWdog
  split
  · rfl
  · rename_i hstop
    exact if_neg (by have := h.resolve_left hstop; omega)

theorem startWdog_ok {s : State} (hstop : s.wdog.running = false) (hopen : 1 ≤ s.wdog.openT) (hclose : s.wdog.openT < s.wdog.closeT) :
    startWdog s = (stOk, { s with wdog := { s.wdog with
      running := true, count := 0, winOpen := s.wdog.openT, winClose := s.wdog.closeT } }) := by
  simp [startWdog, hstop, hopen, hclose]

theorem startHostWd_ignored {s : State} (h : s.hostWd.running = true ∨ s.hostWd.openT = 0 ∨ s.hostWd.closeT ≤ s.hostWd.openT) :
    startHostWd s = s.ignoreWrite := by
  unfold startHostWd
  dsimp only
  split
  · rfl
  · rename_i hstop
    exact if_neg (by have := h.resolve_left hstop; omega)

theorem startHostWd_ok {s : State} (hstop : s.hostWd.running = false) (hopen : 1 ≤ s.hostWd.openT)
    (hclose : s.hostWd.openT < s.hostWd.closeT) :
    startHostWd s = { s with hostWd := { s.hostWd with
      running := true, count := 0, winOpen := s.hostWd.openT, winClose := s.hostWd.closeT } } := by
  simp [startHostWd, hstop, hopen, hclose]

/-- Settles O6: each command is its function on the watchdog's registers, under the condition that lets it through. -/
theorem watchdogKeysCheckInsAndStart : Obligations.WatchdogKeysCheckInsAndStart := by
  refine ⟨fun s key task => ⟨fun hrun hsusp hpow => ⟨?_, ?_⟩, fun hoff => ?_, fun hbar => ⟨?_, ?_⟩⟩,
    fun s => ⟨fun hreach hmode hstop hopen hclose => ?_, fun hreach hbad => ?_, fun hbar hstop hopen hclose => ?_, fun hbar hbad => ?_⟩⟩
  · rw [wdogKey_takes key hrun hsusp hpow, wdKey_eq]
  · rw [wdogCheckin_takes task hrun hsusp hpow, wdCheckin_eq]
  · exact wdog_discards key task (hoff.imp_right (Or.rec coreRuns_of_crystal coreRuns_of_fetchStop))
  · rw [← wdKey_eq]
    exact run_when hbar rfl
  · rw [← wdCheckin_eq]
    exact run_when hbar rfl
  · exact runReg_eq hreach hmode (startWdog_ok (s := s.begin) hstop hopen hclose)
  · exact runReg_denied hreach (startWdog_denied (s := s.begin) hbad)
  · exact run_when hbar (startHostWd_ok (s := s.begin) hstop hopen hclose)
  · exact run_when hbar (startHostWd_ignored (s := s.begin) hbad)

end Sys2Proof.Machine
end

section
/-!
Mode changes and resets, field by field (14_modes.md Tables 14.3 and 14.4): a mode change writes the mode, a ledger entry and an event; a reset
gives the fields of the reset state but for what the keep island and the arrays of the flash hold.
-/
namespace Sys2Proof.Machine

-- one proof at a time: these proofs share the equations of the operations they unfold
set_option Elab.async false

/-- A ledger entry enters the queue or is lost; the log and the other arrays stay. -/
theorem ledger_flash (s : State) (c i d : Nat) : ∃ q n l, (s.ledger c i d).flash = { s.flash with queue := q, nextSeq := n, lost := l } := by
  unfold State.ledger State.ledgerAt
  dsimp only
  split
  · exact ⟨_, _, s.flash.lost, rfl⟩
  · exact ⟨s.flash.queue, _, _, rfl⟩

theorem setMode_mode (s : State) (m : Mode) : (s.setMode m).mode = { s.mode with mode := m } := by
  unfold State.setMode
  split
  · rename_i h
    rw [← h]
  · dsimp only
    rw [(event_only _ _ _) .mode (by decide), (ledger_only _ _ _ _) .mode (by decide)]

theorem setMode_flash (s : State) (m : Mode) :
    ∃ q n l, (s.setMode m).flash = { s.flash with queue := q, nextSeq := n, lost := l } := by
  unfold State.setMode
  split
  · exact ⟨s.flash.queue, s.flash.nextSeq, s.flash.lost, rfl⟩
  · dsimp only
    rw [(event_only _ _ _) .flash (by decide)]
    exact ledger_flash { s with mode := { s.mode with mode := m } } _ _ _

theorem setMode_log (s : State) (m : Mode) : (s.setMode m).flash.log = s.flash.log := by
  obtain ⟨q, n, l, h⟩ := setMode_flash s m
  rw [h]

/-! ### The fields after a reset -/

theorem resetTo_mode (s : State) (c : Nat) (m : Mode) : (s.resetTo c m).mode = { State.reset.mode with
    mode := m, cause := c, wakeSource := if decide (4 ≤ c) then s.mode.wakeSource else 0
    wakePort := if decide (4 ≤ c) then s.mode.wakePort else 0, lampItem := if decide (4 ≤ c) then s.mode.lampItem else 0
    lampSafety := decide (4 ≤ c) && s.mode.lampSafety } := setMode_mode _ _

theorem resetTo_clk (s : State) (c : Nat) (m : Mode) : (s.resetTo c m).clk = { State.reset.clk with
    wall := s.clk.wall, rtc := if decide (4 ≤ c) then s.clk.rtc else 0
    rtcSub := if decide (4 ≤ c) then s.clk.rtcSub else 0 } := setMode_only _ _ .clk (by decide)

theorem resetTo_log (s : State) (c : Nat) (m : Mode) : (s.resetTo c m).flash.log = trimLog 2 (s.flash.log ++ (tornSlot s).toList) :=
  setMode_log _ _

/-- With no entry waiting none is torn, and the log stays but for slots that it has no room for. -/
theorem resetTo_log_of_empty {s : State} (h : s.flash.queue = []) (c : Nat) (m : Mode) :
    (s.resetTo c m).flash.log = trimLog 2 s.flash.log := by
  have hcut : tornSlot s = none := by simp [tornSlot, h]
  rw [resetTo_log, hcut]
  simp

end Sys2Proof.Machine
end

section
/-!
A log that holds more slots than its ring has (16 R417, no step leaves one): the reset drops its oldest entry, where the statements on the
watchdog's expiry and on VPWR failing let the log stay whenever no entry waits.
-/
namespace Sys2Proof.Machine

-- one proof at a time: these proofs share the equations of the operations they unfold
set_option Elab.async false

/-- One entry of one slot. -/
def oneSlot : LedgerEntry :=
  { seq := 0, code := 0, mode := 0, rtc := 0, time := 0, item := 0, data := 0, cont := none, torn := [] }

/-- A log of 4,097 slots. -/
def overfullLog : List LedgerEntry := List.replicate 4097 oneSlot

theorem slotsOf_replicate (n : Nat) : slotsOf (List.replicate n oneSlot) = n := by
  simp [slotsOf, LedgerEntry.slots, oneSlot]

theorem trimLog_overfull : trimLog 2 overfullLog = List.replicate 4096 oneSlot := by
  have hdrop : overfullLog.drop 1 = List.replicate 4096 oneSlot := List.drop_replicate
  have hover : ¬ slotsOf overfullLog ≤ 4096 := by
    rw [overfullLog, slotsOf_replicate]
    decide
  have hfits : slotsOf (List.replicate 4096 oneSlot) ≤ 4096 := (slotsOf_replicate 4096).le
  simp only [trimLog, if_neg hover, hdrop, if_pos hfits]

theorem resetTo_drops_of_overfull {s : State} (hlog : s.flash.log = overfullLog) (hqueue : s.flash.queue = []) (c : Nat) (m : Mode) :
    (s.resetTo c m).flash.log ≠ s.flash.log := by
  rw [resetTo_log_of_empty hqueue, hlog, trimLog_overfull]
  intro heq
  have hlen := congrArg List.length heq
  rw [overfullLog, List.length_replicate, List.length_replicate] at hlen
  exact absurd hlen (by decide)

/-- A device in QUIET whose watchdog has come to CLOSE, with an overfull log. -/
def expiringUnit : State := { State.reset with
  mode.mode := .quiet, clk.treeOn := true, wdog.running := true, wdog.count := 1000, flash.log := overfullLog }

/-- Refutes O7: at the expiry of the device watchdog of `expiringUnit` no entry waits, and its log of 4,097 slots loses one. -/
theorem not_watchdogEdgesExpiryAndRearm : ¬ Obligations.WatchdogEdgesExpiryAndRearm := by
  rintro ⟨-, hexpiry⟩
  obtain ⟨hdevice, -⟩ := hexpiry expiringUnit 0
  obtain ⟨t, hexec, -, -, -, -, -, hlog, -⟩ := hdevice (by decide) (by decide) (by decide) (by decide)
  have hreset : exec .wdogExpire expiringUnit = .next { expiringUnit.begin.wdExpire with pending := [] } := rfl
  obtain rfl : { expiringUnit.begin.wdExpire with pending := [] } = t := by
    simpa using hreset.symm.trans hexec
  exact resetTo_drops_of_overfull (s := { expiringUnit.begin with
    kept := { expiringUnit.kept with wdog := some expiringUnit.wdog.rollFails } }) rfl rfl 5 .bist (hlog rfl)

/-- A released device whose VPWR is good, with an overfull log. -/
def poweredUnit : State := { State.reset with
  mode.mode := .quiet, clk.treeOn := true, power.vpwrGood := true, flash.log := overfullLog }

/-- Refutes O14: when VPWR of `poweredUnit` fails no entry waits, and its log of 4,097 slots loses one. -/
theorem not_powerPathKeepIslandAndStage : ¬ Obligations.PowerPathKeepIslandAndStage := by
  rintro ⟨hpath, -⟩
  obtain ⟨hfail, -⟩ := hpath poweredUnit false 0
  obtain ⟨t, hexec, -, -, -, -, -, -, hlog, -⟩ := hfail (by decide) (by decide)
  have hreset : exec .vpwrFail poweredUnit = .next
      { (poweredUnit.begin.resetTo 4 .keep).updPower (fun p => { p with vpwrGood := false }) with pending := [] } := rfl
  obtain rfl : { (poweredUnit.begin.resetTo 4 .keep).updPower (fun p => { p with vpwrGood := false }) with pending := [] } = t := by
    simpa using hreset.symm.trans hexec
  exact resetTo_drops_of_overfull (s := poweredUnit.begin) rfl rfl 4 .keep (hlog rfl)

end Sys2Proof.Machine
end

section
/-!
The collector's record (11_watchdog_faults_checks.md R322, R323, R326): which event opens it, and what stays as it was.
-/
namespace Sys2Proof.Machine

-- one proof at a time: these proofs share the equations of the operations they unfold
set_option Elab.async false

/-- The first number of a range at which f answers. -/
theorem findSome?_range_eq {α : Type} {f : Nat → Option α} {n k : Nat} {a : α} (hk : k < n) (ha : f k = some a)
    (hbefore : ∀ i < k, f i = none) : (List.range n).findSome? f = some a := by
  induction n with
  | zero => omega
  | succ n ih =>
    rw [List.range_succ, List.findSome?_append]
    rcases Nat.lt_or_eq_of_le (Nat.lt_succ_iff.mp hk) with hlt | rfl
    · rw [ih hlt]
      rfl
    · have hnone : (List.range k).findSome? f = none := by
        rw [List.findSome?_eq_none_iff]
        exact fun i hi => hbefore i (List.mem_range.mp hi)
      simp [hnone, ha]

/-- The event of lowest enabled ID opens the record. -/
theorem opener_eq {s : State} {e : FaultEvt} {l r : List FaultEvt} (hid : e.id < 32) (hen : s.fault.enable0.testBit e.id = true)
    (hl : ∀ x ∈ l, s.fault.enable0.testBit x.id = true → e.id < x.id)
    (hr : ∀ x ∈ r, s.fault.enable0.testBit x.id = true → e.id ≤ x.id) : s.opener (l ++ e :: r) = some e := by
  refine findSome?_range_eq hid ?_ fun i hi => ?_
  · have hnone : l.find? (fun x => decide (x.id = e.id)) = none := by
      rw [List.find?_eq_none]
      intro x hx heq
      have heq : x.id = e.id := by simpa using heq
      have := hl x hx (heq ▸ hen)
      omega
    simp [bit, hen, List.find?_append, hnone]
  · refine ite_eq_right_iff.mpr fun hbit => List.find?_eq_none.mpr fun x hx heq => ?_
    obtain rfl : x.id = i := by simpa using heq
    rcases List.mem_append.mp hx with hx | hx
    · have := hl x hx hbit
      omega
    · rcases List.mem_cons.mp hx with rfl | hx
      · omega
      · have := hr x hx hbit
        omega

/-- Without an enabled event none opens a record. -/
theorem opener_eq_none {s : State} {evs : List FaultEvt} (h : ∀ x ∈ evs, s.fault.enable0.testBit x.id = false) :
    s.opener evs = none := by
  refine List.findSome?_eq_none_iff.mpr fun id _ => ?_
  refine ite_eq_right_iff.mpr fun hbit => List.find?_eq_none.mpr fun x hx heq => ?_
  obtain rfl : x.id = id := by simpa using heq
  exact absurd hbit (by simp [bit, h x hx])

theorem notices_only (s : State) (evs : List FaultEvt) : s.onlyChanges [.host, .out, .ports] (s.notices evs) :=
  only_foldl fun _ _ => only_foldl fun _ _ => only_ite (faultFrame_only _ _ _ _ _ _) (only_refl _ _)

/-- The state in which a collection takes its events. -/
def State.drained (s : State) : State := { s with fault := { s.fault with evq := [] } }

theorem drained_only (s : State) : s.onlyChanges [.fault] s.drained := only_fault s _

/-- The notices leave what decides on the opener. -/
theorem opener_notices (s : State) (evs : List FaultEvt) : (s.drained.notices evs).opener evs = s.opener evs := by
  unfold State.opener
  rw [notices_only s.drained evs .fault (by decide)]
  rfl

theorem collect_of_open {s : State} (h : s.fault.isOpen = true) : s.collect = s.drained := if_pos h

theorem collect_of_closed {s : State} (h : s.fault.isOpen = false) :
    s.collect = match s.opener s.fault.evq with
      | some e => (s.drained.notices s.fault.evq).openRecord e
      | none => s.drained.notices s.fault.evq := by
  rw [← opener_notices]
  exact if_neg (by simp [h])

/-- The collector's registers with the record of an event open. -/
def recordOf (f : FaultSt) (e : FaultEvt) : FaultSt :=
  { f with isOpen := true, escalated := false, id := e.id, item := e.item, recMode := e.mode, time := e.time
           left := f.grace, graceSub := 0, actionNow := f.action, low := true }

/-- The record with its ledger entry, before a frame tells of it. -/
def State.recorded (s : State) (e : FaultEvt) : State :=
  ({ s with fault := recordOf s.fault e }).ledgerAt 0x03 (e.id + 256 * e.item) 0 e.time none

theorem recorded_only (s : State) (e : FaultEvt) : s.onlyChanges [.fault, .flash] (s.recorded e) :=
  only_step (ledgerAt_only _ _ _ _ _ _) (only_one (only_fault s _))

theorem openRecord_frames (s : State) (e : FaultEvt) : (s.recorded e).onlyChanges [.host, .out, .ports] (s.openRecord e) :=
  only_ite (faultFrame_only _ _ _ _ _ _) (only_refl _ _)

theorem openRecord_only (s : State) (e : FaultEvt) : s.onlyChanges [.fault, .flash, .host, .out, .ports] (s.openRecord e) :=
  only_step (openRecord_frames s e) (only_one (recorded_only s e))

theorem openRecord_fault (s : State) (e : FaultEvt) : (s.openRecord e).fault = recordOf s.fault e := by
  rw [openRecord_frames s e .fault (by decide)]
  exact ledgerAt_only _ _ _ _ _ _ .fault (by decide)

theorem openRecord_flash {s : State} (e : FaultEvt) (hroom : slotsOf s.flash.queue < 16) :
    (s.openRecord e).flash = { s.flash with
      nextSeq := (s.flash.nextSeq + 1) % 2 ^ 32
      queue := s.flash.queue ++ [{ seq := s.flash.nextSeq, code := 3, mode := s.mode.mode.code, rtc := s.clk.rtc / 32768
                                   time := e.time, item := e.id + 256 * e.item, data := 0, cont := none, torn := [] }] } := by
  rw [openRecord_frames s e .flash (by decide)]
  unfold State.recorded State.ledgerAt
  exact congrArg State.flash (if_pos hroom)

theorem collect_of_opener {s : State} {e : FaultEvt} (hopen : s.fault.isOpen = false) (he : s.opener s.fault.evq = some e) :
    s.collect = (s.drained.notices s.fault.evq).openRecord e := by
  rw [collect_of_closed hopen, he]

theorem drained_notices_only (s : State) : s.onlyChanges [.fault, .host, .out, .ports] (s.drained.notices s.fault.evq) :=
  only_step (notices_only _ _) (only_one (drained_only s))

theorem drained_notices_fault (s : State) : (s.drained.notices s.fault.evq).fault = { s.fault with evq := [] } :=
  notices_only s.drained s.fault.evq .fault (by decide)

theorem collect_only_of_opener {s : State} {e : FaultEvt} (hopen : s.fault.isOpen = false) (he : s.opener s.fault.evq = some e) :
    s.onlyChanges [.fault, .flash, .host, .out, .ports] s.collect := by
  rw [collect_of_opener hopen he]
  exact only_step (openRecord_only _ e) (only_one (drained_notices_only s))

theorem collect_fault_of_opener {s : State} {e : FaultEvt} (hopen : s.fault.isOpen = false) (he : s.opener s.fault.evq = some e) :
    s.collect.fault = recordOf { s.fault with evq := [] } e := by
  rw [collect_of_opener hopen he, openRecord_fault, drained_notices_fault]

theorem collect_flash_of_opener {s : State} {e : FaultEvt} (hopen : s.fault.isOpen = false) (he : s.opener s.fault.evq = some e)
    (hroom : slotsOf s.flash.queue < 16) :
    s.collect.flash = { s.flash with
      nextSeq := (s.flash.nextSeq + 1) % 2 ^ 32
      queue := s.flash.queue ++ [{ seq := s.flash.nextSeq, code := 3, mode := s.mode.mode.code, rtc := s.clk.rtc / 32768
                                   time := e.time, item := e.id + 256 * e.item, data := 0, cont := none, torn := [] }] } := by
  have hflash := drained_notices_only s .flash (by decide)
  rw [collect_of_opener hopen he, openRecord_flash e (by rw [hflash]; exact hroom), hflash,
    drained_notices_only s .mode (by decide), drained_notices_only s .clk (by decide)]

theorem collect_only_of_none {s : State} (hopen : s.fault.isOpen = false) (he : s.opener s.fault.evq = none) :
    s.onlyChanges [.fault, .host, .out, .ports] s.collect ∧ s.collect.fault = { s.fault with evq := [] } := by
  rw [collect_of_closed hopen, he]
  exact ⟨drained_notices_only s, drained_notices_fault s⟩

/-- Settles O8: the edge takes the events; with the record closed their opener, where one is enabled, opens it. -/
theorem collectorOpensTheRecord : Obligations.CollectorOpensTheRecord := by
  intro s e l r hrun hpow
  have hexec : exec .faultCollect s = .next { s.begin.collect.flush with pending := s.pending } :=
    runL_when_next (by simp [hrun, hpow])
  refine ⟨fun hopen hevq hid hen hl hr => ?_, fun hopen hnone => ?_, fun hopen => ?_⟩
  · have he : s.begin.opener s.begin.fault.evq = some e := (congrArg s.begin.opener hevq).trans (opener_eq hid hen hl hr)
    refine ⟨_, hexec, ?_, fun hroom => ?_, nextL_only (only_one (collect_only_of_opener (s := s.begin) hopen he))⟩
    · rw [flush_fault, collect_fault_of_opener (s := s.begin) hopen he]
      rfl
    · rw [flush_flash, collect_flash_of_opener (s := s.begin) hopen he hroom]
      rfl
  · obtain ⟨honly, hfault⟩ := collect_only_of_none (s := s.begin) hopen (opener_eq_none hnone)
    exact ⟨_, hexec, by rw [flush_fault, hfault]; rfl, nextL_only (only_one honly)⟩
  · rw [collect_of_open (s := s.begin) hopen] at hexec
    exact ⟨_, hexec, by rw [flush_fault]; rfl, nextL_only (only_one (drained_only s.begin))⟩

end Sys2Proof.Machine
end

section
/-!
The escalation to LOCKOUT of a ROOT that carries out a request of its own on the Grenpa wire (11 R325, 15 R405, 09 R268): the request ends
ABORTED, and the order of its positions' reasons takes a free word.
-/
namespace Sys2Proof.Machine

-- one proof at a time: these proofs share the equations of the operations they unfold
set_option Elab.async false

/-- A ROOT in QUIET that holds a strong pull-up for its own transaction, at the end of a grace timer whose ACTION is LOCKOUT. -/
def lockingRoot : State := { State.reset with
  ident.role := .root, mode.mode := .quiet
  fault.isOpen := true, fault.escalated := false, fault.left := 0, fault.actionNow := 1
  wire.fn := .running, wire.spu := some (0, 0), wire.opTag := some 0
  host.txs := [default] }

theorem lockingRoot_takes : (stateAfter .graceExpire lockingRoot).free = lockingRoot.free + 1 := by
  decide +kernel

/-- Refutes O9: the escalation of `lockingRoot` changes the count of free words taken, which the frame of the first clause leaves alone. -/
theorem not_escalationAndAcknowledgement : ¬ Obligations.EscalationAndAcknowledgement := by
  intro h
  obtain ⟨hexpire, -⟩ := h lockingRoot 0
  obtain ⟨t, hexec, -, -, -, -, honly⟩ := hexpire (by decide) (by decide) (by decide) (by decide)
  have hfree : t.free = lockingRoot.free := honly .free (by decide)
  rw [← stateAfter_of_next hexec, lockingRoot_takes] at hfree
  exact Nat.succ_ne_self _ hfree

end Sys2Proof.Machine
end

section
/-!
The check units of a device that answers and holds them for no job (11_watchdog_faults_checks.md R329, R330).
-/
namespace Sys2Proof.Machine

-- one proof at a time: these proofs share the equations of the operations they unfold
set_option Elab.async false

theorem updAt_of_some {α : Type} {l : List α} {i : Nat} {a : α} (h : l[i]? = some a) (f : α → α) : updAt l i f = l.set i (f a) := by
  simp [updAt, h]

section
variable {s : State} {k : Nat} {c : CheckSt} (hunit : s.checks[k]? = some c)
include hunit

theorem chk_eq : s.chk k = c := by
  simp [State.chk, List.getD, hunit]

theorem updChk_eq (f : CheckSt → CheckSt) : s.updChk k f = { s with checks := s.checks.set k (f c) } := by
  rw [State.updChk, updAt_of_some hunit]

theorem startCheck_stopped (hjob : c.job = false) (hstate : c.state = .stopped) :
    startCheck k s = (stOk, s.updChk k (fun c => { c with
      state := .running, lSel := c.sel, lExpect := c.expect, lLength := c.length, count := 0
      reg := if c.customInit then c.init % 2 ^ crcWidth c.sel else crcInit c.sel })) := by
  simp [startCheck, chk_eq hunit, hjob, hstate]

theorem stopCheck_busy (hjob : c.job = false) (hstate : c.state ≠ .stopped) :
    stopCheck k s = (stOk, s.updChk k (fun c => { c with state := .stopped, outcome := 5 })) := by
  simp [stopCheck, chk_eq hunit, hjob, hstate]

theorem feedCheck_running (hjob : c.job = false) (hstate : c.state = .running) (n v : Nat) :
    feedCheck k n v s = (stOk, s.updChk k (fun c => c.feed (le n v))) := by
  simp [feedCheck, chk_eq hunit, hjob, hstate]

theorem closeCheck_running (hjob : c.job = false) (hstate : c.state = .running) :
    closeCheck k s = (stOk, s.updChk k (fun c => { c with state := .stopping })) := by
  simp [closeCheck, chk_eq hunit, hjob, hstate]

/-- The unit with its outcome; it raises its fault unless that is PASS. -/
theorem checkOutcome_stopping (hstate : c.state = .stopping) :
    s.checkOutcome k =
      let t : State := { s with checks := s.checks.set k { c with
        state := .stopped, result := c.final, outcome := c.judge c.final, job := false } }
      if c.judge c.final = 1 then t else t.raise 17 k := by
  rw [State.checkOutcome, chk_eq hunit, if_neg (by simp [hstate])]
  dsimp only
  rw [updChk_eq hunit]

end

/-- The outcome is PASS where the count meets the length and the value the expected one. -/
theorem judge_eq_one_iff (c : CheckSt) (r : Nat) : c.judge r = 1 ↔ c.count = c.lLength ∧ r = c.lExpect % 2 ^ crcWidth c.lSel := by
  unfold CheckSt.judge
  split
  · exact ⟨fun h => absurd h (by decide), fun h => by omega⟩
  · split
    · exact ⟨fun h => absurd h (by decide), fun h => by omega⟩
    · split
      · exact ⟨fun _ => ⟨by omega, by assumption⟩, fun _ => rfl⟩
      · exact ⟨fun h => absurd h (by decide), fun h => by tauto⟩

/-- Settles O10: each operation by the case of its function that a unit without a job meets. -/
theorem checkUnitOperations : Obligations.CheckUnitOperations := by
  intro s k v c hunit hjob hreach hmode
  have hunit' : s.begin.checks[k]? = some c := hunit
  have feeds : ∀ n, c.state = .running → runReg (feedCheck k n v) s = .next ((({ s.begin with
      checks := s.checks.set k (c.feed (le n v)) } : State)).answer stOk) := fun n hrun =>
    runReg_eq hreach hmode ((feedCheck_running hunit' hjob hrun n v).trans (by rw [updChk_eq hunit']; rfl))
  refine ⟨fun hstop => ?_, fun hstop => ?_, fun hrun => ⟨?_, ?_, ?_, ?_⟩, fun hstopping => ?_⟩
  · exact runReg_eq hreach hmode ((startCheck_stopped hunit' hjob hstop).trans (by rw [updChk_eq hunit']))
  · exact runReg_eq hreach hmode ((stopCheck_busy hunit' hjob hstop).trans (by rw [updChk_eq hunit']))
  · exact feeds 1 hrun
  · exact feeds 2 hrun
  · exact feeds 4 hrun
  · exact runReg_eq hreach hmode ((closeCheck_running hunit' hjob hrun).trans (by rw [updChk_eq hunit']))
  · obtain ⟨hawake, hcore⟩ := reachable_parts hreach
    have hexec : exec (.checkOutcome k) s = .next { s.begin.checkOutcome k with pending := s.pending } := runCore_of_runs hcore
    have hpass := judge_eq_one_iff c c.final
    have hjobs : ({ c with state := .stopped, result := c.final, outcome := c.judge c.final, job := false } : CheckSt)
        = { c with state := .stopped, result := c.final, outcome := c.judge c.final } := by rw [hjob]
    rw [checkOutcome_stopping hunit' hstopping, hjobs] at hexec
    by_cases hone : c.judge c.final = 1
    · rw [if_pos hone] at hexec
      exact ⟨_, hexec, rfl, fun _ _ => rfl, fun hbad => absurd (hpass.mp hone) (by simpa [CheckSt.final, imp_iff_not_or] using hbad),
        next_only (only_one (only_checks _ _))⟩
    · rw [if_neg hone, raise_of_awake (by exact hawake)] at hexec
      exact ⟨_, hexec, rfl, fun hcount hval => absurd (hpass.mpr ⟨hcount, hval⟩) hone, fun _ => rfl,
        next_only (only_step (only_fault _ _) (only_one (only_checks _ _)))⟩

end Sys2Proof.Machine
end

section
/-!
The reserve cell charger (13_power_and_reserve.md R357–R362): its soft-start, the steps of a charge, and the device that TEST holds.
-/
namespace Sys2Proof.Machine

-- one proof at a time: these proofs share the equations of the operations they unfold
set_option Elab.async false

/-- The charger's registers after a soft-start inside the temperature window. -/
def PowerSt.softStarted (p : PowerSt) (v wall : Nat) : PowerSt :=
  { p with vresMv := v, since := wall, chg := if v < preLevel p.chem then .precharge else .cc
           nowMa := if v < preLevel p.chem then p.preMa else p.ichgNow
           fastFrom := if v < preLevel p.chem then p.fastFrom else wall }

/-- The last reading of RESTS is none, or stands inside the window. -/
def PowerSt.inside (p : PowerSt) : Prop :=
  p.resTemp = -32768 ∨ (windowLo p.chem ≤ p.resTemp ∧ p.resTemp ≤ windowHi p.chem)

theorem outside_of_inside {p : PowerSt} (h : p.inside) : p.outside = false := by
  unfold PowerSt.outside
  rcases h with h | ⟨hlo, hhi⟩
  · simp [h]
  · simp [hlo, hhi]

theorem softStart_of_inside {s : State} (h : s.power.inside) (v : Nat) :
    s.softStart v = { s with power := s.power.softStarted v s.clk.wall } := by
  unfold State.softStart State.updPower
  dsimp only
  rw [if_neg (by simp [outside_of_inside h])]
  unfold PowerSt.softStarted
  split <;> rfl

/-- Settles O11: the soft-starts by the one operation they share, the steps of a charge each by its guard. -/
theorem chargerStartsAndAdvances : Obligations.ChargerStartsAndAdvances := by
  refine ⟨fun s v hmay hin => ⟨fun hchg hgood hwait => ?_, fun hchg hlevel => ?_, fun hchg hmissed hwait => ?_⟩,
    fun s fall => ⟨fun hchg => ?_, fun hchg => ?_, fun hchg hwait => ?_, fun hchg hwait => ?_, fun hchg hwait hfall => ?_⟩⟩
  · exact run_when (by simp [hchg, hmay, hgood, State.since, hwait]) (softStart_of_inside (s := s.begin) hin v)
  · exact run_when (by simp [hchg, hmay, hlevel]) (softStart_of_inside (s := s.begin) hin v)
  · exact run_when (by simp [hchg, hmay, hmissed, State.since, hwait]) (softStart_of_inside (s := s.begin) hin v)
  · exact run_when (by simp [hchg]) rfl
  · exact run_when (by simp [hchg]) rfl
  · exact run_when (by simp [hchg, State.since, hwait]) rfl
  · exact run_when (by simp [hchg, State.since, hwait]) rfl
  · exact run_when (by simp [hchg, State.since, hwait]) (if_pos hfall)

/-- A device that TEST holds at its reset (18 R456), VAUX in the share range and VPWR gone, with retained settings of an enabled charger. -/
def heldCharger : State := { State.reset with
  bist.testHeld := true
  power.vpwrGood := false, power.onVaux := false, power.resOpen := false, power.retained := true
  power.en := true, power.chem := 1, power.hold := false, power.ntc := false, power.resTemp := -32768 }

theorem heldCharger_takes_no_word : (stateAfter .shareCharge heldCharger).free = heldCharger.free := by
  decide +kernel

/-- Refutes O12: while TEST holds `heldCharger` its charger may not start, so no soft-start takes a free word for VRES. -/
theorem not_chargerFaultsWindowAndSharing : ¬ Obligations.ChargerFaultsWindowAndSharing := by
  rintro ⟨-, h⟩
  obtain ⟨-, -, -, -, hcharge, -⟩ := h heldCharger 0 0 ((Config.freeWord heldCharger.free).toNat % 4096)
  have hexec := hcharge (by decide) (by decide) (by decide) (by decide) (by decide) (by decide) (by decide) (by decide)
    (by decide) rfl
  have hfree := congrArg State.free (stateAfter_of_next hexec)
  rw [heldCharger_takes_no_word] at hfree
  exact Nat.succ_ne_self _ hfree.symm

end Sys2Proof.Machine
end

section
/-!
Supply conditions (13_power_and_reserve.md R348, R352, R353, R362): what a condition lists and raises, and the input that falls or returns.
-/
namespace Sys2Proof.Machine

-- one proof at a time: these proofs share the equations of the operations they unfold
set_option Elab.async false

theorem inMode_of_powered {s : State} (h : s.unpowered = false) : s.inMode [.ship, .keep] = false := (Bool.or_eq_false_iff.mp h).1

/-- A new condition is listed, and raises its source where none was listed. -/
theorem supplyBad_eq {s : State} {item : Nat} (hoff : s.inMode [.ship, .keep] = false) (hnew : item ∉ s.power.supply) :
    s.supplyBad item = { s with
      power.supply := s.power.supply ++ [item]
      fault.evq := s.fault.evq ++ (if s.power.supply = [] then [{ id := 18, item := item, time := s.clk.tt, mode := s.mode.mode.code }] else []) } := by
  have hlist : s.power.supply.contains item = false := by simp [hnew]
  rw [State.supplyBad, if_neg (by rw [hlist]; exact Bool.false_ne_true)]
  unfold State.raiseLevel State.rawFlag
  cases hsup : s.power.supply with
  | nil =>
    rw [if_pos (by simp), if_pos rfl]
    exact if_neg (by simpa [State.inMode] using hoff)
  | cons x xs =>
    rw [if_neg (by simp), if_neg (List.cons_ne_nil _ _), List.append_nil]

theorem supplyBad_only (s : State) (item : Nat) : s.onlyChanges [.power, .fault] (s.supplyBad item) :=
  only_ite (only_refl _ s) (only_step (raiseLevel_only _ _ _ _) (only_one (only_power s _)))

/-- HVIN that feeds the stage falls. -/
theorem hvinFalls_eq {s : State} (hpow : s.unpowered = false) (hfeeds : s.power.stageHv = true) :
    s.hvinFalls = (s.supplyBad 8).updPower (fun p => { p with hvinOk := false, stageOn := p.stageOn && (!p.stageHv || p.vauxSt) }) := by
  rw [State.hvinFalls, if_neg (by simp [hpow, hfeeds])]

/-- VAUX falls where the condition is none: off a station, or on a device without power. -/
theorem vauxFalls_eq_of_none {s : State} (h : s.mode.station = false ∨ s.unpowered = true) :
    s.vauxFalls = s.updPower (fun p => { p with vauxSt := false, stageOn := p.stageOn && p.stageHv && p.hvinOk }) := by
  rw [State.vauxFalls, if_pos (by rcases h with h | h <;> simp [h])]

/-- VAUX falls on a station. -/
theorem vauxFalls_eq {s : State} (hstation : s.mode.station = true) (hpow : s.unpowered = false) :
    s.vauxFalls = (s.supplyBad 9).updPower (fun p => { p with vauxSt := false, stageOn := p.stageOn && p.stageHv && p.hvinOk }) := by
  rw [State.vauxFalls, if_neg (by simp [hpow, hstation])]

theorem updPower_only (s : State) (f : PowerSt → PowerSt) : s.onlyChanges [.power] (s.updPower f) := only_power s _

theorem shareEnds_only (s : State) : s.onlyChanges [.power] s.shareEnds :=
  only_step (updPower_only _ _) (only_ite (only_step (updPower_only _ _) (updPower_only s _)) (only_refl _ s))

theorem stageRises_only (s : State) (v : Bool) : s.onlyChanges [.power] (s.stageRises v) :=
  only_step (updPower_only _ _) (only_ite (shareEnds_only s) (only_refl _ s))

/-- SUPPLY_OUT_OF_LIMITS of an item that no input or tier decides on. -/
theorem supplyOutOfLimits_low {s : State} {item : Nat} (hpow : s.unpowered = false) (hlo : 1 ≤ item) (hhi : item ≤ 4) :
    exec (.supplyOutOfLimits item) s = .next { s.begin.supplyBad item with pending := s.pending } := by
  have hpow' : s.begin.unpowered = false := hpow
  have h5 : decide (5 ≤ item) = false := decide_eq_false (by omega)
  have h10 : item ≤ 10 := by omega
  refine run_next_eq (f := fun u => _) ?_
  rw [if_neg (by omega), if_neg (by omega)]
  simp [when_, hpow', hlo, h10, h5]

/-- Settles O13: each condition through what it lists and raises, each end through the input that it names. -/
theorem supplyConditions : Obligations.SupplyConditions := by
  intro s item tier
  refine ⟨fun hpow hlo hhi hnew => ?_, fun hpow hstation hok hfeeds hnew => ?_, fun hship h8 h9 => ?_, fun hship hoff => ?_,
    fun hvaux hnone => ?_, fun hvaux hstation hpow hnew => ?_, fun hvaux hshare hon => ?_, fun hreach hlo hhi habsent hnew => ?_⟩
  · have heq := supplyBad_eq (s := s.begin) (inMode_of_powered hpow) hnew
    refine ⟨_, supplyOutOfLimits_low hpow hlo hhi, next_only (only_one (supplyBad_only _ _)), ?_, ?_⟩
    · rw [heq]
      rfl
    · rw [heq]
      rfl
  · have hguard : (!s.begin.mode.station && s.begin.power.hvinOk) = true := by simp [State.begin, hstation, hok]
    have hexec : exec (.supplyOutOfLimits 8) s = .next { s.begin.hvinFalls with pending := s.pending } :=
      run_next_eq (f := fun u => _) (congrArg (fun c => when_ c State.hvinFalls s.begin) hguard)
    rw [hvinFalls_eq (s := s.begin) hpow hfeeds] at hexec
    refine ⟨_, hexec, next_only (only_step (updPower_only _ _) (only_one (supplyBad_only _ _))), ?_⟩
    rw [supplyBad_eq (s := s.begin) (inMode_of_powered hpow) hnew]
    simp [State.updPower, State.begin, hfeeds]
  · refine run_eq (f := fun u => _) ?_
    rw [if_neg h8, if_neg (by exact hship), if_neg h9]
    rfl
  · have hexec : exec (.supplyReturn 9) s = .next { s.begin.stageRises true with pending := s.pending } :=
      run_next_eq (f := fun u => _) (by rw [if_neg (by decide), if_neg (by exact hship), if_pos rfl])
    refine ⟨_, hexec, next_only (only_one (stageRises_only _ _)), ?_, ?_, ?_⟩
    all_goals simp [State.stageRises, State.shareEnds, State.updPower, State.begin, hoff]
  · refine run_eq (f := fun u => _) ?_
    rw [if_pos (by exact hvaux), vauxFalls_eq_of_none (s := s.begin) hnone]
    rfl
  · have hexec : exec .vauxLoss s = .next { s.begin.vauxFalls with pending := s.pending } := run_next_eq (f := fun u => _) (if_pos hvaux)
    rw [vauxFalls_eq (s := s.begin) hstation hpow] at hexec
    refine ⟨_, hexec, next_only (only_step (updPower_only _ _) (only_one (supplyBad_only _ _))), ?_⟩
    rw [supplyBad_eq (s := s.begin) (inMode_of_powered hpow) hnew]
    rfl
  · refine run_eq (f := fun u => _) ?_
    rw [if_neg (by simp [State.begin, hvaux]), if_pos (by exact hshare)]
    simp [State.shareEnds, State.begin, hon]
    rfl
  · have hawake := (reachable_parts hreach).1
    have htier : s.tierPresent tier = false := by simp [State.tierPresent, habsent]
    have hexec : exec (.tierPoweredAfterRelease tier) s = .next { s.begin.supplyBad 10 with pending := s.pending } :=
      run_when_next (by simp [State.tiersOn, hawake, hlo, hhi, htier])
    refine ⟨_, hexec, next_only (only_one (supplyBad_only _ _)), ?_, ?_⟩
    · rw [supplyBad_eq (s := s.begin) (inMode_of_awake hawake) hnew]
      rfl
    · exact congrArg IdentSt.tiers (supplyBad_only s.begin 10 .ident (by decide))

end Sys2Proof.Machine
end

section
/-!
What an answer of a device leaves alone: the answer to a request of its own, its contribution to a harvest, and the end of a harvest or of a
transaction at the ROOT (06 R170, 09 R268) change the reply, the host island, the ports, the gleaners and the count of free words.
-/
namespace Sys2Proof.Machine

-- one proof at a time: these proofs share the equations of the operations they unfold
set_option Elab.async false

/-- What the answer to a request changes. -/
def answerParts : List Part := [.free, .reply, .out, .ports, .host, .glean]

/-- A change of the parts that an answer changes, behind others of them. -/
theorem answers_step {s t u : State} {qs : List Part} (h : s.onlyChanges answerParts t) (k : t.onlyChanges qs u)
    (hq : ∀ p ∈ qs, p ∈ answerParts := by decide) : s.onlyChanges answerParts u := only_step k h hq

variable (s : State)

theorem updTx_answers (i : Nat) (f : Tx → Tx) : s.onlyChanges answerParts (s.updTx i f) := only_one (updTx_only s i f)

theorem updHarvest_answers (tag : Nat) (f : Harvest → Harvest) : s.onlyChanges answerParts (s.updHarvest tag f) :=
  only_one (updHarvest_only s tag f)

/-- What the end of a transaction at the ROOT changes. -/
def endParts : List Part := [.free, .reply, .out, .host, .glean]

theorem finishTx_ends (x : Tx) (c : Contribution) : s.onlyChanges endParts (s.finishTx x c) := by
  unfold State.finishTx
  extract_lets scope one mp s1 st ansN span mapB s2 endWith stq big sq finish s3
  have hs2 : s.onlyChanges endParts s2 := only_step (answer_only _ _ _ _ _) (only_one (took_only s))
  have hover (b : Bool) (u : State) (hu : s.onlyChanges endParts u) : s.onlyChanges endParts (when_ b State.countOverflow u) :=
    only_trans hu (only_when (only_one (only_glean u _)))
  have hend (u : State) (a v : Nat) (bs : List Byte) (hu : s.onlyChanges endParts u) : s.onlyChanges endParts (endWith u a v bs) := by
    unfold endWith
    refine only_ite (only_step (postFinal_only _ _ _ _ _ _ _ _) (only_ite hu ?_)) (only_ite ?_ (only_step (postFinal_only _ _ _ _ _ _ _ _) hu))
    · exact only_step (postMore_only _ _ _ _ _ _) hu
    · exact only_step (postFinal_only _ _ _ _ _ _ _ _) (only_step (postMore_only _ _ _ _ _ _) hu)
  clear_value endWith s2
  have hsq : s.onlyChanges endParts sq := hover _ _ hs2
  clear_value sq big
  have hfinish (v : Nat) (bs : List Byte) : s.onlyChanges endParts (finish v bs) := hend _ _ _ _ (hover _ _ hsq)
  clear_value finish
  refine only_step (settleWaits_only _ _) ?_
  unfold s3
  split
  · exact only_ite (hend _ _ _ _ hs2) (hend _ _ _ _ hs2)
  · refine only_ite (hend _ _ _ _ hsq) (only_ite ?_ (hend _ _ _ _ hsq))
    split <;> exact hfinish _ _
  · exact hend _ _ _ _ hs2
  · exact hend _ _ _ _ hs2
  · exact hend _ _ _ _ hs2
  · exact only_ite (hend _ _ _ _ hs2) (hend _ _ _ _ hs2)
  · exact hend _ _ _ _ hs2

theorem dropCopies_only (tag : Nat) : s.onlyChanges answerParts (s.dropCopies tag) := only_one (only_host s _)

theorem surveyAnswer_ends (t : Tx) (t0 : Nat) (c : Contribution) : s.onlyChanges endParts (s.surveyAnswer t t0 c) :=
  only_ite (finishTx_ends s _ _) (only_ite (only_refl _ s) (only_one (updTx_only s _ _)))

theorem exposeAnswer_ends (t : Tx) (c : Contribution) : s.onlyChanges endParts (s.exposeAnswer t c) :=
  only_ite (only_one (updTx_only s _ _)) (only_ite (finishTx_ends s _ _) (only_one (updTx_only s _ _)))

theorem endTx_ends (t : Tx) (c : Contribution) : s.onlyChanges endParts (s.endTx t c) := by
  unfold State.endTx
  refine only_ite (only_refl _ s) ?_
  split
  · exact surveyAnswer_ends s _ _ _
  · exact exposeAnswer_ends s _ _
  · exact finishTx_ends s _ _

theorem endTx_only (t : Tx) (c : Contribution) : s.onlyChanges answerParts (s.endTx t c) := only_one (endTx_ends s t c)

theorem placeAll_only : s.onlyChanges answerParts s.placeAll :=
  only_trans (only_one (admitAll_only s)) (only_foldl fun u _ => only_one (startStep_only u _))

theorem endHarvest_only (h : Harvest) (c : Contribution) (b : Bool) : s.onlyChanges answerParts (s.endHarvest h c b) := by
  unfold State.endHarvest
  extract_lets mine owes r s1 s2 s3 s4
  have hs1 : s.onlyChanges answerParts s1 := only_one (only_glean s _)
  have hs2 : s.onlyChanges answerParts s2 := only_trans hs1 (only_foldl fun u _ => only_one (payCredits_only u _))
  have hs3 : s.onlyChanges answerParts s3 := by
    unfold s3
    split
    · exact hs2
    · exact only_trans hs2 (dropCopies_only _ _)
  have hs4 : s.onlyChanges answerParts s4 := by
    unfold s4
    split
    · split
      · exact only_trans hs3 (endTx_only _ _ _)
      · exact hs3
    · exact answers_step hs2 (sendUp_only _ _ _ _ _ _ _ _)
  exact only_trans hs4 (placeAll_only _)

theorem closeHarvest_only (tag : Nat) : s.onlyChanges answerParts (s.closeHarvest tag) := by
  unfold State.closeHarvest
  split
  · exact only_refl _ s
  · extract_lets c
    refine only_ite (only_refl _ s) ?_
    split
    · exact only_ite (endHarvest_only s _ _ _)
        (only_ite (answers_step (updHarvest_answers s _ _) (raiseJob_only _ _ _ _ _)) (endHarvest_only s _ _ _))
    · exact endHarvest_only s _ _ _

theorem arrived_only (h : Harvest) (port : Option Nat) : s.onlyChanges answerParts (s.arrived h port) :=
  only_ite (closeHarvest_only s _)
    (only_ite (answers_step (updHarvest_answers s _ _) (startStep_only _ _)) (updHarvest_answers s _ _))

theorem giveKid_only (tag : Nat) (port : Option Nat) (c : Contribution) : s.onlyChanges answerParts (s.giveKid tag port c) := by
  unfold State.giveKid
  extract_lets c1
  split
  · exact only_refl _ s
  · exact only_ite (only_trans (updHarvest_answers s _ _) (arrived_only _ _ _)) (only_refl _ s)

theorem copyPart_only (t : Tx) (main : Nat) (c : Contribution) : s.onlyChanges answerParts (s.copyPart t main c) := by
  have hboth (i tag : Nat) (f : Tx → Tx) (g : Harvest → Harvest) : s.onlyChanges answerParts ((s.updTx i f).updHarvest tag g) :=
    only_trans (updTx_answers s i f) (updHarvest_answers _ tag g)
  exact only_ite (only_trans (hboth _ _ _ _) (giveKid_only _ _ _ _)) (hboth _ _ _ _)

theorem contribute_only (tag : Nat) (port : Option Nat) (c : Contribution) (src : Nat) (req : Req) (pos depth : Nat) :
    s.onlyChanges answerParts (s.contribute tag port c src req pos depth) := by
  unfold State.contribute
  split
  · exact giveKid_only s _ _ _
  · split
    · split
      · split
        · exact endTx_only s _ _
        · exact only_ite (endTx_only s _ _) (copyPart_only s _ _ _)
        · exact copyPart_only s _ _ _
      · exact endTx_only s _ _
    · exact only_ite (only_refl _ s) (only_one (sendUp_only s _ _ _ _ _ _ _))

theorem respond_only (tag : Option Nat) (status value : Nat) : s.onlyChanges answerParts (s.respond tag status value) := by
  unfold State.respond
  extract_lets s1
  have hs1 : s.onlyChanges answerParts s1 := only_one (answer_only s _ _ _ _)
  split
  · exact hs1
  · exact only_trans hs1 (contribute_only _ _ _ _ _ _ _ _)


end Sys2Proof.Machine
end

section
/-!
What the flush of the ports leaves of a port that trains (07 R203): nothing leaves it, so what is queued there waits.
-/
namespace Sys2Proof.Machine

-- one proof at a time: these proofs share the equations of the operations they unfold
set_option Elab.async false

/-- A port that trains neither sends nor gives credits. -/
theorem sends_of_training {q : PortSt} (h : q.link = .training) : q.sends = false := by
  simp [PortSt.sends, h]

theorem canSend_of_training {q : PortSt} (h : q.link = .training) (f : Frame) : q.canSend f = false := by
  simp [PortSt.canSend, sends_of_training h]

/-- Two states hold the same link and the same queues, deficits apart, at port q. -/
def State.sameQueues (s : State) (q : Nat) (t : State) : Prop :=
  (t.port q).link = (s.port q).link ∧ (t.port q).txq.safety = (s.port q).txq.safety ∧ (t.port q).txq.control = (s.port q).txq.control
    ∧ (t.port q).txq.data = (s.port q).txq.data ∧ (t.port q).txq.bulk = (s.port q).txq.bulk

theorem sameQueues_refl (s : State) (q : Nat) : s.sameQueues q s := ⟨rfl, rfl, rfl, rfl, rfl⟩

theorem sameQueues_trans {s t u : State} {q : Nat} (h : s.sameQueues q t) (k : t.sameQueues q u) : s.sameQueues q u := by
  obtain ⟨h1, h2, h3, h4, h5⟩ := h
  obtain ⟨k1, k2, k3, k4, k5⟩ := k
  exact ⟨k1.trans h1, k2.trans h2, k3.trans h3, k4.trans h4, k5.trans h5⟩

/-- An update of a port that keeps its link and its queues. -/
theorem updPort_sameQueues {s : State} {p q : Nat} {f : PortSt → PortSt} (h : ∀ x : PortSt, (f x).link = x.link
    ∧ (f x).txq.safety = x.txq.safety ∧ (f x).txq.control = x.txq.control ∧ (f x).txq.data = x.txq.data ∧ (f x).txq.bulk = x.txq.bulk) :
    s.sameQueues q (s.updPort p f) := by
  by_cases hp : p = q
  · subst hp
    by_cases hlt : p < s.ports.length
    · unfold State.sameQueues
      rw [updPort_port_self s p f hlt]
      exact h _
    · have hnone : s.ports[p]? = none := List.getElem?_eq_none_iff.mpr (by omega)
      have hsame : s.updPort p f = s := by simp [State.updPort, updAt, hnone]
      rw [hsame]
      exact sameQueues_refl s p
  · unfold State.sameQueues
    rw [updPort_port_ne s p q f hp]
    exact ⟨rfl, rfl, rfl, rfl, rfl⟩

theorem sameQueues_ite {s t : State} {q : Nat} {c : Prop} [Decidable c] (h : s.sameQueues q t) :
    s.sameQueues q (if c then s else t) := by
  split
  · exact sameQueues_refl s q
  · exact h

theorem updPort_sameQueues_ne {s : State} {p q : Nat} (h : p ≠ q) (f : PortSt → PortSt) : s.sameQueues q (s.updPort p f) := by
  unfold State.sameQueues
  rw [updPort_port_ne s p q f h]
  exact ⟨rfl, rfl, rfl, rfl, rfl⟩

theorem sameQueues_of_ports {s t : State} (h : t.ports = s.ports) (q : Nat) : s.sameQueues q t := by
  unfold State.sameQueues State.port
  rw [h]
  exact ⟨rfl, rfl, rfl, rfl, rfl⟩

theorem stampTime_sameQueues (s : State) (p q : Nat) (f : Frame) : s.sameQueues q (s.stampTime p f).2 := by
  unfold State.stampTime
  split
  · exact sameQueues_refl s q
  · split
    · exact updPort_sameQueues fun _ => ⟨rfl, rfl, rfl, rfl, rfl⟩
    · exact sameQueues_refl s q

theorem crierBit_sameQueues (s : State) (p q : Nat) : s.sameQueues q (s.crierBit p).2 := by
  unfold State.crierBit
  extract_lets c start msg g s1
  split
  · exact sameQueues_refl s q
  · have hadv : s.onlyChanges [.glean] s1 := only_ite (only_glean s _) (only_refl _ s)
    exact sameQueues_trans (sameQueues_of_ports (hadv .ports (by decide)) q) (updPort_sameQueues fun _ => ⟨rfl, rfl, rfl, rfl, rfl⟩)

theorem updSpace_keeps (q : PortSt) (b : Bool) (f : SeqSpace → SeqSpace) :
    (q.updSpace b f).link = q.link ∧ (q.updSpace b f).txq = q.txq := by
  unfold PortSt.updSpace
  cases b <;> exact ⟨rfl, rfl⟩

/-- A frame that goes out was taken off its queue before. -/
theorem sendNow_sameQueues (s : State) (p q : Nat) (x : QFrame) : s.sameQueues q (s.sendNow p x) := by
  unfold State.sendNow
  have h1 := stampTime_sameQueues s p q x.frame
  generalize s.stampTime p x.frame = r1 at h1 ⊢
  obtain ⟨f, s1⟩ := r1
  dsimp only at h1 ⊢
  have h2 : s1.sameQueues q ((s1.stampProbe f).crierBit p).2 :=
    sameQueues_trans (sameQueues_of_ports (stampProbe_only s1 f .ports (by decide)) q) (crierBit_sameQueues _ p q)
  generalize (s1.stampProbe f).crierBit p = r2 at h2 ⊢
  obtain ⟨cb, s2⟩ := r2
  dsimp only at h2 ⊢
  refine sameQueues_trans (sameQueues_trans h1 h2) ?_
  refine sameQueues_trans ?_ (sameQueues_of_ports (emit_only _ _ .ports (by decide)) q)
  have hsend {g : PortSt → PortSt} (hg : ∀ u, (g u).link = u.link ∧ (g u).txq = u.txq) : s2.sameQueues q (s2.updPort p g) :=
    updPort_sameQueues fun u => by
      obtain ⟨hlink, hq⟩ := hg u
      rw [hlink, hq]
      exact ⟨rfl, rfl, rfl, rfl, rfl⟩
  split
  · refine sameQueues_trans ?_ (sameQueues_ite (updPort_sameQueues fun _ => ⟨rfl, rfl, rfl, rfl, rfl⟩))
    exact hsend fun u => updSpace_keeps u _ _
  · exact hsend fun u => updSpace_keeps u _ _

/-- A turn of the scheduler at any port takes nothing off the queues of a port that trains. -/
theorem pumpOne_sameQueues {s : State} {q : Nat} (h : (s.port q).link = .training) (p : Nat) : s.sameQueues q (s.pumpOne p) := by
  unfold State.pumpOne
  extract_lets u t ready fits size go
  have hgo (l : List QFrame) (f : TxQueues → TxQueues) (hp : p ≠ q) : s.sameQueues q (go l f) := by
    unfold go
    split
    · exact sameQueues_trans (updPort_sameQueues_ne hp _) (sendNow_sameQueues _ _ _ _)
    · exact sameQueues_refl s q
  by_cases hp : p = q
  · subst hp
    have hready (l : List QFrame) : ready l = false := by
      unfold ready
      split
      · exact canSend_of_training h _
      · rfl
    have hfits (l : List QFrame) (d : Nat) : fits l d = false := by
      unfold fits
      split
      · simp [u, canSend_of_training h]
      · rfl
    clear_value ready fits
    rw [hready, hfits, hfits, hfits]
    exact updPort_sameQueues fun _ => ⟨rfl, rfl, rfl, rfl, rfl⟩
  · clear_value ready fits size go
    split
    · exact hgo _ _ hp
    · split
      · exact hgo _ _ hp
      · split
        · exact hgo _ _ hp
        · split
          · exact hgo _ _ hp
          · exact updPort_sameQueues fun _ => ⟨rfl, rfl, rfl, rfl, rfl⟩

theorem iter_sameQueues {f : State → State} {q : Nat} (n : Nat) {s : State} (h : (s.port q).link = .training)
    (hf : ∀ u : State, (u.port q).link = .training → u.sameQueues q (f u)) : s.sameQueues q (iter f n s) := by
  induction n generalizing s with
  | zero => exact sameQueues_refl s q
  | succ n ih => exact sameQueues_trans (hf s h) (ih ((hf s h).1.trans h))

theorem foldl_sameQueues {α : Type} {f : State → α → State} {q : Nat} (l : List α) {s : State} (h : (s.port q).link = .training)
    (hf : ∀ (u : State) (a : α), (u.port q).link = .training → u.sameQueues q (f u a)) : s.sameQueues q (l.foldl f s) := by
  induction l generalizing s with
  | nil => exact sameQueues_refl s q
  | cons a l ih => exact sameQueues_trans (hf s a h) (ih ((hf s a h).1.trans h))

theorem giveCredit_sameQueues (s : State) (p q : Nat) : s.sameQueues q (s.giveCredit p) := by
  unfold State.giveCredit
  extract_lets u kept o
  split
  · exact sameQueues_refl s q
  · refine sameQueues_trans ?_ (sendNow_sameQueues _ _ _ _)
    exact updPort_sameQueues fun _ => ⟨rfl, rfl, rfl, rfl, rfl⟩

theorem freeExposure_ports (s : State) : s.freeExposure.ports = s.ports := freeExposure_only s .ports (by decide)

/-- The flush takes nothing off the queues of a port that trains. -/
theorem flush_sameQueues {s : State} {q : Nat} (h : (s.port q).link = .training) : s.sameQueues q s.flush := by
  have hpump : s.sameQueues q ([0, 1, 2, 3].foldl State.pump s) :=
    foldl_sameQueues _ h fun u p hu => iter_sameQueues _ hu fun v hv => pumpOne_sameQueues hv p
  refine sameQueues_trans hpump (sameQueues_trans ?_ (sameQueues_of_ports (freeExposure_ports _) q))
  exact foldl_sameQueues _ (hpump.1.trans h) fun u p _ => giveCredit_sameQueues u p q

/-- What joins the control queue of a port that trains stands there behind the flush. -/
theorem flush_control_of_training {s : State} {q : Nat} (h : (s.port q).link = .training) :
    (s.flush.port q).txq.control = (s.port q).txq.control := (flush_sameQueues h).2.2.1

/-- The queue of waiting commands is no port's. -/
theorem port_pending (s : State) (l : List Instr) (q : Nat) : ({ s with pending := l } : State).port q = s.port q := rfl

theorem trains_parts {s : State} {q : Nat} (h : s.trains q = true) : q < s.ports.length ∧ (s.port q).link = .training := by
  simp only [State.trains, Bool.and_eq_true, decide_eq_true_eq] at h
  exact ⟨by omega, h.2⟩

/-- A CLASS 1 frame joins the control queue of a port that trains. -/
theorem enqueue_control {s : State} {q : Nat} (h : s.trains q = true) {x : QFrame} (hx : x.frame.cls = 1) :
    ((s.enqueue q x).port q).link = .training ∧ ((s.enqueue q x).port q).txq.control = (s.port q).txq.control ++ [x] := by
  obtain ⟨hlt, hlink⟩ := trains_parts h
  unfold State.enqueue
  rw [updPort_port_self s q _ hlt]
  simp [hlink, hx]

/-- A CLASS 1 frame for a position that a training port leads to stands in its queue behind the flush. -/
theorem sendTo_control {s : State} {q : Nat} {f : Frame} (hroute : s.route f.dest = .out q) (h : s.trains q = true) (hf : f.cls = 1) :
    ((s.sendTo f).flush.port q).txq.control = (s.port q).txq.control ++ [{ frame := f, src := none }] := by
  have hsend : s.sendTo f = s.enqueue q { frame := f, src := none } := by
    unfold State.sendTo
    rw [hroute]
  obtain ⟨hlink, hctl⟩ := enqueue_control h (x := { frame := f, src := none }) hf
  rw [hsend, flush_control_of_training hlink, hctl]

/-- A PENDING frame for a position that a training port leads to. -/
theorem sendPending_control {s : State} {q tag dest : Nat} (hroute : s.route dest = .out q) (h : s.trains q = true) :
    ((s.sendPending tag dest).flush.port q).txq.control = (s.port q).txq.control ++
      [{ frame := { typ := 6, cls := 1, hasScope := false, dest := dest, src := s.tree.pos, depth := 0, tag := tag, payload := [] }
         src := none }] := by
  unfold State.sendPending
  exact sendTo_control hroute h rfl

end Sys2Proof.Machine
end

section
/-!
The end of a commit (16 R411–R415): what it leaves in the flash, whatever halt was held back, and which parts of the state it changes.
-/
namespace Sys2Proof.Machine

-- one proof at a time: these proofs share the equations of the operations they unfold
set_option Elab.async false

/-! ### Leaving COMMIT -/

/-- What a halt changes. -/
def haltParts : List Part :=
  answerParts ++ [.wire, .safety, .diag, .cells, .survey, .kept, .bal, .tree, .mode, .flash, .dbg]

theorem abortWire_only (s : State) (d : Bool) : s.onlyChanges (.wire :: answerParts) (s.abortWire d) := by
  unfold State.abortWire
  extract_lets tag busy fn w s1
  have hs1 : s.onlyChanges (.wire :: answerParts) s1 := only_one (only_wire s _)
  exact only_ite (only_step (respond_only _ _ _ _) hs1) hs1

/-- What a halt ends before the mode changes. -/
def State.haltEffects (s : State) : State := (((s.dropSession).abandonStep).abortSurvey true).abortWire false

theorem haltEffects_only (s : State) :
    s.onlyChanges (answerParts ++ [.wire, .safety, .diag, .cells, .survey, .kept, .bal, .tree]) s.haltEffects :=
  only_step (abortWire_only _ _) (only_step (abortSurvey_only _ _) (only_step (abandonStep_only _) (only_one (dropSession_only s))))

/-- Some ledger entries entered the queue or were lost; the rest of the flash stays. -/
def FlashSt.ledgered (f g : FlashSt) : Prop := ∃ q n l, g = { f with queue := q, nextSeq := n, lost := l }

theorem ledgered_refl (f : FlashSt) : f.ledgered f := ⟨f.queue, f.nextSeq, f.lost, rfl⟩

theorem ledgered_trans {f g h : FlashSt} (hg : f.ledgered g) (hh : g.ledgered h) : f.ledgered h := by
  obtain ⟨_, _, _, rfl⟩ := hg
  obtain ⟨q, n, l, rfl⟩ := hh
  exact ⟨q, n, l, rfl⟩

theorem ledgered_of_eq {f g : FlashSt} (h : g = f) : f.ledgered g := h ▸ ledgered_refl f

theorem ledger_ledgered (s : State) (c i d : Nat) : s.flash.ledgered (s.ledger c i d).flash := ledger_flash s c i d

theorem setMode_ledgered (s : State) (m : Mode) : s.flash.ledgered (s.setMode m).flash := setMode_flash s m

/-- A halt enters its mode change in the ledger. -/
theorem toHalted_ledgered (s : State) : s.flash.ledgered s.toHalted.flash := by
  unfold State.toHalted
  split
  · exact ledgered_refl _
  · split
    · extract_lets old s1 m b d s2
      have hs2 : s2.flash = s.flash := haltEffects_only s .flash (by decide)
      clear_value s2
      exact ledgered_trans (ledgered_of_eq hs2)
        (ledgered_trans (setMode_ledgered s2 .halted) (ledgered_of_eq (switches_only _ .flash (by decide))))
    · exact ledgered_refl _

theorem only_mode_bal_dbg (s : State) (m : ModeSt) (b : BalanceSt) (d : DbgSt) :
    s.onlyChanges [.mode, .bal, .dbg] { s with mode := m, bal := b, dbg := d } := fun p hp => by
  cases p <;> first | rfl | exact absurd (by decide) hp

theorem toHalted_only (s : State) : s.onlyChanges haltParts s.toHalted := by
  unfold State.toHalted
  refine only_ite (only_one (only_mode s _)) (only_ite ?_ (only_refl _ s))
  extract_lets old s1 m b d s2
  have hs1 : s.onlyChanges haltParts s1 := only_one (haltEffects_only s)
  have hs2 : s.onlyChanges haltParts s2 := only_step (only_mode_bal_dbg s1 _ _ _) hs1
  clear_value s2
  exact only_step (switches_only _) (only_step (setMode_only s2 .halted) hs2)

theorem takeHalt_ledgered (s : State) : s.flash.ledgered s.takeHalt.flash := by
  unfold State.takeHalt
  split
  · exact toHalted_ledgered s
  · exact ledgered_refl _

theorem takeHalt_of_none {s : State} (h : s.mode.haltHeld = false) : s.takeHalt = s := by
  rw [State.takeHalt, h]
  rfl

theorem leaveCommit_ledgered (s : State) : s.flash.ledgered s.leaveCommit.flash := by
  refine ledgered_trans ?_ (takeHalt_ledgered _)
  split
  · exact setMode_ledgered s _
  · exact ledgered_refl _

theorem leaveCommit_only_any (s : State) : s.onlyChanges haltParts s.leaveCommit :=
  only_trans (only_ite (only_one (setMode_only s _)) (only_refl _ s)) (only_ite (toHalted_only _) (only_refl _ _))

/-- Without a halt held back COMMIT is left by a change of mode alone. -/
theorem leaveCommit_only {s : State} (h : s.mode.haltHeld = false) : s.onlyChanges [.mode, .flash, .host, .out] s.leaveCommit := by
  unfold State.leaveCommit
  split
  · rw [takeHalt_of_none (by rw [setMode_mode]; exact h)]
    exact setMode_only s _
  · rw [takeHalt_of_none h]
    exact only_refl _ s

/-! ### The end of a commit -/

theorem updCommit_only (s : State) (f : CommitSt → CommitSt) : s.onlyChanges [.flash] (s.updCommit f) := only_flash s _

theorem foldl_owed_only (s : State) (l : List (Nat × Nat × Nat)) : s.onlyChanges [.ports]
    (l.foldl (fun s o => s.updPort o.1 (fun q => { q with owed := q.owed.upd o.2.1 (fun k => k + o.2.2) })) s) :=
  only_foldl fun u _ => updPort_only u _ _

theorem oweWaiting_only (s : State) : s.onlyChanges [.ports, .flash] s.oweWaiting :=
  only_step (updCommit_only _ _) (only_one (foldl_owed_only s _))

theorem oweWaiting_flash (s : State) : s.oweWaiting.flash = { s.flash with commit := { s.flash.commit with owing := [] } } := by
  have hports := foldl_owed_only s s.flash.commit.owing .flash (by decide)
  unfold State.oweWaiting State.updCommit
  dsimp only
  rw [hports]

theorem eraseStarts_only (s : State) : s.onlyChanges [.wdog] s.eraseStarts := only_wdog s _

theorem eraseBegins_only (s : State) (k : Erase) : s.onlyChanges [.flash, .wdog] (s.eraseBegins k) :=
  only_ite (only_step (eraseStarts_only _) (only_one (only_flash s _))) (only_one (only_flash s _))

theorem eraseOver_only (s : State) : s.onlyChanges [.wdog] s.eraseOver :=
  only_ite (only_step (only_wdog _ _) (only_wdog s _)) (only_refl _ s)

theorem eraseNext_only (s : State) (l : List Erase) : s.onlyChanges [.flash, .wdog] (s.eraseNext l) := by
  have hover : s.onlyChanges [.flash, .wdog] (State.eraseOver { s with flash := { s.flash with erases := l } }) :=
    only_step (eraseOver_only _) (only_one (only_flash s _))
  exact only_ite hover (only_step (eraseStarts_only _) hover)

theorem commitErased_only (s : State) : s.onlyChanges [.flash, .wdog] s.commitErased :=
  only_ite (only_one (only_flash s _)) (eraseNext_only s _)

/-- The erase queue of the flash may have changed, all else stays. -/
def FlashSt.queuedErases (f g : FlashSt) : Prop := ∃ l, g = { f with erases := l }

theorem eraseBegins_flash (s : State) (k : Erase) : (s.eraseBegins k).flash = { s.flash with erases := s.flash.erases ++ [k] } := by
  unfold State.eraseBegins
  dsimp only
  split <;> rfl

theorem eraseOver_flash (s : State) : s.eraseOver.flash = s.flash := eraseOver_only s .flash (by decide)

theorem eraseNext_flash (s : State) (l : List Erase) : (s.eraseNext l).flash = { s.flash with erases := l } := by
  unfold State.eraseNext
  dsimp only
  split
  · exact eraseOver_flash _
  · exact (eraseStarts_only _ .flash (by decide)).trans (eraseOver_flash _)

theorem commitErased_flash (s : State) : s.flash.queuedErases s.commitErased.flash := by
  unfold State.commitErased
  dsimp only
  split
  · exact ⟨_, rfl⟩
  · exact ⟨_, eraseNext_flash s _⟩

/-- The flash where a commit ended, before records are dropped: its registers, with the erases that run on. -/
def FlashSt.ended (f : FlashSt) (state reason : Nat) : FlashSt :=
  { f with
    commit := { f.commit with owing := [], isOpen := false, state := state, reason := reason, rx := [] }
    erases := match f.erases with
      | [] => []
      | _ :: q => .data :: q.filter (fun k => k = .data) }

/-- The state in which a commit has ended, before its records are dropped. -/
def State.commitEnded (s : State) (state reason : Nat) : State :=
  s.oweWaiting.commitErasesDrop.updCommit (fun c => { c with isOpen := false, state := state, reason := reason, rx := [] })

theorem commitEnded_only (s : State) (st r : Nat) : s.onlyChanges [.ports, .flash] (s.commitEnded st r) :=
  only_step (updCommit_only _ _) (only_step (only_flash _ _) (oweWaiting_only s))

theorem commitEnded_flash (s : State) (st r : Nat) : (s.commitEnded st r).flash = s.flash.ended st r := by
  unfold State.commitEnded State.updCommit State.commitErasesDrop
  dsimp only
  rw [oweWaiting_flash]
  rfl

/-- A commit that neither a transaction nor a piece waits for ends with a ledger entry and an answer. -/
theorem endCommit_eq {s : State} (htag : s.flash.commit.tag = none) (hrx : s.flash.commit.rx = []) (st r status : Nat) :
    ∃ i d v, s.endCommit st r status =
      ((((s.commitEnded st r).dropRecords s.flash.commit st).ledger 0x10 i d).answer status v).leaveCommit := by
  unfold State.endCommit
  extract_lets c ver s1 s2 s3 s4
  have htag' : c.tag = none := htag
  have hrx' : c.rx = [] := hrx
  have hs3 : s3 = s2 := by
    unfold s3
    rw [hrx']
    rfl
  refine ⟨st + 16 * r, ver + put c.crc 32 32, if st = 5 then s4.commitWord else 0, ?_⟩
  rw [htag']
  unfold s4
  rw [hs3]
  rfl

theorem dropRecords_only (s : State) (c : CommitSt) (st : Nat) : s.onlyChanges [.flash, .wdog] (s.dropRecords c st) :=
  only_ite (only_step (eraseBegins_only _ _) (only_step (eraseBegins_only _ _) (only_one (only_flash s _)))) (only_refl _ s)

section
variable {s : State} (htag : s.flash.commit.tag = none) (hrx : s.flash.commit.rx = [])
include htag hrx

theorem endCommit_only (hhalt : s.mode.haltHeld = false) (st r status : Nat) :
    s.onlyChanges [.ports, .flash, .wdog, .mode, .host, .out, .reply] (s.endCommit st r status) := by
  obtain ⟨i, d, v, heq⟩ := endCommit_eq htag hrx st r status
  rw [heq]
  have hbefore : s.onlyChanges [.ports, .flash, .wdog, .reply]
      ((((s.commitEnded st r).dropRecords s.flash.commit st).ledger 0x10 i d).answer status v) :=
    only_step (answer_only _ _ _ _ _) (only_step (ledger_only _ _ _ _) (only_step (dropRecords_only _ _ _) (only_one (commitEnded_only s st r))))
  exact only_step (leaveCommit_only (by rw [hbefore .mode (by decide)]; exact hhalt)) (only_one hbefore)

/-- Whatever halt follows, the end of a commit changes no part that none of its operations names. -/
theorem endCommit_only_any (st r status : Nat) : s.onlyChanges (.wdog :: haltParts) (s.endCommit st r status) := by
  obtain ⟨i, d, v, heq⟩ := endCommit_eq htag hrx st r status
  rw [heq]
  exact only_step (leaveCommit_only_any _) (only_step (answer_only _ _ _ _ _) (only_step (ledger_only _ _ _ _)
    (only_step (dropRecords_only _ _ _) (only_one (commitEnded_only s st r)))))

theorem endCommit_ledgered (st r status : Nat) :
    ((s.commitEnded st r).dropRecords s.flash.commit st).flash.ledgered (s.endCommit st r status).flash := by
  obtain ⟨i, d, v, heq⟩ := endCommit_eq htag hrx st r status
  rw [heq]
  exact ledgered_trans (ledger_ledgered _ 0x10 i d) (leaveCommit_ledgered _)

/-- The end of a commit whose records stay. -/
theorem endCommit_flash_of_kept {st : Nat} (hkeep : st = 5 ∨ s.flash.commit.state ≠ 4 ∨ s.flash.commit.recA = false) (r status : Nat) :
    (s.flash.ended st r).ledgered (s.endCommit st r status).flash := by
  have hdrop : (s.commitEnded st r).dropRecords s.flash.commit st = s.commitEnded st r := by
    rw [State.dropRecords, if_neg (by rcases hkeep with h | h | h <;> simp [h])]
  have h := endCommit_ledgered htag hrx st r status
  rw [hdrop, commitEnded_flash] at h
  exact h

/-- The end of a commit that has written one record of its pair. -/
theorem endCommit_flash_of_rewritten {st : Nat} (hst : st ≠ 5) (hstate : s.flash.commit.state = 4) (hrec : s.flash.commit.recA = true)
    (r status : Nat) : ∃ p l, p.active = s.flash.active ∧
      ({ s.flash.ended st r with recA := some p, recB := some p, erases := l } : FlashSt).ledgered (s.endCommit st r status).flash := by
  have hdrop : (s.commitEnded st r).dropRecords s.flash.commit st = (s.commitEnded st r).rewritePair := by
    rw [State.dropRecords, if_pos (by simp [hst, hstate, hrec])]
  have h := endCommit_ledgered htag hrx st r status
  rw [hdrop] at h
  refine ⟨(s.commitEnded st r).oldPair, (s.commitEnded st r).flash.erases ++ [.data] ++ [.data], ?_, ?_⟩
  · show (s.commitEnded st r).flash.active = s.flash.active
    rw [commitEnded_flash]
    rfl
  · rw [← commitEnded_flash]
    unfold State.rewritePair at h
    rw [eraseBegins_flash, eraseBegins_flash] at h
    exact h

end

end Sys2Proof.Machine
end

section
/-!
The steps of a commit that no transaction waits for (16 R412–R415), and the report of one that a transaction waits for (16 R411).
-/
namespace Sys2Proof.Machine

-- one proof at a time: these proofs share the equations of the operations they unfold
set_option Elab.async false

/-! ### Memory images -/

/-- A byte that an erase has covered reads erased. -/
theorem mget_eraseRange {m : Mem} {lo n a : Nat} (hlo : lo ≤ a) (hhi : a < lo + n) : mget flashByte (eraseRange m lo n) a = flashByte := by
  unfold eraseRange
  induction m with
  | nil => rfl
  | cons p m ih =>
    rw [List.filter_cons]
    by_cases hp : p.1 < lo ∨ lo + n ≤ p.1
    · rw [if_pos (by simpa using hp)]
      have hne : a ≠ p.1 := by omega
      simp only [mget, if_neg hne]
      split
      · rfl
      · exact ih
    · rw [if_neg (by simpa using hp)]
      exact ih

/-- Two contents of the flash agree in the banks, the active bank and the commit. -/
def FlashSt.sameImage (f g : FlashSt) : Prop :=
  g.bank0 = f.bank0 ∧ g.bank1 = f.bank1 ∧ g.active = f.active ∧ g.commit = f.commit

theorem sameImage_refl (f : FlashSt) : f.sameImage f := ⟨rfl, rfl, rfl, rfl⟩

theorem sameImage_trans {f g h : FlashSt} (hg : f.sameImage g) (hh : g.sameImage h) : f.sameImage h := by
  obtain ⟨g0, g1, ga, gc⟩ := hg
  obtain ⟨h0, h1, ha, hc⟩ := hh
  exact ⟨h0.trans g0, h1.trans g1, ha.trans ga, hc.trans gc⟩

theorem sameImage_of_eq {f g : FlashSt} (h : g = f) : f.sameImage g := h ▸ sameImage_refl f

theorem eraseBegins_sameImage (s : State) (k : Erase) : s.flash.sameImage (s.eraseBegins k).flash := by
  rw [eraseBegins_flash]
  exact ⟨rfl, rfl, rfl, rfl⟩

theorem programEntry_sameImage (s : State) : s.flash.sameImage s.programEntry.flash := by
  unfold State.programEntry
  split
  · exact sameImage_refl _
  · dsimp only
    split
    · rw [eraseBegins_flash]
      exact ⟨rfl, rfl, rfl, rfl⟩
    · exact ⟨rfl, rfl, rfl, rfl⟩

theorem parishProgrammed_sameImage (s : State) : s.flash.sameImage s.parishProgrammed.flash := by
  unfold State.parishProgrammed
  split
  · exact sameImage_refl _
  · rename_i w q _
    extract_lets l x s1 s2
    have hs2 : s.flash.sameImage s2.flash := by
      unfold s2
      split
      · exact eraseBegins_sameImage s1 _
      · exact sameImage_refl _
    split
    · exact sameImage_trans hs2 (sameImage_of_eq (respond_only _ _ _ _ .flash (by decide)))
    · exact hs2

theorem iter_sameImage {f : State → State} (h : ∀ s : State, s.flash.sameImage (f s).flash) (n : Nat) (s : State) :
    s.flash.sameImage (iter f n s).flash := by
  induction n generalizing s with
  | zero => exact sameImage_refl _
  | succ n ih => exact sameImage_trans (h s) (ih _)

theorem programWaiting_sameImage (s : State) : s.flash.sameImage s.programWaiting.flash :=
  sameImage_trans (iter_sameImage programEntry_sameImage _ s) (iter_sameImage parishProgrammed_sameImage _ _)

theorem programWaiting_of_empty {s : State} (hqueue : s.flash.queue = []) (hparish : s.safety.parishQ = []) : s.programWaiting = s := by
  have hall : s.programAll = s := by rw [State.programAll, hqueue]; rfl
  rw [State.programWaiting, hall, hparish]
  rfl

theorem bank_setBank_inactive (s : State) (m : Mem) :
    (s.setBank s.inactive m).bank s.inactive = m ∧ (s.setBank s.inactive m).bank s.flash.active = s.bank s.flash.active := by
  unfold State.setBank State.bank State.inactive
  rcases Nat.eq_zero_or_pos s.flash.active with h | h
  · simp [h]
  · have hactive : s.flash.active ≠ 0 := by omega
    have hinactive : 1 - s.flash.active = 0 := by omega
    simp [hactive, hinactive]

/-! ### Reads of words that hold -/

theorem readRun_of_unworn {s : State} (h : s.flash.wear = []) (r lo n : Nat) : s.readRun r lo n = (true, s) := by
  simp [State.readRun, State.wornIn, h]

theorem readImage_of_unworn {s : State} (h : s.flash.wear = []) (n : Nat) : s.readImage n = (true, s) := by
  simp [State.readImage, readRun_of_unworn h]

/-! ### ERASING -/

/-- The state in which the waiting pages are programmed between the sectors that are left. -/
def State.sectorsPrepared (s : State) : State :=
  if s.flash.commit.sectors + 1 < sectorsFor s.flash.commit.length then s.programWaiting else s

theorem sectorsPrepared_sameImage (s : State) : s.flash.sameImage s.sectorsPrepared.flash := by
  unfold State.sectorsPrepared
  split
  · exact programWaiting_sameImage s
  · exact sameImage_refl _

theorem sectorsPrepared_of_empty {s : State} (hqueue : s.flash.queue = []) (hparish : s.safety.parishQ = []) : s.sectorsPrepared = s := by
  unfold State.sectorsPrepared
  rw [programWaiting_of_empty hqueue hparish, ite_self]

/-- The bank of the commit, erased. -/
def State.bankErased (s : State) : State :=
  s.setBank s.inactive (eraseRange (s.bank s.inactive) 0 (65536 * sectorsFor s.flash.commit.length))

theorem setBank_only (s : State) (b : Nat) (m : Mem) : s.onlyChanges [.flash] (s.setBank b m) := only_ite (only_flash s _) (only_flash s _)

theorem setBank_commit (s : State) (b : Nat) (m : Mem) :
    (s.setBank b m).flash.commit = s.flash.commit ∧ (s.setBank b m).flash.active = s.flash.active := by
  unfold State.setBank
  split <;> exact ⟨rfl, rfl⟩

/-- LOADING begins where every sector of the bank is erased. -/
def State.loadingBegun (s : State) : State :=
  s.bankErased.commitErased.updCommit
    (fun c => { c with state := 2, sectors := sectorsFor s.flash.commit.length, lastPiece := s.bankErased.commitErased.wall })

theorem eraseDone_eq {s : State} (hopen : s.flash.commit.isOpen = true) (hstate : s.flash.commit.state = 1) :
    s.eraseDone = s.sectorsPrepared.loadingBegun.takeWaiting := by
  obtain ⟨-, -, -, hcommit⟩ := sectorsPrepared_sameImage s
  unfold State.eraseDone State.loadingBegun State.bankErased
  rw [if_neg (by simp [hopen, hstate]), hcommit]
  rfl

/-- Where no piece waits only the credits that frames left are owed. -/
theorem takeWaiting_of_none {s : State} (h : s.flash.commit.rx = []) : s.takeWaiting = s.oweWaiting := by
  rw [State.takeWaiting, h]
  rfl

theorem loadingBegun_only (s : State) : s.onlyChanges [.flash, .wdog] s.loadingBegun :=
  only_step (updCommit_only _ _) (only_step (commitErased_only _) (only_one (setBank_only s _ _)))

/-- LOADING in the flash: the commit's registers, and the bank that was erased. -/
theorem loadingBegun_flash (s : State) : ∃ l w, s.loadingBegun.flash = { s.bankErased.flash with
    erases := l
    commit := { s.bankErased.flash.commit with state := 2, sectors := sectorsFor s.flash.commit.length, lastPiece := w } } := by
  obtain ⟨l, hl⟩ := commitErased_flash s.bankErased
  refine ⟨l, s.bankErased.commitErased.wall, ?_⟩
  unfold State.loadingBegun State.updCommit
  dsimp only
  rw [hl]

theorem bank_of_flash {s t : State} (h0 : t.flash.bank0 = s.flash.bank0) (h1 : t.flash.bank1 = s.flash.bank1) (b : Nat) :
    t.bank b = s.bank b := by
  unfold State.bank
  rw [h0, h1]

/-- What the end of ERASING leaves where no piece waits. -/
theorem eraseDone_flash {s : State} (hopen : s.flash.commit.isOpen = true) (hstate : s.flash.commit.state = 1)
    (hrx : s.flash.commit.rx = []) :
    s.eraseDone.flash.commit.state = 2 ∧ s.eraseDone.flash.commit.isOpen = true ∧ s.eraseDone.flash.active = s.flash.active
      ∧ s.eraseDone.bank s.inactive = eraseRange (s.bank s.inactive) 0 (65536 * sectorsFor s.flash.commit.length)
      ∧ s.eraseDone.bank s.flash.active = s.bank s.flash.active := by
  obtain ⟨h0, h1, hactive, hcommit⟩ := sectorsPrepared_sameImage s
  have hinactive : s.sectorsPrepared.inactive = s.inactive := congrArg (1 - ·) hactive
  obtain ⟨l, w, hload⟩ := loadingBegun_flash s.sectorsPrepared
  have herased := bank_setBank_inactive s.sectorsPrepared
    (eraseRange (s.sectorsPrepared.bank s.sectorsPrepared.inactive) 0 (65536 * sectorsFor s.sectorsPrepared.flash.commit.length))
  have hkeep := setBank_commit s.sectorsPrepared s.sectorsPrepared.inactive
    (eraseRange (s.sectorsPrepared.bank s.sectorsPrepared.inactive) 0 (65536 * sectorsFor s.sectorsPrepared.flash.commit.length))
  change s.sectorsPrepared.bankErased.flash.commit = _ ∧ s.sectorsPrepared.bankErased.flash.active = _ at hkeep
  change s.sectorsPrepared.bankErased.bank _ = _ ∧ s.sectorsPrepared.bankErased.bank _ = _ at herased
  rw [hinactive, hactive, hcommit, bank_of_flash h0 h1, bank_of_flash h0 h1] at herased
  rw [hactive, hcommit] at hkeep
  have hwait : s.sectorsPrepared.loadingBegun.flash.commit.rx = [] := by
    rw [hload, hkeep.1]
    exact hrx
  rw [eraseDone_eq hopen hstate, takeWaiting_of_none hwait]
  have hflash := oweWaiting_flash s.sectorsPrepared.loadingBegun
  rw [hload] at hflash
  refine ⟨by rw [hflash], by rw [hflash, hkeep.1]; exact hopen, by rw [hflash]; exact hkeep.2, ?_, ?_⟩
  · rw [← herased.1]
    exact bank_of_flash (by rw [hflash]) (by rw [hflash]) _
  · rw [← herased.2]
    exact bank_of_flash (by rw [hflash]) (by rw [hflash]) _

theorem eraseDone_only {s : State} (hopen : s.flash.commit.isOpen = true) (hstate : s.flash.commit.state = 1)
    (hrx : s.flash.commit.rx = []) (hqueue : s.flash.queue = []) (hparish : s.safety.parishQ = []) :
    s.onlyChanges [.flash, .wdog, .ports] s.eraseDone := by
  obtain ⟨l, w, hload⟩ := loadingBegun_flash s
  have hwait : s.loadingBegun.flash.commit.rx = [] := by
    rw [hload, State.bankErased, (setBank_commit _ _ _).1]
    exact hrx
  rw [eraseDone_eq hopen hstate, sectorsPrepared_of_empty hqueue hparish, takeWaiting_of_none hwait]
  exact only_step (oweWaiting_only _) (only_one (loadingBegun_only s))

/-! ### VERIFYING and RECORDING -/

section
variable {s : State} (hopen : s.flash.commit.isOpen = true) (hstate : s.flash.commit.state = 3)
include hopen hstate

theorem verifyDone_of_unreadable {a : Nat} (hwear : s.flash.wear = [{ area := s.inactive, word := a, bad := true }]) (ha : a < 64) :
    s.verifyDone = (s.flashErr (s.areaOf s.inactive) .uncorrectable).endCommit 6 5 stCheckFail := by
  have hworn : s.wornIn s.inactive 0 256 = [{ area := s.inactive, word := a, bad := true }] := by
    simp [State.wornIn, hwear, show 4 * a < 256 by omega]
  have hread : s.readRun s.inactive 0 256 = (false, s.flashErr (s.areaOf s.inactive) .uncorrectable) := by
    simp [State.readRun, hworn]
  unfold State.verifyDone
  rw [if_neg (by simp [hopen, hstate]), hread]
  rfl

theorem verifyDone_of_unworn (hwear : s.flash.wear = []) : s.verifyDone =
    if headerOk s (s.bank s.inactive) = false then s.endCommit 6 2 stCheckFail
    else if crc32c (mread flashByte (s.bank s.inactive) 0 s.flash.commit.length) ≠ s.flash.commit.crc then s.endCommit 6 3 stCheckFail
    else if signatureOk s (s.bank s.inactive) = false then s.endCommit 6 4 stCheckFail
    else ({ s with flash := { s.flash with recA := none } }.updCommit (fun c => { c with state := 4, recA := false })).eraseBegins .recA := by
  unfold State.verifyDone
  rw [if_neg (by simp [hopen, hstate]), readRun_of_unworn hwear]
  dsimp only
  rw [readImage_of_unworn hwear]
  simp

theorem verifyDone_of_header (hwear : s.flash.wear = []) (hheader : headerOk s (s.bank s.inactive) = false) :
    s.verifyDone = s.endCommit 6 2 stCheckFail := by
  rw [verifyDone_of_unworn hopen hstate hwear, if_pos hheader]

theorem verifyDone_of_crc (hwear : s.flash.wear = []) (hheader : headerOk s (s.bank s.inactive) = true)
    (hcrc : crc32c (mread flashByte (s.bank s.inactive) 0 s.flash.commit.length) ≠ s.flash.commit.crc) :
    s.verifyDone = s.endCommit 6 3 stCheckFail := by
  rw [verifyDone_of_unworn hopen hstate hwear, if_neg (by rw [hheader]; decide), if_pos hcrc]

theorem verifyDone_of_signature (hwear : s.flash.wear = []) (hheader : headerOk s (s.bank s.inactive) = true)
    (hcrc : crc32c (mread flashByte (s.bank s.inactive) 0 s.flash.commit.length) = s.flash.commit.crc)
    (hsig : signatureOk s (s.bank s.inactive) = false) : s.verifyDone = s.endCommit 6 4 stCheckFail := by
  rw [verifyDone_of_unworn hopen hstate hwear, if_neg (by rw [hheader]; decide), if_neg (not_not_intro hcrc), if_pos hsig]

theorem verifyDone_of_intact (hwear : s.flash.wear = []) (hheader : headerOk s (s.bank s.inactive) = true)
    (hcrc : crc32c (mread flashByte (s.bank s.inactive) 0 s.flash.commit.length) = s.flash.commit.crc)
    (hsig : signatureOk s (s.bank s.inactive) = true) : s.verifyDone =
      ({ s with flash := { s.flash with recA := none } }.updCommit (fun c => { c with state := 4, recA := false })).eraseBegins .recA := by
  rw [verifyDone_of_unworn hopen hstate hwear, if_neg (by rw [hheader]; decide), if_neg (not_not_intro hcrc), if_neg (by rw [hsig]; decide)]

end

/-- An uncorrectable word is counted and raises its source; the commit and the records stay. -/
theorem flashErr_flash (s : State) (k : Nat) : (s.flashErr k .uncorrectable).flash = { s.flash with eccUncorr := sat 0xFFFF (s.flash.eccUncorr + 1) } :=
  raise_only _ _ _ .flash (by decide)

/-- The registers of a commit that has ended with its records as they were. -/
def FlashSt.failed (f g : FlashSt) (state reason : Nat) : Prop :=
  g.commit.state = state ∧ g.commit.reason = reason ∧ g.commit.isOpen = false ∧ g.recA = f.recA ∧ g.recB = f.recB

theorem failed_of_ledgered {f g : FlashSt} {st r : Nat} (h : (f.ended st r).ledgered g) : f.failed g st r := by
  obtain ⟨q, n, l, rfl⟩ := h
  exact ⟨rfl, rfl, rfl, rfl, rfl⟩

/-- A commit ended in VERIFYING or LOADING fails with its records as they were. -/
theorem endCommit_failed {s : State} (htag : s.flash.commit.tag = none) (hrx : s.flash.commit.rx = []) (hstate : s.flash.commit.state ≠ 4)
    (st r status : Nat) : s.flash.failed (s.endCommit st r status).flash st r :=
  failed_of_ledgered (endCommit_flash_of_kept htag hrx (.inr (.inl hstate)) r status)

/-- RECORDING with both records written. -/
def State.recordsWritten (s : State) : State :=
  { s with
    flash.recA := some (if s.flash.commit.recA then s.flash.recA.getD s.nextRec else s.nextRec)
    flash.recB := some (if s.flash.commit.recA then s.flash.recA.getD s.nextRec else s.nextRec)
    bist.cur := { s.bist.cur with cuts := 0 }.sealed }

theorem recordsWritten_only (s : State) : s.onlyChanges [.flash, .bist] s.recordsWritten := fun p hp => by
  cases p <;> first | rfl | exact absurd (by decide) hp

theorem recordDone_eq {s : State} (hopen : s.flash.commit.isOpen = true) (hstate : s.flash.commit.state = 4) :
    s.recordDone = s.recordsWritten.commitErased.endCommit 5 0 stOk := by
  rw [State.recordDone, if_neg (by simp [hopen, hstate])]
  rfl

theorem runCoreL_next {f : State → State} {s : State} (h : s.coreRuns = true) :
    runCoreL f s = .next { (f s.begin).flush with pending := s.pending } := runCoreL_of_runs h

theorem regOp_next {f : State → Nat × State} {s : State} (hr : s.reachable = true) (hm : s.mode.mode ≠ .lockout) :
    runL (regOp f) s = .next { ((f s.begin).2.answer (f s.begin).1).flush with pending := s.pending } := by
  have hreach : s.begin.reachable = true := hr
  have hmode : s.begin.mode.mode ≠ .lockout := hm
  unfold runL run
  simp only [regOp, regAny, if_pos hreach, if_neg hmode]

/-- The parts that the end of a commit may change where no halt is held back. -/
theorem endCommit_answer_only {s : State} (htag : s.flash.commit.tag = none) (hrx : s.flash.commit.rx = [])
    (hhalt : s.mode.haltHeld = false) (st r status : Nat) :
    s.onlyChanges [.reply, .out, .flash, .wdog, .mode, .host, .ports, .glean, .expo]
      { (s.begin.endCommit st r status).flush with pending := s.pending } :=
  nextL_only (only_one (endCommit_only (s := s.begin) htag hrx hhalt st r status))

theorem verifyDone_answer {s t : State} (hcore : s.coreRuns = true) (h : s.begin.verifyDone = t) :
    exec .commitVerifyDone s = .next { t.flush with pending := s.pending } := by
  rw [← h]
  exact runCoreL_next hcore

theorem recordsWritten_commit (s : State) :
    s.recordsWritten.commitErased.flash.commit = s.flash.commit
      ∧ s.recordsWritten.commitErased.flash.recA = s.recordsWritten.commitErased.flash.recB
      ∧ s.recordsWritten.commitErased.flash.recA ≠ none ∧ s.recordsWritten.commitErased.flash.active = s.flash.active := by
  obtain ⟨l, hl⟩ := commitErased_flash s.recordsWritten
  rw [hl]
  exact ⟨rfl, rfl, Option.some_ne_none _, rfl⟩

theorem recordDone_answer {s : State} (hopen : s.flash.commit.isOpen = true) (htag : s.flash.commit.tag = none)
    (hrx : s.flash.commit.rx = []) (hstate : s.flash.commit.state = 4) :
    (s.recordDone.flash.commit.state = 5 ∧ s.recordDone.flash.commit.reason = 0 ∧ s.recordDone.flash.commit.isOpen = false
      ∧ s.recordDone.flash.recA = s.recordDone.flash.recB ∧ s.recordDone.flash.recA ≠ none
      ∧ s.recordDone.flash.active = s.flash.active ∧ s.recordDone.bist.cur.cuts = 0)
    ∧ (s.mode.haltHeld = false → s.onlyChanges [.out, .reply, .flash, .wdog, .mode, .host, .ports, .bist] s.recordDone) := by
  obtain ⟨hcommit, hpair, hsome, hactive⟩ := recordsWritten_commit s
  have hbefore : s.onlyChanges [.flash, .bist, .wdog] s.recordsWritten.commitErased :=
    only_step (commitErased_only _) (only_one (recordsWritten_only s))
  have htag' : s.recordsWritten.commitErased.flash.commit.tag = none := hcommit ▸ htag
  have hrx' : s.recordsWritten.commitErased.flash.commit.rx = [] := hcommit ▸ hrx
  rw [recordDone_eq hopen hstate]
  refine ⟨?_, fun hhalt => ?_⟩
  · have hbist : (s.recordsWritten.commitErased.endCommit 5 0 stOk).bist = s.recordsWritten.bist :=
      (endCommit_only_any htag' hrx' 5 0 stOk .bist (by decide)).trans (commitErased_only _ .bist (by decide))
    obtain ⟨q, n, l, hflash⟩ := endCommit_flash_of_kept htag' hrx' (.inl rfl) 0 stOk
    rw [hflash, hbist]
    exact ⟨rfl, rfl, rfl, hpair, hsome, hactive, rfl⟩
  · exact only_step (endCommit_only htag' hrx' (by rw [hbefore .mode (by decide)]; exact hhalt) 5 0 stOk) (only_one hbefore)

theorem sectorsFor_eq (n : Nat) : sectorsFor n = (n + 65535) / 65536 := by
  rw [sectorsFor, ceilDiv, Nat.add_sub_assoc (by decide)]

/-- A verification that ends in FAILED. -/
theorem verifyFailed {s : State} {r : Nat} (hcore : s.coreRuns = true) (htag : s.flash.commit.tag = none) (hrx : s.flash.commit.rx = [])
    (hstate : s.flash.commit.state = 3) (h : s.begin.verifyDone = s.begin.endCommit 6 r stCheckFail) :
    ∃ t, exec .commitVerifyDone s = .next t ∧ t.flash.commit.state = 6 ∧ t.flash.commit.reason = r ∧ t.flash.commit.isOpen = false
      ∧ t.flash.recA = s.flash.recA ∧ t.flash.recB = s.flash.recB := by
  have hne : s.begin.flash.commit.state ≠ 4 := fun h4 => absurd (hstate.symm.trans h4) (by decide)
  refine ⟨_, verifyDone_answer hcore h, ?_⟩
  rw [flush_flash]
  exact endCommit_failed (s := s.begin) htag hrx hne 6 r stCheckFail

/-- A verification that finds the image intact. -/
theorem verifyRecording {s : State} (hcore : s.coreRuns = true) (hopen : s.flash.commit.isOpen = true) (hstate : s.flash.commit.state = 3)
    (hwear : s.flash.wear = []) (hheader : headerOk s (s.bank s.inactive) = true)
    (hcrc : crc32c (mread flashByte (s.bank s.inactive) 0 s.flash.commit.length) = s.flash.commit.crc)
    (hsig : signatureOk s (s.bank s.inactive) = true) (herases : s.flash.erases = []) :
    ∃ t, exec .commitVerifyDone s = .next t ∧ t.flash.commit = { s.flash.commit with state := 4, recA := false }
      ∧ t.flash.recA = none ∧ t.flash.recB = s.flash.recB ∧ t.wdog = { s.wdog with erasing := some s.clk.wall }
      ∧ s.onlyChanges [.reply, .out, .flash, .wdog, .ports, .host, .glean, .expo] t := by
  have heq := verifyDone_of_intact (s := s.begin) hopen hstate hwear hheader hcrc hsig
  rw [State.eraseBegins, if_pos (by simp [State.updCommit, State.begin, herases])] at heq
  refine ⟨_, verifyDone_answer hcore heq, ?_, ?_, ?_, ?_, ?_⟩
  · rw [flush_flash]
    rfl
  · rw [flush_flash]
    rfl
  · rw [flush_flash]
    rfl
  · rw [flush_wdog]
    rfl
  · exact nextL_only (only_step (eraseStarts_only _) (only_step (only_flash _ _) (only_step (updCommit_only _ _) (only_one (only_flash _ _)))))

/-- ABANDON of an open commit. -/
theorem commitAbandoned {s : State} (hopen : s.flash.commit.isOpen = true) (htag : s.flash.commit.tag = none)
    (hrx : s.flash.commit.rx = []) (hreach : s.reachable = true) (hmode : s.mode.mode ≠ .lockout) :
    ∃ t, exec .flashAbandon s = .next t ∧ t.flash.commit.state = 8 ∧ t.flash.commit.reason = 7 ∧ t.flash.commit.isOpen = false
      ∧ (s.flash.commit.state ≠ 4 ∨ s.flash.commit.recA = false → t.flash.recA = s.flash.recA ∧ t.flash.recB = s.flash.recB)
      ∧ (s.flash.commit.state = 4 → s.flash.commit.recA = true →
          t.flash.recA = t.flash.recB ∧ t.flash.recA.map CommitRec.active = some s.flash.active)
      ∧ (s.mode.haltHeld = false → s.onlyChanges [.reply, .out, .flash, .wdog, .mode, .host, .ports, .glean, .expo] t) := by
  have hexec : exec .flashAbandon s = .next { ((s.begin.endCommit 8 7 stAborted).answer stOk).flush with pending := s.pending } := by
    refine (regOp_next hreach hmode).trans ?_
    rw [abandonCommit, if_pos (by exact hopen)]
  have hflash : (((s.begin.endCommit 8 7 stAborted).answer stOk).flush).flash = (s.begin.endCommit 8 7 stAborted).flash := flush_flash _
  have hregs : (s.begin.endCommit 8 7 stAborted).flash.commit.state = 8 ∧ (s.begin.endCommit 8 7 stAborted).flash.commit.reason = 7
      ∧ (s.begin.endCommit 8 7 stAborted).flash.commit.isOpen = false := by
    by_cases hkeep : s.flash.commit.state ≠ 4 ∨ s.flash.commit.recA = false
    · obtain ⟨q, n, l, h⟩ := endCommit_flash_of_kept (s := s.begin) htag hrx (.inr hkeep) 7 stAborted (st := 8)
      rw [h]
      exact ⟨rfl, rfl, rfl⟩
    · simp only [not_or, not_not, Bool.not_eq_false] at hkeep
      obtain ⟨p, e, -, q, n, l, h⟩ := endCommit_flash_of_rewritten (s := s.begin) htag hrx (by decide : 8 ≠ 5) hkeep.1 hkeep.2 7 stAborted
      rw [h]
      exact ⟨rfl, rfl, rfl⟩
  obtain ⟨hst, hreason, hop⟩ := hregs
  refine ⟨_, hexec, ?_, ?_, ?_, fun hkeep => ?_, fun hstate hrec => ?_, fun hhalt => ?_⟩
  · rw [hflash, hst]
  · rw [hflash, hreason]
  · rw [hflash, hop]
  · obtain ⟨q, n, l, h⟩ := endCommit_flash_of_kept (s := s.begin) htag hrx (.inr hkeep) 7 stAborted (st := 8)
    rw [hflash, h]
    exact ⟨rfl, rfl⟩
  · obtain ⟨p, e, hp, q, n, l, h⟩ := endCommit_flash_of_rewritten (s := s.begin) htag hrx (by decide : 8 ≠ 5) hstate hrec 7 stAborted
    rw [hflash, h]
    exact ⟨rfl, congrArg some hp⟩
  · exact nextL_only (only_step (answer_only _ _ _ _ _) (only_one (endCommit_only (s := s.begin) htag hrx hhalt 8 7 stAborted)))

/-- The commit whose report is due, with its timer restarted. -/
def State.reportRestarted (s : State) (g : Nat) : State :=
  (s.updCommit (fun c => { c with lastPending := s.wall })).updHarvest g (fun h => { h with kids := h.kids.map (fun (k : Contributor) =>
    if k.port.isNone && !k.settled then { k with since := s.wall } else k) })

theorem reportRestarted_only (s : State) (g : Nat) : s.onlyChanges [.flash, .glean] (s.reportRestarted g) :=
  only_step (updHarvest_only _ _ _) (only_one (updCommit_only s _))

theorem commitPending_eq {s : State} {g : Nat} (hopen : s.flash.commit.isOpen = true) (htag : s.flash.commit.tag = some g)
    (hdue : s.flash.commit.tResp * ttMs / 4 ≤ s.clk.wall - s.flash.commit.lastPending) :
    s.commitPending = (s.reportRestarted g).sendPending g 0 := by
  unfold State.commitPending
  extract_lets c
  rw [show c.tag = some g from htag]
  exact if_pos (by simp [c, hopen, State.since, hdue])

theorem sendPending_only (s : State) (g d : Nat) : s.onlyChanges [.ports] (s.sendPending g d) := sendTo_only s _

/-- The report of a commit that a transaction waits for. -/
theorem commitReported {s : State} {g q : Nat} (hcore : s.coreRuns = true) (hopen : s.flash.commit.isOpen = true)
    (htag : s.flash.commit.tag = some g) (hdue : s.flash.commit.tResp * ttMs / 4 ≤ s.clk.wall - s.flash.commit.lastPending) :
    ∃ t, exec .commitPendingTimer s = .next t
      ∧ t.flash = { s.flash with commit := { s.flash.commit with lastPending := s.clk.wall } }
      ∧ (s.route 0 = .out q → s.trains q = true → (t.port q).txq.control = (s.port q).txq.control
          ++ [{ frame := { typ := 6, cls := 1, hasScope := false, dest := 0, src := s.tree.pos, depth := 0, tag := g, payload := [] }
                src := none }])
      ∧ s.onlyChanges [.reply, .out, .flash, .ports, .glean, .host, .expo] t := by
  have hexec := runCoreL_next (f := State.commitPending) hcore
  rw [commitPending_eq (s := s.begin) hopen htag hdue] at hexec
  refine ⟨_, hexec, ?_, fun hroute htrains => ?_, nextL_only (only_step (sendPending_only _ _ _) (only_one (reportRestarted_only _ _)))⟩
  · rw [flush_flash]
    exact sendPending_only _ _ _ .flash (by decide)
  · rw [port_pending]
    rw [sendPending_control (s := s.begin.reportRestarted g) hroute htrains]
    rfl

/-- Settles O15: each end of a commit through what endCommit leaves in the flash, and the report through the frame that it sends. -/
theorem commitPhasesAndReports : Obligations.CommitPhasesAndReports := by
  refine ⟨fun s a hcore hopen htag hrx => ⟨fun hstate _ ha => ?_, fun hstate hwear hheader => ⟨fun hcrc => ?_, fun hcrc hsig => ?_⟩,
    fun hstate hwear ha => ?_, fun hstate hwear hheader => ?_, fun hstate hwear hheader hcrc hsig herases => ?_, fun hstate => ?_,
    fun hstate hidle => ?_, fun hreach hmode => ?_⟩, fun s g q hcore hopen htag hdue => ?_⟩
  · obtain ⟨hst, hop, -, herased, hactive⟩ := eraseDone_flash (s := s.begin) hopen hstate hrx
    refine ⟨_, runCoreL_next hcore, ?_, ?_, ?_, ?_, fun hqueue hparish => nextL_only (only_one (eraseDone_only (s := s.begin) hopen hstate hrx hqueue hparish))⟩
    · rw [flush_flash, hst]
    · rw [flush_flash, hop]
    · have hbank : ({ s.begin.eraseDone.flush with pending := s.pending } : State).bank s.inactive = s.begin.eraseDone.bank s.inactive :=
        bank_of_flash (by rw [flush_flash]) (by rw [flush_flash]) _
      rw [hbank]
      refine (congrArg (mget flashByte · a) herased).trans (mget_eraseRange (Nat.zero_le a) ?_)
      rw [Nat.zero_add, sectorsFor_eq]
      exact ha
    · refine (bank_of_flash (s := s.begin.eraseDone) ?_ ?_ _).trans hactive
      · rw [flush_flash]
      · rw [flush_flash]
  · exact verifyFailed hcore htag hrx hstate (verifyDone_of_crc (s := s.begin) hopen hstate hwear hheader hcrc)
  · exact verifyFailed hcore htag hrx hstate (verifyDone_of_signature (s := s.begin) hopen hstate hwear hheader hcrc hsig)
  · have hend := verifyDone_of_unreadable (s := s.begin) hopen hstate hwear ha
    have hflash := flashErr_flash s.begin (s.begin.areaOf s.begin.inactive)
    refine ⟨_, verifyDone_answer hcore hend, ?_⟩
    rw [flush_flash]
    obtain ⟨hst, hreason, hop, hrecA, hrecB⟩ := endCommit_failed (s := s.begin.flashErr (s.begin.areaOf s.begin.inactive) .uncorrectable)
      (by rw [hflash]; exact htag) (by rw [hflash]; exact hrx) (by rw [hflash]; exact fun h => by rw [show s.begin.flash.commit.state = 3 from hstate] at h; cases h) 6 5 stCheckFail
    rw [hflash] at hrecA hrecB
    exact ⟨hst, hreason, hop, hrecA, hrecB⟩
  · have heq := verifyDone_of_header (s := s.begin) hopen hstate hwear hheader
    have hne : s.begin.flash.commit.state ≠ 4 := fun h4 => absurd (hstate.symm.trans h4) (by decide)
    obtain ⟨hst, hreason, hop, hrecA, hrecB⟩ := endCommit_failed (s := s.begin) htag hrx hne 6 2 stCheckFail
    refine ⟨_, verifyDone_answer hcore heq, ?_, ?_, ?_, ?_, ?_, fun hhalt => endCommit_answer_only htag hrx hhalt 6 2 stCheckFail⟩
    all_goals rw [flush_flash]
    exacts [hst, hreason, hop, hrecA, hrecB]
  · exact verifyRecording hcore hopen hstate hwear hheader hcrc hsig herases
  · obtain ⟨⟨hst, hreason, hop, hpair, hsome, hactive, hcuts⟩, honly⟩ := recordDone_answer (s := s.begin) hopen htag hrx hstate
    refine ⟨_, runCoreL_next hcore, ?_, ?_, ?_, ?_, ?_, ?_, ?_, fun hhalt => nextL_only (only_one (honly hhalt))⟩
    case refine_7 => rw [flush_bist, hcuts]
    all_goals rw [flush_flash]
    exacts [hst, hreason, hop, hpair, hsome, hactive]
  · have hne : s.begin.flash.commit.state ≠ 4 := fun h4 => absurd (hstate.symm.trans h4) (by decide)
    obtain ⟨hst, hreason, hop, hrecA, hrecB⟩ := endCommit_failed (s := s.begin) htag hrx hne 8 6 stTimeout
    have hdue : s.begin.flash.commit.isOpen && s.begin.flash.commit.state = 2
        && decide (s.begin.flash.loadIdle * ttS ≤ s.begin.since s.begin.flash.commit.lastPiece) := by
      simp [State.begin, hopen, hstate, State.since, hidle]
    have hexec : exec .loadIdleTimeout s = .next { (s.begin.endCommit 8 6 stTimeout).flush with pending := s.pending } := by
      refine (runCoreL_next hcore).trans ?_
      rw [if_pos hdue]
    refine ⟨_, hexec, ?_, ?_, ?_, ?_, ?_, fun hhalt => endCommit_answer_only htag hrx hhalt 8 6 stTimeout⟩
    all_goals rw [flush_flash]
    exacts [hst, hreason, hop, hrecA, hrecB]
  · exact commitAbandoned hopen htag hrx hreach hmode
  · exact commitReported hcore hopen htag hdue

end Sys2Proof.Machine
end

section
/-!
COMMIT_LOADED reads the image (16 R408, R424): a word of it that cannot be corrected raises FLT_FLASH_ECC.
-/
namespace Sys2Proof.Machine

-- one proof at a time: these proofs share the equations of the operations they unfold
set_option Elab.async false

/-- A device in QUIET whose inactive bank has a worn word that cannot be corrected. -/
def wornUnit : State := { State.reset with
  mode.mode := .quiet, clk.treeOn := true, flash.wear := [{ area := 1 - State.reset.flash.active, word := 0, bad := true }] }

theorem wornUnit_raises : (stateAfter .commitLoaded wornUnit).fault.evq.length = wornUnit.fault.evq.length + 1 := by
  decide +kernel

/-- Refutes O16: COMMIT_LOADED of `wornUnit` raises a fault, which the frame of its clause leaves alone. -/
theorem not_configurationShadowAndQueuedEntries : ¬ Obligations.ConfigurationShadowAndQueuedEntries := by
  rintro ⟨h, -⟩
  obtain ⟨-, -, -, -, hloaded⟩ := h wornUnit 0 (by decide) (by decide)
  obtain ⟨t, hexec, -, -, -, -, honly⟩ := hloaded (by decide) (by decide)
  have hfault : t.fault = wornUnit.fault := honly .fault (by decide)
  have hlen := wornUnit_raises
  rw [stateAfter_of_next hexec, hfault] at hlen
  exact Nat.succ_ne_self _ hlen.symm

end Sys2Proof.Machine
end

section
/-!
The operations of the debug port that read or write one word or sector (16 R421–R424): what the port's frame around each adds, and what each
finds and leaves.
-/
namespace Sys2Proof.Machine

-- one proof at a time: these proofs share the equations of the operations they unfold
set_option Elab.async false

/-! ### The port's frame -/

/-- A ledger entry changes the queue of entries alone. -/
theorem ledger_eq (s : State) (c i d : Nat) :
    ∃ q n l, s.ledger c i d = { s with flash := { s.flash with queue := q, nextSeq := n, lost := l } } := by
  unfold State.ledger State.ledgerAt
  dsimp only
  split
  · exact ⟨_, _, s.flash.lost, rfl⟩
  · exact ⟨s.flash.queue, _, _, rfl⟩

/-- The state with the port attached and some ledger entries queued. -/
def State.attachedAs (s : State) (b : Bool) (q : List LedgerEntry) (n l : Nat) : State :=
  { s with dbg := { s.dbg with attached := b }, flash := { s.flash with queue := q, nextSeq := n, lost := l } }

theorem dbgAttach_eq (s : State) : ∃ b q n l, s.dbgAttach = s.attachedAs b q n l := by
  unfold State.dbgAttach
  split
  · exact ⟨s.dbg.attached, s.flash.queue, s.flash.nextSeq, s.flash.lost, rfl⟩
  · obtain ⟨q, n, l, h⟩ := ledger_eq { s with dbg := { s.dbg with attached := true } } 0x16 1 0
    exact ⟨true, q, n, l, h⟩

theorem attachedAs_only (s : State) (b : Bool) (q : List LedgerEntry) (n l : Nat) : s.onlyChanges [.dbg, .flash] (s.attachedAs b q n l) :=
  fun p hp => by cases p <;> first | rfl | exact absurd (by decide) hp

theorem dioSilent_of_open {s : State} (hlock : s.ident.debugLock = false) (hmode : s.mode.mode ∉ [.ship, .keep, .dormant]) :
    s.dioSilent = false := by
  simp only [State.dioSilent, State.inMode, hlock, Bool.false_or, List.contains_eq_mem, decide_eq_false_iff_not]
  exact hmode

/-- The answer to an operation that is done. -/
def State.dioDone (t : State) (ws : List Nat) : State := (t.answer stOk (ws.headD 0) ws).emit (.dio (dioBits 1 ws.head?))

/-- An operation with the right CHK that the function takes. -/
theorem dbgOp_done {op addr : Nat} {data : Option Nat} {f : State → Nat × List Nat × State} {s t : State} {ws : List Nat}
    (hopen : s.dioSilent = false) (hbist : s.mode.mode = .bist → op = 0xF) (hf : f s.dbgAttach = (stOk, ws, t)) :
    dbgOp op addr data (dbgChk op addr data) f s = t.dioDone ws := by
  have hid : ¬ ((s.mode.mode = .bist && !decide (op = 0xF)) = true) := by
    simp only [Bool.and_eq_true, decide_eq_true_eq, Bool.not_eq_true', decide_eq_false_iff_not, not_and, not_not]
    exact hbist
  rw [dbgOp, hopen, if_neg Bool.false_ne_true, if_neg (by simp), dbgAct, if_neg hid, hf]
  rfl

theorem dioDone_only (t : State) (ws : List Nat) : t.onlyChanges [.reply, .out] (t.dioDone ws) :=
  only_step (emit_only _ _) (only_one (answer_only t _ _ _ _))

/-- A register write through the port that is taken. -/
theorem dbgDo_done {f : State → Nat × State} {s t : State} (hopen : s.dioSilent = false) (hbist : s.mode.mode ≠ .bist)
    (hf : f s.dbgAttach = (stOk, t)) : dbgDo f s = t.dioDone [] := by
  have hid : ¬ ((s.mode.mode = .bist && !false) = true) := by simpa using hbist
  rw [dbgDo, hopen, if_neg Bool.false_ne_true, dbgAct, if_neg hid]
  simp only [hf]
  rfl

/-- An address of the code banks. -/
theorem flashAt_bank {addr : Nat} (h : addr < 0x200000) : flashAt addr = some (addr / 2 ^ 20, addr % 2 ^ 20) := by
  have hregion : fld addr 21 20 = addr / 2 ^ 20 := by
    rw [fld, Nat.shiftRight_eq_div_pow]
    exact Nat.mod_eq_of_lt (by omega)
  unfold flashAt
  dsimp only
  rw [hregion, if_neg (by omega)]

/-- A word of a code bank none of whose words is worn is read as it stands. -/
theorem flashRead_of_unworn {s : State} {addr : Nat} (hwear : s.flash.wear = []) (haddr : addr < 0x200000) (halign : addr % 4 = 0) :
    flashRead addr s = (stOk, [ofLe (mread flashByte (s.bank (addr / 2 ^ 20)) (addr % 2 ^ 20) 4)], s) := by
  have hword : ¬ ((addr % 2 ^ 20 % 4 != 0) = true) := by simp; omega
  have hbank : ¬ addr / 2 ^ 20 = 2 := by omega
  unfold flashRead
  rw [flashAt_bank haddr]
  dsimp only
  rw [if_neg hword, if_neg hbank, State.readWord, readRun_of_unworn hwear]
  rfl

section
variable {s : State} (hlock : s.ident.debugLock = false)
include hlock

/-- IDCODE. -/
theorem idcode_done (hmode : s.mode.mode ∉ [.ship, .keep, .dormant]) (addr : Nat) :
    ∃ t, exec (.idcode ⟨addr, dbgChk 15 addr none⟩) s = .next { t.dioDone [0x4800 + put s.ident.silicon 16 8 + put 1 24 8] with pending := s.pending }
      ∧ s.begin.onlyChanges [.dbg, .flash] t ∧ t.out = [] := by
  obtain ⟨b, q, n, l, ha⟩ := dbgAttach_eq s.begin
  refine ⟨s.begin.attachedAs b q n l, ?_, attachedAs_only _ _ _ _ _, rfl⟩
  exact run_next_eq (dbgOp_done (dioSilent_of_open hlock hmode) (fun _ => rfl) (by rw [ha]; rfl))

variable (hmode : s.mode.mode ∉ [.ship, .keep, .dormant, .bist])
include hmode

theorem open_of_modes : s.dioSilent = false ∧ s.mode.mode ≠ .bist := by
  simp only [List.mem_cons, not_or] at hmode
  obtain ⟨hship, hkeep, hdormant, hbist, -⟩ := hmode
  exact ⟨dioSilent_of_open hlock (by simp [hship, hkeep, hdormant]), hbist⟩

/-- An operation of the port whose function is taken in the state with the port attached. -/
theorem portOp_done {op addr : Nat} {data : Option Nat} {f : State → Nat × List Nat × State} {ws : List Nat} {t : State}
    (hf : f s.begin.dbgAttach = (stOk, ws, t)) :
    run (dbgOp op addr data (dbgChk op addr data) f) s = .next { t.dioDone ws with pending := s.pending } := by
  obtain ⟨hopen, hbist⟩ := open_of_modes hlock hmode
  exact run_next_eq (dbgOp_done (s := s.begin) hopen (fun h => absurd h hbist) hf)

/-- A word of a code bank none of whose words is worn. -/
theorem flashRead_bank {addr : Nat} (hwear : s.flash.wear = []) (haddr : addr < 0x200000) (halign : addr % 4 = 0) :
    ∃ t, exec (.flashRead addr (dbgChk 5 addr none)) s =
        .next { t.dioDone [ofLe (mread flashByte (s.bank (addr / 2 ^ 20)) (addr % 2 ^ 20) 4)] with pending := s.pending }
      ∧ s.begin.onlyChanges [.dbg, .flash] t := by
  obtain ⟨b, q, n, l, ha⟩ := dbgAttach_eq s.begin
  refine ⟨s.begin.attachedAs b q n l, portOp_done hlock hmode ?_, attachedAs_only _ _ _ _ _⟩
  rw [ha]
  exact flashRead_of_unworn hwear haddr halign

/-- A granary word that the port wrote. -/
theorem granaryRead_written {addr : Nat} {x y z w : Byte} (haddr : addr < 0x400000) (halign : addr % 4 = 0)
    (h0 : gget s.granary addr = some x) (h1 : gget s.granary (addr + 1) = some y) (h2 : gget s.granary (addr + 2) = some z)
    (h3 : gget s.granary (addr + 3) = some w) :
    ∃ t, exec (.granaryRead addr (dbgChk 3 addr none)) s = .next { t.dioDone [ofLe [x, y, z, w]] with pending := s.pending }
      ∧ s.begin.onlyChanges [.dbg, .flash] t ∧ t.out = [] := by
  obtain ⟨b, q, n, l, ha⟩ := dbgAttach_eq s.begin
  refine ⟨s.begin.attachedAs b q n l, portOp_done hlock hmode ?_, attachedAs_only _ _ _ _ _, rfl⟩
  have hbyte (k : Nat) (v : Byte) (h : gget s.granary k = some v) : (s.begin.attachedAs b q n l).granaryByte k = some v := by
    rw [State.granaryByte, show gget (s.begin.attachedAs b q n l).granary k = some v from h]
    rfl
  rw [ha, granaryRead, if_neg (by simp [granaryAddr, haddr, halign]), hbyte _ _ h0, hbyte _ _ h1, hbyte _ _ h2, hbyte _ _ h3]

/-- A granary word of a bank in use that the port did not write: a free value. -/
theorem granaryRead_free {addr : Nat} (haddr : addr < 0x400000) (halign : addr % 4 = 0) (h0 : gget s.granary addr = none)
    (hused : s.bankUsed (addr / 0x10000) = true) :
    ∃ t, exec (.granaryRead addr (dbgChk 3 addr none)) s =
        .next { t.dioDone [(Config.freeWord s.free).toNat] with pending := s.pending }
      ∧ s.begin.onlyChanges [.dbg, .flash, .free] t ∧ t.free = s.free + 1 := by
  obtain ⟨b, q, n, l, ha⟩ := dbgAttach_eq s.begin
  refine ⟨(s.begin.attachedAs b q n l).took, portOp_done hlock hmode ?_, only_step (took_only _) (only_one (attachedAs_only _ _ _ _ _)), rfl⟩
  have hused' : (s.begin.attachedAs b q n l).bankUsed (addr / 0x10000) = true := hused
  have hbyte : (s.begin.attachedAs b q n l).granaryByte addr = none := by
    rw [State.granaryByte, show gget (s.begin.attachedAs b q n l).granary addr = none from h0, hused']
    rfl
  rw [ha, granaryRead, if_neg (by simp [granaryAddr, haddr, halign]), hbyte]
  rfl

/-- A granary word of a bank not used since it was cleared. -/
theorem granaryRead_clear {addr : Nat} (haddr : addr < 0x400000) (halign : addr % 4 = 0) (hused : s.bankUsed (addr / 0x10000) = false)
    (h0 : gget s.granary addr = none) (h1 : gget s.granary (addr + 1) = none) (h2 : gget s.granary (addr + 2) = none)
    (h3 : gget s.granary (addr + 3) = none) :
    ∃ t, exec (.granaryRead addr (dbgChk 3 addr none)) s = .next { t.dioDone [0] with pending := s.pending }
      ∧ s.begin.onlyChanges [.dbg, .flash] t := by
  obtain ⟨b, q, n, l, ha⟩ := dbgAttach_eq s.begin
  refine ⟨s.begin.attachedAs b q n l, portOp_done hlock hmode ?_, attachedAs_only _ _ _ _ _⟩
  have hbyte (k : Nat) (hk : k < 4) (h : gget s.granary (addr + k) = none) : (s.begin.attachedAs b q n l).granaryByte (addr + k) = some 0 := by
    have hbank : (addr + k) / 0x10000 = addr / 0x10000 := by omega
    have hused' : (s.begin.attachedAs b q n l).bankUsed ((addr + k) / 0x10000) = false := hbank ▸ hused
    rw [State.granaryByte, show gget (s.begin.attachedAs b q n l).granary (addr + k) = none from h, hused']
    rfl
  rw [ha, granaryRead, if_neg (by simp [granaryAddr, haddr, halign]), ← Nat.add_zero addr, hbyte 0 (by decide) h0]
  simp only [Nat.add_zero]
  rw [hbyte 1 (by decide) h1, hbyte 2 (by decide) h2, hbyte 3 (by decide) h3]
  rfl

/-- A granary word written through the port. -/
theorem granaryWrite_done {addr : Nat} (v : Nat) (haddr : addr < 0x400000) (halign : addr % 4 = 0) :
    ∃ t, exec (.granaryWrite addr v (dbgChk 4 addr (some v))) s = .next { t.dioDone [] with pending := s.pending }
      ∧ s.begin.onlyChanges [.dbg, .flash, .granary] t ∧ t.granary = gwrite s.granary addr (le 4 v) := by
  obtain ⟨b, q, n, l, ha⟩ := dbgAttach_eq s.begin
  refine ⟨{ s.begin.attachedAs b q n l with granary := gwrite s.granary addr (le 4 v) }, portOp_done hlock hmode ?_,
    only_step (only_granary _ _) (only_one (attachedAs_only _ _ _ _ _)), rfl⟩
  rw [ha, granaryWrite, if_neg (by simp [granaryAddr, haddr, halign])]
  rfl

/-- A fuse blown. -/
theorem fuse_done (addr : Nat) {v : Nat} (hv : v < 2) :
    ∃ t, exec (.fuse (0x46550000 + v) ⟨addr, dbgChk 8 addr (some (0x46550000 + v))⟩) s = .next { t.dioDone [] with pending := s.pending }
      ∧ s.begin.onlyChanges [.dbg, .flash, .ident] t
      ∧ t.ident = (if v = 0 then { s.ident with wdtBlown := true } else { s.ident with lockBlown := true }) := by
  obtain ⟨b, q, n, l, ha⟩ := dbgAttach_eq s.begin
  have hlow : (0x46550000 + v) % 16 = v := by omega
  have hkey : fld (0x46550000 + v) 31 16 = 0x4655 := by
    rw [fld, Nat.shiftRight_eq_div_pow]
    omega
  let u : State := { s.begin.attachedAs b q n l with
    ident := if v = 0 then { s.ident with wdtBlown := true } else { s.ident with lockBlown := true } }
  have hu : s.begin.onlyChanges [.dbg, .flash, .ident] u := only_step (only_ident _ _) (only_one (attachedAs_only _ _ _ _ _))
  refine ⟨u.ledger 0x16 (4 + 256 * v) 0, portOp_done hlock hmode ?_, only_step (ledger_only _ _ _ _) hu, ledger_only u _ _ _ .ident (by decide)⟩
  rw [ha]
  dsimp only
  rw [hkey, hlow, if_neg (by simp; omega)]
  unfold u
  split <;> rfl

end

end Sys2Proof.Machine
end

section
/-!
What FLASH_ERASE and FLASH_PROGRAM of the inactive bank leave (16 R423, R424): the sector erased, the word in the page buffer, the page
programmed.
-/
namespace Sys2Proof.Machine

-- one proof at a time: these proofs share the equations of the operations they unfold
set_option Elab.async false

/-- A byte that a filter of the listed bytes keeps. -/
theorem mget_filter {d : Byte} {p : Nat × Byte → Bool} {a : Nat} (hp : ∀ v, p (a, v) = true) :
    ∀ {lo : Nat} {m : Mem}, mwfFrom d lo m = true → mget d (m.filter p) a = mget d m a
  | _, [], _ => rfl
  | lo, (k, v) :: m, h => by
    simp only [mwfFrom, Bool.and_eq_true] at h
    obtain ⟨-, hrest⟩ := h
    rw [List.filter_cons]
    by_cases hk : a = k
    · subst hk
      simp [hp v, mget]
    · by_cases hlt : a < k
      · have hbelow : mget d (m.filter p) a = d := mget_below d (filter_wf d p hrest) (by omega)
        split
        · simp [mget, hk, hlt]
        · rw [hbelow]
          simp [mget, hk, hlt]
      · have ih := mget_filter hp hrest
        split
        · simp [mget, hk, hlt, ih]
        · simp [mget, hk, hlt, ih]

/-- A byte outside the run that an erase covers. -/
theorem mget_eraseRange_outside {m : Mem} {lo n a : Nat} (h : Memory.wf flashByte m = true) (ha : a < lo ∨ lo + n ≤ a) :
    mget flashByte (eraseRange m lo n) a = mget flashByte m a :=
  mget_filter (fun _ => by simpa using ha) h

/-- The first write of the flash through the port enters the ledger. -/
theorem portWrites_eq (s : State) (k : Nat) :
    ∃ b q n l, s.portWrites k = { s with flash := { s.flash with portWrote := b, queue := q, nextSeq := n, lost := l } } := by
  unfold State.portWrites
  split
  · exact ⟨s.flash.portWrote, s.flash.queue, s.flash.nextSeq, s.flash.lost, rfl⟩
  · obtain ⟨q, n, l, h⟩ := ledger_eq { s with flash := { s.flash with portWrote := true } } 0x16 (3 + 256 * k) 0
    exact ⟨true, q, n, l, h⟩

theorem portWrites_only (s : State) (k : Nat) : s.onlyChanges [.flash] (s.portWrites k) :=
  only_ite (only_refl _ s) (only_step (ledger_only _ _ _ _) (only_one (only_flash s _)))

/-- The port may program and erase the inactive bank. -/
theorem portMay_inactive {s : State} {o : Nat} (hactive : s.flash.active < 2) (prog : Bool) : s.portMay s.inactive o prog = true := by
  have hne : s.inactive ≠ 2 := by
    unfold State.inactive
    omega
  simp [State.portMay, hne]

section
variable {s : State} {addr : Nat} (haddr : addr < 0x200000) (hbank : addr / 2 ^ 20 = s.inactive) (hactive : s.flash.active < 2)
  (hopen : s.flash.commit.isOpen = false)
include haddr hbank hactive hopen

/-- The erase of a sector of the inactive bank, with none in progress. -/
theorem flashErase_sector (herases : s.flash.erases = []) :
    ∃ u, flashErase addr s = (stOk, [], u.setBank u.inactive (eraseRange (u.bank u.inactive) (addr % 2 ^ 20 / 65536 * 65536) 65536))
      ∧ s.onlyChanges [.flash, .wdog] u ∧ u.wdog.erasing = some s.clk.wall ∧ u.flash.bank0 = s.flash.bank0
      ∧ u.flash.bank1 = s.flash.bank1 ∧ u.flash.active = s.flash.active := by
  obtain ⟨b, q, n, l, hport⟩ := portWrites_eq s (sectorOf s.inactive (addr % 2 ^ 20))
  refine ⟨(s.portWrites (sectorOf s.inactive (addr % 2 ^ 20))).eraseBegins .data, ?_,
    only_step (eraseBegins_only _ _) (only_one (portWrites_only s _)), ?_, ?_, ?_, ?_⟩
  · have hne : (s.inactive != 2) = true := by
      simp only [bne_iff_ne, State.inactive]
      omega
    have hinactive : ((s.portWrites (sectorOf s.inactive (addr % 2 ^ 20))).eraseBegins .data).inactive = s.inactive := by
      refine congrArg (1 - ·) ?_
      rw [eraseBegins_flash, hport]
    unfold flashErase
    rw [flashAt_bank haddr]
    dsimp only
    rw [hbank, portMay_inactive hactive, if_neg (by simp), if_neg (by simp [hopen]), if_pos hne, hinactive]
  · rw [hport, State.eraseBegins, if_pos (by simp [herases])]
    rfl
  · rw [eraseBegins_flash, hport]
  · rw [eraseBegins_flash, hport]
  · rw [eraseBegins_flash, hport]

/-- The state with a word in the page buffer. -/
theorem flashProgram_buffers {v : Nat} (halign : addr % 4 = 0) (hwords : s.flash.pageWords = []) :
    ∃ u, flashProgram addr v s = (stOk, [], if addr % 256 = 0xFC then u.programPage s.inactive (addr % 2 ^ 20) else u)
      ∧ s.onlyChanges [.flash] u ∧ u.flash.pageWords = [(addr % 256, v)] ∧ u.flash.bank0 = s.flash.bank0
      ∧ u.flash.bank1 = s.flash.bank1 ∧ u.flash.active = s.flash.active := by
  obtain ⟨b, q, n, l, hport⟩ := portWrites_eq s (sectorOf s.inactive (addr % 2 ^ 20))
  have hword : ¬ ((addr % 2 ^ 20 % 4 != 0) = true) := by simp; omega
  refine ⟨{ s.portWrites (sectorOf s.inactive (addr % 2 ^ 20)) with flash := { (s.portWrites (sectorOf s.inactive (addr % 2 ^ 20))).flash with
      pageAddr := addr / 256 * 256, pageWords := [(addr % 256, v)] } }, ?_, only_step (only_flash _ _) (portWrites_only s _), rfl, ?_, ?_, ?_⟩
  · unfold flashProgram
    rw [flashAt_bank haddr]
    dsimp only
    rw [hbank, if_neg hword, portMay_inactive hactive, if_neg (by simp), if_neg (by simp [hopen]), hport]
    simp [hwords]
  · dsimp only
    rw [hport]
  · dsimp only
    rw [hport]
  · dsimp only
    rw [hport]

end

/-- Erased bytes take the values of a run. -/
theorem progByte_run (s : State) : ∀ (bs : List Byte) (m : Mem) (a : Nat), Memory.wf flashByte m = true →
    (∀ i < bs.length, mget flashByte m (a + i) = flashByte) →
    (bs.mapIdx (fun i b => (a + i, b))).foldl progByte (m, s) = (mwrite flashByte m a bs, s)
  | [], _, _, _, _ => rfl
  | b :: bs, m, a, hm, herased => by
    have hfirst : mget flashByte m a = flashByte := herased 0 (Nat.zero_lt_succ _)
    have hrest : ∀ i < bs.length, mget flashByte (mset flashByte m a b) (a + 1 + i) = flashByte := fun i hi => by
      rw [mget_mset flashByte a _ b hm, if_neg (by omega), Nat.add_assoc, Nat.add_comm 1 i]
      exact herased (i + 1) (Nat.succ_lt_succ hi)
    have ih := progByte_run s bs (mset flashByte m a b) (a + 1) (mset_wf flashByte hm) hrest
    simp only [Nat.add_assoc, Nat.add_comm 1] at ih
    rw [List.mapIdx_cons, List.foldl_cons]
    simp only [progByte, Nat.add_zero, hfirst, if_true]
    exact ih

theorem le_getD : ∀ (n v k : Nat), k < n → (le n v).getD k flashByte = BitVec.ofNat 8 (v / 256 ^ k)
  | n + 1, v, 0, _ => by simp [le]
  | n + 1, v, k + 1, h => by
    rw [le, List.getD_cons_succ, le_getD n (v / 256) k (by omega), Nat.div_div_eq_div_mul, Nat.pow_succ']

/-- The page buffer with the last word of a page alone, programmed over four erased bytes of a bank. -/
theorem programPage_word {s : State} {r o v : Nat} (hr : r ≠ 2) (ho : o % 256 = 0xFC) (hwords : s.flash.pageWords = [(0xFC, v)])
    (hwf : Memory.wf flashByte (s.bank r) = true)
    (herased : mread flashByte (s.bank r) o 4 = [flashByte, flashByte, flashByte, flashByte]) :
    s.programPage r o = ({ s with flash := { s.flash with pageWords := [] } }).setBank r (mwrite flashByte (s.bank r) o (le 4 v)) := by
  have haddr : o / 256 * 256 + 0xFC = o := by omega
  simp only [mread, List.cons.injEq, and_true] at herased
  obtain ⟨h0, h1, h2, h3⟩ := herased
  have hrun := progByte_run { s with flash := { s.flash with pageWords := [] } } (le 4 v) (s.bank r) o hwf (fun i hi => by
    have hi4 : i < 4 := hi
    match i, hi4 with
    | 0, _ => exact h0
    | 1, _ => exact h1
    | 2, _ => exact h2
    | 3, _ => exact h3)
  have hne : ¬ ((r = 2 && (o / 4096 = 3 || o / 4096 = 4)) = true) := by simp [hr]
  unfold State.programPage
  extract_lets page ws bytes w u idx key
  have hbytes : bytes = (le 4 v).mapIdx (fun i b => (o + i, b)) := by
    unfold bytes ws page
    rw [hwords]
    simp [haddr]
  rw [if_neg hne, if_neg hr, hbytes]
  exact congrArg (fun a : Mem × State => a.2.setBank r a.1) hrun

end Sys2Proof.Machine
end

section
/-!
What the flush of the ports leaves of the gleaners: all but the advertised value of the crier message that has gone out.
-/
namespace Sys2Proof.Machine

-- one proof at a time: these proofs share the equations of the operations they unfold
set_option Elab.async false

/-- Two contents of the gleaners' registers agree but for the value that was advertised last. -/
def GleanSt.readvertised (f g : GleanSt) : Prop := ∃ a, g = { f with advertised := a }

theorem readvertised_refl (f : GleanSt) : f.readvertised f := ⟨f.advertised, rfl⟩

theorem readvertised_trans {f g h : GleanSt} (hg : f.readvertised g) (hh : g.readvertised h) : f.readvertised h := by
  obtain ⟨_, rfl⟩ := hg
  obtain ⟨a, rfl⟩ := hh
  exact ⟨a, rfl⟩

theorem readvertised_of_eq {f g : GleanSt} (h : g = f) : f.readvertised g := h ▸ readvertised_refl f

theorem crierBit_readvertised (s : State) (p : Nat) : s.glean.readvertised (s.crierBit p).2.glean := by
  unfold State.crierBit
  extract_lets c start msg g u
  split
  · exact readvertised_refl _
  · show s.glean.readvertised u.glean
    unfold u
    split
    · exact ⟨_, rfl⟩
    · exact readvertised_refl _

theorem sendNow_readvertised (s : State) (p : Nat) (x : QFrame) : s.glean.readvertised (s.sendNow p x).glean := by
  unfold State.sendNow
  have h1 : (s.stampTime p x.frame).2.glean = s.glean := stampTime_only s p x.frame .glean (by decide)
  generalize s.stampTime p x.frame = r1 at h1 ⊢
  obtain ⟨f, s1⟩ := r1
  dsimp only at h1 ⊢
  have h2 : (s1.stampProbe f).glean.readvertised ((s1.stampProbe f).crierBit p).2.glean := crierBit_readvertised _ p
  rw [stampProbe_only s1 f .glean (by decide), h1] at h2
  generalize (s1.stampProbe f).crierBit p = r2 at h2 ⊢
  obtain ⟨cb, s2⟩ := r2
  dsimp only at h2 ⊢
  split
  · split
    · exact h2
    · exact h2
  · exact h2

theorem pumpOne_readvertised (s : State) (p : Nat) : s.glean.readvertised (s.pumpOne p).glean := by
  unfold State.pumpOne
  extract_lets u t ready fits size go
  have hgo (l : List QFrame) (f : TxQueues → TxQueues) : s.glean.readvertised (go l f).glean := by
    unfold go
    split
    · exact sendNow_readvertised (s.updPort p _) p _
    · exact readvertised_refl _
  clear_value ready fits size go
  split
  · exact hgo _ _
  · split
    · exact hgo _ _
    · split
      · exact hgo _ _
      · split
        · exact hgo _ _
        · exact readvertised_refl _

theorem giveCredit_readvertised (s : State) (p : Nat) : s.glean.readvertised (s.giveCredit p).glean := by
  unfold State.giveCredit
  extract_lets u kept o
  split
  · exact readvertised_refl _
  · exact sendNow_readvertised (s.updPort p _) p _

theorem iter_readvertised {f : State → State} (hf : ∀ u : State, u.glean.readvertised (f u).glean) (n : Nat) (s : State) :
    s.glean.readvertised (iter f n s).glean := by
  induction n generalizing s with
  | zero => exact readvertised_refl _
  | succ n ih => exact readvertised_trans (hf s) (ih _)

theorem foldl_readvertised {α : Type} {f : State → α → State} (hf : ∀ (u : State) (a : α), u.glean.readvertised (f u a).glean)
    (l : List α) (s : State) : s.glean.readvertised (l.foldl f s).glean := by
  induction l generalizing s with
  | nil => exact readvertised_refl _
  | cons a l ih => exact readvertised_trans (hf s a) (ih _)

theorem flush_readvertised (s : State) : s.glean.readvertised s.flush.glean :=
  readvertised_trans (foldl_readvertised (fun u p => iter_readvertised (fun v => pumpOne_readvertised v p) _ u) _ s)
    (readvertised_trans (foldl_readvertised giveCredit_readvertised _ _)
      (readvertised_of_eq (freeExposure_only _ .glean (by decide))))

end Sys2Proof.Machine
end

section
/-!
HALT, RESUME, RESET and a breakpoint (16 R425, R426, 14 R376, R378): what a halt and its end leave in the mode, the debug unit, BALANCE and the
session.
-/
namespace Sys2Proof.Machine

-- one proof at a time: these proofs share the equations of the operations they unfold
set_option Elab.async false

/-- No halt's effect changes what BALANCE runs. -/
theorem abortSurvey_bal_fn (s : State) (d : Bool) : (s.abortSurvey d).bal.fn = s.bal.fn := by
  unfold State.abortSurvey
  extract_lets held
  split
  · rfl
  · split
    · split
      · rfl
      · exact congrArg BalanceSt.fn (switches_only _ .bal (by decide))
    · unfold State.endSurvey
      extract_lets sv u
      have hnote : u.bal = s.bal := noteExcite_only _ .bal (by decide)
      rw [switches_only _ .bal (by decide), closeBlock_only u.resumeBal 4 d .bal (by decide)]
      show u.bal.fn = s.bal.fn
      rw [hnote]

theorem haltEffects_bal_fn (s : State) : s.haltEffects.bal.fn = s.bal.fn := by
  unfold State.haltEffects
  rw [abortWire_only _ _ .bal (by decide), abortSurvey_bal_fn, abandonStep_only _ .bal (by decide), dropSession_only _ .bal (by decide)]

theorem dropSession_session (s : State) : s.dropSession.safety.session = none := by
  unfold State.dropSession
  cases h : s.safety.session with
  | none => simp [State.discardEntry, h]
  | some id => simp [State.discardEntry, h]

theorem haltEffects_session (s : State) : s.haltEffects.safety.session = none := by
  unfold State.haltEffects
  rw [abortWire_only _ _ .safety (by decide), abortSurvey_only _ _ .safety (by decide), abandonStep_only _ .safety (by decide)]
  exact dropSession_session s

/-- What a halt that takes place leaves. -/
def State.haltedFrom (s t : State) : Prop :=
  t.mode.mode = .halted ∧ t.mode.prior = some s.mode.mode ∧ t.dbg = { s.dbg with halted := true }
    ∧ t.bal.suspHalt = decide (s.bal.fn = .running) ∧ t.safety.session = none

/-- The modes in which a halt takes place at once, SURVEY apart. -/
def haltModes : List Mode := [.quiet, .run, .degraded, .safe, .lockout]

theorem toHalted_of_free {s : State} (hmode : s.mode.mode ∈ haltModes) (hcommit : s.flash.commit.isOpen = false)
    (hdue : s.higherDue = false) : s.haltedFrom s.toHalted := by
  have hnot : ¬ (((s.commitOpen || s.higherDue) && s.inMode [.quiet, .run, .survey, .commit, .degraded, .safe, .lockout]) = true) := by
    simp [State.commitOpen, hcommit, hdue]
  have hin : s.inMode [.quiet, .run, .survey, .degraded, .safe, .lockout] = true := by
    revert hmode
    unfold State.inMode haltModes
    cases s.mode.mode <;> decide
  have hsurvey : s.mode.mode ≠ .survey := by
    revert hmode
    unfold haltModes
    cases s.mode.mode <;> decide
  unfold State.toHalted
  rw [if_neg hnot, if_pos hin, if_neg hsurvey]
  extract_lets old u m b d v
  have hmodes : u.mode = s.mode := haltEffects_only s .mode (by decide)
  have hdbg : u.dbg = s.dbg := haltEffects_only s .dbg (by decide)
  have hv := setMode_only v .halted
  have hvmode := setMode_mode v .halted
  have hsw := switches_only (v.setMode .halted)
  refine ⟨?_, ?_, ?_, ?_, ?_⟩
  · rw [hsw .mode (by decide), hvmode]
  · rw [hsw .mode (by decide), hvmode]
  · rw [hsw .dbg (by decide), hv .dbg (by decide)]
    exact congrArg (fun d : DbgSt => { d with halted := true }) hdbg
  · rw [hsw .bal (by decide), hv .bal (by decide)]
    exact congrArg (fun f : FnState => decide (f = .running)) (haltEffects_bal_fn s)
  · rw [hsw .safety (by decide), hv .safety (by decide)]
    exact haltEffects_session s

theorem higherDue_ledger (s : State) (c i d : Nat) : (s.ledger c i d).higherDue = s.higherDue := by
  obtain ⟨q, n, l, h⟩ := ledger_eq s c i d
  rw [h]
  rfl

theorem haltedFrom_done {s t : State} (h : s.haltedFrom t) (ws : List Nat) : s.haltedFrom (t.dioDone ws).flush := by
  obtain ⟨hmode, hprior, hdbg, hbal, hsession⟩ := h
  have honly : t.onlyChanges [.ports, .glean, .out, .host, .expo, .reply] (t.dioDone ws).flush :=
    only_step (flush_only _) (only_one (dioDone_only t ws))
  unfold State.haltedFrom
  rw [honly .mode (by decide), honly .dbg (by decide), honly .bal (by decide), honly .safety (by decide)]
  exact ⟨hmode, hprior, hdbg, hbal, hsession⟩

/-- HALT through the port. -/
theorem debugHalt_done {s : State} (hlock : s.ident.debugLock = false) (hmode : s.mode.mode ∈ haltModes)
    (hcommit : s.flash.commit.isOpen = false) (hdue : s.higherDue = false) :
    ∃ t, exec .debugHalt s = .next t ∧ t.mode.mode = .halted ∧ t.mode.prior = some s.mode.mode
      ∧ t.dbg.halted = true ∧ t.bal.suspHalt = decide (s.bal.fn = .running) ∧ t.safety.session = none := by
  have hawake : s.mode.mode ∉ [.ship, .keep, .dormant, .bist] := by
    revert hmode
    unfold haltModes
    cases s.mode.mode <;> decide
  obtain ⟨hopen, hbist⟩ := open_of_modes hlock hawake
  obtain ⟨b, q, n, l, ha⟩ := dbgAttach_eq s.begin
  have hledger := ledger_only (s.begin.attachedAs b q n l) 0x16 2 0
  have hflash := ledger_ledgered (s.begin.attachedAs b q n l) 0x16 2 0
  have hexec : exec .debugHalt s = .next { (((s.begin.attachedAs b q n l).ledger 0x16 2 0).toHalted.dioDone []).flush with pending := s.pending } := by
    have hdone := dbgDo_done (s := s.begin) (f := debugHalt) hopen hbist (by rw [ha]; rfl)
    exact runL_next_eq hdone
  have hhalt := haltedFrom_done (toHalted_of_free (s := (s.begin.attachedAs b q n l).ledger 0x16 2 0)
    (by rw [hledger .mode (by decide)]; exact hmode)
    (by obtain ⟨_, _, _, h⟩ := hflash; rw [h]; exact hcommit) (by rw [higherDue_ledger]; exact hdue)) []
  obtain ⟨h1, h2, h3, h4, h5⟩ := hhalt
  rw [hledger .mode (by decide)] at h2
  rw [hledger .bal (by decide)] at h4
  generalize (((s.begin.attachedAs b q n l).ledger 0x16 2 0).toHalted.dioDone []).flush = u at hexec h1 h2 h3 h4 h5
  exact ⟨_, hexec, h1, h2, congrArg DbgSt.halted h3, h4, h5⟩

/-- A comparator that matches. -/
theorem breakpointHit_done {s : State} {k addr : Nat} {b : BreakSt} (hcore : s.coreRuns = true) (hmode : s.mode.mode ∈ haltModes)
    (hcommit : s.flash.commit.isOpen = false) (hdue : s.higherDue = false) (hbrk : s.dbg.brk[k]? = some b) (hen : b.en = true)
    (htyp : b.typ = 2) (hwo : b.wo = false) (hval : b.value = addr) :
    ∃ t, exec (.breakpointHit k addr false) s = .next t ∧ t.mode.mode = .halted ∧ t.dbg.hit = k
      ∧ t.dbg.hitValid = true := by
  have hawake : s.awake = true := by
    revert hmode
    unfold haltModes State.awake State.inMode
    cases s.mode.mode <;> decide
  have hmatch : brkMatch b addr false = true := by simp [brkMatch, hen, htyp, hwo, hval]
  have hreach : s.begin.reachable = true := Bool.and_eq_true_iff.mpr ⟨hawake, hcore⟩
  have hexec : exec (.breakpointHit k addr false) s = .next { (s.begin.breakHit k).flush with pending := s.pending } := by
    show execBreakpointHit k addr false s = _
    unfold execBreakpointHit
    refine runL_next_eq ?_
    have hbrk' : s.begin.dbg.brk[k]? = some b := hbrk
    have hcond : (brkMatch b addr false && !(b.typ = 0 && s.begin.dbg.stepping) && s.begin.reachable) = true := by
      rw [hmatch, hreach, htyp]
      rfl
    simp only [hbrk', hcond, if_true]
  obtain ⟨h1, -, h3, -, -⟩ := toHalted_of_free (s := { s.begin with dbg := { s.begin.dbg with hit := k, hitValid := true } }) hmode hcommit hdue
  have hmodes : (s.begin.breakHit k).flush.mode.mode = .halted := by rw [flush_mode]; exact h1
  have hdbg : (s.begin.breakHit k).flush.dbg = _ := (flush_only (s.begin.breakHit k) .dbg (by decide)).trans h3
  generalize (s.begin.breakHit k).flush = u at hexec hmodes hdbg
  exact ⟨_, hexec, hmodes, congrArg DbgSt.hit hdbg, congrArg DbgSt.hitValid hdbg⟩

/-- The end of a halt. -/
theorem resumeHalt_of_halted {s : State} {m : Mode} (hmode : s.mode.mode = .halted) (hprior : s.mode.prior = some m) :
    s.resumeHalt.mode = { s.mode with mode := m, prior := none } ∧ s.resumeHalt.dbg = { s.dbg with halted := false, go := true }
      ∧ s.resumeHalt.bal.suspHalt = false ∧ s.resumeHalt.wdog.count = 0 := by
  unfold State.resumeHalt
  rw [if_neg (by simp [hmode]), hprior]
  extract_lets p a b d v
  have hrearm : (v.setMode p).onlyChanges [.wdog] (v.setMode p).rearmWdog := only_wdog _ _
  have hsw := switches_only (v.setMode p).rearmWdog
  have hset := setMode_only v p
  refine ⟨?_, ?_, ?_, ?_⟩
  · rw [hsw .mode (by decide), hrearm .mode (by decide), setMode_mode]
    rfl
  · rw [hsw .dbg (by decide), hrearm .dbg (by decide), hset .dbg (by decide)]
  · rw [hsw .bal (by decide), hrearm .bal (by decide), hset .bal (by decide)]
  · rw [hsw .wdog (by decide)]
    rfl

/-- RESUME through the port. -/
theorem debugResume_done {s : State} {m : Mode} (hlock : s.ident.debugLock = false) (hmode : s.mode.mode = .halted)
    (hprior : s.mode.prior = some m) :
    ∃ t, exec .debugResume s = .next t ∧ t.mode.mode = m ∧ t.mode.prior = none ∧ t.dbg.halted = false
      ∧ t.bal.suspHalt = false ∧ t.wdog.count = 0 := by
  obtain ⟨hopen, hbist⟩ := open_of_modes hlock (by rw [hmode]; decide)
  obtain ⟨b, q, n, l, ha⟩ := dbgAttach_eq s.begin
  have hexec : exec .debugResume s = .next { ((s.begin.attachedAs b q n l).resumeHalt.dioDone []).flush with pending := s.pending } := by
    have hdone := dbgDo_done (s := s.begin) (f := debugResume) hopen hbist (by rw [ha]; rfl)
    exact runL_next_eq hdone
  obtain ⟨h1, h2, h3, h4⟩ := resumeHalt_of_halted (s := s.begin.attachedAs b q n l) hmode hprior
  have honly : (s.begin.attachedAs b q n l).resumeHalt.onlyChanges [.ports, .glean, .out, .host, .expo, .reply]
      ((s.begin.attachedAs b q n l).resumeHalt.dioDone []).flush := only_step (flush_only _) (only_one (dioDone_only _ _))
  refine ⟨_, hexec, ?_, ?_, ?_, ?_, ?_⟩
  · rw [honly .mode (by decide), h1]
  · rw [honly .mode (by decide), h1]
  · rw [honly .dbg (by decide), h2]
  · rw [honly .bal (by decide), h3]
  · rw [honly .wdog (by decide), h4]

theorem resetTo_uid (s : State) (c : Nat) (m : Mode) : (s.resetTo c m).ident.uid = s.ident.uid := by
  have h : (s.resetTo c m).ident = { s.ident with
      wdtHwstart := s.ident.wdtHwstart || s.ident.wdtBlown, debugLock := s.ident.debugLock || s.ident.lockBlown } :=
    setMode_only _ _ .ident (by decide)
  rw [h]

/-- RESET through the port. -/
theorem debugReset_done {s : State} (hlock : s.ident.debugLock = false) (hmode : s.mode.mode ∉ [.ship, .keep, .dormant, .bist]) :
    ∃ t, exec .debugReset s = .next t ∧ t.mode.mode = .bist ∧ t.mode.cause = 8 ∧ t.clk.rtc = s.clk.rtc
      ∧ t.ident.uid = s.ident.uid := by
  obtain ⟨hopen, hbist⟩ := open_of_modes hlock hmode
  obtain ⟨b, q, n, l, ha⟩ := dbgAttach_eq s.begin
  have hexec : exec .debugReset s = .next { ((s.begin.attachedAs b q n l).resetBy 8).dioDone [] with pending := s.pending } :=
    run_next_eq (dbgDo_done (s := s.begin) (f := debugReset) hopen hbist (by rw [ha]; rfl))
  have honly := dioDone_only ((s.begin.attachedAs b q n l).resetBy 8) []
  have hmode' := resetTo_mode (s.begin.attachedAs b q n l) 8 .bist
  have hclk := resetTo_clk (s.begin.attachedAs b q n l) 8 .bist
  refine ⟨_, hexec, ?_, ?_, ?_, ?_⟩
  · rw [honly .mode (by decide)]
    exact congrArg ModeSt.mode hmode'
  · rw [honly .mode (by decide)]
    exact congrArg ModeSt.cause hmode'
  · rw [honly .clk (by decide)]
    exact (congrArg ClkSt.rtc hclk :)
  · rw [honly .ident (by decide)]
    exact (resetTo_uid (s.begin.attachedAs b q n l) 8 .bist :)

end Sys2Proof.Machine
end

section
/-!
STEP in HALTED (16 R425): the FORWARD job that a working gleaner would take runs, and its record leaves on the port that leads to the ROOT.
-/
namespace Sys2Proof.Machine

-- one proof at a time: these proofs share the equations of the operations they unfold
set_option Elab.async false

/-! ### What goes out -/

/-- Nothing that has gone out is taken back. -/
def State.outGrows (s t : State) : Prop := ∃ l, t.out = s.out ++ l

theorem outGrows_refl (s : State) : s.outGrows s := ⟨[], (List.append_nil _).symm⟩

theorem outGrows_trans {s t u : State} (h : s.outGrows t) (k : t.outGrows u) : s.outGrows u := by
  obtain ⟨l, hl⟩ := h
  obtain ⟨m, hm⟩ := k
  exact ⟨l ++ m, by rw [hm, hl, List.append_assoc]⟩

theorem outGrows_of_eq {s t : State} (h : t.out = s.out) : s.outGrows t := ⟨[], by rw [h, List.append_nil]⟩

theorem outGrows_mem {s t : State} (h : s.outGrows t) {e : OutEvt} (he : e ∈ s.out) : e ∈ t.out := by
  obtain ⟨l, hl⟩ := h
  rw [hl]
  exact List.mem_append_left _ he

/-- A frame goes out behind what has gone out; one that is no TIME frame goes out as it is. -/
theorem sendNow_emits (s : State) (p : Nat) (x : QFrame) :
    ∃ w n cb f, s.sendNow p x = State.emit w (.long p n cb f) ∧ w.out = s.out ∧ (x.frame.typ ≠ 9 → f = x.frame) := by
  unfold State.sendNow
  have h1 : (s.stampTime p x.frame).2.out = s.out := stampTime_only s p x.frame .out (by decide)
  have hf : x.frame.typ ≠ 9 → (s.stampTime p x.frame).1 = x.frame := fun h => by
    rw [State.stampTime, if_pos (by simp [h])]
  generalize s.stampTime p x.frame = r1 at h1 hf ⊢
  obtain ⟨f, s1⟩ := r1
  dsimp only at h1 hf ⊢
  have h2 : ((s1.stampProbe f).crierBit p).2.out = s.out :=
    ((crierBit_only _ p .out (by decide)).trans (stampProbe_only s1 f .out (by decide))).trans h1
  generalize (s1.stampProbe f).crierBit p = r2 at h2 ⊢
  obtain ⟨cb, s2⟩ := r2
  dsimp only at h2 ⊢
  refine ⟨_, _, _, _, rfl, ?_, hf⟩
  split
  · split
    · exact h2
    · exact h2
  · exact h2

theorem sendNow_outGrows (s : State) (p : Nat) (x : QFrame) : s.outGrows (s.sendNow p x) := by
  obtain ⟨w, n, cb, f, hsend, hout, -⟩ := sendNow_emits s p x
  rw [hsend]
  exact ⟨[.long p n cb f], congrArg (· ++ [_]) hout⟩

theorem sendNow_mem {s : State} {p : Nat} {x : QFrame} (h : x.frame.typ ≠ 9) : ∃ n cb, OutEvt.long p n cb x.frame ∈ (s.sendNow p x).out := by
  obtain ⟨w, n, cb, f, hsend, -, hf⟩ := sendNow_emits s p x
  rw [hsend, hf h]
  exact ⟨n, cb, List.mem_append_right _ (List.mem_singleton.mpr rfl)⟩

theorem pumpOne_outGrows (s : State) (p : Nat) : s.outGrows (s.pumpOne p) := by
  unfold State.pumpOne
  extract_lets u t ready fits size go
  have hgo (l : List QFrame) (f : TxQueues → TxQueues) : s.outGrows (go l f) := by
    unfold go
    split
    · exact sendNow_outGrows (s.updPort p _) p _
    · exact outGrows_refl s
  clear_value ready fits size go
  split
  · exact hgo _ _
  · split
    · exact hgo _ _
    · split
      · exact hgo _ _
      · split
        · exact hgo _ _
        · exact outGrows_refl s

theorem giveCredit_outGrows (s : State) (p : Nat) : s.outGrows (s.giveCredit p) := by
  unfold State.giveCredit
  extract_lets u kept o
  split
  · exact outGrows_refl s
  · exact sendNow_outGrows (s.updPort p _) p _

theorem iter_outGrows {f : State → State} (hf : ∀ u : State, u.outGrows (f u)) (n : Nat) (s : State) : s.outGrows (iter f n s) := by
  induction n generalizing s with
  | zero => exact outGrows_refl s
  | succ n ih => exact outGrows_trans (hf s) (ih _)

theorem foldl_outGrows {α : Type} {f : State → α → State} (hf : ∀ (u : State) (a : α), u.outGrows (f u a)) (l : List α) (s : State) :
    s.outGrows (l.foldl f s) := by
  induction l generalizing s with
  | nil => exact outGrows_refl s
  | cons a l ih => exact outGrows_trans (hf s a) (ih _)

theorem pump_outGrows (s : State) (p : Nat) : s.outGrows (s.pump p) := iter_outGrows (fun u => pumpOne_outGrows u p) _ s

theorem flush_outGrows_of_pumps (s : State) : ([0, 1, 2, 3].foldl State.pump s).outGrows s.flush :=
  outGrows_trans (foldl_outGrows giveCredit_outGrows _ _) (outGrows_of_eq (freeExposure_only _ .out (by decide)))

/-! ### One record on one port -/

/-- A port without a frame to send. -/
def PortSt.idle (q : PortSt) : Bool :=
  q.txq.safety.isEmpty && q.txq.control.isEmpty && q.txq.data.isEmpty && q.txq.bulk.isEmpty

theorem pump_of_idle {s : State} {p : Nat} (h : (s.port p).idle = true) : s.pump p = s := by
  simp only [PortSt.idle, Bool.and_eq_true, List.isEmpty_iff] at h
  obtain ⟨⟨⟨hs, hc⟩, hd⟩, hb⟩ := h
  simp [State.pump, hs, hc, hd, hb, iter]

/-- A port that holds one DATA frame, which it may send. -/
structure PortSt.holdsOne (u : PortSt) (x : QFrame) : Prop where
  safety : u.txq.safety = []
  control : u.txq.control = []
  data : u.txq.data = [x]
  bulk : u.txq.bulk = []
  may : u.canSend x.frame = true

/-- A turn of the scheduler sends the frame where the deficit covers it, and raises the deficit by the quantum where it does not. -/
theorem pumpOne_of_holdsOne {s : State} {p : Nat} {x : QFrame} (h : (s.port p).holdsOne x) :
    (lineBytes x.frame ≤ (s.port p).txq.defD ∧ ∃ f, s.pumpOne p = (s.updPort p f).sendNow p x)
    ∨ ((s.port p).txq.defD < lineBytes x.frame ∧
      s.pumpOne p = s.updPort p (fun q => { q with txq := { q.txq with defC := 0, defD := (s.port p).txq.defD + 1024, defB := 0 } })) := by
  obtain ⟨hs, hc, hd, hb, hmay⟩ := h
  unfold State.pumpOne
  extract_lets u t ready fits size go
  have hts : t.safety = [] := hs
  have htc : t.control = [] := hc
  have htd : t.data = [x] := hd
  have htb : t.bulk = [] := hb
  have hmay' : u.canSend x.frame = true := hmay
  rw [hts, htc, htd, htb]
  by_cases hfit : lineBytes x.frame ≤ t.defD
  · refine .inl ⟨hfit, ?_⟩
    rw [if_neg (by simp [ready]), if_neg (by simp [fits]), if_pos (by simp [fits, hmay', hfit])]
    exact ⟨_, rfl⟩
  · refine .inr ⟨Nat.lt_of_not_le hfit, ?_⟩
    rw [if_neg (by simp [ready]), if_neg (by simp [fits]), if_neg (by simp [fits, hfit]), if_neg (by simp [fits])]
    have hready : ready [x] = true := hmay'
    rw [hready]
    rfl

/-- Two turns send a frame of at most the quantum of its class. -/
theorem pump_of_holdsOne {s : State} {p : Nat} {x : QFrame} (hp : p < s.ports.length) (h : (s.port p).holdsOne x)
    (hsize : lineBytes x.frame ≤ 1024) (htyp : x.frame.typ ≠ 9) : ∃ n cb, OutEvt.long p n cb x.frame ∈ (s.pump p).out := by
  obtain ⟨hs, hc, hd, hb, hmay⟩ := h
  have htwice : s.pump p = (s.pumpOne p).pumpOne p := by
    simp [State.pump, hs, hc, hd, hb, iter]
  rw [htwice]
  rcases pumpOne_of_holdsOne ⟨hs, hc, hd, hb, hmay⟩ with ⟨-, f, hone⟩ | ⟨-, hone⟩
  · obtain ⟨n, cb, hmem⟩ := sendNow_mem (s := s.updPort p f) (p := p) htyp
    rw [hone]
    exact ⟨n, cb, outGrows_mem (pumpOne_outGrows _ p) hmem⟩
  · rw [hone]
    have hself := updPort_port_self s p (fun q => { q with txq := { q.txq with defC := 0, defD := (s.port p).txq.defD + 1024, defB := 0 } }) hp
    generalize s.updPort p _ = u at hself ⊢
    have hagain : (u.port p).holdsOne x := by
      rw [hself]
      exact ⟨hs, hc, hd, hb, hmay⟩
    rcases pumpOne_of_holdsOne hagain with ⟨-, f, htwo⟩ | ⟨hshort, -⟩
    · obtain ⟨n, cb, hmem⟩ := sendNow_mem (s := u.updPort p f) (p := p) htyp
      rw [htwo]
      exact ⟨n, cb, hmem⟩
    · have hdeficit : (u.port p).txq.defD = (s.port p).txq.defD + 1024 := congrArg (fun q => q.txq.defD) hself
      omega

/-- Where one port alone holds a frame, the flush sends it. -/
theorem flush_of_holdsOne {s : State} {q : Nat} {x : QFrame} (hlen : s.ports.length = 4) (hq : q < 4) (h : (s.port q).holdsOne x)
    (hidle : ∀ p < 4, p ≠ q → (s.port p).idle = true) (hsize : lineBytes x.frame ≤ 1024) (htyp : x.frame.typ ≠ 9) :
    ∃ n cb, OutEvt.long q n cb x.frame ∈ s.flush.out := by
  obtain ⟨n, cb, hmem⟩ := pump_of_holdsOne (hlen ▸ hq) h hsize htyp
  have hbefore (l : List Nat) (hl : ∀ p ∈ l, p < 4 ∧ p ≠ q) : l.foldl State.pump s = s := by
    induction l with
    | nil => rfl
    | cons p l ih =>
      obtain ⟨hp, hne⟩ := hl p (List.mem_cons_self ..)
      rw [List.foldl_cons, pump_of_idle (hidle p hp hne)]
      exact ih (fun r hr => hl r (List.mem_cons_of_mem _ hr))
  have hsplit : ([0, 1, 2, 3] : List Nat) = List.range' 0 q ++ q :: List.range' (q + 1) (3 - q) := by
    have hcases : q = 0 ∨ q = 1 ∨ q = 2 ∨ q = 3 := by omega
    rcases hcases with rfl | rfl | rfl | rfl <;> rfl
  refine ⟨n, cb, outGrows_mem (flush_outGrows_of_pumps s) ?_⟩
  rw [hsplit, List.foldl_append, hbefore _ (fun p hp => by rw [List.mem_range'_1] at hp; omega), List.foldl_cons]
  exact outGrows_mem (foldl_outGrows pump_outGrows _ _) hmem

end Sys2Proof.Machine
end

section
/-!
STEP on a FORWARD job (16 R425): the gleaner takes the job, the job finishes, and its record joins the frames on the port that leads to the
ROOT.
-/
namespace Sys2Proof.Machine

-- one proof at a time: these proofs share the equations of the operations they unfold
set_option Elab.async false

/-- A working gleaner without a job, whose deque, the longest, holds one job j alone. -/
structure State.mayStep (s : State) (g : Nat) (j : Job) : Prop where
  halted : s.mode.mode = .halted
  free : s.working.find? (fun x => (s.gleaner x).running.isNone) = some g
  longest : s.longest = some g
  deque : (s.gleaner g).deque = [j]
  sixteen : s.glean.gleaners.length = 16
  waiting : s.glean.waiting = []

/-- The gleaners after gleaner g has taken the first job, j, of its own deque. -/
def tookOne (l : List GleanerSt) (g : Nat) (j : Job) : List GleanerSt :=
  updAt (updAt l g (fun q => { q with deque := q.deque.drop 1 })) g (fun q => { q with running := some j })

/-- The gleaners after gleaner g has run the one job of its deque. -/
def ranOne (l : List GleanerSt) (g : Nat) (j : Job) : List GleanerSt :=
  updAt (tookOne l g j) g (fun q => { q with running := none })

theorem mayStep_gleaner {s : State} {g : Nat} {j : Job} (h : s.mayStep g j) :
    g < 16 ∧ s.islandWorks (g / 4) = true ∧ (s.gleaner g).running = none := by
  have hmem := List.mem_of_find?_eq_some h.free
  have hnone := List.find?_some h.free
  rw [State.working, List.mem_filter, List.mem_range] at hmem
  exact ⟨hmem.1, hmem.2, Option.isNone_iff_eq_none.mp hnone⟩

theorem admitOne_of_empty {s : State} (h : s.glean.waiting = []) : s.admitOne = s := by
  unfold State.admitOne
  split
  · rfl
  · rw [h]
    rfl

theorem admitAll_of_halted {s : State} (h : s.mode.mode = .halted) : s.admitAll = s := if_pos h

/-- The gleaner takes the job and holds it. -/
theorem take_of_mayStep {s : State} {g : Nat} {j : Job} (h : s.mayStep g j) :
    ∃ d, s.take g = { s with dbg := d, glean := { s.glean with gleaners := tookOne s.glean.gleaners g j } } := by
  obtain ⟨hg, hworks, hnone⟩ := mayStep_gleaner h
  have hbreak : (if s.dbg.passJob = some j.adm then none else s.breakAt 0 j.tag false) = none := by
    simp [State.breakAt, h.halted]
  unfold State.take
  rw [if_neg (by simp [hworks, hnone, hg]), h.longest]
  dsimp only
  rw [h.deque]
  dsimp only
  rw [hbreak]
  dsimp only
  unfold State.takeFrom
  dsimp only
  rw [if_pos rfl, admitAll_of_halted (by exact h.halted)]
  exact ⟨_, rfl⟩

/-- A FORWARD job that a gleaner runs finishes. -/
theorem finishJob_forward {s : State} {g : Nat} {j : Job} (hrun : (s.gleaner g).running = some j) (hkind : j.kind = .forward) :
    s.finishJob g none = { s with glean := { s.glean with
      gleaners := updAt s.glean.gleaners g (fun q => { q with running := none }), finished := s.glean.finished ++ [⟨j, false⟩] } } := by
  unfold State.finishJob
  rw [hrun]
  dsimp only
  rw [if_neg (by rw [hkind]; decide)]
  rfl

/-- The one finished job, a FORWARD job that no other of its key comes before, sends its record where the next hop grants it. -/
theorem releaseStepped_forward {s : State} {j : Job} {r : Rec} (hfin : s.glean.finished = [⟨j, false⟩]) (hkind : j.kind = .forward)
    (hfor : s.glean.forwards = [(j.tag, .record r)]) (hkey : s.keyBlocked j = false) (hgrant : s.forwardGranted j.tag = true)
    (hintact : r.intact = true) (hroot : s.isRoot = false) :
    s.releaseStepped = State.sendTo { s with glean := { s.glean with finished := [], forwards := [] } } (heldFrame s j.tag r) := by
  have hmay : s.mayLeave ⟨j, false⟩ = true := by
    simp only [State.mayLeave, hkey, hkind, hgrant, Bool.not_false, Bool.and_self]
  have hlast : s.glean.finished.getLast? = some ⟨j, false⟩ := by rw [hfin]; rfl
  unfold State.releaseStepped
  rw [hlast]
  dsimp only
  rw [if_pos hmay, State.jobLeaves]
  dsimp only
  rw [hkind]
  dsimp only
  rw [State.forwardLeaves, hfor, hfin]
  simp only [List.find?_cons, decide_true, List.erase_cons_head]
  rw [if_neg Bool.false_ne_true, hintact, if_neg (by decide)]
  rw [if_neg (by show ¬ s.isRoot = true; rw [hroot]; decide)]
  rfl

theorem ranOne_gleaner_self {l : List GleanerSt} {g : Nat} {j : Job} (d : GleanerSt) (hg : g < l.length)
    (hdeque : (l.getD g d).deque = [j]) : ((ranOne l g j).getD g d).running = none ∧ ((ranOne l g j).getD g d).deque = [] := by
  rw [ranOne, tookOne, updAt_getD_self _ _ _ _ (by simpa using hg), updAt_getD_self _ _ _ _ (by simpa using hg), updAt_getD_self _ _ _ _ hg]
  exact ⟨rfl, by rw [hdeque]; rfl⟩

theorem ranOne_gleaner_ne {l : List GleanerSt} {g x : Nat} {j : Job} (d : GleanerSt) (h : x ≠ g) :
    (ranOne l g j).getD x d = l.getD x d := by
  rw [ranOne, tookOne, updAt_getD_ne _ _ _ _ _ h.symm, updAt_getD_ne _ _ _ _ _ h.symm, updAt_getD_ne _ _ _ _ _ h.symm]

end Sys2Proof.Machine
end

section
/-!
STEP (16 R425): outside HALTED nothing but the answer, in HALTED one job; and the port's word writes as the granary's bytes read back.
-/
namespace Sys2Proof.Machine

-- one proof at a time: these proofs share the equations of the operations they unfold
set_option Elab.async false

/-- Job k stands before j under j's key. -/
def Job.before (j k : Job) : Bool := k.key = j.key && decide (k.adm < j.adm) && k.kind != .harvest

/-- A gleaner holds no job before j. -/
def GleanerSt.clearOf (q : GleanerSt) (j : Job) : Prop := (q.running.any j.before || q.deque.any j.before) = false

theorem before_self (j : Job) : j.before j = false := by simp [Job.before]

/-- With nothing waiting and nothing finished but j, what the gleaners hold decides. -/
theorem keyBlocked_eq_false_of_clear {s : State} {j : Job} (hclear : ∀ q ∈ s.glean.gleaners, q.clearOf j) (hwait : s.glean.waiting = [])
    (hfin : s.glean.finished = [⟨j, false⟩]) : s.keyBlocked j = false := by
  have hgl : s.glean.gleaners.any (fun g => g.running.any j.before || g.deque.any j.before) = false := by
    rw [List.any_eq_false]
    intro q hq
    rw [show (q.running.any j.before || q.deque.any j.before) = false from hclear q hq]
    decide
  unfold State.keyBlocked
  rw [hwait, hfin]
  show (s.glean.gleaners.any (fun g => g.running.any j.before || g.deque.any j.before) || _ || (j.before j || false)) = false
  rw [hgl, before_self]
  rfl

theorem clear_of_keyBlocked {s : State} {j : Job} (h : s.keyBlocked j = false) : ∀ q ∈ s.glean.gleaners, q.clearOf j := by
  intro q hq
  unfold State.keyBlocked at h
  simp only [Bool.or_eq_false_iff, List.any_eq_false] at h
  exact Bool.eq_false_iff.mpr (h.1.1 q hq)

theorem clear_ranOne {l : List GleanerSt} {j : Job} (g : Nat) (h : ∀ q ∈ l, q.clearOf j) : ∀ q ∈ ranOne l g j, q.clearOf j := by
  have hdrop : ∀ q ∈ updAt l g (fun q => { q with deque := q.deque.drop 1 }), q.clearOf j := by
    refine forall_mem_updAt h (fun q hq => ?_)
    have hq := h q hq
    simp only [GleanerSt.clearOf, Bool.or_eq_false_iff, List.any_eq_false] at hq ⊢
    exact ⟨hq.1, fun k hk => hq.2 k (List.mem_of_mem_drop hk)⟩
  have htook : ∀ q ∈ tookOne l g j, q.clearOf j := by
    refine forall_mem_updAt hdrop (fun q hq => ?_)
    have hq := hdrop q hq
    simp only [GleanerSt.clearOf, Bool.or_eq_false_iff] at hq ⊢
    exact ⟨before_self j, hq.2⟩
  refine forall_mem_updAt htook (fun q hq => ?_)
  have hq := htook q hq
  simp only [GleanerSt.clearOf, Bool.or_eq_false_iff] at hq ⊢
  exact ⟨rfl, hq.2⟩

/-- The gleaners' registers after gleaner g has run the FORWARD job j, the only one. -/
def GleanSt.forwarded (f : GleanSt) (g : Nat) (j : Job) : GleanSt :=
  { f with gleaners := ranOne f.gleaners g j, finished := [], forwards := [] }

/-- One step that runs a FORWARD job. -/
theorem debugStep_forward {s : State} {g : Nat} {j : Job} {r : Rec} (hcore : s.coreRuns = true) (h : s.mayStep g j)
    (hkind : j.kind = .forward) (hfin : s.glean.finished = []) (hkey : s.keyBlocked j = false)
    (hfor : s.glean.forwards = [(j.tag, .record r)]) (hintact : r.intact = true) (hroot : s.isRoot = false)
    (hgrant : s.forwardGranted j.tag = true) :
    ∃ d d', debugStep none s = (stOk, { State.sendTo { s with dbg := d, glean := s.glean.forwarded g j } (heldFrame s j.tag r) with dbg := d' }) := by
  obtain ⟨hg, -, -⟩ := mayStep_gleaner h
  have hgl : g < s.glean.gleaners.length := h.sixteen ▸ hg
  obtain ⟨e, hready⟩ : ∃ e, { s with dbg := e } = { { s with dbg := { s.dbg with go := s.dbg.go || !s.dbg.held.isEmpty } } with
      dbg := { s.dbg with go := s.dbg.go || !s.dbg.held.isEmpty, stepping := true } } := ⟨_, rfl⟩
  have hmay : ({ s with dbg := e } : State).mayStep g j := ⟨h.halted, h.free, h.longest, h.deque, h.sixteen, h.waiting⟩
  obtain ⟨d, htake⟩ := take_of_mayStep hmay
  have hrun : (({ s with dbg := d, glean := { s.glean with gleaners := tookOne s.glean.gleaners g j } } : State).gleaner g).running = some j := by
    show ((tookOne s.glean.gleaners g j).getD g _).running = some j
    rw [tookOne, updAt_getD_self _ _ _ _ (by simpa using hgl)]
  have hrelease := releaseStepped_forward (j := j) (r := r) (s := { s with dbg := d, glean := { s.glean with
      gleaners := ranOne s.glean.gleaners g j, finished := [⟨j, false⟩] } }) rfl hkind hfor
    (keyBlocked_eq_false_of_clear (clear_ranOne g (clear_of_keyBlocked hkey)) h.waiting rfl) hgrant hintact hroot
  refine ⟨d, { (State.sendTo { s with dbg := d, glean := s.glean.forwarded g j } (heldFrame s j.tag r)).dbg with stepping := false }, ?_⟩
  unfold debugStep
  rw [if_neg (by simp [h.halted, hcore])]
  dsimp only
  rw [show State.working { s with dbg := { s.dbg with go := s.dbg.go || !s.dbg.held.isEmpty } } = s.working from rfl]
  have hfind : s.working.find? (fun x => (({ s with dbg := { s.dbg with go := s.dbg.go || !s.dbg.held.isEmpty } } : State).gleaner x).running.isNone)
      = some g := h.free
  rw [hfind]
  dsimp only
  rw [← hready, admitOne_of_empty (by exact h.waiting), htake]
  dsimp only
  rw [if_pos (by rw [hrun]; rfl), finishJob_forward hrun hkind]
  dsimp only
  rw [hfin, List.nil_append]
  have hrel' := congrArg (fun u : State => ((stOk, { u with dbg := { u.dbg with stepping := false } }) : Nat × State)) hrelease
  exact hrel'

/-! ### STEP through the port -/

section
variable {s : State} (hlock : s.ident.debugLock = false) (hmode : s.mode.mode ∉ [.ship, .keep, .dormant, .bist])
include hlock hmode

/-- A step through the port whose function is taken in the state with the port attached. -/
theorem debugStep_next {t : State} (h : debugStep none s.begin.dbgAttach = (stOk, t)) :
    exec (.debugStep none) s = .next { (t.dioDone []).flush with pending := s.pending } := by
  obtain ⟨hopen, hbist⟩ := open_of_modes hlock hmode
  exact runL_next_eq (dbgDo_done (s := s.begin) (f := debugStep none) hopen hbist h)

/-- A step that finds nothing to run. -/
theorem debugStep_rests {t : State} (h : debugStep none s.begin.dbgAttach = (stOk, t)) (honly : s.begin.onlyChanges [.dbg, .flash] t) :
    ∃ u, exec (.debugStep none) s = .next u ∧ s.onlyChanges [.reply, .out, .dbg, .flash, .ports, .host, .glean, .expo] u
      ∧ u.reply = some { status := stOk, value := 0, words := [], bytes := [] } ∧ u.glean.gleaners = s.glean.gleaners
      ∧ u.glean.waiting = s.glean.waiting ∧ u.glean.finished = s.glean.finished ∧ u.dbg = t.dbg ∧ u.mode = s.mode := by
  have hdone : s.begin.onlyChanges [.reply, .out, .dbg, .flash] (t.dioDone []) := only_step (dioDone_only t []) (only_one honly)
  have hexec := debugStep_next hlock hmode h
  have hreply : (t.dioDone []).reply = some { status := stOk, value := 0, words := [], bytes := [] } := rfl
  have hdbg : (t.dioDone []).dbg = t.dbg := rfl
  generalize t.dioDone [] = w at hdone hexec hreply hdbg
  obtain ⟨a, hglean⟩ := flush_readvertised w
  rw [hdone .glean (by decide)] at hglean
  have honly' := nextL_only (ps := [.reply, .out, .dbg, .flash, .ports, .host, .glean, .expo]) (only_one hdone)
  have hreply' := (flush_reply w).trans hreply
  have hdbg' := (flush_only w .dbg (by decide)).trans hdbg
  have hm' := (flush_only w .mode (by decide)).trans (hdone .mode (by decide))
  generalize w.flush = v at hexec hglean honly' hreply' hdbg' hm'
  exact ⟨_, hexec, honly', hreply', (congrArg GleanSt.gleaners hglean :), (congrArg GleanSt.waiting hglean :),
    (congrArg GleanSt.finished hglean :), hdbg', hm'⟩

/-- STEP outside HALTED. -/
theorem debugStep_awake (hhalt : s.mode.mode ≠ .halted) :
    ∃ t, exec (.debugStep none) s = .next t ∧ s.onlyChanges [.reply, .out, .dbg, .flash, .ports, .host, .glean, .expo] t
      ∧ t.reply = some { status := stOk, value := 0, words := [], bytes := [] } ∧ t.glean.gleaners = s.glean.gleaners
      ∧ t.glean.waiting = s.glean.waiting ∧ t.glean.finished = s.glean.finished ∧ t.dbg.go = s.dbg.go ∧ t.dbg.held = s.dbg.held := by
  obtain ⟨b, q, n, l, ha⟩ := dbgAttach_eq s.begin
  have hstep : debugStep none s.begin.dbgAttach = (stOk, s.begin.attachedAs b q n l) := by
    rw [ha, debugStep, if_pos (by simp [State.attachedAs, State.begin, hhalt])]
  obtain ⟨t, hexec, honly, hreply, hgl, hwait, hfin, hdbg, -⟩ := debugStep_rests hlock hmode hstep (attachedAs_only _ _ _ _ _)
  exact ⟨t, hexec, honly, hreply, hgl, hwait, hfin, by rw [hdbg]; rfl, by rw [hdbg]; rfl⟩

/-- STEP in HALTED without a working gleaner. -/
theorem debugStep_idle (hhalt : s.mode.mode = .halted) (hnone : s.working = []) :
    ∃ t, exec (.debugStep none) s = .next t ∧ s.onlyChanges [.reply, .out, .dbg, .flash, .ports, .host, .glean, .expo] t
      ∧ t.reply = some { status := stOk, value := 0, words := [], bytes := [] } ∧ t.mode.mode = .halted := by
  obtain ⟨b, q, n, l, ha⟩ := dbgAttach_eq s.begin
  have hworking : (s.begin.attachedAs b q n l).working = [] := hnone
  have hstep : ∃ u, debugStep none s.begin.dbgAttach = (stOk, u) ∧ s.begin.onlyChanges [.dbg, .flash] u := by
    rw [ha]
    generalize hv : s.begin.attachedAs b q n l = v at hworking
    have hv : s.begin.onlyChanges [.dbg, .flash] v := hv ▸ attachedAs_only s.begin b q n l
    unfold debugStep
    split
    · exact ⟨v, rfl, hv⟩
    · dsimp only
      rw [show State.working { v with dbg := { v.dbg with go := v.dbg.go || !v.dbg.held.isEmpty } } = [] from hworking]
      exact ⟨_, rfl, only_step (only_dbg v _) hv⟩
  obtain ⟨u, hstep, honlyu⟩ := hstep
  obtain ⟨t, hexec, honly, hreply, -, -, -, -, hm⟩ := debugStep_rests hlock hmode hstep honlyu
  exact ⟨t, hexec, honly, hreply, by rw [hm, hhalt]⟩

end

end Sys2Proof.Machine
end

section
/-!
STEP in HALTED on a FORWARD job, and the statement about the debug port.
-/
namespace Sys2Proof.Machine

-- one proof at a time: these proofs share the equations of the operations they unfold
set_option Elab.async false

/-! ### The record leaves -/

theorem le_length : ∀ n v : Nat, (le n v).length = n
  | 0, _ => rfl
  | n + 1, v => congrArg (· + 1) (le_length n (v / 256))

/-- A held record's frame is one block of 256 bytes. -/
theorem heldFrame_lineBytes (s : State) (tag : Nat) (r : Rec) : lineBytes (heldFrame s tag r) = 270 := by
  have hflat (l : List Nat) (n : Nat) (f : Nat → List Byte) (hf : ∀ k, (f k).length = n) : (l.flatMap f).length = l.length * n := by
    induction l with
    | nil => simp
    | cons a l ih => rw [List.flatMap_cons, List.length_append, ih, hf, List.length_cons]; ring
  have h16 := hflat (List.range 16) 2 (fun k => le 2 (r.aux.getD k 0)) (fun k => le_length _ _)
  have h48 := hflat (List.range 48) 3 (fun k => le 3 (uns 24 (r.cells.getD k 0))) (fun k => le_length _ _)
  have h3 := hflat (List.range 3) 2 (fun k => le 2 (uns 16 (r.temps.getD k (-32768)))) (fun k => le_length _ _)
  simp only [lineBytes, heldFrame, sweepBytes, Rec.body, List.length_append, h16, h48, h3, le_length, List.length_range, List.length_cons,
    List.length_nil]

/-- A port as a DATA frame joins it. -/
def PortSt.withData (u : PortSt) (x : QFrame) : PortSt := { u with txq := { u.txq with data := u.txq.data ++ [x] } }

theorem port_of_quiet {s : State} {p : Nat} (hquiet : s.quiet = true) (hp : p < s.ports.length) : (s.port p).idle = true := by
  have hmem : s.port p ∈ s.ports := by
    rw [State.port, List.getD_eq_getElem _ _ hp]
    exact List.getElem_mem hp
  have h := List.all_eq_true.mp hquiet _ hmem
  simp only [Bool.and_eq_true] at h
  simp only [PortSt.idle, Bool.and_eq_true]
  exact h.1

theorem sends_of_canSend {u : PortSt} {f : Frame} (h : u.canSend f = true) : u.link = .up := by
  simp only [PortSt.canSend, PortSt.sends, Bool.and_eq_true, decide_eq_true_eq] at h
  exact h.1.1.2

/-- A CLASS 2 frame for a position to which a port leads that is UP. -/
theorem sendTo_data {s : State} {q : Nat} {f : Frame} (hroute : s.route f.dest = .out q) (hcls : f.cls = 2) :
    (s.sendTo f).ports = updAt s.ports q (fun u => if u.link = .lost && u.kid.isSome then { u with held := u.held ++ [{ frame := f, src := none }] }
      else u.withData { frame := f, src := none }) := by
  unfold State.sendTo
  rw [hroute]
  simp [State.enqueue, hcls, PortSt.withData, State.updPort]

/-- The port holds the frame alone, and it may go out. -/
theorem holdsOne_of_sendTo {s : State} {q : Nat} {f : Frame} (hroute : s.route f.dest = .out q) (hcls : f.cls = 2)
    (hmay : (s.port q).canSend f = true) (hq : q < s.ports.length) (hquiet : s.quiet = true) :
    ((s.sendTo f).port q).holdsOne { frame := f, src := none } ∧ ∀ p, p ≠ q → (s.sendTo f).port p = s.port p := by
  have hup := sends_of_canSend hmay
  have hports := sendTo_data hroute hcls
  have hidle := port_of_quiet hquiet hq
  simp only [PortSt.idle, Bool.and_eq_true, List.isEmpty_iff] at hidle
  obtain ⟨⟨⟨hs, hc⟩, hd⟩, hb⟩ := hidle
  constructor
  · have hport : (s.sendTo f).port q = (s.port q).withData { frame := f, src := none } := by
      rw [State.port, hports, updAt_getD_self _ _ _ _ hq, show s.ports.getD q PortSt.reset = s.port q from rfl, if_neg (by simp [hup])]
    rw [hport]
    exact ⟨hs, hc, by simp [PortSt.withData, hd], hb, hmay⟩
  · intro p hp
    rw [State.port, hports, updAt_getD_ne _ _ _ _ _ hp.symm]
    rfl

section
variable {s : State} {g q : Nat} {j : Job} {r : Rec} (hlock : s.ident.debugLock = false) (hcore : s.coreRuns = true) (hstep : s.mayStep g j)
  (hkind : j.kind = .forward) (hfin : s.glean.finished = []) (hkey : s.keyBlocked j = false)
  (hfor : s.glean.forwards = [(j.tag, .record r)]) (hintact : r.intact = true) (hroot : s.isRoot = false)
  (hgrant : s.forwardGranted j.tag = true) (hroute : s.route 0 = .out q) (hq : q < 4) (hports : s.ports.length = 4) (hquiet : s.quiet = true)
include hlock hcore hstep hkind hfin hkey hfor hintact hroot hgrant hroute hq hports hquiet

/-- STEP in HALTED where the one job is a FORWARD job that may leave. -/
theorem debugStep_forwards :
    ∃ t, exec (.debugStep none) s = .next t ∧ s.onlyChanges [.reply, .out, .dbg, .flash, .ports, .host, .glean, .expo] t
      ∧ t.reply = some { status := stOk, value := 0, words := [], bytes := [] } ∧ (s.glean.forwarded g j).readvertised t.glean
      ∧ ∃ n cb, OutEvt.long q n cb (heldFrame s j.tag r) ∈ t.out := by
  obtain ⟨b, a, n, l, ha⟩ := dbgAttach_eq s.begin
  have hmay : (s.port q).canSend (heldFrame s j.tag r) = true := by
    simpa [State.forwardGranted, hfor, State.granted, heldFrame, hroute] using hgrant
  obtain ⟨d, d', hdone⟩ := debugStep_forward (s := s.begin.attachedAs b a n l) hcore
    ⟨hstep.halted, hstep.free, hstep.longest, hstep.deque, hstep.sixteen, hstep.waiting⟩ hkind hfin hkey hfor hintact hroot hgrant
  have hexec := debugStep_next (s := s) hlock (by rw [hstep.halted]; decide) (by rw [ha]; exact hdone)
  obtain ⟨hholds, hothers⟩ := holdsOne_of_sendTo (s := { s.begin.attachedAs b a n l with dbg := d, glean := s.glean.forwarded g j })
    (q := q) (f := heldFrame s j.tag r) hroute rfl hmay (hports ▸ hq) hquiet
  have hidle : ∀ p < 4, p ≠ q → (({ s.begin.attachedAs b a n l with dbg := d, glean := s.glean.forwarded g j } : State).port p).idle = true :=
    fun p hp _ => port_of_quiet hquiet (hports ▸ hp)
  have honly : s.begin.onlyChanges [.dbg, .flash, .glean, .ports]
      (({ s.begin.attachedAs b a n l with dbg := d, glean := s.glean.forwarded g j } : State).sendTo (heldFrame s j.tag r)) :=
    only_step (sendTo_only _ _) (only_step (only_glean { s.begin.attachedAs b a n l with dbg := d } _) (only_step (only_dbg (s.begin.attachedAs b a n l) _)
      (only_one (attachedAs_only s.begin b a n l))))
  have hglean : (({ s.begin.attachedAs b a n l with dbg := d, glean := s.glean.forwarded g j } : State).sendTo (heldFrame s j.tag r)).glean
      = s.glean.forwarded g j := sendTo_only _ _ .glean (by decide)
  have hexec : exec (.debugStep none) s = .next { (State.dioDone { (({ s.begin.attachedAs b a n l with dbg := d, glean := s.glean.forwarded g j } :
      State).sendTo (heldFrame s j.tag r)) with dbg := d' } []).flush with pending := s.pending } := hexec
  have hlen : (({ s.begin.attachedAs b a n l with dbg := d, glean := s.glean.forwarded g j } : State).sendTo (heldFrame s j.tag r)).ports.length
      = 4 := by
    rw [sendTo_data hroute rfl, updAt_length]
    exact hports
  generalize ({ s.begin.attachedAs b a n l with dbg := d, glean := s.glean.forwarded g j } : State) = v at *
  have hidle' : ∀ p < 4, p ≠ q → ((v.sendTo (heldFrame s j.tag r)).port p).idle = true := fun p hp hne => by
    rw [hothers p hne]
    exact hidle p hp hne
  generalize v.sendTo (heldFrame s j.tag r) = u at *
  have hdone' : s.begin.onlyChanges [.reply, .out, .dbg, .flash, .glean, .ports] (State.dioDone { u with dbg := d' } []) :=
    only_step (dioDone_only _ _) (only_step (only_dbg u d') (only_one honly))
  have hports' : (State.dioDone { u with dbg := d' } []).ports = u.ports := rfl
  have hglean' : (State.dioDone { u with dbg := d' } []).glean = u.glean := rfl
  have hreply : (State.dioDone { u with dbg := d' } []).reply = some { status := stOk, value := 0, words := [], bytes := [] } := rfl
  generalize State.dioDone { u with dbg := d' } [] = w at *
  have hport (p : Nat) : w.port p = u.port p := congrArg (fun ps : List PortSt => ps.getD p PortSt.reset) hports'
  obtain ⟨m, cb, hmem⟩ := flush_of_holdsOne (s := w) (x := { frame := heldFrame s j.tag r, src := none }) (hports' ▸ hlen) hq (hport q ▸ hholds)
    (fun p hp hne => hport p ▸ hidle' p hp hne) (by rw [heldFrame_lineBytes]; decide) (by show (7 : Nat) ≠ 9; decide)
  have hre := flush_readvertised w
  rw [hglean', hglean] at hre
  have honly' := nextL_only (ps := [.reply, .out, .dbg, .flash, .ports, .host, .glean, .expo]) (only_one hdone')
  have hreply' := (flush_reply w).trans hreply
  generalize w.flush = z at *
  exact ⟨_, hexec, honly', hreply', hre, m, cb, hmem⟩

end

/-! ### The statement -/

/-- An operation that answers a word and changes the parts ps. -/
theorem dioDone_settles {s t : State} {i : Instr} {ws : List Nat} {ps : List Part} (hexec : exec i s = .next { t.dioDone ws with pending := s.pending })
    (h : s.begin.onlyChanges ps t) (hps : ∀ p ∈ [Part.reply, .out], p ∈ ps := by decide) :
    ∃ u, exec i s = .next u ∧ s.onlyChanges ps u
      ∧ u.reply = some { status := stOk, value := ws.headD 0, words := ws, bytes := [] } ∧ u.out = t.out ++ [.dio (dioBits 1 ws.head?)]
      ∧ u.free = t.free ∧ u.granary = t.granary ∧ u.flash = t.flash ∧ u.wdog = t.wdog ∧ u.ident = t.ident :=
  ⟨_, hexec, next_only (only_step (dioDone_only t ws) h hps) hps, rfl, rfl, rfl, rfl, rfl, rfl, rfl⟩

theorem gget_gwrite_word (m : Mem) (addr v x : Nat) :
    gget (gwrite m addr (le 4 v)) x = (if x = addr then some (BitVec.ofNat 8 v) else if x = addr + 1 then some (BitVec.ofNat 8 (v / 256))
      else if x = addr + 2 then some (BitVec.ofNat 8 (v / 65536))
      else if x = addr + 3 then some (BitVec.ofNat 8 (v / 16777216)) else gget m x) := by
  simp only [le, gwrite, gget_mins, Nat.div_div_eq_div_mul]
  split_ifs <;> first | rfl | omega

/-- A blown DEBUG_LOCK leaves DIO alone, and another CHK is refused with code 8 (16 R421). -/
theorem granaryRead_refused (s : State) (addr chk : Nat) :
    (s.ident.debugLock = true → exec (.granaryRead addr chk) s = .next { s with
        out := [], reply := some { status := stSilent, value := 0, words := [], bytes := [] } })
    ∧ (s.ident.debugLock = false → s.mode.mode ∉ [.ship, .keep, .dormant] → chk ≠ dbgChk 3 addr none →
      exec (.granaryRead addr chk) s = .next { s with out := [.dio [false, false]], dbg := { s.dbg with err := 8 }
                                                      reply := some { status := 8, value := 0, words := [], bytes := [] } }) := by
  have hrun {u : State} (h : dbgOp 3 addr none chk (granaryRead addr) s.begin = u) :
      exec (.granaryRead addr chk) s = .next { u with pending := s.pending } := run_next_eq h
  constructor
  · intro hlock
    rw [hrun rfl, dbgOp, if_pos (by simp [State.dioSilent, State.begin, hlock])]
    rfl
  · intro hlock hmode hchk
    rw [hrun rfl, dbgOp, dioSilent_of_open (s := s.begin) hlock hmode, if_neg Bool.false_ne_true, if_pos (by simpa using hchk)]
    rfl

theorem bank_of_flash_eq {s t : State} (h : t.flash = s.flash) (k : Nat) : t.bank k = s.bank k :=
  bank_of_flash (congrArg FlashSt.bank0 h) (congrArg FlashSt.bank1 h) k

theorem memWf_bank {s : State} (h : s.memWf) (k : Nat) : Memory.wf flashByte (s.bank k) = true := by
  obtain ⟨h0, h1, -, -⟩ := h
  unfold State.bank
  split
  · exact h0
  · exact h1

/-- Two states with the same banks, of which the same is active. -/
def State.sameBanks (s u : State) : Prop :=
  u.flash.bank0 = s.flash.bank0 ∧ u.flash.bank1 = s.flash.bank1 ∧ u.flash.active = s.flash.active

theorem setBank_pageWords (s : State) (b : Nat) (m : Mem) : (s.setBank b m).flash.pageWords = s.flash.pageWords := by
  unfold State.setBank
  split <;> rfl

/-- What a new content of the inactive bank leaves. -/
theorem setBank_of_sameBanks {s u : State} (h : s.sameBanks u) (m : Mem) :
    (u.setBank u.inactive m).bank s.inactive = m ∧ (u.setBank u.inactive m).bank s.flash.active = s.bank s.flash.active
      ∧ u.bank u.inactive = s.bank s.inactive ∧ u.inactive = s.inactive := by
  obtain ⟨h0, h1, hactive⟩ := h
  have hinactive : u.inactive = s.inactive := by rw [State.inactive, hactive, State.inactive]
  have hbank (k : Nat) : u.bank k = s.bank k := by rw [State.bank, h0, h1, State.bank]
  obtain ⟨hnew, hold⟩ := bank_setBank_inactive u m
  rw [hactive, hbank] at hold
  exact ⟨hinactive ▸ hnew, hold, by rw [hinactive, hbank], hinactive⟩

section
variable {s : State} (hlock : s.ident.debugLock = false) (hmode : s.mode.mode ∉ [.ship, .keep, .dormant, .bist])
include hlock hmode

/-- A flash operation of the port, from what its function does in the state with the port attached. -/
theorem flashOp_settles {op addr : Nat} {data : Option Nat} {f : State → Nat × List Nat × State} {P : State → Prop} {ps : List Part}
    {i : Instr} (hi : exec i s = run (dbgOp op addr data (dbgChk op addr data) f) s)
    (hf : ∀ b q n l, ∃ u, f (s.begin.attachedAs b q n l) = (stOk, [], u) ∧ (s.begin.attachedAs b q n l).onlyChanges ps u ∧ P u)
    (hps : ∀ p ∈ ([.reply, .out, .dbg, .flash] : List Part), p ∈ ps := by decide) :
    ∃ t u, exec i s = .next t ∧ s.onlyChanges ps t ∧ t.flash = u.flash ∧ t.wdog = u.wdog ∧ P u := by
  obtain ⟨b, q, n, l, ha⟩ := dbgAttach_eq s.begin
  obtain ⟨u, hfun, honly, hP⟩ := hf b q n l
  have hexec : exec i s = .next { u.dioDone [] with pending := s.pending } := by
    rw [hi]
    exact portOp_done hlock hmode (by rw [ha]; exact hfun)
  have hbegin : s.begin.onlyChanges ps u :=
    only_trans (only_one (attachedAs_only s.begin b q n l) (fun p hp => hps p (by revert p; decide))) honly
  obtain ⟨t, hexec, honly, -, -, -, -, hflash, hwdog, -⟩ :=
    dioDone_settles hexec hbegin (fun p hp => hps p (by revert p; decide))
  exact ⟨t, u, hexec, honly, hflash, hwdog, hP⟩

/-- FLASH_ERASE of a sector of the inactive bank (16 R424). -/
theorem flashErase_settles {addr : Nat} (x : Nat) (hwf : s.memWf) (haddr : addr < 0x200000) (hbank : addr / 2 ^ 20 = s.inactive)
    (hactive : s.flash.active < 2) (hopen : s.flash.commit.isOpen = false) (herases : s.flash.erases = []) :
    ∃ t, exec (.flashErase addr (dbgChk 7 addr none)) s = .next t ∧ s.onlyChanges [.reply, .out, .dbg, .flash, .wdog] t
      ∧ t.wdog.erasing = some s.clk.wall
      ∧ t.bank s.flash.active = s.bank s.flash.active
      ∧ mget flashByte (t.bank s.inactive) x = (if x / 65536 = addr % 2 ^ 20 / 65536 then flashByte
          else mget flashByte (s.bank s.inactive) x) := by
  obtain ⟨t, u, hexec, honly, hflash, hwdog, hat, hact, hin⟩ := flashOp_settles hlock hmode (i := .flashErase addr (dbgChk 7 addr none))
    (P := fun u => u.wdog.erasing = some s.clk.wall ∧ u.bank s.flash.active = s.bank s.flash.active
      ∧ u.bank s.inactive = eraseRange (s.bank s.inactive) (addr % 2 ^ 20 / 65536 * 65536) 65536)
    (ps := [.reply, .out, .dbg, .flash, .wdog]) rfl (fun b q n l => by
      obtain ⟨u, hfun, honly, hat, h0, h1, hactive⟩ := flashErase_sector (s := s.begin.attachedAs b q n l) haddr hbank hactive hopen herases
      obtain ⟨hnew, hold, hsame, -⟩ := setBank_of_sameBanks (s := s) ⟨h0, h1, hactive⟩
        (eraseRange (u.bank u.inactive) (addr % 2 ^ 20 / 65536 * 65536) 65536)
      refine ⟨_, hfun, only_step (setBank_only _ _ _) (only_one honly), ?_, hold, ?_⟩
      · rw [setBank_only u _ _ .wdog (by decide)]
        exact hat
      · rw [hnew, hsame])
  refine ⟨t, hexec, honly, hwdog ▸ hat, (bank_of_flash_eq hflash _).trans hact, ?_⟩
  rw [bank_of_flash_eq hflash, hin]
  split
  · exact mget_eraseRange (by omega) (by omega)
  · exact mget_eraseRange_outside (memWf_bank hwf _) (by omega)

/-- FLASH_PROGRAM of a word that is not the last of its page. -/
theorem flashProgram_settles {addr v : Nat} (haddr : addr < 0x200000) (hbank : addr / 2 ^ 20 = s.inactive)
    (hactive : s.flash.active < 2) (hopen : s.flash.commit.isOpen = false) (halign : addr % 4 = 0) (hlast : addr % 256 ≠ 0xFC)
    (hwords : s.flash.pageWords = []) :
    ∃ t, exec (.flashProgram addr v (dbgChk 6 addr (some v))) s = .next t ∧ s.onlyChanges [.reply, .out, .dbg, .flash] t
      ∧ t.flash.pageWords = [(addr % 256, v)] ∧ t.flash.bank0 = s.flash.bank0 ∧ t.flash.bank1 = s.flash.bank1 := by
  obtain ⟨t, u, hexec, honly, hflash, -, hw, h0, h1⟩ := flashOp_settles hlock hmode (i := .flashProgram addr v (dbgChk 6 addr (some v)))
    (P := fun u => u.flash.pageWords = [(addr % 256, v)] ∧ u.flash.bank0 = s.flash.bank0 ∧ u.flash.bank1 = s.flash.bank1)
    (ps := [.reply, .out, .dbg, .flash]) rfl (fun b q n l => by
      obtain ⟨u, hfun, honly, hw, h0, h1, -⟩ := flashProgram_buffers (s := s.begin.attachedAs b q n l) haddr hbank hactive hopen (v := v) halign hwords
      rw [if_neg hlast] at hfun
      exact ⟨u, hfun, only_one honly, hw, h0, h1⟩)
  exact ⟨t, hexec, honly, hflash ▸ hw, hflash ▸ h0, hflash ▸ h1⟩

/-- FLASH_PROGRAM of the last word of a page. -/
theorem flashProgram_last_settles {addr v : Nat} (x : Nat) (hwf : s.memWf) (haddr : addr < 0x200000) (hbank : addr / 2 ^ 20 = s.inactive)
    (hactive : s.flash.active < 2) (hopen : s.flash.commit.isOpen = false) (hlast : addr % 256 = 0xFC)
    (hwords : s.flash.pageWords = [])
    (herased : mread flashByte (s.bank s.inactive) (addr % 2 ^ 20) 4 = [flashByte, flashByte, flashByte, flashByte]) :
    ∃ t, exec (.flashProgram addr v (dbgChk 6 addr (some v))) s = .next t ∧ s.onlyChanges [.reply, .out, .dbg, .flash] t
      ∧ t.flash.pageWords = [] ∧ t.bank s.flash.active = s.bank s.flash.active
      ∧ mget flashByte (t.bank s.inactive) x = (if addr % 2 ^ 20 ≤ x ∧ x < addr % 2 ^ 20 + 4
          then BitVec.ofNat 8 (v / 256 ^ (x - addr % 2 ^ 20)) else mget flashByte (s.bank s.inactive) x) := by
  obtain ⟨t, u, hexec, honly, hflash, -, hw, hact, hin⟩ := flashOp_settles hlock hmode (i := .flashProgram addr v (dbgChk 6 addr (some v)))
    (P := fun u => u.flash.pageWords = [] ∧ u.bank s.flash.active = s.bank s.flash.active
      ∧ u.bank s.inactive = mwrite flashByte (s.bank s.inactive) (addr % 2 ^ 20) (le 4 v))
    (ps := [.reply, .out, .dbg, .flash]) rfl (fun b q n l => by
      obtain ⟨u, hfun, honly, hw, h0, h1, hact⟩ :=
        flashProgram_buffers (s := s.begin.attachedAs b q n l) haddr hbank hactive hopen (v := v) (by omega) hwords
      have hbanks : u.bank s.inactive = s.bank s.inactive := bank_of_flash (s := s) h0 h1 _
      have hprog := programPage_word (s := u) (r := s.inactive) (o := addr % 2 ^ 20) (v := v) (by rw [State.inactive]; omega) (by omega)
        (by rw [hw, hlast]) (by rw [hbanks]; exact memWf_bank hwf _) (by rw [hbanks]; exact herased)
      obtain ⟨w, hwdef⟩ : ∃ w : State, w = { u with flash := { u.flash with pageWords := [] } } := ⟨_, rfl⟩
      have hsame : s.sameBanks w := by
        rw [hwdef]
        exact ⟨h0, h1, hact⟩
      have honlyw : u.onlyChanges [.flash] w := hwdef ▸ only_flash u _
      obtain ⟨hnew, hold, -, hinactive⟩ := setBank_of_sameBanks hsame (mwrite flashByte (s.bank s.inactive) (addr % 2 ^ 20) (le 4 v))
      rw [if_pos hlast] at hfun
      rw [hbanks, ← hwdef] at hprog
      refine ⟨w.setBank w.inactive (mwrite flashByte (s.bank s.inactive) (addr % 2 ^ 20) (le 4 v)), ?_,
        only_step (setBank_only w _ _) (only_step honlyw (only_one honly)), ?_, hold, hnew⟩
      · rw [hfun, hinactive, ← hprog]
        rfl
      · rw [setBank_pageWords, hwdef])
  refine ⟨t, hexec, honly, hflash ▸ hw, (bank_of_flash_eq hflash _).trans hact, ?_⟩
  rw [bank_of_flash_eq hflash, hin, mget_mwrite _ _ _ _ _ (memWf_bank hwf _), le_length]
  split
  · rw [le_getD _ _ _ (by omega)]
  · rfl

end

/-- Settles O17: each operation through what the port's frame adds to it, STEP by the one job it runs. -/
theorem debugPortOperations : Obligations.DebugPortOperations := by
  unfold Obligations.DebugPortOperations
  refine ⟨fun s addr chk a b c d => ?_, fun s addr v x hlock hmode hwf => ?_, fun s k addr g q b j r hlock => ?_⟩
  · obtain ⟨hsilent, hrefused⟩ := granaryRead_refused s addr chk
    refine ⟨hsilent, hrefused, fun hlock hmode hsil => ?_, fun hwear hlock hmode haddr halign => ?_,
      fun hlock hmode haddr halign h0 h1 h2 h3 => ?_, fun hlock hmode haddr halign h0 hused => ?_,
      fun hlock hmode haddr halign hused h0 h1 h2 h3 => ?_⟩
    · obtain ⟨t, hexec, honly, hout⟩ := idcode_done hlock hmode addr
      obtain ⟨u, hexec, honly, hreply, hdio, -⟩ := dioDone_settles hexec (ps := [.reply, .out, .dbg, .flash]) (only_one honly)
      have hword : 0x4800 + put s.ident.silicon 16 8 + put 1 24 8 = 0x4800 + s.ident.silicon * 65536 + 16777216 := by
        simp only [put]
        omega
      rw [hword] at hreply hdio
      rw [hout] at hdio
      exact ⟨u, hexec, honly, hreply, hdio⟩
    · obtain ⟨t, hexec, honly⟩ := flashRead_bank hlock hmode hwear haddr halign
      obtain ⟨u, hexec, honly, hreply, -⟩ := dioDone_settles hexec (ps := [.reply, .out, .dbg, .flash]) (only_one honly)
      exact ⟨u, hexec, honly, hreply⟩
    · obtain ⟨t, hexec, honly, hout⟩ := granaryRead_written hlock hmode haddr halign h0 h1 h2 h3
      obtain ⟨u, hexec, honly, hreply, hdio, -⟩ := dioDone_settles hexec (ps := [.reply, .out, .dbg, .flash]) (only_one honly)
      rw [hout] at hdio
      exact ⟨u, hexec, honly, hreply, hdio⟩
    · obtain ⟨t, hexec, honly, hfree⟩ := granaryRead_free hlock hmode haddr halign h0 hused
      obtain ⟨u, hexec, honly, hreply, -, hf, -⟩ := dioDone_settles hexec (ps := [.reply, .out, .dbg, .flash, .free]) (only_one honly)
      exact ⟨u, hexec, honly, hf.trans hfree, hreply⟩
    · obtain ⟨t, hexec, honly⟩ := granaryRead_clear hlock hmode haddr halign hused h0 h1 h2 h3
      obtain ⟨u, hexec, honly, hreply, -⟩ := dioDone_settles hexec (ps := [.reply, .out, .dbg, .flash]) (only_one honly)
      exact ⟨u, hexec, honly, hreply⟩
  · refine ⟨fun haddr halign => ?_, fun haddr hbank hactive hopen herases => ?_, fun haddr hbank hactive hopen halign hlast _ hwords => ?_,
      fun haddr hbank hactive hopen hlast hwords herased => ?_, fun hv => ?_⟩
    · obtain ⟨t, hexec, honly, hgranary⟩ := granaryWrite_done hlock hmode v haddr halign
      obtain ⟨u, hexec, honly, -, -, -, hg, -⟩ := dioDone_settles hexec (ps := [.reply, .out, .dbg, .flash, .granary]) (only_one honly)
      exact ⟨u, hexec, honly, by rw [hg, hgranary, gget_gwrite_word]⟩
    · exact flashErase_settles hlock hmode x hwf haddr hbank hactive hopen herases
    · exact flashProgram_settles hlock hmode haddr hbank hactive hopen halign hlast hwords
    · exact flashProgram_last_settles hlock hmode x hwf haddr hbank hactive hopen hlast hwords herased
    · obtain ⟨t, hexec, honly, hident⟩ := fuse_done hlock hmode addr hv
      obtain ⟨u, hexec, honly, -, -, -, -, -, -, hid⟩ := dioDone_settles hexec (ps := [.reply, .out, .dbg, .flash, .ident]) (only_one honly)
      exact ⟨u, hexec, honly, hid.trans hident⟩
  · refine ⟨fun hmode hcommit hdue => debugHalt_done hlock hmode hcommit hdue, fun hmode hprior => debugResume_done hlock hmode hprior,
      fun hmode => ?_,
      fun hcore hmode hfree hlongest hdeque hkind hlen hfin hwait hkey hfor hintact hroot hgrant hroute hq hports hquiet => ?_,
      fun hmode hnone => debugStep_idle hlock (by rw [hmode]; decide) hmode hnone, fun hmode => debugReset_done hlock hmode,
      fun hcore hmode hcommit hdue hbrk hen htyp hwo hval _ => breakpointHit_done hcore hmode hcommit hdue hbrk hen htyp hwo hval⟩
    · have hhalt : s.mode.mode ≠ .halted := fun h => hmode (by rw [h]; decide)
      have hrest : s.mode.mode ∉ [Mode.ship, .keep, .dormant, .bist] := fun h => hmode (List.mem_cons_of_mem _ h)
      exact debugStep_awake hlock hrest hhalt
    · have hstep : s.mayStep g j := ⟨hmode, hfree, hlongest, hdeque, hlen, hwait⟩
      obtain ⟨hg, -, -⟩ := mayStep_gleaner hstep
      obtain ⟨t, hexec, honly, hreply, ⟨adv, hglean⟩, n, cb, hmem⟩ := debugStep_forwards hlock hcore hstep hkind hfin hkey hfor hintact hroot
        hgrant hroute hq hports hquiet
      have hgl (y : Nat) : t.gleaner y = (ranOne s.glean.gleaners g j).getD y { running := none, deque := [], scratch := [] } := by
        rw [State.gleaner, hglean]
        rfl
      obtain ⟨hrun, hempty⟩ := ranOne_gleaner_self (j := j) { running := none, deque := [], scratch := [] } (hlen ▸ hg : g < _) hdeque
      refine ⟨t, hexec, honly, hreply, by rw [hgl, hrun], by rw [hgl, hempty], by rw [hglean]; rfl, by rw [hglean]; rfl,
        by rw [hglean]; exact hwait, fun y _ hy => ?_, ?_⟩
      · rw [hgl, ranOne_gleaner_ne _ hy]
        rfl
      · rw [List.any_eq_true]
        exact ⟨_, hmem, by simp⟩

end Sys2Proof.Machine
end

section
/-!
A request asked of a device without a host of its own (09 R261, 17): the device carries it out for its own part, and what it answers.
-/
namespace Sys2Proof.Machine

-- one proof at a time: these proofs share the equations of the operations they unfold
set_option Elab.async false

theorem awake_of_openMode {s : State} (h : s.openMode = true) : s.awake = true ∧ s.mode.mode ≠ .lockout := by
  revert h
  unfold State.openMode State.awake State.inMode
  cases s.mode.mode <;> decide

/-- A device that answers and has no host carries out a request that no comparator can hold. -/
theorem request_of_device {s : State} {h : Hdr} {r : Req} (hreach : s.reachable = true) (hhost : s.hasHost = false)
    (hargs : argsOk r = true) (hvalid : reqValid r = true) (hfree : accesses r = []) :
    s.request h r = s.actNow none 0 s.tree.pos 0 none r := by
  unfold State.request State.act
  rw [hreach, hhost, hargs, hvalid, hfree]
  rfl

theorem payCredits_none (s : State) : s.payCredits none = s := rfl

/-- Outside LOCKOUT no request is refused for the mode alone. -/
theorem not_lockoutRefuses {s : State} {r : Req} (h : s.mode.mode ≠ .lockout) :
    ¬ ((s.mode.mode = .lockout && !lockoutTakes r) = true) := by
  simp [h]

theorem settleShip_of_none {s : State} (h : s.mode.shipDue = false) : s.settleShip = s := by
  unfold State.settleShip
  exact if_neg (by rw [h]; decide)

/-- A command that leaves no SHIP request due. -/
theorem runS_next {f : State → State} {s u : State} (hf : f s.begin = u) (hship : u.mode.shipDue = false) :
    runS f s = .next { u.flush with pending := s.pending } := by
  have hnone : u.flush.mode.shipDue = false := by rw [flush_mode, hship]
  unfold runS
  refine run_next_eq (f := fun v => (f v).flush.settleShip) ?_
  rw [hf]
  exact settleShip_of_none hnone

/-- What an answer that flushes the ports leaves of the state that the effect gave. -/
def flushParts : List Part := [.pending, .ports, .glean, .out, .host, .expo]

theorem pending_only (s : State) (l : List Instr) : s.onlyChanges [.pending] { s with pending := l } := fun p hp => by
  cases p <;> first | rfl | exact absurd (by decide) hp

/-- The answer of a command that flushes the ports, by the state u of its effect. -/
theorem nextL_settles {i : Instr} {s u : State} {ps : List Part} (hexec : exec i s = .next { u.flush with pending := s.pending })
    (h : s.begin.onlyChanges ps u) (hq : ∀ p ∈ [Part.reply, .out, .ports, .host, .glean, .expo], p ∈ ps := by decide) :
    ∃ t, exec i s = .next t ∧ s.onlyChanges ps t ∧ u.onlyChanges flushParts t :=
  ⟨_, hexec, nextL_only h hq, only_step (pending_only _ _) (only_one (flush_only u))⟩

/-! ### Erases of the data flash -/

theorem eraseBegins_eq (s : State) (k : Erase) : ∃ l e, s.eraseBegins k =
    { s with flash := { s.flash with erases := l }, wdog := { s.wdog with erasing := e } } := by
  unfold State.eraseBegins
  dsimp only
  split
  · exact ⟨_, _, rfl⟩
  · exact ⟨_, s.wdog.erasing, rfl⟩

theorem eraseAll_eq (l : List Erase) (s : State) : ∃ m e, l.foldl State.eraseBegins s =
    { s with flash := { s.flash with erases := m }, wdog := { s.wdog with erasing := e } } := by
  induction l generalizing s with
  | nil => exact ⟨s.flash.erases, s.wdog.erasing, rfl⟩
  | cons k l ih =>
    obtain ⟨m, e, hk⟩ := eraseBegins_eq s k
    obtain ⟨m', e', hl⟩ := ih (s.eraseBegins k)
    exact ⟨m', e', by rw [List.foldl_cons, hl, hk]⟩

/-- A write of the partition's area keeps what stands in it, and erases its older copy first. -/
theorem writeNv_eq (s : State) (nv : SafNv) : ∃ n m e, s.writeNv nv =
    { s with safety := { s.safety with nv := n }, flash := { s.flash with erases := m }, wdog := { s.wdog with erasing := e } } := by
  unfold State.writeNv
  split
  · exact ⟨s.safety.nv, s.flash.erases, s.wdog.erasing, rfl⟩
  · obtain ⟨m, e, h⟩ := eraseAll_eq (List.replicate 5 Erase.data) (s.updSafety (fun f => { f with nv := { nv with writes := nv.writes + 1 } }))
    exact ⟨_, m, e, h⟩

theorem mirror_eq (s : State) : ∃ n m e, s.mirror =
    { s with safety := { s.safety with nv := n }, flash := { s.flash with erases := m }, wdog := { s.wdog with erasing := e } } :=
  writeNv_eq s _

theorem mirror_only (s : State) : s.onlyChanges [.safety, .flash, .wdog] s.mirror := by
  obtain ⟨n, m, e, h⟩ := mirror_eq s
  rw [h]
  intro p hp
  cases p <;> first | rfl | exact absurd (by decide) hp

theorem updSafety_only (s : State) (f : SafetySt → SafetySt) : s.onlyChanges [.safety] (s.updSafety f) := only_safety s _

end Sys2Proof.Machine
end

section
/-!
SAFETY_SESSION OPEN (10 R286–R288): the session with the passcode, the counted failure without it, and the lock at the fifth.
-/
namespace Sys2Proof.Machine

-- one proof at a time: these proofs share the equations of the operations they unfold
set_option Elab.async false

/-- The parts of the partition, and of the erases of its area. -/
def sessionParts : List Part := [.reply, .free, .safety, .flash, .wdog]

/-- The flash and the watchdog are as they were but for the erases. -/
def State.erasesOnly (s u : State) : Prop :=
  u.flash = { s.flash with erases := u.flash.erases } ∧ u.wdog = { s.wdog with erasing := u.wdog.erasing }

theorem authFail_only (s : State) (k o : Nat) : s.onlyChanges [.safety, .flash, .wdog] (s.authFail k o) := by
  have hparish : s.onlyChanges [.safety, .flash, .wdog] (s.parish 5 0 0 0 0 k o none) := only_one (parish_only _ _ _ _ _ _ _ _ _)
  exact only_ite (only_step (mirror_only _) (only_step (updSafety_only _ _) hparish))
    (only_step (mirror_only _) (only_step (updSafety_only _ _) (only_step (parish_only _ _ _ _ _ _ _ _ _) hparish)))

/-- An authentication failure before the fifth. -/
theorem authFail_counts {s : State} (k o : Nat) (hfails : s.safety.fails < 4) :
    s.erasesOnly (s.authFail k o) ∧ (s.authFail k o).safety.session = s.safety.session
      ∧ (s.authFail k o).safety.fails = s.safety.fails + 1 ∧ (s.authFail k o).safety.lockEnd = s.safety.lockEnd
      ∧ (s.authFail k o).safety.parishQ.length = s.safety.parishQ.length + 1 := by
  obtain ⟨n, m, e, hmirror⟩ := mirror_eq ((s.parish 5 0 0 0 0 k o none).updSafety (fun f => { f with fails := f.fails + 1 }))
  rw [State.authFail]
  dsimp only
  rw [if_pos (show (s.parish 5 0 0 0 0 k o none).safety.fails < 4 from hfails), hmirror]
  exact ⟨⟨rfl, rfl⟩, rfl, rfl, rfl, List.length_append⟩

/-- The fifth authentication failure. -/
theorem authFail_locks {s : State} (k o : Nat) (hfails : s.safety.fails = 4) :
    s.erasesOnly (s.authFail k o) ∧ (s.authFail k o).safety.lockEnd = some (s.clk.rtc + 10 * 2 ^ s.safety.level * 60 * 32768)
      ∧ (s.authFail k o).safety.fails = 0 ∧ (s.authFail k o).safety.parishQ.length = s.safety.parishQ.length + 2 := by
  rw [State.authFail]
  dsimp only
  have hfive : ¬ (s.parish 5 0 0 0 0 k o none).safety.fails < 4 := by
    rw [show (s.parish 5 0 0 0 0 k o none).safety.fails = s.safety.fails from rfl, hfails]
    decide
  have hminutes : (s.parish 5 0 0 0 0 k o none).lockMinutes = 10 * 2 ^ s.safety.level := rfl
  rw [if_neg hfive, hminutes]
  generalize 10 * 2 ^ s.safety.level = minutes
  obtain ⟨n, m, e, hmirror⟩ := mirror_eq (((s.parish 5 0 0 0 0 k o none).parish 6 0 0 0 minutes k o none).updSafety (fun f => { f with
    fails := 0, level := sat 7 (f.level + 1)
    lockEnd := some (((s.parish 5 0 0 0 0 k o none).parish 6 0 0 0 minutes k o none).clk.rtc + minutes * 60 * 32768) }))
  rw [hmirror]
  refine ⟨⟨rfl, rfl⟩, rfl, rfl, ?_⟩
  show ((s.safety.parishQ ++ _) ++ _).length = _
  rw [List.length_append, List.length_append]
  rfl

section
variable {s : State} (hlock : s.safety.lockEnd = none) (hsession : s.safety.session = none) (hmode : s.openMode = true)
include hlock hsession hmode

theorem sessionOpen_asks : ¬ ((s.locked || s.safety.session.isSome || !s.openMode) = true) := by
  simp [State.locked, hlock, hsession, hmode]

/-- An OPEN with the passcode. -/
theorem sessionOpen_opens {p : Nat} (o : Nat) (hdigest : digestOf s.ident.uid p = s.safety.digest) :
    ∃ u, s.sessionOpen none p o = u ∧ s.onlyChanges sessionParts u ∧ s.erasesOnly u
      ∧ u.safety.session = some (s.fresh % (2 ^ 32 - 1) + 1) ∧ u.safety.fails = 0 ∧ u.safety.level = 0 ∧ u.safety.staged = []
      ∧ u.free = s.free + 1 ∧ u.safety.block = s.safety.block ∧ u.safety.parishQ.length = s.safety.parishQ.length + 1
      ∧ u.reply = some { status := stOk, value := s.fresh % (2 ^ 32 - 1) + 1, words := [], bytes := [] } := by
  obtain ⟨n, m, e, hmirror⟩ := mirror_eq (s.took.updSafety (fun f => { f with
    fails := 0, level := 0, session := some (s.fresh % (2 ^ 32 - 1) + 1), origin := o, staged := [], lastWrite := s.wall }))
  refine ⟨_, rfl, ?_⟩
  rw [State.sessionOpen, if_neg (sessionOpen_asks hlock hsession hmode), if_neg (by simp [hdigest])]
  dsimp only
  rw [respond_none]
  refine ⟨only_step (answer_only _ _ _ _ _) (only_step (parish_only _ _ _ _ _ _ _ _ _) (only_step (mirror_only _)
    (only_step (updSafety_only _ _) (only_one (took_only s))))), ?_⟩
  rw [hmirror]
  exact ⟨⟨rfl, rfl⟩, rfl, rfl, rfl, rfl, rfl, rfl, List.length_append, rfl⟩

/-- An OPEN with another passcode. -/
theorem sessionOpen_fails {p : Nat} (hdigest : digestOf s.ident.uid p ≠ s.safety.digest) (o : Nat) :
    s.sessionOpen none p o = (s.authFail 0 o).answer stDenied 0 := by
  rw [State.sessionOpen, if_neg (sessionOpen_asks hlock hsession hmode), if_pos (by simpa using hdigest), respond_none]

end

theorem actNow_sessionOpen {s : State} (h : s.mode.mode ≠ .lockout) (p src pos depth : Nat) :
    s.actNow none src pos depth none (.sessionOpen p) = s.sessionOpen none p src := by
  unfold State.actNow
  rw [if_neg (not_lockoutRefuses h), payCredits_none]

/-- OPEN asked of a device without a host, by the state u of its effect. -/
theorem safetySessionOpen_next {s u : State} {h : Hdr} {p : Nat} {ps qs : List Part} (hhost : s.hasHost = false)
    (hship : s.mode.shipDue = false) (hcore : s.coreRuns = true) (hopen : s.openMode = true)
    (hu : s.begin.sessionOpen none p 0 = u) (honly : s.begin.onlyChanges ps u)
    (hmode : Part.mode ∉ ps := by decide) (hps : ∀ q ∈ ps, q ∈ qs := by decide)
    (hq : ∀ q ∈ [Part.reply, .out, .ports, .host, .glean, .expo], q ∈ qs := by decide) :
    ∃ t, exec (.safetySessionOpen h p) s = .next t ∧ s.onlyChanges qs t ∧ u.onlyChanges flushParts t := by
  obtain ⟨hawake, hlockout⟩ := awake_of_openMode (s := s.begin) hopen
  have hreach : s.begin.reachable = true := Bool.and_eq_true_iff.mpr ⟨hawake, hcore⟩
  have hact : s.begin.request h (.sessionOpen p) = s.begin.sessionOpen none p 0 := by
    rw [request_of_device hreach hhost rfl rfl rfl, actNow_sessionOpen hlockout]
  have hmodeu : u.mode = s.begin.mode := honly .mode hmode
  exact nextL_settles (runS_next (f := fun v => v.request h (.sessionOpen p)) (hact.trans hu) (by rw [hmodeu]; exact hship))
    (only_one honly hps) hq

theorem erasesOnly_of_flush {s u t : State} (h : s.erasesOnly u) (k : u.onlyChanges flushParts t) : s.erasesOnly t := by
  unfold State.erasesOnly
  rw [k .flash (by decide), k .wdog (by decide)]
  exact h

theorem denied_only (s : State) : s.onlyChanges [.reply, .safety, .flash, .wdog] ((s.authFail 0 0).answer stDenied 0) :=
  only_step (answer_only _ _ _ _ _) (only_one (authFail_only s 0 0))

/-- Settles O18: OPEN asked of a device without a host. -/
theorem safetySessionOpens : Obligations.SafetySessionOpens := by
  unfold Obligations.SafetySessionOpens
  intro s h p hhost hship hcore hmode hlock hsession
  have hopen : s.openMode = true := List.contains_iff_mem.mpr hmode
  refine ⟨fun hdigest => ?_, fun hdigest hfails => ?_, fun hdigest hfails => ?_⟩
  · obtain ⟨u, hu, honly, herases, hid, hf, hl, hst, hfree, hblock, hq, hreply⟩ :=
      sessionOpen_opens (s := s.begin) hlock hsession hopen 0 hdigest
    obtain ⟨t, hexec, hchanges, hkept⟩ := safetySessionOpen_next (h := h)
      (qs := [.reply, .out, .safety, .free, .flash, .wdog, .ports, .host, .glean, .expo]) hhost hship hcore hopen hu honly
    obtain ⟨hflash, hwdog⟩ := erasesOnly_of_flush herases hkept
    have hsafety := hkept .safety (by decide)
    refine ⟨t, hexec, hchanges, hflash, hwdog, ?_⟩
    rw [hsafety, hkept .free (by decide), hkept .reply (by decide)]
    exact ⟨hid, hf, hl, hst, hfree, hblock, hq, hreply⟩
  · obtain ⟨herases, hs, hf, hl, hq⟩ := authFail_counts (s := s.begin) 0 0 hfails
    obtain ⟨t, hexec, hchanges, hkept⟩ := safetySessionOpen_next (h := h)
      (qs := [.reply, .out, .safety, .flash, .wdog, .ports, .host, .glean, .expo]) hhost hship hcore hopen
      (sessionOpen_fails (s := s.begin) hlock hsession hopen hdigest 0) (denied_only s.begin)
    have hsafety := hkept .safety (by decide)
    obtain ⟨hflash, hwdog⟩ := erasesOnly_of_flush (s := s.begin) (u := (s.begin.authFail 0 0).answer stDenied 0) herases hkept
    refine ⟨t, hexec, hchanges, hflash, hwdog, ?_⟩
    rw [hsafety, hkept .reply (by decide)]
    exact ⟨hs.trans hsession, hf, hl.trans hlock, hq, rfl⟩
  · obtain ⟨herases, hl, hf, hq⟩ := authFail_locks (s := s.begin) 0 0 hfails
    obtain ⟨t, hexec, hchanges, hkept⟩ := safetySessionOpen_next (h := h)
      (qs := [.reply, .out, .safety, .flash, .wdog, .ports, .host, .glean, .expo]) hhost hship hcore hopen
      (sessionOpen_fails (s := s.begin) hlock hsession hopen hdigest 0) (denied_only s.begin)
    have hsafety := hkept .safety (by decide)
    obtain ⟨hflash, hwdog⟩ := erasesOnly_of_flush (s := s.begin) (u := (s.begin.authFail 0 0).answer stDenied 0) herases hkept
    refine ⟨t, hexec, hchanges, hflash, hwdog, ?_⟩
    rw [hsafety]
    exact ⟨hl, hf, hq⟩

end Sys2Proof.Machine
end

section
/-!
A demand on an energised output (10 R297, R298, R300): what a trip leaves of the outputs, the inputs and the ledger's queue.
-/
namespace Sys2Proof.Machine

-- one proof at a time: these proofs share the equations of the operations they unfold
set_option Elab.async false

/-! ### The two outputs and the two inputs -/

theorem updOut_outp_self (s : State) (x : Nat) (f : OutputSt → OutputSt) : (s.updOut x f).outp x = f (s.outp x) := by
  unfold State.updOut State.outp
  split <;> rfl

theorem updOut_outp_ne (s : State) {x k : Nat} (f : OutputSt → OutputSt) (h : (x = 1) ≠ (k = 1)) : (s.updOut x f).outp k = s.outp k := by
  unfold State.updOut State.outp
  by_cases hx : x = 1
  · have hk : ¬ k = 1 := fun hk => h (by rw [hx, hk])
    rw [if_pos hx, if_neg hk, if_neg hk]
  · have hk : k = 1 := by
      by_contra hk
      exact h (by simp [hx, hk])
    rw [if_neg hx, if_pos hk, if_pos hk]

theorem updInp_inp_self (s : State) (i : Nat) (f : InputSt → InputSt) : (s.updInp i f).inp i = f (s.inp i) := by
  unfold State.updInp State.inp
  split <;> rfl

theorem updInp_inp_ne (s : State) {i k : Nat} (f : InputSt → InputSt) (h : (i = 1) ≠ (k = 1)) : (s.updInp i f).inp k = s.inp k := by
  unfold State.updInp State.inp
  by_cases hi : i = 1
  · have hk : ¬ k = 1 := fun hk => h (by rw [hi, hk])
    rw [if_pos hi, if_neg hk, if_neg hk]
  · have hk : k = 1 := by
      by_contra hk
      exact h (by simp [hi, hk])
    rw [if_neg hi, if_pos hk, if_pos hk]

/-- Of two numbers from 1 to 2 one alone is 1. -/
theorem one_ne_of_ne {x k : Nat} (hx : x = 1 ∨ x = 2) (hk : k = 1 ∨ k = 2) (h : x ≠ k) : (x = 1) ≠ (k = 1) := by
  intro he
  rcases hx with rfl | rfl <;> rcases hk with rfl | rfl <;> simp_all

/-! ### One trip -/

/-- The ledger entry of a trip. -/
def State.tripEntry (s : State) (x cause data : Nat) : LedgerEntry :=
  { seq := s.flash.nextSeq, code := 9, mode := s.mode.mode.code, rtc := s.clk.rtc / 32768, time := s.clk.tt, item := cause + 16 * x
    data := data, cont := none, torn := [] }

/-- An output that a demand has opened. -/
def OutputSt.opened (o : OutputSt) (cause pos item wall : Nat) : OutputSt :=
  { o with on := false, tripped := true, cause := cause, tpos := pos, titem := item, pulse := none, tripAt := some wall }

/-- With room for one slot an entry joins the queue. -/
theorem ledger_queue (s : State) (x cause data : Nat) (hroom : slotsOf s.flash.queue < 16) :
    (s.ledger 9 (cause + 16 * x) data).flash.queue = s.flash.queue ++ [s.tripEntry x cause data] := by
  have hfits : slotsOf s.flash.queue + (s.tripEntry x cause data).slots ≤ 16 := hroom
  unfold State.ledger State.ledgerAt
  exact (congrArg (fun u : State => u.flash.queue) (if_pos hfits) :)

theorem ledger_safety (s : State) (c i d : Nat) : (s.ledger c i d).safety = s.safety := ledger_only _ _ _ _ .safety (by decide)

section
variable (s : State) (x cause pos item : Nat)

theorem trip_of_off (h : (s.outp x).on = false) : s.trip x cause pos item = s := by
  unfold State.trip
  rw [h]
  rfl

theorem trip_safety (h : (s.outp x).on = true) :
    (s.trip x cause pos item).safety = (s.updOut x (fun o => o.opened cause pos item s.clk.wall)).safety := by
  unfold State.trip State.tripNow
  rw [if_pos h]
  exact ledger_safety _ _ _ _

theorem outp_of_safety {s t : State} (h : t.safety = s.safety) (x : Nat) : t.outp x = s.outp x := by
  unfold State.outp
  rw [h]

theorem inp_of_safety {s t : State} (h : t.safety = s.safety) (i : Nat) : t.inp i = s.inp i := by
  unfold State.inp
  rw [h]

theorem trip_outp_self (h : (s.outp x).on = true) : (s.trip x cause pos item).outp x = (s.outp x).opened cause pos item s.clk.wall := by
  rw [outp_of_safety (trip_safety s x cause pos item h), updOut_outp_self]

theorem trip_outp_ne {k : Nat} (h : (x = 1) ≠ (k = 1)) : (s.trip x cause pos item).outp k = s.outp k := by
  by_cases hon : (s.outp x).on = true
  · rw [outp_of_safety (trip_safety s x cause pos item hon), updOut_outp_ne _ _ h]
  · rw [trip_of_off s x cause pos item (Bool.eq_false_iff.mpr hon)]

theorem updOut_kept (f : OutputSt → OutputSt) : (s.updOut x f).safety.block = s.safety.block ∧ ∀ i, (s.updOut x f).inp i = s.inp i := by
  unfold State.updOut State.inp
  split <;> exact ⟨rfl, fun _ => rfl⟩

theorem trip_kept : (s.trip x cause pos item).safety.block = s.safety.block ∧ ∀ i, (s.trip x cause pos item).inp i = s.inp i := by
  by_cases hon : (s.outp x).on = true
  · have hsafety := trip_safety s x cause pos item hon
    obtain ⟨hblock, hinp⟩ := updOut_kept s x (fun o => o.opened cause pos item s.clk.wall)
    exact ⟨by rw [hsafety, hblock], fun i => by rw [inp_of_safety hsafety, hinp]⟩
  · rw [trip_of_off s x cause pos item (Bool.eq_false_iff.mpr hon)]
    exact ⟨rfl, fun _ => rfl⟩

theorem slotsOf_trip (l : List LedgerEntry) (data : Nat) : slotsOf (l ++ [s.tripEntry x cause data]) = slotsOf l + 1 :=
  slotsOf_append l _

theorem trip_of_on (h : (s.outp x).on = true) :
    s.trip x cause pos item = (s.updOut x (fun o => o.opened cause pos item s.clk.wall)).ledger 9 (cause + 16 * x) (pos + put item 24 7) :=
  if_pos h

/-- With room for one slot the trip's entry joins the queue. -/
theorem trip_queue (h : (s.outp x).on = true) (hroom : slotsOf s.flash.queue < 16) :
    (s.trip x cause pos item).flash.queue = s.flash.queue ++ [s.tripEntry x cause (pos + put item 24 7)] := by
  have hupd := updOut_only s x (fun o => o.opened cause pos item s.clk.wall)
  have hentry : (s.updOut x (fun o => o.opened cause pos item s.clk.wall)).tripEntry x cause (pos + put item 24 7)
      = s.tripEntry x cause (pos + put item 24 7) := by
    unfold State.tripEntry
    rw [hupd .flash (by decide), hupd .mode (by decide), hupd .clk (by decide)]
  have hqueue : (s.updOut x (fun o => o.opened cause pos item s.clk.wall)).flash.queue = s.flash.queue :=
    congrArg FlashSt.queue (hupd .flash (by decide))
  rw [trip_of_on s x cause pos item h, ledger_queue _ x cause _ (by rw [hqueue]; exact hroom), hqueue, hentry]

end

/-! ### A trip under a condition -/

/-- The demand on one output, where condition c holds for it. -/
def State.tripIf (s : State) (c : Bool) (x cause pos item : Nat) : State := if c then s.trip x cause pos item else s

section
variable (s : State) (c : Bool) (x cause pos item : Nat)

theorem tripIf_only : s.onlyChanges [.safety, .flash] (s.tripIf c x cause pos item) := only_ite (trip_only s _ _ _ _) (only_refl _ s)

theorem tripIf_kept : (s.tripIf c x cause pos item).safety.block = s.safety.block ∧ ∀ i, (s.tripIf c x cause pos item).inp i = s.inp i := by
  unfold State.tripIf
  split
  · exact trip_kept s x cause pos item
  · exact ⟨rfl, fun _ => rfl⟩

theorem tripIf_outp_ne {k : Nat} (h : (x = 1) ≠ (k = 1)) : (s.tripIf c x cause pos item).outp k = s.outp k := by
  unfold State.tripIf
  split
  · exact trip_outp_ne s x cause pos item h
  · rfl

/-- With room for one slot the queue keeps what it holds and takes at most one slot. -/
theorem tripIf_queue (hroom : slotsOf s.flash.queue < 16) :
    (∀ e ∈ s.flash.queue, e ∈ (s.tripIf c x cause pos item).flash.queue)
    ∧ slotsOf (s.tripIf c x cause pos item).flash.queue ≤ slotsOf s.flash.queue + 1 := by
  unfold State.tripIf
  split
  · by_cases hon : (s.outp x).on = true
    · rw [trip_queue s x cause pos item hon hroom, slotsOf_trip]
      exact ⟨fun e he => List.mem_append_left _ he, le_refl _⟩
    · rw [trip_of_off s x cause pos item (Bool.eq_false_iff.mpr hon)]
      exact ⟨fun e he => he, Nat.le_succ _⟩
  · exact ⟨fun e he => he, Nat.le_succ _⟩

end

/-! ### Both outputs -/

/-- The demand on both outputs, each under its condition. -/
def State.tripBoth (s : State) (c : Nat → Bool) (cause pos item : Nat) : State := (s.tripIf (c 1) 1 cause pos item).tripIf (c 2) 2 cause pos item

/-- A queue holds the entry of a trip (16 Table 16.8). -/
def LedgerEntry.isTrip (e : LedgerEntry) (x cause data tt mode : Nat) : Bool :=
  e.code == 9 && e.item == cause + 16 * x && e.data == data && e.time == tt && e.mode == mode

section
variable (s : State) (c : Nat → Bool) (cause pos item : Nat)

theorem tripBoth_only : s.onlyChanges [.safety, .flash] (s.tripBoth c cause pos item) :=
  only_step (tripIf_only _ _ _ _ _ _) (tripIf_only s _ _ _ _ _)

theorem tripBoth_kept : (s.tripBoth c cause pos item).safety.block = s.safety.block ∧ ∀ i, (s.tripBoth c cause pos item).inp i = s.inp i := by
  obtain ⟨h1, h1'⟩ := tripIf_kept s (c 1) 1 cause pos item
  obtain ⟨h2, h2'⟩ := tripIf_kept (s.tripIf (c 1) 1 cause pos item) (c 2) 2 cause pos item
  exact ⟨h2.trans h1, fun i => (h2' i).trans (h1' i)⟩

/-- An energised output whose condition holds is opened. -/
theorem tripBoth_outp {x : Nat} (hx : x = 1 ∨ x = 2) (hc : c x = true) (hon : (s.outp x).on = true) :
    (s.tripBoth c cause pos item).outp x = (s.outp x).opened cause pos item s.clk.wall := by
  rcases hx with rfl | rfl
  · unfold State.tripBoth
    rw [tripIf_outp_ne _ _ _ _ _ _ (by decide), State.tripIf, if_pos hc, trip_outp_self _ _ _ _ _ hon]
  · have hother := tripIf_outp_ne s (c 1) 1 cause pos item (k := 2) (by decide)
    have hclk : (s.tripIf (c 1) 1 cause pos item).clk = s.clk := tripIf_only s _ _ _ _ _ .clk (by decide)
    unfold State.tripBoth
    rw [State.tripIf, if_pos hc, trip_outp_self _ _ _ _ _ (by rw [hother]; exact hon), hother, hclk]

/-- With room for both entries the queue then holds the trip of each opened output. -/
theorem tripBoth_entry {x : Nat} (hx : x = 1 ∨ x = 2) (hc : c x = true) (hon : (s.outp x).on = true) (hroom : slotsOf s.flash.queue < 15) :
    (s.tripBoth c cause pos item).flash.queue.any (fun e => e.isTrip x cause (pos + put item 24 7) s.clk.tt s.mode.mode.code) = true := by
  obtain ⟨hkeep, hslots⟩ := tripIf_queue s (c 1) 1 cause pos item (by omega)
  obtain ⟨hkeep2, -⟩ := tripIf_queue (s.tripIf (c 1) 1 cause pos item) (c 2) 2 cause pos item (by omega)
  rw [List.any_eq_true]
  rcases hx with rfl | rfl
  · refine ⟨s.tripEntry 1 cause (pos + put item 24 7), hkeep2 _ ?_, by simp [LedgerEntry.isTrip, State.tripEntry]⟩
    rw [State.tripIf, if_pos hc, trip_queue s 1 cause pos item hon (by omega)]
    exact List.mem_append_right _ (List.mem_singleton.mpr rfl)
  · have hother := tripIf_outp_ne s (c 1) 1 cause pos item (k := 2) (by decide)
    have honly := tripIf_only s (c 1) 1 cause pos item
    refine ⟨(s.tripIf (c 1) 1 cause pos item).tripEntry 2 cause (pos + put item 24 7), ?_, ?_⟩
    · unfold State.tripBoth
      rw [State.tripIf, if_pos hc, trip_queue _ 2 cause pos item (by rw [hother]; exact hon) (by omega)]
      exact List.mem_append_right _ (List.mem_singleton.mpr rfl)
    · have hclk : (s.tripIf (c 1) 1 cause pos item).clk = s.clk := honly .clk (by decide)
      have hmode : (s.tripIf (c 1) 1 cause pos item).mode = s.mode := honly .mode (by decide)
      simp [LedgerEntry.isTrip, State.tripEntry, hclk, hmode]

end

/-- The functions that input i demands on. -/
def State.watches (s : State) (i x : Nat) : Bool := kindOf (s.safety.block.func x) != 0 && bit (s.safety.block.func x) (1 + i)

theorem demand_eq (s : State) (i cause : Nat) : s.demand i cause = s.tripBoth (s.watches i) cause 0 0 := by
  have hblock := (tripIf_kept s (s.watches i 1) 1 cause 0 0).1
  have hsecond : (s.tripIf (s.watches i 1) 1 cause 0 0).watches i 2 = s.watches i 2 := by
    generalize s.tripIf (s.watches i 1) 1 cause 0 0 = u at hblock
    unfold State.watches
    rw [hblock]
  unfold State.tripBoth
  rw [← hsecond]
  rfl

end Sys2Proof.Machine
end

section
/-!
The contacts of the dual-contact inputs, their discrepancies, and a supervised position that falls silent (10 R297, R300).
-/
namespace Sys2Proof.Machine

-- one proof at a time: these proofs share the equations of the operations they unfold
set_option Elab.async false

/-! ### Contacts -/

theorem updInp_kept (s : State) (i : Nat) (f : InputSt → InputSt) :
    s.onlyChanges [.safety] (s.updInp i f) ∧ (s.updInp i f).safety.block = s.safety.block ∧ ∀ x, (s.updInp i f).outp x = s.outp x := by
  unfold State.updInp State.outp
  split <;> exact ⟨only_safety s _, rfl, fun _ => rfl⟩

/-- A contact that changes: the input takes it, and unless both contacts are closed the input demands. -/
theorem contact_eq (s : State) (k : Nat) (closed : Bool) : ∃ f c, (s.contact k closed =
      (if c then s.updInp (k / 2 + 1) f else (s.updInp (k / 2 + 1) f).demand (k / 2 + 1) 1))
    ∧ c = ((f (s.inp (k / 2 + 1))).a && (f (s.inp (k / 2 + 1))).b)
    ∧ (f (s.inp (k / 2 + 1))).a = (if k % 2 = 0 then closed else (s.inp (k / 2 + 1)).a)
    ∧ (f (s.inp (k / 2 + 1))).b = (if k % 2 = 0 then (s.inp (k / 2 + 1)).b else closed)
    ∧ ((f (s.inp (k / 2 + 1))).a ≠ (f (s.inp (k / 2 + 1))).b →
      (f (s.inp (k / 2 + 1))).since = some ((s.inp (k / 2 + 1)).since.getD s.clk.wall)) := by
  refine ⟨_, _, rfl, rfl, rfl, rfl, fun h => ?_⟩
  dsimp only at h ⊢
  rw [if_neg h]
  cases (s.inp (k / 2 + 1)).since <;> rfl

theorem demand_only (s : State) (i cause : Nat) : s.onlyChanges [.safety, .flash] (s.demand i cause) := by
  rw [demand_eq]
  exact tripBoth_only s _ _ _ _

theorem demand_inp (s : State) (i cause k : Nat) : (s.demand i cause).inp k = s.inp k := by
  rw [demand_eq]
  exact (tripBoth_kept s _ _ _ _).2 k

theorem contact_settles (s : State) (k : Nat) (closed : Bool) :
    ((s.contact k closed).inp (k / 2 + 1)).a = (if k % 2 = 0 then closed else (s.inp (k / 2 + 1)).a)
    ∧ ((s.contact k closed).inp (k / 2 + 1)).b = (if k % 2 = 0 then (s.inp (k / 2 + 1)).b else closed)
    ∧ (∀ j, (k / 2 + 1 = 1) ≠ (j = 1) → (s.contact k closed).inp j = s.inp j)
    ∧ s.onlyChanges [.safety, .flash] (s.contact k closed) := by
  obtain ⟨f, c, heq, -, ha, hb, -⟩ := contact_eq s k closed
  obtain ⟨honly, -, -⟩ := updInp_kept s (k / 2 + 1) f
  have hinp (j : Nat) : (s.contact k closed).inp j = (s.updInp (k / 2 + 1) f).inp j := by
    rw [heq]
    split
    · rfl
    · exact demand_inp _ _ _ _
  refine ⟨by rw [hinp, updInp_inp_self, ha], by rw [hinp, updInp_inp_self, hb], fun j hj => by rw [hinp, updInp_inp_ne _ _ hj], ?_⟩
  rw [heq]
  exact only_ite (only_one honly) (only_step (demand_only _ _ _) (only_one honly))

/-- Both switches of output x are open, on a demand with this cause, position and item. -/
def State.openedFor (s : State) (x cause pos item : Nat) : Prop :=
  (s.outp x).on = false ∧ (s.outp x).tripped = true ∧ (s.outp x).cause = cause ∧ (s.outp x).tpos = pos ∧ (s.outp x).titem = item

/-- A demand of input i on an energised output that watches it. -/
theorem demand_opens {s : State} {i cause x : Nat} (hx : x = 1 ∨ x = 2) (hon : (s.outp x).on = true) (hwatch : s.watches i x = true) :
    (s.demand i cause).openedFor x cause 0 0 ∧ (slotsOf s.flash.queue < 15 →
      (s.demand i cause).flash.queue.any (fun e => e.isTrip x cause 0 s.clk.tt s.mode.mode.code) = true) := by
  rw [demand_eq]
  refine ⟨?_, fun hroom => tripBoth_entry s _ _ _ _ hx hwatch hon hroom⟩
  unfold State.openedFor
  rw [tripBoth_outp s _ _ _ _ hx hwatch hon]
  exact ⟨rfl, rfl, rfl, rfl, rfl⟩

theorem watches_of {s : State} {i x : Nat} (hkind : s.safety.block.func x % 4 ≠ 0) (hbit : (s.safety.block.func x).testBit (1 + i) = true) :
    s.watches i x = true := by
  have hk : kindOf (s.safety.block.func x) = s.safety.block.func x % 4 := by
    simp [kindOf, fld]
  simp [State.watches, hk, hkind, bit, hbit]

/-- An open contact A of an input with both contacts closed, which an energised output watches. -/
theorem contact_trips {s : State} {i x : Nat} (h1 : 1 ≤ i) (hx : x = 1 ∨ x = 2) (hon : (s.outp x).on = true)
    (hwatch : s.watches i x = true) (hb : (s.inp i).b = true) :
    (s.contact (2 * i - 2) false).openedFor x 1 0 0
      ∧ ((s.contact (2 * i - 2) false).inp i).a = false ∧ ((s.contact (2 * i - 2) false).inp i).b = true
      ∧ ((s.contact (2 * i - 2) false).inp i).since = some ((s.inp i).since.getD s.clk.wall)
      ∧ (slotsOf s.flash.queue < 15 →
        (s.contact (2 * i - 2) false).flash.queue.any (fun e => e.isTrip x 1 0 s.clk.tt s.mode.mode.code) = true) := by
  have hi : (2 * i - 2) / 2 + 1 = i := by omega
  have heven : (2 * i - 2) % 2 = 0 := by omega
  obtain ⟨f, c, heq, hc, ha, hb', hsince⟩ := contact_eq s (2 * i - 2) false
  rw [hi] at heq hc ha hb' hsince
  rw [if_pos heven] at ha hb'
  have hcf : c = false := by rw [hc, ha]; rfl
  rw [hcf, if_neg Bool.false_ne_true] at heq
  obtain ⟨honly, hblock, houtp⟩ := updInp_kept s i f
  have hwatch' : (s.updInp i f).watches i x = true := by
    unfold State.watches
    rw [hblock]
    exact hwatch
  obtain ⟨hopened, hentry⟩ := demand_opens (cause := 1) hx (by rw [houtp]; exact hon) hwatch'
  rw [honly .flash (by decide), honly .clk (by decide), honly .mode (by decide)] at hentry
  rw [heq, demand_inp, updInp_inp_self]
  exact ⟨hopened, ha, hb'.trans hb, hsince (by rw [ha, hb', hb]; decide), hentry⟩

/-! ### Discrepancies -/

theorem now_eq (s : State) : s.now = s.clk.tt := rfl

theorem discrepancy_eq {s : State} {i w : Nat} (hawake : s.awake = true) (hsince : (s.inp i).since = some w) (hdisc : (s.inp i).disc = false)
    (hlate : s.safety.block.disc i * ttMs < s.clk.wall - w) :
    ∃ u, s.discrepancy i = u.demand i 2 ∧ s.onlyChanges [.safety, .fault] u ∧ u.safety.block = s.safety.block
      ∧ (u.inp i).disc = true ∧ (∀ j, (i = 1) ≠ (j = 1) → u.inp j = s.inp j) ∧ (∀ x, u.outp x = s.outp x)
      ∧ u.fault.evq = s.fault.evq ++ [{ id := 23, item := i, time := s.clk.tt, mode := s.mode.mode.code }] := by
  obtain ⟨honly, hblock, houtp⟩ := updInp_kept s i (fun q => { q with disc := true })
  have hself := updInp_inp_self s i (fun q => { q with disc := true })
  have hother (j : Nat) (hj : (i = 1) ≠ (j = 1)) := updInp_inp_ne s (fun q => { q with disc := true }) hj
  have hdo : s.discrepancy i = ((s.updInp i (fun q => { q with disc := true })).raise 23 i).demand i 2 := by
    unfold State.discrepancy
    rw [hsince]
    have hstill : ¬ (s.since w ≤ s.safety.block.disc i * ttMs) := Nat.not_le.mpr hlate
    exact if_neg (by simpa only [hdisc, Bool.false_or, decide_eq_true_eq] using hstill)
  generalize s.updInp i _ = u at *
  have hraise := raise_of_awake (s := u) (by rw [State.awake, State.inMode, honly .mode (by decide)]; exact hawake) 23 i
  refine ⟨u.raise 23 i, hdo, only_step (raise_only _ _ _) (only_one honly), ?_⟩
  rw [hraise]
  refine ⟨hblock, (congrArg InputSt.disc hself :), hother, houtp, ?_⟩
  show u.fault.evq ++ [_] = _
  rw [honly .fault (by decide), now_eq, honly .clk (by decide), honly .mode (by decide)]

section
variable {s : State} {i w : Nat} (hawake : s.awake = true) (hi : i = 1 ∨ i = 2) (hsince : (s.inp i).since = some w)
  (hdisc : (s.inp i).disc = false) (hlate : s.safety.block.disc i * ttMs < s.clk.wall - w)
include hawake hsince hdisc hlate

include hi in
/-- A discrepancy is noted, and raises its fault. -/
theorem discrepancy_notes : ((s.discrepancy i).inp i).disc = true ∧ (s.discrepancy i).inp (3 - i) = s.inp (3 - i)
    ∧ (s.discrepancy i).fault.evq = s.fault.evq ++ [{ id := 23, item := i, time := s.clk.tt, mode := s.mode.mode.code }]
    ∧ s.onlyChanges [.safety, .flash, .fault] (s.discrepancy i) := by
  obtain ⟨u, heq, honly, -, hnoted, hother, -, hfault⟩ := discrepancy_eq hawake hsince hdisc hlate
  rw [heq, demand_inp, demand_inp, demand_only u i 2 .fault (by decide)]
  refine ⟨hnoted, hother _ (one_ne_of_ne hi (by omega) (by omega)), hfault, only_step (demand_only _ _ _) (only_one honly)⟩

/-- A discrepancy opens an energised output that watches its input. -/
theorem discrepancy_trips {x : Nat} (hx : x = 1 ∨ x = 2) (hon : (s.outp x).on = true) (hwatch : s.watches i x = true) :
    (s.discrepancy i).openedFor x 2 0 0 ∧ (slotsOf s.flash.queue < 15 →
      (s.discrepancy i).flash.queue.any (fun e => e.isTrip x 2 0 s.clk.tt s.mode.mode.code) = true) := by
  obtain ⟨u, heq, honly, hblock, -, -, houtp, -⟩ := discrepancy_eq hawake hsince hdisc hlate
  have hwatch' : u.watches i x = true := by
    unfold State.watches
    rw [hblock]
    exact hwatch
  obtain ⟨hopened, hentry⟩ := demand_opens (s := u) (cause := 2) hx (by rw [houtp]; exact hon) hwatch'
  rw [honly .flash (by decide), honly .clk (by decide), honly .mode (by decide)] at hentry
  rw [heq]
  exact ⟨hopened, hentry⟩

end

/-! ### Silence -/

/-- The word of an enrolled position that feeds function x alone. -/
theorem enrolWord_fields {pos x w : Nat} (hx : x = 1 ∨ x = 2) (hpos : pos < 2 ^ 18) (hw : w = pos + 2 ^ 18 + 2 ^ (18 + x)) :
    fld w 17 0 = pos ∧ bit w 18 = true ∧ bit w (18 + x) = true ∧ bit w (18 + (3 - x)) = false := by
  simp only [fld, bit, Nat.shiftRight_zero, Nat.testBit_eq_decide_div_mod_eq, decide_eq_true_eq, decide_eq_false_iff_not]
  rcases hx with rfl | rfl <;> omega

/-- The silence of a position that one function alone supervises. -/
theorem beatTimeout_eq {s : State} {i x pos : Nat} {hd : Heard} (hx : x = 1 ∨ x = 2) (hpos : pos < 2 ^ 18)
    (hsup : s.supervising = true) (hon : s.supervises x = true) (hword : s.safety.block.enr i = pos + 2 ^ 18 + 2 ^ (18 + x))
    (hheard : s.heardOf pos = some hd) (hout : hd.out = false) (hlate : s.safety.block.hbTimeout * ttMs ≤ s.clk.wall - hd.at_) :
    s.beatTimeout i = State.trip ((s.updSafety (fun f => { f with
      heard := f.heard.map (fun (h : Heard) => if h.pos = pos then { h with out := true } else h) })).raise 26 x) x 4 pos 0 := by
  obtain ⟨hfield, h18, hbit, hother⟩ := enrolWord_fields hx hpos hword
  have hgo : ¬ ((!s.supervising || !bit (s.safety.block.enr i) 18 || hd.out || s.since hd.at_ < s.safety.block.timeoutTt) = true) := by
    have hover : ¬ (s.since hd.at_ < s.safety.block.timeoutTt) := Nat.not_lt.mpr hlate
    simpa only [hsup, h18, hout, Bool.not_true, Bool.false_or, decide_eq_true_eq] using hover
  unfold State.beatTimeout
  dsimp only
  rw [hfield, hheard]
  dsimp only
  rw [if_neg hgo]
  generalize s.safety.block.enr i = w at hbit hother
  rcases hx with rfl | rfl
  · have hsecond (v : State) : (if (bit w (18 + 2) && v.supervises 2) = true then (v.raise 26 2).trip 2 4 pos 0 else v) = v :=
      if_neg (by rw [hother]; exact Bool.false_ne_true)
    exact (hsecond _).trans (if_pos (by rw [hbit]; exact hon))
  · have hfirst (v : State) : (if (bit w (18 + 1) && v.supervises 1) = true then (v.raise 26 1).trip 1 4 pos 0 else v) = v :=
      if_neg (by rw [hother]; exact Bool.false_ne_true)
    refine (congrArg (fun v : State => if (bit w (18 + 2) && v.supervises 2) = true then (v.raise 26 2).trip 2 4 pos 0 else v) (hfirst _)).trans ?_
    exact if_pos (by rw [hbit]; exact hon)

/-- What the silence of that position leaves. -/
theorem beatTimeout_trips {s : State} {i x pos : Nat} {hd : Heard} (hx : x = 1 ∨ x = 2) (hpos : pos < 2 ^ 18)
    (hsup : s.supervising = true) (hsupx : s.supervises x = true) (hon : (s.outp x).on = true)
    (hword : s.safety.block.enr i = pos + 2 ^ 18 + 2 ^ (18 + x))
    (hheard : s.heardOf pos = some hd) (hout : hd.out = false) (hlate : s.safety.block.hbTimeout * ttMs ≤ s.clk.wall - hd.at_) :
    (s.beatTimeout i).openedFor x 4 pos 0
      ∧ (slotsOf s.flash.queue < 16 → (s.beatTimeout i).flash.queue = s.flash.queue ++ [s.tripEntry x 4 pos])
      ∧ (s.beatTimeout i).fault.evq = s.fault.evq ++ [{ id := 26, item := x, time := s.clk.tt, mode := s.mode.mode.code }]
      ∧ s.onlyChanges [.safety, .flash, .fault] (s.beatTimeout i) := by
  rw [beatTimeout_eq hx hpos hsup hsupx hword hheard hout hlate]
  have honly := updSafety_only s (fun f => { f with
    heard := f.heard.map (fun (h : Heard) => if h.pos = pos then { h with out := true } else h) })
  have houtp : ∀ k, (s.updSafety (fun f => { f with
    heard := f.heard.map (fun (h : Heard) => if h.pos = pos then { h with out := true } else h) })).outp k = s.outp k := fun _ => rfl
  generalize s.updSafety _ = u at honly houtp ⊢
  have hawake : u.awake = true := by
    rw [State.awake, State.inMode, honly .mode (by decide)]
    simp only [State.supervising, Bool.and_eq_true] at hsup
    exact hsup.1.2
  have hraise := raise_of_awake hawake 26 x
  have honlyr : u.onlyChanges [.fault] (u.raise 26 x) := raise_only _ _ _
  have houtr : ∀ k, (u.raise 26 x).outp k = s.outp k := fun k =>
    (outp_of_safety (honlyr .safety (by decide)) k).trans (houtp k)
  have honx : ((u.raise 26 x).outp x).on = true := by rw [houtr]; exact hon
  have hevq : (u.raise 26 x).fault.evq = s.fault.evq ++ [{ id := 26, item := x, time := s.clk.tt, mode := s.mode.mode.code }] := by
    rw [hraise]
    show u.fault.evq ++ [_] = _
    rw [honly .fault (by decide), now_eq, honly .clk (by decide), honly .mode (by decide)]
  have hall : s.onlyChanges [.safety, .fault] (u.raise 26 x) := only_step honlyr (only_one honly)
  generalize u.raise 26 x = v at *
  refine ⟨?_, fun hroom => ?_, ?_, only_step (trip_only _ _ _ _ _) (only_one hall)⟩
  · unfold State.openedFor
    rw [trip_outp_self _ _ _ _ _ honx]
    exact ⟨rfl, rfl, rfl, rfl, rfl⟩
  · have hentry : v.tripEntry x 4 pos = s.tripEntry x 4 pos := by
      unfold State.tripEntry
      rw [hall .flash (by decide), hall .mode (by decide), hall .clk (by decide)]
    have hqueue : v.flash = s.flash := hall .flash (by decide)
    rw [trip_queue v x 4 pos 0 honx (by rw [hqueue]; exact hroom), hqueue]
    exact congrArg (fun e => s.flash.queue ++ [e]) hentry
  · rw [trip_only v _ _ _ _ .fault (by decide)]
    exact hevq

/-- Settles O20: the demands of the inputs and of silent positions, on either output. -/
theorem demandsTripTheOutput : Obligations.DemandsTripTheOutput := by
  unfold Obligations.DemandsTripTheOutput
  intro s i x w pos at_ closed hd hstation hreach hlockout
  obtain ⟨hawake, -⟩ := reachable_parts hreach
  have hworks : (s.mode.station && s.awake) = true := by rw [hstation, hawake]; rfl
  have hcontact (k : Nat) (b : Bool) : exec (.siContactChange k b) s = .next { s.begin.contact k b with pending := s.pending } :=
    run_when_next (f := fun v => v.contact k b) hworks
  have hdisc (k : Nat) : exec (.discrepancyTimeout k) s = .next { s.begin.discrepancy k with pending := s.pending } :=
    run_when_next (f := fun v => v.discrepancy k) hworks
  have hsup : s.begin.supervising = true := by
    show (s.mode.station && s.awake && s.mode.mode != .lockout) = true
    rw [hworks]
    simpa using hlockout
  refine ⟨fun hi => ?_, fun h1 h2 hsince hd0 hlate => ?_, fun h1 h2 hx1 hx2 hon hkind => ⟨fun hbit ha hb => ?_, fun hbit hsince hd0 hlate => ?_⟩,
    fun hx1 hx2 hon hkind hbit hword hpos hheard hout hat hlate => ?_⟩
  · have hexec := hcontact i closed
    obtain ⟨ha, hb, hother, honly⟩ := contact_settles s.begin i closed
    have hrest := hother (2 - i / 2) (one_ne_of_ne (by omega) (by omega) (by omega))
    generalize s.begin.contact i closed = u at *
    exact ⟨_, hexec, ha, hb, hrest, next_only (only_one honly)⟩
  · have hexec := hdisc i
    obtain ⟨hnoted, hother, hfault, honly⟩ := discrepancy_notes (s := s.begin) hawake (by omega) hsince hd0 hlate
    generalize s.begin.discrepancy i = u at *
    exact ⟨_, hexec, hnoted, hother, hfault, next_only (only_one honly)⟩
  · have hexec := hcontact (2 * i - 2) false
    obtain ⟨⟨hoff, htripped, hcause, -⟩, ha', hb', hsince, hentry⟩ := contact_trips (s := s.begin) (x := x) h1 (by omega) hon
      (watches_of hkind hbit) hb
    have honly := (contact_settles s.begin (2 * i - 2) false).2.2.2
    generalize s.begin.contact (2 * i - 2) false = u at *
    exact ⟨_, hexec, hoff, htripped, hcause, ha', hb', hsince, hentry, next_only (only_one honly)⟩
  · have hexec := hdisc i
    obtain ⟨hnoted, -, hfault, honly⟩ := discrepancy_notes (s := s.begin) hawake (by omega) hsince hd0 hlate
    obtain ⟨⟨hoff, htripped, hcause, -⟩, hentry⟩ := discrepancy_trips (s := s.begin) (x := x) hawake hsince hd0 hlate (by omega) hon
      (watches_of hkind hbit)
    generalize s.begin.discrepancy i = u at *
    exact ⟨_, hexec, hnoted, hoff, htripped, hcause, hentry, hfault, next_only (only_one honly)⟩
  · have hsupx : s.begin.supervises x = true := by
      have hk : kindOf (s.safety.block.func x) = s.safety.block.func x % 4 := by simp [kindOf, fld]
      show (kindOf (s.safety.block.func x) != 0 && bit (s.safety.block.func x) 4) = true
      rw [hk]
      simp [hkind, bit, hbit]
    obtain ⟨⟨hoff, htripped, hcause, htpos, -⟩, hqueue, hfault, honly⟩ := beatTimeout_trips (s := s.begin) (i := i) (hd := hd) (by omega) hpos hsup
      hsupx hon hword hheard hout (by rw [hat]; exact hlate)
    have hexec : exec (.heartbeatTimeout i) s = .next { (s.begin.beatTimeout i).flush with pending := s.pending } :=
      runL_next_eq (f := fun v => v.beatTimeout i) rfl
    obtain ⟨t, hnext, hchanges, hkept⟩ := nextL_settles (ps := [.reply, .out, .safety, .flash, .fault, .ports, .host, .glean, .expo]) hexec
      (only_one honly)
    generalize s.begin.beatTimeout i = u at *
    have houtp := outp_of_safety (hkept .safety (by decide)) x
    refine ⟨t, hnext, ?_⟩
    rw [houtp, hkept .flash (by decide), hkept .fault (by decide)]
    exact ⟨hoff, htripped, hcause, htpos, hqueue, hfault, hchanges⟩

end Sys2Proof.Machine
end

section
/-!
Arming, test pulses and readback of the outputs, and the way to DEGRADED and SAFE (10 R299, R302–R304).
-/
namespace Sys2Proof.Machine

-- one proof at a time: these proofs share the equations of the operations they unfold
set_option Elab.async false

theorem supervising_parts {s : State} (h : s.supervising = true) : s.mode.station = true ∧ s.awake = true ∧ s.mode.mode ≠ .lockout := by
  simp only [State.supervising, Bool.and_eq_true, bne_iff_ne, ne_eq] at h
  exact ⟨h.1.1, h.1.2, h.2⟩

/-! ### Changes of one output -/

/-- Output x is changed by f, the other and the switches that failed are as they were. -/
structure State.outputChanged (s t : State) (x : Nat) (f : OutputSt → OutputSt) : Prop where
  self : t.outp x = f (s.outp x)
  other : ∀ k, (x = 1) ≠ (k = 1) → t.outp k = s.outp k
  failed : t.safety.failed = s.safety.failed
  block : t.safety.block = s.safety.block
  only : s.onlyChanges [.safety] t

theorem updOut_changed (s : State) (x : Nat) (f : OutputSt → OutputSt) : s.outputChanged (s.updOut x f) x f where
  self := updOut_outp_self s x f
  other _ h := updOut_outp_ne s f h
  failed := by
    unfold State.updOut
    split <;> rfl
  block := (updOut_kept s x f).1
  only := updOut_only s x f

theorem outputChanged_trans {s t u : State} {x : Nat} {f g : OutputSt → OutputSt} (h : s.outputChanged t x f) (k : t.outputChanged u x g) :
    s.outputChanged u x (g ∘ f) where
  self := by rw [k.self, h.self]; rfl
  other j hj := (k.other j hj).trans (h.other j hj)
  failed := k.failed.trans h.failed
  block := k.block.trans h.block
  only := only_trans h.only k.only

/-- Only the allowance of DEGRADED may differ. -/
def SafetySt.allowanceOnly (f g : SafetySt) : Prop := ∃ e, g = { f with degEnd := e }

theorem outp_of_allowance {s t : State} (h : s.safety.allowanceOnly t.safety) (x : Nat) : t.outp x = s.outp x := by
  obtain ⟨e, he⟩ := h
  unfold State.outp
  rw [he]

theorem clearAllowance_allowance (s : State) : s.safety.allowanceOnly s.clearAllowance.safety := by
  unfold State.clearAllowance
  split
  · exact ⟨none, rfl⟩
  · exact ⟨s.safety.degEnd, rfl⟩

theorem clearAllowance_only (s : State) : s.onlyChanges [.safety] s.clearAllowance := only_ite (updSafety_only s _) (only_refl _ s)

theorem clearAllowance_changed (s : State) (x : Nat) : s.outputChanged s.clearAllowance x id where
  self := outp_of_allowance (clearAllowance_allowance s) x
  other k _ := outp_of_allowance (clearAllowance_allowance s) k
  failed := by
    obtain ⟨e, he⟩ := clearAllowance_allowance s
    rw [he]
  block := by
    obtain ⟨e, he⟩ := clearAllowance_allowance s
    rw [he]
  only := clearAllowance_only s

/-! ### A pulse that is judged -/

/-- The output after its pulse is judged. -/
def OutputSt.judgedAs (o : OutputSt) (cycle : Bool) : OutputSt := { o with judged := true, checked := o.checked || cycle }

/-- The switch that may be pulsed depends on the commanded state, the order and the failed switches alone. -/
theorem pulseSwitch_of {s t : State} {x : Nat} (hon : (t.outp x).on = (s.outp x).on) (hnext : (t.outp x).nextSw = (s.outp x).nextSw)
    (hfailed : t.safety.failed = s.safety.failed) : t.pulseSwitch x = s.pulseSwitch x := by
  unfold State.pulseSwitch
  dsimp only
  rw [hon, hnext, hfailed]

theorem pulseJudge_reached (s : State) (x sw : Nat) :
    s.outputChanged (s.pulseJudge x sw true) x (fun o => o.judgedAs (sw = 1 || s.pulseSwitch x != some 1)) := by
  have h1 := updOut_changed s x (fun o => { o with judged := true })
  have hswitch : (s.updOut x (fun o => { o with judged := true })).pulseSwitch x = s.pulseSwitch x :=
    pulseSwitch_of (by rw [h1.self]) (by rw [h1.self]) h1.failed
  have hjudge : s.pulseJudge x sw true = ((s.updOut x (fun o => { o with judged := true })).updOut x (fun o => { o with
      checked := o.checked || sw = 1 || (s.updOut x (fun o => { o with judged := true })).pulseSwitch x != some 1 })).clearAllowance := rfl
  rw [hjudge, hswitch]
  have h2 := outputChanged_trans (outputChanged_trans h1 (updOut_changed _ x (fun o => { o with
    checked := o.checked || sw = 1 || s.pulseSwitch x != some 1 }))) (clearAllowance_changed _ x)
  refine ⟨h2.self.trans ?_, h2.other, h2.failed, h2.block, h2.only⟩
  simp [OutputSt.judgedAs, Bool.or_assoc]

/-- The length of a pulse in the words of Table 10.6. -/
theorem pulseTt_eq (s : State) (x : Nat) :
    s.pulseTt x = if (s.outp x).on = true ∧ s.safety.block.func x % 4 = 2 then 10240 else 4096 := by
  have hk : kindOf (s.safety.block.func x) = s.safety.block.func x % 4 := by simp [kindOf, fld]
  unfold State.pulseTt
  rw [hk]
  simp only [Bool.and_eq_true, decide_eq_true_eq]

/-- The end of a pulse that is judged. -/
theorem pulseBack_changed {s : State} {x sw w : Nat} (hpulse : (s.outp x).pulse = some (sw, w)) (hjudged : (s.outp x).judged = true) :
    s.outputChanged (s.pulseBack x) x (fun o => { o with pulse := if s.pulseTt x ≤ s.clk.wall - w then none else some (sw, w) }) := by
  unfold State.pulseBack
  rw [hpulse]
  dsimp only
  by_cases hover : s.pulseTt x ≤ s.clk.wall - w
  · have hgo : ((s.outp x).judged && decide (s.pulseTt x ≤ s.since w)) = true := by
      rw [hjudged]
      exact decide_eq_true hover
    rw [if_pos hgo, if_pos hover]
    exact updOut_changed s x _
  · have hstay : ¬ (((s.outp x).judged && decide (s.pulseTt x ≤ s.since w)) = true) := by
      rw [hjudged]
      have hstill : ¬ s.pulseTt x ≤ s.since w := hover
      simpa only [Bool.true_and, decide_eq_true_eq] using hstill
    rw [if_neg hstay, if_neg hover]
    exact ⟨by rw [← hpulse], fun _ _ => rfl, rfl, rfl, only_refl _ s⟩

theorem pulseEnd_of {s : State} {x sw w : Nat} (reached : Bool) (hpulse : (s.outp x).pulse = some (sw, w)) (hlate : 3072 ≤ s.clk.wall - w) :
    s.pulseEnd x reached = (if (s.outp x).judged then s else s.pulseJudge x sw reached).pulseBack x := by
  unfold State.pulseEnd
  rw [hpulse]
  exact if_neg (Nat.not_lt.mpr hlate)

section
variable {s : State} {x sw w : Nat} (hpulse : (s.outp x).pulse = some (sw, w))
include hpulse

/-- A pulse that reaches its level is judged, and ends where its length has passed. -/
theorem pulseEnd_reached (hjudged : (s.outp x).judged = false) (hlate : 3072 ≤ s.clk.wall - w) :
    s.outputChanged (s.pulseEnd x true) x (fun o => { o with
      judged := true, checked := o.checked || decide (sw = 1) || decide (s.pulseSwitch x ≠ some 1)
      pulse := if (if (s.outp x).on = true ∧ s.safety.block.func x % 4 = 2 then 10240 else 4096) ≤ s.clk.wall - w then none
        else some (sw, w) }) := by
  rw [pulseEnd_of true hpulse hlate, hjudged, if_neg Bool.false_ne_true]
  have h1 := pulseJudge_reached s x sw
  have hlen : (s.pulseJudge x sw true).pulseTt x = s.pulseTt x := by
    rw [pulseTt_eq, pulseTt_eq, h1.self, h1.block]
    rfl
  have hclk : (s.pulseJudge x sw true).clk = s.clk := h1.only .clk (by decide)
  have h2 := pulseBack_changed (s := s.pulseJudge x sw true) (x := x) (sw := sw) (w := w) (by rw [h1.self]; exact hpulse) (by rw [h1.self]; rfl)
  rw [hlen, hclk] at h2
  have h3 := outputChanged_trans h1 h2
  refine ⟨h3.self.trans ?_, h3.other, h3.failed, h3.block, h3.only⟩
  rw [pulseTt_eq]
  have hne : (s.pulseSwitch x != some 1) = decide (s.pulseSwitch x ≠ some 1) := by
    rw [bne, Bool.eq_iff_iff]
    simp
  simp only [Function.comp, OutputSt.judgedAs, hne, Bool.or_assoc]

/-- A pulse that was judged ends when its length has passed. -/
theorem pulseEnd_judged (hjudged : (s.outp x).judged = true)
    (hlate : (if (s.outp x).on = true ∧ s.safety.block.func x % 4 = 2 then 10240 else 4096) ≤ s.clk.wall - w) :
    s.outputChanged (s.pulseEnd x true) x (fun o => { o with pulse := none }) := by
  have hlate' : 3072 ≤ s.clk.wall - w := by
    split at hlate <;> omega
  rw [pulseEnd_of true hpulse hlate', hjudged, if_pos rfl]
  have h := pulseBack_changed hpulse hjudged
  rw [pulseTt_eq, if_pos hlate] at h
  exact h

end

/-! ### Switches that fail -/

theorem updOut_degEnd (s : State) (x : Nat) (f : OutputSt → OutputSt) : (s.updOut x f).safety.degEnd = s.safety.degEnd := by
  unfold State.updOut
  split <;> rfl

theorem toDegraded_allowance (s : State) : s.safety.allowanceOnly s.toDegraded.safety := by
  unfold State.toDegraded
  extract_lets allowance start
  have hstart (u : State) : u.safety.allowanceOnly (start u).safety := by
    unfold start
    split
    · exact ⟨u.safety.degEnd, rfl⟩
    · exact ⟨some allowance, rfl⟩
  clear_value start
  split
  · split
    · exact ⟨s.safety.degEnd, rfl⟩
    · exact hstart s
  · split
    · rw [switches_only _ .safety (by decide), setMode_only _ _ .safety (by decide)]
      have h := hstart (s.abortSurvey true)
      rwa [abortSurvey_only s true .safety (by decide)] at h
    · exact ⟨s.safety.degEnd, rfl⟩

/-- What DEGRADED changes. -/
def degradedParts : List Part := [.survey, .kept, .bal, .host, .ports, .tree, .cells, .safety, .mode, .flash, .out]

theorem toDegraded_only (s : State) : s.onlyChanges degradedParts s.toDegraded := by
  unfold State.toDegraded
  extract_lets allowance start
  have hstart (u : State) : u.onlyChanges [.safety] (start u) := by
    unfold start
    split
    · exact only_refl _ u
    · exact only_safety u _
  clear_value start
  exact only_ite (only_ite (only_refl _ s) (only_step (only_mode (start s) _) (only_one (hstart s))))
    (only_ite (only_step (switches_only _) (only_step (setMode_only _ _) (only_step (hstart _) (only_one (abortSurvey_only s true)))))
      (only_refl _ s))

/-- A pulse that acts on the partner of a failed switch of a de-energised output ends (10 R302). -/
def OutputSt.withoutPartner (o : OutputSt) (sw : Nat) : OutputSt :=
  if !o.on && o.pulse.any (fun p => p.1 != sw % 2) then { o with pulse := none } else o

/-- The state with switch sw marked failed, and its fault raised. -/
def State.markFailed (s : State) (sw : Nat) : State :=
  (({ s with safety := { s.safety with failed := s.safety.failed.set sw true } } : State).raise 22 sw).updOut (sw / 2 + 1)
    (fun o => o.withoutPartner sw)

theorem withoutPartner_kept (o : OutputSt) (sw : Nat) : (o.withoutPartner sw).judged = o.judged ∧ (o.withoutPartner sw).on = o.on := by
  unfold OutputSt.withoutPartner
  split <;> exact ⟨rfl, rfl⟩

theorem markFailed_settles {s : State} (hawake : s.awake = true) (sw : Nat) :
    s.onlyChanges [.safety, .fault] (s.markFailed sw) ∧ (s.markFailed sw).safety.failed = s.safety.failed.set sw true
      ∧ (∀ x, ((s.markFailed sw).outp x).judged = (s.outp x).judged)
      ∧ (s.markFailed sw).safety.degEnd = s.safety.degEnd ∧ (s.markFailed sw).safety.block = s.safety.block
      ∧ (s.markFailed sw).fault.evq = s.fault.evq ++ [{ id := 22, item := sw, time := s.clk.tt, mode := s.mode.mode.code }] := by
  unfold State.markFailed
  have honly : s.onlyChanges [.safety] { s with safety := { s.safety with failed := s.safety.failed.set sw true } } := only_safety s _
  have hfault := congrArg (fun u : State => u.fault.evq) (raise_of_awake (s := { s with safety := { s.safety with
    failed := s.safety.failed.set sw true } }) hawake 22 sw)
  have hraise : ({ s with safety := { s.safety with failed := s.safety.failed.set sw true } } : State).onlyChanges [.fault] _ :=
    raise_only _ 22 sw
  have hboth := only_step (ps := [.safety, .fault]) hraise (only_one honly)
  have hsafety : (({ s with safety := { s.safety with failed := s.safety.failed.set sw true } } : State).raise 22 sw).safety
      = { s.safety with failed := s.safety.failed.set sw true } := hraise .safety (by decide)
  generalize ({ s with safety := { s.safety with failed := s.safety.failed.set sw true } } : State).raise 22 sw = u at *
  have houtp (x : Nat) : u.outp x = s.outp x := by
    unfold State.outp
    rw [hsafety]
  have h := updOut_changed u (sw / 2 + 1) (fun o => o.withoutPartner sw)
  refine ⟨only_step h.only hboth, by rw [h.failed, hsafety], fun x => ?_, ?_, by rw [h.block, hsafety], ?_⟩
  · by_cases hx : (sw / 2 + 1 = 1) = (x = 1)
    · have hself : (u.updOut (sw / 2 + 1) (fun o => o.withoutPartner sw)).outp x = (u.outp x).withoutPartner sw := by
        have hs := h.self
        unfold State.outp at hs ⊢
        simpa only [hx] using hs
      rw [hself, (withoutPartner_kept _ _).1, houtp]
    · rw [h.other x hx, houtp]
  · rw [updOut_degEnd, hsafety]
  · rw [h.only .fault (by decide)]
    exact hfault

/-- The first switch that fails. -/
theorem switchFails_first {s : State} {sw : Nat} (hnone : s.safety.failed = [false, false, false, false]) (hsw : sw < 4) :
    s.switchFails sw = (s.markFailed sw).toDegraded := by
  have hmark : s.safety.failed.getD sw false = false := by
    rw [hnone]
    interval_cases sw <;> rfl
  have hpartner : s.safety.failed.getD (if sw % 2 = 0 then sw + 1 else sw - 1) false = false := by
    rw [hnone]
    interval_cases sw <;> rfl
  have hfirst : (!(s.safety.failed.any (fun b => b))) = true := by
    rw [hnone]
    rfl
  unfold State.switchFails
  rw [hmark, if_neg Bool.false_ne_true]
  dsimp only
  rw [hpartner, hfirst, if_neg Bool.false_ne_true, if_pos rfl, if_pos rfl]
  rfl

end Sys2Proof.Machine
end

section
/-!
DEGRADED and SAFE as a failed switch brings them on, and the statement about arming, test pulses and readback (10 R299, R302–R304).
-/
namespace Sys2Proof.Machine

-- one proof at a time: these proofs share the equations of the operations they unfold
set_option Elab.async false

/-! ### The way to DEGRADED and SAFE -/

/-- From a mode that DEGRADED follows. -/
theorem toDegraded_enters {s : State} (hmode : s.mode.mode ∈ [.quiet, .run, .survey, .commit]) :
    s.toDegraded.mode.mode = .degraded
      ∧ (s.safety.degEnd = none → s.toDegraded.safety.degEnd = some (s.clk.rtc + s.safety.block.degLimit * 3600 * 32768)) := by
  have hhalt : s.mode.mode ≠ .halted := fun h => by
    rw [h] at hmode
    exact absurd hmode (by decide)
  have hin : s.inMode [.quiet, .run, .survey, .commit] = true := List.contains_iff_mem.mpr hmode
  unfold State.toDegraded
  extract_lets allowance start
  have hstart (u : State) : u.safety.degEnd = none → (start u).safety.degEnd = some allowance := fun h => by
    unfold start
    rw [h]
  clear_value start
  rw [if_neg hhalt, if_pos hin]
  refine ⟨?_, fun h => ?_⟩
  · rw [switches_only _ .mode (by decide), setMode_mode]
  · rw [switches_only _ .safety (by decide), setMode_only _ _ .safety (by decide)]
    exact hstart _ (by rw [abortSurvey_only s true .safety (by decide)]; exact h)

theorem tripNow_changed (s : State) (x c : Nat) : (s.tripNow x c 0 0).safety = (s.updOut x (fun o => o.opened c 0 0 s.clk.wall)).safety :=
  ledger_safety _ _ _ _

/-- An output that a transition opens. -/
theorem tripAll_settles (s : State) (x c : Nat) : ((s.tripAll x c).outp x).on = false
    ∧ (∀ k, (x = 1) ≠ (k = 1) → (s.tripAll x c).outp k = s.outp k)
    ∧ (s.tripAll x c).safety.failed = s.safety.failed ∧ (s.tripAll x c).safety.degEnd = s.safety.degEnd := by
  have hall : ∃ f, (s.tripAll x c).safety = (s.updOut x f).safety ∧ ∀ o, (f o).on = false := by
    unfold State.tripAll
    split
    · exact ⟨_, tripNow_changed s x c, fun _ => rfl⟩
    · exact ⟨_, rfl, fun _ => rfl⟩
  obtain ⟨f, hsafety, hoff⟩ := hall
  have h := updOut_changed s x f
  refine ⟨by rw [outp_of_safety hsafety, h.self, hoff], fun k hk => by rw [outp_of_safety hsafety, h.other k hk], by rw [hsafety, h.failed], ?_⟩
  rw [hsafety, updOut_degEnd]

theorem tripSafe_settles (s : State) : s.tripSafe.safety.out1.on = false ∧ s.tripSafe.safety.out2.on = false
    ∧ s.tripSafe.safety.failed = s.safety.failed ∧ s.tripSafe.safety.degEnd = s.safety.degEnd := by
  obtain ⟨hoff1, -, hf1, hd1⟩ := tripAll_settles s 1 6
  obtain ⟨hoff2, hother, hf2, hd2⟩ := tripAll_settles (s.tripAll 1 6) 2 6
  have h1 : (s.tripSafe.outp 1).on = false := by
    rw [State.tripSafe, hother 1 (by decide)]
    exact hoff1
  exact ⟨h1, hoff2, hf2.trans hf1, hd2.trans hd1⟩

/-- SAFE's effects on the partition. -/
theorem safeEffects_settles (s : State) : s.safeEffects.safety.out1.on = false ∧ s.safeEffects.safety.out2.on = false
    ∧ s.safeEffects.safety.failed = s.safety.failed ∧ s.safeEffects.safety.degEnd = s.safety.degEnd := by
  unfold State.safeEffects
  have honly : s.onlyChanges [.diag, .cells, .survey, .kept, .bal, .host, .ports, .tree] ((s.abandonStep.abortSurvey true).abortBalance) :=
    only_step (abortBalance_only _) (only_step (abortSurvey_only _ _) (only_one (abandonStep_only s)))
  rw [writeSnapshot_only _ .safety (by decide), ← honly .safety (by decide)]
  exact tripSafe_settles _

/-- From a mode that SAFE follows. -/
theorem toSafe_enters {s : State} (hmode : s.mode.mode ∈ [.quiet, .run, .survey, .commit, .degraded]) :
    s.toSafe.mode.mode = .safe ∧ s.toSafe.safety = s.safeEffects.safety := by
  have hhalt : s.mode.mode ≠ .halted := fun h => by
    rw [h] at hmode
    exact absurd hmode (by decide)
  have hin : s.inMode [.quiet, .run, .survey, .commit, .degraded] = true := List.contains_iff_mem.mpr hmode
  unfold State.toSafe
  rw [if_neg hhalt, if_pos hin]
  refine ⟨?_, ?_⟩
  · rw [switches_only _ .mode (by decide), setMode_mode]
  · rw [switches_only _ .safety (by decide), setMode_only _ _ .safety (by decide)]

/-! ### A pulse that fails -/

/-- A switch that fails its pulse is marked, with its fault, and the pulse is judged. -/
theorem pulseEnd_failed {s : State} {x sw w : Nat} (hawake : s.awake = true) (hpulse : (s.outp x).pulse = some (sw, w))
    (hjudged : (s.outp x).judged = false) (hlate : 3072 ≤ s.clk.wall - w) (hx : x = 1 ∨ x = 2) (hsw : sw < 2)
    (hnone : s.safety.failed = [false, false, false, false]) :
    (s.pulseEnd x false).safety.failed = s.safety.failed.set (2 * (x - 1) + sw) true ∧ ((s.pulseEnd x false).outp x).judged = true
      ∧ (s.pulseEnd x false).fault.evq = s.fault.evq
        ++ [{ id := 22, item := 2 * (x - 1) + sw, time := s.clk.tt, mode := s.mode.mode.code }] := by
  rw [pulseEnd_of false hpulse hlate, hjudged, if_neg Bool.false_ne_true]
  have h1 := updOut_changed s x (fun o => { o with judged := true })
  have hjudge : ∃ f : OutputSt → OutputSt, (∀ o, (f o).judged = o.judged) ∧ s.pulseJudge x sw false
      = (((s.updOut x (fun o => { o with judged := true })).switchFails (2 * (x - 1) + sw)).updOut x f).clearAllowance := by
    refine ⟨_, ?_, rfl⟩
    exact fun _ => rfl
  obtain ⟨f, hf, hjudge⟩ := hjudge
  rw [hjudge]
  generalize s.updOut x _ = u at h1 ⊢
  have hawake' : u.awake = true := by
    rw [State.awake, State.inMode, h1.only .mode (by decide)]
    exact hawake
  obtain ⟨honly2, hfailed2, hjudged2, -, -, hevq2⟩ := markFailed_settles hawake' (2 * (x - 1) + sw)
  rw [h1.failed] at hfailed2
  rw [h1.only .fault (by decide), h1.only .clk (by decide), h1.only .mode (by decide)] at hevq2
  have hjudged2 := (hjudged2 x).trans (by rw [h1.self])
  rw [switchFails_first (h1.failed.trans hnone) (by omega)]
  generalize u.markFailed (2 * (x - 1) + sw) = v at *
  have hallow := toDegraded_allowance v
  have hfault3 : v.toDegraded.fault = v.fault := toDegraded_only v .fault (by decide)
  have houtp3 := outp_of_allowance hallow x
  have hfailed3 : v.toDegraded.safety.failed = v.safety.failed := by
    obtain ⟨e, he⟩ := hallow
    rw [he]
  generalize v.toDegraded = z at *
  have h4 := outputChanged_trans (updOut_changed z x f) (clearAllowance_changed _ x)
  generalize (z.updOut x f).clearAllowance = y at *
  have hback : ∃ g : OutputSt → OutputSt, y.outputChanged (y.pulseBack x) x g ∧ ∀ o, (g o).judged = o.judged := by
    unfold State.pulseBack
    split
    · split
      · exact ⟨_, updOut_changed y x _, fun _ => rfl⟩
      · exact ⟨id, ⟨rfl, fun _ _ => rfl, rfl, rfl, only_refl _ y⟩, fun _ => rfl⟩
    · exact ⟨id, ⟨rfl, fun _ _ => rfl, rfl, rfl, only_refl _ y⟩, fun _ => rfl⟩
  obtain ⟨g, h5, hg⟩ := hback
  refine ⟨?_, ?_, ?_⟩
  · rw [h5.failed, h4.failed, hfailed3, hfailed2]
  · rw [h5.self, hg, h4.self]
    show (f (z.outp x)).judged = true
    rw [hf, houtp3]
    exact hjudged2
  · rw [h5.only .fault (by decide), h4.only .fault (by decide), hfault3, hevq2]

/-! ### The statement -/

/-- A command of an output that flushes the ports. -/
theorem pulseEnd_next (s : State) (x : Nat) (reached : Bool) :
    exec (.outputTestPulseEnd x reached) s = .next { (s.begin.pulseEnd x reached).flush with pending := s.pending } :=
  runL_next_eq (f := fun v => v.pulseEnd x reached) rfl

/-- What an output's change leaves once the ports are flushed. -/
theorem pulseEnd_settles {s : State} {x : Nat} {f : OutputSt → OutputSt} (hx : x = 1 ∨ x = 2)
    (h : s.begin.outputChanged (s.begin.pulseEnd x true) x f) :
    ∃ t, exec (.outputTestPulseEnd x true) s = .next t ∧ s.onlyChanges [.reply, .out, .safety, .ports, .host, .glean, .expo] t
      ∧ t.outp x = f (s.outp x) ∧ t.outp (3 - x) = s.outp (3 - x) ∧ t.safety.failed = s.safety.failed := by
  obtain ⟨t, hexec, honly, hkept⟩ := nextL_settles (ps := [.reply, .out, .safety, .ports, .host, .glean, .expo]) (pulseEnd_next s x true)
    (only_one h.only)
  have hsafety : t.safety = (s.begin.pulseEnd x true).safety := hkept .safety (by decide)
  generalize s.begin.pulseEnd x true = u at *
  exact ⟨t, hexec, honly, by rw [outp_of_safety hsafety, h.self]; rfl,
    by rw [outp_of_safety hsafety, h.other _ (one_ne_of_ne hx (by omega) (by omega))]; rfl, by rw [hsafety, h.failed]; rfl⟩

section
variable {s : State} (hsup : s.supervising = true)
include hsup

/-- A switch whose fault the readback finds, the first one. -/
theorem readback_next {i : Instr} {sw : Nat} {c : Bool} (hi : exec i s = runL (when_ c (fun v => v.switchFails sw)) s) (hc : c = true)
    (hsw : sw < 4) (hnone : s.safety.failed = [false, false, false, false]) :
    ∃ t, exec i s = .next t ∧ (s.begin.markFailed sw).toDegraded.onlyChanges flushParts t
      ∧ t.safety.failed = s.safety.failed.set sw true
      ∧ t.fault.evq = s.fault.evq ++ [{ id := 22, item := sw, time := s.clk.tt, mode := s.mode.mode.code }] := by
  obtain ⟨-, hawake, -⟩ := supervising_parts hsup
  obtain ⟨-, hfailed, -, -, -, hevq⟩ := markFailed_settles (s := s.begin) hawake sw
  have hfirst := switchFails_first (s := s.begin) hnone hsw
  have hexec : exec i s = .next { (s.begin.markFailed sw).toDegraded.flush with pending := s.pending } := by
    rw [hi, runL_when_next hc, hfirst]
  generalize s.begin.markFailed sw = u at *
  obtain ⟨e, hallow⟩ := toDegraded_allowance u
  have hfault : u.toDegraded.fault = u.fault := toDegraded_only u .fault (by decide)
  generalize u.toDegraded = v at *
  have hkept : v.onlyChanges flushParts { v.flush with pending := s.pending } := only_step (pending_only _ _) (only_one (flush_only v))
  refine ⟨_, hexec, hkept, ?_, ?_⟩
  · rw [hkept .safety (by decide), hallow]
    exact hfailed
  · rw [hkept .fault (by decide), hfault]
    exact hevq

end

/-- AUTO_ARM of output x, and a test pulse of it. -/
theorem output_next {i : Instr} {s : State} {x : Nat} {c : Bool} {f : State → State} {g : OutputSt → OutputSt}
    (hi : exec i s = run (when_ c f) s) (hc : c = true) (hx : x = 1 ∨ x = 2) (hf : f s.begin = s.begin.updOut x g) :
    ∃ t, exec i s = .next t ∧ t.outp x = g (s.outp x) ∧ t.outp (3 - x) = s.outp (3 - x) ∧ s.onlyChanges [.reply, .out, .safety] t := by
  have h := updOut_changed s.begin x g
  rw [run_when_next hc, hf] at hi
  generalize s.begin.updOut x g = u at *
  exact ⟨_, hi, h.self, h.other _ (one_ne_of_ne hx (by omega) (by omega)), next_only (only_one h.only)⟩

theorem pulse_of {s : State} {x sw : Nat} (h : s.pulseSwitch x = some sw) :
    s.pulse x = s.updOut x (fun o => { o with pulse := some (sw, s.clk.wall), judged := false, nextSw := 1 - sw, lastPulse := s.clk.wall }) := by
  unfold State.pulse
  rw [h]
  rfl

/-- A second switch, of the other output. -/
theorem switchFails_second {s : State} (h : s.safety.failed = [true, false, false, false]) : s.switchFails 2 = (s.markFailed 2).toSafe := by
  unfold State.switchFails
  rw [h]
  rw [if_neg (by decide)]
  dsimp only
  rw [if_neg (by decide), if_neg (by decide), if_neg (by decide)]
  unfold State.markFailed
  rw [h]
  rfl

/-- A command whose effect is the way to SAFE, from a mode that SAFE follows. -/
theorem enters_safe {i : Instr} {s u : State} (hexec : exec i s = .next { u.toSafe.flush with pending := s.pending })
    (hmode : u.mode.mode ∈ [.quiet, .run, .survey, .commit, .degraded]) :
    ∃ t, exec i s = .next t ∧ t.mode.mode = .safe ∧ t.safety.failed = u.safety.failed ∧ t.safety.out1.on = false ∧ t.safety.out2.on = false
      ∧ t.safety.degEnd = u.safety.degEnd := by
  obtain ⟨hsafe, hsafety⟩ := toSafe_enters hmode
  obtain ⟨hoff1, hoff2, hf, hd⟩ := safeEffects_settles u
  generalize u.toSafe = v at *
  have hkept : v.onlyChanges flushParts { v.flush with pending := s.pending } := only_step (pending_only _ _) (only_one (flush_only v))
  refine ⟨_, hexec, ?_, ?_⟩
  · rw [hkept .mode (by decide), hsafe]
  · rw [hkept .safety (by decide), hsafety]
    exact ⟨hf, hoff1, hoff2, hd⟩

/-- Settles O21: the outputs' arming and pulses by what changes of the output, the failed switches by the state that marks them. -/
theorem armingTestPulsesAndReadback : Obligations.ArmingTestPulsesAndReadback := by
  unfold Obligations.ArmingTestPulsesAndReadback
  refine ⟨fun s x sw w hsup => ⟨fun hx => ⟨fun hauto hused htripped hoff hmay => ?_, fun hdue hswitch => ?_, fun hpulse hjudged hlate => ?_,
      fun hpulse hjudged hlate => ?_, fun hpulse hjudged hlate hsw hnone => ?_⟩, fun hauto hused htripped hoff hmay => ?_,
      fun hfunc hon hpulse htrip hnext hsw hlate => ?_⟩,
    fun s e sw hsup => ⟨fun hsw hnone hpulsing => ⟨fun hoff => ?_, fun hon => ?_⟩, fun hnone hoff hpulse hmode hdeg => ?_,
      fun hfailed hon hpulse hmode => ?_, fun hmode hdeg hover => ?_⟩⟩
  · refine output_next (x := x) (f := fun v => v.arm x) rfl ?_ hx rfl
    rw [hsup, hused, htripped, hoff, hmay, bit, hauto]
    rfl
  · exact output_next (x := x) (f := fun v => v.pulse x) rfl hdue hx (pulse_of (s := s.begin) hswitch)
  · obtain ⟨t, hexec, honly, hself, hother, hfailed⟩ := pulseEnd_settles hx (pulseEnd_reached (s := s.begin) hpulse hjudged hlate)
    exact ⟨t, hexec, honly, hself, hother, hfailed⟩
  · obtain ⟨t, hexec, honly, hself, hother, hfailed⟩ := pulseEnd_settles hx (pulseEnd_judged (s := s.begin) hpulse hjudged hlate)
    exact ⟨t, hexec, honly, hself, hother, hfailed⟩
  · obtain ⟨-, hawake, -⟩ := supervising_parts hsup
    obtain ⟨hfailed, hj, hevq⟩ := pulseEnd_failed (s := s.begin) hawake hpulse hjudged hlate hx hsw hnone
    have hexec := pulseEnd_next s x false
    generalize s.begin.pulseEnd x false = u at *
    have hkept : u.onlyChanges flushParts { u.flush with pending := s.pending } := only_step (pending_only _ _) (only_one (flush_only u))
    have hsafety := hkept .safety (by decide)
    have hfault := hkept .fault (by decide)
    generalize ({ u.flush with pending := s.pending } : State) = t at *
    refine ⟨t, hexec, ?_⟩
    rw [hsafety, outp_of_safety hsafety, hfault]
    exact ⟨hfailed, hj, hevq⟩
  · have harm : (s.supervising && bit (s.safety.block.func 2) 5 && !(s.outp 2).autoUsed && !(s.outp 2).tripped && !(s.outp 2).on
        && s.mayArm s.safety.block 2) = true := by
      have h1 : bit (s.safety.block.func 2) 5 = true := hauto
      have h2 : (s.outp 2).autoUsed = false := hused
      have h3 : (s.outp 2).tripped = false := htripped
      have h4 : (s.outp 2).on = false := hoff
      rw [hsup, h1, h2, h3, h4, hmay]
      rfl
    exact run_when_next (f := fun v => v.arm 2) harm
  · have hkind : kindOf (s.safety.block.func 1) = 1 := by
      have h1 : s.safety.block.func 1 = s.safety.block.func1 := rfl
      rw [h1]
      simpa [kindOf, fld] using hfunc
    have hon1 : (s.outp 1).on = true := hon
    have hdue : s.pulseDue 1 = true := by
      have hperiod : s.testPeriod 1 = 500 * ttMs := by simp [State.testPeriod, hkind]
      have hpulse1 : (s.outp 1).pulse = none := hpulse
      have htrip1 : (s.outp 1).tripAt = none := htrip
      have hlate1 : 500 * ttMs ≤ s.since (s.outp 1).lastPulse := hlate
      simp only [State.pulseDue, hsup, hkind, hpulse1, htrip1, hperiod, hlate1]
      rfl
    have hswitch : s.begin.pulseSwitch 1 = some sw := by
      have honb : (s.begin.outp 1).on = true := hon
      have hnextb : (s.begin.outp 1).nextSw = sw := hnext
      simp [State.pulseSwitch, honb, hnextb]
    have hexec := run_when_next (s := s) (f := fun v => v.pulse 1) hdue
    dsimp only at hexec
    rw [pulse_of hswitch] at hexec
    exact hexec
  · obtain ⟨t, hexec, -, hf, hevq⟩ := readback_next (i := .stuckNodeDetect sw) hsup rfl (by rw [hsup, hoff, hpulsing]; rfl) hsw hnone
    exact ⟨t, hexec, hf, hevq⟩
  · obtain ⟨t, hexec, -, hf, hevq⟩ := readback_next (i := .continuousReadbackFail sw) hsup rfl (by rw [hsup, hon, hpulsing]; rfl) hsw hnone
    exact ⟨t, hexec, hf, hevq⟩
  · obtain ⟨t, hexec, hkept, hf, hevq⟩ := readback_next (i := .stuckNodeDetect 0) (sw := 0) hsup rfl (by
      have hoff1 : (s.outp 1).on = false := hoff
      have hnone1 : s.pulsing 0 = false := by simp [State.pulsing, State.outp, hpulse]
      rw [hsup, hoff1, hnone1]
      rfl) (by decide) hnone
    obtain ⟨hmark, -, -, hdegu, hblock, -⟩ := markFailed_settles (s := s.begin) (supervising_parts hsup).2.1 0
    have hclk : (s.begin.markFailed 0).clk = s.clk := hmark .clk (by decide)
    have hmodeu : (s.begin.markFailed 0).mode = s.mode := hmark .mode (by decide)
    obtain ⟨hdegraded, hallow⟩ := toDegraded_enters (s := s.begin.markFailed 0) (by rw [hmodeu, hmode]; decide)
    rw [hclk, hblock] at hallow
    have hdegnone : (s.begin.markFailed 0).safety.degEnd = none := hdegu.trans hdeg
    generalize (s.begin.markFailed 0) = u at *
    refine ⟨t, hexec, by rw [hf, hnone]; rfl, ?_, ?_, hevq⟩
    · rw [hkept .mode (by decide), hdegraded]
    · rw [hkept .safety (by decide), hallow hdegnone]
      rfl
  · obtain ⟨t, hexec, hsafe, hf, hoff1, hoff2, -⟩ := enters_safe (s := s) (u := s.begin.markFailed 2) (i := .continuousReadbackFail 2) (by
        have hon2 : (s.outp 2).on = true := hon
        have hnone2 : s.pulsing 2 = false := by simp [State.pulsing, State.outp, hpulse]
        have hc : (s.supervising && (s.outp (2 / 2 + 1)).on && !s.pulsing 2) = true := by
          rw [hsup, hnone2]
          exact congrArg (fun b => true && b && !false) hon2
        refine (runL_when_next (f := fun v => v.switchFails 2) hc).trans ?_
        dsimp only
        rw [switchFails_second (s := s.begin) hfailed]) (by
        obtain ⟨hmark, -⟩ := markFailed_settles (s := s.begin) (supervising_parts hsup).2.1 2
        have hmodeu : (s.begin.markFailed 2).mode = s.mode := hmark .mode (by decide)
        rw [hmodeu]
        revert hmode
        cases s.mode.mode <;> decide)
    obtain ⟨-, hfailedu, -⟩ := markFailed_settles (s := s.begin) (supervising_parts hsup).2.1 2
    refine ⟨t, hexec, ?_, hsafe, hoff1, hoff2⟩
    rw [hf, hfailedu, show s.begin.safety.failed = s.safety.failed from rfl, hfailed]
    rfl
  · obtain ⟨t, hexec, hsafe, -, hoff1, hoff2, hd⟩ := enters_safe (s := s) (u := s.begin) (i := .degradedAllowanceExpire) (by
        have hc : s.allowanceOver = true := by
          simp [State.allowanceOver, hmode, hdeg, hover]
        exact runL_when_next (f := State.toSafe) hc) (by
        show s.mode.mode ∈ _
        rw [hmode]
        decide)
    exact ⟨t, hexec, hsafe, hd, hoff1, hoff2⟩

end Sys2Proof.Machine
end

section
/-!
A long frame that comes in sequence on a port that is UP, for this device (07 R191, R192, R195): what the hop leaves before the frame's own
effect.
-/
namespace Sys2Proof.Machine

-- one proof at a time: these proofs share the equations of the operations they unfold
set_option Elab.async false

/-! ### What the hop changes of a port -/

/-- A port that has heard a frame, or sent a short one: its crier bits, sequence numbers, counters and instants, and nothing that waits. -/
structure PortSt.heardAs (a b : PortSt) : Prop where
  same : b = { a with crier := b.crier, spaceN := b.spaceN, spaceS := b.spaceS, cnt := b.cnt, lastTx := b.lastTx }
  unackedN : b.spaceN.unacked = a.spaceN.unacked
  unackedS : b.spaceS.unacked = a.spaceS.unacked

theorem heardAs_refl (a : PortSt) : a.heardAs a := ⟨rfl, rfl, rfl⟩

theorem heardAs_trans {a b c : PortSt} (h : a.heardAs b) (k : b.heardAs c) : a.heardAs c := by
  refine ⟨?_, k.unackedN.trans h.unackedN, k.unackedS.trans h.unackedS⟩
  have hc := k.same
  rw [h.same] at hc
  exact hc

/-- The ports of t are those of s, each as it stands after a frame was heard. -/
structure State.portsHeard (s t : State) : Prop where
  length : t.ports.length = s.ports.length
  each : ∀ q, (s.port q).heardAs (t.port q)

theorem portsHeard_refl (s : State) : s.portsHeard s := ⟨rfl, fun _ => heardAs_refl _⟩

theorem portsHeard_trans {s t u : State} (h : s.portsHeard t) (k : t.portsHeard u) : s.portsHeard u :=
  ⟨k.length.trans h.length, fun q => heardAs_trans (h.each q) (k.each q)⟩

theorem portsHeard_of_ports {s t : State} (h : t.ports = s.ports) : s.portsHeard t := by
  refine ⟨by rw [h], fun q => ?_⟩
  have hq : t.port q = s.port q := congrArg (fun l : List PortSt => l.getD q PortSt.reset) h
  rw [hq]
  exact heardAs_refl _

theorem updPort_portsHeard {s : State} {p : Nat} {f : PortSt → PortSt} (h : ∀ x : PortSt, x.heardAs (f x)) : s.portsHeard (s.updPort p f) := by
  refine ⟨updAt_length _ _ _, fun q => ?_⟩
  by_cases hp : p = q
  · subst hp
    by_cases hlt : p < s.ports.length
    · rw [updPort_port_self s p f hlt]
      exact h _
    · have hnone : s.ports[p]? = none := List.getElem?_eq_none_iff.mpr (by omega)
      have hsame : s.updPort p f = s := by simp [State.updPort, updAt, hnone]
      rw [hsame]
      exact heardAs_refl _
  · rw [updPort_port_ne s p q f hp]
    exact heardAs_refl _

theorem takeCrier_portsHeard (s : State) (p : Nat) (b : Bool) : s.portsHeard (s.takeCrier p b) :=
  updPort_portsHeard fun _ => ⟨rfl, rfl, rfl⟩

theorem crierBit_portsHeard (s : State) (p : Nat) : s.portsHeard (s.crierBit p).2 := by
  unfold State.crierBit
  extract_lets c start msg g s1
  split
  · exact portsHeard_refl s
  · have hadv : s.onlyChanges [.glean] s1 := only_ite (only_glean s _) (only_refl _ s)
    exact portsHeard_trans (portsHeard_of_ports (hadv .ports (by decide))) (updPort_portsHeard fun _ => ⟨rfl, rfl, rfl⟩)

theorem sendShort_portsHeard (s : State) (p : Nat) (a b : Bool) : s.portsHeard (s.sendShort p a b) := by
  unfold State.sendShort
  dsimp only
  split
  · exact portsHeard_refl s
  · have hupd := updPort_portsHeard (s := (s.crierBit p).2) (p := p) (f := fun q => { q with lastTx := (s.crierBit p).2.wall })
      (fun _ => ⟨rfl, rfl, rfl⟩)
    exact portsHeard_trans (crierBit_portsHeard s p) (portsHeard_trans hupd (portsHeard_of_ports (by rfl)))

theorem sendShort_readvertised (s : State) (p : Nat) (a b : Bool) : s.glean.readvertised (s.sendShort p a b).glean := by
  unfold State.sendShort
  dsimp only
  split
  · exact readvertised_refl _
  · exact crierBit_readvertised s p

theorem space_updSpace_heardAs (q : PortSt) (isS : Bool) (f : SeqSpace → SeqSpace) (hf : ∀ x, (f x).unacked = x.unacked) :
    q.heardAs (q.updSpace isS f) := by
  unfold PortSt.updSpace
  cases isS
  · exact ⟨rfl, hf _, rfl⟩
  · exact ⟨rfl, rfl, hf _⟩

/-! ### The arrival -/

/-- What a hop leaves: all but the ports, the load last advertised, the line and the walk's instant. -/
structure State.arrivedAs (s u : State) : Prop where
  only : s.onlyChanges [.ports, .glean, .out, .tree] u
  tree : u.tree = { s.tree with walk := { s.tree.walk with since := u.tree.walk.since } }
  ports : s.portsHeard u
  glean : s.glean.readvertised u.glean

theorem onPort_parts {s : State} {p : Nat} (h : s.onPort p = true) :
    s.coreRuns = true ∧ p < 4 ∧ s.ports.length = 4 ∧ (s.port p).link = .up := by
  simp only [State.onPort, Bool.and_eq_true, decide_eq_true_eq] at h
  exact ⟨h.1.1.1, h.1.1.2, h.1.2, h.2⟩

/-- Port p after a frame of its space came in sequence. -/
def PortSt.tookNext (q : PortSt) (isS : Bool) : PortSt :=
  { q.updSpace isS (fun sp => { sp with rxNext := (sp.rxNext + 1) % 64, nakSent := false }) with
    cnt := { q.cnt with rx := sat 0xFFFFFFFF (q.cnt.rx + 1) } }

theorem tookNext_heardAs (q : PortSt) (isS : Bool) : q.heardAs (q.tookNext isS) := by
  have h := space_updSpace_heardAs q isS (fun sp => { sp with rxNext := (sp.rxNext + 1) % 64, nakSent := false }) (fun _ => rfl)
  refine ⟨?_, h.unackedN, h.unackedS⟩
  unfold PortSt.tookNext
  cases isS <;> rfl

/-- The next frame of its space is accepted, and acknowledged. -/
theorem hop_viaSpace {s : State} {p : Nat} (f : Frame) (cb : Bool) (h : s.onPort p = true) :
    s.hop (s.viaSpace p f cb) f = (true, ((s.takeCrier p cb).updPort p (fun q => q.tookNext (f.cls = 0))).sendShort p false false) := by
  obtain ⟨hcore, hp, hlen, hup⟩ := onPort_parts h
  unfold State.hop State.viaSpace
  dsimp only
  rw [if_neg (by simp [hup, hcore]), if_neg (by simp [hup]), if_pos rfl]
  rfl

/-- The hop of the next frame of its space. -/
theorem hop_arrivedAs {s : State} {p : Nat} (f : Frame) (cb : Bool) (h : s.onPort p = true) :
    s.arrivedAs (s.hop (s.viaSpace p f cb) f).2 := by
  have honly := hop_only s (s.viaSpace p f cb) f
  have htree : (s.hop (s.viaSpace p f cb) f).2.tree = s.tree := honly .tree (by decide)
  refine ⟨only_one honly, by rw [htree], ?_, ?_⟩
  · rw [hop_viaSpace f cb h]
    exact portsHeard_trans (portsHeard_trans (takeCrier_portsHeard s p cb) (updPort_portsHeard fun q => tookNext_heardAs q _))
      (sendShort_portsHeard _ _ _ _)
  · rw [hop_viaSpace f cb h]
    exact sendShort_readvertised _ _ _ _

theorem arrivedAs_trans {s t u : State} (h : s.arrivedAs t) (k : t.arrivedAs u) : s.arrivedAs u := by
  refine ⟨only_trans h.only k.only, ?_, portsHeard_trans h.ports k.ports, readvertised_trans h.glean k.glean⟩
  have ht := k.tree
  rw [h.tree] at ht
  exact ht

theorem touchWalk_arrivedAs (s : State) (a : Arrival) (f : Frame) : s.arrivedAs (s.touchWalk a f) := by
  unfold State.touchWalk
  dsimp only
  split
  · exact ⟨only_one (only_tree s _), rfl, portsHeard_of_ports (by rfl), readvertised_refl _⟩
  · exact ⟨only_refl _ s, rfl, portsHeard_refl s, readvertised_refl _⟩

/-- A frame for this device alone, listed in Table 7.4, that need not wait for the sequencer: its effect follows the hop. -/
theorem onFrame_inSequence {s : State} {p : Nat} {f : Frame} (cb : Bool) (act : State → State) (h : s.inSequence p f = true)
    (hlisted : frameListed f = true) (hgo : s.frameWaits f = false) :
    ∃ u, s.arrivedAs u ∧ s.onFrame (s.viaSpace p f cb) f act = act (u.takeOff (s.viaSpace p f cb) f) := by
  simp only [State.inSequence, Bool.and_eq_true, Bool.not_eq_true'] at h
  obtain ⟨⟨hport, hscope⟩, hown⟩ := h
  have harr := arrivedAs_trans (hop_arrivedAs f cb hport) (touchWalk_arrivedAs _ (s.viaSpace p f cb) f)
  have hok : (s.hop (s.viaSpace p f cb) f).1 = true := by rw [hop_viaSpace f cb hport]
  refine ⟨_, harr, ?_⟩
  unfold State.onFrame
  generalize s.hop (s.viaSpace p f cb) f = r at harr hok ⊢
  obtain ⟨ok, v⟩ := r
  dsimp only at harr hok ⊢
  rw [hok, Bool.not_true, if_neg Bool.false_ne_true]
  generalize v.touchWalk (s.viaSpace p f cb) f = u at harr ⊢
  have hownu : u.ownPos f.dest = true := by
    unfold State.ownPos State.isRoot State.hasHost
    rw [harr.tree, harr.only .ident (by decide)]
    exact hown
  have hgou : u.frameWaits f = false := by
    unfold State.frameWaits
    rw [harr.tree, harr.only .mode (by decide)]
    exact hgo
  have hspread : (u.spread (s.viaSpace p f cb) f).2 = u := by
    unfold State.spread
    rw [hscope]
    rfl
  rw [if_pos (by unfold State.actsOn; rw [hownu]; rfl), hspread, State.deliver, hlisted, hgou]
  rfl

end Sys2Proof.Machine
end

section
/-!
Little-endian fields of a frame's body, and the check value put after it (07 R189).
-/
namespace Sys2Proof.Machine

-- one proof at a time: these proofs share the equations of the operations they unfold
set_option Elab.async false

theorem ofLe_le : ∀ n v : Nat, ofLe (le n v) = v % 256 ^ n
  | 0, v => by simp [le, ofLe, Nat.mod_one]
  | n + 1, v => by
    rw [le, ofLe, ofLe_le n, BitVec.toNat_ofNat, show 256 ^ (n + 1) = 256 * 256 ^ n from pow_succ' _ _, Nat.mod_mul]

theorem slice_of_le {bs : List Byte} {o n : Nat} (h : o + n ≤ bs.length) : slice bs o n = (bs.drop o).take n := by
  have hlen : ((bs.drop o).take n).length = n := by simp; omega
  simp [slice, hlen]

/-- A field that lies within the first part. -/
theorem at_append_left {a b : List Byte} {o n : Nat} (h : o + n ≤ a.length) : at_ (a ++ b) o n = at_ a o n := by
  rw [at_, at_, slice_of_le h, slice_of_le (by simp; omega), List.drop_append_of_le_length (by omega),
    List.take_append_of_le_length (by simp; omega)]

/-- The field that is the second part. -/
theorem at_append_right (a b : List Byte) : at_ (a ++ b) a.length b.length = ofLe b := by
  rw [at_, slice_of_le (by simp), List.drop_left, List.take_length]

/-! ### The check value -/

theorem iter_lt {f : Nat → Nat} {m : Nat} (hf : ∀ x, x < m → f x < m) : ∀ (n x : Nat), x < m → iter f n x < m
  | 0, _, h => h
  | n + 1, x, h => iter_lt hf n (f x) (hf x h)

theorem crcReflByte_lt {poly c : Nat} (hp : poly < 2 ^ 32) (hc : c < 2 ^ 32) (b : Byte) : crcReflByte poly c b < 2 ^ 32 := by
  refine iter_lt (fun x hx => ?_) 8 _ (Nat.xor_lt_two_pow hc (by have := b.isLt; omega))
  have hshift : x >>> 1 < 2 ^ 32 := by
    rw [Nat.shiftRight_eq_div_pow]
    omega
  unfold crcReflBit
  split
  · exact Nat.xor_lt_two_pow hshift hp
  · exact hshift

theorem crc32c_lt (bs : List Byte) : crc32c bs < 2 ^ 32 := by
  have hfold (l : List Byte) (c : Nat) (hc : c < 2 ^ 32) : l.foldl (crcStep 1) c < 2 ^ 32 := by
    induction l generalizing c with
    | nil => exact hc
    | cons b l ih => exact ih _ (crcReflByte_lt (by decide) hc b)
  exact Nat.xor_lt_two_pow (hfold bs _ (by decide)) (by decide)

/-- A protected frame passes its check. -/
theorem checkOk_protect (f : Frame) (body : List Byte) : checkOk (protect f body) = true := by
  have hlen : (protect f body).payload.length = body.length + 4 := by simp [protect, le_length]
  have hbody : bodyOf (protect f body) = body := by
    unfold bodyOf
    rw [hlen, Nat.add_sub_cancel]
    exact List.take_left
  have hover : checkOver (protect f body) body = checkOver { f with payload := body ++ [0, 0, 0, 0] } body := by
    have hheader : headerBytes (protect f body) = headerBytes { f with payload := body ++ [0, 0, 0, 0] } := by
      unfold headerBytes
      rw [hlen]
      simp [protect]
    unfold checkOver
    rw [hheader]
  have hvalue : at_ (protect f body).payload body.length 4 = checkOver (protect f body) body := by
    have hat := at_append_right body (le 4 (checkOver { f with payload := body ++ [0, 0, 0, 0] } body))
    rw [le_length, ofLe_le] at hat
    rw [hover]
    exact hat.trans (Nat.mod_eq_of_lt (crc32c_lt _))
  unfold checkOk
  rw [hlen, hbody, Nat.add_sub_cancel, hvalue]
  simp

end Sys2Proof.Machine
end

section
/-!
SAFETY frames: the heartbeat and the report that a stack-mounted device sends, and what a supervisor makes of one (10 R293–R298).
-/
namespace Sys2Proof.Machine

-- one proof at a time: these proofs share the equations of the operations they unfold
set_option Elab.async false

/-! ### What is sent -/

theorem nextSup_settles (s : State) (p : Nat) : s.onlyChanges [.safety, .free] (s.nextSup p).2.2
    ∧ (s.nextSup p).2.2.safety = { s.safety with sup := (s.nextSup p).2.2.safety.sup } := by
  unfold State.nextSup
  extract_lets put_
  have hput (u : State) (r : Nat) : u.onlyChanges [.safety] (put_ u r) ∧ (put_ u r).safety = { u.safety with sup := (put_ u r).safety.sup } :=
    ⟨only_safety u _, rfl⟩
  clear_value put_
  split
  · exact ⟨only_one (hput s _).1, (hput s _).2⟩
  · exact ⟨only_step (hput s.took _).1 (only_one (took_only s)), (hput s.took _).2⟩

/-- What sending to the supervisors changes. -/
def safetySendParts : List Part := [.safety, .free, .ports]

/-- Only the counters of the supervisors may differ. -/
def SafetySt.countersOnly (f g : SafetySt) : Prop := ∃ l, g = { f with sup := l }

theorem route_of {s t : State} (htree : t.tree = s.tree) (hports : t.ports = s.ports) (hident : t.ident = s.ident)
    (hlegacy : t.legacy = s.legacy) (d : Nat) : t.route d = s.route d := by
  unfold State.route State.ownPos State.legacyPos State.homePos State.kidPort State.isRoot State.hasHost State.port
  rw [htree, hports, hident, hlegacy]

theorem sendSafety_settles (s : State) (kind time : Nat) :
    s.onlyChanges safetySendParts (s.sendSafety kind time) ∧ s.safety.countersOnly (s.sendSafety kind time).safety := by
  unfold State.sendSafety
  extract_lets cause item
  have hstep (u : State) (p : Nat) : u.onlyChanges safetySendParts ((u.nextSup p).2.2.sendTo
        (safetyFrame (u.nextSup p).2.2 p (u.nextSup p).1 (u.nextSup p).2.1 kind cause item time))
      ∧ u.safety.countersOnly ((u.nextSup p).2.2.sendTo
        (safetyFrame (u.nextSup p).2.2 p (u.nextSup p).1 (u.nextSup p).2.1 kind cause item time)).safety := by
    obtain ⟨honly, hsafety⟩ := nextSup_settles u p
    refine ⟨only_step (sendTo_only _ _) (only_one honly), ?_⟩
    rw [sendTo_only _ _ .safety (by decide)]
    exact ⟨_, hsafety⟩
  clear_value cause item
  induction s.supervisors generalizing s with
  | nil => exact ⟨only_refl _ s, s.safety.sup, rfl⟩
  | cons p l ih =>
    obtain ⟨h1, l1, e1⟩ := hstep s p
    obtain ⟨h2, l2, e2⟩ := ih ((s.nextSup p).2.2.sendTo
      (safetyFrame (s.nextSup p).2.2 p (s.nextSup p).1 (s.nextSup p).2.1 kind cause item time))
    refine ⟨only_trans h1 h2, l2, ?_⟩
    rw [List.foldl_cons]
    exact e2.trans (by rw [e1])

/-- The frame for the one supervisor, as it joins the queue of a port that trains. -/
theorem sendSafety_queued {s : State} {u q kind time : Nat} (hsup : s.supervisors = [u]) (hroute : s.route u = .out q)
    (htrains : s.trains q = true) :
    ∃ c sync, ((s.sendSafety kind time).flush.port q).txq.safety = (s.port q).txq.safety ++
      [{ frame := safetyFrame s u c sync kind s.causeBits (if s.causeBits = 0 then 0 else s.causeItem) time, src := none }] := by
  obtain ⟨hlt, hlink⟩ := trains_parts htrains
  obtain ⟨honly, -⟩ := nextSup_settles s u
  unfold State.sendSafety
  rw [hsup]
  dsimp only [List.foldl]
  refine ⟨(s.nextSup u).1, (s.nextSup u).2.1, ?_⟩
  generalize s.nextSup u = r at honly ⊢
  obtain ⟨c, sync, v⟩ := r
  dsimp only at honly ⊢
  have hports : v.ports = s.ports := honly .ports (by decide)
  have hport : v.port q = s.port q := congrArg (fun l : List PortSt => l.getD q PortSt.reset) hports
  have hframe : safetyFrame v u c sync kind s.causeBits (if s.causeBits = 0 then 0 else s.causeItem) time
      = safetyFrame s u c sync kind s.causeBits (if s.causeBits = 0 then 0 else s.causeItem) time := by
    unfold safetyFrame
    rw [honly .tree (by decide), honly .mode (by decide)]
  have hroutev : v.route u = .out q :=
    (route_of (honly .tree (by decide)) hports (honly .ident (by decide)) (honly .legacy (by decide)) u).trans hroute
  rw [hframe]
  generalize hf : safetyFrame s u c sync kind s.causeBits (if s.causeBits = 0 then 0 else s.causeItem) time = f
  have hdest : f.dest = u := hf ▸ rfl
  have hcls : f.cls = 0 := hf ▸ rfl
  have hsend : v.sendTo f = v.enqueue q { frame := f, src := none } := by
    unfold State.sendTo
    rw [hdest, hroutev]
  have henq : (v.enqueue q { frame := f, src := none }).port q = { v.port q with txq := { (v.port q).txq with
      safety := (v.port q).txq.safety ++ [{ frame := f, src := none }] } } := by
    unfold State.enqueue
    rw [updPort_port_self v q _ (hports ▸ hlt), hport]
    simp [hlink, hcls]
  rw [hsend, (flush_sameQueues (by rw [henq, hport]; exact hlink)).2.1, henq, hport]

end Sys2Proof.Machine
end

section
/-!
Reports of an enrolled device and the frames its supervisor hears (10 R293–R298).
-/
namespace Sys2Proof.Machine

-- one proof at a time: these proofs share the equations of the operations they unfold
set_option Elab.async false

/-! ### The frame of Table 10.4 -/

theorem causeBits_lt (s : State) : s.causeBits < 256 := by
  have hflag (b : Bool) (i : Nat) : flag b i ≤ 2 ^ i := by cases b <;> simp [flag]
  unfold State.causeBits
  have h0 := hflag (s.cells.any (fun c => c.ov.rep)) 0
  have h1 := hflag (s.cells.any (fun c => c.uv.rep)) 1
  have h2 := hflag (s.sweep.auxDeb.any Deb.rep) 2
  have h3 := hflag (s.cells.any (fun c => c.un.rep) || s.sweep.auxUn.any Deb.rep) 3
  have h5 := hflag (s.mode.mode = .safe || (s.mode.mode = .halted && s.mode.prior = some .safe)) 5
  omega

theorem modeCode_lt (m : Mode) : m.code < 256 := by cases m <;> decide

/-- The body of a SAFETY frame, as read back field by field. -/
theorem safetyFrame_reads (s : State) (sup counter : Nat) (sync : Bool) (kind cause item time : Nat) :
    (safetyFrame s sup counter sync kind cause item time).payload.length = 16
    ∧ at_ (safetyFrame s sup counter sync kind cause item time).payload 4 1 = kind % 256
    ∧ at_ (safetyFrame s sup counter sync kind cause item time).payload 5 1 = cause % 256
    ∧ at_ (safetyFrame s sup counter sync kind cause item time).payload 6 1 = item % 256
    ∧ at_ (safetyFrame s sup counter sync kind cause item time).payload 7 1 = s.mode.mode.code % 256
    ∧ at_ (safetyFrame s sup counter sync kind cause item time).payload 8 4 = time % 2 ^ 32 := by
  have htime := ofLe_le 4 time
  unfold safetyFrame protect
  dsimp only
  generalize checkOver _ _ = c
  refine ⟨by simp [le_length], ?_, ?_, ?_, ?_, ?_⟩ <;>
    rw [at_append_left (by simp [le_length]), at_, slice_of_le (by simp [le_length])]
  · simp [le, ofLe]
  · simp [le, ofLe]
  · simp [le, ofLe]
  · simp [le, ofLe]
  · exact (congrArg ofLe (by simp [le])).trans htime

/-- The heartbeat that a device sends is the frame of KIND 1. -/
theorem heartbeatFrame_check (s : State) (u c : Nat) (sync : Bool) (item time : Nat) (ht : time < 2 ^ 32) (hitem : s.causeBits = 0 → item = 0) :
    (safetyFrame s u c sync 1 s.causeBits item time).typ = 5 ∧ (safetyFrame s u c sync 1 s.causeBits item time).cls = 0
    ∧ (safetyFrame s u c sync 1 s.causeBits item time).dest = u ∧ (safetyFrame s u c sync 1 s.causeBits item time).src = s.tree.pos
    ∧ (safetyFrame s u c sync 1 s.causeBits item time).tag = 0
    ∧ (safetyFrame s u c sync 1 s.causeBits item time).payload.length = 16
    ∧ checkOk (safetyFrame s u c sync 1 s.causeBits item time) = true
    ∧ at_ (safetyFrame s u c sync 1 s.causeBits item time).payload 4 1 = 1
    ∧ at_ (safetyFrame s u c sync 1 s.causeBits item time).payload 5 1 = s.causeBits
    ∧ at_ (safetyFrame s u c sync 1 s.causeBits item time).payload 7 1 = s.mode.mode.code
    ∧ (s.causeBits = 0 → at_ (safetyFrame s u c sync 1 s.causeBits item time).payload 6 1 = 0)
    ∧ at_ (safetyFrame s u c sync 1 s.causeBits item time).payload 8 4 = time := by
  obtain ⟨hlen, h4, h5, h6, h7, h8⟩ := safetyFrame_reads s u c sync 1 s.causeBits item time
  rw [Nat.mod_eq_of_lt (causeBits_lt s)] at h5
  rw [Nat.mod_eq_of_lt (modeCode_lt _)] at h7
  rw [Nat.mod_eq_of_lt ht] at h8
  exact ⟨rfl, rfl, rfl, rfl, rfl, hlen, checkOk_protect _ _, h4, h5, h7, fun h => by rw [h6, hitem h], h8⟩

/-! ### The heartbeat -/

theorem heartbeat_settles {s : State} {b : Nat} (hbeat : s.beatInstant = some b) (hdue : s.safety.lastBeat < b) :
    s.heartbeat = (s.updSafety (fun f => { f with lastBeat := b })).sendSafety 1 (s.safety.lastEval % 2 ^ 32) := by
  unfold State.heartbeat
  rw [hbeat]
  dsimp only
  rw [if_pos hdue]

/-- A heartbeat once for each instant of the period. -/
theorem heartbeatSend_answer {s : State} {b q u : Nat} (hactive : s.limitsActive = true) (hmode : s.mode.mode ≠ .dormant)
    (hcore : s.coreRuns = true) (hbeat : s.beatInstant = some b) (hdue : s.safety.lastBeat < b) :
    ∃ t, exec .heartbeatSend s = .next t ∧ t.safety.lastBeat = b
      ∧ (s.supervisors = [u] → s.route u = .out q → s.trains q = true →
        (t.port q).txq.safety.length = (s.port q).txq.safety.length + 1
          ∧ ((t.port q).txq.safety.getLast?).any (fun x => x.frame.typ == 5 && x.frame.cls == 0 && x.frame.dest == u
            && x.frame.src == s.tree.pos && x.frame.tag == 0 && x.frame.payload.length == 16 && checkOk x.frame
            && at_ x.frame.payload 4 1 == 1 && at_ x.frame.payload 5 1 == s.causeBits && at_ x.frame.payload 7 1 == s.mode.mode.code
            && (s.causeBits != 0 || at_ x.frame.payload 6 1 == 0) && at_ x.frame.payload 8 4 == s.safety.lastEval % 2 ^ 32) = true)
      ∧ s.onlyChanges [.reply, .out, .safety, .free, .ports, .host, .glean, .expo] t := by
  generalize hv : s.begin.updSafety (fun f => { f with lastBeat := b }) = v
  have hsent : s.begin.heartbeat = v.sendSafety 1 (s.safety.lastEval % 2 ^ 32) := by
    rw [heartbeat_settles (s := s.begin) hbeat hdue, hv]
    rfl
  have hexec : exec .heartbeatSend s = .next { (v.sendSafety 1 (s.safety.lastEval % 2 ^ 32)).flush with pending := s.pending } := by
    rw [← hsent]
    exact (runCoreL_of_runs hcore).trans (runL_when_next (by simp [hactive, hmode]))
  obtain ⟨hsend, l, hsafety⟩ := sendSafety_settles v 1 (s.safety.lastEval % 2 ^ 32)
  have hbegin : s.begin.onlyChanges [.safety] v := hv ▸ updSafety_only _ _
  have honly : s.onlyChanges [.reply, .out, .safety, .free, .ports, .host, .glean, .expo]
      { (v.sendSafety 1 (s.safety.lastEval % 2 ^ 32)).flush with pending := s.pending } :=
    nextL_only (only_step hsend (only_one hbegin))
  have hbeatOf : (v.sendSafety 1 (s.safety.lastEval % 2 ^ 32)).flush.safety.lastBeat = b := by
    rw [flush_safety, hsafety, ← hv]
    rfl
  have hqueue (hsup : s.supervisors = [u]) (hroute : s.route u = .out q) (htrains : s.trains q = true) :=
    sendSafety_queued (s := v) (u := u) (q := q) (kind := 1) (time := s.safety.lastEval % 2 ^ 32)
      (by rw [← hv]; exact hsup) (by rw [← hv]; exact hroute) (by rw [← hv]; exact htrains)
  generalize (v.sendSafety 1 (s.safety.lastEval % 2 ^ 32)).flush = w at hexec honly hbeatOf hqueue
  refine ⟨_, hexec, hbeatOf, fun hsup hroute htrains => ?_, honly⟩
  · obtain ⟨c, sync, hq⟩ := hqueue hsup hroute htrains
    have hport : v.port q = s.port q := by rw [← hv]; rfl
    have hbits : v.causeBits = s.causeBits := by rw [← hv]; rfl
    have htree : v.tree.pos = s.tree.pos := by rw [← hv]; rfl
    have hvmode : v.mode.mode = s.mode.mode := by rw [← hv]; rfl
    have hf := heartbeatFrame_check v u c sync (if v.causeBits = 0 then 0 else v.causeItem) (s.safety.lastEval % 2 ^ 32)
      (Nat.mod_lt _ (by decide)) (fun h => if_pos h)
    rw [port_pending, hq, hport]
    generalize hfr : safetyFrame v u c sync 1 v.causeBits (if v.causeBits = 0 then 0 else v.causeItem) (s.safety.lastEval % 2 ^ 32) = f at hf
    obtain ⟨h1, h2, h3, h4, h5, h6, h7, h8, h9, h10, h11, h12⟩ := hf
    rw [hbits] at h9 h11
    rw [hvmode] at h10
    rw [htree] at h4
    refine ⟨by rw [List.length_append]; rfl, ?_⟩
    rw [List.getLast?_append]
    by_cases hzero : s.causeBits = 0
    · rw [hzero] at h9
      simp [hzero, h1, h2, h3, h4, h5, h6, h7, h8, h9, h10, h11 hzero, h12]
    · simp [hzero, h1, h2, h3, h4, h5, h6, h7, h8, h9, h10, h12]

/-! ### An input without a sample -/

theorem limitReport_settles (s : State) (before : List Bool) (time : Nat) : s.onlyChanges safetySendParts (s.limitReport before time) := by
  have hupd : s.onlyChanges safetySendParts { s with safety := { s.safety with lastEval := time } } := only_one (only_safety s _)
  unfold State.limitReport
  exact only_ite (only_trans hupd (sendSafety_settles _ _ _).1) hupd

/-- An input of OT_LIMIT that stayed without a sample for one period more counts one evaluation in violation. -/
theorem unobservedTimeout_answer {s : State} {k : Nat} (hactive : s.limitsActive = true) (hmode : s.mode.mode ≠ .dormant)
    (hk : k < 16) (hlen : s.sweep.auxUn.length = 16) (hot : s.safety.block.ot.testBit (16 + k) = true)
    (hlate : 2 * ttS * ((s.sweep.auxUn.getD k Deb.zero).bad + 1) ≤ s.clk.wall - s.sweep.auxSeen.getD k 0) :
    ∃ t, exec .unobservedTimeout s = .next t
      ∧ t.sweep.auxUn.getD k Deb.zero = debStep s.safety.block.debounce true (s.sweep.auxUn.getD k Deb.zero)
      ∧ s.onlyChanges [.reply, .out, .sweep, .safety, .free, .ports, .host, .glean, .expo] t := by
  have hexec : exec .unobservedTimeout s = .next { s.begin.unobserved.flush with pending := s.pending } :=
    runL_when_next (by simp [hactive, hmode])
  have hself (u : State) : u.unobserved.sweep.auxUn = u.sweep.auxUn.mapIdx (fun k (d : Deb) =>
      if u.otInput k && decide (2 * ttS * (d.bad + 1) ≤ u.since (u.sweep.auxSeen.getD k 0)) then debStep u.safety.block.debounce true d else d) := by
    unfold State.unobserved
    dsimp only
    rw [limitReport_settles _ _ _ .sweep (by decide)]
  have honly : s.begin.onlyChanges (.sweep :: safetySendParts) s.begin.unobserved := by
    unfold State.unobserved
    exact only_step (limitReport_settles _ _ _) (only_one (only_sweep _ _))
  obtain ⟨t, ht, honly', hflush⟩ := nextL_settles (ps := [.reply, .out, .sweep, .safety, .free, .ports, .host, .glean, .expo]) hexec
    (only_one honly)
  refine ⟨t, ht, ?_, honly'⟩
  rw [hflush .sweep (by decide), hself s.begin]
  have hlt : k < s.sweep.auxUn.length := hlen ▸ hk
  have hget : s.sweep.auxUn.getD k Deb.zero = s.sweep.auxUn[k] := by simp [List.getD, hlt]
  rw [hget] at hlate ⊢
  change (s.sweep.auxUn.mapIdx _).getD k Deb.zero = _
  have hdue : (s.begin.otInput k && decide (2 * ttS * (s.sweep.auxUn[k].bad + 1) ≤ s.begin.since (s.begin.sweep.auxSeen.getD k 0))) = true := by
    simp only [Bool.and_eq_true, decide_eq_true_eq]
    exact ⟨hot, hlate⟩
  rw [List.getD, List.getElem?_mapIdx, List.getElem?_eq_getElem hlt, Option.map_some, Option.getD_some, if_pos hdue]
  rfl

/-! ### What a supervisor hears -/

/-- What a position of the heard table becomes when it reports. -/
def Heard.reported (h : Heard) (pos wall cause counter : Nat) : Heard :=
  if h.pos = pos then { h with at_ := wall, cause := cause, out := false, ref := some counter } else h

/-- The supervisor's record of a SAFETY frame. -/
def State.heardNow (s : State) (pos counter cause : Nat) : State :=
  s.updSafety (fun f => { f with heard := f.heard.map (fun h => h.reported pos s.wall cause counter) })

/-- The functions that position pos feeds and that supervise. -/
def State.fedBy (s : State) (pos x : Nat) : Bool := bit (s.safety.block.func x) 4 && (s.safety.block.feeds x).contains pos

theorem safetyHeard_eq (s : State) (pos counter cause item : Nat) : s.safetyHeard pos counter cause item =
    if cause = 0 then s.heardNow pos counter cause
    else (s.heardNow pos counter cause).tripBoth ((s.heardNow pos counter cause).fedBy pos) 3 pos item := by
  unfold State.safetyHeard
  generalize hu : s.heardNow pos counter cause = u
  have hu' : s.updSafety (fun f => { f with heard := f.heard.map (fun (h : Heard) =>
      if h.pos = pos then { h with at_ := s.wall, cause := cause, out := false, ref := some counter } else h) }) = u := hu
  dsimp only
  rw [hu']
  split
  · rfl
  · have hblock := (tripIf_kept u (u.fedBy pos 1) 1 3 pos item).1
    have hsecond : (u.tripIf (u.fedBy pos 1) 1 3 pos item).fedBy pos 2 = u.fedBy pos 2 := by
      unfold State.fedBy at hblock ⊢
      rw [hblock]
    unfold State.tripBoth
    rw [← hsecond]
    rfl

/-- An accepted SAFETY frame of an enrolled position: the hop, its credit, and what the supervisor makes of it. -/
theorem safetyFrame_heard {s : State} {p : Nat} {f : Frame} {hd : Heard} (cb : Bool) (hin : s.inSequence p f = true) (htyp : f.typ = 5)
    (hcls : f.cls = 0) (hlen : f.payload.length = 16) (hcheck : checkOk f = true) (hsup : s.supervising = true)
    (hheard : s.heardOf f.src = some hd) (hcount : counterVerdict hd.ref (at_ f.payload 0 2) (bit (at_ f.payload 2 1) 0) = true) :
    ∃ u, s.begin.onlyChanges [.ports, .glean, .out, .tree] u
      ∧ exec (.safetyFrameReceive (.port p (s.port p).spaceS.rxNext cb) f) s =
        .next { (u.safetyHeard f.src (at_ f.payload 0 2) (at_ f.payload 5 1) (at_ f.payload 6 1)).flush with pending := s.pending } := by
  have hvia : s.begin.viaSpace p f cb = .port p (s.port p).spaceS.rxNext cb := by
    unfold State.viaSpace
    rw [decide_eq_true hcls]
    rfl
  obtain ⟨u, harr, heq⟩ := onFrame_inSequence (s := s.begin) cb (fun v => v.safetyIn (s.begin.viaSpace p f cb) f) hin
    (by simp [frameListed, htyp, hcls, hlen]) (by simp [State.frameWaits, sequenced, htyp])
  rw [hvia] at heq
  have htake : u.takeOff (.port p (s.port p).spaceS.rxNext cb) f = u := by simp [State.takeOff, htyp]
  have hsafety : u.safety = s.safety := harr.only .safety (by decide)
  have hsupu : u.supervising = true := by
    unfold State.supervising State.awake State.inMode
    rw [harr.only .mode (by decide)]
    exact hsup
  have hheardu : u.heardOf f.src = some hd := by
    unfold State.heardOf
    rw [hsafety]
    exact hheard
  generalize Arrival.port p (s.port p).spaceS.rxNext cb = a at heq htake ⊢
  refine ⟨u.consume a f, only_step (consume_only u a f) harr.only, ?_⟩
  have hin : u.safetyIn a f = (u.consume a f).safetyHeard f.src (at_ f.payload 0 2) (at_ f.payload 5 1) (at_ f.payload 6 1) := by
    unfold State.safetyIn
    simp [hsupu, hheardu, hcheck, hcount]
  rw [htake, hin] at heq
  exact runL_next_eq (f := fun v => v.onFrame a f (fun v => v.safetyIn a f)) heq

/-- Settles O22: the heartbeat and the unobserved input, and the frame heard with and without a cause. -/
theorem safetyReportsAndFrames : Obligations.SafetyReportsAndFrames := by
  unfold Obligations.SafetyReportsAndFrames
  refine ⟨fun s b k q u hactive hmode => ⟨heartbeatSend_answer hactive hmode, fun hk hlen hot hlate => ?_⟩,
    fun s p cb f hd hin htyp hcls hlen hcheck hsup hheard hcount => ?_⟩
  · obtain ⟨t, ht, hdeb, honly⟩ := unobservedTimeout_answer hactive hmode hk hlen hot hlate
    generalize s.sweep.auxUn.getD k Deb.zero = d at hdeb
    refine ⟨t, ht, by rw [hdeb]; rfl, fun h => ?_, fun h => ?_, honly⟩
    · simp only [hdeb, debStep, if_true, decide_eq_true h, Bool.or_true]
    · simp only [hdeb, debStep, if_true, decide_eq_false (Nat.not_le.mpr h), Bool.or_false]
  · obtain ⟨u, honly, hexec⟩ := safetyFrame_heard cb hin htyp hcls hlen hcheck hsup hheard hcount
    have hsafety : u.safety = s.safety := honly .safety (by decide)
    have hwall : u.wall = s.clk.wall := congrArg ClkSt.wall (honly .clk (by decide))
    rw [safetyHeard_eq] at hexec
    refine ⟨fun hcause => ?_, fun hcause hon hfunc hfeeds => ?_⟩
    · rw [if_pos hcause] at hexec
      obtain ⟨t, ht, honly', hflush⟩ := nextL_settles (ps := [.reply, .out, .safety, .ports, .host, .glean, .expo, .tree]) hexec
        (only_step (updSafety_only _ _) (only_one honly))
      refine ⟨t, ht, ?_, honly'⟩
      rw [hflush .safety (by decide)]
      unfold State.heardNow State.updSafety
      dsimp only
      rw [hsafety, hwall, hcause]
      rfl
    · rw [if_neg hcause] at hexec
      obtain ⟨t, ht, -, hflush⟩ := nextL_settles (ps := [.reply, .out, .safety, .ports, .host, .glean, .expo, .tree, .flash]) hexec
        (only_step (tripBoth_only _ _ _ _ _) (only_step (updSafety_only _ _) (only_one honly)))
      have houtp := tripBoth_outp (u.heardNow f.src (at_ f.payload 0 2) (at_ f.payload 5 1))
        ((u.heardNow f.src (at_ f.payload 0 2) (at_ f.payload 5 1)).fedBy f.src) 3 f.src (at_ f.payload 6 1) (x := 1) (Or.inl rfl)
        (by
          unfold State.heardNow State.updSafety State.fedBy
          dsimp only
          rw [hsafety, Bool.and_eq_true]
          exact ⟨hfunc, List.contains_iff_mem.mpr hfeeds⟩)
        (by
          unfold State.heardNow State.updSafety State.outp
          dsimp only
          rw [hsafety]
          exact hon)
      have hout : t.safety.out1 = _ := (congrArg SafetySt.out1 (hflush .safety (by decide))).trans houtp
      exact ⟨t, ht, by rw [hout]; rfl, by rw [hout]; rfl, by rw [hout]; rfl, by rw [hout]; rfl, by rw [hout]; rfl⟩

end Sys2Proof.Machine
end

section
/-!
The requests of host software on the mode (14 R371, R372, R381).
-/
namespace Sys2Proof.Machine

-- one proof at a time: these proofs share the equations of the operations they unfold
set_option Elab.async false

/-! ### What waits for the data flash is programmed -/

theorem programEntry_step (s : State) : s.onlyChanges [.flash, .wdog] s.programEntry ∧ s.programEntry.flash.queue = s.flash.queue.tail := by
  unfold State.programEntry
  split
  · next h => exact ⟨only_refl _ s, by rw [h]; rfl⟩
  · next e q h =>
    dsimp only
    refine ⟨only_ite (only_step (eraseBegins_only _ _) (only_one (only_flash s _))) (only_one (only_flash s _)), ?_⟩
    rw [h]
    split
    · rw [eraseBegins_flash]
      rfl
    · rfl

theorem programAll_settles (s : State) : s.onlyChanges [.flash, .wdog] s.programAll ∧ s.programAll.flash.queue = [] := by
  have hiter (n : Nat) (u : State) (h : u.flash.queue.length = n) :
      u.onlyChanges [.flash, .wdog] (iter State.programEntry n u) ∧ (iter State.programEntry n u).flash.queue = [] := by
    induction n generalizing u with
    | zero => exact ⟨only_refl _ u, List.length_eq_zero_iff.mp h⟩
    | succ n ih =>
      obtain ⟨honly, htail⟩ := programEntry_step u
      obtain ⟨hmore, hnil⟩ := ih u.programEntry (by rw [htail, List.length_tail, h]; rfl)
      exact ⟨only_trans honly hmore, hnil⟩
  exact hiter _ s rfl

/-- The oldest parish entry is programmed where no SAFETY_WRITE waits for it. -/
theorem parishProgrammed_step {s : State} (h : ∀ w ∈ s.safety.parishQ, w.tag = none) :
    s.onlyChanges [.safety, .flash, .wdog] s.parishProgrammed ∧ s.parishProgrammed.safety.parishQ = s.safety.parishQ.tail
      ∧ s.parishProgrammed.flash.queue = s.flash.queue ∧ s.parishProgrammed.safety.out1 = s.safety.out1
      ∧ s.parishProgrammed.safety.out2 = s.safety.out2 := by
  unfold State.parishProgrammed
  split
  · next hnil => exact ⟨only_refl _ s, by rw [hnil]; rfl, rfl, rfl, rfl⟩
  · next w q hq =>
    have htag : w.tag = none := h w (by rw [hq]; exact List.mem_cons_self)
    extract_lets l f u v
    have hv : u.onlyChanges [.flash, .wdog] v ∧ v.flash.queue = s.flash.queue := by
      unfold v
      split
      · exact ⟨eraseBegins_only _ _, (congrArg FlashSt.queue (eraseBegins_flash u .data) :)⟩
      · exact ⟨only_refl _ u, rfl⟩
    have hsafety : v.safety = u.safety := hv.1 .safety (by decide)
    clear_value v
    rw [htag]
    dsimp only
    exact ⟨only_step hv.1 (only_one (only_safety s _)), by rw [hsafety, hq]; rfl, hv.2, by rw [hsafety], by rw [hsafety]⟩

theorem programWaiting_settles {s : State} (h : ∀ w ∈ s.safety.parishQ, w.tag = none) :
    s.onlyChanges [.safety, .flash, .wdog] s.programWaiting ∧ s.programWaiting.safety.parishQ = []
      ∧ s.programWaiting.flash.queue = [] ∧ s.programWaiting.safety.out1 = s.safety.out1
      ∧ s.programWaiting.safety.out2 = s.safety.out2 := by
  have hiter (n : Nat) (u : State) (hlen : u.safety.parishQ.length = n) (htag : ∀ w ∈ u.safety.parishQ, w.tag = none) :
      u.onlyChanges [.safety, .flash, .wdog] (iter State.parishProgrammed n u) ∧ (iter State.parishProgrammed n u).safety.parishQ = []
        ∧ (iter State.parishProgrammed n u).flash.queue = u.flash.queue ∧ (iter State.parishProgrammed n u).safety.out1 = u.safety.out1
        ∧ (iter State.parishProgrammed n u).safety.out2 = u.safety.out2 := by
    induction n generalizing u with
    | zero => exact ⟨only_refl _ u, List.length_eq_zero_iff.mp hlen, rfl, rfl, rfl⟩
    | succ n ih =>
      obtain ⟨honly, htail, hqueue, h1, h2⟩ := parishProgrammed_step htag
      obtain ⟨honly', hnil, hqueue', h1', h2'⟩ := ih u.parishProgrammed (by rw [htail, List.length_tail, hlen]; rfl)
        (fun w hw => htag w (List.mem_of_mem_tail (htail ▸ hw)))
      exact ⟨only_trans honly honly', hnil, hqueue'.trans hqueue, h1'.trans h1, h2'.trans h2⟩
  obtain ⟨hall, hnil⟩ := programAll_settles s
  have hsafety : s.programAll.safety = s.safety := hall .safety (by decide)
  obtain ⟨honly, hparish, hqueue, h1, h2⟩ := hiter s.safety.parishQ.length s.programAll (by rw [hsafety]) (by rw [hsafety]; exact h)
  refine ⟨only_trans (only_one hall) honly, hparish, hqueue.trans hnil, h1.trans (by rw [hsafety]), h2.trans (by rw [hsafety])⟩

/-! ### SHIP -/

theorem setSwitch_open (c : CellSt) (now wall : Nat) : (c.setSwitch now wall false false).closed = false := by
  unfold CellSt.setSwitch
  dsimp only
  split
  · next h => exact h.symm
  · rfl

theorem openAll_closed (s : State) : ∀ c ∈ s.openAll.cells, c.closed = false := by
  intro c hc
  obtain ⟨i, hi, rfl⟩ := List.mem_mapIdx.mp hc
  exact setSwitch_open _ _ _

/-- The outputs and the switches open before SHIP waits for the data flash. -/
def State.shipOpened (s : State) : State := (((s.ledger 0x15 0 0).setMode .ship).outputsOff).openAll

theorem shipOpened_settles (s : State) : s.onlyChanges [.mode, .flash, .host, .out, .safety, .cells] s.shipOpened
    ∧ s.shipOpened.mode = { s.mode with mode := .ship } ∧ s.shipOpened.safety.parishQ = s.safety.parishQ
    ∧ s.shipOpened.safety.out1.on = false ∧ s.shipOpened.safety.out2.on = false := by
  have hledger := ledger_only s 0x15 0 0
  have hset := setMode_only (s.ledger 0x15 0 0) .ship
  have hmode := setMode_mode (s.ledger 0x15 0 0) .ship
  have hsafety : ((s.ledger 0x15 0 0).setMode .ship).safety = s.safety := (hset .safety (by decide)).trans (hledger .safety (by decide))
  rw [hledger .mode (by decide)] at hmode
  unfold State.shipOpened
  have honly : s.onlyChanges [.mode, .flash, .host, .out, .safety, .cells] ((((s.ledger 0x15 0 0).setMode .ship).outputsOff).openAll) :=
    only_step (openAll_only _) (only_step (outputsOff_only _) (only_step hset (only_one hledger)))
  generalize (s.ledger 0x15 0 0).setMode .ship = u at *
  refine ⟨honly, hmode, ?_, rfl, rfl⟩
  change u.safety.parishQ = _
  rw [hsafety]

/-- Erases end, ports, wire, sharing and charger stop, and the keep island is gone. -/
def State.shipped (s : State) : State :=
  { s with
    flash := { s.flash with erases := [] }
    ports := s.ports.map (fun (q : PortSt) => { q with fn := .stopped, link := .disabled })
    wire := { s.wire with fn := .stopped, spu := none, opTag := none, pulled := false }
    mode := { s.mode with shipDue := false, resetAt := none }
    power := { s.power with shareOn := false, onVaux := false, chg := .off, nowMa := 0, resOpen := true, stageOn := false, vpwrGood := false, keepOnRes := false } }

theorem enterShip_eq (s : State) : s.enterShip = s.shipOpened.programWaiting.shipped := by
  unfold State.enterShip State.shipOpened
  dsimp only
  generalize State.programWaiting _ = u
  rfl

/-- SHIP, once the data flash writes are complete. -/
theorem enterShip_settles {s : State} (h : ∀ w ∈ s.safety.parishQ, w.tag = none) :
    s.enterShip.mode.mode = .ship ∧ s.enterShip.power.resOpen = true ∧ s.enterShip.power.stageOn = false ∧ s.enterShip.power.chg = .off
    ∧ s.enterShip.safety.out1.on = false ∧ s.enterShip.safety.out2.on = false ∧ s.enterShip.flash.queue = []
    ∧ s.enterShip.safety.parishQ = [] ∧ s.enterShip.reply = s.reply ∧ ∀ c ∈ s.enterShip.cells, c.closed = false := by
  obtain ⟨hopened, hmode, hparish, h1, h2⟩ := shipOpened_settles s
  obtain ⟨honly, hnil, hqueue, ho1, ho2⟩ := programWaiting_settles (s := s.shipOpened) (by rw [hparish]; exact h)
  have hcells : s.shipOpened.programWaiting.cells = s.shipOpened.cells := honly .cells (by decide)
  have hmodeW : s.shipOpened.programWaiting.mode = { s.mode with mode := .ship } := (honly .mode (by decide)).trans hmode
  have hreply : s.shipOpened.programWaiting.reply = s.reply := (honly .reply (by decide)).trans (hopened .reply (by decide))
  rw [← ho1] at h1
  rw [← ho2] at h2
  have hclosed : ∀ c ∈ s.shipOpened.programWaiting.cells, c.closed = false := by
    rw [hcells]
    exact openAll_closed _
  rw [enterShip_eq]
  generalize s.shipOpened.programWaiting = u at *
  refine ⟨?_, rfl, rfl, rfl, h1, h2, hqueue, hnil, hreply, hclosed⟩
  change u.mode.mode = _
  rw [hmodeW]

/-- An honoured SHIP request ends in SHIP once its answer has left. -/
theorem shipRequest_honoured {s : State} (hreach : s.reachable = true) (hmode : s.mode.mode ∈ [Mode.quiet, .safe]) (hok : s.shipVerdict = stOk)
    (hparish : ∀ w ∈ s.safety.parishQ, w.tag = none) :
    ∃ t, exec (.shipRequest 0x5348) s = .next t ∧ t.mode.mode = .ship ∧ t.power.resOpen = true ∧ t.power.stageOn = false
      ∧ t.power.chg = .off ∧ t.safety.out1.on = false ∧ t.safety.out2.on = false ∧ t.flash.queue = [] ∧ t.safety.parishQ = []
      ∧ t.reply = some { status := stOk, value := 0, words := [], bytes := [] } ∧ ∀ c ∈ t.cells, c.closed = false := by
  have hlock : s.begin.mode.mode ≠ .lockout := fun h => absurd hmode (by rw [show s.mode.mode = .lockout from h]; decide)
  generalize hu : ({ s.begin with mode := { s.mode with shipDue := true } } : State).answer stOk = u
  have hreq : regOp (requestShip 0x5348) s.begin = u := by
    have hv : s.begin.shipVerdict = stOk := hok
    unfold regOp regAny
    rw [if_pos (show s.begin.reachable = true from hreach)]
    simp only [if_neg hlock, requestShip, hv]
    exact hu
  have hexec : exec (.shipRequest 0x5348) s = .next { u.flush.enterShip with pending := s.pending } := by
    refine run_next_eq (f := fun v => (regOp (requestShip 0x5348) v).flush.settleShip) ?_
    have hdue : u.flush.mode.shipDue = true := by rw [flush_mode, ← hu]; rfl
    rw [hreq, State.settleShip, if_pos hdue]
  have hparishU : ∀ w ∈ u.flush.safety.parishQ, w.tag = none := by
    rw [flush_safety, ← hu]
    exact hparish
  have hreply : u.flush.reply = some { status := stOk, value := 0, words := [], bytes := [] } := by rw [flush_reply, ← hu]; rfl
  have hship := enterShip_settles hparishU
  rw [hreply] at hship
  generalize u.flush.enterShip = v at hexec hship
  exact ⟨_, hexec, hship⟩

/-! ### A wrong key -/

theorem modeResetRequest_denied {s : State} {key : Nat} (hreach : s.reachable = true) (hkey : key ≠ 0x5253) :
    exec (.modeResetRequest key) s = .next { s with out := [], reply := some { status := stDenied, value := 0, words := [], bytes := [] } } := by
  refine run_next_eq (u := s.begin.answer stDenied) ?_
  unfold regAny
  rw [if_pos (show s.begin.reachable = true from hreach)]
  simp only [requestReset, bne_iff_ne.mpr hkey, if_true]

theorem resumeRequest_denied {s : State} {key : Nat} (hreach : s.reachable = true) (hkey : key ≠ 0x5245) :
    exec (.resumeRequest key) s = .next { s with out := [], reply := some { status := stDenied, value := 0, words := [], bytes := [] } } :=
  runReg_denied hreach (by simp [requestResume, hkey])

theorem shipRequest_denied {s : State} {key : Nat} (hreach : s.reachable = true) (hlock : s.mode.mode ≠ .lockout)
    (hdue : s.mode.shipDue = false) (hkey : key ≠ 0x5348) :
    ∃ t, exec (.shipRequest key) s = .next t ∧ s.onlyChanges [.reply, .out, .ports, .host, .glean, .expo] t
      ∧ t.reply = some { status := stDenied, value := 0, words := [], bytes := [] } := by
  have hreq : regOp (requestShip key) s.begin = s.begin.answer stDenied := by
    unfold regOp regAny
    rw [if_pos (show s.begin.reachable = true from hreach)]
    simp only [if_neg (show s.begin.mode.mode ≠ .lockout from hlock), requestShip, bne_iff_ne.mpr hkey, if_true]
  obtain ⟨t, ht, honly, hflush⟩ := nextL_settles (i := .shipRequest key) (ps := [.reply, .out, .ports, .host, .glean, .expo])
    (runS_next hreq hdue) (only_one (answer_only _ _ _ _ _))
  exact ⟨t, ht, honly, hflush .reply (by decide)⟩

/-! ### RESET and RESUME -/

theorem modeResetRequest_accepted {s : State} (hreach : s.reachable = true) :
    exec (.modeResetRequest 0x5253) s = .next { s with
      out := [], reply := some { status := stOk, value := 0, words := [], bytes := [] }
      mode := { s.mode with resetAt := some (s.mode.resetAt.getD (s.clk.wall + 20480)) } } := by
  refine run_next_eq (u := ({ s.begin with mode := { s.mode with resetAt := some (s.mode.resetAt.getD (s.clk.wall + 20480)) } } : State).answer stOk) ?_
  unfold regAny
  rw [if_pos (show s.begin.reachable = true from hreach)]
  have hor : s.mode.resetAt.or (some (s.clk.wall + 20480)) = some (s.mode.resetAt.getD (s.clk.wall + 20480)) := by
    cases s.mode.resetAt <;> rfl
  rw [← hor]
  rfl

theorem resumeRequest_accepted {s : State} (hreach : s.reachable = true) (hsafe : s.mode.mode = .safe) (hclosed : s.fault.isOpen = false)
    (hfailed : s.safety.failed = [false, false, false, false]) :
    ∃ t, exec (.resumeRequest 0x5245) s = .next t ∧ t.mode.mode = (if s.sweep.fn = .running then .run else .quiet)
      ∧ t.reply = some { status := stOk, value := 0, words := [], bytes := [] }
      ∧ s.onlyChanges [.reply, .out, .mode, .flash, .host, .cells] t := by
  generalize hm : (if s.sweep.fn = .running then Mode.run else .quiet) = m
  have hset := setMode_only s.begin m
  have hmode := setMode_mode s.begin m
  generalize hu : s.begin.setMode m = u at hset hmode
  have hreq : requestResume 0x5245 s.begin = (stOk, u.switches) := by
    have hm' : (if s.begin.sweep.fn = .running then Mode.run else .quiet) = m := hm
    unfold requestResume
    rw [hm', hu, if_neg]
    simp only [show s.begin.mode.mode = .safe from hsafe, show s.begin.fault.isOpen = false from hclosed,
      show s.begin.safety.failed = _ from hfailed]
    decide
  have honly : s.begin.onlyChanges [.reply, .out, .mode, .flash, .host, .cells] (u.switches.answer stOk) :=
    only_step (answer_only _ _ _ _ _) (only_step (switches_only u) (only_one hset))
  have hexec : exec (.resumeRequest 0x5245) s = .next { u.switches.answer stOk with pending := s.pending } :=
    runReg_next hreach (by rw [hsafe]; decide) hreq
  refine ⟨_, hexec, ?_, rfl, next_only honly⟩
  change u.mode.mode = m
  rw [hmode]

/-- Settles O23: a wrong key, SHIP, RESET and RESUME. -/
theorem modeRequests : Obligations.ModeRequests := by
  unfold Obligations.ModeRequests
  intro s key hreach
  exact ⟨fun hlock hdue hship hreset hresume => ⟨modeResetRequest_denied hreach hreset, resumeRequest_denied hreach hresume,
      shipRequest_denied hreach hlock hdue hship⟩,
    fun hmode hok hparish => shipRequest_honoured hreach hmode hok hparish, modeResetRequest_accepted hreach,
    fun hsafe hclosed hfailed => resumeRequest_accepted hreach hsafe hclosed hfailed⟩

end Sys2Proof.Machine
end

section
/-!
The return to QUIET, DORMANT and its wake, and the reset pin (14 R375, R382–R384, R379).
-/
namespace Sys2Proof.Machine

-- one proof at a time: these proofs share the equations of the operations they unfold
set_option Elab.async false

/-! ### RUN to QUIET -/

theorem runToQuiet_answer {s : State} (hcore : s.coreRuns = true) (hrun : s.mode.mode = .run) (hstopped : s.allStopped = true)
    (hidle : s.expo.state = .idle) :
    ∃ t, exec .runToQuiet s = .next t ∧ t.mode = { s.mode with mode := .quiet } ∧ s.onlyChanges [.reply, .out, .mode, .flash, .host] t := by
  have hdue : s.idleInRun = true := by simp [State.idleInRun, hrun, hstopped, hidle]
  have hset := setMode_only s.begin .quiet
  have hmode := setMode_mode s.begin .quiet
  have hexec : exec .runToQuiet s = .next { s.begin.setMode .quiet with pending := s.pending } :=
    (runCore_of_runs hcore).trans (run_when_next hdue)
  generalize s.begin.setMode .quiet = u at hset hmode hexec
  exact ⟨_, hexec, hmode, next_only (only_one hset)⟩

/-! ### The entry to DORMANT -/

/-- The mode of a device that enters DORMANT. -/
def ModeSt.toDormant (m : ModeSt) (wall rtc : Nat) (held : Bool) : ModeSt :=
  { m with mode := .dormant, dormantAt := wall, haltHeld := false, fromSafe := decide (m.mode = .safe), sweepHeld := held, lampAt := rtc }

/-- The mode after the entry, with what a wake returns to. -/
def State.dormantMode (s : State) : State :=
  { s.setMode .dormant with mode := { (s.setMode .dormant).mode with
      dormantAt := s.clk.wall, haltHeld := false, fromSafe := decide (s.mode.mode = .safe)
      sweepHeld := decide (s.sweep.fn = FnState.running), lampAt := s.clk.rtc } }

/-- The functions end. -/
def State.functionsEnd (s : State) : State := (((s.stopSweep).abortSurvey false).abortBalance).discardExposure

/-- Tests and the wire end, and every switch opens. -/
def State.testsEnd (s : State) : State := ((s.abandonStep).abortWire true).openAll

/-- What is left to do once the device is powered down: the snapshot, the charger, the interrupted survey. -/
def State.dormantKept (s : State) (survey : Option (Nat × Nat × Nat × Nat)) : State :=
  { s.writeSnapshot.chgStop .off with kept := { s.writeSnapshot.kept with survey := survey } }

theorem enterDormant_eq (s : State) : ∃ k, s.enterDormant = s.dormantMode.functionsEnd.testsEnd.powerDown.dormantKept k := by
  have hset := setMode_only s .dormant
  have hwall : (s.setMode .dormant).wall = s.clk.wall := congrArg ClkSt.wall (hset .clk (by decide))
  have hrtc : (s.setMode .dormant).clk.rtc = s.clk.rtc := congrArg ClkSt.rtc (hset .clk (by decide))
  have hsweep : (s.setMode .dormant).sweep = s.sweep := hset .sweep (by decide)
  refine ⟨if s.survey.fn = .running then s.kept.survey else none, ?_⟩
  unfold State.enterDormant State.dormantMode State.functionsEnd State.testsEnd
  dsimp only
  rw [hwall, hrtc, hsweep]
  generalize State.powerDown _ = u
  rfl

theorem noteExcite_fn (s : State) : s.noteExcite.survey.fn = s.survey.fn := by
  unfold State.noteExcite
  dsimp only
  split <;> rfl

theorem closeBlock_fn (s : State) (o : Nat) : (s.closeBlock o false).survey.fn = s.survey.fn := by
  unfold State.closeBlock
  split <;> rfl

/-- A survey that ends without its block leaves the function in the state asked for. -/
theorem endSurvey_fn (s : State) (o : Nat) (fn : FnState) : (s.endSurvey o false fn).survey.fn = fn := by
  unfold State.endSurvey
  dsimp only
  rw [switches_only _ .survey (by decide), closeBlock_fn]
  exact noteExcite_fn _

theorem abortSurvey_stops (s : State) : (s.abortSurvey false).survey.fn = .stopped := by
  unfold State.abortSurvey
  dsimp only
  split
  · assumption
  · split
    · exact congrArg SurveySt.fn (switches_only _ .survey (by decide))
    · exact endSurvey_fn s _ _

theorem abortBalance_stops (s : State) : s.abortBalance.bal.fn = .stopped := by
  unfold State.abortBalance
  split
  · assumption
  · exact congrArg BalanceSt.fn (switches_only _ .bal (by decide))

theorem functionsEnd_settles (s : State) : s.onlyChanges [.sweep, .kept, .cells, .survey, .bal, .host, .ports, .tree, .expo] s.functionsEnd
    ∧ s.functionsEnd.survey.fn = .stopped ∧ s.functionsEnd.bal.fn = .stopped ∧ s.functionsEnd.expo.state = .idle := by
  have hsurvey := abortSurvey_stops s.stopSweep
  have hbal := abortBalance_stops (s.stopSweep.abortSurvey false)
  have hsame : ((s.stopSweep.abortSurvey false).abortBalance).survey = (s.stopSweep.abortSurvey false).survey :=
    abortBalance_only _ .survey (by decide)
  unfold State.functionsEnd
  refine ⟨only_step (discardExposure_only _) (only_step (abortBalance_only _) (only_step (abortSurvey_only _ _) (only_one (stopSweep_only s)))),
    ?_, ?_, rfl⟩
  · exact (congrArg SurveySt.fn ((discardExposure_only _ .survey (by decide)).trans hsame)).trans hsurvey
  · exact (congrArg BalanceSt.fn (discardExposure_only _ .bal (by decide))).trans hbal

theorem testsEnd_settles (s : State) : s.onlyChanges (.wire :: .diag :: .cells :: answerParts) s.testsEnd
    ∧ ∀ c ∈ s.testsEnd.cells, c.closed = false :=
  ⟨only_step (openAll_only _) (only_step (abortWire_only _ _) (only_one (abandonStep_only s))), openAll_closed _⟩

/-- What powering down leaves of the granary, and of the rest. -/
theorem powerDown_settles (s : State) : s.onlyChanges [.glean, .expo, .host, .checks, .survey, .granary, .ports, .tree, .clk] s.powerDown
    ∧ s.powerDown.survey.fn = s.survey.fn ∧ s.powerDown.expo.state = s.expo.state ∧ s.powerDown.clk.rtc = s.clk.rtc
    ∧ ∀ b ∈ s.powerDown.granary, b.1 < 0x10000 := by
  refine ⟨fun p hp => ?_, rfl, rfl, rfl, fun b hb => ?_⟩
  · cases p <;> first | rfl | exact absurd (by decide) hp
  · exact of_decide_eq_true (List.mem_filter.mp hb).2

theorem dormantEntry_answer {s : State} {w : Nat} (hcore : s.coreRuns = true) (hstation : s.mode.station = false)
    (hmode : s.mode.mode ∈ [Mode.quiet, .run, .survey, .commit, .safe]) (hcommit : s.flash.commit.isOpen = false)
    (hgrace : s.graceDue = false) (hcut : s.mode.cutSince = some w) (hover : s.mode.lossMs * ttMs ≤ s.clk.wall - w) :
    ∃ t, exec .dormantEntry s = .next t ∧ t.mode.mode = .dormant ∧ t.mode.fromSafe = decide (s.mode.mode = .safe)
      ∧ t.mode.sweepHeld = decide (s.sweep.fn = .running) ∧ t.bal.fn = .stopped ∧ t.survey.fn = .stopped
      ∧ t.expo.state = .idle ∧ t.power.chg = .off ∧ (∀ c ∈ t.cells, c.closed = false)
      ∧ (∀ b ∈ t.granary, b.1 < 0x10000) ∧ t.flash.bank0 = s.flash.bank0 ∧ t.flash.bank1 = s.flash.bank1
      ∧ t.safety.block = s.safety.block ∧ t.clk.rtc = s.clk.rtc := by
  have hloss : s.lossOver = true := by
    have hin : s.inMode [.quiet, .run, .survey, .commit, .safe] = true := List.contains_iff_mem.mpr hmode
    simp [State.lossOver, hstation, hin, State.commitOpen, hcommit, hcut, State.since, hover]
  have hdue : s.dormantDue = true := by simp [State.dormantDue, hloss, hgrace]
  obtain ⟨k, hk⟩ := enterDormant_eq s.begin
  have hexec : exec .dormantEntry s = .next { s.begin.enterDormant with pending := s.pending } :=
    (runCore_of_runs hcore).trans (run_when_next hdue)
  rw [hk] at hexec
  obtain ⟨hset, hmodeSet, hflashSet⟩ : s.begin.onlyChanges [.mode, .flash, .host, .out] s.begin.dormantMode
      ∧ s.begin.dormantMode.mode = s.mode.toDormant s.clk.wall s.clk.rtc (decide (s.sweep.fn = FnState.running))
      ∧ s.flash.ledgered s.begin.dormantMode.flash := by
    have hm := setMode_mode s.begin .dormant
    have hf : s.flash.ledgered (s.begin.setMode .dormant).flash := setMode_ledgered s.begin .dormant
    have ho := setMode_only s.begin .dormant
    unfold State.dormantMode
    generalize s.begin.setMode .dormant = v at hm hf ho ⊢
    refine ⟨only_step (only_mode v _) ho, ?_, hf⟩
    rw [hm]
    rfl
  generalize s.begin.dormantMode = u1 at hexec hset hmodeSet hflashSet
  obtain ⟨hfun, hsurvey2, hbal2, hexpo2⟩ := functionsEnd_settles u1
  generalize u1.functionsEnd = u2 at hexec hfun hsurvey2 hbal2 hexpo2
  obtain ⟨htest, hcells3⟩ := testsEnd_settles u2
  generalize u2.testsEnd = u3 at hexec htest hcells3
  obtain ⟨hdown, hsurvey4, hexpo4, hrtc4, hgran4⟩ := powerDown_settles u3
  generalize u3.powerDown = u4 at hexec hdown hsurvey4 hexpo4 hrtc4 hgran4
  have hsnap := writeSnapshot_only u4
  unfold State.dormantKept at hexec
  generalize u4.writeSnapshot = u5 at hexec hsnap
  obtain ⟨q, n, l, hflash⟩ := hflashSet
  have hmode5 : u5.mode = u1.mode := by
    rw [hsnap .mode (by decide), hdown .mode (by decide), htest .mode (by decide), hfun .mode (by decide)]
  have hflash5 : u5.flash = u1.flash := by
    rw [hsnap .flash (by decide), hdown .flash (by decide), htest .flash (by decide), hfun .flash (by decide)]
  have hsafety5 : u5.safety = s.safety := by
    rw [hsnap .safety (by decide), hdown .safety (by decide), htest .safety (by decide), hfun .safety (by decide), hset .safety (by decide)]
    rfl
  have hbal5 : u5.bal = u2.bal := by
    rw [hsnap .bal (by decide), hdown .bal (by decide), htest .bal (by decide)]
  have hsurvey5 : u5.survey.fn = .stopped := by
    rw [hsnap .survey (by decide), hsurvey4, htest .survey (by decide), hsurvey2]
  have hexpo5 : u5.expo.state = .idle := by
    rw [hsnap .expo (by decide), hexpo4, htest .expo (by decide), hexpo2]
  have hcells5 : u5.cells = u3.cells := by
    rw [hsnap .cells (by decide), hdown .cells (by decide)]
  have hclk5 : u5.clk.rtc = s.clk.rtc := by
    rw [hsnap .clk (by decide), hrtc4, htest .clk (by decide), hfun .clk (by decide), hset .clk (by decide)]
    rfl
  have hgran5 : u5.granary = u4.granary := hsnap .granary (by decide)
  refine ⟨_, hexec, ?_, ?_, ?_, ?_, hsurvey5, hexpo5, rfl, ?_, ?_, ?_, ?_, ?_, hclk5⟩
  · exact congrArg ModeSt.mode (hmode5.trans hmodeSet)
  · exact congrArg ModeSt.fromSafe (hmode5.trans hmodeSet)
  · exact congrArg ModeSt.sweepHeld (hmode5.trans hmodeSet)
  · exact (congrArg BalanceSt.fn hbal5).trans hbal2
  · exact fun c hc => hcells3 c (hcells5 ▸ hc)
  · exact fun b hb => hgran4 b (hgran5 ▸ hb)
  · exact (congrArg FlashSt.bank0 (hflash5.trans hflash) :)
  · exact (congrArg FlashSt.bank1 (hflash5.trans hflash) :)
  · exact congrArg SafetySt.block hsafety5

/-! ### The wake -/

theorem legacySend_only (s : State) : s.onlyChanges [.ports, .out] s.legacySend := by
  unfold State.legacySend
  split
  · exact only_refl _ s
  · exact only_ite (only_refl _ s) (only_step (emit_only _ _) (only_one (updPort_only s _ _)))

theorem legacyAsk_only (s : State) (l : List LegacyReq) : s.onlyChanges [.ports, .out, .legacy] (s.legacyAsk l) := by
  unfold State.legacyAsk
  dsimp only
  exact only_ite (only_step (legacySend_only _) (only_one (only_legacy s _))) (only_one (only_legacy s _))

theorem runPort_only (s : State) (p : Nat) : s.onlyChanges [.ports, .out, .legacy] (s.runPort p) := by
  unfold State.runPort
  extract_lets u
  have hu : s.onlyChanges [.ports, .out, .legacy] u := only_one (updPort_only s p _)
  clear_value u
  exact only_ite (only_step (legacyAsk_only _ _) (only_step (only_legacy u _) hu)) hu

/-- The crystal runs again; the auxiliary ages leave out the time in DORMANT, and the charger waits. -/
def State.wokenFirst (s : State) (link : Bool) (p : Nat) : State :=
  let s := { s with mode := { s.mode with wakeSource := if link then 1 else 3, wakePort := if link then p else 0
                                          cutSince := s.mode.cutSince.map (fun _ => s.wall) }
                    clk := { s.clk with xtalOn := true }
                    sweep := { s.sweep with auxSeen := s.sweep.auxSeen.map (fun w => if w < s.mode.dormantAt then w + s.since s.mode.dormantAt else s.wall) } }
  s.updPower (fun w => { w with chg := if !w.en || w.chem = 0 then .off else if w.hold || w.ntc then .fault else .wait })

/-- The device answers again: then its ports start. -/
def State.wokenUp (s : State) (link : Bool) (p : Nat) : State :=
  let s := s.wokenFirst link p
  ([0, 1, 2, 3].filter (fun q => (s.port q).fn = .running)).foldl (fun s q => s.runPort q) s

theorem wokenUp_settles (s : State) (link : Bool) (p : Nat) :
    s.onlyChanges [.mode, .clk, .sweep, .power, .ports, .out, .legacy] (s.wokenUp link p)
    ∧ (s.wokenUp link p).mode.wakeSource = (if link = true then 1 else 3) ∧ (s.wokenUp link p).mode.fromSafe = s.mode.fromSafe
    ∧ (s.wokenUp link p).mode.sweepHeld = s.mode.sweepHeld ∧ (s.wokenUp link p).clk = { s.clk with xtalOn := true } := by
  unfold State.wokenUp
  dsimp only
  have hv : s.onlyChanges [.mode, .clk, .sweep, .power] (s.wokenFirst link p) := fun q hq => by
    cases q <;> first | rfl | exact absurd (by decide) hq
  have hmode0 : (s.wokenFirst link p).mode.wakeSource = (if link = true then 1 else 3) ∧ (s.wokenFirst link p).mode.fromSafe = s.mode.fromSafe
      ∧ (s.wokenFirst link p).mode.sweepHeld = s.mode.sweepHeld := ⟨rfl, rfl, rfl⟩
  have hclk0 : (s.wokenFirst link p).clk = { s.clk with xtalOn := true } := rfl
  generalize s.wokenFirst link p = v at *
  have hports (l : List Nat) : v.onlyChanges [.ports, .out, .legacy] (l.foldl (fun s q => s.runPort q) v) := only_foldl fun w q => runPort_only w q
  have hall := hports ([0, 1, 2, 3].filter (fun q => (v.port q).fn = .running))
  have hmode := hall .mode (by decide)
  have hclk := hall .clk (by decide)
  obtain ⟨hsource, hsafe, hheld⟩ := hmode0
  exact ⟨only_step hall (only_one hv), by rw [hmode, hsource], by rw [hmode, hsafe], by rw [hmode, hheld], by rw [hclk, hclk0]⟩

/-- SAFE or QUIET is entered, with the watchdog armed anew. -/
def State.wakeMode (s : State) : State :=
  if s.mode.fromSafe then ((s.rearmWdog).setMode .safe).writeSnapshot else (s.rearmWdog).setMode .quiet

theorem wakeMode_settles (s : State) : s.onlyChanges [.wdog, .mode, .flash, .host, .out, .kept, .sweep] s.wakeMode
    ∧ s.wakeMode.mode = { s.mode with mode := if s.mode.fromSafe = true then .safe else .quiet } ∧ s.wakeMode.wdog.count = 0 := by
  have hrearm : s.onlyChanges [.wdog] s.rearmWdog := only_wdog s _
  have hset (m : Mode) : s.onlyChanges [.wdog, .mode, .flash, .host, .out] (s.rearmWdog.setMode m) :=
    only_step (setMode_only _ m) (only_one hrearm)
  have hmode (m : Mode) : (s.rearmWdog.setMode m).mode = { s.mode with mode := m } := setMode_mode _ m
  have hwdog (m : Mode) : (s.rearmWdog.setMode m).wdog = s.rearmWdog.wdog := setMode_only _ m .wdog (by decide)
  unfold State.wakeMode
  cases s.mode.fromSafe
  · exact ⟨only_one (hset .quiet), hmode .quiet, (congrArg WdogSt.count (hwdog .quiet) :)⟩
  · have hsnap := writeSnapshot_only (s.rearmWdog.setMode .safe)
    exact ⟨only_step hsnap (only_one (hset .safe)), (hsnap .mode (by decide)).trans (hmode .safe),
      (congrArg WdogSt.count ((hsnap .wdog (by decide)).trans (hwdog .safe)) :)⟩

/-- The interrupted survey is reported. -/
def State.wakeSurvey (s : State) : State :=
  match s.kept.survey with
  | some (tag, point, group, t0) =>
    { s with kept := { s.kept with survey := none }, survey := { s.survey with last := 5, point := point, group := group } }.ledgerAt
      0x0E (put tag 0 16 + put point 16 6 + put group 22 2) t0 t0 none
  | none => s

theorem wakeSurvey_settles (s : State) : s.onlyChanges [.kept, .survey, .flash] s.wakeSurvey ∧ s.wakeSurvey.kept.survey = none := by
  have hboth (x : RetainedSt) (y : SurveySt) : s.onlyChanges [.kept, .survey] { s with kept := x, survey := y } := fun q hq => by
    cases q <;> first | rfl | exact absurd (by decide) hq
  unfold State.wakeSurvey
  split
  · exact ⟨only_step (ledgerAt_only _ _ _ _ _ _) (only_one (hboth _ _)), (congrArg RetainedSt.survey (ledgerAt_only _ _ _ _ _ _ .kept (by decide)) :)⟩
  · next h => exact ⟨only_refl _ s, h⟩

/-- A wake without a held SWEEP. -/
theorem wake_eq {s : State} (h : s.mode.sweepHeld = false) (link : Bool) (p : Nat) : ∃ m, s.wake link p = { (s.wokenUp link p).wakeMode.wakeSurvey with mode := m }
    ∧ m = { (s.wokenUp link p).wakeMode.wakeSurvey.mode with fromSafe := false, sweepHeld := false } := by
  have hheld : (s.wokenUp link p).wakeMode.wakeSurvey.mode.sweepHeld = false := by
    rw [(wakeSurvey_settles _).1 .mode (by decide), (wakeMode_settles _).2.1]
    exact (wokenUp_settles s link p).2.2.2.1.trans h
  refine ⟨_, ?_, rfl⟩
  have hdef : s.wake link p = (let u := (s.wokenUp link p).wakeMode.wakeSurvey
      let held := u.mode.sweepHeld
      let u := { u with mode := { u.mode with fromSafe := false, sweepHeld := false } }
      if !held then u else (if u.mode.mode = .quiet then u.runSweep.setMode .run else u.runSweep).switches) := rfl
  rw [hdef]
  dsimp only
  rw [if_pos (by rw [hheld]; rfl)]

theorem dormantWake_answer {s : State} (link : Bool) (p : Nat) (hmode : s.mode.mode = .dormant) (hheld : s.mode.sweepHeld = false) :
    ∃ t, exec (.dormantWake link p) s = .next t ∧ t.mode.mode = (if s.mode.fromSafe = true then .safe else .quiet)
      ∧ t.mode.wakeSource = (if link = true then 1 else 3) ∧ t.clk.xtalOn = true ∧ t.wdog.count = 0 ∧ t.kept.survey = none
      ∧ t.safety = s.safety ∧ t.clk.rtc = s.clk.rtc := by
  obtain ⟨m, hwake, hm⟩ := wake_eq (s := s.begin) hheld link p
  have hexec : exec (.dormantWake link p) s = .next { (s.begin.wake link p).flush with pending := s.pending } :=
    runL_when_next (decide_eq_true hmode)
  rw [hwake] at hexec
  obtain ⟨honly1, hsource, hsafe, -, hclk1⟩ := wokenUp_settles s.begin link p
  generalize s.begin.wokenUp link p = u1 at *
  obtain ⟨honly2, hmode2, hcount⟩ := wakeMode_settles u1
  generalize u1.wakeMode = u2 at *
  obtain ⟨honly3, hsurvey⟩ := wakeSurvey_settles u2
  generalize u2.wakeSurvey = u3 at *
  have hclk : u3.clk = { s.clk with xtalOn := true } := by
    rw [honly3 .clk (by decide), honly2 .clk (by decide), hclk1]
    rfl
  have hsafety : u3.safety = s.safety := by
    rw [honly3 .safety (by decide), honly2 .safety (by decide), honly1 .safety (by decide)]
    rfl
  have hmode3 : u3.mode = { u1.mode with mode := if s.mode.fromSafe = true then .safe else .quiet } := by
    rw [honly3 .mode (by decide), hmode2, hsafe]
    rfl
  rw [hmode3] at hm
  have hflush := only_step (pending_only _ s.pending) (only_one (ps := flushParts) (flush_only { u3 with mode := m }))
  generalize ({ (State.flush { u3 with mode := m }) with pending := s.pending } : State) = t at hexec hflush
  refine ⟨t, hexec, ?_, ?_, ?_, ?_, ?_, ?_, ?_⟩
  · rw [hflush .mode (by decide), hm]
  · rw [hflush .mode (by decide), hm]
    exact hsource
  · exact (congrArg ClkSt.xtalOn ((hflush .clk (by decide)).trans hclk) :)
  · exact (congrArg WdogSt.count ((hflush .wdog (by decide)).trans (honly3 .wdog (by decide))) :).trans hcount
  · exact (congrArg RetainedSt.survey (hflush .kept (by decide)) :).trans hsurvey
  · exact (hflush .safety (by decide)).trans hsafety
  · exact (congrArg ClkSt.rtc ((hflush .clk (by decide)).trans hclk) :)

/-! ### The reset pin -/

theorem resetTo_safety (s : State) (c : Nat) (m : Mode) : (s.resetTo c m).safety.block = s.safety.nv.block
    ∧ (s.resetTo c m).safety.out1.on = false ∧ (s.resetTo c m).safety.out2.on = false ∧ (s.resetTo c m).safety.session = none := by
  have h (u : State) : (u.setMode m).safety = u.safety := setMode_only u m .safety (by decide)
  unfold State.resetTo
  dsimp only
  rw [h]
  exact ⟨rfl, rfl, rfl, rfl⟩

theorem pinReset_answer {s : State} {n : Nat} (takes : Bool) (hgood : s.power.vpwrGood = true) (hship : s.mode.mode ≠ .ship) (hlow : 10000 ≤ n) :
    ∃ t, exec (.pinReset n takes) s = .next t ∧ t.mode.mode = .bist ∧ t.mode.cause = 7 ∧ t.clk.rtc = s.clk.rtc
      ∧ t.safety.block = s.safety.nv.block ∧ t.safety.out1.on = false ∧ t.safety.out2.on = false ∧ t.safety.session = none := by
  have hdue : (s.power.vpwrGood && s.mode.mode != .ship && decide (2000 ≤ n) && (decide (10000 ≤ n) || takes)) = true := by
    simp [hgood, hship, hlow, show 2000 ≤ n by omega]
  have hexec : exec (.pinReset n takes) s = .next { s.begin.resetBy 7 with pending := s.pending } := run_when_next hdue
  have hmode := resetTo_mode s.begin 7 .bist
  have hclk := resetTo_clk s.begin 7 .bist
  have hsafety := resetTo_safety s.begin 7 .bist
  unfold State.resetBy at hexec
  generalize s.begin.resetTo 7 .bist = u at hexec hmode hclk hsafety
  exact ⟨_, hexec, (congrArg ModeSt.mode hmode :), (congrArg ModeSt.cause hmode :), (congrArg ClkSt.rtc hclk :), hsafety⟩

/-- Settles O24: the return to QUIET, the entry to DORMANT and the wake, and RESET_N. -/
theorem dormantAndPinReset : Obligations.DormantAndPinReset := by
  unfold Obligations.DormantAndPinReset
  intro s w p n link takes
  exact ⟨runToQuiet_answer, dormantEntry_answer, dormantWake_answer link p, pinReset_answer takes⟩

end Sys2Proof.Machine
end

section
/-!
The clock monitor and the read of tree time (11 R313, Table 11.1; 17 R438).
-/
namespace Sys2Proof.Machine

-- one proof at a time: these proofs share the equations of the operations they unfold
set_option Elab.async false

theorem moveJobs_only (s : State) (i : Nat) (b : Bool) : s.onlyChanges [.ports, .glean] (s.moveJobs i b) := by
  unfold State.moveJobs
  dsimp only
  exact only_step (admitAll_only _) (only_step (only_glean _ _) (only_one (only_foldl fun u g => updGleaner_only u g _)))

theorem islandFail_only (s : State) (i : Nat) : s.onlyChanges [.ports, .glean] (s.islandFail i) :=
  only_ite (only_refl _ s) (only_step (moveJobs_only _ _ _) (only_one (only_glean s _)))

/-- What a failed clock changes beside its mark. -/
def clockParts : List Part := [.clk, .kept, .safety, .host, .ports, .glean]

theorem clockEffect_only (s : State) (b : Nat) : s.onlyChanges clockParts (s.clockEffect b) :=
  only_ite (only_one (only_clk s _)) (only_ite (only_one (only_kept s _)) (only_ite (only_one (outputsOff_only s))
    (only_ite (only_one (only_host s _)) (only_ite (only_one (islandFail_only s _)) (only_refl _ s)))))

/-- The first clock that fails is marked, and raises FLT_CLOCK. -/
def State.clockFailed (s : State) (b : Nat) : State :=
  { s with
    clocks := 2 ^ b
    fault := { s.fault with evq := s.fault.evq ++ [{ id := 16, item := b, time := s.clk.tt, mode := s.mode.mode.code }] } }

theorem clockFailed_only (s : State) (b : Nat) : s.onlyChanges [.clocks, .fault] (s.clockFailed b) := fun p hp => by
  cases p <;> first | rfl | exact absurd (by decide) hp

theorem pending_same {t : State} {l : List Instr} (h : t.pending = l) : { t with pending := l } = t := by
  subst h
  rfl

/-- An exec that flushes the ports and takes no waiting command, by the state u of its effect. -/
theorem nextL_flush {s u : State} (h : u.pending = s.pending) : ({ u.flush with pending := s.pending } : State) = u.flush :=
  pending_same ((flush_only u .pending (by decide)).trans h)

theorem clockMonitorWindow_next {s u : State} {b n : Nat} (hmon : s.monitors b = true) (hu : s.begin.clockWindow b n = u) :
    exec (.clockMonitorWindow b n) s = .next { u.flush with pending := s.pending } := by
  rw [← hu]
  exact runL_when_next (c := s.monitors b) hmon

theorem clockMonitorWindow_flush {s u : State} {b n : Nat} (hmon : s.monitors b = true) (hu : s.begin.clockWindow b n = u)
    (hpending : u.pending = s.pending) : exec (.clockMonitorWindow b n) s = .next u.flush :=
  (clockMonitorWindow_next hmon hu).trans (congrArg _ (nextL_flush hpending))

section
variable {s : State} {b n lo hi : Nat} (hlimits : clockLimits b = some (hi, lo))
include hlimits

/-- The first clock to fail is marked, and has its effect. -/
theorem clockWindow_fails (hawake : s.awake = true) (hlow : n < lo) (hzero : s.clocks = 0) :
    s.clockWindow b n = (s.clockFailed b).clockEffect b := by
  unfold State.clockWindow
  rw [hlimits]
  dsimp only
  rw [if_pos hlow, hzero, if_neg (by simp [bit]), Nat.zero_add]
  have hraw : (({ s with clocks := 2 ^ b } : State).rawFlag 16 && !s.rawFlag 16) = true := by
    change (2 ^ b != 0 && !(s.clocks != 0)) = true
    simp [hzero]
  unfold State.raiseLevel
  rw [if_pos hraw, raise_of_awake (s := { s with clocks := 2 ^ b }) hawake]
  rfl

theorem clockWindow_between (hge : lo ≤ n) (hlt : n < hi) : s.clockWindow b n = s := by
  unfold State.clockWindow
  rw [hlimits]
  dsimp only
  rw [if_neg (by omega), if_neg (by omega)]

/-- The last marked clock is good again. -/
theorem clockWindow_good (hlohi : lo ≤ hi) (hge : hi ≤ n) (hmark : s.clocks = 2 ^ b) :
    (s.clockWindow b n).clocks = 0 ∧ (s.clockWindow b n).fault = s.fault := by
  unfold State.clockWindow
  rw [hlimits]
  dsimp only
  rw [if_neg (by omega), if_pos hge]
  generalize hu : (if (decide (b = 4) && !s.host.refclk) = true then
    State.trainPcie { s with host := { s.host with refclk := true } } else s) = u
  have hsame : s.onlyChanges [.host] u := by
    rw [← hu]
    exact only_ite (only_step (only_ite (only_host _ _) (only_refl _ _)) (only_one (only_host s _))) (only_refl _ s)
  have hclocks : u.clocks = 2 ^ b := (hsame .clocks (by decide)).trans hmark
  rw [if_neg (by rw [hclocks]; simp [bit])]
  have hzero : u.clocks - 2 ^ b = 0 := by rw [hclocks, Nat.sub_self]
  have hfault : u.fault = s.fault := hsame .fault (by decide)
  split
  · exact ⟨hzero, hfault⟩
  · exact ⟨hzero, hfault⟩

end

theorem clockLimits_le {b hi lo : Nat} (h : clockLimits b = some (hi, lo)) : lo ≤ hi := by
  unfold clockLimits at h
  split at h
  · simp at h; omega
  · split at h
    · simp at h; omega
    · split at h
      · simp at h; omega
      · split at h
        · simp at h; omega
        · split at h
          · simp at h; omega
          · split at h
            · simp at h; omega
            · exact absurd h (by simp)

theorem monitors_of_reachable {s : State} {b : Nat} (hreach : s.reachable = true) (hb : b = 0 ∨ b = 1) : s.monitors b = true := by
  obtain ⟨hawake, hcore⟩ := reachable_parts hreach
  have hxtal : s.crystalRuns = true := (Bool.and_eq_true_iff.mp hcore).1
  rcases hb with rfl | rfl <;> simp [State.monitors, hawake, hxtal]

/-- A read through a data window. -/
theorem runWindow_next {f : State → Nat × State} {s u : State} {v : Nat} (hreach : s.reachable = true) (hlock : s.mode.mode ≠ .lockout)
    (h : f s.begin = (v, u)) : runWindow f s = .next { u.answer stOk v [v] with pending := s.pending } := by
  have hreach' : s.begin.reachable = true := hreach
  unfold runWindow run
  simp only [hreach', Bool.not_true, Bool.false_eq_true, if_false, if_neg (show s.begin.mode.mode ≠ .lockout from hlock), h]

theorem timeLoRead_answer {s : State} (hreach : s.reachable = true) (hlock : s.mode.mode ≠ .lockout) :
    exec .timeLoRead s = .next { s with
      out := [], clk := { s.clk with timeHi := s.clk.tt / 2 ^ 32 % 2 ^ 32 }
      reply := some { status := stOk, value := s.clk.tt % 2 ^ 32, words := [s.clk.tt % 2 ^ 32], bytes := [] } } :=
  runWindow_next (f := fun v => v.readHost 0xA08) hreach hlock rfl

/-- Settles O26: a clock that fails, is good again or neither, and the read of TIME_LO. -/
theorem clockMonitorAndTimeRead : Obligations.ClockMonitorAndTimeRead := by
  unfold Obligations.ClockMonitorAndTimeRead
  intro s b n lo hi hreach
  have hawake : s.begin.awake = true := (reachable_parts hreach).1
  refine ⟨fun hlimits hmon => ⟨fun hlow hzero => ?_, fun hge hmark => ?_, fun hge hlt => ?_⟩, fun hlow hzero => ?_, fun hge hmark => ?_,
    fun hlow hzero => ?_, timeLoRead_answer hreach⟩
  · have hexec := clockMonitorWindow_next hmon (clockWindow_fails (s := s.begin) hlimits hawake hlow hzero)
    have honly := clockEffect_only (s.begin.clockFailed b) b
    generalize (s.begin.clockFailed b).clockEffect b = v at hexec honly
    have hclocks : v.clocks = 2 ^ b := honly .clocks (by decide)
    have hfault : v.fault = (s.begin.clockFailed b).fault := honly .fault (by decide)
    have hclocks' : v.flush.clocks = 2 ^ b := (flush_only v .clocks (by decide)).trans hclocks
    have hfault' : v.flush.fault = (s.begin.clockFailed b).fault := (flush_fault v).trans hfault
    generalize v.flush = x at hexec hclocks' hfault'
    exact ⟨_, hexec, hclocks', congrArg FaultSt.evq hfault'⟩
  · have hexec := clockMonitorWindow_next (n := n) hmon rfl
    obtain ⟨hclocks, hfault⟩ := clockWindow_good (s := s.begin) hlimits (clockLimits_le hlimits) hge hmark
    generalize s.begin.clockWindow b n = v at hexec hclocks hfault
    have hclocks' : v.flush.clocks = 0 := (flush_only v .clocks (by decide)).trans hclocks
    have hfault' : v.flush.fault = s.fault := (flush_fault v).trans hfault
    generalize v.flush = x at hexec hclocks' hfault'
    exact ⟨_, hexec, hclocks', hfault'⟩
  · exact clockMonitorWindow_flush hmon (clockWindow_between (s := s.begin) hlimits hge hlt) rfl
  · exact clockMonitorWindow_flush (monitors_of_reachable hreach (Or.inr rfl))
      (clockWindow_fails (s := s.begin) (b := 1) (lo := 32) (hi := 109) rfl hawake hlow hzero) rfl
  · have hgood : s.begin.clockWindow 1 n = { s.begin with clocks := 0 } := by
      unfold State.clockWindow
      rw [show clockLimits 1 = some (109, 32) from rfl]
      dsimp only
      have hbit : (!bit s.begin.clocks 1) = false := by rw [show s.begin.clocks = 2 from hmark]; decide
      have hzero : s.begin.clocks - 2 ^ 1 = 0 := by rw [show s.begin.clocks = 2 from hmark]; rfl
      rw [if_neg (by omega), if_pos hge]
      simp only [show decide (1 = 4) = false from rfl, Bool.false_and, Bool.false_eq_true, if_false, hbit, hzero]
      rfl
    exact clockMonitorWindow_flush (monitors_of_reachable hreach (Or.inr rfl)) hgood rfl
  · have hexec := clockMonitorWindow_next (monitors_of_reachable hreach (Or.inl rfl))
      (clockWindow_fails (s := s.begin) (b := 0) rfl hawake hlow hzero)
    obtain ⟨t, ht, honly, hflush⟩ := nextL_settles (ps := [.reply, .out, .clocks, .clk, .fault, .ports, .host, .glean, .expo]) hexec
      (only_step (only_clk _ _) (only_one (clockFailed_only _ _)))
    exact ⟨t, ht, hflush .clocks (by decide), hflush .clk (by decide), (congrArg FaultSt.evq (hflush .fault (by decide)) :), honly⟩

end Sys2Proof.Machine
end

section
/-!
The power-up self-test: its steps, its end, release and LOCKOUT (12 R333–R345).
-/
namespace Sys2Proof.Machine

-- one proof at a time: these proofs share the equations of the operations they unfold
set_option Elab.async false

/-! ### The steps -/

theorem updBist_only (s : State) (f : BistSt → BistSt) : s.onlyChanges [.bist] (s.updBist f) := only_bist s _

theorem updRec_only (s : State) (f : BistRec → BistRec) : s.onlyChanges [.bist] (s.updRec f) := updBist_only s _

theorem chargerConfig_only (s : State) : s.onlyChanges [.power] s.chargerConfig := only_ite (updPower_only s _) (updPower_only s _)

theorem detail_only (s : State) (a b c d : Nat) : s.onlyChanges [.diag] (s.detail a b c d) := only_diag s _

theorem eccCounts_only (s : State) : s.onlyChanges [.flash] s.eccCounts := by
  unfold State.eccCounts
  refine only_foldl fun u e => ?_
  dsimp only
  split
  · exact only_refl _ u
  · exact only_flash u _
  · exact only_flash u _

/-- What the steps change. -/
def stepParts : List Part :=
  [.bist, .clocks, .clk, .kept, .safety, .host, .ports, .glean, .granary, .checks, .flash, .power, .cells, .sweep, .diag]

/-- What a step finds changes of the self-test the presence map alone. -/
def State.stepFound (s t : State) : Prop := s.onlyChanges stepParts t ∧ ∃ p, t.bist = { s.bist with present := p }

theorem stepFound_of_only {s t : State} {ps : List Part} (h : s.onlyChanges ps t) (hps : ∀ p ∈ ps, p ∈ stepParts := by decide)
    (hbist : Part.bist ∉ ps := by decide) : s.stepFound t := ⟨only_mono h hps, s.bist.present, h .bist hbist⟩

theorem stepFound_ite {s t u : State} {c : Prop} [Decidable c] (ht : s.stepFound t) (hu : s.stepFound u) :
    s.stepFound (if c then t else u) := by
  split
  · exact ht
  · exact hu

/-- The proof round of step 4, which gives samples, temperatures and the presence map. -/
theorem proofEffect_found (s : State) (f : Nat → CellSt → CellSt) (x : SweepSt) :
    s.stepFound (({ s.mapCells f with sweep := x } : State).updBist
      (fun b => { b with present := ({ s.mapCells f with sweep := x } : State).proofPresent })) := by
  have h : s.onlyChanges [.cells, .sweep] { s.mapCells f with sweep := x } := only_step (only_sweep _ _) (only_one (mapCells_only s f))
  exact ⟨only_step (updBist_only _ _) (only_one h), _, rfl⟩

theorem stepEffect_settles (s : State) (k : Nat) (fs : List (Nat × Nat)) : s.stepFound (s.stepEffect k fs) := by
  have hclocks : s.onlyChanges (.clocks :: clockParts) (s.bist.world.clocks.foldl
      (fun s b => (if bit s.clocks b then s else { s with clocks := s.clocks + 2 ^ b }).clockEffect b) s) :=
    only_foldl fun u b => only_step (clockEffect_only _ b) (only_ite (only_refl _ u) (only_one (only_clocks u _)))
  have hmarch : s.onlyChanges [.granary, .glean] { s with
      granary := [], glean := { s.glean with gleaners := s.glean.gleaners.map (fun (g : GleanerSt) => { g with scratch := [] }) } } :=
    fun p hp => by cases p <;> first | rfl | exact absurd (by decide) hp
  have hflash : s.onlyChanges [.checks, .flash, .power] ({ s with checks := s.checks.set 0 CheckSt.reset }.eccCounts).chargerConfig :=
    only_step (chargerConfig_only _) (only_step (eccCounts_only _) (only_one (only_checks s _)))
  have hcells (u : State) : u.onlyChanges [.cells] (fs.foldl (fun s f => s.updCell f.1 (fun c =>
      { c with excluded := true, stuck := if f.2 = 1 then some 0 else c.stuck })) u) := only_foldl fun w f => updCell_only w _ _
  have hdiag (u : State) : u.onlyChanges [.diag] (fs.foldl (fun s f => s.detail 3 f.1 8 (if f.1 = 0 then 1 else tierOf f.1)) u) :=
    only_foldl fun w f => detail_only w _ _ _ _
  have hinputs (f g : InputSt → InputSt) (x : SafetySt) : s.onlyChanges [.safety] { (s.updInp 1 f).updInp 2 g with safety := x } :=
    only_step (only_safety _ x) (only_trans (updInp_only s _ _) (updInp_only _ _ _))
  unfold State.stepEffect
  exact stepFound_ite (stepFound_of_only hclocks) (stepFound_ite (stepFound_of_only hmarch) (stepFound_ite (stepFound_of_only hflash)
    (stepFound_ite (proofEffect_found s _ _) (stepFound_ite (stepFound_of_only (hcells s)) (stepFound_ite
      (stepFound_of_only (only_trans (only_diag s _) (hdiag _))) (stepFound_ite (stepFound_of_only (hinputs _ _ _))
      (stepFound_of_only (only_refl [] s))))))))

/-- The record after step k: its own entry alone is new, and FAIL_STEP stays where one stood. -/
structure BistRec.stepped (r q : BistRec) (k : Nat) : Prop where
  format : q.format = r.format
  complete : q.complete = r.complete
  cuts : q.cuts = r.cuts
  length : q.steps.length = r.steps.length
  step : q.step = k
  fail : r.failStep ≠ 0 → q.failStep = r.failStep
  others : ∀ j, j ≠ k - 1 → q.steps.getD j (0, 0, 0) = r.steps.getD j (0, 0, 0)

theorem runStep_settles (s : State) (k : Nat) : s.onlyChanges stepParts (s.runStep k)
    ∧ (s.runStep k).bist.running = s.bist.running ∧ (s.runStep k).bist.hang = s.bist.hang ∧ (s.runStep k).bist.world = s.bist.world
    ∧ s.bist.cur.stepped (s.runStep k).bist.cur k := by
  have hdone (u : State) (p : Nat) (hu : s.onlyChanges stepParts u) (hbist : u.bist = { (s.stepStarts k).bist with present := p }) (r i d : Nat)
      (full : Bool) : s.onlyChanges stepParts (u.stepDone k r i d full) ∧ (u.stepDone k r i d full).bist.running = s.bist.running
      ∧ (u.stepDone k r i d full).bist.hang = s.bist.hang ∧ (u.stepDone k r i d full).bist.world = s.bist.world
      ∧ s.bist.cur.stepped (u.stepDone k r i d full).bist.cur k := by
    have hcur : u.bist.cur = ({ s.bist.cur with step := k } : BistRec).sealed := by rw [hbist]; rfl
    refine ⟨only_step (updRec_only _ _) hu, ?_, ?_, ?_, ?_⟩
    · exact (congrArg BistSt.running hbist :)
    · exact (congrArg BistSt.hang hbist :)
    · exact (congrArg BistSt.world hbist :)
    · unfold State.stepDone State.updRec State.updBist
      dsimp only
      rw [hcur]
      refine ⟨rfl, rfl, rfl, List.length_set, rfl, fun hf => ?_, fun j hj => ?_⟩
      · exact if_neg (by simp [hf, BistRec.sealed])
      · simp only [BistRec.sealed, List.getD_eq_getElem?_getD, List.getElem?_set, if_neg (Ne.symm hj)]
  have hstarts : s.onlyChanges stepParts (s.stepStarts k) := only_one (updRec_only s _)
  unfold State.runStep
  dsimp only
  split
  · exact hdone _ s.bist.present hstarts rfl _ _ _ _
  · obtain ⟨honly, p, hp⟩ := stepEffect_settles (s.stepStarts k) k ((s.stepStarts k).stepFinds k).finds
    have hall := only_trans hstarts honly
    split
    · exact hdone _ p hall hp _ _ _ _
    · exact hdone _ p hall hp _ _ _ _

/-- The steps from k on end by themselves: the last is step 9, and no entry before theirs changes. -/
theorem bistSteps_settle (n k : Nat) (s : State) (hn : 11 ≤ n + k) (hk : k ≤ 10) (hpos : 1 ≤ k)
    (hgo : ∀ j, k ≤ j → s.bist.world.hangs.contains j = false) :
    s.onlyChanges stepParts (State.bistSteps n k s) ∧ (State.bistSteps n k s).bist.running = s.bist.running
    ∧ (State.bistSteps n k s).bist.hang = s.bist.hang ∧ (State.bistSteps n k s).bist.cur.format = s.bist.cur.format
    ∧ (State.bistSteps n k s).bist.cur.complete = s.bist.cur.complete
    ∧ (State.bistSteps n k s).bist.cur.steps.length = s.bist.cur.steps.length
    ∧ (State.bistSteps n k s).bist.cur.step = (if k = 10 then s.bist.cur.step else 9)
    ∧ (s.bist.cur.failStep ≠ 0 → (State.bistSteps n k s).bist.cur.failStep = s.bist.cur.failStep)
    ∧ ∀ j, j + 1 < k → (State.bistSteps n k s).bist.cur.steps.getD j (0, 0, 0) = s.bist.cur.steps.getD j (0, 0, 0) := by
  induction n generalizing k s with
  | zero => omega
  | succ n ih =>
    have hhang : (s.stepHangs k && decide (k ≤ 10)) = false := by simp only [State.stepHangs, hgo k (Nat.le_refl k), Bool.false_and]
    unfold State.bistSteps
    rw [hhang, if_neg Bool.false_ne_true]
    by_cases hlast : 9 < k
    · rw [if_pos hlast, if_pos (by omega)]
      exact ⟨only_refl _ s, rfl, rfl, rfl, rfl, rfl, rfl, fun _ => rfl, fun _ _ => rfl⟩
    · rw [if_neg hlast, if_neg (by omega)]
      obtain ⟨honly, hrun, hhang1, hworld, hrec⟩ := runStep_settles s k
      obtain ⟨honly', hrun', hhang', hformat, hcomplete, hlength, hstep, hfail, hothers⟩ := ih (k + 1) (s.runStep k) (by omega) (by omega)
        (by omega) (fun j hj => by rw [hworld]; exact hgo j (by omega))
      refine ⟨only_trans honly honly', hrun'.trans hrun, hhang'.trans hhang1, hformat.trans hrec.format, hcomplete.trans hrec.complete,
        hlength.trans hrec.length, ?_, fun h => ?_, fun j hj => (hothers j (by omega)).trans (hrec.others j (by omega))⟩
      · rw [hstep, hrec.step]
        split
        · omega
        · rfl
      · rw [hfail (by rw [hrec.fail h]; exact h), hrec.fail h]

/-! ### The start -/

theorem trainPcie_only (s : State) : s.onlyChanges [.host] s.trainPcie := only_ite (only_host s _) (only_refl _ s)

/-- Role, tiers and mounting as the start latches them. -/
def State.bistLatched (s : State) (w : BistWorld) : State :=
  let tiers := (w.vreg.take 3).countP (fun b => b)
  let station : Bool := w.vaux && tiers = 0
  { s with ident := { s.ident with role := roleOf (w.role % 4), tiers := tiers }
           mode := { s.mode with station := station }
           flash := { s.flash with wear := w.wear }
           power := { s.power with vauxSt := w.vaux, hvinOk := s.power.hvinOk && !station, stageHv := s.power.stageHv && !station
                                   supply := s.power.supply.erase 9 } }

/-- The records that the first step finds. -/
def State.bistOpened (s : State) (w : BistWorld) : State :=
  ((s.bistLatched w).trainPcie.updBist (fun b => { b with running := true, world := w, hang := none })).openRec

theorem bistOpened_settles {s : State} (w : BistWorld) (hcur : s.bist.cur = BistRec.empty) :
    (s.bistOpened w).mode = { s.mode with station := (w.vaux && decide ((w.vreg.take 3).countP (fun b => b) = 0)) }
    ∧ (s.bistOpened w).ident = { s.ident with role := roleOf (w.role % 4), tiers := (w.vreg.take 3).countP (fun b => b) }
    ∧ (s.bistOpened w).bist.running = true ∧ (s.bistOpened w).bist.hang = none ∧ (s.bistOpened w).bist.world = w
    ∧ (s.bistOpened w).bist.cur.format = 1 ∧ (s.bistOpened w).bist.cur.complete = false
    ∧ (s.bistOpened w).bist.cur.steps.length = 10 ∧ (s.bistOpened w).bist.cur.cuts = 0 := by
  have htrain := trainPcie_only (s.bistLatched w)
  have hmode : (s.bistLatched w).trainPcie.mode = (s.bistLatched w).mode := htrain .mode (by decide)
  have hident : (s.bistLatched w).trainPcie.ident = (s.bistLatched w).ident := htrain .ident (by decide)
  have hbist : (s.bistLatched w).trainPcie.bist.cur = BistRec.empty := (congrArg BistSt.cur (htrain .bist (by decide))).trans hcur
  unfold State.bistOpened
  generalize (s.bistLatched w).trainPcie = u at hmode hident hbist
  have hcut : (u.updBist (fun b => { b with running := true, world := w, hang := none })).bist.cur = BistRec.empty := hbist
  unfold State.openRec
  rw [hcut]
  exact ⟨hmode, hident, rfl, rfl, rfl, rfl, rfl, rfl, rfl⟩

theorem bistStart_answer {s : State} {w : BistWorld} (hmode : s.mode.mode = .bist) (hrun : s.bist.running = false)
    (hgood : s.power.vpwrGood = true) (hheld : s.bist.testHeld = false) (htest : w.test = false) (hhangs : w.hangs = [])
    (hcur : s.bist.cur = BistRec.empty) :
    ∃ t, exec (.bistStart w) s = .next t ∧ t.mode.mode = .bist ∧ t.bist.running = true ∧ t.bist.hang = none
      ∧ t.bist.cur.step = 9 ∧ t.bist.cur.format = 1 ∧ t.bist.cur.complete = false ∧ t.bist.cur.steps.length = 10
      ∧ t.ident.role = roleOf (w.role % 4) ∧ t.ident.tiers = (w.vreg.take 3).countP (fun b => b)
      ∧ t.mode.station = (w.vaux && decide ((w.vreg.take 3).countP (fun b => b) = 0)) := by
  obtain ⟨hm, hident, hrunning, hhang, hworld, hformat, hcomplete, hlength, hcuts⟩ := bistOpened_settles (s := s.begin) w hcur
  have hstart : s.begin.bistStart w = State.bistSteps 10 1 (s.begin.bistOpened w) := by
    have hdef : s.begin.bistStart w = (if 3 ≤ (s.begin.bistOpened w).bist.cur.cuts then
        (if (s.begin.bistOpened w).stepHangs 1 then ((s.begin.bistOpened w).stepStarts 1).updBist (fun b => { b with hang := some 1 })
          else ((s.begin.bistOpened w).runStep 1).cutOver)
      else State.bistSteps 10 1 (s.begin.bistOpened w)) := rfl
    rw [hdef, hcuts, if_neg (by decide)]
  have hexec : exec (.bistStart w) s = .next { State.bistSteps 10 1 (s.begin.bistOpened w) with pending := s.pending } := by
    rw [← hstart]
    refine (run_when_next (by simp [hmode, hrun, hgood, hheld])).trans ?_
    rw [htest, if_neg Bool.false_ne_true]
  generalize s.begin.bistOpened w = u at *
  obtain ⟨honly, hrun', hhang', hformat', hcomplete', hlength', hstep', -, -⟩ := bistSteps_settle 10 1 u (by omega) (by omega) (by omega)
    (fun j _ => by rw [hworld, hhangs]; rfl)
  have hmode' : (State.bistSteps 10 1 u).mode = u.mode := honly .mode (by decide)
  have hident' : (State.bistSteps 10 1 u).ident = u.ident := honly .ident (by decide)
  generalize State.bistSteps 10 1 u = v at *
  refine ⟨_, hexec, ?_, hrun'.trans hrunning, hhang'.trans hhang, hstep', hformat'.trans hformat, hcomplete'.trans hcomplete,
    hlength'.trans hlength, ?_, ?_, ?_⟩
  · exact (congrArg ModeSt.mode (hmode'.trans hm)).trans hmode
  · exact congrArg IdentSt.role (hident'.trans hident)
  · exact congrArg IdentSt.tiers (hident'.trans hident)
  · exact congrArg ModeSt.station (hmode'.trans hm)

/-! ### A step that is stuck -/

theorem bistStepTimeout_answer {s : State} {k : Nat} (hhang : s.bist.hang = some k) (hpos : 1 ≤ k) (hk : k ≤ 9)
    (hhangs : s.bist.world.hangs = [k]) (hcuts : s.bist.cur.cuts < 3) (hlength : s.bist.cur.steps.length = 10)
    (hfail : s.bist.cur.failStep = 0) :
    ∃ t, exec .bistStepTimeout s = .next t ∧ t.bist.hang = none ∧ t.bist.cur.step = (if k = 9 then s.bist.cur.step else 9)
      ∧ t.bist.cur.steps.getD (k - 1) (0, 0, 0) = (2, 0, 0xFFFF) ∧ t.bist.cur.failStep = k := by
  generalize hu : (s.begin.updBist (fun b => { b with hang := none })).stepDone k 2 0 0xFFFF false = u
  have hhangU : u.bist.hang = none := by rw [← hu]; rfl
  have hworld : u.bist.world.hangs = [k] := by rw [← hu]; exact hhangs
  have hstepU : u.bist.cur.step = s.bist.cur.step := by rw [← hu]; rfl
  have hcutsU : u.bist.cur.cuts = s.bist.cur.cuts := by rw [← hu]; rfl
  have hentry : u.bist.cur.steps.getD (k - 1) (0, 0, 0) = (2, 0, 0xFFFF) := by
    rw [← hu]
    change (s.bist.cur.steps.set (k - 1) (2, 0, 0xFFFF)).getD (k - 1) (0, 0, 0) = _
    simp [List.getD_eq_getElem?_getD, hlength, show k - 1 < 10 by omega]
  have hfailU : u.bist.cur.failStep = k := by
    rw [← hu]
    change (if (2 = 2 && s.bist.cur.failStep = 0) = true then k else s.bist.cur.failStep) = k
    simp [hfail]
  have hexec : exec .bistStepTimeout s = .next { State.bistSteps 10 (k + 1) u with pending := s.pending } := by
    refine run_next_eq (f := fun v => match v.bist.hang with
      | some k => v.stepTimeout k
      | none => v) ?_
    rw [show s.begin.bist.hang = some k from hhang]
    unfold State.stepTimeout
    dsimp only
    rw [hu, if_neg (by rw [hcutsU]; omega)]
  obtain ⟨-, -, hhang', -, -, -, hstep', hfail', hothers⟩ := bistSteps_settle 10 (k + 1) u (by omega) (by omega) (by omega)
    (fun j hj => by simp [hworld]; omega)
  refine ⟨_, hexec, hhang'.trans hhangU, ?_, ?_, ?_⟩
  · rw [hstepU] at hstep'
    simpa using hstep'
  · exact (hothers (k - 1) (by omega)).trans hentry
  · exact (hfail' (by rw [hfailU]; omega)).trans hfailU

end Sys2Proof.Machine
end

section
/-!
The end of the self-test: the history, the configuration, release and LOCKOUT (12 R340–R345).
-/
namespace Sys2Proof.Machine

-- one proof at a time: these proofs share the equations of the operations they unfold
set_option Elab.async false

/-! ### History and configuration -/

/-- What step 10 restores. -/
def histParts : List Part := [.kept, .cells, .diag, .survey, .sweep, .bist]

theorem restore_only (s : State) (sn : Snapshot) : s.onlyChanges [.cells, .diag, .survey, .sweep] (s.restore sn) := by
  unfold State.restore
  extract_lets u
  have hu : s.onlyChanges [.cells] u := mapCells_only s _
  clear_value u
  have hrest (d : DiagSt) (v : SurveySt) (w : SweepSt) : u.onlyChanges [.diag, .survey, .sweep] { u with diag := d, survey := v, sweep := w } :=
    fun p hp => by cases p <;> first | rfl | exact absurd (by decide) hp
  exact only_step (hrest _ _ _) (only_one hu)

/-- The record of a self-test whose step 10 ended. -/
def BistRec.ended (r q : BistRec) : Prop :=
  q.step = 10 ∧ q.complete = true ∧ q.pass = decide (r.failStep = 0) ∧ q.sig = crc32c q.span ∧ q.failStep = r.failStep

theorem span_sealed (r : BistRec) : r.sealed.span = r.span := rfl

theorem sig_sealed (r : BistRec) : r.sealed.sig = crc32c r.sealed.span := by
  rw [span_sealed]
  rfl

/-- Step 10 ends, with the outcome v of the history. -/
def State.histEnded (s : State) (v : Nat) : State :=
  (s.updRec (fun r => { r with step := 10, history := v, complete := true, pass := r.failStep = 0, cuts := 0 })).stepDone 10 1 0 0 true

theorem histEnded_settles {s u : State} (h : s.onlyChanges [.kept, .cells, .diag, .survey, .sweep] u) (v : Nat) :
    s.onlyChanges histParts (u.histEnded v) ∧ (u.histEnded v).bist.world = s.bist.world
    ∧ s.bist.cur.ended (u.histEnded v).bist.cur := by
  have hbist : u.bist = s.bist := h .bist (by decide)
  refine ⟨only_step (updRec_only _ _) (only_step (updRec_only _ _) (only_one h)), (congrArg BistSt.world hbist :), ?_⟩
  rw [← hbist]
  exact ⟨rfl, rfl, rfl, sig_sealed _, rfl⟩

theorem histStep_settles (s : State) : s.onlyChanges histParts s.histStep ∧ s.histStep.bist.world = s.bist.world
    ∧ s.bist.cur.ended s.histStep.bist.cur := by
  have hkept (v : Nat) : s.onlyChanges [.kept] { s with kept := { s.kept with histOutcome := v } } := only_kept s _
  have hbase (v : Nat) (x : SurveySt) : s.onlyChanges [.kept, .survey] { s with kept := { s.kept with histOutcome := v }, survey := x } :=
    fun p hp => by cases p <;> first | rfl | exact absurd (by decide) hp
  unfold State.histStep
  dsimp only
  split
  · exact histEnded_settles (only_step (restore_only _ _) (only_one (hkept _))) _
  · split
    · exact histEnded_settles (only_one (hbase _ _)) _
    · exact histEnded_settles (only_one (hkept _)) _

/-- The parameters of the configuration, but for the charger's. -/
def State.configTaken (s : State) : State :=
  { s with
    sweep := { s.sweep with par := { s.sweep.par with mask := s.configMask } }
    flash := { s.flash with shadow := s.config }
    host := { s.host with ids := (s.config.getD 2 0, s.config.getD 3 0) }
    ports := s.ports.mapIdx (fun p (q : PortSt) => { q with rateMax := min 2 (fld (s.config.getD 6 0) (2 * p + 1) (2 * p)) }) }

theorem takeConfig_eq (s : State) : s.takeConfig = s.configTaken.chargerConfig := rfl

theorem takeConfig_settles (s : State) : s.onlyChanges [.sweep, .flash, .host, .ports, .power] s.takeConfig
    ∧ s.takeConfig.flash = { s.flash with shadow := s.config } := by
  have hu : s.onlyChanges [.sweep, .flash, .host, .ports] s.configTaken := fun p hp => by
    cases p <;> first | rfl | exact absurd (by decide) hp
  have hcharger := chargerConfig_only s.configTaken
  rw [takeConfig_eq]
  exact ⟨only_step hcharger (only_one hu), hcharger .flash (by decide)⟩

/-! ### Events and ledger entries of the release -/

/-- Faults were raised, and the collector runs as before. -/
def State.raised (s t : State) : Prop := s.onlyChanges [.fault, .diag] t ∧ t.fault.running = s.fault.running

theorem raised_refl (s : State) : s.raised s := ⟨only_refl _ s, rfl⟩

theorem raised_trans {s t u : State} (h : s.raised t) (k : t.raised u) : s.raised u :=
  ⟨only_trans h.1 k.1, k.2.trans h.2⟩

theorem raised_ite {s t u : State} {c : Prop} [Decidable c] (ht : s.raised t) (hu : s.raised u) : s.raised (if c then t else u) := by
  split
  · exact ht
  · exact hu

theorem raise_raised (s : State) (i t : Nat) : s.raised (s.raise i t) := by
  refine ⟨only_one (raise_only s i t), ?_⟩
  unfold State.raise
  split <;> rfl

theorem foldl_raised {α : Type} {f : State → α → State} (l : List α) (s : State) (h : ∀ (u : State) (a : α), u.raised (f u a)) :
    s.raised (l.foldl f s) := by
  induction l generalizing s with
  | nil => exact raised_refl s
  | cons a l ih => exact raised_trans (h s a) (ih (f s a))

/-- The collector starts with no event waiting, and raises those of the levels that stand. -/
theorem startCollector_settles (s : State) : s.onlyChanges [.fault, .diag] s.startCollector ∧ s.startCollector.fault.running = true := by
  have h := foldl_raised levelIds { s with fault := { s.fault with running := true, evq := [] } }
    (f := fun s id => if s.rawFlag id then s.raise id (s.levelItem id) else s) (fun u id => raised_ite (raise_raised u _ _) (raised_refl u))
  exact ⟨only_trans (only_one (only_fault s _)) h.1, h.2⟩

/-- The events latched before release, one source after the other. -/
theorem latched_raised (s : State) : s.raised s.latched := by
  have hstep (u v : State) (c : Prop) [Decidable c] (i t : Nat) (h : u.raised v) : u.raised (if c then v.raise i t else v) :=
    raised_trans h (raised_ite (raise_raised v i t) (raised_refl v))
  have hfinds (u : State) (l : List (Nat × Nat)) :
      u.raised (l.foldl (fun s f => (s.raise 5 f.1).detail 5 f.1 (if f.2 = 1 then 6 else 7) (tierOf f.1)) u) :=
    foldl_raised l u fun v f => raised_trans (raise_raised v _ _) ⟨only_one (detail_only _ _ _ _ _), rfl⟩
  unfold State.latched
  extract_lets u1 u2 u3 u4
  have h3 : s.raised u3 := hstep s u2 _ _ _ (hstep s u1 _ _ _ (hstep s s _ _ _ (raised_refl s)))
  clear_value u3
  have h4 : s.raised u4 := raised_trans h3 (raised_ite (raised_refl u3) (raised_ite (raise_raised u3 _ _)
    (raised_ite (raise_raised u3 _ _) (raised_refl u3))))
  clear_value u4
  exact raised_trans h4 (raised_ite (raised_refl u4) (hfinds u4 _))

theorem startPorts_only (s : State) : s.onlyChanges [.ports, .out, .legacy] s.startPorts := only_foldl fun u p => runPort_only u p

/-- Entries and records may be new in the flash; the shadow and the words that wore out are not. -/
def FlashSt.sameWords (f g : FlashSt) : Prop := g.shadow = f.shadow ∧ g.wear = f.wear

theorem sameWords_trans {f g h : FlashSt} (hg : f.sameWords g) (hh : g.sameWords h) : f.sameWords h :=
  ⟨hh.1.trans hg.1, hh.2.trans hg.2⟩

theorem sameWords_of_eq {f g : FlashSt} (h : g = f) : f.sameWords g := h ▸ ⟨rfl, rfl⟩

theorem sameWords_of_ledgered {f g : FlashSt} (h : f.ledgered g) : f.sameWords g := by
  obtain ⟨q, n, l, rfl⟩ := h
  exact ⟨rfl, rfl⟩

theorem ledgerAt_ledgered (s : State) (c i d t : Nat) (x : Option (Nat × Nat)) : s.flash.ledgered (s.ledgerAt c i d t x).flash := by
  unfold State.ledgerAt
  dsimp only
  split
  · exact ⟨_, _, s.flash.lost, rfl⟩
  · exact ⟨s.flash.queue, _, _, rfl⟩

/-- The entries of a release, and what the keep island held for them. -/
def State.noted (s t : State) : Prop := s.onlyChanges [.kept, .survey, .flash] t ∧ s.flash.ledgered t.flash

theorem noted_trans {s t u : State} (h : s.noted t) (k : t.noted u) : s.noted u := ⟨only_trans h.1 k.1, ledgered_trans h.2 k.2⟩

theorem noted_refl (s : State) : s.noted s := ⟨only_refl _ s, ledgered_refl _⟩

theorem ledgerAt_noted (s : State) (x : RetainedSt) (y : SurveySt) (c i d t : Nat) (e : Option (Nat × Nat)) :
    s.noted (({ s with kept := x, survey := y } : State).ledgerAt c i d t e) := by
  have hboth : s.onlyChanges [.kept, .survey] { s with kept := x, survey := y } := fun q hq => by
    cases q <;> first | rfl | exact absurd (by decide) hq
  exact ⟨only_step (ledgerAt_only _ _ _ _ _ _) (only_one hboth), ledgerAt_ledgered _ _ _ _ _ _⟩

/-- What the keep island holds of a watchdog reset is entered. -/
def State.noteWdog (s : State) : State :=
  match s.kept.wdog with
  | some n => { s with kept := { s.kept with wdog := none } }.ledger 0x06 n 0
  | none => s

/-- A self-test that was cut off is entered. -/
def State.noteCut (s : State) : State :=
  if s.bist.cur.prevCut then s.ledger 0x08 (put s.bist.prev.step 0 8 + put s.bist.prev.reset 8 8) 0 else s

/-- An interrupted survey is entered. -/
def State.noteSurvey (s : State) : State :=
  match s.kept.survey with
  | some (tag, point, group, t0) =>
    { s with kept := { s.kept with survey := none }, survey := { s.survey with last := 5, point := point, group := group } }.ledgerAt
      0x0E (put tag 0 16 + put point 16 6 + put group 22 2 + put s.mode.cause 24 8) t0 t0 none
  | none => s

/-- An interrupted commit is entered. -/
def State.noteCommit (s : State) : State :=
  match s.kept.commit with
  | some (st, len, crc, start, _) =>
    { s with kept := { s.kept with commit := none } }.ledgerAt 0x0F (put st 0 4 + put s.mode.cause 8 8)
      (len + put crc 32 32) start none
  | none => s

theorem noteWdog_noted (s : State) : s.noted s.noteWdog := by
  unfold State.noteWdog
  split
  · exact ledgerAt_noted s _ s.survey _ _ _ _ _
  · exact noted_refl s

theorem noteCut_noted (s : State) : s.noted s.noteCut := by
  unfold State.noteCut
  split
  · exact ledgerAt_noted s s.kept s.survey _ _ _ _ _
  · exact noted_refl s

theorem noteSurvey_noted (s : State) : s.noted s.noteSurvey := by
  unfold State.noteSurvey
  split
  · exact ledgerAt_noted s _ _ _ _ _ _ _
  · exact noted_refl s

theorem noteCommit_noted (s : State) : s.noted s.noteCommit := by
  unfold State.noteCommit
  split
  · exact ledgerAt_noted s _ s.survey _ _ _ _ _
  · exact noted_refl s

theorem releaseLedger_noted (s : State) (lock : Bool) : s.noted (s.releaseLedger lock) := by
  have hfirst (i d : Nat) : s.noted (s.ledger 0x01 i d) := ledgerAt_noted s s.kept s.survey _ _ _ _ _
  have hwdog (i d : Nat) : s.noted (s.ledger 0x01 i d).noteWdog := noted_trans (hfirst i d) (noteWdog_noted _)
  have hbist (i d : Nat) : (s.ledger 0x01 i d).noteWdog.bist = s.bist := (hwdog i d).1 .bist (by decide)
  have heq (i d : Nat) : (if s.bist.cur.prevCut then (s.ledger 0x01 i d).noteWdog.ledger 0x08
        (put (s.ledger 0x01 i d).noteWdog.bist.prev.step 0 8 + put (s.ledger 0x01 i d).noteWdog.bist.prev.reset 8 8) 0
      else (s.ledger 0x01 i d).noteWdog) = (s.ledger 0x01 i d).noteWdog.noteCut := by
    unfold State.noteCut
    rw [hbist]
  have hall (i d : Nat) : s.noted (s.ledger 0x01 i d).noteWdog.noteCut.noteSurvey.noteCommit :=
    noted_trans (noted_trans (noted_trans (hwdog i d) (noteCut_noted _)) (noteSurvey_noted _)) (noteCommit_noted _)
  have hdef (i d : Nat) (hi : i = put s.mode.cause 0 8 + flag s.bist.cur.pass 8 + flag lock 9 + put s.bist.cur.failStep 16 8)
      (hd : d = imageVersion (s.bank s.flash.active) + put s.bist.cur.history 32 8) : s.releaseLedger lock =
      State.noteCommit (State.noteSurvey (if s.bist.cur.prevCut then (s.ledger 0x01 i d).noteWdog.ledger 0x08
        (put (s.ledger 0x01 i d).noteWdog.bist.prev.step 0 8 + put (s.ledger 0x01 i d).noteWdog.bist.prev.reset 8 8) 0
      else (s.ledger 0x01 i d).noteWdog)) := by
    subst hi hd
    rfl
  rw [hdef _ _ rfl rfl, heq]
  exact hall _ _

theorem writeDropped_only (s : State) : s.onlyChanges [.safety] s.writeDropped := by
  unfold State.writeDropped
  split
  · exact only_refl _ s
  · exact only_trans (parishAdd_only s _ _) (only_safety _ _)

/-- An interrupted commit is marked, and its records are written again. -/
theorem repairPair_settles (s : State) (b : Bool) : s.onlyChanges [.flash, .wdog] (s.repairPair b)
    ∧ s.flash.sameWords (s.repairPair b).flash := by
  unfold State.repairPair
  extract_lets u
  have hu : s.onlyChanges [.flash, .wdog] u ∧ s.flash.sameWords u.flash := by
    unfold u
    split
    · exact ⟨only_one (updCommit_only s _), rfl, rfl⟩
    · exact ⟨only_refl _ s, rfl, rfl⟩
  clear_value u
  split
  · exact hu
  · unfold State.rewritePair
    refine ⟨only_trans hu.1 (only_step (eraseBegins_only _ _) (only_step (eraseBegins_only _ _) (only_one (only_flash u _)))), ?_⟩
    refine sameWords_trans hu.2 ?_
    rw [eraseBegins_flash, eraseBegins_flash]
    exact ⟨rfl, rfl⟩

/-! ### Release and LOCKOUT -/

/-- What release and LOCKOUT set alike: tree time starts at 0, and the self-test no longer runs. -/
theorem timersStart_settles (s : State) : s.onlyChanges [.clk, .bist, .tree, .sweep, .diag, .power, .safety] s.timersStart
    ∧ s.timersStart.clk.treeOn = true ∧ s.timersStart.clk.tt = 0 ∧ s.timersStart.bist.running = false
    ∧ s.timersStart.bist.cur = s.bist.cur ∧ s.timersStart.safety.failed = s.safety.failed
    ∧ s.timersStart.safety.out1.on = s.safety.out1.on ∧ s.timersStart.safety.out2.on = s.safety.out2.on := by
  refine ⟨fun p hp => ?_, rfl, rfl, rfl, rfl, rfl, rfl, rfl⟩
  cases p <;> first | rfl | exact absurd (by decide) hp

theorem releaseServe_only (s : State) : s.onlyChanges [.wdog] s.releaseServe := only_ite (only_refl _ s) (only_wdog s _)

theorem restartLock_only (s : State) : s.onlyChanges [.safety] s.restartLock := only_ite (only_safety s _) (only_refl _ s)

/-- The device after the start of its timers, in mode m. -/
def State.releasing (s : State) : State := ((s.setMode .quiet).releaseServe.timersStart.restartLock)

theorem releasing_settles (s : State) :
    s.releasing.mode.mode = .quiet ∧ s.releasing.clk.treeOn = true ∧ s.releasing.clk.tt = 0 ∧ s.releasing.bist.running = false
    ∧ s.releasing.bist.cur = s.bist.cur ∧ s.flash.sameWords s.releasing.flash := by
  have hmode := setMode_mode s .quiet
  have hset := setMode_only s .quiet
  have hflash := setMode_ledgered s .quiet
  unfold State.releasing
  generalize s.setMode .quiet = u at *
  have hserve := releaseServe_only u
  generalize u.releaseServe = v at hserve
  obtain ⟨htimers, htree, htt, hrun, hcur, -⟩ := timersStart_settles v
  generalize v.timersStart = w at *
  have hlock := restartLock_only w
  generalize w.restartLock = x at hlock
  refine ⟨?_, ?_, ?_, ?_, ?_, ?_⟩
  · rw [hlock .mode (by decide), htimers .mode (by decide), hserve .mode (by decide), hmode]
  · rw [hlock .clk (by decide), htree]
  · rw [hlock .clk (by decide), htt]
  · rw [hlock .bist (by decide), hrun]
  · rw [hlock .bist (by decide), hcur, hserve .bist (by decide), hset .bist (by decide)]
  · refine sameWords_trans (sameWords_of_ledgered hflash) (sameWords_of_eq ?_)
    rw [hlock .flash (by decide), htimers .flash (by decide), hserve .flash (by decide)]

/-- What the collector's start, the ports and the ledger change, in a release and on entry to LOCKOUT. -/
def noticeParts : List Part := [.fault, .diag, .ports, .out, .legacy, .kept, .survey, .flash, .safety, .wdog]

theorem fetchImage_of_unworn {s : State} (h : s.flash.wear = []) : s.fetchImage = s := by
  unfold State.fetchImage State.wornIn
  rw [h]
  rfl

theorem failFound_of_none {s : State} (h : s.safety.failed = [false, false, false, false]) : s.failFound = s := by
  have hsame : ({ s with safety := { s.safety with failed := [false, false, false, false] } } : State) = s := by rw [← h]
  unfold State.failFound
  rw [h]
  exact hsame

/-- Release of a device without a failed switch or a worn word. -/
theorem releaseNow_settles {s : State} (hwear : s.flash.wear = []) (hfailed : s.safety.failed = [false, false, false, false]) :
    s.releaseNow.mode.mode = .quiet ∧ s.releaseNow.clk.treeOn = true ∧ s.releaseNow.clk.tt = 0 ∧ s.releaseNow.bist.running = false
    ∧ s.releaseNow.bist.cur = s.bist.cur ∧ s.releaseNow.fault.running = true ∧ s.releaseNow.flash.shadow = s.flash.shadow := by
  obtain ⟨hmode, htree, htt, hrun, hcur, hwords⟩ := releasing_settles s
  have hdef : s.releaseNow = ({ ((((({ s.releasing with safety := { s.releasing.safety with failed := [false, false, false, false] } } :
      State).startCollector.latched.startPorts).releaseLedger false).writeDropped).repairPair s.kept.commit.isSome) with
      safety := { ((((({ s.releasing with safety := { s.releasing.safety with failed := [false, false, false, false] } } :
        State).startCollector.latched.startPorts).releaseLedger false).writeDropped).repairPair s.kept.commit.isSome).safety with
        failed := s.safety.failed } } : State).failFound.clearAllowance.fetchImage := rfl
  rw [hdef, hfailed]
  generalize s.releasing = u0 at *
  generalize hu1 : ({ u0 with safety := { u0.safety with failed := [false, false, false, false] } } : State) = u1
  have h1 : u0.onlyChanges [.safety] u1 := hu1 ▸ only_safety u0 _
  obtain ⟨h2, hcoll⟩ := startCollector_settles u1
  generalize u1.startCollector = u2 at *
  obtain ⟨h3, hlatched⟩ := latched_raised u2
  generalize u2.latched = u3 at *
  have h4 := startPorts_only u3
  generalize u3.startPorts = u4 at *
  obtain ⟨h5, hledger⟩ := releaseLedger_noted u4 false
  generalize u4.releaseLedger false = u5 at *
  have h6 := writeDropped_only u5
  generalize u5.writeDropped = u6 at *
  obtain ⟨h7, hrepair⟩ := repairPair_settles u6 s.kept.commit.isSome
  generalize u6.repairPair s.kept.commit.isSome = u7 at *
  generalize hu8 : ({ u7 with safety := { u7.safety with failed := [false, false, false, false] } } : State) = u8
  have h8 : u7.onlyChanges [.safety] u8 := hu8 ▸ only_safety u7 _
  rw [failFound_of_none (s := u8) (by rw [← hu8])]
  have h9 := clearAllowance_only u8
  generalize u8.clearAllowance = u9 at *
  have hall : u0.onlyChanges noticeParts u9 := only_step h9 (only_step h8 (only_step h7 (only_step h6 (only_step h5 (only_step h4
    (only_step h3 (only_step h2 (only_one h1))))))))
  have hflash : s.flash.sameWords u9.flash := by
    refine sameWords_trans hwords (sameWords_trans ?_ (sameWords_trans (sameWords_of_ledgered hledger) (sameWords_trans ?_ (sameWords_trans hrepair ?_))))
    · refine sameWords_of_eq ?_
      rw [h4 .flash (by decide), h3 .flash (by decide), h2 .flash (by decide), h1 .flash (by decide)]
    · exact sameWords_of_eq (h6 .flash (by decide))
    · exact sameWords_of_eq (by rw [h9 .flash (by decide), h8 .flash (by decide)])
  have hfault : u9.fault.running = true := by
    rw [h9 .fault (by decide), h8 .fault (by decide), h7 .fault (by decide), h6 .fault (by decide), h5 .fault (by decide),
      h4 .fault (by decide), hlatched, hcoll]
  rw [fetchImage_of_unworn (hflash.2.trans hwear)]
  refine ⟨?_, ?_, ?_, ?_, ?_, hfault, hflash.1⟩
  · rw [hall .mode (by decide), hmode]
  · rw [hall .clk (by decide), htree]
  · rw [hall .clk (by decide), htt]
  · rw [hall .bist (by decide), hrun]
  · rw [hall .bist (by decide), hcur]

/-- Entry to LOCKOUT. -/
theorem refuseRelease_settles (s : State) :
    s.refuseRelease.mode.mode = .lockout ∧ s.refuseRelease.clk.treeOn = true ∧ s.refuseRelease.clk.tt = 0
    ∧ s.refuseRelease.bist.running = false ∧ s.refuseRelease.bist.cur = s.bist.cur ∧ s.refuseRelease.safety.out1.on = false
    ∧ s.refuseRelease.safety.out2.on = false ∧ ∀ c ∈ s.refuseRelease.cells, c.closed = false := by
  have hdef : s.refuseRelease = ((((((s.setMode .lockout).outputsOff).openAll.timersStart).startCollector.latched).startPorts).releaseLedger
      true).repairPair s.kept.commit.isSome := rfl
  rw [hdef]
  have hmode := setMode_mode s .lockout
  have hset := setMode_only s .lockout
  generalize s.setMode .lockout = u1 at *
  have h2 := outputsOff_only u1
  have hoff : u1.outputsOff.safety.out1.on = false ∧ u1.outputsOff.safety.out2.on = false := ⟨rfl, rfl⟩
  generalize u1.outputsOff = u2 at *
  have h3 := openAll_only u2
  have hopen := openAll_closed u2
  generalize u2.openAll = u3 at *
  obtain ⟨h4, htree, htt, hrun, hcur, -, hout1, hout2⟩ := timersStart_settles u3
  generalize u3.timersStart = u4 at *
  obtain ⟨h5, -⟩ := startCollector_settles u4
  generalize u4.startCollector = u5 at *
  obtain ⟨h6, -⟩ := latched_raised u5
  generalize u5.latched = u6 at *
  have h7 := startPorts_only u6
  generalize u6.startPorts = u7 at *
  obtain ⟨h8, -⟩ := releaseLedger_noted u7 true
  generalize u7.releaseLedger true = u8 at *
  obtain ⟨h9, -⟩ := repairPair_settles u8 s.kept.commit.isSome
  generalize u8.repairPair s.kept.commit.isSome = u9 at *
  have hlate : u4.onlyChanges [.fault, .diag, .ports, .out, .legacy, .kept, .survey, .flash, .wdog] u9 :=
    only_step h9 (only_step h8 (only_step h7 (only_step h6 (only_one h5))))
  have hsafety : u3.safety = u2.safety := h3 .safety (by decide)
  refine ⟨?_, ?_, ?_, ?_, ?_, ?_, ?_, ?_⟩
  · rw [hlate .mode (by decide), h4 .mode (by decide), h3 .mode (by decide), h2 .mode (by decide), hmode]
  · rw [hlate .clk (by decide), htree]
  · rw [hlate .clk (by decide), htt]
  · rw [hlate .bist (by decide), hrun]
  · rw [hlate .bist (by decide), hcur, h3 .bist (by decide), h2 .bist (by decide), hset .bist (by decide)]
  · rw [hlate .safety (by decide), hout1, hsafety, hoff.1]
  · rw [hlate .safety (by decide), hout2, hsafety, hoff.2]
  · rw [hlate .cells (by decide), h4 .cells (by decide)]
    exact hopen

/-! ### The end of the self-test -/

theorem bistEnd_next {s : State} (hmode : s.mode.mode = .bist) (hcore : s.coreRuns = true) (hrun : s.bist.running = true)
    (hhang : s.bist.hang = none) (hstep : s.bist.cur.step = 9) :
    exec .bistEnd s = .next { s.begin.bistEnd.flush with pending := s.pending } :=
  (runCoreL_of_runs hcore).trans (runL_when_next (by simp [State.bistOver, hmode, hrun, hhang, hstep]))

/-- Step 10 and the configuration, and the verdict that the release logic reads. -/
theorem bistEnd_eq {s : State} (hstep : s.bist.cur.step = 9) (hcut : s.bist.cur.cutLock = false) :
    s.bistEnd = if s.bist.cur.failStep = 0 then s.histStep.takeConfig.releaseNow else s.histStep.takeConfig.refuseRelease := by
  obtain ⟨honly, -, hstep10, hcomplete, hpass, hsig, -⟩ := histStep_settles s
  have hbist : s.histStep.takeConfig.bist = s.histStep.bist := (takeConfig_settles s.histStep).1 .bist (by decide)
  have hmay : s.histStep.takeConfig.mayRelease = decide (s.bist.cur.failStep = 0) := by
    unfold State.mayRelease
    rw [hbist, hcomplete, hpass, decide_eq_true hsig]
    simp
  have hdef : s.bistEnd = (if ((if s.bist.cur.cutLock || s.bist.cur.step = 10 then s else s.histStep).takeConfig).mayRelease
      then ((if s.bist.cur.cutLock || s.bist.cur.step = 10 then s else s.histStep).takeConfig).releaseNow
      else ((if s.bist.cur.cutLock || s.bist.cur.step = 10 then s else s.histStep).takeConfig).refuseRelease) := rfl
  rw [hdef, if_neg (c := (s.bist.cur.cutLock || decide (s.bist.cur.step = 10)) = true) (by simp [hcut, hstep]), hmay]
  by_cases h : s.bist.cur.failStep = 0
  · rw [if_pos (decide_eq_true h), if_pos h]
  · rw [if_neg (by simp [h]), if_neg h]

theorem config_of_histStep (s : State) : s.histStep.config = s.config := by
  obtain ⟨honly, hworld, -⟩ := histStep_settles s
  unfold State.config State.eccBad State.cfgInForce
  rw [hworld, honly .flash (by decide)]

theorem bistEnd_releases {s : State} (hmode : s.mode.mode = .bist) (hcore : s.coreRuns = true) (hrun : s.bist.running = true)
    (hhang : s.bist.hang = none) (hstep : s.bist.cur.step = 9) (hcut : s.bist.cur.cutLock = false) (hpass : s.bist.cur.failStep = 0)
    (hwear : s.flash.wear = []) (hfailed : s.safety.failed = [false, false, false, false]) :
    ∃ t, exec .bistEnd s = .next t ∧ t.mode.mode = .quiet ∧ t.bist.running = false ∧ t.bist.cur.complete = true
      ∧ t.bist.cur.pass = true ∧ t.bist.cur.step = 10 ∧ t.clk.treeOn = true ∧ t.clk.tt = 0 ∧ t.fault.running = true
      ∧ t.flash.shadow = s.config := by
  have hexec := bistEnd_next hmode hcore hrun hhang hstep
  rw [bistEnd_eq (s := s.begin) hstep hcut, if_pos (show s.begin.bist.cur.failStep = 0 from hpass)] at hexec
  obtain ⟨hhist, -, hten, hcomplete, hpassed, -⟩ := histStep_settles s.begin
  obtain ⟨htake, hshadow⟩ := takeConfig_settles s.begin.histStep
  have hconfig : s.begin.histStep.takeConfig.flash.shadow = s.config := by
    rw [hshadow]
    exact config_of_histStep s.begin
  have hwear' : s.begin.histStep.takeConfig.flash.wear = [] := by
    rw [hshadow]
    exact (congrArg FlashSt.wear (hhist .flash (by decide))).trans hwear
  have hfailed' : s.begin.histStep.takeConfig.safety.failed = [false, false, false, false] := by
    rw [htake .safety (by decide), hhist .safety (by decide)]
    exact hfailed
  have hbist : s.begin.histStep.takeConfig.bist = s.begin.histStep.bist := htake .bist (by decide)
  have hpass' : s.begin.histStep.bist.cur.pass = true := hpassed.trans (decide_eq_true hpass)
  obtain ⟨hquiet, htree, htt, hstop, hcur, hfault, hsh⟩ := releaseNow_settles hwear' hfailed'
  rw [hbist] at hcur
  rw [hconfig] at hsh
  generalize s.begin.histStep.takeConfig.releaseNow = u at *
  have hflush := only_step (pending_only _ s.pending) (only_one (ps := flushParts) (flush_only u))
  generalize ({ u.flush with pending := s.pending } : State) = t at hexec hflush
  have hbistT : t.bist = u.bist := hflush .bist (by decide)
  have hclkT : t.clk = u.clk := hflush .clk (by decide)
  refine ⟨t, hexec, ?_, ?_, ?_, ?_, ?_, ?_, ?_, ?_, ?_⟩
  · rw [hflush .mode (by decide), hquiet]
  · rw [hbistT, hstop]
  · rw [hbistT, hcur, hcomplete]
  · rw [hbistT, hcur, hpass']
  · rw [hbistT, hcur, hten]
  · rw [hclkT, htree]
  · rw [hclkT, htt]
  · rw [hflush .fault (by decide), hfault]
  · rw [hflush .flash (by decide), hsh]

theorem bistEnd_refuses {s : State} (hmode : s.mode.mode = .bist) (hcore : s.coreRuns = true) (hrun : s.bist.running = true)
    (hhang : s.bist.hang = none) (hstep : s.bist.cur.step = 9) (hcut : s.bist.cur.cutLock = false) (hfail : s.bist.cur.failStep ≠ 0) :
    ∃ t, exec .bistEnd s = .next t ∧ t.mode.mode = .lockout ∧ t.bist.running = false ∧ t.bist.cur.pass = false
      ∧ t.clk.treeOn = true ∧ t.clk.tt = 0 ∧ t.safety.out1.on = false ∧ t.safety.out2.on = false
      ∧ (∀ c ∈ t.cells, c.closed = false) := by
  have hexec := bistEnd_next hmode hcore hrun hhang hstep
  rw [bistEnd_eq (s := s.begin) hstep hcut, if_neg (show ¬ s.begin.bist.cur.failStep = 0 from hfail)] at hexec
  obtain ⟨-, -, -, -, hpassed, -⟩ := histStep_settles s.begin
  have hbist : s.begin.histStep.takeConfig.bist = s.begin.histStep.bist := (takeConfig_settles s.begin.histStep).1 .bist (by decide)
  have hpass' : s.begin.histStep.bist.cur.pass = false := hpassed.trans (decide_eq_false hfail)
  obtain ⟨hlock, htree, htt, hstop, hcur, hout1, hout2, hcells⟩ := refuseRelease_settles s.begin.histStep.takeConfig
  rw [hbist] at hcur
  generalize s.begin.histStep.takeConfig.refuseRelease = u at *
  have hflush := only_step (pending_only _ s.pending) (only_one (ps := flushParts) (flush_only u))
  generalize ({ u.flush with pending := s.pending } : State) = t at hexec hflush
  have hbistT : t.bist = u.bist := hflush .bist (by decide)
  have hclkT : t.clk = u.clk := hflush .clk (by decide)
  have hsafetyT : t.safety = u.safety := hflush .safety (by decide)
  refine ⟨t, hexec, ?_, ?_, ?_, ?_, ?_, ?_, ?_, ?_⟩
  · rw [hflush .mode (by decide), hlock]
  · rw [hbistT, hstop]
  · rw [hbistT, hcur, hpass']
  · rw [hclkT, htree]
  · rw [hclkT, htt]
  · rw [hsafetyT, hout1]
  · rw [hsafetyT, hout2]
  · rw [hflush .cells (by decide)]
    exact hcells

/-- Settles O25: the start, a step that is stuck, and the two ends. -/
theorem bistRunsAndReleases : Obligations.BistRunsAndReleases := by
  unfold Obligations.BistRunsAndReleases
  intro s w k hmode
  exact ⟨bistStart_answer hmode, bistStepTimeout_answer, fun hcore hrun hhang hstep hcut =>
    ⟨bistEnd_releases hmode hcore hrun hhang hstep hcut, bistEnd_refuses hmode hcore hrun hhang hstep hcut⟩⟩

end Sys2Proof.Machine
end

section
/-!
A CQ_HEAD doorbell lets a result go that waited for a pool (09 R258, R271): its completion joins the ring whose head the doorbell moved.
-/
namespace Sys2Proof.Machine

-- one proof at a time: these proofs share the equations of the operations they unfold
set_option Elab.async false

/-- The completion of a result that waits for pool 0, in ring 0. -/
def waitingEntry : Cpl :=
  { ring := 0, cq := 0, cid := 0, status := 0, more := false, isEvent := false, isMap := false, pool := 0, nbuf := 0, first := 0, length := 0
    value := 0, answered := 0, tid := 0, detail := 0, noIrq := false, barrier := false, frees := none }

/-- A ROOT in QUIET whose completion ring 0 is RUNNING; a result of four bytes waits for pool 0, which has a buffer again since a plain write of
POOL_TAIL. -/
def waitingRoot : State := { State.reset with
  ident.role := .root, mode.mode := .quiet, host.perst := true, host.linkUp := true, host.enable := true
  host.cq := State.reset.host.cq.set 0 { CqSt.reset with state := .running }
  host.pool := State.reset.host.pool.set 0 { PoolSt.reset with en := true, tail := 1 }
  host.waits := [{ pool := 0, total := 4, bytes := [0, 0, 0, 0], run := none, sent := 0, comes := none, entry := waitingEntry, announced := false, behind := 0 }] }

theorem waitingRoot_completes : ((stateAfter (.cqHeadDoorbell 0 0 []) waitingRoot).cq 0).tail = 1 := by
  decide +kernel

/-- Refutes O28: the doorbell of `waitingRoot` moves the tail of its ring, which the clause of CQ_HEAD leaves alone. -/
theorem not_completionRingsAndMessages : ¬ Obligations.CompletionRingsAndMessages := by
  intro h
  obtain ⟨-, -, -, hhead, -⟩ := h waitingRoot 0 0 false (by decide +kernel) (by decide)
  obtain ⟨t, hexec, -, hcq⟩ := hhead (by decide) (by decide) (by decide +kernel) rfl rfl rfl
  have htail := waitingRoot_completes
  rw [stateAfter_of_next hexec, hcq] at htail
  exact absurd htail (by decide)

end Sys2Proof.Machine
end

section
/-!
Submission rings, pools and plain registers of BAR0 (09 R257–R260, R271, R281).
-/
namespace Sys2Proof.Machine

-- one proof at a time: these proofs share the equations of the operations they unfold
set_option Elab.async false

/-- A command of host software while the function answers. -/
theorem runBar_next {f : State → State} {s u : State} (hopen : s.barOpen = true) (h : f s.begin = u) :
    runBar f s = .next { u with pending := s.pending } := by
  rw [runBar_of_open hopen]
  exact run_next_eq h

theorem updAt_updAt {α : Type} (l : List α) (i : Nat) (f g : α → α) : updAt (updAt l i f) i g = updAt l i (fun x => g (f x)) := by
  unfold updAt
  cases h : l[i]? with
  | none => simp [h]
  | some x =>
    have hlt : i < l.length := (List.getElem?_eq_some_iff.mp h).1
    simp [hlt]

theorem updSq_updSq (s : State) (r : Nat) (f g : SqSt → SqSt) : (s.updSq r f).updSq r g = s.updSq r (fun q => g (f q)) := by
  unfold State.updSq
  dsimp only
  rw [updAt_updAt]

/-! ### Submission rings -/

theorem sqStart_answer {s : State} {r c w : Nat} (hopen : s.barOpen = true) (hlen : s.host.sq.length = 256) (hr : r < 256)
    (hstopped : (s.sq r).state = .stopped) (hw : 1 ≤ w) (hcq : (s.cq c).state = .running) :
    exec (.sqStart r c w) s = .next { s with reply := none, out := [], host := { s.host with
      sq := updAt s.host.sq r (fun (q : SqSt) => { q with cq := c, weight := w, state := .running, head := 0, tail := 0 }) } } := by
  have hset : s.begin.setSqCtrl r c w = s.begin.updSq r (fun q => { q with cq := c, weight := w }) := by
    unfold State.setSqCtrl
    dsimp only
    rw [if_neg (by simp [show s.begin.sq r = s.sq r from rfl, hstopped]), if_neg (by omega)]
  have hself : (s.begin.updSq r (fun q => { q with cq := c, weight := w })).sq r = { s.sq r with cq := c, weight := w } :=
    updSq_sq_self s.begin r _ (hlen ▸ hr)
  refine runBar_next (f := State.startSqWith r c w) hopen (u := s.begin.updSq r (fun q =>
    { q with cq := c, weight := w, state := .running, head := 0, tail := 0 })) ?_
  unfold State.startSqWith State.startSq
  rw [hset]
  dsimp only
  rw [if_neg (by omega), hself, if_pos (by
    simp only [hstopped, decide_true, Bool.true_and, decide_eq_true_eq]
    exact hcq), updSq_updSq]

theorem sqStart_ignored {s : State} {r c : Nat} (hopen : s.barOpen = true) (hstopped : (s.sq r).state = .stopped) :
    exec (.sqStart r c 0) s = .next { s with reply := none, out := [], host := { s.host with writeIgn := true } } := by
  refine runBar_next (f := State.startSqWith r c 0) hopen (u := s.begin.ignoreWrite) ?_
  unfold State.startSqWith State.setSqCtrl
  dsimp only
  rw [if_pos rfl, if_neg (by simp [show s.begin.sq r = s.sq r from rfl, hstopped]), if_pos rfl]

theorem sqStop_answer {s : State} {r : Nat} (hopen : s.barOpen = true) (hlen : s.host.sq.length = 256) (hr : r < 256)
    (hrun : (s.sq r).state = .running) :
    exec (.sqStop r) s = .next { s with reply := none, out := [], host := { s.host with
      sq := updAt s.host.sq r (fun (q : SqSt) => { q with state := if s.inflight r = 0 then .stopped else .stopping }) } } := by
  have hself : (s.begin.updSq r (fun q => { q with state := .stopping })).sq r = { s.sq r with state := .stopping } :=
    updSq_sq_self s.begin r _ (hlen ▸ hr)
  refine runBar_next (f := State.stopSq r) hopen (u := s.begin.updSq r (fun q =>
    { q with state := if s.inflight r = 0 then .stopped else .stopping })) ?_
  unfold State.stopSq State.settleSq
  rw [if_pos (show (s.begin.sq r).state = .running from hrun), hself]
  by_cases hzero : s.inflight r = 0
  · have hzero' : (s.begin.updSq r (fun q => { q with state := .stopping })).inflight r = 0 := hzero
    rw [if_pos (by simp [hzero']), updSq_updSq, if_pos hzero]
  · have hzero' : ¬ (s.begin.updSq r (fun q => { q with state := .stopping })).inflight r = 0 := hzero
    rw [if_neg (by simp [hzero']), if_neg hzero]

theorem sqTailDoorbell_answer {s : State} {r w : Nat} (hopen : s.barOpen = true) (hstate : (s.sq r).state ≠ .stopped)
    (hw : w < 2 ^ (s.sq r).log2) :
    exec (.sqTailDoorbell r w) s = .next { s with reply := none, out := [], host := { s.host with
      sq := updAt s.host.sq r (fun (q : SqSt) => { q with tail := w }) } } := by
  refine runBar_next (f := State.bellTail r w) hopen (u := s.begin.updSq r (fun q => { q with tail := w })) ?_
  unfold State.bellTail
  dsimp only
  rw [if_neg]
  simp only [Bool.or_eq_true, decide_eq_true_eq, not_or]
  exact ⟨hstate, Nat.not_le.mpr hw⟩

/-! An event writes a completion entry that frees no transaction: no submission ring changes. -/

theorem message_sq (s : State) (v : Nat) : (s.message v).host.sq = s.host.sq := by
  unfold State.message
  split
  · rfl
  · split <;> rfl

theorem signal_sq (s : State) (c : Nat) : (s.signal c).host.sq = s.host.sq := by
  unfold State.signal
  dsimp only
  split
  · exact message_sq _ _
  · rfl

theorem event_sq (s : State) (typ v : Nat) : (s.event typ v).host.sq = s.host.sq := by
  unfold State.event
  split
  · rfl
  · dsimp only
    split
    · rfl
    · split
      · unfold State.writeEntry
        exact signal_sq _ _
      · split <;> rfl

theorem sqTailDoorbell_refused {s : State} {r w : Nat} (hopen : s.barOpen = true) (hlen : s.host.sq.length = 256) (hr : r < 256)
    (hbad : (s.sq r).state = .stopped ∨ 2 ^ (s.sq r).log2 ≤ w) :
    ∃ t, exec (.sqTailDoorbell r w) s = .next t ∧ (t.sq r).badBell = true ∧ (t.sq r).tail = (s.sq r).tail
      ∧ s.onlyChanges [.reply, .out, .host] t := by
  have hbell : s.begin.bellTail r w = s.begin.refuseBell r := by
    unfold State.bellTail
    dsimp only
    refine if_pos ?_
    simp only [Bool.or_eq_true, decide_eq_true_eq]
    exact hbad
  have hexec : exec (.sqTailDoorbell r w) s = .next { s.begin.refuseBell r with pending := s.pending } :=
    runBar_next (f := State.bellTail r w) hopen hbell
  have hsq : (s.begin.refuseBell r).sq r = { s.sq r with badBell := true } := by
    unfold State.refuseBell State.sq
    rw [event_sq]
    exact updSq_sq_self s.begin r _ (hlen ▸ hr)
  have honly : s.begin.onlyChanges [.reply, .out, .host] (s.begin.refuseBell r) :=
    only_step (event_only _ _ _) (only_one (updSq_only s.begin r _))
  generalize s.begin.refuseBell r = u at hexec hsq honly
  exact ⟨_, hexec, (congrArg SqSt.badBell hsq :), (congrArg SqSt.tail hsq :), next_only honly⟩

/-- Settles O27: START, STOP and the doorbell, taken and refused. -/
theorem submissionRings : Obligations.SubmissionRings := by
  unfold Obligations.SubmissionRings
  intro s r c w hopen hlen hr
  exact ⟨sqStart_answer hopen hlen hr, sqStart_ignored hopen, sqStop_answer hopen hlen hr, sqTailDoorbell_answer hopen,
    sqTailDoorbell_refused hopen hlen hr⟩

/-! ### Pools -/

theorem poolEnable_answer {s : State} {p l b : Nat} (hopen : s.barOpen = true) (hoff : (s.pool p).en = false) (hl : 4 ≤ l) (hl' : l ≤ 16)
    (hb : 8 ≤ b) (hb' : b ≤ 20) :
    exec (.poolEnable p l b) s = .next { s with reply := none, out := [], host := { s.host with
      pool := updAt s.host.pool p (fun (q : PoolSt) => { q with listLog2 := l, bufLog2 := b, en := true }) } } := by
  refine runBar_next (f := State.setPool p l b true) hopen
    (u := s.begin.updPool p (fun q => { q with listLog2 := l, bufLog2 := b, en := true })) ?_
  unfold State.setPool
  dsimp only
  rw [if_neg (by simp [show s.begin.pool p = s.pool p from rfl, hoff]), if_pos (by simp [hl, hl', hb, hb'])]

theorem poolEnable_ignored {s : State} {p l b : Nat} (hopen : s.barOpen = true) (hoff : (s.pool p).en = false) (hl : 16 < l) :
    exec (.poolEnable p l b) s = .next { s with reply := none, out := [], host := { s.host with writeIgn := true } } := by
  refine runBar_next (f := State.setPool p l b true) hopen (u := s.begin.ignoreWrite) ?_
  unfold State.setPool
  dsimp only
  rw [if_neg (by simp [show s.begin.pool p = s.pool p from rfl, hoff]), if_neg (by simp; omega)]

/-- What a pool becomes where it closes and no result is being written into its buffers. -/
def PoolSt.closed (q : PoolSt) (busy : Bool) : PoolSt := if q.closing && !busy then { q with en := false, closing := false } else q

theorem closePools_pool {s : State} {k : Nat} (hlen : s.host.pool.length = 64) (hk : k < 64) :
    s.closePools.pool k = (s.pool k).closed (s.poolBusy k) := by
  have hlt : k < s.host.pool.length := hlen ▸ hk
  have hget : s.pool k = s.host.pool[k] := by simp [State.pool, List.getD, hlt]
  rw [hget]
  change (s.host.pool.mapIdx _).getD k PoolSt.reset = _
  rw [List.getD, List.getElem?_mapIdx, List.getElem?_eq_getElem hlt]
  rfl

theorem closePools_pool_outside {s : State} {k : Nat} (hlen : s.host.pool.length = 64) (hk : ¬ k < 64) :
    s.closePools.pool k = PoolSt.reset := by
  change (s.host.pool.mapIdx _).getD k PoolSt.reset = _
  rw [List.getD, List.getElem?_mapIdx, List.getElem?_eq_none_iff.mpr (by omega)]
  rfl

section
variable {s : State} {p : Nat} (hopen : s.barOpen = true) (hlen : s.host.pool.length = 64) (hp : p < 64)
include hopen hlen hp

/-- EN 0 closes the pool, where that is due at once. -/
theorem poolDisable_next : ∃ t, exec (.poolDisable p) s = .next t ∧ s.onlyChanges [.reply, .out, .host] t
    ∧ t.host = { s.host with pool := t.host.pool }
    ∧ t.pool p = ({ s.pool p with closing := (s.pool p).en } : PoolSt).closed (s.poolBusy p)
    ∧ ∀ k, k ≠ p → t.pool k = if k < 64 then (s.pool k).closed (s.poolBusy k) else s.pool k := by
  generalize hu : s.begin.updPool p (fun q => { q with closing := q.en }) = u
  have hhost : u.host = { s.host with pool := u.host.pool } := by rw [← hu]; rfl
  have hlenU : u.host.pool.length = 64 := by
    rw [← hu]
    exact (updAt_length _ _ _).trans hlen
  have hbusy (k : Nat) : u.poolBusy k = s.poolBusy k := by rw [← hu]; rfl
  have hself : u.pool p = { s.pool p with closing := (s.pool p).en } := by
    rw [← hu]
    exact updPool_pool_self s.begin p _ (hlen ▸ hp)
  have hother (k : Nat) (hk : k ≠ p) : u.pool k = s.pool k := by
    rw [← hu]
    exact updPool_pool_ne s.begin p k _ (Ne.symm hk)
  have hexec : exec (.poolDisable p) s = .next { u.closePools with pending := s.pending } := by
    refine runBar_next (f := State.disablePool p) hopen ?_
    unfold State.disablePool
    rw [hu]
  have honly : s.begin.onlyChanges [.reply, .out, .host] u.closePools := only_step (only_host u _) (hu ▸ only_one (updPool_only s.begin p _))
  refine ⟨_, hexec, next_only honly, ?_, ?_, fun k hk => ?_⟩
  · have hsame : u.closePools.host = { u.host with pool := u.closePools.host.pool } := rfl
    exact hsame.trans (by rw [hhost])
  · exact (closePools_pool hlenU hp).trans (by rw [hself, hbusy])
  · change u.closePools.pool k = _
    split
    · next hlt => rw [closePools_pool hlenU hlt, hother k hk, hbusy]
    · next hge =>
      rw [closePools_pool_outside hlenU hge]
      simp [State.pool, List.getD, hlen, Nat.not_lt.mp hge]

end

/-- With nothing held anywhere the pools are as a write of a register left them. -/
theorem drainHeld_of_none {s : State} (hwaits : s.host.waits = []) (hheld : s.host.heldWait = []) (mem : List (Nat × Byte)) :
    s.drainHeld mem = State.closePools { s with host := { s.host with
      heldTold := [], pool := s.host.pool.map (fun q => { q with waiting := false }) } } := by
  have htell (u : State) (hu : u.host.heldWait = []) : u.tellHeld = { u with host := { u.host with heldTold := [] } } := by
    unfold State.tellHeld
    rw [hu]
    rfl
  have hsettle : s.settleWaits (some mem) = State.closePools { s with host := { s.host with
      heldTold := [], pool := s.host.pool.map (fun q => { q with waiting := false }) } } := by
    unfold State.settleWaits
    rw [hwaits]
    dsimp only [List.foldl, List.nil_append]
    rw [htell]
    · rw [← hwaits]
    · exact hheld
  unfold State.drainHeld
  rw [hheld]
  exact hsettle

theorem drainEvents_of_none {s : State} (h : s.host.events = []) : s.drainEvents = s := by
  unfold State.drainEvents
  rw [h]
  split
  · rfl
  · change ({ s with host := { s.host with events := [] } } : State) = s
    rw [← h]

/-- With no completion and no event held the completion rings alone settle. -/
theorem drain_of_none {s : State} (hcpl : s.host.cplWait = []) (hevents : s.host.events = []) :
    ∃ l, s.drain = { s with host := { s.host with cplWait := [], cq := l } } := by
  have hdrain : ∃ l, s.drainCpl = { s with host := { s.host with cplWait := [], cq := l } } := by
    unfold State.drainCpl
    rw [hcpl]
    exact ⟨_, rfl⟩
  obtain ⟨l, hl⟩ := hdrain
  refine ⟨l, ?_⟩
  unfold State.drain
  rw [hl]
  exact drainEvents_of_none hevents

theorem poolTailWrite_answer {s : State} {p v : Nat} (hopen : s.barOpen = true) (hlen : s.host.pool.length = 64) (hp : p < 64)
    (hv : v < 2 ^ (s.pool p).listLog2) (hclosing : (s.pool p).closing = false) (hcpl : s.host.cplWait = []) (hevents : s.host.events = [])
    (hwaits : s.host.waits = []) (hheld : s.host.heldWait = []) :
    ∃ t, exec (.poolTailWrite p v []) s = .next t ∧ s.onlyChanges [.reply, .out, .host] t ∧ (t.pool p).tail = v
      ∧ (t.pool p).en = (s.pool p).en ∧ (t.pool p).head = (s.pool p).head := by
  have hset : s.begin.setPoolTail p v = s.begin.updPool p (fun q => { q with tail := v }) := if_neg (Nat.not_le.mpr hv)
  obtain ⟨l, hdrain⟩ := drain_of_none (s := s.begin.updPool p (fun q => { q with tail := v })) hcpl hevents
  generalize hu : ({ s.begin.updPool p (fun q => { q with tail := v }) with
    host := { (s.begin.updPool p (fun q => { q with tail := v })).host with cplWait := [], cq := l } } : State) = u at hdrain
  have hwaitsU : u.host.waits = [] := by rw [← hu]; exact hwaits
  have hheldU : u.host.heldWait = [] := by rw [← hu]; exact hheld
  have hpoolU : u.pool p = { s.pool p with tail := v } := by
    rw [← hu]
    exact updPool_pool_self s.begin p _ (hlen ▸ hp)
  have hlenU : u.host.pool.length = 64 := by
    rw [← hu]
    exact (updAt_length _ _ _).trans hlen
  have honlyU : s.begin.onlyChanges [.host] u := hu ▸ only_step (only_host _ _) (updPool_only s.begin p _)
  clear hu
  generalize hw : ({ u with host := { u.host with
    heldTold := [], pool := u.host.pool.map (fun q => { q with waiting := false }) } } : State) = w
  have hheldDrain : u.drainHeld [] = w.closePools := hw ▸ drainHeld_of_none hwaitsU hheldU []
  have hroom : s.begin.stagingFull = false := by
    unfold State.stagingFull
    rw [show s.begin.host.waits = [] from hwaits, show s.begin.host.heldWait = [] from hheld]
    simp
  have hbell : (fun s : State => (s.setPoolTail p v).drainAll []) s.begin = w.closePools := by
    have hroomU : (s.begin.setPoolTail p v).stagingFull = false := by rw [hset]; exact hroom
    dsimp only
    unfold State.drainAll
    rw [hroomU, hset, hdrain, hheldDrain]
    rfl
  have hexec : exec (.poolTailWrite p v []) s = .next { w.closePools with pending := s.pending } :=
    runBar_next (f := fun s => (s.setPoolTail p v).drainAll []) hopen hbell
  have hlt : p < u.host.pool.length := hlenU ▸ hp
  have hpoolW : w.pool p = { u.pool p with waiting := false } := by
    rw [← hw]
    simp [State.pool, List.getD, hlt]
  have hpool : w.closePools.pool p = { s.pool p with tail := v, waiting := false } := by
    rw [closePools_pool (by rw [← hw]; exact (List.length_map _).trans hlenU) hp, hpoolW, hpoolU]
    unfold PoolSt.closed
    dsimp only
    rw [hclosing, Bool.false_and, if_neg Bool.false_ne_true]
  have honly : s.begin.onlyChanges [.reply, .out, .host] w.closePools :=
    only_step (only_host w _) (hw ▸ only_step (only_host u _) (only_one honlyU))
  generalize w.closePools = x at hexec hpool honly
  exact ⟨_, hexec, next_only honly, (congrArg PoolSt.tail hpool :), (congrArg PoolSt.en hpool :), (congrArg PoolSt.head hpool :)⟩

/-! ### Register writes -/

theorem hostCtrl_answer {s : State} {v : Nat} (hopen : s.barOpen = true) (hcpl : s.host.cplWait = []) (hevents : s.host.events = [])
    (hv : v < 2 ^ 22) :
    ∃ t, exec (.bar0RegisterWrite 8 4 v) s = .next t ∧ s.onlyChanges [.reply, .out, .host] t
      ∧ t.host.enable = v.testBit 0 ∧ t.host.eventEn = v.testBit 1 ∧ t.host.eventCq = v / 256 % 256
      ∧ t.host.eventPool = v / 65536 % 64 := by
  obtain ⟨l, hdrain⟩ := drain_of_none (s := s.begin.updHost (fun h =>
    { h with enable := bit v 0, eventEn := bit v 1, eventCq := fld v 15 8, eventPool := fld v 21 16 })) hcpl hevents
  have hwrite : s.begin.barWrite 8 4 v = { s.begin with host := { s.host with
      enable := bit v 0, eventEn := bit v 1, eventCq := fld v 15 8, eventPool := fld v 21 16, cplWait := [], cq := l } } := by
    have hmod : v % 2 ^ 32 = v := Nat.mod_eq_of_lt (by omega)
    have hdef : s.begin.barWrite 8 4 v = s.begin.setHostCtrl (v % 2 ^ 32) := rfl
    rw [hdef, hmod, State.setHostCtrl, hdrain]
    rfl
  have hexec := runBar_next (f := State.barWrite 8 4 v) hopen hwrite
  refine ⟨_, hexec, next_only (only_one (only_host s.begin _)), rfl, rfl, ?_, ?_⟩
  · exact congrArg (· % 256) (Nat.shiftRight_eq_div_pow v 8)
  · exact congrArg (· % 64) (Nat.shiftRight_eq_div_pow v 16)

/-- Settles O29: pools enabled, disabled and given buffers, HOST_CTRL, and a write that is not aligned. -/
theorem poolsAndRegisterWrites : Obligations.PoolsAndRegisterWrites := by
  unfold Obligations.PoolsAndRegisterWrites
  intro s p l b v hopen hlen hp
  refine ⟨poolEnable_answer hopen, poolEnable_ignored hopen, fun hbusy => ?_, fun hbusy hen => ?_, poolTailWrite_answer hopen hlen hp,
    hostCtrl_answer hopen, runBar_next (f := State.barWrite 9 4 v) hopen rfl⟩
  · obtain ⟨t, ht, honly, hhost, hpool, hothers⟩ := poolDisable_next hopen hlen hp
    refine ⟨t, ht, honly, ?_, hhost, fun hne hopenPools => ?_⟩
    · rw [hpool, hbusy]
      unfold PoolSt.closed
      cases hen : (s.pool p).en
      · rw [if_neg (by simp)]
        simp [← hen]
      · rw [if_pos (by simp)]
    · rw [hothers v hne]
      split
      · next hlt =>
        have hmem : s.pool v ∈ s.host.pool := by
          have hget : s.pool v = s.host.pool[v]'(hlen ▸ hlt) := by simp [State.pool, List.getD, hlen, hlt]
          exact hget ▸ List.getElem_mem _
        unfold PoolSt.closed
        rw [hopenPools _ hmem, Bool.false_and, if_neg Bool.false_ne_true]
      · rfl
  · obtain ⟨t, ht, honly, -, hpool, -⟩ := poolDisable_next hopen hlen hp
    rw [hbusy] at hpool
    have hkept : t.pool p = { s.pool p with closing := (s.pool p).en } := by
      rw [hpool, PoolSt.closed, Bool.not_true, Bool.and_false, if_neg Bool.false_ne_true]
    exact ⟨t, ht, honly, by rw [hkept]; exact hen, by rw [hkept]; exact hen⟩

end Sys2Proof.Machine
end

section
/-!
The PCIe link and the resets of the host island (09 R254–R256, R276).
-/
namespace Sys2Proof.Machine

-- one proof at a time: these proofs share the equations of the operations they unfold
set_option Elab.async false

theorem barOpen_parts {s : State} (h : s.barOpen = true) :
    s.hasHost = true ∧ s.awake = true ∧ s.host.perst = true ∧ s.host.linkUp = true := by
  simp only [State.barOpen, Bool.and_eq_true] at h
  obtain ⟨⟨⟨hhost, hawake⟩, hperst⟩, hlink⟩ := h
  exact ⟨hhost, hawake, hperst, hlink⟩

/-- A device with an endpoint, its clock and PERST_N high trains the link. -/
theorem trainPcie_trains {s : State} (hhost : s.hasHost = true) (hperst : s.host.perst = true) (hclk : s.host.refclk = true)
    (hheld : s.bist.testHeld = false) :
    s.trainPcie = { s with host := { s.host with linkUp := true, speedNow := min s.host.partner.1 s.host.speed
                                                 widthNow := min s.host.partner.2 s.host.width } } := by
  unfold State.trainPcie
  rw [hhost, hperst, hclk, hheld]
  rfl

theorem linkRetrain_answer {s : State} {sp w gs gw : Nat} (hheld : s.bist.testHeld = false) (hopen : s.barOpen = true)
    (hclk : s.host.refclk = true) (hsp : 1 ≤ sp) (hw : w = 1 ∨ w = 2) :
    exec (.linkRetrain sp w gs gw) s = .next { s with reply := none, out := [], host := { s.host with
      partner := (gs, gw), speed := sp, width := w, linkUp := true, speedNow := min gs sp, widthNow := min gw w } } := by
  obtain ⟨hhost, -, hperst, -⟩ := barOpen_parts hopen
  refine runBar_next (f := fun s => (s.updHost (fun h => { h with partner := (gs, gw) })).retrainPcie sp w) hopen
    (u := { s.begin with host := { s.host with
      partner := (gs, gw), speed := sp, width := w, linkUp := true, speedNow := min gs sp, widthNow := min gw w } }) ?_
  dsimp only
  unfold State.retrainPcie State.setLink
  rw [if_pos hw, if_pos hw, if_neg (by omega), trainPcie_trains]
  · rfl
  · exact hhost
  · exact hperst
  · exact hclk
  · exact hheld

/-- What a reset of the island leaves of its rings, pools and transactions. -/
theorem island_stopped (h : HostSt) : h.island.txs = [] ∧ h.island.enable = false ∧ (∀ q ∈ h.island.sq, q.state = .stopped)
    ∧ (∀ q ∈ h.island.cq, q.state = .stopped) ∧ ∀ q ∈ h.island.pool, q.en = false := by
  refine ⟨rfl, rfl, fun q hq => ?_, fun q hq => ?_, fun q hq => ?_⟩
  · rcases List.mem_cons.mp hq with hq | hq
    · rw [hq]
      rfl
    · rw [List.eq_of_mem_replicate hq]
      rfl
  · rw [List.eq_of_mem_replicate hq]
    rfl
  · rw [List.eq_of_mem_replicate hq]
    rfl

theorem dropTxs_only (s : State) : s.onlyChanges [.glean, .tree] s.dropTxs := fun p hp => by
  cases p <;> first | rfl | exact absurd (by decide) hp

theorem perstNAssert_answer (s : State) : ∃ t, exec .perstNAssert s = .next t ∧ s.onlyChanges [.reply, .out, .host, .glean, .tree] t
    ∧ t.host.perst = false ∧ t.host.linkUp = false ∧ t.host.txs = [] ∧ t.host.enable = false ∧ (∀ q ∈ t.host.sq, q.state = .stopped)
    ∧ (∀ q ∈ t.host.cq, q.state = .stopped) ∧ ∀ q ∈ t.host.pool, q.en = false := by
  obtain ⟨htxs, henable, hsq, hcq, hpool⟩ := island_stopped s.host
  exact ⟨_, rfl, next_only (only_step (only_host _ _) (only_one (dropTxs_only s.begin))), rfl, rfl, htxs, henable, hsq, hcq, hpool⟩

theorem functionLevelReset_answer {s : State} (hhost : s.hasHost = true) (hperst : s.host.perst = true) :
    ∃ t, exec .functionLevelReset s = .next t ∧ s.onlyChanges [.reply, .out, .host, .glean, .tree] t ∧ t.host.perst = true
      ∧ t.host.linkUp = s.host.linkUp ∧ t.host.txs = [] ∧ t.host.enable = false ∧ (∀ q ∈ t.host.sq, q.state = .stopped)
      ∧ (∀ q ∈ t.host.cq, q.state = .stopped) ∧ ∀ q ∈ t.host.pool, q.en = false := by
  obtain ⟨htxs, henable, hsq, hcq, hpool⟩ := island_stopped s.host
  have hexec : exec .functionLevelReset s = .next { s.begin.functionReset with pending := s.pending } := run_when_next (by rw [hhost, hperst]; rfl)
  exact ⟨_, hexec, next_only (only_step (only_host _ _) (only_one (dropTxs_only s.begin))), hperst, rfl, htxs, henable, hsq, hcq, hpool⟩

theorem perstNDeassert_answer {s : State} (gs gw : Nat) (hheld : s.bist.testHeld = false) (hhost : s.hasHost = true) :
    exec (.perstNDeassert true gs gw) s = .next { s with reply := none, out := [], host := { s.host with
      perst := true, refclk := true, partner := (gs, gw), linkUp := true, speedNow := min gs s.host.speed, widthNow := min gw s.host.width } } := by
  refine run_next_eq (f := fun s => (s.updHost (fun h => { h with perst := true, refclk := true, partner := (gs, gw) })).trainPcie)
    (u := { s.begin with host := { s.host with perst := true, refclk := true, partner := (gs, gw), linkUp := true
                                               speedNow := min gs s.host.speed, widthNow := min gw s.host.width } }) ?_
  dsimp only
  rw [trainPcie_trains]
  · rfl
  · exact hhost
  · rfl
  · rfl
  · exact hheld

theorem message_txs (s : State) (v : Nat) : (s.message v).host.txs = s.host.txs := by
  unfold State.message
  split
  · rfl
  · split <;> rfl

theorem signal_txs (s : State) (c : Nat) : (s.signal c).host.txs = s.host.txs := by
  unfold State.signal
  dsimp only
  split
  · exact message_txs _ _
  · rfl

theorem event_txs (s : State) (typ v : Nat) : (s.event typ v).host.txs = s.host.txs := by
  unfold State.event
  split
  · rfl
  · dsimp only
    split
    · rfl
    · split
      · unfold State.writeEntry
        exact signal_txs _ _
      · split <;> rfl

theorem setMode_txs (s : State) (m : Mode) : (s.setMode m).host.txs = s.host.txs := by
  unfold State.setMode
  split
  · rfl
  · dsimp only
    rw [event_txs, ledger_only _ _ _ _ .host (by decide)]

theorem resetTo_txs (s : State) (c : Nat) : (s.resetTo c .bist).host.txs = [] := by
  unfold State.resetTo
  dsimp only
  rw [setMode_txs]
  rfl

theorem hostReset_answer {s : State} (hopen : s.barOpen = true) :
    ∃ t, exec (.hostReset 0x5A5A4800) s = .next t ∧ t.mode.mode = .bist ∧ t.mode.cause = 6 ∧ t.clk.rtc = s.clk.rtc ∧ t.host.txs = [] := by
  have hexec : exec (.hostReset 0x5A5A4800) s = .next { s.begin.resetTo 6 .bist with pending := s.pending } :=
    runBar_next (f := when_ (decide (0x5A5A4800 = 0x5A5A4800)) (fun s => s.resetBy 6)) hopen rfl
  have hmode := resetTo_mode s.begin 6 .bist
  have hclk := resetTo_clk s.begin 6 .bist
  have htxs := resetTo_txs s.begin 6
  generalize s.begin.resetTo 6 .bist = u at hexec hmode hclk htxs
  exact ⟨_, hexec, (congrArg ModeSt.mode hmode :), (congrArg ModeSt.cause hmode :), (congrArg ClkSt.rtc hclk :), htxs⟩

theorem configurationRequest_retry {s : State} (hhost : s.hasHost = true) (hperst : s.host.perst = true) (hlink : s.host.linkUp = true)
    (hbist : s.mode.mode = .bist) :
    exec (.configurationRequest .other) s = .next { s with
      out := [], reply := some { status := stRetry, value := 0, words := [], bytes := [] } } := by
  refine run_next_eq (f := fun s => s.configure .other) (u := s.begin.answer stRetry) ?_
  unfold State.configure
  rw [show s.begin.hasHost = true from hhost, show s.begin.host.perst = true from hperst, show s.begin.host.linkUp = true from hlink,
    if_neg (by decide), if_pos (show s.begin.mode.mode = .bist from hbist)]

theorem configurationRequest_pme {s : State} (hopen : s.barOpen = true) :
    ∃ t, exec (.configurationRequest (.pmeEnable false)) s = .next t ∧ t.host.pmeEn = false
      ∧ t.reply = some { status := stOk, value := 0, words := [], bytes := [] } ∧ s.onlyChanges [.reply, .out, .host] t := by
  obtain ⟨hhost, hawake, hperst, hlink⟩ := barOpen_parts hopen
  have hmode : s.mode.mode ≠ .bist := fun h => by simp [State.awake, State.inMode, h] at hawake
  have hconf : s.begin.configure (.pmeEnable false) = (s.begin.updHost (fun h => { h with pmeEn := false })).answer stOk := by
    unfold State.configure
    rw [show s.begin.hasHost = true from hhost, show s.begin.host.perst = true from hperst, show s.begin.host.linkUp = true from hlink,
      show s.begin.awake = true from hawake, if_neg (by decide), if_neg (show s.begin.mode.mode ≠ .bist from hmode), if_neg (by decide)]
    rfl
  have hexec : exec (.configurationRequest (.pmeEnable false)) s = _ := run_next_eq (f := fun s => s.configure (.pmeEnable false)) hconf
  exact ⟨_, hexec, rfl, rfl, next_only (only_step (answer_only _ _ _ _ _) (only_one (only_host s.begin _)))⟩

/-- Settles O30: the link, PERST_N and Function Level Reset, HOST_RESET, and configuration requests. -/
theorem linkAndHostResets : Obligations.LinkAndHostResets := by
  unfold Obligations.LinkAndHostResets
  intro s sp w gs gw hheld
  exact ⟨linkRetrain_answer hheld, perstNAssert_answer s, perstNDeassert_answer gs gw hheld, functionLevelReset_answer, hostReset_answer,
    configurationRequest_retry, configurationRequest_pme⟩

end Sys2Proof.Machine
end

section
/-!
START and STOP of SWEEP, and the snapshot (02 R59–R62, R74).
-/
namespace Sys2Proof.Machine

-- one proof at a time: these proofs share the equations of the operations they unfold
set_option Elab.async false

/-- The schedule of apertures may have grown; the rest of the function stays. -/
theorem schedule_sweep (s : State) : ∃ l c, s.schedule.sweep = { s.sweep with pend := l, cursor := c } := by
  have hadd (l : List Nat) (u : State) (f g : Nat → Nat) : ∃ p, (l.foldl (fun s i => s.addAperture (f i) (g i)) u).sweep = { u.sweep with pend := p } := by
    induction l generalizing u with
    | nil => exact ⟨u.sweep.pend, rfl⟩
    | cons i l ih =>
      obtain ⟨p, hp⟩ := ih (u.addAperture (f i) (g i))
      exact ⟨p, hp⟩
  unfold State.schedule
  split
  · exact ⟨s.sweep.pend, s.sweep.cursor, rfl⟩
  · extract_lets p k0 k1 u
    obtain ⟨l, hl⟩ := hadd (List.range (k1 + 1 - k0)) s (fun i => (k0 + i) * p) (fun i => (k0 + i) % 2 ^ 32)
    exact ⟨l, max u.sweep.cursor (k1 * p), congrArg (fun w : SweepSt => { w with cursor := max u.sweep.cursor (k1 * p) }) hl⟩

/-- The schedule grows the same before a command has begun to answer. -/
theorem schedule_begin (s : State) : s.begin.schedule = s.schedule.begin := by
  have hadd (l : List Nat) (u : State) (f g : Nat → Nat) : l.foldl (fun s i => s.addAperture (f i) (g i)) u.begin
      = (l.foldl (fun s i => s.addAperture (f i) (g i)) u).begin := by
    induction l generalizing u with
    | nil => rfl
    | cons i l ih => exact ih (u.addAperture (f i) (g i))
  unfold State.schedule
  rw [show s.begin.periodic = s.periodic from rfl]
  split
  · rfl
  · extract_lets p' k0' k1' u' w'
    exact congrArg (fun v : State => { v with sweep := { v.sweep with cursor := max v.sweep.cursor (k1' * p') } })
      (hadd (List.range (k1' + 1 - k0')) s (fun i => (k0' + i) * p') (fun i => (k0' + i) % 2 ^ 32))

theorem clearSteps_only (s : State) : s.onlyChanges [.diag, .cells] s.clearSteps := only_ite (abandonStep_only s) (only_refl _ s)

/-- START of the function, before the mode follows. -/
theorem runSweep_settles (s : State) : s.onlyChanges [.sweep, .cells] s.runSweep ∧ ∃ l c, s.runSweep.sweep = { s.sweep with
    fn := .running, lat := s.sweep.par, late := 0, startT := s.clk.tt, outputs := 0, pend := l, cursor := c, blankTo := none
    tbias := decide (s.sweep.par.auxDiv = 1), lastSnap := s.clk.wall } := by
  unfold State.runSweep
  extract_lets u
  have hu : s.onlyChanges [.cells] u := mapCells_only s _
  have hsweep : u.sweep = s.sweep := hu .sweep (by decide)
  have hclk : u.clk = s.clk := hu .clk (by decide)
  clear_value u
  obtain ⟨l, c, hl⟩ := schedule_sweep { u with sweep := { u.sweep with
    fn := .running, lat := u.sweep.par, late := 0, startT := u.now, outputs := 0, pend := [], cursor := u.now, blankTo := none
    tbias := decide (u.sweep.par.auxDiv = 1), lastSnap := u.wall } }
  refine ⟨only_step (schedule_only _) (only_step (only_sweep u _) (only_one hu)), l, c, hl.trans ?_⟩
  unfold State.now State.wall
  rw [hsweep, hclk]

theorem sweepStart_answer {s : State} {src : Nat} (hreach : s.reachable = true) (hfn : s.sweep.fn = .stopped) (hmode : s.mode.mode = .quiet)
    (hsrc : src < 2) :
    ∃ t, exec (.sweepStart src) s = .next t ∧ t.sweep.fn = .running ∧ t.sweep.lat = { s.sweep.par with source := src }
      ∧ t.sweep.late = 0 ∧ t.sweep.outputs = 0 ∧ t.sweep.startT = s.clk.tt ∧ t.mode = { s.mode with mode := .run }
      ∧ t.reply = some { status := stOk, value := 0, words := [], bytes := [] }
      ∧ s.onlyChanges [.reply, .out, .sweep, .cells, .mode, .flash, .host, .diag] t := by
  generalize hu : ({ s.begin with sweep := { s.sweep with par := { s.sweep.par with source := src } } } : State) = u
  have hpar : u.sweep.par = { s.sweep.par with source := src } := by rw [← hu]
  have hclkU : u.clk = s.clk := by rw [← hu]; rfl
  have hU : s.begin.onlyChanges [.sweep] u := hu ▸ only_sweep s.begin _
  obtain ⟨hrun, l, c, hsweep⟩ := runSweep_settles u
  have hclear := clearSteps_only u.runSweep
  generalize hv : u.runSweep.clearSteps = v at hclear
  have hall : s.begin.onlyChanges [.sweep, .cells, .diag] v := only_step hclear (only_step hrun (only_one hU))
  have hsweepV : v.sweep = u.runSweep.sweep := hclear .sweep (by decide)
  have hmodeV : v.mode = s.mode := hall .mode (by decide)
  have hset := setMode_only v .run
  have hmodeT := setMode_mode v .run
  have hstart : startSweep src s.begin = (stOk, v.setMode .run) := by
    have hsrc' : src % 2 = src := Nat.mod_eq_of_lt hsrc
    have hpend : (if v.mode.mode = .quiet then v.setMode .run else v) = v.setMode .run := if_pos (by rw [hmodeV, hmode])
    unfold startSweep
    rw [if_neg (by simp [State.begin, hfn]), if_neg (by simp [State.inMode, State.begin, hmode]),
      hsrc']
    dsimp only
    rw [show ({ s.begin with sweep := { s.begin.sweep with par := { s.begin.sweep.par with source := src } } } : State) = u from hu, hv, hpend]
  have hexec : exec (.sweepStart src) s = _ := runReg_next hreach (by rw [hmode]; decide) hstart
  have honly : s.begin.onlyChanges [.reply, .out, .sweep, .cells, .mode, .flash, .host, .diag] ((v.setMode .run).answer stOk) :=
    only_step (answer_only _ _ _ _ _) (only_step hset (only_one hall))
  have hsweepT : (v.setMode .run).sweep = u.runSweep.sweep := (hset .sweep (by decide)).trans hsweepV
  rw [hmodeV] at hmodeT
  rw [hpar, hclkU] at hsweep
  rw [hsweep] at hsweepT
  generalize v.setMode .run = w at *
  refine ⟨_, hexec, ?_, ?_, ?_, ?_, ?_, hmodeT, rfl, next_only honly⟩
  · exact (congrArg SweepSt.fn hsweepT :)
  · exact (congrArg SweepSt.lat hsweepT :)
  · exact (congrArg SweepSt.late hsweepT :)
  · exact (congrArg SweepSt.outputs hsweepT :)
  · exact (congrArg SweepSt.startT hsweepT :)

/-! ### STOP -/

/-- The apertures whose window has opened stay on the schedule. -/
def State.openedAps (s : State) : List Aperture :=
  s.schedule.sweep.pend.filter (fun a => a.opened || decide (a.t ≤ s.clk.tt + tgd s.sweep.lat.corner))

theorem openedAps_begin (s : State) : s.begin.openedAps = s.openedAps :=
  (congrArg (fun u : State => u.sweep.pend.filter (fun a : Aperture => a.opened || decide (a.t ≤ s.clk.tt + tgd s.sweep.lat.corner))) (schedule_begin s) :)

/-- STOP before the snapshot: the schedule cut, and the state that follows from it. -/
def State.sweepCut (s : State) : State :=
  let u := s.schedule.keepAps s.openedAps
  let v := { u with sweep := { u.sweep with fn := if s.openedAps.isEmpty then .stopped else .stopping } }
  { v with sweep := { v.sweep with tbias := v.tbiasDue } }

theorem sweepCut_settles (s : State) : s.onlyChanges [.sweep] s.sweepCut ∧ s.sweepCut.sweep.pend = s.openedAps
    ∧ s.sweepCut.sweep.fn = if s.openedAps.isEmpty then .stopped else .stopping :=
  ⟨only_step (only_sweep _ _) (only_step (only_sweep _ _) (only_step (keepAps_only _ _) (schedule_only s))), rfl, rfl⟩

theorem stopSweep_eq {s : State} (h : s.sweep.fn = .running) :
    s.stopSweep = (if s.openedAps.isEmpty then s.sweepCut.writeSnapshot else s.sweepCut).switches := by
  obtain ⟨l, c, hl⟩ := schedule_sweep s
  have hlat : s.schedule.sweep.lat = s.sweep.lat := by rw [hl]
  have hnow : s.schedule.now = s.clk.tt := congrArg ClkSt.tt (schedule_only s .clk (by decide))
  unfold State.stopSweep
  rw [if_neg (by rw [h]; decide)]
  dsimp only
  rw [hlat, hnow]
  rfl

theorem stopSweepReg_next {s : State} (hreach : s.reachable = true) (hlock : s.mode.mode ≠ .lockout) (h : s.sweep.fn = .running) :
    exec .sweepStop s = .next { s.begin.stopSweep.answer stOk with pending := s.pending } := by
  refine runReg_next (f := stopSweepReg) hreach hlock ?_
  unfold stopSweepReg
  rw [if_pos (show s.begin.sweep.fn = .running from h)]

theorem sweepStop_stops {s : State} (hreach : s.reachable = true) (hlock : s.mode.mode ≠ .lockout) (hfn : s.sweep.fn = .running)
    (hlater : ∀ x ∈ s.schedule.sweep.pend, x.opened = false ∧ s.clk.tt + tgd s.sweep.lat.corner < x.t) :
    ∃ t, exec .sweepStop s = .next t ∧ t.sweep.fn = .stopped ∧ t.kept.snapshot.isSome = true
      ∧ t.kept.rtcBroken = s.clocks.testBit 2 ∧ s.onlyChanges [.reply, .out, .sweep, .cells, .kept] t := by
  have hexec := stopSweepReg_next hreach hlock hfn
  have hnone : s.begin.openedAps = [] := by
    rw [openedAps_begin]
    refine List.filter_eq_nil_iff.mpr fun x hx => ?_
    obtain ⟨hopened, hafter⟩ := hlater x hx
    simp only [hopened, Bool.false_or, decide_eq_true_eq]
    exact Nat.not_le.mpr hafter
  obtain ⟨hcut, -, hfnCut⟩ := sweepCut_settles s.begin
  rw [stopSweep_eq (s := s.begin) hfn, hnone, if_pos (c := ([] : List Aperture).isEmpty = true) rfl] at hexec
  rw [hnone] at hfnCut
  generalize s.begin.sweepCut = u at hexec hcut hfnCut
  have hclocks : u.clocks = s.clocks := hcut .clocks (by decide)
  have hbroken : u.writeSnapshot.kept.rtcBroken = bit u.clocks 2 := rfl
  have hsome : u.writeSnapshot.kept.snapshot.isSome = true := rfl
  have hfnW : u.writeSnapshot.sweep.fn = .stopped := hfnCut
  have hsnap := writeSnapshot_only u
  generalize u.writeSnapshot = v at hexec hbroken hsome hfnW hsnap
  have hsw := switches_only v
  generalize v.switches = w at hexec hsw
  have honly : s.begin.onlyChanges [.reply, .out, .sweep, .cells, .kept] (w.answer stOk) :=
    only_step (answer_only _ _ _ _ _) (only_step hsw (only_step hsnap (only_one hcut)))
  have hkept : w.kept = v.kept := hsw .kept (by decide)
  have hsweep : w.sweep = v.sweep := hsw .sweep (by decide)
  refine ⟨_, hexec, ?_, ?_, ?_, next_only honly⟩
  · exact (congrArg SweepSt.fn hsweep).trans hfnW
  · exact (congrArg (fun k : RetainedSt => k.snapshot.isSome) hkept).trans hsome
  · exact (congrArg RetainedSt.rtcBroken hkept).trans (hbroken.trans (by rw [hclocks]; rfl))

theorem sweepStop_waits {s : State} {a : Aperture} (hreach : s.reachable = true) (hlock : s.mode.mode ≠ .lockout) (hfn : s.sweep.fn = .running)
    (hkept : s.schedule.sweep.pend.filter (fun x => x.opened || decide (x.t ≤ s.clk.tt + tgd s.sweep.lat.corner)) = [a]) :
    ∃ t, exec .sweepStop s = .next t ∧ t.sweep.fn = .stopping ∧ t.sweep.pend = [a] ∧ t.kept = s.kept
      ∧ s.onlyChanges [.reply, .out, .sweep, .cells] t := by
  have hexec := stopSweepReg_next hreach hlock hfn
  have hone : s.begin.openedAps = [a] := (openedAps_begin s).trans hkept
  obtain ⟨hcut, hpend, hfnCut⟩ := sweepCut_settles s.begin
  rw [stopSweep_eq (s := s.begin) hfn, hone, if_neg (c := [a].isEmpty = true) (fun h => nomatch h)] at hexec
  rw [hone] at hpend hfnCut
  generalize s.begin.sweepCut = u at hexec hcut hpend hfnCut
  have hsw := switches_only u
  generalize u.switches = w at hexec hsw
  have honly : s.begin.onlyChanges [.reply, .out, .sweep, .cells] (w.answer stOk) :=
    only_step (answer_only _ _ _ _ _) (only_step hsw (only_one hcut))
  have hsweep : w.sweep = u.sweep := hsw .sweep (by decide)
  have hkeptW : w.kept = s.kept := (hsw .kept (by decide)).trans (hcut .kept (by decide))
  exact ⟨_, hexec, (congrArg SweepSt.fn hsweep).trans hfnCut, (congrArg SweepSt.pend hsweep).trans hpend, hkeptW, next_only honly⟩

theorem sweepStopped_answer {s : State} (hreach : s.reachable = true) (hfn : s.sweep.fn = .stopping) (hpend : s.sweep.pend = []) :
    ∃ t, exec .sweepStopped s = .next t ∧ t.sweep.fn = .stopped ∧ t.sweep.tbias = false ∧ t.sweep.blankTo = none
      ∧ t.kept.snapshot.isSome = true ∧ s.onlyChanges [.reply, .out, .sweep, .cells, .kept] t := by
  generalize hu : ({ s.begin with sweep := { s.sweep with fn := .stopped, tbias := false, blankTo := none } } : State) = u
  have hstop : s.begin.sweepStopped = u.switches.writeSnapshot := by
    unfold State.sweepStopped
    rw [if_pos (by simp [State.begin, hfn, hpend])]
    exact congrArg (fun v : State => v.switches.writeSnapshot) hu
  have hexec : exec .sweepStopped s = .next { u.switches.writeSnapshot with pending := s.pending } :=
    (runCore_of_runs (reachable_parts hreach).2).trans (run_next_eq hstop)
  have hU : s.begin.onlyChanges [.sweep] u := hu ▸ only_sweep s.begin _
  have hfnU : u.sweep.fn = .stopped ∧ u.sweep.tbias = false ∧ u.sweep.blankTo = none := by rw [← hu]; exact ⟨rfl, rfl, rfl⟩
  have hsw := switches_only u
  have hsweepW : u.switches.sweep = u.sweep := hsw .sweep (by decide)
  generalize u.switches = w at *
  obtain ⟨hstopped, htbias, hblank⟩ := hfnU
  have honly : s.begin.onlyChanges [.reply, .out, .sweep, .cells, .kept] w.writeSnapshot :=
    only_step (writeSnapshot_only w) (only_step hsw (only_one hU))
  exact ⟨_, hexec, (congrArg SweepSt.fn hsweepW).trans hstopped, (congrArg SweepSt.tbias hsweepW).trans htbias,
    (congrArg SweepSt.blankTo hsweepW).trans hblank, rfl, next_only honly⟩

/-! ### The snapshot -/

theorem snapshotRewrite_answer {s : State} (hreach : s.reachable = true) (hfn : s.sweep.fn = .running)
    (hdue : 10 * ttS ≤ s.clk.wall - s.sweep.lastSnap) :
    ∃ t, exec .snapshotRewrite s = .next t ∧ t.sweep = { s.sweep with lastSnap := s.clk.wall, snapBusy := true }
      ∧ (t.kept.snapshot.map Snapshot.counted) = some s.sweep.counted ∧ (t.kept.snapshot.map Snapshot.rtc) = some (s.clk.rtc / 32768)
      ∧ s.onlyChanges [.reply, .out, .sweep, .kept] t := by
  have hexec : exec .snapshotRewrite s = .next { s.begin.writeSnapshot with pending := s.pending } :=
    (runCore_of_runs (reachable_parts hreach).2).trans (run_when_next (by
      simp only [hfn, decide_true, Bool.true_and, decide_eq_true_eq]
      exact hdue))
  exact ⟨_, hexec, rfl, rfl, rfl, next_only (only_one (writeSnapshot_only s.begin))⟩

/-- Settles O31: START, the two STOPs, STOPPED, and the snapshot. -/
theorem sweepFunction : Obligations.SweepFunction := by
  unfold Obligations.SweepFunction
  intro s src a hreach hlock
  exact ⟨sweepStart_answer hreach, sweepStop_stops hreach hlock, sweepStop_waits hreach hlock, sweepStopped_answer hreach,
    snapshotRewrite_answer hreach⟩

end Sys2Proof.Machine
end

section
/-!
A bad frame of a tier channel that carried a proof slot above 18 (01 R15, 05 R128): the loss is kept among the tests' readings.
-/
namespace Sys2Proof.Machine

-- one proof at a time: these proofs share the equations of the operations they unfold
set_option Elab.async false

/-- A device in QUIET with one tier, two of whose frames in a row were discarded. -/
def twiceDiscarded : State := { State.reset with mode.mode := .quiet, ident.tiers := 1, sweep.discards := [2] }

theorem twiceDiscarded_losesSlot :
    (stateAfter (.tierChannelFrameReceive 1 false { cells := [], proofs := [], slots := [(1, 19)] }) twiceDiscarded).diag.readLost.length = 1 := by
  decide +kernel

/-- Refutes O32: the third bad frame of `twiceDiscarded` loses slot 19, and the diagnostics keep that, which the last clause leaves alone. -/
theorem not_apertureEvents : ¬ Obligations.ApertureEvents := by
  intro h
  obtain ⟨-, -, -, -, -, -, -, hbad⟩ := h twiceDiscarded default 0 0 0 1 default [] { cells := [], proofs := [], slots := [(1, 19)] } (by decide +kernel)
  obtain ⟨t, hexec, honly, -⟩ := hbad (by decide +kernel) (by decide +kernel) rfl
  have hlost := twiceDiscarded_losesSlot
  rw [stateAfter_of_next hexec, honly .diag (by decide)] at hlost
  exact absurd hlost (by decide +kernel)

end Sys2Proof.Machine
end

section
/-!
The lock-in of a RIPPLE run waits for the currents of its window (03 R90, R91): half an output period after the window it need not be due.
-/
namespace Sys2Proof.Machine

-- one proof at a time: these proofs share the equations of the operations they unfold
set_option Elab.async false

/-- A member of a RIPPLE survey with cell 1 selected, whose run took one output and has had no current for it. -/
def currentless : State := { State.reset with
  mode.mode := .survey, sweep.par.mask := 1, clk.tt := 2 ^ 60, survey.fn := .running, survey.run := some 0, survey.lat.ripple := true
  survey.outs := [{ t := 0, cells := [], cur := 0, bbar := [], flags := [], temps := [] }] }

theorem currentless_waits : (stateAfter .lockinComplete currentless).survey.locked = false := by
  decide +kernel

/-- Refutes O35: the lock-in of `currentless` is not raised half an output period after its window, as the first clause says. -/
theorem not_surveyRunsComplete : ¬ Obligations.SurveyRunsComplete := by
  intro h
  obtain ⟨hraise, -⟩ := h currentless 0 default default default
  obtain ⟨t, hexec, hsurvey, -⟩ := hraise (by decide +kernel) (by decide) rfl rfl (by decide +kernel) rfl (by decide +kernel)
  have hwaits := currentless_waits
  rw [stateAfter_of_next hexec, hsurvey] at hwaits
  exact absurd hwaits (by decide)

end Sys2Proof.Machine
end

section
/-!
START, the runs, STOP and STOPPED of SURVEY (03 R77, R78, R82, R84, R94, R101).
-/
namespace Sys2Proof.Machine

-- one proof at a time: these proofs share the equations of the operations they unfold
set_option Elab.async false

/-! ### START -/

/-- T0 of a local start is the first multiple of 20,480 tt from 1 ms on. -/
theorem localT0_bounds (n : Nat) : localT0 n % 20480 = 0 ∧ n + 20480 ≤ localT0 n ∧ localT0 n < n + 40960 := by
  have heq : localT0 n = (n + 20480 + 20479) / 20480 * 20480 := rfl
  omega

theorem surveyStart_refused {s : State} {tag : Nat} {b : Bool} (hreach : s.reachable = true) (hlock : s.mode.mode ≠ .lockout)
    (hmode : s.mode.mode ≠ .run) (hfn : s.survey.fn = .stopped) :
    exec (.surveyStart tag b) s = .next { s with
      out := [], reply := some { status := stDenied, value := 0, words := [], bytes := [] }, survey := { s.survey with reason := 1 } } := by
  have hr (p : SurveyPar) (t0 : Nat) : s.begin.surveyRefusal p t0 false = 1 := by
    unfold State.surveyRefusal
    exact if_pos (by simp [State.begin, hmode])
  have hstart : startSurvey tag b s.begin = (stDenied, { s.begin with survey := { s.begin.survey with reason := 1 } }) := by
    unfold startSurvey State.surveyBegin
    rw [if_neg (by simp [State.begin, hfn]), hr]
    rfl
  exact runReg_next hreach hlock hstart

/-- The state of the function that an honoured START leaves, before the mode follows. -/
def State.surveyBegun (s : State) (p : SurveyPar) (t0 : Nat) : State :=
  let u := s.abandonStep
  { u with survey := { u.survey with
      fn := .running, par := p, lat := { p with pubEn := u.sweep.pubEn, pubCh := u.sweep.pubCh }, t0 := t0, tid := none
      scope := (s.tree.pos, 0), point := 0, group := 0, last := 1, run := none, after := t0, exciteOn := false, toggles := 0
      outs := [], currents := [], locked := false, recs := [], outcome := 0, blocks := [], pubQ := []
      pubLost := false, jobs := [], closing := none, used := true } }

theorem surveyBegun_only (s : State) (p : SurveyPar) (t0 : Nat) : s.onlyChanges [.survey, .cells, .diag] (s.surveyBegun p t0) :=
  only_step (only_survey _ _) (only_one (abandonStep_only s))

theorem surveyStart_answer {s : State} {tag : Nat} {b : Bool} (hreach : s.reachable = true) (hmode : s.mode.mode = .run)
    (hfn : s.survey.fn = .stopped) (hok : s.surveyRefusal { s.survey.par with tag := tag, setBase := b } (localT0 s.clk.tt) false = 0) :
    ∃ t, exec (.surveyStart tag b) s = .next t ∧ t.mode = { s.mode with mode := .survey } ∧ t.survey.fn = .running
      ∧ t.survey.lat.tag = tag ∧ t.survey.lat.setBase = b ∧ t.survey.t0 % 20480 = 0 ∧ s.clk.tt + 20480 ≤ t.survey.t0
      ∧ t.survey.t0 < s.clk.tt + 40960 ∧ t.survey.point = 0 ∧ t.survey.group = 0 ∧ t.survey.recs = [] ∧ t.survey.last = 1
      ∧ t.reply = some { status := stOk, value := 0, words := [], bytes := [] }
      ∧ s.onlyChanges [.reply, .out, .survey, .mode, .flash, .host, .cells, .diag] t := by
  have hbegun := surveyBegun_only s.begin { s.survey.par with tag := tag, setBase := b } (localT0 s.clk.tt)
  obtain ⟨hrest, hfrom, hto⟩ := localT0_bounds s.clk.tt
  have hfields : let v := (s.begin.surveyBegun { s.survey.par with tag := tag, setBase := b } (localT0 s.clk.tt)).survey
      v.fn = .running ∧ v.lat.tag = tag ∧ v.lat.setBase = b ∧ v.t0 = localT0 s.clk.tt ∧ v.point = 0 ∧ v.group = 0 ∧ v.recs = [] ∧ v.last = 1 :=
    ⟨rfl, rfl, rfl, rfl, rfl, rfl, rfl, rfl⟩
  have hstart : startSurvey tag b s.begin = (stOk, ((s.begin.surveyBegun { s.survey.par with tag := tag, setBase := b } (localT0 s.clk.tt)).setMode
      .survey).switches) := by
    unfold startSurvey State.surveyBegin
    rw [if_neg (by simp [State.begin, hfn])]
    exact if_neg (fun h => bne_iff_ne.mp h hok)
  have hexec : exec (.surveyStart tag b) s = _ := runReg_next hreach (by rw [hmode]; decide) hstart
  generalize s.begin.surveyBegun { s.survey.par with tag := tag, setBase := b } (localT0 s.clk.tt) = u at hbegun hfields hexec
  generalize localT0 s.clk.tt = t0 at hrest hfrom hto hfields
  have hmodeU : u.mode = s.mode := hbegun .mode (by decide)
  have hset := setMode_only u .survey
  have hmodeV := setMode_mode u .survey
  generalize u.setMode .survey = v at hset hmodeV hexec
  have hsw := switches_only v
  generalize v.switches = w at hsw hexec
  have honly : s.begin.onlyChanges [.reply, .out, .survey, .mode, .flash, .host, .cells, .diag] (w.answer stOk) :=
    only_step (answer_only _ _ _ _ _) (only_step hsw (only_step hset (only_one hbegun)))
  have hsurvey : w.survey = u.survey := (hsw .survey (by decide)).trans (hset .survey (by decide))
  have hmodeW : w.mode = { s.mode with mode := .survey } := (hsw .mode (by decide)).trans (hmodeV.trans (by rw [hmodeU]))
  obtain ⟨hrunning, htag, hbase, ht0, hpoint, hgroup, hrecs, hlast⟩ := hfields
  rw [← hsurvey] at hrunning htag hbase ht0 hpoint hgroup hrecs hlast
  rw [← ht0] at hrest hfrom hto
  exact ⟨_, hexec, hmodeW, hrunning, htag, hbase, hrest, hfrom, hto, hpoint, hgroup, hrecs, hlast, rfl, next_only honly⟩

/-! ### A run -/

/-- The log of the excitation alone may grow, and its newest entry tells whether BLEED excites. -/
theorem noteExcite_survey (s : State) : ∃ l, s.noteExcite.survey = { s.survey with exciteLog := l }
    ∧ (s.bleedOn = true → (l.head?).map Prod.snd = some true) := by
  unfold State.noteExcite
  dsimp only
  split
  · rename_i hsame
    refine ⟨s.survey.exciteLog, rfl, fun hon => ?_⟩
    rw [hon] at hsame
    cases hhead : (s.survey.exciteLog.head?).map Prod.snd with
    | none => rw [hhead] at hsame; exact absurd hsame (by decide)
    | some x => rw [hhead] at hsame; exact congrArg some hsame
  · exact ⟨_, rfl, fun hon => by rw [hon]; rfl⟩

/-- The run as it starts, before its excitation is noted. -/
def State.runStarted (s : State) (st : Nat) : State :=
  { s with
    survey := { s.survey with run := some st, exciteOn := true, toggles := 0, outs := [], currents := [], locked := false, pubQ := []
                              pubNext := s.survey.lat.winStart s.survey.point st, pubLost := false }
    kept := { s.kept with survey := some (s.survey.lat.tag, s.survey.point, s.survey.group, s.survey.t0) } }

theorem runStarted_only (s : State) (st : Nat) : s.onlyChanges [.survey, .kept] (s.runStarted st) := fun p hp => by
  cases p <;> first | rfl | exact absurd (by decide) hp

theorem surveyRunStart_answer {s : State} {st : Nat} (hreach : s.reachable = true) (hfn : s.survey.fn = .running) (hrun : s.survey.run = none)
    (hclosing : s.survey.closing = none) (hst : s.survey.lat.runStart s.survey.point s.survey.after = st) (hdue : st ≤ s.clk.tt) :
    ∃ t, exec .surveyRunStart s = .next t
      ∧ t.survey = { s.survey with run := some st, exciteOn := true, toggles := 0, outs := [], currents := [], locked := false, pubQ := [], pubLost := false, pubNext := s.survey.lat.winStart s.survey.point st, exciteLog := t.survey.exciteLog }
      ∧ (s.survey.lat.ripple = false → (t.survey.exciteLog.head?).map Prod.snd = some true)
      ∧ t.kept = { s.kept with survey := some (s.survey.lat.tag, s.survey.point, s.survey.group, s.survey.t0) }
      ∧ s.onlyChanges [.reply, .out, .survey, .kept, .cells] t := by
  have hnext : s.begin.nextRun = some st := by
    unfold State.nextRun
    dsimp only
    rw [if_pos (by simp [State.begin, hfn, hrun, hclosing])]
    exact congrArg some hst
  have hexec : exec .surveyRunStart s = .next { (s.begin.runStarted st).noteExcite.switches with pending := s.pending } :=
    (runCore_of_runs (reachable_parts hreach).2).trans (run_next_eq (by rw [hnext]; exact if_pos hdue))
  have hstarted := runStarted_only s.begin st
  have hsurvey : (s.begin.runStarted st).survey = { s.survey with run := some st, exciteOn := true, toggles := 0, outs := [], currents := [], locked := false, pubQ := [], pubLost := false, pubNext := s.survey.lat.winStart s.survey.point st } := rfl
  have hkept : (s.begin.runStarted st).kept = { s.kept with survey := some (s.survey.lat.tag, s.survey.point, s.survey.group, s.survey.t0) } := rfl
  have hbleed (h : s.survey.lat.ripple = false) : (s.begin.runStarted st).bleedOn = true := by
    simp [State.bleedOn, hsurvey, h]
  generalize s.begin.runStarted st = u at hexec hstarted hsurvey hkept hbleed
  obtain ⟨l, hlog, hhead⟩ := noteExcite_survey u
  have hnote := noteExcite_only u
  generalize u.noteExcite = v at hexec hlog hnote
  have hsw := switches_only v
  generalize v.switches = w at hexec hsw
  have hsurveyW : w.survey = { u.survey with exciteLog := l } := (hsw .survey (by decide)).trans hlog
  have hkeptW : w.kept = u.kept := (hsw .kept (by decide)).trans (hnote .kept (by decide))
  have honly : s.begin.onlyChanges [.reply, .out, .survey, .kept, .cells] w := only_step hsw (only_step hnote (only_one hstarted))
  refine ⟨_, hexec, ?_, fun h => ?_, hkeptW.trans hkept, next_only honly⟩
  · change w.survey = _
    rw [hsurveyW, hsurvey]
  · change ((w.survey.exciteLog.head?).map Prod.snd) = _
    rw [hsurveyW]
    exact hhead (hbleed h)

theorem excitationToggle_answer {s : State} {st : Nat} (hreach : s.reachable = true) (hrun : s.survey.run = some st)
    (hbleed : s.survey.lat.ripple = false) (hdue : st + (s.survey.toggles + 1) * (s.survey.lat.per s.survey.point / 2) ≤ s.clk.tt)
    (hend : st + (s.survey.toggles + 1) * (s.survey.lat.per s.survey.point / 2) < s.survey.lat.runEnd s.survey.point st) :
    ∃ t, exec .excitationToggle s = .next t ∧ t.survey = { s.survey with toggles := s.survey.toggles + 1 }
      ∧ s.onlyChanges [.reply, .out, .survey, .cells] t := by
  generalize hu : ({ s.begin with survey := { s.survey with toggles := s.survey.toggles + 1 } } : State) = u
  have hexec : exec .excitationToggle s = .next { u.switches with pending := s.pending } := by
    refine (runCore_of_runs (reachable_parts hreach).2).trans (run_next_eq ?_)
    rw [show s.begin.survey.run = some st from hrun]
    refine (if_pos ?_).trans (congrArg State.switches hu)
    simp only [Bool.and_eq_true, decide_eq_true_eq]
    exact ⟨⟨by rw [show s.begin.survey.lat.ripple = false from hbleed]; rfl, hdue⟩, hend⟩
  have hU : s.begin.onlyChanges [.survey] u := hu ▸ only_survey s.begin _
  have hsurvey : u.survey = { s.survey with toggles := s.survey.toggles + 1 } := by rw [← hu]
  have hsw := switches_only u
  generalize u.switches = w at hexec hsw
  have honly : s.begin.onlyChanges [.reply, .out, .survey, .cells] w := only_step hsw (only_one hU)
  exact ⟨_, hexec, (hsw .survey (by decide)).trans hsurvey, next_only honly⟩

/-! ### The end -/

theorem deliverBlock_survey (s : State) (bs : List Byte) : ∃ l, (s.deliverBlock bs).survey = { s.survey with blocks := l } := by
  refine ⟨[bs], ?_⟩
  unfold State.deliverBlock
  dsimp only
  split <;> split
  · rfl
  · exact sendBytes_only _ _ _ _ .survey (by decide)
  · exact blockIn_only _ _ _ _ _ .survey (by decide)
  · exact sendBytes_only _ _ _ _ .survey (by decide)

theorem closeBlock_survey (s : State) (o : Nat) (d : Bool) : ∃ l c, (s.closeBlock o d).survey = { s.survey with blocks := l, closing := c } := by
  unfold State.closeBlock
  split
  · split
    · obtain ⟨l, hl⟩ := deliverBlock_survey { s with survey := { s.survey with closing := none } }
        (State.surveyBlock { s with survey := { s.survey with closing := none } } o)
      exact ⟨l, none, hl⟩
    · exact ⟨s.survey.blocks, none, rfl⟩
  · exact ⟨s.survey.blocks, some (o, d), rfl⟩

theorem endSurvey_survey (s : State) (o : Nat) (d : Bool) (fn : FnState) : ∃ l b c, (s.endSurvey o d fn).survey = { s.survey with
    fn := fn, exciteOn := false, run := none, last := o, outcome := o, outs := [], currents := [], pubQ := [], exciteLog := l, blocks := b
    closing := c } := by
  unfold State.endSurvey
  extract_lets v w u
  obtain ⟨l, hlog, -⟩ := noteExcite_survey { s with survey := { s.survey with fn := fn, exciteOn := false, run := none, last := o, outcome := o, outs := [], currents := [], pubQ := [] }, kept := { s.kept with survey := none } }
  obtain ⟨b, c, hclose⟩ := closeBlock_survey u.resumeBal o d
  refine ⟨l, b, c, ?_⟩
  rw [switches_only _ .survey (by decide), hclose, resumeBal_only _ .survey (by decide)]
  exact congrArg (fun v : SurveySt => { v with blocks := b, closing := c }) hlog

theorem endSurvey_kept (s : State) (o : Nat) (d : Bool) (fn : FnState) : (s.endSurvey o d fn).kept.survey = none := by
  unfold State.endSurvey
  dsimp only
  rw [switches_only _ .kept (by decide), closeBlock_only _ _ _ .kept (by decide), resumeBal_only _ .kept (by decide),
    noteExcite_only _ .kept (by decide)]

theorem surveyStop_answer {s : State} (hreach : s.reachable = true) (hlock : s.mode.mode ≠ .lockout) (hfn : s.survey.fn = .running) :
    ∃ t, exec .surveyStop s = .next t ∧ t.survey.fn = .stopping ∧ t.survey.last = 3 ∧ t.survey.exciteOn = false
      ∧ t.survey.run = none ∧ t.kept.survey = none ∧ t.reply = some { status := stOk, value := 0, words := [], bytes := [] } := by
  have hop : regOp stopSurvey s.begin = (s.begin.endSurvey 3 true .stopping).answer stOk := by
    have hstop : stopSurvey s.begin = (stOk, s.begin.endSurvey 3 true .stopping) := if_pos hfn
    unfold regOp regAny
    rw [if_pos (show s.begin.reachable = true from hreach)]
    dsimp only
    rw [if_neg (show ¬ s.begin.mode.mode = .lockout from hlock), hstop]
  obtain ⟨l, b, c, hsurvey⟩ := endSurvey_survey s.begin 3 true .stopping
  have hkept := endSurvey_kept s.begin 3 true .stopping
  have hexec : exec .surveyStop s = .next { ((s.begin.endSurvey 3 true .stopping).answer stOk).flush with pending := s.pending } :=
    runL_next_eq (f := regOp stopSurvey) hop
  generalize s.begin.endSurvey 3 true .stopping = u at hexec hsurvey hkept
  have hflush := flush_only (u.answer stOk)
  have hsurveyT : (u.answer stOk).flush.survey = u.survey := hflush .survey (by decide)
  have hkeptT : (u.answer stOk).flush.kept = u.kept := hflush .kept (by decide)
  have hreply : (u.answer stOk).flush.reply = some { status := stOk, value := 0, words := [], bytes := [] } := hflush .reply (by decide)
  generalize (u.answer stOk).flush = w at hexec hsurveyT hkeptT hreply
  rw [← hsurveyT] at hsurvey
  refine ⟨_, hexec, ?_, ?_, ?_, ?_, (congrArg RetainedSt.survey hkeptT).trans hkept, hreply⟩
  · exact (congrArg SurveySt.fn hsurvey :)
  · exact (congrArg SurveySt.last hsurvey :)
  · exact (congrArg SurveySt.exciteOn hsurvey :)
  · exact (congrArg SurveySt.run hsurvey :)

theorem surveyOver_settles (s : State) : s.onlyChanges [.survey, .bal, .mode, .flash, .host, .out, .cells] s.surveyOver
    ∧ s.surveyOver.survey = { s.survey with fn := .stopped }
    ∧ s.surveyOver.mode = { s.mode with mode := if s.mode.mode = .survey then .run else s.mode.mode } := by
  unfold State.surveyOver
  extract_lets v u
  have hU : s.onlyChanges [.survey, .bal] u := only_step (resumeBal_only _) (only_one (only_survey s _))
  have hsurvey : u.survey = { s.survey with fn := .stopped } := rfl
  have hmode : u.mode = s.mode := rfl
  clear_value u
  by_cases h : s.mode.mode = .survey
  · have hw : when_ (u.mode.mode = .survey) (fun s => s.setMode .run) u = u.setMode .run :=
      if_pos (by rw [hmode, h]; rfl)
    rw [hw]
    have hset := setMode_only u .run
    refine ⟨only_step (switches_only _) (only_step hset (only_one hU)), ?_, ?_⟩
    · rw [switches_only _ .survey (by decide), hset .survey (by decide), hsurvey]
    · rw [switches_only _ .mode (by decide), setMode_mode, hmode, if_pos h]
  · have hw : when_ (u.mode.mode = .survey) (fun s => s.setMode .run) u = u :=
      if_neg (by rw [hmode]; simp [h])
    rw [hw]
    refine ⟨only_step (switches_only _) (only_one hU), ?_, ?_⟩
    · rw [switches_only _ .survey (by decide), hsurvey]
    · rw [switches_only _ .mode (by decide), hmode, if_neg h]

theorem surveyStopped_answer {s : State} (hreach : s.reachable = true) (hfn : s.survey.fn = .stopping) (hclosing : s.survey.closing = none) :
    ∃ t, exec .surveyStopped s = .next t ∧ t.survey = { s.survey with fn := .stopped }
      ∧ t.mode = { s.mode with mode := if s.mode.mode = .survey then .run else s.mode.mode }
      ∧ s.onlyChanges [.reply, .out, .survey, .bal, .mode, .flash, .host, .cells] t := by
  have hexec : exec .surveyStopped s = .next { s.begin.surveyOver with pending := s.pending } :=
    (runCore_of_runs (reachable_parts hreach).2).trans (run_when_next (by simp [hfn, hclosing]))
  obtain ⟨honly, hsurvey, hmode⟩ := surveyOver_settles s.begin
  generalize s.begin.surveyOver = w at *
  have hparts : s.begin.onlyChanges [.reply, .out, .survey, .bal, .mode, .flash, .host, .cells] w := only_one honly
  exact ⟨_, hexec, hsurvey, hmode, next_only hparts⟩

/-- Settles O34: START refused and honoured, a run's start and toggles, STOP and STOPPED. -/
theorem surveyFunction : Obligations.SurveyFunction := by
  unfold Obligations.SurveyFunction
  intro s tag st b hreach
  exact ⟨surveyStart_refused hreach, surveyStart_answer hreach, surveyRunStart_answer hreach, excitationToggle_answer hreach,
    surveyStop_answer hreach, surveyStopped_answer hreach⟩

end Sys2Proof.Machine
end

section
/-!
The window on the baseline area, and BASE_SAVE (03 R98, R99).
-/
namespace Sys2Proof.Machine

-- one proof at a time: these proofs share the equations of the operations they unfold
set_option Elab.async false

variable {s : State}

theorem writeBase_sets {v : Nat} (hfn : s.survey.fn = .stopped) (hindex : s.survey.baseIndex ≠ 0) : writeBase v s.begin
    = (stOk, stepBase { s.begin with survey := { s.survey with baseArea := s.survey.baseArea.set s.survey.baseIndex (v % 2 ^ 32), base := 3 } }) := by
  unfold writeBase
  rw [if_neg (by simp [State.begin, hfn]), if_neg (by simp [State.begin, hindex])]
  rfl

theorem baseDataRead_next {t : State} {st v : Nat} (hreach : s.reachable = true) (hlock : s.mode.mode ≠ .lockout)
    (h : readBase s.begin = (st, v, t)) : exec .baseDataRead s = .next { t.answer st v [v] with pending := s.pending } := by
  refine run_next_eq (u := t.answer st v [v]) (f := fun s =>
    if !s.reachable then s.answer stSilent
    else if s.mode.mode = .lockout then s.answer stDenied
    else
      let (st, v, t) := readBase s
      t.answer st v [v]) ?_
  dsimp only
  rw [if_neg (by rw [show s.begin.reachable = true from hreach]; decide), if_neg (show ¬ s.begin.mode.mode = .lockout from hlock), h]

theorem length_wordsLe (k : Nat) (ws : List Nat) : (wordsLe k ws).length = k * ws.length := by
  induction ws with
  | nil => rfl
  | cons w ws ih =>
    rw [show wordsLe k (w :: ws) = le k w ++ wordsLe k ws from rfl, List.length_append, ih, le_length, List.length_cons]
    ring

/-- The saved area is the slot of 4 KiB, and no other byte of the data flash changes. -/
theorem saveBase_dataArea (hlen : s.survey.baseArea.length = 1023) (hwf : Memory.wf flashByte s.flash.dataArea = true) (x : Nat) :
    mget flashByte s.saveBase.flash.dataArea x = if 0xF000 ≤ x ∧ x < 0x10000
      then (withCrc (wordsLe 4 s.survey.baseArea)).getD (x - 0xF000) 0 else mget flashByte s.flash.dataArea x := by
  have hsize : (withCrc (wordsLe 4 s.survey.baseArea)).length = 0x1000 := by
    rw [withCrc, List.length_append, length_wordsLe, le_length, hlen]
  unfold State.saveBase
  rw [eraseBegins_flash]
  dsimp only
  rw [mget_mwrite flashByte _ _ _ _ (filter_wf _ _ hwf), hsize]
  by_cases h : 0xF000 ≤ x ∧ x < 0x10000
  · obtain ⟨hlo, hhi⟩ := h
    rw [if_pos ⟨hlo, hhi⟩, if_pos ⟨hlo, hhi⟩, List.getD_eq_getElem _ _ (by omega), List.getD_eq_getElem _ _ (by omega)]
  · rw [if_neg h, if_neg h]
    refine mget_filter (fun v => ?_) hwf
    simp only [Bool.or_eq_true, decide_eq_true_eq]
    omega

theorem baseSave_answer {x : Nat} (hreach : s.reachable = true) (hlock : s.mode.mode ≠ .lockout) (hfn : s.survey.fn = .stopped)
    (hlen : s.survey.baseArea.length = 1023) (hmem : s.memWf) :
    ∃ t, exec .baseSave s = .next t ∧ s.onlyChanges [.reply, .out, .flash, .wdog] t
      ∧ t.wdog = { s.wdog with erasing := t.wdog.erasing } ∧ t.flash = { s.flash with dataArea := t.flash.dataArea, erases := s.flash.erases ++ [.data] }
      ∧ t.flash.bank0 = s.flash.bank0 ∧ t.flash.bank1 = s.flash.bank1
      ∧ mget flashByte t.flash.dataArea x = (if 0xF000 ≤ x ∧ x < 0x10000
          then (withCrc (wordsLe 4 s.survey.baseArea)).getD (x - 0xF000) 0 else mget flashByte s.flash.dataArea x) := by
  obtain ⟨-, -, hdata, -⟩ := hmem
  have hsave : baseSave s.begin = (stOk, s.begin.saveBase) := if_neg (by simp [State.begin, hfn])
  have hexec : exec .baseSave s = _ := runReg_next hreach hlock hsave
  have hbyte := saveBase_dataArea (s := s.begin) hlen hdata x
  have honly : s.begin.onlyChanges [.flash, .wdog] s.begin.saveBase := only_step (eraseBegins_only _ _) (only_one (only_flash s.begin _))
  have hflash : ∃ m, s.begin.saveBase.flash = { s.flash with dataArea := m, erases := s.flash.erases ++ [.data] } := by
    unfold State.saveBase
    rw [eraseBegins_flash]
    exact ⟨_, rfl⟩
  have hwdog : ∃ e, s.begin.saveBase.wdog = { s.wdog with erasing := e } := by
    obtain ⟨l, e, heq⟩ := eraseBegins_eq { s.begin with flash := { s.begin.flash with dataArea := mwrite flashByte (s.begin.flash.dataArea.filter (fun p => decide (p.1 < 0xF000) || decide (0x10000 ≤ p.1))) 0xF000 (withCrc (wordsLe 4 s.begin.survey.baseArea)) } } .data
    exact ⟨e, (congrArg State.wdog heq :)⟩
  generalize s.begin.saveBase = u at *
  obtain ⟨m, hm⟩ := hflash
  obtain ⟨e, he⟩ := hwdog
  have hparts : s.begin.onlyChanges [.reply, .out, .flash, .wdog] (u.answer stOk) := only_step (answer_only _ _ _ _ _) (only_one honly)
  refine ⟨_, hexec, next_only hparts, ?_, ?_, ?_, ?_, hbyte⟩
  · change u.wdog = { s.wdog with erasing := u.wdog.erasing }
    rw [he]
  · change u.flash = { s.flash with dataArea := u.flash.dataArea, erases := s.flash.erases ++ [.data] }
    rw [hm]
  · exact (congrArg FlashSt.bank0 hm :)
  · exact (congrArg FlashSt.bank1 hm :)

/-- Settles O36: the window's read and write, BUSY, and BASE_SAVE. -/
theorem baselineWindow : Obligations.BaselineWindow := by
  unfold Obligations.BaselineWindow
  intro s v x hreach hlock
  have hread (h : s.survey.fn = .stopped) : readBase s.begin = (stOk, s.survey.baseArea.getD s.survey.baseIndex 0, stepBase s.begin) :=
    if_neg (by simp [State.begin, h])
  have hreadBusy (h : s.survey.fn ≠ .stopped) : readBase s.begin = (stBusy, 0, s.begin) := if_pos (by simp [State.begin, h])
  have hwriteBusy (h : s.survey.fn ≠ .stopped) : writeBase v s.begin = (stBusy, s.begin) := if_pos (by simp [State.begin, h])
  exact ⟨fun h => baseDataRead_next hreach hlock (hread h), fun h hindex => runReg_next hreach hlock (writeBase_sets h hindex),
    fun h => baseDataRead_next hreach hlock (hreadBusy h), fun h => runReg_next hreach hlock (hwriteBusy h),
    fun h hlen hmem _ => baseSave_answer hreach hlock h hlen hmem⟩

end Sys2Proof.Machine
end

section
/-!
The record of a sweep and the stream outputs (02 R50, R65–R72): what the judgement of the cells leaves alone, and what the record keeps.
-/
namespace Sys2Proof.Machine

-- one proof at a time: these proofs share the equations of the operations they unfold
set_option Elab.async false

/-! ### Cells after an update -/

theorem updCell_cell_ne {s : State} {m n : Nat} (f : CellSt → CellSt) (hn : 1 ≤ n) (h : n ≠ m) : (s.updCell m f).cell n = s.cell n := by
  unfold State.updCell
  split
  · rfl
  · exact updAt_getD_ne _ _ _ f _ (by omega)

theorem updCell_code {s : State} {m n : Nat} {f : CellSt → CellSt} (hf : ∀ c, (f c).code = c.code) (hn : 1 ≤ n) :
    ((s.updCell m f).cell n).code = (s.cell n).code := by
  by_cases h : n = m
  · subst h
    unfold State.updCell
    rw [if_neg (by omega)]
    by_cases hlen : n - 1 < s.cells.length
    · exact (congrArg CellSt.code (updAt_getD_self _ _ f CellSt.reset hlen)).trans (hf _)
    · have hnone : updAt s.cells (n - 1) f = s.cells := by simp [updAt, Nat.not_lt.mp hlen]
      rw [hnone]
  · rw [updCell_cell_ne f hn h]

theorem mapCells_cell {s : State} {n : Nat} (f : Nat → CellSt → CellSt) (hlen : s.cells.length = 48) (hn : 1 ≤ n) (hn' : n ≤ 48) :
    (s.mapCells f).cell n = f n (s.cell n) := by
  have hlt : n - 1 < s.cells.length := by omega
  have hsucc : n - 1 + 1 = n := by omega
  simp [State.cell, State.mapCells, hlt, hsucc]

/-- Only cells of the list change, and no code does. -/
def State.judged (l : List Nat) (s t : State) : Prop :=
  t.cells.length = s.cells.length ∧ ∀ n, 1 ≤ n → (t.cell n).code = (s.cell n).code ∧ (n ∉ l → t.cell n = s.cell n)

theorem judged_of_cells {l : List Nat} {s t : State} (h : t.cells = s.cells) : s.judged l t := by
  unfold State.judged State.cell
  rw [h]
  exact ⟨rfl, fun n _ => ⟨rfl, fun _ => rfl⟩⟩

theorem judged_trans {l : List Nat} {s t u : State} (h : s.judged l t) (k : t.judged l u) : s.judged l u := by
  obtain ⟨hlen, hcell⟩ := h
  obtain ⟨klen, kcell⟩ := k
  refine ⟨klen.trans hlen, fun n hn => ?_⟩
  obtain ⟨hcode, hsame⟩ := hcell n hn
  obtain ⟨kcode, ksame⟩ := kcell n hn
  exact ⟨kcode.trans hcode, fun hout => (ksame hout).trans (hsame hout)⟩

theorem judged_updCell {l : List Nat} {m : Nat} {f : CellSt → CellSt} (s : State) (hm : m ∈ l) (hf : ∀ c, (f c).code = c.code) :
    s.judged l (s.updCell m f) := by
  refine ⟨?_, fun n hn => ⟨updCell_code hf hn, fun hout => updCell_cell_ne f hn (fun h => hout (h ▸ hm))⟩⟩
  unfold State.updCell updAt
  split
  · rfl
  · split <;> simp

theorem judged_foldl {l xs : List Nat} {f : State → Nat → State} (hf : ∀ (u : State), ∀ x ∈ l, u.judged l (f u x)) (hx : ∀ x ∈ xs, x ∈ l) (s : State) :
    s.judged l (xs.foldl f s) := by
  induction xs generalizing s with
  | nil => exact judged_of_cells rfl
  | cons x xs ih =>
    exact judged_trans (hf s x (hx x List.mem_cons_self)) (ih (fun y hy => hx y (List.mem_cons_of_mem x hy)) (f s x))

/-! ### The judgement of a sweep -/

theorem evalCell_only (s : State) (n : Nat) (c : Int) (o : Bool) : s.onlyChanges [.cells] (s.evalCell n c o) := updCell_only s n _

theorem evalCell_judged {l : List Nat} {n : Nat} (s : State) (hn : n ∈ l) (c : Int) (o : Bool) : s.judged l (s.evalCell n c o) := by
  refine judged_updCell s hn fun x => ?_
  split <;> rfl

theorem compareCell_only (s : State) (t n : Nat) (c : Int) : s.onlyChanges [.cells, .fault, .diag] (s.compareCell t n c) := by
  unfold State.compareCell
  split
  · exact only_refl _ s
  · exact only_ite (only_step (detail_only _ _ _ _ _) (only_step (raise_only _ _ _) (only_one (updCell_only s n _)))) (only_one (updCell_only s n _))

theorem compareCell_judged {l : List Nat} {n : Nat} (s : State) (hn : n ∈ l) (t : Nat) (c : Int) : s.judged l (s.compareCell t n c) := by
  unfold State.compareCell
  split
  · exact judged_of_cells rfl
  · extract_lets h ex cnt due u
    refine judged_trans (judged_updCell (f := fun c => { c with pHist := h, pExceed := ex, pCount := cnt, pDone := ex && (c.pDone || due) }) s hn
      fun _ => rfl) (judged_of_cells ?_)
    split
    · exact raise_only _ _ _ .cells (by decide)
    · rfl

theorem rateCell_only (s : State) (m : Int) (n : Nat) : s.onlyChanges [.cells, .fault, .diag] (s.rateCell m n) :=
  only_ite (only_step (detail_only _ _ _ _ _) (only_step (raise_only _ _ _) (only_one (updCell_only s n _)))) (only_one (updCell_only s n _))

theorem rateCell_judged {l : List Nat} {n : Nat} (s : State) (hn : n ∈ l) (m : Int) : s.judged l (s.rateCell m n) := by
  unfold State.rateCell
  extract_lets c bad cnt due u
  refine judged_trans (judged_updCell (f := fun c => { c with rCount := cnt, rDone := bad && (c.rDone || due) }) s hn fun _ => rfl)
    (judged_of_cells ?_)
  split
  · exact raise_only _ _ _ .cells (by decide)
  · rfl

theorem rateCheck_only (s : State) (cells : List Nat) : s.onlyChanges [.cells, .fault, .diag] (s.rateCheck cells) :=
  only_ite (only_refl _ s) (only_foldl fun u n => rateCell_only u _ n)

theorem rateCheck_judged {l cells : List Nat} (s : State) (h : ∀ n ∈ cells, n ∈ l) : s.judged l (s.rateCheck cells) := by
  unfold State.rateCheck
  extract_lets el m2
  split
  · exact judged_of_cells rfl
  · exact judged_foldl (fun u n hn => rateCell_judged u hn m2) (fun n hn => h n (List.mem_filter.mp hn).1) s

theorem keepRec_settles (s : State) (r : Rec) : s.onlyChanges [.sweep, .tree] (s.keepRec r)
    ∧ (s.keepRec r).sweep = { s.sweep with
        live := (s.sweep.live ++ [r]).drop (s.sweep.live.length + 1 - 128), counted := sat 0xFFFFFFFF (s.sweep.counted + 1), count := r.sweep
        recsUsed := true } := by
  unfold State.keepRec
  extract_lets v u
  have hu : s.onlyChanges [.sweep] u := only_sweep s _
  have hsweep : u.sweep = { s.sweep with
        live := (s.sweep.live ++ [r]).drop (s.sweep.live.length + 1 - 128), counted := sat 0xFFFFFFFF (s.sweep.counted + 1), count := r.sweep
        recsUsed := true } := rfl
  clear_value u
  split
  · exact ⟨only_one hu, hsweep⟩
  · split
    · exact ⟨only_step (only_tree u _) (only_one hu), hsweep⟩
    · exact ⟨only_step (only_tree u _) (only_one hu), hsweep⟩

/-- What a completed record changes. -/
def recordParts : List Part := [.sweep, .cells, .fault, .diag, .tree, .safety, .free, .ports]

/-- A record without auxiliary inputs and witness: the codes that it keeps, and the cells outside the masks. -/
theorem completeRecord_settles {s : State} {a : Aperture} (raw : RawCodes) (temps : List Int) (frac : Int) (haux : a.aux = false) :
    s.onlyChanges recordParts (s.completeRecord a raw temps frac none)
    ∧ (∃ r w, (s.completeRecord a raw temps frac none).sweep = { s.sweep.takeAux a with
        pend := s.sweep.pend.drop 1, live := (s.sweep.live ++ [r]).drop (s.sweep.live.length + 1 - 128)
        counted := sat 0xFFFFFFFF (s.sweep.counted + 1), count := w, recsUsed := true } ∧ r.sweep = a.num ∧ r.t = a.t ∧ w = a.num)
    ∧ (s.cells.length = 48 → ∀ n, 1 ≤ n → n ≤ 48 →
        (inMask s.sweep.lat.mask n = false → (s.completeRecord a raw temps frac none).cell n = s.cell n)
        ∧ (inMask s.sweep.lat.mask n = true → a.lost = [] → (∀ k, s.bbarOf raw a.t k = 0) →
            ((s.completeRecord a raw temps frac none).cell n).code = clampCell (raw.cells.getD (n - 1) 0))) := by
  unfold State.completeRecord
  extract_lets p sel g bb unc lost adj code uns_ opn clamp cells aux before cell eval lim kept elig comp rate loop is1 is2 r src done
  have hcellsMem (n : Nat) (hn : n ∈ cells) : sel n = true := (List.mem_filter.mp hn).2
  have heligMem (n : Nat) (hn : n ∈ elig) : n ∈ cells := (List.mem_filter.mp hn).1
  have hauxOnly : s.onlyChanges [.sweep] aux := only_sweep s _
  have hauxSweep : aux.sweep = s.sweep.takeAux a := rfl
  have hlim : aux.onlyChanges [.cells, .safety, .free, .ports] lim ∧ aux.judged cells lim := by
    by_cases hactive : (!aux.limitsActive) = true
    · have h : lim = aux := if_pos hactive
      rw [h]
      exact ⟨only_refl _ aux, judged_of_cells rfl⟩
    · have heval : eval = cell := if_neg (by rw [haux]; decide)
      have h : lim = cell.limitReport before a.t := (if_neg hactive).trans (by rw [heval])
      have hcell : aux.onlyChanges [.cells] cell := only_foldl fun u n => evalCell_only u n _ _
      have hjudge : aux.judged cells cell := judged_foldl (fun u n hn => evalCell_judged u hn _ _) (fun _ hn => hn) aux
      have hreport := limitReport_settles cell before a.t
      rw [h]
      exact ⟨only_step hreport (only_one hcell), judged_trans hjudge (judged_of_cells (hreport .cells (by decide)))⟩
  have hkeptOnly : lim.onlyChanges [.cells] kept := mapCells_only lim _
  have hkeptCell (hlen : lim.cells.length = 48) (n : Nat) (h1 : 1 ≤ n) (h48 : n ≤ 48) :
      (sel n = false → kept.cell n = lim.cell n) ∧ (sel n = true → (kept.cell n).code = code n) := by
    have h := mapCells_cell (s := lim) (fun n c => if !sel n then c else
      let c := { c with code := code n, raw := unc n, vLast := if uns_ n then c.vLast else some (code n) }
      if uns_ n then c else { c with rate := ({ code := code n, t := a.t, rtc := none } :: c.rate).take 8 }) hlen h1 h48
    refine ⟨fun hsel => ?_, fun hsel => ?_⟩
    · exact h.trans (if_pos (by rw [hsel]; rfl))
    · refine (congrArg CellSt.code h).trans ?_
      rw [if_neg (by rw [hsel]; decide)]
      dsimp only
      split <;> rfl
  have hcompOnly : kept.onlyChanges [.cells, .fault, .diag] comp := only_foldl fun u n => compareCell_only u _ n _
  have hcompJudge : kept.judged cells comp := judged_foldl (fun u n hn => compareCell_judged u hn _ _) heligMem kept
  have hrateOnly : comp.onlyChanges [.cells, .fault, .diag] rate := rateCheck_only comp elig
  have hrateJudge : comp.judged cells rate := rateCheck_judged comp heligMem
  have hloop : loop = rate := by
    unfold loop
    split <;> first | rfl | contradiction
  have hdone : loop.onlyChanges [.sweep] done := only_sweep loop _
  have hrNum : r.sweep = a.num := rfl
  have hrT : r.t = a.t := rfl
  have hdoneSweep : done.sweep = { loop.sweep with pend := loop.sweep.pend.drop 1 } := rfl
  have hcode (n : Nat) (hsel : sel n = true) (hlost : a.lost = []) (hopen : ∀ k, s.bbarOf raw a.t k = 0) : code n = clampCell (raw.cells.getD (n - 1) 0) := by
    have hnot (k : Nat) : lost k = false := by simp [lost, hlost]
    have hadj : adj n = false := by simp [adj, bb, hopen]
    have hself : code n = unc n := by simp [code, hnot, hadj]
    rw [hself]
    unfold unc State.uncOf
    rw [if_neg (by rw [hlost]; exact Bool.false_ne_true), if_pos hsel]
  clear_value done loop rate comp kept lim aux r
  subst hloop
  obtain ⟨hlimOnly, hlimJudge⟩ := hlim
  obtain ⟨hkeepOnly, hkeepSweep⟩ := keepRec_settles done r.sealed
  have hupto : s.onlyChanges recordParts done :=
    only_step hdone (only_step hrateOnly (only_step hcompOnly (only_step hkeptOnly (only_step hlimOnly (only_one hauxOnly)))))
  have hsweep : loop.sweep = s.sweep.takeAux a := (hrateOnly .sweep (by decide)).trans ((hcompOnly .sweep (by decide)).trans
    ((hkeptOnly .sweep (by decide)).trans ((hlimOnly .sweep (by decide)).trans hauxSweep)))
  have htake : (s.sweep.takeAux a).pend = s.sweep.pend ∧ (s.sweep.takeAux a).live = s.sweep.live ∧ (s.sweep.takeAux a).counted = s.sweep.counted := by
    simp [SweepSt.takeAux, haux]
  obtain ⟨hpend, hlive, hcounted⟩ := htake
  have hcells : (done.keepRec r.sealed).cells = loop.cells := (hkeepOnly .cells (by decide)).trans (hdone .cells (by decide))
  refine ⟨only_step hkeepOnly hupto, ⟨r.sealed, a.num, ?_, hrNum, hrT, rfl⟩, fun hlen n h1 h48 => ?_⟩
  · rw [hkeepSweep, hdoneSweep, hsweep, hpend, hlive, hcounted]
    exact congrArg (fun w => { s.sweep.takeAux a with pend := s.sweep.pend.drop 1, live := (s.sweep.live ++ [r.sealed]).drop (s.sweep.live.length + 1 - 128), counted := sat 0xFFFFFFFF (s.sweep.counted + 1), count := w, recsUsed := true }) hrNum
  · have hcellN : (done.keepRec r.sealed).cell n = loop.cell n := congrArg (fun l : List CellSt => l.getD (n - 1) CellSt.reset) hcells
    have hauxN : aux.cell n = s.cell n := congrArg (fun l : List CellSt => l.getD (n - 1) CellSt.reset) (hauxOnly .cells (by decide))
    have hlen' : lim.cells.length = 48 := hlimJudge.1.trans ((congrArg List.length (hauxOnly .cells (by decide))).trans hlen)
    obtain ⟨hunsel, hselCode⟩ := hkeptCell hlen' n h1 h48
    obtain ⟨hlater, hlaterSame⟩ := (judged_trans hcompJudge hrateJudge).2 n h1
    obtain ⟨-, hlimSame⟩ := hlimJudge.2 n h1
    rw [hcellN]
    refine ⟨fun hout => ?_, fun hin hlost hopen => hlater.trans ((hselCode hin).trans (hcode n hin hlost hopen))⟩
    have hnot : n ∉ cells := fun hmem => absurd (hcellsMem n hmem) (by simp [sel, p, hout])
    exact (hlaterSame hnot).trans ((hunsel hout).trans ((hlimSame hnot).trans hauxN))

theorem sat_eq_min (m x : Nat) : sat m x = min m x := by
  unfold sat
  split <;> omega

theorem clampCell_eq (x : Int) : clampCell x = min 550000 (max (-30000) x) := by
  unfold clampCell clampI codeLo codeHi
  split <;> (try split) <;> omega

theorem logIn_subset {l : List SwChange} {a b : Nat} {c : SwChange} (h : c ∈ logIn l a b) : c ∈ l := by
  unfold logIn at h
  rcases List.mem_append.mp h with h | h
  · exact (List.mem_filter.mp h).1
  · exact List.mem_of_find?_eq_some (Option.mem_toList.mp h)

theorem expoCapture_of_no_trip {s : State} (h : s.expo.trip = none) : s.expoCapture = s := by
  unfold State.expoCapture
  rw [h]

/-- A switch without a bleed closing counts as open where BLANK holds the switches open. -/
theorem bbarOf_blank {s : State} {raw : RawCodes} {t : Nat} (hblank : s.sweep.lat.blank = 0) (hlen : s.cells.length = 48)
    (hopen : ∀ c ∈ s.cells, c.stuck = none ∧ ∀ e ∈ c.log, e.bleed = false) (k : Nat) : s.bbarOf raw t k = 0 := by
  unfold State.bbarOf State.filteredOf
  split
  · rfl
  · rename_i hk
    have hlt : k - 1 < s.cells.length := by omega
    have hmem : s.cell k ∈ s.cells := by
      unfold State.cell
      rw [List.getD_eq_getElem _ _ hlt]
      exact List.getElem_mem hlt
    obtain ⟨hstuck, hlog⟩ := hopen _ hmem
    have hblankTrue : decide (s.sweep.lat.blank = 0) = true := decide_eq_true hblank
    have hnone (a b : Nat) : (logIn (s.cell k).log a b).any (fun c => c.closed && (!true || c.bleed)) = false := by
      refine List.any_eq_false.mpr fun c hc => ?_
      have hin : c ∈ (s.cell k).log := logIn_subset hc
      simp [hlog c hin]
    dsimp only
    rw [hstuck, hblankTrue]
    unfold filtered
    simp only [Bool.false_eq_true, if_false]
    rw [hnone]
    rfl

/-! ### The command -/

theorem sweepRecordComplete_settles {s : State} {a : Aperture} {raw : RawCodes} (temps : List Int) (frac : Int) (hclk : s.crystalRuns = true)
    (hpend : s.sweep.pend = [a]) (hcodes : a.codes = some raw) (haux : a.aux = false) :
    ∃ t, exec (.sweepRecordComplete temps frac none) s = .next t
      ∧ s.onlyChanges [.reply, .out, .sweep, .cells, .fault, .diag, .tree, .safety, .free, .ports, .host, .glean, .expo] t
      ∧ (s.begin.completeRecord a raw temps frac none).onlyChanges flushParts t :=
  nextL_settles (exec_sweepRecordComplete_of_due temps frac none hclk hpend hcodes (.inl haux))
    (only_one (completeRecord_settles (s := s.begin) raw temps frac haux).1)

theorem sweepRecordComplete_answer {s : State} {a : Aperture} {raw : RawCodes} (temps : List Int) (frac : Int) (hclk : s.crystalRuns = true)
    (hpend : s.sweep.pend = [a]) (hcodes : a.codes = some raw) (haux : a.aux = false) (hroom : s.sweep.live.length < 128) :
    ∃ t, exec (.sweepRecordComplete temps frac none) s = .next t ∧ t.sweep.pend = [] ∧ t.sweep.count = a.num
      ∧ t.sweep.counted = min 0xFFFFFFFF (s.sweep.counted + 1) ∧ t.sweep.live.length = s.sweep.live.length + 1
      ∧ (t.sweep.live.getLast?).map (fun r => (r.sweep, r.t)) = some (a.num, a.t)
      ∧ s.onlyChanges [.reply, .out, .sweep, .cells, .fault, .diag, .tree, .safety, .free, .ports, .host, .glean, .expo] t := by
  obtain ⟨t, hexec, honly, hflush⟩ := sweepRecordComplete_settles temps frac hclk hpend hcodes haux
  obtain ⟨-, ⟨r, w, hsweep, hnum, ht, hw⟩, -⟩ := completeRecord_settles (s := s.begin) raw temps frac haux
  have hpendB : s.begin.sweep.pend.drop 1 = [] := by rw [show s.begin.sweep = s.sweep from rfl, hpend]; rfl
  have hliveB : (s.begin.sweep.live ++ [r]).drop (s.begin.sweep.live.length + 1 - 128) = s.sweep.live ++ [r] := by
    rw [show s.begin.sweep = s.sweep from rfl, Nat.sub_eq_zero_of_le (by omega)]
    rfl
  rw [hpendB, hliveB, ← hflush .sweep (by decide)] at hsweep
  subst hw
  refine ⟨t, hexec, ?_, ?_, ?_, ?_, ?_, honly⟩
  · exact (congrArg SweepSt.pend hsweep :)
  · exact (congrArg SweepSt.count hsweep :)
  · exact (congrArg SweepSt.counted hsweep).trans (sat_eq_min _ _)
  · rw [show t.sweep.live = s.sweep.live ++ [r] from (congrArg SweepSt.live hsweep :), List.length_append]
    rfl
  · rw [show t.sweep.live = s.sweep.live ++ [r] from (congrArg SweepSt.live hsweep :), List.getLast?_concat]
    simp [hnum, ht]

/-! ### A stream output of an armed exposure -/

theorem pumps_expo (s : State) : ([0, 1, 2, 3].foldl State.giveCredit ([0, 1, 2, 3].foldl State.pump s)).expo = s.expo :=
  (only_foldl giveCredit_only .expo (by decide)).trans (only_foldl pump_only .expo (by decide))

/-- An exposure that is not being delivered stays where what can leave leaves. -/
theorem flush_expo {s : State} (h : s.expo.state ≠ .delivering) : s.flush.expo = s.expo := by
  have hexpo := pumps_expo s
  unfold State.flush State.freeExposure
  dsimp only
  rw [if_neg (by rw [hexpo]; simp [h]), hexpo]

theorem streamOutput_answer {s : State} (raw : RawCodes) (hreach : s.reachable = true) (hrun : s.survey.run = none)
    (harmed : s.expo.state = .armed) (hring : s.expo.ring = []) (htrip : s.expo.trip = none) (hn : 1 ≤ s.expo.plan.n)
    (hdue : tgd s.expo.plan.corner ≤ s.clk.tt) :
    ∃ t, exec (.streamOutput s.expo.plan.corner raw []) s = .next t ∧ t.expo.state = .armed
      ∧ (t.expo.ring.map Sample.t) = [(s.clk.tt - tgd s.expo.plan.corner) / periodOf s.expo.plan.corner * periodOf s.expo.plan.corner]
      ∧ t.expo.done = min 0xFFFF (s.expo.done + 1) ∧ s.onlyChanges [.reply, .out, .ports, .host, .glean, .expo] t := by
  have hsurvey : s.begin.surveyOutput s.expo.plan.corner raw [] = s.begin := by
    unfold State.surveyOutput
    dsimp only
    rw [show s.begin.survey.run = none from hrun]
  have hexpo : ∃ x, s.begin.expoOutput s.expo.plan.corner raw [] = { s.begin with expo := { s.expo with ring := [x], done := sat 0xFFFF (s.expo.done + 1) } }
      ∧ x.t = s.streamTap s.expo.plan.corner := by
    unfold State.expoOutput
    extract_lets e tap stale done is1 is2 clamp x src y
    have hstale : stale = false := by simp [stale, e, hring]
    have hdone : done = false := by simp [done, e, htrip]
    rw [if_neg (by simp [hstale, hdone, e, harmed])]
    refine ⟨x, ?_, rfl⟩
    have hringX : (e.ring ++ [x]).drop (e.ring.length + 1 - e.plan.n) = [x] := by
      rw [show e.ring = [] from hring, Nat.sub_eq_zero_of_le (show [].length + 1 ≤ e.plan.n from hn)]
      rfl
    rw [hringX]
    exact expoCapture_of_no_trip htrip
  obtain ⟨x, hx, htap⟩ := hexpo
  generalize hu : ({ s.begin with expo := { s.expo with ring := [x], done := sat 0xFFFF (s.expo.done + 1) } } : State) = u at hx
  have huExpo : u.expo = { s.expo with ring := [x], done := sat 0xFFFF (s.expo.done + 1) } := by rw [← hu]
  have huOnly : s.begin.onlyChanges [.expo] u := hu ▸ only_expo s.begin _
  have hexec : exec (.streamOutput s.expo.plan.corner raw []) s = .next { u.flush with pending := s.pending } := by
    refine (runL_when_next (by simp [hreach, State.now, hdue])).trans ?_
    dsimp only
    rw [hsurvey, hx]
  have hflush : u.flush.expo = u.expo := flush_expo (by rw [huExpo]; simp [harmed])
  have honly : s.onlyChanges [.reply, .out, .ports, .host, .glean, .expo] { u.flush with pending := s.pending } := nextL_only (only_one huOnly)
  generalize u.flush = w at *
  rw [huExpo] at hflush
  refine ⟨_, hexec, ?_, ?_, ?_, honly⟩
  · exact (congrArg ExpoSt.state hflush).trans harmed
  · refine (congrArg (fun e : ExpoSt => e.ring.map Sample.t) hflush).trans ?_
    exact congrArg (fun k => [k]) htap
  · exact (congrArg ExpoSt.done hflush).trans (sat_eq_min _ _)

/-- Settles O33: the record, the code of a cell, a cell outside the masks, and a stream output. -/
theorem sweepRecords : Obligations.SweepRecords := by
  unfold Obligations.SweepRecords
  intro s a raw temps frac n hclk hpend hcodes haux hroom
  obtain ⟨t, hexec, -, hflush⟩ := sweepRecordComplete_settles temps frac hclk hpend hcodes haux
  obtain ⟨-, -, hcell⟩ := completeRecord_settles (s := s.begin) raw temps frac haux
  have hsame : t.cell n = (s.begin.completeRecord a raw temps frac none).cell n :=
    congrArg (fun l : List CellSt => l.getD (n - 1) CellSt.reset) (hflush .cells (by decide))
  refine ⟨sweepRecordComplete_answer temps frac hclk hpend hcodes haux hroom, fun h1 h48 hlen hin hblank hopen hlost => ⟨t, hexec, ?_⟩,
    fun h1 h48 hlen hout => ⟨t, hexec, ?_⟩,
    fun hreach hrun harmed hring htrip _ hplan hdue => streamOutput_answer raw hreach hrun harmed hring htrip hplan hdue⟩
  · obtain ⟨-, hcode⟩ := hcell hlen n h1 h48
    rw [hsame, hcode hin hlost (bbarOf_blank (s := s.begin) hblank hlen hopen), clampCell_eq]
  · obtain ⟨hunsel, -⟩ := hcell hlen n h1 h48
    exact hsame.trans (hunsel hout)

end Sys2Proof.Machine
end

section
/-!
START, STOP, the governor's slots and the timers of BALANCE (04 R106–R112, R116, R120).
-/
namespace Sys2Proof.Machine

-- one proof at a time: these proofs share the equations of the operations they unfold
set_option Elab.async false

variable {s : State} {n m : Nat} {cont : Bool}

/-! ### Switches and choices -/

theorem setSwitch_remain (c : CellSt) (now wall : Nat) (b bleed : Bool) : (c.setSwitch now wall b bleed).remain = c.remain := by
  unfold CellSt.setSwitch
  dsimp only
  split <;> rfl

theorem setSwitch_closed (c : CellSt) (now wall : Nat) (b bleed : Bool) : (c.setSwitch now wall b bleed).closed = b := by
  unfold CellSt.setSwitch
  dsimp only
  split
  · rename_i h
    exact h.symm
  · rfl

theorem switches_cell (hlen : s.cells.length = 48) (h1 : 1 ≤ n) (h48 : n ≤ 48) :
    s.switches.cell n = (s.cell n).setSwitch s.clk.tt s.clk.wall (s.wantClosed n) s.bleedOn := mapCells_cell _ hlen h1 h48

theorem switches_length (s : State) : s.switches.cells.length = s.cells.length := List.length_mapIdx

theorem switches_remain (hlen : s.cells.length = 48) (h1 : 1 ≤ n) (h48 : n ≤ 48) : (s.switches.cell n).remain = (s.cell n).remain :=
  (congrArg CellSt.remain (switches_cell hlen h1 h48)).trans (setSwitch_remain _ _ _ _ _)

/-- A switch that neither BALANCE asks for nor a request of rank 2 is open. -/
theorem switches_open (hlen : s.cells.length = 48) (h1 : 1 ≤ n) (h48 : n ≤ 48) (hrank : s.rank2 n = none) (hreq : s.balRequest n = false) :
    (s.switches.cell n).closed = false := by
  refine (congrArg CellSt.closed (switches_cell hlen h1 h48)).trans ((setSwitch_closed _ _ _ _ _).trans ?_)
  have hrank5 : s.rank5 n = false := by simp [State.rank5, hreq]
  unfold State.wantClosed
  rw [hrank, hrank5]
  dsimp only
  split
  · rfl
  · split <;> rfl

theorem govTake_subset (s : State) (limit : Nat) : ∀ (l : List Nat) (t : Nat × Nat), ∀ n ∈ s.govTake limit t l, n ∈ l
  | [], _, _, h => h
  | k :: l, t, n, h => by
    unfold State.govTake at h
    dsimp only at h
    split at h
    · rcases List.mem_cons.mp h with h | h
      · exact h ▸ List.mem_cons_self
      · exact List.mem_cons_of_mem k (govTake_subset s limit l _ n h)
    · exact absurd h List.not_mem_nil

theorem govAllow_subset (s : State) : ∀ n ∈ s.govAllow.1, n ∈ s.govReq := by
  have hcand : ∀ n ∈ s.govCand, n ∈ s.govReq := fun n h => (List.mem_filter.mp h).1
  intro n h
  unfold State.govAllow at h
  dsimp only at h
  split at h
  · exact absurd h List.not_mem_nil
  · split at h
    · exact hcand n h
    · have hmem := govTake_subset _ _ _ _ n h
      rcases List.mem_append.mp hmem with hmem | hmem
      · exact hcand n (List.mem_filter.mp hmem).1
      · exact hcand n (List.mem_filter.mp hmem).1

/-- The function after a choice, before the switches follow. -/
def State.govChosen (s : State) : BalanceSt :=
  { s.bal with
    allowed := maskOf (fun n => s.govAllow.1.contains n), pointer := s.govAllow.2, governing := decide (s.govAllow.1.length < s.govReq.length)
    duty := ((s.now / 128000, s.govAllow.1.length, s.govReq.length) :: s.bal.duty.filter (fun d => d.1 != s.now / 128000)).take 16
    slotAt := some (s.now / 128000 * 128000), resumeAt := none }

theorem govChoose_eq (s : State) : s.govChoose = ({ s with bal := s.govChosen } : State).switches := rfl

/-- A choice allows requested cells alone, and leaves the rest of the function. -/
theorem govChoose_settles (s : State) : s.onlyChanges [.bal, .cells] s.govChoose
    ∧ (∃ a p d g, s.govChoose.bal = { s.bal with allowed := a, pointer := p, duty := d, governing := g, slotAt := some (s.clk.tt / 128000 * 128000), resumeAt := none } ∧ ∀ n, inMask a n = true → n ∈ s.govReq)
    ∧ s.govChoose.cells.length = s.cells.length
    ∧ (s.cells.length = 48 → ∀ n, 1 ≤ n → n ≤ 48 → (s.govChoose.cell n).remain = (s.cell n).remain) := by
  rw [govChoose_eq]
  generalize hu : ({ s with bal := s.govChosen } : State) = u
  have hU : s.onlyChanges [.bal] u := hu ▸ only_bal s _
  have hbal : u.bal = s.govChosen := by rw [← hu]
  have hcells : u.cells = s.cells := by rw [← hu]
  have hcell (n : Nat) : u.cell n = s.cell n := congrArg (fun l : List CellSt => l.getD (n - 1) CellSt.reset) hcells
  refine ⟨only_step (switches_only u) (only_one hU), ⟨_, _, _, _, ((switches_only u .bal (by decide)).trans hbal).trans rfl, fun n h => ?_⟩,
    (switches_length u).trans (congrArg List.length hcells), fun hlen n h1 h48 => ?_⟩
  · unfold inMask at h
    simp only [Bool.and_eq_true, decide_eq_true_eq] at h
    obtain ⟨⟨h1, h48⟩, hbit⟩ := h
    have hin : s.govAllow.1.contains n = true := (maskOf_testBit _ h1 h48).symm.trans hbit
    exact govAllow_subset s n (List.contains_iff_mem.mp hin)
  · rw [switches_remain (by rw [hcells, hlen]) h1 h48, hcell n]

/-- The function stops as COMPLETE where no cell is left, and stays otherwise. -/
theorem balanceDone_settles (s : State) : s.onlyChanges [.bal, .cells] s.balanceDone
    ∧ (s.balanceDone.bal = s.bal ∨ s.balanceDone.bal = { s.bal with fn := .stopped, last := 2, allowed := 0, suspHalt := false })
    ∧ (s.cells.length = 48 → ∀ n, 1 ≤ n → n ≤ 48 → (s.balanceDone.cell n).remain = (s.cell n).remain) := by
  unfold State.balanceDone
  split
  · refine ⟨only_step (switches_only _) (only_one (only_bal s _)), .inr (switches_only _ .bal (by decide)), fun hlen n h1 h48 => ?_⟩
    exact switches_remain (s := { s with bal := _ }) hlen h1 h48
  · exact ⟨only_refl _ s, .inl rfl, fun _ n _ _ => rfl⟩

/-! ### START -/

theorem balanceStart_refused (hreach : s.reachable = true) (hlock : s.mode.mode ≠ .lockout) (hfn : s.bal.fn = .stopped)
    (hrefused : s.balanceRefusal ≠ 0) : exec (.balanceStart cont) s = .next { s with
      out := [], reply := some { status := stDenied, value := 0, words := [], bytes := [] }, bal := { s.bal with reason := s.balanceRefusal } } := by
  refine runReg_next (f := startBalance cont) (u := { s.begin with bal := { s.bal with reason := s.balanceRefusal } }) hreach hlock ?_
  unfold startBalance
  rw [if_neg (by simp [State.begin, hfn])]
  exact if_pos (bne_iff_ne.mpr hrefused)

/-- The cells and the settings as an honoured START takes them. -/
def State.balanceTaken (s : State) (cont : Bool) : State :=
  let u := s.mapCells (fun n c =>
    let c := { c with excluded := false, lSeconds := c.seconds }
    if !inMask s.bal.enable n then { c with remain := 0 }
    else if cont && c.remain != 0 then c else { c with remain := edgesPerS * c.seconds })
  { u with bal := { u.bal with
    fn := .running, cont := cont, lEnable := u.bal.enable, lLimit := u.bal.limit, last := 1, pointer := 1
    allowed := 0, duty := [], governing := false, resumeAt := none, suspHalt := false } }

theorem balanceTaken_settles (s : State) (cont : Bool) : s.onlyChanges [.bal, .cells] (s.balanceTaken cont)
    ∧ (s.balanceTaken cont).bal.fn = .running ∧ (s.balanceTaken cont).bal.lEnable = s.bal.enable ∧ (s.balanceTaken cont).bal.lLimit = s.bal.limit
    ∧ (s.balanceTaken cont).cells.length = s.cells.length
    ∧ (s.cells.length = 48 → ∀ n, 1 ≤ n → n ≤ 48 → ((s.balanceTaken cont).cell n).remain = if inMask s.bal.enable n = false then 0
        else if cont = true ∧ (s.cell n).remain ≠ 0 then (s.cell n).remain else 5120000 * (s.cell n).seconds) := by
  refine ⟨only_step (only_bal _ _) (only_one (mapCells_only s _)), rfl, rfl, rfl, List.length_mapIdx, fun hlen n h1 h48 => ?_⟩
  refine (congrArg CellSt.remain (mapCells_cell (s := s) (fun n c =>
    let c := { c with excluded := false, lSeconds := c.seconds }
    if !inMask s.bal.enable n then { c with remain := 0 }
    else if cont && c.remain != 0 then c else { c with remain := edgesPerS * c.seconds }) hlen h1 h48)).trans ?_
  dsimp only
  by_cases hin : inMask s.bal.enable n = false
  · rw [if_pos (by rw [hin]; rfl), if_pos hin]
  · rw [if_neg (by simpa using hin), if_neg hin]
    by_cases hkeep : cont = true ∧ (s.cell n).remain ≠ 0
    · rw [if_pos (by simpa using hkeep), if_pos hkeep]
    · rw [if_neg (by simpa using hkeep), if_neg hkeep]
      rfl

theorem balanceStart_answer (hreach : s.reachable = true) (hlen : s.cells.length = 48) (hlock : s.mode.mode ≠ .lockout) (hfn : s.bal.fn = .stopped)
    (hok : s.balanceRefusal = 0) (h1 : 1 ≤ n) (h48 : n ≤ 48) :
    ∃ t, exec (.balanceStart cont) s = .next t ∧ t.bal.lEnable = s.bal.enable ∧ t.bal.lLimit = s.bal.limit
      ∧ (t.cell n).remain = (if inMask s.bal.enable n = false then 0
          else if cont = true ∧ (s.cell n).remain ≠ 0 then (s.cell n).remain else 5120000 * (s.cell n).seconds)
      ∧ (t.bal.fn = .running ∨ t.bal.last = 2)
      ∧ t.mode = { s.mode with mode := if s.mode.mode = .quiet then .run else s.mode.mode }
      ∧ s.onlyChanges [.reply, .out, .bal, .cells, .mode, .flash, .host] t := by
  have hstart : startBalance cont s.begin = (stOk, when_ ((s.begin.balanceTaken cont).govChoose.balanceDone.mode.mode = .quiet) (fun s => s.setMode .run)
      (s.begin.balanceTaken cont).govChoose.balanceDone) := by
    unfold startBalance
    rw [if_neg (by simp [State.begin, hfn])]
    exact if_neg (fun h => bne_iff_ne.mp h hok)
  obtain ⟨htaken, hrunning, henable, hlimit, htakenLen, htakenRemain⟩ := balanceTaken_settles s.begin cont
  generalize s.begin.balanceTaken cont = u at *
  have hlenU : u.cells.length = 48 := htakenLen.trans hlen
  obtain ⟨hgov, ⟨a, p, d, g, hgovBal, -⟩, hgovLen, hgovRemain⟩ := govChoose_settles u
  generalize u.govChoose = v at *
  obtain ⟨hdone, hdoneBal, hdoneRemain⟩ := balanceDone_settles v
  generalize v.balanceDone = w at *
  have hW : s.begin.onlyChanges [.bal, .cells] w := only_step hdone (only_step hgov htaken)
  have hmodeW : w.mode = s.mode := hW .mode (by decide)
  have hexec : exec (.balanceStart cont) s = _ := runReg_next hreach hlock hstart
  have hlast : ∃ x, x = when_ (w.mode.mode = .quiet) (fun s => s.setMode .run) w ∧ w.onlyChanges [.mode, .flash, .host, .out] x
      ∧ x.mode = { s.mode with mode := if s.mode.mode = .quiet then .run else s.mode.mode } := by
    by_cases hq : s.mode.mode = .quiet
    · refine ⟨w.setMode .run, (if_pos (by rw [hmodeW, hq]; rfl)).symm, setMode_only w .run, ?_⟩
      rw [setMode_mode, hmodeW, if_pos hq]
    · refine ⟨w, (if_neg (by rw [hmodeW]; simp [hq])).symm, only_refl _ w, ?_⟩
      rw [hmodeW, if_neg hq]
  obtain ⟨x, hx, hxOnly, hxMode⟩ := hlast
  rw [← hx] at hexec
  have honly : s.begin.onlyChanges [.reply, .out, .bal, .cells, .mode, .flash, .host] (x.answer stOk) :=
    only_step (answer_only _ _ _ _ _) (only_step hxOnly (only_one hW))
  have hbal : x.bal = w.bal := hxOnly .bal (by decide)
  have hcell : x.cell n = w.cell n := congrArg (fun l : List CellSt => l.getD (n - 1) CellSt.reset) (hxOnly .cells (by decide))
  have hremain : (x.cell n).remain = (u.cell n).remain := by
    rw [hcell, hdoneRemain (hgovLen.trans hlenU) n h1 h48, hgovRemain hlenU n h1 h48]
  have hvfields : v.bal.lEnable = s.bal.enable ∧ v.bal.lLimit = s.bal.limit ∧ v.bal.fn = .running := by
    rw [hgovBal]
    exact ⟨henable, hlimit, hrunning⟩
  obtain ⟨hvE, hvL, hvF⟩ := hvfields
  have hwfields : w.bal.lEnable = s.bal.enable ∧ w.bal.lLimit = s.bal.limit ∧ (w.bal.fn = .running ∨ w.bal.last = 2) := by
    rcases hdoneBal with h | h
    · rw [h]
      exact ⟨hvE, hvL, .inl hvF⟩
    · rw [h]
      exact ⟨hvE, hvL, .inr rfl⟩
  rw [← hbal] at hwfields
  obtain ⟨hE, hL, hF⟩ := hwfields
  exact ⟨_, hexec, hE, hL, hremain.trans (htakenRemain hlen n h1 h48), hF, hxMode, next_only honly⟩

/-! ### STOP -/

theorem balanceStop_answer (hreach : s.reachable = true) (hlen : s.cells.length = 48) (hlock : s.mode.mode ≠ .lockout) (hfn : s.bal.fn = .running) :
    ∃ t, exec .balanceStop s = .next t ∧ t.bal = { s.bal with fn := .stopping, allowed := 0 }
      ∧ (1 ≤ n → n ≤ 48 → s.rank2 n = none → (t.cell n).closed = false) ∧ s.onlyChanges [.reply, .out, .bal, .cells] t := by
  generalize hu : ({ s.begin with bal := { s.bal with fn := .stopping, allowed := 0 } } : State) = u
  have hstop : stopBalance s.begin = (stOk, u.switches) := (if_pos hfn).trans (congrArg (fun v : State => (stOk, v.switches)) hu)
  have hexec : exec .balanceStop s = _ := runReg_next hreach hlock hstop
  have hU : s.begin.onlyChanges [.bal] u := hu ▸ only_bal s.begin _
  have hlenU : u.cells.length = 48 := by rw [← hu]; exact hlen
  have hbal : u.bal = { s.bal with fn := .stopping, allowed := 0 } := by rw [← hu]
  have hrank : u.rank2 n = s.rank2 n := by rw [← hu]; rfl
  have hreq : u.balRequest n = false := by simp [State.balRequest, hbal]
  have hopen (h1 : 1 ≤ n) (h48 : n ≤ 48) (h : s.rank2 n = none) : (u.switches.cell n).closed = false :=
    switches_open hlenU h1 h48 (hrank.trans h) hreq
  have hsw := switches_only u
  generalize u.switches = w at *
  have honly : s.begin.onlyChanges [.reply, .out, .bal, .cells] (w.answer stOk) := only_step (answer_only _ _ _ _ _) (only_step hsw (only_one hU))
  exact ⟨_, hexec, (hsw .bal (by decide)).trans hbal, hopen, next_only honly⟩

theorem balanceStopped_answer (hreach : s.reachable = true) (hfn : s.bal.fn = .stopping) :
    exec .balanceStopped s = .next { s with reply := none, out := [], bal := { s.bal with fn := .stopped, last := 3, suspHalt := false } } :=
  (runCore_of_runs (reachable_parts hreach).2).trans (run_when_next (decide_eq_true hfn))

/-! ### Slots -/

theorem governorSlot_answer (hreach : s.reachable = true) (hdue : s.slotDue = true) (hfn : s.bal.fn = .running) :
    ∃ t, exec .governorSlot s = .next t ∧ t.bal.slotAt = some (s.clk.tt / 128000 * 128000)
      ∧ (inMask t.bal.allowed n = true → n ∈ s.govReq) ∧ s.onlyChanges [.reply, .out, .bal, .cells] t := by
  have hexec : exec .governorSlot s = .next { s.begin.govChoose.balanceDone with pending := s.pending } := by
    refine (run_when_next (by rw [hdue, hreach]; rfl)).trans ?_
    rw [if_pos (show s.begin.bal.fn = .running from hfn)]
  obtain ⟨hgov, ⟨a, p, d, g, hbal, hallowed⟩, -, -⟩ := govChoose_settles s.begin
  generalize s.begin.govChoose = v at *
  obtain ⟨hdone, hdoneBal, -⟩ := balanceDone_settles v
  generalize v.balanceDone = w at *
  have honly : s.begin.onlyChanges [.reply, .out, .bal, .cells] w := only_step hdone (only_one hgov)
  have hfields : w.bal.slotAt = some (s.clk.tt / 128000 * 128000) ∧ (inMask w.bal.allowed n = true → n ∈ s.govReq) := by
    rcases hdoneBal with h | h
    · rw [h, hbal]
      exact ⟨rfl, fun hin => hallowed n hin⟩
    · rw [h, hbal]
      exact ⟨rfl, fun hin => absurd hin (by simp [inMask, bit])⟩
  obtain ⟨hslot, hin⟩ := hfields
  exact ⟨_, hexec, hslot, hin, next_only honly⟩

theorem governorSlot_idle (hreach : s.reachable = true) (hdue : s.slotDue = true) (hfn : s.bal.fn ≠ .running) :
    exec .governorSlot s = .next { s with
      reply := none, out := [], bal := { s.bal with governing := false, slotAt := some (s.clk.tt / 128000 * 128000), resumeAt := none } } := by
  refine (run_when_next (by rw [hdue, hreach]; rfl)).trans ?_
  rw [if_neg (show ¬ s.begin.bal.fn = .running from hfn)]
  rfl

/-! ### Timers -/

theorem balanceTimerExpire_next (hreach : s.reachable = true) (hfn : s.bal.fn = .running) (hen : inMask s.bal.lEnable n = true)
    (hover : (s.cell n).remain = 0) :
    exec (.balanceTimerExpire n) s = .next { s.begin.switches.balanceDone with pending := s.pending } :=
  (runCore_of_runs (reachable_parts hreach).2).trans (run_when_next (by simp [hfn, hen, hover]))

/-- Cell m keeps the function from being COMPLETE. -/
theorem balanceDone_of_left (hm : m ∈ cellNums) (hen : inMask s.bal.lEnable m = true) (hleft : (s.cell m).remain ≠ 0)
    (hexcl : (s.cell m).excluded = false) : s.balanceDone = s := by
  refine if_neg fun h => ?_
  have hall := (Bool.and_eq_true_iff.mp h).2
  have := List.all_eq_true.mp hall m hm
  simp [hen, hleft, hexcl] at this

theorem mem_cellNums (h1 : 1 ≤ n) (h48 : n ≤ 48) : n ∈ cellNums :=
  List.mem_map.mpr ⟨n - 1, List.mem_range.mpr (by omega), by omega⟩

theorem setSwitch_excluded (c : CellSt) (now wall : Nat) (b bleed : Bool) : (c.setSwitch now wall b bleed).excluded = c.excluded := by
  unfold CellSt.setSwitch
  dsimp only
  split <;> rfl

/-- What a request for balancing reads is not what the switches change. -/
theorem switches_balRequest (hlen : s.cells.length = 48) (h1 : 1 ≤ n) (h48 : n ≤ 48) : s.switches.balRequest n = s.balRequest n := by
  have hcell := switches_cell hlen h1 h48
  have hremain : (s.switches.cell n).remain = (s.cell n).remain := switches_remain hlen h1 h48
  have hexcl : (s.switches.cell n).excluded = (s.cell n).excluded := (congrArg CellSt.excluded hcell).trans (setSwitch_excluded _ _ _ _ _)
  unfold State.balRequest
  dsimp only
  rw [hremain, hexcl]
  rfl

theorem switches_govReq (hlen : s.cells.length = 48) : s.switches.govReq = s.govReq := by
  refine List.filter_congr fun k hk => ?_
  obtain ⟨i, hi, rfl⟩ := List.mem_map.mp hk
  have := List.mem_range.mp hi
  exact switches_balRequest hlen (by omega) (by omega)

theorem balanceTimerExpire_goes_on (hreach : s.reachable = true) (hlen : s.cells.length = 48) (hfn : s.bal.fn = .running)
    (hen : inMask s.bal.lEnable n = true) (hover : (s.cell n).remain = 0) (h1 : 1 ≤ n) (h48 : n ≤ 48) (hm1 : 1 ≤ m) (hm48 : m ≤ 48)
    (hmen : inMask s.bal.lEnable m = true) (hleft : (s.cell m).remain ≠ 0) (hexcl : (s.cell m).excluded = false) :
    ∃ t, exec (.balanceTimerExpire n) s = .next t ∧ t.bal = s.bal ∧ n ∉ t.govReq ∧ t.govReq = s.govReq
      ∧ (s.rank2 n = none → (t.cell n).closed = false) ∧ s.onlyChanges [.reply, .out, .cells] t := by
  have hexec := balanceTimerExpire_next hreach hfn hen hover
  have hmCell := switches_cell (s := s.begin) hlen hm1 hm48
  have hstay : s.begin.switches.balanceDone = s.begin.switches :=
    balanceDone_of_left (mem_cellNums hm1 hm48) hmen (by rw [switches_remain (s := s.begin) hlen hm1 hm48]; exact hleft)
      (by rw [hmCell, setSwitch_excluded]; exact hexcl)
  rw [hstay] at hexec
  have hreq : s.begin.balRequest n = false := by
    have hcell : s.begin.cell n = s.cell n := rfl
    simp [State.balRequest, hcell, hover]
  have hgov : s.begin.switches.govReq = s.govReq := switches_govReq (s := s.begin) hlen
  have hopen (h : s.rank2 n = none) : (s.begin.switches.cell n).closed = false := switches_open (s := s.begin) hlen h1 h48 h hreq
  have hnot : n ∉ s.govReq := fun h => absurd (List.mem_filter.mp h).2 (by rw [show s.balRequest n = false from hreq]; decide)
  have hsw := switches_only s.begin
  generalize s.begin.switches = w at *
  exact ⟨_, hexec, hsw .bal (by decide), fun h => hnot (hgov ▸ h), hgov, hopen, next_only (only_one hsw)⟩

theorem balanceTimerExpire_completes (hreach : s.reachable = true) (hlen : s.cells.length = 48) (hfn : s.bal.fn = .running)
    (hen : inMask s.bal.lEnable n = true) (hover : (s.cell n).remain = 0)
    (hnone : ∀ m ∈ cellNums, inMask s.bal.lEnable m = true → (s.cell m).remain = 0) :
    ∃ t, exec (.balanceTimerExpire n) s = .next t ∧ t.bal = { s.bal with fn := .stopped, last := 2, allowed := 0, suspHalt := false }
      ∧ s.onlyChanges [.reply, .out, .bal, .cells] t := by
  have hexec := balanceTimerExpire_next hreach hfn hen hover
  have hsw := switches_only s.begin
  have hall : ∀ k ∈ cellNums, (!inMask s.bal.lEnable k || decide ((s.begin.switches.cell k).remain = 0) || (s.begin.switches.cell k).excluded) = true := by
    intro k hk
    obtain ⟨i, hi, rfl⟩ := List.mem_map.mp hk
    have := List.mem_range.mp hi
    have hremain : (s.begin.switches.cell (i + 1)).remain = (s.cell (i + 1)).remain := switches_remain (s := s.begin) hlen (by omega) (by omega)
    rw [hremain]
    cases hin : inMask s.bal.lEnable (i + 1) with
    | false => rfl
    | true => simp [hnone (i + 1) hk hin]
  have hbalS : s.begin.switches.bal = s.bal := hsw .bal (by decide)
  generalize s.begin.switches = w at *
  have hdone : w.balanceDone = ({ w with bal := { w.bal with fn := .stopped, last := 2, allowed := 0, suspHalt := false } } : State).switches := by
    refine if_pos (Bool.and_eq_true_iff.mpr ⟨by rw [hbalS, hfn]; rfl, List.all_eq_true.mpr fun k hk => ?_⟩)
    rw [hbalS]
    exact hall k hk
  obtain ⟨honlyD, -, -⟩ := balanceDone_settles w
  have hbal : w.balanceDone.bal = { s.bal with fn := .stopped, last := 2, allowed := 0, suspHalt := false } := by
    rw [hdone, switches_only _ .bal (by decide), hbalS]
  generalize w.balanceDone = x at *
  have honly : s.begin.onlyChanges [.reply, .out, .bal, .cells] x := only_step honlyD (only_one hsw)
  exact ⟨_, hexec, hbal, next_only honly⟩

/-- Settles O37: START refused and honoured, STOP and STOPPED, the slots, and a timer's end. -/
theorem balanceFunction : Obligations.BalanceFunction := by
  unfold Obligations.BalanceFunction
  intro s n m cont hreach hlen
  exact ⟨balanceStart_refused hreach, balanceStart_answer hreach hlen, balanceStop_answer hreach hlen, balanceStopped_answer hreach,
    governorSlot_answer hreach, governorSlot_idle hreach, balanceTimerExpire_goes_on hreach hlen, balanceTimerExpire_completes hreach hlen⟩

end Sys2Proof.Machine
end

section
/-!
A proof round of a device whose identity names more than three tiers (05 R123): the tier temperatures are three.
-/
namespace Sys2Proof.Machine

-- one proof at a time: these proofs share the equations of the operations they unfold
set_option Elab.async false

/-- A device in QUIET that says it has four tiers. -/
def fourTiers : State := { State.reset with mode.mode := .quiet, ident.tiers := 4 }

/-- A round that reads 1 °C on tier 4. -/
def fourthRead : ProofRead := { samples := [], mirrors := [], refUv := [], vreg := [], temps := [0, 0, 0, 100], lost := false }

theorem fourTiers_reads : (stateAfter (.proofRound fourthRead) fourTiers).sweep.tierTemp.getD 3 none = none := by
  decide +kernel

/-- Refutes O38: the round of `fourTiers` gives no temperature of tier 4, which works and whose slot was not lost. -/
theorem not_proofPath : ¬ Obligations.ProofPath := by
  intro h
  obtain ⟨hround, -⟩ := h fourTiers fourthRead 1 4 0 [] (by decide +kernel) (by decide +kernel)
  obtain ⟨t, hexec, -, -, -, -, -, -, -, htemp, -⟩ := hround (by decide +kernel) (by decide) (by decide)
  have hsome := htemp (by decide +kernel) (by decide +kernel) (by decide +kernel)
  have hnone := fourTiers_reads
  rw [stateAfter_of_next hexec, show (3 : Nat) = 4 - 1 from rfl, hsome] at hnone
  exact absurd hnone (by decide)

end Sys2Proof.Machine
end

section
/-!
A job of kind HARVEST that is admitted while a harvest waits for its slot (06 R155, R156): it gives the harvest the slot and joins no deque.
-/
namespace Sys2Proof.Machine

-- one proof at a time: these proofs share the equations of the operations they unfold
set_option Elab.async false

/-- A device in QUIET with a harvest of TAG 0 open. -/
def harvesting : State := { State.reset with
  mode.mode := .quiet
  glean.harvests := [{ tag := 0, up := none, req := .paramRead 0 1, src := 0, pos := 0, depth := 0, kids := [], lastPend := 0, tResp := 0
                       slot := none, todo := [], collecting := false }] }

theorem harvesting_queues_none : ((stateAfter (.jobAdmission .harvest 0) harvesting).gleaner 0).deque = [] := by
  decide +kernel

/-- Refutes O40: the job admitted in `harvesting` joins no deque. -/
theorem not_jobsAndHarvestTimers : ¬ Obligations.JobsAndHarvestTimers := by
  intro h
  obtain ⟨hjobs, -⟩ := h
  obtain ⟨hadmit, -⟩ := hjobs harvesting .harvest 0 0 224 0 0 0 default default (by decide +kernel) (by decide +kernel)
  have hexec := hadmit (by decide +kernel) (by decide) rfl (by decide +kernel) (by decide +kernel) (by decide +kernel)
  have hnone := harvesting_queues_none
  rw [stateAfter_of_next hexec] at hnone
  exact absurd hnone (by decide +kernel)

end Sys2Proof.Machine
end

section
/-!
The flush of a device none of whose ports sends: what waits stays waiting (07 R188), and a capture whose frames wait stays (06 R175).
-/
namespace Sys2Proof.Machine

-- one proof at a time: these proofs share the equations of the operations they unfold
set_option Elab.async false

/-! ### Ports that do not send -/

/-- No port sends. -/
def State.silent (s : State) : Prop := ∀ q ∈ s.ports, q.sends = false

/-- The scheduler's counters of some ports may have changed, all else stays. -/
def State.recounted (s t : State) : Prop :=
  s.onlyChanges [.ports] t ∧ t.ports.map (fun q => (q.sends, q.txq.bulk, q.held)) = s.ports.map (fun q => (q.sends, q.txq.bulk, q.held))

theorem recounted_refl (s : State) : s.recounted s := ⟨only_refl _ s, rfl⟩

theorem recounted_trans {s t u : State} (h : s.recounted t) (k : t.recounted u) : s.recounted u :=
  ⟨only_trans h.1 k.1, k.2.trans h.2⟩

theorem silent_iff (s : State) : s.silent ↔ ∀ x ∈ s.ports.map (fun q => (q.sends, q.txq.bulk, q.held)), x.1 = false := by
  simp [State.silent]

theorem silent_of_recounted {s t : State} (h : s.silent) (k : s.recounted t) : t.silent := by
  rw [silent_iff, k.2, ← silent_iff]
  exact h

theorem updAt_map_same {α β : Type} (l : List α) (i : Nat) {f : α → α} {g : α → β} (h : ∀ x, g (f x) = g x) : (updAt l i f).map g = l.map g := by
  unfold updAt
  split
  · rename_i x hx
    rw [List.map_set, h]
    obtain ⟨hi, rfl⟩ := List.getElem?_eq_some_iff.mp hx
    refine List.ext_getElem (by simp) fun j hj _ => ?_
    by_cases hij : i = j
    · subst hij; simp
    · simp [List.getElem_set_ne hij]
  · rfl

theorem sends_of_silent {s : State} (h : s.silent) (p : Nat) : (s.port p).sends = false := by
  unfold State.port
  by_cases hp : p < s.ports.length
  · rw [List.getD_eq_getElem _ _ hp]
    exact h _ (List.getElem_mem hp)
  · rw [List.getD_eq_default _ _ (Nat.not_lt.mp hp)]
    decide

theorem pumpOne_recounted {s : State} (h : s.silent) (p : Nat) : s.recounted (s.pumpOne p) := by
  unfold State.pumpOne
  extract_lets q t ready fits size go
  have hsend (f : Frame) : q.canSend f = false := by
    unfold PortSt.canSend
    rw [show q.sends = false from sends_of_silent h p]
    rfl
  have hready (l : List QFrame) : ready l = false := by
    unfold ready
    split
    · exact hsend _
    · rfl
  have hfits (l : List QFrame) (d : Nat) : fits l d = false := by
    unfold fits
    split
    · rw [hsend]; rfl
    · rfl
  clear_value ready fits
  rw [hready, hfits, hfits, hfits]
  exact ⟨updPort_only s p _, updAt_map_same s.ports p fun _ => rfl⟩

theorem iter_recounted {f : State → State} (hf : ∀ u : State, u.silent → u.recounted (f u)) (n : Nat) {s : State} (h : s.silent) :
    s.recounted (iter f n s) := by
  induction n generalizing s with
  | zero => exact recounted_refl s
  | succ n ih => exact recounted_trans (hf s h) (ih (silent_of_recounted h (hf s h)))

theorem foldl_recounted {α : Type} {f : State → α → State} (hf : ∀ (u : State) (a : α), u.silent → u.recounted (f u a)) (l : List α) {s : State}
    (h : s.silent) : s.recounted (l.foldl f s) := by
  induction l generalizing s with
  | nil => exact recounted_refl s
  | cons a l ih => exact recounted_trans (hf s a h) (ih (silent_of_recounted h (hf s a h)))

theorem giveCredit_of_silent {s : State} (h : s.silent) (p : Nat) : s.giveCredit p = s := by
  unfold State.giveCredit
  dsimp only
  exact if_pos (by rw [sends_of_silent h p]; simp)

theorem pumps_recounted {s : State} (h : s.silent) : s.recounted ([0, 1, 2, 3].foldl State.giveCredit ([0, 1, 2, 3].foldl State.pump s)) := by
  have hpump : s.recounted ([0, 1, 2, 3].foldl State.pump s) :=
    foldl_recounted (fun u p hu => iter_recounted (fun v hv => pumpOne_recounted hv p) _ hu) _ h
  refine recounted_trans hpump (foldl_recounted (fun u p hu => ?_) _ (silent_of_recounted h hpump))
  rw [giveCredit_of_silent hu]
  exact recounted_refl u

/-! ### A capture whose frames wait -/

/-- A frame of the device's own of the exposure's TAG waits. -/
def State.holdsPiece (s : State) (tag : Nat) : Bool :=
  s.ports.any (fun q => (q.txq.bulk ++ q.held).any (fun x => x.frame.cls = 3 && x.frame.tag = tag && x.src.isNone))

theorem holdsPiece_of_recounted {s t : State} {tag : Nat} (h : s.recounted t) : t.holdsPiece tag = s.holdsPiece tag := by
  have hany (u : State) : u.holdsPiece tag = (u.ports.map (fun q => (q.sends, q.txq.bulk, q.held))).any
      (fun y => (y.2.1 ++ y.2.2).any (fun x => x.frame.cls = 3 && x.frame.tag = tag && x.src.isNone)) := by
    simp [State.holdsPiece, List.any_map, Function.comp_def]
  rw [hany, hany, h.2]

/-- The capture stays while its frames wait, and the flush changes the counters of the ports alone. -/
theorem flush_of_silent {s : State} (h : s.silent) (hwaits : s.holdsPiece s.expo.tag = true) :
    s.onlyChanges [.ports] s.flush := by
  have hpumps := pumps_recounted h
  have hfree : s.flush = [0, 1, 2, 3].foldl State.giveCredit ([0, 1, 2, 3].foldl State.pump s) := by
    unfold State.flush
    generalize [0, 1, 2, 3].foldl State.giveCredit ([0, 1, 2, 3].foldl State.pump s) = t at hpumps ⊢
    have hexpo : t.expo = s.expo := hpumps.1 .expo (by decide)
    have hholds : t.holdsPiece t.expo.tag = true := by rw [holdsPiece_of_recounted hpumps, hexpo, hwaits]
    refine if_neg fun hc => ?_
    have hnot := (Bool.and_eq_true_iff.mp hc).2
    rw [show t.ports.any (fun q => (q.txq.bulk ++ q.held).any (fun x => x.frame.cls = 3 && x.frame.tag = t.expo.tag && x.src.isNone)) = true from hholds] at hnot
    exact absurd hnot (by decide)
  rw [hfree]
  exact hpumps.1

theorem updAt_any_mono {α : Type} {P : α → Bool} {f : α → α} (hf : ∀ x, P x = true → P (f x) = true) {l : List α} (i : Nat) (h : l.any P = true) :
    (updAt l i f).any P = true := by
  obtain ⟨x, hx, hP⟩ := List.any_eq_true.mp h
  obtain ⟨j, hj, rfl⟩ := List.getElem_of_mem hx
  refine List.any_eq_true.mpr ?_
  by_cases hij : i = j
  · subst hij
    exact ⟨f l[i], by simp [updAt, hj, List.mem_set], hf _ hP⟩
  · refine ⟨l[j], ?_, hP⟩
    have hget : (updAt l i f)[j]? = some l[j] := by
      unfold updAt
      split
      · rw [List.getElem?_set_ne hij, List.getElem?_eq_getElem hj]
      · exact List.getElem?_eq_getElem hj
    exact List.mem_of_getElem? hget

theorem updAt_any_at {α : Type} {P : α → Bool} {f : α → α} {l : List α} {i : Nat} (hi : i < l.length) (h : P (f l[i]) = true) :
    (updAt l i f).any P = true :=
  List.any_eq_true.mpr ⟨f l[i], by simp [updAt, hi, List.mem_set], h⟩

theorem enqueue_holdsPiece {s : State} {tag : Nat} (p : Nat) (x : QFrame) (h : s.holdsPiece tag = true) : (s.enqueue p x).holdsPiece tag = true := by
  refine updAt_any_mono (fun q hq => ?_) p h
  split
  · rw [List.any_append, Bool.or_eq_true] at hq ⊢
    exact hq.imp_right fun hheld => by rw [List.any_append, hheld]; rfl
  · dsimp only
    split
    · exact hq
    · split
      · exact hq
      · split
        · exact hq
        · rw [List.any_append, Bool.or_eq_true] at hq ⊢
          exact hq.imp_left fun hbulk => by rw [List.any_append, hbulk]; rfl

theorem sendTo_holdsPiece {s : State} {tag : Nat} (f : Frame) (h : s.holdsPiece tag = true) : (s.sendTo f).holdsPiece tag = true := by
  unfold State.sendTo
  split
  · exact enqueue_holdsPiece _ _ h
  · exact h

theorem enqueue_silent {s : State} (p : Nat) (x : QFrame) (h : s.silent) : (s.enqueue p x).silent := by
  refine forall_mem_updAt h fun q hq => ?_
  split <;> exact h q hq

theorem sendTo_silent {s : State} (f : Frame) (h : s.silent) : (s.sendTo f).silent := by
  unfold State.sendTo
  split
  · exact enqueue_silent _ _ h
  · exact h

/-- A frame of CLASS 3 that leaves by a port without a link joins those that wait there. -/
theorem sendTo_holds {s : State} {p : Nat} {f : Frame} (hroute : s.route f.dest = .out p) (hp : p < s.ports.length)
    (hdown : ∀ q ∈ s.ports, q.link = .down) (hcls : f.cls = 3) : (s.sendTo f).holdsPiece f.tag = true := by
  unfold State.sendTo State.enqueue
  rw [hroute]
  dsimp only
  refine updAt_any_at hp ?_
  rw [if_neg (by rw [hdown _ (List.getElem_mem hp)]; simp)]
  simp [hcls]

/-- The pieces of a block wait at the port toward the ROOT. -/
theorem sendBytes_holds {s : State} {p tag : Nat} {bs : List Byte} (hroute : s.route 0 = .out p) (hp : p < s.ports.length)
    (hdown : ∀ q ∈ s.ports, q.link = .down) (hbs : bs ≠ []) : (s.sendBytes 3 tag bs).silent ∧ (s.sendBytes 3 tag bs).holdsPiece tag = true := by
  have hsilent : s.silent := fun q hq => by simp [PortSt.sends, hdown q hq]
  obtain ⟨b, rest, hpieces⟩ : ∃ b rest, pieces (bs.length / 256 + 1) bs = b :: rest :=
    ⟨_, _, if_neg (by simpa [List.isEmpty_iff] using hbs)⟩
  have hfold (l : List (List Byte)) (g : State → List Byte → Frame) (u : State) (hu : u.silent) (hh : u.holdsPiece tag = true) :
      (l.foldl (fun s pl => s.sendTo (g s pl)) u).silent ∧ (l.foldl (fun s pl => s.sendTo (g s pl)) u).holdsPiece tag = true := by
    induction l generalizing u with
    | nil => exact ⟨hu, hh⟩
    | cons a l ih => exact ih _ (sendTo_silent _ hu) (sendTo_holdsPiece _ hh)
  unfold State.sendBytes State.sendBytesTo
  rw [hpieces, List.foldl_cons]
  exact hfold rest _ _ (sendTo_silent _ hsilent) (sendTo_holds (f := { typ := 7, cls := 3, hasScope := false, dest := 0, src := s.tree.pos, depth := 0, tag := tag, payload := b }) hroute hp hdown rfl)

end Sys2Proof.Machine
end

section
/-!
Exposures: the trip by a threshold, the freeze, and the deadline without a trigger (06 R172–R176).
-/
namespace Sys2Proof.Machine

-- one proof at a time: these proofs share the equations of the operations they unfold
set_option Elab.async false

variable {s : State} {x : Sample} {p t0 : Nat}

/-! ### The trip -/

theorem thresholdTrip_of_trip (harmed : s.expo.state = .armed) (htrip : s.expo.trip = some t0) (hown : s.expo.own = false)
    (hring : s.expo.ring = [x]) (hmeets : s.meets x = true) :
    s.thresholdTrip = { s with expo := { s.expo with conflict := true } } := by
  unfold State.thresholdTrip
  rw [if_neg (by rw [harmed]; decide), hring, List.find?_cons_of_pos hmeets]
  dsimp only
  rw [if_pos (by rw [htrip]; rfl), hown, Bool.not_false, Bool.or_true]

theorem thresholdTrip_of_below (hring : s.expo.ring = [x]) (hmeets : s.meets x = false) : s.thresholdTrip = s := by
  unfold State.thresholdTrip
  rw [hring, List.find?_cons_of_neg (by simp [hmeets]), List.find?_nil]
  split <;> rfl

theorem expoCapture_expo (s : State) : s.expoCapture.expo = s.expo ∨ s.expoCapture.expo = { s.expo with state := .capturing } := by
  unfold State.expoCapture
  split
  · split
    · exact .inr rfl
    · exact .inl rfl
  · exact .inl rfl

theorem expoCapture_only (s : State) : s.onlyChanges [.expo] s.expoCapture := by
  unfold State.expoCapture
  split
  · exact only_ite (only_expo s _) (only_refl _ s)
  · exact only_refl _ s

theorem sendTrip_only (s : State) (t : Nat) : s.onlyChanges [.ports, .tree] (s.sendTrip t) :=
  only_ite (spread_only s _ _) (only_one (sendTo_only s _))

theorem thresholdTrip_trips (harmed : s.expo.state = .armed) (htrip : s.expo.trip = none) (hring : s.expo.ring = [x]) (hmeets : s.meets x = true) :
    s.onlyChanges [.expo, .ports, .tree] s.thresholdTrip ∧ s.thresholdTrip.expo.trip = some x.t ∧ s.thresholdTrip.expo.own = true
      ∧ (s.thresholdTrip.expo.state = .armed ∨ s.thresholdTrip.expo.state = .capturing) ∧ s.thresholdTrip.expo.ring = [x] := by
  have htrips : s.thresholdTrip = ({ s with expo := { s.expo with trip := some x.t, own := true } } : State).expoCapture.sendTrip x.t := by
    unfold State.thresholdTrip
    rw [if_neg (by rw [harmed]; decide), hring, List.find?_cons_of_pos hmeets]
    dsimp only
    rw [if_neg (by rw [htrip]; decide)]
  rw [htrips]
  generalize hu : ({ s with expo := { s.expo with trip := some x.t, own := true } } : State) = u
  have hU : s.onlyChanges [.expo] u := hu ▸ only_expo s _
  have hexpo : u.expo = { s.expo with trip := some x.t, own := true } := by rw [← hu]
  have hcap := expoCapture_only u
  have hcases := expoCapture_expo u
  generalize u.expoCapture = v at *
  have hsend := sendTrip_only v x.t
  have hexpoW : (v.sendTrip x.t).expo = v.expo := hsend .expo (by decide)
  refine ⟨only_step hsend (only_step hcap (only_one hU)), ?_⟩
  rw [hexpoW]
  rcases hcases with h | h
  · rw [h, hexpo]
    exact ⟨rfl, rfl, .inl harmed, hring⟩
  · rw [h, hexpo]
    exact ⟨rfl, rfl, .inr rfl, hring⟩

theorem pending_self {t : State} {l : List Instr} (h : t.pending = l) : { t with pending := l } = t := by rw [← h]

theorem exposureThresholdTrip_next (hcore : s.coreRuns = true) :
    exec .exposureThresholdTrip s = .next { s.begin.thresholdTrip.flush with pending := s.pending } :=
  (runCoreL_of_runs hcore).trans (runL_next_eq rfl)

theorem exposureThresholdTrip_trips (hcore : s.coreRuns = true) (harmed : s.expo.state = .armed) (htrip : s.expo.trip = none)
    (hring : s.expo.ring = [x]) (hmeets : s.meets x = true) :
    ∃ t, exec .exposureThresholdTrip s = .next t ∧ t.expo.trip = some x.t ∧ t.expo.own = true
      ∧ (t.expo.state = .armed ∨ t.expo.state = .capturing) ∧ t.expo.ring = [x]
      ∧ s.onlyChanges [.reply, .out, .expo, .ports, .host, .glean, .tree] t := by
  have hexec := exposureThresholdTrip_next hcore
  obtain ⟨honly, htripU, hownU, hstate, hringU⟩ := thresholdTrip_trips (s := s.begin) harmed htrip hring hmeets
  generalize s.begin.thresholdTrip = u at *
  have hexpo : u.flush.expo = u.expo := flush_expo (by rcases hstate with h | h <;> rw [h] <;> decide)
  have hparts : s.onlyChanges [.reply, .out, .expo, .ports, .host, .glean, .tree] { u.flush with pending := s.pending } := nextL_only (only_one honly)
  rw [← hexpo] at htripU hownU hstate hringU
  generalize u.flush = w at *
  exact ⟨_, hexec, htripU, hownU, hstate, hringU, hparts⟩

/-! ### The segment -/

/-- The exposure with a segment to deliver. -/
def State.toDeliver (s : State) (bs : List Byte) : State := { s with expo := { s.expo with state := .delivering, segment := bs } }

theorem toDeliver_only (s : State) (bs : List Byte) : s.onlyChanges [.expo] (s.toDeliver bs) := only_expo s _

theorem deliverSegment_of_not_root (hroot : s.isRoot = false) (bs : List Byte) :
    s.deliverSegment bs = (s.toDeliver bs).sendBytes 3 s.expo.tag bs :=
  if_neg (c := s.isRoot = true) (by rw [hroot]; decide)

theorem deliverSegment_of_root (hroot : s.isRoot = true) (bs : List Byte) :
    s.deliverSegment bs = { (s.toDeliver bs).blockIn s.expo.tag s.tree.pos (segmentMark bs) bs with
      expo := { ((s.toDeliver bs).blockIn s.expo.tag s.tree.pos (segmentMark bs) bs).expo with state := .idle, ring := [], segment := [] } } :=
  if_pos (c := s.isRoot = true) hroot

theorem deliverSegment_waits {bs : List Byte} (hroot : s.isRoot = false) (hroute : s.route 0 = .out p) (hp : p < 4) (hlen : s.ports.length = 4)
    (hdown : ∀ q ∈ s.ports, q.link = .down) (hbs : bs ≠ []) :
    s.onlyChanges [.expo, .ports] (s.deliverSegment bs).flush
      ∧ (s.deliverSegment bs).flush.expo = { s.expo with state := .delivering, segment := bs } := by
  have hU := toDeliver_only s bs
  have hexpo : (s.toDeliver bs).expo = { s.expo with state := .delivering, segment := bs } := rfl
  have hrouteU : (s.toDeliver bs).route 0 = .out p := hroute
  have hports : (s.toDeliver bs).ports = s.ports := rfl
  rw [deliverSegment_of_not_root hroot]
  generalize s.toDeliver bs = u at *
  obtain ⟨hsilent, hholds⟩ := sendBytes_holds (tag := s.expo.tag) hrouteU (by rw [hports]; omega) (by rw [hports]; exact hdown) hbs
  have hsend : u.onlyChanges [.ports] (u.sendBytes 3 s.expo.tag bs) := sendBytes_only u 3 _ bs
  have hexpoV : (u.sendBytes 3 s.expo.tag bs).expo = u.expo := hsend .expo (by decide)
  generalize u.sendBytes 3 s.expo.tag bs = v at *
  have hflush := flush_of_silent hsilent (by rw [hexpoV, hexpo]; exact hholds)
  exact ⟨only_step hflush (only_step hsend (only_one hU)), (hflush .expo (by decide)).trans (hexpoV.trans hexpo)⟩

/-- The segment of the capture. -/
def State.capturedBytes (s : State) : List Byte :=
  s.segmentBytes s.expoSamples false (s.expo.trip.getD 0) ((s.expoSamples.head?.map Sample.t).getD (s.expo.trip.getD 0))

theorem capturedBytes_of_trip (h : s.expo.trip = some t0) :
    s.capturedBytes = s.segmentBytes s.expoSamples false t0 ((s.expoSamples.head?.map Sample.t).getD t0) := by
  unfold State.capturedBytes
  rw [h, Option.getD_some]

theorem capturedBytes_toDeliver (s : State) (bs : List Byte) : (s.begin.toDeliver bs).capturedBytes = s.capturedBytes := rfl

theorem buildSegment_eq (s : State) : s.buildSegment = s.deliverSegment s.capturedBytes := rfl

theorem freeze_delivers (hstate : s.expo.state = .capturing) (htrip : s.expo.trip = some t0) (hring : s.expo.ring = [x]) (hlast : s.expoLast t0 ≤ x.t)
    (hplain : bit s.expo.plan.options 0 = false) : s.freeze = (s.toDeliver []).deliverSegment (s.toDeliver []).capturedBytes := by
  unfold State.freeze
  rw [htrip, hring]
  dsimp only [List.getLast?_singleton]
  rw [if_pos (by simp only [hstate, decide_true, Bool.true_and, decide_eq_true_eq]; exact hlast), if_pos (by rw [hplain]; rfl)]
  exact buildSegment_eq (s.toDeliver [])

theorem exposureFreeze_delivers (hcore : s.coreRuns = true) (hstate : s.expo.state = .capturing) (htrip : s.expo.trip = some t0)
    (hring : s.expo.ring = [x]) (hlast : s.expoLast t0 ≤ x.t) (hplain : bit s.expo.plan.options 0 = false) (hroot : s.isRoot = false)
    (hroute : s.route 0 = .out p) (hp : p < 4) (hlen : s.ports.length = 4) (hdown : ∀ q ∈ s.ports, q.link = .down)
    (hbs : s.segmentBytes s.expoSamples false t0 ((s.expoSamples.head?.map Sample.t).getD t0) ≠ []) :
    ∃ t, exec .exposureFreeze s = .next t ∧ t.expo.state = .delivering
      ∧ t.expo.segment = s.segmentBytes s.expoSamples false t0 ((s.expoSamples.head?.map Sample.t).getD t0)
      ∧ s.onlyChanges [.reply, .out, .expo, .ports, .host] t := by
  have hU := toDeliver_only s.begin []
  have hfreeze := freeze_delivers (s := s.begin) hstate htrip hring hlast hplain
  rw [capturedBytes_toDeliver, capturedBytes_of_trip htrip] at hfreeze
  generalize s.segmentBytes s.expoSamples false t0 ((s.expoSamples.head?.map Sample.t).getD t0) = bs at *
  obtain ⟨honly, hexpo⟩ := deliverSegment_waits (s := s.begin.toDeliver []) hroot hroute hp hlen hdown hbs
  have hexec : exec .exposureFreeze s = .next { s.begin.freeze.flush with pending := s.pending } := (runCoreL_of_runs hcore).trans (runL_next_eq rfl)
  rw [hfreeze] at hexec
  generalize ((s.begin.toDeliver []).deliverSegment bs).flush = w at *
  generalize s.begin.toDeliver [] = u at *
  have hparts : s.begin.onlyChanges [.reply, .out, .expo, .ports, .host] w := only_step honly (only_one hU)
  exact ⟨_, hexec, (congrArg ExpoSt.state hexpo :), (congrArg ExpoSt.segment hexpo :), next_only hparts⟩

/-! ### The deadline -/

theorem at_append_middle (a b c : List Byte) : at_ (a ++ (b ++ c)) a.length b.length = ofLe b := by
  have hlen : a.length + b.length ≤ (a ++ (b ++ c)).length := by simp
  rw [at_, slice_of_le hlen, List.drop_left, List.take_left]

/-- A segment without a trigger says so, and has no samples. -/
theorem segmentBytes_noTrigger (s : State) (v w : Nat) : s.segmentBytes [] true v w ≠ [] ∧ bit (at_ (s.segmentBytes [] true v w) 6 2) 1 = true
    ∧ at_ (s.segmentBytes [] true v w) 0x18 2 = 0 := by
  unfold State.segmentBytes withCrc
  dsimp only
  generalize put s.tree.pos 0 18 + put s.mode.mode.code 18 4 + put 3 24 8 = word
  simp only [List.any_nil, List.append_assoc, List.length_nil]
  refine ⟨by simp [le], ?_, ?_⟩
  · rw [← List.append_assoc (le 4 word)]
    refine (congrArg (fun k => bit k 1) (at_append_middle (le 4 word ++ le 2 s.expo.tag) (le 2 _) _)).trans ?_
    rw [ofLe_le]
    cases bit s.expo.plan.options 0 <;> cases s.expo.conflict <;> cases s.expo.own <;> decide
  · rw [← List.append_assoc (le 4 word), ← List.append_assoc (le 4 word ++ le 2 s.expo.tag), ← List.append_assoc (_ ++ le 2 _) (le 8 v),
      ← List.append_assoc (_ ++ le 8 v) (le 8 w)]
    exact (at_append_middle (((le 4 word ++ le 2 s.expo.tag) ++ le 2 _) ++ le 8 v ++ le 8 w) (le 2 0) _).trans (ofLe_le 2 0)

theorem deliverSegment_settles (s : State) (bs : List Byte) : s.onlyChanges [.expo, .host, .ports] (s.deliverSegment bs)
    ∧ (s.deliverSegment bs).expo.trip = s.expo.trip ∧ (s.deliverSegment bs).expo.state ≠ .armed := by
  have hU := toDeliver_only s bs
  have hexpo : (s.toDeliver bs).expo = { s.expo with state := .delivering, segment := bs } := rfl
  cases hroot : s.isRoot with
  | true =>
    rw [deliverSegment_of_root hroot]
    generalize s.toDeliver bs = u at *
    have hblock := blockIn_only u s.expo.tag s.tree.pos (segmentMark bs) bs
    generalize u.blockIn s.expo.tag s.tree.pos (segmentMark bs) bs = v at *
    refine ⟨only_step (only_expo _ _) (only_step hblock (only_one hU)), ?_, by simp⟩
    dsimp only
    rw [hblock .expo (by decide), hexpo]
  | false =>
    rw [deliverSegment_of_not_root hroot]
    generalize s.toDeliver bs = u at *
    have hsend : u.onlyChanges [.ports] (u.sendBytes 3 s.expo.tag bs) := sendBytes_only u 3 _ bs
    have hexpoV : (u.sendBytes 3 s.expo.tag bs).expo = u.expo := hsend .expo (by decide)
    refine ⟨only_step hsend (only_one hU), ?_, ?_⟩ <;> simp [hexpoV, hexpo]

theorem freeExposure_expo (s : State) : s.freeExposure.expo = s.expo ∨ s.freeExposure.expo = { s.expo with state := .idle, ring := [], segment := [] } := by
  unfold State.freeExposure
  dsimp only
  split
  · exact .inr rfl
  · exact .inl rfl

theorem flush_expo_cases (s : State) : s.flush.expo = s.expo ∨ s.flush.expo = { s.expo with state := .idle, ring := [], segment := [] } := by
  have hexpo := pumps_expo s
  have hcases := freeExposure_expo ([0, 1, 2, 3].foldl State.giveCredit ([0, 1, 2, 3].foldl State.pump s))
  rw [hexpo] at hcases
  exact hcases

theorem exposureArmDeadline_answer (hcore : s.coreRuns = true) (harmed : s.expo.state = .armed) (htrigger : s.expo.plan.trigger ≠ 0)
    (htrip : s.expo.trip = none) (hdue : s.expo.plan.time ≤ s.clk.tt) :
    ∃ t, exec .exposureArmDeadline s = .next t ∧ t.free = s.free + 2 ∧ t.expo.trip = none ∧ t.expo.state ≠ .armed
      ∧ (s.isRoot = false → s.route 0 = .out p → p < 4 → s.ports.length = 4 → (∀ q ∈ s.ports, q.link = .down) →
        t.expo.state = .delivering
          ∧ t.expo.segment = s.segmentBytes [] true (Config.freeWord s.free).toNat (Config.freeWord (s.free + 1)).toNat
          ∧ bit (at_ t.expo.segment 6 2) 1 = true ∧ at_ t.expo.segment 0x18 2 = 0)
      ∧ s.onlyChanges [.reply, .out, .expo, .ports, .glean, .free, .host] t := by
  generalize hu : s.begin.took.took = u
  have hU : s.begin.onlyChanges [.free] u := hu ▸ only_free s.begin _
  have hfree : u.free = s.free + 2 := by rw [← hu]; rfl
  have hexpoU : u.expo = s.expo := by rw [← hu]; rfl
  have hseg : u.segmentBytes [] true (Config.freeWord s.free).toNat (Config.freeWord (s.free + 1)).toNat
      = s.segmentBytes [] true (Config.freeWord s.free).toNat (Config.freeWord (s.free + 1)).toNat := by rw [← hu]; rfl
  have hno : s.begin.noTrigger = u.deliverSegment (s.segmentBytes [] true (Config.freeWord s.free).toNat (Config.freeWord (s.free + 1)).toNat) := by
    rw [← hseg, ← hu]
    unfold State.noTrigger
    dsimp only
    rw [if_pos (by simp only [State.begin, State.now, harmed, htrip, hdue, Option.isNone_none, decide_true, Bool.and_true, Bool.true_and]; exact bne_iff_ne.mpr htrigger)]
    rfl
  have hexec : exec .exposureArmDeadline s = .next { s.begin.noTrigger.flush with pending := s.pending } := (runCoreL_of_runs hcore).trans (runL_next_eq rfl)
  rw [hno] at hexec
  obtain ⟨hnonempty, hbit, hzero⟩ := segmentBytes_noTrigger s (Config.freeWord s.free).toNat (Config.freeWord (s.free + 1)).toNat
  generalize s.segmentBytes [] true (Config.freeWord s.free).toNat (Config.freeWord (s.free + 1)).toNat = bs at *
  have hwait (hroot : s.isRoot = false) (hroute : s.route 0 = .out p) (hp : p < 4) (hlen : s.ports.length = 4) (hdown : ∀ q ∈ s.ports, q.link = .down) :
      (u.deliverSegment bs).flush.expo = { s.expo with state := .delivering, segment := bs } := by
    rw [← hexpoU]
    exact (deliverSegment_waits (s := u) (by rw [← hu]; exact hroot) (by rw [← hu]; exact hroute) hp (by rw [← hu]; exact hlen)
      (by rw [← hu]; exact hdown) hnonempty).2
  obtain ⟨honly, htripV, hstateV⟩ := deliverSegment_settles u bs
  generalize u.deliverSegment bs = v at *
  have hparts : s.onlyChanges [.reply, .out, .expo, .ports, .glean, .free, .host] { v.flush with pending := s.pending } :=
    nextL_only (only_step honly (only_one hU))
  have hfreeV : v.flush.free = s.free + 2 := (flush_free v).trans ((honly .free (by decide)).trans hfree)
  have hcases := flush_expo_cases v
  generalize v.flush = w at *
  rw [hexpoU, htrip] at htripV
  refine ⟨_, hexec, hfreeV, ?_, ?_, fun hroot hroute hp hlen hdown => ?_, hparts⟩
  · rcases hcases with h | h
    · exact (congrArg ExpoSt.trip h).trans htripV
    · exact (congrArg ExpoSt.trip h).trans htripV
  · rcases hcases with h | h
    · exact fun hw => hstateV ((congrArg ExpoSt.state h).symm.trans hw)
    · exact fun hw => ExpoState.noConfusion ((congrArg ExpoSt.state h).symm.trans hw)
  · have hw := hwait hroot hroute hp hlen hdown
    change w.expo.state = _ ∧ w.expo.segment = _ ∧ bit (at_ w.expo.segment 6 2) 1 = true ∧ at_ w.expo.segment 0x18 2 = 0
    rw [hw]
    exact ⟨rfl, rfl, hbit, hzero⟩

/-- Settles O41: the trip, the conflict, an output below the threshold, the freeze, and the deadline. -/
theorem exposuresTripFreezeAndExpire : Obligations.ExposuresTripFreezeAndExpire := by
  unfold Obligations.ExposuresTripFreezeAndExpire
  intro s x p t0 hcore
  refine ⟨exposureThresholdTrip_trips hcore, fun harmed htrip hown hring hmeets => ?_, fun harmed htrip hring hmeets => ?_,
    exposureFreeze_delivers hcore, exposureArmDeadline_answer hcore⟩
  · have hexec := exposureThresholdTrip_next hcore
    rw [thresholdTrip_of_trip (s := s.begin) harmed htrip hown hring hmeets] at hexec
    exact hexec.trans (congrArg Host.Outcome.next (pending_self (flush_only _ .pending (by decide))))
  · have hexec := exposureThresholdTrip_next hcore
    rw [thresholdTrip_of_below (s := s.begin) hring hmeets] at hexec
    exact hexec.trans (congrArg Host.Outcome.next (pending_self (flush_only _ .pending (by decide))))

end Sys2Proof.Machine
end

section
/-!
A PARAM_READ of VRES samples it (17 R438, 13 R365): the word shows the sample, not what the word held.
-/
namespace Sys2Proof.Machine

-- one proof at a time: these proofs share the equations of the operations they unfold
set_option Elab.async false

/-- A device in QUIET whose last sample of VRES differs from the one that comes next. -/
@[irreducible] def staleVres : State := { State.reset with
  mode.mode := .quiet, power.vresMv := ((Config.freeWord State.reset.free).toNat + 1) % 4096 }

/-- A read of VRES alone shows the sample that it takes. -/
theorem actRead_vres {s : State} (h : s.readStatus 0xB0C 1 = stOk) :
    (s.actRead none 0xB0C 1).reply.map Reply.words = some [put s.power.vcv 0 1 + put (s.fresh % 4096) 16 12]
      ∧ (s.actRead none 0xB0C 1).mode = s.mode := by
  have hread : s.paramRead 0xB0C 1 = (stOk, ((s.sampled [0xB0C]).readAll [0xB0C]).1, ((s.sampled [0xB0C]).readAll [0xB0C]).2) := by
    unfold State.paramRead
    exact if_pos h
  unfold State.actRead
  rw [hread]
  exact ⟨rfl, rfl⟩

/-- What the word held before the read shows another sample. -/
theorem readAll_vres (s : State) : (s.readAll (wordAddrs 0xB0C 1)).1 = [put s.power.vcv 0 1 + put s.power.vresMv 16 12] := rfl

/-- A device that answers and has no host carries out a request that no comparator holds. -/
theorem request_acts {s : State} {h : Hdr} {r : Req} (hreach : s.reachable = true) (hhost : s.hasHost = false)
    (hargs : argsOk r = true) (hvalid : reqValid r = true) (hfree : (accesses r).findSome? (fun x => s.breakAt 2 x.1 x.2) = none) :
    s.request h r = s.actNow none 0 s.tree.pos 0 none r := by
  unfold State.request State.act
  rw [hreach, hhost, hargs, hvalid, hfree]
  rfl

theorem actNow_paramRead {s : State} {src pos a n : Nat} (h : s.mode.mode ≠ .lockout) :
    s.actNow none src pos 0 none (.paramRead a n) = s.actRead none a n := by
  unfold State.actNow
  rw [if_neg (not_lockoutRefuses h)]
  rfl

theorem put_succ_ne (v n : Nat) : put v 0 1 + put (n % 4096) 16 12 ≠ put v 0 1 + put ((n + 1) % 4096) 16 12 := by
  unfold put
  omega

theorem staleVres_reads (h : Hdr) : (stateAfter (.paramRead h 0xB0C 1) staleVres).reply.map Reply.words
    = some [put staleVres.power.vcv 0 1 + put ((Config.freeWord State.reset.free).toNat % 4096) 16 12] := by
  obtain ⟨hsample, hmode⟩ := actRead_vres (s := staleVres.begin) (by decide +kernel)
  have hreq : staleVres.begin.request h (.paramRead 0xB0C 1) = staleVres.begin.actRead none 0xB0C 1 :=
    (request_acts (by decide +kernel) (by decide +kernel) (by decide +kernel) (by decide +kernel) (by decide +kernel)).trans
      (actNow_paramRead (by decide +kernel))
  have hship : (staleVres.begin.actRead none 0xB0C 1).mode.shipDue = false := by
    rw [hmode]
    decide +kernel
  have hexec : exec (.paramRead h 0xB0C 1) staleVres = _ :=
    runS_next (f := fun s => s.request h (.paramRead 0xB0C 1)) hreq hship
  have hfresh : staleVres.begin.fresh = (Config.freeWord State.reset.free).toNat := by
    unfold staleVres
    rfl
  have hreply := flush_reply (staleVres.begin.actRead none 0xB0C 1)
  generalize staleVres.begin.actRead none 0xB0C 1 = u at *
  rw [stateAfter_of_next hexec]
  dsimp only
  rw [hreply, hsample, hfresh]
  rfl

/-- Refutes O42: the word that a PARAM_READ of VRES gives in `staleVres` is not the one that it held. -/
theorem not_registerAccess : ¬ Obligations.RegisterAccess := by
  intro hall
  obtain ⟨hread, -⟩ := hall staleVres default 0 0xB0C 1 [] (by decide +kernel) (by decide +kernel) (by decide +kernel) (by decide +kernel)
  obtain ⟨t, hexec, hwords, -⟩ := hread (by decide +kernel) (by decide +kernel) (by decide +kernel)
  rw [readAll_vres] at hwords
  have hreply := staleVres_reads default
  have hheld : staleVres.power.vresMv = ((Config.freeWord State.reset.free).toNat + 1) % 4096 := by
    unfold staleVres
    rfl
  rw [stateAfter_of_next hexec, hwords] at hreply
  dsimp only [State.power] at hreply
  have hword := (List.cons.inj (Option.some.inj hreply.symm)).1
  rw [show ({ staleVres with reply := none, out := [] } : State).power = staleVres.power from rfl, hheld] at hword
  exact put_succ_ne _ _ hword

end Sys2Proof.Machine
end

section
/-!
A FLASH_COMMIT while the data flash is being erased (16 R411, 11 R316): its own erase waits, and the watchdog's suspension goes on unchanged.
-/
namespace Sys2Proof.Machine

-- one proof at a time: these proofs share the equations of the operations they unfold
set_option Elab.async false

/-- A device in QUIET that has been erasing a sector of the data flash since wall time 0. -/
def erasingData : State := { State.reset with mode.mode := .quiet, clk.wall := 5, flash.erases := [.data], wdog.erasing := some 0 }

theorem erasingData_keeps : (stateAfter (.flashCommit default 512 0) erasingData).wdog.erasing = some 0 := by
  decide +kernel

/-- Refutes O43: the commit of `erasingData` does not restart the time of the erase, as the clause of FLASH_COMMIT says. -/
theorem not_descriptorsBeginTheirWork : ¬ Obligations.DescriptorsBeginTheirWork := by
  intro h
  obtain ⟨-, -, -, hcommit, -⟩ := h erasingData default default default 0 0 0 512 0 0 0 0 0 0 [] (by decide +kernel) (by decide +kernel) (by decide +kernel)
  obtain ⟨t, hexec, -, -, -, -, -, -, hwdog, -⟩ := hcommit (by decide) (by decide +kernel) (by decide +kernel) (by decide) (by decide) (by decide)
  have hkeeps := erasingData_keeps
  rw [stateAfter_of_next hexec, hwdog] at hkeeps
  exact absurd hkeeps (by decide)

end Sys2Proof.Machine
end

section
/-!
The Grenpa wire (15): the bits of its cells, the operations, and what a device without a host answers to them.
-/
namespace Sys2Proof.Machine

-- one proof at a time: these proofs share the equations of the operations they unfold
set_option Elab.async false

/-! ### The flush of a device without a host -/

theorem not_root_of_hostless {s : State} (h : s.hasHost = false) : s.isRoot = false := by
  unfold State.hasHost at h
  rw [Bool.or_eq_false_iff] at h
  unfold State.isRoot State.hasHost
  rw [h.1, h.2]
  rfl

theorem isRoot_of_only {s t : State} {ps : List Part} (h : s.onlyChanges ps t) (hi : Part.ident ∉ ps := by decide) (ht : Part.tree ∉ ps := by decide) :
    t.isRoot = s.isRoot := by
  have hident : t.ident = s.ident := h .ident hi
  have htree : t.tree = s.tree := h .tree ht
  unfold State.isRoot State.hasHost
  rw [hident, htree]

/-- The parts that sending changes on a device that is not the ROOT. -/
def sendParts : List Part := [.ports, .glean, .out]

theorem stampProbe_of_not_root {s : State} (h : s.isRoot = false) (f : Frame) : s.stampProbe f = s := by
  unfold State.stampProbe
  exact if_pos (by rw [h, Bool.not_false, Bool.or_true])

theorem sendNow_only_of_not_root {s : State} (h : s.isRoot = false) (p : Nat) (x : QFrame) : s.onlyChanges sendParts (s.sendNow p x) := by
  have hstamp := stampTime_only s p x.frame
  unfold State.sendNow
  dsimp only
  rw [stampProbe_of_not_root ((isRoot_of_only hstamp).trans h)]
  refine only_step (emit_only _ _) ?_
  generalize (s.stampTime p x.frame).1 = f at *
  generalize (s.stampTime p x.frame).2 = t at *
  have hbit : s.onlyChanges sendParts (t.crierBit p).2 := only_step (crierBit_only _ p) (only_one hstamp)
  generalize (t.crierBit p).2 = v at *
  split
  · exact only_ite (only_step (updPort_only _ _ _) hbit) (only_step (updPort_only _ _ _) (only_step (updPort_only _ _ _) hbit))
  · exact only_step (updPort_only _ _ _) hbit

theorem pumpOne_only_of_not_root {s : State} (h : s.isRoot = false) (p : Nat) : s.onlyChanges sendParts (s.pumpOne p) := by
  unfold State.pumpOne
  extract_lets q t ready fits size go
  have hgo (l : List QFrame) (f : TxQueues → TxQueues) : s.onlyChanges sendParts (go l f) := by
    cases l with
    | nil => exact only_refl _ s
    | cons x l =>
      exact only_step (sendNow_only_of_not_root ((isRoot_of_only (updPort_only s p _)).trans h) p x) (only_one (updPort_only s p _))
  clear_value go ready fits size
  refine only_ite (hgo _ _) (only_ite (hgo _ _) (only_ite (hgo _ _) (only_ite (hgo _ _) ?_)))
  exact only_one (updPort_only s _ _)

theorem giveCredit_only_of_not_root {s : State} (h : s.isRoot = false) (p : Nat) : s.onlyChanges sendParts (s.giveCredit p) := by
  unfold State.giveCredit
  dsimp only
  refine only_ite (only_refl _ s) ?_
  refine only_step (sendNow_only_of_not_root ((isRoot_of_only (updPort_only s p _)).trans h) p _) (only_one (updPort_only s p _))

theorem foldl_only_of_not_root {α : Type} {f : State → α → State} (hf : ∀ (u : State) (a : α), u.isRoot = false → u.onlyChanges sendParts (f u a))
    (l : List α) {s : State} (h : s.isRoot = false) : s.onlyChanges sendParts (l.foldl f s) := by
  induction l generalizing s with
  | nil => exact only_refl _ s
  | cons a l ih => exact only_trans (hf s a h) (ih ((isRoot_of_only (hf s a h)).trans h))

theorem iter_only_of_not_root {f : State → State} (hf : ∀ u : State, u.isRoot = false → u.onlyChanges sendParts (f u)) (n : Nat) {s : State}
    (h : s.isRoot = false) : s.onlyChanges sendParts (iter f n s) := by
  induction n generalizing s with
  | zero => exact only_refl _ s
  | succ n ih => exact only_trans (hf s h) (ih ((isRoot_of_only (hf s h)).trans h))

/-- A device that is not the ROOT notes no PROBE of its own. -/
theorem flush_only_of_not_root {s : State} (h : s.isRoot = false) : s.onlyChanges (.expo :: sendParts) s.flush := by
  have hpump : s.onlyChanges sendParts ([0, 1, 2, 3].foldl State.pump s) :=
    foldl_only_of_not_root (fun u p hu => iter_only_of_not_root (fun v hv => pumpOne_only_of_not_root hv p) _ hu) _ h
  have hcredit := foldl_only_of_not_root (fun u p hu => giveCredit_only_of_not_root hu p) [0, 1, 2, 3] ((isRoot_of_only hpump).trans h)
  exact only_step (freeExposure_only _) (only_step hcredit (only_one hpump))

theorem quiet_port {s : State} (h : s.quiet = true) (p : Nat) : (s.port p).txq.safety = [] ∧ (s.port p).txq.control = []
    ∧ (s.port p).txq.data = [] ∧ (s.port p).txq.bulk = [] ∧ (s.port p).owed.isZero = true := by
  by_cases hp : p < s.ports.length
  · have hmem : s.port p ∈ s.ports := by
      rw [State.port, List.getD_eq_getElem _ _ hp]
      exact List.getElem_mem hp
    have hall := List.all_eq_true.mp h _ hmem
    simp only [Bool.and_eq_true, List.isEmpty_iff] at hall
    obtain ⟨⟨⟨⟨hs, hc⟩, hd⟩, hb⟩, ho⟩ := hall
    exact ⟨hs, hc, hd, hb, ho⟩
  · rw [State.port, List.getD_eq_default _ _ (Nat.not_lt.mp hp)]
    decide

theorem pump_of_quiet {s : State} (h : s.quiet = true) (p : Nat) : s.pump p = s := by
  obtain ⟨hs, hc, hd, hb, -⟩ := quiet_port h p
  unfold State.pump
  dsimp only
  rw [hs, hc, hd, hb]
  rfl

theorem giveCredit_of_quiet {s : State} (h : s.quiet = true) (p : Nat) : s.giveCredit p = s := by
  obtain ⟨-, -, -, -, ho⟩ := quiet_port h p
  unfold Four.isZero at ho
  unfold State.giveCredit
  refine if_pos (Bool.or_eq_true_iff.mpr (.inl ?_))
  dsimp only
  split
  · simp only [Bool.and_eq_true] at ho
    simp [Four.isZero, ho.1]
  · exact ho

/-- Where nothing waits for a port and none owes credits, nothing is sent. -/
theorem flush_of_quiet {s : State} (h : s.quiet = true) : s.flush = s.freeExposure := by
  unfold State.flush
  simp only [List.foldl_cons, List.foldl_nil, pump_of_quiet h, giveCredit_of_quiet h]

/-! ### The bits of the cells (R391) -/

theorem length_bitsOf (bs : List Byte) : (bitsOf bs).length = 8 * bs.length := by
  induction bs with
  | nil => rfl
  | cons b bs ih =>
    rw [bitsOf, List.flatMap_cons, List.length_append, ← bitsOf, ih]
    simp
    omega

theorem ofBits_append (a b : List Bool) : ofBits (a ++ b) = ofBits a + 2 ^ a.length * ofBits b := by
  induction a with
  | nil => simp [ofBits]
  | cons x a ih =>
    rw [List.cons_append, ofBits, ofBits, ih, List.length_cons, pow_succ]
    ring

theorem ofBits_byte (b : Byte) : ofBits ((List.range 8).map b.toNat.testBit) = b.toNat := by
  revert b
  decide +kernel

theorem le_ofBits_bitsOf (bs : List Byte) : le bs.length (ofBits (bitsOf bs)) = bs := by
  induction bs with
  | nil => rfl
  | cons b bs ih =>
    have hbits : bitsOf (b :: bs) = (List.range 8).map b.toNat.testBit ++ bitsOf bs := rfl
    have hb := b.isLt
    rw [List.length_cons, le, hbits, ofBits_append, ofBits_byte]
    have hdiv : (b.toNat + 2 ^ ((List.range 8).map b.toNat.testBit).length * ofBits (bitsOf bs)) / 256 = ofBits (bitsOf bs) := by
      simp
      omega
    rw [hdiv, ih]
    congr 1
    refine BitVec.eq_of_toNat_eq ?_
    simp
    omega

/-- What one accessory alone sends reads back as its bits. -/
theorem cellBits_of_one (bits : List Bool) : cellBits (bits.map (fun b => sentCell [b])) = some bits := by
  induction bits with
  | nil => rfl
  | cons b bits ih =>
    cases b with
    | false => exact congrArg (Option.map (false :: ·)) ih
    | true => exact congrArg (Option.map (true :: ·)) ih

theorem sentCells_of_one (bits : List Bool) : sentCells bits.length [bits] = bits.map (fun b => sentCell [b]) := by
  refine List.ext_getElem (by simp [sentCells]) fun i h _ => ?_
  have hi : i < bits.length := by simpa [sentCells] using h
  simp [sentCells, hi]

theorem withCrc8_length (bs : List Byte) : (withCrc8 bs).length = bs.length + 1 := by
  rw [withCrc8, List.length_append, le_length]

theorem cellBytes_of_one (bs : List Byte) : cellBytes (sentCells (8 * bs.length) [bitsOf bs]) = some bs := by
  have hcells := sentCells_of_one (bitsOf bs)
  rw [length_bitsOf] at hcells
  rw [cellBytes, hcells, cellBits_of_one, List.length_map, length_bitsOf, Option.map_some, Nat.mul_div_cancel_left _ (by decide), le_ofBits_bitsOf]

/-- An accessory alone in its slot is accepted. -/
theorem readout_of_one {id : Nat} (h : id < 2 ^ 48) : readout (sentCells 56 [bitsOf (withCrc8 (le 6 id))]) = some id := by
  have hlen : (withCrc8 (le 6 id)).length = 7 := by rw [withCrc8_length, le_length]
  have hcells := cellBytes_of_one (withCrc8 (le 6 id))
  rw [hlen] at hcells
  have htake : (withCrc8 (le 6 id)).take 6 = le 6 id := by
    rw [withCrc8, List.take_append_of_le_length (by rw [le_length]), List.take_of_length_le (by rw [le_length])]
  have hid : at_ (withCrc8 (le 6 id)) 0 6 = id := by
    rw [at_, slice_of_le (by omega), List.drop_zero, htake, ofLe_le]
    exact Nat.mod_eq_of_lt h
  unfold readout
  rw [hcells]
  dsimp only
  rw [htake, if_pos rfl, hid]

/-! ### A search with one accessory (R395–R398) -/

section
variable {bus : WireBus} {id k : Nat}

theorem readoutCells_of_one (r k : Nat) (hleaves : bus.leaves = []) (hnoise : bus.noise = []) :
    readoutCells bus r k [id] = sentCells 56 [bitsOf (withCrc8 (le 6 id))] := by
  simp [readoutCells, readoutBits, hleaves, hnoise]

/-- A slot that no accessory drew. -/
theorem lotterySlot_empty {r d : Nat} (t : Lottery) (h : d ≠ k) :
    lotterySlot bus r [(d, id)] t k = { t with sent := t.sent ++ [.gwRead 1] } := by
  unfold lotterySlot
  rw [List.filter_cons_of_neg (by simpa using h), List.filter_nil]
  exact if_pos rfl

/-- The slot that the accessory drew. -/
theorem lotterySlot_drawn {r : Nat} (t : Lottery) (hid : id < 2 ^ 48) (hleaves : bus.leaves = []) (hnoise : bus.noise = []) :
    lotterySlot bus r [(k, id)] t k = { t with
      left := t.left.filter (fun j => !([id] : List Nat).contains j), accepted := t.accepted ++ [id]
      sent := t.sent ++ [.gwRead 1] ++ [.gwRead 56, .gwWrite [true]] } := by
  unfold lotterySlot
  rw [List.filter_cons_of_pos (by simp), List.filter_nil]
  rw [List.map_cons, List.map_nil]
  dsimp only
  rw [List.map_cons, List.map_nil, if_neg (show ¬ (sentCell [false] != CellRead.zero) = true by decide), readoutCells_of_one r k hleaves hnoise, readout_of_one hid]

/-- Slots the accessory did not draw leave what was accepted. -/
theorem lotterySlots_others {r d : Nat} (l : List Nat) (t : Lottery) (h : ∀ k ∈ l, d ≠ k) :
    (l.foldl (lotterySlot bus r [(d, id)]) t).accepted = t.accepted ∧ (l.foldl (lotterySlot bus r [(d, id)]) t).last = t.last
      ∧ ∃ es, (l.foldl (lotterySlot bus r [(d, id)]) t).sent = t.sent ++ es := by
  induction l generalizing t with
  | nil => exact ⟨rfl, rfl, [], by simp⟩
  | cons k l ih =>
    obtain ⟨hacc, hlast, es, hsent⟩ := ih (lotterySlot bus r [(d, id)] t k) fun j hj => h j (List.mem_cons_of_mem _ hj)
    rw [lotterySlot_empty t (h k List.mem_cons_self)] at hacc hlast hsent
    rw [List.foldl_cons, lotterySlot_empty t (h k List.mem_cons_self)]
    exact ⟨hacc, hlast, .gwRead 1 :: es, by rw [hsent]; simp⟩

/-- A list of slots that holds the drawn one once. -/
theorem lotterySlots_of_one {r d : Nat} (a b : List Nat) (t : Lottery) (ha : ∀ k ∈ a, d ≠ k) (hb : ∀ k ∈ b, d ≠ k) (hid : id < 2 ^ 48)
    (hleaves : bus.leaves = []) (hnoise : bus.noise = []) :
    ((a ++ d :: b).foldl (lotterySlot bus r [(d, id)]) t).accepted = t.accepted ++ [id]
      ∧ ((a ++ d :: b).foldl (lotterySlot bus r [(d, id)]) t).last = t.last
      ∧ ∃ es, ((a ++ d :: b).foldl (lotterySlot bus r [(d, id)]) t).sent = t.sent ++ es := by
  rw [List.foldl_append, List.foldl_cons]
  obtain ⟨hacc, hlast, es, hsent⟩ := lotterySlots_others (bus := bus) (id := id) (r := r) a t ha
  generalize a.foldl (lotterySlot bus r [(d, id)]) t = u at *
  rw [lotterySlot_drawn u hid hleaves hnoise]
  generalize hv : ({ u with left := u.left.filter (fun j => !([id] : List Nat).contains j), accepted := u.accepted ++ [id]
                            sent := u.sent ++ [.gwRead 1] ++ [.gwRead 56, .gwWrite [true]] } : Lottery) = v
  have haccV : v.accepted = t.accepted ++ [id] := by rw [← hv, ← hacc]
  have hlastV : v.last = t.last := by rw [← hv, ← hlast]
  have hsentV : v.sent = t.sent ++ (es ++ [.gwRead 1] ++ [.gwRead 56, .gwWrite [true]]) := by rw [← hv, ← List.append_assoc, ← List.append_assoc, ← hsent]
  obtain ⟨hacc', hlast', es', hsent'⟩ := lotterySlots_others (bus := bus) (id := id) (r := r) b v hb
  exact ⟨hacc'.trans haccV, hlast'.trans hlastV, _, by rw [hsent', hsentV, List.append_assoc]⟩

theorem range_split {d n : Nat} (h : d < n) : ∃ a b, List.range n = a ++ d :: b ∧ (∀ k ∈ a, d ≠ k) ∧ ∀ k ∈ b, d ≠ k := by
  obtain ⟨a, b, hab⟩ := List.append_of_mem (List.mem_range.mpr h)
  have hnodup := List.nodup_range (n := n)
  rw [hab, List.nodup_append] at hnodup
  obtain ⟨-, hb, hne⟩ := hnodup
  exact ⟨a, b, hab, fun k hk => (hne k hk d List.mem_cons_self).symm, fun k hk heq => (List.nodup_cons.mp hb).1 (heq ▸ hk)⟩

/-- The first round of a search finds the one accessory on the bus. -/
theorem lotteryRound_of_one {t : Lottery} (seed : Nat) (hleft : t.left = [id]) (hid : id < 2 ^ 48) (hleaves : bus.leaves = []) (hnoise : bus.noise = []) :
    (lotteryRound bus 0 seed t).accepted = t.accepted ++ [id] ∧ (lotteryRound bus 0 seed t).last = 0
      ∧ ∃ es, (lotteryRound bus 0 seed t).sent = t.sent ++ .gwWrite (bitsOf (lotteryCmd 0 seed)) :: es := by
  have hhere : t.left.filter (fun id => !(bus.leaves.any (fun l => l.2.1 = id && decide (l.1 < 0)))) = [id] := by
    rw [hleft, hleaves]
    rfl
  unfold lotteryRound
  dsimp only
  rw [hhere, List.map_cons, List.map_nil]
  obtain ⟨a, b, hab, ha, hb⟩ := range_split (show drawSlot seed id < 64 from Nat.mod_lt _ (by decide))
  rw [hab]
  obtain ⟨hacc, hlast, es, hsent⟩ := lotterySlots_of_one (bus := bus) (r := 0) a b
    ({ t with left := [id], last := 0, sent := t.sent ++ [.gwWrite (bitsOf (lotteryCmd 0 seed))] }) ha hb hid hleaves hnoise
  exact ⟨hacc, hlast, es, by rw [hsent]; simp⟩

theorem wireSeed_of_fixed {s : State} (h : s.wire.lFixed = true) : s.wireSeed 0 = (s.wire.lSeed % 65536, s) := by
  unfold State.wireSeed
  rw [if_pos h, Nat.zero_mul, Nat.add_zero]

/-- A search whose seed is fixed, with one accessory on the bus, takes one round. -/
theorem wireRounds_of_one {s : State} {n : Nat} (hfixed : s.wire.lFixed = true) (hn : 1 ≤ n) (hid : id < 2 ^ 48) (hleaves : bus.leaves = [])
    (hnoise : bus.noise = []) :
    ∃ t es, State.wireRounds bus n 0 { left := [id], accepted := [], last := 0, sent := [] } s = (1, t, s) ∧ t.accepted = [id] ∧ t.last = 0
      ∧ t.sent = .gwWrite (bitsOf (lotteryCmd 0 (s.wire.lSeed % 65536))) :: es := by
  obtain ⟨m, rfl⟩ := Nat.exists_eq_add_of_le' hn
  obtain ⟨hacc, hlast, es, hsent⟩ := lotteryRound_of_one (bus := bus) (id := id) (t := { left := [id], accepted := [], last := 0, sent := [] })
    (s.wire.lSeed % 65536) rfl hid hleaves hnoise
  unfold State.wireRounds
  rw [wireSeed_of_fixed hfixed]
  dsimp only
  rw [if_pos hlast]
  exact ⟨_, es, rfl, hacc, hlast, hsent⟩

end

/-! ### Exchanges (R389, R401) -/

theorem busFault_of_none {t : WireTry} (h : t.fault = 0) (es : List OutEvt) : busFault t es = none := if_pos h

/-- Where the reset sequence meets no fault and an accessory answers, the exchange is the command and the answer. -/
theorem exchange_of_answer {t : WireTry} (hfault : t.fault = 0) (hpres : t.presence = true) (cmd : List Byte) (n : Nat) (good : List Byte → Bool)
    {bs : List Byte} (hbs : cellBytes (sampledCells (8 * n) t.cells) = some bs) (hgood : good bs = true) :
    exchange t cmd n good = (.gwReset :: .gwWrite (bitsOf cmd) :: (if n = 0 then [] else [.gwRead (8 * n)]), .answer bs) := by
  unfold exchange
  rw [if_neg (by simp [hfault]), if_neg (by rw [hpres]; decide)]
  dsimp only
  rw [busFault_of_none hfault, hbs]
  dsimp only
  rw [if_pos hgood]

theorem exchange_of_absent {t : WireTry} (hfault : t.fault = 0) (hpres : t.presence = false) (cmd : List Byte) (n : Nat) (good : List Byte → Bool) :
    exchange t cmd n good = ([.gwReset], .fault 6) := by
  unfold exchange
  rw [if_neg (by simp [hfault]), if_pos (by rw [hpres]; decide)]

theorem exchange_of_fault {t : WireTry} (hfault : 1 ≤ t.fault) (hafter : t.after = none) (cmd : List Byte) (n : Nat) (good : List Byte → Bool) :
    exchange t cmd n good = ([], .fault t.fault) := by
  unfold exchange
  exact if_pos (by rw [hafter, Option.isNone_none, Bool.and_true]; exact bne_iff_ne.mpr (by omega))

/-- The first exchange decides where it ends in an answer or a fault. -/
theorem wireTries_of_decided {s : State} {bus : WireBus} {cmd : List Byte} {n k : Nat} {good : List Byte → Bool} {es : List OutEvt} {e : WireEnd}
    (h : exchange (busTry bus 0) cmd n good = (es, e)) (he : e ≠ .nothing) :
    State.wireTries bus cmd n good (k + 1) 0 s = (e, s.emitAll es) := by
  unfold State.wireTries
  rw [h]
  exact if_neg he

/-! ### What an operation answers -/

theorem updWire_only (s : State) (f : WireSt → WireSt) : s.onlyChanges [.wire] (s.updWire f) := only_wire s _

theorem emitAll_only (s : State) (es : List OutEvt) : s.onlyChanges [.out] (s.emitAll es) := only_out s _

/-- The state of an operation that met a bus fault. -/
theorem wireFault_none (s : State) (code : Nat) : s.wireFault none code =
    ((s.updWire (fun w => { w with faultCode := code, spu := none, opTag := none, pulled := false })).raise 24 code).answer stCheckFail 0 [] [] := rfl

section
variable {s u : State} {h : Hdr} {r : Req} {i : Instr} {ps : List Part}

/-- The answer of a command that flushes the ports of a device without a host, by the state u of its effect. -/
theorem hostless_settles (hexec : exec i s = .next { u.flush with pending := s.pending }) (hhost : s.hasHost = false) (honly : s.begin.onlyChanges ps u)
    (hin : ∀ p ∈ ps, p ∈ [Part.reply, .out, .wire, .fault]) :
    ∃ t, exec i s = .next t ∧ s.onlyChanges (.reply :: .out :: .ports :: .glean :: .expo :: ps) t ∧ (s.quiet = true → t.out = u.out)
      ∧ t.wire = u.wire ∧ t.reply = u.reply ∧ t.fault = u.fault := by
  have hpart (p : Part) (hp : p ∉ [Part.reply, .out, .wire, .fault]) : p ∉ ps := fun hmem => hp (hin p hmem)
  have hroot : u.isRoot = false := (isRoot_of_only honly (hpart _ (by decide)) (hpart _ (by decide))).trans (not_root_of_hostless hhost)
  have hflush := flush_only_of_not_root hroot
  have hout (hquiet : s.quiet = true) : u.flush.out = u.out := by
    have hports : u.ports = s.ports := honly .ports (hpart _ (by decide))
    have hq : u.quiet = true := by
      unfold State.quiet
      rw [hports]
      exact hquiet
    rw [flush_of_quiet hq]
    exact freeExposure_only u .out (by decide)
  generalize u.flush = w at *
  have hparts : s.onlyChanges (.reply :: .out :: .ports :: .glean :: .expo :: ps) { w with pending := s.pending } := by
    refine next_only (only_step hflush (only_one honly fun p hp => ?_) fun p hp => ?_) fun p hp => ?_
    · simp [hp]
    · simp only [sendParts, List.mem_cons, List.not_mem_nil, or_false] at hp
      rcases hp with rfl | rfl | rfl | rfl <;> simp
    · simp only [List.mem_cons, List.not_mem_nil, or_false] at hp
      rcases hp with rfl | rfl <;> simp
  exact ⟨_, hexec, hparts, hout, hflush .wire (by decide), hflush .reply (by decide), hflush .fault (by decide)⟩

variable (hhost : s.hasHost = false) (hship : s.mode.shipDue = false) (hmode : s.mode.mode ∈ [.quiet, .run]) (hcore : s.coreRuns = true)
include hhost hship hmode hcore

omit hhost hship in
theorem wireReachable : s.reachable = true := by
  have hawake : s.awake = true := by
    unfold State.awake State.inMode
    simp only [List.mem_cons, List.not_mem_nil, or_false] at hmode
    rcases hmode with h | h <;> rw [h] <;> decide
  exact Bool.and_eq_true_iff.mpr ⟨hawake, hcore⟩

omit hhost hship hcore in
theorem not_lockout_of_working : s.mode.mode ≠ .lockout := by
  simp only [List.mem_cons, List.not_mem_nil, or_false] at hmode
  rcases hmode with h | h <;> rw [h] <;> decide

omit hhost hship hcore in
theorem awake_of_working : s.awake = true := by
  unfold State.awake State.inMode
  simp only [List.mem_cons, List.not_mem_nil, or_false] at hmode
  rcases hmode with h | h <;> rw [h] <;> decide

omit hhost hship hcore in
/-- Nothing refuses an operation of a running function whose bus is free. -/
theorem wireOp_of_free {entry : Option Nat} (f : State → State) (hfn : s.wire.fn = .running) (hspu : s.wire.spu = none)
    (hentry : ∀ k, entry = some k → k < s.wire.ids.length) : s.wireOp none entry f = f s := by
  have hrefusal : s.wireRefusal entry = none := by
    unfold State.wireRefusal
    rw [if_neg (by
      simp only [List.mem_cons, List.not_mem_nil, or_false] at hmode
      rw [hfn]
      unfold State.inMode
      rcases hmode with h | h <;> rw [h] <;> decide)]
    rw [if_neg (by
      cases entry with
      | none => exact Bool.false_ne_true
      | some k => simpa using hentry k rfl), if_neg (by rw [hspu]; decide)]
  unfold State.wireOp
  rw [hrefusal]

/-- A request of the wire at a device without a host, by the state u of what it does. -/
theorem wireRequest_settles (hrow : exec i s = runDesc h r s) (hargs : argsOk r = true) (hvalid : reqValid r = true) (hfree : accesses r = [])
    (hact : s.begin.actNow none 0 s.begin.tree.pos 0 none r = u) (honly : s.begin.onlyChanges ps u)
    (hin : ∀ p ∈ ps, p ∈ [Part.reply, .out, .wire, .fault]) :
    ∃ t, exec i s = .next t ∧ s.onlyChanges (.reply :: .out :: .ports :: .glean :: .expo :: ps) t ∧ (s.quiet = true → t.out = u.out)
      ∧ t.wire = u.wire ∧ t.reply = u.reply ∧ t.fault = u.fault := by
  have hreq : s.begin.request h r = u := (request_of_device (wireReachable (s := s.begin) hmode hcore) hhost hargs hvalid hfree).trans hact
  have hshipU : u.mode.shipDue = false := by
    rw [show u.mode = s.mode from honly .mode fun hmem => absurd (hin _ hmem) (by decide)]
    exact hship
  have hexec := hrow.trans (runS_next (f := fun s => s.request h r) hreq hshipU)
  exact hostless_settles hexec hhost honly hin

end

end Sys2Proof.Machine
end

section
/-!
What the Grenpa wire's commands answer (15 R386–R405).
-/
namespace Sys2Proof.Machine

-- one proof at a time: these proofs share the equations of the operations they unfold
set_option Elab.async false

variable {s : State} {h : Hdr} {bus : WireBus} {w n id i : Nat} {bs : List Byte} {y : Byte}

/-! ### The operations on a bus that answers -/

theorem wireConvert_pulls (hfault : (busTry bus 0).fault = 0) (hpres : (busTry bus 0).presence = true) :
    s.wireConvert none bus = (s.emitAll [.gwReset, .gwWrite (bitsOf [0x4E])]).pullUp none (300 * 20480) false := by
  unfold State.wireConvert
  dsimp only
  rw [exchange_of_answer hfault hpres convertCmd 0 _ (bs := []) (by simp [sampledCells, cellBytes, cellBits, le]) rfl]
  rfl

theorem wireConvert_absent (hfault : (busTry bus 0).fault = 0) (hpres : (busTry bus 0).presence = false) :
    s.wireConvert none bus = (s.emitAll [.gwReset]).wireFault none 6 := by
  unfold State.wireConvert
  dsimp only
  rw [exchange_of_absent hfault hpres]

theorem wireRead_reads (hid : s.wire.ids[i]? = some id) (hfault : (busTry bus 0).fault = 0) (hpres : (busTry bus 0).presence = true)
    (hlen : bs.length = n) (hcells : cellBytes (sampledCells (8 * (n + 1)) (busTry bus 0).cells) = some (withCrc8 bs)) :
    s.wireRead none i w n bus = (s.emitAll [.gwReset, .gwWrite (bitsOf (readCmd id w n)), .gwRead (8 * (n + 1))]).answer stOk 0 [] bs := by
  have htake : (withCrc8 bs).take n = bs := by
    rw [withCrc8, List.take_append_of_le_length (by omega), List.take_of_length_le (by omega)]
  unfold State.wireRead
  dsimp only
  rw [List.getD_eq_getElem?_getD, hid, Option.getD_some,
    wireTries_of_decided (exchange_of_answer hfault hpres (readCmd id w n) (n + 1) _ hcells (by rw [htake]; exact decide_eq_true rfl)) WireEnd.noConfusion]
  dsimp only
  rw [htake]
  rfl

theorem wireWrite_writes (hid : s.wire.ids[i]? = some id) (hfault : (busTry bus 0).fault = 0) (hpres : (busTry bus 0).presence = true)
    (hy : y ∈ [0xA5, 0x5A]) (hcells : cellBytes (sampledCells 8 (busTry bus 0).cells) = some [y]) :
    s.wireWrite none i w bs bus
      = (s.emitAll [.gwReset, .gwWrite (bitsOf (writeCmd id w bs)), .gwRead 8]).pullUp none (8 * 20480) (decide (y = 0x5A)) := by
  have hgood : ([y] = [0xA5] || [y] = [0x5A]) = true := by
    simpa using hy
  unfold State.wireWrite
  dsimp only
  rw [List.getD_eq_getElem?_getD, hid, Option.getD_some,
    wireTries_of_decided (exchange_of_answer (bs := [y]) hfault hpres (writeCmd id w bs) 1 _ hcells hgood) WireEnd.noConfusion]
  dsimp only
  rw [show decide ([y] = [0x5A]) = decide (y = 0x5A) by simp]
  rfl

theorem wireSearch_empty (hfault : (busTry bus 0).fault = 0) (hpres : (busTry bus 0).presence = false) :
    s.wireSearch none bus = ((s.emit .gwReset).updWire (fun w => { w with ids := [], rounds := 0, last := 4 })).wireDone none stOk 0 [] := by
  unfold State.wireSearch
  dsimp only
  rw [if_neg (by simp [hfault]), if_pos (by rw [hpres]; decide)]

/-- What the confirmation pass sends to the one accessory that was accepted. -/
def confirmEvents (id : Nat) : List OutEvt := [.gwReset, .gwWrite (bitsOf (confirmCmd id)), .gwRead 56]

theorem confirmPass_of_one {t : Lottery} {rounds : Nat} (hfault : (busTry bus 1).fault = 0) (hacc : t.accepted = [id]) (hlast : t.last = 0)
    (hconf : confirms bus id = true) :
    s.confirmPass none bus rounds t = ((s.emitAll (confirmEvents id)).updWire (fun w => { w with
      ids := [id], rounds := rounds, last := 2, dropped := 0 })).wireDone none stOk 1 [] := by
  unfold State.confirmPass
  dsimp only
  rw [hacc, List.mergeSort_singleton, List.filter_cons_of_pos hconf, List.filter_nil, busFault_of_none hfault, hlast]
  rfl

/-- A search that finds the one accessory on the bus. -/
theorem wireSearch_finds (hfixed : s.wire.lFixed = true) (hrounds : 1 ≤ s.wire.lRounds) (hfault : (busTry bus 0).fault = 0)
    (hpres : (busTry bus 0).presence = true) (hfault1 : (busTry bus 1).fault = 0) (hids : bus.ids = [id]) (hid : id < 2 ^ 48)
    (hleaves : bus.leaves = []) (hnoise : bus.noise = []) (hconf : confirms bus id = true) :
    ∃ es c, s.wireSearch none bus = ((s.emitAll ((.gwReset :: .gwWrite (bitsOf (lotteryCmd 0 (s.wire.lSeed % 65536))) :: es) ++ confirmEvents id)).updWire
      (fun w => { w with collisions := c, ids := [id], rounds := 1, last := 2, dropped := 0 })).wireDone none stOk 1 [] := by
  obtain ⟨t, es, hround, hacc, hlast, hsent⟩ := wireRounds_of_one (s := s) (bus := bus) hfixed hrounds hid hleaves hnoise
  unfold State.wireSearch
  dsimp only
  rw [if_neg (by simp [hfault]), if_neg (by rw [hpres]; decide), hids, hround]
  dsimp only
  rw [busFault_of_none hfault]
  dsimp only
  rw [confirmPass_of_one hfault1 hacc hlast hconf, hsent]
  refine ⟨es, sat 255 (s.wire.collisions + collidedIn (.gwReset :: .gwWrite (bitsOf (lotteryCmd 0 (s.wire.lSeed % 65536))) :: es)), ?_⟩
  unfold State.emitAll State.updWire
  dsimp only
  rw [List.append_assoc]

/-! ### A line fault (R403) -/

section
variable (hfault : 1 ≤ (busTry bus 0).fault) (hafter : (busTry bus 0).after = none)
include hfault hafter

theorem wireConvert_faults : s.wireConvert none bus = s.wireFault none (busTry bus 0).fault := by
  unfold State.wireConvert
  dsimp only
  rw [exchange_of_fault hfault hafter]
  exact congrArg (fun t : State => t.wireFault none (busTry bus 0).fault) (congrArg (fun o => { s with out := o }) (List.append_nil _))

theorem wireTries_faults (cmd : List Byte) (k : Nat) (good : List Byte → Bool) :
    State.wireTries bus cmd k good 2 0 s = (.fault (busTry bus 0).fault, s) := by
  rw [wireTries_of_decided (exchange_of_fault hfault hafter cmd k good) WireEnd.noConfusion]
  exact congrArg (Prod.mk _) (congrArg (fun o => { s with out := o }) (List.append_nil _))

theorem wireRead_faults (i w n : Nat) : s.wireRead none i w n bus = s.wireFault none (busTry bus 0).fault := by
  unfold State.wireRead
  dsimp only
  rw [wireTries_faults hfault hafter]

theorem wireWrite_faults (i w : Nat) (bs : List Byte) : s.wireWrite none i w bs bus = s.wireFault none (busTry bus 0).fault := by
  unfold State.wireWrite
  dsimp only
  rw [wireTries_faults hfault hafter]

theorem wireSearch_faults : s.wireSearch none bus = (s.updWire (fun w => { w with rounds := 0 })).wireFault none (busTry bus 0).fault := by
  unfold State.wireSearch
  dsimp only
  exact if_pos (by rw [hafter, Option.isNone_none, Bool.and_true]; exact bne_iff_ne.mpr (by omega))

end

/-! ### What they answer -/

/-- The parts that an operation of the wire changes. -/
def wireParts : List Part := [.reply, .out, .wire]

/-- The parts that an operation changes which meets a bus fault. -/
def faultParts : List Part := [.reply, .out, .wire, .fault]

/-- The state of an operation that met a bus fault: the code, the source 24 and the status. -/
def State.faulted (s : State) (code : Nat) : State := { s with
  wire := { s.wire with faultCode := code, spu := none, opTag := none, pulled := false }
  fault := { s.fault with evq := s.fault.evq ++ [{ id := 24, item := code, time := s.clk.tt, mode := s.mode.mode.code }] }
  reply := some { status := stCheckFail, value := 0, words := [], bytes := [] } }

theorem wireFault_of_awake {code : Nat} (hawake : s.awake = true) : s.wireFault none code = s.faulted code := by
  rw [wireFault_none, raise_of_awake (s := s.updWire _) hawake]
  rfl

theorem faulted_only (s : State) (code : Nat) : s.onlyChanges [.reply, .wire, .fault] (s.faulted code) := fun p hp => by
  cases p <;> first | rfl | exact absurd (by decide) hp

theorem pullUp_only (s : State) (len : Nat) (refused : Bool) : s.onlyChanges [.reply, .wire] (s.pullUp none len refused) :=
  only_step (updWire_only _ _) (only_one (answer_only s _ _ _ _))

theorem actNow_wire {r : Req} {entry : Option Nat} {f : State → State} (hmode : s.mode.mode ∈ [.quiet, .run])
    (hfn : s.wire.fn = .running) (hspu : s.wire.spu = none) (hentry : ∀ k, entry = some k → k < s.wire.ids.length)
    (hrow : s.mode.mode ≠ .lockout → s.actNow none 0 s.tree.pos 0 none r = s.wireOp none entry f) :
    s.actNow none 0 s.tree.pos 0 none r = f s :=
  (hrow (not_lockout_of_working hmode)).trans (wireOp_of_free hmode f hfn hspu hentry)

theorem lt_of_entry {l : List Nat} (h : l[i]? = some id) : ∀ k, some i = some k → k < l.length := fun k hk => by
  cases hk
  exact (List.getElem?_eq_some_iff.mp h).1

section
variable (hlock : s.mode.mode ≠ .lockout)
include hlock

theorem actNow_wireSearch : s.actNow none 0 s.tree.pos 0 none (.wireSearch bus) = s.wireOp none none (fun s => s.wireSearch none bus) := by
  unfold State.actNow
  rw [if_neg (not_lockoutRefuses hlock)]
  rfl

theorem actNow_wireReadIds : s.actNow none 0 s.tree.pos 0 none .wireReadIds = s.wireOp none none (fun s => s.wireDone none stOk 0 s.idBytes) := by
  unfold State.actNow
  rw [if_neg (not_lockoutRefuses hlock)]
  rfl

theorem actNow_wireConvert : s.actNow none 0 s.tree.pos 0 none (.wireConvert bus) = s.wireOp none none (fun s => s.wireConvert none bus) := by
  unfold State.actNow
  rw [if_neg (not_lockoutRefuses hlock)]
  rfl

theorem actNow_wireReadMem : s.actNow none 0 s.tree.pos 0 none (.wireReadMem i w n bus)
    = s.wireOp none (some i) (fun s => s.wireRead none i w n bus) := by
  unfold State.actNow
  rw [if_neg (not_lockoutRefuses hlock)]
  rfl

theorem actNow_wireWriteMem : s.actNow none 0 s.tree.pos 0 none (.wireWriteMem i w bs bus)
    = s.wireOp none (some i) (fun s => s.wireWrite none i w bs bus) := by
  unfold State.actNow
  rw [if_neg (not_lockoutRefuses hlock)]
  rfl

end

section
variable (hhost : s.hasHost = false) (hship : s.mode.shipDue = false) (hmode : s.mode.mode ∈ [.quiet, .run]) (hcore : s.coreRuns = true)
include hhost hship hmode hcore

theorem wireReadIds_answers (hfn : s.wire.fn = .running) (hspu : s.wire.spu = none) :
    ∃ t, exec (.wireReadIds h) s = .next t ∧ s.onlyChanges [.reply, .out, .ports, .glean, .expo] t
      ∧ t.reply = some { status := stOk, value := 0, words := [], bytes := s.idBytes } := by
  have hact := actNow_wire (s := s.begin) (entry := none) hmode hfn hspu (by simp) actNow_wireReadIds
  obtain ⟨t, hexec, hparts, -, -, hreply, -⟩ := wireRequest_settles (i := .wireReadIds h) (h := h) (ps := [.reply]) hhost hship hmode hcore rfl rfl
    rfl rfl hact (answer_only _ _ _ _ _) (by decide)
  exact ⟨t, hexec, only_one hparts, hreply⟩

theorem wireConvert_answers (hfn : s.wire.fn = .running) (hspu : s.wire.spu = none) (hfault : (busTry bus 0).fault = 0)
    (hpres : (busTry bus 0).presence = true) :
    ∃ t, exec (.wireConvert h bus) s = .next t ∧ s.onlyChanges [.reply, .out, .wire, .ports, .glean, .expo] t
      ∧ t.wire = { s.wire with spu := some (s.clk.wall, 300 * 20480), opTag := none, pulled := s.wire.lSpu, refused := false }
      ∧ (s.quiet = true → t.out = [.gwReset, .gwWrite (bitsOf [0x4E])]) ∧ (t.reply.map Reply.status) = some stOpen := by
  have hact := actNow_wire (s := s.begin) (entry := none) hmode hfn hspu (by simp) (actNow_wireConvert (bus := bus))
  rw [wireConvert_pulls hfault hpres] at hact
  obtain ⟨t, hexec, hparts, hout, hwire, hreply, -⟩ := wireRequest_settles (i := .wireConvert h bus) (h := h) (ps := wireParts) hhost hship hmode hcore
    rfl rfl rfl rfl hact (only_step (pullUp_only _ _ _) (only_one (emitAll_only _ _))) (by decide)
  exact ⟨t, hexec, only_one hparts, hwire, hout, congrArg (Option.map Reply.status) hreply⟩

theorem wireConvert_absentAnswer (hfn : s.wire.fn = .running) (hspu : s.wire.spu = none) (hfault : (busTry bus 0).fault = 0)
    (hpres : (busTry bus 0).presence = false) :
    ∃ t, exec (.wireConvert h bus) s = .next t ∧ t.wire.faultCode = 6 ∧ (t.reply.map Reply.status) = some stCheckFail
      ∧ t.fault.evq = s.fault.evq ++ [{ id := 24, item := 6, time := s.clk.tt, mode := s.mode.mode.code }] := by
  have hact := actNow_wire (s := s.begin) (entry := none) hmode hfn hspu (by simp) (actNow_wireConvert (bus := bus))
  rw [wireConvert_absent hfault hpres, wireFault_of_awake (s := s.begin.emitAll [.gwReset]) (awake_of_working hmode)] at hact
  obtain ⟨t, hexec, -, -, hwire, hreply, hevq⟩ := wireRequest_settles (i := .wireConvert h bus) (h := h) (ps := faultParts) hhost hship hmode hcore
    rfl rfl rfl rfl hact (only_step (faulted_only _ _) (only_one (emitAll_only _ _))) (by decide)
  exact ⟨t, hexec, congrArg WireSt.faultCode hwire, congrArg (Option.map Reply.status) hreply, congrArg FaultSt.evq hevq⟩

theorem wireReadMem_answers (hfn : s.wire.fn = .running) (hspu : s.wire.spu = none) (hid : s.wire.ids[i]? = some id) (hi : i ≤ 63)
    (hfault : (busTry bus 0).fault = 0) (hpres : (busTry bus 0).presence = true) (hn : 1 ≤ n) (hn32 : n ≤ 32) (hlen : bs.length = n)
    (hcells : cellBytes (sampledCells (8 * (n + 1)) (busTry bus 0).cells) = some (withCrc8 bs)) :
    ∃ t, exec (.wireReadMem h i w n bus) s = .next t ∧ s.onlyChanges [.reply, .out, .wire, .ports, .glean, .expo] t
      ∧ t.wire = s.wire ∧ (s.quiet = true → t.out = [.gwReset, .gwWrite (bitsOf (readCmd id w n)), .gwRead (8 * (n + 1))])
      ∧ t.reply = some { status := stOk, value := 0, words := [], bytes := bs } := by
  have hact := actNow_wire (s := s.begin) (entry := some i) hmode hfn hspu (lt_of_entry hid) (actNow_wireReadMem (w := w) (n := n) (bus := bus))
  rw [wireRead_reads (s := s.begin) hid hfault hpres hlen hcells] at hact
  obtain ⟨t, hexec, hparts, hout, hwire, hreply, -⟩ := wireRequest_settles (i := .wireReadMem h i w n bus) (h := h) (ps := wireParts) hhost hship hmode
    hcore rfl (by simp [argsOk, hi, hn, hn32]) rfl rfl hact (only_step (answer_only _ _ _ _ _) (only_one (emitAll_only _ _))) (by decide)
  exact ⟨t, hexec, only_one hparts, hwire, hout, hreply⟩

theorem wireWriteMem_answers (hfn : s.wire.fn = .running) (hspu : s.wire.spu = none) (hid : s.wire.ids[i]? = some id) (hi : i ≤ 63)
    (hfault : (busTry bus 0).fault = 0) (hpres : (busTry bus 0).presence = true) (hn : 1 ≤ bs.length) (hn32 : bs.length ≤ 32)
    (hy : y ∈ [0xA5, 0x5A]) (hcells : cellBytes (sampledCells 8 (busTry bus 0).cells) = some [y]) :
    ∃ t, exec (.wireWriteMem h i w bs bus) s = .next t ∧ s.onlyChanges [.reply, .out, .wire, .ports, .glean, .expo] t
      ∧ (s.quiet = true → t.out = [.gwReset, .gwWrite (bitsOf (writeCmd id w bs)), .gwRead 8])
      ∧ t.wire = { s.wire with
          spu := some (s.clk.wall, 8 * 20480), opTag := none, pulled := s.wire.lSpu, refused := decide (y = 0x5A) } := by
  have hact := actNow_wire (s := s.begin) (entry := some i) hmode hfn hspu (lt_of_entry hid) (actNow_wireWriteMem (w := w) (bs := bs) (bus := bus))
  rw [wireWrite_writes (s := s.begin) hid hfault hpres hy hcells] at hact
  obtain ⟨t, hexec, hparts, hout, hwire, -, -⟩ := wireRequest_settles (i := .wireWriteMem h i w bs bus) (h := h) (ps := wireParts) hhost hship hmode
    hcore rfl (by simp [argsOk, hi, hn, hn32]) rfl rfl hact (only_step (pullUp_only _ _ _) (only_one (emitAll_only _ _))) (by decide)
  exact ⟨t, hexec, only_one hparts, hout, hwire⟩

theorem wireSearch_emptyAnswer (hfn : s.wire.fn = .running) (hspu : s.wire.spu = none) (hfault : (busTry bus 0).fault = 0)
    (hpres : (busTry bus 0).presence = false) :
    ∃ t, exec (.wireSearch h bus) s = .next t ∧ t.wire = { s.wire with ids := [], rounds := 0, last := 4 }
      ∧ (s.quiet = true → t.out = [.gwReset])
      ∧ t.reply = some { status := stOk, value := 0, words := [], bytes := [] } ∧ s.onlyChanges [.reply, .out, .wire, .ports, .glean, .expo] t := by
  have hact := actNow_wire (s := s.begin) (entry := none) hmode hfn hspu (by simp) (actNow_wireSearch (bus := bus))
  rw [wireSearch_empty hfault hpres] at hact
  obtain ⟨t, hexec, hparts, hout, hwire, hreply, -⟩ := wireRequest_settles (i := .wireSearch h bus) (h := h) (ps := wireParts) hhost hship hmode hcore
    rfl rfl rfl rfl hact (only_step (answer_only _ _ _ _ _) (only_step (updWire_only _ _) (only_one (emit_only _ _)))) (by decide)
  exact ⟨t, hexec, hwire, hout, hreply, only_one hparts⟩

theorem wireSearch_findsAnswer (hfn : s.wire.fn = .running) (hspu : s.wire.spu = none) (hfixed : s.wire.lFixed = true) (hrounds : 1 ≤ s.wire.lRounds)
    (hfault : (busTry bus 0).fault = 0) (hpres : (busTry bus 0).presence = true) (hfault1 : (busTry bus 1).fault = 0) (hids : bus.ids = [id])
    (hid : id < 2 ^ 48) (hleaves : bus.leaves = []) (hnoise : bus.noise = []) (hconf : confirms bus id = true) :
    ∃ t, exec (.wireSearch h bus) s = .next t ∧ t.wire.ids = [id] ∧ t.wire.rounds = 1 ∧ t.wire.last = 2 ∧ t.wire.dropped = 0
      ∧ (s.quiet = true → t.out.take 2 = [.gwReset, .gwWrite (bitsOf (lotteryCmd 0 (s.wire.lSeed % 65536)))]
          ∧ t.out.drop (t.out.length - 3) = [.gwReset, .gwWrite (bitsOf (confirmCmd id)), .gwRead 56])
      ∧ t.reply = some { status := stOk, value := 1, words := [], bytes := [] } ∧ s.onlyChanges [.reply, .out, .wire, .ports, .glean, .expo] t := by
  have hact := actNow_wire (s := s.begin) (entry := none) hmode hfn hspu (by simp) (actNow_wireSearch (bus := bus))
  obtain ⟨es, c, hsearch⟩ := wireSearch_finds (s := s.begin) hfixed hrounds hfault hpres hfault1 hids hid hleaves hnoise hconf
  rw [hsearch] at hact
  obtain ⟨t, hexec, hparts, hout, hwire, hreply, -⟩ := wireRequest_settles (i := .wireSearch h bus) (h := h) (ps := wireParts) hhost hship hmode hcore
    rfl rfl rfl rfl hact (only_step (answer_only _ _ _ _ _) (only_step (updWire_only _ _) (only_one (emitAll_only _ _)))) (by decide)
  refine ⟨t, hexec, congrArg WireSt.ids hwire, congrArg WireSt.rounds hwire, congrArg WireSt.last hwire, congrArg WireSt.dropped hwire,
    fun hquiet => ?_, hreply, only_one hparts⟩
  have houtE : t.out = (.gwReset :: .gwWrite (bitsOf (lotteryCmd 0 (s.wire.lSeed % 65536))) :: es) ++ confirmEvents id := hout hquiet
  rw [houtE]
  refine ⟨rfl, ?_⟩
  rw [List.length_append, show (confirmEvents id).length = 3 from rfl, Nat.add_sub_cancel, List.drop_left]
  rfl

theorem wireFault_answers {r : Req} {c : Instr} {u : State} (hrow : exec c s = runDesc h r s) (hargs : argsOk r = true) (hvalid : reqValid r = true)
    (hfree : accesses r = []) {code : Nat} (hact : s.begin.actNow none 0 s.begin.tree.pos 0 none r = u.wireFault none code)
    (hu : s.begin.onlyChanges [.wire] u) (hids : u.wire.ids = s.wire.ids) :
    ∃ t, exec c s = .next t ∧ t.wire.faultCode = code ∧ (t.reply.map Reply.status) = some stCheckFail ∧ t.wire.ids = s.wire.ids
      ∧ t.fault.evq = s.fault.evq ++ [{ id := 24, item := code, time := s.clk.tt, mode := s.mode.mode.code }] := by
  have hmodeU : u.mode = s.mode := hu .mode (by decide)
  have hclk : u.clk = s.clk := hu .clk (by decide)
  have hfaultU : u.fault = s.fault := hu .fault (by decide)
  rw [wireFault_of_awake (awake_of_working (by rw [hmodeU]; exact hmode))] at hact
  obtain ⟨t, hexec, -, -, hwire, hreply, hevq⟩ := wireRequest_settles (i := c) (h := h) (ps := faultParts) hhost hship hmode hcore hrow hargs hvalid
    hfree hact (only_step (faulted_only _ _) (only_one hu)) (by decide)
  refine ⟨t, hexec, congrArg WireSt.faultCode hwire, congrArg (Option.map Reply.status) hreply, (congrArg WireSt.ids hwire).trans hids, ?_⟩
  rw [hevq, ← hfaultU, ← hclk, ← hmodeU]
  rfl

theorem wire_faultAnswers (hfn : s.wire.fn = .running) (hspu : s.wire.spu = none) (hfault : 1 ≤ (busTry bus 0).fault)
    (hafter : (busTry bus 0).after = none) (hid : s.wire.ids[i]? = some id) (hi : i ≤ 63) (hn : 1 ≤ n) (hn32 : n ≤ 32) (hb : 1 ≤ bs.length)
    (hb32 : bs.length ≤ 32) :
    ∀ c ∈ ([.wireSearch h bus, .wireConvert h bus, .wireReadMem h i w n bus, .wireWriteMem h i w bs bus] : List Instr),
      ∃ t, exec c s = .next t ∧ t.wire.faultCode = (busTry bus 0).fault ∧ (t.reply.map Reply.status) = some stCheckFail ∧ t.wire.ids = s.wire.ids
        ∧ t.fault.evq = s.fault.evq ++ [{ id := 24, item := (busTry bus 0).fault, time := s.clk.tt, mode := s.mode.mode.code }] := by
  intro c hc
  simp only [List.mem_cons, List.not_mem_nil, or_false] at hc
  rcases hc with rfl | rfl | rfl | rfl
  · have hact := actNow_wire (s := s.begin) (entry := none) hmode hfn hspu (by simp) (actNow_wireSearch (bus := bus))
    exact wireFault_answers (h := h) hhost hship hmode hcore rfl rfl rfl rfl (hact.trans (wireSearch_faults hfault hafter)) (updWire_only _ _) rfl
  · have hact := actNow_wire (s := s.begin) (entry := none) hmode hfn hspu (by simp) (actNow_wireConvert (bus := bus))
    exact wireFault_answers (h := h) hhost hship hmode hcore rfl rfl rfl rfl (hact.trans (wireConvert_faults hfault hafter)) (only_refl _ _) rfl
  · have hact := actNow_wire (s := s.begin) (entry := some i) hmode hfn hspu (lt_of_entry hid) (actNow_wireReadMem (w := w) (n := n) (bus := bus))
    exact wireFault_answers (h := h) hhost hship hmode hcore rfl (by simp [argsOk, hi, hn, hn32]) rfl rfl
      (hact.trans (wireRead_faults hfault hafter i w n)) (only_refl _ _) rfl
  · have hact := actNow_wire (s := s.begin) (entry := some i) hmode hfn hspu (lt_of_entry hid) (actNow_wireWriteMem (w := w) (bs := bs) (bus := bus))
    exact wireFault_answers (h := h) hhost hship hmode hcore rfl (by simp [argsOk, hi, hb, hb32]) rfl rfl
      (hact.trans (wireWrite_faults hfault hafter i w bs)) (only_refl _ _) rfl

/-! ### The function, the strong pull-up and the ID table -/

omit hhost hship in
theorem wireStart_answers (hfn : s.wire.fn = .stopped) (hn : 1 ≤ n) (hn15 : n ≤ 15) :
    exec (.wireStart true false n) s = .next { s with
      out := [], reply := some { status := stOk, value := 0, words := [], bytes := [] }
      wire := { s.wire with fn := .running, spuEn := true, fixed := false, maxRounds := n, lSpu := true, lFixed := false
                            lRounds := n, lSeed := s.wire.seed } } := by
  refine runReg_next (f := startWire true false n) (wireReachable hmode hcore) (not_lockout_of_working hmode) (st := stOk)
    (u := s.begin.updWire (fun w => { w with fn := .running, spuEn := true, fixed := false, maxRounds := n, lSpu := true, lFixed := false
                                             lRounds := n, lSeed := w.seed })) ?_
  have hin : s.begin.inMode [.quiet, .run, .survey, .commit, .degraded, .safe] = true := by
    simp only [List.mem_cons, List.not_mem_nil, or_false] at hmode
    unfold State.inMode State.begin
    rcases hmode with h | h <;> rw [h] <;> decide
  unfold startWire
  rw [if_neg (by rw [show s.begin.wire.fn = .stopped from hfn]; decide), if_neg (by omega), if_neg (by rw [hin]; decide)]

omit hhost hship in
theorem wireStop_answers (hfn : s.wire.fn = .running) :
    exec .wireStop s = .next { s with
      out := [], reply := some { status := stOk, value := 0, words := [], bytes := [] }
      wire := { s.wire with fn := if s.wire.spu.isSome = true then .stopping else .stopped } } := by
  refine runReg_next (f := stopWire) (wireReachable hmode hcore) (not_lockout_of_working hmode) (st := stOk)
    (u := s.begin.updWire (fun w => { w with fn := if w.spu.isSome then .stopping else .stopped })) ?_
  unfold stopWire
  rw [if_neg (by rw [show s.begin.wire.fn = .running from hfn]; decide)]

omit hship hmode in
theorem strongPullupEnd_answers (hspu : s.wire.spu = some (w, n)) (hdue : n ≤ s.clk.wall - w) (htag : s.wire.opTag = none) (hfn : s.wire.fn = .running) :
    ∃ t, exec (.strongPullupEnd false) s = .next t ∧ t.wire = { s.wire with spu := none, opTag := none, pulled := false, refused := false }
      ∧ t.reply = replyOf (if s.wire.refused = true then stDenied else stOk) 0
      ∧ s.onlyChanges [.reply, .out, .wire, .ports, .glean, .expo] t := by
  have hend : s.begin.pullUpEnd false = (s.begin.updWire (fun w => { w with spu := none, opTag := none, pulled := false, refused := false, fn := if w.fn = .stopping then .stopped else w.fn })).wireDone none (if s.wire.refused then stDenied else stOk) 0 [] := by
    unfold State.pullUpEnd
    rw [show s.begin.wire.spu = some (w, n) from hspu]
    dsimp only
    rw [if_neg (Nat.not_lt.mpr (show n ≤ s.begin.since w from hdue)), show s.begin.wire.opTag = none from htag]
    rfl
  have hexec : exec (.strongPullupEnd false) s = .next { (s.begin.pullUpEnd false).flush with pending := s.pending } :=
    (runCoreL_of_runs hcore).trans (runL_next_eq rfl)
  rw [hend] at hexec
  obtain ⟨t, hexec, hparts, -, hwire, hreply, -⟩ := hostless_settles (ps := wireParts) hexec hhost
    (only_step (answer_only _ _ _ _ _) (only_one (updWire_only _ _))) (by decide)
  refine ⟨t, hexec, ?_, hreply, only_one hparts⟩
  rw [hwire]
  refine congrArg (fun f => { s.wire with spu := none, opTag := none, pulled := false, refused := false, fn := f }) ?_
  exact if_neg (by rw [show s.begin.wire.fn = .running from hfn]; decide)

omit hhost hship in
theorem idDataRead_answers : exec .idDataRead s = .next { s with
    out := [], reply := some { status := stOk, value := s.idWord s.wire.index, words := [s.idWord s.wire.index], bytes := [] }
    wire := { s.wire with index := (s.wire.index + 1) % 128 } } := by
  refine run_next_eq (u := (readId s.begin).2.answer stOk (readId s.begin).1 [(readId s.begin).1]) (f := fun s => if !s.reachable then s.answer stSilent
    else if s.mode.mode = .lockout then s.answer stDenied
    else (readId s).2.answer stOk (readId s).1 [(readId s).1]) ?_
  rw [if_neg (by rw [show s.begin.reachable = true from wireReachable hmode hcore]; decide),
    if_neg (show ¬ s.begin.mode.mode = .lockout from not_lockout_of_working hmode)]

end

/-- Settles O44: each command of the wire is carried out at once by a device without a host, and what it sends and reads is the exchange alone. -/
theorem grenpaWire : Obligations.GrenpaWire := by
  unfold Obligations.GrenpaWire
  intro s h bus w n id i bs y hhost hship hmode hcore
  exact ⟨wireStart_answers hmode hcore, wireStop_answers hmode hcore, wireSearch_emptyAnswer hhost hship hmode hcore,
    wireSearch_findsAnswer hhost hship hmode hcore, wireReadIds_answers hhost hship hmode hcore, wireConvert_answers hhost hship hmode hcore,
    wireConvert_absentAnswer hhost hship hmode hcore, wireReadMem_answers hhost hship hmode hcore, wireWriteMem_answers hhost hship hmode hcore,
    strongPullupEnd_answers hhost hcore,
    fun hfn hspu hlow _ hafter hid hi hn hn32 hb hb32 => wire_faultAnswers hhost hship hmode hcore hfn hspu hlow hafter hid hi hn hn32 hb hb32,
    idDataRead_answers hmode hcore⟩

end Sys2Proof.Machine
end

section
/-!
A round of descriptor fetches (09 R261) with a maximum read request of less than one descriptor: no burst is read.
-/
namespace Sys2Proof.Machine

-- one proof at a time: these proofs share the equations of the operations they unfold
set_option Elab.async false

/-- A ROOT in QUIET whose ring 0 holds one descriptor, with a maximum read request of 0 bytes. -/
def unreadRing : State := { State.reset with
  ident.role := .root, mode.mode := .quiet, clk.wall := 5, host.perst := true, host.linkUp := true, host.enable := true, host.mrrs := 0
  host.sq := State.reset.host.sq.set 0 { SqSt.reset with state := .running, tail := 1, weight := 1 }
  host.cq := State.reset.host.cq.set 0 { CqSt.reset with state := .running } }

theorem unreadRing_keeps : (stateAfter (.descriptorFetch [] default) unreadRing).power.contact = 0 := by
  decide +kernel

/-- Refutes O45: a round of `unreadRing` fetches nothing, so that it does not restart the contact timer. -/
theorem not_submissionsAndFetching : ¬ Obligations.SubmissionsAndFetching := by
  intro h
  obtain ⟨-, hfetch⟩ := h
  obtain ⟨hround, -⟩ := hfetch unreadRing [] default default 0 0 0 0 rfl (by decide) (by decide +kernel)
  obtain ⟨-, -, -, -, hcontact⟩ := hround (by decide +kernel) (by decide +kernel) (by decide +kernel) (by decide +kernel) (by decide +kernel)
    (by decide +kernel) (by decide +kernel) (by decide +kernel) (by decide +kernel)
  obtain ⟨t, hexec, ht⟩ := hcontact (by decide +kernel)
  have hkeeps := unreadRing_keeps
  rw [stateAfter_of_next hexec, ht] at hkeeps
  exact absurd hkeeps (by decide)

end Sys2Proof.Machine
end

section
/-!
A transaction that is listed as its own second copy (08 R232): its timeout forgets it with its copies, and no entry tells its end.
-/
namespace Sys2Proof.Machine

-- one proof at a time: these proofs share the equations of the operations they unfold
set_option Elab.async false

/-- A NOP of 1 ms that is listed as a second copy of itself. -/
def ownCopy : Tx := { newTx State.reset 0 0 { (default : Hdr) with timeout := 1 } .nop (some 0) with start := 0 }

/-- A ROOT in QUIET whose one transaction is past its timeout. -/
def selfCopied : State := { State.reset with
  ident.role := .root, mode.mode := .quiet, clk.wall := 20480, host.perst := true, host.linkUp := true, host.enable := true
  host.txs := [ownCopy]
  host.cq := State.reset.host.cq.set 0 { CqSt.reset with state := .running } }

theorem selfCopied_silent : (stateAfter (.transactionTimeout ownCopy.id) selfCopied).out = [] := by
  decide +kernel

/-- Refutes O46: the timeout of the transaction of `selfCopied` writes no entry. -/
theorem not_transactionsEndAndProbes : ¬ Obligations.TransactionsEndAndProbes := by
  intro h
  obtain ⟨hends, -⟩ := h
  obtain ⟨-, htimeout, -⟩ := hends selfCopied ownCopy 0 0 0 0 0 0 false 0 0 (by decide +kernel) (by decide +kernel) (by decide +kernel)
    (by decide +kernel) (by decide +kernel) (by decide +kernel)
  obtain ⟨t, hexec, hentry, -⟩ := htimeout (by decide) (by decide +kernel)
  have hsilent := selfCopied_silent
  rw [stateAfter_of_next hexec] at hsilent
  rw [hsilent] at hentry
  exact absurd hentry List.not_mem_nil

end Sys2Proof.Machine
end

section
/-!
What sending leaves of a port: its function, its link, its rate, its partner, its training and the wake tone (07 R188–R205).
-/
namespace Sys2Proof.Machine

-- one proof at a time: these proofs share the equations of the operations they unfold
set_option Elab.async false

/-- A port without what sending and receiving a frame changes of it: queues, sequence spaces, credits, counters, the crier and the clock's
values; of a LOST port also without the frames held for it. -/
def PortSt.bare (q : PortSt) : PortSt := { q with
  credits := default, owed := default, cnt := default, spaceS := default, spaceN := default, txq := default, crier := default, time := default
  lastTx := 0, held := if q.link = .lost then [] else q.held }

/-- The ports are what they were, their traffic apart. -/
def State.sameBare (s t : State) : Prop := t.ports.map PortSt.bare = s.ports.map PortSt.bare

theorem sameBare_refl (s : State) : s.sameBare s := rfl

theorem sameBare_trans {s t u : State} (h : s.sameBare t) (k : t.sameBare u) : s.sameBare u := k.trans h

theorem sameBare_of_ports {s t : State} (h : t.ports = s.ports) : s.sameBare t := congrArg (List.map PortSt.bare) h

theorem updPort_bare (s : State) (p : Nat) {f : PortSt → PortSt} (h : ∀ q, (f q).bare = q.bare) : s.sameBare (s.updPort p f) :=
  updAt_map_same s.ports p h

theorem bare_then {s t : State} (h : s.sameBare t) (p : Nat) {f : PortSt → PortSt} (hf : ∀ q, (f q).bare = q.bare) :
    s.sameBare (t.updPort p f) := sameBare_trans h (updPort_bare t p hf)

theorem bare_port {s t : State} (h : s.sameBare t) (p : Nat) : (t.port p).bare = (s.port p).bare := by
  have hget (u : State) : (u.port p).bare = (u.ports.map PortSt.bare).getD p PortSt.reset.bare := by
    simp only [State.port, List.getD_eq_getElem?_getD, List.getElem?_map]
    cases u.ports[p]? <;> rfl
  rw [hget, hget, show t.ports.map PortSt.bare = s.ports.map PortSt.bare from h]

theorem updSpace_bare (q : PortSt) (b : Bool) (f : SeqSpace → SeqSpace) : (q.updSpace b f).bare = q.bare := by
  unfold PortSt.updSpace
  split <;> rfl

theorem stampTime_bare (s : State) (p : Nat) (f : Frame) : s.sameBare (s.stampTime p f).2 := by
  unfold State.stampTime
  split
  · exact sameBare_refl s
  · split
    · exact updPort_bare s p fun _ => rfl
    · exact sameBare_refl s

theorem crierBit_bare (s : State) (p : Nat) : s.sameBare (s.crierBit p).2 := by
  unfold State.crierBit
  extract_lets c start msg g s1
  split
  · exact sameBare_refl s
  · have hadv : s.onlyChanges [.glean] s1 := only_ite (only_glean s _) (only_refl _ s)
    exact sameBare_trans (sameBare_of_ports (hadv .ports (by decide))) (updPort_bare s1 p fun _ => rfl)

theorem sendNow_bare (s : State) (p : Nat) (x : QFrame) : s.sameBare (s.sendNow p x) := by
  unfold State.sendNow
  dsimp only
  have hstamp := stampTime_bare s p x.frame
  generalize (s.stampTime p x.frame).1 = f at *
  generalize (s.stampTime p x.frame).2 = t at *
  have hbit : s.sameBare ((t.stampProbe f).crierBit p).2 :=
    sameBare_trans (sameBare_trans hstamp (sameBare_of_ports (stampProbe_only t f .ports (by decide)))) (crierBit_bare _ p)
  generalize ((t.stampProbe f).crierBit p).2 = v at *
  generalize ((t.stampProbe f).crierBit p).1 = cb
  refine sameBare_trans ?_ (sameBare_of_ports (emit_only _ _ .ports (by decide)))
  split
  · split
    · exact bare_then hbit p fun q => updSpace_bare q _ _
    · refine bare_then (bare_then hbit p ?_) _ fun _ => rfl
      exact fun q => updSpace_bare q _ _
  · exact bare_then hbit p fun q => updSpace_bare q _ _

theorem pumpOne_bare (s : State) (p : Nat) : s.sameBare (s.pumpOne p) := by
  unfold State.pumpOne
  extract_lets q t ready fits size go
  have hgo (l : List QFrame) (f : TxQueues → TxQueues) : s.sameBare (go l f) := by
    cases l with
    | nil => exact sameBare_refl s
    | cons x l =>
      refine sameBare_trans ?_ (sendNow_bare _ p x)
      exact updPort_bare s p fun _ => rfl
  clear_value go ready fits size
  split
  · exact hgo _ _
  split
  · exact hgo _ _
  split
  · exact hgo _ _
  split
  · exact hgo _ _
  exact updPort_bare s p fun _ => rfl

theorem giveCredit_bare (s : State) (p : Nat) : s.sameBare (s.giveCredit p) := by
  unfold State.giveCredit
  extract_lets q kept o
  clear_value kept o
  split
  · exact sameBare_refl s
  · refine sameBare_trans ?_ (sendNow_bare _ p _)
    exact updPort_bare s p fun _ => rfl

theorem iter_bare {f : State → State} (hf : ∀ u : State, u.sameBare (f u)) (n : Nat) (s : State) : s.sameBare (iter f n s) := by
  induction n generalizing s with
  | zero => exact sameBare_refl s
  | succ n ih => exact sameBare_trans (hf s) (ih (f s))

theorem foldl_bare {α : Type} {f : State → α → State} (hf : ∀ (u : State) (a : α), u.sameBare (f u a)) (l : List α) (s : State) :
    s.sameBare (l.foldl f s) := by
  induction l generalizing s with
  | nil => exact sameBare_refl s
  | cons a l ih => exact sameBare_trans (hf s a) (ih (f s a))

theorem flush_bare (s : State) : s.sameBare s.flush := by
  have hpump : s.sameBare ([0, 1, 2, 3].foldl State.pump s) :=
    foldl_bare (fun u p => iter_bare (fun v => pumpOne_bare v p) _ u) _ s
  have hcredit := foldl_bare giveCredit_bare [0, 1, 2, 3] ([0, 1, 2, 3].foldl State.pump s)
  exact sameBare_trans (sameBare_trans hpump hcredit) (sameBare_of_ports (freeExposure_ports _))

theorem sendAgain_bare (s : State) (p : Nat) (b : Bool) (f : Unacked → Unacked) : s.sameBare (s.sendAgain p b f) := by
  unfold State.sendAgain
  refine bare_then ?_ p fun q => updSpace_bare q b _
  generalize ((s.port p).space b).unacked = l
  suffices h : ∀ (l : List Unacked) (acc : List Unacked × State), acc.2.sameBare
      (l.foldl (fun (acc : List Unacked × State) u =>
        (acc.1 ++ [f { u with frame := (acc.2.stampTime p u.frame).1 }],
         (((acc.2.stampTime p u.frame).2).crierBit p).2.emit
           (.long p u.hseq (((acc.2.stampTime p u.frame).2).crierBit p).1 (acc.2.stampTime p u.frame).1))) acc).2 from h l ([], s)
  intro l
  induction l with
  | nil => exact fun acc => sameBare_refl acc.2
  | cons u l ih => exact fun acc => sameBare_trans (sameBare_trans (stampTime_bare acc.2 p u.frame) (crierBit_bare _ p)) (ih _)

theorem takeCrier_bare (s : State) (p : Nat) (b : Bool) : s.sameBare (s.takeCrier p b) := by
  unfold State.takeCrier
  exact updPort_bare s p fun _ => by simp only [PortSt.bare]

theorem sendTrain_bare (s : State) (p : Nat) (a b : Bool) : s.sameBare (s.sendTrain p a b) := by
  unfold State.sendTrain
  split
  · exact sameBare_refl s
  · exact sameBare_trans (crierBit_bare s p) (updPort_bare _ p fun _ => rfl)

/-! ### What a port stands at -/

/-- What sending leaves of a port. -/
def PortSt.standing (q : PortSt) : FnState × LinkState × Nat × Option Nat × TrainSt × Bool :=
  (q.fn, q.link, q.rateNow, q.partner, q.train, q.tone)

/-- The ports stand as they did. -/
def State.sameStanding (s t : State) : Prop := t.ports.map PortSt.standing = s.ports.map PortSt.standing

theorem sameStanding_refl (s : State) : s.sameStanding s := rfl

theorem sameStanding_of_ports {s t : State} (h : t.ports = s.ports) : s.sameStanding t := congrArg (List.map PortSt.standing) h

theorem map_of_bare {α : Type} {s t : State} {g : PortSt → α} (h : s.sameBare t) (hg : ∀ q : PortSt, g q.bare = g q) :
    t.ports.map g = s.ports.map g := by
  have hmap (u : State) : (u.ports.map PortSt.bare).map g = u.ports.map g := by
    rw [List.map_map]
    exact List.map_congr_left fun q _ => hg q
  rw [← hmap, ← hmap, show t.ports.map PortSt.bare = s.ports.map PortSt.bare from h]

theorem sameStanding_of_bare {s t : State} (h : s.sameBare t) : s.sameStanding t := map_of_bare h fun _ => rfl

theorem updPort_standing (s : State) (p : Nat) {f : PortSt → PortSt} (h : ∀ q, (f q).standing = q.standing) : s.sameStanding (s.updPort p f) :=
  updAt_map_same s.ports p h

theorem standing_port {s t : State} (h : s.sameStanding t) (p : Nat) : (t.port p).standing = (s.port p).standing := by
  have hget (u : State) : (u.port p).standing = (u.ports.map PortSt.standing).getD p (default : PortSt).standing := by
    simp only [State.port, List.getD_eq_getElem?_getD, List.getElem?_map]
    cases u.ports[p]? <;> rfl
  rw [hget, hget, show t.ports.map PortSt.standing = s.ports.map PortSt.standing from h]

theorem crierBit_standing (s : State) (p : Nat) : s.sameStanding (s.crierBit p).2 := sameStanding_of_bare (crierBit_bare s p)
theorem flush_standing (s : State) : s.sameStanding s.flush := sameStanding_of_bare (flush_bare s)
theorem takeCrier_standing (s : State) (p : Nat) (b : Bool) : s.sameStanding (s.takeCrier p b) := sameStanding_of_bare (takeCrier_bare s p b)
theorem sendTrain_standing (s : State) (p : Nat) (a b : Bool) : s.sameStanding (s.sendTrain p a b) := sameStanding_of_bare (sendTrain_bare s p a b)

theorem joinSpaces_standing (s : State) (p uid a b : Nat) : s.sameStanding (s.joinSpaces p uid a b) := by
  unfold State.joinSpaces
  dsimp only
  split
  · refine sameStanding_of_bare (sameBare_trans (sameBare_trans ?_ (sendAgain_bare _ p true _)) (sendAgain_bare _ p false _))
    exact updPort_bare s p fun _ => rfl
  · exact updPort_standing s p fun _ => rfl

/-! ### The parts that the operations of a port change -/

theorem joinSpaces_only (s : State) (p uid a b : Nat) : s.onlyChanges [.ports, .glean, .out] (s.joinSpaces p uid a b) := by
  unfold State.joinSpaces
  dsimp only
  exact only_ite (only_step (sendAgain_only _ _ _ _) (only_step (sendAgain_only _ _ _ _) (only_one (updPort_only s p _)))) (only_one (updPort_only s p _))

theorem cutOff_of_unnumbered {s : State} (h : s.tree.valid = false) : s.cutOff = false := by
  unfold State.cutOff
  rw [h]
  rfl

theorem recut_of_unnumbered {s before : State} (h : before.tree.valid = false) : s.recut before = s.trackCut := by
  unfold State.recut
  rw [cutOff_of_unnumbered h]
  rfl

/-! ### Quiet ports -/

/-- A port with nothing queued and no credits owed. -/
def PortSt.still (q : PortSt) : Bool :=
  q.txq.safety.isEmpty && q.txq.control.isEmpty && q.txq.data.isEmpty && q.txq.bulk.isEmpty && q.owed.isZero

theorem quiet_iff (s : State) : s.quiet = (s.ports.map PortSt.still).all id := by
  unfold State.quiet
  rw [List.all_map]
  rfl

theorem quiet_updPort {s : State} (h : s.quiet = true) (p : Nat) {f : PortSt → PortSt} (hf : ∀ q, (f q).still = q.still) :
    (s.updPort p f).quiet = true := by
  rw [quiet_iff, updPort_ports, updAt_map_same s.ports p hf, ← quiet_iff, h]

theorem quiet_of_ports {s t : State} (h : t.ports = s.ports) : t.quiet = s.quiet := by
  unfold State.quiet
  rw [h]

theorem quiet_crierBit {s : State} (h : s.quiet = true) (p : Nat) : (s.crierBit p).2.quiet = true := by
  unfold State.crierBit
  extract_lets c start msg g s1
  split
  · exact h
  · have hadv : s.onlyChanges [.glean] s1 := only_ite (only_glean s _) (only_refl _ s)
    exact quiet_updPort ((quiet_of_ports (hadv .ports (by decide))).trans h) p fun _ => rfl

theorem quiet_sendTrain {s : State} (h : s.quiet = true) (p : Nat) (a b : Bool) : (s.sendTrain p a b).quiet = true := by
  unfold State.sendTrain
  split
  · exact h
  · exact quiet_updPort (quiet_crierBit h p) p fun _ => rfl

theorem flush_ports_of_quiet {s : State} (h : s.quiet = true) : s.flush.ports = s.ports := by
  rw [flush_of_quiet h]
  exact freeExposure_ports s

theorem flush_out_of_quiet {s : State} (h : s.quiet = true) : s.flush.out = s.out := by
  rw [flush_of_quiet h]
  exact freeExposure_only s .out (by decide)

end Sys2Proof.Machine
end

section
/-!
The port function and training: what each command of a port answers (07 R203–R206, R214, R215, R238).
-/
namespace Sys2Proof.Machine

-- one proof at a time: these proofs share the equations of the operations they unfold
set_option Elab.async false

variable {s : State} {p n : Nat}

/-! ### The crier bit of a TRAIN frame -/

/-- The first bit of a crier message is that of its SYNC. -/
theorem msgBit_crierMsg (s : State) (k : Nat) : msgBit (s.crierMsg k) 0 = false := by
  unfold msgBit State.crierMsg
  simp [le]

/-- The crier bit of a port is that of its own message, whatever else the device holds. -/
def PortSt.nextBit (q : PortSt) : Bool :=
  if q.link = .legacy then false else if q.crier.txBit = 0 then false else msgBit q.crier.txMsg q.crier.txBit

theorem crierBit_fst (s : State) (p : Nat) : (s.crierBit p).1 = (s.port p).nextBit := by
  unfold State.crierBit PortSt.nextBit
  extract_lets c start msg g s1
  split
  · rfl
  · dsimp only
    by_cases h : c.txBit = 0
    · rw [if_pos h]
      simp only [msg, start, h, if_true]
      exact msgBit_crierMsg s _
    · rw [if_neg h]
      simp only [msg, start, h, if_false]
      rfl

/-- A port with another state of its crier channel. -/
def PortSt.withCrier (q : PortSt) (c : CrierSt) : PortSt := { q with crier := c }

theorem crierBit_port (s : State) (p : Nat) : ∃ c, (s.crierBit p).2.port p = (s.port p).withCrier c := by
  unfold State.crierBit
  extract_lets c start msg g s1
  have hadv : s.onlyChanges [.glean] s1 := only_ite (only_glean s _) (only_refl _ s)
  have hports : s1.ports = s.ports := hadv .ports (by decide)
  split
  · exact ⟨(s.port p).crier, rfl⟩
  · by_cases hp : p < s.ports.length
    · refine ⟨{ c with txMsg := msg, txBit := (c.txBit + 1) % 256, txCount := if c.txBit = 255 then c.txCount + 1 else c.txCount }, ?_⟩
      dsimp only
      rw [updPort_port_self s1 p _ (by rw [hports]; exact hp), show s1.port p = s.port p by rw [State.port, hports]; rfl]
      rfl
    · refine ⟨(s.port p).crier, ?_⟩
      have hnone : s1.ports[p]? = none := List.getElem?_eq_none_iff.mpr (by rw [hports]; omega)
      have hsame : ∀ f, s1.updPort p f = s1 := fun f => by simp [State.updPort, updAt, hnone]
      dsimp only
      rw [hsame, State.port, hports]
      rfl

/-- What a TRAIN frame says does not depend on what sending it changes. -/
theorem trainFrame_of_port {s t : State} {p : Nat} (hrate : (t.port p).lRate = (s.port p).lRate) (hN : (t.port p).spaceN = (s.port p).spaceN)
    (hS : (t.port p).spaceS = (s.port p).spaceS) (htree : t.tree = s.tree) (hident : t.ident = s.ident) (a b : Bool) :
    trainFrame t p a b = trainFrame s p a b := by
  unfold trainFrame
  dsimp only
  rw [hrate, hN, hS, htree, hident]

theorem trainFrame_crierBit (s : State) (p : Nat) (a b : Bool) : trainFrame (s.crierBit p).2 p a b = trainFrame s p a b := by
  obtain ⟨c, hport⟩ := crierBit_port s p
  have honly := crierBit_only s p
  refine trainFrame_of_port ?_ ?_ ?_ (honly .tree (by decide)) (honly .ident (by decide)) a b <;> rw [hport] <;> rfl

/-- A running port sends one TRAIN frame. -/
theorem sendTrain_out (hfn : (s.port p).fn = .running) (a b : Bool) :
    (s.sendTrain p a b).out = s.out ++ [.train p (s.port p).train.rate (s.port p).nextBit (trainFrame s p a b)] := by
  obtain ⟨c, hport⟩ := crierBit_port s p
  have hout : (s.crierBit p).2.out = s.out := crierBit_only s p .out (by decide)
  unfold State.sendTrain
  rw [if_neg (by rw [hfn]; decide)]
  dsimp only [State.emit, State.updPort]
  rw [hout, hport, crierBit_fst, trainFrame_crierBit]
  rfl

/-- The port that sent a TRAIN frame. -/
theorem sendTrain_port (hp : p < s.ports.length) (a b : Bool) : ∃ c w k, (s.sendTrain p a b).port p = { s.port p with crier := c, lastTx := w, cnt := k } := by
  obtain ⟨c, hport⟩ := crierBit_port s p
  have hlen : (s.crierBit p).2.ports.length = s.ports.length := by
    have h := congrArg List.length (crierBit_standing s p)
    simpa using h
  unfold State.sendTrain
  split
  · exact ⟨(s.port p).crier, (s.port p).lastTx, (s.port p).cnt, rfl⟩
  · refine ⟨c, (s.crierBit p).2.wall, { (s.port p).cnt with tx := sat 0xFFFFFFFF ((s.port p).cnt.tx + 1) }, ?_⟩
    have hself := updPort_port_self (s.crierBit p).2 p (fun q => { q with
      lastTx := (s.crierBit p).2.wall, cnt := { q.cnt with tx := sat 0xFFFFFFFF (q.cnt.tx + 1) } }) (by rw [hlen]; exact hp)
    rw [hport] at hself
    exact hself

/-! ### A port trains anew -/

/-- The port as it begins to train. -/
def State.beginsTraining (s : State) (p : Nat) : State := (s.updPort p (fun q => { q with
  link := .training, retrains := if q.train.trained then sat 255 (q.retrains + 1) else q.retrains
  train := { step := 1, got := 0, agreedRx := false, agreedTx := false, rate := 0, since := s.wall, began := s.now
             trained := true, partnerMax := q.train.partnerMax } })).trackCut

theorem retrain_eq (s : State) (p : Nat) : s.retrain p = (s.beginsTraining p).sendTrain p false false := rfl

theorem beginsTraining_port (hp : p < s.ports.length) : ∃ r m, (s.beginsTraining p).port p = { s.port p with
    link := .training, retrains := r
    train := { step := 1, got := 0, agreedRx := false, agreedTx := false, rate := 0, since := s.wall, began := s.now, trained := true, partnerMax := m } } := by
  unfold State.beginsTraining
  have hports : ∀ u : State, u.trackCut.port p = u.port p := fun u => by rw [State.port, trackCut_only u .ports (by decide)]; rfl
  rw [hports, updPort_port_self s p _ hp]
  exact ⟨_, _, rfl⟩

theorem beginsTraining_only (s : State) (p : Nat) : s.onlyChanges [.ports, .mode] (s.beginsTraining p) :=
  only_step (trackCut_only _) (only_one (updPort_only s p _))

/-- A port that trains anew, and the TRAIN frame that tells it. -/
theorem retrain_trains (hp : p < s.ports.length) (hfn : (s.port p).fn = .running) (hlink : (s.port p).link ≠ .legacy) :
    ((s.retrain p).port p).link = .training ∧ ((s.retrain p).port p).train.step = 1 ∧ ((s.retrain p).port p).train.rate = 0
      ∧ ((s.retrain p).port p).tone = (s.port p).tone
      ∧ (s.retrain p).out = s.out ++ [.train p 0 (s.port p).nextBit (trainFrame (s.retrain p) p false false)] := by
  obtain ⟨r, m, hport⟩ := beginsTraining_port (s := s) hp
  have honly := beginsTraining_only s p
  have hlen : (s.beginsTraining p).ports.length = s.ports.length := by
    have h : (s.beginsTraining p).ports = _ := trackCut_only _ .ports (by decide)
    rw [h, updPort_ports, updAt_length]
  have hout : (s.beginsTraining p).out = s.out := honly .out (by decide)
  rw [retrain_eq]
  generalize s.beginsTraining p = u at *
  obtain ⟨c, w, k, hsent⟩ := sendTrain_port (s := u) (p := p) (by rw [hlen]; exact hp) false false
  have hsend := sendTrain_only u p false false
  have hframe : trainFrame (u.sendTrain p false false) p false false = trainFrame u p false false := by
    refine trainFrame_of_port ?_ ?_ ?_ (hsend .tree (by decide)) (hsend .ident (by decide)) false false <;> rw [hsent]
  have houtU := sendTrain_out (s := u) (p := p) (by rw [hport]; exact hfn) false false
  rw [hframe, houtU, hsent, hport, hout]
  refine ⟨rfl, rfl, rfl, rfl, ?_⟩
  unfold PortSt.nextBit
  rw [if_neg hlink, if_neg (by simp)]

/-! ### A port comes UP -/

theorem portUp_unnumbered {uid a b : Nat} (hvalid : s.tree.valid = false) (hroot : s.isRoot = false) (hwalk : s.tree.walk.active = false)
    (hp : p < s.ports.length) : ((s.portUp p uid a b).port p).standing
      = ((s.port p).fn, .up, (s.port p).train.rate, some uid, { (s.port p).train with step := 0 }, (s.port p).tone) := by
  have hjoin := joinSpaces_standing s p uid a b
  have honly := joinSpaces_only s p uid a b
  unfold State.portUp
  extract_lets before q same wasLost v u w x y z k
  have hlen : v.ports.length = s.ports.length := by simpa using congrArg List.length hjoin
  have hU : u.onlyChanges [.ports] w := only_ite (updPort_only u p _) (only_refl _ u)
  have hstandW : u.sameStanding w := by
    unfold w
    split
    · exact updPort_standing u p fun _ => rfl
    · exact sameStanding_refl u
  have htreeW : w.tree = s.tree := (hU .tree (by decide)).trans ((updPort_only v p _ .tree (by decide)).trans (honly .tree (by decide)))
  have hidentW : w.ident = s.ident := (hU .ident (by decide)).trans ((updPort_only v p _ .ident (by decide)).trans (honly .ident (by decide)))
  have hX : x = w.trackCut := recut_of_unnumbered hvalid
  have htrack := trackCut_only w
  have htreeX : x.tree = s.tree := by rw [hX, htrack .tree (by decide), htreeW]
  have hidentX : x.ident = s.ident := by rw [hX, htrack .ident (by decide), hidentW]
  have hrootX : x.isRoot = false := by
    rw [← hroot]
    unfold State.isRoot State.hasHost
    rw [htreeX, hidentX]
  have hY : y = x := if_neg (by rw [htreeX, hvalid, hrootX]; simp)
  have hZ : z = x := by
    unfold z
    rw [hY]
    exact if_neg (by rw [htreeX, hvalid]; simp)
  have hK : k.active = false := by
    unfold k
    rw [hZ, htreeX]
    exact hwalk
  have hrest : z.portUpOutside p = x := by
    unfold State.portUpOutside
    dsimp only
    rw [hZ]
    exact if_neg (by rw [htreeX, hvalid, hrootX]; simp)
  rw [if_neg (by rw [hK]; simp), if_neg (by rw [hK]; simp), hrest, hX, standing_port (sameStanding_of_ports (htrack .ports (by decide))) p,
    standing_port hstandW p]
  unfold u
  rw [updPort_port_self v p _ (by rw [hlen]; exact hp)]
  have hport := standing_port hjoin p
  simp only [PortSt.standing, Prod.mk.injEq] at hport
  obtain ⟨hfnV, -, -, -, htrainV, htoneV⟩ := hport
  simp only [PortSt.standing, Prod.mk.injEq]
  refine ⟨hfnV, trivial, congrArg TrainSt.rate htrainV, trivial, ?_, htoneV⟩
  exact congrArg (fun t : TrainSt => { t with step := 0 }) htrainV

end Sys2Proof.Machine
end

section
/-!
The commands of a port on a device whose ports have nothing to send (07 R203–R206, R214, R215, R238).
-/
namespace Sys2Proof.Machine

-- one proof at a time: these proofs share the equations of the operations they unfold
set_option Elab.async false

variable {s u : State} {p n : Nat} {i : Instr} {ps : List Part}

/-- The parts that a command of a port changes. -/
def portParts : List Part := [.reply, .out, .ports, .host, .glean, .expo]

/-- The answer of a command that flushes ports with nothing to send, by the state u of its effect. -/
theorem quietL_settles (hexec : exec i s = .next { u.flush with pending := s.pending }) (honly : s.begin.onlyChanges ps u) (hquiet : u.quiet = true)
    (hq : ∀ q ∈ [Part.reply, .out, .ports, .host, .glean, .expo], q ∈ ps := by decide) :
    ∃ t, exec i s = .next t ∧ s.onlyChanges ps t ∧ t.ports = u.ports ∧ t.out = u.out ∧ t.reply = u.reply ∧ t.fault = u.fault := by
  have hparts := nextL_only honly hq
  have hports := flush_ports_of_quiet hquiet
  have hout := flush_out_of_quiet hquiet
  have hreply := flush_reply u
  have hfault := flush_fault u
  generalize u.flush = w at *
  exact ⟨_, hexec, hparts, hports, hout, hreply, hfault⟩

theorem port_of_ports {s t : State} (h : t.ports = s.ports) (p : Nat) : t.port p = s.port p := by
  unfold State.port
  rw [h]

/-- A write of a control register that flushes the ports. -/
theorem regL_next {f : State → Nat × State} {st : Nat} (hreach : s.reachable = true) (hlock : s.mode.mode ≠ .lockout) (h : f s.begin = (st, u)) :
    runL (regOp f) s = .next { (u.answer st).flush with pending := s.pending } := by
  have hreach' : s.begin.reachable = true := hreach
  have hlock' : s.begin.mode.mode ≠ .lockout := hlock
  refine runL_next_eq ?_
  simp only [regOp, regAny, if_pos hreach', if_neg hlock', h]

theorem regL_denied {f : State → Nat × State} (hreach : s.reachable = true) (h : f s.begin = (stDenied, s.begin)) :
    runL (regOp f) s = .next { (s.begin.answer stDenied).flush with pending := s.pending } := by
  by_cases hlock : s.mode.mode = .lockout
  · have hreach' : s.begin.reachable = true := hreach
    have hlock' : s.begin.mode.mode = .lockout := hlock
    refine runL_next_eq ?_
    simp only [regOp, regAny, if_pos hreach', if_pos hlock']
  · exact regL_next hreach hlock h

/-! ### START and STOP -/

/-- The port as START leaves it. -/
def PortSt.started (q : PortSt) (n w : Nat) : PortSt := { q with
  retryMax := n, fn := .running, link := .down, retrains := 0, lRetry := n, lRate := q.rateMax
  lTol := q.tol, lLegacy := false, train := TrainSt.reset, lastTx := w }

/-- START of a port that is no legacy port. -/
theorem startPort_runs (hp : p < s.ports.length) (hquiet : s.quiet = true) (hfn : (s.port p).fn = .stopped) (hheld : s.heldInReset p = false)
    (hn : 1 ≤ n) (hn15 : n ≤ 15) (hlegacy : (s.port p).legacy = false) :
    ∃ u, startPort p n s = (stOk, u) ∧ s.onlyChanges [.ports] u ∧ u.port p = (s.port p).started n s.clk.wall ∧ u.quiet = true := by
  have hrun : (s.updPort p (fun q => { q with retryMax := n })).port p = { s.port p with retryMax := n } := updPort_port_self s p _ hp
  have hlen : (s.updPort p (fun q => { q with retryMax := n })).ports.length = s.ports.length := by rw [updPort_ports, updAt_length]
  have hquietV := quiet_updPort hquiet p (f := fun q => { q with retryMax := n }) fun _ => rfl
  have hV := updPort_only s p (fun q => { q with retryMax := n })
  have hwall : (s.updPort p (fun q => { q with retryMax := n })).wall = s.clk.wall := rfl
  have hstart : startPort p n s = (stOk, (s.updPort p (fun q => { q with retryMax := n })).runPort p) := by
    unfold startPort
    rw [if_neg (by rw [hfn]; decide), if_neg (by rw [hheld]; simp; omega)]
  rw [hstart]
  generalize s.updPort p (fun q => { q with retryMax := n }) = v at *
  have hself := updPort_port_self v p (fun q => { q with
    fn := .running, link := if q.legacy then .legacy else .down, retrains := 0, lRetry := q.retryMax, lRate := q.rateMax
    lTol := q.tol, lLegacy := q.legacy, train := TrainSt.reset, lastTx := v.wall }) (by rw [hlen]; exact hp)
  rw [hrun, hwall] at hself
  simp only [hlegacy, Bool.false_eq_true, if_false] at hself
  have hrunPort : v.runPort p = v.updPort p (fun q => { q with
      fn := .running, link := if q.legacy then .legacy else .down, retrains := 0, lRetry := q.retryMax, lRate := q.rateMax
      lTol := q.tol, lLegacy := q.legacy, train := TrainSt.reset, lastTx := s.clk.wall }) := by
    unfold State.runPort
    rw [hwall, if_neg (by rw [hself]; simp)]
  rw [hrunPort]
  exact ⟨_, rfl, only_step (updPort_only v p _) hV, by rw [hself, PortSt.started, hlegacy], quiet_updPort hquietV p fun _ => rfl⟩

theorem portStart_answers (hp : p < s.ports.length) (hquiet : s.quiet = true) (hreach : s.reachable = true) (hlock : s.mode.mode ≠ .lockout)
    (hfn : (s.port p).fn = .stopped) (hheld : s.heldInReset p = false) (hn : 1 ≤ n) (hn15 : n ≤ 15) (hlegacy : (s.port p).legacy = false) :
    ∃ t, exec (.portStart p n) s = .next t ∧ t.reply = replyOf stOk 0 ∧ s.onlyChanges [.reply, .out, .ports, .host, .glean, .expo] t
      ∧ t.port p = (s.port p).started n s.clk.wall := by
  obtain ⟨u, hstart, honly, hport, hquietU⟩ := startPort_runs (s := s.begin) hp hquiet hfn hheld hn hn15 hlegacy
  obtain ⟨t, hexec, hparts, hports, -, hreply, -⟩ := quietL_settles (ps := portParts) (i := .portStart p n) (u := u.answer stOk) (regL_next hreach hlock hstart)
    (only_step (answer_only u _ _ _ _) (only_one honly)) hquietU
  exact ⟨t, hexec, hreply, hparts, (port_of_ports hports p).trans hport⟩

theorem portStart_refused (hquiet : s.quiet = true) (hreach : s.reachable = true) (hfn : (s.port p).fn = .stopped) (hn : n = 0 ∨ 15 < n) :
    ∃ t, exec (.portStart p n) s = .next t ∧ t.reply = replyOf stDenied 0 ∧ s.onlyChanges [.reply, .out, .ports, .host, .glean, .expo] t
      ∧ t.port p = s.port p := by
  have hstart : startPort p n s.begin = (stDenied, s.begin) := by
    unfold startPort
    rw [if_neg (by rw [show (s.begin.port p).fn = .stopped from hfn]; decide),
      if_pos (by rcases hn with h | h <;> simp [h])]
  obtain ⟨t, hexec, hparts, hports, -, hreply, -⟩ := quietL_settles (ps := portParts) (i := .portStart p n) (u := s.begin.answer stDenied) (regL_denied hreach hstart)
    (only_one (answer_only s.begin _ _ _ _)) hquiet
  exact ⟨t, hexec, hreply, hparts, port_of_ports hports p⟩

theorem portStop_upstream (hquiet : s.quiet = true) (hreach : s.reachable = true) (hlock : s.mode.mode ≠ .lockout) (hfn : (s.port p).fn = .running)
    (hup : s.isUpstream p = true) :
    ∃ t, exec (.portStop p) s = .next t ∧ t.reply = replyOf stDenied 0 ∧ (t.port p).fn = .running := by
  have hstop : stopPort p s.begin = (stDenied, s.begin) := by
    unfold stopPort
    rw [if_neg (by rw [show (s.begin.port p).fn = .running from hfn]; decide), if_pos (show s.begin.isUpstream p = true from hup)]
  obtain ⟨t, hexec, -, hports, -, hreply, -⟩ := quietL_settles (ps := portParts) (i := .portStop p)
    (u := s.begin.answer stDenied) (regL_next hreach hlock hstop) (only_one (answer_only s.begin _ _ _ _)) hquiet
  exact ⟨t, hexec, hreply, by rw [port_of_ports hports p]; exact hfn⟩

theorem portStop_stops (hp : p < s.ports.length) (hquiet : s.quiet = true) (hreach : s.reachable = true) (hlock : s.mode.mode ≠ .lockout)
    (hfn : (s.port p).fn = .running) (hup : s.isUpstream p = false) :
    ∃ t, exec (.portStop p) s = .next t ∧ t.reply = replyOf stOk 0 ∧ (t.port p).fn = .stopping
      ∧ s.onlyChanges [.reply, .out, .ports, .host, .glean, .expo] t := by
  have hstop : stopPort p s.begin = (stOk, s.begin.updPort p (fun q => { q with fn := .stopping })) := by
    unfold stopPort
    rw [if_neg (by rw [show (s.begin.port p).fn = .running from hfn]; decide), if_neg (by rw [show s.begin.isUpstream p = false from hup]; simp)]
  have hself := updPort_port_self s.begin p (fun q => { q with fn := .stopping }) hp
  have honly := updPort_only s.begin p (fun q => { q with fn := .stopping })
  have hquietU := quiet_updPort (s := s.begin) hquiet p (f := fun q => { q with fn := .stopping }) fun _ => rfl
  generalize s.begin.updPort p (fun q => { q with fn := .stopping }) = u at *
  obtain ⟨t, hexec, hparts, hports, -, hreply, -⟩ := quietL_settles (ps := portParts) (i := .portStop p) (u := u.answer stOk) (regL_next hreach hlock hstop)
    (only_step (answer_only u _ _ _ _) (only_one honly)) hquietU
  exact ⟨t, hexec, hreply, by rw [port_of_ports hports p]; exact congrArg PortSt.fn hself, hparts⟩

theorem portStopped_answers (hp : p < s.ports.length) (hreach : s.reachable = true) (hfn : (s.port p).fn = .stopping) :
    ∃ t, exec (.portStopped p) s = .next t ∧ t.port p = { s.port p with fn := .stopped, link := .disabled }
      ∧ s.onlyChanges [.reply, .out, .ports, .host, .mode] t := by
  have hstop : s.begin.portStopped p = (s.begin.updPort p (fun q => { q with fn := .stopped, link := .disabled })).trackCut := by
    unfold State.portStopped
    exact if_neg (by rw [show (s.begin.port p).fn = .stopping from hfn]; decide)
  have hself := updPort_port_self s.begin p (fun q => { q with fn := .stopped, link := .disabled }) hp
  have honly := updPort_only s.begin p (fun q => { q with fn := .stopped, link := .disabled })
  generalize s.begin.updPort p (fun q => { q with fn := .stopped, link := .disabled }) = u at *
  have hexec : exec (.portStopped p) s = .next { u.trackCut with pending := s.pending } :=
    (runCore_of_runs (reachable_parts hreach).2).trans (run_next_eq hstop)
  have htrack := trackCut_only u
  generalize u.trackCut = v at *
  have hparts : s.begin.onlyChanges [.reply, .out, .ports, .host, .mode] v := only_step htrack (only_one honly)
  exact ⟨_, hexec, (port_of_ports (t := v) (htrack .ports (by decide)) p).trans hself, next_only hparts⟩

/-! ### Training -/

theorem quiet_retrain {p : Nat} (hquiet : s.quiet = true) : (s.retrain p).quiet = true := by
  rw [retrain_eq]
  refine quiet_sendTrain ?_ p false false
  unfold State.beginsTraining
  rw [quiet_of_ports (trackCut_only _ .ports (by decide))]
  exact quiet_updPort hquiet p fun _ => rfl

theorem trainFrame_retrain (hp : p < s.ports.length) (a b : Bool) : trainFrame (s.retrain p) p a b = trainFrame s p a b := by
  obtain ⟨r, m, hport⟩ := beginsTraining_port (s := s) hp
  have hlen : (s.beginsTraining p).ports.length = s.ports.length := by
    have h : (s.beginsTraining p).ports = _ := trackCut_only _ .ports (by decide)
    rw [h, updPort_ports, updAt_length]
  have honly := retrain_only s p
  rw [retrain_eq] at honly ⊢
  generalize s.beginsTraining p = v at *
  obtain ⟨c, w, k, hsent⟩ := sendTrain_port (s := v) (p := p) (by rw [hlen]; exact hp) false false
  refine trainFrame_of_port ?_ ?_ ?_ (honly .tree (by decide)) (honly .ident (by decide)) a b <;> rw [hsent, hport]

theorem symbols_answer (hp : p < s.ports.length) (hquiet : s.quiet = true) (hreach : s.reachable = true) (hfn : (s.port p).fn = .running)
    (hlink : (s.port p).link = .down) :
    ∃ t, exec (.symbolsDetected p) s = .next t ∧ (t.port p).link = .training ∧ (t.port p).train.step = 1 ∧ (t.port p).train.rate = 0
      ∧ .train p 0 (s.crierBit p).1 (trainFrame (s.retrain p) p false false) ∈ t.out
      ∧ s.onlyChanges [.reply, .out, .ports, .host, .mode, .glean, .expo] t := by
  have hsym : s.begin.symbols p = s.begin.retrain p := by
    unfold State.symbols
    refine if_pos ?_
    rw [show (s.begin.port p).fn = .running from hfn, show (s.begin.port p).link = .down from hlink, show s.begin.awake = true from (reachable_parts hreach).1]
    rfl
  obtain ⟨hlinkU, hstepU, hrateU, -, houtU⟩ := retrain_trains (s := s.begin) hp hfn (by rw [show (s.begin.port p).link = .down from hlink]; decide)
  have honly := retrain_only s.begin p
  have hquietU := quiet_retrain (s := s.begin) (p := p) hquiet
  rw [trainFrame_retrain (s := s.begin) hp] at houtU
  rw [trainFrame_retrain hp, crierBit_fst]
  generalize s.begin.retrain p = u at *
  obtain ⟨t, hexec, hparts, hports, hout, -, -⟩ := quietL_settles (ps := .mode :: portParts) (i := .symbolsDetected p) (u := u) (runL_next_eq (f := fun s => s.symbols p) hsym)
    (only_one honly) hquietU
  rw [← port_of_ports hports p] at hlinkU hstepU hrateU
  refine ⟨t, hexec, hlinkU, hstepU, hrateU, ?_, only_one hparts⟩
  rw [hout, houtU]
  exact List.mem_append_right _ List.mem_cons_self

/-- A port that has heard a wake tone. -/
def PortSt.toned (q : PortSt) : PortSt := { q with tone := true, afterTone := true }

theorem toneIn_retrains (hawake : s.awake = true) (hfn : (s.port p).fn = .running) (hlink : (s.port p).link = .down) :
    s.toneIn p none = (s.updPort p PortSt.toned).retrain p := by
  have hdormant : s.mode.mode ≠ .dormant := fun h => by
    unfold State.awake State.inMode at hawake
    rw [h] at hawake
    exact absurd hawake (by decide)
  unfold State.toneIn
  dsimp only
  rw [if_neg hdormant]
  exact if_pos (by rw [hfn, hlink, hawake]; rfl)

theorem toneIn_settles (hp : p < s.ports.length) (hquiet : s.quiet = true) (hawake : s.awake = true) (hfn : (s.port p).fn = .running)
    (hlink : (s.port p).link = .down) : s.onlyChanges [.ports, .mode, .glean, .out] (s.toneIn p none) ∧ ((s.toneIn p none).port p).tone = true
      ∧ ((s.toneIn p none).port p).link = .training ∧ (s.toneIn p none).quiet = true := by
  have hself := updPort_port_self s p PortSt.toned hp
  have hlen : (s.updPort p PortSt.toned).ports.length = s.ports.length := by rw [updPort_ports, updAt_length]
  have hquietV := quiet_updPort hquiet p (f := PortSt.toned) fun _ => rfl
  have hV := updPort_only s p PortSt.toned
  have hlinkV : (s.port p).toned.link = .down := hlink
  rw [toneIn_retrains hawake hfn hlink]
  generalize s.updPort p PortSt.toned = v at *
  obtain ⟨hlinkU, -, -, htoneU, -⟩ := retrain_trains (s := v) (p := p) (by rw [hlen]; exact hp) (by rw [hself]; exact hfn) (by rw [hself, hlinkV]; decide)
  rw [hself] at htoneU
  exact ⟨only_step (retrain_only v p) (only_one hV), htoneU, hlinkU, quiet_retrain hquietV⟩

theorem wakeTone_answer (hp : p < s.ports.length) (hquiet : s.quiet = true) (hreach : s.reachable = true) (hfn : (s.port p).fn = .running)
    (hlink : (s.port p).link = .down) :
    ∃ t, exec (.wakeToneDetect p none) s = .next t ∧ (t.port p).tone = true ∧ (t.port p).link = .training
      ∧ s.onlyChanges [.reply, .out, .ports, .host, .mode, .glean, .expo] t := by
  obtain ⟨honly, htone, hlinkU, hquietU⟩ := toneIn_settles (s := s.begin) hp hquiet (reachable_parts hreach).1 hfn hlink
  have hexec : exec (.wakeToneDetect p none) s = .next { (s.begin.toneIn p none).flush with pending := s.pending } := runL_next_eq (f := fun s => s.toneIn p none) rfl
  generalize s.begin.toneIn p none = u at *
  obtain ⟨t, hexec, hparts, hports, -, -, -⟩ := quietL_settles (ps := .mode :: portParts) hexec (only_one honly) hquietU
  rw [← port_of_ports hports p] at htone hlinkU
  exact ⟨t, hexec, htone, hlinkU, only_one hparts⟩

/-! ### TRAIN frames -/

theorem trainStep1_agrees {f : Frame} (hp : p < s.ports.length) (hgot : (s.port p).train.got = 7) (hsent : (s.port p).train.agreedTx = false)
    (hquiet : s.quiet = true) : s.onlyChanges [.ports, .glean, .out] (s.trainStep1 p f) ∧ ((s.trainStep1 p f).port p).train.agreedTx = true
      ∧ ((s.trainStep1 p f).port p).train.step = (s.port p).train.step ∧ (s.trainStep1 p f).quiet = true := by
  have hsend := sendTrain_only s p
  unfold State.trainStep1
  extract_lets t got rx agreed v
  have hagreed : agreed = true := by simp [agreed, got, t, hgot]
  have hV : s.onlyChanges [.ports, .glean, .out] v := hsend _ _
  have hlen : v.ports.length = s.ports.length := by simpa using congrArg List.length (sendTrain_standing s p agreed false)
  have hport := standing_port (sendTrain_standing s p agreed false) p
  have hquietV : v.quiet = true := quiet_sendTrain hquiet p agreed false
  rw [if_neg (by rw [show t.agreedTx = false from hsent]; simp)]
  unfold State.updTrain
  have hself := updPort_port_self v p (fun q => { q with train := { q.train with
    got := got, agreedRx := rx, agreedTx := agreed, partnerMax := at_ f.payload 0 1 % 4 } }) (by rw [hlen]; exact hp)
  have honly := updPort_only v p (fun q => { q with train := { q.train with
    got := got, agreedRx := rx, agreedTx := agreed, partnerMax := at_ f.payload 0 1 % 4 } })
  simp only [PortSt.standing, Prod.mk.injEq] at hport
  obtain ⟨-, -, -, -, htrain, -⟩ := hport
  have htrainV : (v.port p).train = (s.port p).train := htrain
  refine ⟨only_step honly hV, ?_, ?_, quiet_updPort hquietV p fun _ => rfl⟩
  · rw [hself]
    exact hagreed
  · rw [hself, ← htrainV]

/-- A TRAIN frame on a port that trains, after its crier bit. -/
theorem trainFrameIn_of_training {cb : Bool} {f : Frame} (hfn : (s.port p).fn = .running) (hlink : (s.port p).link = .training)
    (hlisted : frameListed f = true) : s.trainFrameIn p cb f
      = if (s.port p).train.step = 3 then (s.takeCrier p cb).trainStep3 p f else (s.takeCrier p cb).trainStep1 p f := by
  have hhears : s.hears p = true := by
    unfold State.hears
    rw [hlink]
    rfl
  unfold State.trainFrameIn
  dsimp only
  rw [if_pos hhears, if_neg (by rw [hfn, hlink]; decide), if_neg (by rw [hlisted]; decide)]

theorem quiet_takeCrier (hquiet : s.quiet = true) (p : Nat) (b : Bool) : (s.takeCrier p b).quiet = true := by
  unfold State.takeCrier
  exact quiet_updPort hquiet p fun _ => by simp only [PortSt.still]

theorem train_of_standing {t : State} (h : s.sameStanding t) (p : Nat) : (t.port p).train = (s.port p).train ∧ (t.port p).fn = (s.port p).fn := by
  have hport := standing_port h p
  simp only [PortSt.standing, Prod.mk.injEq] at hport
  exact ⟨hport.2.2.2.2.1, hport.1⟩

theorem trainFrameIn_agrees {cb : Bool} {f : Frame} (hp : p < s.ports.length) (hquiet : s.quiet = true) (hfn : (s.port p).fn = .running)
    (hlink : (s.port p).link = .training) (hstep : (s.port p).train.step = 1) (hgot : (s.port p).train.got = 7)
    (hsent : (s.port p).train.agreedTx = false) (hlisted : frameListed f = true) :
    s.onlyChanges [.ports, .glean, .out] (s.trainFrameIn p cb f) ∧ ((s.trainFrameIn p cb f).port p).train.agreedTx = true
      ∧ ((s.trainFrameIn p cb f).port p).train.step = 1 ∧ (s.trainFrameIn p cb f).quiet = true := by
  have hcrier := takeCrier_only s p cb
  have hstand := takeCrier_standing s p cb
  have hlen : (s.takeCrier p cb).ports.length = s.ports.length := by simpa using congrArg List.length hstand
  obtain ⟨htrain, -⟩ := train_of_standing hstand p
  have hquietV := quiet_takeCrier hquiet p cb
  rw [trainFrameIn_of_training hfn hlink hlisted, if_neg (by rw [hstep]; decide)]
  generalize s.takeCrier p cb = v at *
  obtain ⟨honly, hagreed, hstepU, hquietU⟩ := trainStep1_agrees (s := v) (p := p) (f := f) (by rw [hlen]; exact hp) (by rw [htrain]; exact hgot)
    (by rw [htrain]; exact hsent) hquietV
  exact ⟨only_step honly (only_one hcrier), hagreed, hstepU.trans (by rw [htrain, hstep]), hquietU⟩

theorem trainFrame_agrees {cb : Bool} {f : Frame} (hp : p < s.ports.length) (hquiet : s.quiet = true) (hfn : (s.port p).fn = .running)
    (hlink : (s.port p).link = .training) (hstep : (s.port p).train.step = 1) (hgot : (s.port p).train.got = 7)
    (hsent : (s.port p).train.agreedTx = false) (hlisted : frameListed f = true) :
    ∃ t, exec (.trainFrameReceive p cb f) s = .next t ∧ (t.port p).train.agreedTx = true ∧ (t.port p).train.step = 1
      ∧ s.onlyChanges [.reply, .out, .ports, .host, .glean, .expo] t := by
  obtain ⟨honly, hagreed, hstepU, hquietU⟩ := trainFrameIn_agrees (s := s.begin) (cb := cb) hp hquiet hfn hlink hstep hgot hsent hlisted
  have hexec : exec (.trainFrameReceive p cb f) s = .next { (s.begin.trainFrameIn p cb f).flush with pending := s.pending } := runL_next_eq (f := fun s => s.trainFrameIn p cb f) rfl
  generalize s.begin.trainFrameIn p cb f = u at *
  obtain ⟨t, hexec, hparts, hports, -, -, -⟩ := quietL_settles (ps := portParts) hexec (only_one honly) hquietU
  rw [← port_of_ports hports p] at hagreed hstepU
  exact ⟨t, hexec, hagreed, hstepU, hparts⟩

theorem isRoot_of_parts {t : State} (htree : t.tree = s.tree) (hident : t.ident = s.ident) : t.isRoot = s.isRoot := by
  unfold State.isRoot State.hasHost
  rw [htree, hident]

theorem trainStep3_up {f : Frame} (hp : p < s.ports.length) (hgot : 63 ≤ (s.port p).train.got) (hmark : bit (at_ f.payload 1 1) 1 = true)
    (hvalid : s.tree.valid = false) (hroot : s.isRoot = false) (hwalk : s.tree.walk.active = false) :
    ∃ m : TrainSt, ((s.trainStep3 p f).port p).standing
      = ((s.port p).fn, .up, (s.port p).train.rate, some (at_ f.payload 4 8), m, ((s.sendTrain p true true).port p).tone) := by
  have hsend := sendTrain_only s p true true
  have hstand := sendTrain_standing s p true true
  have hstep3 : s.trainStep3 p f = (s.sendTrain p true true).portUp p (at_ f.payload 4 8) (at_ f.payload 2 1 % 64) (at_ f.payload 3 1 % 64) := by
    unfold State.trainStep3
    dsimp only
    rw [decide_eq_true (show 64 ≤ (s.port p).train.got + 1 by omega)]
    exact if_pos (by rw [hmark]; rfl)
  rw [hstep3]
  generalize s.sendTrain p true true = w at *
  have htree : w.tree = s.tree := hsend .tree (by decide)
  have hlen : w.ports.length = s.ports.length := by simpa using congrArg List.length hstand
  obtain ⟨htrain, hfn⟩ := train_of_standing hstand p
  have hup := portUp_unnumbered (s := w) (p := p) (uid := at_ f.payload 4 8) (a := at_ f.payload 2 1 % 64) (b := at_ f.payload 3 1 % 64)
    (by rw [htree]; exact hvalid) ((isRoot_of_parts htree (hsend .ident (by decide))).trans hroot) (by rw [htree]; exact hwalk) (by rw [hlen]; exact hp)
  rw [hup, htrain, hfn]
  exact ⟨_, rfl⟩

theorem trainFrameIn_up {cb : Bool} {f : Frame} (hp : p < s.ports.length) (hfn : (s.port p).fn = .running)
    (hlink : (s.port p).link = .training) (hstep : (s.port p).train.step = 3) (hgot : 63 ≤ (s.port p).train.got)
    (hmark : bit (at_ f.payload 1 1) 1 = true) (hlisted : frameListed f = true) (hvalid : s.tree.valid = false) (hroot : s.isRoot = false)
    (hwalk : s.tree.walk.active = false) : ∃ m b, ((s.trainFrameIn p cb f).port p).standing
      = ((s.port p).fn, .up, (s.port p).train.rate, some (at_ f.payload 4 8), m, b) := by
  have hcrier := takeCrier_only s p cb
  have hstand := takeCrier_standing s p cb
  rw [trainFrameIn_of_training hfn hlink hlisted, if_pos hstep]
  generalize s.takeCrier p cb = v at *
  have htree : v.tree = s.tree := hcrier .tree (by decide)
  have hlen : v.ports.length = s.ports.length := by simpa using congrArg List.length hstand
  obtain ⟨htrain, hfnV⟩ := train_of_standing hstand p
  obtain ⟨m, hup⟩ := trainStep3_up (s := v) (p := p) (f := f) (by rw [hlen]; exact hp) (by rw [htrain]; exact hgot) hmark (by rw [htree]; exact hvalid)
    ((isRoot_of_parts htree (hcrier .ident (by decide))).trans hroot) (by rw [htree]; exact hwalk)
  rw [hup, htrain, hfnV]
  exact ⟨m, _, rfl⟩

theorem trainFrame_up {cb : Bool} {f : Frame} (hp : p < s.ports.length) (hfn : (s.port p).fn = .running)
    (hlink : (s.port p).link = .training) (hstep : (s.port p).train.step = 3) (hgot : 63 ≤ (s.port p).train.got)
    (hmark : bit (at_ f.payload 1 1) 1 = true) (hlisted : frameListed f = true) (hvalid : s.tree.valid = false) (hroot : s.isRoot = false)
    (hwalk : s.tree.walk.active = false) :
    ∃ t, exec (.trainFrameReceive p cb f) s = .next t ∧ (t.port p).link = .up ∧ (t.port p).rateNow = (s.port p).train.rate
      ∧ (t.port p).partner = some (at_ f.payload 4 8) := by
  obtain ⟨m, b, hup⟩ := trainFrameIn_up (s := s.begin) (cb := cb) hp hfn hlink hstep hgot hmark hlisted hvalid hroot hwalk
  have hexec : exec (.trainFrameReceive p cb f) s = .next { (s.begin.trainFrameIn p cb f).flush with pending := s.pending } := runL_next_eq (f := fun s => s.trainFrameIn p cb f) rfl
  have hflush := standing_port (flush_standing (s.begin.trainFrameIn p cb f)) p
  rw [hup] at hflush
  generalize (s.begin.trainFrameIn p cb f).flush = x at *
  simp only [PortSt.standing, Prod.mk.injEq] at hflush
  obtain ⟨-, hlinkX, hrateX, hpartnerX, -, -⟩ := hflush
  exact ⟨_, hexec, hlinkX, hrateX, hpartnerX⟩

/-- The training of a port whose rate gave way to the next lower one. -/
def TrainSt.slower (t : TrainSt) (w : Nat) : TrainSt := { t with rate := t.rate - 1, got := 0, since := w }

/-- The port whose rate gave way. -/
def PortSt.slower (q : PortSt) (w : Nat) : PortSt := { q with train := q.train.slower w }

theorem rateTimeout_slows (hfn : (s.port p).fn = .running) (hlink : (s.port p).link = .training)
    (hstep : (s.port p).train.step = 3) (hdue : ttMs ≤ s.clk.wall - (s.port p).train.since) (hrate : 0 < (s.port p).train.rate) :
    s.rateTimeout p = (s.updPort p (fun q => q.slower s.clk.wall)).sendTrain p true false := by
  unfold State.rateTimeout
  dsimp only
  rw [if_pos (by
    rw [hfn, hlink, hstep, decide_eq_true (show ttMs ≤ s.since (s.port p).train.since from hdue)]
    rfl), if_pos hrate]
  rfl

theorem rateTimeout_settles (hp : p < s.ports.length) (hquiet : s.quiet = true) (hfn : (s.port p).fn = .running) (hlink : (s.port p).link = .training)
    (hstep : (s.port p).train.step = 3) (hdue : ttMs ≤ s.clk.wall - (s.port p).train.since) (hrate : 0 < (s.port p).train.rate) :
    s.onlyChanges [.ports, .glean, .out] (s.rateTimeout p) ∧ ((s.rateTimeout p).port p).train = (s.port p).train.slower s.clk.wall
      ∧ (∃ g : Frame, g.typ = 0 ∧ (s.rateTimeout p).out = s.out ++ [.train p ((s.port p).train.rate - 1) (s.crierBit p).1 g])
      ∧ (s.rateTimeout p).quiet = true := by
  rw [rateTimeout_slows hfn hlink hstep hdue hrate, crierBit_fst]
  have hself := updPort_port_self s p (fun q => q.slower s.clk.wall) hp
  have hquietV := quiet_updPort hquiet p (f := fun q => q.slower s.clk.wall) fun _ => rfl
  have hV := updPort_only s p (fun q => q.slower s.clk.wall)
  generalize s.updPort p (fun q => q.slower s.clk.wall) = v at *
  have hsent := sendTrain_out (s := v) (p := p) (by rw [hself]; exact hfn) true false
  obtain ⟨htrain, -⟩ := train_of_standing (sendTrain_standing v p true false) p
  have hout : v.out = s.out := hV .out (by decide)
  refine ⟨only_step (sendTrain_only v p true false) (only_one hV), htrain.trans (by rw [hself]; rfl), ⟨trainFrame v p true false, rfl, ?_⟩,
    quiet_sendTrain hquietV p true false⟩
  rw [hsent, hself, hout]
  rfl

theorem rateTimeout_answer (hp : p < s.ports.length) (hquiet : s.quiet = true) (hfn : (s.port p).fn = .running) (hlink : (s.port p).link = .training)
    (hstep : (s.port p).train.step = 3) (hdue : ttMs ≤ s.clk.wall - (s.port p).train.since) (hrate : 0 < (s.port p).train.rate) :
    ∃ t, exec (.trainingRateTimeout p) s = .next t ∧ (t.port p).train = (s.port p).train.slower s.clk.wall
      ∧ t.out.any (fun e => match e with
          | .train x r cb g => x == p && r == (s.port p).train.rate - 1 && cb == (s.crierBit p).1 && g.typ == 0
          | _ => false) = true
      ∧ s.onlyChanges [.reply, .out, .ports, .host, .glean, .expo] t := by
  obtain ⟨honly, htrain, ⟨g, htyp, houtU⟩, hquietU⟩ := rateTimeout_settles (s := s.begin) hp hquiet hfn hlink hstep hdue hrate
  have hexec : exec (.trainingRateTimeout p) s = .next { (s.begin.rateTimeout p).flush with pending := s.pending } := runL_next_eq (f := fun s => s.rateTimeout p) rfl
  generalize s.begin.rateTimeout p = u at *
  obtain ⟨t, hexec, hparts, hports, hout, -, -⟩ := quietL_settles (ps := portParts) hexec (only_one honly) hquietU
  rw [← port_of_ports hports p] at htrain
  have hbit : (s.begin.crierBit p).1 = (s.crierBit p).1 := by rw [crierBit_fst, crierBit_fst]; rfl
  refine ⟨t, hexec, htrain, ?_, hparts⟩
  rw [hout, houtU, hbit]
  simp [htyp, State.begin, State.port]

/-! ### Loss and the wake tone -/

/-- The port that has lost its signal, with nothing to hand back. -/
def PortSt.lost (q : PortSt) (w : Nat) : PortSt :=
  let back := q.txq.safety ++ q.txq.control ++ q.txq.data ++ q.txq.bulk
  { q with
    link := .lost, lostAt := some w
    held := if q.kid.isSome then q.held ++ back else q.held
    txq := if q.kid.isSome then { q.txq with safety := [], control := [], data := [], bulk := [] } else q.txq }

theorem still_of_quiet (hquiet : s.quiet = true) (hp : p < s.ports.length) : (s.port p).still = true := by
  have hmem : s.port p ∈ s.ports := by
    rw [State.port, List.getD_eq_getElem _ _ hp]
    exact List.getElem_mem hp
  exact List.all_eq_true.mp hquiet _ hmem

/-- A quiet port stays so, whatever changes, where what it has queued and owes is kept. -/
theorem quiet_updPort_at {f : PortSt → PortSt} (hquiet : s.quiet = true) (hf : (f (s.port p)).still = true) : (s.updPort p f).quiet = true := by
  unfold State.quiet State.updPort updAt
  dsimp only
  split
  · rename_i x hx
    refine List.all_eq_true.mpr fun y hy => ?_
    obtain ⟨hp, hget⟩ := List.getElem?_eq_some_iff.mp hx
    have hport : s.port p = x := by rw [State.port, List.getD_eq_getElem _ _ hp, hget]
    rw [hport] at hf
    rcases List.mem_or_eq_of_mem_set hy with h | rfl
    · exact List.all_eq_true.mp hquiet y h
    · exact hf
  · exact hquiet

theorem signalLoss_loses (hp : p < s.ports.length) (hquiet : s.quiet = true) (hawake : s.awake = true) (hfn : (s.port p).fn = .running)
    (hlink : (s.port p).link = .up) (hvalid : s.tree.valid = false) (hroot : s.isRoot = false) :
    s.onlyChanges [.ports, .mode, .fault] (s.signalLoss p) ∧ ((s.signalLoss p).port p).link = .lost
      ∧ ((s.signalLoss p).port p).lostAt = some s.clk.wall
      ∧ (s.signalLoss p).fault.evq = s.fault.evq ++ [{ id := 9, item := p, time := s.clk.tt, mode := s.mode.mode.code }]
      ∧ (s.signalLoss p).quiet = true := by
  have hself := updPort_port_self s p (fun _ => (s.port p).lost s.clk.wall) hp
  have hlost : s.updPort p (fun q => { q with
      link := .lost, lostAt := some s.wall
      held := if q.kid.isSome then q.held ++ ((s.port p).txq.safety ++ (s.port p).txq.control ++ (s.port p).txq.data ++ (s.port p).txq.bulk) else q.held
      txq := if q.kid.isSome then { (s.port p).txq with safety := [], control := [], data := [], bulk := [] } else (s.port p).txq })
      = s.updPort p (fun _ => (s.port p).lost s.clk.wall) := by
    unfold State.updPort updAt
    have hget : s.ports[p]? = some (s.port p) := by rw [State.port, List.getD_eq_getElem _ _ hp, List.getElem?_eq_getElem hp]
    rw [hget]
    rfl
  have hstill := still_of_quiet hquiet hp
  have hquietV : (s.updPort p (fun _ => (s.port p).lost s.clk.wall)).quiet = true := by
    refine quiet_updPort_at hquiet ?_
    unfold PortSt.still at hstill ⊢
    unfold PortSt.lost
    dsimp only
    simp only [Bool.and_eq_true] at hstill
    split <;> simp [hstill]
  have hV := updPort_only s p (fun _ => (s.port p).lost s.clk.wall)
  unfold State.signalLoss
  extract_lets q before t back v u w
  rw [if_neg (by rw [show q.fn = .running from hfn, show q.link = .up from hlink]; decide)]
  have hveq : v = s.updPort p (fun _ => (s.port p).lost s.clk.wall) := hlost
  have hrecut : v.recut before = { v with mode := { v.mode with cutSince := none } } := by
    rw [recut_of_unnumbered hvalid]
    unfold State.trackCut
    exact if_pos (by rw [cutOff_of_unnumbered (s := v) (by rw [hveq]; exact hvalid)]; rfl)
  have hU : u = { s.updPort p (fun _ => (s.port p).lost s.clk.wall) with
      mode := { s.mode with cutSince := none }
      fault := { s.fault with evq := s.fault.evq ++ [{ id := 9, item := p, time := s.clk.tt, mode := s.mode.mode.code }] } } := by
    unfold u
    rw [hrecut, raise_of_awake (by rw [hveq]; exact hawake), hveq]
    rfl
  have hW : w = u := if_neg (by
    rw [hU]
    simp only [Bool.or_eq_true, not_or, Bool.not_eq_true]
    exact ⟨hvalid, hroot⟩)
  rw [if_neg (by rw [hW, hU]; simp only [Bool.and_eq_true, not_and, Bool.not_eq_true]; intro h; exact absurd (show s.tree.valid = true from h.1) (by rw [hvalid]; decide)), hW, hU]
  generalize s.updPort p (fun _ => (s.port p).lost s.clk.wall) = x at *
  have hport (m : ModeSt) (f : FaultSt) : ({ x with mode := m, fault := f } : State).port p = (s.port p).lost s.clk.wall := hself
  rw [hport]
  refine ⟨only_step ?_ (only_one hV) (qs := [.mode, .fault]), rfl, rfl, rfl, hquietV⟩
  exact fun q hq => by cases q <;> first | rfl | exact absurd (by decide) hq

theorem signalLoss_answer (hp : p < s.ports.length) (hquiet : s.quiet = true) (hreach : s.reachable = true) (hfn : (s.port p).fn = .running)
    (hlink : (s.port p).link = .up) (hvalid : s.tree.valid = false) (hroot : s.isRoot = false) :
    ∃ t, exec (.signalLoss p) s = .next t ∧ (t.port p).link = .lost ∧ (t.port p).lostAt = some s.clk.wall
      ∧ t.fault.evq = s.fault.evq ++ [{ id := 9, item := p, time := s.clk.tt, mode := s.mode.mode.code }]
      ∧ s.onlyChanges [.reply, .out, .ports, .host, .mode, .fault, .glean, .expo] t := by
  obtain ⟨honly, hlinkU, hlostU, hevq, hquietU⟩ := signalLoss_loses (s := s.begin) hp hquiet (reachable_parts hreach).1 hfn hlink hvalid hroot
  have hexec : exec (.signalLoss p) s = .next { (s.begin.signalLoss p).flush with pending := s.pending } :=
    runL_next_eq (f := fun s => s.signalLoss p) rfl
  generalize s.begin.signalLoss p = u at *
  obtain ⟨t, hexec, hparts, hports, -, -, hfault⟩ := quietL_settles (ps := .mode :: .fault :: portParts) hexec (only_one honly) hquietU
  rw [← port_of_ports hports p] at hlinkU hlostU
  rw [← hfault] at hevq
  exact ⟨t, hexec, hlinkU, hlostU, hevq, only_one hparts⟩

/-- A wake tone on one port, where it is due. -/
def State.toneOn (s : State) (p : Nat) : State :=
  if s.toneDue p then (s.updPort p (fun q => { q with toneAt := s.wall, lastTx := s.wall })).emit (.tone p none) else s

theorem toneOn_only (s : State) (p : Nat) : s.onlyChanges [.ports, .out] (s.toneOn p) :=
  only_ite (only_step (emit_only _ _) (only_one (updPort_only s p _))) (only_refl _ s)

theorem toneOn_length (s : State) (p : Nat) : (s.toneOn p).ports.length = s.ports.length := by
  unfold State.toneOn
  split
  · exact updAt_length _ _ _
  · rfl

/-- The tone of a port has gone out at wall time w. -/
def State.toned (s : State) (p w : Nat) : Prop := .tone p none ∈ s.out ∧ (s.port p).toneAt = w

theorem toneOn_toned {k w : Nat} (hp : p < s.ports.length) (hw : s.clk.wall = w) (h : s.toned p w) : (s.toneOn k).toned p w := by
  unfold State.toneOn
  split
  · obtain ⟨hmem, htone⟩ := h
    refine ⟨List.mem_append_left _ hmem, ?_⟩
    by_cases hk : k = p
    · subst hk
      exact (congrArg PortSt.toneAt (updPort_port_self s k _ hp)).trans hw
    · exact (congrArg PortSt.toneAt (updPort_port_ne s k p _ hk)).trans htone
  · exact h

theorem toneOn_due {w : Nat} (hp : p < s.ports.length) (hw : s.clk.wall = w) (h : s.toneDue p = true) : (s.toneOn p).toned p w := by
  unfold State.toneOn
  rw [if_pos h]
  exact ⟨List.mem_append_right _ List.mem_cons_self, (congrArg PortSt.toneAt (updPort_port_self s p _ hp)).trans hw⟩

theorem toneOn_other {k : Nat} (hk : k ≠ p) (h : s.toneDue p = true) : (s.toneOn k).toneDue p = true := by
  unfold State.toneOn
  split
  · have hport : ((s.updPort k (fun q => { q with toneAt := s.wall, lastTx := s.wall })).emit (.tone k none)).port p = s.port p := updPort_port_ne s k p _ hk
    unfold State.toneDue at h ⊢
    rw [hport]
    exact h
  · exact h

theorem toneOns_toned {l : List Nat} {w : Nat} (hp : p < s.ports.length) (hw : s.clk.wall = w) (h : s.toned p w) : (l.foldl State.toneOn s).toned p w := by
  induction l generalizing s with
  | nil => exact h
  | cons k l ih =>
    exact ih (by rw [toneOn_length]; exact hp) ((congrArg ClkSt.wall (toneOn_only s k .clk (by decide))).trans hw) (toneOn_toned hp hw h)

theorem toneOns_due {l : List Nat} {w : Nat} (hp : p < s.ports.length) (hw : s.clk.wall = w) (h : s.toneDue p = true) (hl : p ∈ l) :
    (l.foldl State.toneOn s).toned p w := by
  induction l generalizing s with
  | nil => exact absurd hl List.not_mem_nil
  | cons k l ih =>
    have hlen : p < (s.toneOn k).ports.length := by rw [toneOn_length]; exact hp
    have hwall : (s.toneOn k).clk.wall = w := (congrArg ClkSt.wall (toneOn_only s k .clk (by decide))).trans hw
    by_cases hk : k = p
    · subst hk
      exact toneOns_toned (s := s.toneOn k) hlen hwall (toneOn_due hp hw h)
    · exact ih (s := s.toneOn k) hlen hwall (toneOn_other hk h) ((List.mem_cons.mp hl).resolve_left (Ne.symm hk))

theorem wakeToneSend_answer (hp4 : p < 4) (hp : p < s.ports.length) (hreach : s.reachable = true) (hcut : s.cutOff = false)
    (hfn : (s.port p).fn = .running) (hever : (s.port p).everUp = true) (hlink : (s.port p).link = .down)
    (hdue : 10 * ttMs ≤ s.clk.wall - (s.port p).toneAt) :
    ∃ t, exec .wakeToneSend s = .next t ∧ .tone p none ∈ t.out ∧ (t.port p).toneAt = s.clk.wall ∧ s.onlyChanges [.reply, .out, .ports, .host] t := by
  have hawake : s.awake = true := (reachable_parts hreach).1
  have hdormant : s.mode.mode ≠ .dormant := fun h => by
    unfold State.awake State.inMode at hawake
    rw [h] at hawake
    exact absurd hawake (by decide)
  have hwhen : when_ (s.begin.reachable && s.begin.mode.mode != .dormant && !s.begin.cutOff) (fun s => [0, 1, 2, 3].foldl State.toneOn s) s.begin
      = [0, 1, 2, 3].foldl State.toneOn s.begin := by
    unfold when_
    refine if_pos ?_
    rw [show s.begin.reachable = true from hreach, show s.begin.cutOff = false from hcut]
    simpa using hdormant
  have hexec : exec .wakeToneSend s = .next { [0, 1, 2, 3].foldl State.toneOn s.begin with pending := s.pending } :=
    (runCore_of_runs (reachable_parts hreach).2).trans (run_next_eq (f := fun s => when_ (s.reachable && s.mode.mode != .dormant && !s.cutOff)
      (fun s => [0, 1, 2, 3].foldl State.toneOn s) s) hwhen)
  have hdueB : s.begin.toneDue p = true := by
    unfold State.toneDue
    dsimp only
    rw [show (s.begin.port p).fn = .running from hfn, show (s.begin.port p).everUp = true from hever, show (s.begin.port p).link = .down from hlink,
      decide_eq_true (show 10 * ttMs ≤ s.begin.since (s.begin.port p).toneAt from hdue)]
    rfl
  have hmem : p ∈ [0, 1, 2, 3] := by simp; omega
  obtain ⟨hout, htone⟩ := toneOns_due (s := s.begin) hp rfl hdueB hmem
  have honly : s.begin.onlyChanges [.ports, .out] ([0, 1, 2, 3].foldl State.toneOn s.begin) := only_foldl toneOn_only
  generalize [0, 1, 2, 3].foldl State.toneOn s.begin = u at *
  have hparts : s.begin.onlyChanges [.reply, .out, .ports, .host] u := only_one honly
  exact ⟨_, hexec, hout, htone, next_only hparts⟩

/-- Settles O47: each command of a port changes that port as the chapter says, and ports with nothing to send stay as they are. -/
theorem portsTrainAndStop : Obligations.PortsTrainAndStop := by
  unfold Obligations.PortsTrainAndStop
  intro s p n cb f hp4 hports hquiet hreach
  have hp : p < s.ports.length := by omega
  refine ⟨portStart_answers hp hquiet hreach, portStart_refused hquiet hreach, portStop_upstream hquiet hreach, portStop_stops hp hquiet hreach,
    portStopped_answers hp hreach, symbols_answer hp hquiet hreach, ?_, ?_, ?_, ?_, wakeTone_answer hp hquiet hreach, wakeToneSend_answer hp4 hp hreach⟩
  · exact fun hfn hlink hstep hgot hsent hlisted => trainFrame_agrees hp hquiet hfn hlink hstep hgot hsent hlisted
  · exact fun hfn hlink hstep hgot hmark hlisted hvalid hroot hwalk => trainFrame_up hp hfn hlink hstep hgot hmark hlisted hvalid hroot hwalk
  · exact fun hfn hlink hstep hdue hrate => rateTimeout_answer hp hquiet hfn hlink hstep hdue hrate
  · exact fun hfn hlink hvalid hroot => signalLoss_answer hp hquiet hreach hfn hlink hvalid hroot

end Sys2Proof.Machine
end

section
/-!
A TIME frame that is sent again (07 R193, 08 R240) carries the stamp of its new sending: it is not the frame that went out first.
-/
namespace Sys2Proof.Machine

-- one proof at a time: these proofs share the equations of the operations they unfold
set_option Elab.async false

/-- A SYNC that has not been acknowledged, sent at tree time 0. -/
def sentSync : Unacked := { frame := { (default : Frame) with typ := 9, cls := 1, payload := 1 :: List.replicate 29 0 }, hseq := 0, retries := 0, sentAt := 0 }

/-- A device in QUIET at tree time 5, whose port A is UP with that frame unacknowledged. -/
def awaitingAck : State := { State.reset with
  mode.mode := .quiet, clk.tt := 5
  ports := State.reset.ports.set 0 { PortSt.reset with
    fn := .running, link := .up, lRetry := 15, spaceN := { SeqSpace.reset with unacked := [sentSync] } } }

theorem awaitingAck_restamps :
    ((stateAfter (.shortFrameReceive 0 0x1F 1 0) awaitingAck).port 0).spaceN.unacked ≠ [{ sentSync with retries := sentSync.retries + 1, sentAt := awaitingAck.clk.wall }] := by
  decide +kernel

/-- Refutes O48: the NAK of the frame of `awaitingAck` sends it again with another stamp. -/
theorem not_hopsAcknowledgeAndRepeat : ¬ Obligations.HopsAcknowledgeAndRepeat := by
  intro h
  obtain ⟨-, hnak, -⟩ := h awaitingAck 0 0 false default sentSync sentSync 1 0 0 (by decide +kernel) (by decide +kernel) (by decide +kernel)
  obtain ⟨t, hexec, hunacked, -⟩ := hnak (by decide +kernel) (by decide) (by decide +kernel)
  have hother := awaitingAck_restamps
  rw [stateAfter_of_next hexec] at hother
  exact hother hunacked

end Sys2Proof.Machine
end

section
/-!
The crier side channel and the legacy segment (07 R208, R211, R212).
-/
namespace Sys2Proof.Machine

-- one proof at a time: these proofs share the equations of the operations they unfold
set_option Elab.async false

variable {s : State} {p x : Nat} {r : LegacyReq} {rs : List LegacyReq} {d : LegacyDev} {bs : List Byte}

/-! ### Crier messages -/

/-- The port with the message its bits give. -/
def PortSt.heardMessage (q : PortSt) (m : List Byte) : PortSt := { q with
  crier := { q.crier with rxBits := [], last := m }, cnt := { q.cnt with crierOk := sat 0xFFFF (q.cnt.crierOk + 1) } }

/-- The port with a message whose CRC does not match. -/
def PortSt.heardBad (q : PortSt) : PortSt := { q with
  crier := { q.crier with rxBits := q.crier.rxBits.drop 1 }, cnt := { q.cnt with crierBad := sat 0xFFFF (q.cnt.crierBad + 1) } }

section
variable (hlen : 256 ≤ (s.port p).crier.rxBits.length) (hsync : at_ (bytesOfBits 32 (s.port p).crier.rxBits) 0 2 = 0x7E96)
include hlen hsync

theorem crierIn_good (hcrc : at_ (bytesOfBits 32 (s.port p).crier.rxBits) 31 1 = crc8 (slice (bytesOfBits 32 (s.port p).crier.rxBits) 2 29))
    (hvalid : s.tree.valid = false) (hroot : s.isRoot = false) :
    s.crierIn p x = s.updPort p (fun q => q.heardMessage (bytesOfBits 32 (s.port p).crier.rxBits)) := by
  unfold State.crierIn
  extract_lets bits m v parent w
  rw [if_neg (by rw [decide_eq_false (show ¬ bits.length < 256 from Nat.not_lt.mpr hlen), show at_ m 0 2 = 0x7E96 from hsync]; decide),
    if_pos (show at_ m 31 1 = crc8 (slice m 2 29) from hcrc)]
  have hw : w = v := if_neg (by rw [show v.isRoot = false from hroot]; decide)
  rw [hw]
  unfold State.tphaseCheck
  exact if_pos (by rw [show v.tree.valid = false from hvalid]; simp)

theorem crierIn_bad (hcrc : at_ (bytesOfBits 32 (s.port p).crier.rxBits) 31 1 ≠ crc8 (slice (bytesOfBits 32 (s.port p).crier.rxBits) 2 29)) :
    s.crierIn p x = s.updPort p PortSt.heardBad := by
  unfold State.crierIn
  extract_lets bits m v w
  rw [if_neg (by rw [decide_eq_false (show ¬ bits.length < 256 from Nat.not_lt.mpr hlen), show at_ m 0 2 = 0x7E96 from hsync]; decide),
    if_neg (show ¬ at_ m 31 1 = crc8 (slice m 2 29) from hcrc)]
  rfl

end

/-- A command that changes one port alone. -/
theorem updPort_next {i : Instr} {f : PortSt → PortSt} (hp : p < s.ports.length)
    (hexec : exec i s = .next { s.begin.updPort p f with pending := s.pending }) :
    ∃ t, exec i s = .next t ∧ t.port p = f (s.port p) ∧ s.onlyChanges [.reply, .out, .ports, .host] t := by
  have hself := updPort_port_self s.begin p f hp
  have hparts : s.onlyChanges [.reply, .out, .ports, .host] { s.begin.updPort p f with pending := s.pending } :=
    next_only (only_one (updPort_only s.begin p f))
  exact ⟨_, hexec, hself, hparts⟩

theorem crierMessage_kept (hp : p < s.ports.length) (hlen : 256 ≤ (s.port p).crier.rxBits.length)
    (hsync : at_ (bytesOfBits 32 (s.port p).crier.rxBits) 0 2 = 0x7E96)
    (hcrc : at_ (bytesOfBits 32 (s.port p).crier.rxBits) 31 1 = crc8 (slice (bytesOfBits 32 (s.port p).crier.rxBits) 2 29))
    (hvalid : s.tree.valid = false) (hroot : s.isRoot = false) :
    ∃ t, exec (.crierMessageComplete p x) s = .next t ∧ (t.port p).crier.last = bytesOfBits 32 (s.port p).crier.rxBits
      ∧ (t.port p).crier.rxBits = [] ∧ (t.port p).cnt.crierOk = sat 0xFFFF ((s.port p).cnt.crierOk + 1) ∧ s.onlyChanges [.reply, .out, .ports, .host] t := by
  obtain ⟨t, hexec, hport, hparts⟩ := updPort_next (i := .crierMessageComplete p x) (f := fun q => q.heardMessage (bytesOfBits 32 (s.port p).crier.rxBits)) hp
    (run_next_eq (f := fun s => s.crierIn p x) (crierIn_good (s := s.begin) hlen hsync hcrc hvalid hroot))
  refine ⟨t, hexec, ?_, ?_, ?_, hparts⟩ <;> rw [hport] <;> rfl

theorem crierMessage_bad (hp : p < s.ports.length) (hlen : 256 ≤ (s.port p).crier.rxBits.length)
    (hsync : at_ (bytesOfBits 32 (s.port p).crier.rxBits) 0 2 = 0x7E96)
    (hcrc : at_ (bytesOfBits 32 (s.port p).crier.rxBits) 31 1 ≠ crc8 (slice (bytesOfBits 32 (s.port p).crier.rxBits) 2 29)) :
    ∃ t, exec (.crierMessageComplete p x) s = .next t ∧ (t.port p).crier.last = (s.port p).crier.last
      ∧ (t.port p).crier.rxBits = (s.port p).crier.rxBits.drop 1
      ∧ (t.port p).cnt.crierBad = sat 0xFFFF ((s.port p).cnt.crierBad + 1) ∧ s.onlyChanges [.reply, .out, .ports, .host] t := by
  obtain ⟨t, hexec, hport, hparts⟩ := updPort_next (i := .crierMessageComplete p x) (f := PortSt.heardBad) hp
    (run_next_eq (f := fun s => s.crierIn p x) (crierIn_bad (s := s.begin) hlen hsync hcrc))
  refine ⟨t, hexec, ?_, ?_, ?_, hparts⟩ <;> rw [hport] <;> rfl

/-! ### The legacy segment -/

/-- The parts that a request on the legacy segment changes. -/
def legacyParts : List Part := .legacy :: portParts

theorem quiet_legacySend (hquiet : s.quiet = true) : s.legacySend.quiet = true := by
  unfold State.legacySend
  split
  · exact hquiet
  · split
    · exact hquiet
    · exact quiet_updPort hquiet 1 fun _ => rfl

/-- A running legacy port sends the request at the head of its queue. -/
theorem legacySend_sends (hfn : (s.port 1).fn = .running) (hqueue : s.legacy.queue = r :: rs) :
    .legacy r.addr r.cmd r.data (legacyCrc r.addr r.cmd r.data) ∈ s.legacySend.out := by
  unfold State.legacySend
  rw [hqueue]
  dsimp only
  rw [if_neg (by rw [hfn]; decide)]
  exact List.mem_append_right _ List.mem_cons_self

theorem legacySend_cnt (s : State) : (s.legacySend.port 1).cnt = (s.port 1).cnt := by
  unfold State.legacySend
  split
  · rfl
  · split
    · rfl
    · by_cases hp : 1 < s.ports.length
      · have hcnt := congrArg PortSt.cnt (updPort_port_self s 1 (fun q => { q with lastTx := s.wall }) hp)
        exact hcnt
      · have hnone : s.ports[1]? = none := List.getElem?_eq_none_iff.mpr (by omega)
        have hsame : ∀ f, s.updPort 1 f = s := fun f => by simp [State.updPort, updAt, hnone]
        rw [hsame]
        rfl

/-- The request at the head of the queue, asked for once more. -/
def State.asksAgain (s : State) (r : LegacyReq) : State := { s with legacy := { s.legacy with queue := [{ r with tries := r.tries + 1 }] } }

/-- The segment without the KG1200 that did not answer. -/
def State.withoutReply (s : State) (r : LegacyReq) : State :=
  { s.updPort 1 (fun q => { q with cnt := { q.cnt with legacyNoReply := sat 0xFFFF (q.cnt.legacyNoReply + 1) } }) with
    legacy := { s.legacy with
      devs := s.legacy.devs.map (fun (d : LegacyDev) => if d.index = r.addr then { d with present := false } else d) } }

section
variable (hlink : (s.port 1).link = .legacy) (hdue : 4096 ≤ s.clk.wall - (s.port 1).lastTx) (hcmd : r.cmd ≠ 1) (hqueue : s.legacy.queue = [r])
include hlink hdue hcmd hqueue

theorem legacyTimeout_fails : s.legacyTimeout = s.legacyFail false := by
  unfold State.legacyTimeout
  rw [hqueue]
  dsimp only
  rw [if_neg (by rw [hlink, decide_eq_false (show ¬ s.since (s.port 1).lastTx < 4096 from Nat.not_lt.mpr hdue)]; decide),
    if_neg (by simp [hcmd])]

theorem legacyTimeout_again (htries : r.tries < 2) : s.legacyTimeout = (s.asksAgain r).legacySend := by
  rw [legacyTimeout_fails hlink hdue hcmd hqueue]
  unfold State.legacyFail
  rw [hqueue]
  exact if_pos htries

theorem legacyTimeout_absent (htries : 2 ≤ r.tries) (htag : r.tag = none) : s.legacyTimeout = (s.withoutReply r).legacyNext none := by
  rw [legacyTimeout_fails hlink hdue hcmd hqueue]
  unfold State.legacyFail
  rw [hqueue]
  dsimp only
  rw [if_neg (Nat.not_lt.mpr htries), htag]
  rfl

end

theorem asksAgain_only (s : State) (r : LegacyReq) : s.onlyChanges [.legacy] (s.asksAgain r) := fun q hq => by
  cases q <;> first | rfl | exact absurd (by decide) hq

theorem legacyReply_again (hcore : s.coreRuns = true) (hquiet : s.quiet = true) (hlink : (s.port 1).link = .legacy) (hfn : (s.port 1).fn = .running)
    (hqueue : s.legacy.queue = [r]) (hdue : 4096 ≤ s.clk.wall - (s.port 1).lastTx) (hcmd : r.cmd ≠ 1) (htries : r.tries < 2) :
    ∃ t, exec .legacyReplyTimeout s = .next t ∧ t.legacy.queue = [{ r with tries := r.tries + 1 }]
      ∧ .legacy r.addr r.cmd r.data (legacyCrc r.addr r.cmd r.data) ∈ t.out ∧ s.onlyChanges [.reply, .out, .legacy, .ports, .host, .glean, .expo] t := by
  have hexec : exec .legacyReplyTimeout s = .next { s.begin.legacyTimeout.flush with pending := s.pending } :=
    (runCoreL_of_runs hcore).trans (runL_next_eq (f := State.legacyTimeout) rfl)
  rw [legacyTimeout_again (s := s.begin) hlink hdue hcmd hqueue htries] at hexec
  have hsent : .legacy r.addr r.cmd r.data (legacyCrc r.addr r.cmd r.data) ∈ (s.begin.asksAgain r).legacySend.out :=
    legacySend_sends (s := s.begin.asksAgain r) (r := { r with tries := r.tries + 1 }) (rs := []) hfn rfl
  have hquietU := quiet_legacySend (s := s.begin.asksAgain r) hquiet
  have hsend := legacySend_only (s.begin.asksAgain r)
  have hagain := asksAgain_only s.begin r
  have hq : (s.begin.asksAgain r).legacy.queue = [{ r with tries := r.tries + 1 }] := rfl
  generalize s.begin.asksAgain r = v at *
  generalize v.legacySend = u at *
  have honly : s.begin.onlyChanges legacyParts u := only_step hsend (only_one hagain)
  have hlegacy : u.legacy = v.legacy := hsend .legacy (by decide)
  have hflush : u.flush.legacy = u.legacy := flush_only u .legacy (by decide)
  have hout := flush_out_of_quiet hquietU
  have hparts := nextL_only honly
  generalize u.flush = w at *
  refine ⟨_, hexec, ?_, ?_, only_one hparts⟩
  · dsimp only
    rw [hflush, hlegacy, hq]
  · dsimp only
    rw [hout]
    exact hsent

theorem pollEnd_parts (s : State) : s.onlyChanges [.legacy] s.pollEnd ∧ s.pollEnd.legacy.queue = s.legacy.queue ∧ s.pollEnd.legacy.devs = s.legacy.devs := by
  unfold State.pollEnd
  split
  · exact ⟨only_refl _ s, rfl, rfl⟩
  · exact ⟨fun q hq => by cases q <;> first | rfl | exact absurd (by decide) hq, rfl, rfl⟩

/-- What follows the head of the queue is left, and goes out. -/
theorem legacyNext_none (s : State) : ∃ v, s.legacyNext none = v.legacySend ∧ s.onlyChanges [.legacy] v ∧ v.legacy.queue = s.legacy.queue.drop 1
    ∧ v.legacy.devs = s.legacy.devs := by
  obtain ⟨honly, hqueue, hdevs⟩ := pollEnd_parts ({ s with legacy := { s.legacy with queue := s.legacy.queue.drop 1 } } : State)
  have hdrop : s.onlyChanges [.legacy] ({ s with legacy := { s.legacy with queue := s.legacy.queue.drop 1 } } : State) := fun q hq => by
    cases q <;> first | rfl | exact absurd (by decide) hq
  exact ⟨_, rfl, only_trans hdrop honly, hqueue, hdevs⟩

theorem legacyReply_absent (hcore : s.coreRuns = true) (hp : 1 < s.ports.length) (hlink : (s.port 1).link = .legacy)
    (hqueue : s.legacy.queue = [r]) (hdue : 4096 ≤ s.clk.wall - (s.port 1).lastTx) (hcmd : r.cmd ≠ 1) (htries : 2 ≤ r.tries) (htag : r.tag = none)
    (hquiet : s.quiet = true) :
    ∃ t, exec .legacyReplyTimeout s = .next t ∧ t.legacy.queue = []
      ∧ (t.port 1).cnt.legacyNoReply = sat 0xFFFF ((s.port 1).cnt.legacyNoReply + 1)
      ∧ t.legacy.devs = s.legacy.devs.map (fun (v : LegacyDev) => if v.index = r.addr then { v with present := false } else v) := by
  have hexec : exec .legacyReplyTimeout s = .next { s.begin.legacyTimeout.flush with pending := s.pending } :=
    (runCoreL_of_runs hcore).trans (runL_next_eq (f := State.legacyTimeout) rfl)
  rw [legacyTimeout_absent (s := s.begin) hlink hdue hcmd hqueue htries htag] at hexec
  obtain ⟨v, hnext, hv, hq, hdevs⟩ := legacyNext_none (s.begin.withoutReply r)
  have hqW : (s.begin.withoutReply r).legacy.queue = [r] := hqueue
  have hdevsW : (s.begin.withoutReply r).legacy.devs
      = s.legacy.devs.map (fun (v : LegacyDev) => if v.index = r.addr then { v with present := false } else v) := rfl
  have hcntW : ((s.begin.withoutReply r).port 1).cnt.legacyNoReply = sat 0xFFFF ((s.port 1).cnt.legacyNoReply + 1) :=
    congrArg (fun q => q.cnt.legacyNoReply)
      (updPort_port_self s.begin 1 (fun q => { q with cnt := { q.cnt with legacyNoReply := sat 0xFFFF (q.cnt.legacyNoReply + 1) } }) hp)
  have hquietW : (s.begin.withoutReply r).quiet = true :=
    quiet_updPort (s := s.begin) hquiet 1 (f := fun q => { q with cnt := { q.cnt with legacyNoReply := sat 0xFFFF (q.cnt.legacyNoReply + 1) } }) fun _ => rfl
  rw [hnext] at hexec
  generalize s.begin.withoutReply r = w at *
  have hportV : v.port 1 = w.port 1 := port_of_ports (hv .ports (by decide)) 1
  have hquietV : v.quiet = true := (quiet_of_ports (hv .ports (by decide))).trans hquietW
  have hcnt := legacySend_cnt v
  have hlegacy : v.legacySend.legacy = v.legacy := legacySend_only v .legacy (by decide)
  have hquietU := quiet_legacySend hquietV
  generalize v.legacySend = u at *
  have hports := flush_ports_of_quiet hquietU
  have hflush : u.flush.legacy = u.legacy := flush_only u .legacy (by decide)
  generalize u.flush = y at *
  refine ⟨_, hexec, ?_, ?_, ?_⟩
  · dsimp only
    rw [hflush, hlegacy, hq, hqW]
    rfl
  · have hport : y.port 1 = u.port 1 := port_of_ports hports 1
    refine (congrArg (fun q : PortSt => q.cnt.legacyNoReply) hport).trans ?_
    rw [← hcntW, ← hportV, ← hcnt]
  · dsimp only
    rw [hflush, hlegacy, hdevs, hdevsW]

/-- The segment with the codes of the KG1200 that answered. -/
def State.withCodes (s : State) (d : LegacyDev) (bs : List Byte) : State :=
  { s with legacy := { s.legacy with devs := [{ d with codes := (List.range 12).map (fun k => at_ bs (2 * k) 2) }] } }

theorem withCodes_only (s : State) (d : LegacyDev) (bs : List Byte) : s.onlyChanges [.legacy] (s.withCodes d bs) := fun q hq => by
  cases q <;> first | rfl | exact absurd (by decide) hq

theorem legacyReplyIn_codes (hlink : (s.port 1).link = .legacy) (hqueue : s.legacy.queue = r :: rs) (hcmd : r.cmd = 0x11) (haddr : r.addr = d.index)
    (hdevs : s.legacy.devs = [d]) :
    s.legacyReplyIn r.addr 0x11 bs (legacyCrc r.addr 0x11 bs) = (s.withCodes d bs).legacyNext none := by
  unfold State.legacyReplyIn
  rw [hqueue]
  dsimp only
  rw [if_neg (by rw [hlink, hcmd]; simp), if_pos rfl]
  unfold State.legacyIn
  dsimp only
  rw [if_neg (by rw [hcmd]; decide), if_pos hcmd, hdevs, List.map_singleton, if_pos haddr.symm]
  rfl

theorem legacyReply_answer (hcore : s.coreRuns = true) (hquiet : s.quiet = true) (hlink : (s.port 1).link = .legacy) (hqueue : s.legacy.queue = r :: rs)
    (hcmd : r.cmd = 0x11) (haddr : r.addr = d.index) (hdevs : s.legacy.devs = [d]) :
    ∃ t, exec (.legacyReply r.addr 0x11 bs (legacyCrc r.addr 0x11 bs)) s = .next t ∧ t.legacy.queue = rs
      ∧ ((s.port 1).fn = .running → ∀ n ∈ rs.head?, .legacy n.addr n.cmd n.data (legacyCrc n.addr n.cmd n.data) ∈ t.out)
      ∧ t.legacy.devs = [{ d with codes := (List.range 12).map (fun k => at_ bs (2 * k) 2) }]
      ∧ s.onlyChanges [.reply, .out, .legacy, .ports, .host, .glean, .expo] t := by
  have hexec : exec (.legacyReply r.addr 0x11 bs (legacyCrc r.addr 0x11 bs)) s
      = .next { (s.begin.legacyReplyIn r.addr 0x11 bs (legacyCrc r.addr 0x11 bs)).flush with pending := s.pending } :=
    (runCoreL_of_runs hcore).trans (runL_next_eq (f := fun s => s.legacyReplyIn r.addr 0x11 bs (legacyCrc r.addr 0x11 bs)) rfl)
  rw [legacyReplyIn_codes (s := s.begin) hlink hqueue hcmd haddr hdevs] at hexec
  obtain ⟨v, hnext, hv, hq, hdevsV⟩ := legacyNext_none (s.begin.withCodes d bs)
  have hqW : (s.begin.withCodes d bs).legacy.queue = r :: rs := hqueue
  have hdevsW : (s.begin.withCodes d bs).legacy.devs = [{ d with codes := (List.range 12).map (fun k => at_ bs (2 * k) 2) }] := rfl
  have hW := withCodes_only s.begin d bs
  rw [hnext] at hexec
  generalize s.begin.withCodes d bs = w at *
  have hV : s.begin.onlyChanges [.legacy] v := only_trans hW hv
  have hportV : v.port 1 = s.port 1 := port_of_ports (s := s.begin) (hV .ports (by decide)) 1
  have hquietV : v.quiet = true := (quiet_of_ports (s := s.begin) (hV .ports (by decide))).trans hquiet
  rw [hqW, List.drop_one, List.tail_cons] at hq
  have hsent (hfn : (s.port 1).fn = .running) (n : LegacyReq) (hn : n ∈ rs.head?) :
      .legacy n.addr n.cmd n.data (legacyCrc n.addr n.cmd n.data) ∈ v.legacySend.out := by
    cases rs with
    | nil => exact absurd hn (by simp)
    | cons m l =>
      obtain rfl : m = n := by simpa using hn
      exact legacySend_sends (by rw [hportV]; exact hfn) hq
  have hsend := legacySend_only v
  have hquietU := quiet_legacySend hquietV
  generalize v.legacySend = u at *
  have honly : s.begin.onlyChanges legacyParts u := only_step hsend (only_one hV)
  have hlegacy : u.legacy = v.legacy := hsend .legacy (by decide)
  have hflush : u.flush.legacy = u.legacy := flush_only u .legacy (by decide)
  have hout := flush_out_of_quiet hquietU
  have hparts := nextL_only honly
  generalize u.flush = y at *
  refine ⟨_, hexec, ?_, fun hfn n hn => ?_, ?_, only_one hparts⟩
  · dsimp only
    rw [hflush, hlegacy, hq]
  · dsimp only
    rw [hout]
    exact hsent hfn n hn
  · dsimp only
    rw [hflush, hlegacy, hdevsV, hdevsW]

/-- Settles O49: the message by its CRC, the request that goes out again, the KG1200 that is absent, and the codes of one that answers. -/
theorem crierAndLegacySegment : Obligations.CrierAndLegacySegment := by
  unfold Obligations.CrierAndLegacySegment
  intro s p x r rs d bs hp4 hports hquiet
  have hp : p < s.ports.length := by omega
  refine ⟨fun hlen hsync => ⟨crierMessage_kept hp hlen hsync, crierMessage_bad hp hlen hsync⟩, ?_, ?_⟩
  · exact fun hcore hlink hfn hqueue hdue hcmd => ⟨fun htries => legacyReply_again hcore hquiet hlink hfn hqueue hdue hcmd htries,
      fun htries htag => legacyReply_absent hcore (by omega) hlink hqueue hdue hcmd htries htag hquiet⟩
  · exact fun hcore hlink hqueue hcmd haddr hdevs _ => legacyReply_answer hcore hquiet hlink hqueue hcmd haddr hdevs

end Sys2Proof.Machine
end

section
/-!
A step of tree time drops the apertures whose instants it passes (02 R46, 08 R241): the schedule of SWEEP changes with the clock.
-/
namespace Sys2Proof.Machine

-- one proof at a time: these proofs share the equations of the operations they unfold
set_option Elab.async false

/-- An aperture scheduled for tree time 5. -/
def apertureAtFive : Aperture := { (default : Aperture) with t := 5 }

/-- A device with a position in QUIET at tree time 0, whose port A is UP and gives its tree time, with that aperture on the schedule. -/
def beforeAperture : State := { State.reset with
  mode.mode := .quiet, ident.role := .hub, sweep.pend := [apertureAtFive]
  tree.valid := true, tree.pos := 1, tree.numUp := 0, tree.curUp := 0, tree.lastSync := some 0
  ports := State.reset.ports.set 0 { PortSt.reset with fn := .running, link := .up } }

/-- A SYNC that was sent at tree time 100. -/
def syncAtHundred : Frame := { (default : Frame) with
  typ := 9, cls := 1, payload := [1, 2, 1, 0] ++ le 8 100 ++ List.replicate 20 0 }

theorem syncAtHundred_drops :
    (stateAfter (.timeSyncReceive (beforeAperture.via 0 false) syncAtHundred 0) beforeAperture).sweep.pend = [] := by
  decide +kernel

/-- Refutes O50: the SYNC steps the clock of `beforeAperture` over its aperture, which leaves the schedule. -/
theorem not_treeTimeAndStrobes : ¬ Obligations.TreeTimeAndStrobes := by
  intro h
  obtain ⟨-, hsync, -⟩ := h beforeAperture 0 0 0 false syncAtHundred (-6553600) (by decide +kernel) (by decide +kernel) (by decide) (by decide) (by decide)
  obtain ⟨-, hstep⟩ := hsync (by decide) (by decide +kernel) (by decide +kernel) (by decide +kernel) (by decide +kernel) (by decide +kernel)
    (by decide +kernel) (by decide +kernel)
  obtain ⟨t, hexec, -, -, -, -, -, -, honly⟩ := hstep (by decide) (by decide +kernel)
  have hdrops := syncAtHundred_drops
  have hsweep : t.sweep = beforeAperture.sweep := honly .sweep (by decide)
  rw [stateAfter_of_next hexec, hsweep] at hdrops
  exact absurd hdrops (by decide)

end Sys2Proof.Machine
end

section
/-!
A REPORT that replaces the end of a reroute (08 R222, R233) removes the reroute's exception route at the ROOT, which looks at the ROOT's own
isolation again (10 R292): a time since which the ROOT was cut off is forgotten.
-/
namespace Sys2Proof.Machine

-- one proof at a time: these proofs share the equations of the operations they unfold
set_option Elab.async false

/-- A ROOT in QUIET during its walk 1, with the UID 7 at position 5, which is rerouted, and a time since which it was cut off. -/
def reroutingRoot : State := { State.reset with
  mode.mode := .quiet, mode.cutSince := some 0, ident.role := .root
  tree.valid := true, tree.walkId := 1, tree.topo := [{ (default : TopoEntry) with pos := 5, uid := 7, hi := 5 }]
  tree.reroutes := [{ lo := 5, hi := 5, outer := 0, inner := 5 }]
  ports := State.reset.ports.set 0 { PortSt.reset with fn := .running, link := .up } }

/-- The REPORT of the UID 8 at position 5. -/
def reportOfEight : Frame := discover reroutingRoot 1 4 1 5 0 (le 8 8 ++ le 4 5) 0

theorem reportOfEight_uncuts :
    (stateAfter (.discoverReport (reroutingRoot.via 0 false) reportOfEight) reroutingRoot).mode.cutSince = none := by
  decide +kernel

/-- Refutes O52: the REPORT at `reroutingRoot` changes a part of the state that is none of those listed. -/
theorem not_walkComesUp : ¬ Obligations.WalkComesUp := by
  intro h
  obtain ⟨-, -, -, hreport, -⟩ := h reroutingRoot 0 false reportOfEight (by decide +kernel) (by decide +kernel) (by decide +kernel) (by decide +kernel)
    (by decide +kernel) (checkOk_protect _ _)
  obtain ⟨t, hexec, -, honly⟩ := hreport (by decide +kernel) (by decide +kernel) (by decide +kernel) (by decide +kernel) (by decide +kernel)
  have huncuts := reportOfEight_uncuts
  have hmode : t.mode = reroutingRoot.mode := honly .mode (by decide)
  rw [stateAfter_of_next hexec, hmode] at huncuts
  exact absurd huncuts (by decide)

end Sys2Proof.Machine
end

section
/-!
An answer UNREACHABLE for a position that a second copy of the transaction reaches (08 R232) is left out of what the harvest keeps.
-/
namespace Sys2Proof.Machine

-- one proof at a time: these proofs share the equations of the operations they unfold
set_option Elab.async false

/-- A contributor that has given nothing. -/
def silentKid (port : Option Nat) : Contributor := { port := port, since := 0, given := none, lost := false }

/-- A harvest of the transaction with TAG 0 from port A and from the device itself. -/
def openHarvestOfTwo : Harvest where
  tag := 0
  up := none
  req := .nop
  src := 0
  pos := 0
  depth := 255
  kids := [silentKid (some 0), silentKid none]
  lastPend := 0
  tResp := 100
  slot := none
  todo := []
  collecting := false

/-- A ROOT in QUIET with that harvest, whose transaction has a second copy at position 5. -/
def copyingRoot : State := { State.reset with
  mode.mode := .quiet, ident.role := .root, glean.harvests := [openHarvestOfTwo]
  tree.valid := true, tree.topo := [{ (default : TopoEntry) with pos := 5, hi := 5 }]
  host.txs := [newTx State.reset 1 0 { (default : Hdr) with pos := 5 } .nop (some 0)]
  ports := State.reset.ports.set 0 { PortSt.reset with fn := .running, link := .up } }

/-- The answer of a parent that no longer reaches position 5. -/
def unreachableFive : Contribution := { noContribution with answers := [(5, stUnreachable)] }

/-- Its frame. -/
def answerFrame : Frame := protect { (default : Frame) with typ := 2, cls := 1 } []

theorem copyingRoot_drops :
    ∀ h ∈ (stateAfter (.responseFrameReceive (copyingRoot.via 0 false) answerFrame unreachableFive) copyingRoot).glean.harvests,
      ∀ k ∈ h.kids, k.given ≠ some unreachableFive := by
  decide +kernel

/-- Refutes O54: the harvest of `copyingRoot` keeps another contribution than the one that came. -/
theorem not_requestsAndAnswersOnTheTree : ¬ Obligations.RequestsAndAnswersOnTheTree := by
  intro h
  obtain ⟨-, -, hanswer, -⟩ := h copyingRoot 0 0 0 false answerFrame unreachableFive openHarvestOfTwo (silentKid (some 0)) (silentKid none) []
    (by decide +kernel) (by decide +kernel) (by decide +kernel) (by decide +kernel)
  obtain ⟨t, hexec, hharvests, -⟩ := hanswer (by decide +kernel) (checkOk_protect _ _) rfl (by decide +kernel) rfl rfl rfl rfl (by decide) (by decide)
    rfl (by decide +kernel)
  have hdrops := copyingRoot_drops
  rw [stateAfter_of_next hexec, hharvests] at hdrops
  exact hdrops _ List.mem_cons_self _ List.mem_cons_self rfl

end Sys2Proof.Machine
end

section
/-!
A descriptor's 64 bytes read back (09 Tables 9.8 and 9.9): each field stands where the ROOT looks for it, and a field within its bits is
the value written. A list of argument bytes of fixed length computes, so the place of its fields needs no proof; the words of PARAM_WRITE and the
bytes of WRITE_MEM have lemmas of their own.
-/
namespace Sys2Proof.Machine

-- one proof at a time: these proofs share the equations of the operations they unfold
set_option Elab.async false

variable {mem : List (Nat × Byte)} {w : FetchWorld} {h : Hdr} {ha : Nat} {r : Req}

/-! ### Fields -/

/-- A field of n bytes. -/
theorem ofLe_of_bits {n v : Nat} (hv : isBits (8 * n) v = true) : ofLe (le n v) = v := by
  have hlt : v < 2 ^ (8 * n) := of_decide_eq_true hv
  rw [pow_mul] at hlt
  rw [ofLe_le, show 256 = 2 ^ 8 from rfl, Nat.mod_eq_of_lt hlt]

/-- A bit is a byte's lowest. -/
theorem bit_flag (b : Bool) : bit (ofLe (le 1 (flag b 0))) 0 = b := by cases b <;> rfl

/-- The fields POS and DEPTH, which share a word. -/
theorem fld_posDepth {pos depth : Nat} (hpos : isBits 18 pos = true) (hdepth : isBits 8 depth = true) :
    fld (ofLe (le 4 (put pos 0 18 + put depth 18 8))) 17 0 = pos ∧ fld (ofLe (le 4 (put pos 0 18 + put depth 18 8))) 25 18 = depth := by
  have hp : pos < 2 ^ 18 := of_decide_eq_true hpos
  have hd : depth < 2 ^ 8 := of_decide_eq_true hdepth
  rw [ofLe_le]
  simp only [fld, put, Nat.shiftRight_eq_div_pow]
  omega

/-- A position alone in its word. -/
theorem fld_pos {pos : Nat} (hpos : isBits 18 pos = true) : fld (ofLe (le 4 (put pos 0 18))) 17 0 = pos :=
  (fld_posDepth (depth := 0) hpos rfl).1

/-- A position and the bit above it. -/
theorem fld_posFlag {pos : Nat} (hpos : isBits 18 pos = true) (b : Bool) :
    fld (ofLe (le 4 (put pos 0 18 + flag b 18))) 17 0 = pos ∧ bit (ofLe (le 4 (put pos 0 18 + flag b 18))) 18 = b := by
  have hp : pos < 2 ^ 18 := of_decide_eq_true hpos
  rw [ofLe_le]
  simp only [fld, put, bit, Nat.shiftRight_eq_div_pow, Nat.testBit_eq_decide_div_mod_eq]
  cases b
  · rw [show flag false 18 = 0 from rfl]
    exact ⟨by omega, decide_eq_false (by omega)⟩
  · rw [show flag true 18 = 2 ^ 18 from rfl]
    exact ⟨by omega, decide_eq_true (by omega)⟩

/-- A signed word. -/
theorem sgn_uns {x : Int} (hx : reqFits.isInt32 x = true) : sgn 32 (ofLe (le 4 (uns 32 x))) = x := by
  simp only [reqFits.isInt32, Bool.and_eq_true, decide_eq_true_eq] at hx
  rw [ofLe_le]
  unfold sgn uns
  dsimp only
  split <;> omega

theorem put_of_bits {v k : Nat} (hv : isBits k v = true) : put v 0 k = v := by
  have hlt : v < 2 ^ k := of_decide_eq_true hv
  simp [put, Nat.mod_eq_of_lt hlt]

/-! ### The header -/

theorem hdrAt_descBytes (hwf : h.wf = true) (hflags : h.flags < 4) : hdrAt h.ring (descBytes h ha r) = h := by
  simp only [Hdr.wf, Bool.and_eq_true] at hwf
  obtain ⟨⟨⟨⟨⟨⟨-, hcid⟩, -⟩, hpos⟩, hdepth⟩, hpool⟩, htimeout⟩ := hwf
  obtain ⟨hp, hd⟩ := fld_posDepth hpos hdepth
  have hfl : put h.flags 0 2 = h.flags := put_of_bits (decide_eq_true hflags)
  show Hdr.mk h.ring (ofLe (le 2 h.cid)) (ofLe (le 1 (put h.flags 0 2))) (fld (ofLe (le 4 (put h.pos 0 18 + put h.depth 18 8))) 17 0)
    (fld (ofLe (le 4 (put h.pos 0 18 + put h.depth 18 8))) 25 18) (ofLe (le 1 h.pool)) (ofLe (le 2 h.timeout)) = h
  rw [hp, hd, hfl, ofLe_of_bits (n := 2) hcid, ofLe_of_bits (n := 1) (decide_eq_true (by omega : h.flags < 2 ^ (8 * 1))), ofLe_of_bits (n := 1) hpool,
    ofLe_of_bits (n := 2) htimeout]

/-! ### Bytes of the other subops -/

theorem zeroAt_of_zeros {o n : Nat} {bs : List Byte} (hz : (bs.drop o).take n = List.replicate n 0) : zeroAt o n bs = bs := by
  unfold zeroAt
  rw [← hz, List.append_assoc, ← List.drop_drop, List.take_append_drop, List.take_append_drop]

/-! ### Arguments -/

/-- A field of the arguments stands in the descriptor 16 bytes farther on. -/
theorem at_descBytes {o n v : Nat} (hat : ((argBytes ha r).drop (o - 16)).take n = le n v) (ho : 16 ≤ o) :
    at_ (descBytes h ha r) o n = ofLe (le n v) := by
  have hn : n ≤ ((argBytes ha r).drop (o - 16)).length := by
    have := congrArg List.length hat
    rw [le_length, List.length_take] at this
    omega
  have hdrop : ((descBytes h ha r).drop o).take n = le n v := by
    have hhead : (descBytes h ha r).drop 16 = padTo 48 (argBytes ha r) := rfl
    rw [show o = 16 + (o - 16) by omega, ← List.drop_drop, hhead, padTo,
      List.drop_append, List.take_append_of_le_length hn, hat]
  unfold at_ slice
  rw [hdrop]
  simp [le_length]

/-- A field within its bits. -/
theorem at_descBytes_of_bits {o n v : Nat} (hat : ((argBytes ha r).drop (o - 16)).take n = le n v) (hv : isBits (8 * n) v = true)
    (ho : 16 ≤ o := by decide) : at_ (descBytes h ha r) o n = v :=
  (at_descBytes hat ho).trans (ofLe_of_bits hv)

/-- Behind the arguments stand zeros. -/
theorem zeroAt_behind {o n : Nat} (hlen : 16 + (argBytes ha r).length ≤ o) (hon : o + n ≤ 64) : zeroAt o n (descBytes h ha r) = descBytes h ha r := by
  refine zeroAt_of_zeros ?_
  have hhead : (descBytes h ha r).drop 16 = padTo 48 (argBytes ha r) := rfl
  rw [show o = 16 + (o - 16) by omega, ← List.drop_drop, hhead, padTo, List.drop_append, List.drop_eq_nil_of_le (by omega), List.nil_append,
    List.drop_replicate, List.take_replicate]
  congr 1
  omega

/-! ### Words and bytes of a descriptor -/

/-- Word i of those that stand behind `pre`. -/
theorem at_wordsLe (z : List Byte) : ∀ (ws : List Nat) (pre : List Byte) (i : Nat) (hi : i < ws.length), isWords ws = true →
    at_ (pre ++ wordsLe 4 ws ++ z) (pre.length + 4 * i) 4 = ws[i]
  | v :: vs, pre, 0, _, hws => by
    have hv : isBits (8 * 4) v = true := List.all_eq_true.mp hws v List.mem_cons_self
    have hlen : (pre ++ le 4 v).length = pre.length + 4 := by rw [List.length_append, le_length]
    have hsplit : pre ++ wordsLe 4 (v :: vs) ++ z = (pre ++ le 4 v) ++ (wordsLe 4 vs ++ z) := by
      simp [wordsLe]
    rw [hsplit, at_append_left (by omega)]
    exact (at_append_right pre (le 4 v)).trans (ofLe_of_bits hv)
  | v :: vs, pre, i + 1, hi, hws => by
    have hsplit : pre ++ wordsLe 4 (v :: vs) ++ z = (pre ++ le 4 v) ++ wordsLe 4 vs ++ z := by simp [wordsLe]
    have hlen : (pre ++ le 4 v).length = pre.length + 4 := by rw [List.length_append, le_length]
    have hword := at_wordsLe z vs (pre ++ le 4 v) i (Nat.lt_of_succ_lt_succ hi) (List.all_eq_true.mpr fun x hx => List.all_eq_true.mp hws x
      (List.mem_cons_of_mem v hx))
    rw [hlen] at hword
    rw [hsplit, show pre.length + 4 * (i + 1) = pre.length + 4 + 4 * i by omega]
    exact hword

theorem map_at_wordsLe {ws : List Nat} {pre z : List Byte} (hws : isWords ws = true) :
    (List.range ws.length).map (fun i => at_ (pre ++ wordsLe 4 ws ++ z) (pre.length + 4 * i) 4) = ws :=
  List.ext_getElem (by simp) fun i hi _ => by
    rw [List.getElem_map, List.getElem_range]
    exact at_wordsLe z ws pre i (by simpa using hi) hws

/-- The bytes before those that WRITE_MEM and PARAM_WRITE bring: the header and the arguments at 0x10 to 0x17. -/
def descLead (h : Hdr) (op : Nat) (args : List Byte) : List Byte :=
  le 1 op ++ le 1 (put h.flags 0 2) ++ le 2 h.cid ++ le 4 (put h.pos 0 18 + put h.depth 18 8) ++ le 1 h.pool ++ [0, 0, 0] ++ le 2 h.timeout ++ [0, 0]
    ++ args

theorem descBytes_lead {args tail : List Byte} (hargs : argBytes ha r = args ++ tail) :
    descBytes h ha r = descLead h (opcodeOf r) args ++ tail ++ List.replicate (48 - (args ++ tail).length) 0 := by
  unfold descBytes descLead padTo
  rw [hargs]
  simp only [List.append_assoc]

theorem length_descLead {op : Nat} {args : List Byte} (hargs : args.length = 8) : (descLead h op args).length = 24 := by
  simp only [descLead, List.length_append, le_length, hargs, List.length_cons, List.length_nil]

/-- The words of a PARAM_WRITE. -/
theorem words_descBytes {a : Nat} {ws : List Nat} (hlen : ws.length ≤ 8) (hws : isWords ws = true)
    (hargs : argBytes ha r = (le 4 a ++ le 1 ws.length ++ [0, 0, 0]) ++ wordsLe 4 ws) :
    (if ofLe (le 1 ws.length) ≤ 8 then (List.range (ofLe (le 1 ws.length))).map (fun i => at_ (descBytes h ha r) (0x18 + 4 * i) 4) else []) = ws := by
  have hread := map_at_wordsLe (pre := descLead h (opcodeOf r) (le 4 a ++ le 1 ws.length ++ [0, 0, 0]))
    (z := List.replicate (48 - (le 4 a ++ le 1 ws.length ++ [0, 0, 0] ++ wordsLe 4 ws).length) 0) hws
  rw [← descBytes_lead hargs, length_descLead rfl] at hread
  rw [ofLe_of_bits (n := 1) (decide_eq_true (by omega)), if_pos hlen]
  exact hread

/-- The bytes of a WRITE_MEM. -/
theorem bytes_descBytes {args bs : List Byte} (hargs : argBytes ha r = args ++ bs) (hlen : args.length = 8) :
    slice (descBytes h ha r) 0x18 bs.length = bs := by
  have hlead : (descLead h (opcodeOf r) args).length = 24 := length_descLead hlen
  rw [descBytes_lead hargs, List.append_assoc, slice_of_le (by simp only [List.length_append, hlead]; omega), ← hlead, List.drop_left, List.take_left]

end Sys2Proof.Machine
end

section
/-!
A descriptor's request read back (09 Table 9.9), opcode by opcode.
-/
namespace Sys2Proof.Machine

-- one proof at a time: these proofs share the equations of the operations they unfold
set_option Elab.async false

variable {mem : List (Nat × Byte)} {w : FetchWorld} {h : Hdr} {ha : Nat} {r : Req}

/-! ### Programs and plans -/

theorem opcode_descBytes : at_ (descBytes h ha r) 0 1 = opcodeOf r := by
  have hread : at_ (descBytes h ha r) 0 1 = ofLe (le 1 (opcodeOf r)) := rfl
  rw [hread]
  cases r <;> rfl

theorem stepAt_descBytes {t : PStep} {o : Nat} (hat : ((argBytes ha r).drop (o - 16)).take 12 = stepBytes t) (ho : 16 ≤ o) (hwf : t.wf = true)
    (h1 : reqFits.isInt32 t.p1 = true) (h2 : reqFits.isInt32 t.p2 = true) : stepAt (descBytes h ha r) o = t := by
  have hpart (k n v : Nat) (hk : ((stepBytes t).drop k).take n = le n v) (hkn : k + n ≤ 12) : at_ (descBytes h ha r) (o + k) n = ofLe (le n v) := by
    refine at_descBytes ?_ (by omega)
    rw [← hk, ← hat, List.drop_take, List.take_take, List.drop_drop, Nat.min_eq_left (by omega), show o + k - 16 = o - 16 + k by omega]
  simp only [PStep.wf, Bool.and_eq_true] at hwf
  obtain ⟨⟨hop, hmode⟩, haux⟩ := hwf
  show PStep.mk (at_ _ (o + 0) 1) (at_ _ (o + 1) 1) (at_ _ (o + 2) 2) (sgn 32 (at_ _ (o + 4) 4)) (sgn 32 (at_ _ (o + 8) 4)) = t
  rw [hpart 0 1 t.op rfl (by decide), hpart 1 1 t.mode rfl (by decide), hpart 2 2 t.aux rfl (by decide), hpart 4 4 (uns 32 t.p1) rfl (by decide),
    hpart 8 4 (uns 32 t.p2) rfl (by decide), ofLe_of_bits (n := 1) hop, ofLe_of_bits (n := 1) hmode, ofLe_of_bits (n := 2) haux, sgn_uns h1, sgn_uns h2]

theorem progAt_descBytes {p : Prog} {c : Nat} (hwf : p.wf = true) (hskip : isBits 2 p.skip = true) (h11 : reqFits.isInt32 p.step1.p1 = true)
    (h12 : reqFits.isInt32 p.step1.p2 = true) (h21 : reqFits.isInt32 p.step2.p1 = true) (h22 : reqFits.isInt32 p.step2.p2 = true) :
    progAt (descBytes h ha (.query p c)) 0x10 = p := by
  simp only [Prog.wf, Bool.and_eq_true] at hwf
  obtain ⟨⟨⟨⟨⟨⟨hsource, hfield⟩, hbyte⟩, hsteps⟩, hselect⟩, hwf1⟩, hwf2⟩ := hwf
  show Prog.mk (at_ _ 0x10 1) (at_ _ 0x11 1) (at_ _ 0x12 1) (at_ _ 0x13 1) (at_ _ 0x14 4) (stepAt _ 0x18) (stepAt _ 0x24) = p
  rw [at_descBytes_of_bits (r := .query p c) (o := 0x10) (n := 1) (v := p.source) rfl hsource,
    at_descBytes_of_bits (r := .query p c) (o := 0x11) (n := 1) (v := p.field) rfl hfield,
    at_descBytes (r := .query p c) (o := 0x12) (n := 1) (v := put p.skip 0 2) rfl (by decide), put_of_bits hskip, ofLe_of_bits (n := 1) hbyte,
    at_descBytes_of_bits (r := .query p c) (o := 0x13) (n := 1) (v := p.steps) rfl hsteps,
    at_descBytes_of_bits (r := .query p c) (o := 0x14) (n := 4) (v := p.select) rfl hselect,
    stepAt_descBytes (r := .query p c) (o := 0x18) rfl (by decide) hwf1 h11 h12, stepAt_descBytes (r := .query p c) (o := 0x24) rfl (by decide) hwf2 h21 h22]

theorem planAt_descBytes {p : Plan} (hwf : p.wf = true) (hoptions : isBits 1 p.options = true) (hlevel : reqFits.isInt32 p.level = true) :
    planAt (descBytes h ha (.expose p)) 0x10 = p := by
  simp only [Plan.wf, Bool.and_eq_true] at hwf
  obtain ⟨⟨⟨⟨⟨⟨hcorner, htrigger⟩, hchannel⟩, hbyte⟩, hn⟩, hpre⟩, htime⟩ := hwf
  show Plan.mk (at_ _ 0x10 1) (at_ _ 0x11 1) (at_ _ 0x12 1) (at_ _ 0x13 1) (at_ _ 0x14 2) (at_ _ 0x16 2) (sgn 32 (at_ _ 0x18 4)) (at_ _ 0x1C 8) = p
  rw [at_descBytes_of_bits (r := .expose p) (o := 0x10) (n := 1) (v := p.corner) rfl hcorner,
    at_descBytes_of_bits (r := .expose p) (o := 0x11) (n := 1) (v := p.trigger) rfl htrigger,
    at_descBytes_of_bits (r := .expose p) (o := 0x12) (n := 1) (v := p.channel) rfl hchannel,
    at_descBytes (r := .expose p) (o := 0x13) (n := 1) (v := put p.options 0 1) rfl (by decide), put_of_bits hoptions, ofLe_of_bits (n := 1) hbyte,
    at_descBytes_of_bits (r := .expose p) (o := 0x14) (n := 2) (v := p.n) rfl hn,
    at_descBytes_of_bits (r := .expose p) (o := 0x16) (n := 2) (v := p.pre) rfl hpre,
    at_descBytes (r := .expose p) (o := 0x18) (n := 4) (v := uns 32 p.level) rfl (by decide), sgn_uns hlevel,
    at_descBytes_of_bits (r := .expose p) (o := 0x1C) (n := 8) (v := p.time) rfl htime]

/-! ### Request by request -/

theorem reqAt_paramRead {a : Nat} {n : Nat} (hfits : reqFits mem w h ha (.paramRead a n) = true) :
    reqAt mem w (descBytes h ha (.paramRead a n)) = some (.paramRead a n) := by
  simp only [reqFits, Bool.and_eq_true] at hfits
  obtain ⟨haddr, hn⟩ := hfits
  simp only [reqAt, opcode_descBytes, opcodeOf]
  rw [at_descBytes_of_bits (r := (.paramRead a n)) (o := 0x10) (n := 4) (v := a) rfl haddr,
    at_descBytes_of_bits (r := (.paramRead a n)) (o := 0x14) (n := 1) (v := n) rfl hn]

theorem reqAt_paramWrite {a : Nat} {ws : List Nat} (hfits : reqFits mem w h ha (.paramWrite a ws) = true) :
    reqAt mem w (descBytes h ha (.paramWrite a ws)) = some (.paramWrite a ws) := by
  simp only [reqFits, Bool.and_eq_true, decide_eq_true_eq] at hfits
  obtain ⟨⟨haddr, hlen⟩, hws⟩ := hfits
  simp only [reqAt, opcode_descBytes, opcodeOf]
  rw [at_descBytes_of_bits (r := (.paramWrite a ws)) (o := 0x10) (n := 4) (v := a) rfl haddr,
    at_descBytes (r := (.paramWrite a ws)) (o := 0x14) (n := 1) (v := ws.length) rfl (by decide),
    words_descBytes hlen hws rfl]

theorem reqAt_paramWriteVerify {a : Nat} {ws : List Nat} (hfits : reqFits mem w h ha (.paramWriteVerify a ws) = true) :
    reqAt mem w (descBytes h ha (.paramWriteVerify a ws)) = some (.paramWriteVerify a ws) := by
  simp only [reqFits, Bool.and_eq_true, decide_eq_true_eq] at hfits
  obtain ⟨⟨haddr, hlen⟩, hws⟩ := hfits
  simp only [reqAt, opcode_descBytes, opcodeOf]
  rw [at_descBytes_of_bits (r := (.paramWriteVerify a ws)) (o := 0x10) (n := 4) (v := a) rfl haddr,
    at_descBytes (r := (.paramWriteVerify a ws)) (o := 0x14) (n := 1) (v := ws.length) rfl (by decide),
    words_descBytes hlen hws rfl]

theorem reqAt_query {p : Prog} {c : Nat} (hfits : reqFits mem w h ha (.query p c) = true) :
    reqAt mem w (descBytes h ha (.query p c)) = some (.query p c) := by
  simp only [reqFits, Bool.and_eq_true, decide_eq_true_eq] at hfits
  obtain ⟨⟨⟨⟨⟨⟨rfl, hprog⟩, hskip⟩, h11⟩, h12⟩, h21⟩, h22⟩ := hfits
  simp only [reqAt, opcode_descBytes, opcodeOf]
  rw [progAt_descBytes hprog hskip h11 h12 h21 h22]

theorem reqAt_expose {p : Plan} (hfits : reqFits mem w h ha (.expose p) = true) :
    reqAt mem w (descBytes h ha (.expose p)) = some (.expose p) := by
  simp only [reqFits, Bool.and_eq_true] at hfits
  obtain ⟨⟨hplan, hoptions⟩, hlevel⟩ := hfits
  simp only [reqAt, opcode_descBytes, opcodeOf]
  rw [planAt_descBytes hplan hoptions hlevel]

theorem reqAt_surveyRun {t0 tag src sp sd : Nat} {ripple : Bool} (hwf : h.wf = true) (hfits : reqFits mem w h ha (.surveyRun t0 tag src ripple sp sd) = true) :
    reqAt mem w (descBytes h ha (.surveyRun t0 tag src ripple sp sd)) = some (.surveyRun t0 tag src ripple sp sd) := by
  simp only [reqFits, Bool.and_eq_true, decide_eq_true_eq] at hfits
  obtain ⟨⟨⟨⟨ht0, htag⟩, hsrc⟩, rfl⟩, rfl⟩ := hfits
  simp only [Hdr.wf, Bool.and_eq_true] at hwf
  obtain ⟨⟨⟨⟨-, hpos⟩, hdepth⟩, -⟩, -⟩ := hwf
  obtain ⟨hs, hr⟩ := fld_posFlag hsrc ripple
  obtain ⟨hp, hd⟩ := fld_posDepth hpos hdepth
  have hscope : at_ (descBytes h ha (.surveyRun t0 tag src ripple h.pos h.depth)) 4 4 = ofLe (le 4 (put h.pos 0 18 + put h.depth 18 8)) := rfl
  simp only [reqAt, opcode_descBytes, opcodeOf]
  rw [hscope, hp, hd,
    at_descBytes (r := .surveyRun t0 tag src ripple h.pos h.depth) (o := 0x1C) (n := 4) (v := put src 0 18 + flag ripple 18) rfl (by decide), hs, hr,
    at_descBytes_of_bits (r := .surveyRun t0 tag src ripple h.pos h.depth) (o := 0x10) (n := 8) (v := t0) rfl ht0,
    at_descBytes_of_bits (r := .surveyRun t0 tag src ripple h.pos h.depth) (o := 0x18) (n := 2) (v := tag) rfl htag]

theorem reqAt_sweepTrigger {t : Nat} {n : Nat} {now : Bool} (hfits : reqFits mem w h ha (.sweepTrigger t n now) = true) :
    reqAt mem w (descBytes h ha (.sweepTrigger t n now)) = some (.sweepTrigger t n now) := by
  simp only [reqFits, Bool.and_eq_true] at hfits
  obtain ⟨ht, hn⟩ := hfits
  simp only [reqAt, opcode_descBytes, opcodeOf]
  rw [at_descBytes_of_bits (r := (.sweepTrigger t n now)) (o := 0x10) (n := 8) (v := t) rfl ht,
    at_descBytes_of_bits (r := (.sweepTrigger t n now)) (o := 0x18) (n := 4) (v := n) rfl hn,
    at_descBytes (r := (.sweepTrigger t n now)) (o := 0x1C) (n := 1) (v := flag now 0) rfl (by decide),
    bit_flag]

theorem reqAt_topologyRead {f : Nat} {n : Nat} (hfits : reqFits mem w h ha (.topologyRead f n) = true) :
    reqAt mem w (descBytes h ha (.topologyRead f n)) = some (.topologyRead f n) := by
  simp only [reqFits, Bool.and_eq_true] at hfits
  obtain ⟨hf, hn⟩ := hfits
  simp only [reqAt, opcode_descBytes, opcodeOf, at_descBytes_of_bits (r := (.topologyRead f n)) (o := 0x10) (n := 1) (v := 0) rfl rfl]
  rw [at_descBytes (r := (.topologyRead f n)) (o := 0x14) (n := 4) (v := put f 0 18) rfl (by decide),
    fld_pos hf,
    at_descBytes_of_bits (r := (.topologyRead f n)) (o := 0x18) (n := 4) (v := n) rfl hn]

theorem reqAt_renumber {fs : List (Nat × Option (Nat × Nat))} (hfits : reqFits mem w h ha (.renumber fs) = true) :
    reqAt mem w (descBytes h ha (.renumber fs)) = some (.renumber fs) := by
  obtain rfl : fs = w.funcs := of_decide_eq_true hfits
  simp only [reqAt, opcode_descBytes, opcodeOf, at_descBytes_of_bits (r := .renumber w.funcs) (o := 0x10) (n := 1) (v := 1) rfl rfl]

theorem reqAt_pathTest {c : Nat} {n : Nat} {l : Nat} (hfits : reqFits mem w h ha (.pathTest c n l) = true) :
    reqAt mem w (descBytes h ha (.pathTest c n l)) = some (.pathTest c n l) := by
  simp only [reqFits, Bool.and_eq_true] at hfits
  obtain ⟨⟨hc, hn⟩, hl⟩ := hfits
  simp only [reqAt, opcode_descBytes, opcodeOf]
  rw [at_descBytes_of_bits (r := (.pathTest c n l)) (o := 0x10) (n := 1) (v := c) rfl hc,
    at_descBytes_of_bits (r := (.pathTest c n l)) (o := 0x12) (n := 2) (v := n) rfl hn,
    at_descBytes_of_bits (r := (.pathTest c n l)) (o := 0x14) (n := 2) (v := l) rfl hl]

theorem reqAt_sessionOpen {p : Nat} (hfits : reqFits mem w h ha (.sessionOpen p) = true) :
    reqAt mem w (descBytes h ha (.sessionOpen p)) = some (.sessionOpen p) := by
  simp only [reqAt, opcode_descBytes, opcodeOf, at_descBytes_of_bits (r := (.sessionOpen p)) (o := 0x10) (n := 1) (v := 0) rfl rfl]
  rw [at_descBytes_of_bits (r := (.sessionOpen p)) (o := 0x18) (n := 8) (v := p) rfl hfits]

theorem reqAt_sessionClose {k : Nat} (hfits : reqFits mem w h ha (.sessionClose k) = true) :
    reqAt mem w (descBytes h ha (.sessionClose k)) = some (.sessionClose k) := by
  simp only [reqAt, opcode_descBytes, opcodeOf, at_descBytes_of_bits (r := (.sessionClose k)) (o := 0x10) (n := 1) (v := 1) rfl rfl]
  rw [at_descBytes_of_bits (r := (.sessionClose k)) (o := 0x14) (n := 4) (v := k) rfl hfits]

theorem reqAt_setPasscode {k : Nat} {p : Nat} {q : Nat} (hfits : reqFits mem w h ha (.setPasscode k p q) = true) :
    reqAt mem w (descBytes h ha (.setPasscode k p q)) = some (.setPasscode k p q) := by
  simp only [reqFits, Bool.and_eq_true] at hfits
  obtain ⟨⟨hk, hp⟩, hq⟩ := hfits
  simp only [reqAt, opcode_descBytes, opcodeOf, at_descBytes_of_bits (r := (.setPasscode k p q)) (o := 0x10) (n := 1) (v := 2) rfl rfl]
  rw [at_descBytes_of_bits (r := (.setPasscode k p q)) (o := 0x14) (n := 4) (v := k) rfl hk,
    at_descBytes_of_bits (r := (.setPasscode k p q)) (o := 0x18) (n := 8) (v := p) rfl hp,
    at_descBytes_of_bits (r := (.setPasscode k p q)) (o := 0x20) (n := 8) (v := q) rfl hq]

theorem reqAt_safetyWrite {k : Nat} {a : Nat} {v : Nat} {o : Nat} (hfits : reqFits mem w h ha (.safetyWrite k a v o) = true) :
    reqAt mem w (descBytes h ha (.safetyWrite k a v o)) = some (.safetyWrite k a v o) := by
  simp only [reqFits, Bool.and_eq_true] at hfits
  obtain ⟨⟨⟨hk, haddr⟩, hv⟩, ho⟩ := hfits
  simp only [reqAt, opcode_descBytes, opcodeOf]
  rw [at_descBytes_of_bits (r := (.safetyWrite k a v o)) (o := 0x10) (n := 4) (v := k) rfl hk,
    at_descBytes_of_bits (r := (.safetyWrite k a v o)) (o := 0x14) (n := 4) (v := a) rfl haddr,
    at_descBytes_of_bits (r := (.safetyWrite k a v o)) (o := 0x18) (n := 4) (v := v) rfl hv,
    at_descBytes_of_bits (r := (.safetyWrite k a v o)) (o := 0x1C) (n := 4) (v := o) rfl ho]

theorem reqAt_flashLoad {o n c : Nat} {bs : List Byte} (hfits : reqFits mem w h ha (.flashLoad o n bs c) = true) :
    reqAt mem w (descBytes h ha (.flashLoad o n bs c)) = some (.flashLoad o n bs c) := by
  simp only [reqFits, Bool.and_eq_true, decide_eq_true_eq] at hfits
  obtain ⟨⟨⟨⟨⟨ho, rfl⟩, haddr⟩, hlen⟩, hbs⟩, rfl⟩ := hfits
  simp only [reqAt, opcode_descBytes, opcodeOf]
  rw [at_descBytes_of_bits (r := (.flashLoad o bs.length bs (crc32c bs))) (o := 0x1C) (n := 4) (v := bs.length) rfl (decide_eq_true (by omega)),
    at_descBytes_of_bits (r := (.flashLoad o bs.length bs (crc32c bs))) (o := 0x10) (n := 8) (v := ha) rfl haddr, if_pos hlen, ← hbs,
    at_descBytes_of_bits (r := (.flashLoad o bs.length bs (crc32c bs))) (o := 0x18) (n := 4) (v := o) rfl ho]

theorem reqAt_flashCommit {l : Nat} {c : Nat} (hfits : reqFits mem w h ha (.flashCommit l c) = true) :
    reqAt mem w (descBytes h ha (.flashCommit l c)) = some (.flashCommit l c) := by
  simp only [reqFits, Bool.and_eq_true] at hfits
  obtain ⟨hl, hc⟩ := hfits
  simp only [reqAt, opcode_descBytes, opcodeOf]
  rw [at_descBytes_of_bits (r := (.flashCommit l c)) (o := 0x10) (n := 4) (v := l) rfl hl,
    at_descBytes_of_bits (r := (.flashCommit l c)) (o := 0x14) (n := 4) (v := c) rfl hc]

theorem reqAt_logRead {l : Nat} {f : Nat} {n : Nat} (hfits : reqFits mem w h ha (.logRead l f n) = true) :
    reqAt mem w (descBytes h ha (.logRead l f n)) = some (.logRead l f n) := by
  simp only [reqFits, Bool.and_eq_true] at hfits
  obtain ⟨⟨hl, hf⟩, hn⟩ := hfits
  simp only [reqAt, opcode_descBytes, opcodeOf]
  rw [at_descBytes_of_bits (r := (.logRead l f n)) (o := 0x10) (n := 1) (v := l) rfl hl,
    at_descBytes_of_bits (r := (.logRead l f n)) (o := 0x14) (n := 4) (v := f) rfl hf,
    at_descBytes_of_bits (r := (.logRead l f n)) (o := 0x18) (n := 4) (v := n) rfl hn]

theorem reqAt_checkRun {u a p o l e : Nat} {bs : List Byte} {err : ReadErr} (hfits : reqFits mem w h ha (.checkRun u a p o l e bs err) = true) :
    reqAt mem w (descBytes h ha (.checkRun u a p o l e bs err)) = some (.checkRun u a p o l e bs err) := by
  unfold reqFits at hfits
  obtain ⟨hrest, hbs⟩ := (Bool.and_eq_true _ _).mp hfits
  simp only [Bool.and_eq_true] at hrest
  obtain ⟨⟨⟨⟨⟨⟨⟨hu, hunit⟩, hp⟩, ho⟩, hl⟩, he⟩, haddr⟩, herr⟩ := hrest
  simp only [reqAt, opcode_descBytes, opcodeOf]
  show some (Req.checkRun (at_ _ 0x10 1) (at_ _ 0x11 1) (at_ _ 0x12 1) (at_ _ 0x14 4) (at_ _ 0x20 4) (at_ _ 0x24 4)
    (if at_ _ 0x11 1 = 0 && decide (at_ _ 0x20 4 ≤ 1048576) then hostBytes mem (at_ _ 0x18 8) (at_ _ 0x20 4) else w.bytes) w.err) = _
  rw [at_descBytes_of_bits (r := (.checkRun u a p o l e bs err)) (o := 0x10) (n := 1) (v := u) rfl hu,
    at_descBytes_of_bits (r := (.checkRun u a p o l e bs err)) (o := 0x11) (n := 1) (v := a) rfl hunit,
    at_descBytes_of_bits (r := (.checkRun u a p o l e bs err)) (o := 0x12) (n := 1) (v := p) rfl hp,
    at_descBytes_of_bits (r := (.checkRun u a p o l e bs err)) (o := 0x14) (n := 4) (v := o) rfl ho,
    at_descBytes_of_bits (r := (.checkRun u a p o l e bs err)) (o := 0x20) (n := 4) (v := l) rfl hl,
    at_descBytes_of_bits (r := (.checkRun u a p o l e bs err)) (o := 0x24) (n := 4) (v := e) rfl he,
    at_descBytes_of_bits (r := (.checkRun u a p o l e bs err)) (o := 0x18) (n := 8) (v := ha) rfl haddr,
    ← of_decide_eq_true hbs,
    of_decide_eq_true herr]

theorem reqAt_wireSearch {b : WireBus} (hfits : reqFits mem w h ha (.wireSearch b) = true) :
    reqAt mem w (descBytes h ha (.wireSearch b)) = some (.wireSearch b) := by
  obtain rfl : b = w.bus := of_decide_eq_true hfits
  simp only [reqAt, opcode_descBytes, opcodeOf, at_descBytes_of_bits (r := .wireSearch w.bus) (o := 0x10) (n := 1) (v := 0) rfl rfl]

theorem reqAt_wireConvert {b : WireBus} (hfits : reqFits mem w h ha (.wireConvert b) = true) :
    reqAt mem w (descBytes h ha (.wireConvert b)) = some (.wireConvert b) := by
  obtain rfl : b = w.bus := of_decide_eq_true hfits
  simp only [reqAt, opcode_descBytes, opcodeOf, at_descBytes_of_bits (r := .wireConvert w.bus) (o := 0x10) (n := 1) (v := 2) rfl rfl]

theorem reqAt_wireReadMem {i : Nat} {o : Nat} {l : Nat} {b : WireBus} (hfits : reqFits mem w h ha (.wireReadMem i o l b) = true) :
    reqAt mem w (descBytes h ha (.wireReadMem i o l b)) = some (.wireReadMem i o l b) := by
  simp only [reqFits, Bool.and_eq_true, decide_eq_true_eq] at hfits
  obtain ⟨⟨⟨hi, ho⟩, hl⟩, rfl⟩ := hfits
  simp only [reqAt, opcode_descBytes, opcodeOf, at_descBytes_of_bits (r := (.wireReadMem i o l w.bus)) (o := 0x10) (n := 1) (v := 3) rfl rfl]
  rw [at_descBytes_of_bits (r := (.wireReadMem i o l w.bus)) (o := 0x11) (n := 1) (v := i) rfl hi,
    at_descBytes_of_bits (r := (.wireReadMem i o l w.bus)) (o := 0x12) (n := 2) (v := o) rfl ho,
    at_descBytes_of_bits (r := (.wireReadMem i o l w.bus)) (o := 0x14) (n := 1) (v := l) rfl hl]

theorem reqAt_wireWriteMem {i : Nat} {o : Nat} {bs : List Byte} {b : WireBus} (hfits : reqFits mem w h ha (.wireWriteMem i o bs b) = true) :
    reqAt mem w (descBytes h ha (.wireWriteMem i o bs b)) = some (.wireWriteMem i o bs b) := by
  simp only [reqFits, Bool.and_eq_true, decide_eq_true_eq] at hfits
  obtain ⟨⟨⟨hi, ho⟩, hlen⟩, rfl⟩ := hfits
  simp only [reqAt, opcode_descBytes, opcodeOf, at_descBytes_of_bits (r := (.wireWriteMem i o bs w.bus)) (o := 0x10) (n := 1) (v := 4) rfl rfl]
  rw [at_descBytes_of_bits (r := (.wireWriteMem i o bs w.bus)) (o := 0x11) (n := 1) (v := i) rfl hi,
    at_descBytes_of_bits (r := (.wireWriteMem i o bs w.bus)) (o := 0x12) (n := 2) (v := o) rfl ho,
    at_descBytes_of_bits (r := (.wireWriteMem i o bs w.bus)) (o := 0x14) (n := 1) (v := bs.length) rfl (decide_eq_true (by omega)),
    if_pos hlen,
    bytes_descBytes (args := [4] ++ le 1 i ++ le 2 o ++ le 1 bs.length ++ [0, 0, 0]) rfl rfl]

theorem reqAt_descBytes (hwf : h.wf = true) (hfits : reqFits mem w h ha r = true) : reqAt mem w (descBytes h ha r) = some r := by
  cases r with
  | paramRead => exact reqAt_paramRead hfits
  | paramWrite => exact reqAt_paramWrite hfits
  | paramWriteVerify => exact reqAt_paramWriteVerify hfits
  | query => exact reqAt_query hfits
  | expose => exact reqAt_expose hfits
  | sweepTrigger => exact reqAt_sweepTrigger hfits
  | topologyRead => exact reqAt_topologyRead hfits
  | renumber => exact reqAt_renumber hfits
  | pathTest => exact reqAt_pathTest hfits
  | sessionOpen => exact reqAt_sessionOpen hfits
  | sessionClose => exact reqAt_sessionClose hfits
  | setPasscode => exact reqAt_setPasscode hfits
  | safetyWrite => exact reqAt_safetyWrite hfits
  | flashLoad => exact reqAt_flashLoad hfits
  | flashCommit => exact reqAt_flashCommit hfits
  | logRead => exact reqAt_logRead hfits
  | checkRun => exact reqAt_checkRun hfits
  | wireSearch => exact reqAt_wireSearch hfits
  | wireConvert => exact reqAt_wireConvert hfits
  | wireReadMem => exact reqAt_wireReadMem hfits
  | wireWriteMem => exact reqAt_wireWriteMem hfits
  | surveyRun => exact reqAt_surveyRun hwf hfits
  | wireReadIds => simp only [reqAt, opcode_descBytes, opcodeOf, at_descBytes_of_bits (r := .wireReadIds) (o := 0x10) (n := 1) (v := 1) rfl rfl]
  | nop => simp only [reqAt, opcode_descBytes, opcodeOf]

/-- The host address that a request names is read back; the others carry none. -/
theorem descBytes_hostAddrAt (hfits : reqFits mem w h ha r = true) : descBytes h (hostAddrAt r (descBytes h ha r)) r = descBytes h ha r := by
  cases r with
  | flashLoad o n bs c =>
    simp only [reqFits, Bool.and_eq_true] at hfits
    obtain ⟨⟨⟨⟨-, haddr⟩, -⟩, -⟩, -⟩ := hfits
    show descBytes h (at_ _ 0x10 8) _ = _
    rw [at_descBytes_of_bits (r := .flashLoad o n bs c) (o := 0x10) (n := 8) (v := ha) rfl haddr]
  | checkRun u a p o l e bs err =>
    unfold reqFits at hfits
    obtain ⟨hrest, -⟩ := (Bool.and_eq_true _ _).mp hfits
    simp only [Bool.and_eq_true] at hrest
    obtain ⟨⟨-, haddr⟩, -⟩ := hrest
    show descBytes h (at_ _ 0x18 8) _ = _
    rw [at_descBytes_of_bits (r := .checkRun u a p o l e bs err) (o := 0x18) (n := 8) (v := ha) rfl haddr]
  | paramRead | paramWrite | paramWriteVerify | query | expose | surveyRun | sweepTrigger | topologyRead | renumber | pathTest | sessionOpen
  | sessionClose | setPasscode | safetyWrite | flashCommit | logRead | wireSearch | wireReadIds | wireConvert | wireReadMem | wireWriteMem | nop => rfl

/-- The bytes that Table 9.9 names for another subop are zeros as they are written. -/
theorem ownArgs_descBytes (hfits : reqFits mem w h ha r = true) : ownArgs r (descBytes h ha r) = descBytes h ha r := by
  cases r with
  | renumber | sessionClose | wireReadMem => exact zeroAt_behind (by exact Nat.le_of_ble_eq_true rfl) (by decide)
  | sessionOpen =>
    exact (congrArg (zeroAt 0x20 8) (zeroAt_of_zeros rfl)).trans (zeroAt_behind (by exact Nat.le_of_ble_eq_true rfl) (by decide))
  | wireSearch | wireReadIds | wireConvert =>
    exact (congrArg (zeroAt 0x18 32) (zeroAt_behind (by exact Nat.le_of_ble_eq_true rfl) (by decide))).trans
      (zeroAt_behind (by exact Nat.le_of_ble_eq_true rfl) (by decide))
  | wireWriteMem i o bs b =>
    simp only [reqFits, Bool.and_eq_true, decide_eq_true_eq] at hfits
    obtain ⟨⟨-, hlen⟩, -⟩ := hfits
    have hargs : (argBytes ha (.wireWriteMem i o bs b)).length = 8 + bs.length := List.length_append
    exact zeroAt_behind (by omega) (by omega)
  | paramRead | paramWrite | paramWriteVerify | query | expose | surveyRun | sweepTrigger | topologyRead | pathTest | setPasscode | safetyWrite
  | flashLoad | flashCommit | logRead | checkRun | nop => rfl

/-- Settles O57: the header, the request and the host address are read back, and what is written from them is what was read. -/
theorem descriptorsReadBackAsWritten : Obligations.DescriptorsReadBackAsWritten := by
  unfold Obligations.DescriptorsReadBackAsWritten
  intro mem w h ha r hwf hflags hfits
  unfold parseDesc
  rw [reqAt_descBytes hwf hfits]
  dsimp only
  rw [hdrAt_descBytes hwf hflags, descBytes_hostAddrAt hfits, ownArgs_descBytes hfits, if_pos rfl]

end Sys2Proof.Machine
end

section
/-!
What an answer leaves of the ports (06 R170, 08 R226, R230): it queues frames and returns credits. A frame is held for a LOST port alone.
-/
namespace Sys2Proof.Machine

-- one proof at a time: these proofs share the equations of the operations they unfold
set_option Elab.async false

theorem bare_of_only {s t : State} {ps : List Part} (h : s.onlyChanges ps t) (hp : .ports ∉ ps := by decide) : s.sameBare t :=
  sameBare_of_ports (h .ports hp)

theorem bare_ite {s a b : State} {c : Prop} [Decidable c] (h : s.sameBare a) (k : s.sameBare b) : s.sameBare (if c then a else b) := by
  split <;> assumption

variable (s : State)

theorem enqueue_bare (p : Nat) (x : QFrame) : s.sameBare (s.enqueue p x) := by
  refine updPort_bare s p fun q => ?_
  dsimp only
  split
  · rename_i hlost
    have hlink : q.link = .lost := by simp only [Bool.and_eq_true, decide_eq_true_eq] at hlost; exact hlost.1
    simp only [PortSt.bare, hlink, if_true]
  · rfl

theorem sendTo_bare (f : Frame) : s.sameBare (s.sendTo f) := by
  unfold State.sendTo
  split
  · exact enqueue_bare s _ _
  · exact sameBare_refl s

theorem sendBytes_bare (c tag : Nat) (bs : List Byte) : s.sameBare (s.sendBytes c tag bs) := foldl_bare (fun u _ => sendTo_bare u _) _ s

theorem payCredits_bare (o : Option (Nat × Nat × Nat × Nat)) : s.sameBare (s.payCredits o) := by
  unfold State.payCredits
  split
  · split
    · exact sameBare_refl s
    · exact updPort_bare s _ fun _ => rfl
  · exact sameBare_refl s

theorem consume_bare (a : Arrival) (f : Frame) : s.sameBare (s.consume a f) := by
  unfold State.consume
  split
  · exact sameBare_refl s
  · split
    · exact sameBare_refl s
    · exact updPort_bare s _ fun _ => rfl

theorem admitAll_bare : s.sameBare s.admitAll := by
  unfold State.admitAll
  extract_lets ws s1 s2
  split
  · exact sameBare_refl s
  · refine sameBare_trans (bare_of_only (ps := [.glean]) ?_) (foldl_bare (fun u o => payCredits_bare u (some o)) _ _)
    refine only_step (sortWait_only _) (only_trans (only_glean s _) (only_foldl fun u w => ?_))
    split
    · rename_i hplaced
      exact place_only hplaced
    · exact addWait_only u _

theorem raiseJob_bare (k : JobKind) (key tag : Nat) (o : Option (Nat × Nat × Nat × Nat)) : s.sameBare (s.raiseJob k key tag o) :=
  sameBare_trans (bare_of_only (addWait_only s _)) (admitAll_bare _)

theorem raiseForward_bare (tag dest : Nat) (c : Carried) : s.sameBare (s.raiseForward tag dest c) :=
  sameBare_trans (bare_of_only (only_glean s _)) (raiseJob_bare _ _ _ _ _)

theorem sendResult_bare (dest tag : Nat) (bs : List Byte) : s.sameBare (s.sendResult dest tag bs) := by
  unfold State.sendResult
  exact bare_ite (foldl_bare sendTo_bare _ s) (raiseForward_bare s _ _ _)

theorem sendUp_bare (tag dest : Nat) (r : Req) (pos depth : Nat) (c : Contribution) (b : Bool) : s.sameBare (s.sendUp tag dest r pos depth c b) := by
  unfold State.sendUp
  dsimp only
  have hsent (x : GleanSt) (bs : List Byte) : s.sameBare ({ s with glean := x }.sendBytes 2 tag bs) :=
    sameBare_trans (bare_of_only (only_glean s x)) (sendBytes_bare _ _ _ _)
  exact bare_ite (sendResult_bare s _ _ _) (sameBare_trans (hsent _ _) (foldl_bare (fun u _ => sendTo_bare u _) _ _))

theorem endHarvest_bare (h : Harvest) (c : Contribution) (b : Bool) : s.sameBare (s.endHarvest h c b) := by
  unfold State.endHarvest
  extract_lets mine owes r s1 s2 s3 s4
  have hs2 : s.sameBare s2 := sameBare_trans (bare_of_only (only_glean s _)) (foldl_bare payCredits_bare owes s1)
  have hs3 : s.sameBare s3 := by
    unfold s3
    split
    · exact hs2
    · exact sameBare_trans hs2 (bare_of_only (only_host s2 _))
  have hs4 : s.sameBare s4 := by
    unfold s4
    split
    · split
      · exact sameBare_trans hs3 (bare_of_only (endTx_ends _ _ _))
      · exact hs3
    · exact sameBare_trans hs2 (sendUp_bare _ _ _ _ _ _ _ _)
  exact sameBare_trans hs4 (sameBare_trans (admitAll_bare _) (foldl_bare (fun u _ => bare_of_only (startStep_only u _)) _ _))

theorem closeHarvest_bare (tag : Nat) : s.sameBare (s.closeHarvest tag) := by
  unfold State.closeHarvest
  split
  · exact sameBare_refl s
  · extract_lets c
    split
    · exact sameBare_refl s
    · split
      · split
        · exact endHarvest_bare s _ _ _
        · split
          · exact sameBare_trans (bare_of_only (updHarvest_only s _ _)) (raiseJob_bare _ _ _ _ _)
          · exact endHarvest_bare s _ _ _
      · exact endHarvest_bare s _ _ _

theorem arrived_bare (h : Harvest) (port : Option Nat) : s.sameBare (s.arrived h port) := by
  unfold State.arrived
  extract_lets s1
  have hs1 : s.sameBare s1 := bare_of_only (updHarvest_only s _ _)
  split
  · exact closeHarvest_bare s _
  · split
    · exact sameBare_trans hs1 (bare_of_only (startStep_only _ _))
    · exact hs1

theorem giveKid_bare (tag : Nat) (port : Option Nat) (c : Contribution) : s.sameBare (s.giveKid tag port c) := by
  unfold State.giveKid
  extract_lets c1
  split
  · exact sameBare_refl s
  · split
    · exact sameBare_trans (bare_of_only (updHarvest_only s _ _)) (arrived_bare _ _ _)
    · exact sameBare_refl s

theorem copyPart_bare (t : Tx) (main : Nat) (c : Contribution) : s.sameBare (s.copyPart t main c) := by
  have hboth (i tag : Nat) (f : Tx → Tx) (g : Harvest → Harvest) : s.sameBare ((s.updTx i f).updHarvest tag g) :=
    sameBare_trans (bare_of_only (updTx_only s i f)) (bare_of_only (updHarvest_only _ tag g))
  exact bare_ite (sameBare_trans (hboth _ _ _ _) (giveKid_bare _ _ _ _)) (hboth _ _ _ _)

theorem contribute_bare (tag : Nat) (port : Option Nat) (c : Contribution) (src : Nat) (req : Req) (pos depth : Nat) :
    s.sameBare (s.contribute tag port c src req pos depth) := by
  unfold State.contribute
  split
  · exact giveKid_bare s _ _ _
  · split
    · split
      · split
        · exact bare_of_only (endTx_ends s _ _)
        · split
          · exact bare_of_only (endTx_ends s _ _)
          · exact copyPart_bare s _ _ _
        · exact copyPart_bare s _ _ _
      · exact bare_of_only (endTx_ends s _ _)
    · split
      · exact sameBare_refl s
      · exact sendUp_bare s _ _ _ _ _ _ _

end Sys2Proof.Machine
end

section
/-!
What the work of the tree leaves alone (08 R216–R235): a device keeps its position, depth, parent and numbered upstream port, its part in a takeover and
the marks of its FAILED ports while routes are set, reports and losses are taken up, and a walk goes on through its ports.
-/
namespace Sys2Proof.Machine

-- one proof at a time: these proofs share the equations of the operations they unfold
set_option Elab.async false

/-- Where a device stands in the tree: position, validity, depth, numbered upstream port, the walk that numbered it, the ROOT's last walk, the
parent, the takeover, the second position, and whether its parent is cut off. -/
def TreeSt.numbering (r : TreeSt) : Nat × Bool × Nat × Nat × Nat × Nat × Nat × Bool × Option Nat × Bool :=
  (r.pos, r.valid, r.depth, r.numUp, r.numberedBy, r.walkId, r.parent, r.inCharge, r.alias_, r.cutBy)

/-- The device stands where it stood; where `strict` holds its upstream port is the one it had or the numbered one. -/
structure State.keepsPlace (strict : Bool) (s t : State) : Prop where
  ident     : t.ident = s.ident
  numbering : t.tree.numbering = s.tree.numbering
  upstream  : strict = true → t.tree.curUp = s.tree.curUp ∨ t.tree.curUp = t.tree.numUp
  failed    : t.ports.map PortSt.failed = s.ports.map PortSt.failed
  anyFail   : s.tree.walk.anyFail = true → t.tree.walk.anyFail = true

variable {s t u : State} {b : Bool}

theorem place_refl (b : Bool) (s : State) : s.keepsPlace b s := ⟨rfl, rfl, fun _ => .inl rfl, rfl, id⟩

theorem numUp_of_place (h : s.keepsPlace b t) : t.tree.numUp = s.tree.numUp :=
  congrArg (fun n : Nat × Bool × Nat × Nat × Nat × Nat × Nat × Bool × Option Nat × Bool => n.2.2.2.1) h.numbering

theorem place_trans (h : s.keepsPlace b t) (k : t.keepsPlace b u) : s.keepsPlace b u where
  ident := k.ident.trans h.ident
  numbering := k.numbering.trans h.numbering
  upstream hb := by
    rcases k.upstream hb with hk | hk
    · rcases h.upstream hb with hh | hh
      · exact .inl (hk.trans hh)
      · exact .inr (hk.trans (hh.trans (numUp_of_place k).symm))
    · exact .inr hk
  failed := k.failed.trans h.failed
  anyFail ha := k.anyFail (h.anyFail ha)

/-- The last change of a chain. -/
theorem place_step (k : t.keepsPlace b u) (h : s.keepsPlace b t) : s.keepsPlace b u := place_trans h k

theorem place_ite {c : Prop} [Decidable c] (h : s.keepsPlace b t) (k : s.keepsPlace b u) : s.keepsPlace b (if c then t else u) := by
  split <;> assumption

theorem place_foldl {α : Type} {f : State → α → State} (hf : ∀ (u : State) (a : α), u.keepsPlace b (f u a)) (l : List α) (s : State) :
    s.keepsPlace b (l.foldl f s) := by
  induction l generalizing s with
  | nil => exact place_refl b s
  | cons a l ih => exact place_trans (hf s a) (ih (f s a))

theorem place_of_bare {ps : List Part} (h : s.onlyChanges ps t) (hp : s.sameBare t) (ht : .tree ∉ ps := by decide) (hi : .ident ∉ ps := by decide) :
    s.keepsPlace b t := by
  have htree : t.tree = s.tree := h .tree ht
  exact ⟨h .ident hi, by rw [htree], fun _ => .inl (by rw [htree]), map_of_bare hp fun _ => rfl, by rw [htree]; exact id⟩

theorem place_of_only {ps : List Part} (h : s.onlyChanges ps t) (hp : .ports ∉ ps := by decide) (ht : .tree ∉ ps := by decide)
    (hi : .ident ∉ ps := by decide) : s.keepsPlace b t := place_of_bare h (bare_of_only h hp) ht hi

/-- A change of the tree's state alone that leaves the device's place. -/
theorem place_of_tree {r : TreeSt} (hn : r.numbering = s.tree.numbering) (hu : r.curUp = s.tree.curUp)
    (ha : s.tree.walk.anyFail = true → r.walk.anyFail = true) : s.keepsPlace b { s with tree := r } :=
  ⟨rfl, hn, fun _ => .inl hu, rfl, ha⟩

theorem place_updPort (s : State) (p : Nat) {f : PortSt → PortSt} (hf : ∀ q, (f q).failed = q.failed) : s.keepsPlace b (s.updPort p f) :=
  ⟨rfl, rfl, fun _ => .inl rfl, updAt_map_same s.ports p hf, id⟩

/-! ### Frames -/

theorem place_enqueue (s : State) (p : Nat) (x : QFrame) : s.keepsPlace b (s.enqueue p x) := place_of_bare (enqueue_only s p x) (enqueue_bare s p x)

theorem place_sendTo (s : State) (f : Frame) : s.keepsPlace b (s.sendTo f) := place_of_bare (sendTo_only s f) (sendTo_bare s f)

theorem place_flush (s : State) : s.keepsPlace b s.flush := place_of_bare (flush_only s) (flush_bare s)

theorem place_event (s : State) (typ v : Nat) : s.keepsPlace b (s.event typ v) := place_of_only (event_only s typ v)

theorem place_ledger (s : State) (c i d : Nat) : s.keepsPlace b (s.ledger c i d) := place_of_only (ledger_only s c i d)

theorem place_sendCut (s : State) (on top : Nat) : s.keepsPlace b (s.sendCut on top) := place_foldl (fun u _ => place_enqueue u _ _) _ s

theorem place_deliverHeld (s : State) : s.keepsPlace b s.deliverHeld := by
  unfold State.deliverHeld
  refine place_ite (place_refl b s) (place_step (place_foldl (fun u r => ?_) _ _) (place_of_tree rfl rfl id))
  exact place_step (place_of_bare (raiseForward_only _ _ _ _) (raiseForward_bare _ _ _ _)) (place_of_tree rfl rfl id)

theorem place_recut (s before : State) : s.keepsPlace b (s.recut before) := by
  unfold State.recut
  have hcut : s.keepsPlace b s.trackCut := place_of_only (trackCut_only s)
  exact place_ite (place_trans hcut (place_trans (place_sendCut _ _ _) (place_deliverHeld _))) hcut

/-! ### Routes -/

theorem place_setRoute (s : State) (lo hi port : Nat) (install reversal : Bool) (hb : b = true → (install && reversal) = false) :
    s.keepsPlace b (s.setRoute lo hi port install reversal) := by
  unfold State.setRoute
  extract_lets before tree rest s2 q s3 s4
  refine place_step (place_recut s4 before) ?_
  unfold s4
  cases reversal with
  | true =>
    rw [if_pos rfl]
    cases install with
    | true => exact ⟨rfl, rfl, fun h => absurd (hb h) (by decide), rfl, id⟩
    | false => exact ⟨rfl, rfl, fun _ => .inr rfl, rfl, id⟩
  | false =>
    rw [if_neg (by decide)]
    have hs2 : s.keepsPlace b s2 := place_of_tree rfl rfl id
    have hs3 : s.keepsPlace b s3 := place_ite (place_step (place_updPort s2 port fun _ => rfl) hs2) hs2
    refine place_ite (place_of_tree rfl rfl id) (place_ite (place_refl b s) (place_step (place_foldl (fun u p => ?_) _ _) hs3))
    exact place_ite (place_refl b u) (place_step (place_foldl (fun v x => place_enqueue v port x) _ _) (place_updPort u p fun _ => rfl))

theorem place_routeAt (s : State) (x lo hi port : Nat) (install reversal : Bool) (hb : b = true → (install && reversal) = false) :
    s.keepsPlace b (s.routeAt x lo hi port install reversal) :=
  place_ite (place_setRoute s lo hi port install reversal hb) (place_sendTo s _)

theorem place_applyReroute (s : State) (r : Reroute) (install : Bool) (hb : b = true → install = false) : s.keepsPlace b (s.applyReroute r install) := by
  unfold State.applyReroute
  extract_lets s1 s2 up
  have hs1 : s.keepsPlace b s1 := place_foldl (fun u h => place_routeAt u _ _ _ _ _ _ fun _ => Bool.and_false _) _ s
  have hs2 : s.keepsPlace b s2 := place_step (place_foldl (fun u h => place_routeAt u _ _ _ _ _ _ fun _ => Bool.and_false _) _ s1) hs1
  exact place_step (place_foldl (fun u h => place_routeAt u _ _ _ _ _ _ fun hb' => by rw [hb hb']; rfl) _ s2) hs2

theorem place_endReroutes (s : State) (ends : Reroute → Bool) : s.keepsPlace b (s.endReroutes ends) := by
  unfold State.endReroutes
  extract_lets rs s1 tree s2
  have hs1 : s.keepsPlace b s1 := place_foldl (fun u r => place_applyReroute u r false fun _ => rfl) rs s
  have hs2 : s.keepsPlace b s2 := place_step (place_of_tree rfl rfl id) hs1
  refine place_step (place_foldl (fun u a => ?_) _ s2) hs2
  exact place_foldl (fun v h => place_routeAt v _ _ _ _ _ _ fun _ => Bool.and_false _) _ u

theorem place_rerouteTo (s : State) (c hi : Nat) : s.keepsPlace false (s.rerouteTo c hi) := by
  unfold State.rerouteTo
  have hchoose : s.onlyChanges [.free] (s.chooseReroute c hi).2 := by
    unfold State.chooseReroute
    exact only_when (took_only s)
  refine place_ite (place_refl _ s) ?_
  generalize s.chooseReroute c hi = x at *
  obtain ⟨r, v⟩ := x
  have hv : s.keepsPlace false v := place_of_only hchoose
  cases r with
  | none => exact hv
  | some r => exact place_step (place_of_tree rfl rfl id) (place_step (place_applyReroute v r true fun h => absurd h (by decide)) hv)

/-! ### Reports, losses and attachments at the ROOT -/

theorem place_enterTopo (s : State) (walk pos x uid hi src : Nat) : s.keepsPlace b (s.enterTopo walk pos x uid hi src) := by
  unfold State.enterTopo
  exact place_step (place_of_tree rfl rfl id) (place_step (place_of_tree rfl rfl id) (place_of_only (took_only s)))

theorem place_shareTopo (s : State) : s.keepsPlace b s.shareTopo := by
  unfold State.shareTopo
  exact place_ite (place_refl b s) (place_foldl (fun u d => place_foldl (fun v e => place_sendTo v _) _ u) _ s)

theorem place_takeReport (s : State) (walk pos x uid hi src : Nat) : s.keepsPlace b (s.takeReport walk pos x uid hi src) := by
  have hnew (u : State) : u.keepsPlace b (u.enterTopo walk pos x uid hi src).shareTopo := place_step (place_shareTopo _) (place_enterTopo u _ _ _ _ _ _)
  unfold State.takeReport
  split
  · refine place_ite (hnew s) ?_
    exact place_step (place_event _ _ _) (place_step (place_of_only (ledgerAt_only _ _ _ _ _ _)) (place_step (hnew _) (place_endReroutes s _)))
  · exact hnew s

theorem place_rootAttach (s : State) (parent port uid : Nat) : s.keepsPlace b (s.rootAttach parent port uid) := by
  unfold State.rootAttach
  extract_lets pos path s1 tree s2 depth
  have hs1 : s.keepsPlace b s1 := place_foldl (fun u h => place_routeAt u _ _ _ _ _ _ fun _ => Bool.and_false _) _ s
  have hs2 : s.keepsPlace b s2 := place_step (place_of_tree rfl rfl id) hs1
  exact place_ite (place_step (place_event _ _ _) (place_ledger s _ _ _)) (place_step (place_event _ _ _) (place_step (place_sendTo _ _) hs2))

theorem place_takeAttach (s : State) (parent port uid : Nat) : s.keepsPlace b (s.takeAttach parent port uid) :=
  place_ite (place_of_tree rfl rfl id) (place_rootAttach s _ _ _)

theorem place_offerPort (s : State) (p : Nat) : s.keepsPlace b (s.offerPort p) := by
  unfold State.offerPort
  extract_lets q
  refine place_ite (place_refl b s) ?_
  split
  · exact place_enqueue s _ _
  · exact place_ite (place_takeAttach s _ _ _) (place_sendTo s _)

theorem place_rootLost (s : State) (sender : Nat) (child : Option Nat) (restored : Bool) (walk : Nat) :
    s.keepsPlace false (s.rootLost sender child restored walk) := by
  unfold State.rootLost
  extract_lets v s1 tree walk2 s2 host
  have hs1 : s.keepsPlace false s1 := place_event s _ _
  have hs2 : s.keepsPlace false s2 := place_ite (place_step (place_of_tree rfl rfl fun _ => rfl) hs1) hs1
  refine place_ite (place_step (place_event _ _ _) (place_endReroutes s _)) ?_
  split
  · exact hs2
  · extract_lets hi s3
    have hs3 : s.keepsPlace false s3 := place_step (place_of_only (only_host s2 _)) hs2
    refine place_ite hs3 ?_
    split
    · exact hs3
    · exact place_step (place_rerouteTo _ _ _) hs3

theorem place_sendLost (s : State) (p : Nat) (restored : Bool) (walk : Nat) : s.keepsPlace false (s.sendLost p restored walk) := by
  unfold State.sendLost
  exact place_ite (place_rootLost s _ _ _ _) (place_sendTo s _)

theorem place_joinTops (s : State) : s.keepsPlace false s.joinTops := by
  unfold State.joinTops
  exact place_foldl (fun u _ => place_foldl (fun v e => place_rerouteTo v _ _) _ u) _ s

/-! ### The walk -/

theorem place_numberLegacy (s : State) (walk next : Nat) : s.keepsPlace b (s.numberLegacy walk next).2 := by
  unfold State.numberLegacy
  dsimp only
  exact place_step (place_foldl (fun u d => place_ite (place_takeReport u _ _ _ _ _ _) (place_sendTo u _)) _ _) (place_of_only (only_legacy s _))

theorem place_finishWalkTx (s : State) (tid : Option Nat) (failed : Bool) : s.keepsPlace b (s.finishWalkTx tid failed) := by
  unfold State.finishWalkTx
  split
  · exact place_refl b s
  · split
    · exact place_step (place_of_only (settleWaits_only _ _)) (place_of_only (postFinal_only s _ _ _ _ _ _ _))
    · exact place_refl b s

/-- A change of the walk that hides no failure. -/
theorem place_updWalk (s : State) {f : WalkSt → WalkSt} (hf : s.tree.walk.anyFail = true → (f s.tree.walk).anyFail = true) :
    s.keepsPlace b (s.updWalk f) := place_of_tree rfl rfl hf

theorem place_walkEnd (s : State) : s.keepsPlace b s.walkEnd := by
  unfold State.walkEnd
  extract_lets full s1 w tree s2 host sr st ws tree2 s3
  have hs1 : s.keepsPlace b s1 := by
    unfold s1
    split
    · rename_i hfull
      have hnone : s.tree.walk.anyFail = false := by simp only [full, Bool.and_eq_true, Bool.not_eq_true'] at hfull; exact hfull.2
      exact place_step (place_of_tree rfl rfl fun ha => absurd (hnone.symm.trans ha) (by decide)) (place_of_only (took_only s))
    · exact place_refl b s
  have hs2 : s.keepsPlace b s2 := place_step (place_of_tree rfl rfl id) hs1
  have hs3 : s.keepsPlace b s3 := by
    unfold s3
    split
    · have hst : s.keepsPlace b st :=
        place_step (place_finishWalkTx _ _ _) (place_step (place_shareTopo _) (place_step (place_of_only (only_host s2 _)) hs2))
      exact place_step (place_foldl (fun u a => place_rootAttach u _ _ _) ws _) (place_step (place_of_tree rfl rfl id) hst)
    · exact place_step (place_enqueue _ _ _) (place_step (place_sendTo s2 _) hs2)
  have hoffer (u : State) (p : Nat) :
      u.keepsPlace b (if (u.port p).late then (u.updPort p (fun q => { q with late := false })).offerPort p else u) :=
    place_ite (place_step (place_offerPort _ p) (place_updPort u p fun _ => rfl)) (place_refl b u)
  exact place_step (place_foldl hoffer [0, 1, 2, 3] s3) hs3

theorem place_walkFrom (n : Nat) : ∀ (waited : Bool) (s : State), s.keepsPlace b (State.walkFrom n waited s) := by
  induction n with
  | zero => exact fun _ s => place_refl b s
  | succ n ih =>
    intro waited s
    unfold State.walkFrom
    extract_lets w p q skip
    have hskip (u : State) : u.keepsPlace b (skip u) := place_step (ih false _) (place_updWalk u id)
    clear_value skip
    refine place_ite (place_walkEnd s) (place_ite (hskip s) (place_ite ?_ (place_ite (place_updWalk s id) (place_ite (hskip s) (place_ite ?_
      (place_ite ?_ ?_))))))
    · exact place_step (hskip _) (place_step (place_updWalk _ id) (place_numberLegacy s w.id w.next))
    · exact place_step (hskip _) (place_updPort s p fun _ => rfl)
    · exact place_step (hskip _) (place_step (place_updWalk _ fun _ => rfl) (place_updPort s p fun _ => rfl))
    · exact place_step (place_enqueue _ _ _) (place_updWalk s id)

theorem place_walkNext (s : State) : s.keepsPlace b s.walkNext := place_step (place_walkFrom 5 false _) (place_updWalk s id)

end Sys2Proof.Machine
end

section
/-!
A frame that is ready on a port that may send goes out at once, and stands among those without an acknowledgement (07 R190, R192, R196).
-/
namespace Sys2Proof.Machine

-- one proof at a time: these proofs share the equations of the operations they unfold
set_option Elab.async false

/-- What holds of each port and the port it becomes, where it holds of an unchanged port and of the one that changes. -/
theorem updPort_each {R : PortSt → PortSt → Prop} {s : State} {p : Nat} {f : PortSt → PortSt} (hrefl : ∀ x, R x x) (h : ∀ x, R x (f x)) (q : Nat) :
    R (s.port q) ((s.updPort p f).port q) := by
  by_cases hp : p = q
  · subst hp
    by_cases hlt : p < s.ports.length
    · rw [updPort_port_self s p f hlt]
      exact h _
    · have hnone : s.ports[p]? = none := List.getElem?_eq_none_iff.mpr (by omega)
      rw [show s.updPort p f = s by simp [State.updPort, updAt, hnone]]
      exact hrefl _
  · rw [updPort_port_ne s p q f hp]
    exact hrefl _

/-- The frames of space N without an acknowledgement stay, and others may follow. -/
structure State.sentMore (s t : State) : Prop where
  length : t.ports.length = s.ports.length
  unacked : ∀ q, (s.port q).spaceN.unacked <+: (t.port q).spaceN.unacked

variable {s t u : State} {p : Nat} {x : QFrame}

theorem sentMore_refl (s : State) : s.sentMore s := ⟨rfl, fun _ => List.prefix_rfl⟩

theorem sentMore_trans (h : s.sentMore t) (k : t.sentMore u) : s.sentMore u :=
  ⟨k.length.trans h.length, fun q => (h.unacked q).trans (k.unacked q)⟩

theorem sentMore_of_ports (h : t.ports = s.ports) : s.sentMore t :=
  ⟨by rw [h], fun q => by rw [port_of_ports h q]⟩

theorem updPort_sentMore (s : State) (p : Nat) {f : PortSt → PortSt} (h : ∀ q, q.spaceN.unacked <+: (f q).spaceN.unacked) : s.sentMore (s.updPort p f) :=
  ⟨updAt_length _ _ _, updPort_each (R := fun a b => a.spaceN.unacked <+: b.spaceN.unacked) (fun _ => List.prefix_rfl) h⟩

theorem crierBit_sentMore (s : State) (p : Nat) : s.sentMore (s.crierBit p).2 :=
  ⟨(crierBit_portsHeard s p).length, fun q => by rw [((crierBit_portsHeard s p).each q).unackedN]⟩

theorem stampTime_sentMore (s : State) (p : Nat) (f : Frame) : s.sentMore (s.stampTime p f).2 := by
  unfold State.stampTime
  split
  · exact sentMore_refl s
  · split
    · exact updPort_sentMore s p fun _ => List.prefix_rfl
    · exact sentMore_refl s

/-- The port after a frame of number h went out on it. -/
def PortSt.sentOut (q : PortSt) (f : Frame) (h w : Nat) : PortSt :=
  let q := q.updSpace (f.cls = 0) (fun sp => { sp with
    txNext := (h + 1) % 64, unacked := sp.unacked ++ [{ frame := f, hseq := h, retries := 0, sentAt := w }] })
  { q with credits := if creditFree f then q.credits else q.credits.upd f.cls (fun n => n - unitsOf f),
           cnt := { q.cnt with tx := sat 0xFFFFFFFF (q.cnt.tx + 1) }, lastTx := w }

theorem sentOut_unacked (q : PortSt) (f : Frame) (h w : Nat) : q.spaceN.unacked <+: (q.sentOut f h w).spaceN.unacked := by
  unfold PortSt.sentOut PortSt.updSpace
  by_cases hcls : f.cls = 0
  · rw [hcls]
    exact List.prefix_rfl
  · rw [decide_eq_false hcls]
    exact List.prefix_append _ _

/-- The port that a forwarded frame came on is owed its credits. -/
theorem oweSource_sentMore (s : State) (src : Option Nat) (f : Frame) : s.sentMore (match src with
    | some o => if creditFree f then s else s.updPort o (fun q => { q with owed := q.owed.upd f.cls (fun n => n + unitsOf f) })
    | none => s) := by
  split
  · split
    · exact sentMore_refl s
    · exact updPort_sentMore _ _ fun _ => List.prefix_rfl
  · exact sentMore_refl s

/-- The port's own part of a sending; what follows it leaves the frames without an acknowledgement. -/
theorem sendNow_sentOut (s : State) (p : Nat) (x : QFrame) : ∃ (v : State) (f : Frame) (h w : Nat),
    s.sentMore v ∧ (x.frame.typ ≠ 9 → f = x.frame) ∧ (v.updPort p (fun q => q.sentOut f h w)).sentMore (s.sendNow p x) := by
  unfold State.sendNow
  dsimp only
  have hframe : x.frame.typ ≠ 9 → (s.stampTime p x.frame).1 = x.frame := fun h => by
    unfold State.stampTime
    rw [if_pos (by simpa using h)]
  have hstamp := stampTime_sentMore s p x.frame
  generalize (s.stampTime p x.frame).1 = f at *
  generalize (s.stampTime p x.frame).2 = t at *
  have hbit : s.sentMore ((t.stampProbe f).crierBit p).2 := sentMore_trans (sentMore_trans hstamp
    (sentMore_of_ports (stampProbe_only t f .ports (by decide)))) (crierBit_sentMore _ p)
  generalize ((t.stampProbe f).crierBit p).2 = v at *
  generalize ((t.stampProbe f).crierBit p).1 = cb
  refine ⟨v, f, (t.port p |>.space (f.cls = 0)).txNext, v.wall, hbit, hframe, ?_⟩
  refine sentMore_trans ?_ (sentMore_of_ports (emit_only _ _ .ports (by decide)))
  exact oweSource_sentMore _ x.src f

theorem sendNow_sentMore (s : State) (p : Nat) (x : QFrame) : s.sentMore (s.sendNow p x) := by
  obtain ⟨v, f, h, w, hv, -, hsent⟩ := sendNow_sentOut s p x
  exact sentMore_trans hv (sentMore_trans (updPort_sentMore v p fun q => sentOut_unacked q f h w) hsent)

/-- Frame g of space N went out on port p and waits for its acknowledgement. -/
def State.hasSent (s : State) (p : Nat) (g : Frame) : Prop := (s.port p).spaceN.unacked.any (fun u => u.frame == g) = true

theorem hasSent_of_more {g : Frame} (h : s.sentMore t) (hg : s.hasSent p g) : t.hasSent p g := by
  obtain ⟨u, hu, heq⟩ := List.any_eq_true.mp hg
  exact List.any_eq_true.mpr ⟨u, (h.unacked p).subset hu, heq⟩

theorem sendNow_hasSent (hp : p < s.ports.length) (htyp : x.frame.typ ≠ 9) (hcls : x.frame.cls ≠ 0) : (s.sendNow p x).hasSent p x.frame := by
  obtain ⟨v, f, h, w, hv, hframe, hsent⟩ := sendNow_sentOut s p x
  obtain rfl := hframe htyp
  refine hasSent_of_more hsent ?_
  unfold State.hasSent
  rw [updPort_port_self v p _ (by rw [hv.length]; exact hp)]
  unfold PortSt.sentOut PortSt.updSpace
  rw [decide_eq_false hcls]
  simp

theorem giveCredit_sentMore (s : State) (p : Nat) : s.sentMore (s.giveCredit p) := by
  unfold State.giveCredit
  extract_lets q kept o
  split
  · exact sentMore_refl s
  · refine sentMore_trans ?_ (sendNow_sentMore _ p _)
    exact updPort_sentMore s p fun _ => List.prefix_rfl

theorem pumpOne_sentMore (s : State) (p : Nat) : s.sentMore (s.pumpOne p) := by
  unfold State.pumpOne
  extract_lets q t ready fits size go
  have hgo (l : List QFrame) (f : TxQueues → TxQueues) : s.sentMore (go l f) := by
    cases l with
    | nil => exact sentMore_refl s
    | cons x l =>
      refine sentMore_trans ?_ (sendNow_sentMore _ p x)
      exact updPort_sentMore s p fun _ => List.prefix_rfl
  clear_value go ready fits size
  split
  · exact hgo _ _
  split
  · exact hgo _ _
  split
  · exact hgo _ _
  split
  · exact hgo _ _
  exact updPort_sentMore s p fun _ => List.prefix_rfl

theorem foldl_sentMore {α : Type} {f : State → α → State} (hf : ∀ (u : State) (a : α), u.sentMore (f u a)) (l : List α) (s : State) :
    s.sentMore (l.foldl f s) := by
  induction l generalizing s with
  | nil => exact sentMore_refl s
  | cons a l ih => exact sentMore_trans (hf s a) (ih (f s a))

theorem iter_sentMore {f : State → State} (hf : ∀ u : State, u.sentMore (f u)) (n : Nat) (s : State) : s.sentMore (iter f n s) := by
  induction n generalizing s with
  | zero => exact sentMore_refl s
  | succ n ih => exact sentMore_trans (hf s) (ih (f s))

theorem pump_sentMore (s : State) (p : Nat) : s.sentMore (s.pump p) := iter_sentMore (fun u => pumpOne_sentMore u p) _ s

/-! ### One frame ready on a port -/

/-- CONTROL frame x alone waits on this port, and may go. -/
structure PortSt.readyAlone (q : PortSt) (x : QFrame) : Prop where
  safety  : q.txq.safety = []
  control : q.txq.control = [x]
  data    : q.txq.data = []
  bulk    : q.txq.bulk = []
  may     : q.canSend x.frame = true

/-- The second choice of the transmitter at the latest sends it. -/
theorem pump_hasSent (h : (s.port p).readyAlone x) (hp : p < s.ports.length) (htyp : x.frame.typ ≠ 9) (hcls : x.frame.cls ≠ 0)
    (hlen : lineBytes x.frame ≤ 2048) : (s.pump p).hasSent p x.frame := by
  have hgo {v : State} (hv : (v.port p).readyAlone x) (hlt : p < v.ports.length) (hd : lineBytes x.frame ≤ (v.port p).txq.defC) :
      (v.pumpOne p).hasSent p x.frame := by
    unfold State.pumpOne
    extract_lets q t ready fits size go
    rw [if_neg (by simp [ready, t, q, hv.safety]), if_pos (by simp [fits, t, q, hv.control, hv.may, hd])]
    have hctl : t.control = [x] := hv.control
    rw [hctl]
    exact sendNow_hasSent (by rw [updPort_ports, updAt_length]; exact hlt) htyp hcls
  have htwo : s.pump p = (s.pumpOne p).pumpOne p := by
    unfold State.pump
    simp only [h.safety, h.control, h.data, h.bulk, List.length_nil, List.length_singleton]
    rfl
  rw [htwo]
  by_cases hd : lineBytes x.frame ≤ (s.port p).txq.defC
  · exact hasSent_of_more (pumpOne_sentMore _ p) (hgo h hp hd)
  · have hwait : s.pumpOne p = s.updPort p (fun q => { q with txq := { q.txq with defC := (s.port p).txq.defC + 2048, defD := 0, defB := 0 } }) := by
      unfold State.pumpOne
      extract_lets q t ready fits size go
      rw [if_neg (by simp [ready, t, q, h.safety]), if_neg (by simp [fits, t, q, h.control, hd]), if_neg (by simp [fits, t, q, h.data]),
        if_neg (by simp [fits, t, q, h.bulk])]
      simp [ready, t, q, h.control, h.data, h.bulk, h.may]
    have hport := updPort_port_self s p (fun q => { q with txq := { q.txq with defC := (s.port p).txq.defC + 2048, defD := 0, defB := 0 } }) hp
    rw [hwait]
    refine hgo ?_ (by rw [updPort_ports, updAt_length]; exact hp) ?_
    · rw [hport]
      exact ⟨h.safety, h.control, h.data, h.bulk, h.may⟩
    · rw [hport]
      dsimp only
      omega

/-- A frame that is ready on port p, where nothing waits on the others, goes out. -/
theorem flush_hasSent (h : (s.port p).readyAlone x) (hp4 : p < 4) (hp : p < s.ports.length) (htyp : x.frame.typ ≠ 9) (hcls : x.frame.cls ≠ 0)
    (hlen : lineBytes x.frame ≤ 2048) (hidle : ∀ q, q ≠ p → (s.port q).idle = true) : s.flush.hasSent p x.frame := by
  have hpumps : ([0, 1, 2, 3].foldl State.pump s).hasSent p x.frame := by
    obtain ⟨a, b, hsplit, ha⟩ : ∃ a b, [0, 1, 2, 3] = a ++ p :: b ∧ p ∉ a := by
      rcases (by omega : p = 0 ∨ p = 1 ∨ p = 2 ∨ p = 3) with rfl | rfl | rfl | rfl
      · exact ⟨[], [1, 2, 3], rfl, by decide⟩
      · exact ⟨[0], [2, 3], rfl, by decide⟩
      · exact ⟨[0, 1], [3], rfl, by decide⟩
      · exact ⟨[0, 1, 2], [], rfl, by decide⟩
    have hbefore : ∀ l : List Nat, p ∉ l → l.foldl State.pump s = s := by
      intro l
      induction l with
      | nil => exact fun _ => rfl
      | cons q l ih =>
        intro hl
        rw [List.foldl_cons, pump_of_idle (hidle q fun h => hl (h ▸ List.mem_cons_self))]
        exact ih fun h => hl (List.mem_cons_of_mem _ h)
    rw [hsplit, List.foldl_append, hbefore a ha, List.foldl_cons]
    exact hasSent_of_more (foldl_sentMore pump_sentMore b _) (pump_hasSent h hp htyp hcls hlen)
  have hcredit := hasSent_of_more (foldl_sentMore giveCredit_sentMore [0, 1, 2, 3] _) hpumps
  exact hasSent_of_more (sentMore_of_ports (freeExposure_ports _)) hcredit

end Sys2Proof.Machine
end

section
/-!
A frame that ends at this hop (07 R191, R192, R195): what stands when its own effect begins.
-/
namespace Sys2Proof.Machine

-- one proof at a time: these proofs share the equations of the operations they unfold
set_option Elab.async false

variable {s t u v : State} {p : Nat} {f : Frame} {cb : Bool}

/-- A port after a frame was heard and taken off its buffer: beside what hearing changes, its owed credits. -/
structure PortSt.tookAs (a b : PortSt) : Prop where
  same : b = { a with crier := b.crier, spaceN := b.spaceN, spaceS := b.spaceS, cnt := b.cnt, lastTx := b.lastTx, owed := b.owed }
  unacked : b.spaceN.unacked = a.spaceN.unacked

/-- What stands when the effect of a frame begins that came in sequence. -/
structure State.metAs (s v : State) : Prop where
  only : s.onlyChanges [.ports, .glean, .out, .tree] v
  tree : v.tree = { s.tree with walk := { s.tree.walk with since := v.tree.walk.since } }
  length : v.ports.length = s.ports.length
  each : ∀ q, (s.port q).tookAs (v.port q)

theorem consume_each (s : State) (a : Arrival) (f : Frame) (q : Nat) : (s.port q).tookAs ((s.consume a f).port q) := by
  unfold State.consume
  split
  · exact ⟨rfl, rfl⟩
  · split
    · exact ⟨rfl, rfl⟩
    · refine updPort_each (R := PortSt.tookAs) (fun _ => ⟨rfl, rfl⟩) ?_ q
      exact fun _ => ⟨rfl, rfl⟩

theorem metAs_of_arrived (h : s.arrivedAs u) (a : Arrival) (f : Frame) : s.metAs (u.takeOff a f) := by
  have hconsume : u.onlyChanges [.ports] (u.takeOff a f) := takeOff_only u a f
  have htree : (u.takeOff a f).tree = u.tree := hconsume .tree (by decide)
  have htook (q : Nat) : (u.port q).tookAs ((u.takeOff a f).port q) := by
    unfold State.takeOff
    split
    · exact ⟨rfl, rfl⟩
    · exact consume_each u a f q
  refine ⟨only_step hconsume h.only, ?_, ?_, fun q => ?_⟩
  · rw [htree]
    exact h.tree
  · refine Eq.trans ?_ h.ports.length
    unfold State.takeOff
    split
    · rfl
    · unfold State.consume
      split
      · rfl
      · split
        · rfl
        · exact updAt_length _ _ _
  · obtain ⟨hheard, hN, -⟩ := h.ports.each q
    obtain ⟨htaken, hT⟩ := htook q
    refine ⟨?_, hT.trans hN⟩
    rw [hheard] at htaken
    exact htaken

theorem bare_of_met (h : s.metAs v) : s.sameBare v := by
  refine List.ext_getElem (by simp [h.length]) fun q hq _ => ?_
  have hlt : q < v.ports.length := by simpa using hq
  have hport (w : State) (hw : q < w.ports.length) : w.ports[q] = w.port q := by
    simp [State.port, List.getD_eq_getElem?_getD, List.getElem?_eq_getElem hw]
  rw [List.getElem_map, List.getElem_map, hport v hlt, hport s (by rw [← h.length]; exact hlt), (h.each q).same]
  rfl

theorem place_of_met {b : Bool} (h : s.metAs v) : s.keepsPlace b v := by
  have htree := h.tree
  exact ⟨h.only .ident (by decide), by rw [htree]; rfl, fun _ => .inl (by rw [htree]), map_of_bare (bare_of_met h) fun _ => rfl,
    by rw [htree]; exact id⟩

theorem isRoot_of_met (h : s.metAs v) : v.isRoot = s.isRoot := by
  unfold State.isRoot State.hasHost
  rw [h.tree, h.only .ident (by decide)]

theorem via_eq (h : f.cls = 1) : s.via p cb = s.viaSpace p f cb := by
  unfold State.via State.viaSpace PortSt.space
  rw [h]
  rfl

theorem ifChecked_of_ok (h : checkOk f = true) (a : Arrival) (act : State → State) : s.ifChecked a f act = act s := by
  unfold State.ifChecked State.checkFrame
  rw [if_pos h]
  rfl

/-- The sequencer takes such a frame at once. -/
theorem frameWaits_of_sequences (h : s.sequences = true) : s.frameWaits f = false := by
  simp only [State.sequences, Bool.and_eq_true, bne_iff_ne] at h
  obtain ⟨hmode, hnone⟩ := h
  simp [State.frameWaits, hmode, hnone]

/-- A frame that ends at this hop and need not wait: its effect follows the hop. -/
theorem onLocal_meets (act : State → State) (h : s.onPort p = true) (hcls : f.cls = 1) (hlisted : frameListed f = true)
    (hgo : s.frameWaits f = false) : ∃ v, s.metAs v ∧ s.onLocal (s.via p cb) f act = act v := by
  have harr := arrivedAs_trans (hop_arrivedAs f cb h) (touchWalk_arrivedAs _ (s.viaSpace p f cb) f)
  have hok : (s.hop (s.viaSpace p f cb) f).1 = true := by rw [hop_viaSpace f cb h]
  rw [via_eq hcls]
  unfold State.onLocal
  generalize s.hop (s.viaSpace p f cb) f = r at harr hok ⊢
  obtain ⟨ok, w⟩ := r
  dsimp only at harr hok ⊢
  rw [hok, Bool.not_true, if_neg Bool.false_ne_true]
  generalize w.touchWalk (s.viaSpace p f cb) f = u at harr ⊢
  have hgou : u.frameWaits f = false := by
    unfold State.frameWaits
    rw [harr.tree, harr.only .mode (by decide)]
    exact hgo
  refine ⟨_, metAs_of_arrived harr (s.viaSpace p f cb) f, ?_⟩
  rw [State.deliver, hlisted, hgou]
  rfl

/-- The same of a frame that the device acts on as its one destination. -/
theorem onFrame_meets (act : State → State) (h : s.inSequence p f = true) (hcls : f.cls = 1) (hlisted : frameListed f = true)
    (hgo : s.frameWaits f = false) : ∃ v, s.metAs v ∧ s.onFrame (s.via p cb) f act = act v := by
  obtain ⟨u, harr, hframe⟩ := onFrame_inSequence cb act h hlisted hgo
  rw [via_eq hcls]
  exact ⟨_, metAs_of_arrived harr _ _, hframe⟩

end Sys2Proof.Machine
end

section
/-!
The walk going down (08 R216–R218, R225).
-/
namespace Sys2Proof.Machine

-- one proof at a time: these proofs share the equations of the operations they unfold
set_option Elab.async false

variable {s t u v : State} {p : Nat} {f : Frame} {cb : Bool}

/-! ### Places -/

theorem numbered_parts {b : Bool} (h : s.keepsPlace b t) : t.tree.pos = s.tree.pos ∧ t.tree.valid = s.tree.valid ∧ t.tree.depth = s.tree.depth
    ∧ t.tree.numUp = s.tree.numUp ∧ t.tree.numberedBy = s.tree.numberedBy ∧ t.tree.walkId = s.tree.walkId ∧ t.tree.parent = s.tree.parent := by
  have hn := h.numbering
  simp only [TreeSt.numbering, Prod.mk.injEq] at hn
  obtain ⟨hpos, hvalid, hdepth, hup, hby, hid, hparent, -⟩ := hn
  exact ⟨hpos, hvalid, hdepth, hup, hby, hid, hparent⟩

theorem failed_of_place {b : Bool} (h : s.keepsPlace b t) (p : Nat) : (t.port p).failed = (s.port p).failed := by
  have hget (w : State) : (w.port p).failed = (w.ports.map PortSt.failed).getD p false := by
    simp only [State.port, List.getD_eq_getElem?_getD, List.getElem?_map]
    cases w.ports[p]? <;> rfl
  rw [hget, hget, h.failed]

/-- A walk that begins leaves the place, whatever the walk before it has met. -/
theorem walkBegin_place (s : State) (id next : Nat) (up : Option Nat) (t0 : Nat) (tid : Option Nat) :
    ∃ u : State, u.tree.numbering = s.tree.numbering ∧ u.tree.curUp = s.tree.curUp ∧ ∀ b, u.keepsPlace b (s.walkBegin id next up t0 tid) :=
  ⟨s.updWalk _, rfl, rfl, fun b => place_walkFrom (b := b) 5 false (s.updWalk _)⟩

/-! ### WALK -/

/-- The device with the position that a WALK gives it. -/
def State.numberedAs (s : State) (p : Nat) (f : Frame) (pp : Nat) : State := { s with tree := { s.tree with
  pos := discA f % 2 ^ 18, valid := true, depth := discB f % 2 ^ 18, numUp := p, curUp := p, numberedBy := discWalk f, hi := discA f % 2 ^ 18
  parent := f.src, parentPort := pp } }

theorem walkIn_numbers (h : s.tree.valid = false) :
    ∃ w pp before id next up t0, s.walkIn p f = ((State.numberedAs w p f pp).recut before).walkBegin id next up t0 none := by
  unfold State.walkIn
  rw [if_neg (by rw [h]; simp)]
  exact ⟨_, _, _, _, _, _, _, rfl⟩

theorem discoverWalk_exec (hport : s.onPort p = true) (hcls : f.cls = 1) (hlisted : frameListed f = true) (hok : checkOk f = true) (hseq : s.sequences = true) :
    ∃ v, s.begin.metAs v ∧ exec (.discoverWalk (s.via p cb) f) s = .next { (v.walkIn p f).flush with pending := s.pending } := by
  obtain ⟨v, hmet, hlocal⟩ := onLocal_meets (s := s.begin) (cb := cb) (State.walkAct (s.via p cb) f) hport hcls hlisted (frameWaits_of_sequences hseq)
  refine ⟨v, hmet, runL_next_eq (f := fun s' => s'.onLocal (s.via p cb) f (State.walkAct (s.via p cb) f)) (hlocal.trans ?_)⟩
  unfold State.walkAct
  rw [ifChecked_of_ok hok]
  rfl

theorem discoverWalk_numbers (hport : s.onPort p = true) (hcls : f.cls = 1) (hlisted : frameListed f = true) (hok : checkOk f = true)
    (hseq : s.sequences = true) (hvalid : s.tree.valid = false) :
    ∃ t, exec (.discoverWalk (s.via p cb) f) s = .next t ∧ t.tree.pos = discA f % 2 ^ 18 ∧ t.tree.valid = true
      ∧ t.tree.depth = discB f % 2 ^ 18 ∧ t.tree.numUp = p ∧ t.tree.curUp = p ∧ t.tree.numberedBy = discWalk f ∧ t.tree.parent = f.src := by
  obtain ⟨v, hmet, hexec⟩ := discoverWalk_exec hport hcls hlisted hok hseq
  have hv : v.tree.valid = false := by rw [hmet.tree]; exact hvalid
  obtain ⟨w, pp, before, id, next, up, t0, hwalk⟩ := walkIn_numbers (p := p) (f := f) hv
  obtain ⟨u, hnum, hcur, hbegin⟩ := walkBegin_place ((State.numberedAs w p f pp).recut before) id next up t0 none
  have hrecut : (State.numberedAs w p f pp).keepsPlace true ((State.numberedAs w p f pp).recut before) := place_recut _ _
  have hflush : u.keepsPlace true (v.walkIn p f).flush := by
    rw [hwalk]
    exact place_step (place_flush _) (hbegin true)
  have htree : u.tree.numbering = (State.numberedAs w p f pp).tree.numbering := hnum.trans hrecut.numbering
  have hup : u.tree.curUp = p := by
    rcases hrecut.upstream rfl with h | h
    · exact hcur.trans h
    · exact (hcur.trans h).trans (numUp_of_place hrecut)
  generalize (v.walkIn p f).flush = w at hflush hexec
  obtain ⟨hpos, hval, hdepth, hnumUp, hby, -, hparent⟩ := numbered_parts hflush
  simp only [TreeSt.numbering, Prod.mk.injEq] at htree
  obtain ⟨upos, uval, udepth, uup, uby, -, uparent, -⟩ := htree
  refine ⟨_, hexec, hpos.trans upos, hval.trans uval, hdepth.trans udepth, hnumUp.trans uup, ?_, hby.trans uby, hparent.trans uparent⟩
  rcases hflush.upstream rfl with h | h
  · exact h.trans hup
  · exact h.trans (hnumUp.trans uup)

/-- A CONTROL frame that this device queues on a port that may send goes out at once, where nothing else waits. -/
theorem enqueue_sends {x : QFrame} (hlength : v.ports.length = s.ports.length) (heach : ∀ q, (s.port q).tookAs (v.port q)) (hquiet : s.quiet = true)
    (hport : s.onPort p = true) (hfn : (s.port p).fn = .running) (hroom : (s.port p).spaceN.unacked.length < 30) (hcredit : 16 ≤ (s.port p).credits.c)
    (hcls : x.frame.cls = 1) (htyp : x.frame.typ ≠ 9) (hlen : x.frame.payload.length ≤ 256) : (v.enqueue p x).flush.hasSent p x.frame := by
  obtain ⟨-, hp4, hlen4, hup⟩ := onPort_parts hport
  have hp : p < v.ports.length := by omega
  obtain ⟨qs, qc, qd, qb, -⟩ := quiet_port hquiet p
  have hlink : (v.port p).link = .up := by rw [(heach p).same]; exact hup
  have hrun : (v.port p).fn = .running := by rw [(heach p).same]; exact hfn
  have htx : (v.port p).txq = (s.port p).txq := by rw [(heach p).same]
  have hcred : (v.port p).credits = (s.port p).credits := by rw [(heach p).same]
  have hqueued : (v.enqueue p x).port p = { v.port p with txq := { (v.port p).txq with control := [x] } } := by
    refine (updPort_port_self v p _ hp).trans ?_
    dsimp only
    rw [if_neg (by rw [hlink]; simp), hcls, htx, qc]
    rfl
  refine flush_hasSent ?_ hp4 (by rw [State.enqueue, updPort_ports, updAt_length]; exact hp) htyp (by rw [hcls]; decide)
    (by unfold lineBytes; omega) fun q hq => ?_
  · rw [hqueued]
    refine ⟨by rw [htx, qs], rfl, by rw [htx, qd], by rw [htx, qb], ?_⟩
    have hroomv : (v.port p).spaceN.unacked.length < 32 := by rw [(heach p).unacked]; omega
    have hunits : unitsOf x.frame ≤ (v.port p).credits.c := by
      rw [hcred]
      unfold unitsOf ceilDiv
      omega
    simp [PortSt.canSend, PortSt.sends, PortSt.space, Four.get, hcls, hrun, hlink, hroomv, hunits]
  · obtain ⟨ws, wc, wd, wb, -⟩ := quiet_port hquiet q
    rw [State.enqueue, updPort_port_ne v p q _ (Ne.symm hq), (heach q).same]
    simp [PortSt.idle, ws, wc, wd, wb]

theorem discover_length (s : State) (cls sub walk a b : Nat) (extra : List Byte) (dest : Nat) :
    (discover s cls sub walk a b extra dest).payload.length = 16 + extra.length := by
  simp [discover, protect, le]
  omega

/-- The DUP that a numbered device answers a WALK with. -/
def dupOf (s : State) (f : Frame) : Frame := discover s 1 3 (discWalk f) s.tree.pos 0 (le 8 s.ident.uid) f.src

theorem dupOf_met (h : s.metAs v) (f : Frame) : dupOf v f = dupOf s f := by
  have hpos : v.tree.pos = s.tree.pos := (numbered_parts (place_of_met (b := true) h)).1
  unfold dupOf discover
  rw [h.only .ident (by decide), hpos]

theorem dupOf_begin (s : State) (f : Frame) : dupOf s.begin f = dupOf s f := by
  unfold dupOf discover
  rfl

theorem walkIn_dup (hvalid : s.tree.valid = true) (hby : s.tree.numberedBy = discWalk f) :
    s.walkIn p f = s.enqueue p { frame := dupOf s f, src := none } := by
  unfold State.walkIn
  dsimp only
  rw [if_pos (by simp [hvalid, hby])]
  rfl

theorem discoverWalk_answersDup (hport : s.onPort p = true) (hquiet : s.quiet = true) (hcls : f.cls = 1) (hlisted : frameListed f = true)
    (hok : checkOk f = true) (hseq : s.sequences = true) (hvalid : s.tree.valid = true) (hby : s.tree.numberedBy = discWalk f)
    (hroom : (s.port p).spaceN.unacked.length < 30) (hcredit : 16 ≤ (s.port p).credits.c) (hfn : (s.port p).fn = .running) :
    ∃ t, exec (.discoverWalk (s.via p cb) f) s = .next t ∧ t.tree.pos = s.tree.pos ∧ t.hasSent p (dupOf s f)
      ∧ s.onlyChanges [.reply, .out, .ports, .host, .glean, .expo, .tree] t := by
  obtain ⟨v, hmet, hexec⟩ := discoverWalk_exec (cb := cb) hport hcls hlisted hok hseq
  obtain ⟨hpos, hval, -, -, hnum, -⟩ := numbered_parts (place_of_met (b := true) hmet)
  rw [walkIn_dup (hval.trans hvalid) (hnum.trans hby), dupOf_met hmet, dupOf_begin] at hexec
  have hsent (x : QFrame) (hx : x.frame = dupOf s f) : (v.enqueue p x).flush.hasSent p x.frame :=
    enqueue_sends hmet.length hmet.each hquiet hport hfn hroom hcredit (by rw [hx]; rfl) (by rw [hx]; exact (by decide : 10 ≠ 9))
      (by rw [hx, dupOf, discover_length, le_length]; decide)
  replace hsent : (v.enqueue p { frame := dupOf s f, src := none }).flush.hasSent p (dupOf s f) := hsent { frame := dupOf s f, src := none } rfl
  have honly := enqueue_only v p { frame := dupOf s f, src := none }
  generalize v.enqueue p { frame := dupOf s f, src := none } = w at hexec hsent honly
  have hflush : w.flush.tree.pos = s.tree.pos := by
    rw [flush_only w .tree (by decide), honly .tree (by decide)]
    exact hpos
  have hchanged : s.onlyChanges [.reply, .out, .ports, .host, .glean, .expo, .tree] { w.flush with pending := s.pending } :=
    nextL_only (only_step honly (only_one hmet.only))
  generalize w.flush = t at hexec hflush hsent hchanged
  exact ⟨_, hexec, hflush, hsent, hchanged⟩

/-! ### The walk's own events -/

/-- The ROOT with the place that a walk of its own gives it. -/
def State.rootNumbered (s : State) : State :=
  { s.clearNumbering with tree := { s.clearNumbering.tree with
    walkId := s.tree.walkId % 65535 + 1, numberedBy := s.tree.walkId % 65535 + 1, pos := 0, depth := 0, valid := true, topo := [], attachWait := [] } }

theorem walkRoot_place (s : State) (tid : Option Nat) :
    ∃ u : State, u.tree.numbering = s.rootNumbered.tree.numbering ∧ u.keepsPlace true (s.walkRoot tid) := by
  obtain ⟨u, hnum, -, hbegin⟩ := walkBegin_place s.rootNumbered (s.tree.walkId % 65535 + 1) 1 none s.clk.tt tid
  exact ⟨u, hnum, hbegin true⟩

theorem walkStart_numbers (hdue : s.walkDue = true) : ∃ t, exec .walkStart s = .next t ∧ t.tree.walkId = s.tree.walkId % 65535 + 1
    ∧ t.tree.numberedBy = t.tree.walkId ∧ t.tree.pos = 0 ∧ t.tree.valid = true ∧ t.tree.depth = 0 := by
  have hruns : s.coreRuns = true := by
    simp only [State.walkDue, Bool.and_eq_true] at hdue
    obtain ⟨⟨⟨⟨⟨-, -⟩, hreach⟩, -⟩, -⟩, -⟩ := hdue
    exact (reachable_parts hreach).2
  obtain ⟨v, hid, hexec⟩ : ∃ v : State, v.tree.walkId = s.tree.walkId
      ∧ exec .walkStart s = .next { (v.walkRoot none).flush with pending := s.pending } :=
    ⟨{ s.begin with tree := { s.tree with walked := true } }, rfl, (runCoreL_of_runs hruns).trans (runL_when_next hdue)⟩
  obtain ⟨u, hnum, hroot⟩ := walkRoot_place v none
  have hplace := place_step (place_flush _) hroot
  generalize (v.walkRoot none).flush = w at hexec hplace
  have hn := hplace.numbering.trans hnum
  simp only [TreeSt.numbering, State.rootNumbered, Prod.mk.injEq, hid] at hn
  obtain ⟨hpos, hval, hdepth, -, hby, hwid, -⟩ := hn
  exact ⟨_, hexec, hwid, hby.trans hwid.symm, hpos, hval, hdepth⟩

theorem walkPortSilence_fails (hport : s.onPort p = true) (hactive : s.tree.walk.active = true) (htraining : s.tree.walk.training = false)
    (hsilent : s.tree.walk.tResp * ttMs ≤ s.clk.wall - s.tree.walk.since) (hp : s.tree.walk.port = p) :
    ∃ t, exec .walkPortSilence s = .next t ∧ (t.port p).failed = true ∧ t.tree.walk.anyFail = true := by
  obtain ⟨hruns, hp4, hlen, -⟩ := onPort_parts hport
  obtain ⟨u, hfail, hany, hsilence⟩ : ∃ u : State, (u.port p).failed = true ∧ u.tree.walk.anyFail = true ∧ u.keepsPlace false s.begin.walkSilence := by
    refine ⟨(s.begin.updPort p fun q => { q with failed := true }).updWalk fun w => { w with anyFail := true }, ?_, rfl, ?_⟩
    · exact congrArg PortSt.failed (updPort_port_self s.begin p (fun q => { q with failed := true }) (by show p < s.ports.length; omega))
    · unfold State.walkSilence
      have hage : decide (s.begin.since s.begin.tree.walk.since < s.begin.tree.walk.tResp * ttMs) = false := decide_eq_false (Nat.not_lt.mpr hsilent)
      have hon : s.begin.tree.walk.active = true := hactive
      have hidle : s.begin.tree.walk.training = false := htraining
      rw [if_neg (by rw [hage, hon, hidle]; decide)]
      subst hp
      exact place_step (place_walkNext _) (place_sendLost _ _ _ _)
  have hexec : exec .walkPortSilence s = .next { s.begin.walkSilence.flush with pending := s.pending } := runCoreL_of_runs hruns
  have hplace := place_step (place_flush _) hsilence
  generalize s.begin.walkSilence.flush = w at hexec hplace
  exact ⟨_, hexec, (failed_of_place hplace p).trans hfail, hplace.anyFail hany⟩

/-- The device when its walk has ended, before it reports. -/
def State.walkOver (s : State) : State :=
  { s with tree := { s.tree with hi := s.tree.walk.next - 1, walk := { s.tree.walk with active := false } } }

/-- The walk has passed the last port. -/
def State.pastD (s : State) : State := s.updWalk fun w => { w with port := 4, training := false }

/-- The RETURN that ends a walk below the ROOT. -/
def returnOf (s : State) (w : WalkSt) : QFrame := { frame := discover s 1 2 w.id w.next 0 [] s.tree.parent, src := none }

/-- The walk of a device below the ROOT ends with its report and the RETURN to its parent. -/
theorem walkEnd_below (hup : s.tree.walk.upPort = some p) (hlate : ∀ q, (s.port q).late = false) :
    ∃ x, s.walkEnd = (s.walkOver.sendReport s.tree.walk.id).enqueue p x := by
  refine ⟨returnOf s.walkOver s.tree.walk, ?_⟩
  unfold State.walkEnd
  extract_lets full s1 w tree s2 host sr st ws tree2 s3
  have hs1 : s1 = s := if_neg (by simp [full, hup])
  clear_value s1
  subst hs1
  have hs3 : s3 = (s2.sendReport w.id).enqueue p (returnOf s2 w) := by
    unfold s3
    rw [show w.upPort = some p from hup]
    rfl
  have hstill (q : Nat) : (s3.port q).late = false := by
    have hbare : s2.sameBare s3 := by
      rw [hs3]
      exact sameBare_trans (sendTo_bare _ _) (enqueue_bare _ _ _)
    have hget (u : State) : (u.port q).late = (u.ports.map PortSt.late).getD q false := by
      simp only [State.port, List.getD_eq_getElem?_getD, List.getElem?_map]
      cases u.ports[q]? <;> rfl
    rw [hget, map_of_bare hbare fun _ => rfl, ← hget]
    exact hlate q
  have hnone : [0, 1, 2, 3].foldl (fun s q => if (s.port q).late then (s.updPort q (fun q => { q with late := false })).offerPort q else s) s3 = s3 := by
    simp [hstill]
  exact hnone.trans hs3

/-- The walk passes a port that it waited for and that did not come up. -/
theorem walkFrom_skips (hport : s.tree.walk.port = 3) (hdown : (s.port 3).link = .down) (n : Nat) :
    State.walkFrom (n + 2) true s = s.pastD.walkEnd := by
  rw [State.walkFrom]
  dsimp only
  rw [hport, hdown]
  simp only [State.walkFrom, State.updWalk, State.pastD]
  simp

/-- How the walk ends at a port D that is DOWN. -/
theorem walkFrom_ends (hup : s.tree.walk.upPort = some p) (hlate : ∀ q, (s.port q).late = false) (h3 : s.tree.walk.port = 3)
    (hdown : (s.port 3).link = .down) : (State.walkFrom 5 true s).tree = s.pastD.walkOver.tree
      ∧ s.onlyChanges [.ports, .tree] (State.walkFrom 5 true s) := by
  obtain ⟨x, hend⟩ := walkEnd_below (s := s.pastD) (p := p) hup hlate
  rw [walkFrom_skips h3 hdown 3, hend]
  have hover : s.onlyChanges [.tree] s.pastD.walkOver := only_trans (only_tree s _) (only_tree _ _)
  generalize s.pastD.walkOver = o at hover
  have hreport : o.onlyChanges [.ports] (o.sendReport s.pastD.tree.walk.id) := sendTo_only o _
  generalize o.sendReport _ = r at hreport
  have hlast := enqueue_only r p x
  exact ⟨(hlast .tree (by decide)).trans (hreport .tree (by decide)), only_step hlast (only_step hreport (only_one hover))⟩

theorem trainingWaitOver_of_down (hactive : s.tree.walk.active = true) (htraining : s.tree.walk.training = true)
    (hdown : (s.port s.tree.walk.port).link = .down) : s.trainingWaitOver = true := by
  simp [State.trainingWaitOver, hactive, htraining, hdown]

theorem walkTrainingWaitEnd_ends (hport : s.onPort p = true) (hactive : s.tree.walk.active = true) (htraining : s.tree.walk.training = true)
    (h3 : s.tree.walk.port = 3) (hdown : (s.port 3).link = .down) (hlate : s.ports.all (fun q => !q.late) = true) (hup : s.tree.walk.upPort = some p) :
    ∃ t, exec .walkTrainingWaitEnd s = .next t ∧ t.tree.walk.active = false ∧ t.tree.hi = s.tree.walk.next - 1
      ∧ s.onlyChanges [.reply, .out, .ports, .host, .glean, .expo, .tree] t := by
  obtain ⟨hruns, -, -, -⟩ := onPort_parts hport
  have hlate' (q : Nat) : (s.port q).late = false := by
    simp only [State.port, List.getD_eq_getElem?_getD]
    cases hq : s.ports[q]? with
    | none => rfl
    | some r => simpa using List.all_eq_true.mp hlate r (List.mem_of_getElem? hq)
  obtain ⟨htree, honly⟩ := walkFrom_ends (s := s.begin) (p := p) hup hlate' h3 hdown
  have hexec : exec .walkTrainingWaitEnd s = .next { (State.walkFrom 5 true s.begin).flush with pending := s.pending } :=
    (runCoreL_of_runs hruns).trans (runL_when_next (trainingWaitOver_of_down hactive htraining (h3 ▸ hdown)))
  generalize State.walkFrom 5 true s.begin = w at hexec honly htree
  have hchanged : s.onlyChanges [.reply, .out, .ports, .host, .glean, .expo, .tree] { w.flush with pending := s.pending } := nextL_only (only_one honly)
  have hflush := (flush_only w .tree (by decide)).trans htree
  generalize w.flush = t at hexec hflush hchanged
  refine ⟨_, hexec, ?_, ?_, hchanged⟩
  · exact congrArg (fun r => r.walk.active) hflush
  · exact congrArg TreeSt.hi hflush

/-- The PENDING frame of a device that waits in a walk. -/
def pendingUp (s : State) : Frame :=
  { typ := 6, cls := 1, hasScope := false, dest := s.tree.parent, src := s.tree.pos, depth := 0, tag := 0, payload := [] }

/-- The device when it has noted that it reports. -/
def State.pended (s : State) : State := s.updWalk fun w => { w with lastPend := s.wall }

theorem walkPending_reports (hactive : s.tree.walk.active = true) (hup : s.tree.walk.upPort = some p)
    (hdue : s.tree.walk.tResp * ttMs / 4 ≤ s.clk.wall - s.tree.walk.lastPend) :
    s.walkPending = s.pended.enqueue p { frame := pendingUp s, src := none } := by
  have hsince : decide (s.tree.walk.tResp * ttMs / 4 ≤ s.since s.tree.walk.lastPend) = true := decide_eq_true hdue
  unfold State.walkPending
  dsimp only
  rw [hup]
  dsimp only
  rw [hactive, hsince]
  rfl

theorem walkPendingTimer_reports (hport : s.onPort p = true) (hquiet : s.quiet = true) (hactive : s.tree.walk.active = true)
    (hup : s.tree.walk.upPort = some p) (hdue : s.tree.walk.tResp * ttMs / 4 ≤ s.clk.wall - s.tree.walk.lastPend) :
    ∃ t, exec .walkPendingTimer s = .next t ∧ t.tree = { s.tree with walk := { s.tree.walk with lastPend := s.clk.wall } }
      ∧ ((s.port p).spaceN.unacked.length < 30 → 16 ≤ (s.port p).credits.c → (s.port p).fn = .running → t.hasSent p (pendingUp s))
      ∧ s.onlyChanges [.reply, .out, .ports, .host, .glean, .expo, .tree] t := by
  have hexec : exec .walkPendingTimer s = .next { s.begin.walkPending.flush with pending := s.pending } := runCoreL_of_runs (onPort_parts hport).1
  rw [walkPending_reports (s := s.begin) hactive hup hdue] at hexec
  have hsent (x : QFrame) (hx : x.frame = pendingUp s.begin) (hroom : (s.port p).spaceN.unacked.length < 30) (hcredit : 16 ≤ (s.port p).credits.c)
      (hfn : (s.port p).fn = .running) : (s.begin.pended.enqueue p x).flush.hasSent p x.frame :=
    enqueue_sends (s := s) rfl (fun _ => ⟨rfl, rfl⟩) hquiet hport hfn hroom hcredit (by rw [hx]; rfl) (by rw [hx]; exact (by decide : 6 ≠ 9))
      (by rw [hx]; exact Nat.zero_le _)
  replace hsent := hsent { frame := pendingUp s.begin, src := none } rfl
  have honly := enqueue_only s.begin.pended p { frame := pendingUp s.begin, src := none }
  have hpended : s.begin.onlyChanges [.tree] s.begin.pended := only_tree _ _
  generalize s.begin.pended.enqueue p { frame := pendingUp s.begin, src := none } = w at hexec hsent honly
  have hchanged : s.onlyChanges [.reply, .out, .ports, .host, .glean, .expo, .tree] { w.flush with pending := s.pending } :=
    nextL_only (only_step honly (only_one hpended))
  have htree := (flush_only w .tree (by decide)).trans (honly .tree (by decide))
  generalize w.flush = t at hexec htree hsent hchanged
  exact ⟨_, hexec, htree, hsent, hchanged⟩

/-- Settles O51: a device numbered by a WALK keeps its new place while its own walk goes on through its ports. -/
theorem walkGoesDown : Obligations.WalkGoesDown := by
  intro s p cb f hport hquiet hcls hlisted
  refine ⟨fun _ hok hseq hvalid => discoverWalk_numbers hport hcls hlisted hok hseq hvalid, fun _ hok hseq hvalid hby hroom hcredit hfn =>
      discoverWalk_answersDup hport hquiet hcls hlisted hok hseq hvalid hby hroom hcredit hfn, walkStart_numbers,
    fun hactive htraining hsilent hp => walkPortSilence_fails hport hactive htraining hsilent hp, fun hactive htraining h3 hdown hlate hup =>
      walkTrainingWaitEnd_ends hport hactive htraining h3 hdown hlate hup, fun hactive hup hdue => walkPendingTimer_reports hport hquiet hactive hup hdue⟩

end Sys2Proof.Machine
end

section
/-!
Losses, routes and takeover (08 R222–R235, R326).
-/
namespace Sys2Proof.Machine

-- one proof at a time: these proofs share the equations of the operations they unfold
set_option Elab.async false

variable {s t u v : State} {p w : Nat} {f : Frame} {cb : Bool} {i : Instr} {typ value : Nat}

/-! ### Events -/

theorem message_outGrows (s : State) (n : Nat) : s.outGrows (s.message n) := by
  unfold State.message
  split
  · exact outGrows_refl s
  split
  · exact ⟨[.pewake, .hostwake], by simp [State.emit]⟩
  · exact ⟨[.msix n], rfl⟩

theorem signal_outGrows (s : State) (c : Nat) : s.outGrows (s.signal c) := by
  unfold State.signal
  dsimp only
  split
  · exact message_outGrows _ _
  · exact outGrows_refl s

theorem writeEntry_atTail {e : Cpl} (h : e.frees = none) : s.entryAtTail e ∈ (s.writeEntry e).out := by
  unfold State.writeEntry
  dsimp only
  rw [h]
  refine outGrows_mem (signal_outGrows _ _) ?_
  exact List.mem_append_right s.out List.mem_cons_self

theorem ringReady_of_host (h : t.host = s.host) (c : Nat) : t.ringReady c = s.ringReady c := by
  unfold State.ringReady State.cqRoom State.cq
  rw [h]

theorem entryAtTail_of_host (h : t.host = s.host) (e : Cpl) : t.entryAtTail e = s.entryAtTail e := by
  unfold State.entryAtTail State.cq State.sq
  rw [h]

/-- The event of the ROOT, as it stands in the completion ring. -/
def State.eventEntry (s : State) (typ value : Nat) : OutEvt := s.entryAtTail (eventCpl s { typ := typ, value := value, cid := s.host.eventCid })

theorem eventEntry_of_host (h : t.host = s.host) (typ value : Nat) : t.eventEntry typ value = s.eventEntry typ value := by
  unfold State.eventEntry eventCpl
  rw [entryAtTail_of_host h, h]

/-- The ROOT with the number of its next event. -/
def State.nextEvent (s : State) : State := { s with host := { s.host with eventCid := (s.host.eventCid + 1) % 65536 } }

theorem event_writes (hhost : s.hasHost = true) (hen : s.host.eventEn = true) (hready : s.ringReady s.host.eventCq = true) (typ value : Nat) :
    s.eventEntry typ value ∈ (s.event typ value).out := by
  simp only [State.ringReady, Bool.and_eq_true, List.isEmpty_iff] at hready
  obtain ⟨⟨⟨⟨⟨-, hroom⟩, hwait⟩, -⟩, -⟩, hevents⟩ := hready
  have hgo : (s.nextEvent.host.events.isEmpty && s.nextEvent.cqRoom s.host.eventCq && !s.nextEvent.host.cplWait.any fun w => w.cq = s.host.eventCq) = true := by
    rw [show s.nextEvent.host.events = [] from hevents, show s.nextEvent.host.cplWait = [] from hwait, show s.nextEvent.cqRoom s.host.eventCq = true from hroom]
    rfl
  have hevent : s.event typ value = s.nextEvent.writeEntry (eventCpl s { typ := typ, value := value, cid := s.host.eventCid }) := by
    unfold State.event
    rw [hhost, Bool.not_true, if_neg Bool.false_ne_true]
    dsimp only
    rw [if_neg (by rw [hen]; decide)]
    exact if_pos hgo
  rw [hevent]
  exact writeEntry_atTail (s := s.nextEvent) (e := eventCpl s { typ := typ, value := value, cid := s.host.eventCid }) rfl

theorem flush_outGrows (s : State) : s.outGrows s.flush := outGrows_trans (foldl_outGrows pump_outGrows _ s) (flush_outGrows_of_pumps s)

/-- A frame that raises an event of the ROOT, whatever else it does: the entry is written. -/
theorem event_sent (hexec : exec i s = .next { t.flush with pending := s.pending }) (hentry : s.eventEntry typ value ∈ t.out)
    (honly : s.begin.onlyChanges [.reply, .out, .ports, .glean, .expo, .tree, .host] t) :
    ∃ t, exec i s = .next t ∧ s.eventEntry typ value ∈ t.out ∧ s.onlyChanges [.reply, .out, .ports, .glean, .expo, .tree, .host] t := by
  have hchanged := nextL_only honly
  have hout := outGrows_mem (flush_outGrows t) hentry
  generalize t.flush = r at hexec hchanged hout
  exact ⟨_, hexec, hout, hchanged⟩

theorem rootLost_sent (hhost : s.hasHost = true) (hen : s.host.eventEn = true) (hready : s.ringReady s.host.eventCq = true) (sender walk : Nat) :
    s.eventEntry 3 sender ∈ (s.rootLost sender none false walk).out ∧ s.onlyChanges [.host, .out, .tree] (s.rootLost sender none false walk) := by
  have hsent := event_writes hhost hen hready 3 sender
  have honly : s.onlyChanges [.host, .out, .tree] (s.event 3 sender) := only_one (event_only s 3 sender)
  unfold State.rootLost
  rw [if_neg Bool.false_ne_true]
  rw [show sender + put ((none : Option Nat).getD 0) 32 18 = sender by simp [put]]
  dsimp only
  split
  · exact ⟨hsent, only_step (only_tree _ _) honly⟩
  · exact ⟨hsent, honly⟩

theorem discoverLost_reports (hin : s.inSequence p f = true) (hcls : f.cls = 1) (hlisted : frameListed f = true) (hok : checkOk f = true)
    (hseq : s.sequences = true) (hroot : s.isRoot = true) (hhost : s.hasHost = true) (hen : s.host.eventEn = true)
    (hready : s.ringReady s.host.eventCq = true) (hnone : bit (discB f) 18 = false) (hlost : bit (discB f) 21 = false) :
    ∃ t, exec (.discoverLost (s.via p cb) f) s = .next t ∧ s.eventEntry 3 (discA f % 2 ^ 18) ∈ t.out
      ∧ s.onlyChanges [.reply, .out, .ports, .glean, .expo, .tree, .host] t := by
  obtain ⟨v, hmet, hframe⟩ := onFrame_meets (s := s.begin) (cb := cb) (State.lostAct (s.via p cb) f) hin hcls hlisted (frameWaits_of_sequences hseq)
  have hsame : v.host = s.host := hmet.only .host (by decide)
  have hact : State.lostAct (s.via p cb) f v = v.rootLost (discA f % 2 ^ 18) none false (discWalk f) := by
    unfold State.lostAct
    rw [ifChecked_of_ok hok, when_, isRoot_of_met hmet, show s.begin.isRoot = true from hroot, if_pos rfl, hnone, hlost, if_neg Bool.false_ne_true]
  have hv : v.hasHost = true := by rw [State.hasHost, hmet.only .ident (by decide)]; exact hhost
  obtain ⟨hentry, honly⟩ := rootLost_sent hv (by rw [hsame]; exact hen) (by rw [ringReady_of_host hsame, hsame]; exact hready) (discA f % 2 ^ 18) (discWalk f)
  rw [eventEntry_of_host hsame] at hentry
  exact event_sent (runL_next_eq (f := fun s' => s'.onFrame (s.via p cb) f (State.lostAct (s.via p cb) f)) (hframe.trans hact)) hentry
    (only_step honly (only_one hmet.only))

/-- What a FAULT frame does where it arrives. -/
def faultAct (a : Arrival) (f : Frame) (s : State) : State :=
  s.ifChecked a f (when_ s.isRoot fun s => s.event 2 (f.src + put (at_ f.payload 1 1) 32 5))

theorem faultFrameReceive_reports (hin : s.inSequence p f = true) (hcls : f.cls = 1) (hlisted : frameListed f = true) (hok : checkOk f = true)
    (htyp : f.typ = 11) (hroot : s.isRoot = true) (hhost : s.hasHost = true) (hen : s.host.eventEn = true) (hready : s.ringReady s.host.eventCq = true) :
    ∃ t, exec (.faultFrameReceive (s.via p cb) f) s = .next t ∧ s.eventEntry 2 (f.src + put (at_ f.payload 1 1) 32 5) ∈ t.out
      ∧ s.onlyChanges [.reply, .out, .ports, .glean, .expo, .tree, .host] t := by
  have hgo : s.begin.frameWaits f = false := by
    unfold State.frameWaits sequenced
    rw [htyp]
    rfl
  obtain ⟨v, hmet, hframe⟩ := onFrame_meets (s := s.begin) (cb := cb) (faultAct (s.via p cb) f) hin hcls hlisted hgo
  have hsame : v.host = s.host := hmet.only .host (by decide)
  have hact : faultAct (s.via p cb) f v = v.event 2 (f.src + put (at_ f.payload 1 1) 32 5) := by
    unfold faultAct
    rw [ifChecked_of_ok hok, when_, isRoot_of_met hmet, show s.begin.isRoot = true from hroot, if_pos rfl]
  have hv : v.hasHost = true := by rw [State.hasHost, hmet.only .ident (by decide)]; exact hhost
  have hentry := event_writes hv (by rw [hsame]; exact hen) (by rw [ringReady_of_host hsame, hsame]; exact hready) 2 (f.src + put (at_ f.payload 1 1) 32 5)
  rw [eventEntry_of_host hsame] at hentry
  exact event_sent (runL_next_eq (f := fun s' => s'.onFrame (s.via p cb) f (faultAct (s.via p cb) f)) (hframe.trans hact)) hentry
    (only_step (event_only v _ _) (only_one hmet.only))

/-! ### Routes -/

/-- The tree's state, the area of held records apart. -/
def TreeSt.heldApart (r : TreeSt) : TreeSt := { r with heldArea := [], unsol := 0 }

theorem deliverHeld_tree (s : State) : s.deliverHeld.tree.heldApart = s.tree.heldApart := by
  unfold State.deliverHeld
  split
  · rfl
  · dsimp only
    have hstep (l : List Rec) (u : State) : (l.foldl (fun s r => s.unsolTag.2.raiseForward s.unsolTag.1 0 (.record r)) u).tree.heldApart = u.tree.heldApart := by
      induction l generalizing u with
      | nil => rfl
      | cons r l ih =>
        refine (ih _).trans ?_
        rw [raiseForward_only _ _ _ _ .tree (by decide)]
        rfl
    exact hstep _ _

theorem sendCut_ports (s : State) (on top : Nat) : s.onlyChanges [.ports] (s.sendCut on top) := only_foldl fun u _ => enqueue_only u _ _

theorem recut_tree (s before : State) : (s.recut before).tree.heldApart = s.tree.heldApart := by
  have hcut : s.trackCut.tree = s.tree := trackCut_only s .tree (by decide)
  unfold State.recut
  dsimp only
  split
  · rw [deliverHeld_tree, sendCut_ports s.trackCut 0 _ .tree (by decide), hcut]
  · rw [hcut]

/-- The exception routes after one of them was set. -/
def State.routesAfter (s : State) (lo hi port : Nat) (install : Bool) : List Route :=
  let rest := s.tree.routes.filter (fun r => !(r.lo = lo && r.hi = hi))
  if !install then rest else if 256 ≤ rest.length then s.tree.routes else rest ++ [{ lo := lo, hi := hi, port := port }]

theorem setRoute_tree (s : State) (lo hi port : Nat) (install : Bool) :
    (s.setRoute lo hi port install false).tree.heldApart = { s.tree with routes := s.routesAfter lo hi port install }.heldApart := by
  unfold State.setRoute
  extract_lets before tree rest s2 q s3 s4
  rw [recut_tree]
  unfold s4 State.routesAfter
  rw [if_neg Bool.false_ne_true]
  dsimp only
  split
  · rfl
  · split
    · rfl
    · have hs3 : s2.onlyChanges [.ports] s3 := only_ite (updPort_only s2 port _) (only_refl _ s2)
      refine congrArg TreeSt.heldApart (only_step (ps := [.ports]) (qs := [.ports]) (only_foldl fun u p => ?_) hs3 (by decide) .tree (by decide))
      exact only_ite (only_refl _ u) (only_step (only_foldl fun w x => enqueue_only w port x) (updPort_only u p _))

theorem routeAt_attaches (s : State) (x lo hi port : Nat) : (s.routeAt x lo hi port true false).tree.attaches = s.tree.attaches := by
  unfold State.routeAt
  split
  · have hset := congrArg TreeSt.attaches (setRoute_tree s lo hi port true)
    exact hset
  · rw [sendTo_only _ _ .tree (by decide)]

theorem discoverRoute_sets (hin : s.inSequence p f = true) (hcls : f.cls = 1) (hlisted : frameListed f = true) (hok : checkOk f = true)
    (hseq : s.sequences = true) (hrev : bit (at_ f.payload 12 4) 3 = false) :
    ∃ t, exec (.discoverRoute (s.via p cb) f) s = .next t
      ∧ t.tree.routes = s.routesAfter (discA f % 2 ^ 18) (discB f % 2 ^ 18) (fld (at_ f.payload 12 4) 1 0) (bit (at_ f.payload 12 4) 2) := by
  obtain ⟨v, hmet, hframe⟩ := onFrame_meets (s := s.begin) (cb := cb) (State.routeAct (s.via p cb) f) hin hcls hlisted (frameWaits_of_sequences hseq)
  have hexec := runL_next_eq (f := fun s' => s'.onFrame (s.via p cb) f (State.routeAct (s.via p cb) f)) hframe
  have hact : State.routeAct (s.via p cb) f v
      = v.setRoute (discA f % 2 ^ 18) (discB f % 2 ^ 18) (fld (at_ f.payload 12 4) 1 0) (bit (at_ f.payload 12 4) 2) false := by
    unfold State.routeAct
    rw [ifChecked_of_ok hok]
    dsimp only
    rw [hrev]
  change exec (.discoverRoute (s.via p cb) f) s = _ at hexec
  rw [hact] at hexec
  have hroutes := congrArg TreeSt.routes (setRoute_tree v (discA f % 2 ^ 18) (discB f % 2 ^ 18) (fld (at_ f.payload 12 4) 1 0) (bit (at_ f.payload 12 4) 2))
  have hafter (lo hi port : Nat) (install : Bool) : v.routesAfter lo hi port install = s.routesAfter lo hi port install := by
    unfold State.routesAfter
    rw [hmet.tree]
    rfl
  generalize v.setRoute _ _ _ _ _ = w at hexec hroutes
  have hflush : w.flush.tree.routes = w.tree.routes := by rw [flush_only w .tree (by decide)]
  generalize w.flush = t at hexec hflush
  exact ⟨_, hexec, (hflush.trans hroutes).trans (hafter _ _ _ _)⟩

/-! ### Attachments -/

/-- What a device that a frame reached has of its topology. -/
theorem nextPos_of_met (h : s.metAs v) : v.nextPos = s.nextPos := by
  unfold State.nextPos State.topoAll State.ownTopo
  simp only [List.map_cons]
  rw [h.tree]

/-- The parts of the tree's state that the ways through the tree are drawn from. -/
def TreeSt.ways (r : TreeSt) : Nat × Option Nat × List TopoEntry × List Reroute × List AttachSt :=
  (r.pos, r.alias_, r.topo, r.reroutes, r.attaches)

section
variable (h : v.tree.ways = s.tree.ways)
include h

theorem ways_parts : v.tree.pos = s.tree.pos ∧ v.tree.alias_ = s.tree.alias_ ∧ v.tree.topo = s.tree.topo ∧ v.tree.reroutes = s.tree.reroutes
    ∧ v.tree.attaches = s.tree.attaches := by
  simpa only [TreeSt.ways, Prod.mk.injEq] using h

theorem homePos_of_ways : v.homePos = s.homePos := by
  obtain ⟨hpos, halias, -⟩ := ways_parts h
  rw [State.homePos, halias, hpos]
  rfl

theorem pathUp_of_ways (n q : Nat) : v.pathUp n q = s.pathUp n q := by
  obtain ⟨-, -, htopo, -⟩ := ways_parts h
  induction n generalizing q with
  | zero => rfl
  | succ n ih =>
    unfold State.pathUp
    rw [htopo]
    split
    · rfl
    · split
      · rw [ih]
      · rfl

theorem treePath_of_ways (a b : Nat) : v.treePath a b = s.treePath a b := by
  obtain ⟨-, -, htopo, -⟩ := ways_parts h
  unfold State.treePath
  rw [htopo, homePos_of_ways h, pathUp_of_ways h, pathUp_of_ways h]

theorem pathTo_of_ways (q : Nat) : v.pathTo q = s.pathTo q := by
  obtain ⟨-, -, -, hreroutes, -⟩ := ways_parts h
  have hover (n q : Nat) : v.pathOver n q = s.pathOver n q := by
    induction n generalizing q with
    | zero =>
      unfold State.pathOver
      rw [homePos_of_ways h, treePath_of_ways h]
    | succ n ih =>
      unfold State.pathOver
      rw [hreroutes, homePos_of_ways h]
      split
      · dsimp only
        rw [ih, treePath_of_ways h]
      · rw [treePath_of_ways h]
  unfold State.pathTo
  rw [hreroutes, hover]

theorem topoParent_of_ways (q : Nat) : (v.topoOf q).map TopoEntry.parent = (s.topoOf q).map TopoEntry.parent := by
  obtain ⟨hpos, -, htopo, -⟩ := ways_parts h
  unfold State.topoOf State.topoAll
  rw [htopo, hpos, List.find?_cons, List.find?_cons]
  rw [show v.ownTopo.pos = s.ownTopo.pos from hpos]
  split <;> rfl

theorem routesAt_of_ways (q : Nat) : v.routesAt q = s.routesAt q := by
  obtain ⟨-, -, htopo, hreroutes, hattaches⟩ := ways_parts h
  unfold State.routesAt State.wayBack
  simp only [htopo, hreroutes, hattaches, pathTo_of_ways h, homePos_of_ways h, pathUp_of_ways h, topoParent_of_ways h]

end

theorem ways_of_met (h : s.metAs v) : v.tree.ways = s.tree.ways := by
  rw [h.tree]
  rfl

theorem discoverAttach_exec (hin : s.inSequence p f = true) (hcls : f.cls = 1) (hlisted : frameListed f = true) (hok : checkOk f = true)
    (hseq : s.sequences = true) (hroot : s.isRoot = true) : ∃ v, s.begin.metAs v ∧ exec (.discoverAttach (s.via p cb) f) s
      = .next { (v.takeAttach (discA f % 2 ^ 18) (discB f % 4) (at_ f.payload 12 8)).flush with pending := s.pending } := by
  obtain ⟨v, hmet, hframe⟩ := onFrame_meets (s := s.begin) (cb := cb) (State.attachAct (s.via p cb) f) hin hcls hlisted (frameWaits_of_sequences hseq)
  refine ⟨v, hmet, runL_next_eq (f := fun s' => s'.onFrame (s.via p cb) f (State.attachAct (s.via p cb) f)) (hframe.trans ?_)⟩
  unfold State.attachAct
  rw [ifChecked_of_ok hok, when_, isRoot_of_met hmet, show s.begin.isRoot = true from hroot, if_pos rfl]

theorem discoverAttach_waits (hin : s.inSequence p f = true) (hcls : f.cls = 1) (hlisted : frameListed f = true) (hok : checkOk f = true)
    (hseq : s.sequences = true) (hroot : s.isRoot = true) (hactive : s.tree.walk.active = true) :
    ∃ t, exec (.discoverAttach (s.via p cb) f) s = .next t
      ∧ t.tree.attachWait = s.tree.attachWait ++ [(discA f % 2 ^ 18, discB f % 4, at_ f.payload 12 8)] ∧ t.tree.attaches = s.tree.attaches := by
  obtain ⟨v, hmet, hexec⟩ := discoverAttach_exec (cb := cb) hin hcls hlisted hok hseq hroot
  have hv : v.tree.walk.active = true := by
    rw [hmet.tree]
    exact hactive
  have htree : (v.takeAttach (discA f % 2 ^ 18) (discB f % 4) (at_ f.payload 12 8)).flush.tree
      = { v.tree with attachWait := v.tree.attachWait ++ [(discA f % 2 ^ 18, discB f % 4, at_ f.payload 12 8)] } := by
    rw [flush_only _ .tree (by decide), State.takeAttach, if_pos hv]
  generalize (v.takeAttach _ _ _).flush = t at hexec htree
  refine ⟨_, hexec, ?_, ?_⟩
  · dsimp only
    rw [htree, hmet.tree]
    rfl
  · dsimp only
    rw [htree, hmet.tree]
    rfl

theorem foldl_routeAt_attaches (pos : Nat) (l : List (Nat × Nat)) (s : State) :
    (l.foldl (fun s h => s.routeAt h.1 pos pos h.2 true false) s).tree.attaches = s.tree.attaches := by
  induction l generalizing s with
  | nil => rfl
  | cons a l ih => exact (ih _).trans (routeAt_attaches s _ _ _ _)

theorem rootAttach_attaches (hpos : s.nextPos ≤ 262143) (parent port uid : Nat)
    (hroom : (s.pathTo parent).all (fun x => decide (s.routesAt x < 256)) = true) :
    (s.rootAttach parent port uid).tree.attaches = s.tree.attaches ++ [{ pos := s.nextPos, parent := parent, port := port }] := by
  have hno : ¬ (262143 < s.nextPos ∨ (s.pathTo parent).any (fun x => decide (256 ≤ s.routesAt x)) = true) := by
    simp only [List.all_eq_true, decide_eq_true_eq, List.any_eq_true, not_or, not_exists, not_and] at hroom ⊢
    exact ⟨by omega, fun x hx => by have := hroom x hx; omega⟩
  unfold State.rootAttach
  dsimp only
  rw [if_neg (by simpa using hno), event_only _ _ _ .tree (by decide), sendTo_only _ _ .tree (by decide)]
  dsimp only
  rw [foldl_routeAt_attaches]

theorem discoverAttach_attaches (hin : s.inSequence p f = true) (hcls : f.cls = 1) (hlisted : frameListed f = true) (hok : checkOk f = true)
    (hseq : s.sequences = true) (hroot : s.isRoot = true) (hactive : s.tree.walk.active = false) (hpos : s.nextPos ≤ 262143)
    (hroom : (s.pathTo (discA f % 2 ^ 18)).all (fun x => decide (s.routesAt x < 256)) = true) :
    ∃ t, exec (.discoverAttach (s.via p cb) f) s = .next t
      ∧ t.tree.attaches = s.tree.attaches ++ [{ pos := s.nextPos, parent := discA f % 2 ^ 18, port := discB f % 4 }] := by
  obtain ⟨v, hmet, hexec⟩ := discoverAttach_exec (cb := cb) hin hcls hlisted hok hseq hroot
  have hways : v.tree.ways = s.tree.ways := ways_of_met (s := s.begin) hmet
  have hv : v.tree.walk.active = false := by
    rw [hmet.tree]
    exact hactive
  have hnext : v.nextPos = s.nextPos := nextPos_of_met (s := s.begin) hmet
  have hattaches := rootAttach_attaches (s := v) (by rw [hnext]; exact hpos) (discA f % 2 ^ 18) (discB f % 4) (at_ f.payload 12 8)
    (by simpa only [pathTo_of_ways hways, routesAt_of_ways hways] using hroom)
  rw [State.takeAttach, if_neg (by rw [hv]; decide)] at hexec
  have hflush := flush_only (v.rootAttach (discA f % 2 ^ 18) (discB f % 4) (at_ f.payload 12 8)) .tree (by decide)
  rw [← congrArg TreeSt.attaches hflush, hnext] at hattaches
  generalize (v.rootAttach _ _ _).flush = t at hexec hattaches
  refine ⟨_, hexec, hattaches.trans ?_⟩
  obtain ⟨-, -, -, -, hsame⟩ := ways_parts hways
  rw [hsame]

/-! ### Losses below and above -/

/-- A place that keeps its numbering keeps its position and whether its parent is cut off. -/
theorem cut_parts {b : Bool} (h : s.keepsPlace b t) : t.tree.pos = s.tree.pos ∧ t.tree.cutBy = s.tree.cutBy := by
  have hn := h.numbering
  simp only [TreeSt.numbering, Prod.mk.injEq] at hn
  obtain ⟨hpos, -, -, -, -, -, -, -, -, hcut⟩ := hn
  exact ⟨hpos, hcut⟩

theorem cutIn_marks (s : State) (f : Frame) : ({ s with tree := { s.tree with cutBy := discB f % 2 = 1 } } : State).keepsPlace true (s.cutIn f) := by
  have hcut : ({ s with tree := { s.tree with cutBy := discB f % 2 = 1 } } : State).keepsPlace true
      (State.trackCut (State.sendCut { s with tree := { s.tree with cutBy := discB f % 2 = 1 } } (discB f % 2) (discA f % 2 ^ 18))) :=
    place_step (place_of_only (trackCut_only _)) (place_sendCut _ _ _)
  unfold State.cutIn
  dsimp only
  exact place_ite (place_step (place_deliverHeld _) hcut) hcut

theorem discoverCut_marks (hport : s.onPort p = true) (hcls : f.cls = 1) (hlisted : frameListed f = true) (hok : checkOk f = true)
    (hseq : s.sequences = true) (hvalid : s.tree.valid = true) (hroot : s.isRoot = false) (hup : s.tree.numUp = p) :
    ∃ t, exec (.discoverCut (s.via p cb) f) s = .next t ∧ t.tree.cutBy = decide (discB f % 2 = 1) ∧ t.tree.pos = s.tree.pos := by
  obtain ⟨v, hmet, hlocal⟩ := onLocal_meets (s := s.begin) (cb := cb) (State.cutAct (s.via p cb) f) hport hcls hlisted (frameWaits_of_sequences hseq)
  obtain ⟨hpos, hval, -, hnum, -⟩ := numbered_parts (place_of_met (b := true) hmet)
  have hact : State.cutAct (s.via p cb) f v = v.cutIn f := by
    unfold State.cutAct
    rw [ifChecked_of_ok hok, when_, isRoot_of_met hmet, show s.begin.isRoot = false from hroot, hval, show s.begin.tree.valid = true from hvalid, hnum,
      show s.begin.tree.numUp = p from hup]
    exact if_pos (by simp [arrPort, State.via])
  have hexec : exec (.discoverCut (s.via p cb) f) s = .next { (v.cutIn f).flush with pending := s.pending } :=
    runL_next_eq (f := fun s' => s'.onLocal (s.via p cb) f (State.cutAct (s.via p cb) f)) (hlocal.trans hact)
  obtain ⟨tpos, tcut⟩ := cut_parts (place_step (place_flush _) (cutIn_marks v f))
  generalize (v.cutIn f).flush = t at hexec tpos tcut
  exact ⟨_, hexec, tcut, tpos.trans hpos⟩

/-- The MARK of port p that a frame brings. -/
def markOf (p : Nat) (f : Frame) : MarkSt :=
  { port := p, hops := discA f % 256, tag := discB f % 65536, typ := fld (discB f) 19 16, src := at_ f.payload 12 4 % 2 ^ 18 }

theorem discoverMark_waits (hport : s.onPort p = true) (hcls : f.cls = 1) (hlisted : frameListed f = true) (hok : checkOk f = true)
    (hseq : at_ f.payload 0 1 ≠ 9 → s.sequences = true) :
    ∃ t, exec (.discoverMark (s.via p cb) f) s = .next t ∧ s.onlyChanges [.reply, .out, .ports, .host, .glean, .expo, .tree] t
      ∧ t.tree.marks = s.tree.marks ++ [markOf p f] := by
  have hgo : s.begin.frameWaits f = false := by
    by_cases h9 : at_ f.payload 0 1 = 9
    · simp [State.frameWaits, sequenced, h9]
    · exact frameWaits_of_sequences (hseq h9)
  obtain ⟨v, hmet, hlocal⟩ := onLocal_meets (s := s.begin) (cb := cb) (fun s' => s'.ifChecked (s.via p cb) f fun s' => s'.markIn p f) hport hcls hlisted hgo
  have hexec : exec (.discoverMark (s.via p cb) f) s = .next { (v.markIn p f).flush with pending := s.pending } :=
    runL_next_eq (f := fun s' => s'.onLocal (s.via p cb) f fun s' => s'.ifChecked (s.via p cb) f fun s' => s'.markIn p f)
      (hlocal.trans (ifChecked_of_ok hok _ _))
  have hmark : v.onlyChanges [.tree] (v.markIn p f) := only_tree _ _
  have hchanged : s.onlyChanges [.reply, .out, .ports, .host, .glean, .expo, .tree] { (v.markIn p f).flush with pending := s.pending } :=
    nextL_only (only_step hmark (only_one hmet.only))
  have htree := flush_only (v.markIn p f) .tree (by decide)
  have hmarks : (v.markIn p f).flush.tree.marks = s.tree.marks ++ [markOf p f] := by
    rw [htree]
    show v.tree.marks ++ [markOf p f] = _
    rw [hmet.tree]
    rfl
  generalize (v.markIn p f).flush = t at hexec hchanged hmarks
  exact ⟨_, hexec, hchanged, hmarks⟩

theorem heldFails_bare (s : State) (p : Nat) (x : QFrame) : s.sameBare (s.heldFails p x) := by
  unfold State.heldFails
  extract_lets g s1 ps c
  have hs1 : s.sameBare s1 := by
    unfold s1
    split
    · exact consume_bare s _ _
    · exact sameBare_refl s
  split
  · exact sameBare_refl s
  split
  · exact bare_ite (sameBare_trans hs1 (giveKid_bare s1 _ _ _)) (bare_ite (sameBare_trans hs1 (sendUp_bare s1 _ _ _ _ _ _ _)) hs1)
  · exact sameBare_trans hs1 (contribute_bare s1 _ _ _ _ _ _ _)

theorem held_of_bare (h : s.sameBare t) (hlink : (s.port p).link ≠ .lost) : (t.port p).held = (s.port p).held := by
  have hbare := bare_port h p
  have hsame : (t.port p).link = (s.port p).link := (congrArg PortSt.link hbare :)
  have hheld : (if (t.port p).link = .lost then [] else (t.port p).held) = if (s.port p).link = .lost then [] else (s.port p).held :=
    (congrArg PortSt.held hbare :)
  rwa [hsame, if_neg hlink, if_neg hlink] at hheld

theorem heldFramesTimeout_empties (hport : s.onPort p = true) (hlost : (s.port p).lostAt = some w) (hover : s.tree.tResp * ttMs ≤ s.clk.wall - w) :
    ∃ t, exec (.heldFramesTimeout p) s = .next t ∧ (t.port p).held = [] := by
  obtain ⟨hruns, hp4, hlen, hlink⟩ := onPort_parts hport
  have hp : p < s.begin.ports.length := by show p < s.ports.length; omega
  have hexec : exec (.heldFramesTimeout p) s = .next { (s.begin.heldTimeout p).flush with pending := s.pending } :=
    (runCoreL_of_runs hruns).trans (runL_next_eq (f := fun s => s.heldTimeout p) rfl)
  have hbare : (s.begin.updPort p fun q => { q with held := [] }).sameBare (s.begin.heldTimeout p) := by
    unfold State.heldTimeout
    rw [show (s.begin.port p).lostAt = some w from hlost]
    dsimp only
    rw [if_neg (by simpa [State.since] using hover)]
    exact foldl_bare (fun u x => heldFails_bare u p x) _ _
  have hself := updPort_port_self s.begin p (fun q => { q with held := [] }) hp
  have hheld := held_of_bare (p := p) (sameBare_trans hbare (flush_bare _)) (by
    rw [hself]
    show (s.port p).link ≠ .lost
    rw [hlink]
    decide)
  rw [hself] at hheld
  generalize (s.begin.heldTimeout p).flush = t at hexec hheld
  exact ⟨_, hexec, hheld⟩

theorem heldFramesTimeout_early (hport : s.onPort p = true) (hquiet : s.quiet = true) (hlost : (s.port p).lostAt = some w)
    (hearly : s.clk.wall - w < s.tree.tResp * ttMs) (hidle : s.expo.state = .idle) :
    exec (.heldFramesTimeout p) s = .next { s with reply := none, out := [] } := by
  have hstill : s.begin.heldTimeout p = s.begin := by
    unfold State.heldTimeout
    rw [show (s.begin.port p).lostAt = some w from hlost]
    exact if_pos (by simpa [State.since] using hearly)
  have hexec : exec (.heldFramesTimeout p) s = .next { s.begin.flush with pending := s.pending } :=
    (runCoreL_of_runs (onPort_parts hport).1).trans (runL_next_eq (f := fun s => s.heldTimeout p) hstill)
  have hflush : s.begin.flush = s.begin := by
    rw [flush_of_quiet (s := s.begin) hquiet, State.freeExposure, show s.begin.expo.state = .idle from hidle]
    rfl
  rw [hexec, hflush]
  rfl

/-! ### Takeover -/

/-- The tree's state of a standby that takes position 0. -/
def State.takenOver (s : State) : State :=
  { s with tree := { s.tree with
    inCharge := true, alias_ := if s.tree.valid then some s.tree.pos else none, pos := 0
    reversal := if s.tree.valid then some (1, 262143) else s.tree.reversal
    cutBy := false, lastStrobe := max s.tree.lastStrobe (s.now + s.strobeLeadTt) } }

theorem takeOver_place (s : State) : s.takenOver.keepsPlace false s.takeOver := by
  unfold State.takeOver
  extract_lets own path ports had tree s1 s2 s3
  have hs2 : s.takenOver.keepsPlace false s2 := place_step (place_foldl (fun u h => place_sendTo u _) _ _) (place_of_only (schedule_only _))
  have hs3 : s.takenOver.keepsPlace false s3 := place_ite (place_step (place_joinTops _) hs2) hs2
  exact place_step (place_event _ _ _) (place_step (place_ledger _ _ _ _) (place_step (place_deliverHeld _)
    (place_step (place_of_only (trackCut_only _)) hs3)))

theorem takeover_takes (hdue : s.takeoverDue = true) : ∃ t, exec .takeover s = .next t ∧ t.tree.inCharge = true ∧ t.tree.pos = 0 ∧ t.isRoot = true
    ∧ t.tree.alias_ = (if s.tree.valid then some s.tree.pos else none) := by
  obtain ⟨hhost, hruns⟩ : s.hasHost = true ∧ s.coreRuns = true := by
    simp only [State.takeoverDue, State.restricted, Bool.and_eq_true] at hdue
    obtain ⟨⟨⟨hhost, -⟩, hreach⟩, -⟩ := hdue
    exact ⟨hhost, (reachable_parts hreach).2⟩
  have hexec : exec .takeover s = .next { s.begin.takeOver.flush with pending := s.pending } := (runCoreL_of_runs hruns).trans (runL_when_next hdue)
  have hplace := place_step (place_flush _) (takeOver_place s.begin)
  generalize s.begin.takeOver.flush = t at hexec hplace
  have hn := hplace.numbering
  simp only [TreeSt.numbering, Prod.mk.injEq] at hn
  obtain ⟨hpos, -, -, -, -, -, -, hcharge, halias, -⟩ := hn
  have hroot : t.isRoot = true := by
    have hident : t.ident = s.ident := hplace.ident
    unfold State.isRoot State.hasHost
    rw [hident, hcharge]
    rw [State.hasHost] at hhost
    rw [hhost]
    simp [State.takenOver]
  exact ⟨_, hexec, hcharge, hpos, hroot, halias⟩

/-- Settles O53: the place of a device and its tables of routes and attachments are kept by all that follows a change of them. -/
theorem lossesRoutesAndTakeover : Obligations.LossesRoutesAndTakeover := by
  intro s p w cb f hport hquiet hcls hlisted
  refine ⟨fun _ hok hseq hin hroot hhost hen hready hnone hlost => discoverLost_reports hin hcls hlisted hok hseq hroot hhost hen hready hnone hlost,
    fun htyp hok hin hroot hhost hen hready => faultFrameReceive_reports hin hcls hlisted hok htyp hroot hhost hen hready,
    fun _ hok hseq hin hroot hactive => discoverAttach_waits hin hcls hlisted hok hseq hroot hactive,
    fun _ hok hseq hin hroot hactive hpos hroom => discoverAttach_attaches hin hcls hlisted hok hseq hroot hactive hpos hroom,
    fun _ hok hseq hvalid hroot hup => discoverCut_marks hport hcls hlisted hok hseq hvalid hroot hup, fun _ hok hseq hin hrev => ?_,
    fun _ hok hseq => discoverMark_waits hport hcls hlisted hok hseq,
    fun hlost => ⟨heldFramesTimeout_empties hport hlost, heldFramesTimeout_early hport hquiet hlost⟩, takeover_takes⟩
  obtain ⟨t, hexec, hroutes⟩ := discoverRoute_sets (cb := cb) hin hcls hlisted hok hseq hrev
  refine ⟨fun hset hroom => ⟨t, hexec, ?_⟩, fun hclear => ⟨t, hexec, ?_⟩⟩
  · rw [hroutes, hset]
    unfold State.routesAfter
    dsimp only
    rw [if_neg (by decide), if_neg (Nat.not_le.mpr ((List.length_filter_le _ _).trans_lt hroom))]
    rfl
  · rw [hroutes, hclear]
    rfl

end Sys2Proof.Machine
end

section
/-!
The on-test of a switch (05 R133): what a step of a test leaves of the cells and of the diagnostics.
-/
namespace Sys2Proof.Machine

-- one proof at a time: these proofs share the equations of the operations they unfold
set_option Elab.async false

variable {s t u : State} {i : Instr} {n w ua uv : Nat}

/-! ### What the switches leave of a cell -/

/-- The results of a cell's tests. -/
def CellSt.results (c : CellSt) : Ent × Ent × Bool := (c.rPath, c.rOn, c.excluded)

/-- Every cell has the results it had. -/
def State.sameResults (s t : State) : Prop := t.cells.map CellSt.results = s.cells.map CellSt.results

theorem cell_results (h : s.sameResults t) (n : Nat) : (t.cell n).results = (s.cell n).results := by
  have hget (u : State) : (u.cell n).results = (u.cells.map CellSt.results).getD (n - 1) CellSt.reset.results := by
    simp only [State.cell, List.getD_eq_getElem?_getD, List.getElem?_map]
    cases u.cells[n - 1]? <;> rfl
  rw [hget, hget, h]

theorem switches_results (s : State) : s.sameResults s.switches := by
  have hkeep (c : CellSt) (now wall : Nat) (b bleed : Bool) : (c.setSwitch now wall b bleed).results = c.results := by
    unfold CellSt.setSwitch
    dsimp only
    split <;> rfl
  refine List.ext_getElem (by simp [State.switches, State.mapCells]) fun i _ _ => ?_
  simp [State.switches, State.mapCells, hkeep]

theorem balanceDone_results (s : State) : s.sameResults s.balanceDone := by
  unfold State.balanceDone
  split
  · exact switches_results _
  · rfl

theorem updCell_cell_self (hlen : s.cells.length = 48) (h1 : 1 ≤ n) (h48 : n ≤ 48) (f : CellSt → CellSt) : (s.updCell n f).cell n = f (s.cell n) := by
  have hlt : n - 1 < s.cells.length := by omega
  unfold State.updCell State.cell updAt
  rw [if_neg (by omega)]
  simp [List.getD_eq_getElem?_getD, hlt]

/-! ### Steps -/

theorem balanceDone_only (s : State) : s.onlyChanges [.bal, .cells] s.balanceDone := (balanceDone_settles s).1

/-- A test that ends: the switches take their states, and balancing may be complete. -/
theorem test_ends {ps : List Part} (hexec : exec i s = .next { u.switches.balanceDone with pending := s.pending }) (honly : s.begin.onlyChanges ps u)
    (hps : ∀ p ∈ [Part.reply, .out, .cells, .bal], p ∈ ps := by decide) :
    ∃ t, exec i s = .next t ∧ t.diag = u.diag ∧ t.fault = u.fault ∧ (∀ n, (t.cell n).results = (u.cell n).results) ∧ s.onlyChanges ps t := by
  have hsettled := only_step (balanceDone_only u.switches) (only_one (ps := [.bal, .cells]) (switches_only u))
  have hchanged : s.onlyChanges ps { u.switches.balanceDone with pending := s.pending } :=
    next_only (only_step hsettled honly fun p hp => hps p (by revert p; decide)) fun p hp => hps p (by revert p; decide)
  have hdiag : u.switches.balanceDone.diag = u.diag := hsettled .diag (by decide)
  have hfault : u.switches.balanceDone.fault = u.fault := hsettled .fault (by decide)
  have hcells (n : Nat) : (u.switches.balanceDone.cell n).results = (u.cell n).results :=
    (cell_results (balanceDone_results _) n).trans (cell_results (switches_results u) n)
  generalize u.switches.balanceDone = t at hexec hchanged hdiag hfault hcells
  exact ⟨_, hexec, hdiag, hfault, hcells, hchanged⟩

theorem startTest_diag (h : s.diag.readLost = []) (x : TestStep) :
    (s.startTest x).diag = { s.diag with steps := s.diag.steps.filter (fun y => !y.over s.clk.tt) ++ [x] } := by
  have hlost : s.diag = { s.diag with readLost := [] } := by rw [← h]
  unfold State.startTest
  rw [h]
  rw [hlost]
  rfl

theorem readingLost_none (h : s.diag.readLost = []) (k st : Nat) : s.readingLost k st = false := by
  unfold State.readingLost
  rw [h]
  rfl

/-! ### The on-test -/

theorem switchOnTestStep_starts (hruns : s.coreRuns = true) (hlost : s.diag.readLost = []) (hdue : s.switchDue n = true) (hv : 150000 ≤ s.testV n) :
    ∃ t, exec (.switchOnTestStep n) s = .next t
      ∧ t.diag = { s.diag with steps := s.diag.steps.filter (fun x => !x.over s.clk.tt) ++ [TestStep.switch n s.clk.tt] }
      ∧ s.onlyChanges [.reply, .out, .diag, .cells] t := by
  have hstep : s.begin.switchStep n = (s.begin.startTest (.switch n s.clk.tt)).switches := if_neg (Int.not_lt.mpr hv)
  have hexec : exec (.switchOnTestStep n) s = .next { s.begin.switchStep n with pending := s.pending } :=
    (runCore_of_runs hruns).trans (run_when_next hdue)
  rw [hstep] at hexec
  have hdiag := startTest_diag (s := s.begin) hlost (.switch n s.clk.tt)
  have honly : s.begin.onlyChanges [.diag] (s.begin.startTest (.switch n s.clk.tt)) := only_diag _ _
  generalize s.begin.startTest _ = u at hexec hdiag honly
  have hswitches := switches_only u
  refine ⟨_, hexec, ?_, next_only (only_step hswitches (only_one honly))⟩
  exact (hswitches .diag (by decide)).trans hdiag

theorem switchSince_of (h : s.diag.steps = [TestStep.switch n w]) : s.switchSince n = some w := by
  unfold State.switchSince
  rw [h]
  simp

theorem swDoneWith_steps (s : State) (n : Nat) : (s.swDoneWith n).diag.steps = s.diag.steps := by
  unfold State.swDoneWith
  dsimp only
  split <;> rfl

theorem swDoneWith_only (s : State) (n : Nat) : s.onlyChanges [.diag] (s.swDoneWith n) := only_ite (only_diag s _) (only_diag s _)

/-- What stands when an on-test whose readings came has ended, before the switches take their states. -/
def State.switchOver (s : State) (n w ua uv : Nat) : State :=
  ((s.switchResult n ua uv).endStep (.switch n w) (some (.rest (tierOf n) (w + 61440)))).swDoneWith n

theorem switchEnd_over (hsteps : s.diag.steps = [TestStep.switch n w]) (hlost : s.diag.readLost = []) :
    s.switchEnd n ua uv = (s.switchOver n w ua uv).switches.balanceDone := by
  unfold State.switchEnd
  rw [switchSince_of hsteps, Option.getD_some]
  dsimp only
  rw [readingLost_none hlost, show w + onTestTt + 20480 = w + 61440 by unfold onTestTt; omega]
  rfl

theorem switchOver_steps (h : (s.switchResult n ua uv).diag.steps = [TestStep.switch n w]) :
    (s.switchOver n w ua uv).diag.steps = [.rest (tierOf n) (w + 61440)] := by
  unfold State.switchOver
  rw [swDoneWith_steps]
  unfold State.endStep
  rw [h]
  simp

theorem switchOver_cells (s : State) (n w ua uv : Nat) : (s.switchOver n w ua uv).cells = (s.switchResult n ua uv).cells :=
  swDoneWith_only _ _ .cells (by decide)

theorem switchOver_fault (s : State) (n w ua uv : Nat) : (s.switchOver n w ua uv).fault = (s.switchResult n ua uv).fault :=
  swDoneWith_only _ _ .fault (by decide)

theorem switchOver_only {ps : List Part} (h : s.onlyChanges ps (s.switchResult n ua uv)) (hps : Part.diag ∈ ps := by decide) :
    s.onlyChanges ps (s.switchOver n w ua uv) := by
  have hdiag (p : Part) (hp : p ∈ [Part.diag]) : p ∈ ps := by
    rw [List.mem_singleton.mp hp]
    exact hps
  exact only_step (swDoneWith_only _ n) (only_step (only_diag _ _) h hdiag) hdiag

theorem switchOnTestEnd_exec (hruns : s.coreRuns = true) (hlost : s.diag.readLost = []) (hsteps : s.diag.steps = [TestStep.switch n w])
    (hover : w + 40960 ≤ s.clk.tt) :
    exec (.switchOnTestEnd n ua uv) s = .next { (s.begin.switchOver n w ua uv).switches.balanceDone with pending := s.pending } := by
  have hlasted : s.lasted (s.switchSince n) onTestTt = true := by
    rw [switchSince_of hsteps]
    exact decide_eq_true hover
  rw [← switchEnd_over (s := s.begin) hsteps hlost]
  exact (runCore_of_runs hruns).trans (run_when_next hlasted)

theorem switchResult_good (hua : 5000 ≤ ua) (huv : uv ≤ 3 * ua) (hprev : (s.cell n).prevPath = 0) : s.switchResult n ua uv
    = s.writePath n (sat 0xFFFFFF (roundDiv ((s.testV n).toNat * 10000) ua).toNat) (sat 0xFFFF (roundDiv (uv * 1000) ua).toNat) := by
  unfold State.switchResult
  dsimp only
  rw [if_neg (by omega), if_neg (by omega), hprev]
  rfl

theorem switchOnTestEnd_measures (hruns : s.coreRuns = true) (hlost : s.diag.readLost = []) (hlen : s.cells.length = 48) (h1 : 1 ≤ n) (h48 : n ≤ 48)
    (hsteps : s.diag.steps = [TestStep.switch n w]) (hover : w + 40960 ≤ s.clk.tt) (hua : 5000 ≤ ua) (huv : uv ≤ 3 * ua)
    (hprev : (s.cell n).prevPath = 0) :
    ∃ t, exec (.switchOnTestEnd n ua uv) s = .next t ∧ t.diag.steps = [.rest (tierOf n) (w + 61440)]
      ∧ (t.cell n).rPath = { v := min 0xFFFFFF (roundDiv ((s.testV n).toNat * 10000) ua).toNat, ok := true }
      ∧ (t.cell n).rOn = { v := min 0xFFFF (roundDiv (uv * 1000) ua).toNat, ok := true }
      ∧ s.onlyChanges [.reply, .out, .diag, .cells, .bal] t := by
  have hresult := switchResult_good (s := s.begin) (n := n) hua huv hprev
  have hwritten : s.begin.onlyChanges [.cells] (s.begin.switchResult n ua uv) := by
    rw [hresult]
    exact updCell_only _ _ _
  obtain ⟨t, hexec, hdiag, -, hcells, hchanged⟩ := test_ends (switchOnTestEnd_exec hruns hlost hsteps hover)
    (switchOver_only (ps := [.reply, .out, .diag, .cells, .bal]) (only_one hwritten))
  have hcell := hcells n
  unfold State.cell at hcell
  rw [switchOver_cells] at hcell
  change (t.cell n).results = ((s.begin.switchResult n ua uv).cell n).results at hcell
  rw [hresult, State.writePath, updCell_cell_self (s := s.begin) hlen h1 h48] at hcell
  simp only [CellSt.results, Prod.mk.injEq, sat_eq_min] at hcell
  obtain ⟨hpath, hon, -⟩ := hcell
  exact ⟨t, hexec, by rw [hdiag]; exact switchOver_steps ((congrArg DiagSt.steps (hwritten .diag (by decide))).trans hsteps), hpath, hon, hchanged⟩

/-- What an on-test without a current leaves. -/
theorem switchResult_bad (hua : ua < 5000) : s.switchResult n ua uv = (s.switchFault n).updCell n fun c => { c with rPath := Ent.none, rOn := Ent.none } := by
  unfold State.switchResult
  dsimp only
  rw [if_pos hua]

theorem switchFault_only (s : State) (n : Nat) : s.onlyChanges [.diag, .cells, .fault] (s.switchFault n) :=
  only_step (detail_only _ _ _ _ _) (only_step (raise_only _ _ _) (only_one (updCell_only s n _)))

theorem switchFault_parts (hlen : s.cells.length = 48) (h1 : 1 ≤ n) (h48 : n ≤ 48) (hmode : s.mode.mode ∉ [.ship, .keep]) :
    (s.switchFault n).diag.steps = s.diag.steps ∧ ((s.switchFault n).cell n).excluded = true ∧ (s.switchFault n).cells.length = 48
      ∧ (s.switchFault n).fault.evq = s.fault.evq ++ [{ id := 5, item := n, time := s.clk.tt, mode := s.mode.mode.code }] := by
  have hcell := updCell_cell_self hlen h1 h48 fun c => { c with excluded := true }
  have hmarked := updCell_only s n fun c => { c with excluded := true }
  have hlength : (s.updCell n fun c => { c with excluded := true }).cells.length = 48 := by
    unfold State.updCell
    split
    · exact hlen
    · exact (updAt_length _ _ _).trans hlen
  unfold State.switchFault
  generalize (s.updCell n fun c => { c with excluded := true }) = u at hcell hmarked hlength
  have hmodeU : u.mode = s.mode := hmarked .mode (by decide)
  have hclk : u.clk = s.clk := hmarked .clk (by decide)
  have hraised := raise_only u 5 n
  refine ⟨?_, ?_, ?_, ?_⟩
  · show (u.raise 5 n).diag.steps = s.diag.steps
    rw [hraised .diag (by decide), hmarked .diag (by decide)]
  · show ((u.raise 5 n).cells.getD (n - 1) CellSt.reset).excluded = true
    rw [hraised .cells (by decide)]
    exact congrArg CellSt.excluded hcell
  · exact (congrArg List.length (hraised .cells (by decide))).trans hlength
  · show (u.raise 5 n).fault.evq = _
    unfold State.raise State.now
    rw [if_neg (by unfold State.inMode; rw [hmodeU]; simpa using hmode), hmodeU, hclk, hmarked .fault (by decide)]

theorem switchOnTestEnd_faults (hruns : s.coreRuns = true) (hlost : s.diag.readLost = []) (hlen : s.cells.length = 48) (h1 : 1 ≤ n) (h48 : n ≤ 48)
    (hsteps : s.diag.steps = [TestStep.switch n w]) (hover : w + 40960 ≤ s.clk.tt) (hua : ua < 5000) (hmode : s.mode.mode ∉ [.ship, .keep]) :
    ∃ t, exec (.switchOnTestEnd n ua uv) s = .next t ∧ t.diag.steps = [.rest (tierOf n) (w + 61440)] ∧ (t.cell n).rPath.ok = false
      ∧ (t.cell n).rOn.ok = false ∧ (t.cell n).excluded = true ∧ t.fault.evq = s.fault.evq ++ [{ id := 5, item := n, time := s.clk.tt, mode := s.mode.mode.code }]
      ∧ s.onlyChanges [.reply, .out, .diag, .cells, .bal, .fault] t := by
  have hresult := switchResult_bad (s := s.begin) (n := n) (uv := uv) hua
  have hfaulted := switchFault_only s.begin n
  obtain ⟨hkept, hexcluded, hlenU, hevq⟩ := switchFault_parts (s := s.begin) hlen h1 h48 hmode
  generalize s.begin.switchFault n = u at hresult hfaulted hkept hexcluded hlenU hevq
  have hblank := updCell_only u n fun c => { c with rPath := Ent.none, rOn := Ent.none }
  have hwritten : s.begin.onlyChanges [.diag, .cells, .fault] (s.begin.switchResult n ua uv) := by
    rw [hresult]
    exact only_step hblank hfaulted
  obtain ⟨t, hexec, hdiag, hfault, hcells, hchanged⟩ := test_ends (switchOnTestEnd_exec (ua := ua) (uv := uv) hruns hlost hsteps hover)
    (switchOver_only (ps := [.reply, .out, .diag, .cells, .bal, .fault]) (only_one hwritten))
  have hcell := hcells n
  unfold State.cell at hcell
  rw [switchOver_cells] at hcell
  change (t.cell n).results = ((s.begin.switchResult n ua uv).cell n).results at hcell
  rw [hresult, updCell_cell_self hlenU h1 h48] at hcell
  simp only [CellSt.results, Prod.mk.injEq] at hcell
  obtain ⟨hpath, hon, hex⟩ := hcell
  rw [switchOver_fault, hresult, hblank .fault (by decide)] at hfault
  refine ⟨t, hexec, ?_, by rw [hpath]; rfl, by rw [hon]; rfl, hex.trans hexcluded, by rw [hfault]; exact hevq, hchanged⟩
  rw [hdiag]
  exact switchOver_steps (by rw [hresult, hblank .diag (by decide), hkept]; exact hsteps)

end Sys2Proof.Machine
end

section
/-!
Open wires (05 R135–R137).
-/
namespace Sys2Proof.Machine

-- one proof at a time: these proofs share the equations of the operations they unfold
set_option Elab.async false

variable {s t u : State} {n w : Nat} {fall below above : Int}

theorem openWireTestStep_starts (hruns : s.coreRuns = true) (hlost : s.diag.readLost = []) (hdue : s.wireDue n = true) :
    exec (.openWireTestStep n) s = .next { s with reply := none, out := [], diag :=
      { s.diag with steps := s.diag.steps.filter (fun x => !x.over s.clk.tt) ++ [TestStep.wire n s.clk.tt] } } := by
  have hexec : exec (.openWireTestStep n) s = .next { s.begin.startTest (.wire n s.clk.tt) with pending := s.pending } :=
    (runCore_of_runs hruns).trans (run_when_next hdue)
  have hdiag := startTest_diag (s := s.begin) hlost (.wire n s.clk.tt)
  have hstart : s.begin.startTest (.wire n s.clk.tt) = { s.begin with diag := (s.begin.startTest (.wire n s.clk.tt)).diag } := rfl
  rw [hexec, hstart, hdiag]
  rfl

theorem wireSince_of (h : s.diag.steps = [TestStep.wire n w]) : s.wireSince n = some w := by
  unfold State.wireSince
  rw [h]
  simp

/-- The step of an open-wire test is over. -/
def State.wireRests (s : State) (n w : Nat) : State := s.endStep (.wire n w) (some (.rest (tierOf n) (w + 40960)))

theorem wireRests_steps (h : s.diag.steps = [TestStep.wire n w]) : (s.wireRests n w).diag.steps = [.rest (tierOf n) (w + 40960)] := by
  unfold State.wireRests State.endStep
  rw [h]
  simp

/-- The wires that an earlier test of cell n suspected. -/
def State.suspected (s : State) (n : Nat) : List Nat := ((s.diag.suspects.find? (fun p => p.1 = n)).map Prod.snd).getD []

/-- The cell's wires fell, so none of them is suspected or open. -/
def State.wireFell (s : State) (n : Nat) : State :=
  { s with diag := { s.diag with
    suspects := s.diag.suspects.filter (fun p => p.1 != n), openWires := s.diag.openWires.filter (fun j => j != n && j + 1 != n) } }

/-- The wires ws are suspected by the test of cell n. -/
def State.suspecting (s : State) (n : Nat) (ws : List Nat) : State :=
  { s with diag := { s.diag with suspects := (n, ws) :: s.diag.suspects.filter (fun p => p.1 != n) } }

theorem wireRests_only (s : State) (n w : Nat) : s.onlyChanges [.diag] (s.wireRests n w) := only_diag s _

theorem wireFell_only (s : State) (n : Nat) : s.onlyChanges [.diag] (s.wireFell n) := only_diag s _

theorem suspecting_only (s : State) (n : Nat) (ws : List Nat) : s.onlyChanges [.diag] (s.suspecting n ws) := only_diag s _

/-- A test that suspects wires: those suspected twice are open. -/
def State.wireSuspects (s : State) (n : Nat) (ws : List Nat) : State :=
  let sure := ws.filter (s.suspected n).contains
  if sure.isEmpty then s.suspecting n ws else (sure.foldl (fun s j => s.confirmWire j) (s.suspecting n ws)).owDoneWith n

theorem wireEnd_parts (hlost : s.diag.readLost = []) (hsteps : s.diag.steps = [TestStep.wire n w]) : s.wireEnd n fall below above
    = (if fall ≤ 150000 then ((s.wireRests n w).wireFell n).owDoneWith n
      else (s.wireRests n w).wireSuspects n (s.namedWires n below above)).switches.balanceDone := by
  have hgone : (s.wireTiers n).any (fun t => s.readingLost t w) = false := by
    simp [readingLost_none hlost]
  unfold State.wireEnd
  rw [wireSince_of hsteps, Option.getD_some]
  dsimp only
  rw [hgone, show w + wireTt = w + 40960 by unfold wireTt; omega]
  rfl

theorem openWireTestEnd_exec (hruns : s.coreRuns = true) (hsteps : s.diag.steps = [TestStep.wire n w]) (hover : w + 20480 ≤ s.clk.tt) :
    exec (.openWireTestEnd n fall below above) s = .next { s.begin.wireEnd n fall below above with pending := s.pending } := by
  have hlasted : s.lasted (s.wireSince n) 20480 = true := by
    rw [wireSince_of hsteps]
    exact decide_eq_true hover
  exact (runCore_of_runs hruns).trans (run_when_next hlasted)

theorem owDoneWith_parts (s : State) (n : Nat) : (s.owDoneWith n).diag.steps = s.diag.steps ∧ (s.owDoneWith n).diag.suspects = s.diag.suspects
    ∧ (s.owDoneWith n).diag.openWires = s.diag.openWires := by
  unfold State.owDoneWith
  dsimp only
  split <;> exact ⟨rfl, rfl, rfl⟩

theorem owDoneWith_only (s : State) (n : Nat) : s.onlyChanges [.diag] (s.owDoneWith n) := only_ite (only_diag s _) (only_diag s _)

theorem openWireTestEnd_falls (hruns : s.coreRuns = true) (hlost : s.diag.readLost = []) (hsteps : s.diag.steps = [TestStep.wire n w])
    (hover : w + 20480 ≤ s.clk.tt) (hfall : fall ≤ 150000) (hnone : s.diag.openWires = []) :
    ∃ t, exec (.openWireTestEnd n fall below above) s = .next t ∧ t.diag.steps = [.rest (tierOf n) (w + 40960)] ∧ t.diag.openWires = []
      ∧ (∀ p ∈ t.diag.suspects, p.1 ≠ n) ∧ s.onlyChanges [.reply, .out, .diag, .cells, .bal] t := by
  have hexec := openWireTestEnd_exec (fall := fall) (below := below) (above := above) hruns hsteps hover
  rw [wireEnd_parts (s := s.begin) hlost hsteps, if_pos hfall] at hexec
  have hfell : s.begin.onlyChanges [.reply, .out, .diag, .cells, .bal] (((s.begin.wireRests n w).wireFell n).owDoneWith n) :=
    only_step (owDoneWith_only _ n) (only_step (wireFell_only _ n) (only_one (wireRests_only _ n w)))
  obtain ⟨t, hnext, hdiag, -, -, hchanged⟩ := test_ends hexec hfell
  obtain ⟨hkept, hsus, hopen⟩ := owDoneWith_parts ((s.begin.wireRests n w).wireFell n) n
  rw [← hdiag] at hkept hsus hopen
  refine ⟨t, hnext, hkept.trans (wireRests_steps (s := s.begin) hsteps), hopen.trans ?_, fun p hp => ?_, hchanged⟩
  · show s.diag.openWires.filter _ = []
    rw [hnone]
    rfl
  · rw [hsus] at hp
    simpa using (List.mem_filter.mp hp).2

/-- A first test suspects alone. -/
theorem wireSuspects_first {ws : List Nat} (h : s.diag.suspects = []) : s.wireSuspects n ws = s.suspecting n ws := by
  have hnone : ws.filter (s.suspected n).contains = [] := by
    unfold State.suspected
    rw [h]
    simp
  unfold State.wireSuspects
  rw [hnone]
  rfl

theorem openWireTestEnd_suspects (hruns : s.coreRuns = true) (hlost : s.diag.readLost = []) (hsteps : s.diag.steps = [TestStep.wire n w])
    (hover : w + 20480 ≤ s.clk.tt) (hfall : 150000 < fall) (hnone : s.diag.openWires = []) (hfirst : s.diag.suspects = []) :
    ∃ t, exec (.openWireTestEnd n fall below above) s = .next t ∧ t.diag.openWires = []
      ∧ t.diag.suspects = [(n, s.namedWires n below above)] ∧ t.fault = s.fault := by
  have hexec := openWireTestEnd_exec (fall := fall) (below := below) (above := above) hruns hsteps hover
  rw [wireEnd_parts (s := s.begin) hlost hsteps, if_neg (Int.not_le.mpr hfall), wireSuspects_first (s := s.begin.wireRests n w) hfirst] at hexec
  obtain ⟨t, hnext, hdiag, hfault, -, -⟩ := test_ends (ps := [.reply, .out, .diag, .cells, .bal]) hexec
    (only_step (suspecting_only _ n _) (only_one (wireRests_only _ n w)))
  refine ⟨t, hnext, by rw [hdiag]; exact hnone, ?_, hfault⟩
  rw [hdiag]
  show (n, s.namedWires n below above) :: s.diag.suspects.filter _ = _
  rw [hfirst]
  rfl

/-- Wire j is the one open wire. -/
def State.oneOpen (s : State) (j : Nat) : State := { s with diag := { s.diag with openWires := [j] } }

theorem confirmWire_first {j : Nat} (hnone : s.diag.openWires = []) :
    s.confirmWire j = ((s.oneOpen j).raiseLevel s 3 j).detail 3 j 8 (if j = 0 then 1 else tierOf j) := by
  unfold State.confirmWire
  rw [hnone, if_neg (by simp), List.nil_append, List.mergeSort_singleton]
  rfl

theorem oneOpen_rises {j : Nat} (hnone : s.diag.openWires = []) (hmode : s.mode.mode ∉ [.ship, .keep]) :
    ((s.oneOpen j).raiseLevel s 3 j).fault.evq = s.fault.evq ++ [{ id := 3, item := j, time := s.clk.tt, mode := s.mode.mode.code }] := by
  have hrises : ((s.oneOpen j).rawFlag 3 && !s.rawFlag 3) = true := by
    simp [State.rawFlag, State.oneOpen, hnone]
  unfold State.raiseLevel State.raise
  rw [if_pos hrises, if_neg (by simpa [State.inMode, State.oneOpen] using hmode)]
  rfl

theorem confirmWire_opens {j : Nat} (hnone : s.diag.openWires = []) (hmode : s.mode.mode ∉ [.ship, .keep]) :
    (s.confirmWire j).diag.openWires = [j] ∧ s.onlyChanges [.diag, .fault] (s.confirmWire j)
      ∧ (s.confirmWire j).fault.evq = s.fault.evq ++ [{ id := 3, item := j, time := s.clk.tt, mode := s.mode.mode.code }] := by
  have hraised := raiseLevel_only (s.oneOpen j) s 3 j
  have hevq := oneOpen_rises (j := j) hnone hmode
  rw [confirmWire_first hnone]
  have honly : s.onlyChanges [.diag, .fault] ((s.oneOpen j).raiseLevel s 3 j) := only_step hraised (only_one (only_diag s _))
  have hdiag : ((s.oneOpen j).raiseLevel s 3 j).diag.openWires = [j] := congrArg DiagSt.openWires (hraised .diag (by decide))
  generalize (s.oneOpen j).raiseLevel s 3 j = u at hevq honly hdiag
  exact ⟨hdiag, only_step (detail_only u 3 j 8 _) honly, hevq⟩

theorem wireSuspects_again (h : s.diag.suspects = [(n, [n])]) : s.wireSuspects n [n] = ((s.suspecting n [n]).confirmWire n).owDoneWith n := by
  have hsure : [n].filter (s.suspected n).contains = [n] := by
    unfold State.suspected
    rw [h]
    simp
  unfold State.wireSuspects
  rw [hsure]
  rfl

theorem openWireTestEnd_confirms (hruns : s.coreRuns = true) (hlost : s.diag.readLost = []) (hsteps : s.diag.steps = [TestStep.wire n w])
    (hover : w + 20480 ≤ s.clk.tt) (hfall : 150000 < fall) (habove : 150000 < above) (hbelow : below ≤ 150000) (hnone : s.diag.openWires = [])
    (hagain : s.diag.suspects = [(n, [n])]) (hmode : s.mode.mode ∉ [.ship, .keep]) :
    ∃ t, exec (.openWireTestEnd n fall below above) s = .next t ∧ t.diag.openWires = [n]
      ∧ t.fault.evq = s.fault.evq ++ [{ id := 3, item := n, time := s.clk.tt, mode := s.mode.mode.code }] := by
  have hnamed : s.begin.namedWires n below above = [n] := by
    unfold State.namedWires
    rw [if_neg (Int.not_lt.mpr hbelow), if_pos habove]
    rfl
  have hexec := openWireTestEnd_exec (fall := fall) (below := below) (above := above) hruns hsteps hover
  rw [wireEnd_parts (s := s.begin) hlost hsteps, if_neg (Int.not_le.mpr hfall), hnamed, wireSuspects_again (s := s.begin.wireRests n w) hagain] at hexec
  obtain ⟨hopen, hconfirm, hevq⟩ := confirmWire_opens (s := (s.begin.wireRests n w).suspecting n [n]) (j := n) hnone hmode
  have hconfirmed : s.begin.onlyChanges [.reply, .out, .diag, .cells, .bal, .fault] (((s.begin.wireRests n w).suspecting n [n]).confirmWire n) :=
    only_step hconfirm (only_step (suspecting_only _ n _) (only_one (wireRests_only _ n w)))
  generalize ((s.begin.wireRests n w).suspecting n [n]).confirmWire n = u at hexec hopen hevq hconfirmed
  have hdone := owDoneWith_only u n
  obtain ⟨t, hnext, hdiag, hfault, -, -⟩ := test_ends hexec (only_step hdone hconfirmed)
  refine ⟨t, hnext, ?_, ?_⟩
  · rw [hdiag]
    obtain ⟨-, -, hsame⟩ := owDoneWith_parts u n
    exact hsame.trans hopen
  · rw [hfault, hdone .fault (by decide)]
    exact hevq

end Sys2Proof.Machine
end

section
/-!
The harness check and the window of the resistance table (05 R138–R140, R149–R151).
-/
namespace Sys2Proof.Machine

-- one proof at a time: these proofs share the equations of the operations they unfold
set_option Elab.async false

variable {s t u : State} {n k w v : Nat} {below own above : Int}

/-! ### A harness cell -/

theorem harnessCell_exec (hruns : s.coreRuns = true) (h : (match s.harnessSince n with
      | some st => if st + harnessTt ≤ s.now then s.begin.harnessEnd n st else s.begin.harnessOutput n st [below, own, above] k
      | none => when_ (s.harnessDue n) (fun s => s.harnessStart n) s.begin) = u) :
    exec (.harnessCell n below own above k) s = .next { u with pending := s.pending } :=
  (runCore_of_runs hruns).trans (run_next_eq h)

theorem harnessFrom_eq (s : State) : s.harnessFrom = (s.clk.tt + 20479) / 20480 * 20480 := by
  unfold State.harnessFrom multipleFrom ceilDiv periodOf ratioOf State.now
  simp

/-- No step but recoveries that are over. -/
theorem steps_over (h : s.allFree = true) : s.diag.steps.filter (fun x => !x.over s.clk.tt) = [] := by
  unfold State.allFree at h
  rw [List.filter_eq_nil_iff]
  intro x hx hrun
  simp only [Bool.not_eq_true', List.any_eq_false] at h
  exact h x hx (by simpa [State.now] using hrun)

theorem harnessSince_free (h : s.allFree = true) : s.harnessSince n = none := by
  unfold State.harnessSince
  rw [List.findSome?_eq_none_iff]
  intro x hx
  have hover : x.over s.clk.tt = true := by
    have hnone := List.filter_eq_nil_iff.mp (steps_over h) x hx
    simpa using hnone
  cases x with
  | rest _ _ => rfl
  | switch _ _ => exact absurd hover (by simp [TestStep.over])
  | wire _ _ => exact absurd hover (by simp [TestStep.over])
  | harness _ _ => exact absurd hover (by simp [TestStep.over])

theorem harnessSince_of (h : s.diag.steps = [TestStep.harness n w]) : s.harnessSince n = some w := by
  unfold State.harnessSince
  rw [h]
  simp

/-- The diagnostics when harness cell n begins. -/
def State.harnessBegun (s : State) (n : Nat) : DiagSt :=
  { s.diag with steps := [TestStep.harness n s.harnessFrom], harnessOn := true, hOuts := [] }

theorem harnessStart_eq (hlost : s.diag.readLost = []) (hfree : s.allFree = true) :
    s.harnessStart n = ({ s with diag := s.harnessBegun n } : State).switches := by
  have hdiag := startTest_diag hlost (.harness n s.harnessFrom)
  rw [steps_over hfree] at hdiag
  unfold State.harnessStart
  dsimp only
  rw [hdiag]
  rfl

/-- The tests that may begin: in these modes alone a switch may close. -/
theorem rank1_of_gap {len : Nat} (h : s.gap len = true) : s.rank1 = false := by
  simp only [State.gap, Bool.and_eq_true] at h
  obtain ⟨⟨⟨-, hmode⟩, -⟩, -⟩ := h
  revert hmode
  unfold State.rank1 State.inMode
  cases s.mode.mode <;> decide

/-- In its first tick a harness cell that begins at once, and no other, asks for its switch. -/
theorem harness_asks (now n k : Nat) : TestStep.asks now k (.harness n ((now + 20479) / 20480 * 20480)) = (decide (k = n) && decide (now % 20480 = 0)) := by
  have hle : (now + 20479) / 20480 * 20480 ≤ now ↔ now % 20480 = 0 := by omega
  have hge : now ≤ (now + 20479) / 20480 * 20480 := by omega
  generalize (now + 20479) / 20480 * 20480 = st at hle hge
  unfold TestStep.asks
  by_cases h0 : now % 20480 = 0
  · have hst : st = now := Nat.le_antisymm (hle.mpr h0) hge
    have hlong : 0 < harnessTt := by decide
    have hhalf : 2 ≤ harnessP := by decide
    simp [hst, h0, hlong, hhalf, eq_comm]
  · have hlate : ¬ st ≤ now := fun h => h0 (hle.mp h)
    simp [hlate, h0]

theorem harnessBegun_wants (hgap : s.gap (s.harnessFrom - s.now + harnessTt) = true) (hrun : s.survey.run = none) :
    ({ s with diag := s.harnessBegun n } : State).wantClosed k = (decide (k = n) && s.tierPresent (tierOf n) && decide (s.clk.tt % 20480 = 0)) := by
  have hrank1 : ({ s with diag := s.harnessBegun n } : State).rank1 = false := rank1_of_gap hgap
  have hasks : (s.harnessBegun n).steps.any (TestStep.asks s.clk.tt k) = (decide (k = n) && decide (s.clk.tt % 20480 = 0)) := by
    rw [← harness_asks, ← harnessFrom_eq]
    simp [State.harnessBegun]
  have hrank2 : ({ s with diag := s.harnessBegun n } : State).rank2 k = if (decide (k = n) && decide (s.clk.tt % 20480 = 0)) = true then some true else none := by
    have hquiet : (if ({ s with diag := s.harnessBegun n } : State).bleedOn then s.survey.run else none) = none := by rw [hrun, ite_self]
    unfold State.rank2
    dsimp only
    rw [hquiet]
    exact congrArg (fun b : Bool => if b = true then some true else none) hasks
  have hrank5 : ({ s with diag := s.harnessBegun n } : State).rank5 k = false := by
    simp [State.rank5, State.harnessNowOn, State.harnessBegun]
  unfold State.wantClosed
  rw [hrank1, hrank2, hrank5, show ({ s with diag := s.harnessBegun n } : State).tierPresent (tierOf k) = s.tierPresent (tierOf k) from rfl]
  by_cases hk : k = n
  · subst hk
    by_cases h0 : s.clk.tt % 20480 = 0 <;> simp [h0]
  · simp [hk]

theorem harnessCell_begins (hruns : s.coreRuns = true) (hlost : s.diag.readLost = []) (hlen : s.cells.length = 48) (hdue : s.harnessDue n = true) :
    ∃ t, exec (.harnessCell n below own above k) s = .next t
      ∧ t.diag = { s.diag with steps := [TestStep.harness n ((s.clk.tt + 20479) / 20480 * 20480)], harnessOn := true, hOuts := [] }
      ∧ (s.survey.run = none → 1 ≤ k → k ≤ 48 → (t.cell k).closed = (decide (k = n) && s.tierPresent (tierOf n) && decide (s.clk.tt % 20480 = 0)))
      ∧ s.onlyChanges [.reply, .out, .diag, .cells] t := by
  obtain ⟨hgap, hfree⟩ : s.gap (s.harnessFrom - s.now + harnessTt) = true ∧ s.allFree = true := by
    simp only [State.harnessDue, Bool.and_eq_true] at hdue
    obtain ⟨⟨⟨⟨-, hgap⟩, hfree⟩, -⟩, -⟩ := hdue
    exact ⟨hgap, hfree⟩
  have hexec : exec (.harnessCell n below own above k) s
      = .next { ({ s.begin with diag := s.harnessBegun n } : State).switches with pending := s.pending } := by
    refine harnessCell_exec hruns ?_
    rw [harnessSince_free hfree]
    dsimp only
    rw [when_, if_pos hdue]
    exact harnessStart_eq (s := s.begin) hlost hfree
  have hbegun : s.begin.onlyChanges [.diag] ({ s.begin with diag := s.harnessBegun n } : State) := only_diag _ _
  have hwants := harnessBegun_wants (s := s.begin) (n := n) (k := k) hgap
  have hdiag : ({ s.begin with diag := s.harnessBegun n } : State).diag = { s.diag with
      steps := [TestStep.harness n ((s.clk.tt + 20479) / 20480 * 20480)], harnessOn := true, hOuts := [] } := by
    rw [← harnessFrom_eq]
    rfl
  change s.survey.run = none → State.wantClosed { s.begin with diag := s.harnessBegun n } k = _ at hwants
  have hlenU : ({ s.begin with diag := s.harnessBegun n } : State).cells.length = 48 := hlen
  generalize ({ s.begin with diag := s.harnessBegun n } : State) = u at hexec hbegun hwants hdiag hlenU
  have hswitches := switches_only u
  refine ⟨_, hexec, (hswitches .diag (by decide)).trans hdiag, fun hrun h1 h48 => ?_, next_only (only_step hswitches (only_one hbegun))⟩
  show (u.switches.cell k).closed = _
  rw [switches_cell hlenU h1 h48, setSwitch_closed]
  exact hwants hrun

theorem harnessCell_samples (hruns : s.coreRuns = true) (hsteps : s.diag.steps = [TestStep.harness n w]) (hnone : s.diag.hOuts = [])
    (hearly : s.clk.tt < w + 5672960) (hfrom : w + 389120 ≤ s.streamTap 4) (hto : s.streamTap 4 < w + 5632000) :
    exec (.harnessCell n below own above k) s = .next { s with reply := none, out := [], diag := { s.diag with
      hOuts := [(s.streamTap 4, [clampCell below, clampCell own, clampCell above], s.filteredOf 4 (s.streamTap 4) n k false)] } } := by
  have hlong : harnessTt = 5672960 := by decide
  have hP : harnessP = 327680 := rfl
  have hp4 : periodOf 4 = 20480 := by decide
  refine harnessCell_exec (u := { s.begin with diag := { s.diag with
      hOuts := [(s.streamTap 4, [clampCell below, clampCell own, clampCell above], s.filteredOf 4 (s.streamTap 4) n k false)] } }) hruns ?_
  rw [harnessSince_of hsteps]
  dsimp only
  rw [if_neg (by rw [hlong]; exact Nat.not_le.mpr hearly)]
  have hnew : (decide (s.streamTap 4 < w + harnessP + 3 * periodOf 4) || decide (w + harnessP + 3 * periodOf 4 + 16 * harnessP ≤ s.streamTap 4)
      || s.diag.hOuts.any fun o => o.1 = s.streamTap 4) = false := by
    rw [hnone, decide_eq_false (by omega), decide_eq_false (by omega)]
    rfl
  refine (if_neg (by rw [show s.begin.streamTap 4 = s.streamTap 4 from rfl, show s.begin.diag = s.diag from rfl, hnew]; decide)).trans ?_
  rw [show s.begin.diag.hOuts = [] from hnone]
  rfl

/-- The diagnostics when harness cell n ends, with its estimates e. -/
def State.harnessOver (s : State) (n w : Nat) : State :=
  { s.endStep (.harness n w) none with diag := { (s.endStep (.harness n w) none).diag with
    haDone := n :: s.diag.haDone
    ests := (n, s.harnessEst w n (n - 1), s.harnessEst w n (n + 1), (s.harnessEst w n n).map (fun x => -x)) :: s.diag.ests, hOuts := [] } }

theorem harnessCell_ends (hruns : s.coreRuns = true) (hsteps : s.diag.steps = [TestStep.harness n w]) (hover : w + 5672960 ≤ s.clk.tt) :
    ∃ t, exec (.harnessCell n below own above k) s = .next t ∧ t.diag.steps = [] ∧ t.diag.hOuts = [] ∧ t.diag.haDone = n :: s.diag.haDone
      ∧ (t.diag.ests.head?).map Prod.fst = some n ∧ t.diag.ests.drop 1 = s.diag.ests ∧ s.onlyChanges [.reply, .out, .diag, .cells] t := by
  have hlong : harnessTt = 5672960 := by decide
  have hexec : exec (.harnessCell n below own above k) s = .next { (s.begin.harnessOver n w).switches with pending := s.pending } := by
    refine harnessCell_exec hruns ?_
    rw [harnessSince_of hsteps]
    dsimp only
    rw [if_pos (by rw [hlong]; exact hover)]
    rfl
  have honly : s.begin.onlyChanges [.diag] (s.begin.harnessOver n w) := only_trans (only_diag _ _) (only_diag _ _)
  have hnone : (s.begin.harnessOver n w).diag.steps = [] := by
    show s.diag.steps.filter _ ++ [] = []
    rw [hsteps]
    simp
  obtain ⟨houts, hdone, hfirst, hrest⟩ : (s.begin.harnessOver n w).diag.hOuts = [] ∧ (s.begin.harnessOver n w).diag.haDone = n :: s.diag.haDone
      ∧ ((s.begin.harnessOver n w).diag.ests.head?).map Prod.fst = some n ∧ (s.begin.harnessOver n w).diag.ests.drop 1 = s.diag.ests := ⟨rfl, rfl, rfl, rfl⟩
  generalize s.begin.harnessOver n w = u at *
  have hswitches := switches_only u
  have hdiag : u.switches.diag = u.diag := hswitches .diag (by decide)
  refine ⟨_, hexec, ?_, ?_, ?_, ?_, ?_, next_only (only_step hswitches (only_one honly))⟩
  · exact (congrArg DiagSt.steps hdiag).trans hnone
  · exact (congrArg DiagSt.hOuts hdiag).trans houts
  · exact (congrArg DiagSt.haDone hdiag).trans hdone
  · exact (congrArg (fun d : DiagSt => d.ests.head?.map Prod.fst) hdiag).trans hfirst
  · exact (congrArg (fun d : DiagSt => d.ests.drop 1) hdiag).trans hrest

/-! ### A pass -/

theorem harnessPass_parts (s : State) : s.onlyChanges [.diag, .flash] s.harnessPass ∧ s.harnessPass.diag.harnessOn = false
    ∧ s.harnessPass.diag.haDone = [] ∧ s.harnessPass.diag.ests = [] ∧ s.harnessPass.diag.harnessAt = some s.clk.wall
    ∧ s.harnessPass.diag.rw = s.passTable := by
  unfold State.harnessPass
  extract_lets tab high diag s1
  have hs1 : s.onlyChanges [.diag] s1 := only_diag s _
  have hlogged : s1.onlyChanges [.flash] (high.foldl (fun s j => s.ledger 0x0C j (tab.getD j Ent.none).v) s1) := only_foldl fun u j => ledger_only u _ _ _
  have hdiag := hlogged .diag (by decide)
  refine ⟨only_step hlogged (only_one hs1), ?_⟩
  generalize high.foldl _ s1 = u at hdiag
  have hsame : u.diag = s1.diag := hdiag
  rw [hsame]
  exact ⟨rfl, rfl, rfl, rfl, rfl⟩

theorem harnessPassComplete_writes (hruns : s.coreRuns = true) (hdue : s.passComplete = true) :
    ∃ t, exec .harnessPassComplete s = .next t ∧ t.diag.harnessOn = false ∧ t.diag.haDone = [] ∧ t.diag.ests = []
      ∧ t.diag.harnessAt = some s.clk.wall ∧ t.diag.rw = s.passTable ∧ s.onlyChanges [.reply, .out, .diag, .flash] t := by
  have hexec : exec .harnessPassComplete s = .next { s.begin.harnessPass with pending := s.pending } := (runCore_of_runs hruns).trans (run_when_next hdue)
  obtain ⟨honly, hon, hdone, hests, hat, hrw⟩ := harnessPass_parts s.begin
  generalize s.begin.harnessPass = u at *
  exact ⟨_, hexec, hon, hdone, hests, hat, hrw, next_only (only_one honly)⟩

theorem harnessNow_begins (hreach : s.reachable = true) (hlock : s.mode.mode ≠ .lockout) (hen : s.diag.harnessEn = true) :
    exec .harnessNow s = .next { s with
      out := [], reply := some { status := stOk, value := 0, words := [], bytes := [] }
      diag := { s.diag with harnessOn := true, haDone := [], ests := [] } } := by
  refine (runReg_next hreach hlock (u := { s.begin with diag := { s.diag with harnessOn := true, haDone := [], ests := [] } }) (st := stOk) ?_).trans rfl
  show (stOk, when_ s.diag.harnessEn _ s.begin) = _
  rw [hen]
  rfl

theorem switchNow_begins (hreach : s.reachable = true) (hlock : s.mode.mode ≠ .lockout) (hen : s.diag.switchEn = true) :
    exec .switchNow s = .next { s with
      out := [], reply := some { status := stOk, value := 0, words := [], bytes := [] }
      diag := { s.diag with swNow := true, swDone := [] } } := by
  refine (runReg_next hreach hlock (u := { s.begin with diag := { s.diag with swNow := true, swDone := [] } }) (st := stOk) ?_).trans rfl
  show (stOk, when_ s.diag.switchEn _ s.begin) = _
  rw [hen]
  rfl

/-! ### The window of the table -/

theorem tableDataRead_steps (hreach : s.reachable = true) (hlock : s.mode.mode ≠ .lockout) (hstation : s.mode.station = false) :
    exec .tableDataRead s = .next { s with
      out := []
      reply := some { status := stOk, value := s.tableWord s.diag.index, words := [s.tableWord s.diag.index], bytes := [] }
      diag := { s.diag with index := (s.diag.index + 1) % 256 } } := by
  refine (runWindow_next hreach hlock (u := stepTable s.begin) (v := s.tableWord s.diag.index) ?_).trans rfl
  unfold readTable
  rw [show s.begin.mode.station = false from hstation]
  rfl

theorem tableDataWrite_sets (hreach : s.reachable = true) (hlock : s.mode.mode ≠ .lockout) (hsweep : s.sweep.fn = .stopped) (hbal : s.bal.fn = .stopped)
    (hsurvey : s.survey.fn = .stopped) (hindex : s.diag.index < 49) :
    exec (.tableDataWrite v) s = .next { s with
      out := [], reply := some { status := stOk, value := 0, words := [], bytes := [] }
      diag := { s.diag with rw := s.diag.rw.set s.diag.index { v := v % 2 ^ 20, ok := v.testBit 31 }
                            harnessAt := some s.clk.wall, index := (s.diag.index + 1) % 256 } } := by
  refine (runReg_next hreach hlock (u := stepTable { s.begin with diag := { s.diag with
    rw := s.diag.rw.set s.diag.index { v := v % 2 ^ 20, ok := v.testBit 31 }, harnessAt := some s.clk.wall } }) (st := stOk) ?_).trans rfl
  unfold writeTable
  dsimp only
  rw [show s.begin.sweep.fn = .stopped from hsweep, show s.begin.bal.fn = .stopped from hbal, show s.begin.survey.fn = .stopped from hsurvey,
    if_neg (by decide), if_pos (show s.begin.diag.index < 49 from hindex)]
  rfl

theorem tableDataWrite_busy (hreach : s.reachable = true) (hlock : s.mode.mode ≠ .lockout)
    (hbusy : s.sweep.fn ≠ .stopped ∨ s.bal.fn ≠ .stopped ∨ s.survey.fn ≠ .stopped) :
    exec (.tableDataWrite v) s = .next { s with out := [], reply := some { status := stBusy, value := 0, words := [], bytes := [] } } := by
  refine (runReg_next hreach hlock (u := s.begin) (st := stBusy) ?_).trans rfl
  unfold writeTable
  dsimp only
  exact if_pos (by simpa [State.begin, or_assoc] using hbusy)

/-- Settles O39: a test that ends leaves the cells' results to the test alone, whatever the switches then do. -/
theorem runtimeTestsAndTableWindow : Obligations.RuntimeTestsAndTableWindow := by
  refine ⟨fun s n k w ua uv below own above hruns hlost hlen h1 h48 => ?_, fun s v hreach hlock => ?_⟩
  · exact ⟨switchOnTestStep_starts hruns hlost, switchOnTestEnd_measures hruns hlost hlen h1 h48,
      fun hsteps hover hua _ hmode => switchOnTestEnd_faults hruns hlost hlen h1 h48 hsteps hover hua hmode, openWireTestStep_starts hruns hlost,
      openWireTestEnd_falls hruns hlost, openWireTestEnd_suspects hruns hlost, openWireTestEnd_confirms hruns hlost, harnessCell_begins hruns hlost hlen,
      harnessCell_samples hruns, harnessCell_ends hruns, harnessPassComplete_writes hruns, harnessNow_begins, switchNow_begins⟩
  · exact ⟨tableDataRead_steps hreach hlock, tableDataWrite_sets hreach hlock, tableDataWrite_busy hreach hlock⟩

end Sys2Proof.Machine
end
